-- ==== Sys2Proof/Word.lean ====
section
/-! DEFINITION. The word types of the KGA-2880: registers are 32 bits, s registers and instruction words 64, capabilities
128 and a hidden tag (spec/00 R5, spec/01 R9, spec/08 R183, R187). -/

namespace Sys2Proof

/-- A byte of any memory. -/
abbrev Byte := BitVec 8

/-- A v or k register. -/
abbrev Word := BitVec 32

/-- An s register, a 64-bit pair, or an instruction word. -/
abbrev DWord := BitVec 64

/-- A 128-bit value with the hidden TAG that marks a genuine capability (R9). -/
structure TCap where
  bits : BitVec 128
  tag : Bool
  deriving DecidableEq, Repr

/-- The null capability: all bits zero, TAG clear (R13). -/
def TCap.null : TCap := ⟨0, false⟩

end Sys2Proof
end

