-- ==== Sys2Proof/Machine/Tab.lean ====
section
/-! DEFINITION. Sparse tables of plain data: a list of (key, value) pairs in one canonical form, keys strictly rising and no
value equal to the default an unlisted key reads as. Memories, register files and the tables of units are held so, and
equal tables are equal lists. -/

namespace Sys2Proof.Machine

/-- A sparse table from natural keys; an unlisted key reads as a default the caller names. -/
abbrev Tab (α : Type) := List (Nat × α)

/-- The value at key `n`, `d` when the key is not listed (DESIGN CHOICE, log 1). -/
def tabGet {α : Type} (d : α) : Tab α → Nat → α
  | [], _ => d
  | (k, v) :: t, n => if n = k then v else tabGet d t n

/-- Puts an entry before the first with a greater key. -/
def tabInsert {α : Type} (n : Nat) (v : α) : Tab α → Tab α
  | [] => [(n, v)]
  | (k, w) :: t => if n < k then (n, v) :: (k, w) :: t else (k, w) :: tabInsert n v t

/-- Writes `v` at key `n`, keeping the canonical form: writing the default removes the entry. -/
def tabPut {α : Type} [DecidableEq α] (d : α) (t : Tab α) (n : Nat) (v : α) : Tab α :=
  if v = d then t.filter (fun e => e.1 != n) else tabInsert n v (t.filter (fun e => e.1 != n))

/-- Every key of `t` is above `lo`, keys rise strictly, and no value is the default. -/
def tabWfAbove {α : Type} [DecidableEq α] (d : α) : Option Nat → Tab α → Bool
  | _, [] => true
  | lo, (k, v) :: t => (match lo with | none => true | some l => decide (l < k)) && !decide (v = d) && tabWfAbove d (some k) t

/-- The canonical form of a table. -/
def tabWf {α : Type} [DecidableEq α] (d : α) (t : Tab α) : Bool := tabWfAbove d none t

/-- Changes the value at a key by a function. -/
def tabMod {α : Type} [DecidableEq α] (d : α) (t : Tab α) (n : Nat) (f : α → α) : Tab α :=
  tabPut d t n (f (tabGet d t n))

/-- Writes the default to each of `n` keys from `lo`. -/
def tabClear {α : Type} (t : Tab α) (lo n : Nat) : Tab α :=
  t.filter (fun e => decide (e.1 < lo) || decide (lo + n ≤ e.1))

/-- The bytes at `n` consecutive addresses from `a`. -/
def memBytes (m : Tab Byte) (a : Nat) : Nat → List Byte
  | 0 => []
  | n + 1 => tabGet 0 m a :: memBytes m (a + 1) n

/-- Writes a list of bytes at consecutive addresses from `a`. -/
def memPut (m : Tab Byte) (a : Nat) : List Byte → Tab Byte
  | [] => m
  | b :: bs => memPut (tabPut 0 m a b) (a + 1) bs

/-- The number a little-endian byte list holds (R12, R195). -/
def leNat : List Byte → Nat
  | [] => 0
  | b :: bs => b.toNat + 256 * leNat bs

/-- The `n` bytes of a number, least significant first. -/
def natLe : Nat → Nat → List Byte
  | 0, _ => []
  | n + 1, v => BitVec.ofNat 8 v :: natLe n (v / 256)

/-- Bits [lo + n - 1 : lo] of a number. -/
def bitsAt (v lo n : Nat) : Nat := (v >>> lo) % 2 ^ n

/-- Bit `i` of a number. -/
def bitAt (v i : Nat) : Bool := v.testBit i

/-- The value of a two's-complement field of `n` bits. -/
def signedOf (n v : Nat) : Int := if v % 2 ^ n < 2 ^ (n - 1) then ((v % 2 ^ n : Nat) : Int) else ((v % 2 ^ n : Nat) : Int) - (2 ^ n : Nat)

/-- Applies `f` to entry `n` of a list, when there is one. -/
def listMod {α : Type} (f : α → α) : List α → Nat → List α
  | [], _ => []
  | a :: l, 0 => f a :: l
  | a :: l, n + 1 => a :: listMod f l n

/-- Replaces entry `n` of a list. -/
def listPut {α : Type} (l : List α) (n : Nat) (v : α) : List α := listMod (fun _ => v) l n

/-- The smallest multiple of `k` at or above `n`, over `k`. -/
def ceilDiv (n k : Nat) : Nat := (n + k - 1) / k

/-- The least number below `n` that satisfies `p`. -/
def findBelow (p : Nat → Bool) (n : Nat) : Option Nat := (List.range n).find? p

end Sys2Proof.Machine
end

