-- ==== Sys2Proof/Syntax.lean ====
section
/-! DEFINITION. The instructions of the two code streams, the host commands and the device events: one constructor for
each row of the opcode table. A word of a code stream carries the raw fields of its layout (spec/09 R195 to R211), because
a bad field is not refused by the decoder: it raises ILLEGAL_OPERAND when the word issues (R207). A command names its
window; an event names what it is about, and the data that comes from outside the device. -/

namespace Sys2Proof

/-- The fields of an F-form word but for SEL and OPC (R196). -/
structure FWord where
  d : BitVec 11
  a : BitVec 11
  b : BitVec 11
  g : BitVec 3
  gn : Bool
  ta : Bool
  tb : Bool
  kd : Bool
  ka : Bool
  kb : Bool
  md : BitVec 12
  deriving DecidableEq, Repr

/-- The fields of an X word, the second word of a two-word instruction (R201). -/
structure XWord where
  c : BitVec 11
  tc : Bool
  kc : Bool
  res : BitVec 49
  deriving DecidableEq, Repr

/-- The fields of a P-form word (R204). -/
structure PWord where
  xpop : BitVec 7
  xd : BitVec 8
  xa : BitVec 8
  ximm : BitVec 8
  ypop : BitVec 7
  yd : BitVec 8
  ya : BitVec 8
  yimm : BitVec 8
  deriving DecidableEq, Repr

/-- The fields of an L.mem word but for SEL and OPC (R208). -/
structure MemWord where
  d : BitVec 11
  cap : BitVec 11
  idx : BitVec 11
  g : BitVec 3
  gn : Bool
  ti : Bool
  kc : Bool
  ki : Bool
  ty : BitVec 4
  res : BitVec 3
  scope : BitVec 3
  off : BitVec 4
  deriving DecidableEq, Repr

/-- The fields of an L.br word but for SEL and OPC (R210). -/
structure BrWord where
  g : BitVec 3
  gn : Bool
  div : Bool
  tgt : BitVec 25
  jn : BitVec 24
  deriving DecidableEq, Repr

/-- The fields of an L.imm word but for SEL and OPC (R211). -/
structure ImmWord where
  d : BitVec 11
  kd : Bool
  res : BitVec 10
  imm : BitVec 32
  deriving DecidableEq, Repr

/-- What issues instructions: the split of an age in a rank of a team, or the control thread of a team. A team is named
by the identifier it received when it was placed. -/
inductive Agent where
  | vec (team rank age : Nat)
  | ctl (team : Nat)
  deriving DecidableEq, Repr

/-- The host's AtomicOps (R126). -/
inductive HostAtom where
  | fetchAdd
  | swap
  | cas
  deriving DecidableEq, Repr

/-- The masters that a freeze can stop beside a team (R29, R382). -/
inductive MasterKind where
  | engine
  | island
  | port
  deriving DecidableEq, Repr

/-- The units with power states of their own (R460). -/
inductive PowerUnit where
  | core (n : Nat)
  | cluster (n : Nat)
  | device
  deriving DecidableEq, Repr

/-- What reset meets on the board: the step that fails, if any, and the verified board body with its image keys (R458,
R459). -/
structure BootInput where
  failStep : Option Nat
  body : BitVec 512
  keys : List (List Byte)
  deriving DecidableEq, Repr

/-- One constructor for each row of the opcode table. -/
inductive Instr where
  /-- NOP, R231. -/
  | nop (w : FWord)
  /-- P_FORM_PAIR, R206. -/
  | pFormPair (w : PWord)
  /-- IADD, R261. -/
  | iadd (w : FWord)
  /-- ISUB, R261. -/
  | isub (w : FWord)
  /-- IMUL, R261. -/
  | imul (w : FWord)
  /-- IMULH, R261. -/
  | imulh (w : FWord)
  /-- IMAD, R261. -/
  | imad (w : FWord)
  /-- IADDC, R261. -/
  | iaddc (w : FWord)
  /-- IMIN, R261. -/
  | imin (w : FWord)
  /-- IMAX, R261. -/
  | imax (w : FWord)
  /-- IABS, R261. -/
  | iabs (w : FWord)
  /-- AND, R262. -/
  | and (w : FWord)
  /-- OR, R262. -/
  | or (w : FWord)
  /-- XOR, R262. -/
  | xor (w : FWord)
  /-- ANDN, R262. -/
  | andn (w : FWord)
  /-- SHL, R262. -/
  | shl (w : FWord)
  /-- SHR, R262. -/
  | shr (w : FWord)
  /-- SAR, R262. -/
  | sar (w : FWord)
  /-- ROTL, R262. -/
  | rotl (w : FWord)
  /-- BFX, R262. -/
  | bfx (w : FWord)
  /-- BFI, R262. -/
  | bfi (w : FWord)
  /-- POPC, R262. -/
  | popc (w : FWord)
  /-- CLZ, R262. -/
  | clz (w : FWord)
  /-- CTZ, R262. -/
  | ctz (w : FWord)
  /-- BREV, R262. -/
  | brev (w : FWord)
  /-- PERM, R263. -/
  | perm (w : FWord)
  /-- SEL, R263. -/
  | sel (w : FWord)
  /-- ICMP, R263. -/
  | icmp (w : FWord)
  /-- MOV, R263. -/
  | mov (w : FWord)
  /-- LI, R265. -/
  | li (w : ImmWord)
  /-- IADD64, R264. -/
  | iadd64 (w : FWord)
  /-- ISUB64, R264. -/
  | isub64 (w : FWord)
  /-- IMAD64, R264. -/
  | imad64 (w : FWord)
  /-- SHL64, R264. -/
  | shl64 (w : FWord)
  /-- SHR64, R264. -/
  | shr64 (w : FWord)
  /-- SAR64, R264. -/
  | sar64 (w : FWord)
  /-- ICMP64, R264. -/
  | icmp64 (w : FWord)
  /-- MOV64, R264. -/
  | mov64 (w : FWord)
  /-- CDERIVE, R22. -/
  | cderive (w : FWord)
  /-- CAIM, R268. -/
  | caim (w : FWord)
  /-- CSTEP, R268. -/
  | cstep (w : FWord)
  /-- CFLOOR, R269. -/
  | cfloor (w : FWord)
  /-- CSPAN, R269. -/
  | cspan (w : FWord)
  /-- CWHERE, R269. -/
  | cwhere (w : FWord)
  /-- CNARROW, R268. -/
  | cnarrow (w : FWord)
  /-- CPROBE, R270. -/
  | cprobe (w : FWord)
  /-- CKIND, R269. -/
  | ckind (w : FWord)
  /-- FADD, R276. -/
  | fadd (w : FWord)
  /-- FSUB, R276. -/
  | fsub (w : FWord)
  /-- FMUL, R276. -/
  | fmul (w : FWord)
  /-- FFMA, R276. -/
  | ffma (w : FWord)
  /-- FFMS, R276. -/
  | ffms (w : FWord)
  /-- FNMA, R276. -/
  | fnma (w : FWord)
  /-- FMIN, R278. -/
  | fmin (w : FWord)
  /-- FMAX, R278. -/
  | fmax (w : FWord)
  /-- FCMP, R279. -/
  | fcmp (w : FWord)
  /-- FRND, R281. -/
  | frnd (w : FWord)
  /-- FFRAC, R281. -/
  | ffrac (w : FWord)
  /-- FCLASS, R280. -/
  | fclass (w : FWord)
  /-- FRCP, R282. -/
  | frcp (w : FWord)
  /-- FRSQ, R282. -/
  | frsq (w : FWord)
  /-- FSQRT, R282. -/
  | fsqrt (w : FWord)
  /-- FEX2, R282. -/
  | fex2 (w : FWord)
  /-- FLG2, R282. -/
  | flg2 (w : FWord)
  /-- FSIN, R282. -/
  | fsin (w : FWord)
  /-- FCOS, R282. -/
  | fcos (w : FWord)
  /-- HADD2, R276. -/
  | hadd2 (w : FWord)
  /-- HSUB2, R276. -/
  | hsub2 (w : FWord)
  /-- HMUL2, R276. -/
  | hmul2 (w : FWord)
  /-- HFMA2, R276. -/
  | hfma2 (w : FWord)
  /-- HMIN2, R278. -/
  | hmin2 (w : FWord)
  /-- HMAX2, R278. -/
  | hmax2 (w : FWord)
  /-- HCMP2, R279. -/
  | hcmp2 (w : FWord)
  /-- DADD, R276. -/
  | dadd (w : FWord)
  /-- DMUL, R276. -/
  | dmul (w : FWord)
  /-- DFMA, R276. -/
  | dfma (w : FWord)
  /-- DCMP, R279. -/
  | dcmp (w : FWord)
  /-- CVT, R284. -/
  | cvt (w : FWord)
  /-- CVTN, R287. -/
  | cvtn (w : FWord)
  /-- CVTW, R285. -/
  | cvtw (w : FWord)
  /-- DOT4, R289. -/
  | dot4 (w : FWord)
  /-- DOT8, R289. -/
  | dot8 (w : FWord)
  /-- DOT2H, R289. -/
  | dot2h (w : FWord)
  /-- FFMA4, R276. -/
  | ffma4 (w : FWord) (x : XWord)
  /-- SHFL, R316. -/
  | shfl (w : FWord)
  /-- SHFLX, R316. -/
  | shflx (w : FWord)
  /-- SHFLUP, R316. -/
  | shflup (w : FWord)
  /-- SHFLDN, R316. -/
  | shfldn (w : FWord)
  /-- BALLOT, R317. -/
  | ballot (w : FWord)
  /-- VOTE, R317. -/
  | vote (w : FWord)
  /-- RED, R318. -/
  | red (w : FWord)
  /-- SCAN, R318. -/
  | scan (w : FWord)
  /-- MATCH, R317. -/
  | matchv (w : FWord)
  /-- ELECT, R317. -/
  | elect (w : FWord)
  /-- DDX, R319. -/
  | ddx (w : FWord)
  /-- DDY, R319. -/
  | ddy (w : FWord)
  /-- RDUNI, R320. -/
  | rduni (w : FWord)
  /-- RCLAIM, R323. -/
  | rclaim (w : FWord)
  /-- RCLAIMT, R323. -/
  | rclaimt (w : FWord)
  /-- RRELEASE, R325. -/
  | rrelease (w : FWord)
  /-- RSHARE, R326. -/
  | rshare (w : FWord)
  /-- RUNSHARE, R326. -/
  | runshare (w : FWord)
  /-- DEPOSIT, R327. -/
  | deposit (w : FWord)
  /-- RMARK, R328. -/
  | rmark (w : FWord)
  /-- RARRIV, R329. -/
  | rarriv (w : FWord)
  /-- LD, R293. -/
  | ld (w : MemWord)
  /-- ST, R293. -/
  | st (w : MemWord)
  /-- LDF, R294. -/
  | ldf (w : MemWord)
  /-- STF, R295. -/
  | stf (w : MemWord)
  /-- STCMP, R296. -/
  | stcmp (w : MemWord)
  /-- LDEXP, R296. -/
  | ldexp (w : MemWord)
  /-- ATOM, R298. -/
  | atom (w : MemWord)
  /-- LDCAP, R299. -/
  | ldcap (w : MemWord)
  /-- STCAP, R299. -/
  | stcap (w : MemWord)
  /-- SAMPLE, R307. -/
  | sample (w : FWord)
  /-- FETCH, R307. -/
  | fetch (w : FWord)
  /-- RQUERY, R309. -/
  | rquery (w : FWord)
  /-- TRACE, R310. -/
  | trace (w : FWord)
  /-- PREF, R300. -/
  | pref (w : MemWord)
  /-- FENCE, R116. -/
  | fence (w : FWord)
  /-- SPWB, R301. -/
  | spwb (w : MemWord)
  /-- DALLOC, R304. -/
  | dalloc (w : FWord)
  /-- DFREE, R305. -/
  | dfree (w : FWord)
  /-- BRA, R239. -/
  | bra (w : BrWord)
  /-- BRAI, R240. -/
  | brai (w : FWord)
  /-- CALL, R239. -/
  | call (w : BrWord)
  /-- CALLI, R240. -/
  | calli (w : FWord)
  /-- RET, R241. -/
  | ret (w : FWord)
  /-- RET_H, R379. -/
  | retH (w : FWord)
  /-- JOIN, R180. -/
  | join (w : FWord)
  /-- YIELD, R243. -/
  | yield (w : FWord)
  /-- EXIT, R244. -/
  | exit (w : FWord)
  /-- BAR, R245. -/
  | bar (w : FWord)
  /-- FLAGADD, R247. -/
  | flagadd (w : FWord)
  /-- FLAGWAIT, R248. -/
  | flagwait (w : FWord)
  /-- QPUSH, R249. -/
  | qpush (w : FWord)
  /-- QPOP, R249. -/
  | qpop (w : FWord)
  /-- TRAP, R252. -/
  | trap (w : FWord)
  /-- BRK, R252. -/
  | brk (w : FWord)
  /-- SLEEP, R253. -/
  | sleep (w : FWord)
  /-- RDSYS, R254. -/
  | rdsys (w : FWord)
  /-- WRSYS, R255. -/
  | wrsys (w : FWord)
  /-- CPY, R336. -/
  | cpy (w : FWord)
  /-- CPYG, R335. -/
  | cpyg (w : FWord)
  /-- CPYS, R335. -/
  | cpys (w : FWord)
  /-- HWAIT, R138. -/
  | hwait (w : FWord)
  /-- HTEST, R138. -/
  | htest (w : FWord)
  /-- HCANCEL, R138. -/
  | hcancel (w : FWord)
  /-- RINGINIT, R148. -/
  | ringinit (w : FWord)
  /-- RWAIT, R150. -/
  | rwait (w : FWord)
  /-- RFREE, R150. -/
  | rfree (w : FWord)
  /-- MACQ, R341. -/
  | macq (w : FWord)
  /-- MREL, R341. -/
  | mrel (w : FWord)
  /-- MZERO, R346. -/
  | mzero (w : FWord)
  /-- MMA, R344. -/
  | mma (w : FWord)
  /-- MMAG, R344. -/
  | mmag (w : FWord)
  /-- MLOAD, R346. -/
  | mload (w : FWord)
  /-- MSTORE, R347. -/
  | mstore (w : FWord)
  /-- MSTOREG, R348. -/
  | mstoreg (w : FWord)
  /-- AMAXSTEP, R104. -/
  | amaxstep (w : FWord)
  /-- IREQ, R350. -/
  | ireq (w : FWord)
  /-- IREQ_UNB, R350. -/
  | ireqUnb (w : FWord)
  /-- BEAM, R351. -/
  | beam (w : FWord)
  /-- LAUNCH, R352. -/
  | launch (w : FWord)
  /-- TLBLOCK, R54. -/
  | tlblock (w : FWord)
  /-- TLBUNLOCK, R55. -/
  | tlbunlock (w : FWord)
  /-- CPIN, R354. -/
  | cpin (w : FWord)
  /-- LAUNCH_GRID, R356. -/
  | launchGrid (win : Nat)
  /-- SET_CONTEXT, R451. -/
  | setContext (win : Nat)
  /-- LOAD_IMAGE, R411. -/
  | loadImage (win : Nat)
  /-- WRITE_VALUE, R448. -/
  | writeValue (win : Nat)
  /-- WAIT_VALUE, R448. -/
  | waitValue (win : Nat)
  /-- COPY, R448. -/
  | copy (win : Nat)
  /-- DECOMPRESS, R448. -/
  | decompress (win : Nat)
  /-- PARTITION, R80. -/
  | partition (win : Nat)
  /-- PIN, R81. -/
  | pin (win : Nat)
  /-- LATENCY_TOLERANCE, R461. -/
  | latencyTolerance (win : Nat)
  /-- SAVE_CONTEXT, R391. -/
  | saveContext (win : Nat)
  /-- RESUME, R396. -/
  | resume (win : Nat)
  /-- WAIT_VALUE_TIMEOUT, R448. -/
  | waitValueTimeout (win : Nat)
  /-- WINDOW_ENTRY_WRITE, R445. -/
  | windowEntryWrite (svc : Bool) (off size : Nat) (value : DWord)
  /-- BAR0_REGISTER_WRITE, R444. -/
  | bar0RegisterWrite (off size : Nat) (value : DWord)
  /-- SEAL_ACCEPT, R447. -/
  | sealAccept (win : Nat)
  /-- COMMAND_COMPLETE, R125. -/
  | commandComplete (win : Nat)
  /-- HOST_MEM_READ, R123. -/
  | hostMemRead (port pa len : Nat)
  /-- HOST_MEM_WRITE, R123. -/
  | hostMemWrite (port pa : Nat) (data : List Byte)
  /-- HOST_ATOMIC, R126. -/
  | hostAtomic (port pa size : Nat) (kind : HostAtom) (value compare : DWord)
  /-- TEAM_PLACE, R360. -/
  | teamPlace
  /-- GANG_RESERVE, R362. -/
  | gangReserve
  /-- GANG_COMMIT, R362. -/
  | gangCommit
  /-- RECKONER_FAILOVER, R355. -/
  | reckonerFailover
  /-- TEAM_END, R244. -/
  | teamEnd (team : Nat)
  /-- PAIR_IDLE, R63. -/
  | pairIdle (pair : Nat)
  /-- GRID_RETIRE, R190. -/
  | gridRetire (grid : Nat)
  /-- CHILD_DONE_WRITE, R353. -/
  | childDoneWrite (grid : Nat)
  /-- LOAD_RESULT_RETURN, R184. -/
  | loadResultReturn (access : Nat)
  /-- STORE_ACK, R112. -/
  | storeAck (access : Nat)
  /-- HOME_WRITE_APPLY, R111. -/
  | homeWriteApply (access piece : Nat)
  /-- HOME_LOAD_SERVE, R111. -/
  | homeLoadServe (access piece : Nat) (data : List Byte)
  /-- SECTOR_FILL_COMPLETE, R71. -/
  | sectorFillComplete (pair sector : Nat)
  /-- WRITEBACK_COMPLETE, R71. -/
  | writebackComplete (pair sector : Nat)
  /-- OWNER_FAULT, R49. -/
  | ownerFault (fault : Nat)
  /-- FAULT_RESTART, R49. -/
  | faultRestart (fault : Nat) (writes : List (Nat × DWord))
  /-- FAULT_DECLINE, R49. -/
  | faultDecline (fault : Nat)
  /-- TLB_INVALIDATE, R47. -/
  | tlbInvalidate (ctx region page pages : Nat) (moves : List (Nat × Nat)) (writes : List (Nat × DWord))
  /-- INVALIDATE_COMPLETE, R47. -/
  | invalidateComplete (request : Nat)
  /-- GRID_END, R32. -/
  | gridEnd (grid : Nat)
  /-- MASTER_RESET, R383. -/
  | masterReset (kind : MasterKind) (unit : Nat)
  /-- ABACUS_HANG_RESET, R386. -/
  | abacusHangReset (pair layer : Nat)
  /-- MATRIX_RESET_DELIVER, R388. -/
  | matrixResetDeliver (team : Nat)
  /-- ABACUS_LEASE_GRANT, R373. -/
  | abacusLeaseGrant (pair : Nat)
  /-- ABACUS_CHUNK, R344. -/
  | abacusChunk (pair layer : Nat)
  /-- WATCHDOG_EXPIRE, R193. -/
  | watchdogExpire (pair rod : Nat)
  /-- SLEEP_WAKE, R253. -/
  | sleepWake (a : Agent)
  /-- DEPOSIT_ARRIVE, R186. -/
  | depositArrive (deposit : Nat)
  /-- IFETCH_FILL, R367. -/
  | ifetchFill (a : Agent)
  /-- ENGINE_OP_START, R118. -/
  | engineOpStart (op : Nat)
  /-- ENGINE_WRITE_ACK, R129. -/
  | engineWriteAck (op units : Nat)
  /-- HANDLE_RESOLVE, R135. -/
  | handleResolve (op : Nat)
  /-- RING_SLOT_CLAIM, R149. -/
  | ringSlotClaim (op : Nat)
  /-- REMAINDER_APPEND, R164. -/
  | remainderAppend (append : Nat)
  /-- ISLAND_REQUEST_ACCEPT, R403. -/
  | islandRequestAccept (kind unit stream : Nat)
  /-- ISLAND_RESPONSE, R403. -/
  | islandResponse (kind unit : Nat)
  /-- ISLAND_CONFIG_ERROR, R389. -/
  | islandConfigError (kind unit : Nat)
  /-- BLEND_COMMIT, R439. -/
  | blendCommit (cluster request : Nat)
  /-- BLOCK_MODE_WRITE, R440. -/
  | blockModeWrite (cluster : Nat)
  /-- SPLAT_SORT_RELEASE, R441. -/
  | splatSortRelease (cluster slot tile : Nat)
  /-- POWER_EXIT_COMPLETE, R460. -/
  | powerExitComplete (unit : PowerUnit)
  /-- PREEMPT_REQUEST, R391. -/
  | preemptRequest (ctx : Nat)
  /-- SAVE_AREA_WRITE, R393. -/
  | saveAreaWrite (ctx : Nat)
  /-- LINK_LOCK_LOST, R454. -/
  | linkLockLost (port : Nat)
  /-- LINK_LOCK_REGAINED, R454. -/
  | linkLockRegained (port : Nat)
  /-- LINK_LOST, R455. -/
  | linkLost (port : Nat)
  /-- TRAINING_COMPLETE, R454. -/
  | trainingComplete (port : Nat)
  /-- GRACE_EXPIRE, R454. -/
  | graceExpire (ctx : Nat)
  /-- FLIT_RECEIVE, R453. -/
  | flitReceive (port : Nat) (crcOk replayOk : Bool) (body : List Byte)
  /-- GRANULE_IDLE_FLUSH, R452. -/
  | granuleIdleFlush (port : Nat)
  /-- POWER_STATE_ENTER, R460. -/
  | powerStateEnter (unit : PowerUnit) (level : Nat)
  /-- POWER_WAKE, R461. -/
  | powerWake (unit : PowerUnit)
  /-- POWER_ISSUE_HOLD, R462. -/
  | powerIssueHold (pair rod cycles : Nat)
  /-- DEVICE_RESET, R458. -/
  | deviceReset (boot : BootInput)
  /-- FENCE_PASS_COMPLETE, R116. -/
  | fencePassComplete (a : Agent)
  /-- UNASSIGNED_OPCODE_WORD, R232. -/
  | unassignedOpcodeWord (w : DWord)
  /-- DEBUGGER_RESUME, R384. -/
  | debuggerResume (fault : Nat) (pc : Option (BitVec 48))
  /-- MAILBOX_SEND, R457. -/
  | mailboxSend (source target : Nat) (message : List Byte)
  /-- WAVELENGTH_RETRAINED, R397. -/
  | wavelengthRetrained (port wavelength : Nat) (restored : Bool)
  deriving DecidableEq, Repr

end Sys2Proof
end

