-- ==== Sys2Proof/Decode.lean ====
section
/-! DEFINITION. The decoder: from the bytes at a PC to an instruction, and after it the encoder written from the same
layouts (spec/09 R195 to R211, spec/10 R228, R229). Every eight bytes decode: a word that is no instruction decodes to
UNASSIGNED_OPCODE_WORD, which raises ILLEGAL_OPCODE when it issues (R232). Fewer than eight bytes decode to nothing. -/

namespace Sys2Proof

open Sys2Proof.Machine

/-- The fields of an F-form word (R196). -/
def fOfWord (w : DWord) : FWord :=
  { d := w.extractLsb' 43 11, a := w.extractLsb' 32 11, b := w.extractLsb' 21 11, g := w.extractLsb' 18 3,
    gn := w.getLsbD 17, ta := w.getLsbD 16, tb := w.getLsbD 15, kd := w.getLsbD 14, ka := w.getLsbD 13,
    kb := w.getLsbD 12, md := w.extractLsb' 0 12 }

/-- The fields of an X word (R201). -/
def xOfWord (w : DWord) : XWord :=
  { c := w.extractLsb' 51 11, tc := w.getLsbD 50, kc := w.getLsbD 49, res := w.extractLsb' 0 49 }

/-- The fields of a P-form word (R204). -/
def pOfWord (w : DWord) : PWord :=
  { xpop := w.extractLsb' 55 7, xd := w.extractLsb' 47 8, xa := w.extractLsb' 39 8, ximm := w.extractLsb' 31 8,
    ypop := w.extractLsb' 24 7, yd := w.extractLsb' 16 8, ya := w.extractLsb' 8 8, yimm := w.extractLsb' 0 8 }

/-- The fields of an L.mem word (R208). -/
def memOfWord (w : DWord) : MemWord :=
  { d := w.extractLsb' 43 11, cap := w.extractLsb' 32 11, idx := w.extractLsb' 21 11, g := w.extractLsb' 18 3,
    gn := w.getLsbD 17, ti := w.getLsbD 16, kc := w.getLsbD 15, ki := w.getLsbD 14, ty := w.extractLsb' 10 4,
    res := w.extractLsb' 7 3, scope := w.extractLsb' 4 3, off := w.extractLsb' 0 4 }

/-- The fields of an L.br word (R210). -/
def brOfWord (w : DWord) : BrWord :=
  { g := w.extractLsb' 51 3, gn := w.getLsbD 50, div := w.getLsbD 49, tgt := w.extractLsb' 24 25, jn := w.extractLsb' 0 24 }

/-- The fields of an L.imm word (R211). -/
def immOfWord (w : DWord) : ImmWord :=
  { d := w.extractLsb' 43 11, kd := w.getLsbD 42, res := w.extractLsb' 32 10, imm := w.extractLsb' 0 32 }

/-- The entry of an opcode in a table of constructors. -/
def opFind {α : Type} : List (Nat × α) → Nat → Option α
  | [], _ => none
  | (k, v) :: t, n => if n = k then some v else opFind t n

/-- The F-form opcodes (R228, R229), but for RET, IREQ and FFMA4. -/
def fOps0 : List (Nat × (FWord → Instr)) :=
  [(0x00, .nop), (0x01, .iadd), (0x02, .isub), (0x03, .imul), (0x04, .imulh), (0x05, .imad), (0x06, .iaddc), (0x07, .imin),
   (0x08, .imax), (0x09, .iabs), (0x0A, .and), (0x0B, .or), (0x0C, .xor), (0x0D, .andn), (0x0E, .shl), (0x0F, .shr),
   (0x10, .sar), (0x11, .rotl), (0x12, .bfx), (0x13, .bfi), (0x14, .popc), (0x15, .clz), (0x16, .ctz), (0x17, .brev),
   (0x18, .perm), (0x19, .sel), (0x1A, .icmp), (0x1B, .mov), (0x1D, .iadd64), (0x1E, .isub64), (0x1F, .imad64), (0x20, .shl64),
   (0x21, .shr64), (0x22, .sar64), (0x23, .icmp64), (0x24, .mov64), (0x30, .cderive), (0x31, .caim), (0x32, .cstep), (0x33, .cfloor),
   (0x34, .cspan), (0x35, .cwhere), (0x36, .cnarrow), (0x37, .cprobe), (0x38, .ckind)]

/-- The F-form opcodes (R228, R229), but for RET, IREQ and FFMA4. -/
def fOps1 : List (Nat × (FWord → Instr)) :=
  [(0x40, .fadd), (0x41, .fsub), (0x42, .fmul), (0x43, .ffma), (0x44, .ffms), (0x45, .fnma), (0x46, .fmin), (0x47, .fmax),
   (0x48, .fcmp), (0x49, .frnd), (0x4A, .ffrac), (0x4B, .fclass), (0x4C, .frcp), (0x4D, .frsq), (0x4E, .fsqrt), (0x4F, .fex2),
   (0x50, .flg2), (0x51, .fsin), (0x52, .fcos), (0x53, .hadd2), (0x54, .hsub2), (0x55, .hmul2), (0x56, .hfma2), (0x57, .hmin2),
   (0x58, .hmax2), (0x59, .hcmp2), (0x5A, .dadd), (0x5B, .dmul), (0x5C, .dfma), (0x5D, .dcmp), (0x5E, .cvt), (0x5F, .cvtn),
   (0x60, .cvtw), (0x61, .dot4), (0x62, .dot8), (0x63, .dot2h), (0x70, .shfl), (0x71, .shflx), (0x72, .shflup), (0x73, .shfldn),
   (0x74, .ballot), (0x75, .vote), (0x76, .red), (0x77, .scan), (0x78, .matchv)]

/-- The F-form opcodes (R228, R229), but for RET, IREQ and FFMA4. -/
def fOps2 : List (Nat × (FWord → Instr)) :=
  [(0x79, .elect), (0x7A, .ddx), (0x7B, .ddy), (0x7C, .rduni), (0x80, .rclaim), (0x81, .rclaimt), (0x82, .rrelease), (0x83, .rshare),
   (0x84, .runshare), (0x85, .deposit), (0x86, .rmark), (0x87, .rarriv), (0x91, .sample), (0x92, .fetch), (0x93, .rquery), (0x94, .trace),
   (0x96, .fence), (0x98, .dalloc), (0x99, .dfree), (0xA1, .brai), (0xA3, .calli), (0xA5, .join), (0xA6, .yield), (0xA7, .exit),
   (0xA8, .bar), (0xA9, .flagadd), (0xAA, .flagwait), (0xAB, .qpush), (0xAC, .qpop), (0xAD, .trap), (0xAE, .brk), (0xAF, .sleep),
   (0xB0, .rdsys), (0xB1, .wrsys), (0xB8, .cpy), (0xB9, .cpyg), (0xBA, .cpys), (0xBB, .hwait), (0xBC, .htest), (0xBD, .hcancel),
   (0xBE, .ringinit), (0xBF, .rwait), (0xC0, .rfree), (0xC1, .macq), (0xC2, .mrel)]

/-- The F-form opcodes (R228, R229), but for RET, IREQ and FFMA4. -/
def fOps3 : List (Nat × (FWord → Instr)) :=
  [(0xC3, .mzero), (0xC4, .mma), (0xC5, .mmag), (0xC6, .mload), (0xC7, .mstore), (0xC8, .mstoreg), (0xC9, .amaxstep), (0xCB, .beam),
   (0xCC, .launch), (0xCD, .tlblock), (0xCE, .tlbunlock), (0xCF, .cpin)]

/-- The F-form opcodes (R228, R229), but for RET, IREQ and FFMA4. -/
def fOps : List (Nat × (FWord → Instr)) := fOps0 ++ fOps1 ++ fOps2 ++ fOps3

/-- The L.mem opcodes (R228, R229). -/
def memOps : List (Nat × (MemWord → Instr)) :=
  [(0x88, .ld), (0x89, .st), (0x8A, .ldf), (0x8B, .stf), (0x8C, .stcmp), (0x8D, .ldexp), (0x8E, .atom), (0x8F, .ldcap),
   (0x90, .stcap), (0x95, .pref), (0x97, .spwb)]

/-- The L.br opcodes (R228, R229). -/
def brOps : List (Nat × (BrWord → Instr)) :=
  [(0xA0, .bra), (0xA2, .call)]

/-- The instruction an F-form word names: RET and IREQ are told apart from RET.h and IREQ.unb by a bit of MOD (R238,
R331). -/
def fInstr (op : Nat) (f : FWord) : Option Instr :=
  if op = 0xA4 then some (if f.md.getLsbD 1 then .retH f else .ret f)
  else if op = 0xCA then some (if f.md.getLsbD 2 then .ireqUnb f else .ireq f)
  else (opFind fOps op).map (fun c => c f)

/-- The instruction a word of layout L names: L.mem, L.br or L.imm, chosen by opcode (R195). -/
def lInstr (op : Nat) (w : DWord) : Option Instr :=
  if op = 0x1C then some (.li (immOfWord w))
  else match opFind brOps op with
    | some c => some (c (brOfWord w))
    | none => (opFind memOps op).map (fun c => c (memOfWord w))

/-- The instruction at a word, given the word that follows it, and how many words it takes. FFMA4 alone takes an X word
(R201, R202); a word of no instruction, an X word itself and FFMA4 without its X word are UNASSIGNED_OPCODE_WORD. -/
def decodeWords (w : DWord) (next : Option DWord) : Instr × Nat :=
  let op := (w.extractLsb' 54 8).toNat
  let found : Option Instr :=
    match (w.extractLsb' 62 2).toNat with
    | 0 => if op = 0x64 then
             match next with
             | some x => if x.extractLsb' 62 2 = 3#2 then some (.ffma4 (fOfWord w) (xOfWord x)) else none
             | none => none
           else fInstr op (fOfWord w)
    | 1 => some (.pFormPair (pOfWord w))
    | 2 => lInstr op w
    | _ => none
  match found with
  | some (.ffma4 f x) => (.ffma4 f x, 2)
  | some i => (i, 1)
  | none => (.unassignedOpcodeWord w, 1)

/-- The word in eight bytes, least significant first (R195). -/
def wordOfBytes (l : List Byte) : DWord := BitVec.ofNat 64 (leNat l)

/-- Decodes the instruction at the front of a list of bytes and gives the bytes after it. -/
def decode (l : List Byte) : Option (Instr × List Byte) :=
  if l.length < 8 then none
  else
    let next := if l.length < 16 then none else some (wordOfBytes ((l.drop 8).take 8))
    let r := decodeWords (wordOfBytes (l.take 8)) next
    some (r.1, l.drop (8 * r.2))

/-- The instruction the decoder reads from a table word: bit 0 of `w` is bit 0 of the first word, and the bits above
`nbits` are zero. -/
def decodeTableWord (nbits w : Nat) : Option Instr :=
  (decode (natLe 16 (w % 2 ^ nbits))).map Prod.fst

/-- An F-form word from its opcode and fields (R196). -/
def fToWord (op : BitVec 8) (f : FWord) : DWord :=
  0#2 ++ op ++ f.d ++ f.a ++ f.b ++ f.g ++ BitVec.ofBool f.gn ++ BitVec.ofBool f.ta ++ BitVec.ofBool f.tb ++
    BitVec.ofBool f.kd ++ BitVec.ofBool f.ka ++ BitVec.ofBool f.kb ++ f.md

/-- An X word from its fields (R201). -/
def xToWord (x : XWord) : DWord := 3#2 ++ x.c ++ BitVec.ofBool x.tc ++ BitVec.ofBool x.kc ++ x.res

/-- A P-form word from its fields (R204). -/
def pToWord (p : PWord) : DWord := 1#2 ++ p.xpop ++ p.xd ++ p.xa ++ p.ximm ++ p.ypop ++ p.yd ++ p.ya ++ p.yimm

/-- An L.mem word from its opcode and fields (R208). -/
def memToWord (op : BitVec 8) (m : MemWord) : DWord :=
  2#2 ++ op ++ m.d ++ m.cap ++ m.idx ++ m.g ++ BitVec.ofBool m.gn ++ BitVec.ofBool m.ti ++ BitVec.ofBool m.kc ++
    BitVec.ofBool m.ki ++ m.ty ++ m.res ++ m.scope ++ m.off

/-- An L.br word from its opcode and fields (R210). -/
def brToWord (op : BitVec 8) (b : BrWord) : DWord :=
  2#2 ++ op ++ b.g ++ BitVec.ofBool b.gn ++ BitVec.ofBool b.div ++ b.tgt ++ b.jn

/-- An L.imm word from its fields (R211). -/
def immToWord (i : ImmWord) : DWord := 2#2 ++ 0x1C#8 ++ i.d ++ BitVec.ofBool i.kd ++ i.res ++ i.imm

/-- The words of an instruction; a command or an event has none. -/
def encode : Instr → List DWord
  | .nop f => [fToWord 0x00#8 f]
  | .pFormPair p => [pToWord p]
  | .iadd f => [fToWord 0x01#8 f]
  | .isub f => [fToWord 0x02#8 f]
  | .imul f => [fToWord 0x03#8 f]
  | .imulh f => [fToWord 0x04#8 f]
  | .imad f => [fToWord 0x05#8 f]
  | .iaddc f => [fToWord 0x06#8 f]
  | .imin f => [fToWord 0x07#8 f]
  | .imax f => [fToWord 0x08#8 f]
  | .iabs f => [fToWord 0x09#8 f]
  | .and f => [fToWord 0x0A#8 f]
  | .or f => [fToWord 0x0B#8 f]
  | .xor f => [fToWord 0x0C#8 f]
  | .andn f => [fToWord 0x0D#8 f]
  | .shl f => [fToWord 0x0E#8 f]
  | .shr f => [fToWord 0x0F#8 f]
  | .sar f => [fToWord 0x10#8 f]
  | .rotl f => [fToWord 0x11#8 f]
  | .bfx f => [fToWord 0x12#8 f]
  | .bfi f => [fToWord 0x13#8 f]
  | .popc f => [fToWord 0x14#8 f]
  | .clz f => [fToWord 0x15#8 f]
  | .ctz f => [fToWord 0x16#8 f]
  | .brev f => [fToWord 0x17#8 f]
  | .perm f => [fToWord 0x18#8 f]
  | .sel f => [fToWord 0x19#8 f]
  | .icmp f => [fToWord 0x1A#8 f]
  | .mov f => [fToWord 0x1B#8 f]
  | .li i => [immToWord i]
  | .iadd64 f => [fToWord 0x1D#8 f]
  | .isub64 f => [fToWord 0x1E#8 f]
  | .imad64 f => [fToWord 0x1F#8 f]
  | .shl64 f => [fToWord 0x20#8 f]
  | .shr64 f => [fToWord 0x21#8 f]
  | .sar64 f => [fToWord 0x22#8 f]
  | .icmp64 f => [fToWord 0x23#8 f]
  | .mov64 f => [fToWord 0x24#8 f]
  | .cderive f => [fToWord 0x30#8 f]
  | .caim f => [fToWord 0x31#8 f]
  | .cstep f => [fToWord 0x32#8 f]
  | .cfloor f => [fToWord 0x33#8 f]
  | .cspan f => [fToWord 0x34#8 f]
  | .cwhere f => [fToWord 0x35#8 f]
  | .cnarrow f => [fToWord 0x36#8 f]
  | .cprobe f => [fToWord 0x37#8 f]
  | .ckind f => [fToWord 0x38#8 f]
  | .fadd f => [fToWord 0x40#8 f]
  | .fsub f => [fToWord 0x41#8 f]
  | .fmul f => [fToWord 0x42#8 f]
  | .ffma f => [fToWord 0x43#8 f]
  | .ffms f => [fToWord 0x44#8 f]
  | .fnma f => [fToWord 0x45#8 f]
  | .fmin f => [fToWord 0x46#8 f]
  | .fmax f => [fToWord 0x47#8 f]
  | .fcmp f => [fToWord 0x48#8 f]
  | .frnd f => [fToWord 0x49#8 f]
  | .ffrac f => [fToWord 0x4A#8 f]
  | .fclass f => [fToWord 0x4B#8 f]
  | .frcp f => [fToWord 0x4C#8 f]
  | .frsq f => [fToWord 0x4D#8 f]
  | .fsqrt f => [fToWord 0x4E#8 f]
  | .fex2 f => [fToWord 0x4F#8 f]
  | .flg2 f => [fToWord 0x50#8 f]
  | .fsin f => [fToWord 0x51#8 f]
  | .fcos f => [fToWord 0x52#8 f]
  | .hadd2 f => [fToWord 0x53#8 f]
  | .hsub2 f => [fToWord 0x54#8 f]
  | .hmul2 f => [fToWord 0x55#8 f]
  | .hfma2 f => [fToWord 0x56#8 f]
  | .hmin2 f => [fToWord 0x57#8 f]
  | .hmax2 f => [fToWord 0x58#8 f]
  | .hcmp2 f => [fToWord 0x59#8 f]
  | .dadd f => [fToWord 0x5A#8 f]
  | .dmul f => [fToWord 0x5B#8 f]
  | .dfma f => [fToWord 0x5C#8 f]
  | .dcmp f => [fToWord 0x5D#8 f]
  | .cvt f => [fToWord 0x5E#8 f]
  | .cvtn f => [fToWord 0x5F#8 f]
  | .cvtw f => [fToWord 0x60#8 f]
  | .dot4 f => [fToWord 0x61#8 f]
  | .dot8 f => [fToWord 0x62#8 f]
  | .dot2h f => [fToWord 0x63#8 f]
  | .ffma4 f x => [fToWord 0x64#8 f, xToWord x]
  | .shfl f => [fToWord 0x70#8 f]
  | .shflx f => [fToWord 0x71#8 f]
  | .shflup f => [fToWord 0x72#8 f]
  | .shfldn f => [fToWord 0x73#8 f]
  | .ballot f => [fToWord 0x74#8 f]
  | .vote f => [fToWord 0x75#8 f]
  | .red f => [fToWord 0x76#8 f]
  | .scan f => [fToWord 0x77#8 f]
  | .matchv f => [fToWord 0x78#8 f]
  | .elect f => [fToWord 0x79#8 f]
  | .ddx f => [fToWord 0x7A#8 f]
  | .ddy f => [fToWord 0x7B#8 f]
  | .rduni f => [fToWord 0x7C#8 f]
  | .rclaim f => [fToWord 0x80#8 f]
  | .rclaimt f => [fToWord 0x81#8 f]
  | .rrelease f => [fToWord 0x82#8 f]
  | .rshare f => [fToWord 0x83#8 f]
  | .runshare f => [fToWord 0x84#8 f]
  | .deposit f => [fToWord 0x85#8 f]
  | .rmark f => [fToWord 0x86#8 f]
  | .rarriv f => [fToWord 0x87#8 f]
  | .ld m => [memToWord 0x88#8 m]
  | .st m => [memToWord 0x89#8 m]
  | .ldf m => [memToWord 0x8A#8 m]
  | .stf m => [memToWord 0x8B#8 m]
  | .stcmp m => [memToWord 0x8C#8 m]
  | .ldexp m => [memToWord 0x8D#8 m]
  | .atom m => [memToWord 0x8E#8 m]
  | .ldcap m => [memToWord 0x8F#8 m]
  | .stcap m => [memToWord 0x90#8 m]
  | .sample f => [fToWord 0x91#8 f]
  | .fetch f => [fToWord 0x92#8 f]
  | .rquery f => [fToWord 0x93#8 f]
  | .trace f => [fToWord 0x94#8 f]
  | .pref m => [memToWord 0x95#8 m]
  | .fence f => [fToWord 0x96#8 f]
  | .spwb m => [memToWord 0x97#8 m]
  | .dalloc f => [fToWord 0x98#8 f]
  | .dfree f => [fToWord 0x99#8 f]
  | .bra b => [brToWord 0xA0#8 b]
  | .brai f => [fToWord 0xA1#8 f]
  | .call b => [brToWord 0xA2#8 b]
  | .calli f => [fToWord 0xA3#8 f]
  | .ret f => [fToWord 0xA4#8 f]
  | .retH f => [fToWord 0xA4#8 f]
  | .join f => [fToWord 0xA5#8 f]
  | .yield f => [fToWord 0xA6#8 f]
  | .exit f => [fToWord 0xA7#8 f]
  | .bar f => [fToWord 0xA8#8 f]
  | .flagadd f => [fToWord 0xA9#8 f]
  | .flagwait f => [fToWord 0xAA#8 f]
  | .qpush f => [fToWord 0xAB#8 f]
  | .qpop f => [fToWord 0xAC#8 f]
  | .trap f => [fToWord 0xAD#8 f]
  | .brk f => [fToWord 0xAE#8 f]
  | .sleep f => [fToWord 0xAF#8 f]
  | .rdsys f => [fToWord 0xB0#8 f]
  | .wrsys f => [fToWord 0xB1#8 f]
  | .cpy f => [fToWord 0xB8#8 f]
  | .cpyg f => [fToWord 0xB9#8 f]
  | .cpys f => [fToWord 0xBA#8 f]
  | .hwait f => [fToWord 0xBB#8 f]
  | .htest f => [fToWord 0xBC#8 f]
  | .hcancel f => [fToWord 0xBD#8 f]
  | .ringinit f => [fToWord 0xBE#8 f]
  | .rwait f => [fToWord 0xBF#8 f]
  | .rfree f => [fToWord 0xC0#8 f]
  | .macq f => [fToWord 0xC1#8 f]
  | .mrel f => [fToWord 0xC2#8 f]
  | .mzero f => [fToWord 0xC3#8 f]
  | .mma f => [fToWord 0xC4#8 f]
  | .mmag f => [fToWord 0xC5#8 f]
  | .mload f => [fToWord 0xC6#8 f]
  | .mstore f => [fToWord 0xC7#8 f]
  | .mstoreg f => [fToWord 0xC8#8 f]
  | .amaxstep f => [fToWord 0xC9#8 f]
  | .ireq f => [fToWord 0xCA#8 f]
  | .ireqUnb f => [fToWord 0xCA#8 f]
  | .beam f => [fToWord 0xCB#8 f]
  | .launch f => [fToWord 0xCC#8 f]
  | .tlblock f => [fToWord 0xCD#8 f]
  | .tlbunlock f => [fToWord 0xCE#8 f]
  | .cpin f => [fToWord 0xCF#8 f]
  | .launchGrid _ => []
  | .setContext _ => []
  | .loadImage _ => []
  | .writeValue _ => []
  | .waitValue _ => []
  | .copy _ => []
  | .decompress _ => []
  | .partition _ => []
  | .pin _ => []
  | .latencyTolerance _ => []
  | .saveContext _ => []
  | .resume _ => []
  | .waitValueTimeout _ => []
  | .windowEntryWrite _ _ _ _ => []
  | .bar0RegisterWrite _ _ _ => []
  | .sealAccept _ => []
  | .commandComplete _ => []
  | .hostMemRead _ _ _ => []
  | .hostMemWrite _ _ _ => []
  | .hostAtomic _ _ _ _ _ _ => []
  | .teamPlace => []
  | .gangReserve => []
  | .gangCommit => []
  | .reckonerFailover => []
  | .teamEnd _ => []
  | .pairIdle _ => []
  | .gridRetire _ => []
  | .childDoneWrite _ => []
  | .loadResultReturn _ => []
  | .storeAck _ => []
  | .homeWriteApply _ _ => []
  | .homeLoadServe _ _ _ => []
  | .sectorFillComplete _ _ => []
  | .writebackComplete _ _ => []
  | .ownerFault _ => []
  | .faultRestart _ _ => []
  | .faultDecline _ => []
  | .tlbInvalidate _ _ _ _ _ _ => []
  | .invalidateComplete _ => []
  | .gridEnd _ => []
  | .masterReset _ _ => []
  | .abacusHangReset _ _ => []
  | .matrixResetDeliver _ => []
  | .abacusLeaseGrant _ => []
  | .abacusChunk _ _ => []
  | .watchdogExpire _ _ => []
  | .sleepWake _ => []
  | .depositArrive _ => []
  | .ifetchFill _ => []
  | .engineOpStart _ => []
  | .engineWriteAck _ _ => []
  | .handleResolve _ => []
  | .ringSlotClaim _ => []
  | .remainderAppend _ => []
  | .islandRequestAccept _ _ _ => []
  | .islandResponse _ _ => []
  | .islandConfigError _ _ => []
  | .blendCommit _ _ => []
  | .blockModeWrite _ => []
  | .splatSortRelease _ _ _ => []
  | .mailboxSend _ _ _ => []
  | .preemptRequest _ => []
  | .saveAreaWrite _ => []
  | .linkLockLost _ => []
  | .linkLockRegained _ => []
  | .linkLost _ => []
  | .trainingComplete _ => []
  | .graceExpire _ => []
  | .flitReceive _ _ _ _ => []
  | .granuleIdleFlush _ => []
  | .powerStateEnter _ _ => []
  | .powerWake _ => []
  | .powerIssueHold _ _ _ => []
  | .deviceReset _ => []
  | .fencePassComplete _ => []
  | .unassignedOpcodeWord w => [w]
  | .debuggerResume _ _ => []
  | .powerExitComplete _ => []
  | .wavelengthRetrained _ _ _ => []

/-- The bytes of an instruction as they stand in memory (R195). -/
def encodeBytes (i : Instr) : List Byte := (encode i).flatMap (fun w => natLe 8 w.toNat)

end Sys2Proof
end

