-- ==== Sys2Proof/Machine/Fp.lean ====
section
/-! DEFINITION. Number formats and exact arithmetic with one rounding (spec/04 R86 to R94, spec/13 R276 to R282). A value is
unpacked to an exact one, operations are exact on those, and Round narrows the exact result once. -/

namespace Sys2Proof.Machine

/-- A binary floating-point format: exponent and fraction bits (R86). -/
structure FFmt where
  eb : Nat
  fb : Nat
  deriving DecidableEq, Repr

/-- FP32 (R86). -/
def fp32 : FFmt := ⟨8, 23⟩
/-- FP64 (R86). -/
def fp64 : FFmt := ⟨11, 52⟩
/-- FP16 (R86). -/
def fp16 : FFmt := ⟨5, 10⟩
/-- BF16 (R86). -/
def bf16 : FFmt := ⟨8, 7⟩

/-- The bias of a format (R86). -/
def FFmt.bias (f : FFmt) : Nat := 2 ^ (f.eb - 1) - 1

/-- The exponent of the last bit of a subnormal of the format. -/
def FFmt.emin (f : FFmt) : Int := 1 - (f.bias : Int) - (f.fb : Int)

/-- The canonical NaN of a format (R86). -/
def FFmt.nan (f : FFmt) : Nat := (2 ^ f.eb - 1) * 2 ^ f.fb + 2 ^ (f.fb - 1)

/-- The infinity of a format with sign 0. -/
def FFmt.inf (f : FFmt) : Nat := (2 ^ f.eb - 1) * 2 ^ f.fb

/-- An exact value: a NaN, an infinity, or (-1)^neg * m * 2^e, where m = 0 is a signed zero. -/
inductive Fv where
  | nan
  | inf (neg : Bool)
  | fin (neg : Bool) (m : Nat) (e : Int)
  deriving DecidableEq, Repr

/-- The four rounding modes (R88). -/
inductive Rm where
  | rne | rtz | rdn | rup
  deriving DecidableEq, Repr

/-- The mode a 2-bit field names (R88). -/
def rmOf (n : Nat) : Rm := if n % 4 = 0 then .rne else if n % 4 = 1 then .rtz else if n % 4 = 2 then .rdn else .rup

/-- The value of a bit pattern; a signalling NaN is a NaN (R87). -/
def fpUnpack (f : FFmt) (v : Nat) : Fv :=
  let neg := v.testBit (f.eb + f.fb)
  let e := (v >>> f.fb) % 2 ^ f.eb
  let m := v % 2 ^ f.fb
  if e = 2 ^ f.eb - 1 then (if m = 0 then .inf neg else .nan)
  else if e = 0 then .fin neg m f.emin
  else .fin neg (m + 2 ^ f.fb) (f.emin + (e : Int) - 1)

/-- Whether a magnitude lying a remainder above the lower neighbour rounds up: `half` compares the remainder with half a
unit, `inexact` says it is not zero, `odd` that the lower neighbour is odd. -/
def roundsUp (rm : Rm) (neg odd inexact : Bool) (half : Ordering) : Bool :=
  match rm with
  | .rne => match half with | .gt => true | .eq => odd | .lt => false
  | .rtz => false
  | .rdn => neg && inexact
  | .rup => !neg && inexact

/-- Rounds (m + something below 1 when `sticky`) * 2^e to `p` bits with the last bit at or above 2^emin, the exponent
unbounded above (R88): the rounded magnitude is the first result times 2 to the second. -/
def roundTo (p : Nat) (emin : Int) (rm : Rm) (neg : Bool) (m : Nat) (e : Int) (sticky : Bool) : Nat × Int :=
  let bits : Int := if m = 0 then 0 else (Nat.log2 m : Int) + 1
  let q := max (e + bits - (p : Int)) emin
  if q ≤ e then
    let m' := m <<< (e - q).toNat
    let up := roundsUp rm neg (m' % 2 == 1) sticky .lt
    (if up then m' + 1 else m', q)
  else
    let s := (q - e).toNat
    let m' := m >>> s
    let r := m % 2 ^ s
    let half := compare (2 * r) (2 ^ s)
    let half := if half = .eq ∧ sticky then Ordering.gt else half
    (if roundsUp rm neg (m' % 2 == 1) (sticky || decide (r ≠ 0)) half then m' + 1 else m', q)

/-- The result of an overflow: an infinity or the largest finite value, as the mode decides (R276). -/
def fpOverflow (f : FFmt) (rm : Rm) (neg : Bool) : Nat :=
  let s := if neg then 2 ^ (f.eb + f.fb) else 0
  match rm with
  | .rne => s + f.inf
  | .rtz => s + f.inf - 1
  | .rdn => if neg then s + f.inf else s + f.inf - 1
  | .rup => if neg then s + f.inf - 1 else s + f.inf

/-- Round of a magnitude with a sign into a format (R88, R276). -/
def fpRoundMag (f : FFmt) (rm : Rm) (neg : Bool) (m : Nat) (e : Int) (sticky : Bool) : Nat :=
  let (m', q) := roundTo (f.fb + 1) f.emin rm neg m e sticky
  let s := if neg then 2 ^ (f.eb + f.fb) else 0
  -- a carry out of the fraction moves into the exponent field by itself
  let body := if m' = 0 then 0 else ((q - f.emin).toNat) * 2 ^ f.fb + m'
  if f.inf ≤ body then fpOverflow f rm neg else s + body

/-- Round of an exact value into a format; a NaN becomes the canonical one (R87, R88). -/
def fpRound (f : FFmt) (rm : Rm) : Fv → Nat
  | .nan => f.nan
  | .inf neg => (if neg then 2 ^ (f.eb + f.fb) else 0) + f.inf
  | .fin neg m e => fpRoundMag f rm neg m e false

/-- The negation of a value. -/
def Fv.neg : Fv → Fv
  | .nan => .nan
  | .inf n => .inf (!n)
  | .fin n m e => .fin (!n) m e

/-- The exact product; 0 times infinity is a NaN (R276). -/
def Fv.mul : Fv → Fv → Fv
  | .nan, _ => .nan
  | _, .nan => .nan
  | .inf a, .inf b => .inf (a != b)
  | .inf a, .fin b m _ => if m = 0 then .nan else .inf (a != b)
  | .fin a m _, .inf b => if m = 0 then .nan else .inf (a != b)
  | .fin a m e, .fin b n g => .fin (a != b) (m * n) (e + g)

/-- The value scaled by a power of two. -/
def Fv.scale (k : Int) : Fv → Fv
  | .fin n m e => .fin n m (e + k)
  | v => v

/-- The exact value of an integer. -/
def Fv.ofInt (z : Int) : Fv := .fin (decide (z < 0)) z.natAbs 0

/-- A value is a NaN. -/
def Fv.isNan : Fv → Bool
  | .nan => true
  | _ => false

/-- The sign bit of a value, clear for a NaN. -/
def Fv.sign : Fv → Bool
  | .nan => false
  | .inf n => n
  | .fin n _ _ => n

/-- The integer that `v` is in units of 2^e, for `e` at or below its exponent. -/
def Fv.units (e : Int) : Fv → Int
  | .fin n m g => let z : Int := ((m <<< (g - e).toNat : Nat) : Int); if n then -z else z
  | _ => 0

/-- The lowest exponent of the finite terms. -/
def minExp : List Fv → Int → Int
  | [], acc => acc
  | .fin _ m e :: t, acc => minExp t (if m = 0 then acc else min acc e)
  | _ :: t, acc => minExp t acc

/-- The exact sum of terms with the special cases of R276 and R289: a NaN term or infinities of both signs give a NaN, an
infinity otherwise wins, and an exact zero takes its sign from the terms or the mode. -/
def fvSum (rm : Rm) (ts : List Fv) : Fv :=
  if ts.any Fv.isNan then .nan
  else
    let pos := ts.any (fun t => decide (t = .inf false))
    let ngv := ts.any (fun t => decide (t = .inf true))
    if pos && ngv then .nan
    else if pos then .inf false
    else if ngv then .inf true
    else
      let e := minExp ts 0
      let z := ts.foldl (fun a t => a + t.units e) 0
      if z = 0 then
        let zero (t : Fv) : Bool := match t with | .fin _ m _ => decide (m = 0) | _ => false
        if ts.all zero && ts.all (fun t => t.sign) then .fin true 0 0
        else if ts.all zero && ts.all (fun t => !t.sign) then .fin false 0 0
        else .fin (decide (rm = .rdn)) 0 0
      else .fin (decide (z < 0)) z.natAbs e

/-- Round of an exact sum (R276, R289, R344). -/
def fpSum (f : FFmt) (rm : Rm) (ts : List Fv) : Nat := fpRound f rm (fvSum rm ts)

/-- The order of two values that are not NaNs; -0 equals +0 (R279). -/
def fvCompare (a b : Fv) : Option Ordering :=
  match a, b with
  | .nan, _ => none
  | _, .nan => none
  | .inf x, .inf y => some (if x = y then .eq else if x then .lt else .gt)
  | .inf x, _ => some (if x then .lt else .gt)
  | _, .inf y => some (if y then .gt else .lt)
  | a, b =>
    let e := minExp [a, b] 0
    some (compare (a.units e) (b.units e))

/-- FCMP's conditions (R279). -/
def fvCond (cnd : Nat) (a b : Fv) : Bool :=
  match fvCompare a b with
  | none => cnd == 1 || cnd == 7
  | some o =>
    match cnd with
    | 0 => o == .eq
    | 1 => o != .eq
    | 2 => o == .lt
    | 3 => o != .gt
    | 4 => o == .gt
    | 5 => o != .lt
    | 6 => true
    | _ => false

/-- MIN and MAX on bit patterns (R278): NP makes any NaN input give the canonical NaN; otherwise one NaN gives the other
source, and -0 is less than +0; a selected value keeps its bits. -/
def fpMinMax (f : FFmt) (isMax np : Bool) (a b : Nat) : Nat :=
  let x := fpUnpack f a
  let y := fpUnpack f b
  if x.isNan && y.isNan then f.nan
  else if x.isNan then (if np then f.nan else b)
  else if y.isNan then (if np then f.nan else a)
  else
    let less := match fvCompare x y with
      | some .lt => true
      | some .gt => false
      | _ => x.sign && !y.sign
    if less then (if isMax then b else a)
    else match fvCompare x y with
      | some .eq => if x.sign = y.sign then a else (if isMax then a else b)
      | _ => if isMax then a else b

/-- Clamp of a rounded pattern to [+0, 1.0]; a NaN becomes +0 (R274, S01). -/
def fpClamp01 (f : FFmt) (v : Nat) : Nat :=
  let one := f.bias * 2 ^ f.fb
  match fpUnpack f v with
  | .nan => 0
  | .inf n => if n then 0 else one
  | .fin n m e => if n || m == 0 then 0 else if fvCompare (.fin n m e) (.fin false 1 0) = some .gt then one else v

/-- The integer a value rounds to, for a finite value (R281, R284). -/
def fvToInt (rm : Rm) : Fv → Int
  | .fin neg m e =>
    let (m', q) :=
      if 0 ≤ e then (m, e)
      else
        let s := (-e).toNat
        let r := m % 2 ^ s
        let lo := m >>> s
        (if roundsUp rm neg (lo % 2 == 1) (decide (r ≠ 0)) (compare (2 * r) (2 ^ s)) then lo + 1 else lo, 0)
    let z : Int := ((m' <<< q.toNat : Nat) : Int)
    if neg then -z else z
  | _ => 0

/-- The floor of a finite value. -/
def fvFloor (v : Fv) : Int := fvToInt .rdn v

/-- The greatest integer below `2 ^ n` times itself `k` times at most `x`: the floor of the k-th root. -/
def rootFloor (k x : Nat) : Nat → Nat → Nat
  | 0, r => r
  | n + 1, r => let c := r + 2 ^ n; rootFloor k x n (if c ^ k ≤ x then c else r)

/-- The floor of the square root. -/
def sqrtFloor (x : Nat) : Nat := rootFloor 2 x (Nat.log2 x / 2 + 1) 0

/-- Precision of the transcendental evaluations: fixed point with this many fraction bits (DESIGN CHOICE, log 16). -/
def xPrec : Nat := 420

/-- floor(pi * 2^420). -/
def piFix : Nat := 0x3243f6a8885a308d313198a2e03707344a4093822299f31d0082efa98ec4e6c89452821e638d01377be5466cf34e90c6cc0ac29b7c

/-- floor(ln 2 * 2^420). -/
def ln2Fix : Nat := 0xb17217f7d1cf79abc9e3b39803f2f6af40f343267298b62d8a0d175b8baafa2be7b876206debac98559552fb4afa1b10ed2eae35c

/-- Adds the terms of a Taylor series with alternating signs, each made from the one before by x^2 and two divisors. -/
def altTaylor (x2 : Nat) : Nat → Nat → Nat → Int → Bool → Int
  | 0, _, _, acc, _ => acc
  | n + 1, k, term, acc, neg =>
    altTaylor x2 n (k + 2) (((term * x2) >>> xPrec) / (k * (k + 1))) (if neg then acc - term else acc + term) (!neg)

/-- sin of a fixed-point angle in [0, 1.6] (DESIGN CHOICE, log 16). -/
def sinFix (x : Nat) : Nat := (altTaylor ((x * x) >>> xPrec) 60 2 x 0 false).toNat

/-- cos of a fixed-point angle in [0, 1.6]. -/
def cosFix (x : Nat) : Nat := (altTaylor ((x * x) >>> xPrec) 60 1 (2 ^ xPrec) 0 false).toNat

/-- exp of a fixed-point number in [0, 1). -/
def expFix (x : Nat) : Nat → Nat → Nat → Nat → Nat
  | 0, _, _, acc => acc
  | n + 1, k, term, acc => expFix x n (k + 1) (((term * x) >>> xPrec) / k) (acc + term)

/-- The series of atanh of a fixed-point number at most 1/3. -/
def atanhFix (z2 : Nat) : Nat → Nat → Nat → Nat → Nat
  | 0, _, _, acc => acc
  | n + 1, k, term, acc => atanhFix z2 n (k + 2) ((term * z2) >>> xPrec) (acc + term / k)

/-- Round of a positive number known to lie just above `x` * 2^-420, which is no dyadic number. -/
def fpRoundFix (rm : Rm) (neg : Bool) (x : Nat) (k : Int) : Nat := fpRoundMag fp32 rm neg x (k - (xPrec : Int)) true

/-- 1 / a (R282). -/
def fpRcp (rm : Rm) : Fv → Nat
  | .nan => fp32.nan
  | .inf n => fpRound fp32 rm (.fin n 0 0)
  | .fin n m e =>
    if m = 0 then fpRound fp32 rm (.inf n)
    else let k := 2 * (Nat.log2 m + 1) + 64
      fpRoundMag fp32 rm n (2 ^ k / m) (-(k : Int) - e) (decide (2 ^ k % m ≠ 0))

/-- The square root (R282). -/
def fpSqrt (rm : Rm) : Fv → Nat
  | .nan => fp32.nan
  | .inf n => if n then fp32.nan else fp32.inf
  | .fin n m e =>
    if m = 0 then fpRound fp32 rm (.fin n 0 0)
    else if n then fp32.nan
    else
      let (m', e') := if e % 2 = 0 then (m, e) else (2 * m, e - 1)
      let x := m' <<< 128
      let r := sqrtFloor x
      fpRoundMag fp32 rm false r ((e' - 128) / 2) (decide (r * r ≠ x))

/-- 1 / sqrt a (R282). -/
def fpRsq (rm : Rm) : Fv → Nat
  | .nan => fp32.nan
  | .inf n => if n then fp32.nan else fpRound fp32 rm (.fin false 0 0)
  | .fin n m e =>
    if m = 0 then fpRound fp32 rm (.inf n)
    else if n then fp32.nan
    else
      let (m', e') := if e % 2 = 0 then (m, e) else (2 * m, e - 1)
      let k := 2 * (Nat.log2 m' + 65)
      let r := sqrtFloor (2 ^ k / m')
      fpRoundMag fp32 rm false r (-((k : Int) + e') / 2) (decide (r * r * m' ≠ 2 ^ k))

/-- 2^a (R282): the integral part scales, the fraction goes through exp. -/
def fpEx2 (rm : Rm) : Fv → Nat
  | .nan => fp32.nan
  | .inf n => if n then 0 else fp32.inf
  | .fin n m e =>
    if m = 0 then fp32.bias * 2 ^ 23
    else
      let z := fvFloor (.fin n m e)
      let below := decide (z < -200)
      let above := decide (200 < z)
      if below then fpRoundMag fp32 rm false 1 (-300) false
      else if above then fpRoundMag fp32 rm false 1 300 false
      else
        -- the fraction in units of 2^-420; e is at least -149
        let fr := ((Fv.fin n m e).units (-(xPrec : Int)) - z * (2 ^ xPrec : Nat)).toNat
        if fr = 0 then fpRoundMag fp32 rm false 1 z false
        else fpRoundFix rm false (expFix ((fr * ln2Fix) >>> xPrec) 100 1 (2 ^ xPrec) 0) z

/-- log2 a (R282). -/
def fpLg2 (rm : Rm) : Fv → Nat
  | .nan => fp32.nan
  | .inf n => if n then fp32.nan else fp32.inf
  | .fin n m e =>
    if m = 0 then fpRound fp32 rm (.inf true)
    else if n then fp32.nan
    else
      let l := Nat.log2 m
      let ex : Int := e + (l : Int)
      if m = 2 ^ l then fpRound fp32 rm (if ex = 0 then .fin false 0 0 else Fv.ofInt ex)
      else
        let z := ((m - 2 ^ l) <<< xPrec) / (m + 2 ^ l)
        let lnx := 2 * atanhFix ((z * z) >>> xPrec) 140 1 z 0
        let lg := (lnx <<< xPrec) / ln2Fix
        let v : Int := ex * (2 ^ xPrec : Nat) + (lg : Int)
        -- below zero the magnitude is rounded up to keep it a lower bound with a remainder
        if 0 ≤ v then fpRoundFix rm false v.toNat 0 else fpRoundFix rm true ((-v).toNat - 1) 0

/-- sin(pi a) for a in half-turns (R282). -/
def fpSin (rm : Rm) : Fv → Nat
  | .nan => fp32.nan
  | .inf _ => fp32.nan
  | .fin n m e =>
    -- |a| mod 2 in units of 2^-420
    let u := ((Fv.fin false m e).units (-(xPrec : Int))).toNat % (2 * 2 ^ xPrec)
    let (neg, u) := if 2 ^ xPrec ≤ u then (!n, u - 2 ^ xPrec) else (n, u)
    if u = 0 then fpRound fp32 rm (.fin n 0 0)
    else
      let h := 2 ^ (xPrec - 1)
      let u := if h < u then 2 ^ xPrec - u else u
      if u = h then fpRound fp32 rm (.fin neg 1 0)
      else fpRoundFix rm neg (sinFix ((u * piFix) >>> xPrec)) 0

/-- cos(pi a) for a in half-turns (R282). -/
def fpCos (rm : Rm) : Fv → Nat
  | .nan => fp32.nan
  | .inf _ => fp32.nan
  | .fin _ m e =>
    let u := ((Fv.fin false m e).units (-(xPrec : Int))).toNat % (2 * 2 ^ xPrec)
    let u := if 2 ^ xPrec < u then 2 * 2 ^ xPrec - u else u
    let h := 2 ^ (xPrec - 1)
    let (neg, u) := if h < u then (true, 2 ^ xPrec - u) else (false, u)
    if u = h then fpRound fp32 rm (.fin false 0 0)
    else if u = 0 then fpRound fp32 rm (.fin neg 1 0)
    else fpRoundFix rm neg (cosFix ((u * piFix) >>> xPrec)) 0

/-- FRND: the integral value a rounds to, keeping the sign of a (R281). -/
def fpRnd (rm : Rm) (a : Nat) : Nat :=
  match fpUnpack fp32 a with
  | .nan => fp32.nan
  | .inf _ => a
  | .fin n m e => fpRoundMag fp32 .rtz n (fvToInt rm (.fin n m e)).natAbs 0 false

/-- FFRAC: a - floor(a), one rounding, below 1.0 (R281). -/
def fpFrac (a : Nat) : Nat :=
  match fpUnpack fp32 a with
  | .nan => fp32.nan
  | .inf _ => fp32.nan
  | .fin n m e =>
    let z := fvFloor (.fin n m e)
    let r := fpRound fp32 .rne (fvSum .rne [.fin n m e, Fv.ofInt (-z)])
    if r = 0x3F800000 then 0x3F7FFFFF else r

/-- FCLASS's one-hot mask (R280). -/
def fpClass (a : Nat) : Nat :=
  let neg := a.testBit 31
  let e := (a >>> 23) % 256
  let m := a % 2 ^ 23
  if e = 255 then
    if m = 0 then (if neg then 2 ^ 0 else 2 ^ 7) else if m.testBit 22 then 2 ^ 9 else 2 ^ 8
  else if e = 0 then
    if m = 0 then (if neg then 2 ^ 3 else 2 ^ 4) else (if neg then 2 ^ 2 else 2 ^ 5)
  else (if neg then 2 ^ 1 else 2 ^ 6)

/-- FP32 shorthands in RNE for the fixed units (R87). -/
def f32 (v : Word) : Fv := fpUnpack fp32 v.toNat
/-- The FP32 word nearest an exact value. -/
def w32 (v : Fv) : Word := BitVec.ofNat 32 (fpRound fp32 .rne v)
/-- a + b in FP32 RNE. -/
def fadd (a b : Word) : Word := BitVec.ofNat 32 (fpSum fp32 .rne [f32 a, f32 b])
/-- a - b in FP32 RNE. -/
def fsub (a b : Word) : Word := BitVec.ofNat 32 (fpSum fp32 .rne [f32 a, (f32 b).neg])
/-- a * b in FP32 RNE. -/
def fmul (a b : Word) : Word := BitVec.ofNat 32 (fpSum fp32 .rne [(f32 a).mul (f32 b)])
/-- a * b + c in FP32 RNE with one rounding. -/
def ffma (a b c : Word) : Word := BitVec.ofNat 32 (fpSum fp32 .rne [(f32 a).mul (f32 b), f32 c])
/-- The sign flipped. -/
def fneg (a : Word) : Word := a ^^^ 0x80000000
/-- a less than b, neither NaN. -/
def flt (a b : Word) : Bool := fvCond 2 (f32 a) (f32 b)
/-- a at most b, neither NaN. -/
def fle (a b : Word) : Bool := fvCond 3 (f32 a) (f32 b)

end Sys2Proof.Machine
end

