-- ==== Sys2Proof/Machine/Narrow.lean ====
section
/-! DEFINITION. The narrow element formats, their encodings with saturation, and the geometry of format pages (spec/04 R90
to R101, R103). -/

namespace Sys2Proof.Machine

/-- The bits of an element of a format code (R95). -/
def fmtBits (fmt : Nat) : Nat :=
  match fmt with
  | 1 => 8 | 2 => 8 | 3 => 4 | 4 => 8 | 5 => 8 | 6 => 4 | 7 => 4 | 8 => 16 | 9 => 16 | _ => 8

/-- A combination of FMT and BLK that the table of R95 marks valid (R42, R95). -/
def fmtValid (fmt blk : Nat) : Bool :=
  if fmt = 0 then blk == 0 else if fmt ≤ 7 then true else if fmt ≤ 9 then blk == 0 else false

/-- An integer element format (R95). -/
def fmtIsInt (fmt : Nat) : Bool := decide (4 ≤ fmt) && decide (fmt ≤ 7)

/-- The exponent and fraction bits of E4M3, E5M2 and E2M1 (R90). -/
def narrowFmt (fmt : Nat) : FFmt := if fmt = 1 then ⟨4, 3⟩ else if fmt = 2 then ⟨5, 2⟩ else ⟨2, 1⟩

/-- The code of the largest finite value of E4M3, E5M2 and E2M1 (R90). -/
def narrowMax (fmt : Nat) : Nat := if fmt = 1 then 0x7E else if fmt = 2 then 0x7B else 0x7

/-- The value of an element code (R90, R95). -/
def elemValue (fmt code : Nat) : Fv :=
  match fmt with
  | 1 =>
    let c := code % 256
    if c % 128 = 127 then .nan
    else
      let e := (c / 8) % 16
      let m := c % 8
      if e = 0 then .fin (c.testBit 7) m (-9) else .fin (c.testBit 7) (m + 8) ((e : Int) - 10)
  | 2 => fpUnpack ⟨5, 2⟩ (code % 256)
  | 3 =>
    let c := code % 16
    let e := (c / 2) % 4
    let m := c % 2
    if e = 0 then .fin (c.testBit 3) m (-1) else .fin (c.testBit 3) (m + 2) ((e : Int) - 2)
  | 4 => Fv.ofInt (signedOf 8 code)
  | 5 => Fv.ofInt ((code % 256 : Nat) : Int)
  | 6 => Fv.ofInt (signedOf 4 code)
  | 7 => Fv.ofInt ((code % 16 : Nat) : Int)
  | 8 => fpUnpack fp16 (code % 65536)
  | 9 => fpUnpack bf16 (code % 65536)
  | _ => .nan

/-- Decoding an element with a block scale code into a register format (R91). -/
def elemDecode (fmt code scale : Nat) (f : FFmt) (rm : Rm) : Nat :=
  if scale = 255 then f.nan else fpRound f rm ((elemValue fmt code).scale ((scale : Int) - 127))

/-- The overflow of an encoding (R93). -/
def narrowOverflow (fmt : Nat) (neg sat : Bool) (rm : Rm) : Nat :=
  let s := if neg then 2 ^ (fmtBits fmt - 1) else 0
  let mx := s + narrowMax fmt
  let out := if fmt = 1 then 0x7F else s + 0x7C
  if sat || fmt == 3 then mx
  else match rm with
    | .rne => out
    | .rtz => mx
    | .rdn => if neg then out else mx
    | .rup => if neg then mx else out

/-- Encoding a value into E4M3, E5M2 or E2M1 (R92). -/
def narrowEncode (fmt : Nat) (v : Fv) (rm : Rm) (sat : Bool) : Nat :=
  match v with
  | .nan => if fmt = 1 then 0x7F else if fmt = 2 then 0x7E else 0
  | .inf neg => narrowOverflow fmt neg sat rm
  | .fin neg m e =>
    let f := narrowFmt fmt
    let (m', q) := roundTo (f.fb + 1) f.emin rm neg m e false
    let body := if m' = 0 then 0 else (q - f.emin).toNat * 2 ^ f.fb + m'
    if narrowMax fmt < body then narrowOverflow fmt neg sat rm
    else (if neg then 2 ^ (fmtBits fmt - 1) else 0) + body

/-- The least and greatest value of an integer format of `bits` bits (R90). -/
def intRange (signed : Bool) (bits : Nat) : Int × Int :=
  if signed then (-((2 ^ (bits - 1) : Nat) : Int), ((2 ^ (bits - 1) : Nat) : Int) - 1) else (0, ((2 ^ bits : Nat) : Int) - 1)

/-- A number clamped to a range. -/
def clampInt (r : Int × Int) (z : Int) : Int := if z < r.1 then r.1 else if r.2 < z then r.2 else z

/-- Encoding a value into an integer of `bits` bits: round, then saturate; NaN gives 0 (R94, R284). -/
def intEncode (signed : Bool) (bits : Nat) (v : Fv) (rm : Rm) : Nat :=
  let r := intRange signed bits
  let z : Int := match v with
    | .nan => 0
    | .inf n => if n then r.1 else r.2
    | .fin n m e => clampInt r (fvToInt rm (.fin n m e))
  (z % ((2 ^ bits : Nat) : Int)).toNat

/-- Encoding a value into the element format of a page (R92, R94, R295). -/
def elemEncode (fmt : Nat) (v : Fv) (rm : Rm) (sat : Bool) : Nat :=
  match fmt with
  | 4 => intEncode true 8 v rm
  | 5 => intEncode false 8 v rm
  | 6 => intEncode true 4 v rm
  | 7 => intEncode false 4 v rm
  | 8 => fpRound fp16 rm v
  | 9 => fpRound bf16 rm v
  | _ => narrowEncode fmt v rm sat

/-- The full-scale value of a quantised format (R103). -/
def fmtFull (fmt : Nat) : Nat :=
  match fmt with
  | 1 => 448 | 2 => 57344 | 3 => 6 | 4 => 127 | 5 => 255 | 6 => 7 | 7 => 15 | _ => 0

/-- Elements of a block: 16, 32 or 48 per scale (R95). -/
def blkElems (blk : Nat) : Nat := 16 * blk

/-- Bytes of a block's data. -/
def blkBytes (fmt blk : Nat) : Nat := blkElems blk * fmtBits fmt / 8

/-- Blocks of a 1,024-byte line (R99). -/
def lineBlocks (fmt blk : Nat) : Nat := 1024 / (blkBytes fmt blk + 1)

/-- N, the elements of a line (R99). -/
def lineElems (fmt blk : Nat) : Nat := if blk = 0 then 8192 / fmtBits fmt else lineBlocks fmt blk * blkElems blk

/-- C, the elements of a page or range of P bytes (R97). -/
def pageElems (fmt blk p : Nat) : Nat := min p (p / 1024 * lineElems fmt blk)

/-- Where element e of a page lies: its byte offset, the bit within that byte, and the offset of its block's scale byte
(R97, R98). -/
def elemPlace (fmt blk e : Nat) : Nat × Nat × Nat :=
  let n := lineElems fmt blk
  let line := e / n * 1024
  let s := e % n
  let bits := fmtBits fmt
  let scale := if blk = 0 then 0 else line + lineBlocks fmt blk * blkBytes fmt blk + s / blkElems blk
  (line + s * bits / 8, s * bits % 8, scale)

end Sys2Proof.Machine
end

