-- ==== Sys2Proof/Config.lean ====
section
/-! DEFINITION. What the implementation fixes, and the free values: constants without a body that stand for every value
the manual leaves open. A free value is applied to State.free, a counter each use advances (log 4). -/

namespace Sys2Proof.Config

/-- An open choice between numbers (a victim way, a heap block, an order): nothing is known of it. -/
opaque freeNat : Nat → Nat

/-- An open choice between two outcomes. -/
opaque freeBool : Nat → Bool

/-- An open byte (bytes beyond the prefix of a stopped operation, a reused heap block). -/
opaque freeByte : Nat → Word → Byte

/-- An open word. -/
opaque freeWord : Nat → Word

/-- Word j of the response of a default island image of a kind to a request for which the manual states none: a function of
the request, since islands are stateless (R407, R423). -/
opaque imageWord : Nat → List Word → Nat → Word

/-- The integer part that a texture coordinate has when it is an infinity or a NaN, of which R434 states no floor (log 61). -/
opaque openFloor : Word → Int

/-- The fraction of a coordinate that is an infinity, of which R434 states none (log 61). -/
opaque openFraction : Word → Word

/-- Rods of a core, rank slots of a rod, registers of a rod's pool (R3, R170, R322). -/
def poolRegs : Nat := 4096

/-- Pairs of the device (R3). -/
def pairs : Nat := 256

/-- The local store of a pair in bytes (R62). -/
def localStore : Nat := 524288

/-- The longest wait for a lost lock before LINK_LOST, in ticks (R454). -/
def holdTicks : Nat := 3000

/-- The bound D on the texel reads of a sample, in ticks (R166). -/
def texelBound : Nat := 8192

end Sys2Proof.Config
end

