-- ==== Sys2Proof/Machine/Types.lean ====
section
/-! DEFINITION. The small closed types State is made of: trap codes, spaces, waits, handles, tiles, sectors and records of
the tables the manual lays out. Each is plain data. -/

namespace Sys2Proof.Machine

/-- The trap codes (R376). -/
inductive TrapCode where
  | illegalOpcode | illegalOperand | illegalStream | privileged | illegalMask | convOverflow | emptyRead
  | uniformConflict | regDeadlock | regOverclaim | regUnallocated | capTag | capBounds | capPerm | misaligned
  | notPresent | missingPage | permission | tlbLockMiss | rangeLocked | mixedSize | writebackDenied
  | uncorrectable | poison | matrixReset | accLost | formatMismatch | watchdog | nestDepth | handleInvalid
  | queueFault | software | brk | callOverflow | islandFault
  deriving DecidableEq, Repr

/-- The number of a trap code, as k60 and s60 hold it (R376). -/
def TrapCode.num : TrapCode → Nat
  | .illegalOpcode => 0x01 | .illegalOperand => 0x02 | .illegalStream => 0x03 | .privileged => 0x04
  | .illegalMask => 0x05 | .convOverflow => 0x06 | .emptyRead => 0x08 | .uniformConflict => 0x09
  | .regDeadlock => 0x0A | .regOverclaim => 0x0B | .regUnallocated => 0x0C | .capTag => 0x10 | .capBounds => 0x11
  | .capPerm => 0x12 | .misaligned => 0x13 | .notPresent => 0x18 | .missingPage => 0x19 | .permission => 0x1A
  | .tlbLockMiss => 0x1B | .rangeLocked => 0x1C | .mixedSize => 0x1D | .writebackDenied => 0x1E
  | .uncorrectable => 0x20 | .poison => 0x21 | .matrixReset => 0x28 | .accLost => 0x29 | .formatMismatch => 0x2A
  | .watchdog => 0x30 | .nestDepth => 0x31 | .handleInvalid => 0x32 | .queueFault => 0x33 | .software => 0x38
  | .brk => 0x39 | .callOverflow => 0x3A | .islandFault => 0x40

/-- The violations, which freeze the master and reach no handler (R29). -/
def TrapCode.violation : TrapCode → Bool
  | .capTag | .capBounds | .capPerm | .privileged => true
  | _ => false

/-- A trap as it is raised: its code, its detail (R376), and for a violation the footprint address and the offending 128
bits with their tag (R31). -/
structure Trap where
  code : TrapCode
  detail : DWord := 0
  addr : BitVec 48 := 0
  val : TCap := TCap.null
  deriving DecidableEq, Repr

/-- Who makes an access: a thread (team, rank, position), the control thread of a team (rank none), or an unnamed unit of
the device (team 0 names none). -/
structure Who where
  team : Nat
  rank : Option Nat
  pos : Nat
  deriving DecidableEq, Repr

/-- A thread lives, is a quad-mode helper, or has ended (R175, R244). -/
inductive Life where
  | active
  | helper
  | ended
  deriving DecidableEq, Repr

/-- A v register of one thread: its 32 bits, its full bit, and the error mark of R292 with the detail it carries (DEDUCED, log 60). -/
structure VReg where
  val : Word
  full : Bool
  err : Option (TrapCode × Word)
  deriving DecidableEq, Repr

/-- What an unlisted v register holds: zero, full, no mark (R191). -/
def VReg.zero : VReg := ⟨0, true, none⟩

/-- A k register: its value, conflict bit and writer mark (R182). -/
structure KReg where
  val : Word
  cf : Bool
  wm : Option Nat
  err : Bool
  deriving DecidableEq, Repr

/-- What an unlisted k register holds (R191). -/
def KReg.zero : KReg := ⟨0, false, none, false⟩

/-- A thread of a rank (R170, R191). Bit n of `preds` is pn; bit 0 stays 0 and p0 reads true. -/
structure Thread where
  life : Life
  preds : BitVec 8
  rets : List (BitVec 48)
  pcm : Nat
  regs : Tab VReg
  tags : Tab Bool
  deriving DecidableEq, Repr

/-- A thread at the start of its rank (R191). -/
def Thread.start : Thread := ⟨.active, 0, [], 0, [], []⟩

/-- Why a split or a control thread does not issue. A wait either re-issues its instruction when it is over, or goes on
past it (R181, R184, R194, Block()). -/
inductive Wait where
  /-- It waits for nothing. -/
  | none
  /-- For v registers to be full: (position, register) (R184). -/
  | regs (needs : List (Nat × Nat))
  /-- In a convergence record, for the others (R180). -/
  | join (record : Nat)
  /-- In barrier b (R245). -/
  | bar (b : Nat)
  /-- For flag f under condition cond against each comparand (R248). -/
  | flag (f cond : Nat) (cmps : List Word)
  /-- For room of n entries in queue q (R250). -/
  | push (q n : Nat)
  /-- For n entries in queue or endpoint q (R250, R251). -/
  | pop (q n : Nat)
  /-- In the rod's claim list for n blocks (R323). -/
  | claim (n : Nat)
  /-- At a fence of a kind (1 release, 2 acquire, 3 both) and scope, for the threads active in its pass (R116). -/
  | fence (kind scope : Nat) (act : DWord)
  /-- In SPWB, for the write-backs its threads triggered (R301). -/
  | spwb (act : DWord)
  /-- Until global time reaches the deadline (R253). -/
  | sleep (deadline : Nat)
  /-- For the owner of a page, under a fault record (R49). -/
  | owner (fault : Nat)
  /-- Withdrawn while a handler of its rank runs (R380). -/
  | withdrawn
  /-- For a slot of ring r to be filled (R150). -/
  | ring (r : Nat)
  /-- For the arrival counter to reach a comparand (R329). -/
  | arrival (cmp : Word)
  /-- For the partner's RSHARE (R326). -/
  | share (slot own partner blocks : Nat)
  /-- For the result of an access of the control thread (R291). -/
  | result (access : Nat)
  /-- For a handle to resolve (R138). -/
  | handle (h : Nat)
  /-- For room in the copy engine, range-lock entries, or overlap to clear (R336). -/
  | engine
  /-- For an abacus lease (R341). -/
  | lease (p : Bool)
  /-- For room in the reckoner's queues (R356). -/
  | launchRoom
  /-- For an instruction word (R367). -/
  | fetch
  /-- For a page in migration to be invalidated (R58). -/
  | migration (ctx page : Nat)
  /-- For a mapped sector of a pair to leave state F, with the threads active in the pass that waits (R71, R72). -/
  | sector (pair sector : Nat) (act : DWord)
  deriving DecidableEq, Repr

/-- What the entry to the user handler saves of the trapped split (R377, R379): the code, the trap PC given to the handler,
the split's own PC, its resume position, its full mask, the threads active in the trapped pass, H, the PC the trapped
pass had already given to threads that committed, and the split's convergence record. -/
structure HandlerSave where
  code : TrapCode
  trapPc : BitVec 48
  pc : BitVec 48
  resume : Nat
  mask : DWord
  actives : DWord
  handled : DWord
  given : List (Nat × BitVec 48)
  record : Option Nat
  deriving DecidableEq, Repr

/-- A split of a rank: its threads, PC, age, innermost convergence record, resume position, the PCs that the pass standing at
that position has already given to threads below it, why it does not issue, and whether it runs in the handler of its rank
(R177, R377, R379). -/
structure Split where
  mask : DWord
  pc : BitVec 48
  age : Nat
  record : Option Nat
  resume : Nat
  given : List (Nat × BitVec 48)
  wait : Wait
  inHandler : Bool
  notBefore : Nat
  deriving DecidableEq, Repr

/-- A convergence record and its masks (R178). -/
structure ConvRec where
  up : Option Nat
  age : Nat
  jpc : BitVec 48
  mask : DWord
  arr : DWord
  deriving DecidableEq, Repr

/-- A shared range: own base, the partner's team and rank number, its base, and the blocks of 8 registers (R326). -/
structure Share where
  own : Nat
  team : Nat
  rank : Nat
  partner : Nat
  blocks : Nat
  deriving DecidableEq, Repr

/-- A rank: W threads bound to one rod (R170, R177, R178, R182, R183, R186). -/
structure Rank where
  num : Nat
  rod : Nat
  slot : Nat
  width : Nat
  base : Nat
  top : Nat
  scnt : Nat
  arrival : Word
  shares : List Share
  k : Tab KReg
  ktags : Tab Bool
  recs : Tab (Option ConvRec)
  splits : List Split
  threads : List Thread
  handler : Option HandlerSave
  ended : Bool
  deriving DecidableEq, Repr

/-- What the entry to the control stream's handler saves (R378). -/
structure CtlSave where
  code : TrapCode
  trapPc : BitVec 48
  deriving DecidableEq, Repr

/-- The control thread of a team (R187), with the earliest time of its next issue and, by register field (predicates from
2,048), the times its fixed-latency results are ready (R369). -/
structure Ctl where
  pc : BitVec 48
  s : Tab DWord
  c : Tab TCap
  preds : BitVec 8
  rets : List (BitVec 48)
  pcm : Nat
  wait : Wait
  handler : Option CtlSave
  ended : Bool
  earliest : Nat
  readyAt : Tab Nat
  errs : Tab Bool
  deriving DecidableEq, Repr

/-- The result a resolved handle holds (R136). -/
structure HResult where
  rtry : Bool
  sparse : Bool
  status : BitVec 8
  done : BitVec 40
  wmax : Nat
  deriving DecidableEq, Repr

/-- A future handle (R135). -/
inductive Handle where
  | idle
  | pending (op : Nat)
  | resolved (r : HResult)
  deriving DecidableEq, Repr

/-- An entry of a team queue, with the handle it carries when it is marked (R139, R188). -/
structure QEntry where
  val : DWord
  mark : Option Handle
  deriving DecidableEq, Repr

/-- A barrier: the positions of each rank that arrived, whether the control thread did, and the phase's E once fixed
(R245, R246). -/
structure Barrier where
  arrived : Tab DWord
  ctl : Bool
  e : Option Bool
  deriving DecidableEq, Repr

/-- A barrier at the start of a phase. -/
def Barrier.empty : Barrier := ⟨[], false, none⟩

/-- The mark of a physical accumulator tile (R340); an error's keeps the address of the failed read (R376). -/
inductive TileMark where
  | none
  | lost
  | err (code : TrapCode) (addr : Word)
  deriving DecidableEq, Repr

/-- A physical tile: element 16 r + c, and its mark (R340). -/
structure Half where
  elems : Tab Word
  mark : TileMark
  deriving DecidableEq, Repr

/-- A zero tile (R191). -/
def Half.zero : Half := ⟨[], .none⟩

/-- An accumulator tile: the upper half on the leader core, the lower on the follower (R340) (DEDUCED, log 60). -/
structure Tile where
  upper : Half
  lower : Half
  deriving DecidableEq, Repr

/-- A zero tile pair. -/
def Tile.zero : Tile := ⟨Half.zero, Half.zero⟩

/-- A batch of island requests: the offset of the next request, pooled or local, and how many are left (R350); `back` is the
number of a blend request that pre-emption returned (R439). -/
structure Batch where
  pooled : Bool
  off : Nat
  left : Nat
  back : Option Nat
  deriving DecidableEq, Repr

/-- An island endpoint of a team: the kind bound, unread response words, batches, requests in the island, whether the
stream was cut off by a stop, and the largest W of island writes its responses report (R118, R350, R390). -/
structure Endpoint where
  kind : Option Nat
  words : List DWord
  batches : List Batch
  inside : Nat
  cut : Bool
  wmax : Nat
  deriving DecidableEq, Repr

/-- An unbound endpoint. -/
def Endpoint.unbound : Endpoint := ⟨none, [], [], 0, false, 0⟩

/-- A violation's freeze record (R31, R382), but for what names the master. -/
structure FreezeRec where
  val : TCap
  addr : BitVec 48
  pc : BitVec 48
  resume : Nat
  grid : Nat
  more : Nat
  gtv : Nat
  mkind : Nat
  mid : Nat
  code : Nat
  deriving DecidableEq, Repr

/-- A team: a control thread and its ranks on one pair (R171, R187 to R191). `ready` is false until its gang commits;
`halted` stops issue for pre-emption or the end of its grid; `hung` is the PC of a hung matrix instruction whose MATRIX_RESET
is still to be delivered (R388). -/
structure Team where
  uid : Nat
  grid : Nat
  ctx : Nat
  number : Nat
  gangm : Option Nat
  pair : Nat
  slot : Nat
  baseRod : Nat
  ready : Bool
  halted : Bool
  frozen : Option FreezeRec
  ctl : Ctl
  handles : Tab Handle
  queues : Tab (List QEntry)
  flags : Tab Word
  bars : Tab Barrier
  ends : Tab Endpoint
  tiles : Tab Tile
  quantum : Nat
  lc : Nat
  leaseP : Bool
  hung : Option (BitVec 48)
  ranks : List Rank
  deriving DecidableEq, Repr

/-- Where a byte has its home: device memory at a physical address, the scratchpad of a pair at a local offset, or the
host at a bus address over a port (R106). -/
inductive Home where
  | dev (pa : Nat)
  | pad (pair off : Nat)
  | host (port addr : Nat)
  deriving DecidableEq, Repr

/-- One single-copy unit of an access (R119): where it lies, the bytes it writes or has read, the TAG it writes or has
read, the bit mask of a sub-byte store (R101), whether its page is sparse (R52), whether it is done, its W or LWCT, the
error its read met, the cache partition and lease code of its page (R35, R80), whether it belongs to a pass that writes
its poisoned unit whole (R60, R397), the time its home served it and its place in home order (R105, R106), and, where a unit that
overlaps it without being equal was written meanwhile, the bytes it had read before and the bytes of it that came before in home
order (R121). -/
structure Piece where
  home : Home
  len : Nat
  data : List Byte
  tag : Bool
  mask : Option Nat
  sparse : Bool
  done : Bool
  time : Nat
  err : Option TrapCode
  part : Nat
  lease : Nat
  clears : Bool
  served : Nat
  order : Nat
  seen : List (Nat × Byte)
  gone : List Nat
  deriving DecidableEq, Repr

/-- Where a result goes: the first register, and how the bytes become register values: a type code of R235, or 12 for a
quad, or a decoding of an element format at a scale (R294). -/
structure Dest where
  reg : Nat
  ty : Nat
  elem : Option (Nat × Bool)
  deriving DecidableEq, Repr

/-- What an access in flight does. -/
inductive AccKind where
  /-- A load into a destination (R293, R294, R299). -/
  | load (d : Dest)
  /-- A store (R293, R295, R299). -/
  | store
  /-- An atomic: operation and type codes, operand and compare value, and the destination (R236, R298). -/
  | atom (op ty : Nat) (v new : DWord) (d : Dest)
  /-- SAMPLE, FETCH or RQUERY (operation 0, 1, 2): the descriptor, MOD, the operands u, v, layer (or x, y, layer, level),
  the probe step and count, the levels chosen with the weight of the second, the status word, the error of the descriptor or
  map read, and the first destination (R307 to R309). -/
  | texture (op desc md : Nat) (args : List Word) (probe : List Word) (levels : List Nat) (weight : Word) (status : Word)
      (err : Option (TrapCode × Word)) (reg : Nat)
  /-- SAMPLE, FETCH or TRACE whose islands have answered: the island asked last (its key and kind), the time its response leaves, the first
  destination, the results, and the results if the island stops before (R390, R403). -/
  | answered (key kind due reg : Nat) (l cut : List (Word × Option (TrapCode × Word)))
  /-- TRACE: root capability, MOD, ray words, first destination (R310). -/
  | trace (root : TCap) (md : Nat) (ray : List Word) (reg : Nat)
  /-- QPOP into v: the first register, the type code of the value, and the value on its way (R184, R250). -/
  | popped (reg ty : Nat) (v : DWord)
  /-- DALLOC: the capability and its destination quad (R304). -/
  | alloc (cap : TCap) (reg : Nat)
  /-- A visibility word's update by BEAM: an unsigned maximum at its home (R424). -/
  | vismax (v : DWord)
  /-- DFREE: the block that joins the free lists when its release-style wait is over (R305). -/
  | free (bottom length : Nat)
  deriving DecidableEq, Repr

/-- An access in flight: its identifier, the time it was made, who made it on which pair, the context, space and first address it
has, what it does, and its pieces. -/
structure Access where
  id : Nat
  born : Nat
  who : Who
  pair : Nat
  ctx : Nat
  space : Nat
  addr : Nat
  kind : AccKind
  pieces : List Piece
  deriving DecidableEq, Repr

/-- A deposit on its way to a rank of another core (R186, R327). -/
structure Deposit where
  id : Nat
  who : Who
  grid : Nat
  pair : Nat
  rod : Nat
  slot : Nat
  reg : Nat
  val : Word
  deriving DecidableEq, Repr

/-- An append of a core on its way to the home of a ring header: the header's address and the record but for its phase (R161,
R164). -/
structure Append where
  id : Nat
  core : Nat
  ctx : Nat
  header : Nat
  record : Nat
  deriving DecidableEq, Repr

/-- The units that may hold copies of memory (R108). -/
inductive Holder where
  | l1 (pair : Nat)
  | icache (pair : Nat)
  | texture (core : Nat)
  | nodes (unit : Nat)
  | island (kind unit : Nat)
  deriving DecidableEq, Repr

/-- A copy under a lease: holder, address, bytes, expiry, the LWCT it was filled with, the place in home order it was filled at, and,
by first half-byte and count, the stores of its pair whose bytes it took, with their places in home order (R108, R112, R113) (DESIGN
CHOICE, log 10). -/
structure Copy where
  holder : Holder
  pa : Nat
  data : List Byte
  expiry : Nat
  lwct : Nat
  order : Nat
  marks : List (Nat × Nat × Nat)
  deriving DecidableEq, Repr

/-- What a slice keeps for a stacked-cache line it holds: LEXP, LWCT (R110), its way, its pin mark (R81), the 32-byte bursts of its four
sectors that are filled (R79, R82), and the sectors that are dirty (R79). -/
structure LineMeta where
  lexp : Nat
  lwct : Nat
  way : Nat
  pinned : Bool
  filled : BitVec 32
  dirty : BitVec 4
  deriving DecidableEq, Repr

/-- SEXP and SWCT of a set (R110). -/
structure SetMeta where
  sexp : Nat
  swct : Nat
  deriving DecidableEq, Repr

/-- A translation in a TLB: context, region, page number at the region's page size, the leaf, or an absent-and-sparse
result; for a locked entry the team it is locked for (R44, R54). -/
structure TlbEntry where
  ctx : Nat
  region : Nat
  page : Nat
  leaf : DWord
  sparse : Bool
  locked : Option Nat
  deriving DecidableEq, Repr

/-- A range a team locked on a pair, whose pages an invalidate may have broken (R56). -/
structure LockRange where
  pair : Nat
  team : Nat
  ctx : Nat
  lo : Nat
  hi : Nat
  broken : Bool
  deriving DecidableEq, Repr

/-- What waits for a page in migration beside threads (R58): an engine operation, a mapped sector's write-back, an append, a child's
DONEW, a scale slot's update by a core's abacus, or the blend front end of a cluster. -/
inductive MigHolder where
  | op (id : Nat)
  | sector (pair sec : Nat)
  | append (id : Nat)
  | donew (grid : Nat)
  | abacus (pair layer : Nat)
  | blend (cluster : Nat)
  deriving DecidableEq, Repr

/-- A wait of a unit for an invalidate of a page: who waits, the context, and the page as `Wait.migration` names it (R58). -/
structure MigWait where
  holder : MigHolder
  ctx : Nat
  page : Nat
  deriving DecidableEq, Repr

/-- An invalidate under way: its number, context, region, first page and page count (R47). -/
structure Invalidate where
  id : Nat
  ctx : Nat
  region : Nat
  page : Nat
  pages : Nat
  deriving DecidableEq, Repr

/-- A map entry: GVA in units of 256 bytes, SOFF and SLEN in sectors (R68). -/
structure MapEntry where
  gva : Nat
  soff : Nat
  slen : Nat
  fmt : Nat
  blk : Nat
  part : Nat
  nowb : Bool
  flt : Bool
  deriving DecidableEq, Repr

/-- The states of a mapped sector (R71). -/
inductive SecState where
  | u | f | c | d | w | wd
  deriving DecidableEq, Repr

/-- A mapped sector: its state, dirty mask, the granules and bytes of the write-back in flight, the time its home applied it with the largest W,
the triggers that write covers, the triggers that wait to treat the sector anew, who started the fill, and the accesses that wait for it in their order of arrival
(R71 to R74). -/
structure Sector where
  st : SecState
  dirty : BitVec 16
  flight : BitVec 16
  bytes : List Byte
  applied : Option (Nat × Nat)
  covers : List Who
  anew : List Who
  starter : Option Who
  waiters : List Who
  deriving DecidableEq, Repr

/-- A mapped sector before its first touch (R71). -/
def Sector.fresh : Sector := ⟨.u, 0, 0, [], none, [], [], none, []⟩

/-- An entry of a range-lock table (R141); `op` is the operation that holds it. -/
structure RangeLock where
  icol : Nat
  team : Nat
  hnd : Nat
  dst : Bool
  space : Nat
  last : Nat
  first : Nat
  op : Nat
  deriving DecidableEq, Repr

/-- The record of a ring slot (R147). -/
structure RingSlot where
  amt : Nat
  left : Nat
  rls : Bool
  deriving DecidableEq, Repr

/-- A ring slot at rest. -/
def RingSlot.zero : RingSlot := ⟨0, 0, false⟩

/-- A ring of a pair: its state word and slot records; counters run modulo 128 (R147). -/
structure Ring where
  rel : BitVec 7
  tak : BitVec 7
  fil : BitVec 7
  clm : BitVec 7
  nm1 : Nat
  slot : Nat
  base : Nat
  team : Nat
  v : Bool
  slots : Tab RingSlot
  deriving DecidableEq, Repr

/-- A ring out of use. -/
def Ring.zero : Ring := ⟨0, 0, 0, 0, 0, 0, 0, 0, false, []⟩

/-- A claim that waits in a rod's claim list (R323). -/
structure Claim where
  team : Nat
  rank : Nat
  age : Nat
  blocks : Nat
  deriving DecidableEq, Repr

/-- When a register's fixed-latency producer issued: start, groups, occupancy, latency, active set, and whether it was
cross-thread or uniform (R368); or that a variable-latency result filled the register at `start` (R366). -/
structure Producer where
  start : Nat
  groups : Nat
  occ : Nat
  lat : Nat
  act : DWord
  xth : Bool
  uniform : Bool
  filled : Bool
  deriving DecidableEq, Repr

/-- A rod: the split it issues from, splits that yielded and have not been passed since, its claim list, watchdog count,
earliest start of the next pass, the end of the last one, how many threads the last one listed and whether it was uniform, whether it
rests with no ready split, and the producers its ranks' registers wait for: key 4096 * slot + register for v, and
with 2048 added for k (R181, R193, R323, R365, R368). -/
structure Rod where
  cur : Option Agent
  yielded : List (Agent × List Agent)
  claims : List Claim
  watch : Nat
  earliest : Nat
  doneAt : Nat
  lanes : Nat
  uniform : Bool
  rests : Bool
  producers : Tab (Option Producer)
  deriving DecidableEq, Repr

/-- An idle rod. -/
def Rod.idle : Rod := ⟨none, [], [], 0, 0, 0, 0, false, true, []⟩

/-- The kinds of operation that an abacus takes in issue order (R345, R349). -/
inductive MatKind where
  | mma | mzero | mload | mstore | amaxstep
  deriving DecidableEq, Repr

/-- A matrix operation that an abacus has accepted (R344 to R349, R395): the team, its kind, PC and word, P, the tile, the maps of A
and B with the rows that a gather names, its K-chunks in all and the next one, the response words taken from queue sources,
the element type or destination format (4 FMT + BLK), MOD, the scale slot, and the pieces of each row and of the scale bytes,
which were translated at issue. -/
structure MatOp where
  team : Nat
  kind : MatKind
  pc : BitVec 48
  word : DWord
  p : Bool
  tile : Nat
  mapA : BitVec 128
  mapB : BitVec 128
  rowsA : List Nat
  nk : Nat
  next : Nat
  bufA : List DWord
  bufB : List DWord
  ty : Nat
  fmt : Nat
  md : BitVec 12
  slot : Option Nat
  acc : Bool
  rows : List (List Piece)
  scales : List Piece
  deriving DecidableEq, Repr

/-- An abacus: its lease holder (team), accepted operations in order, the time of its last chunk, and since when the operands of the next
chunk have been ready (R373, R374, R386). -/
structure Abacus where
  holder : Option Nat
  ops : List MatOp
  last : Nat
  ready : Option Nat
  deriving DecidableEq, Repr

/-- An abacus at rest. -/
def Abacus.idle : Abacus := ⟨none, [], 0, none⟩

/-- A pair of cores with its local store and its tables (R62 to R75, R141, R147); `lastCtl` holds, by layer, one more than the
team slot whose control thread issued last, and `nextCtl` the first cycle in which the core's control stream may issue again (R187), and `lastCtx` the context it last served (R161). -/
structure Pair where
  l1sz : Nat
  grid : Option Nat
  pad : Tab Byte
  tags : Tab Bool
  poison : Tab Bool
  maps : Tab (Option MapEntry)
  sectors : Tab Sector
  locks : Tab (Option RangeLock)
  rings : Tab Ring
  rods : Tab Rod
  abaci : Tab Abacus
  lastGrant : Nat
  lastCtl : Tab Nat
  nextCtl : Tab Nat
  lastCtx : Option Nat
  deriving DecidableEq, Repr

/-- An idle pair: L1SZ as a grid without local store would set it (R63; DESIGN CHOICE, log 3). -/
def Pair.idle : Pair := ⟨458752, none, [], [], [], [], [], [], [], [], [], 31, [], [], none⟩

/-- A Proxo image as an island runs it (R404 to R409): operation words by cell and slot, the response map and constants. -/
structure Image where
  kind : Nat
  ii : Nat
  cells : Tab DWord
  map : List Nat
  consts : List Word
  digest : Nat
  deriving DecidableEq, Repr

/-- A request inside an island: the stream it came from, its words, and the cycle it was accepted (R403). A stream of 0
names an implicit requester; others name team * 16 + endpoint. -/
structure IslandReq where
  stream : Nat
  words : List Word
  accepted : Nat
  deriving DecidableEq, Repr

/-- An island: its image (none is the default image), stopped by a configuration error, frozen, requests in its cells, and
the stream served last (R383, R389, R403, R412). -/
structure Island where
  image : Option Image
  stopped : Bool
  frozen : Bool
  reqs : List IslandReq
  lastStream : Nat
  nextAt : Nat
  deriving DecidableEq, Repr

/-- An island as reset leaves it (R410). -/
def Island.start : Island := ⟨none, false, false, [], 0, 0⟩

/-- A blend request held in front of the blend island (R439, R441): its number, which gives the arrival order, when the island accepted it
or its cells took it (R403), its context, stream and source, its words, and its response once it has been committed or discarded. -/
structure BlendReq where
  id : Nat
  at_ : Nat
  ctx : Nat
  stream : Nat
  src : Batch
  words : List Word
  reply : Option (List Word)
  deriving DecidableEq, Repr

/-- A pixel a committed request wrote that no END has flushed yet: context, render-target slot, position, RGBA8, and the primitives that
have written it, as `BlendReq.prim` names them (R440). -/
structure PixelWrite where
  ctx : Nat
  slot : Nat
  x : Nat
  y : Nat
  rgba : Word
  prims : List Nat
  deriving DecidableEq, Repr

/-- A mode byte whose block data is written and that is still to be written itself (R440): its context, slot, block, address and
value, and the request whose END it belongs to with its stream. -/
structure ModeWrite where
  ctx : Nat
  slot : Nat
  col : Nat
  row : Nat
  addr : Nat
  mode : Nat
  req : Nat
  stream : Nat
  deriving DecidableEq, Repr

/-- The blend front end of a cluster: held requests in arrival order, committed pixels no END has flushed, mode bytes whose
block data is written but that are due themselves, and held splats (R439 to R441). -/
structure BlendUnit where
  held : List BlendReq
  pixels : List PixelWrite
  modes : List ModeWrite
  splats : List BlendReq
  deriving DecidableEq, Repr

/-- A blend front end at rest. -/
def BlendUnit.idle : BlendUnit := ⟨[], [], [], []⟩

/-- The kinds of operation a copy engine or its handle carries. -/
inductive OpKind where
  | copy
  | gather
  | scatter
  | tlblock
  | tlbunlock
  | pin
  | unpin
  | hostCopy
  | decompress
  deriving DecidableEq, Repr

/-- Units of an engine operation whose writes are acknowledged ahead of its completed prefix: the first, how many, and their W (R128,
R129). -/
structure Ahead where
  first : Nat
  count : Nat
  w : Nat
  deriving DecidableEq, Repr

/-- An engine operation (R127 to R137): who issued it, its unit (cluster, or 64 + slice), handle, MOD, copy descriptor
words, capabilities (destination, source, third), the bits of the target descriptor it read, units in all and acknowledged,
whether it has begun, the format of each side (4 FMT + BLK, 0 for plain; R131), whether cancellation was asked, its results
so far, the ring slots it claimed, the command window it serves, the owner fault it waits for, the pieces that are acknowledged ahead of
its prefix (R128), the destination units it has written where it may write one twice (R130), and when its last write was applied (R105). -/
structure EngOp where
  id : Nat
  unit : Nat
  team : Nat
  ctx : Nat
  pair : Nat
  hnd : Nat
  kind : OpKind
  md : BitVec 12
  desc : List DWord
  dst : TCap
  src : TCap
  third : TCap
  target : Nat
  total : Nat
  done : Nat
  started : Bool
  srcFmt : Nat
  dstFmt : Nat
  cancel : Bool
  rtry : Bool
  sparse : Bool
  status : Option (BitVec 8)
  wmax : Nat
  claimed : List Nat
  window : Option Nat
  waitFault : Option Nat
  ahead : List Ahead
  wrote : List (Nat × Nat)
  appliedAt : Nat
  deriving DecidableEq, Repr

/-- A record of a fault that goes to the owner of a page first (R49, R50), or of a BREAK under a debugger (R384): the agent,
the engine operation or the mapped sector (pair, sector) that waits for the owner. -/
structure FaultRec where
  id : Nat
  agent : Option Agent
  op : Option Nat
  sector : Option (Nat × Nat)
  ctx : Nat
  va : Nat
  code : TrapCode
  disabled : Bool
  core : Nat
  delivered : Bool
  pos : Nat
  actives : DWord
  handled : DWord
  deriving DecidableEq, Repr

/-- The parts of a launch record a grid keeps (R220, R352). -/
structure Launch where
  ctlEnt : BitVec 48
  vecEnt : BitVec 48
  width : Nat
  quad : Bool
  regs : Nat
  ranks : Nat
  spread : Nat
  gang : Nat
  prio : Nat
  accum : Nat
  lstore : Nat
  nteam : Nat
  ctrap : Int
  vtrap : Int
  wdlim : Nat
  mapva : Nat
  mapn : Nat
  succva : Nat
  succn : Nat
  args : List DWord
  deriving DecidableEq, Repr

/-- Why a thread does not commit: it traps, or its split waits and issues again. -/
inductive Stop where
  | trap (t : Trap)
  | block (w : Wait)
  deriving DecidableEq, Repr

/-- How a grid ended (R353, R449). -/
inductive GridEnd where
  | completed
  | trapped (code : TrapCode) (detail : DWord) (double : Option TrapCode)
  | frozen (code : TrapCode)
  | notPlaced (pcode : Nat)
  deriving DecidableEq, Repr

/-- A grid (R190, R254, R353): identifier, context, parent, depth, privilege, window that launched it, launch values, root
capability, the space, pair and address of a child's DONEW, the current TRAPH of each stream and watchdog limit, its map descriptors once the
first team has a pair (R358), teams placed and ended, how it ended, a denied unmap write-back, the largest WCT, and whether it retired. -/
structure Grid where
  id : Nat
  ctx : Nat
  parent : Option Nat
  depth : Nat
  priv : Bool
  window : Option Nat
  launch : Launch
  root : TCap
  donew : Option (Nat × Nat × Nat)
  trapV : BitVec 64
  trapC : BitVec 64
  wdlim : Nat
  descs : Option (List Nat)
  placed : Nat
  endedTeams : Nat
  ended : Option GridEnd
  wbd : Option Nat
  wmax : Nat
  retired : Bool
  deriving DecidableEq, Repr

/-- A gang whose pairs are being reserved: the grid, the cluster, members reserved so far as teams (R362, R363). -/
structure GangRes where
  grid : Nat
  cluster : Nat
  members : List Nat
  cancelled : Bool
  deriving DecidableEq, Repr

/-- The reckoner: its queues at key 2 * level for children and 2 * level + 1 for host grids, the gang under way, and the
acting replica (R355, R356). -/
structure Reckoner where
  queues : Tab (List Nat)
  gang : Option GangRes
  acting : Nat
  deriving DecidableEq, Repr

/-- An entry of a region attribute file (R35). -/
structure Region where
  psz : Nat
  en : Bool
  sparse : Bool
  lease : Nat
  part : Nat
  root : Nat
  lkbase : Nat
  lklen : Nat
  deriving DecidableEq, Repr

/-- A region out of use. -/
def Region.off : Region := ⟨0, false, false, 0, 0, 0, 0, 0⟩

/-- Whether a context runs, has been asked to halt (to be parked, or saved), has halted, is saved, or is parked by LINK_LOST (R391,
R448, R455). -/
inductive CtxMode where
  | running
  | halting (park : Bool)
  | halted (park : Bool)
  | saved
  | parked
  deriving DecidableEq, Repr

/-- What a saved context keeps: its teams, pairs and operations (R393 to R396), at a save-area address. -/
structure Saved where
  area : Nat
  teams : List Team
  pairs : Tab Pair
  ops : List EngOp
  digests : List Nat
  deriving DecidableEq, Repr

/-- A context (R35, R448, R451): its descriptor's address, the window, resume token and port it was bound with, what its descriptor
gives, its images and heap blocks, how it stands, its saved part, the end of its grace period, and when its last halt was asked for and
complete (R393). -/
structure Ctx where
  desc : Nat
  window : Nat
  token : DWord
  port : Nat
  regions : Tab Region
  ssbase : Nat
  rhp : List Nat
  heapBase : Nat
  heapLen : Nat
  rttab : Nat
  hostcap : TCap
  ipart : Nat
  code : TCap
  debugger : Bool
  images : Tab (Option Image)
  blocks : List (Nat × Nat)
  mode : CtxMode
  saved : Option Saved
  grace : Option Nat
  haltReq : Nat
  haltAt : Nat
  deriving DecidableEq, Repr

/-- A command that a window has taken up: sequence number, command code, MSIX, the 56 body bytes, whether its own step has
run, once it has ended its status, TCODE, PCODE, DT, DETAIL and AUX, the largest WCT, and whether bytes 8 to 31 of its completion
record are written (R125, R446, R448, R449). -/
structure Command where
  seq : Nat
  cmd : Nat
  msix : Bool
  body : List Byte
  begun : Bool
  deadline : Option Nat
  grid : Option Nat
  op : Option Nat
  status : Option Nat
  tcode : Nat
  pcode : Nat
  dt : Bool
  wbd : Bool
  detail : Nat
  aux : Nat
  wmax : Nat
  noted : Bool
  deriving DecidableEq, Repr

/-- A command window (R445) with its running command, its bound context, and by slot the PCMH of the port as it stood when the slot's
seal word arrived (R123). -/
structure Window where
  nextseq : Nat
  svc : Bool
  en : Bool
  recbase : Nat
  base : Nat
  port : Nat
  cmd : Option Command
  ctx : Option Nat
  seals : Tab Nat
  deriving DecidableEq, Repr

/-- A window at reset (R445). -/
def Window.start : Window := ⟨1, false, false, 0, 0, 0, none, none, []⟩

/-- The states of a port (R454). -/
inductive PortState where
  | up
  | hold
  | lost
  | train
  deriving DecidableEq, Repr

/-- The completion a host request received: data, and whether it carries poison, Unsupported Request or Completer Abort
(R126, R383, R399, R444). -/
structure HostResp where
  data : List Byte
  poison : Bool
  unsupported : Bool
  abort : Bool
  deriving DecidableEq, Repr

/-- No completion yet. -/
def HostResp.none : HostResp := ⟨[], false, false, false⟩

/-- A request of the host, which may wait for the device to leave C3 or C4 (R461): its device physical address and what it asks, or a read
of BAR0 (R444). -/
inductive HostReq where
  | read (pa len : Nat)
  | write (pa : Nat) (data : List Byte)
  | atomic (pa size : Nat) (kind : HostAtom) (value compare : DWord)
  | bar (off size : Nat)
  deriving DecidableEq, Repr

/-- One direction of a compressed tether since its last training (R452, R453): the last eight granules, newest first, the bytes of
the granule that is not full yet (sending) or of a group not wholly received, and the codes of the group that is being put together,
as tag and bytes. -/
structure Tether where
  last : List (List Byte)
  part : List Byte
  codes : List (Nat × List Byte)
  deriving DecidableEq, Repr

/-- A direction right after training (R452). -/
def Tether.fresh : Tether := ⟨[], [], []⟩

/-- A host port (R123, R442 to R455): its state, when lock was lost, cache partition, PCMH, whether it is frozen, wavelengths being
retrained and retired, dropped posted writes, link errors, both directions of its tether, when bytes were last sent, encoded bytes put
on the fibre, bytes delivered to the transaction layer, bytes sent, the completion of the last host request, and the requests that wait
for a power exit. -/
structure Port where
  state : PortState
  lostAt : Nat
  part : Nat
  pcmh : Nat
  frozen : Bool
  retraining : Nat
  retired : List Nat
  dropped : Nat
  errors : Nat
  rx : Tether
  tx : Tether
  lastTx : Nat
  wire : List Byte
  delivered : List Byte
  sent : List Byte
  resp : HostResp
  held : List HostReq
  deriving DecidableEq, Repr

/-- A port before its training completes (R458 step 9). -/
def Port.start : Port := ⟨.train, 0, 0, 0, false, 0, [], 0, 0, Tether.fresh, Tether.fresh, 0, [], [], [], HostResp.none, []⟩

/-- A service core: mailboxes by sender, freeze records, machine checks and log records (R31, R399, R457) (DESIGN CHOICE, log 58). -/
structure ServiceCore where
  mail : Tab (List (List Byte))
  freezes : List FreezeRec
  checks : Nat
  logs : List (Nat × Nat)
  deriving DecidableEq, Repr

/-- A service core with nothing in its queues. -/
def ServiceCore.empty : ServiceCore := ⟨[], [], 0, []⟩

/-- A slice: the way masks of its partitions, the MIXED_SIZE switch with the recorded size and offset of words, and its
error counts: transient, lasting, corrected by unit, rejected blends, conflicting host writes (R80, R122, R397, R398, R438). -/
structure Slice where
  ways : Tab (BitVec 16)
  debug : Bool
  words : Tab (Option (Nat × Nat))
  transient : Nat
  lasting : Nat
  corrected : Tab Nat
  blends : Nat
  mixedHost : Nat
  deriving DecidableEq, Repr

/-- A slice at reset; an unlisted way mask reads 0xFFFF (R80). -/
def Slice.start : Slice := ⟨[], false, [], 0, 0, [], 0, 0⟩

/-- A key of a core's duplicate filter and the time it was inserted (R161). -/
structure FilterEntry where
  key : Nat
  stamp : Nat
  deriving DecidableEq, Repr

/-- The board: installed memory, power limit, grace in ms, serial floors, port widths and partitions, image keys (R459). -/
structure Board where
  gib128 : Bool
  pwr : Nat
  grace : Nat
  floors : List Nat
  ports : List Nat
  keys : List (List Byte)
  deriving DecidableEq, Repr

/-- Where bring-up stands: the last step completed, or the failed step in recovery (R458). -/
structure Boot where
  step : Nat
  failed : Option Nat
  deriving DecidableEq, Repr

/-- Power states: of the device, clusters and cores by number, the exits under way, the tolerance in ns, when a host access last came,
and the time that the last exit from C3 or C4 gave every LEXP, LWCT, SEXP and SWCT (R460, R461). -/
structure Power where
  device : Nat
  clusters : Tab Nat
  cores : Tab Nat
  exiting : List PowerUnit
  tolerance : Nat
  lastHost : Nat
  floor : Nat
  deriving DecidableEq, Repr

end Sys2Proof.Machine
end

