-- ==== Sys2Proof/Machine/Cap.lean ====
section
/-! DEFINITION. Capabilities: their fields, bounds, derivation, and the checks every access makes (spec/01 R7 to R27). -/

namespace Sys2Proof.Machine

/-- SPACE (R9). -/
def capSpace (c : TCap) : Nat := bitsAt c.bits.toNat 124 4
/-- PERM (R9, R10). -/
def capPerm (c : TCap) : Nat := bitsAt c.bits.toNat 118 6
/-- G (R9). -/
def capG (c : TCap) : Nat := bitsAt c.bits.toNat 114 4
/-- L (R9). -/
def capL (c : TCap) : Nat := bitsAt c.bits.toNat 88 26
/-- CURSOR (R9). -/
def capCursor (c : TCap) : Nat := bitsAt c.bits.toNat 0 48
/-- The lower bound (R11). -/
def capBottom (c : TCap) : Nat := bitsAt c.bits.toNat 48 40 * 256
/-- The length (R11). -/
def capLen (c : TCap) : Nat := capL c <<< (8 + capG c)
/-- The upper bound, exact (R11). -/
def capTop (c : TCap) : Nat := capBottom c + capLen c

/-- The address top of a space (R7). -/
def spaceTop (space : Nat) : Nat := if space = 2 then 2 ^ 19 else if space = 3 then 2 ^ 21 else 2 ^ 48

/-- The 128 bits of a capability from its fields (R9). -/
def capMake (space perm g l base cursor : Nat) : BitVec 128 :=
  BitVec.ofNat 4 space ++ BitVec.ofNat 6 perm ++ BitVec.ofNat 4 g ++ BitVec.ofNat 26 l ++ BitVec.ofNat 40 base ++
    BitVec.ofNat 48 cursor

/-- A capability with another cursor (R23, R268). -/
def capSetCursor (c : TCap) (v : Nat) : TCap := { c with bits := c.bits.extractLsb' 48 80 ++ BitVec.ofNat 48 v }

/-- A capability with permission bits cleared (R23, R268). -/
def capNarrow (c : TCap) (mask : Nat) : TCap :=
  { c with bits := c.bits.extractLsb' 124 4 ++ (c.bits.extractLsb' 118 6 &&& BitVec.ofNat 6 mask) ++ c.bits.extractLsb' 0 118 }

/-- Whether every bit of `need` is in `perm`. -/
def permHas (perm need : Nat) : Bool := perm &&& need == need

/-- PERM masks of an access (R10, R26). -/
def permLD : Nat := 1
/-- Stores and copy destinations. -/
def permST : Nat := 2
/-- Instruction fetch. -/
def permEX : Nat := 4
/-- Loading a tagged capability. -/
def permTL : Nat := 8
/-- Storing a tagged capability. -/
def permTS : Nat := 16
/-- Atomics. -/
def permAT : Nat := 32

/-- The masters that R7 tells apart. -/
inductive Master where
  | vec | ctl | engine
  deriving DecidableEq, Repr

/-- A space is usable by a master (R7, R26): 5 not by the vector stream, 0 and 6 to 15 by no one. -/
def spaceUsable (m : Master) (space : Nat) : Bool :=
  decide (1 ≤ space) && decide (space ≤ 5) && !(space == 5 && m == .vec)

/-- The trap of a failed capability check on a footprint. -/
def capTrap (code : TrapCode) (detail : Nat) (addr : Int) (c : TCap) : Trap :=
  { code := code, detail := BitVec.ofNat 64 detail, addr := BitVec.ofInt 48 addr, val := c }

/-- Steps 1 to 3 of R25, and the stores, atomics and copy destinations that space 4 refuses (R26). -/
def capGate (m : Master) (need : Nat) (addr : Int) (c : TCap) : Option Trap :=
  if !c.tag then some (capTrap .capTag 0 addr c)
  else if !spaceUsable m (capSpace c) then some (capTrap .capPerm 0 addr c)
  else if !permHas (capPerm c) need then some (capTrap .capPerm 0 addr c)
  else if capSpace c == 4 && (need &&& (permST + permAT) != 0) then some (capTrap .capPerm 0 addr c)
  else none

/-- Step 4 of R25: the footprint [addr, addr + len) lies in bounds and, for spaces 2 and 3, in the scratchpad extent that
`extent` gives for a column (R8). -/
def capInBounds (extent : Nat → Nat) (addr : Int) (len : Nat) (c : TCap) : Bool :=
  decide ((capBottom c : Int) ≤ addr) && decide (addr + (len : Int) ≤ (capTop c : Int)) &&
    (if capSpace c == 2 then decide (addr + (len : Int) ≤ (extent 4 : Int))
     else if capSpace c == 3 then
       decide (addr.toNat % 2 ^ 19 + len ≤ extent (addr.toNat / 2 ^ 19))
     else true)

/-- Steps 1 to 5 of R25 in their order. -/
def capCheck (m : Master) (need align : Nat) (extent : Nat → Nat) (addr : Int) (len : Nat) (c : TCap) : Option Trap :=
  match capGate m need addr c with
  | some t => some t
  | none =>
    if !capInBounds extent addr len c then some (capTrap .capBounds 0 addr c)
    else if addr.toNat % align ≠ 0 then some { code := .misaligned, detail := BitVec.ofNat 64 (addr.toNat % 2 ^ 32) }
    else none

/-- The smallest g in 0..15 with ceil(span / 2^(8+g)) < 2^26 (R22) (DEDUCED, log 82). -/
def deriveG (span : Nat) : Nat := (findBelow (fun g => decide (ceilDiv span (2 ^ (8 + g)) < 2 ^ 26)) 16).getD 15

/-- CDERIVE (R22, R267): the child, or the violation. -/
def capDerive (parent : TCap) (reqbase reqlen space mask : Nat) : Except Trap TCap :=
  let bad (code : TrapCode) (d : Nat) : Except Trap TCap := .error (capTrap code d (reqbase : Int) parent)
  if !parent.tag then bad .capTag 0
  else if space = 0 ∨ 6 ≤ space ∨ ¬ (space = capSpace parent ∨ (capSpace parent = 1 ∧ space = 4)) then bad .capPerm 1
  else if 2 ^ 48 ≤ reqbase ∨ 2 ^ 49 ≤ reqlen then bad .capBounds 2
  else
    let b := reqbase / 256
    let span := reqbase + reqlen - b * 256
    let g := deriveG span
    let l := ceilDiv span (2 ^ (8 + g))
    if b * 256 < capBottom parent ∨ capTop parent < b * 256 + (l <<< (8 + g)) then bad .capBounds 2
    else
      let perm := capPerm parent &&& mask
      let perm := if space = 4 then perm &&& 0b001101 else perm
      .ok ⟨capMake space perm g l b reqbase, true⟩

/-- CKIND's word (R269). -/
def capKind (c : TCap) : Nat := capSpace c + 16 * capPerm c + (if c.tag then 1024 else 0)

/-- CPROBE's tests (R270). -/
def capProbe (test n : Nat) (c : TCap) : Bool :=
  if test = 0 then c.tag
  else if test = 1 then c.tag && decide (capBottom c ≤ capCursor c) && decide (capCursor c + n ≤ capTop c)
  else c.tag && permHas (capPerm c) (n % 64)

/-- A capability made by the device: the smallest scale that holds the length exactly (R14, R304). -/
def capOf (space perm bottom len cursor : Nat) : TCap :=
  let g := deriveG len
  ⟨capMake space perm g (ceilDiv len (2 ^ (8 + g))) (bottom / 256) cursor, true⟩

/-- The four 32-bit words of a capability in register order (R12). -/
def capWords (c : TCap) : List Word :=
  [c.bits.extractLsb' 0 32, c.bits.extractLsb' 32 32, c.bits.extractLsb' 64 32, c.bits.extractLsb' 96 32]

/-- A 128-bit value from four words. -/
def bits128 (w0 w1 w2 w3 : Word) : BitVec 128 := w3 ++ w2 ++ w1 ++ w0

end Sys2Proof.Machine
end

