-- ==== Sys2Proof/Machine/State.lean ====
section
/-! DEFINITION. The state of the device: everything the manual gives the machine, as plain data; the reasons a step can
stop; and the state right after reset. -/

namespace Sys2Proof.Machine

/-- Why the machine stops with a fault. -/
inductive Fault where
  /-- Raised by every access to device memory at a physical address at or above the installed size (02 intro: device
  memory occupies the addresses from 0 up to the installed size). Safe: the manual gives such an access no effect. -/
  | beyondInstalled (pa : Nat)
  deriving DecidableEq, Repr

/-- Why the machine has no meaning for an instruction. -/
inductive Refusal where
  /-- Raised by an arm of exec whose instruction is not modelled yet. Safe: nothing follows from it. -/
  | notModelled (mnemonic : String)
  deriving DecidableEq, Repr

/-- What the service kernel does outside the events of the table: it sets the debug switch of a slice (R122), or attaches a debugger to a
context (R252, R384). -/
inductive KernelAct where
  | debugSwitch (slice : Nat) (on : Bool)
  | debugger (ctx : Nat) (on : Bool)
  deriving DecidableEq, Repr

/-- Storage that fails (R397): a sector, a granule of a scratchpad, a v or k register, a register of a control thread by its field, a half
of an accumulator tile, an island's configuration, or an array whose parity error is fetched again. -/
inductive Upset where
  | sector (n : Nat)
  | granule (pair n : Nat)
  | vreg (team rank pos n : Nat)
  | kreg (team rank n : Nat)
  | ctl (team n : Nat)
  | tile (team n : Nat) (lower : Bool)
  | config (kind unit : Nat)
  | array (pair : Nat)
  deriving DecidableEq, Repr

/-- What moves next: a rod issues a pass of the split it chooses (R181), a core issues one instruction of the control thread
whose turn it is (R187), an event of the table happens, the service kernel acts, a read meets storage that has failed (R398), the host reads
BAR0 (R444), or nothing but time moves (DESIGN CHOICE, log 2). -/
inductive Move where
  | rod (pair rod : Nat)
  | ctl (pair layer : Nat)
  | event (i : Instr)
  | kernel (a : KernelAct)
  | upset (u : Upset) (n : Nat)
  | barRead (port off size : Nat)
  | tick
  deriving DecidableEq, Repr

/-- A move and the ticks that pass before it (DESIGN CHOICE, log 2). -/
structure Turn where
  ticks : Nat
  move : Move
  deriving DecidableEq, Repr

/-- The state of the device. -/
structure State where
  /-- Global time in ticks (R3, R105). -/
  gt : Nat
  /-- The board (R459) and how far bring-up has come (R458). -/
  board : Board
  boot : Boot
  power : Power
  /-- Device memory by physical address; an unlisted byte reads 0 (log 1). -/
  mem : Tab Byte
  /-- Poisoned sectors by sector number (R60) and the failing reads still waiting in a sector (R398). -/
  poison : Tab Bool
  flaws : Tab Nat
  /-- Stacked-cache lines by PA div 1,024, sets by slice * 8192 + set, slices (R78 to R81, R110, R122). -/
  lines : Tab (Option LineMeta)
  sets : Tab SetMeta
  slices : Tab Slice
  /-- Copies outside the homes (R108). -/
  copies : List Copy
  /-- L1 TLBs by pair and cluster TLBs by cluster, locked ranges, invalidates under way (R44, R47, R54). -/
  tlbs : Tab (List TlbEntry)
  clusterTlbs : Tab (List TlbEntry)
  lockRanges : List LockRange
  invalidates : List Invalidate
  /-- Units that wait for a page in migration (R58). -/
  migWaits : List MigWait
  /-- Accesses, deposits and remainder appends in flight (R112, R164, R186). -/
  accesses : List Access
  /-- The teams whose control thread, or a copy it issued, has written space 5 since its last flush read (R116). -/
  unflushed : List Nat
  deposits : List Deposit
  appends : List Append
  /-- Duplicate filters by core (R161). -/
  filters : Tab (List FilterEntry)
  /-- Pairs by number, and which clusters' and slices' copy-engine units are frozen (R29). -/
  pairs : Tab Pair
  engines : Tab Bool
  ops : List EngOp
  /-- Islands by 1024 * kind + unit, blend front ends by cluster (R400, R439). -/
  islands : Tab Island
  blends : Tab BlendUnit
  /-- Resident teams, grids of the device, the reckoner, contexts by number (R170 to R190, R355, R451). -/
  teams : List Team
  grids : List Grid
  reckoner : Reckoner
  ctxs : Tab (Option Ctx)
  /-- The host interface: windows, ports, MSI-X messages sent (R442 to R449). -/
  windows : Tab Window
  ports : Tab Port
  msix : List Nat
  /-- Service cores, and faults on their way to or with an owner (R49, R457). -/
  cores : Tab ServiceCore
  faults : List FaultRec
  /-- The GRIDIDs handed out since reset (R254: a GRIDID is unique on the device until reset). -/
  gridIds : List Nat
  /-- The model's own: the next identifier of an access, operation, fault or team, and how many thread writes the homes have applied,
  which orders them (R106). -/
  nextId : Nat
  order : Nat
  /-- The model's own: the moves to come, the agent whose instruction runs, the counter of the free values, and the fault a
  nested operation met (log 2, 4, 5). -/
  agenda : List Turn
  cur : Agent
  free : Nat
  hole : Option Fault
  deriving DecidableEq, Repr

/-- A stacked-cache set that nothing has touched (R110). -/
def SetMeta.zero : SetMeta := ⟨0, 0⟩

/-- The board of the model's reset state: 64 GiB, 320 W, a grace of 30,000 ms, no serial floor, port 0 lit at one pair, no
image keys (R459; DESIGN CHOICE, log 3). -/
def Board.start : Board := ⟨false, 320, 30000, [0, 0, 0, 0], [1, 0, 0, 0, 0, 0, 0, 0], []⟩

/-- The machine right after reset: bring-up has not begun, nothing is cached, placed or bound (DESIGN CHOICE, log 1, 3). -/
def State.reset : State :=
  { gt := 0, board := Board.start, boot := ⟨0, none⟩, power := ⟨0, [], [], [], 0, 0, 0⟩,
    mem := [], poison := [], flaws := [], lines := [], sets := [], slices := [], copies := [],
    tlbs := [], clusterTlbs := [], lockRanges := [], invalidates := [], migWaits := [],
    accesses := [], unflushed := [], deposits := [], appends := [], filters := [],
    pairs := [], engines := [], ops := [], islands := [], blends := [],
    teams := [], grids := [], reckoner := ⟨[], none, 0⟩, ctxs := [],
    windows := [], ports := [], msix := [], cores := [], faults := [],
    gridIds := [], nextId := 1, order := 0, agenda := [], cur := .ctl 0, free := 0, hole := none }

end Sys2Proof.Machine
end

