-- ==== Sys2Proof/Machine/Ops.lean ====
section
/-! DEFINITION. The named operations over the state: teams, ranks, splits, registers, convergence, taking a trap and
returning from one, freezes and the failure of a grid (spec/01 R29 to R33, spec/08 R177 to R191, spec/18 R376 to R382). -/

namespace Sys2Proof.Machine

/-! ## Masks -/

/-- Position p is in a mask. -/
def maskHas (m : DWord) (p : Nat) : Bool := m.getLsbD p

/-- The mask of a list of positions. -/
def maskOf : List Nat → DWord
  | [] => 0
  | p :: l => maskOf l ||| (1#64 <<< p)

/-- The positions of a mask, ascending. -/
def maskList (m : DWord) : List Nat := (List.range 64).filter (maskHas m)

/-- Every position from 0 to W - 1. -/
def maskFull (w : Nat) : DWord := BitVec.ofNat 64 (2 ^ w - 1)

/-- The positions of one mask that are not in another. -/
def maskMinus (a b : DWord) : DWord := a &&& ~~~b

/-! ## Finding and replacing teams, ranks and pairs -/

/-- The team with an identifier. -/
def State.team (s : State) (uid : Nat) : Option Team := s.teams.find? (fun t => t.uid == uid)

/-- Replaces the team of the same identifier. -/
def State.putTeam (s : State) (t : Team) : State := { s with teams := s.teams.map (fun u => if u.uid = t.uid then t else u) }

/-- The pair with a number (R3). -/
def State.pair (s : State) (p : Nat) : Pair := tabGet Pair.idle s.pairs p

/-- Replaces a pair. -/
def State.putPair (s : State) (p : Nat) (v : Pair) : State := { s with pairs := tabPut Pair.idle s.pairs p v }

/-- The rod with a pair-rod number. -/
def State.rod (s : State) (p q : Nat) : Rod := tabGet Rod.idle (s.pair p).rods q

/-- Replaces a rod. -/
def State.putRod (s : State) (p q : Nat) (v : Rod) : State :=
  s.putPair p { s.pair p with rods := tabPut Rod.idle (s.pair p).rods q v }

/-- The grid with an identifier. -/
def State.grid (s : State) (id : Nat) : Option Grid := s.grids.find? (fun g => g.id == id)

/-- Replaces the grid of the same identifier. -/
def State.putGrid (s : State) (g : Grid) : State := { s with grids := s.grids.map (fun h => if h.id = g.id then g else h) }

/-- A context, when the number is bound. -/
def State.ctx (s : State) (n : Nat) : Option Ctx := tabGet none s.ctxs n

/-- Replaces a context. -/
def State.putCtx (s : State) (n : Nat) (c : Ctx) : State := { s with ctxs := tabPut none s.ctxs n (some c) }

/-- Takes the next identifier. -/
def State.newId (s : State) : Nat × State := (s.nextId, { s with nextId := s.nextId + 1 })

/-- Takes the next free value's index (log 4). -/
def State.newFree (s : State) : Nat × State := (s.free, { s with free := s.free + 1 })

/-- The rank of a number in a team. -/
def Team.rank (t : Team) (j : Nat) : Option Rank := t.ranks.find? (fun r => r.num == j)

/-- Replaces the rank of the same number. -/
def Team.putRank (t : Team) (r : Rank) : Team := { t with ranks := t.ranks.map (fun u => if u.num = r.num then r else u) }

/-- The pair-rod of a rank as the key of its pair's rods. -/
def rodKey (r : Rank) : Nat := r.rod

/-- The core of a pair-rod (R3, R171). -/
def coreOf (pair rod : Nat) : Nat := 2 * pair + rod / 16

/-- The layer of a team's leader core (R171). -/
def Team.layer (t : Team) : Nat := t.baseRod / 16

/-- The cluster of a pair and its column (R3). -/
def clusterOf (pair : Nat) : Nat := pair / 4

/-- The stack of a pair, whose service core takes its freeze records (R3, R31). -/
def stackOf (pair : Nat) : Nat := pair / 32

/-- The scratchpad extent of a pair (R8, R62). -/
def State.extent (s : State) (p : Nat) : Nat := Config.localStore - (s.pair p).l1sz

/-- The extents that a local (4) or pooled (column) access of a pair checks (R8). -/
def State.extentOf (s : State) (p : Nat) (col : Nat) : Nat :=
  if col = 4 then s.extent p else if col < 4 then s.extent (4 * clusterOf p + col) else 0

/-! ## Threads and registers -/

/-- The thread at a position. -/
def Rank.thread (r : Rank) (p : Nat) : Thread := (r.threads[p]?).getD { Thread.start with life := .ended }

/-- Changes the thread at a position. -/
def Rank.modThread (r : Rank) (p : Nat) (f : Thread → Thread) : Rank := { r with threads := listMod f r.threads p }

/-- The register vn of a position (R183). -/
def Rank.vreg (r : Rank) (p n : Nat) : VReg := tabGet VReg.zero (r.thread p).regs n

/-- Writes the whole of a register, its bits included. -/
def Rank.putVreg (r : Rank) (p n : Nat) (v : VReg) : Rank :=
  r.modThread p (fun t => { t with regs := tabPut VReg.zero t.regs n v })

/-- The TAG of the quad that holds vn (R16). -/
def Rank.vtag (r : Rank) (p n : Nat) : Bool := tabGet false (r.thread p).tags (n / 4)

/-- Sets the TAG of the quad that holds vn. -/
def Rank.putVtag (r : Rank) (p n : Nat) (b : Bool) : Rank :=
  r.modThread p (fun t => { t with tags := tabPut false t.tags (n / 4) b })

/-- An ordinary write of vn: full, no error mark, the quad's TAG cleared (R17, R184, R292). -/
def Rank.writeV (r : Rank) (p n : Nat) (w : Word) : Rank := (r.putVreg p n ⟨w, true, none⟩).putVtag p n false

/-- Marks vn empty, its value left (R184, R328). -/
def Rank.emptyV (r : Rank) (p n : Nat) : Rank := r.putVreg p n { r.vreg p n with full := false }

/-- vn is full (R184). -/
def Rank.isFull (r : Rank) (p n : Nat) : Bool := (r.vreg p n).full

/-- The rank is converged: it has one live split (R182). A split parked at a JOIN is live (R177). -/
def Rank.converged (r : Rank) : Bool := decide (r.splits.length ≤ 1)

/-- The register kn (R182). -/
def Rank.kreg (r : Rank) (n : Nat) : KReg := tabGet KReg.zero r.k n

/-- UNCORRECTABLE of a read of k registers of which one has a lasting error (R399). -/
def Rank.kErr (r : Rank) (ns : List Nat) : Option Trap :=
  (ns.find? (fun n => (r.kreg n).err)).map (fun n => { code := .uncorrectable, detail := BitVec.ofNat 64 n })

/-- The TAG of the quad that holds kn. -/
def Rank.ktag (r : Rank) (n : Nat) : Bool := tabGet false r.ktags (n / 4)

/-- A write to kn by the split of an age (R182): the conflict bit and writer mark, and the quad's TAG (R17, R18). -/
def Rank.writeK (r : Rank) (age n : Nat) (w : Word) : Rank :=
  let old := r.kreg n
  let new : KReg :=
    if r.converged then ⟨w, false, none, false⟩
    else if old.wm = none ∨ old.wm = some age then ⟨w, old.cf, some age, false⟩
    else ⟨w, true, some age, false⟩
  { r with k := tabPut KReg.zero r.k n new, ktags := tabPut false r.ktags (n / 4) false }

/-- A write of a k quad with a TAG (R16, R18, R271): a register of it that has its conflict bit set then leaves it untagged. -/
def Rank.writeKQuad (r : Rank) (age n : Nat) (c : TCap) : Rank :=
  let r' := (capWords c).zipIdx.foldl (fun r wi => r.writeK age (n + wi.2) wi.1) r
  { r' with ktags := tabPut false r'.ktags (n / 4) (c.tag && !(List.range 4).any (fun i => (r'.kreg (n + i)).cf)) }

/-- A write of a v quad with a TAG, in one commit (R16). -/
def Rank.writeVQuad (r : Rank) (p n : Nat) (c : TCap) : Rank :=
  ((capWords c).zipIdx.foldl (fun r wi => r.writeV p (n + wi.2) wi.1) r).putVtag p n c.tag

/-- Predicate n of a position; p0 reads true (R6). -/
def Rank.pred (r : Rank) (p n : Nat) : Bool := n == 0 || (r.thread p).preds.getLsbD n

/-- A bit of a predicate byte set or cleared; p0 is not written (R197). -/
def setPredBit (m : BitVec 8) (n : Nat) (b : Bool) : BitVec 8 :=
  if n = 0 then m else if b then m ||| (1#8 <<< n) else m &&& ~~~(1#8 <<< n)

/-- Writes predicate n of a position; a write to p0 is ignored (R197). -/
def Rank.putPred (r : Rank) (p n : Nat) (b : Bool) : Rank :=
  r.modThread p (fun t => { t with preds := setPredBit t.preds n b })

/-- A thread commits no side effect: it is a helper (R175). -/
def Rank.helper (r : Rank) (p : Nat) : Bool := decide ((r.thread p).life = .helper)

/-- The threads of a rank that have ended (R180). -/
def Rank.endedMask (r : Rank) : DWord :=
  maskOf ((List.range r.width).filter (fun p => decide ((r.thread p).life = .ended)))

/-- The registers a rank costs its rod's pool (R322). -/
def Rank.cost (r : Rank) : Nat := if r.ended then 0 else r.width * r.top

/-- The ranks that stand on a rod, with their teams. -/
def State.ranksOn (s : State) (pair q : Nat) : List (Team × Rank) :=
  (s.teams.filter (fun t => t.pair == pair)).flatMap (fun t => (t.ranks.filter (fun r => r.rod == q && !r.ended)).map (fun r => (t, r)))

/-- Registers free in a rod's pool (R322). -/
def State.poolFree (s : State) (pair q : Nat) : Nat :=
  Config.poolRegs - ((s.ranksOn pair q).foldl (fun n tr => n + tr.2.cost) 0)

/-- The rank in a slot of a rod. -/
def State.rankAt (s : State) (pair q slot : Nat) : Option (Team × Rank) :=
  (s.ranksOn pair q).find? (fun tr => tr.2.slot == slot)

/-! ## Splits -/

/-- The split of an age. -/
def Rank.split (r : Rank) (age : Nat) : Option Split := r.splits.find? (fun x => x.age == age)

/-- Replaces the split of the same age. -/
def Rank.putSplit (r : Rank) (x : Split) : Rank := { r with splits := r.splits.map (fun y => if y.age = x.age then x else y) }

/-- Removes the split of an age. -/
def Rank.dropSplit (r : Rank) (age : Nat) : Rank := { r with splits := r.splits.filter (fun y => y.age != age) }

/-- Puts an age in its place in a rising list, once. -/
def ageInsert (a : Nat) : List Nat → List Nat
  | [] => [a]
  | b :: l => if a < b then a :: b :: l else if a = b then b :: l else b :: ageInsert a l

/-- The ages that are in use, of splits and of records, rising (R177, R178). -/
def Rank.agesUsed (r : Rank) : List Nat :=
  (r.splits.map (fun x => x.age) ++ r.recs.filterMap (fun e => e.2.map (fun c => c.age))).foldr ageInsert []

/-- Renumbers the live ages in their order, when SCNT would pass 0xFFFF (R177). -/
def Rank.renumber (r : Rank) : Rank :=
  let ages := r.agesUsed
  let f (a : Nat) : Nat := (ages.findIdx? (fun b => b == a)).getD a
  { r with
    scnt := ages.length
    splits := r.splits.map (fun x => { x with age := f x.age })
    recs := r.recs.map (fun e => (e.1, e.2.map (fun c => { c with age := f c.age })))
    k := r.k.map (fun e => (e.1, { e.2 with wm := e.2.wm.map f })) }

/-- When one live split is left it takes age 0, SCNT becomes 1, and every writer mark is cleared (R177, R182). -/
def Rank.settle (r : Rank) : Rank :=
  match r.splits with
  | [x] =>
    { r with
      scnt := 1
      splits := [{ x with age := 0 }]
      k := r.k.foldl (fun k e => tabPut KReg.zero k e.1 { e.2 with wm := none }) r.k }
  | _ => r

/-! ## The focus of a pass: the state with its issuing team, rank and split in hand -/

/-- What a vector pass works on: the state, and the issuing team, rank and split, which the state gets back at the end. -/
structure Foc where
  s : State
  t : Team
  r : Rank
  x : Split

/-- Opens the issuing split of the current agent. -/
def focus (s : State) : Option Foc :=
  match s.cur with
  | .ctl _ => none
  | .vec uid j age =>
    match s.team uid with
    | none => none
    | some t =>
      match t.rank j with
      | none => none
      | some r =>
        match r.split age with
        | none => none
        | some x => some ⟨s, t, r, x⟩

/-- Copies a shared range from one rank's registers to the other's: values, full bits, marks and TAGs (R185). -/
def copyShare (src dst : Rank) (own partner n : Nat) : Rank :=
  let step (d : Rank) (p i : Nat) : Rank :=
    let d := d.putVreg p (partner + i) (src.vreg p (own + i))
    if i % 4 = 0 then d.putVtag p (partner + i) (src.vtag p (own + i)) else d
  (List.range dst.width).foldl (fun d p => (List.range (8 * n)).foldl (fun d i => step d p i) d) dst

/-- Gives a rank's shared registers to the ranks it shares them with (R185). -/
def State.syncShares (s : State) (uid : Nat) (r : Rank) : State :=
  r.shares.foldl (fun s h =>
    match s.team h.team with
    | none => s
    | some t => match t.rank h.rank with
      | none => s
      | some q => if h.team = uid ∧ q.num = r.num then s else s.putTeam (t.putRank (copyShare r q h.own h.partner h.blocks))) s

/-- Gives a changed rank back to its team in the state, and its shared registers to their other ranks. -/
def State.putRank (s : State) (uid : Nat) (r : Rank) : State :=
  match s.team uid with
  | none => s
  | some t => (s.putTeam (t.putRank r)).syncShares uid r

/-- Whether an agent names a split of a rank. -/
def agentIn (a : Agent) (uid j : Nat) : Bool :=
  match a with
  | .vec u k _ => u == uid && k == j
  | .ctl _ => false

/-- Follows the renaming of a rank's splits in what names them: the rod's current split, yields and claims, and faults. -/
def State.renameSplits (s : State) (pair q uid j : Nat) (f : Nat → Nat) : State :=
  let g (a : Agent) : Agent := match a with
    | .vec u k age => if u = uid ∧ k = j then .vec u k (f age) else a
    | .ctl _ => a
  let rod := s.rod pair q
  let rod := { rod with
    cur := rod.cur.map g
    yielded := rod.yielded.map (fun e => (g e.1, e.2.map g))
    claims := rod.claims.map (fun c => if c.team = uid ∧ c.rank = j then { c with age := f c.age } else c) }
  { s.putRod pair q rod with faults := s.faults.map (fun r => { r with agent := r.agent.map g }), cur := g s.cur }

/-- Closes a focus whose split may be gone: the rank settles (R177), and everything goes back into the state. -/
def Foc.close (f : Foc) : State :=
  let r := f.r
  let s := f.s.putTeam (f.t.putRank r)
  let s := s.syncShares f.t.uid r
  match r.splits with
  | [y] =>
    let s := if y.age = 0 then s else s.renameSplits f.t.pair r.rod f.t.uid r.num (fun _ => 0)
    s.putTeam ((s.team f.t.uid).getD f.t |>.putRank ((((s.team f.t.uid).getD f.t).rank r.num).getD r).settle)
  | _ =>
    if 65535 < r.scnt then
      let ages := r.agesUsed
      let s := s.renameSplits f.t.pair r.rod f.t.uid r.num (fun a => (ages.findIdx? (fun b => b == a)).getD a)
      s.putTeam ((s.team f.t.uid).getD f.t |>.putRank ((((s.team f.t.uid).getD f.t).rank r.num).getD r).renumber)
    else s

/-- Puts the split of the focus back into its rank. -/
def Foc.putSplit (f : Foc) (x : Split) : Foc := { f with x := x, r := f.r.putSplit x }

/-- Stops the rod's current split, so that the rod chooses anew (R181). -/
def Foc.stopCur (f : Foc) : Foc :=
  let rod := f.s.rod f.t.pair f.r.rod
  { f with s := f.s.putRod f.t.pair f.r.rod { rod with cur := none, watch := 0 } }

/-- The split goes on at a PC with its next pass whole. -/
def Foc.goto (f : Foc) (pc : BitVec 48) : Foc :=
  f.putSplit { f.x with pc := pc, resume := 0, given := [], wait := .none }

/-- The split goes on after a word. -/
def Foc.next (f : Foc) : Foc := f.goto (f.x.pc + 8)

/-- The split waits at its PC, to be issued again from its resume position (Block(), R6). -/
def Foc.block (f : Foc) (w : Wait) : Foc := (f.putSplit { f.x with wait := w }).stopCur

/-! ## Queue positions for faults and freezes -/

/-- A service core (R457). -/
def State.core (s : State) (n : Nat) : ServiceCore := tabGet ServiceCore.empty s.cores n

/-- Changes a service core (DEDUCED, log 37). -/
def State.modCore (s : State) (n : Nat) (f : ServiceCore → ServiceCore) : State :=
  { s with cores := tabMod ServiceCore.empty s.cores n f }

/-- The 64 bytes of a freeze record, as a freeze queue shows them (R382). -/
def FreezeRec.bytes (r : FreezeRec) : List Byte :=
  natLe 64 (r.val.bits.toNat * 2 ^ 384 + (if r.val.tag then 2 ^ 383 else 0) + r.addr.toNat * 2 ^ 320 + r.pc.toNat * 2 ^ 272 + r.resume % 64 * 2 ^ 266 +
    r.grid % 2 ^ 64 * 2 ^ 192 + r.more % 2 ^ 32 * 2 ^ 160 + r.gtv % 2 ^ 64 * 2 ^ 64 + r.mkind % 256 * 2 ^ 32 + r.mid % 2 ^ 16 * 2 ^ 16 + r.code % 256)

/-- Appends a freeze record to a service core's queue (R31). -/
def State.sendFreeze (s : State) (core : Nat) (r : FreezeRec) : State :=
  s.modCore core (fun c => { c with freezes := c.freezes ++ [r] })

/-- Counts a further violation of a frozen master in the record its service core holds (R31, R382). -/
def State.countFreeze (s : State) (core mkind mid : Nat) : State :=
  s.modCore core (fun c => { c with freezes := c.freezes.map (fun r =>
    if r.mkind = mkind ∧ r.mid = mid then { r with more := min (r.more + 1) (2 ^ 32 - 1) } else r) })

/-- Freezes a team for a violation at a PC and resume position (R29 to R31); a second one is counted (R33). -/
def State.freezeTeam (s : State) (uid : Nat) (tr : Trap) (pc : BitVec 48) (resume : Nat) : State :=
  match s.team uid with
  | none => s
  | some t =>
    match t.frozen with
    | some f =>
      (s.putTeam { t with frozen := some { f with more := min (f.more + 1) (2 ^ 32 - 1) } }).countFreeze
        (stackOf t.pair) 0 (t.pair * 32 + t.slot)
    | none =>
      let rec_ : FreezeRec := { val := tr.val, addr := tr.addr, pc := pc, resume := resume, grid := t.grid, more := 0, gtv := s.gt,
                                mkind := 0, mid := t.pair * 32 + t.slot, code := tr.code.num }
      let s := (s.putTeam { t with frozen := some rec_ }).sendFreeze (stackOf t.pair) rec_
      -- the leases of a frozen team end (R374)
      s.putPair t.pair { s.pair t.pair with abaci := (s.pair t.pair).abaci.map (fun e =>
        (e.1, { e.2 with holder := if e.2.holder = some uid then none else e.2.holder })) }

/-- A team whose threads have all ended, by the end of its grid (R32, R381). -/
def Team.kill (t : Team) : Team :=
  { t with
    halted := true
    lc := 0
    ctl := { t.ctl with ended := true, wait := .none, handler := none }
    ranks := t.ranks.map (fun r => { r with
      ended := true
      handler := none
      splits := []
      shares := []
      threads := r.threads.map (fun th => { th with life := .ended }) }) }

/-- Halts every team of a grid saving nothing, cancels its engine operations, drops its map entries without write-back and
ends its leases (R32, R75, R381). -/
def State.stopGrid (s : State) (gid : Nat) : State :=
  let mine := s.teams.filter (fun t => t.grid == gid)
  let uids := mine.map (fun t => t.uid)
  let pairs := mine.map (fun t => t.pair)
  let has (u : Nat) : Bool := uids.any (fun v => v == u)
  let clean (p : Pair) : Pair :=
    { p with
      maps := []
      sectors := []
      rods := p.rods.map (fun e => (e.1, { e.2 with
        cur := match e.2.cur with
          | some (.vec u _ _) => if has u then none else e.2.cur
          | c => c
        claims := e.2.claims.filter (fun c => !has c.team) }))
      abaci := p.abaci.map (fun e => (e.1, { e.2 with
        holder := match e.2.holder with
          | some u => if has u then none else some u
          | none => none
        ops := e.2.ops.filter (fun o => !has o.team) })) }
  { s with
    teams := s.teams.map (fun t => if t.grid = gid then t.kill else t)
    ops := s.ops.map (fun o => if has o.team then { o with cancel := true } else o)
    faults := s.faults.filter (fun r => match r.agent with
      | some (.vec u _ _) => !has u
      | some (.ctl u) => !has u
      | none => true)
    pairs := s.pairs.map (fun e => if pairs.any (fun p => p == e.1) then (e.1, clean e.2) else e) }

/-- Fails a grid for a user trap (R381): the first failure is recorded, and every team stops (DEDUCED, log 48). -/
def State.failGrid (s : State) (gid : Nat) (code : TrapCode) (detail : DWord) (double : Option TrapCode) : State :=
  match s.grid gid with
  | none => s
  | some g =>
    let g := match g.ended with
      | none => { g with ended := some (.trapped code detail double) }
      | some _ => g
    (s.putGrid g).stopGrid gid

/-! ## Taking a trap -/

/-- The entry address of a stream's user handler; 0 is none (R254). -/
def State.traph (s : State) (gid : Nat) (ctl : Bool) : Nat :=
  match s.grid gid with
  | none => 0
  | some g => if ctl then g.trapC.toNat else g.trapV.toNat

/-- Whether a debugger is attached to a context (R252, R384). -/
def State.debugged (s : State) (ctx : Nat) : Bool := ((s.ctx ctx).map (fun c => c.debugger)).getD false

/-- The trap PC that a handler reads: past the word for SOFTWARE and BREAK (R377). -/
def trapPcOf (code : TrapCode) (pc : BitVec 48) : BitVec 48 := if code = .software ∨ code = .brk then pc + 8 else pc

/-- The XOR of the PFN bits that give slice bit k (R83). -/
def hashBit (f k : Nat) : Nat → Bool
  | 0 => false
  | n + 1 => (hashBit f k n) != bitAt f (k + 3 * n)

/-- The home slice of a frame, and the owner of an absent page (R48, R83). -/
def sliceOf (pfn : Nat) : Nat :=
  (if hashBit pfn 2 9 then 4 else 0) + (if hashBit pfn 1 9 then 2 else 0) + (if hashBit pfn 0 10 then 1 else 0)

/-- Whether a trap code goes to the owner of a page first (R49, R376). -/
def ownerFirst (code : TrapCode) : Bool := code == .notPresent || code == .permission

/-- What the taker of a trap knows of the pass: the position i, H, the threads active in the pass, and the PCs it gave. -/
structure TrapAt where
  pos : Nat
  handled : List Nat
  actives : List Nat

/-- Writes k60 to k63 at the entry to a handler (R182, R377). -/
def trapWords (r : Rank) (age : Nat) (code : TrapCode) (tpc : BitVec 48) (detail : DWord) : Rank :=
  (((r.writeK age 60 (BitVec.ofNat 32 code.num)).writeK age 61 (tpc.extractLsb' 0 32)).writeK age 62
    ((tpc.extractLsb' 32 16).setWidth 32)).writeK age 63 (detail.extractLsb' 0 32)

/-- A trap of a vector-stream split reaches its handler (R377, R380, R381): beside a running handler of the rank it is withdrawn, in
a handler or without one it fails the grid, and any other enters the user handler (DEDUCED, log 48). -/
def Foc.deliver (f : Foc) (tr : Trap) (w : TrapAt) : State :=
  let x := f.x
  match f.r.handler with
  | some h =>
    if x.inHandler then f.close.failGrid f.t.grid tr.code tr.detail (some h.code)
    else ((f.putSplit { x with resume := w.pos, wait := .withdrawn }).stopCur).close
  | none =>
    let entry := f.s.traph f.t.grid false
    if entry = 0 then f.close.failGrid f.t.grid tr.code tr.detail (some tr.code)
    else
      let tpc := trapPcOf tr.code x.pc
      let save : HandlerSave := { code := tr.code, trapPc := tpc, pc := x.pc, resume := w.pos, mask := x.mask,
                                  actives := maskOf w.actives, handled := maskOf w.handled, given := x.given, record := x.record }
      let r := trapWords f.r x.age tr.code tpc tr.detail
      let x' := { x with mask := maskOf w.handled, pc := BitVec.ofNat 48 entry, resume := 0, given := [], record := none,
                         wait := .none, inHandler := true, notBefore := max (f.s.rod f.t.pair f.r.rod).doneAt (f.s.gt + 1) + 2 }
      (({ f with r := { r with handler := some save } }.putSplit x').stopCur).close

/-- Taking a trap of a vector-stream split (R376, R377, R380, R381, R384). A violation freezes the team; a page fault, and
BREAK under a debugger, wait for the owner; any other is delivered. -/
def Foc.trap (f : Foc) (tr : Trap) (w : TrapAt) : State :=
  let x := f.x
  if tr.code.violation then
    ((f.putSplit { x with resume := w.pos }).stopCur.close).freezeTeam f.t.uid tr x.pc w.pos
  else if ownerFirst tr.code || (tr.code == .brk && f.s.debugged f.t.ctx) then
    let (id, s) := f.s.newId
    let rec_ : FaultRec := { id := id, agent := some (.vec f.t.uid f.r.num x.age), op := none, sector := none, ctx := f.t.ctx, va := tr.addr.toNat,
                             code := tr.code, disabled := tr.detail.getLsbD 63, core := sliceOf (tr.addr.toNat / 4096),
                             delivered := false, pos := w.pos, actives := maskOf w.actives, handled := maskOf w.handled }
    (({ f with s := { s with faults := s.faults ++ [rec_] } }.putSplit { x with resume := w.pos, wait := .owner id }).stopCur).close
  else f.deliver tr w

/-- Writes a scalar register; s0 ignores writes (R187). -/
def Ctl.putS (c : Ctl) (n : Nat) (v : DWord) : Ctl := if n = 0 then c else { c with s := tabPut 0 c.s n v, errs := tabPut false c.errs n false }

/-- Reads a scalar register; s0 reads zero (R187). -/
def Ctl.getS (c : Ctl) (n : Nat) : DWord := if n = 0 then 0 else tabGet 0 c.s n

/-- Reads a capability register. -/
def Ctl.getC (c : Ctl) (n : Nat) : TCap := tabGet TCap.null c.c n

/-- Writes a capability register. -/
def Ctl.putC (c : Ctl) (n : Nat) (v : TCap) : Ctl := { c with c := tabPut TCap.null c.c n v, errs := tabPut false c.errs (64 + n) false }

/-- UNCORRECTABLE of a read of registers of the control thread, named by their fields, of which one has a lasting error (R399). -/
def Ctl.readErr (c : Ctl) (reads : List Nat) : Option Trap :=
  (reads.find? (fun n => tabGet false c.errs n)).map (fun n => { code := .uncorrectable, detail := BitVec.ofNat 64 n })

/-- Predicate n of the control thread; p0 reads true. -/
def Ctl.pred (c : Ctl) (n : Nat) : Bool := n == 0 || c.preds.getLsbD n

/-- Writes predicate n of the control thread. -/
def Ctl.putPred (c : Ctl) (n : Nat) (b : Bool) : Ctl := { c with preds := setPredBit c.preds n b }

/-- A trap of a team's control thread reaches its handler (R378, R381), with s60 to s62. -/
def State.deliverCtl (s : State) (t : Team) (tr : Trap) : State :=
  let c := t.ctl
  match c.handler with
  | some h => (s.putTeam t).failGrid t.grid tr.code tr.detail (some h.code)
  | none =>
    let entry := s.traph t.grid true
    if entry = 0 then (s.putTeam t).failGrid t.grid tr.code tr.detail (some tr.code)
    else
      let tpc := trapPcOf tr.code c.pc
      let c := ((c.putS 60 (BitVec.ofNat 64 tr.code.num)).putS 61 (tpc.setWidth 64)).putS 62 tr.detail
      s.putTeam { t with ctl := { c with pc := BitVec.ofNat 48 entry, wait := .none, handler := some ⟨tr.code, tpc⟩, earliest := max c.earliest (s.gt + 3) } }

/-- Taking a trap of a team's control thread (R376, R378, R381): as Foc.trap. -/
def State.trapCtl (s : State) (t : Team) (tr : Trap) : State :=
  let c := t.ctl
  if tr.code.violation then (s.putTeam t).freezeTeam t.uid tr c.pc 0
  else if ownerFirst tr.code || (tr.code == .brk && s.debugged t.ctx) then
    let (id, s) := s.newId
    let rec_ : FaultRec := { id := id, agent := some (.ctl t.uid), op := none, sector := none, ctx := t.ctx, va := tr.addr.toNat, code := tr.code,
                             disabled := tr.detail.getLsbD 63, core := sliceOf (tr.addr.toNat / 4096), delivered := false,
                             pos := 0, actives := 0, handled := 0 }
    { s with faults := s.faults ++ [rec_] }.putTeam { t with ctl := { c with wait := .owner id } }
  else s.deliverCtl t tr

/-! ## Returning from a handler -/

/-- Groups positions by the PC each goes to, in order of their lowest positions. -/
def groupByPc : List (Nat × BitVec 48) → List (BitVec 48 × List Nat)
  | [] => []
  | (p, pc) :: l =>
    let rest := groupByPc l
    match rest.find? (fun g => g.1 == pc) with
    | some g => (pc, p :: g.2) :: rest.filter (fun h => h.1 != pc)
    | none => (pc, [p]) :: rest

/-- Where each thread of a returning split goes, when T is not the trap PC of a re-issue (R379). -/
def retPlaces (h : HandlerSave) (mask : DWord) (t : BitVec 48) : List (Nat × BitVec 48) :=
  let soft := h.code == .software || h.code == .brk
  (maskList mask).map (fun p =>
    if soft then (p, if maskHas h.handled p then t else h.trapPc)
    else if maskHas h.actives p && decide (h.resume ≤ p) then (p, t)
    else (p, ((h.given.find? (fun g => g.1 == p)).map (fun g => g.2)).getD (h.pc + 8)))

/-- The return of a split from its rank's handler to T (R379): the trapped instruction again from the saved resume position,
or each thread to its place, the part with the lowest position first and current. -/
def Foc.retTo (f : Foc) (h : HandlerSave) (t : BitVec 48) : Foc :=
  let mask := maskMinus h.mask f.r.endedMask
  let f := { f with r := { f.r with handler := none } }
  let soft := h.code == .software || h.code == .brk
  if !soft && t == h.trapPc then
    f.putSplit { f.x with mask := mask, pc := h.pc, resume := h.resume, given := h.given, record := h.record, wait := .none, inHandler := false }
  else
    match groupByPc (retPlaces h mask t) with
    | [] => f.putSplit { f.x with mask := 0, pc := t, resume := 0, given := [], record := h.record, wait := .none, inHandler := false }
    | (pc, ps) :: rest =>
      let f := f.putSplit { f.x with mask := maskOf ps, pc := pc, resume := 0, given := [], record := h.record, wait := .none, inHandler := false }
      rest.foldl (fun f g =>
        let y : Split := { mask := maskOf g.2, pc := g.1, age := f.r.scnt, record := h.record, resume := 0, given := [], wait := .none, inHandler := false, notBefore := 0 }
        { f with r := { f.r with splits := f.r.splits ++ [y], scnt := f.r.scnt + 1 } }) f

/-! ## Convergence -/

/-- The lowest free record of the convergence table (R178, R179). -/
def Rank.freeRec (r : Rank) : Option Nat := findBelow (fun i => decide ((tabGet none r.recs i : Option ConvRec) = none)) 16

/-- Divides a split among destinations (R179, R240): it keeps the first; each later one becomes a parked split. A record is
made when a join address is given; none when no record is free. -/
def Foc.divide (f : Foc) (places : List (BitVec 48 × List Nat)) (join : Option (BitVec 48)) : Option Foc :=
  match places with
  | [] => some f.next
  | [(pc, ps)] => some ((f.goto pc).putSplit { (f.goto pc).x with mask := maskOf ps })
  | (pc, ps) :: rest =>
    let made : Option (Foc × Option Nat) := match join with
      | none => some (f, f.x.record)
      | some j =>
        match f.r.freeRec with
        | none => none
        | some i =>
          let c : ConvRec := { up := f.x.record, age := f.x.age, jpc := j, mask := f.x.mask, arr := 0 }
          some ({ f with r := { f.r with recs := tabPut none f.r.recs i (some c) } }, some i)
    match made with
    | none => none
    | some (f, record) =>
      let f := f.putSplit { f.x with mask := maskOf ps, pc := pc, resume := 0, given := [], record := record, wait := .none }
      some (rest.foldl (fun f g =>
        let y : Split := { mask := maskOf g.2, pc := g.1, age := f.r.scnt, record := record, resume := 0, given := [],
                           wait := .none, inHandler := f.x.inHandler, notBefore := 0 }
        { f with r := { f.r with splits := f.r.splits ++ [y], scnt := f.r.scnt + 1 } }) f)

/-- Completes a record whose arrivals and ended threads cover its mask (R180): the parked splits give way to one merged
split. `current` says whether the split of the focus brought the last arrival. -/
def Rank.merge (r : Rank) (i : Nat) (c : ConvRec) (inHandler : Bool) : Rank :=
  let z : Split := { mask := maskMinus c.mask r.endedMask, pc := c.jpc + 8, age := c.age, record := c.up, resume := 0, given := [],
                     wait := .none, inHandler := inHandler, notBefore := 0 }
  let keep := r.splits.filter (fun y => !decide (y.wait = .join i))
  { r with
    recs := tabPut none r.recs i none
    splits := if z.mask = 0 then keep else (keep.filter (fun y => y.age != z.age)) ++ [z] }

/-- Merges the records that arrivals and ended threads have completed, until none is left (R180). -/
def Rank.settleRecs (r : Rank) : Nat → Rank
  | 0 => r
  | n + 1 =>
    match r.recs.find? (fun e => match e.2 with
        | some c => decide (maskMinus c.mask (c.arr ||| r.endedMask) = 0)
        | none => false) with
    | some (i, some c) =>
      Rank.settleRecs (r.merge i c (r.splits.any (fun y => decide (y.wait = .join i) && y.inHandler))) n
    | _ => r

end Sys2Proof.Machine
end

