-- ==== Sys2Proof/Machine/Memory.lean ====
section
/-! DEFINITION. Memory: homes and their leases, the stacked cache, translation and TLBs, scratchpad sectors, and the
accesses in flight (spec/02 R34 to R61, spec/03 R62 to R84, spec/05 R105 to R122). -/

namespace Sys2Proof.Machine

/-! ## The stacked cache and the times of a home -/

/-- The installed size of device memory (02 intro) (DEDUCED, log 5). -/
def State.installed (s : State) : Nat := if s.board.gib128 then 2 ^ 37 else 2 ^ 36

/-- The set of a physical address: its slice times 8,192 and LA[22:10] (R78, R84). -/
def setOf (pa : Nat) : Nat := sliceOf (pa / 4096) * 8192 + (bitsAt pa 15 11 * 4 + bitsAt pa 10 2)

/-- The mask of ways a partition may use in a slice; 0xFFFF at reset (R80). -/
def State.wayMask (s : State) (slice part : Nat) : BitVec 16 := tabGet 0xFFFF (tabGet Slice.start s.slices slice).ways part

/-- The lines of a set that are held, by address div 1,024. -/
def State.setLines (s : State) (set : Nat) : List (Nat × LineMeta) :=
  s.lines.filterMap (fun e => match e.2 with | some m => if setOf (e.1 * 1024) = set then some (e.1, m) else none | none => none)

/-- Changes a slice. -/
def State.modSlice (s : State) (n : Nat) (f : Slice → Slice) : State := { s with slices := tabMod Slice.start s.slices n f }

/-- Evicts a line: its times fold into its set, and the record of word sizes is lost (R110, R122) (DESIGN CHOICE, log 11). -/
def State.evict (s : State) (line : Nat) : State :=
  match tabGet none s.lines line with
  | none => s
  | some m =>
    let set := setOf (line * 1024)
    let s := { s with
      lines := tabPut none s.lines line none
      sets := tabMod SetMeta.zero s.sets set (fun e => ⟨max e.sexp m.lexp, max e.swct m.lwct⟩) }
    s.modSlice (set / 8192) (fun c => { c with words := tabClear c.words (line * 128) 128 })

/-- Allocates the line of an address in a way the partition may use, when there is one (R79, R80): a free way, or an
unpinned victim that is an open choice (DESIGN CHOICE, log 11). -/
def State.touch (s : State) (pa part : Nat) : State :=
  let line := pa / 1024
  match tabGet none s.lines line with
  | some _ => s
  | none =>
    let set := setOf pa
    let mask := s.wayMask (set / 8192) part
    let held := s.setLines set
    let usable := (List.range 16).filter (fun w => mask.getLsbD w && !held.any (fun e => e.2.way == w && e.2.pinned))
    let free := usable.filter (fun w => !held.any (fun e => e.2.way == w))
    let start (s : State) (way : Nat) : State :=
      let e := tabGet SetMeta.zero s.sets set
      { s with lines := tabPut none s.lines line (some ⟨max e.sexp s.power.floor, max e.swct s.power.floor, way, false, 0, 0⟩) }
    match free with
    | w :: _ => start s w
    | [] =>
      match usable with
      | [] => s
      | w0 :: _ =>
        let (i, s) := s.newFree
        let way := (usable[Config.freeNat i % usable.length]?).getD w0
        match held.find? (fun e => e.2.way == way) with
        | some (l, _) => start (s.evict l) way
        | none => s

/-- The stacked-cache lines of a range of bytes. -/
def linesOf (pa len : Nat) : List Nat :=
  if len = 0 then [] else (List.range ((pa + len - 1) / 1024 + 1 - pa / 1024)).map (fun i => pa / 1024 + i)

/-- Allocates every line of a range (R79). -/
def State.touchAll (s : State) (pa len part : Nat) : State := (linesOf pa len).foldl (fun s l => s.touch (l * 1024) part) s

/-- The bursts of a line's sectors that a range touches (R79). -/
def sectorBursts (line pa len : Nat) : BitVec 32 :=
  (List.range 4).foldl (fun m k =>
    if line * 1024 + 256 * k < pa + len ∧ pa < line * 1024 + 256 * k + 256 then m ||| (0xFF#32 <<< (8 * k)) else m) 0

/-- The sectors of a line that a range touches. -/
def sectorBits (line pa len : Nat) : BitVec 4 :=
  (List.range 4).foldl (fun m k =>
    if line * 1024 + 256 * k < pa + len ∧ pa < line * 1024 + 256 * k + 256 then m ||| (1#4 <<< k) else m) 0

/-- Notes in a held line what is filled and what is dirty (R79). -/
def State.noteLine (s : State) (line : Nat) (filled : BitVec 32) (dirty : BitVec 4) : State :=
  match tabGet none s.lines line with
  | none => s
  | some m => { s with lines := tabPut none s.lines line (some { m with filled := m.filled ||| filled, dirty := m.dirty ||| dirty }) }

/-- The sectors of a range are filled in the lines that are held; a write leaves them dirty (R79). -/
def State.noteFilled (s : State) (pa len : Nat) (write : Bool) : State :=
  (linesOf pa len).foldl (fun s l => s.noteLine l (sectorBursts l pa len) (if write then sectorBits l pa len else 0)) s

/-- Every burst of a sector is held in the stacked cache (R79, R82). -/
def State.sectorHeld (s : State) (sector : Nat) : Bool :=
  match tabGet none s.lines (sector / 4) with
  | none => false
  | some m => (m.filled >>> (8 * (sector % 4))) &&& 0xFF#32 == 0xFF#32

/-- LEXP and LWCT as the home uses them for an address: the line's, or its set's when the line is not held (R110); an exit from C3 or C4
has set those of every set (R460). -/
def State.times (s : State) (pa : Nat) : Nat × Nat :=
  match tabGet none s.lines (pa / 1024) with
  | some m => (m.lexp, m.lwct)
  | none => let e := tabGet SetMeta.zero s.sets (setOf pa); (max e.sexp s.power.floor, max e.swct s.power.floor)

/-- Raises LEXP and LWCT for an address (R110, R111). -/
def State.raise (s : State) (pa lexp lwct : Nat) : State :=
  match tabGet none s.lines (pa / 1024) with
  | some m => { s with lines := tabPut none s.lines (pa / 1024) (some { m with lexp := max m.lexp lexp, lwct := max m.lwct lwct }) }
  | none => { s with sets := tabMod SetMeta.zero s.sets (setOf pa) (fun e => ⟨max e.sexp lexp, max e.swct lwct⟩) }

/-- A lease granted on the line of an address: its expiry (R108, R111). -/
def State.grant (s : State) (pa code : Nat) : Nat × State :=
  let expiry := s.gt + (256 <<< code)
  (expiry, s.raise pa expiry 0)

/-- The latest LEXP of the lines of a range (R110, R111). -/
def State.lexpOf (s : State) (pa len : Nat) : Nat := (linesOf pa len).foldl (fun m l => max m (s.times (l * 1024)).1) 0

/-- A write or atomic applied to the lines of a range: its W (R111). -/
def State.applied (s : State) (pa len : Nat) : Nat × State :=
  let w := max s.gt (s.lexpOf pa len)
  (w, (linesOf pa len).foldl (fun s l => s.raise (l * 1024) 0 w) s)

/-! ## Device memory -/

/-- Marks an access beyond the installed size (log 5). -/
def State.reach (s : State) (pa len : Nat) : State :=
  if pa + len ≤ s.installed then s
  else match s.hole with
    | some _ => s
    | none => { s with hole := some (.beyondInstalled (if s.installed ≤ pa then pa else s.installed)) }

/-- Reads one sector's state for a read: poisoned, failing for good, failing once, or sound. A slice logs what a second read finds:
that of the sector's frame, or the page's owner in a migration (R59, R60, R398) (DEDUCED, log 51). -/
def State.sectorReadBy (s : State) (slice sector : Nat) : State × Option TrapCode :=
  if tabGet false s.poison sector then (s, some .poison)
  else
    match tabGet 0 s.flaws sector with
    | 0 => (s, none)
    | 1 => ({ s with flaws := tabPut 0 s.flaws sector 0 }.modSlice slice (fun c => { c with transient := c.transient + 1 }), none)
    | n + 2 => ({ s with flaws := tabPut 0 s.flaws sector n, poison := tabPut false s.poison sector true }.modSlice slice
        (fun c => { c with lasting := c.lasting + 1 }), some .uncorrectable)

/-- A read of a sector at its home slice (R398). -/
def State.sectorRead (s : State) (sector : Nat) : State × Option TrapCode := s.sectorReadBy (sliceOf (sector / 16)) sector

/-- Reads the sectors of a range in turn; the first failure is the read's. -/
def State.sectorsRead (s : State) (sector : Nat) : Nat → State × Option TrapCode
  | 0 => (s, none)
  | n + 1 =>
    match s.sectorRead sector with
    | (s, some e) => (s, some e)
    | (s, none) => s.sectorsRead (sector + 1) n

/-- The sectors of a range of bytes. -/
def sectorCount (pa len : Nat) : Nat := if len = 0 then 0 else (pa + len - 1) / 256 + 1 - pa / 256

/-- A read of device memory at its home (R79, R398): the bytes, or the error met. -/
def State.readDev (s : State) (pa len part : Nat) : State × Except TrapCode (List Byte) :=
  let s := ((s.reach pa len).touchAll pa len part).noteFilled pa len false
  match s.sectorsRead (pa / 256) (sectorCount pa len) with
  | (s, some e) => (s, .error e)
  | (s, none) => (s, .ok (memBytes s.mem pa len))

/-- A read of the leading bytes of a sector that holds a compressed block: only their bursts are read from GDDR 7, and the sector
is held partly filled; none for no bytes (R82). -/
def State.readBursts (s : State) (pa len part : Nat) : State × Except TrapCode (List Byte) :=
  if len = 0 then (s, .ok [])
  else
    let s := (s.reach pa len).touch pa part
    let s := s.noteLine (pa / 1024) (BitVec.ofNat 32 (2 ^ ((len + 31) / 32) - 1) <<< (8 * (pa / 256 % 4))) 0
    match s.sectorRead (pa / 256) with
    | (s, some e) => (s, .error e)
    | (s, none) => (s, .ok (memBytes s.mem pa len))

/-- Clears the poison mark of every sector that a write covers whole (R60) (DEDUCED, log 51). -/
def clearPoison (poison : Tab Bool) (pa len : Nat) : Tab Bool :=
  (List.range (sectorCount pa len)).foldl (fun t i =>
    let b := (pa / 256 + i) * 256
    if pa ≤ b ∧ b + 256 ≤ pa + len then tabPut false t (b / 256) false else t) poison

/-- The sectors that a write touches in part and that their held lines lack are filled first (R79). -/
def State.fillPartial (s : State) (pa len : Nat) : State :=
  (List.range (sectorCount pa len)).foldl (fun s i =>
    let k := pa / 256 + i
    let whole := decide (pa ≤ 256 * k) && decide (256 * k + 256 ≤ pa + len)
    if whole || s.sectorHeld k || (tabGet none s.lines (k / 4)).isNone then s else (s.sectorRead k).1) s

/-- A write of bytes to device memory at its home, and its W (R79, R111). -/
def State.writeDev (s : State) (pa part : Nat) (bytes : List Byte) : Nat × State :=
  let s := ((s.reach pa bytes.length).touchAll pa bytes.length part).fillPartial pa bytes.length
  let s := { s with mem := memPut s.mem pa bytes, poison := clearPoison s.poison pa bytes.length }
  (s.noteFilled pa bytes.length true).applied pa bytes.length

/-! ## Scratchpad -/

/-- The map entry that covers a local offset of a pair, with its index (R68). -/
def Pair.mapAt (p : Pair) (off : Nat) : Option (Nat × MapEntry) :=
  p.maps.findSome? (fun e => match e.2 with
    | some m => if m.soff * 256 ≤ off ∧ off < (m.soff + m.slen) * 256 then some (e.1, m) else none
    | none => none)

/-- The mapped sector at a local offset. -/
def Pair.sector (p : Pair) (sec : Nat) : Sector := tabGet Sector.fresh p.sectors sec

/-- Replaces the state of a mapped sector. -/
def Pair.putSector (p : Pair) (sec : Nat) (v : Sector) : Pair := { p with sectors := tabPut Sector.fresh p.sectors sec v }

/-- The dirty bits of the granules of a sector that a write of [off, off + len) touches (R71). -/
def granuleBits (sec off len : Nat) : BitVec 16 :=
  (List.range 16).foldl (fun m g =>
    let lo := sec * 256 + g * 16
    if lo < off + len ∧ off < lo + 16 then m ||| (1#16 <<< g) else m) 0

/-- A write to a mapped sector moves its state (R71); a sector in U takes a whole-sector write only. -/
def Sector.write (x : Sector) (bits : BitVec 16) : Sector :=
  match x.st with
  | .u => { x with st := .d, dirty := 0xFFFF }
  | .f => x
  | .c => { x with st := .d, dirty := x.dirty ||| bits }
  | .d => { x with dirty := x.dirty ||| bits }
  | .w => { x with st := .wd, dirty := x.dirty ||| bits }
  | .wd => { x with dirty := x.dirty ||| bits }

/-- The mapped sectors of [off, off + len), ascending. -/
def Pair.mappedIn (p : Pair) (off len : Nat) : List Nat :=
  ((List.range (sectorCount off len)).map (fun i => off / 256 + i)).filter (fun sec => (p.mapAt (sec * 256)).isSome)

/-- The first sector of a pad that a read of [off, off + len) must fill. -/
def Pair.unfilled (p : Pair) (off len : Nat) : Option Nat :=
  (p.mappedIn off len).find? (fun sec => decide ((p.sector sec).st = .u ∨ (p.sector sec).st = .f))

/-- A byte range of a pad meets a mapped range with a number format, which only element accesses reach (R42, R95, R96). -/
def Pair.onFormat (p : Pair) (off len : Nat) : Bool :=
  (p.mappedIn off len).any (fun sec => match p.mapAt (sec * 256) with | some (_, m) => m.fmt != 0 || m.blk != 0 | none => false)

/-- A write of bytes to a scratchpad at its home column (R20, R71, R397): it clears the granules' TAGs, clears the poison
of whole granules, and marks mapped sectors dirty. `tag` is set by a tagged STCAP (R19). -/
def Pair.write (p : Pair) (off : Nat) (bytes : List Byte) (tag : Bool) : Pair :=
  let len := bytes.length
  let grans := (List.range ((off + len + 15) / 16 - off / 16)).map (fun i => off / 16 + i)
  let p := { p with
    pad := memPut p.pad off bytes
    tags := grans.foldl (fun t g => tabPut false t g tag) p.tags
    poison := grans.foldl (fun t g => if off ≤ g * 16 ∧ g * 16 + 16 ≤ off + len then tabPut false t g false else t) p.poison }
  (p.mappedIn off len).foldl (fun p sec => p.putSector sec ((p.sector sec).write (granuleBits sec off len))) p

/-- Whether a read of [off, off + len) meets a poisoned granule (R397). -/
def Pair.poisoned (p : Pair) (off len : Nat) : Bool :=
  (List.range ((off + len + 15) / 16 - off / 16)).any (fun i => tabGet false p.poison (off / 16 + i))

/-! ## Translation -/

/-- Who makes a translated access: its pair, context and team. -/
structure Req where
  pair : Nat
  ctx : Nat
  team : Nat

/-- The region entry of a context (R34, R35). -/
def State.region (s : State) (ctx n : Nat) : Region := ((s.ctx ctx).map (fun c => tabGet Region.off c.regions n)).getD Region.off

/-- log2 of a page size code (R35). -/
def pageBits (psz : Nat) : Nat := if psz = 0 then 12 else if psz = 1 then 16 else if psz = 2 then 21 else 30

/-- The index slices of the walker, top level first: low bit and width (R38). -/
def walkLevels (psz : Nat) : List (Nat × Nat) :=
  if psz = 0 then [(36, 8), (28, 8), (20, 8), (12, 8)]
  else if psz = 1 then [(30, 14), (16, 14)]
  else if psz = 2 then [(36, 8), (28, 8), (21, 7)]
  else [(37, 7), (30, 7)]

/-- What a walk finds: a leaf, an absent-and-sparse page, an absent one, or an entry that cannot be read, with the error and its
address (DEDUCED, log 13). -/
inductive Walk where
  | leaf (e : DWord)
  | sparse
  | absent
  | bad (code : TrapCode) (pa : Nat)
  deriving DecidableEq, Repr

/-- The first byte of the table a PFN names; a 128 KiB table ignores the low 5 bits (R39). -/
def tableBase (psz pfn : Nat) : Nat := if psz = 1 then pfn / 32 * 32 * 4096 else pfn * 4096

/-- The walk of one tree (R38 to R43, R61). -/
def State.walkFrom (s : State) (r : Region) (va : Nat) : List (Nat × Nat) → Nat → State × Walk
  | [], _ => (s, .absent)
  | (lo, n) :: rest, pfn =>
    let pa := tableBase r.psz pfn + 8 * bitsAt va lo n
    match s.readDev pa 8 r.part with
    | (s, .error e) => (s, .bad e pa)
    | (s, .ok bytes) =>
      let e := BitVec.ofNat 64 (leNat bytes)
      if !e.getLsbD 0 then (s, if e.getLsbD 1 && r.sparse then .sparse else .absent)
      else match rest with
        | [] => (s, .leaf e)
        | _ => s.walkFrom r va rest (bitsAt e.toNat 12 28)

/-- The walk from a region's root. -/
def State.walk (s : State) (r : Region) (va : Nat) : State × Walk := s.walkFrom r va (walkLevels r.psz) r.root

/-- The leaf of an address as the tables in memory hold it now, looked at without an access; none where no page is present. -/
def State.peekFrom (s : State) (r : Region) (va : Nat) : List (Nat × Nat) → Nat → Option DWord
  | [], _ => none
  | (lo, n) :: rest, pfn =>
    let e := BitVec.ofNat 64 (leNat (memBytes s.mem (tableBase r.psz pfn + 8 * bitsAt va lo n) 8))
    if !e.getLsbD 0 then none
    else match rest with
      | [] => some e
      | _ => s.peekFrom r va rest (bitsAt e.toNat 12 28)

/-- The leaf that a region's tree holds for an address. -/
def State.peekLeaf (s : State) (r : Region) (va : Nat) : Option DWord := s.peekFrom r va (walkLevels r.psz) r.root

/-- The page number of an address in its region. -/
def pageOf (r : Region) (va : Nat) : Nat := bitsAt va 0 44 / 2 ^ pageBits r.psz

/-- The TLB entry for a page (DESIGN CHOICE, log 12). -/
def tlbFind (l : List TlbEntry) (ctx region page : Nat) (lock : Option Nat) : Option TlbEntry :=
  l.find? (fun e => e.ctx == ctx && e.region == region && e.page == page && decide (e.locked = lock))

/-- Puts a translation into the L1 TLB of the pair and the TLB of its cluster; the oldest make room (R44) (DESIGN CHOICE, log 12). -/
def State.tlbFill (s : State) (pair : Nat) (e : TlbEntry) : State :=
  let put (n : Nat) (l : List TlbEntry) : List TlbEntry :=
    let same (x : TlbEntry) : Bool := x.ctx == e.ctx && x.region == e.region && x.page == e.page
    let locked := l.filter (fun x => decide (x.locked ≠ none))
    locked ++ (e :: (l.filter (fun x => decide (x.locked = none) && !same x))).take n
  { s with
    tlbs := tabMod [] s.tlbs pair (put 48)
    clusterTlbs := tabMod [] s.clusterTlbs (clusterOf pair) (put 2048) }

/-- Drops the unlocked translations of a page from both levels (R46). -/
def State.tlbDrop (s : State) (pair ctx region page : Nat) : State :=
  let cut (l : List TlbEntry) : List TlbEntry :=
    l.filter (fun x => !(decide (x.locked = none) && x.ctx == ctx && x.region == region && x.page == page))
  { s with tlbs := tabMod [] s.tlbs pair cut, clusterTlbs := tabMod [] s.clusterTlbs (clusterOf pair) cut }

/-- A locked entry that denied an access is discarded and the fresh leaf stands in its place (R46, R56) (DEDUCED, log 12). -/
def State.tlbRelock (s : State) (pair team ctx region page : Nat) (e : DWord) : State :=
  { s with tlbs := tabMod [] s.tlbs pair (fun l => l.map (fun x =>
      if x.ctx = ctx ∧ x.region = region ∧ x.page = page ∧ x.locked = some team then { x with leaf := e } else x)) }

/-- The need bits of a leaf: R is bit 2, W bit 3, X bit 4 (R41, R45). -/
def needR : Nat := 4
/-- W. -/
def needW : Nat := 8
/-- X. -/
def needX : Nat := 16

/-- A leaf has every bit that an access needs. -/
def leafHas (e : DWord) (need : Nat) : Bool := e.toNat &&& need == need

/-- A present page as an access sees it: first byte, size, offset of the address, leaf, and region. -/
structure Page where
  base : Nat
  size : Nat
  off : Nat
  leaf : DWord
  reg : Region

/-- FMT of a leaf (R41). -/
def Page.fmt (p : Page) : Nat := bitsAt p.leaf.toNat 40 4
/-- BLK of a leaf. -/
def Page.blk (p : Page) : Nat := bitsAt p.leaf.toNat 44 2
/-- The partition an access through a leaf uses: the leaf's with PV, else its region's. Every translated access has one of the two, so
the context's island partition, a later source of R80, serves none (DEDUCED, log 63). -/
def Page.part (p : Page) : Nat := if p.leaf.getLsbD 7 then bitsAt p.leaf.toNat 8 4 else p.reg.part

/-- What a translation gives. -/
inductive Tr where
  | page (p : Page)
  | sparse
  | fault (t : Trap)
  | migrating

/-- A translation fault with the address as R376 gives it; bit 63 marks a disabled region for the owner (R37). -/
def vaTrap (code : TrapCode) (va : Nat) (disabled : Bool) : Trap :=
  { code := code, detail := BitVec.ofNat 64 (va % 2 ^ 32 + (if disabled then 2 ^ 63 else 0)), addr := BitVec.ofNat 48 va }

/-- The page a leaf names, the frame bits below the page alignment taken as zero (R42). -/
def pageFor (r : Region) (e : DWord) (va : Nat) : Page :=
  let b := pageBits r.psz
  ⟨bitsAt e.toNat 12 28 * 4096 / 2 ^ b * 2 ^ b, 2 ^ b, va % 2 ^ b, e, r⟩

/-- What a walk's result means for an access: the permission check, MIG for writers, sparseness, or the fault (R43, R45,
R58, R61). -/
def trOf (r : Region) (va need : Nat) (w : Walk) : Tr :=
  match w with
  | .leaf e =>
    if !leafHas e need then .fault (vaTrap .permission va false)
    else if (need &&& needW != 0) && e.getLsbD 5 then .migrating
    else .page (pageFor r e va)
  | .sparse => if need = needX then .fault (vaTrap .notPresent va false) else .sparse
  | .absent => .fault (vaTrap .notPresent va false)
  | .bad e pa => .fault { code := e, detail := BitVec.ofNat 64 (pa % 2 ^ 32), addr := BitVec.ofNat 48 va }

/-- The team's locked range on the pair that holds an address (R54, R56). -/
def State.lockRangeAt (s : State) (q : Req) (va : Nat) : Option LockRange :=
  s.lockRanges.find? (fun l => l.pair == q.pair && l.team == q.team && l.ctx == q.ctx && decide (l.lo ≤ va) && decide (va < l.hi))

/-- An invalidate under way names a page (R47). -/
def State.invalidating (s : State) (ctx region page : Nat) : Bool :=
  s.invalidates.any (fun v => v.ctx == ctx && v.region == region && decide (v.page ≤ page) && decide (page < v.page + v.pages))

/-- The unlocked translation of a page that a pair finds: in its own TLB, or in its cluster's (R44). -/
def State.tlbHit (s : State) (q : Req) (region page : Nat) : Option TlbEntry :=
  match tlbFind (tabGet [] s.tlbs q.pair) q.ctx region page none with
  | some e => some e
  | none => tlbFind (tabGet [] s.clusterTlbs (clusterOf q.pair)) q.ctx region page none

/-- A miss of both levels goes to the walker, and a present leaf or a sparse result is cached in both (R44, R46). -/
def State.walkFill (s : State) (q : Req) (r : Region) (va need : Nat) : State × Tr :=
  let n := va / 2 ^ 44 % 16
  let page := pageOf r va
  let (s, w) := (s.tlbDrop q.pair q.ctx n page).walk r va
  let s := match w with
    | .leaf e => s.tlbFill q.pair ⟨q.ctx, n, page, e, false, none⟩
    | .sparse => s.tlbFill q.pair ⟨q.ctx, n, page, 0, true, none⟩
    | _ => s
  (s, trOf r va need w)

/-- A translation served from a locked entry of the team: one that denies is walked anew (R46, R54). -/
def State.walkLocked (s : State) (q : Req) (r : Region) (va need : Nat) (e : TlbEntry) : State × Tr :=
  if leafHas e.leaf need then (s, trOf r va need (.leaf e.leaf))
  else
    let (s, w) := s.walk r va
    match w with
    | .leaf f => (s.tlbRelock q.pair q.team q.ctx e.region e.page f, trOf r va need w)
    | _ => (s, trOf r va need w)

/-- Translates an address (R34 to R46, R52, R56). A hit uses the cached translation; while an invalidate names the page, it uses it or
walks anew, as an open choice (R47); one that denies is dropped and walked anew (R46) (DESIGN CHOICE, log 12). -/
def State.translate (s : State) (q : Req) (va need : Nat) : State × Tr :=
  let n := va / 2 ^ 44 % 16
  let r := s.region q.ctx n
  if !r.en then (s, .fault (vaTrap .notPresent va true))
  else
    let page := pageOf r va
    match s.lockRangeAt q va with
    | some l =>
      if l.broken then (s, .fault (vaTrap .tlbLockMiss va false))
      else match tlbFind (tabGet [] s.tlbs q.pair) q.ctx n page (some q.team) with
        | some e => s.walkLocked q r va need e
        | none => (s, .fault (vaTrap .tlbLockMiss va false))
    | none =>
      match s.tlbHit q n page with
      | none => s.walkFill q r va need
      | some e =>
        let open_ := s.invalidating q.ctx n page
        let (i, s) := if open_ then s.newFree else (0, s)
        if open_ && !Config.freeBool i then s.walkFill q r va need
        else match trOf r va need (if e.sparse then .sparse else .leaf e.leaf) with
          | .fault _ => s.walkFill q r va need
          | t => (s.tlbFill q.pair e, t)

/-- The service core that owns the page of an address (R37, R48): by the page's first frame when it is present, else by the address of
its first byte; a region out of use has pages of 4 KiB. -/
def State.pageOwner (s : State) (ctx va : Nat) : Nat :=
  let r := s.region ctx (va / 2 ^ 44 % 16)
  if !r.en then sliceOf (va % 2 ^ 40 / 4096)
  else match s.peekLeaf r va with
    | some e => sliceOf ((pageFor r e va).base / 4096)
    | none => sliceOf (va / 2 ^ pageBits r.psz * 2 ^ pageBits r.psz % 2 ^ 40 / 4096)

/-! ## Range locks -/

/-- The domain and first address of a range as a table compares it: spaces 1 and 4 together, local and pooled offsets
together, the host alone (R143). -/
def lockKey (space addr : Nat) : Nat × Nat :=
  if space = 1 ∨ space = 4 then (1, addr) else if space = 2 then (2, addr) else if space = 3 then (2, addr % 2 ^ 19) else (5, addr)

/-- An entry of a range-lock table that refuses an access (R144). -/
def Pair.lockHit (p : Pair) (space addr len : Nat) (write : Bool) : Bool :=
  p.locks.any (fun e => match e.2 with
    | none => false
    | some l =>
      let a := lockKey space addr
      let b := lockKey l.space l.first
      a.1 == b.1 && decide (a.2 ≤ b.2 + (l.last - l.first)) && decide (b.2 < a.2 + len) && (l.dst || write))

/-- The pair whose table and scratchpad an access reaches (R77, R144). -/
def homePair (pair space addr : Nat) : Nat := if space = 3 then 4 * clusterOf pair + addr / 2 ^ 19 % 4 else pair

/-! ## Pieces -/

/-- The single-copy units of an access of `len` bytes from `addr` (R119). An access of 16 bytes in spaces 1, 4 and 5 whose address is a
multiple of 8 but not of 16 is taken in its aligned 8-byte pieces, not as a misaligned one (DEDUCED, log 64). -/
def unitsOf (whole16 : Bool) (addr len : Nat) : List (Nat × Nat) :=
  if addr % len = 0 ∧ (len = 1 ∨ len = 2 ∨ len = 4 ∨ len = 8 ∨ (len = 16 ∧ whole16)) then [(addr, len)]
  else if addr % 8 = 0 ∧ len % 8 = 0 ∧ 16 ≤ len then (List.range (len / 8)).map (fun i => (addr + 8 * i, 8))
  else (List.range len).map (fun i => (addr + i, 1))

/-- A piece still to be done. -/
def pieceAt (home : Home) (len : Nat) (data : List Byte) (tag sparse : Bool) : Piece :=
  { home := home, len := len, data := data, tag := tag, mask := none, sparse := sparse, done := sparse, time := 0, err := none, part := 0, lease := 0, clears := false,
    served := 0, order := 0, seen := [], gone := [] }

/-- What an access at commit turns out to be: pieces at their homes, on a sparse page or not. -/
structure Plan where
  pieces : List Piece
  sparse : Bool
  pages : List Page

/-- The pages that [addr, addr + len) touches, one translation each, the first failure first. -/
def State.translateRange (s : State) (q : Req) (need : Nat) (addr : Nat) (len : Nat) : Nat → State × Except Stop (List (Nat × Tr))
  | 0 => (s, .ok [])
  | fuel + 1 =>
    if len = 0 then (s, .ok [])
    else
      match s.translate q addr need with
      | (s, .fault t) => (s, .error (.trap t))
      | (s, .migrating) =>
        let r := s.region q.ctx (addr / 2 ^ 44 % 16)
        (s, .error (.block (.migration q.ctx (addr / 2 ^ 44 % 16 * 2 ^ 32 + pageOf r addr))))
      | (s, t) =>
        let size := 2 ^ pageBits (s.region q.ctx (addr / 2 ^ 44 % 16)).psz
        let here := min len (size - addr % size)
        match s.translateRange q need (addr + here) (len - here) fuel with
        | (s, .error e) => (s, .error e)
        | (s, .ok l) => (s, .ok ((addr, t) :: l))

/-- Where the byte at `va` lies and in which page, given the translations of a range. -/
def homeIn (l : List (Nat × Tr)) (va : Nat) : Option (Nat × Page) :=
  (l.filter (fun e => decide (e.1 ≤ va))).getLast?.bind (fun e => match e.2 with
    | .page p => some (p.base + p.off + (va - e.1), p)
    | _ => none)

/-- A piece of device memory through a page. -/
def pieceIn (h : Option (Nat × Page)) (len : Nat) (data : List Byte) (sparse : Bool) : Piece :=
  match h with
  | some (pa, p) => { pieceAt (.dev pa) len data false sparse with part := p.part, lease := p.reg.lease }
  | none => pieceAt (.dev 0) len data false true

/-- A translation of a sparse page. -/
def Tr.isSparse : Tr → Bool
  | .sparse => true
  | _ => false

/-- The pages of a list of translations. -/
def pagesOf (l : List (Nat × Tr)) : List Page := l.filterMap (fun e => match e.2 with | .page p => some p | _ => none)

/-- The plan of a byte access in spaces 1 and 4 (R45, R52, R96, R119): format pages refuse it. -/
def State.planGlobal (s : State) (q : Req) (need addr len : Nat) (data : List Byte) : State × Except Stop Plan :=
  match s.translateRange q need addr len (len + 1) with
  | (s, .error e) => (s, .error e)
  | (s, .ok l) =>
    let pages := pagesOf l
    if pages.any (fun p => p.fmt != 0 || p.blk != 0) then
      (s, .error (.trap { code := .formatMismatch, detail := BitVec.ofNat 64 (addr % 2 ^ 32) }))
    else
      let sparse := l.any (fun e => e.2.isSparse)
      (s, .ok ⟨(unitsOf false addr len).map (fun u =>
        pieceIn (homeIn l u.1) u.2 ((data.drop (u.1 - addr)).take u.2) sparse), sparse, pages⟩)

/-- The sector state of a scratchpad range that an access must wait for: a sector in U starts its fill, and the access joins those that
wait (R71). `whole` is an
engine's write of the whole sector (DEDUCED, log 23). -/
def State.sectorWait (s : State) (pair off len : Nat) (who : Who) (whole : Bool) : State × Option Wait :=
  let p := s.pair pair
  match (p.mappedIn off len).find? (fun sec => match (p.sector sec).st with
      | .u => !(whole && decide (off ≤ sec * 256) && decide (sec * 256 + 256 ≤ off + len))
      | .f => true
      | _ => false) with
  | none => (s, none)
  | some sec =>
    let x := p.sector sec
    let x := match x.st with
      | .u => { x with st := .f, starter := some who }
      | _ => x
    let x := if x.waiters.any (fun w => decide (w = who)) then x else { x with waiters := x.waiters ++ [who] }
    (s.putPair pair (p.putSector sec x), some (.sector pair sec 0))

/-- The plan of a byte access in spaces 2 and 3 (R70, R71, R77, R399). -/
def State.planPad (s : State) (pair addr space len : Nat) (who : Who) (read : Bool) (data : List Byte) (tag whole16 : Bool) :
    State × Except Stop Plan :=
  let hp := homePair pair space addr
  let off := addr % 2 ^ 19
  let p := s.pair hp
  if p.onFormat off len then
    (s, .error (.trap { code := .formatMismatch, detail := BitVec.ofNat 64 (addr % 2 ^ 32) }))
  else
    match s.sectorWait hp off len who false with
    | (s, some w) => (s, .error (.block w))
    | (s, none) =>
      if read && (s.pair hp).poisoned off len then (s, .error (.trap { code := .poison, detail := BitVec.ofNat 64 (addr % 2 ^ 32) }))
      else
        (s, .ok ⟨(unitsOf whole16 addr len).map (fun u =>
          pieceAt (.pad hp (u.1 % 2 ^ 19)) u.2 ((data.drop (u.1 - addr)).take u.2) tag false), false, []⟩)

/-! ## Order of one thread's accesses -/

/-- The start of a home's address line, and its kind, for overlap tests. -/
def homeKey : Home → Nat × Nat × Nat
  | .dev pa => (0, 0, pa)
  | .pad p o => (1, p, o)
  | .host p a => (2, p, a)

/-- Two pieces share a byte. -/
def pieceOverlap (a b : Piece) : Bool :=
  let x := homeKey a.home
  let y := homeKey b.home
  x.1 == y.1 && x.2.1 == y.2.1 && decide (x.2.2 < y.2.2 + b.len) && decide (y.2.2 < x.2.2 + a.len)

/-- An access in flight. -/
def State.access (s : State) (id : Nat) : Option Access := s.accesses.find? (fun a => a.id == id)

/-- A request leaves four cycles after its group issues (R370). -/
def Access.leaves (a : Access) : Nat := a.born + 4

/-- Replaces an access in flight. -/
def State.putAccess (s : State) (a : Access) : State := { s with accesses := s.accesses.map (fun b => if b.id = a.id then a else b) }

/-- Removes an access that is over. -/
def State.dropAccess (s : State) (id : Nat) : State := { s with accesses := s.accesses.filter (fun a => a.id != id) }

/-- No earlier access of the same thread still has to reach a byte of the piece (R107). -/
def State.inOrder (s : State) (a : Access) (p : Piece) : Bool :=
  (s.accesses.takeWhile (fun b => b.id != a.id)).all (fun b =>
    !decide (b.who = a.who) || b.pieces.all (fun o => o.done || !pieceOverlap o p))

/-- An access writes memory. -/
def AccKind.writes : AccKind → Bool
  | .store => true
  | .atom .. => true
  | .vismax _ => true
  | _ => false

/-- An earlier access of the same thread to the same bytes is on its way: a store or atomic without its acknowledgement, or a load its
home has not served (R107). -/
def State.ownPending (s : State) (who : Who) (p : Piece) : Bool :=
  s.accesses.any (fun b => decide (b.who = who) && b.pieces.any (fun o => (b.kind.writes || !o.done) && pieceOverlap o p))

/-- The copy that a holder may use for [pa, pa + len) now (R108) (DESIGN CHOICE, log 10). -/
def State.copyFor (s : State) (h : Holder) (pa len : Nat) : Option Copy :=
  s.copies.find? (fun c => decide (c.holder = h) && decide (c.pa ≤ pa) && decide (pa + len ≤ c.pa + c.data.length) && decide (s.gt < c.expiry))

/-- Serves a load's pieces from the pair's L1 portion where it holds them (R66, R107, R113). -/
def State.hitL1 (s : State) (pair : Nat) (who : Who) (p : Piece) : Piece :=
  if p.done then p
  else match p.home with
    | .dev pa =>
      if s.ownPending who p then p
      else match s.copyFor (.l1 pair) pa p.len with
        | some c => { p with done := true, data := (c.data.drop (pa - c.pa)).take p.len, time := c.lwct }
        | none => p
    | _ => p

/-- A control thread writes space 5, which a fence of scope 5 waits for (R116). -/
def State.noteHostWrite (s : State) (uid : Nat) : State :=
  if s.unflushed.any (fun u => u == uid) then s else { s with unflushed := s.unflushed ++ [uid] }

/-- Starts an access: it gets an identifier and joins those in flight, in program order (DESIGN CHOICE, log 9). -/
def State.start (s : State) (who : Who) (pair ctx space addr : Nat) (kind : AccKind) (pieces : List Piece) : Nat × State :=
  let (id, s) := s.newId
  (id, { s with accesses := s.accesses ++ [{ id := id, born := s.gt, who := who, pair := pair, ctx := ctx, space := space, addr := addr, kind := kind, pieces := pieces }] })

/-- Discards the pair's L1 lines that hold any byte of a range (R67). -/
def State.dropL1 (s : State) (pair pa len : Nat) : State :=
  { s with copies := s.copies.filter (fun c =>
      !(decide (c.holder = .l1 pair) && decide (c.pa < pa + len) && decide (pa < c.pa + c.data.length))) }

/-- Adds a copy to a holder, in place of an older copy of the same bytes. An L1 set that is full loses a line, as an open
choice (R66). -/
def State.addCopy (s : State) (c : Copy) : State :=
  let others := s.copies.filter (fun d => !(decide (d.holder = c.holder) && d.pa == c.pa))
  match c.holder with
  | .l1 p =>
    let sets := (s.pair p).l1sz / 2048
    let same (d : Copy) : Bool := decide (d.holder = c.holder) && (d.pa / 256) % sets == (c.pa / 256) % sets
    let n := (others.filter same).length
    if n < 8 then { s with copies := others ++ [c] }
    else
      let (i, s) := s.newFree
      match (others.filter same)[Config.freeNat i % n]? with
      | some v => { s with copies := (others.filter (fun d => !decide (d = v))) ++ [c] }
      | none => { s with copies := others ++ [c] }
  | _ => { s with copies := others ++ [c] }

/-- Fills the pair's L1 line that holds an address, under a lease (R66, R111, R112). -/
def State.fillL1 (s : State) (pair pa lease part : Nat) : State :=
  let base := pa / 256 * 256
  match s.readDev base 256 part with
  | (s, .error _) => s.dropL1 pair base 256
  | (s, .ok bytes) =>
    let (expiry, s) := s.grant base lease
    s.addCopy ⟨.l1 pair, base, bytes, expiry, (s.times base).2, s.order, []⟩

/-- The bytes that a sub-byte store leaves: the masked bits of the new byte in the old one (R101). -/
def mergeBits (old new : Byte) (mask : Nat) : Byte := (old &&& ~~~(BitVec.ofNat 8 mask)) ||| (new &&& BitVec.ofNat 8 mask)

/-- How a granule is coded against its reference: the tag and the bytes (R452). -/
def granuleCode (g ref : List Byte) : Nat × List Byte :=
  let z := List.zip g ref
  let diff := z.map (fun (e : Byte × Byte) => decide (e.1 ≠ e.2))
  if g.all (fun b => b == 0) then (0, [])
  else if g = ref then (1, [])
  else if (diff.filter (fun b => b)).length ≤ 27 then
    (2, natLe 4 (diff.zipIdx.foldl (fun n (e : Bool × Nat) => if e.1 then n + 2 ^ e.2 else n) 0) ++
      (z.filter (fun (e : Byte × Byte) => decide (e.1 ≠ e.2))).map (fun (e : Byte × Byte) => e.1 ^^^ e.2))
  else (3, g)

/-- The reference of the next granule of a direction (R452). -/
def Tether.ref (t : Tether) : List Byte := t.last.getD 7 (List.replicate 32 0)

/-- A granule enters the history of its direction. -/
def Tether.note (t : Tether) (g : List Byte) : Tether := { t with last := (g :: t.last).take 8 }

/-- A group of four codes on the fibre (R452). -/
def groupBytes (l : List (Nat × List Byte)) : List Byte :=
  BitVec.ofNat 8 (l.zipIdx.foldl (fun n (e : (Nat × List Byte) × Nat) => n + e.1.1 * 4 ^ e.2) 0) :: l.flatMap (fun (e : Nat × List Byte) => e.2)

/-- A full granule is coded; the fourth of a group sends it. -/
def Port.putGranule (p : Port) (g : List Byte) : Port :=
  let codes := p.tx.codes ++ [granuleCode g p.tx.ref]
  if codes.length < 4 then { p with tx := { p.tx.note g with codes := codes } }
  else { p with tx := { p.tx.note g with codes := [] }, wire := p.wire ++ groupBytes codes }

/-- Cuts the bytes of a direction that are not coded yet into granules. -/
def Port.cut (p : Port) : Nat → Port
  | 0 => p
  | n + 1 =>
    if p.tx.part.length < 32 then p
    else Port.cut ({ p with tx := { p.tx with part := p.tx.part.drop 32 } }.putGranule (p.tx.part.take 32)) n

/-- A port lit with one fibre pair compresses what it carries (R452, R459). -/
def State.tethered (s : State) (port : Nat) : Bool := s.board.ports.getD port 0 % 4 == 1

/-- Bytes that the device sends to the host over a port (R123, R452). -/
def State.sendPort (s : State) (port : Nat) (bytes : List Byte) : State :=
  let p := tabGet Port.start s.ports port
  let p := { p with sent := p.sent ++ bytes, lastTx := s.gt }
  let p := if s.tethered port then Port.cut { p with tx := { p.tx with part := p.tx.part ++ bytes } } (bytes.length / 32 + 1) else p
  { s with ports := tabPut Port.start s.ports port p }

/-- What a write piece leaves of the old bytes of its unit: the masked bits of each, and the bytes that came before another unit in home
order (R101, R121). -/
def Piece.leaves (p : Piece) (old data : List Byte) : List Byte :=
  (List.zip old data).zipIdx.map (fun e =>
    if p.gone.any (fun i => i == e.2) then e.1.1
    else match p.mask with
      | some m => mergeBits e.1.1 e.1.2 m
      | none => e.1.2)

/-- What a read piece gets of the bytes of its unit: those it had read before another unit was written, and the others as they are
(R121). -/
def Piece.gets (p : Piece) (now : List Byte) : List Byte :=
  now.zipIdx.map (fun e => ((p.seen.find? (fun x => x.1 == e.2)).map (fun x => x.2)).getD e.1)

/-- Applies a write piece at its home and gives its W (R106, R111). -/
def State.writeHome (s : State) (p : Piece) : Nat × State :=
  match p.home with
  | .dev pa => s.writeDev pa p.part (p.leaves (memBytes s.mem pa p.data.length) p.data)
  | .pad hp off =>
    let q := s.pair hp
    (s.gt, s.putPair hp (q.write off (p.leaves (memBytes q.pad off p.data.length) p.data) p.tag))
  | .host port _ => (s.gt, s.sendPort port p.data)

/-- The PCM of a thread or control thread raised to a time (R112). -/
def State.foldPcm (s : State) (who : Who) (time : Nat) : State :=
  match s.team who.team with
  | none => s
  | some t =>
    match who.rank with
    | none => s.putTeam { t with ctl := { t.ctl with pcm := max t.ctl.pcm time } }
    | some j => match t.rank j with
      | none => s
      | some r => s.putTeam (t.putRank (r.modThread who.pos (fun th => { th with pcm := max th.pcm time })))

/-- Whether an access still in flight belongs to a thread. -/
def State.busy (s : State) (who : Who) (loadsOnly : Bool) : Bool :=
  s.accesses.any (fun a => decide (a.who = who) && (match a.kind with
    | .store => !loadsOnly
    | .vismax _ => !loadsOnly
    | .free .. => false
    | _ => true))

/-! ## Units that overlap without being equal -/

/-- A unit of another access is about to be written over bytes of a piece in flight: each of them, as an open choice, had been read
before, and as another had come before in home order (R121) (DESIGN CHOICE, log 65). -/
def State.tearBytes (s : State) (reads writes : Bool) (p : Piece) : List (Nat × Byte) → State × Piece
  | [] => (s, p)
  | (i, old) :: l =>
    let (a, s) := s.newFree
    let (b, s) := s.newFree
    let early := Config.freeBool a
    let p := if early && reads && !p.seen.any (fun x => x.1 == i) then { p with seen := p.seen ++ [(i, old)] } else p
    let p := if early && writes && (!reads || Config.freeBool b) && !p.gone.any (fun j => j == i) then { p with gone := p.gone ++ [i] } else p
    s.tearBytes reads writes p l

/-- The bytes at a home, as they stand. -/
def State.homeBytes (s : State) (h : Home) (len : Nat) : List Byte :=
  match h with
  | .dev pa => memBytes s.mem pa len
  | .pad q off => memBytes (s.pair q).pad off len
  | .host _ _ => []

/-- A load or atomic reads its unit. -/
def AccKind.readsUnit : AccKind → Bool
  | .load _ => true
  | .atom .. => true
  | .vismax _ => true
  | _ => false

/-- The pieces of an access as a write of a unit at a home finds them (R121). -/
def State.tearPieces (s : State) (a : Access) (w : Piece) : List Piece → State × List Piece
  | [] => (s, [])
  | p :: l =>
    let x := homeKey p.home
    let y := homeKey w.home
    let meets := !p.done && pieceOverlap p w && !(x.2.2 == y.2.2 && p.len == w.len) && s.inOrder a p
    let bytes := ((s.homeBytes p.home p.len).zipIdx.map (fun e => (e.2, e.1))).filter (fun e =>
      decide (y.2.2 ≤ x.2.2 + e.1) && decide (x.2.2 + e.1 < y.2.2 + w.len))
    let (s, p) := if meets then s.tearBytes a.kind.readsUnit a.kind.writes p bytes else (s, p)
    let (s, l) := s.tearPieces a w l
    (s, p :: l)

/-- A write of a unit is about to be applied: the accesses in flight whose units overlap it without being equal (R121). `by_` is the
access that writes, 0 for none. -/
def State.tear (s : State) (by_ : Nat) (w : Piece) : State :=
  (s.accesses.filter (fun a => a.id != by_)).foldl (fun s a =>
    let (s, l) := s.tearPieces a w a.pieces
    s.putAccess { a with pieces := l }) s

/-- tear for a write of bytes at a physical address by no thread. -/
def State.tearDev (s : State) (pa len : Nat) : State := s.tear 0 (pieceAt (.dev pa) len [] false false)

/-- Applies a write piece of a unit of its own at its home, next in home order (R111, R121). -/
def State.landPiece (s : State) (p : Piece) : Nat × State := { s.tear 0 p with order := s.order + 1 }.writeHome p

/-! ## The debug switch of R122 -/

/-- A write piece's unit overlaps a recorded word and has another size or offset in it (R122). -/
def Slice.conflict (c : Slice) (pa len : Nat) : Bool :=
  (List.range ((pa + len + 7) / 8 - pa / 8)).any (fun i =>
    match tabGet none c.words (pa / 8 + i) with
    | none => false
    | some (size, off) =>
      let w := (pa / 8 + i) * 8
      !(decide (w + off = max pa w) && decide (size = min len (w + 8 - max pa w))))

/-- Records the size and offset of a thread's write in each word (R122). -/
def Slice.note (c : Slice) (pa len : Nat) : Slice :=
  { c with words := (List.range ((pa + len + 7) / 8 - pa / 8)).foldl (fun t i =>
      let w := (pa / 8 + i) * 8
      tabPut none t (pa / 8 + i) (some (min len (w + 8 - max pa w), max pa w - w))) c.words }

/-- Clears the records of words that another kind of write touches (R122). -/
def State.clearWords (s : State) (pa len : Nat) : State :=
  s.modSlice (sliceOf (pa / 4096)) (fun c => { c with words := tabClear c.words (pa / 8) ((pa + len + 7) / 8 - pa / 8) })

/-- With the debug switch set at its home, a piece of a thread's store or atomic conflicts with a recorded word (R122). -/
def State.debugConflict (s : State) (p : Piece) : Bool :=
  match p.home with
  | .dev pa =>
    let c := tabGet Slice.start s.slices (sliceOf (pa / 4096))
    !p.done && c.debug && c.conflict pa p.len
  | _ => false

/-- MIXED_SIZE of an access of which a piece conflicts (R122). -/
def State.mixedSize (s : State) (addr : Nat) (l : List Piece) : Option Trap :=
  if l.any s.debugConflict then some { code := .mixedSize, detail := BitVec.ofNat 64 (addr % 2 ^ 32) } else none

/-- With the debug switch set at its home, a piece of a store is applied as it commits, and recorded (R122) (DEDUCED, log 22). -/
def State.debugApply (s : State) (p : Piece) : State × Piece :=
  match p.home with
  | .dev pa =>
    let n := sliceOf (pa / 4096)
    if p.done || !(tabGet Slice.start s.slices n).debug then (s, p)
    else
      let (w, s) := { s.tear 0 p with order := s.order + 1 }.writeHome p
      (s.modSlice n (fun c => c.note pa p.len), { p with done := true, time := w, served := s.gt, order := s.order })
  | _ => (s, p)

/-- debugApply over the pieces of a store. -/
def State.debugAll (s : State) : List Piece → State × List Piece
  | [] => (s, [])
  | p :: l =>
    let (s, p) := s.debugApply p
    let (s, l) := s.debugAll l
    (s, p :: l)

/-- The pieces of a store as it commits: with the debug switch set, none is applied when one conflicts (R28, R122). -/
def State.debugPieces (s : State) (addr : Nat) (l : List Piece) : State × Except Stop (List Piece) :=
  match s.mixedSize addr l with
  | some t => (s, .error (.trap t))
  | none =>
    let (s, l) := s.debugAll l
    (s, .ok l)

end Sys2Proof.Machine
end

