-- ==== Sys2Proof/Machine/Timing.lean ====
section
/-! DEFINITION. The issue contract of a rod and of a control thread: when a pass starts, how long it holds the rod, and when
its fixed-latency results are ready (spec/17 R365 to R370, R375, spec/08 R173, R174, R187). -/

namespace Sys2Proof.Machine

/-- A timing class: latency when the result has a fixed one, occupancy, whether a pass takes one cycle whatever its length,
whether it is of class XTH, and the branch penalty that follows it (R370). -/
structure Cls where
  lat : Option Nat
  occ : Nat
  once : Bool
  xth : Bool
  pen : Nat

/-- Class NOP. -/
def clsNop : Cls := ⟨none, 1, true, false, 0⟩
/-- Class INT. -/
def clsInt : Cls := ⟨some 4, 1, false, false, 0⟩
/-- Class INT64. -/
def clsInt64 : Cls := ⟨some 6, 2, false, false, 0⟩
/-- Classes CAP and FLT. -/
def clsFlt : Cls := ⟨some 6, 1, false, false, 0⟩
/-- Class XC. -/
def clsXc : Cls := ⟨some 16, 4, false, false, 0⟩
/-- Class DBL. -/
def clsDbl : Cls := ⟨some 24, 8, false, false, 0⟩
/-- Class DOT. -/
def clsDot : Cls := ⟨some 8, 1, false, false, 0⟩
/-- Class XTH; its latency 2 G + 6 is filled in when the pass issues. -/
def clsXth : Cls := ⟨some 0, 1, false, true, 0⟩
/-- One cycle a pass, no fixed-latency result: POOL per rank, CTL per split, ENG in the vector stream, FENCE. -/
def clsOnce : Cls := ⟨none, 1, true, false, 0⟩
/-- One cycle a group, no fixed-latency result: MEM, DEPOSIT, RMARK, the per-thread CTL instructions without one. -/
def clsPer : Cls := ⟨none, 1, false, false, 0⟩
/-- CTL that redirects: the branch penalty of 2 cycles follows. -/
def clsRedirect : Cls := ⟨none, 1, false, false, 2⟩

/-- The scoreboard key of a v register, a k register (2,048 on) or predicate of a rank (R368). -/
def regKey (r : Rank) (n : Nat) : Nat := 8192 * r.slot + n

/-- The groups of a pass (R173, R174). -/
def groupsOf (quad : Bool) (ps : List Nat) : Nat :=
  if quad then ((List.range 16).filter (fun q => ps.any (fun p => p / 4 == q))).length else ceilDiv ps.length 4

/-- The group of a pass that a position is in (R173, R174). -/
def groupOf (quad : Bool) (ps : List Nat) (p : Nat) : Nat :=
  if quad then groupsOf true (ps.filter (fun q => decide (q / 4 < p / 4))) else (ps.filter (fun q => decide (q < p))).length / 4

/-- When a consumer may start for the sake of one producer (R366, R368): `read` tells a read of the result from a later write. -/
def readyFor (p : Producer) (c : Cls) (act : DWord) (uniform read : Bool) : Nat :=
  let lat := if read then p.lat else p.lat + 1 - c.lat.getD 0
  if p.filled then p.start + 1
  else if p.xth then p.start + lat
  else
    if c.xth || decide (p.act ≠ act) || p.uniform || uniform then p.start + (p.groups - 1) * p.occ + lat
    else p.start + lat + (p.groups - 1) * (p.occ - c.occ)

/-- The latest of a list of times. -/
def maxOf : List Nat → Nat
  | [] => 0
  | a :: l => max a (maxOf l)

/-- Whether the grid of a team runs in quad mode (R174). -/
def State.quadMode (s : State) (gid : Nat) : Bool := ((s.grid gid).map (fun g => g.launch.quad)).getD false

/-- The class of a pass as it issues: a uniform one has latency 4 (R370), and a cross-thread one 2 G + 6. -/
def Cls.asIssued (c : Cls) (uniform : Bool) (g : Nat) : Cls :=
  if uniform then { c with lat := some 4, xth := false }
  else if c.xth then { c with lat := c.lat.map (fun _ => 2 * g + 6) } else c

/-- Issues a pass (R365, R368): time moves to its start, the rod is taken for its length and penalty, and its fixed-latency
results are noted, each slot with its own class. The watchdog counts the cycles the split is current (R375) (DEDUCED, log 8). -/
def Foc.issueSlots (f : Foc) (c : Cls) (reads : List Nat) (slots : List (Cls × List Nat)) (act : List Nat) (uniform : Bool) : Foc :=
  -- p0 is no register: it is never written
  let reads := reads.filter (fun n => n != 4096)
  let rod := f.s.rod f.t.pair f.r.rod
  let mask := maskOf act
  let g := if uniform || c.once then 1 else groupsOf (f.s.quadMode f.t.grid) act
  let occ := if uniform || c.once then 1 else c.occ
  let slots := slots.map (fun e => (e.1.asIssued uniform g, e.2.filter (fun n => n != 4096)))
  let ready (c : Cls) (read : Bool) (n : Nat) : Nat :=
    match (tabGet none rod.producers (regKey f.r n) : Option Producer) with
    | none => 0
    | some p => readyFor p c mask uniform read
  let start := max (max f.s.gt (max rod.earliest f.x.notBefore)) (max (maxOf (reads.map (ready (c.asIssued uniform g) true)))
    (maxOf (slots.map (fun e => maxOf (e.2.map (ready e.1 false))))))
  let note (t : Tab (Option Producer)) (e : Cls × List Nat) : Tab (Option Producer) :=
    e.2.foldl (fun t n => tabPut none t (regKey f.r n) (e.1.lat.map (fun l => ⟨start, g, occ, l, mask, e.1.xth, uniform, false⟩))) t
  let rod := { rod with
    earliest := start + g * occ + c.pen
    doneAt := start + g * occ
    lanes := if uniform || c.once then 0 else if f.s.quadMode f.t.grid then 4 * g else act.length
    uniform := uniform
    watch := rod.watch + (start + g * occ + c.pen - rod.earliest)
    producers := slots.foldl note rod.producers }
  { f with s := { f.s with gt := start }.putRod f.t.pair f.r.rod rod }

/-- A variable-latency result makes registers of a rank full now (R366). -/
def State.arrived (s : State) (pair : Nat) (r : Rank) (regs : List Nat) : State :=
  let rod := s.rod pair r.rod
  s.putRod pair r.rod { rod with
    producers := regs.foldl (fun t n => tabPut none t (regKey r n) (some ⟨s.gt, 1, 1, 0, 0, false, false, true⟩)) rod.producers }

/-- Issues a pass of one class. -/
def Foc.issue (f : Foc) (c : Cls) (reads writes act : List Nat) (uniform : Bool) : Foc := f.issueSlots c reads [(c, writes)] act uniform

/-- A pass that blocks at issue spends its issue cycle (R366) (DEDUCED, log 8). -/
def Foc.spend (f : Foc) : Foc :=
  let rod := f.s.rod f.t.pair f.r.rod
  let start := max f.s.gt (max rod.earliest f.x.notBefore)
  { f with s := { f.s with gt := start }.putRod f.t.pair f.r.rod { rod with earliest := start + 1, doneAt := start + 1 } }

/-- The turn of a control thread is over: at the earliest in the next cycle does the thread, or another of its core, issue again, and the
team after it has the next turn (R187, R369). -/
def State.ctlTurned (s : State) (pair layer slot uid : Nat) : State :=
  let p := s.pair pair
  let s := s.putPair pair { p with lastCtl := tabPut 0 p.lastCtl layer (slot + 1), nextCtl := tabPut 0 p.nextCtl layer (s.gt + 1) }
  match s.team uid with
  | none => s
  | some t => s.putTeam { t with ctl := { t.ctl with earliest := max t.ctl.earliest (s.gt + 1) } }

/-- Issues an instruction of a control thread (R187, R369): keys are register fields, and 2,048 + n for a predicate. -/
def State.issueCtl (s : State) (t : Team) (c : Cls) (reads writes : List Nat) : State × Team :=
  -- neither s0 nor p0 is ever written
  let reads := reads.filter (fun n => n != 0 && n != 2048)
  let writes := writes.filter (fun n => n != 0 && n != 2048)
  let ready (n : Nat) : Nat := tabGet 0 t.ctl.readyAt n
  let start := max (max s.gt t.ctl.earliest) (max (maxOf (reads.map ready)) (maxOf (writes.map (fun n => ready n + 1 - c.lat.getD 0))))
  let occ := if c.once then 1 else c.occ
  let ctl := { t.ctl with
    earliest := start + occ + c.pen
    readyAt := writes.foldl (fun a n => tabPut 0 a n ((c.lat.map (fun l => start + l)).getD 0)) t.ctl.readyAt }
  let p := s.pair t.pair
  ({ s with gt := start }.putPair t.pair { p with lastCtl := tabPut 0 p.lastCtl t.layer (t.slot + 1) }, { t with ctl := ctl })

end Sys2Proof.Machine
end

