-- ==== Sys2Proof/Machine/Operands.lean ====
section
/-! DEFINITION. Operand forms of both streams: which register fields a word may hold, what each names, the checks before a
pass commits, and reading and writing operands (spec/09 R197 to R200, R207, spec/08 R176, R182, R184, spec/12 R256 to
R260). -/

namespace Sys2Proof.Machine

/-- The streams (R172). -/
inductive Stream where
  | vec | ctl
  deriving DecidableEq, Repr

/-- What an operand field must name. -/
inductive Opd where
  /-- The field is unused (R199). -/
  | none
  /-- One 32-bit register; an s register in the control stream. -/
  | reg
  /-- One register in the vector stream, the whole s register in the control stream (R284). -/
  | wide
  /-- An even pair; an s register in the control stream. -/
  | pair
  /-- A capability quad; a c register in the control stream. -/
  | quad
  /-- Two even pairs in one quad; two s registers from an even one in the control stream (CDERIVE's B, R266). -/
  | span
  /-- A run of n registers from any register; unused in the control stream. -/
  | run (n : Nat)
  /-- A predicate. -/
  | pred
  /-- A number below a limit (R197). -/
  | num (limit : Nat)
  /-- A flag: a number in the vector stream (R238). -/
  | flag
  /-- A queue: q0 to q3 as a number in the vector stream, q0 to q15 in the control stream (R238). -/
  | queue
  /-- A handle h0 to h15 of the control stream. -/
  | handle
  /-- A tile m0 to m15 of the control stream. -/
  | tile
  /-- An even s pair s2n of the control stream. -/
  | spair
  deriving DecidableEq, Repr

/-- A register field with its k and trap-mode bits. -/
structure Fld where
  n : Nat
  k : Bool
  t : Bool

/-- The D, A and B fields of an F-form word. -/
def fldD (w : FWord) : Fld := ⟨w.d.toNat, w.kd, false⟩
/-- The A field. -/
def fldA (w : FWord) : Fld := ⟨w.a.toNat, w.ka, w.ta⟩
/-- The B field. -/
def fldB (w : FWord) : Fld := ⟨w.b.toNat, w.kb, w.tb⟩
/-- The C field of an X word. -/
def fldC (x : XWord) : Fld := ⟨x.c.toNat, x.kc, x.tc⟩

/-- How many registers an operand takes in the vector stream. -/
def Opd.count : Opd → Nat
  | .reg => 1
  | .wide => 1
  | .pair => 2
  | .quad => 4
  | .span => 4
  | .run n => n
  | _ => 0

/-- A field obeys R197 to R199 for its operand. -/
def fldOk (st : Stream) (o : Opd) (f : Fld) : Bool :=
  let plain := !f.k && !f.t
  match st with
  | .vec =>
    match o with
    | .none => f.n == 0 && plain
    | .reg => !f.k || decide (f.n < 64)
    | .wide => !f.k || decide (f.n < 64)
    | .pair => f.n % 2 == 0 && (!f.k || decide (f.n < 64))
    | .quad => f.n % 4 == 0 && (!f.k || decide (f.n < 64))
    | .span => f.n % 4 == 0 && (!f.k || decide (f.n < 64))
    | .run n => !f.k || decide (f.n + n ≤ 64)
    | .pred => decide (f.n < 8) && plain
    | .num l => decide (f.n < l) && plain
    | .flag => decide (f.n < 16) && plain
    | .queue => decide (f.n < 4) && plain
    | .handle => false
    | .tile => false
    | .spair => false
  | .ctl =>
    plain && match o with
    | .none => f.n == 0
    | .reg => decide (f.n < 64)
    | .wide => decide (f.n < 64)
    | .pair => decide (f.n < 64)
    | .quad => decide (64 ≤ f.n) && decide (f.n < 80)
    | .span => decide (f.n < 64) && f.n % 2 == 0
    | .run _ => decide (f.n < 64)
    | .pred => decide (f.n < 8)
    | .num l => decide (f.n < l)
    | .flag => decide (128 ≤ f.n) && decide (f.n < 144)
    | .queue => decide (112 ≤ f.n) && decide (f.n < 128)
    | .handle => decide (80 ≤ f.n) && decide (f.n < 96)
    | .tile => decide (96 ≤ f.n) && decide (f.n < 112)
    | .spair => decide (f.n < 64) && f.n % 2 == 0

/-- The v registers an operand names (R207 step 4). -/
def vregsOf (o : Opd) (f : Fld) : List Nat := if f.k then [] else (List.range o.count).map (fun i => f.n + i)

/-- The scoreboard numbers of an operand's registers: v as they stand, k from 2,048, predicates from 4,096. -/
def keysOf (o : Opd) (f : Fld) : List Nat :=
  match o with
  | .pred => [4096 + f.n]
  | _ => (List.range o.count).map (fun i => f.n + i + (if f.k then 2048 else 0))

/-- The registers of the control thread that an operand names, as readyAt keys them. -/
def ctlKeysOf (o : Opd) (f : Fld) : List Nat :=
  match o with
  | .none => []
  | .pred => [2048 + f.n]
  | .num _ => []
  | .span => [f.n, f.n + 1]
  | .spair => [f.n, f.n + 1]
  | .run n => (List.range n).map (fun i => f.n + i)
  | _ => [f.n]

/-- The threads a guard leaves in a pass, at or above the resume position (R200, R379). -/
def Foc.members (f : Foc) (g : Nat) (neg : Bool) : List Nat :=
  (maskList f.x.mask).filter (fun p => decide (f.x.resume ≤ p) && (f.r.pred p g != neg))

/-- H for a trap at issue: the threads of the pass that are no helpers (R377). -/
def Foc.issueSet (f : Foc) (ps : List Nat) : List Nat := ps.filter (fun p => !f.r.helper p)

/-- A pass that stops before its operands are seen still spends an issue cycle (R365). -/
def Foc.issued (f : Foc) : Foc := if (f.s.rod f.t.pair f.r.rod).earliest ≤ f.s.gt then f.spend else f

/-- A trap raised at issue (R207, R376) (DEDUCED, log 14). -/
def Foc.trapIssue (f : Foc) (ps : List Nat) (code : TrapCode) (detail : DWord) : State :=
  (f.issued).trap { code := code, detail := detail } ⟨f.x.resume, f.issueSet ps, ps⟩

/-- A stop at a position: the trap, or the wait from which the pass re-issues (R28) (DEDUCED, log 14). -/
def Foc.stopAt (f : Foc) (ps : List Nat) (pos : Nat) (st : Stop) : State :=
  match st with
  | .trap t => f.trap t ⟨pos, [pos], ps⟩
  | .block w =>
    let w := match w with
      | .sector p sec _ => .sector p sec (maskOf ps)
      | w => w
    ((f.putSplit { f.x with resume := pos }).block w).close

/-- Runs a pass thread by thread in position order (R28, R260); where it stops, the threads below have committed. A helper
that would trap takes `zero` instead (R175). -/
def passLoop (step : Foc → Nat → Except Stop Foc) (zero : Foc → Nat → Foc) : List Nat → Foc → Foc × Option (Nat × Stop)
  | [], f => (f, none)
  | p :: ps, f =>
    match step f p with
    | .ok f => passLoop step zero ps f
    | .error (.block w) => (f, some (p, .block w))
    | .error (.trap t) => if f.r.helper p then passLoop step zero ps (zero f p) else (f, some (p, .trap t))

/-- The least register at or above the top among those a word names (R183, R207 step 4). -/
def unallocated (r : Rank) (regs : List Nat) : Option Nat :=
  (regs.filter (fun n => decide (r.top ≤ n))).foldl (fun m n => match m with | none => some n | some k => some (min k n)) none

/-- The registers that keep a pass from issuing: empty sources that do not trap, and empty destinations (R184). -/
def emptyNeeds (r : Rank) (ps regs : List Nat) : List (Nat × Nat) :=
  ps.flatMap (fun p => (regs.filter (fun n => !r.isFull p n)).map (fun n => (p, n)))

/-- A read of one register by a position (R182, R184, R292, R399). -/
def readReg (r : Rank) (p : Nat) (k t : Bool) (n : Nat) : Except Trap Word :=
  if k then
    if t && (r.kreg n).cf then .error { code := .uniformConflict, detail := BitVec.ofNat 64 n }
    else if (r.kreg n).err then .error { code := .uncorrectable, detail := BitVec.ofNat 64 n } else .ok (r.kreg n).val
  else
    let v := r.vreg p n
    if !v.full then .error { code := .emptyRead, detail := BitVec.ofNat 64 n }
    else match v.err with
      | some (code, d) => .error { code := code, detail := d.setWidth 64 }
      | none => .ok v.val

/-- Reads consecutive registers. -/
def readRegs (r : Rank) (p : Nat) (k t : Bool) (n : Nat) : Nat → Except Trap (List Word)
  | 0 => .ok []
  | m + 1 =>
    match readReg r p k t n with
    | .error e => .error e
    | .ok w => match readRegs r p k t (n + 1) m with
      | .error e => .error e
      | .ok l => .ok (w :: l)

/-- The 128 bits of up to four words, lowest first (R5, R12). -/
def wordsBits (l : List Word) : BitVec 128 := bits128 (l.getD 0 0) (l.getD 1 0) (l.getD 2 0) (l.getD 3 0)

/-- The value of an operand of the vector stream, as up to 128 bits with the TAG of a quad; a predicate is bit 0. -/
def readOpd (r : Rank) (p : Nat) (o : Opd) (f : Fld) : Except Trap TCap :=
  match o with
  | .pred => .ok ⟨if r.pred p f.n then 1 else 0, false⟩
  | .num _ => .ok ⟨BitVec.ofNat 128 f.n, false⟩
  | .flag => .ok ⟨BitVec.ofNat 128 f.n, false⟩
  | .queue => .ok ⟨BitVec.ofNat 128 f.n, false⟩
  | _ =>
    match readRegs r p f.k f.t f.n (min 4 o.count) with
    | .error e => .error e
    | .ok l => .ok ⟨wordsBits l, (match o with | .quad => if f.k then r.ktag f.n else r.vtag p f.n | _ => false)⟩

/-- Writes an operand of the vector stream for a position and the split's age (R16, R17, R182, R197). -/
def writeOpd (r : Rank) (age p : Nat) (o : Opd) (f : Fld) (v : TCap) : Rank :=
  match o with
  | .pred => r.putPred p f.n (v.bits.getLsbD 0)
  | .reg => if f.k then r.writeK age f.n (v.bits.extractLsb' 0 32) else r.writeV p f.n (v.bits.extractLsb' 0 32)
  | .wide => if f.k then r.writeK age f.n (v.bits.extractLsb' 0 32) else r.writeV p f.n (v.bits.extractLsb' 0 32)
  | .span =>
    (capWords v).zipIdx.foldl (fun r wi => if f.k then r.writeK age (f.n + wi.2) wi.1 else r.writeV p (f.n + wi.2) wi.1) r
  | .pair =>
    if f.k then (r.writeK age f.n (v.bits.extractLsb' 0 32)).writeK age (f.n + 1) (v.bits.extractLsb' 32 32)
    else (r.writeV p f.n (v.bits.extractLsb' 0 32)).writeV p (f.n + 1) (v.bits.extractLsb' 32 32)
  | .quad => if f.k then r.writeKQuad age f.n v else r.writeVQuad p f.n v
  | _ => r

/-- An immediate B: 11 bits, sign-extended (R257). -/
def immB (w : FWord) : TCap := ⟨w.b.signExtend 128, false⟩

/-- The value of an operand of the control stream (R258): a 32-bit operand is the low half of its s register. -/
def readCtl (c : Ctl) (o : Opd) (f : Fld) : TCap :=
  match o with
  | .reg => ⟨((c.getS f.n).extractLsb' 0 32).setWidth 128, false⟩
  | .pair => ⟨(c.getS f.n).setWidth 128, false⟩
  | .wide => ⟨(c.getS f.n).setWidth 128, false⟩
  | .span => ⟨(c.getS (f.n + 1)) ++ (c.getS f.n), false⟩
  | .quad => c.getC (f.n - 64)
  | .pred => ⟨if c.pred f.n then 1 else 0, false⟩
  | .num _ => ⟨BitVec.ofNat 128 f.n, false⟩
  | _ => TCap.null

/-- Writes an operand of the control stream (R258). -/
def writeCtl (c : Ctl) (o : Opd) (f : Fld) (v : TCap) : Ctl :=
  match o with
  | .reg => c.putS f.n ((v.bits.extractLsb' 0 32).setWidth 64)
  | .pair => c.putS f.n (v.bits.extractLsb' 0 64)
  | .wide => c.putS f.n (v.bits.extractLsb' 0 64)
  | .quad => c.putC (f.n - 64) v
  | .pred => c.putPred f.n (v.bits.getLsbD 0)
  | _ => c

/-- The control thread goes on after its instruction. -/
def Ctl.next (c : Ctl) : Ctl := { c with pc := c.pc + 8, wait := .none }

/-- The team of the current control thread. -/
def State.ctlTeam (s : State) : Option Team :=
  match s.cur with
  | .ctl uid => s.team uid
  | .vec _ _ _ => none

/-- The upper half of a word, the detail of the traps of R207. -/
def hiOf (w : DWord) : DWord := w >>> 32

/-! ## Instructions that compute on registers alone -/

/-- The sources of one thread. -/
structure Src where
  a : TCap
  b : TCap
  c : TCap
  d : TCap
  p : Nat → Bool

/-- The result of one thread: the destination's value, and a further predicate. -/
structure Res where
  val : TCap
  p : Option (Nat × Bool) := none

/-- An instruction that computes on registers alone: its opcode, whether the control stream has it, its operands by MOD,
whether it reads D, whether MOD[11] is BI, which MOD values are legal and what the others raise, its class, the further predicates it reads and writes,
and its effect. -/
structure AluSpec where
  opc : BitVec 8
  ctl : Bool
  d : Nat → Opd
  a : Nat → Opd
  b : Nat → Opd
  readsD : Nat → Bool
  bi : Bool
  mod : Nat → Bool
  modTrap : Nat → TrapCode := fun _ => .illegalOperand
  cls : Nat → Cls
  predsIn : Nat → List Nat
  predOut : Nat → Nat
  op : Nat → Src → Except Trap Res

/-- MOD without BI. -/
def modOf (spec : AluSpec) (w : FWord) : Nat := if spec.bi then w.md.toNat % 2048 else w.md.toNat

/-- B is an immediate (R257). -/
def isImm (spec : AluSpec) (w : FWord) : Bool := spec.bi && w.md.getLsbD 11

/-- The operand kind of B with BI taken into account: an immediate takes all 11 bits, and no k or trap-mode bit. -/
def bKind (spec : AluSpec) (w : FWord) : Opd := if isImm spec w then .num 2048 else spec.b (modOf spec w)

/-- The C field of the second word, or a field of zeros. -/
def cFld (x : Option XWord) : Fld := match x with | some x => fldC x | none => ⟨0, false, false⟩

/-- C's operand kind: a register of a two-word instruction (R203). -/
def cKind (x : Option XWord) : Opd := match x with | some _ => .reg | none => .none

/-- Step 3 of R207 for such an instruction. -/
def aluFieldsOk (st : Stream) (spec : AluSpec) (w : FWord) (x : Option XWord) : Bool :=
  let md := modOf spec w
  spec.mod md && fldOk st (spec.d md) (fldD w) && fldOk st (spec.a md) (fldA w) && fldOk st (bKind spec w) (fldB w) &&
    (match x with | some y => fldOk st .reg (fldC y) && y.res == 0 | none => true)

/-- The instruction is uniform (R176, R259): k destination, only k or immediate sources, guard p0. -/
def aluUniform (spec : AluSpec) (w : FWord) (x : Option XWord) : Bool :=
  let md := modOf spec w
  w.kd && decide (spec.d md ≠ .pred) && w.g == 0 && !w.gn &&
    (decide (spec.a md = .none) || w.ka) && (decide (bKind spec w = .none) || isImm spec w || w.kb) &&
    (match x with | some y => y.kc | none => true) &&
    (spec.predsIn md).all (fun n => n == 0) && spec.predOut md == 0 && decide (spec.a md ≠ .pred) && decide (spec.b md ≠ .pred)

/-- One thread of such a pass: it reads its sources, computes, and writes (R260). -/
def aluThread (spec : AluSpec) (w : FWord) (x : Option XWord) (f : Foc) (p : Nat) : Except Stop Foc :=
  let md := modOf spec w
  match readOpd f.r p (spec.a md) (fldA w) with
  | .error t => .error (.trap t)
  | .ok a =>
    match (if isImm spec w then .ok (immB w) else readOpd f.r p (spec.b md) (fldB w)) with
    | .error t => .error (.trap t)
    | .ok b =>
      match readOpd f.r p (cKind x) (cFld x) with
      | .error t => .error (.trap t)
      | .ok c =>
        match (if spec.readsD md then readOpd f.r p (spec.d md) (fldD w) else .ok TCap.null) with
        | .error t => .error (.trap t)
        | .ok d =>
          match spec.op md ⟨a, b, c, d, fun n => f.r.pred p n⟩ with
          | .error t => .error (.trap t)
          | .ok res =>
            let r := writeOpd f.r f.x.age p (spec.d md) (fldD w) res.val
            let r := match res.p with
              | some (n, v) => r.putPred p n v
              | none => r
            .ok { f with r := r }

/-- A helper's result when it would trap: zero in its destination (R175). -/
def aluZero (spec : AluSpec) (w : FWord) (f : Foc) (p : Nat) : Foc :=
  { f with r := writeOpd f.r f.x.age p (spec.d (modOf spec w)) (fldD w) TCap.null }

/-- A pass of such an instruction in the vector stream (R176, R184, R207, R260). -/
def aluVec (spec : AluSpec) (w : FWord) (x : Option XWord) (f : Foc) : State :=
  let md := modOf spec w
  let ps := f.members w.g.toNat w.gn
  let word := fToWord spec.opc w
  -- a pass of a two-word instruction that stops gives PC + 16, also to a thread that its guard leaves out (R202, R379)
  let mark (f : Foc) : Foc := match x with
    | some _ => f.putSplit { f.x with given := (maskList f.x.mask).map (fun p => (p, f.x.pc + 16)) }
    | none => f
  if !aluFieldsOk .vec spec w x then (mark f).trapIssue ps (if spec.mod md then .illegalOperand else spec.modTrap md) (hiOf word)
  else
    let dRegs := vregsOf (spec.d md) (fldD w)
    let aRegs := vregsOf (spec.a md) (fldA w)
    let bRegs := if isImm spec w then [] else vregsOf (spec.b md) (fldB w)
    let cRegs := vregsOf (cKind x) (cFld x)
    match unallocated f.r (dRegs ++ aRegs ++ bRegs ++ cRegs) with
    | some n => (mark f).trapIssue ps .regUnallocated (BitVec.ofNat 64 n)
    | none =>
      let uniform := aluUniform spec w x
      let ps' := if uniform then ps.take 1 else ps
      let waits := dRegs ++ (if w.ta then [] else aRegs) ++ (if w.tb then [] else bRegs) ++ (if (cFld x).t then [] else cRegs)
      match emptyNeeds f.r ps' waits with
      | _ :: _ => ((mark f).spend.block (.regs (emptyNeeds f.r ps' waits))).close
      | [] =>
        let reads := keysOf (spec.a md) (fldA w) ++ (if isImm spec w then [] else keysOf (spec.b md) (fldB w)) ++
          keysOf (cKind x) (cFld x) ++ (if spec.readsD md then keysOf (spec.d md) (fldD w) else []) ++
          (w.g.toNat :: spec.predsIn md).map (fun n => 4096 + n)
        let f := f.issue (spec.cls md) reads (keysOf (spec.d md) (fldD w) ++ [4096 + spec.predOut md]) ps uniform
        match passLoop (aluThread spec w x) (aluZero spec w) ps' f with
        | (f, some (p, st)) => (mark f).stopAt ps p st
        | (f, none) => ((match x with | some _ => f.goto (f.x.pc + 16) | none => f.next)).close

/-- Such an instruction in the control stream (R198, R258). -/
def aluCtl (spec : AluSpec) (w : FWord) (s : State) (t : Team) : State :=
  let md := modOf spec w
  let word := fToWord spec.opc w
  if !spec.ctl then s.trapCtl t { code := .illegalStream, detail := hiOf word }
  else if !aluFieldsOk .ctl spec w none then s.trapCtl t { code := .illegalOperand, detail := hiOf word }
  else
    let reads := ctlKeysOf (spec.a md) (fldA w) ++ (if isImm spec w then [] else ctlKeysOf (spec.b md) (fldB w)) ++
      (if spec.readsD md then ctlKeysOf (spec.d md) (fldD w) else []) ++ (w.g.toNat :: spec.predsIn md).map (fun n => 2048 + n)
    let (s, t) := s.issueCtl t (spec.cls md) reads (ctlKeysOf (spec.d md) (fldD w) ++ [2048 + spec.predOut md])
    let c := t.ctl
    if c.pred w.g.toNat == w.gn then s.putTeam { t with ctl := c.next }
    else match c.readErr reads with
    | some tr => s.trapCtl t tr
    | none =>
      let b := if isImm spec w then immB w else readCtl c (spec.b md) (fldB w)
      let d := if spec.readsD md then readCtl c (spec.d md) (fldD w) else TCap.null
      match spec.op md ⟨readCtl c (spec.a md) (fldA w), b, TCap.null, d, c.pred⟩ with
      | .error tr => s.trapCtl t tr
      | .ok res =>
        let c := writeCtl c (spec.d md) (fldD w) res.val
        let c := match res.p with
          | some (n, v) => c.putPred n v
          | none => c
        s.putTeam { t with ctl := c.next }

/-- Such an instruction for the agent that issues it; an agent that is gone issues nothing. -/
def aluExec (spec : AluSpec) (w : FWord) (s : State) : State :=
  match focus s with
  | some f => aluVec spec w none f
  | none => match s.ctlTeam with
    | some t => aluCtl spec w s t
    | none => s

/-- A next state, or the fault that a nested access met (log 5). -/
def answer (s : State) : Host.Outcome State Fault Refusal :=
  match s.hole with
  | some h => .fault h
  | none => .next s

end Sys2Proof.Machine
end

