-- ==== Sys2Proof/Machine/Flags.lean ====
section
/-! DEFINITION. Conditions, carries and saturation: what the integer comparisons test and what an addition leaves in a
predicate (spec/12 R261, R263). -/

namespace Sys2Proof.Machine

/-- A condition code is assigned (R263). -/
def condOk (c : Nat) : Bool := decide (c < 10)

/-- The integer conditions on two values of one width (R263). -/
def icond {n : Nat} (c : Nat) (a b : BitVec n) : Bool :=
  match c with
  | 0 => a == b
  | 1 => a != b
  | 2 => BitVec.slt a b
  | 3 => BitVec.sle a b
  | 4 => BitVec.slt b a
  | 5 => BitVec.sle b a
  | 6 => BitVec.ult a b
  | 7 => BitVec.ule a b
  | 8 => BitVec.ult b a
  | 9 => BitVec.ule b a
  | _ => false

/-- An exact result under SM: wrap, clamp as signed, clamp as unsigned (R261). `z` is the exact signed result and `u` the
exact unsigned one. -/
def satSm (sm : Nat) (z u : Int) : Word :=
  if sm = 1 then BitVec.ofInt 32 (clampInt (intRange true 32) z)
  else if sm = 2 then BitVec.ofInt 32 (clampInt (intRange false 32) u)
  else BitVec.ofInt 32 u

/-- The carry out of a + b + carry (R261). -/
def carryOut (a b : Word) (carry : Bool) : Bool := decide (2 ^ 32 ≤ a.toNat + b.toNat + carry.toNat)

/-- FLAGWAIT's conditions (R248). -/
def flagCond (cond : Nat) (f c : Word) : Bool :=
  if cond = 0 then decide ((f - c).toNat < 2 ^ 31) else if cond = 1 then f == c else f != c

/-- The comparison a shift amount of a width or more makes (R262, R264). -/
def shiftBig (width : Nat) (b : Word) : Bool := decide (width ≤ b.toNat)

end Sys2Proof.Machine
end

