-- ==== Sys2Proof/Machine/Integer.lean ====
section
/-! DEFINITION. The integer and logic instructions, 32 and 64 bits, and LI (spec/12 R261 to R265). -/

namespace Sys2Proof.Machine

/-- The low 32 bits of an operand. -/
def lo32 (c : TCap) : Word := c.bits.extractLsb' 0 32
/-- The low 64 bits of an operand. -/
def lo64 (c : TCap) : DWord := c.bits.extractLsb' 0 64
/-- A 32-bit result. -/
def ok32 (w : Word) : Except Trap Res := .ok { val := ⟨w.setWidth 128, false⟩ }
/-- A 64-bit result. -/
def ok64 (w : DWord) : Except Trap Res := .ok { val := ⟨w.setWidth 128, false⟩ }
/-- A predicate result. -/
def okP (b : Bool) : Except Trap Res := .ok { val := ⟨if b then 1 else 0, false⟩ }
/-- A capability result. -/
def okC (c : TCap) : Except Trap Res := .ok { val := c }

/-- The frame of the 32-bit instructions: three registers, BI allowed, no modifier, class INT. -/
def intBase (opc : BitVec 8) (op : Nat → Src → Except Trap Res) : AluSpec :=
  { opc := opc, ctl := true, d := fun _ => .reg, a := fun _ => .reg, b := fun _ => .reg, readsD := fun _ => false, bi := true,
    mod := fun m => m == 0, cls := fun _ => clsInt, predsIn := fun _ => [], predOut := fun _ => 0, op := op }

/-- The frame of the unary instructions: B unused, no BI. -/
def unBase (opc : BitVec 8) (op : Nat → Src → Except Trap Res) : AluSpec :=
  { intBase opc op with b := fun _ => .none, bi := false }

/-- The frame of the 64-bit instructions. -/
def longBase (opc : BitVec 8) (op : Nat → Src → Except Trap Res) : AluSpec :=
  { intBase opc op with d := fun _ => .pair, a := fun _ => .pair, b := fun _ => .pair, cls := fun _ => clsInt64 }

/-- IADD (R261). -/
def iaddOp (m : Nat) (s : Src) : Except Trap Res :=
  let a := lo32 s.a
  let b := lo32 s.b
  ok32 (satSm m (a.toInt + b.toInt) ((a.toNat : Int) + (b.toNat : Int)))

/-- ISUB (R261). -/
def isubOp (m : Nat) (s : Src) : Except Trap Res :=
  let a := lo32 s.a
  let b := lo32 s.b
  ok32 (satSm m (a.toInt - b.toInt) ((a.toNat : Int) - (b.toNat : Int)))

/-- IMULH's high word (R261). -/
def mulHigh (signed : Bool) (a b : Word) : Word :=
  if signed then (a.signExtend 64 * b.signExtend 64).extractLsb' 32 32 else (a.setWidth 64 * b.setWidth 64).extractLsb' 32 32

/-- IADDC (R261): MOD [2:0] CO, [6:4] CI, [7] CIE. -/
def iaddcOp (m : Nat) (s : Src) : Except Trap Res :=
  let a := lo32 s.a
  let b := lo32 s.b
  let ci := bitAt m 7 && s.p (bitsAt m 4 3)
  .ok { val := ⟨(a + b + (if ci then 1 else 0)).setWidth 128, false⟩, p := some (bitsAt m 0 3, carryOut a b ci) }

/-- IMIN and IMAX (R261). -/
def minMax (isMax signed : Bool) (a b : Word) : Word :=
  let less := if signed then BitVec.slt a b else BitVec.ult a b
  if less then (if isMax then b else a) else (if isMax then a else b)

/-- IABS (R261). -/
def iabs (sat : Bool) (a : Word) : Word :=
  if a = 0x80000000 then (if sat then 0x7FFFFFFF else a) else if a.msb then -a else a

/-- SHL, SHR, SAR (R262). -/
def shl32 (a b : Word) : Word := if shiftBig 32 b then 0 else a <<< b.toNat
/-- SHR. -/
def shr32 (a b : Word) : Word := if shiftBig 32 b then 0 else a >>> b.toNat
/-- SAR. -/
def sar32 (a b : Word) : Word := if shiftBig 32 b then (if a.msb then -1 else 0) else a.sshiftRight b.toNat
/-- ROTL. -/
def rotl32 (a b : Word) : Word := a.rotateLeft (b.toNat % 32)

/-- pos and len of a bit field (R262). -/
def fieldOf (b : Word) : Nat × Nat :=
  let pos := bitsAt b.toNat 0 5
  (pos, min (bitsAt b.toNat 5 6) (32 - pos))

/-- BFX (R262). -/
def bfx (signed : Bool) (a b : Word) : Word :=
  let (pos, len) := fieldOf b
  let v := bitsAt a.toNat pos len
  if len = 0 then 0 else if signed then BitVec.ofInt 32 (signedOf len v) else BitVec.ofNat 32 v

/-- BFI (R262). -/
def bfi (d a b : Word) : Word :=
  let (pos, len) := fieldOf b
  let mask := BitVec.ofNat 32 ((2 ^ len - 1) <<< pos)
  (d &&& ~~~mask) ||| ((a <<< pos) &&& mask)

/-- The number of 1 bits. -/
def popc (a : Word) : Nat := ((List.range 32).filter (fun i => a.getLsbD i)).length
/-- Leading zero bits; 32 for 0. -/
def clz (a : Word) : Nat := ((List.range 32).find? (fun i => a.getLsbD (31 - i))).getD 32
/-- Trailing zero bits; 32 for 0. -/
def ctz (a : Word) : Nat := ((List.range 32).find? (fun i => a.getLsbD i)).getD 32
/-- The bits in reverse order. -/
def brev (a : Word) : Word := a.reverse

/-- PERM (R263): byte i of the result is byte si of b ++ a. -/
def permBytes (m : Nat) (a b : Word) : Word :=
  let src := (b ++ a : DWord).toNat
  let byte (i : Nat) : Nat := bitsAt src (8 * bitsAt m (3 * i) 3) 8
  BitVec.ofNat 32 (byte 0 + 2 ^ 8 * byte 1 + 2 ^ 16 * byte 2 + 2 ^ 24 * byte 3)

/-- SHL64, SHR64, SAR64 (R264). -/
def shl64v (a : DWord) (b : Word) : DWord := if shiftBig 64 b then 0 else a <<< b.toNat
/-- SHR64. -/
def shr64v (a : DWord) (b : Word) : DWord := if shiftBig 64 b then 0 else a >>> b.toNat
/-- SAR64. -/
def sar64v (a : DWord) (b : Word) : DWord := if shiftBig 64 b then (if a.msb then -1 else 0) else a.sshiftRight b.toNat

/-- NOP (R231). -/
def nopVec (w : FWord) (f : Foc) : State :=
  if fToWord 0x00#8 w ≠ 0 then f.trapIssue (f.members w.g.toNat w.gn) .illegalOperand (hiOf (fToWord 0x00#8 w))
  else (f.issue clsNop [] [] [] false).next.close

/-- NOP in the control stream. -/
def nopCtl (w : FWord) (s : State) (t : Team) : State :=
  if fToWord 0x00#8 w ≠ 0 then s.trapCtl t { code := .illegalOperand, detail := hiOf (fToWord 0x00#8 w) }
  else
    let (s, t) := s.issueCtl t clsNop [] []
    s.putTeam { t with ctl := t.ctl.next }

/-- The agent that issues: a split, a control thread, or one that is gone. -/
def byStream (s : State) (vec : Foc → State) (ctl : State → Team → State) : State :=
  match focus s with
  | some f => vec f
  | none => match s.ctlTeam with
    | some t => ctl s t
    | none => s

/-- NOP (R231). -/
def execNop (w : FWord) (s : State) : Host.Outcome State Fault Refusal := answer (byStream s (nopVec w) (nopCtl w))

/-- IADD (R261). -/
def specIadd : AluSpec := { intBase 0x01 iaddOp with mod := fun m => decide (m < 3) }
/-- IADD. -/
def execIadd (w : FWord) (s : State) : Host.Outcome State Fault Refusal := answer (aluExec specIadd w s)
/-- ISUB (R261). -/
def specIsub : AluSpec := { intBase 0x02 isubOp with mod := fun m => decide (m < 3) }
/-- ISUB. -/
def execIsub (w : FWord) (s : State) : Host.Outcome State Fault Refusal := answer (aluExec specIsub w s)
/-- IMUL (R261). -/
def specImul : AluSpec := intBase 0x03 (fun _ s => ok32 (lo32 s.a * lo32 s.b))
/-- IMUL. -/
def execImul (w : FWord) (s : State) : Host.Outcome State Fault Refusal := answer (aluExec specImul w s)
/-- IMULH (R261). -/
def specImulh : AluSpec :=
  { intBase 0x04 (fun m s => ok32 (mulHigh (bitAt m 0) (lo32 s.a) (lo32 s.b))) with mod := fun m => decide (m < 2) }
/-- IMULH. -/
def execImulh (w : FWord) (s : State) : Host.Outcome State Fault Refusal := answer (aluExec specImulh w s)
/-- IMAD (R261). -/
def specImad : AluSpec :=
  { intBase 0x05 (fun _ s => ok32 (lo32 s.a * lo32 s.b + lo32 s.d)) with bi := false, readsD := fun _ => true }
/-- IMAD. -/
def execImad (w : FWord) (s : State) : Host.Outcome State Fault Refusal := answer (aluExec specImad w s)
/-- IADDC (R261): bits 3 and 10 to 8 are reserved, and CI is 0 without CIE. -/
def specIaddc : AluSpec :=
  { intBase 0x06 iaddcOp with
    mod := fun m => decide (m < 256) && !bitAt m 3 && (bitAt m 7 || bitsAt m 4 3 == 0)
    predsIn := fun m => if bitAt m 7 then [bitsAt m 4 3] else []
    predOut := fun m => bitsAt m 0 3 }
/-- IADDC. -/
def execIaddc (w : FWord) (s : State) : Host.Outcome State Fault Refusal := answer (aluExec specIaddc w s)
/-- IMIN (R261). -/
def specImin : AluSpec :=
  { intBase 0x07 (fun m s => ok32 (minMax false (bitAt m 0) (lo32 s.a) (lo32 s.b))) with mod := fun m => decide (m < 2) }
/-- IMIN. -/
def execImin (w : FWord) (s : State) : Host.Outcome State Fault Refusal := answer (aluExec specImin w s)
/-- IMAX (R261). -/
def specImax : AluSpec :=
  { intBase 0x08 (fun m s => ok32 (minMax true (bitAt m 0) (lo32 s.a) (lo32 s.b))) with mod := fun m => decide (m < 2) }
/-- IMAX. -/
def execImax (w : FWord) (s : State) : Host.Outcome State Fault Refusal := answer (aluExec specImax w s)
/-- IABS (R261). -/
def specIabs : AluSpec := { unBase 0x09 (fun m s => ok32 (iabs (bitAt m 0) (lo32 s.a))) with mod := fun m => decide (m < 2) }
/-- IABS. -/
def execIabs (w : FWord) (s : State) : Host.Outcome State Fault Refusal := answer (aluExec specIabs w s)
/-- AND (R262). -/
def specAnd : AluSpec := intBase 0x0A (fun _ s => ok32 (lo32 s.a &&& lo32 s.b))
/-- AND. -/
def execAnd (w : FWord) (s : State) : Host.Outcome State Fault Refusal := answer (aluExec specAnd w s)
/-- OR (R262). -/
def specOr : AluSpec := intBase 0x0B (fun _ s => ok32 (lo32 s.a ||| lo32 s.b))
/-- OR. -/
def execOr (w : FWord) (s : State) : Host.Outcome State Fault Refusal := answer (aluExec specOr w s)
/-- XOR (R262). -/
def specXor : AluSpec := intBase 0x0C (fun _ s => ok32 (lo32 s.a ^^^ lo32 s.b))
/-- XOR. -/
def execXor (w : FWord) (s : State) : Host.Outcome State Fault Refusal := answer (aluExec specXor w s)
/-- ANDN (R262). -/
def specAndn : AluSpec := intBase 0x0D (fun _ s => ok32 (lo32 s.a &&& ~~~(lo32 s.b)))
/-- ANDN. -/
def execAndn (w : FWord) (s : State) : Host.Outcome State Fault Refusal := answer (aluExec specAndn w s)
/-- SHL (R262). -/
def specShl : AluSpec := intBase 0x0E (fun _ s => ok32 (shl32 (lo32 s.a) (lo32 s.b)))
/-- SHL. -/
def execShl (w : FWord) (s : State) : Host.Outcome State Fault Refusal := answer (aluExec specShl w s)
/-- SHR (R262). -/
def specShr : AluSpec := intBase 0x0F (fun _ s => ok32 (shr32 (lo32 s.a) (lo32 s.b)))
/-- SHR. -/
def execShr (w : FWord) (s : State) : Host.Outcome State Fault Refusal := answer (aluExec specShr w s)
/-- SAR (R262). -/
def specSar : AluSpec := intBase 0x10 (fun _ s => ok32 (sar32 (lo32 s.a) (lo32 s.b)))
/-- SAR. -/
def execSar (w : FWord) (s : State) : Host.Outcome State Fault Refusal := answer (aluExec specSar w s)
/-- ROTL (R262). -/
def specRotl : AluSpec := intBase 0x11 (fun _ s => ok32 (rotl32 (lo32 s.a) (lo32 s.b)))
/-- ROTL. -/
def execRotl (w : FWord) (s : State) : Host.Outcome State Fault Refusal := answer (aluExec specRotl w s)
/-- BFX (R262). -/
def specBfx : AluSpec :=
  { intBase 0x12 (fun m s => ok32 (bfx (bitAt m 0) (lo32 s.a) (lo32 s.b))) with mod := fun m => decide (m < 2) }
/-- BFX. -/
def execBfx (w : FWord) (s : State) : Host.Outcome State Fault Refusal := answer (aluExec specBfx w s)
/-- BFI (R262). -/
def specBfi : AluSpec := { intBase 0x13 (fun _ s => ok32 (bfi (lo32 s.d) (lo32 s.a) (lo32 s.b))) with readsD := fun _ => true }
/-- BFI. -/
def execBfi (w : FWord) (s : State) : Host.Outcome State Fault Refusal := answer (aluExec specBfi w s)
/-- POPC (R262). -/
def specPopc : AluSpec := unBase 0x14 (fun _ s => ok32 (BitVec.ofNat 32 (popc (lo32 s.a))))
/-- POPC. -/
def execPopc (w : FWord) (s : State) : Host.Outcome State Fault Refusal := answer (aluExec specPopc w s)
/-- CLZ (R262). -/
def specClz : AluSpec := unBase 0x15 (fun _ s => ok32 (BitVec.ofNat 32 (clz (lo32 s.a))))
/-- CLZ. -/
def execClz (w : FWord) (s : State) : Host.Outcome State Fault Refusal := answer (aluExec specClz w s)
/-- CTZ (R262). -/
def specCtz : AluSpec := unBase 0x16 (fun _ s => ok32 (BitVec.ofNat 32 (ctz (lo32 s.a))))
/-- CTZ. -/
def execCtz (w : FWord) (s : State) : Host.Outcome State Fault Refusal := answer (aluExec specCtz w s)
/-- BREV (R262). -/
def specBrev : AluSpec := unBase 0x17 (fun _ s => ok32 (brev (lo32 s.a)))
/-- BREV. -/
def execBrev (w : FWord) (s : State) : Host.Outcome State Fault Refusal := answer (aluExec specBrev w s)
/-- PERM (R263). -/
def specPerm : AluSpec :=
  { intBase 0x18 (fun m s => ok32 (permBytes m (lo32 s.a) (lo32 s.b))) with bi := false, mod := fun _ => true }
/-- PERM. -/
def execPerm (w : FWord) (s : State) : Host.Outcome State Fault Refusal := answer (aluExec specPerm w s)
/-- SEL (R263): MOD [2:0] n, [3] NEG. -/
def specSel : AluSpec :=
  { intBase 0x19 (fun m s => ok32 (if s.p (bitsAt m 0 3) != bitAt m 3 then lo32 s.a else lo32 s.b)) with
    mod := fun m => decide (m < 16), predsIn := fun m => [bitsAt m 0 3] }
/-- SEL. -/
def execSel (w : FWord) (s : State) : Host.Outcome State Fault Refusal := answer (aluExec specSel w s)
/-- ICMP (R263). -/
def specIcmp : AluSpec :=
  { intBase 0x1A (fun m s => okP (icond m (lo32 s.a) (lo32 s.b))) with d := fun _ => .pred, mod := condOk }
/-- ICMP. -/
def execIcmp (w : FWord) (s : State) : Host.Outcome State Fault Refusal := answer (aluExec specIcmp w s)
/-- MOV (R263): it never copies a TAG. -/
def specMov : AluSpec := unBase 0x1B (fun _ s => ok32 (lo32 s.a))
/-- MOV. -/
def execMov (w : FWord) (s : State) : Host.Outcome State Fault Refusal := answer (aluExec specMov w s)

/-- IADD64 (R264). -/
def specIadd64 : AluSpec := longBase 0x1D (fun _ s => ok64 (lo64 s.a + lo64 s.b))
/-- IADD64. -/
def execIadd64 (w : FWord) (s : State) : Host.Outcome State Fault Refusal := answer (aluExec specIadd64 w s)
/-- ISUB64 (R264). -/
def specIsub64 : AluSpec := longBase 0x1E (fun _ s => ok64 (lo64 s.a - lo64 s.b))
/-- ISUB64. -/
def execIsub64 (w : FWord) (s : State) : Host.Outcome State Fault Refusal := answer (aluExec specIsub64 w s)
/-- IMAD64 (R264). -/
def specImad64 : AluSpec :=
  { longBase 0x1F (fun _ s => ok64 (lo64 s.a * lo64 s.b + lo64 s.d)) with bi := false, readsD := fun _ => true }
/-- IMAD64. -/
def execImad64 (w : FWord) (s : State) : Host.Outcome State Fault Refusal := answer (aluExec specImad64 w s)
/-- SHL64 (R264). -/
def specShl64 : AluSpec := { longBase 0x20 (fun _ s => ok64 (shl64v (lo64 s.a) (lo32 s.b))) with b := fun _ => .reg }
/-- SHL64. -/
def execShl64 (w : FWord) (s : State) : Host.Outcome State Fault Refusal := answer (aluExec specShl64 w s)
/-- SHR64 (R264). -/
def specShr64 : AluSpec := { longBase 0x21 (fun _ s => ok64 (shr64v (lo64 s.a) (lo32 s.b))) with b := fun _ => .reg }
/-- SHR64. -/
def execShr64 (w : FWord) (s : State) : Host.Outcome State Fault Refusal := answer (aluExec specShr64 w s)
/-- SAR64 (R264). -/
def specSar64 : AluSpec := { longBase 0x22 (fun _ s => ok64 (sar64v (lo64 s.a) (lo32 s.b))) with b := fun _ => .reg }
/-- SAR64. -/
def execSar64 (w : FWord) (s : State) : Host.Outcome State Fault Refusal := answer (aluExec specSar64 w s)
/-- ICMP64 (R264). -/
def specIcmp64 : AluSpec :=
  { longBase 0x23 (fun m s => okP (icond m (lo64 s.a) (lo64 s.b))) with d := fun _ => .pred, mod := condOk }
/-- ICMP64. -/
def execIcmp64 (w : FWord) (s : State) : Host.Outcome State Fault Refusal := answer (aluExec specIcmp64 w s)
/-- MOV64 (R264). -/
def specMov64 : AluSpec := { longBase 0x24 (fun _ s => ok64 (lo64 s.a)) with b := fun _ => .none, bi := false }
/-- MOV64. -/
def execMov64 (w : FWord) (s : State) : Host.Outcome State Fault Refusal := answer (aluExec specMov64 w s)

/-- LI in the vector stream (R211, R265): no guard, uniform with KD. -/
def liVec (i : ImmWord) (f : Foc) : State :=
  let ps := f.members 0 false
  let d : Fld := ⟨i.d.toNat, i.kd, false⟩
  if !fldOk .vec .reg d || i.res != 0 then f.trapIssue ps .illegalOperand (hiOf (immToWord i))
  else match unallocated f.r (vregsOf .reg d) with
    | some n => f.trapIssue ps .regUnallocated (BitVec.ofNat 64 n)
    | none =>
      match emptyNeeds f.r ps (vregsOf .reg d) with
      | _ :: _ => (f.spend.block (.regs (emptyNeeds f.r ps (vregsOf .reg d)))).close
      | [] =>
        let f := f.issue clsInt [] (keysOf .reg d) ps i.kd
        let write (f : Foc) (p : Nat) : Foc := { f with r := writeOpd f.r f.x.age p .reg d ⟨i.imm.setWidth 128, false⟩ }
        ((if i.kd then ps.take 1 else ps).foldl write f).next.close

/-- LI in the control stream (R265): IMM sign-extended. -/
def liCtl (i : ImmWord) (s : State) (t : Team) : State :=
  let d : Fld := ⟨i.d.toNat, i.kd, false⟩
  if !fldOk .ctl .reg d || i.res != 0 then s.trapCtl t { code := .illegalOperand, detail := hiOf (immToWord i) }
  else
    let (s, t) := s.issueCtl t clsInt [] [d.n]
    s.putTeam { t with ctl := (t.ctl.putS d.n (i.imm.signExtend 64)).next }

/-- LI (R265). -/
def execLi (i : ImmWord) (s : State) : Host.Outcome State Fault Refusal := answer (byStream s (liVec i) (liCtl i))

end Sys2Proof.Machine
end

