-- ==== Sys2Proof/Machine/Ready.lean ====
section
/-! DEFINITION. Readiness and choice: which splits and control threads may issue, and which one a rod or a core takes next
(spec/08 R181, R187, R194), and instruction fetch (spec/01 R15, spec/05 R109, spec/17 R367). -/

namespace Sys2Proof.Machine

/-- A ring of a pair (R147). -/
def State.ring (s : State) (pair k : Nat) : Ring := tabGet Ring.zero (s.pair pair).rings k

/-- The entries of a team queue (R188). -/
def Team.queue (t : Team) (q : Nat) : List QEntry := tabGet [] t.queues q

/-- A team flag (R187). -/
def Team.flag (t : Team) (f : Nat) : Word := tabGet 0 t.flags f

/-- A future handle (R135). -/
def Team.handle (t : Team) (h : Nat) : Handle := tabGet .idle t.handles h

/-- A handle that has resolved. -/
def Handle.isResolved : Handle → Bool
  | .resolved _ => true
  | _ => false

/-- Grids that wait in the reckoner's queues (R356). -/
def State.queued (s : State) : Nat := s.reckoner.queues.foldl (fun n e => n + e.2.length) 0

/-- A team may issue: placed whole, not halted, not frozen (R30, R189, R392), and its cores are powered (R460). -/
def State.teamRuns (s : State) (t : Team) : Bool :=
  t.ready && !t.halted && decide (t.frozen = none) && tabGet 0 s.power.clusters (clusterOf t.pair) == 0 && s.power.device == 0

/-- A thread of the team may issue. What others of the team issue in the cycle of a violation still happens (R30, R33). -/
def State.teamIssues (s : State) (t : Team) : Bool :=
  s.teamRuns { t with frozen := none } && (match t.frozen with
    | some f => decide (s.gt ≤ f.gtv)
    | none => true)

/-- A core may issue (R460). -/
def State.coreRuns (s : State) (core : Nat) : Bool := tabGet 0 s.power.cores core == 0

/-- A rank or the control thread is the last of its team: every other member has ended (R250). `j` is none for the control
thread. -/
def Team.alone (t : Team) (j : Option Nat) : Bool :=
  (decide (j = none) || t.ctl.ended) && t.ranks.all (fun r => decide (j = some r.num) || r.ended)

/-- A split's wait is over, so that its instruction issues again (R181, R194). The other waits are ended by what they wait
for. -/
def waitOver (s : State) (t : Team) (r : Rank) (w : Wait) : Bool :=
  match w with
  | .none => true
  | .regs needs => needs.all (fun n => r.isFull n.1 n.2)
  | .push q n => decide ((t.queue q).length + n ≤ 32) || t.alone (some r.num)
  | .pop q n => decide (n ≤ (t.queue q).length) || t.alone (some r.num)
  | .flag _ _ _ => t.alone (some r.num)
  | .withdrawn => decide (r.handler = none)
  | .ring k => decide ((s.ring t.pair k).fil ≠ (s.ring t.pair k).tak) || !(s.ring t.pair k).v
  | .arrival c => decide ((r.arrival - c).toNat < 2 ^ 31)
  | .sector p sec _ => decide (((s.pair p).sector sec).st ≠ .f)
  | _ => false

/-- A split is ready (R181): its wait is over, and it holds a thread that may issue. -/
def splitReady (s : State) (t : Team) (r : Rank) (x : Split) : Bool :=
  s.teamIssues t && s.coreRuns (coreOf t.pair r.rod) && !r.ended && decide (x.mask ≠ 0) && waitOver s t r x.wait

/-- The ready splits of a rod with their rank slots. -/
def State.readySplits (s : State) (pair q : Nat) : List (Nat × Agent) :=
  (s.ranksOn pair q).flatMap (fun tr => (tr.2.splits.filter (splitReady s tr.1 tr.2)).map (fun x => (tr.2.slot, .vec tr.1.uid tr.2.num x.age)))

/-- The age of a split's name. -/
def agentAge : Agent → Nat
  | .vec _ _ a => a
  | .ctl _ => 0

/-- The entry with the lowest (rank slot, age) (R181). -/
def lowest : List (Nat × Agent) → Option (Nat × Agent)
  | [] => none
  | e :: l =>
    match lowest l with
    | none => some e
    | some m => some (if e.1 < m.1 ∨ (e.1 = m.1 ∧ agentAge e.2 ≤ agentAge m.2) then e else m)

/-- The split an agent names, with its team and rank. -/
def State.splitOf (s : State) (a : Agent) : Option (Team × Rank × Split) :=
  match a with
  | .ctl _ => none
  | .vec uid j age =>
    match s.team uid with
    | none => none
    | some t => match t.rank j with
      | none => none
      | some r => (r.split age).map (fun x => (t, r, x))

/-- The split the rod issues next (R181): the current one while it is ready; else the ready one of the lowest (rank slot,
age) that no YIELD holds back. A current split that waits for its word keeps the rod (R367). -/
def State.chooseSplit (s : State) (pair q : Nat) : Option Agent :=
  let rod := s.rod pair q
  let ready := s.readySplits pair q
  let held (a : Agent) : Bool :=
    rod.yielded.any (fun e => decide (e.1 = a) && e.2.any (fun b => decide (b ≠ a) && (s.splitOf b).isSome))
  let fresh := (lowest (ready.filter (fun e => !held e.2))).map (fun e => e.2)
  match rod.cur with
  | none => fresh
  | some a =>
    match s.splitOf a with
    | none => fresh
    | some (_, _, x) =>
      if x.wait = .fetch then none
      else if ready.any (fun e => decide (e.2 = a)) then some a else fresh

/-- A split issues: its name leaves the lists of those that yields wait for (R181). -/
def Rod.issues (rod : Rod) (a : Agent) : Rod :=
  { rod with yielded := (rod.yielded.map (fun e => (e.1, e.2.filter (fun b => decide (b ≠ a))))).filter (fun e => decide (e.1 ≠ a) && !e.2.isEmpty) }

/-- Makes a split the current agent with its wait over; the rod's own current split stays. -/
def State.wakeSplit (s : State) (pair q : Nat) (a : Agent) : State :=
  let s := { s.putRod pair q ((s.rod pair q).issues a) with cur := a }
  match s.splitOf a with
  | none => s
  | some (t, r, x) => if x.wait = .none then s else s.putTeam (t.putRank (r.putSplit { x with wait := .none }))

/-- Makes a split the current one of its rod and the current agent: a different split restarts the watchdog (R193). -/
def State.makeCurrent (s : State) (pair q : Nat) (a : Agent) : State :=
  let rod := s.rod pair q
  (s.putRod pair q { rod with cur := some a, rests := false, watch := if rod.cur = some a then rod.watch else 0 }).wakeSplit pair q a

/-- A control thread's wait is over, so that its instruction issues again. -/
def ctlWaitOver (s : State) (t : Team) (w : Wait) : Bool :=
  match w with
  | .none => true
  | .push q n => decide ((t.queue q).length + n ≤ 32) || t.alone none
  | .flag _ _ _ => t.alone none
  | .pop q n => if q < 4 then decide (n ≤ (t.queue q).length) || t.alone none else !(tabGet Endpoint.unbound t.ends q).words.isEmpty || (tabGet Endpoint.unbound t.ends q).cut
  | .handle h => (t.handle h).isResolved || decide (t.handle h = .idle)
  | .ring k => decide ((s.ring t.pair k).fil ≠ (s.ring t.pair k).tak) || !(s.ring t.pair k).v
  | .engine => true
  | .launchRoom => decide (s.queued < 4096)
  | .sector p sec _ => decide (((s.pair p).sector sec).st ≠ .f)
  | _ => false

/-- A control thread is ready (R187). -/
def ctlReady (s : State) (t : Team) : Bool :=
  s.teamIssues t && s.coreRuns (2 * t.pair + t.layer) && !t.ctl.ended && ctlWaitOver s t t.ctl.wait

/-- The control threads of a core that are not blocked (R187). -/
def State.readyCtls (s : State) (pair layer : Nat) : List Team := s.teams.filter (fun t => t.pair == pair && t.layer == layer && ctlReady s t)

/-! ## Fetch -/

/-- What a fetch gives: the word, nothing yet, or a trap. -/
inductive Fetched where
  | word (w : DWord)
  | miss
  | trap (t : Trap)

/-- The code capability of a context (R15). -/
def State.code (s : State) (ctx : Nat) : TCap := ((s.ctx ctx).map (fun c => c.code)).getD TCap.null

/-- The page of a word a context may fetch: the code capability, the translation with its X bit (R15, R25, R45). -/
def State.fetchPage (s : State) (q : Req) (pc : Nat) : State × Except Trap Page :=
  let c := s.code q.ctx
  match capCheck .ctl permEX 8 (fun _ => 0) (pc : Int) 8 c with
  | some t => (s, .error t)
  | none =>
    match s.translate q pc needX with
    | (s, .page p) => if p.fmt = 0 ∧ p.blk = 0 then (s, .ok p) else (s, .error { code := .formatMismatch, detail := BitVec.ofNat 64 (pc % 2 ^ 32) })
    | (s, .fault t) => (s, .error t)
    | (s, .sparse) => (s, .error (vaTrap .notPresent pc false))
    | (s, .migrating) => (s, .error (vaTrap .notPresent pc false))

/-- A fetch of one word through the pair's instruction cache (R109, R367). -/
def State.fetchWord (s : State) (q : Req) (pc : Nat) : State × Fetched :=
  match s.fetchPage q pc with
  | (s, .error t) => (s, .trap t)
  | (s, .ok p) =>
    let pa := p.base + p.off
    match s.copyFor (.icache q.pair) pa 8 with
    | some c => (s, .word (BitVec.ofNat 64 (leNat ((c.data.drop (pa - c.pa)).take 8))))
    | none => (s, .miss)

/-- A fetch of the instruction at a PC: a two-word opcode takes the word after it, whose fault has that word's address in
its detail (R202). -/
def State.fetchAt (s : State) (q : Req) (pc : Nat) : State × Except Fetched Instr :=
  match s.fetchWord q pc with
  | (s, .word w) =>
    if w.extractLsb' 54 10 = 0x064#10 then
      match s.fetchWord q (pc + 8) with
      | (s, .word x) => (s, .ok (decodeWords w (some x)).1)
      | (s, f) => (s, .error f)
    else (s, .ok (decodeWords w none).1)
  | (s, f) => (s, .error f)

/-- Who fetches for a team. -/
def Team.req (t : Team) : Req := ⟨t.pair, t.ctx, t.uid⟩

/-- The fetch of the current agent: its instruction, or the state in which it waits for the word or has taken the trap. The table of
R376 has the page faults at commit, so the lowest active thread is the one handled (DEDUCED, log 62). -/
def State.fetchCur (s : State) : State × Option Instr :=
  match focus s with
  | some f =>
    match s.fetchAt f.t.req f.x.pc.toNat with
    | (s, .ok i) => (s, some i)
    | (s, .error (.trap t)) =>
      let ps := f.members 0 false
      ({ f with s := s }.issued.trap t ⟨f.x.resume, (f.issueSet ps).take 1, ps⟩, none)
    | (s, .error _) => (({ f with s := s }.putSplit { f.x with wait := .fetch }).close, none)
  | none =>
    match s.ctlTeam with
    | none => (s, none)
    | some t =>
      match s.fetchAt t.req t.ctl.pc.toNat with
      | (s, .ok i) => (s, some i)
      | (s, .error (.trap tr)) => (s.trapCtl t tr, none)
      | (s, .error _) => (s.putTeam { t with ctl := { t.ctl with wait := .fetch } }, none)

/-- Fills the instruction cache with the word at an agent's PC, and the one after it for a two-word opcode (R109, R367);
a read that fails raises its trap at issue (R15). -/
def State.fillWord (s : State) (q : Req) (pc : Nat) : State × Option Trap :=
  match s.fetchPage q pc with
  | (s, .error _) => (s, none)
  | (s, .ok p) =>
    let pa := p.base + p.off
    match s.readDev pa 8 p.part with
    | (s, .error e) => (s, some { code := e, detail := BitVec.ofNat 64 (pc % 2 ^ 32) })
    | (s, .ok bytes) =>
      let (expiry, s) := s.grant pa p.reg.lease
      (s.addCopy ⟨.icache q.pair, pa, bytes, expiry, (s.times pa).2, s.order, []⟩, none)

/-! ## The call-graph prefetcher -/

/-- Bytes of a successor table that lie in one page (R226). -/
def State.succBytes (s : State) (q : Req) (va len : Nat) : State × Option (List Byte) :=
  match s.translate q va needR with
  | (s, .page p) =>
    if p.fmt ≠ 0 ∨ p.blk ≠ 0 then (s, none)
    else match s.readDev (p.base + p.off) len p.part with
      | (s', .ok l) => if s'.hole = s.hole then (s', some l) else (s, none)
      | (s', .error _) => (if s'.hole = s.hole then s' else s, none)
  | (s, _) => (s, none)

/-- Entry i of the loaded successor table, unless a fetch of it fails (R225, R226). -/
def State.succEntry (s : State) (q : Req) (base i : Nat) : State × Option Nat :=
  let va := base + 32 * i
  let n := min 32 (4096 - va % 4096)
  match s.succBytes q va n with
  | (s, none) => (s, none)
  | (s, some l) =>
    if n = 32 then (s, some (leNat l))
    else match s.succBytes q (va + n) (32 - n) with
      | (s, none) => (s, none)
      | (s, some m) => (s, some (leNat (l ++ m)))

/-- The successors of a call's target, by a search of the sorted table for its entry among entries lo to hi - 1 (R225, R226)
(DEDUCED, log 47). -/
def State.successors (s : State) (q : Req) (base target : Nat) : Nat → Nat → Nat → State × List Nat
  | 0, _, _ => (s, [])
  | n + 1, lo, hi =>
    if hi ≤ lo then (s, [])
    else
      let mid := (lo + hi) / 2
      match s.succEntry q base mid with
      | (s, none) => (s, [])
      | (s, some e) =>
        if bitsAt e 0 48 = target then (s, (List.range (bitsAt e 240 3)).map (fun k => bitsAt e (48 + 48 * k) 48))
        else if bitsAt e 0 48 < target then s.successors q base target n (mid + 1) hi
        else s.successors q base target n lo mid

/-- Fetches 1,024 bytes from an address into the pair's instruction cache; what cannot be fetched is dropped (R226). -/
def State.fetchAhead (s : State) (q : Req) (pc : Nat) : State :=
  (List.range 128).foldl (fun s k =>
    let s' := (s.fillWord q (pc + 8 * k)).1
    if s'.hole = s.hole then s' else s) s

/-- Calls to these targets commit: each of their successors is fetched once (R226) (DEDUCED, log 47). -/
def State.callAhead (s : State) (q : Req) (gid : Nat) (targets : List (BitVec 48)) : State :=
  match s.grid gid with
  | none => s
  | some g =>
    if g.launch.succva = 0 then s
    else
      let r := targets.eraseDups.foldl (fun (e : State × List Nat) pc =>
        let (s, l) := e.1.successors q g.launch.succva pc.toNat 33 0 g.launch.succn
        (s, e.2 ++ l)) (s, [])
      r.2.eraseDups.foldl (fun s pc => s.fetchAhead q pc) r.1

end Sys2Proof.Machine
end

