-- ==== Sys2Proof/Machine/Pass.lean ====
section
/-! DEFINITION. What the passes of the control, synchronisation and cross-thread instructions share: the checks before a pass
issues, threads that end, barriers and flags (spec/09 R207, spec/08 R175, R180, R185, spec/11 R244 to R250). -/

namespace Sys2Proof.Machine

/-- What the checks of a pass need: the word, whether its fields obey R197 to R199, the v registers it names, and those that
must be full (R184, R207). -/
structure PassSpec where
  word : DWord
  ok : Bool
  named : List Nat
  waits : List Nat

/-- The checks that come before a pass issues, in the order of R207 and R184: the state in which it trapped or blocked. `ps` are the pass's
positions, and `readers` those of them that read the registers. -/
def Foc.permitFor (f : Foc) (ps readers : List Nat) (q : PassSpec) : Option State :=
  if !q.ok then some (f.trapIssue ps .illegalOperand (hiOf q.word))
  else match unallocated f.r q.named with
    | some n => some (f.trapIssue ps .regUnallocated (BitVec.ofNat 64 n))
    | none =>
      match emptyNeeds f.r readers q.waits with
      | [] => none
      | l => some (f.spend.block (.regs l)).close

/-- permitFor of a pass whose every position reads its registers. -/
def Foc.permit (f : Foc) (ps : List Nat) (q : PassSpec) : Option State := f.permitFor ps ps q

/-- The positions that are active and no helpers (R174, R175). -/
def Foc.actives (f : Foc) (ps : List Nat) : List Nat := ps.filter (fun p => !f.r.helper p)

/-- The scoreboard number of a guard. -/
def guardKey (g : BitVec 3) : Nat := 4096 + g.toNat

/-- The sources of an operand that must be full before issue: none under a trap-mode bit (R184). -/
def fullNeeds (o : Opd) (f : Fld) : List Nat := if f.t then [] else vregsOf o f

/-- Issues an instruction of the control thread whose fields are legal, and says whether its guard lets it act; a guard that
does not hold only advances (R200), and a register with a lasting error traps (R399). -/
def ctlPass (s : State) (t : Team) (ok : Bool) (word : DWord) (g : BitVec 3) (gn : Bool) (c : Cls) (reads writes : List Nat)
    (act : State → Team → State) : State :=
  if !ok then s.trapCtl t { code := .illegalOperand, detail := hiOf word }
  else
    let (s, t) := s.issueCtl t c (reads ++ [2048 + g.toNat]) writes
    if t.ctl.pred g.toNat == gn then s.putTeam { t with ctl := t.ctl.next }
    else match t.ctl.readErr reads with
      | some tr => s.trapCtl t tr
      | none => act s t

/-- The control thread waits at its instruction, to issue it again or to be moved past it. -/
def State.ctlBlock (s : State) (t : Team) (w : Wait) : State := s.putTeam { t with ctl := { t.ctl with wait := w } }

/-- The control thread's instruction is done. -/
def State.ctlDone (s : State) (t : Team) : State := s.putTeam { t with ctl := t.ctl.next }

/-- Word [63:32] of an F-form word, as the traps of R207 carry it. -/
def fHi (op : BitVec 8) (w : FWord) : DWord := hiOf (fToWord op w)

/-- An instruction that the control stream does not have (R207). -/
def notInCtl (op : BitVec 8) (w : FWord) (s : State) (t : Team) : State := s.trapCtl t { code := .illegalStream, detail := fHi op w }

/-- An instruction that the vector stream does not have (R207). -/
def notInVec (op : BitVec 8) (w : FWord) (f : Foc) : State :=
  f.trapIssue (f.members w.g.toNat w.gn) .illegalStream (fHi op w)

/-- No k or trap-mode bit and no modifier but those in `mods`. -/
def plainMod (w : FWord) (mods : Nat) : Bool := decide (w.md.toNat < mods)

/-- The guard is p0 without negation (R238). -/
def guardP0 (w : FWord) : Bool := w.g == 0 && !w.gn

/-! ## Threads that end -/

/-- The positions of a quad. -/
def quadOf (p : Nat) : List Nat := [p / 4 * 4, p / 4 * 4 + 1, p / 4 * 4 + 2, p / 4 * 4 + 3]

/-- What EXIT does to the positions that execute it (R175, R244): the positions that end, and those that become helpers. -/
def exitSets (quad : Bool) (r : Rank) (ps : List Nat) : List Nat × List Nat :=
  if !quad then (ps, [])
  else
    let stays (q : Nat) : Bool := (quadOf q).any (fun p => decide (p < r.width) && decide ((r.thread p).life = .active) && !ps.any (fun n => n == p))
    let quads := (List.range 16).filter (fun q => ps.any (fun p => p / 4 == q))
    let gone := quads.filter (fun q => !stays (4 * q))
    (gone.flatMap (fun q => (quadOf (4 * q)).filter (fun p => decide (p < r.width))), ps.filter (fun p => stays p))

/-- Marks positions ended, or helpers. -/
def Rank.mark (r : Rank) (life : Life) (ps : List Nat) : Rank :=
  ps.foldl (fun r p => r.modThread p (fun th => if th.life = .ended then th else { th with life := life })) r

/-- Takes ended threads out of every split, and settles the records they complete (R180). A split in the handler of its rank
stays for the threads it has left behind. -/
def Rank.sweepEnded (r : Rank) : Rank :=
  let gone := r.endedMask
  let left (x : Split) : Split := { x with mask := maskMinus x.mask gone }
  let holds (x : Split) : Bool :=
    decide (x.mask ≠ 0) || (x.inHandler && (match r.handler with
      | some h => decide (maskMinus h.mask gone ≠ 0)
      | none => false))
  { r with splits := (r.splits.map left).filter holds }.settleRecs 16

/-- A rank whose threads have all ended (R244): its slot and pool registers are free, its shared ranges end. -/
def Rank.finish (r : Rank) : Rank :=
  if maskMinus (maskFull r.width) r.endedMask = 0 then { r with ended := true, splits := [], handler := none, shares := [], recs := [] } else r

/-- Ends the shared ranges that other ranks have with an ended rank (R185). -/
def State.dropShares (s : State) (uid j : Nat) : State :=
  { s with teams := s.teams.map (fun t => { t with ranks := t.ranks.map (fun r =>
      { r with shares := r.shares.filter (fun h => !(h.team == uid && h.rank == j)) }) }) }

/-! ## Barriers -/

/-- A barrier of a team. -/
def Team.bar (t : Team) (b : Nat) : Barrier := tabGet Barrier.empty t.bars b

/-- A rank's helpers. -/
def Rank.helperMask (r : Rank) : DWord := maskOf ((List.range r.width).filter (fun p => r.helper p))

/-- The phase of a barrier is complete (R245). -/
def Team.barDone (t : Team) (b : Nat) : Bool :=
  let v := t.bar b
  match v.e with
  | none => false
  | some e =>
    (e || v.ctl || t.ctl.ended) &&
    t.ranks.all (fun r => r.ended || decide (maskMinus (maskFull r.width) (tabGet 0 v.arrived r.num ||| r.endedMask ||| r.helperMask) = 0))

/-- Moves a split past the instruction it waits at. -/
def Split.past (x : Split) : Split := { x with pc := x.pc + 8, resume := 0, given := [], wait := .none }

/-- Ends a phase: everyone who waits goes on (R245). -/
def Team.barRelease (t : Team) (b : Nat) : Team :=
  { t with
    bars := tabPut Barrier.empty t.bars b Barrier.empty
    ctl := if t.ctl.wait = .bar b then t.ctl.next else t.ctl
    ranks := t.ranks.map (fun r => { r with splits := r.splits.map (fun x => if x.wait = .bar b then x.past else x) }) }

/-- Ends the phases that are complete. -/
def Team.sweepBars (t : Team) : Team :=
  (List.range 16).foldl (fun t b => if t.barDone b then t.barRelease b else t) t

/-- Sweeps the barriers of a team of the state. -/
def State.sweepBars (s : State) (uid : Nat) : State :=
  match s.team uid with
  | some t => s.putTeam t.sweepBars
  | none => s

/-- Threads of the focus's rank end or become helpers, and everything that hangs on it follows (R175, R180, R185, R244). -/
def Foc.exitThreads (f : Foc) (ps : List Nat) : State :=
  let (gone, help) := exitSets (f.s.quadMode f.t.grid) f.r ps
  let r := (((f.r.mark .helper help).mark .ended gone).sweepEnded).finish
  let f := { f with r := r }
  -- a split that an EXIT leaves with no thread stops, also where a record it completes gives its age to the merged split
  let f := if maskMinus f.x.mask r.endedMask = 0 then f.stopCur else f
  let s := f.close
  let s := if r.ended then s.dropShares f.t.uid f.r.num else s
  s.sweepBars f.t.uid

/-! ## Flags -/

/-- The waiters of a flag that its value releases (R248). -/
def Team.flagRelease (t : Team) (n : Nat) : Team :=
  let v := t.flag n
  let free (w : Wait) : Bool := match w with
    | .flag m cond cmps => m == n && cmps.all (fun c => flagCond cond v c)
    | _ => false
  { t with
    ctl := if free t.ctl.wait then t.ctl.next else t.ctl
    ranks := t.ranks.map (fun r => { r with splits := r.splits.map (fun x => if free x.wait then x.past else x) }) }

/-- One update of a flag (R247, R248). -/
def State.flagAdd (s : State) (uid n : Nat) (v : Word) : State :=
  match s.team uid with
  | some t => s.putTeam ({ t with flags := tabPut 0 t.flags n (t.flag n + v) }.flagRelease n)
  | none => s

end Sys2Proof.Machine
end

