-- ==== Sys2Proof/Machine/Control.lean ====
section
/-! DEFINITION. Branches, calls and returns, convergence, the end of threads, barriers, flags, queues, software traps, sleep
and the system registers (spec/11 R238 to R255). -/

namespace Sys2Proof.Machine

/-! ## Branches and calls -/

/-- A branch of the vector stream: whether it may diverge, its join address and the trap that reading it raises, where a taken thread goes,
whether the target is checked, and whether it pushes or pops (R182, R239 to R241). -/
structure BrSpec where
  div : Bool
  join : Option (BitVec 48)
  joinTrap : Option Trap := none
  target : Rank → Nat → Except Trap (BitVec 48)
  check : Bool
  push : Bool
  pop : Bool

/-- The check of a computed target: aligned, and inside the context's code capability as an 8-byte fetch (R240). -/
def State.targetTrap (s : State) (m : Master) (ctx : Nat) (pc : BitVec 48) : Option Trap :=
  if pc.toNat % 8 ≠ 0 then some { code := .misaligned, detail := BitVec.ofNat 64 (pc.toNat % 2 ^ 32) }
  else capCheck m permEX 8 (fun _ => 0) (pc.toNat : Int) 8 (s.code ctx)

/-- A return stack after a branch, or the overflow (R239, R241). -/
def brStack (q : BrSpec) (back : BitVec 48) (l : List (BitVec 48)) : Except Trap (List (BitVec 48)) :=
  if q.push then
    if 16 ≤ l.length then .error { code := .callOverflow, detail := 0 } else .ok (back :: l)
  else if q.pop then match l with
    | [] => .error { code := .callOverflow, detail := 1 }
    | _ :: l => .ok l
  else .ok l

/-- Where a taken thread goes, its stack changed, or its trap (R239 to R241). -/
def brThread (q : BrSpec) (f : Foc) (p : Nat) : Except Trap (Rank × BitVec 48) :=
  match q.target f.r p with
  | .error t => .error t
  | .ok pc =>
    match q.joinTrap.or (if q.check then f.s.targetTrap .vec f.t.ctx pc else none) with
    | some t => .error t
    | none =>
      match brStack q (f.x.pc + 8) (f.r.thread p).rets with
      | .error t => .error t
      | .ok l => .ok (f.r.modThread p (fun th => { th with rets := l }), pc)

/-- The walk of a branch pass in position order: each thread gets the PC it goes to. A helper that would trap falls through
(R175). -/
def brWalk (q : BrSpec) (taken : Nat → Bool) : List Nat → Foc → Foc × Option (Nat × Trap)
  | [], f => (f, none)
  | p :: ps, f =>
    let give (f : Foc) (pc : BitVec 48) : Foc := { f with x := { f.x with given := f.x.given ++ [(p, pc)] } }
    if !taken p then brWalk q taken ps (give f (f.x.pc + 8))
    else match brThread q f p with
      | .ok (r, pc) => brWalk q taken ps (give { f with r := r } pc)
      | .error t => if f.r.helper p then brWalk q taken ps (give f (f.x.pc + 8)) else (f, some (p, t))

/-- Inserts a destination by its address. -/
def insertPlace (g : BitVec 48 × List Nat) : List (BitVec 48 × List Nat) → List (BitVec 48 × List Nat)
  | [] => [g]
  | h :: l => if g.1.toNat < h.1.toNat then g :: h :: l else h :: insertPlace g l

/-- The destinations in the order of R240: PC + 8 first, then targets ascending. `fall` are the positions not taken. -/
def brPlaces (next : BitVec 48) (fall : Nat → Bool) (l : List (Nat × BitVec 48)) : List (BitVec 48 × List Nat) :=
  let down := (l.filter (fun e => fall e.1)).map (fun e => e.1)
  let up := (groupByPc (l.filter (fun e => !fall e.1))).foldr insertPlace []
  if down.isEmpty then up else (next, down) :: up

/-- Calls of these threads have committed: the prefetcher looks ahead (R226). -/
def Foc.ahead (f : Foc) (q : BrSpec) (ps : List Nat) : Foc :=
  if q.push then { f with s := f.s.callAhead f.t.req f.t.grid ((f.x.given.filter (fun e => ps.any (fun p => p == e.1))).map (fun e => e.2)) } else f

/-- A branch pass (R239 to R241). -/
def branchVec (q : BrSpec) (spec : PassSpec) (reads : List Nat) (g : BitVec 3) (gn : Bool) (f : Foc) : State :=
  let ps := f.members 0 false
  let taken (p : Nat) : Bool := f.r.pred p g.toNat != gn
  match f.permitFor ps (ps.filter taken) spec with
  | some s => s
  | none =>
    let targets := (ps.filter taken).filterMap (fun p => match q.target f.r p with | .ok pc => some pc | .error _ => none)
    let dests := targets.eraseDups.length + (if ps.all taken then 0 else 1)
    let low : DWord := (f.x.pc.extractLsb' 0 32).setWidth 64
    if 1 < dests && !q.div then f.trapIssue ps .illegalOperand low
    else if 1 < dests && q.join.isSome && f.r.freeRec.isNone then f.trapIssue ps .convOverflow low
    else
      let f := f.issue clsRedirect (guardKey g :: reads) [] ps false
      let before := f.x.given
      let fall (p : Nat) : Bool :=
        if ps.any (fun n => n == p) then !taken p else before.any (fun e => e.1 == p && e.2 == f.x.pc + 8)
      match brWalk q taken ps f with
      | (f, some (p, t)) => (((f.ahead q (ps.filter taken)).putSplit f.x).trap t ⟨p, [p], ps⟩)
      | (f, none) =>
        let f := f.ahead q (ps.filter taken)
        match f.divide (brPlaces (f.x.pc + 8) fall f.x.given) (if 1 < dests then q.join else none) with
        | some f => f.close
        | none => f.close

/-- The PC a number of words away (R210). -/
def wordsAway (pc : BitVec 48) {n : Nat} (d : BitVec n) : BitVec 48 := pc + (d.signExtend 48 <<< 3)

/-- BRA and CALL in the vector stream (R239). -/
def braVec (op : BitVec 8) (push : Bool) (w : BrWord) (f : Foc) : State :=
  let q : BrSpec := { div := w.div, join := if w.jn = 0 then none else some (wordsAway f.x.pc w.jn),
                      target := fun _ _ => .ok (wordsAway f.x.pc w.tgt), check := false, push := push, pop := false }
  branchVec q ⟨brToWord op w, true, [], []⟩ [] w.g w.gn f

/-- A branch of the control thread to a target, once its guard holds. -/
def ctlGo (q : BrSpec) (ctx : Nat) (pc : BitVec 48) (s : State) (t : Team) : State :=
  match (if q.check then s.targetTrap .ctl ctx pc else none) with
  | some tr => s.trapCtl t tr
  | none =>
    match brStack q (t.ctl.pc + 8) t.ctl.rets with
    | .error tr => s.trapCtl t tr
    | .ok l =>
      let s := if q.push then s.callAhead t.req t.grid [pc] else s
      s.putTeam { t with ctl := { t.ctl with pc := pc, rets := l, wait := .none } }

/-- A branch of the control stream: neither diverges nor joins. -/
def ctlBr (check push pop : Bool) : BrSpec :=
  { div := false, join := none, target := fun _ _ => .ok 0, check := check, push := push, pop := pop }

/-- BRA and CALL in the control stream (R238, R239): DIV and JN are 0. -/
def braCtl (op : BitVec 8) (push : Bool) (w : BrWord) (s : State) (t : Team) : State :=
  ctlPass s t (!w.div && w.jn == 0) (brToWord op w) w.g w.gn clsRedirect [] []
    (fun s t => ctlGo (ctlBr false push false) t.ctx (wordsAway t.ctl.pc w.tgt) s t)

/-- BRA. -/
def execBra (w : BrWord) (s : State) : Host.Outcome State Fault Refusal := answer (byStream s (braVec 0xA0 false w) (braCtl 0xA0 false w))
/-- CALL. -/
def execCall (w : BrWord) (s : State) : Host.Outcome State Fault Refusal := answer (byStream s (braVec 0xA2 true w) (braCtl 0xA2 true w))

/-- BRAI and CALLI in the vector stream (R182, R238, R240): MOD [0] DIV, [1] JN. -/
def braiVec (op : BitVec 8) (push : Bool) (w : FWord) (f : Foc) : State :=
  let jn := w.md.getLsbD 1
  let ok := plainMod w 4 && fldOk .vec .none (fldD w) && !w.kd && fldOk .vec .pair (fldA w) &&
    (if jn then w.kb && fldOk .vec .pair (fldB w) else fldOk .vec .none (fldB w))
  let joinAt : BitVec 48 := (((f.r.kreg (w.b.toNat + 1)).val ++ (f.r.kreg w.b.toNat).val).extractLsb' 0 48)
  let joinTrap : Option Trap := match readOpd f.r 0 .pair (fldB w) with
    | .error t => some t
    | .ok _ => none
  let q : BrSpec := { div := w.md.getLsbD 0, join := if jn then some joinAt else none, joinTrap := if jn then joinTrap else none,
                      target := fun r p => match readOpd r p .pair (fldA w) with
                        | .error t => .error t
                        | .ok v => .ok (v.bits.extractLsb' 0 48),
                      check := true, push := push, pop := false }
  branchVec q ⟨fToWord op w, ok, vregsOf .pair (fldA w), fullNeeds .pair (fldA w)⟩
    (keysOf .pair (fldA w) ++ (if jn then keysOf .pair (fldB w) else [])) w.g w.gn f

/-- BRAI and CALLI in the control stream. -/
def braiCtl (op : BitVec 8) (push : Bool) (w : FWord) (s : State) (t : Team) : State :=
  ctlPass s t (w.md == 0 && fldOk .ctl .none (fldD w) && !w.kd && fldOk .ctl .wide (fldA w) && fldOk .ctl .none (fldB w))
    (fToWord op w) w.g w.gn clsRedirect (ctlKeysOf .wide (fldA w)) []
    (fun s t => ctlGo (ctlBr true push false) t.ctx ((t.ctl.getS w.a.toNat).extractLsb' 0 48) s t)

/-- BRAI. -/
def execBrai (w : FWord) (s : State) : Host.Outcome State Fault Refusal := answer (byStream s (braiVec 0xA1 false w) (braiCtl 0xA1 false w))
/-- CALLI. -/
def execCalli (w : FWord) (s : State) : Host.Outcome State Fault Refusal := answer (byStream s (braiVec 0xA3 true w) (braiCtl 0xA3 true w))

/-- The D, A and B fields are unused (R199). -/
def noOperands (st : Stream) (w : FWord) : Bool :=
  fldOk st .none (fldD w) && !w.kd && fldOk st .none (fldA w) && fldOk st .none (fldB w)

/-- RET in the vector stream (R241). -/
def retVec (w : FWord) (f : Foc) : State :=
  let q : BrSpec := { div := w.md.getLsbD 0, join := none,
                      target := fun r p => match (r.thread p).rets with
                        | [] => .error { code := .callOverflow, detail := 1 }
                        | pc :: _ => .ok pc,
                      check := false, push := false, pop := true }
  branchVec q ⟨fToWord 0xA4 w, plainMod w 2 && noOperands .vec w, [], []⟩ [] w.g w.gn f

/-- RET in the control stream (R241). -/
def retCtl (w : FWord) (s : State) (t : Team) : State :=
  ctlPass s t (w.md == 0 && noOperands .ctl w) (fToWord 0xA4 w) w.g w.gn clsRedirect [] []
    (fun s t => ctlGo (ctlBr false false true) t.ctx ((t.ctl.rets.head?).getD 0) s t)

/-- RET. -/
def execRet (w : FWord) (s : State) : Host.Outcome State Fault Refusal := answer (byStream s (retVec w) (retCtl w))

/-- RET.h in the vector stream (R241, R379): MOD is 2; its guard decides only whether the pass returns. -/
def retHVec (w : FWord) (f : Foc) : State :=
  let ps := f.members w.g.toNat w.gn
  match f.permit ps ⟨fToWord 0xA4 w, decide (w.md = 2) && noOperands .vec w, [], []⟩ with
  | some s => s
  | none =>
    match f.r.handler with
    | none => f.trapIssue ps .illegalOperand (fHi 0xA4 w)
    | some h =>
      if !f.x.inHandler then f.trapIssue ps .illegalOperand (fHi 0xA4 w)
      else if ps.isEmpty then ((f.issue clsRedirect [guardKey w.g] [] ps false).next).close
      else if maskMinus h.handled f.x.mask ≠ 0 then f.trapIssue ps .illegalOperand (fHi 0xA4 w)
      else
        let f := f.issue clsRedirect [guardKey w.g, 2048 + 61, 2048 + 62] [] ps false
        match f.r.kErr [61, 62] with
        | some tr => f.stopAt ps ((ps.head?).getD 0) (.trap tr)
        | none => (f.retTo h ((((f.r.kreg 62).val ++ (f.r.kreg 61).val).extractLsb' 0 48))).close

/-- RET.h in the control stream: the thread goes on at s61 (R379). -/
def retHCtl (w : FWord) (s : State) (t : Team) : State :=
  match t.ctl.handler with
  | none => s.trapCtl t { code := .illegalOperand, detail := fHi 0xA4 w }
  | some _ =>
    ctlPass s t (decide (w.md = 2) && noOperands .ctl w) (fToWord 0xA4 w) w.g w.gn clsRedirect [61] []
      (fun s t => s.putTeam { t with ctl := { t.ctl with pc := (t.ctl.getS 61).extractLsb' 0 48, handler := none, wait := .none } })

/-- RET.h. -/
def execRetH (w : FWord) (s : State) : Host.Outcome State Fault Refusal := answer (byStream s (retHVec w) (retHCtl w))

/-! ## Convergence, yielding and ending -/

/-- A pass with no operands and guard p0. -/
def plainSpec (op : BitVec 8) (w : FWord) (mods : Nat) : PassSpec := ⟨fToWord op w, plainMod w mods && noOperands .vec w && guardP0 w, [], []⟩

/-- Whether a record's arrivals and ended threads cover its mask. -/
def Rank.covers (r : Rank) (c : ConvRec) : Bool := decide (maskMinus c.mask (c.arr ||| r.endedMask) = 0)

/-- JOIN in the vector stream (R180, R242). -/
def joinVec (w : FWord) (f : Foc) : State :=
  let ps := f.members 0 false
  match f.permit (f.members w.g.toNat w.gn) (plainSpec 0xA5 w 1) with
  | some s => s
  | none =>
    let f := f.issue clsOnce [] [] ps false
    match f.x.record.bind (fun i => (tabGet none f.r.recs i).map (fun c => (i, c))) with
    | none => f.next.close
    | some (i, c) =>
      if c.jpc ≠ f.x.pc then f.next.close
      else
        let c := { c with arr := c.arr ||| f.x.mask }
        let f := f.putSplit { f.x with wait := .join i }
        let r := { f.r with recs := tabPut none f.r.recs i (some c) }
        if r.covers c then
          let rod := f.s.rod f.t.pair r.rod
          let s := f.s.putRod f.t.pair r.rod { rod with cur := some (.vec f.t.uid r.num c.age) }
          { f with s := s, r := r.settleRecs 16 }.close
        else ({ f with r := r }.stopCur).close

/-- JOIN in the control stream has no effect (R242). -/
def joinCtl (w : FWord) (s : State) (t : Team) : State :=
  ctlPass s t (plainMod w 1 && noOperands .ctl w && guardP0 w) (fToWord 0xA5 w) w.g w.gn clsOnce [] [] State.ctlDone
/-- JOIN. -/
def execJoin (w : FWord) (s : State) : Host.Outcome State Fault Refusal := answer (byStream s (joinVec w) (joinCtl w))

/-- YIELD in the vector stream (R181, R243). -/
def yieldVec (w : FWord) (f : Foc) : State :=
  let ps := f.members 0 false
  match f.permit (f.members w.g.toNat w.gn) (plainSpec 0xA6 w 1) with
  | some s => s
  | none =>
    let me : Agent := .vec f.t.uid f.r.num f.x.age
    let others := ((f.s.readySplits f.t.pair f.r.rod).map (fun e => e.2)).filter (fun a => decide (a ≠ me))
    let f := (f.issue clsOnce [] [] ps false).next.stopCur
    let rod := f.s.rod f.t.pair f.r.rod
    { f with s := f.s.putRod f.t.pair f.r.rod { rod with yielded := rod.yielded ++ (if others.isEmpty then [] else [(me, others)]) } }.close

/-- YIELD in the control stream has no effect beyond its cycle (R243). -/
def yieldCtl (w : FWord) (s : State) (t : Team) : State :=
  ctlPass s t (plainMod w 1 && noOperands .ctl w && guardP0 w) (fToWord 0xA6 w) w.g w.gn clsOnce [] [] State.ctlDone
/-- YIELD. -/
def execYield (w : FWord) (s : State) : Host.Outcome State Fault Refusal := answer (byStream s (yieldVec w) (yieldCtl w))

/-- EXIT in the vector stream (R244). -/
def exitVec (w : FWord) (f : Foc) : State :=
  let ps := f.members w.g.toNat w.gn
  match f.permit ps ⟨fToWord 0xA7 w, plainMod w 1 && noOperands .vec w, [], []⟩ with
  | some s => s
  | none => ((f.issue clsOnce [guardKey w.g] [] ps false).next).exitThreads ps

/-- EXIT in the control stream ends the control thread (R244). -/
def exitCtl (w : FWord) (s : State) (t : Team) : State :=
  ctlPass s t (plainMod w 1 && noOperands .ctl w) (fToWord 0xA7 w) w.g w.gn clsOnce [] []
    (fun s t => (s.putTeam { t with ctl := { t.ctl with ended := true, wait := .none } }).sweepBars t.uid)
/-- EXIT. -/
def execExit (w : FWord) (s : State) : Host.Outcome State Fault Refusal := answer (byStream s (exitVec w) (exitCtl w))

/-! ## Barriers -/

/-- An arrival at a barrier: the phase's E is fixed by the first (R245, R246). -/
def Barrier.arrive (b : Barrier) (j : Nat) (m : DWord) (e : Bool) : Barrier :=
  if m = 0 then b else { b with arrived := tabPut 0 b.arrived j (tabGet 0 b.arrived j ||| m), e := some (b.e.getD e) }

/-- BAR in the vector stream (R245, R246): MOD [3:0] b, [4] E. -/
def barVec (w : FWord) (f : Foc) : State :=
  let ps := f.members 0 false
  match f.permit (f.members w.g.toNat w.gn) (plainSpec 0xA8 w 32) with
  | some s => s
  | none =>
    let b := bitsAt w.md.toNat 0 4
    let e := w.md.getLsbD 4
    if (f.t.bar b).e.getD e != e then f.trapIssue ps .illegalOperand (fHi 0xA8 w)
    else
      let f := f.issue clsOnce [] [] ps false
      let t := { f.t with bars := tabPut Barrier.empty f.t.bars b ((f.t.bar b).arrive f.r.num (maskOf (f.actives (maskList f.x.mask))) e) }
      ({ f with t := t }.block (.bar b)).close.sweepBars t.uid

/-- BAR in the control stream. -/
def barCtl (w : FWord) (s : State) (t : Team) : State :=
  ctlPass s t (plainMod w 16 && noOperands .ctl w && guardP0 w) (fToWord 0xA8 w) w.g w.gn clsOnce [] [] (fun s t =>
    let b := bitsAt w.md.toNat 0 4
    if (t.bar b).e = some true then s.trapCtl t { code := .illegalOperand, detail := fHi 0xA8 w }
    else
      let v := t.bar b
      (s.ctlBlock { t with bars := tabPut Barrier.empty t.bars b { v with ctl := true, e := some false } } (.bar b)).sweepBars t.uid)
/-- BAR. -/
def execBar (w : FWord) (s : State) : Host.Outcome State Fault Refusal := answer (byStream s (barVec w) (barCtl w))

/-! ## Flags -/

/-- Reads an operand of each position in turn: the values, or the first trap with what came before it. -/
def readAll (r : Rank) (o : Opd) (f : Fld) : List Nat → List (Nat × TCap) × Option (Nat × Trap)
  | [] => ([], none)
  | p :: ps =>
    match readOpd r p o f with
    | .error t => if r.helper p then readAll r o f ps else ([], some (p, t))
    | .ok v => let rest := readAll r o f ps; ((p, v) :: rest.1, rest.2)

/-- The flag an A field names in the control stream. -/
def flagNum (w : FWord) : Nat := w.a.toNat - 128

/-- FLAGADD in the vector stream (R247): one update for the pass. -/
def flagaddVec (w : FWord) (f : Foc) : State :=
  let ps := f.members w.g.toNat w.gn
  match f.permit ps ⟨fToWord 0xA9 w, plainMod w 1 && fldOk .vec .none (fldD w) && !w.kd && fldOk .vec .flag (fldA w) && fldOk .vec .reg (fldB w),
      vregsOf .reg (fldB w), fullNeeds .reg (fldB w)⟩ with
  | some s => s
  | none =>
    let f := f.issue clsPer (guardKey w.g :: keysOf .reg (fldB w)) [] ps false
    let (l, stop) := readAll f.r .reg (fldB w) (f.actives ps)
    let sum := l.foldl (fun n e => n + lo32 e.2) 0
    let s := match stop with
      | some (p, t) => f.trap t ⟨p, [p], ps⟩
      | none => f.next.close
    if l.isEmpty then s else s.flagAdd f.t.uid w.a.toNat sum

/-- FLAGADD in the control stream. -/
def flagaddCtl (w : FWord) (s : State) (t : Team) : State :=
  ctlPass s t (plainMod w 1 && fldOk .ctl .none (fldD w) && !w.kd && fldOk .ctl .flag (fldA w) && fldOk .ctl .reg (fldB w))
    (fToWord 0xA9 w) w.g w.gn clsPer (ctlKeysOf .reg (fldB w)) []
    (fun s t => (s.ctlDone t).flagAdd t.uid (flagNum w) ((t.ctl.getS w.b.toNat).extractLsb' 0 32))
/-- FLAGADD. -/
def execFlagadd (w : FWord) (s : State) : Host.Outcome State Fault Refusal := answer (byStream s (flagaddVec w) (flagaddCtl w))

/-- FLAGWAIT in the vector stream (R248, R250). -/
def flagwaitVec (w : FWord) (f : Foc) : State :=
  let ps := f.members w.g.toNat w.gn
  let n := w.a.toNat
  match f.permit ps ⟨fToWord 0xAA w, plainMod w 3 && fldOk .vec .none (fldD w) && !w.kd && fldOk .vec .flag (fldA w) && fldOk .vec .reg (fldB w),
      vregsOf .reg (fldB w), fullNeeds .reg (fldB w)⟩ with
  | some s => s
  | none =>
    let (l, stop) := readAll f.r .reg (fldB w) (f.actives ps)
    match stop with
    | some (p, t) => f.trap t ⟨p, [p], ps⟩
    | none =>
      let f := f.issue clsOnce (guardKey w.g :: keysOf .reg (fldB w)) [] ps false
      let cmps := l.map (fun e => lo32 e.2)
      if cmps.all (fun c => flagCond w.md.toNat (f.t.flag n) c) then f.next.close
      else if f.t.alone (some f.r.num) then f.trapIssue ps .queueFault (BitVec.ofNat 64 (256 + n))
      else (f.block (.flag n w.md.toNat cmps)).close

/-- FLAGWAIT in the control stream. -/
def flagwaitCtl (w : FWord) (s : State) (t : Team) : State :=
  ctlPass s t (plainMod w 3 && fldOk .ctl .none (fldD w) && !w.kd && fldOk .ctl .flag (fldA w) && fldOk .ctl .reg (fldB w))
    (fToWord 0xAA w) w.g w.gn clsOnce (ctlKeysOf .reg (fldB w)) [] (fun s t =>
      let c : Word := (t.ctl.getS w.b.toNat).extractLsb' 0 32
      if flagCond w.md.toNat (t.flag (flagNum w)) c then s.ctlDone t
      else if t.alone none then s.trapCtl t { code := .queueFault, detail := BitVec.ofNat 64 (256 + flagNum w) }
      else s.ctlBlock t (.flag (flagNum w) w.md.toNat [c]))
/-- FLAGWAIT. -/
def execFlagwait (w : FWord) (s : State) : Host.Outcome State Fault Refusal := answer (byStream s (flagwaitVec w) (flagwaitCtl w))

/-! ## Queues -/

/-- Replaces the entries of a queue. -/
def Team.putQueue (t : Team) (q : Nat) (l : List QEntry) : Team := { t with queues := tabPut [] t.queues q l }

/-- The operand of a queue entry: 32 bits, or 64 with W64 (R249). -/
def entryOpd (w : FWord) : Opd := if w.md.getLsbD 0 then .pair else .reg

/-- The threads that a queue pass serves: one entry each, or with ONE the lowest active one alone (R249) (DEDUCED, log 46). -/
def queueThreads (w : FWord) (act : List Nat) : List Nat := if w.md.getLsbD 1 then act.take 1 else act

/-- QPUSH in the vector stream (R249, R250) (DESIGN CHOICE, log 31). -/
def qpushVec (w : FWord) (f : Foc) : State :=
  let ps := f.members w.g.toNat w.gn
  let act := f.actives ps
  let q := w.a.toNat
  match f.permit ps ⟨fToWord 0xAB w, plainMod w 4 && fldOk .vec .none (fldD w) && !w.kd && fldOk .vec .queue (fldA w) &&
      fldOk .vec (entryOpd w) (fldB w), vregsOf (entryOpd w) (fldB w), fullNeeds (entryOpd w) (fldB w)⟩ with
  | some s => s
  | none =>
    if !w.md.getLsbD 1 && decide (32 < act.length) then f.trapIssue ps .illegalOperand (fHi 0xAB w)
    else
      let who := queueThreads w act
      if 32 < (f.t.queue q).length + who.length then
        if f.t.alone (some f.r.num) then f.trapIssue ps .queueFault (BitVec.ofNat 64 q)
        else (f.spend.block (.push q who.length)).close
      else
        let f := f.issue clsPer (guardKey w.g :: keysOf (entryOpd w) (fldB w)) [] ps false
        let (l, stop) := readAll f.r (entryOpd w) (fldB w) who
        let f : Foc := { f with t := f.t.putQueue q (f.t.queue q ++ l.map (fun e => ⟨lo64 e.2, none⟩)) }
        match stop with
        | some (p, t) => f.trap t ⟨p, [p], ps⟩
        | none => f.next.close

/-- Whether a B or D field names a handle of the control stream. -/
def isHandle (f : Fld) : Bool := fldOk .ctl .handle f

/-- QPUSH in the control stream (R139, R251). -/
def qpushCtl (w : FWord) (s : State) (t : Team) : State :=
  let q := w.a.toNat - 112
  ctlPass s t (w.md == 0 && fldOk .ctl .none (fldD w) && !w.kd && fldOk .ctl .queue (fldA w) && decide (q < 4) &&
      (fldOk .ctl .wide (fldB w) || isHandle (fldB w))) (fToWord 0xAB w) w.g w.gn clsPer
    (if isHandle (fldB w) then [] else ctlKeysOf .wide (fldB w)) [] (fun s t =>
      let h := w.b.toNat - 80
      if isHandle (fldB w) && decide (t.handle h = .idle) then s.trapCtl t { code := .handleInvalid, detail := BitVec.ofNat 64 h }
      else if 32 < (t.queue q).length + 1 then
        if t.alone none then s.trapCtl t { code := .queueFault, detail := BitVec.ofNat 64 q }
        else s.ctlBlock t (.push q 1)
      else if isHandle (fldB w) then
        s.ctlDone ({ t with handles := tabPut .idle t.handles h .idle }.putQueue q (t.queue q ++ [QEntry.mk 0 (some (t.handle h))]))
      else s.ctlDone (t.putQueue q (t.queue q ++ [⟨t.ctl.getS w.b.toNat, none⟩])))
/-- QPUSH. -/
def execQpush (w : FWord) (s : State) : Host.Outcome State Fault Refusal := answer (byStream s (qpushVec w) (qpushCtl w))

/-- What a popped entry writes to a register: an entry that carries a handle reads zero, and the handle is lost (R139,
R251). -/
def QEntry.word (e : QEntry) : TCap := ⟨(if e.mark.isSome then 0 else e.val).setWidth 128, false⟩

/-- A thread's popped value: it is in a k register at once, while v registers are empty until it arrives (R184, R250). -/
def popGive (w : FWord) (f : Foc) (p : Nat) (v : TCap) : Foc :=
  if w.kd then { f with r := writeOpd f.r f.x.age p (entryOpd w) (fldD w) v }
  else
    let ty := if w.md.getLsbD 0 then 6 else 4
    { f with
      s := (f.s.start ⟨f.t.uid, some f.r.num, p⟩ f.t.pair f.t.ctx 0 0 (.popped w.d.toNat ty (lo64 v)) []).2
      r := (vregsOf (entryOpd w) (fldD w)).foldl (fun r n => r.emptyV p n) f.r }

/-- Gives popped entries: each active thread takes one, or all the same one; a helper takes zero (R249). -/
def popWrite (w : FWord) (one : Bool) (f : Foc) : List Nat → List QEntry → Foc
  | [], _ => f
  | p :: ps, l =>
    if f.r.helper p then popWrite w one (popGive w f p TCap.null) ps l
    else
      let v := match l with | e :: _ => e.word | [] => TCap.null
      popWrite w one (popGive w f p v) ps (if one then l else l.drop 1)

/-- QPOP in the vector stream (R184, R249, R250). -/
def qpopVec (w : FWord) (f : Foc) : State :=
  let ps := f.members w.g.toNat w.gn
  let act := f.actives ps
  let q := w.a.toNat
  let one := w.md.getLsbD 1
  match f.permit ps ⟨fToWord 0xAC w, plainMod w 4 && fldOk .vec (entryOpd w) (fldD w) && fldOk .vec .queue (fldA w) && (!w.kd || one) &&
      fldOk .vec .none (fldB w), vregsOf (entryOpd w) (fldD w), vregsOf (entryOpd w) (fldD w)⟩ with
  | some s => s
  | none =>
    if !one && decide (32 < act.length) then f.trapIssue ps .illegalOperand (fHi 0xAC w)
    else
      let n := (queueThreads w act).length
      if (f.t.queue q).length < n then
        if f.t.alone (some f.r.num) then f.trapIssue ps .queueFault (BitVec.ofNat 64 q)
        else (f.spend.block (.pop q n)).close
      else
        let f := f.issue clsPer [guardKey w.g] (keysOf (entryOpd w) (fldD w)) ps (w.kd && guardP0 w)
        let l := f.t.queue q
        (popWrite w one { f with t := f.t.putQueue q (l.drop n) } ps l).next.close

/-- QPOP of an endpoint in the control stream (R251, R390): one response word. -/
def popEnd (d q : Nat) (s : State) (t : Team) : State :=
  let e := tabGet Endpoint.unbound t.ends q
  if e.kind = none then s.trapCtl t { code := .queueFault, detail := BitVec.ofNat 64 q }
  else match e.words with
    | w :: l =>
      s.ctlDone { t with ends := tabPut Endpoint.unbound t.ends q { e with words := l }, ctl := { t.ctl.putS d w with pcm := max t.ctl.pcm e.wmax } }
    | [] =>
      if e.cut then s.trapCtl t { code := .islandFault, detail := BitVec.ofNat 64 q } else s.ctlBlock t (.pop q 1)

/-- QPOP into a handle (R139, R251): an unbound endpoint raises QUEUE_FAULT, and a response word carries no handle. It blocks on an empty
queue before it looks at h (DESIGN CHOICE, log 78). -/
def popHandle (h q : Nat) (s : State) (t : Team) : State :=
  let bad := s.trapCtl t { code := .handleInvalid, detail := BitVec.ofNat 64 h }
  if 4 ≤ q then
    let e := tabGet Endpoint.unbound t.ends q
    if e.kind = none || e.words.isEmpty then popEnd 0 q s t else bad
  else match t.queue q with
    | [] => if t.alone none then s.trapCtl t { code := .queueFault, detail := BitVec.ofNat 64 q } else s.ctlBlock t (.pop q 1)
    | e :: l =>
      match e.mark with
      | none => bad
      | some v => if t.handle h = .idle then s.ctlDone ({ t with handles := tabPut .idle t.handles h v }.putQueue q l) else bad

/-- QPOP in the control stream (R139, R251). -/
def qpopCtl (w : FWord) (s : State) (t : Team) : State :=
  let q := w.a.toNat - 112
  ctlPass s t (w.md == 0 && !w.kd && (fldOk .ctl .wide (fldD w) || isHandle (fldD w)) && fldOk .ctl .queue (fldA w) && fldOk .ctl .none (fldB w))
    (fToWord 0xAC w) w.g w.gn clsPer [] (if isHandle (fldD w) then [] else ctlKeysOf .wide (fldD w)) (fun s t =>
      if isHandle (fldD w) then popHandle (w.d.toNat - 80) q s t
      else if 4 ≤ q then popEnd w.d.toNat q s t
      else match t.queue q with
        | [] => if t.alone none then s.trapCtl t { code := .queueFault, detail := BitVec.ofNat 64 q } else s.ctlBlock t (.pop q 1)
        | e :: l => s.ctlDone ({ t with ctl := t.ctl.putS w.d.toNat (lo64 e.word) }.putQueue q l))
/-- QPOP. -/
def execQpop (w : FWord) (s : State) : Host.Outcome State Fault Refusal := answer (byStream s (qpopVec w) (qpopCtl w))

/-! ## Software traps and sleep -/

/-- TRAP and BRK in the vector stream (R252): every active thread faults together, and nothing commits. -/
def softVec (op : BitVec 8) (code : TrapCode) (w : FWord) (f : Foc) : State :=
  let ps := f.members w.g.toNat w.gn
  match f.permit ps ⟨fToWord op w, noOperands .vec w, [], []⟩ with
  | some s => s
  | none =>
    let f := f.issue clsPer [guardKey w.g] [] ps false
    match f.actives ps with
    | [] => f.next.close
    | p :: l => f.trap { code := code, detail := w.md.setWidth 64 } ⟨p, p :: l, ps⟩

/-- TRAP and BRK in the control stream. -/
def softCtl (op : BitVec 8) (code : TrapCode) (w : FWord) (s : State) (t : Team) : State :=
  ctlPass s t (noOperands .ctl w) (fToWord op w) w.g w.gn clsPer [] [] (fun s t => s.trapCtl t { code := code, detail := w.md.setWidth 64 })
/-- TRAP. -/
def execTrap (w : FWord) (s : State) : Host.Outcome State Fault Refusal := answer (byStream s (softVec 0xAD .software w) (softCtl 0xAD .software w))
/-- BRK. -/
def execBrk (w : FWord) (s : State) : Host.Outcome State Fault Refusal := answer (byStream s (softVec 0xAE .brk w) (softCtl 0xAE .brk w))

/-- SLEEP in the vector stream (R253). -/
def sleepVec (w : FWord) (f : Foc) : State :=
  let ps := f.members w.g.toNat w.gn
  match f.permit ps ⟨fToWord 0xAF w, plainMod w 1 && fldOk .vec .none (fldD w) && !w.kd && fldOk .vec .reg (fldA w) && fldOk .vec .none (fldB w),
      vregsOf .reg (fldA w), fullNeeds .reg (fldA w)⟩ with
  | some s => s
  | none =>
    let f := f.issue clsOnce (guardKey w.g :: keysOf .reg (fldA w)) [] ps false
    let (l, stop) := readAll f.r .reg (fldA w) (f.actives ps)
    match stop with
    | some (p, t) => f.trap t ⟨p, [p], ps⟩
    | none =>
      let n := maxOf (l.map (fun e => (lo32 e.2).toNat))
      if n = 0 then f.next.close else (f.block (.sleep (f.s.gt + n))).close

/-- SLEEP in the control stream. -/
def sleepCtl (w : FWord) (s : State) (t : Team) : State :=
  ctlPass s t (plainMod w 1 && fldOk .ctl .none (fldD w) && !w.kd && fldOk .ctl .reg (fldA w) && fldOk .ctl .none (fldB w))
    (fToWord 0xAF w) w.g w.gn clsOnce (ctlKeysOf .reg (fldA w)) [] (fun s t =>
      let n := ((t.ctl.getS w.a.toNat).extractLsb' 0 32).toNat
      if n = 0 then s.ctlDone t else s.ctlBlock t (.sleep (s.gt + n)))
/-- SLEEP. -/
def execSleep (w : FWord) (s : State) : Host.Outcome State Fault Refusal := answer (byStream s (sleepVec w) (sleepCtl w))

/-! ## System registers -/

/-- The system registers (R254): number, width, and whether the control stream reads it too (DEDUCED, log 56). -/
def sysTable : List (Nat × Nat × Bool) :=
  [(0x000, 64, true), (0x001, 32, true), (0x010, 32, false), (0x011, 32, false), (0x012, 32, false), (0x013, 32, false),
   (0x014, 64, false), (0x015, 32, false), (0x016, 32, false), (0x020, 32, true), (0x021, 32, true), (0x022, 32, true),
   (0x023, 32, true), (0x024, 32, true), (0x025, 32, true), (0x026, 32, true), (0x030, 64, true), (0x031, 32, true),
   (0x032, 64, true), (0x040, 64, true), (0x041, 64, true), (0x042, 32, true)]

/-- The width of a system register in a stream, when it is readable there. -/
def sysWidth (st : Stream) (n : Nat) : Option Nat :=
  (sysTable.find? (fun e => e.1 == n && (e.2.2 || decide (st = .vec)))).map (fun e => e.2.1)

/-- The launch values of a team's grid. -/
def State.launchOf (s : State) (t : Team) (f : Grid → Nat) : Nat := ((s.grid t.grid).map f).getD 0

/-- The registers that both streams read (R254). -/
def sysShared (s : State) (t : Team) (ctl : Bool) (pcm : Nat) (n : Nat) : Nat :=
  if n = 0x000 then s.gt
  else if n = 0x001 then s.gt % 2 ^ 32
  else if n = 0x021 then t.number
  else if n = 0x022 then s.launchOf t (fun g => g.launch.nteam)
  else if n = 0x023 then t.gangm.getD 0xFFFFFFFF
  else if n = 0x024 then s.launchOf t (fun g => g.depth)
  else if n = 0x025 then s.launchOf t (fun g => g.launch.ranks)
  else if n = 0x026 then s.launchOf t (fun g => g.launch.width)
  else if n = 0x030 then t.grid
  else if n = 0x031 then t.ctx
  else if n = 0x032 then pcm
  else if n = 0x040 then s.launchOf t (fun g => g.wdlim)
  else if n = 0x041 then s.traph t.grid ctl
  else if n = 0x042 then s.launchOf t (fun g => if g.priv then 1 else 0)
  else 0

/-- A system register as a thread reads it (R254); ps are the positions of the pass (DEDUCED, log 56). -/
def sysVec (f : Foc) (ps : List Nat) (p n : Nat) : Nat :=
  if n = 0x010 then p
  else if n = 0x011 then f.r.num
  else if n = 0x012 then f.r.slot
  else if n = 0x013 then f.r.rod
  else if n = 0x014 then (maskOf (f.actives ps)).toNat
  else if n = 0x015 then (if f.r.helper p then 1 else 0)
  else if n = 0x016 then f.r.top
  else if n = 0x020 then coreOf f.t.pair f.r.rod
  else sysShared f.s f.t false (f.r.thread p).pcm n

/-- RDSYS in the vector stream (R254). -/
def rdsysVec (w : FWord) (f : Foc) : State :=
  let ps := f.members w.g.toNat w.gn
  let width := sysWidth .vec w.md.toNat
  let o : Opd := if width = some 64 then .pair else .reg
  match f.permit ps ⟨fToWord 0xB0 w, width.isSome && fldOk .vec o (fldD w) && fldOk .vec .none (fldA w) && fldOk .vec .none (fldB w),
      vregsOf o (fldD w), vregsOf o (fldD w)⟩ with
  | some s => s
  | none =>
    let uniform := w.kd && guardP0 w
    let f := f.issue { clsInt with lat := some 4 } [guardKey w.g] (keysOf o (fldD w)) ps uniform
    let who := if uniform then (f.actives ps ++ ps).take 1 else ps
    (who.foldl (fun f p => { f with r := writeOpd f.r f.x.age p o (fldD w) ⟨BitVec.ofNat 128 (sysVec f ps p w.md.toNat % 2 ^ 64), false⟩ }) f).next.close

/-- RDSYS in the control stream. -/
def rdsysCtl (w : FWord) (s : State) (t : Team) : State :=
  ctlPass s t ((sysWidth .ctl w.md.toNat).isSome && fldOk .ctl .wide (fldD w) && fldOk .ctl .none (fldA w) && fldOk .ctl .none (fldB w))
    (fToWord 0xB0 w) w.g w.gn clsInt [] (ctlKeysOf .wide (fldD w)) (fun s t =>
      let v := if w.md.toNat = 0x020 then 2 * t.pair + t.layer else sysShared s t true t.ctl.pcm w.md.toNat
      s.ctlDone { t with ctl := t.ctl.putS w.d.toNat (BitVec.ofNat 64 v) })
/-- RDSYS. -/
def execRdsys (w : FWord) (s : State) : Host.Outcome State Fault Refusal := answer (byStream s (rdsysVec w) (rdsysCtl w))

/-- The registers that WRSYS may write (R254). -/
def sysWritable (n : Nat) : Bool := n == 0x040 || n == 0x041

/-- One write of a system register (R255): the grid it leaves, or the trap. -/
def sysWrite (n : Nat) (ctl : Bool) (hi : DWord) (g : Grid) (v : DWord) : Except Trap Grid :=
  if !g.priv then .error { code := .privileged }
  else if n = 0x040 then
    if v.toNat < 2 ^ 16 ∨ 2 ^ 32 < v.toNat then .error { code := .illegalOperand, detail := hi } else .ok { g with wdlim := v.toNat }
  else if v.toNat % 8 ≠ 0 then .error { code := .misaligned, detail := BitVec.ofNat 64 (v.toNat % 2 ^ 32) }
  else if ctl then .ok { g with trapC := v } else .ok { g with trapV := v }

/-- WRSYS by one thread; a helper's write is no effect of its own. -/
def wrsysThread (w : FWord) (f : Foc) (p : Nat) : Except Stop Foc :=
  match f.s.grid f.t.grid with
  | none => .ok f
  | some g =>
    if !g.priv then .error (.trap { code := .privileged })
    else match readOpd f.r p .pair (fldA w) with
      | .error t => .error (.trap t)
      | .ok v => match sysWrite w.md.toNat false (fHi 0xB1 w) g (lo64 v) with
        | .error t => .error (.trap t)
        | .ok g => if f.r.helper p then .ok f else .ok { f with s := f.s.putGrid g }

/-- WRSYS in the vector stream (R254, R255). -/
def wrsysVec (w : FWord) (f : Foc) : State :=
  let ps := f.members w.g.toNat w.gn
  match f.permit ps ⟨fToWord 0xB1 w, sysWritable w.md.toNat && fldOk .vec .none (fldD w) && !w.kd && fldOk .vec .pair (fldA w) &&
      fldOk .vec .none (fldB w), vregsOf .pair (fldA w), fullNeeds .pair (fldA w)⟩ with
  | some s => s
  | none =>
    match passLoop (wrsysThread w) (fun f _ => f) ps (f.issue clsPer (guardKey w.g :: keysOf .pair (fldA w)) [] ps false) with
    | (f, some (p, st)) => f.stopAt ps p st
    | (f, none) => f.next.close

/-- WRSYS in the control stream. -/
def wrsysCtl (w : FWord) (s : State) (t : Team) : State :=
  ctlPass s t (sysWritable w.md.toNat && fldOk .ctl .none (fldD w) && !w.kd && fldOk .ctl .wide (fldA w) && fldOk .ctl .none (fldB w))
    (fToWord 0xB1 w) w.g w.gn clsPer (ctlKeysOf .wide (fldA w)) [] (fun s t =>
      match s.grid t.grid with
      | none => s.ctlDone t
      | some g => match sysWrite w.md.toNat true (fHi 0xB1 w) g (t.ctl.getS w.a.toNat) with
        | .error tr => s.trapCtl t tr
        | .ok g => (s.putGrid g).ctlDone t)
/-- WRSYS. -/
def execWrsys (w : FWord) (s : State) : Host.Outcome State Fault Refusal := answer (byStream s (wrsysVec w) (wrsysCtl w))

end Sys2Proof.Machine
end

