-- ==== Sys2Proof/Machine/Float.lean ====
section
/-! DEFINITION. The floating-point instructions (spec/13 R272 to R282). -/

namespace Sys2Proof.Machine

/-- A MOD value uses only the bits of a mask (R273, R274). -/
def modWithin (mask m : Nat) : Bool := m &&& (4095 - mask) == 0

/-- A source after its modifiers: AA or AB clears the sign bit, NA, NB or NC inverts it (R274). -/
def srcMod (f : FFmt) (absv neg : Bool) (v : Nat) : Nat :=
  let top := 2 ^ (f.eb + f.fb)
  let v := v % (2 * top)
  let v := if absv then v % top else v
  if neg then (if v < top then v + top else v - top) else v

/-- The a source of a format under MOD (R274). -/
def modA (f : FFmt) (m v : Nat) : Nat := srcMod f (bitAt m 4) (bitAt m 2) v
/-- The b source. -/
def modB (f : FFmt) (m v : Nat) : Nat := srcMod f (bitAt m 5) (bitAt m 3) v

/-- S01 after rounding (R274). -/
def clampS01 (f : FFmt) (m v : Nat) : Nat := if bitAt m 6 then fpClamp01 f v else v

/-- A sum of terms, rounded in RM and clamped under S01 (R276). -/
def roundSum (f : FFmt) (m : Nat) (ts : List Fv) : Nat := clampS01 f m (fpSum f (rmOf m) ts)

/-- a + b, a - b, a * b (R276). -/
def addBits (f : FFmt) (m a b : Nat) : Nat := roundSum f m [fpUnpack f (modA f m a), fpUnpack f (modB f m b)]
/-- a - b. -/
def subBits (f : FFmt) (m a b : Nat) : Nat := roundSum f m [fpUnpack f (modA f m a), (fpUnpack f (modB f m b)).neg]
/-- The exact product of the modified sources. -/
def prodBits (f : FFmt) (m a b : Nat) : Fv := (fpUnpack f (modA f m a)).mul (fpUnpack f (modB f m b))
/-- a * b. -/
def mulBits (f : FFmt) (m a b : Nat) : Nat := roundSum f m [prodBits f m a b]
/-- a * b + d. -/
def fmaBits (f : FFmt) (m a b d : Nat) : Nat := roundSum f m [prodBits f m a b, fpUnpack f d]
/-- a * b - d. -/
def fmsBits (f : FFmt) (m a b d : Nat) : Nat := roundSum f m [prodBits f m a b, (fpUnpack f d).neg]
/-- -(a * b) + d. -/
def fnmaBits (f : FFmt) (m a b d : Nat) : Nat := roundSum f m [(prodBits f m a b).neg, fpUnpack f d]
/-- MIN and MAX of the modified sources (R278). -/
def minMaxBits (f : FFmt) (isMax : Bool) (m a b : Nat) : Nat := fpMinMax f isMax (bitAt m 7) (modA f m a) (modB f m b)
/-- A comparison of the modified sources under CND (R279). -/
def cmpBits (f : FFmt) (m a b : Nat) : Bool := fvCond (bitsAt m 9 3) (fpUnpack f (modA f m a)) (fpUnpack f (modB f m b))

/-- The element format of packed pairs (R274). -/
def halfFmt (m : Nat) : FFmt := if bitAt m 8 then bf16 else fp16

/-- A packed operation: element by element (R89, R276). -/
def packed (op : Nat → Nat → Nat → Nat) (a b d : Word) : Word :=
  BitVec.ofNat 32 (op (bitsAt a.toNat 0 16) (bitsAt b.toNat 0 16) (bitsAt d.toNat 0 16) +
    2 ^ 16 * op (bitsAt a.toNat 16 16) (bitsAt b.toNat 16 16) (bitsAt d.toNat 16 16))

/-- The number in the low 32 bits of an operand. -/
def n32 (c : TCap) : Nat := (lo32 c).toNat
/-- The number in the low 64 bits. -/
def n64 (c : TCap) : Nat := (lo64 c).toNat
/-- A 32-bit result from a number. -/
def okN32 (n : Nat) : Except Trap Res := ok32 (BitVec.ofNat 32 n)
/-- A 64-bit result from a number. -/
def okN64 (n : Nat) : Except Trap Res := ok64 (BitVec.ofNat 64 n)

/-- The frame of the FP32 instructions of two sources. -/
def fltBase (opc : BitVec 8) (ctl : Bool) (mask : Nat) (op : Nat → Src → Except Trap Res) : AluSpec :=
  { intBase opc op with ctl := ctl, bi := false, mod := modWithin mask, cls := fun _ => clsFlt }

/-- The frame of the FP32 instructions of one source. -/
def fltUnary (opc : BitVec 8) (mask : Nat) (cls : Cls) (op : Nat → Nat → Nat) : AluSpec :=
  { fltBase opc false mask (fun m s => okN32 (op m (n32 s.a))) with b := fun _ => .none, cls := fun _ => cls }

/-- The frame of the FP64 instructions. -/
def dblBase (opc : BitVec 8) (mask : Nat) (op : Nat → Src → Except Trap Res) : AluSpec :=
  { fltBase opc false mask op with d := fun _ => .pair, a := fun _ => .pair, b := fun _ => .pair, cls := fun _ => clsDbl }

/-- FADD (R276). -/
def specFadd : AluSpec := fltBase 0x40 true 0x07F (fun m s => okN32 (addBits fp32 m (n32 s.a) (n32 s.b)))
/-- FADD. -/
def execFadd (w : FWord) (s : State) : Host.Outcome State Fault Refusal := answer (aluExec specFadd w s)
/-- FSUB (R276). -/
def specFsub : AluSpec := fltBase 0x41 false 0x07F (fun m s => okN32 (subBits fp32 m (n32 s.a) (n32 s.b)))
/-- FSUB. -/
def execFsub (w : FWord) (s : State) : Host.Outcome State Fault Refusal := answer (aluExec specFsub w s)
/-- FMUL (R276). -/
def specFmul : AluSpec := fltBase 0x42 true 0x07F (fun m s => okN32 (mulBits fp32 m (n32 s.a) (n32 s.b)))
/-- FMUL. -/
def execFmul (w : FWord) (s : State) : Host.Outcome State Fault Refusal := answer (aluExec specFmul w s)
/-- FFMA (R276). -/
def specFfma : AluSpec :=
  { fltBase 0x43 true 0x07F (fun m s => okN32 (fmaBits fp32 m (n32 s.a) (n32 s.b) (n32 s.d))) with readsD := fun _ => true }
/-- FFMA. -/
def execFfma (w : FWord) (s : State) : Host.Outcome State Fault Refusal := answer (aluExec specFfma w s)
/-- FFMS (R276). -/
def specFfms : AluSpec :=
  { fltBase 0x44 false 0x07F (fun m s => okN32 (fmsBits fp32 m (n32 s.a) (n32 s.b) (n32 s.d))) with readsD := fun _ => true }
/-- FFMS. -/
def execFfms (w : FWord) (s : State) : Host.Outcome State Fault Refusal := answer (aluExec specFfms w s)
/-- FNMA (R276). -/
def specFnma : AluSpec :=
  { fltBase 0x45 false 0x07F (fun m s => okN32 (fnmaBits fp32 m (n32 s.a) (n32 s.b) (n32 s.d))) with readsD := fun _ => true }
/-- FNMA. -/
def execFnma (w : FWord) (s : State) : Host.Outcome State Fault Refusal := answer (aluExec specFnma w s)
/-- FMIN (R278). -/
def specFmin : AluSpec := fltBase 0x46 false 0x0BC (fun m s => okN32 (minMaxBits fp32 false m (n32 s.a) (n32 s.b)))
/-- FMIN. -/
def execFmin (w : FWord) (s : State) : Host.Outcome State Fault Refusal := answer (aluExec specFmin w s)
/-- FMAX (R278). -/
def specFmax : AluSpec := fltBase 0x47 false 0x0BC (fun m s => okN32 (minMaxBits fp32 true m (n32 s.a) (n32 s.b)))
/-- FMAX. -/
def execFmax (w : FWord) (s : State) : Host.Outcome State Fault Refusal := answer (aluExec specFmax w s)
/-- FCMP (R279). -/
def specFcmp : AluSpec :=
  { fltBase 0x48 true 0xE3C (fun m s => okP (cmpBits fp32 m (n32 s.a) (n32 s.b))) with d := fun _ => .pred }
/-- FCMP. -/
def execFcmp (w : FWord) (s : State) : Host.Outcome State Fault Refusal := answer (aluExec specFcmp w s)
/-- FRND (R281). -/
def specFrnd : AluSpec := fltUnary 0x49 0x057 clsFlt (fun m a => clampS01 fp32 m (fpRnd (rmOf m) (modA fp32 m a)))
/-- FRND. -/
def execFrnd (w : FWord) (s : State) : Host.Outcome State Fault Refusal := answer (aluExec specFrnd w s)
/-- FFRAC (R281). -/
def specFfrac : AluSpec := fltUnary 0x4A 0x014 clsFlt (fun m a => fpFrac (modA fp32 m a))
/-- FFRAC. -/
def execFfrac (w : FWord) (s : State) : Host.Outcome State Fault Refusal := answer (aluExec specFfrac w s)
/-- FCLASS (R280). -/
def specFclass : AluSpec := fltUnary 0x4B 0 clsFlt (fun _ a => fpClass a)
/-- FCLASS. -/
def execFclass (w : FWord) (s : State) : Host.Outcome State Fault Refusal := answer (aluExec specFclass w s)

/-- The frame of a transcendental (R282). -/
def xcSpec (opc : BitVec 8) (g : Rm → Fv → Nat) : AluSpec :=
  fltUnary opc 0x057 clsXc (fun m a => clampS01 fp32 m (g (rmOf m) (fpUnpack fp32 (modA fp32 m a))))
/-- FRCP (R282). -/
def execFrcp (w : FWord) (s : State) : Host.Outcome State Fault Refusal := answer (aluExec (xcSpec 0x4C fpRcp) w s)
/-- FRSQ (R282). -/
def execFrsq (w : FWord) (s : State) : Host.Outcome State Fault Refusal := answer (aluExec (xcSpec 0x4D fpRsq) w s)
/-- FSQRT (R282). -/
def execFsqrt (w : FWord) (s : State) : Host.Outcome State Fault Refusal := answer (aluExec (xcSpec 0x4E fpSqrt) w s)
/-- FEX2 (R282). -/
def execFex2 (w : FWord) (s : State) : Host.Outcome State Fault Refusal := answer (aluExec (xcSpec 0x4F fpEx2) w s)
/-- FLG2 (R282). -/
def execFlg2 (w : FWord) (s : State) : Host.Outcome State Fault Refusal := answer (aluExec (xcSpec 0x50 fpLg2) w s)
/-- FSIN (R282). -/
def execFsin (w : FWord) (s : State) : Host.Outcome State Fault Refusal := answer (aluExec (xcSpec 0x51 fpSin) w s)
/-- FCOS (R282). -/
def execFcos (w : FWord) (s : State) : Host.Outcome State Fault Refusal := answer (aluExec (xcSpec 0x52 fpCos) w s)

/-- The frame of the packed instructions. -/
def halfSpec (opc : BitVec 8) (mask : Nat) (reads : Bool) (op : FFmt → Nat → Nat → Nat → Nat → Nat) : AluSpec :=
  { fltBase opc false mask (fun m s => ok32 (packed (op (halfFmt m) m) (lo32 s.a) (lo32 s.b) (lo32 s.d))) with readsD := fun _ => reads }
/-- HADD2 (R276). -/
def execHadd2 (w : FWord) (s : State) : Host.Outcome State Fault Refusal :=
  answer (aluExec (halfSpec 0x53 0x17F false (fun f m a b _ => addBits f m a b)) w s)
/-- HSUB2 (R276). -/
def execHsub2 (w : FWord) (s : State) : Host.Outcome State Fault Refusal :=
  answer (aluExec (halfSpec 0x54 0x17F false (fun f m a b _ => subBits f m a b)) w s)
/-- HMUL2 (R276). -/
def execHmul2 (w : FWord) (s : State) : Host.Outcome State Fault Refusal :=
  answer (aluExec (halfSpec 0x55 0x17F false (fun f m a b _ => mulBits f m a b)) w s)
/-- HFMA2 (R276). -/
def execHfma2 (w : FWord) (s : State) : Host.Outcome State Fault Refusal :=
  answer (aluExec (halfSpec 0x56 0x17F true fmaBits) w s)
/-- HMIN2 (R278). -/
def execHmin2 (w : FWord) (s : State) : Host.Outcome State Fault Refusal :=
  answer (aluExec (halfSpec 0x57 0x1BC false (fun f m a b _ => minMaxBits f false m a b)) w s)
/-- HMAX2 (R278). -/
def execHmax2 (w : FWord) (s : State) : Host.Outcome State Fault Refusal :=
  answer (aluExec (halfSpec 0x58 0x1BC false (fun f m a b _ => minMaxBits f true m a b)) w s)
/-- HCMP2 (R279): a halfword of ones or zeros for each element. -/
def execHcmp2 (w : FWord) (s : State) : Host.Outcome State Fault Refusal :=
  answer (aluExec (halfSpec 0x59 0xF3C false (fun f m a b _ => if cmpBits f m a b then 0xFFFF else 0)) w s)

/-- DADD (R276). -/
def specDadd : AluSpec := dblBase 0x5A 0x07F (fun m s => okN64 (addBits fp64 m (n64 s.a) (n64 s.b)))
/-- DADD. -/
def execDadd (w : FWord) (s : State) : Host.Outcome State Fault Refusal := answer (aluExec specDadd w s)
/-- DMUL (R276). -/
def specDmul : AluSpec := dblBase 0x5B 0x07F (fun m s => okN64 (mulBits fp64 m (n64 s.a) (n64 s.b)))
/-- DMUL. -/
def execDmul (w : FWord) (s : State) : Host.Outcome State Fault Refusal := answer (aluExec specDmul w s)
/-- DFMA (R276). -/
def specDfma : AluSpec :=
  { dblBase 0x5C 0x07F (fun m s => okN64 (fmaBits fp64 m (n64 s.a) (n64 s.b) (n64 s.d))) with readsD := fun _ => true }
/-- DFMA. -/
def execDfma (w : FWord) (s : State) : Host.Outcome State Fault Refusal := answer (aluExec specDfma w s)
/-- DCMP (R279). -/
def specDcmp : AluSpec :=
  { dblBase 0x5D 0xE3C (fun m s => okP (cmpBits fp64 m (n64 s.a) (n64 s.b))) with d := fun _ => .pred }
/-- DCMP. -/
def execDcmp (w : FWord) (s : State) : Host.Outcome State Fault Refusal := answer (aluExec specDcmp w s)

/-- FFMA4 (R203, R276): the third source comes from the X word, under NC. -/
def specFfma4 : AluSpec :=
  fltBase 0x64 false 0x0FF (fun m s => okN32 (fmaBits fp32 m (n32 s.a) (n32 s.b) (srcMod fp32 false (bitAt m 7) (n32 s.c))))
/-- FFMA4, two words. -/
def execFfma4 (w : FWord) (x : XWord) (s : State) : Host.Outcome State Fault Refusal :=
  answer (byStream s (aluVec specFfma4 w (some x)) (aluCtl specFfma4 w))

end Sys2Proof.Machine
end

