-- ==== Sys2Proof/Machine/Convert.lean ====
section
/-! DEFINITION. Conversions and packed dot products (spec/13 R283 to R289). -/

namespace Sys2Proof.Machine

/-- A type code of R235 names a floating-point type. -/
def tyFloat (ty : Nat) : Bool := decide (8 ≤ ty) && decide (ty ≤ 11)
/-- The format of a floating-point type code. -/
def tyFmt (ty : Nat) : FFmt := if ty = 8 then fp16 else if ty = 9 then bf16 else if ty = 10 then fp32 else fp64
/-- The bits of a value of a type code. -/
def tyBits (ty : Nat) : Nat :=
  match ty with
  | 0 => 8 | 1 => 8 | 2 => 16 | 3 => 16 | 4 => 32 | 5 => 32 | 6 => 64 | 7 => 64 | 8 => 16 | 9 => 16 | 10 => 32 | 11 => 64 | _ => 128
/-- A signed integer type code. -/
def tySigned (ty : Nat) : Bool := ty % 2 == 1 && decide (ty < 8)
/-- The access unit of a type code in bytes (R235). -/
def tyBytes (ty : Nat) : Nat := tyBits ty / 8
/-- The operand of a type code: a pair for 64 bits, else one register (R235, R283). -/
def tyOpd (ty : Nat) : Opd := if tyBits ty = 64 then .pair else .wide

/-- The exact value of a source of a type code (R284). -/
def tyValue (ty v : Nat) : Fv :=
  if tyFloat ty then fpUnpack (tyFmt ty) (v % 2 ^ tyBits ty)
  else Fv.ofInt (if tySigned ty then signedOf (tyBits ty) v else ((v % 2 ^ tyBits ty : Nat) : Int))

/-- Round with CVT's saturation: a finite value that overflows gives the largest finite one (R284). -/
def roundSat (f : FFmt) (rm : Rm) (sat : Bool) (v : Fv) : Nat :=
  let r := fpRound f rm v
  match v with
  | .fin neg _ _ => if sat && r % 2 ^ (f.eb + f.fb) == f.inf then (if neg then 2 ^ (f.eb + f.fb) else 0) + f.inf - 1 else r
  | _ => r

/-- An integer of a type code as the 128 bits a register takes, extended by its signedness (R284). -/
def intBits (ty : Nat) (z : Int) : BitVec 128 :=
  let v := (z % ((2 ^ tyBits ty : Nat) : Int)).toNat
  BitVec.ofInt 128 (if tySigned ty then signedOf (tyBits ty) v else (v : Int))

/-- CVT's result (R284): MOD [10] SAT, [9:6] ST, [5:2] DT, [1:0] RM. -/
def cvtBits (m v : Nat) : BitVec 128 :=
  let st := bitsAt m 6 4
  let dt := bitsAt m 2 4
  let rm := rmOf m
  let x := tyValue st v
  if tyFloat dt then BitVec.ofNat 128 (roundSat (tyFmt dt) rm (bitAt m 10) x)
  else if tyFloat st then
    intBits dt (match x with
      | .nan => 0
      | .inf n => if n then (intRange (tySigned dt) (tyBits dt)).1 else (intRange (tySigned dt) (tyBits dt)).2
      | .fin n k e => clampInt (intRange (tySigned dt) (tyBits dt)) (fvToInt rm (.fin n k e)))
  else
    let z := fvToInt .rtz x
    intBits dt (if bitAt m 10 then clampInt (intRange (tySigned dt) (tyBits dt)) z else z)

/-- Which MOD values CVT takes (R283, R284). -/
def cvtOk (m : Nat) : Bool :=
  let st := bitsAt m 6 4
  let dt := bitsAt m 2 4
  decide (m < 2048) && decide (st < 12) && decide (dt < 12) &&
    (!bitAt m 10 || (tyFloat st && tyFloat dt && st != dt) || (!tyFloat st && !tyFloat dt))

/-- CVT (R283, R284). -/
def specCvt : AluSpec :=
  { intBase 0x5E (fun m s => .ok { val := ⟨cvtBits m (n64 s.a), false⟩ }) with
    d := fun m => tyOpd (bitsAt m 2 4)
    a := fun m => tyOpd (bitsAt m 6 4)
    b := fun _ => .none
    bi := false
    mod := cvtOk
    cls := fun m => if bitsAt m 6 4 = 11 ∨ bitsAt m 2 4 = 11 then clsDbl else clsFlt }
/-- CVT. -/
def execCvt (w : FWord) (s : State) : Host.Outcome State Fault Refusal := answer (aluExec specCvt w s)

/-- CVTW (R285): MOD [5] SAT, [4] W64, [3] BF, [2] DIR, [1:0] RM. -/
def cvtwOp (m : Nat) (s : Src) : Except Trap Res :=
  let h := if bitAt m 3 then bf16 else fp16
  let w := if bitAt m 4 then fp64 else fp32
  if bitAt m 2 then
    let e (i : Nat) : Nat := fpRound w .rne (fpUnpack h (bitsAt (n32 s.a) (16 * i) 16))
    let n := w.eb + w.fb + 1
    .ok { val := ⟨BitVec.ofNat 128 (e 0 + 2 ^ n * e 1), false⟩ }
  else
    let r (v : TCap) : Nat := roundSat h (rmOf m) (bitAt m 5) (fpUnpack w (if bitAt m 4 then n64 v else n32 v))
    okN32 (r s.a + 2 ^ 16 * r s.b)

/-- CVTW (R285). -/
def specCvtw : AluSpec :=
  { intBase 0x60 cvtwOp with
    ctl := false
    d := fun m => if bitAt m 2 then (if bitAt m 4 then .span else .pair) else .reg
    a := fun m => if bitAt m 2 then .reg else if bitAt m 4 then .pair else .reg
    b := fun m => if bitAt m 2 then .none else if bitAt m 4 then .pair else .reg
    bi := false
    mod := fun m => decide (m < 64) && (!bitAt m 2 || (bitsAt m 0 2 == 0 && !bitAt m 5))
    cls := fun m => if bitAt m 4 then clsDbl else clsFlt }
/-- CVTW. -/
def execCvtw (w : FWord) (s : State) : Host.Outcome State Fault Refusal := answer (aluExec specCvtw w s)

/-- The format code of R95 that CVTN's NF names (R286). -/
def nfFmt (nf : Nat) : Nat := nf + 1

/-- CVTN's wide formats (R286). -/
def wfFmt (wf : Nat) : FFmt := if wf = 1 then fp16 else if wf = 2 then bf16 else fp32

/-- CVTN (R287): MOD [11:10] LANE, [8] NSAT or SC, [7:6] WF, [5] DIR, [4:2] NF, [1:0] RM. -/
def cvtnOp (m : Nat) (s : Src) : Except Trap Res :=
  let lane := bitsAt m 10 2
  let wf := bitsAt m 6 2
  let fmt := nfFmt (bitsAt m 2 3)
  let bits := fmtBits fmt
  let rm := rmOf m
  if !bitAt m 5 then
    let x (i : Nat) : Fv :=
      if wf = 0 then fpUnpack fp32 (if i = 0 then n32 s.a else n32 s.b) else fpUnpack (wfFmt wf) (bitsAt (n32 s.a) (16 * i) 16)
    let put (d i : Nat) : Nat :=
      let lo := bits * (2 * lane + i)
      let code := elemEncode fmt (x i) rm (!bitAt m 8)
      d - (bitsAt d lo bits) * 2 ^ lo + (code % 2 ^ bits) * 2 ^ lo
    okN32 (put (put (n32 s.d) 0) 1)
  else
    let c := if bitAt m 8 then bitsAt (n32 s.b) 0 8 else 127
    let e (i : Nat) : Nat := bitsAt (n32 s.a) (bits * (2 * lane + i)) bits
    let y (i : Nat) : Nat :=
      if wf = 3 then (((elemValue fmt (e i)).units 0) % ((2 ^ 32 : Nat) : Int)).toNat else elemDecode fmt (e i) c (wfFmt wf) rm
    if wf = 0 ∨ wf = 3 then okN64 (y 0 + 2 ^ 32 * y 1) else okN32 (y 0 + 2 ^ 16 * y 1)

/-- Which MOD values CVTN takes (R286). -/
def cvtnOk (m : Nat) : Bool :=
  let nf := bitsAt m 2 3
  let wf := bitsAt m 6 2
  !bitAt m 9 && decide (nf < 7) && (decide (fmtBits (nfFmt nf) = 4) || decide (bitsAt m 10 2 ≤ 1)) &&
    (if bitAt m 5 then wf != 3 || (fmtIsInt (nfFmt nf) && !bitAt m 8) else wf != 3)

/-- A CVTN decode to an integer from a floating format, or with a scale, raises FORMAT_MISMATCH (R286). -/
def cvtnTrap (m : Nat) : TrapCode :=
  let nf := bitsAt m 2 3
  if bitAt m 5 && bitsAt m 6 2 == 3 && decide (nf < 7) && (!fmtIsInt (nfFmt nf) || bitAt m 8) then .formatMismatch else .illegalOperand

/-- CVTN (R286, R287). -/
def specCvtn : AluSpec :=
  { intBase 0x5F cvtnOp with
    ctl := false
    d := fun m => if bitAt m 5 && (bitsAt m 6 2 == 0 || bitsAt m 6 2 == 3) then .pair else .reg
    b := fun m => if bitAt m 5 then (if bitAt m 8 then .reg else .none) else if bitsAt m 6 2 = 0 then .reg else .none
    readsD := fun m => !bitAt m 5
    bi := false
    mod := cvtnOk
    modTrap := cvtnTrap
    cls := fun _ => clsFlt }
/-- CVTN. -/
def execCvtn (w : FWord) (s : State) : Host.Outcome State Fault Refusal := answer (aluExec specCvtn w s)

/-- The format code of R95 for FA or FB of DOT4 and DOT8 (R288). -/
def dotFmt (four : Bool) (c : Nat) : Nat :=
  if four then (if c = 0 then 3 else if c = 2 then 6 else 7) else (if c = 0 then 1 else if c = 1 then 2 else if c = 2 then 4 else 5)

/-- Which MOD values DOT4 and DOT8 take (R288). -/
def dotOk (four : Bool) (m : Nat) : Bool :=
  let fb := bitsAt m 4 2
  let fa := bitsAt m 2 2
  let int := decide (2 ≤ fa)
  decide (m < 128) && (decide (2 ≤ fa) == decide (2 ≤ fb)) && (!four || (fa != 1 && fb != 1)) &&
    (if int then bitsAt m 0 2 == 0 else !bitAt m 6)

/-- DOT4 and DOT8 (R289). -/
def dotOp (four : Bool) (m : Nat) (s : Src) : Except Trap Res :=
  let n := if four then 8 else 4
  let bits := if four then 4 else 8
  let fa := dotFmt four (bitsAt m 2 2)
  let fb := dotFmt four (bitsAt m 4 2)
  let ea (i : Nat) : Fv := elemValue fa (bitsAt (n32 s.a) (bits * i) bits)
  let eb (i : Nat) : Fv := elemValue fb (bitsAt (n32 s.b) (bits * i) bits)
  if decide (2 ≤ bitsAt m 2 2) then
    let z := (List.range n).foldl (fun z i => z + (ea i).units 0 * (eb i).units 0) (lo32 s.d).toInt
    ok32 (if bitAt m 6 then BitVec.ofInt 32 (clampInt (intRange true 32) z) else BitVec.ofInt 32 z)
  else okN32 (fpSum fp32 (rmOf m) (fpUnpack fp32 (n32 s.d) :: (List.range n).map (fun i => (ea i).mul (eb i))))

/-- The frame of DOT4 and DOT8. -/
def dotSpec (opc : BitVec 8) (four : Bool) : AluSpec :=
  { intBase opc (dotOp four) with ctl := false, bi := false, readsD := fun _ => true, mod := dotOk four, cls := fun _ => clsDot }
/-- DOT4 (R288, R289). -/
def execDot4 (w : FWord) (s : State) : Host.Outcome State Fault Refusal := answer (aluExec (dotSpec 0x61 false) w s)
/-- DOT8 (R288, R289). -/
def execDot8 (w : FWord) (s : State) : Host.Outcome State Fault Refusal := answer (aluExec (dotSpec 0x62 true) w s)

/-- DOT2H (R289). -/
def dot2hOp (m : Nat) (s : Src) : Except Trap Res :=
  let f := halfFmt m
  let p (i : Nat) : Fv := prodBits f m (bitsAt (n32 s.a) (16 * i) 16) (bitsAt (n32 s.b) (16 * i) 16)
  okN32 (roundSum fp32 m [fpUnpack fp32 (n32 s.d), p 0, p 1])
/-- DOT2H (R288, R289). -/
def specDot2h : AluSpec :=
  { fltBase 0x63 false 0x17F dot2hOp with readsD := fun _ => true, cls := fun _ => clsDot }
/-- DOT2H. -/
def execDot2h (w : FWord) (s : State) : Host.Outcome State Fault Refusal := answer (aluExec specDot2h w s)

end Sys2Proof.Machine
end

