-- ==== Sys2Proof/Machine/Access.lean ====
section
/-! DEFINITION. Thread accesses at commit: the checks of an access in their order, what it sends to the homes, values and
bytes, and the fields of an L.mem word (spec/14 R290 to R299, spec/09 R208, R209, spec/10 R234 to R236). -/

namespace Sys2Proof.Machine

/-! ## L.mem fields -/

/-- The operand of a value of a type code (R235). -/
def memOpd (ty : Nat) : Opd := if ty = 12 then .quad else if tyBits ty = 64 then .pair else .reg

/-- The D field of an L.mem word. -/
def memD (w : MemWord) : Fld := ⟨w.d.toNat, false, false⟩
/-- The CAP field. -/
def memCap (w : MemWord) : Fld := ⟨w.cap.toNat, w.kc, false⟩
/-- The IDX field. -/
def memIdx (w : MemWord) : Fld := ⟨w.idx.toNat, w.ki, w.ti⟩
/-- IDX names no register. -/
def noIdx (w : MemWord) : Bool := w.idx == 0x7FF

/-- The conditions of R209 and R234 on an L.mem word: its D operand, the legal types, and whether RES is allowed. -/
def memOk (st : Stream) (d : Opd) (types : Nat → Bool) (res : Bool) (w : MemWord) : Bool :=
  decide (w.scope.toNat < 6) && types w.ty.toNat && (res || w.res == 0) && fldOk st d (memD w) && fldOk st .quad (memCap w) &&
    (if noIdx w then !w.ki && !w.ti
     else match st with
       | .vec => fldOk .vec .reg (memIdx w)
       | .ctl => fldOk .ctl .reg (memIdx w) && decide (1 ≤ w.idx.toNat))

/-- The index operand's kind. -/
def idxOpd (w : MemWord) : Opd := if noIdx w then .none else .reg

/-- The v registers a vector L.mem pass names besides D. -/
def memNamed (w : MemWord) : List Nat := vregsOf .quad (memCap w) ++ vregsOf (idxOpd w) (memIdx w)

/-- Those that must be full. -/
def memWaits (w : MemWord) : List Nat := vregsOf .quad (memCap w) ++ fullNeeds (idxOpd w) (memIdx w)

/-- The scoreboard numbers a vector L.mem pass reads besides D. -/
def memKeys (w : MemWord) : List Nat := guardKey w.g :: keysOf .quad (memCap w) ++ keysOf (idxOpd w) (memIdx w)

/-- The registers a control L.mem instruction reads besides D. -/
def memCtlKeys (w : MemWord) : List Nat := ctlKeysOf .quad (memCap w) ++ ctlKeysOf (idxOpd w) (memIdx w)

/-- A capability and the exact first address of an access (R290). -/
def memAddr (r : Rank) (p : Nat) (w : MemWord) (u : Nat) (off : Int) : Except Trap (TCap × Int) :=
  match readOpd r p .quad (memCap w) with
  | .error t => .error t
  | .ok c =>
    if noIdx w then .ok (c, (capCursor c : Int) + off * (u : Int))
    else match readReg r p w.ki w.ti w.idx.toNat with
      | .error t => .error t
      | .ok i => .ok (c, (capCursor c : Int) + (i.toInt + off) * (u : Int))

/-- The same in the control stream (R290). -/
def memAddrCtl (t : Ctl) (w : MemWord) (u : Nat) (off : Int) : TCap × Int :=
  let c := t.getC (w.cap.toNat - 64)
  let i : Int := if noIdx w then 0 else (t.getS w.idx.toNat).toInt
  (c, (capCursor c : Int) + (i + off) * (u : Int))

/-! ## Values and bytes -/

/-- What a load of a type code leaves in registers, from the number its bytes hold (R293). -/
def loadBits (ty v : Nat) : BitVec 128 := if ty < 8 then intBits ty ((v : Nat) : Int) else BitVec.ofNat 128 (v % 2 ^ tyBits ty)

/-- The bytes a store of a type code sends (R293). -/
def storeBytes (ty : Nat) (v : TCap) : List Byte := natLe (tyBytes ty) v.bits.toNat

/-- What an element load leaves in registers (R91, R294). -/
def elemBits (fmt ty code scale : Nat) : BitVec 128 :=
  if tyFloat ty then BitVec.ofNat 128 (elemDecode fmt code scale (tyFmt ty) .rne)
  else intBits ty (fvToInt .rtz (elemValue fmt code))

/-! ## The checks of an access -/

/-- Who makes an access, of which master, through which capability, from which address (R25, R290). -/
structure MemReq where
  who : Who
  q : Req
  m : Master
  c : TCap
  addr : Int
  res : Bool

/-- The request of a thread of a rank. -/
def Foc.memReq (f : Foc) (p : Nat) (a : TCap × Int) (res : Bool) : MemReq :=
  ⟨⟨f.t.uid, some f.r.num, p⟩, f.t.req, .vec, a.1, a.2, res⟩

/-- The request of a control thread. -/
def Team.memReq (t : Team) (a : TCap × Int) (res : Bool) : MemReq := ⟨⟨t.uid, none, 0⟩, t.req, .ctl, a.1, a.2, res⟩

/-- The range-lock check of an access (R144). -/
def State.rangeTrap (s : State) (a : MemReq) (len : Nat) (write : Bool) : Option Trap :=
  let n := a.addr.toNat
  let space := capSpace a.c
  if decide (space < 5) && (s.pair (homePair a.q.pair space n)).lockHit space n len write then
    some { code := .rangeLocked, detail := BitVec.ofNat 64 (n % 2 ^ 32) }
  else none

/-- Steps 1 to 5 of R25 and the range-lock check that follows them (R144, R291) (DEDUCED, log 13). -/
def State.checkMem (s : State) (a : MemReq) (need align len : Nat) (write : Bool) : Option Trap :=
  match capCheck a.m need align (s.extentOf a.q.pair) a.addr len a.c with
  | some t => some t
  | none => s.rangeTrap a len write

/-- An address of a space lies on a format page or a format range (R42, R96). -/
def State.formatAt (s : State) (q : Req) (space : Nat) (n : Int) : Bool :=
  let va := n.toNat
  if n < 0 then false
  else if space = 1 ∨ space = 4 then
    let r := s.region q.ctx (va / 2 ^ 44 % 16)
    r.en && (match s.peekLeaf r va with
      | some e => let p := pageFor r e va; p.fmt != 0 || p.blk != 0
      | none => false)
  else decide (space < 5) && (s.pair (homePair q.pair space va)).onFormat (va % 2 ^ 19) 1

/-- The request of an access of u bytes with its access unit: on a format page or range the unit that scales the index and OFF, and that the
checks see, is one element (R209, R235, R290). -/
def State.elemUnit (s : State) (a : MemReq) (u : Nat) : MemReq × Nat :=
  let n : Int := (capCursor a.c : Int) + (a.addr - (capCursor a.c : Int)) / (u : Int)
  if s.formatAt a.q (capSpace a.c) n then ({ a with addr := n }, 1)
  else if s.formatAt a.q (capSpace a.c) a.addr then (a, 1)
  else (a, u)

/-- The pieces of an access in the host's space (R106). -/
def State.planHost (s : State) (ctx addr len : Nat) (data : List Byte) : Plan :=
  let port := ((s.ctx ctx).map (fun c => c.port)).getD 0
  ⟨(unitsOf false addr len).map (fun u => pieceAt (.host port u.1) u.2 ((data.drop (u.1 - addr)).take u.2) false false), false, []⟩

/-- Translation, the format check and the homes of a byte access (R25 step 6, R96, R291). `tag` and `whole16` are for LDCAP and
STCAP (DEDUCED, log 13). -/
def State.planMem (s : State) (a : MemReq) (need len : Nat) (read : Bool) (data : List Byte) (tag whole16 : Bool) : State × Except Stop Plan :=
  let n := a.addr.toNat
  let space := capSpace a.c
  if space = 1 ∨ space = 4 then s.planGlobal a.q need n len data
  else if space = 5 then (s, .ok (s.planHost a.q.ctx n len data))
  else s.planPad a.q.pair n space len a.who read data tag whole16

/-- MISSING_PAGE (R52). -/
def missingPage (a : MemReq) : Stop := .trap { code := .missingPage, detail := BitVec.ofNat 64 (a.addr.toNat % 2 ^ 32) }

/-- What an access at commit leads to: nothing to do because its page is sparse, or an access in flight. -/
inductive Sent where
  | sparse
  | access (id : Nat)

/-- A load at commit (R291, R293, R299): `cap` for LDCAP, whose 16 bytes and tag are one unit in a scratchpad. -/
def State.sendLoad (s : State) (a : MemReq) (cap : Bool) (d : Dest) : State × Except Stop Sent :=
  let (a, len) := s.elemUnit a (tyBytes d.ty)
  match s.checkMem a (if cap then permLD + permTL else permLD) (if cap then 16 else 1) len false with
  | some t => (s, .error (.trap t))
  | none =>
    match s.planMem a needR len true [] false cap with
    | (s, .error e) => (s, .error e)
    | (s, .ok p) =>
      if p.sparse then (s, if a.res then .ok .sparse else .error (missingPage a))
      else
        let space := capSpace a.c
        let pieces := if space = 1 ∨ space = 4 then p.pieces.map (fun x => s.hitL1 a.q.pair a.who x) else p.pieces
        let (id, s) := s.start a.who a.q.pair a.q.ctx space a.addr.toNat (.load d) pieces
        (s, .ok (.access id))

/-- A store at commit (R291, R293, R299): a tagged STCAP needs TS, and keeps its tag in a scratchpad alone. -/
def State.sendStore (s : State) (a : MemReq) (cap : Bool) (ty : Nat) (v : TCap) : State × Except Stop Sent :=
  let (a, len) := s.elemUnit a (tyBytes ty)
  let need := if cap && v.tag then permST + permTS else permST
  match s.checkMem a need (if cap then 16 else 1) len true with
  | some t => (s, .error (.trap t))
  | none =>
    match s.planMem a needW len false (storeBytes ty v) (cap && v.tag) cap with
    | (s, .error e) => (s, .error e)
    | (s, .ok p) =>
      if p.sparse then (s, .ok .sparse)
      else
        match s.debugPieces a.addr.toNat p.pieces with
        | (s, .error e) => (s, .error e)
        | (s, .ok pieces) =>
          let s := if capSpace a.c = 5 then s.noteHostWrite a.who.team else s
          let (id, s) := s.start a.who a.q.pair a.q.ctx (capSpace a.c) a.addr.toNat .store pieces
          (s, .ok (.access id))

/-! ## Elements -/

/-- An element of a format page or range: its format and block code, the homes of its data byte and of its scale byte, the bit
within the byte, the cache partition and lease, and whether its page is sparse. -/
structure ElemAt where
  fmt : Nat
  blk : Nat
  data : Home
  scale : Home
  bit : Nat
  part : Nat
  lease : Nat
  sparse : Bool

/-- FORMAT_MISMATCH at an address. -/
def formatTrap (n : Nat) : Stop := .trap { code := .formatMismatch, detail := BitVec.ofNat 64 (n % 2 ^ 32) }

/-- The element at an address of spaces 1 and 4 (R96 to R98). -/
def State.elemGlobal (s : State) (q : Req) (need n : Nat) : State × Except Stop ElemAt :=
  match s.translate q n need with
  | (s, .fault t) => (s, .error (.trap t))
  | (s, .migrating) =>
    let r := s.region q.ctx (n / 2 ^ 44 % 16)
    (s, .error (.block (.migration q.ctx (n / 2 ^ 44 % 16 * 2 ^ 32 + pageOf r n))))
  | (s, .sparse) => (s, .ok ⟨0, 0, .dev 0, .dev 0, 0, 0, 0, true⟩)
  | (s, .page p) =>
    if p.fmt = 0 ∨ !fmtValid p.fmt p.blk ∨ pageElems p.fmt p.blk p.size ≤ p.off then (s, .error (formatTrap n))
    else
      let e := elemPlace p.fmt p.blk p.off
      (s, .ok ⟨p.fmt, p.blk, .dev (p.base + e.1), .dev (p.base + e.2.2), e.2.1, p.part, p.reg.lease, false⟩)

/-- Where the element at an offset of spaces 2 and 3 lies (R100): none where there is none. -/
def State.padElem (s : State) (pair space n : Nat) : Option ElemAt :=
  let hp := homePair pair space n
  let off := n % 2 ^ 19
  match (s.pair hp).mapAt off with
  | none => none
  | some (_, m) =>
    let idx := off - m.soff * 256
    if m.fmt = 0 ∨ !fmtValid m.fmt m.blk ∨ pageElems m.fmt m.blk (m.slen * 256) ≤ idx then none
    else
      let e := elemPlace m.fmt m.blk idx
      some ⟨m.fmt, m.blk, .pad hp (m.soff * 256 + e.1), .pad hp (m.soff * 256 + e.2.2), e.2.1, 0, 0, false⟩

/-- The state of the mapped sector that a byte of an element in a scratchpad lies in (R71, R399). -/
def State.padReady (s : State) (h : Home) (len n : Nat) (who : Who) (read : Bool) : State × Option Stop :=
  match h with
  | .pad hp off =>
    match s.sectorWait hp off len who false with
    | (s, some w) => (s, some (.block w))
    | (s, none) =>
      (s, if read && (s.pair hp).poisoned off len then some (.trap { code := .poison, detail := BitVec.ofNat 64 (n % 2 ^ 32) }) else none)
  | _ => (s, none)

/-- The element at an offset of spaces 2 and 3 (R100). -/
def State.elemPad (s : State) (pair space n : Nat) (who : Who) (read : Bool) : State × Except Stop ElemAt :=
  match s.padElem pair space n with
  | none => (s, .error (formatTrap n))
  | some e =>
    match s.padReady e.data (if 8 ≤ e.fmt then 2 else 1) n who read with
    | (s, some x) => (s, .error x)
    | (s, none) =>
      match (if e.blk = 0 then (s, none) else s.padReady e.scale 1 n who read) with
      | (s, some x) => (s, .error x)
      | (s, none) => (s, .ok e)

/-- The index of the element at an address in its page or range, and how many elements the page or range holds, for a format and block
code (R97, R100). -/
def State.elemIndex (s : State) (ctx pair space n fmt blk : Nat) : Nat × Nat :=
  if space = 1 ∨ space = 4 then
    let z := 2 ^ pageBits (s.region ctx (n / 2 ^ 44 % 16)).psz
    (n % z, pageElems fmt blk z)
  else match (s.pair (homePair pair space n)).mapAt (n % 2 ^ 19) with
    | none => (0, 0)
    | some (_, m) => (n % 2 ^ 19 - m.soff * 256, pageElems fmt blk (m.slen * 256))

/-- The element at an address. -/
def State.elemAt (s : State) (a : MemReq) (need : Nat) (read : Bool) : State × Except Stop ElemAt :=
  let n := a.addr.toNat
  let space := capSpace a.c
  if space = 1 ∨ space = 4 then s.elemGlobal a.q need n
  else if space = 5 then (s, .error (formatTrap n))
  else s.elemPad a.q.pair space n a.who read

/-- A piece at an element's home. -/
def ElemAt.piece (e : ElemAt) (home : Home) (len : Nat) (data : List Byte) (mask : Option Nat) : Piece :=
  { pieceAt home len data false false with mask := mask, part := e.part, lease := e.lease }

/-- An element load at commit (R294): an integer type only from an unscaled integer format (R91). -/
def State.sendElemLoad (s : State) (a : MemReq) (reg ty : Nat) : State × Except Stop Sent :=
  match s.checkMem a permLD 1 1 false with
  | some t => (s, .error (.trap t))
  | none =>
    match s.elemAt a needR true with
    | (s, .error e) => (s, .error e)
    | (s, .ok e) =>
      if e.sparse then (s, if a.res then .ok .sparse else .error (missingPage a))
      else if !tyFloat ty && !(fmtIsInt e.fmt && e.blk == 0) then (s, .error (formatTrap a.addr.toNat))
      else
        let pieces := e.piece e.data (if 8 ≤ e.fmt then 2 else 1) [] none :: (if e.blk = 0 then [] else [e.piece e.scale 1 [] none])
        let (id, s) := s.start a.who a.q.pair a.q.ctx (capSpace a.c) a.addr.toNat (.load ⟨reg, ty, some (e.fmt, e.bit == 4)⟩)
          (pieces.map (fun x => s.hitL1 a.q.pair a.who x))
        (s, .ok (.access id))

/-- The code an element store writes (R295). -/
def elemCode (fmt blk ty v c : Nat) : Nat :=
  let x := tyValue ty v
  let y := if blk = 0 then x else x.scale (127 - ((if c = 255 then 127 else c % 256 : Nat) : Int))
  elemEncode fmt y .rne true

/-- The pieces of an element store (R101, R295). -/
def ElemAt.store (e : ElemAt) (ty v c : Nat) : List Piece :=
  let code := elemCode e.fmt e.blk ty v c
  let data :=
    if 8 ≤ e.fmt then e.piece e.data 2 (natLe 2 code) none
    else if fmtBits e.fmt = 4 then e.piece e.data 1 [BitVec.ofNat 8 (code % 16 * 2 ^ e.bit)] (some (15 * 2 ^ e.bit))
    else e.piece e.data 1 [BitVec.ofNat 8 code] none
  data :: (if e.blk = 0 then [] else [e.piece e.scale 1 [BitVec.ofNat 8 c] none])

/-- An element store at commit (R295). `scale` reads the scale register when the destination is block-scaled. -/
def State.sendElemStore (s : State) (a : MemReq) (ty v : Nat) (scale : Except Stop Nat) : State × Except Stop Sent :=
  match s.checkMem a permST 1 1 true with
  | some t => (s, .error (.trap t))
  | none =>
    match s.elemAt a needW false with
    | (s, .error e) => (s, .error e)
    | (s, .ok e) =>
      if e.sparse then (s, .ok .sparse)
      else if !tyFloat ty && !(fmtIsInt e.fmt && e.blk == 0) then (s, .error (formatTrap a.addr.toNat))
      else
        match (if e.blk = 0 then .ok 0 else scale) with
        | .error e => (s, .error e)
        | .ok c =>
          match s.debugPieces a.addr.toNat (e.store ty v c) with
          | (s, .error e) => (s, .error e)
          | (s, .ok pieces) =>
            let (id, s) := s.start a.who a.q.pair a.q.ctx (capSpace a.c) a.addr.toNat .store pieces
            (s, .ok (.access id))

/-! ## Atomics -/

/-- The types an atomic operation takes (R236). -/
def atomTypes (op ty : Nat) : Bool :=
  let int4 := decide (4 ≤ ty) && decide (ty ≤ 7)
  if op ≤ 5 ∨ op = 7 then int4
  else if op = 6 then int4 || ty == 10
  else if op = 8 ∨ op = 9 then ty == 4 || ty == 6
  else if op ≤ 12 then ty == 10
  else false

/-- What an atomic writes at its home; none when it writes nothing (R236). For `.cas`, v is the compare value. -/
def atomResult (op ty : Nat) (old v new : Nat) : Option Nat :=
  let n := tyBits ty
  let less (a b : Nat) : Bool := if tySigned ty then decide (signedOf n a < signedOf n b) else decide (a < b)
  match op with
  | 0 => some ((old + v) % 2 ^ n)
  | 1 => some (old &&& v)
  | 2 => some (old ||| v)
  | 3 => some (old ^^^ v)
  | 4 => some (if less v old then v else old)
  | 5 => some (if less old v then v else old)
  | 6 => some v
  | 7 => if old = v then some new else none
  | 8 => some (if v ≤ old then 0 else old + 1)
  | 9 => some (if old = 0 ∨ v < old then v else old - 1)
  | 10 => some (fpSum fp32 .rne [fpUnpack fp32 old, fpUnpack fp32 v])
  | 11 => some (fpMinMax fp32 false false old v)
  | _ => some (fpMinMax fp32 true false old v)

/-- Applies an atomic's piece at its home: the old bytes, or the error its read met (R111, R120, R298). -/
def State.atomHome (s : State) (op ty : Nat) (v new : DWord) (p : Piece) : State × Piece :=
  let result (old : List Byte) : Option Nat := atomResult op ty (leNat old) (v.toNat % 2 ^ tyBits ty) (new.toNat % 2 ^ tyBits ty)
  match p.home with
  | .dev pa =>
    match s.readDev pa p.len p.part with
    | (s, .error e) => (s, { p with done := true, err := some e, time := (s.times pa).2, served := s.gt })
    | (s, .ok now) =>
      match result (p.gets now) with
      | none => (s, { p with done := true, data := p.gets now, time := (s.times pa).2, served := s.gt })
      | some r =>
        let (w, s) := s.writeDev pa p.part (p.leaves now (natLe p.len r))
        (s, { p with done := true, data := p.gets now, time := w, served := s.gt })
  | .pad hp off =>
    let q := s.pair hp
    let now := memBytes q.pad off p.len
    match result (p.gets now) with
    | none => (s, { p with done := true, data := p.gets now, time := s.gt, served := s.gt })
    | some r => (s.putPair hp (q.write off (p.leaves now (natLe p.len r)) false), { p with done := true, data := p.gets now, time := s.gt, served := s.gt })
  | .host _ _ => (s, p)

/-- With the debug switch set at its home, an atomic's piece is applied as it commits, and recorded (R122) (DEDUCED, log 22). -/
def State.debugAtom (s : State) (op ty : Nat) (v new : DWord) (p : Piece) : State × Piece :=
  match p.home with
  | .dev pa =>
    let n := sliceOf (pa / 4096)
    if !(tabGet Slice.start s.slices n).debug then (s, p)
    else
      let s := s.tear 0 p
      let (s, p) := { s with order := s.order + 1 }.atomHome op ty v new p
      (s.modSlice n (fun c => c.note pa p.len), { p with order := s.order })
  | _ => (s, p)

/-- The pieces of an atomic as it commits, of which there is one: with the debug switch set it conflicts and traps, or is applied
(R28, R122). -/
def State.debugAtoms (s : State) (addr op ty : Nat) (v new : DWord) (l : List Piece) : State × Except Stop (List Piece) :=
  match s.mixedSize addr l with
  | some t => (s, .error (.trap t))
  | none =>
    let (s, l) := l.foldl (fun (e : State × List Piece) p => let (s, p) := e.1.debugAtom op ty v new p; (s, e.2 ++ [p])) (s, [])
    (s, .ok l)

/-- Drops the pair's L1 lines that an atomic goes past (R67). -/
def State.dropPieces (s : State) (pair : Nat) (l : List Piece) : State :=
  l.foldl (fun s p => match p.home with | .dev pa => s.dropL1 pair pa p.len | _ => s) s

/-- An atomic at commit (R298): it needs AT and R and W of the leaf. -/
def State.sendAtom (s : State) (a : MemReq) (op : Nat) (v new : DWord) (d : Dest) : State × Except Stop Sent :=
  let (a, len) := s.elemUnit a (tyBytes d.ty)
  match s.checkMem a permAT len len true with
  | some t => (s, .error (.trap t))
  | none =>
    match s.planMem a (needR + needW) len true [] false false with
    | (s, .error e) => (s, .error e)
    | (s, .ok p) =>
      if p.sparse then (s, if a.res then .ok .sparse else .error (missingPage a))
      else
        match s.debugAtoms a.addr.toNat op d.ty v new p.pieces with
        | (s, .error e) => (s, .error e)
        | (s, .ok pieces) =>
          let s := if capSpace a.c = 5 then s.noteHostWrite a.who.team else s
          let (id, s) := (s.dropPieces a.q.pair pieces).start a.who a.q.pair a.q.ctx (capSpace a.c) a.addr.toNat (.atom op d.ty v new d) pieces
          (s, .ok (.access id))

/-! ## Units that a pass writes whole -/

/-- The unit whose poison mark a piece's write may clear: a device sector or a scratchpad granule, with the bytes of it that the
piece writes (R60, R397). -/
def Piece.unit (p : Piece) : Option ((Nat × Nat × Nat) × Nat × List Nat) :=
  match p.home with
  | .dev pa => some ((0, 0, pa / 256), 256, (List.range p.len).map (fun i => pa % 256 + i))
  | .pad h off => some ((1, h, off / 16), 16, (List.range p.len).map (fun i => off % 16 + i))
  | .host _ _ => none

/-- The bytes of a unit that a list of pieces writes. -/
def unitBytes (u : Nat × Nat × Nat) (size : Nat) (l : List Piece) : Nat :=
  ((List.range size).filter (fun i => l.any (fun p => match p.unit with
    | some (v, _, bs) => v == u && bs.any (fun b => b == i)
    | none => false))).length

/-- Whether a unit is poisoned now. -/
def State.unitPoisoned (s : State) (u : Nat × Nat × Nat) : Bool :=
  if u.1 = 0 then tabGet false s.poison u.2.2 else tabGet false (s.pair u.2.1).poison u.2.2

/-- Marks the store pieces of a pass, those of the accesses from `lo` on, that together write a poisoned unit whole. -/
def State.markClears (s : State) (lo : Nat) : State :=
  let mine := (s.accesses.filter (fun a => decide (lo ≤ a.id) && decide (a.kind = .store))).flatMap (fun a => a.pieces)
  let whole (p : Piece) : Bool := match p.unit with
    | some (u, size, _) => s.unitPoisoned u && unitBytes u size mine == size
    | none => false
  { s with accesses := s.accesses.map (fun a =>
      if lo ≤ a.id ∧ a.kind = .store then { a with pieces := a.pieces.map (fun p => if whole p then { p with clears := true } else p) } else a) }

/-- Clears the mark of a unit once the last piece that writes it whole has been applied. -/
def State.settleClear (s : State) (p : Piece) : State :=
  match p.unit with
  | some (u, _, _) =>
    let waiting := s.accesses.any (fun a => a.pieces.any (fun q => q.clears && !q.done && (match q.unit with | some (v, _, _) => v == u | none => false)))
    if !p.clears || waiting then s
    else if u.1 = 0 then { s with poison := tabPut false s.poison u.2.2 false }
    else s.putPair u.2.1 { s.pair u.2.1 with poison := tabPut false (s.pair u.2.1).poison u.2.2 false }
  | none => s

/-! ## Writes as they reach their homes -/

/-- Replaces piece i of an access. -/
def State.putPiece (s : State) (a : Access) (i : Nat) (p : Piece) : State := s.putAccess { a with pieces := listPut a.pieces i p }

/-- A port carries the device's traffic: it is up, and not frozen, which counts as lost (R383, R454). -/
def State.portOpen (s : State) (port : Nat) : Bool :=
  let p := tabGet Port.start s.ports port
  decide (p.state = .up) && !p.frozen

/-- The port takes a posted write, or the home lies on the device (R106, R454). -/
def State.homeOpen (s : State) (h : Home) : Bool :=
  match h with
  | .host port _ => s.portOpen port
  | _ => true

/-- A write or atomic piece applied at its home (R111). -/
def State.applyPiece (s : State) (k : AccKind) (p : Piece) : State × Piece :=
  match k with
  | .store =>
    let (w, s) := s.writeHome p
    (s, { p with done := true, time := w, served := s.gt })
  | .atom op ty v new _ => s.atomHome op ty v new p
  | .vismax v => match p.home with
    | .host _ _ => let (w, s) := s.writeHome { p with data := natLe 8 v.toNat }; (s, { p with done := true, time := w, served := s.gt })
    | _ => s.atomHome 5 6 v 0 p
  | _ => (s, p)

/-- A write or atomic piece is applied at its home (R107, R111): in home order, and in the thread's own order for bytes it touches twice. -/
def State.homeWrite (s : State) (id i : Nat) : State :=
  match s.access id with
  | none => s
  | some a =>
    match a.pieces[i]? with
    | none => s
    | some p =>
      let host : Bool := match p.home with | .host _ _ => true | _ => false
      let atomic : Bool := match a.kind with | .atom .. => true | _ => false
      if p.done || !a.kind.writes || !s.inOrder a p || !s.homeOpen p.home || (host && atomic) then s
      else
        let s := s.tear id p
        let (s, q) := { s with order := s.order + 1 }.applyPiece a.kind p
        (s.putPiece a i { q with order := s.order }).settleClear q

/-- The writes of one thread reach their homes before a later instruction of it whose reads or write-backs they precede (R74,
R107) (DEDUCED, log 24). -/
def State.landOwn (s : State) (who : Who) : State :=
  (s.accesses.filter (fun a => decide (a.who = who) && a.kind.writes)).foldl (fun s a =>
    (List.range a.pieces.length).foldl (fun s i => s.homeWrite a.id i) s) s

/-- The same for the threads of a rank of a team that a pass holds. -/
def State.landPass (s : State) (uid j : Nat) (ps : List Nat) : State := ps.foldl (fun s p => s.landOwn ⟨uid, some j, p⟩) s

/-- The same for a control thread (DEDUCED, log 24). -/
def State.landCtl (s : State) (uid : Nat) : State := s.landOwn ⟨uid, none, 0⟩

end Sys2Proof.Machine
end

