-- ==== Sys2Proof/Machine/Islands.lean ====
section
/-! DEFINITION. What an island computes: the cells of a Proxo image, and the arithmetic of the four default images
(spec/19 R400 to R407, spec/20 R423, R427, R434, R438). -/

namespace Sys2Proof.Machine

/-! ## Geometry -/

/-- Columns of a kind (R400). -/
def islandCols (kind : Nat) : Nat := if kind = 1 then 10 else 8
/-- Rows of a kind (R400). -/
def islandRows (kind : Nat) : Nat := if kind = 2 then 8 else 6
/-- The special column of a kind (R400). -/
def islandSpecial (kind : Nat) : Nat := if kind = 1 then 4 else 3
/-- Request words of a kind (R400). -/
def islandWords (kind : Nat) : Nat := if kind = 0 then 20 else if kind = 1 then 24 else if kind = 2 then 16 else 12
/-- Response words of a kind (R400). -/
def islandResp (kind : Nat) : Nat := if kind = 2 then 6 else 4
/-- II of the default images (R485). -/
def defaultII (kind : Nat) : Nat := if kind = 1 then 4 else if kind = 2 then 16 else 2

/-! ## Cells -/

/-- A comparison's mask. -/
def maskWord (b : Bool) : Word := if b then 0xFFFFFFFF else 0

/-- An operation of a cell (R405). -/
def cellOp (op rm cnd : Nat) (a b c : Word) : Word :=
  let r := rmOf rm
  let n (v : Nat) : Word := BitVec.ofNat 32 v
  match op with
  | 0x01 => a
  | 0x02 => n (fpSum fp32 r [f32 a, f32 b])
  | 0x03 => n (fpSum fp32 r [f32 a, (f32 b).neg])
  | 0x04 => n (fpSum fp32 r [(f32 a).mul (f32 b)])
  | 0x05 => n (fpSum fp32 r [(f32 a).mul (f32 b), f32 c])
  | 0x06 => n (fpMinMax fp32 false false a.toNat b.toNat)
  | 0x07 => n (fpMinMax fp32 true false a.toNat b.toNat)
  | 0x08 => maskWord (fvCond cnd (f32 a) (f32 b))
  | 0x09 => if c ≠ 0 then a else b
  | 0x0A => (cvtBits (660 + rm) a.toNat).extractLsb' 0 32
  | 0x0B => n (fpRound fp32 r (Fv.ofInt a.toInt))
  | 0x0C => n (fpFrac a.toNat)
  | 0x10 => a + b
  | 0x11 => a - b
  | 0x12 => a &&& b
  | 0x13 => a ||| b
  | 0x14 => a ^^^ b
  | 0x15 => shl32 a b
  | 0x16 => shr32 a b
  | 0x17 => sar32 a b
  | 0x18 => maskWord (icond cnd a b)
  | 0x19 => minMax false true a b
  | 0x1A => minMax true true a b
  | 0x20 => n (fpRcp r (f32 a))
  | 0x21 => n (fpRsq r (f32 a))
  | 0x22 => n (fpLg2 r (f32 a))
  | 0x23 => n (fpEx2 r (f32 a))
  | _ => 0

/-- The value of a source selector: the results of the two columns before, by row * II + slot (R406). -/
def cellSource (ii : Nat) (inp consts prev1 prev2 : List Word) (sel : Nat) : Word :=
  let at_ (l : List Word) : Word := l.getD (bitsAt sel 4 3 * ii + bitsAt sel 0 4) 0
  if sel / 1024 % 4 = 0 then inp.getD (sel % 64) 0
  else if sel / 1024 % 4 = 1 then consts.getD (sel % 64) 0
  else if sel / 1024 % 4 = 2 then at_ prev1
  else at_ prev2

/-- The results of one column (R403). -/
def cellColumn (m : Image) (inp prev1 prev2 : List Word) (col : Nat) : List Word :=
  let rows := islandRows m.kind
  (List.range (rows * m.ii)).map (fun i =>
    let w := (tabGet 0 m.cells (col * rows * m.ii + i)).toNat
    let src (lo : Nat) : Word := cellSource m.ii inp m.consts prev1 prev2 (bitsAt w lo 12)
    cellOp (bitsAt w 58 6) (bitsAt w 20 2) (bitsAt w 16 4) (src 46) (src 34) (src 22))

/-- The last two columns of an image for a request. -/
def cellRun (m : Image) (inp : List Word) : Nat → List Word × List Word
  | 0 => ([], [])
  | n + 1 => let p := cellRun m inp n; (cellColumn m inp p.1 p.2 n, p.1)

/-- The response of an image to a request (R407). -/
def Image.answer (m : Image) (inp : List Word) : List Word :=
  let p := cellRun m inp (islandCols m.kind)
  m.map.map (fun sel => cellSource m.ii inp m.consts p.1 p.2 sel)

/-! ## The default images -/

/-- 1.0. -/
def one32 : Word := 0x3F800000
/-- The canonical NaN of FP32. -/
def nan32 : Word := BitVec.ofNat 32 fp32.nan
/-- FRCP in RNE. -/
def frcp (a : Word) : Word := BitVec.ofNat 32 (fpRcp .rne (f32 a))

/-- The default texture image (R434). -/
def textureImage (x : List Word) : List Word :=
  let g (i : Nat) : Word := x.getD i 0
  (List.range 4).map (fun c =>
    let t00 := g (4 + c)
    let t10 := g (8 + c)
    let t01 := g (12 + c)
    let t11 := g (16 + c)
    let a := ffma (g 0) (fsub t10 t00) t00
    let b := ffma (g 0) (fsub t11 t01) t01
    fmul (ffma (g 1) (fsub b a) a) (g 2))

/-- a * b - c * e as the images compute it (R423). -/
def diffProd (a b c e : Word) : Word := ffma a b (fneg (fmul c e))

/-- The cross product, component by component (R423). -/
def cross3 (a b : List Word) : List Word :=
  let x (i : Nat) : Word := a.getD i 0
  let y (i : Nat) : Word := b.getD i 0
  [diffProd (x 1) (y 2) (x 2) (y 1), diffProd (x 2) (y 0) (x 0) (y 2), diffProd (x 0) (y 1) (x 1) (y 0)]

/-- The dot product in the order of R423. -/
def dot3 (a b : List Word) : Word :=
  let x (i : Nat) : Word := a.getD i 0
  let y (i : Nat) : Word := b.getD i 0
  ffma (x 2) (y 2) (ffma (x 1) (y 1) (fmul (x 0) (y 0)))

/-- The difference of two vectors. -/
def sub3 (a b : List Word) : List Word := (List.range 3).map (fun i => fsub (a.getD i 0) (b.getD i 0))

/-- The default intersection image (R423). For a leaf kind that is not 0 it states o3 alone (DESIGN CHOICE, log 33). -/
def intersectImage (x : List Word) : List Word :=
  let part (i : Nat) : List Word := (x.drop i).take 3
  if bitsAt (x.getD 22 0).toNat 4 4 ≠ 0 then
    [Config.imageWord 1 x 0, Config.imageWord 1 x 1, Config.imageWord 1 x 2, 0]
  else
    let v0 := part 8
    let e1 := sub3 (part 11) v0
    let e2 := sub3 (part 14) v0
    let s := sub3 (part 0) v0
    let p := cross3 (part 3) e2
    let q := cross3 s e1
    let det := dot3 e1 p
    let inv := frcp det
    let u := fmul (dot3 s p) inv
    let v := fmul (dot3 (part 3) q) inv
    let t := fmul (dot3 e2 q) inv
    let hit := fvCond 1 (f32 det) (.fin false 0 0) && fle 0 u && fle 0 v && fle (fadd u v) one32 && !(f32 t).isNan
    [t, u, v, (if hit then 1 else 0) + (if flt det 0 then 2 else 0)]

/-- The edge value of R427. -/
def edgeValue (xa ya xb yb px py : Word) : Word := ffma (fsub xb xa) (fsub py ya) (fneg (fmul (fsub yb ya) (fsub px xa)))

/-- A pixel centre lies on the covered side of an edge, taken in the triangle's orientation (R427). -/
def edgeCovers (e dx dy : Word) : Bool :=
  flt 0 e || (fvCond 0 (f32 e) (.fin false 0 0) && (flt 0 dy || (fvCond 0 (f32 dy) (.fin false 0 0) && flt dx 0)))

/-- The centre of a pixel along an axis. -/
def pixelCentre (n : Nat) : Word := w32 (.fin false (2 * n + 1) (-1))

/-- The default coverage image (R427). -/
def coverageImage (x : List Word) : List Word :=
  let g (i : Nat) : Word := x.getD i 0
  let vx (j : Nat) : Word := g (3 * j)
  let vy (j : Nat) : Word := g (3 * j + 1)
  let vz (j : Nat) : Word := g (3 * j + 2)
  let area := edgeValue (vx 0) (vy 0) (vx 1) (vy 1) (vx 2) (vy 2)
  let back := flt area 0
  let flags := (g 13).toNat
  let size := 8 >>> ((g 11).toNat % 4)
  let empty := (f32 area).isNan || fvCond 0 (f32 area) (.fin false 0 0) || (back && bitAt flags 0) || (!back && bitAt flags 1)
  let covers (a b : Nat) : Bool :=
    let px := pixelCentre ((g 9).toNat + a)
    let py := pixelCentre ((g 10).toNat + b)
    [(0, 1), (1, 2), (2, 0)].all (fun e =>
      let v := edgeValue (vx e.1) (vy e.1) (vx e.2) (vy e.2) px py
      if back then edgeCovers (fneg v) (fsub (vx e.1) (vx e.2)) (fsub (vy e.1) (vy e.2))
      else edgeCovers v (fsub (vx e.2) (vx e.1)) (fsub (vy e.2) (vy e.1)))
  let bits := (List.range 64).filter (fun i => decide (i % 8 < size) && decide (i / 8 < size) && !empty && covers (i % 8) (i / 8))
  let mask := maskOf bits
  let d := frcp area
  let dx (f : Nat → Word) (j : Nat) : Word := fsub (f j) (f 0)
  let dzdx := fmul (diffProd (dx vz 1) (dx vy 2) (dx vz 2) (dx vy 1)) d
  let dzdy := fmul (diffProd (dx vx 1) (dx vz 2) (dx vx 2) (dx vz 1)) d
  let z := ffma dzdy (fsub (pixelCentre (g 10).toNat) (vy 0)) (ffma dzdx (fsub (pixelCentre (g 9).toNat) (vx 0)) (vz 0))
  let part := decide (bits.length ≠ 0) && decide (bits.length ≠ size * size)
  [mask.extractLsb' 0 32, mask.extractLsb' 32 32, z, dzdx, dzdy, if part then 1 else 0]

/-- The default blend image (R438). A response is the pixel's new destination (R402), so a mode that writes nothing gives the destination
as it is. -/
def blendImage (x : List Word) : List Word :=
  let mode := bitsAt (x.getD 9 0).toNat 24 4
  let sa := x.getD 3 0
  let da := x.getD 7 0
  (List.range 4).map (fun c =>
    let s := x.getD c 0
    let d := x.getD (4 + c) 0
    match mode with
    | 0 => s
    | 1 => ffma d (fsub one32 sa) s
    | 2 => fadd s d
    | 3 => fmul s d
    | 4 => BitVec.ofNat 32 (fpMinMax fp32 false false s.toNat d.toNat)
    | 5 => BitVec.ofNat 32 (fpMinMax fp32 true false s.toNat d.toNat)
    | 6 => let t := fsub one32 da; if c = 3 then ffma t sa d else ffma t (fmul sa s) d
    | _ => d)

/-- The response of an island that holds an image, or the default image of its kind (DESIGN CHOICE, log 33). -/
def islandAnswer (image : Option Image) (kind : Nat) (x : List Word) : List Word :=
  match image with
  | some m => m.answer x
  | none => if kind = 0 then textureImage x else if kind = 1 then intersectImage x else if kind = 2 then coverageImage x else blendImage x

/-! ## Rounding of ratios and the sRGB transfer -/

/-- Round(p / q, FP32, RNE) with a sign. -/
def ratio32 (neg : Bool) (p q : Nat) : Word := BitVec.ofNat 32 (fpRoundMag fp32 .rne neg (p * 2 ^ 200 / q) (-200) (decide (p * 2 ^ 200 % q ≠ 0)))

/-- A unorm channel (R430). -/
def unorm8 (c : Nat) : Word := ratio32 false c 255

/-- An sRGB colour channel, correctly rounded (R430). -/
def srgb8 (c : Nat) : Word :=
  if c ≤ 10 then ratio32 false (c * 100) (255 * 1292)
  else
    let x := (1000 * c + 55 * 255) ^ 12 * 2 ^ 500 / (255 * 1055) ^ 12
    BitVec.ofNat 32 (fpRoundMag fp32 .rne false (rootFloor 5 x 101 0) (-100) true)

/-- x clamped to 0..1; a NaN gives 0 (R438). -/
def clampUnit (x : Word) : Fv :=
  match f32 x with
  | .nan => .fin false 0 0
  | v => if fvCond 2 v (.fin false 0 0) then .fin false 0 0 else if fvCond 4 v (.fin false 1 0) then .fin false 1 0 else v

/-- A channel encoded as unorm (R438). -/
def unormEncode (x : Word) : Nat := (fvToInt .rne ((clampUnit x).mul (.fin false 255 0))).toNat

/-- A non-negative value as a ratio. -/
def Fv.ratio : Fv → Nat × Nat
  | .fin _ m e => if 0 ≤ e then (m * 2 ^ e.toNat, 1) else (m, 2 ^ (-e).toNat)
  | _ => (0, 1)

/-- A colour channel encoded in sRGB: 255 times the exact transfer, rounded once (R438). -/
def srgbEncode (x : Word) : Nat :=
  let r := (clampUnit x).ratio
  if r.1 * 10000000 ≤ 31308 * r.2 then
    -- 255 * 12.92 * x
    let num := r.1 * 255 * 1292
    let den := r.2 * 100
    let q := num / den
    let m := num % den
    if 2 * m > den ∨ (2 * m = den ∧ q % 2 = 1) then q + 1 else q
  else
    -- the largest n with 255 * (1.055 * x^(5/12) - 0.055) at or above n - 1/2
    ((List.range 255).filter (fun i =>
      let z := (1000 * (2 * i + 1) + 2 * 255 * 55)
      let a := r.1 ^ 5 * (2 * 255 * 1055) ^ 12
      let b := z ^ 12 * r.2 ^ 5
      decide (b < a) || (decide (b = a) && i % 2 == 1))).length

end Sys2Proof.Machine
end

