-- ==== Sys2Proof/Machine/Units.lean ====
section
/-! DEFINITION. The device-scope reads of the fixed units, which never trap; the log records they send; and how a unit asks an
island (spec/05 R108, R115, spec/07 R159, spec/14 R311, spec/19 R412, R413). -/

namespace Sys2Proof.Machine

/-- A log record to the service core that owns the page of an address (R48): what it is about, and the address. -/
def State.logOwner (s : State) (ctx what va : Nat) : State :=
  s.modCore (s.pageOwner ctx va) (fun c => { c with logs := c.logs ++ [(what, va)] })

/-- What a unit's read gives: bytes, nothing because the page is absent or refused, or an error of the data. -/
inductive UnitRead where
  | bytes (l : List Byte)
  | none
  | bad (code : TrapCode)

/-- A read of one 64-byte block or less through a unit's copies (R108). -/
def State.blockRead (s : State) (h : Holder) (pa len lease part : Nat) : State × Except TrapCode (List Byte) :=
  match s.copyFor h pa len with
  | some c => (s, .ok ((c.data.drop (pa - c.pa)).take len))
  | none =>
    let base := pa / 64 * 64
    match s.readDev base 64 part with
    | (s, .error e) => (s, .error e)
    | (s, .ok bytes) =>
      let (expiry, s) := s.grant base lease
      (s.addCopy ⟨h, base, bytes, expiry, (s.times base).2, s.order, []⟩, .ok ((bytes.drop (pa - base)).take len))

/-- What a unit's translation gives: a page, nothing because it is absent or refused, a page in migration that a write waits for (R58),
or an error of a walker's read (R60, R61). -/
inductive UnitTr where
  | page (p : Page)
  | none
  | wait (page : Nat)
  | bad (code : TrapCode)

/-- The key of a page in a wait for its migration (R58). -/
def State.pageKey (s : State) (ctx va : Nat) : Nat := va / 2 ^ 44 % 16 * 2 ^ 32 + pageOf (s.region ctx (va / 2 ^ 44 % 16)) va

/-- The translation of a unit's access: an absent page that is not sparse is logged; a refusal is not. -/
def State.unitAny (s : State) (q : Req) (va need : Nat) : State × UnitTr :=
  match s.translate q va need with
  | (s, .page p) => (s, .page p)
  | (s, .sparse) => (s, .none)
  | (s, .migrating) => (s, .wait (s.pageKey q.ctx va))
  | (s, .fault t) =>
    if t.code = .uncorrectable ∨ t.code = .poison then (s, .bad t.code)
    else (if t.code == .notPresent && !t.detail.getLsbD 63 then s.logOwner q.ctx 1 va else s, .none)

/-- The same for a unit that reads or writes plain bytes: a format page refuses it (R42, R96). -/
def State.unitPage (s : State) (q : Req) (va need : Nat) : State × UnitTr :=
  match s.unitAny q va need with
  | (s, .page p) => if p.fmt = 0 ∧ p.blk = 0 then (s, .page p) else (s, .none)
  | r => r

/-- A read of the bytes that a compressed block in one sector uses, through a unit's copies: a miss brings the bursts that hold them
(R82, R108). -/
def State.burstRead (s : State) (h : Holder) (pa len lease part : Nat) : State × Except TrapCode (List Byte) :=
  match s.copyFor h pa len with
  | some c => (s, .ok ((c.data.drop (pa - c.pa)).take len))
  | none =>
    match s.readBursts pa ((len + 31) / 32 * 32) part with
    | (s, .error e) => (s, .error e)
    | (s, .ok bytes) =>
      let (expiry, s) := s.grant pa lease
      (s.addCopy ⟨h, pa, bytes, expiry, (s.times pa).2, s.order, []⟩, .ok (bytes.take len))

/-- A unit's read of a range, block by block (R115, R159, R311). -/
def State.unitRead (s : State) (q : Req) (h : Holder) (va len : Nat) : Nat → State × UnitRead
  | 0 => (s, .bytes [])
  | n + 1 =>
    if len = 0 then (s, .bytes [])
    else
      let here := min len (64 - va % 64)
      match s.unitPage q va needR with
      | (s, .bad e) => (s, .bad e)
      | (s, .page p) =>
        match s.blockRead h (p.base + p.off) here p.reg.lease p.part with
        | (s, .error e) => (s, .bad e)
        | (s, .ok a) =>
          match s.unitRead q h (va + here) (len - here) n with
          | (s, .bytes b) => (s, .bytes (a ++ b))
          | r => r
      | (s, _) => (s, .none)

/-- A unit's read as a number; an absent or refused page reads as zero (R159, R413). -/
def State.unitNat (s : State) (q : Req) (h : Holder) (va len : Nat) : State × Except TrapCode Nat :=
  match s.unitRead q h va len (len + 1) with
  | (s, .bytes l) => (s, .ok (leNat l))
  | (s, .none) => (s, .ok 0)
  | (s, .bad e) => (s, .error e)

/-- A unit's read of the bytes that a compressed block uses, as a number (R82). -/
def State.unitBlock (s : State) (q : Req) (h : Holder) (va len : Nat) : State × Except TrapCode Nat :=
  if len = 0 then (s, .ok 0)
  else match s.unitPage q va needR with
    | (s, .bad e) => (s, .error e)
    | (s, .page p) =>
      if (p.base + p.off) % 256 ≠ 0 then s.unitNat q h va len
      else match s.burstRead h (p.base + p.off) len p.reg.lease p.part with
        | (s, .error e) => (s, .error e)
        | (s, .ok b) => (s, .ok (leNat b))
    | (s, _) => (s, .ok 0)

/-- A unit's write of a range at its home; what meets an absent or refused page, or a walk that fails, is dropped (R164, R413). The
greatest W of it. -/
def State.unitWrite (s : State) (q : Req) (va : Nat) (bytes : List Byte) : Nat → Nat × State
  | 0 => (0, s)
  | n + 1 =>
    if bytes.isEmpty then (0, s)
    else
      let here := min bytes.length (4096 - va % 4096)
      let (w, s) := match s.unitPage q va needW with
        | (s, .page p) =>
          let (w, s) := (s.tearDev (p.base + p.off) here).writeDev (p.base + p.off) p.part (bytes.take here)
          (w, s.clearWords (p.base + p.off) here)
        | (s, _) => (0, s)
      let (v, s) := s.unitWrite q (va + here) (bytes.drop here) n
      (max w v, s)

/-- A page in migration that a unit's write of a range would meet (R58). -/
def State.unitMig (s : State) (q : Req) (need va len : Nat) : Nat → State × Option Nat
  | 0 => (s, none)
  | n + 1 =>
    if len = 0 then (s, none)
    else
      let here := min len (4096 - va % 4096)
      match s.unitPage q va need with
      | (s, .wait k) => (s, some k)
      | (s, _) => s.unitMig q need (va + here) (len - here) n

/-- A unit waits for an invalidate of a page that it found in migration (R58). -/
def State.migWait (s : State) (h : MigHolder) (ctx page : Nat) : State := { s with migWaits := s.migWaits ++ [⟨h, ctx, page⟩] }

/-- A unit waits for a page in migration (R58). -/
def State.migWaiting (s : State) (h : MigHolder) : Bool := s.migWaits.any (fun w => decide (w.holder = h))

/-- A unit's write, which waits for a page in migration with none of its effect (R58), or is done as `act` says. -/
def State.whenMigrated (s : State) (h : MigHolder) (q : Req) (need va len : Nat) (act : State → State) : State :=
  if s.migWaiting h then s
  else match s.unitMig q need va len (len / 4096 + 2) with
    | (s, some k) => s.migWait h q.ctx k
    | (s, none) => act s

/-- A byte of a copy replaced. -/
def Copy.putByte (c : Copy) (a : Nat) (f : Byte → Byte) : Copy := if a < c.pa then c else { c with data := listMod f c.data (a - c.pa) }

/-- The half-bytes that a piece writes of its byte i (R101). -/
def Piece.halves (p : Piece) : List (Nat × Nat) :=
  match p.mask with
  | none => [(0, 15), (1, 240)]
  | some m => [(0, 15), (1, 240)].filter (fun h => m &&& h.2 != 0)

/-- A copy takes the bytes of a store of its pair, but for those that a store later in home order gave it, or that it was filled after
(R107, R112, R113). -/
def Copy.take (c : Copy) (pa : Nat) (p : Piece) : Copy :=
  let newer (h : Nat) : Bool := c.marks.any (fun m => decide (m.1 ≤ h) && decide (h < m.1 + m.2.1) && decide (p.order < m.2.2))
  let put (c : Copy) (i : Nat) (b : Byte) : Copy :=
    p.halves.foldl (fun c h =>
      if newer (2 * (pa + i) + h.1) || p.gone.any (fun j => j == i) then c else c.putByte (pa + i) (fun old => mergeBits old b h.2)) c
  if p.order ≤ c.order then c
  else
    let d := p.data.zipIdx.foldl (fun c b => put c b.2 b.1) c
    { d with marks := (match p.mask with
        | none => [(2 * pa, 2 * p.len, p.order)]
        | some _ => p.halves.map (fun h => (2 * pa + h.1, 1, p.order))) ++ d.marks }

/-- The acknowledgement of a pair's own store reaches it: the L1 line that holds the bytes takes them, and its LWCT rises to W (R67,
R112). -/
def State.ackL1 (s : State) (pair : Nat) (p : Piece) (w : Nat) : State :=
  match p.home with
  | .dev pa =>
    { s with copies := s.copies.map (fun c =>
        if c.holder = .l1 pair ∧ c.pa < pa + p.len ∧ pa < c.pa + c.data.length then { c.take pa p with lwct := max c.lwct w } else c) }
  | _ => s

/-- The key of an island: its kind and unit (R400) (DEDUCED, log 35). -/
def islandKey (kind unit : Nat) : Nat := 1024 * kind + unit

/-- The island of a kind that serves a core, its pair or its cluster (R400, R412). -/
def islandUnit (kind core : Nat) : Nat := if kind = 0 then core else if kind = 1 then core / 2 else core / 8

/-- An island (DEDUCED, log 35). -/
def State.island (s : State) (key : Nat) : Island := tabGet Island.start s.islands key

/-- Replaces an island. -/
def State.putIsland (s : State) (key : Nat) (i : Island) : State := { s with islands := tabPut Island.start s.islands key i }

/-- II of an island (R403, R485). -/
def Island.interval (i : Island) (kind : Nat) : Nat := match i.image with | some m => m.ii | none => defaultII kind

/-- The cycles from the acceptance of a request to its response, for an II (R403). -/
def islandLatency (kind ii : Nat) : Nat := 4 * islandCols kind + ii + 7

/-- The answer to an implicit request, and the island's turn that it takes: it is accepted when the island next accepts one (R403, R412).
None from an island that is stopped or frozen (R383, R390). -/
def State.askIsland (s : State) (kind core : Nat) (x : List Word) : State × Option (List Word) :=
  let key := islandKey kind (islandUnit kind core)
  let i := s.island key
  if i.stopped || i.frozen then (s, none)
  else (s.putIsland key { i with lastStream := 0, nextAt := max s.gt i.nextAt + i.interval kind }, some (islandAnswer i.image kind x))

/-- When the response to the last request that an island accepted leaves it (R403). -/
def State.islandLeaves (s : State) (key kind : Nat) : Nat :=
  let i := s.island key
  i.nextAt - i.interval kind + islandLatency kind (i.interval kind)

end Sys2Proof.Machine
end

