-- ==== Sys2Proof/Machine/Texture.lean ====
section
/-! DEFINITION. Texture descriptors, residency, levels, addressing, texels, and the block modes of compressed targets
(spec/07 R152 to R160, spec/20 R430 to R437). -/

namespace Sys2Proof.Machine

/-! ## The descriptor -/

/-- A field of a descriptor: bits [hi:lo]. -/
def fieldAt (v hi lo : Nat) : Nat := bitsAt v lo (hi + 1 - lo)

/-- TSZ of each TFMT (R430). -/
def tfmtSize (f : Nat) : Nat := [0, 1, 2, 2, 1, 2, 3, 2, 3, 4, 2, 2].getD f 5

/-- TSZ. -/
def txTsz (d : Nat) : Nat := fieldAt d 207 205
/-- TFMT. -/
def txFmt (d : Nat) : Nat := fieldAt d 204 197
/-- TAILL. -/
def txTail (d : Nat) : Nat := fieldAt d 196 192
/-- NLM1. -/
def txLast (d : Nat) : Nat := fieldAt d 191 187
/-- LM1. -/
def txLm1 (d : Nat) : Nat := fieldAt d 186 176
/-- RMAP. -/
def txMap (d : Nat) : Nat := fieldAt d 143 96
/-- TAILVA. -/
def txTailVa (d : Nat) : Nat := fieldAt d 95 48
/-- BASE. -/
def txBase (d : Nat) : Nat := fieldAt d 47 0
/-- TAILSZ in bytes. -/
def txTailLen (d : Nat) : Nat := 256 * fieldAt d 243 232
/-- The texture is a compressed render target (R430). -/
def txCompressed (d : Nat) : Bool := txFmt d == 10 || txFmt d == 11

/-- The smallest n with v at most 2^n. -/
def ceilLog2 (v : Nat) : Nat := (findBelow (fun n => decide (v ≤ 2 ^ n)) 64).getD 64

/-- A descriptor is malformed (R153, R430, R431). -/
def txBad (d : Nat) : Bool :=
  decide (fieldAt d 511 244 ≠ 0) || d.testBit 231 || decide (4 < txTsz d) || decide (txBase d % 65536 ≠ 0) || decide (txTailVa d % 256 ≠ 0) ||
    decide (ceilLog2 (max (fieldAt d 159 144) (fieldAt d 175 160) + 1) < txLast d) || decide (txLast d + 1 < txTail d) ||
    (decide (txTail d ≤ txLast d) && decide (txTailLen d = 0)) || decide (tfmtSize (txFmt d) ≠ txTsz d) ||
    (txCompressed d && decide (txTail d ≠ txLast d + 1))

/-- The width of a level (R154). -/
def txW (d l : Nat) : Nat := max 1 ((fieldAt d 159 144 + 1) >>> l)
/-- The height of a level (R154). -/
def txH (d l : Nat) : Nat := max 1 ((fieldAt d 175 160 + 1) >>> l)
/-- TW (R154). -/
def txTw (d : Nat) : Nat := [256, 256, 128, 128, 64].getD (txTsz d) 64
/-- TH (R154). -/
def txTh (d : Nat) : Nat := [256, 128, 128, 64, 64].getD (txTsz d) 64
/-- tx(l) (R155). -/
def txCols (d l : Nat) : Nat := ceilDiv (txW d l) (txTw d)
/-- ty(l) (R155). -/
def txRows (d l : Nat) : Nat := ceilDiv (txH d l) (txTh d)

/-- OFF(l) (R155). -/
def txOff (d : Nat) : Nat → Nat
  | 0 => 0
  | l + 1 => txOff d l + (txLm1 d + 1) * txCols d l * txRows d l

/-- The tile that holds a texel of a tiled level (R155). -/
def txTile (d l x y layer : Nat) : Nat := txOff d l + layer * txCols d l * txRows d l + y / txTh d * txCols d l + x / txTw d

/-- SZ(l) of the tail (R431). -/
def txTailSz (d l : Nat) : Nat := ceilDiv (txW d l * txH d l * 2 ^ txTsz d) 256 * 256

/-- TOFF(TAILL + n) (R431). -/
def txTailOff (d : Nat) : Nat → Nat
  | 0 => 0
  | n + 1 => txTailOff d n + (txLm1 d + 1) * txTailSz d (txTail d + n)

/-- The ranges checked after the descriptor, in order; a compressed target's metadata plane stands where the tail does (R153,
R431). -/
def txRanges (d : Nat) : List (Nat × Nat) :=
  let tiles := txOff d (txTail d)
  ([(txMap d, ceilDiv tiles 8), (txBase d, 65536 * tiles), (txTailVa d, if txCompressed d then 256 * tiles else txTailLen d)]).filter (fun r => r.2 != 0)

/-! ## Taps -/

/-- Texture addressing of one coordinate: none outside a zero border (R432). -/
def txAddr (mode : Nat) (x : Int) (w : Nat) : Option Nat :=
  match mode with
  | 0 => some (x % (w : Int)).toNat
  | 1 => some (clampInt (0, (w : Int) - 1) x).toNat
  | 2 => let m := (x % (2 * w : Int)).toNat; some (if m < w then m else 2 * w - 1 - m)
  | _ => if 0 ≤ x ∧ x < (w : Int) then some x.toNat else none

/-- The floor of a word within [lo, hi]; a NaN counts as 0. -/
def clampFloor (lo hi : Int) (v : Word) : Int :=
  match f32 v with
  | .nan => clampInt (lo, hi) 0
  | .inf n => if n then lo else hi
  | x => clampInt (lo, hi) (fvFloor x)

/-- The integer part of a coordinate (R434): the exact floor of a number; of an infinity or a NaN none is stated, and it is open
(DESIGN CHOICE, log 61). -/
def coordFloor (v : Word) : Int :=
  match f32 v with
  | .nan => Config.openFloor v
  | .inf _ => Config.openFloor v
  | x => fvFloor x

/-- A number as FP32. -/
def num32 (n : Int) : Word := w32 (Fv.ofInt n)

/-- The fraction of a coordinate at its integer part, rounded once where it has no exact FP32 value (R434; DEDUCED, log 61). -/
def coordFraction (v : Word) (x0 : Int) : Word :=
  match f32 v with
  | .inf _ => Config.openFraction v
  | _ => fsub v (num32 x0)

/-- The fraction and the four taps of a probe at a level (R434); an outer tap is none under a zero border. -/
structure Probe where
  fx : Word
  fy : Word
  taps : List (Option (Nat × Nat))

/-- Both coordinates of a tap. -/
def tapOf (x y : Option Nat) : Option (Nat × Nat) :=
  match x, y with
  | some x, some y => some (x, y)
  | _, _ => none

/-- The probe of normalised coordinates at a level (R434) (DEDUCED, log 61). -/
def probeAt (d l : Nat) (point : Bool) (mode : Nat) (u v : Word) : Probe :=
  let w := txW d l
  let h := txH d l
  if point then
    let t := tapOf (txAddr mode (coordFloor (fmul u (num32 w))) w) (txAddr mode (coordFloor (fmul v (num32 h))) h)
    ⟨0, 0, [t, t, t, t]⟩
  else
    let half : Word := 0xBF000000
    let xb := ffma u (num32 w) half
    let yb := ffma v (num32 h) half
    let x0 := coordFloor xb
    let y0 := coordFloor yb
    let x (i : Int) : Option Nat := txAddr mode (x0 + i) w
    let y (i : Int) : Option Nat := txAddr mode (y0 + i) h
    ⟨coordFraction xb x0, coordFraction yb y0, [tapOf (x 0) (y 0), tapOf (x 1) (y 0), tapOf (x 0) (y 1), tapOf (x 1) (y 1)]⟩

/-- What a sampled load asks for, whatever the level: a FETCH names a texel of its level L, a SAMPLE lists the coordinates of
its probes. -/
structure TexJob where
  fetch : Bool
  level : Nat
  layer : Nat
  filt : Nat
  mode : Nat
  coords : List (Word × Word)
  texel : Nat × Nat

/-- The probes of a job at a level (R156, R434) (DEDUCED, log 79). -/
def TexJob.probes (j : TexJob) (d l mode : Nat) : List Probe :=
  if j.fetch then
    let t := some (j.texel.1 >>> (l - j.level), j.texel.2 >>> (l - j.level))
    [⟨0, 0, [t, t, t, t]⟩]
  else j.coords.map (fun c => probeAt d l (j.filt == 0) mode c.1 c.2)

/-- Footprint(l): the tiles that the taps touch (R156). -/
def TexJob.tiles (j : TexJob) (d l : Nat) : List Nat :=
  (((j.probes d l j.mode).flatMap (fun p => p.taps)).filterMap (fun t => t.map (fun t => txTile d l t.1 t.2 j.layer))).eraseDups

/-! ## Residency -/

/-- An error as a register mark keeps it, with the detail it carries (R292). -/
abbrev ReadErr := TrapCode × Word

/-- An error of a unit's read with the address it met. -/
abbrev UnitErr := TrapCode × Nat

/-- The mark of an error of a unit's read: its address[31:0] (R292). -/
def UnitErr.mark (e : UnitErr) : ReadErr := (e.1, BitVec.ofNat 32 e.2)

/-- Of two errors the one at the lower address (R292). -/
def lowerErr (a b : Option UnitErr) : Option UnitErr :=
  match a, b with
  | none, b => b
  | a, none => a
  | some a, some b => if b.2 < a.2 then some b else some a

/-- The map bits of tiles: whether all are 1, and the error of a read among them at the lowest address; an absent byte reads zero (R155,
R159, R292). -/
def State.mapBits (s : State) (q : Req) (h : Holder) (d : Nat) : List Nat → State × Bool × Option UnitErr
  | [] => (s, true, none)
  | t :: ts =>
    let va := txMap d + t / 8
    match s.unitNat q h va 1 with
    | (s, .error e) =>
      let (s, r, x) := s.mapBits q h d ts
      (s, r, lowerErr (some (e, va)) x)
    | (s, .ok b) =>
      let (s, r, x) := s.mapBits q h d ts
      (s, b.testBit (t % 8) && r, x)

/-- The tiles are all resident, or the error of a map read. -/
def State.resident (s : State) (q : Req) (h : Holder) (d : Nat) (l : List Nat) : State × Except UnitErr Bool :=
  match s.mapBits q h d l with
  | (s, _, some e) => (s, .error e)
  | (s, r, none) => (s, .ok r)

/-- The used level from level l on (R156). -/
def State.resolveLevel (s : State) (q : Req) (h : Holder) (d : Nat) (j : TexJob) (l : Nat) : Nat → State × Except UnitErr (Option Nat)
  | 0 => (s, .ok none)
  | n + 1 =>
    if txLast d < l then (s, .ok none)
    else if txTail d ≤ l then (s, .ok (some l))
    else
      match s.resident q h d (j.tiles d l) with
      | (s, .error e) => (s, .error e)
      | (s, .ok true) => (s, .ok (some l))
      | (s, .ok false) => s.resolveLevel q h d j (l + 1) n

/-- The status code of a used level (R157). -/
def texStatus (d l : Nat) : Option Nat → Nat
  | none => 15
  | some u => if u = l then 0 else if u < txTail d then min (u - l) 13 else 14

/-- The status register's word (R308). -/
def statusWord (d l : Nat) (u : Option Nat) : Word := BitVec.ofNat 32 (16 * u.getD 31 + texStatus d l u)

/-! ## Block modes -/

/-- The bytes that a block of a mode uses (R82, R436). -/
def modeBytes (mode : Nat) : Nat :=
  if mode = 1 then 0 else if mode = 2 then 4 else if 0x12 ≤ mode ∧ mode ≤ 0x16 then 4 + ceilDiv (252 * (mode - 0x10)) 8 else 256

/-- A pixel of a block of a mode, the block's bytes given (R436): pixels are 4 bytes, R lowest. -/
def blockPixels (mode : Nat) (bytes : List Byte) (clear : Word) : List Word :=
  let b (i : Nat) : Nat := (bytes.getD i 0).toNat
  let at_ (i : Nat) : Word := BitVec.ofNat 32 (b (4 * i) + 256 * b (4 * i + 1) + 65536 * b (4 * i + 2) + 16777216 * b (4 * i + 3))
  if mode = 1 then List.replicate 64 clear
  else if mode = 2 then List.replicate 64 (at_ 0)
  else if 0x12 ≤ mode ∧ mode ≤ 0x16 then
    let k := mode - 0x10
    let stream := leNat (bytes.drop 4)
    let delta (i c : Nat) : Int := signedOf k (bitsAt stream (k * (4 * (i - 1) + c)) k)
    let chan (p : Word) (i c : Nat) : Nat := ((((p.toNat / 256 ^ c % 256 : Nat) : Int) + delta i c) % 256).toNat
    let step (p : Word) (i : Nat) : Word := BitVec.ofNat 32 (chan p i 0 + 256 * chan p i 1 + 65536 * chan p i 2 + 16777216 * chan p i 3)
    ((List.range 63).foldl (fun (l : List Word × Word) i => let q := step l.2 (i + 1); (l.1 ++ [q], q)) ([at_ 0], at_ 0)).1
  else (List.range 64).map at_

/-- A channel of a pixel. -/
def pixelChan (p : Word) (c : Nat) : Nat := p.toNat / 256 ^ c % 256

/-- Every delta of a block fits k bits (R437). -/
def deltaFits (k : Nat) (px : List Word) : Bool :=
  (List.range 63).all (fun i => (List.range 4).all (fun c =>
    let d : Int := (pixelChan (px.getD (i + 1) 0) c : Int) - (pixelChan (px.getD i 0) c : Int)
    decide (-(2 ^ (k - 1) : Int) ≤ d) && decide (d < 2 ^ (k - 1))))

/-- The mode a writer chooses, and the bytes it writes (R437); `clear` is the clear colour when mode 0x01 may be used. -/
def blockEncode (px : List Word) (clear : Option Word) : Nat × List Byte :=
  let first := px.getD 0 0
  if clear.isSome && px.all (fun p => decide (some p = clear)) then (1, [])
  else if px.all (fun p => p == first) then (2, natLe 4 first.toNat)
  else match [2, 3, 4, 5, 6].find? (fun k => deltaFits k px) with
    | some k =>
      let delta (i c : Nat) : Nat :=
        (((pixelChan (px.getD i 0) c : Int) - (pixelChan (px.getD (i - 1) 0) c : Int)) % (2 ^ k : Int)).toNat
      let stream := ((List.range 252).map (fun n => delta (n / 4 + 1) (n % 4) * 2 ^ (k * n))).foldl (fun a b => a + b) 0
      (0x10 + k, natLe 4 first.toNat ++ natLe (ceilDiv (252 * k) 8) stream)
    | none => (0, px.flatMap (fun p => natLe 4 p.toNat))

/-! ## Texels -/

/-- The channels of an RGBA8 pixel as FP32 (R430). -/
def rgbaChannels (srgb : Bool) (p : Word) : List Word :=
  (List.range 4).map (fun c => if srgb && c != 3 then srgb8 (pixelChan p c) else unorm8 (pixelChan p c))

/-- The four channels of a texel's bytes (R430) (DEDUCED, log 79). -/
def texelChannels (fmt : Nat) (v : Nat) : List Word :=
  let half (c : Nat) : Word := w32 (fpUnpack fp16 (bitsAt v (16 * c) 16))
  let full (c : Nat) : Word := BitVec.ofNat 32 (bitsAt v (32 * c) 32)
  match fmt with
  | 0 => [unorm8 (v % 256), 0, 0, one32]
  | 1 => [unorm8 (v % 256), unorm8 (v / 256 % 256), 0, one32]
  | 2 => rgbaChannels false (BitVec.ofNat 32 v)
  | 3 => rgbaChannels true (BitVec.ofNat 32 v)
  | 4 => [half 0, 0, 0, one32]
  | 5 => [half 0, half 1, 0, one32]
  | 6 => [half 0, half 1, half 2, half 3]
  | 7 => [full 0, 0, 0, one32]
  | 8 => [full 0, full 1, 0, one32]
  | 9 => [full 0, full 1, full 2, full 3]
  | 10 => rgbaChannels false (BitVec.ofNat 32 v)
  | _ => rgbaChannels true (BitVec.ofNat 32 v)

/-- A read of texel bytes at an address; none where the value is open: a texel read reaches a format page, and no rule says what an
element gives it (R96). An absent page, a hole and a reserved format read as zero (R159) (DESIGN CHOICE, log 72). -/
def State.texelNat (s : State) (q : Req) (h : Holder) (va len : Nat) : State × Except UnitErr (Option Nat) :=
  match s.unitAny q va needR with
  | (s, .bad e) => (s, .error (e, va))
  | (s, .page p) =>
    if p.fmt = 0 then
      if p.blk ≠ 0 then (s, .ok (some 0))
      else match s.unitNat q h va len with
        | (s, .error e) => (s, .error (e, va))
        | (s, .ok v) => (s, .ok (some v))
    else if !fmtValid p.fmt p.blk ∨ pageElems p.fmt p.blk p.size < p.off + len then (s, .ok (some 0))
    else
      let home (i : Nat) : List (Nat × Nat) :=
        let e := elemPlace p.fmt p.blk (p.off + i)
        (p.base + e.1, if 8 ≤ p.fmt then 2 else 1) :: (if p.blk = 0 then [] else [(p.base + e.2.2, 1)])
      ((List.range len).flatMap home).foldl (fun (a : State × Except UnitErr (Option Nat)) x =>
        match a.2 with
        | .error _ => a
        | .ok _ => match a.1.blockRead h x.1 x.2 p.reg.lease p.part with
          | (s, .error e) => (s, .error (e, va))
          | (s, .ok _) => (s, .ok none)) (s, .ok none)
  | (s, _) => (s, .ok (some 0))

/-- The channels of a texel of bytes; of an open one they are open. -/
def State.channels (s : State) (fmt : Nat) (v : Option Nat) : State × List Word :=
  match v with
  | some v => (s, texelChannels fmt v)
  | none =>
    let (i, s) := s.newFree
    (s, (List.range 4).map (fun c => Config.freeWord (4 * i + c)))

/-- The pixel of a compressed target's tile (R82, R431, R435, R436). A texture descriptor gives no clear colour: what a texel of
a fast-clear block reads is an open value (DESIGN CHOICE, log 79). -/
def State.texelBlock (s : State) (q : Req) (h : Holder) (d tile x y : Nat) : State × Except UnitErr Nat :=
  let j := 16 * (y % 128 / 8) + x % 128 / 8
  let meta_ := txTailVa d + 256 * tile + j
  match s.unitNat q h meta_ 1 with
  | (s, .error e) => (s, .error (e, meta_))
  | (s, .ok mode) =>
    let at_ := txBase d + 65536 * tile + 256 * j
    match s.unitBlock q h at_ (modeBytes mode) with
    | (s, .error e) => (s, .error (e, at_))
    | (s, .ok v) =>
      let (i, s) := s.newFree
      (s, .ok ((blockPixels mode (natLe 256 v) (Config.freeWord i)).getD (8 * (y % 8) + x % 8) 0).toNat)

/-- A texel's channels: zero outside a zero border, zero bytes past the tail or on an absent page, or its error (R159, R431,
R432). -/
def State.texel (s : State) (q : Req) (h : Holder) (d l layer : Nat) (t : Option (Nat × Nat)) : State × Except UnitErr (List Word) :=
  match t with
  | none => (s, .ok [0, 0, 0, 0])
  | some (x, y) =>
    let n := 2 ^ txTsz d
    let plain (va : Nat) : State × Except UnitErr (List Word) :=
      match s.texelNat q h va n with
      | (s, .error e) => (s, .error e)
      | (s, .ok v) => let (s, l) := s.channels (txFmt d) v; (s, .ok l)
    if txTail d ≤ l then
      let o := txTailOff d (l - txTail d) + layer * txTailSz d l + (y * txW d l + x) * n
      if txTailLen d < o + n then (s, .ok (texelChannels (txFmt d) 0)) else plain (txTailVa d + o)
    else
      let tile := txTile d l x y layer
      if txCompressed d then
        match s.texelBlock q h d tile x y with
        | (s, .error e) => (s, .error e)
        | (s, .ok v) => (s, .ok (texelChannels (txFmt d) v))
      else plain (txBase d + 65536 * tile + (y % txTh d * txTw d + x % txTw d) * n)

/-- The texels of a probe, one after the other; an error keeps the one at the lowest address, and reading goes on. -/
def State.texels (s : State) (q : Req) (h : Holder) (d l layer : Nat) : List (Option (Nat × Nat)) → State × List Word × Option UnitErr
  | [] => (s, [], none)
  | t :: ts =>
    let (s, r) := s.texel q h d l layer t
    let (s, l', e) := s.texels q h d l layer ts
    match r with
    | .ok v => (s, v ++ l', e)
    | .error x => (s, [0, 0, 0, 0] ++ l', lowerErr (some x) e)

end Sys2Proof.Machine
end

