-- ==== Sys2Proof/Machine/Target.lean ====
section
/-! DEFINITION. Render-target descriptors and the places of blocks, mode bytes and sequence words (spec/20 R428, R435 to
R437). A descriptor is the number its 64 bytes hold. -/

namespace Sys2Proof.Machine

/-- BASE. -/
def rtBase (d : Nat) : Nat := fieldAt d 47 0
/-- META. -/
def rtMeta (d : Nat) : Nat := fieldAt d 95 48
/-- WM1. -/
def rtWm1 (d : Nat) : Nat := fieldAt d 111 96
/-- HM1. -/
def rtHm1 (d : Nat) : Nat := fieldAt d 127 112
/-- TPITCH. -/
def rtPitch (d : Nat) : Nat := fieldAt d 139 128
/-- RTFMT. -/
def rtFmt (d : Nat) : Nat := fieldAt d 143 140
/-- CMPEN. -/
def rtCmp (d : Nat) : Bool := d.testBit 144
/-- CLEAR. -/
def rtClear (d : Nat) : Word := BitVec.ofNat 32 (fieldAt d 191 160)
/-- SEQ. -/
def rtSeq (d : Nat) : Nat := fieldAt d 239 192

/-- A reserved bit is set, or RTFMT is reserved (R334, R438). -/
def rtBad (d : Nat) : Bool := decide (fieldAt d 511 240 ≠ 0) || decide (fieldAt d 159 145 ≠ 0) || decide (1 < rtFmt d)

/-- The number of a block among the 64 KiB tiles of a target: tile times 256 plus j (R435). -/
def rtBlock (d bx by_ : Nat) : Nat := 256 * (by_ / 16 * rtPitch d + bx / 16) + (16 * (by_ % 16) + bx % 16)

/-- The address of a block's data (R435). -/
def rtBlockAddr (d bx by_ : Nat) : Nat := rtBase d + 256 * rtBlock d bx by_

/-- The address of a block's mode byte (R435). -/
def rtModeAddr (d bx by_ : Nat) : Nat := rtMeta d + rtBlock d bx by_

/-- The address of the mode byte of the 256-byte block at an address, when it lies among the target's blocks and mode bytes are
in use (R132). -/
def rtModeOf (d a : Nat) : Option Nat :=
  let n := (a - rtBase d) / 256
  let t := n / 256
  let j := n % 256
  let bx := 16 * (t % rtPitch d) + j % 16
  let by_ := 16 * (t / rtPitch d) + j / 16
  if rtCmp d && decide (rtBase d ≤ a) && decide ((a - rtBase d) % 256 = 0) && decide (rtPitch d ≠ 0) &&
      decide (8 * bx ≤ rtWm1 d) && decide (8 * by_ ≤ rtHm1 d) then some (rtMeta d + n) else none

/-- The address of the sequence word of the 32 by 32 tile (tx, ty) (R435). -/
def rtSeqAddr (d tx ty : Nat) : Nat := rtSeq d + 4 * (ty * (4 * rtPitch d) + tx)

/-- The cluster that owns a tile (R428). -/
def tileOwner (tx ty : Nat) : Nat := 8 * (ty % 8) + (tx + ty / 8) % 8

/-- A pixel list as bytes in pixel order. -/
def pixelBytes (px : List Word) : List Byte := px.flatMap (fun p => natLe 4 p.toNat)

end Sys2Proof.Machine
end

