-- ==== Sys2Proof/Machine/Engine.lean ====
section
/-! DEFINITION. What an engine operation does to memory as it runs: its progress order, the conversions and block modes, and the
faults it meets (spec/06 R127 to R134, R147 to R151, spec/02 R51 to R53). -/

namespace Sys2Proof.Machine

/-! ## The shape of an operation -/

/-- The word i of the copy descriptor (R333). -/
def EngOp.word (o : EngOp) (i : Nat) : Nat := (o.desc.getD i 0).toNat
/-- NX; a host COPY's length takes the whole word (R448). -/
def EngOp.nx (o : EngOp) : Nat := if o.kind = .hostCopy then o.word 0 else bitsAt (o.word 0) 0 32
/-- DIM (R332). -/
def EngOp.dim (o : EngOp) : Nat := bitsAt o.md.toNat 0 2
/-- CV. -/
def EngOp.cv (o : EngOp) : Bool := o.md.getLsbD 2
/-- CMP. -/
def EngOp.cmp (o : EngOp) : Bool := o.md.getLsbD 3
/-- DEC. -/
def EngOp.dec (o : EngOp) : Bool := o.md.getLsbD 4
/-- RING. -/
def EngOp.ring (o : EngOp) : Bool := o.md.getLsbD 5
/-- RNG. -/
def EngOp.rng (o : EngOp) : Nat := bitsAt (o.word 3) 8 5
/-- The operation moves 256-byte blocks (R132). -/
def EngOp.blocks (o : EngOp) : Bool := o.cmp || o.dec
/-- A gather or scatter (R335). -/
def EngOp.indexed (o : EngOp) : Bool := decide (o.kind = .gather) || decide (o.kind = .scatter)
/-- The operation names physical addresses: a host command's (R127, R448). -/
def EngOp.phys (o : EngOp) : Bool := o.window.isSome

/-- The bytes or element addresses that one unit takes on a side of a format code (4 FMT + BLK) with a plain type (R334). -/
def EngOp.unitSize (o : EngOp) (fmt ty : Nat) : Nat := if o.blocks then 256 else if o.cv && fmt == 0 then tyBytes ty else 1
/-- On the source side. -/
def EngOp.srcSize (o : EngOp) : Nat := o.unitSize o.srcFmt (bitsAt (o.word 3) 0 4)
/-- On the destination side. -/
def EngOp.dstSize (o : EngOp) : Nat := o.unitSize o.dstFmt (bitsAt (o.word 3) 4 4)

/-- The units that an element of a gather or scatter has: ESZ without CV, one with it (R335). -/
def EngOp.elemUnits (o : EngOp) : Nat := if o.cv then 1 else bitsAt (o.word 1) 0 32

/-- Rows and planes (R333). -/
def EngOp.rows (o : EngOp) : Nat := if o.dim = 0 then 1 else bitsAt (o.word 0) 32 16 + 1
/-- Planes. -/
def EngOp.planes (o : EngOp) : Nat := if o.dim = 2 then bitsAt (o.word 0) 48 16 + 1 else 1

/-- The units of an operation in all. -/
def EngOp.units (o : EngOp) : Nat := if o.indexed then o.nx * o.elemUnits else o.nx * o.rows * o.planes

/-- The distance of unit u from the cursor on a side with pitches (R334), in units. -/
def EngOp.distance (o : EngOp) (rp pp u : Nat) : Nat := u % o.nx + u / o.nx % o.rows * rp + u / (o.nx * o.rows) * pp

/-- Bytes completed, or elements for an element-addressed destination (R129, R136). -/
def EngOp.doneCount (o : EngOp) : Nat := o.done * (if o.blocks then 256 else if o.cv && o.dstFmt == 0 then o.dstSize else 1)

/-! ## Reading and writing -/

/-- Why a piece does not move (R134): it waits, the page is in migration and is waited for (R58), the data or the format stops the
operation, the host port is lost, the owner is asked, or the engine itself violates. -/
inductive EngStop where
  | wait
  | mig (ctx page : Nat)
  | stop (code : TrapCode) (addr : Nat)
  | gone
  | owner (t : Trap)
  | own (t : Trap)

/-- A stop of an access as an engine meets it. -/
def engStop (addr : Nat) : Stop → EngStop
  | .block (.migration c p) => .mig c p
  | .block _ => .wait
  | .trap t => if ownerFirst t.code then .owner t else .stop t.code (if t.code = .uncorrectable then t.addr.toNat else addr)

/-- A part of a range: where it lies (nowhere on a sparse page), its length and partition. -/
structure Chunk where
  home : Option Home
  len : Nat
  part : Nat

/-- The engine as a requester: no team's locked ranges (R54). -/
def EngOp.req (o : EngOp) : Req := ⟨o.pair, o.ctx, 0⟩

/-- The engine as the starter of a fill (R71). -/
def EngOp.who (o : EngOp) : Who := ⟨0, none, o.id⟩

/-- The chunks of a translated range. -/
def chunksOf (size : Nat → Nat) : List (Nat × Tr) → Nat → List Chunk
  | [], _ => []
  | (a, t) :: l, len =>
    let here := min len (size a - a % size a)
    let c : Chunk := match t with
      | .page p => ⟨some (.dev (p.base + p.off)), here, p.part⟩
      | _ => ⟨none, here, 0⟩
    c :: chunksOf size l (len - here)

/-- The chunks of a range of bytes on a side whose format code is `want` (R131, R134): `whole` lets a write take a whole mapped
sector without a fill (R71). A host's COPY or DECOMPRESS on physical addresses is run by a slice's engine, which takes partition 0 as
that slice's service core does, and not the partition of the port its window is bound to (R80) (DESIGN CHOICE, log 70). -/
def State.engChunks (s : State) (o : EngOp) (space want need addr len : Nat) (whole : Bool) : State × Except EngStop (List Chunk) :=
  if o.phys then (s, .ok [⟨some (.dev addr), len, 0⟩])
  else if space = 1 ∨ space = 4 then
    match s.translateRange o.req need addr len (len + 1) with
    | (s, .error e) => (s, .error (engStop addr e))
    | (s, .ok l) =>
      if (pagesOf l).any (fun p => 4 * p.fmt + p.blk != want) then (s, .error (.stop .formatMismatch addr))
      else (s, .ok (chunksOf (fun a => 2 ^ pageBits (s.region o.ctx (a / 2 ^ 44 % 16)).psz) l len))
  else if space = 5 then
    let port := ((s.ctx o.ctx).map (fun c => c.port)).getD 0
    match (tabGet Port.start s.ports port).state with
    | .up => (s, if s.portOpen port then .ok [⟨some (.host port addr), len, 0⟩] else .error .gone)
    | .hold => (s, .error .wait)
    | _ => (s, .error .gone)
  else
    let hp := homePair o.pair space addr
    let off := addr % 2 ^ 19
    if s.extent hp < off + len then (s, .error (.own (capTrap .capBounds 0 (addr : Int) (if need = needR then o.src else o.dst))))
    else if (List.range (sectorCount off len)).any (fun i =>
        (match (s.pair hp).mapAt ((off / 256 + i) * 256) with | some (_, m) => 4 * m.fmt + m.blk | none => 0) != want) then
      (s, .error (.stop .formatMismatch addr))
    else match s.sectorWait hp off len o.who whole with
      | (s, some _) => (s, .error .wait)
      | (s, none) => (s, .ok [⟨some (.pad hp off), len, 0⟩])

/-- A sector's next read fails once and then succeeds (R398). -/
def State.flawed (s : State) (pa len : Nat) : Bool := (List.range (sectorCount pa len)).any (fun i => tabGet 0 s.flaws (pa / 256 + i) == 1)

/-- A read of a chunk at its home: the bytes, and whether a retry was needed (R134). What the host returns is an open value
(DESIGN CHOICE, log 21). -/
def State.chunkRead (s : State) (addr : Nat) (c : Chunk) : State × Except EngStop (List Byte × Bool) :=
  match c.home with
  | none => (s, .ok (List.replicate c.len 0, false))
  | some (.dev pa) =>
    let again := s.flawed pa c.len
    match s.readDev pa c.len c.part with
    | (s, .error e) => (s, .error (.stop e addr))
    | (s, .ok l) => (s, .ok (l, again))
  | some (.pad p off) => if (s.pair p).poisoned off c.len then (s, .error (.stop .poison addr)) else (s, .ok (memBytes (s.pair p).pad off c.len, false))
  | some (.host _ a) =>
    let (i, s) := s.newFree
    (s, .ok ((List.range c.len).map (fun k => Config.freeByte i (BitVec.ofNat 32 (a + k))), false))

/-- Reads chunks in turn. -/
def State.chunksRead (s : State) (addr : Nat) : List Chunk → State × Except EngStop (List Byte × Bool)
  | [] => (s, .ok ([], false))
  | c :: cs =>
    match s.chunkRead addr c with
    | (s, .error e) => (s, .error e)
    | (s, .ok (a, r)) =>
      match s.chunksRead (addr + c.len) cs with
      | (s, .error e) => (s, .error e)
      | (s, .ok (b, q)) => (s, .ok (a ++ b, r || q))

/-- What an engine's reads and writes add to its result (R136). -/
structure Touch where
  sparse : Bool
  rtry : Bool
  w : Nat

/-- Nothing touched. -/
def Touch.none : Touch := ⟨false, false, 0⟩
/-- Both. -/
def Touch.and (a b : Touch) : Touch := ⟨a.sparse || b.sparse, a.rtry || b.rtry, max a.w b.w⟩

/-- A chunk lies on a sparse page. -/
def anySparse (l : List Chunk) : Bool := l.any (fun c => decide (c.home = none))

/-- An engine's read of bytes (R53, R134). -/
def State.engRead (s : State) (o : EngOp) (space want addr len : Nat) : State × Except EngStop (List Byte × Touch) :=
  match s.engChunks o space want needR addr len false with
  | (s, .error e) => (s, .error e)
  | (s, .ok l) =>
    match s.chunksRead addr l with
    | (s, .error e) => (s, .error e)
    | (s, .ok (b, r)) => (s, .ok (b, ⟨anySparse l, r, 0⟩))

/-- A write of bytes at a home, whose times and tags it moves as any write does (R20, R79, R111, R121, R122). -/
def State.homePut (s : State) (h : Home) (part : Nat) (bytes : List Byte) : Nat × State :=
  let s := s.tear 0 (pieceAt h bytes.length [] false false)
  match h with
  | .dev pa =>
    let (w, s) := s.writeDev pa part bytes
    (w, s.clearWords pa bytes.length)
  | .pad p off => (s.gt, s.putPair p ((s.pair p).write off bytes false))
  | .host port _ => (s.gt, s.sendPort port bytes)

/-- The home of the byte i places on. -/
def Home.plus (h : Home) (i : Nat) : Home :=
  match h with
  | .dev pa => .dev (pa + i)
  | .pad p off => .pad p (off + i)
  | .host p a => .host p (a + i)

/-- Which destination units of a write are open: a byte of one is written, or keeps the value it has (R129, R130). -/
abbrev Mix := Nat → Bool

/-- Writes bytes one by one, each of them or not, as an open choice. -/
def State.someBytes (s : State) (h : Home) (part : Nat) : List Byte → Nat → Nat × State
  | [], _ => (0, s)
  | b :: l, i =>
    let (k, s) := s.newFree
    let (w, s) := if Config.freeBool k then s.homePut (h.plus i) part [b] else (0, s)
    let (v, s) := s.someBytes h part l (i + 1)
    (max w v, s)

/-- A write of bytes whose units are `at_`, `at_ + 1` and so on. -/
def State.mixPut (s : State) (mix : Mix) (h : Home) (part at_ : Nat) (bytes : List Byte) : Nat × State :=
  if (List.range bytes.length).any (fun i => mix (at_ + i)) then
    bytes.zipIdx.foldl (fun (e : Nat × State) b =>
      let (w, s) := if mix (at_ + b.2) then e.2.someBytes h part [b.1] b.2 else e.2.homePut (h.plus b.2) part [b.1]
      (max e.1 w, s)) (0, s)
  else s.homePut h part bytes

/-- A write of bytes that all belong to one unit. -/
def State.mixUnit (s : State) (mix : Mix) (h : Home) (part unit : Nat) (bytes : List Byte) : Nat × State :=
  if mix unit then s.someBytes h part bytes 0 else s.homePut h part bytes

/-- Writes chunks in turn; what falls on a sparse page is dropped (R53). -/
def State.chunksWrite (s : State) (mix : Mix) : Nat → List Chunk → List Byte → Nat × State
  | _, [], _ => (0, s)
  | a, c :: cs, bytes =>
    let (w, s) := match c.home with
      | some h => s.mixPut mix h c.part a (bytes.take c.len)
      | none => (0, s)
    let (v, s) := s.chunksWrite mix (a + c.len) cs (bytes.drop c.len)
    (max w v, s)

/-- An engine's write of bytes. -/
def State.engWrite (s : State) (o : EngOp) (mix : Mix) (space want addr : Nat) (bytes : List Byte) : State × Except EngStop Touch :=
  match s.engChunks o space want needW addr bytes.length (!(List.range bytes.length).any (fun i => mix (addr + i))) with
  | (s, .error e) => (s, .error e)
  | (s, .ok l) =>
    let (w, s) := s.chunksWrite mix addr l bytes
    (s, .ok ⟨anySparse l, false, w⟩)

/-! ## Elements -/

/-- The element at an element address of a format side (R96 to R100, R134). -/
def State.engElem (s : State) (o : EngOp) (space want need n : Nat) : State × Except EngStop ElemAt :=
  let r := if space = 1 ∨ space = 4 then s.elemGlobal o.req need n else s.elemPad o.pair space n o.who (need == needR)
  match r with
  | (s, .error e) => (s, .error (engStop n e))
  | (s, .ok e) => if !e.sparse && 4 * e.fmt + e.blk != want then (s, .error (.stop .formatMismatch n)) else (s, .ok e)

/-- The exact value of one source unit of a converting copy (R91, R131). -/
def State.engValue (s : State) (o : EngOp) (a : Nat) : State × Except EngStop (Fv × Touch) :=
  let space := capSpace o.src
  if o.srcFmt = 0 then
    let ty := bitsAt (o.word 3) 0 4
    match s.engRead o space 0 a (tyBytes ty) with
    | (s, .error e) => (s, .error e)
    | (s, .ok (b, t)) => (s, .ok (tyValue ty (leNat b), t))
  else
    match s.engElem o space o.srcFmt needR a with
    | (s, .error e) => (s, .error e)
    | (s, .ok e) =>
      if e.sparse then (s, .ok (.fin false 0 0, ⟨true, false, 0⟩))
      else
        match s.chunkRead a ⟨some e.data, if 8 ≤ e.fmt then 2 else 1, e.part⟩ with
        | (s, .error x) => (s, .error x)
        | (s, .ok (b, r)) =>
          let v := elemValue e.fmt (leNat b >>> e.bit)
          if e.blk = 0 then (s, .ok (v, ⟨false, r, 0⟩))
          else match s.chunkRead a ⟨some e.scale, 1, e.part⟩ with
            | (s, .error x) => (s, .error x)
            | (s, .ok (c, q)) =>
              let k := leNat c
              (s, .ok (if k = 255 then .nan else v.scale ((k : Int) - 127), ⟨false, r || q, 0⟩))

/-- The values of source units. -/
def State.engValues (s : State) (o : EngOp) : List Nat → State × Except EngStop (List Fv × Touch)
  | [] => (s, .ok ([], Touch.none))
  | a :: l =>
    match s.engValue o a with
    | (s, .error e) => (s, .error e)
    | (s, .ok (v, t)) =>
      match s.engValues o l with
      | (s, .error e) => (s, .error e)
      | (s, .ok (vs, u)) => (s, .ok (v :: vs, t.and u))

/-- The largest absolute value of a list, NaNs skipped (R103, R131). -/
def maxAbs : List Fv → Fv
  | [] => .fin false 0 0
  | v :: l =>
    let m := maxAbs l
    match v with
    | .nan => m
    | .inf _ => .inf false
    | .fin _ k e => if fvCompare m (.fin false k e) = some .lt then .fin false k e else m

/-- E: the largest integer with a times 2^E at most the full-scale value, clamped to -127..127; 0 for a zero (R103, R131). -/
def scaleExp (fmt : Nat) (a : Fv) : Int :=
  let full := Fv.ofInt ((fmtFull fmt : Nat) : Int)
  let fits (e : Int) : Bool := match fvCompare (a.scale e) full with | some .gt => false | _ => true
  match a with
  | .fin _ 0 _ => 0
  | _ => match (List.range 255).find? (fun i => fits (127 - ((i : Nat) : Int))) with
    | some i => 127 - ((i : Nat) : Int)
    | none => -127

/-- The rounding mode and overflow choice of a conversion (R332). -/
def EngOp.rm (o : EngOp) : Rm := rmOf (bitsAt o.md.toNat 6 2)
/-- SAT. -/
def EngOp.sat (o : EngOp) : Bool := !o.md.getLsbD 8

/-- The bytes of a value in a plain destination's type (R131). -/
def plainEncode (o : EngOp) (v : Fv) : List Byte :=
  let ty := bitsAt (o.word 3) 4 4
  natLe (tyBytes ty) (if tyFloat ty then fpRound (tyFmt ty) o.rm v else intEncode (tySigned ty) (tyBits ty) v o.rm)

/-- Writes one element of an unscaled format side (R101, R122). -/
def State.engPutElem (s : State) (o : EngOp) (mix : Mix) (a : Nat) (v : Fv) : State × Except EngStop Touch :=
  match s.engElem o (capSpace o.dst) o.dstFmt needW a with
  | (s, .error e) => (s, .error e)
  | (s, .ok e) =>
    if e.sparse then (s, .ok ⟨true, false, 0⟩)
    else
      let code := elemEncode e.fmt v o.rm o.sat
      if fmtBits e.fmt = 4 then
        let (k, s) := if mix a then s.newFree else (0, s)
        if mix a && !Config.freeBool k then (s, .ok Touch.none)
        else
          let s := s.tear 0 (pieceAt e.data 1 [] false false)
          let (w, s) := s.writeHome { e.piece e.data 1 [BitVec.ofNat 8 (code % 16 * 2 ^ e.bit)] (some (15 * 2 ^ e.bit)) with part := e.part }
          (match e.data with | .dev pa => s.clearWords pa 1 | _ => s, .ok ⟨false, false, w⟩)
      else
        let (w, s) := s.mixUnit mix e.data e.part a (if 8 ≤ e.fmt then natLe 2 code else [BitVec.ofNat 8 code])
        (s, .ok ⟨false, false, w⟩)

/-- The bytes of a block's elements, in order. -/
def blockData (fmt : Nat) (codes : List Nat) : List Byte :=
  let bits := fmtBits fmt
  natLe (codes.length * bits / 8) ((codes.zipIdx.map (fun c => c.1 % 2 ^ bits * 2 ^ (bits * c.2))).foldl (fun a b => a + b) 0)

/-- The elements of the block that starts at an address of a block-scaled side, as far as the page or range holds them; none where no
block starts (R97, R98, R131). -/
def State.blockCount (s : State) (o : EngOp) (space fmt a : Nat) : Option Nat :=
  let (e, c) := s.elemIndex o.ctx o.pair space a (fmt / 4) (fmt % 4)
  let b := blkElems (fmt % 4)
  if e % lineElems (fmt / 4) (fmt % 4) % b = 0 ∧ e < c then some (min b (c - e)) else none

/-- Writes a block of a block-scaled format side with its scale byte (R131). -/
def State.engPutBlock (s : State) (o : EngOp) (mix : Mix) (a : Nat) (vs : List Fv) : State × Except EngStop Touch :=
  match s.engElem o (capSpace o.dst) o.dstFmt needW a with
  | (s, .error e) => (s, .error e)
  | (s, .ok e) =>
    if e.sparse then (s, .ok ⟨true, false, 0⟩)
    else
      let x := scaleExp e.fmt (maxAbs vs)
      let data := blockData e.fmt (vs.map (fun v => elemEncode e.fmt (v.scale x) o.rm o.sat))
      let waits : State × Option Wait := match e.data with
        | .pad p off => s.sectorWait p off data.length o.who false
        | _ => (s, none)
      match waits with
      | (s, some _) => (s, .error .wait)
      | (s, none) =>
        let (w, s) := s.mixUnit mix e.data e.part a data
        let (v, s) := s.mixUnit mix e.scale e.part a [BitVec.ofInt 8 (127 - x)]
        (s, .ok ⟨false, false, max w v⟩)

/-- The home of a whole line of a format side, none on a sparse page, its partition, and how many of its elements the page or range
holds (R97, R131): a line must start at the address. A line that is written whole needs no fill (R71). -/
def State.engLine (s : State) (o : EngOp) (space fmt need a : Nat) : State × Except EngStop (Option Home × Nat × Nat) :=
  let n := lineElems (fmt / 4) (fmt % 4)
  let (i, c) := s.elemIndex o.ctx o.pair space a (fmt / 4) (fmt % 4)
  let bad : EngStop := .stop .formatMismatch a
  if i % n ≠ 0 ∨ c ≤ i then (s, .error bad)
  else if space = 1 ∨ space = 4 then
    match s.engElem o space fmt need a with
    | (s, .error e) => (s, .error e)
    | (s, .ok e) => (s, .ok (if e.sparse then none else some e.data, e.part, min n (c - i)))
  else match s.padElem o.pair space a with
    | none => (s, .error bad)
    | some e =>
      match e.data with
      | .pad p off =>
        if 4 * e.fmt + e.blk ≠ fmt then (s, .error bad)
        else match s.sectorWait p off 1024 o.who (need == needW) with
          | (s, some _) => (s, .error .wait)
          | (s, none) => (s, .ok (some e.data, 0, min n (c - i)))
      | _ => (s, .error bad)

/-! ## Rings -/

/-- Replaces a ring. -/
def State.putRing (s : State) (pair k : Nat) (r : Ring) : State :=
  s.putPair pair { s.pair pair with rings := tabPut Ring.zero (s.pair pair).rings k r }

/-- The slots of a ring. -/
def Ring.count (r : Ring) : Nat := r.nm1 + 1
/-- The record of a slot. -/
def Ring.at (r : Ring) (k : Nat) : RingSlot := tabGet RingSlot.zero r.slots k
/-- Replaces the record of a slot. -/
def Ring.put (r : Ring) (k : Nat) (v : RingSlot) : Ring := { r with slots := tabPut RingSlot.zero r.slots k v }
/-- The bytes of a slot. -/
def Ring.bytes (r : Ring) : Nat := 256 * r.slot

/-- FIL advances over each consecutive claimed slot that has nothing left to arrive (R149). -/
def Ring.fill (r : Ring) : Nat → Ring
  | 0 => r
  | n + 1 => if r.fil ≠ r.clm ∧ (r.at (r.fil.toNat % r.count)).left = 0 then { r with fil := r.fil + 1 }.fill n else r

/-- REL advances over each consecutive slot that RFREE has freed (R150). -/
def Ring.release (r : Ring) : Nat → Ring
  | 0 => r
  | n + 1 =>
    let k := r.rel.toNat % r.count
    if r.rel ≠ r.tak ∧ (r.at k).rls then { r.put k { r.at k with rls := false } with rel := r.rel + 1 }.release n else r

/-- The bytes a ring-target operation writes in all. -/
def EngOp.bytes (o : EngOp) : Nat := o.units * o.dstSize

/-- The local offset of byte b of a ring-target operation, and the bytes left in its slot, when the slot is claimed (R149). -/
def EngOp.ringAt (o : EngOp) (r : Ring) (b : Nat) : Option (Nat × Nat) :=
  (o.claimed[b / r.bytes]?).map (fun k => (256 * r.base + k * r.bytes + b % r.bytes, r.bytes - b % r.bytes))

/-- A thread's access to bytes of a slot is still under way: an engine's write waits for it (R117). -/
def State.slotBusy (s : State) (pair off len : Nat) : Bool :=
  s.accesses.any (fun a => a.pieces.any (fun p => !p.done && pieceOverlap p (pieceAt (.pad pair off) len [] false false)))

/-- Acknowledged bytes reduce LEFT, and the ring fills in order (R149). -/
def State.ringArrive (s : State) (o : EngOp) (b n : Nat) : State :=
  let r := s.ring o.pair o.rng
  match o.claimed[b / r.bytes]? with
  | none => s
  | some k => s.putRing o.pair o.rng ((r.put k { r.at k with left := (r.at k).left - n }).fill 64)

/-- The slots that an operation which stopped early has claimed fill short (R151): AMT is what its completed prefix put there. A slot that
the prefix has filled is whole already, and may be another operation's by now. -/
def State.ringCut (s : State) (o : EngOp) : State :=
  let r := s.ring o.pair o.rng
  let cut := o.claimed.zipIdx.foldl (fun r e =>
    if min (e.2 * r.bytes + r.bytes) o.bytes ≤ o.done * o.dstSize then r
    else r.put e.1 { r.at e.1 with amt := o.done * o.dstSize - e.2 * r.bytes, left := 0 }) r
  s.putRing o.pair o.rng (cut.fill 64)

/-! ## Moving -/

/-- Where unit u lies on both sides, and how many units from it on lie one after the other on both. -/
structure Spot where
  src : Nat
  dst : Nat
  run : Nat
  touch : Touch

/-- The index of element i of a gather or scatter (R133). -/
def State.engIndex (s : State) (o : EngOp) (i : Nat) : State × Except EngStop (Nat × Touch) :=
  match s.engRead o (capSpace o.third) 0 (capCursor o.third + 4 * i) 4 with
  | (s, .error e) => (s, .error e)
  | (s, .ok (b, t)) => (s, .ok (leNat b, t))

/-- The destination address of unit u of a ring-target operation, or the address that its place gives. -/
def State.engDst (s : State) (o : EngOp) (u dst : Nat) : Except EngStop (Nat × Nat) :=
  if !o.ring then .ok (dst, 2 ^ 48)
  else match o.ringAt (s.ring o.pair o.rng) (u * o.dstSize) with
    | none => .error .wait
    | some (off, left) => if s.slotBusy o.pair off left then .error .wait else .ok (off, left / o.dstSize)

/-- Where unit u lies (R128, R133 to R335). -/
def State.engSpot (s : State) (o : EngOp) (u : Nat) : State × Except EngStop Spot :=
  let sc := capCursor o.src
  let dc := capCursor o.dst
  if !o.indexed then
    let src := sc + o.distance (bitsAt (o.word 1) 0 32) (bitsAt (o.word 2) 0 32) u * o.srcSize
    let dst := dc + o.distance (bitsAt (o.word 1) 32 32) (bitsAt (o.word 2) 32 32) u * o.dstSize
    match s.engDst o u dst with
    | .error e => (s, .error e)
    | .ok (d, left) => (s, .ok ⟨src, d, min (o.nx - u % o.nx) left, Touch.none⟩)
  else
    let e := o.elemUnits
    let i := u / e
    let b := u % e
    match s.engIndex o i with
    | (s, .error x) => (s, .error x)
    | (s, .ok (k, t)) =>
      let gather := decide (o.kind = .gather)
      let src := sc + ((if gather then k else i) * e + b) * o.srcSize
      let dst := dc + ((if gather then i else k) * e + b) * o.dstSize
      let side := if gather then o.src else o.dst
      let first := (if gather then src else dst) - b * (if gather then o.srcSize else o.dstSize)
      let len := e * (if gather then o.srcSize else o.dstSize)
      match capCheck .engine (if gather then permLD else permST) 1 (s.extentOf o.pair) (first : Int) len side with
      | some tr => (s, .error (.own tr))
      | none =>
        match s.engDst o u dst with
        | .error x => (s, .error x)
        | .ok (d, left) => (s, .ok ⟨src, d, min (e - b) left, t⟩)

/-- What moved: units, the first destination unit, what the reads and writes touched, and the stop that follows it at once (R134). -/
structure Moved where
  units : Nat
  dst : Nat
  touch : Touch
  stop : Option EngStop

/-- The space of the destination. -/
def EngOp.dstSpace (o : EngOp) : Nat := if o.ring then 2 else capSpace o.dst

/-- Moves a run of plain bytes (R128): as much as lies in one 256-byte sector on both sides, or the first byte alone where the
run as a whole cannot be read. -/
def State.movePlain (s : State) (o : EngOp) (mix : Mix) (p : Spot) (limit : Nat) : State × Except EngStop Moved :=
  let n := min (min p.run limit) (min (256 - p.src % 256) (256 - p.dst % 256))
  -- a whole mapped sector needs no fill (R71)
  let n := if p.dst % 256 = 0 ∧ 256 ≤ p.run ∧ n < 256 ∧ 256 ≤ limit then 256 else n
  let go (s : State) (n : Nat) : State × Except EngStop Moved :=
    match s.engRead o (capSpace o.src) 0 p.src n with
    | (s, .error e) => (s, .error e)
    | (s, .ok (bytes, t)) =>
      match s.engWrite o mix o.dstSpace 0 p.dst bytes with
      | (s, .error e) => (s, .error e)
      | (s, .ok v) => (s, .ok ⟨n, p.dst, t.and v, none⟩)
  match go s n with
  | (u, .error (.stop c a)) => if n = 1 then (u, .error (.stop c a)) else go s 1
  | (u, .error (.owner t)) => if n = 1 then (u, .error (.owner t)) else go s 1
  | r => r

/-- Where the units from u on lie on the source side: each index of a gather selects its own element (R133, R335). -/
def State.unitSources (s : State) (o : EngOp) (p : Spot) (u : Nat) : Nat → State × Except EngStop (List Nat × Touch)
  | 0 => (s, .ok ([], Touch.none))
  | n + 1 =>
    if !o.indexed then (s, .ok ((List.range (n + 1)).map (fun i => p.src + i * o.srcSize), Touch.none))
    else match s.engSpot o u with
      | (s, .error e) => (s, .error e)
      | (s, .ok q) =>
        match s.unitSources o p (u + 1) n with
        | (s, .error e) => (s, .error e)
        | (s, .ok (l, t)) => (s, .ok (q.src :: l, q.touch.and t))

/-- The units that move as one at a destination address: a block of a block-scaled side, or one (R131). -/
def State.convCount (s : State) (o : EngOp) (a : Nat) : Option Nat := if o.dstFmt % 4 = 0 then some 1 else s.blockCount o o.dstSpace o.dstFmt a

/-- Moves one unit, or one block of a block-scaled destination, of a converting copy (R131). -/
def State.moveConv (s : State) (o : EngOp) (mix : Mix) (p : Spot) (u : Nat) : State × Except EngStop Moved :=
  match s.convCount o p.dst with
  | none => (s, .error (.stop .formatMismatch p.dst))
  | some g =>
    if o.total < u + g then (s, .error (.stop .formatMismatch p.dst))
    else match s.unitSources o p u g with
    | (s, .error e) => (s, .error e)
    | (s, .ok (l, t)) =>
      match s.engValues o l with
      | (s, .error e) => (s, .error e)
      | (s, .ok (vs, t')) =>
        let r : State × Except EngStop Touch :=
          if o.dstFmt = 0 then s.engWrite o mix o.dstSpace 0 p.dst (plainEncode o (vs.headD .nan))
          else if o.dstFmt % 4 = 0 then s.engPutElem o mix p.dst (vs.headD .nan)
          else s.engPutBlock o mix p.dst vs
        match r with
        | (s, .error e) => (s, .error e)
        | (s, .ok v) => (s, .ok ⟨g, p.dst, (t.and t').and v, none⟩)

/-- The bytes of a line as far as they can be read, and what stops the read (R134). -/
def State.lineRead (s : State) (addr : Nat) : List Chunk → State × List Byte × Bool × Option EngStop
  | [] => (s, [], false, none)
  | c :: cs =>
    match s.chunkRead addr c with
    | (s, .error e) => (s, [], false, some e)
    | (s, .ok (a, r)) =>
      let (s, b, q, e) := s.lineRead addr cs
      (s, a ++ b, r || q, e)

/-- The parts of a line that are read one by one: its sectors, or its granules in a scratchpad (R134). -/
def lineChunks (h : Option Home) (part : Nat) : List Chunk :=
  match h with
  | some (.pad p off) => (List.range 64).map (fun i => ⟨some (.pad p (off + 16 * i)), 16, part⟩)
  | some h => (List.range 4).map (fun i => ⟨some (h.plus (256 * i)), 256, part⟩)
  | none => [⟨none, 1024, part⟩]

/-- Moves one line of a format copy (R131): its bytes all, and as many units as its page or range holds of its elements on both sides
(DESIGN CHOICE, log 69). A copy that ends within a line stops before it. A read that fails stops it at that byte (R134). -/
def State.moveLine (s : State) (o : EngOp) (mix : Mix) (p : Spot) (u : Nat) : State × Except EngStop Moved :=
  match s.engLine o (capSpace o.src) o.srcFmt needR p.src with
  | (s, .error e) => (s, .error e)
  | (s, .ok (a, part, m)) =>
    match s.engLine o (capSpace o.dst) o.dstFmt needW p.dst with
    | (s, .error e) => (s, .error e)
    | (s, .ok (b, q, n)) =>
      let k := min m n
      if o.total < u + k then (s, .error (.stop .formatMismatch p.dst))
      else
        let (s, bytes, r, e) := s.lineRead p.src (lineChunks a part)
        let (w, s) := match b with
          | some h => s.mixUnit mix h q p.dst bytes
          | none => (0, s)
        let k := if e.isNone then k else min k (bytes.length * 8 / fmtBits (o.dstFmt / 4))
        (s, .ok ⟨k, p.dst, ⟨decide (a = none) || decide (b = none), r, w⟩, e⟩)

/-- A metadata byte of the target, checked for what is done to it (R132, R334). -/
def State.engMode (s : State) (o : EngOp) (perm need : Nat) (a : Option Nat) : State × Except EngStop Unit :=
  match a with
  | none => (s, .ok ())
  | some m =>
    match (if o.phys then none else capCheck .engine perm 1 (s.extentOf o.pair) (m : Int) 1 o.third) with
    | some t => (s, .error (.own t))
    | none =>
      match s.engChunks o (capSpace o.third) 0 need m 1 false with
      | (s, .error e) => (s, .error e)
      | (s, .ok _) => (s, .ok ())

/-- The bytes that a compressed block uses: where it lies in one sector of device memory, only their bursts are read (R82). -/
def State.blockBytes (s : State) (o : EngOp) (a n : Nat) : State × Except EngStop (List Byte × Touch) :=
  match s.engChunks o (capSpace o.src) 0 needR a 256 false with
  | (s, .error e) => (s, .error e)
  | (s, .ok [⟨some (.dev pa), 256, part⟩]) =>
    if pa % 256 = 0 then
      let again := s.flawed pa n
      match s.readBursts pa n part with
      | (s, .error e) => (s, .error (.stop e a))
      | (s, .ok b) => (s, .ok (b, ⟨false, again, 0⟩))
    else s.engRead o (capSpace o.src) 0 a n
  | (s, .ok _) => if n = 0 then (s, .ok ([], Touch.none)) else s.engRead o (capSpace o.src) 0 a n

/-- The pixels of a source block: by its mode among the target's blocks of a decompressing copy, raw otherwise (R82, R132). -/
def State.engPixels (s : State) (o : EngOp) (a : Nat) : State × Except EngStop (List Word × Touch) :=
  match (if o.dec then rtModeOf o.target a else none) with
  | none =>
    match s.engRead o (capSpace o.src) 0 a 256 with
    | (s, .error e) => (s, .error e)
    | (s, .ok (b, u)) => (s, .ok (blockPixels 0 b (rtClear o.target), u))
  | some m =>
    match s.engMode o permLD needR (some m) with
    | (s, .error e) => (s, .error e)
    | (s, .ok ()) =>
      match s.engRead o (capSpace o.third) 0 m 1 with
      | (s, .error e) => (s, .error e)
      | (s, .ok (b, t)) =>
        let mode := leNat b
        match s.blockBytes o a (modeBytes mode) with
        | (s, .error e) => (s, .error e)
        | (s, .ok (b, u)) => (s, .ok (blockPixels mode b (rtClear o.target), t.and u))

/-- Moves one 256-byte block of a compressing or decompressing copy (R132); a host DECOMPRESS leaves what is no block of its target
(R448). -/
def State.moveBlock (s : State) (o : EngOp) (mix : Mix) (p : Spot) : State × Except EngStop Moved :=
  let dm := rtModeOf o.target p.dst
  if o.kind = .decompress ∧ dm = none then (s, .ok ⟨1, p.dst, Touch.none, none⟩)
  else match s.engPixels o p.src with
  | (s, .error e) => (s, .error e)
  | (s, .ok (px, t)) =>
    match s.engMode o permST needW dm with
    | (s, .error e) => (s, .error e)
    | (s, .ok ()) =>
      let (mode, bytes) := if o.cmp && dm.isSome then blockEncode px none else (0, pixelBytes px)
      match s.engWrite o mix o.dstSpace 0 p.dst bytes with
      | (s, .error e) => (s, .error e)
      | (s, .ok v) =>
        match dm with
        | none => (s, .ok ⟨1, p.dst, t.and v, none⟩)
        | some m =>
          match s.engWrite o (fun _ => mix p.dst) (capSpace o.third) 0 m [BitVec.ofNat 8 mode] with
          | (s, .error e) => (s, .error e)
          | (s, .ok x) => (s, .ok ⟨1, p.dst, (t.and v).and x, none⟩)

/-- Moves what comes at unit u, at most `limit` units of a run of bytes (DESIGN CHOICE, log 26). -/
def State.engMove (s : State) (o : EngOp) (mix : Mix) (u limit : Nat) : State × Except EngStop Moved :=
  match s.engSpot o u with
  | (s, .error e) => (s, .error e)
  | (s, .ok p) =>
    let r := if o.blocks then s.moveBlock o mix p
      else if o.cv then s.moveConv o mix p u
      else if o.srcFmt = 0 then s.movePlain o mix p limit
      else s.moveLine o mix p u
    match r with
    | (s, .error e) => (s, .error e)
    | (s, .ok m) => (s, .ok { m with touch := m.touch.and p.touch })

/-! ## Progress and stops -/

/-- Replaces an operation. -/
def State.putOp (s : State) (o : EngOp) : State := { s with ops := s.ops.map (fun q => if q.id = o.id then o else q) }

/-- An operation in flight. -/
def State.op (s : State) (id : Nat) : Option EngOp := s.ops.find? (fun o => o.id == id)

/-- The operation may write one destination unit twice: indices or rows may coincide (R130). -/
def EngOp.races (o : EngOp) : Bool := decide (o.kind = .scatter) || decide (o.dim ≠ 0)

/-- The units that an operation has written already, which another write of it may leave as they are (R130). -/
def EngOp.mix (o : EngOp) : Mix := fun a => o.wrote.any (fun e => decide (e.1 ≤ a) && decide (a < e.1 + e.2))

/-- A unit is acknowledged ahead of the prefix (R128). -/
def EngOp.isAhead (o : EngOp) (u : Nat) : Bool := o.ahead.any (fun e => decide (e.first ≤ u) && decide (u < e.first + e.count))

/-- The units from u on up to the next that is acknowledged. -/
def EngOp.gap (o : EngOp) (u : Nat) : Nat := o.ahead.foldl (fun n e => if u < e.first then min n (e.first - u) else n) (o.total - u)

/-- The prefix runs on over what was acknowledged ahead of it, with its times (R118, R129). -/
def EngOp.absorb (o : EngOp) : Nat → EngOp
  | 0 => o
  | n + 1 =>
    match o.ahead.find? (fun e => decide (e.first ≤ o.done)) with
    | none => o
    | some e => { o with done := max o.done (e.first + e.count), wmax := max o.wmax e.w, ahead := o.ahead.filter (fun x => decide (x ≠ e)) }.absorb n

/-- Units beyond the completed prefix of a stopped operation: each byte is written or not, as an open choice (R129); their times do
not count (R118). -/
def State.strayUnits (s : State) (o : EngOp) (u : Nat) : Nat → State
  | 0 => s
  | n + 1 =>
    if o.total ≤ u then s
    else if o.isAhead u then s.strayUnits o (u + 1) n
    else match s.engMove o (fun _ => true) u 1 with
      | (s, .ok m) => s.strayUnits o (u + max m.units 1) n
      | (t, .error _) => { s with free := t.free }.strayUnits o (u + 1) n

/-- Stops an operation early with a status (R129, R134, R151); on HOST_GONE nothing beyond the prefix is written. -/
def State.stopOp (s : State) (o : EngOp) (status : BitVec 8) : State :=
  let s := if status = 7 then s else s.strayUnits o o.done (o.total - o.done)
  let o := (s.op o.id).getD o
  let s := s.putOp { o with status := some status, waitFault := none, ahead := [] }
  if o.ring then s.ringCut o else s

/-- The status of a stop on data (R134, R137). -/
def stopStatus (code : TrapCode) : BitVec 8 :=
  match code with
  | .notPresent => 2 | .permission => 3 | .poison => 4 | .formatMismatch => 6 | _ => 5

/-- The service core that serves an engine instance (R31, R127). -/
def engineCore (unit : Nat) : Nat := if 64 ≤ unit then unit - 64 else unit / 8

/-- The engine instance freezes for a violation of its own (R29, R31, R133): every operation on it stops. -/
def State.freezeEngine (s : State) (o : EngOp) (t : Trap) : State :=
  let rec_ : FreezeRec := { val := t.val, addr := t.addr, pc := 0, resume := 0, grid := ((s.team o.team).map (fun u => u.grid)).getD 0, more := 0,
                            gtv := s.gt, mkind := 1, mid := o.unit, code := t.code.num }
  let s := { s with engines := tabPut false s.engines o.unit true }.sendFreeze (engineCore o.unit) rec_
  (s.ops.filter (fun p => p.unit == o.unit && decide (p.status = none))).foldl (fun s p => s.stopOp p 8) s

/-- The engine asks the owner of the page it cannot reach (R51). -/
def State.engineFault (s : State) (o : EngOp) (t : Trap) : State :=
  let (id, s) := s.newId
  let rec_ : FaultRec := { id := id, agent := none, op := some o.id, sector := none, ctx := o.ctx, va := t.addr.toNat, code := t.code,
                           disabled := t.detail.getLsbD 63, core := sliceOf (t.addr.toNat / 4096), delivered := false, pos := 0, actives := 0,
                           handled := 0 }
  { s with faults := s.faults ++ [rec_] }.putOp { o with waitFault := some id }

/-- The operation may move: begun, not stopped, not waiting for an owner. -/
def EngOp.live (o : EngOp) : Bool := o.started && decide (o.status = none) && decide (o.waitFault = none)

/-- An operation after a move: what a racing one has written is kept, and a write is noted with its time (R105, R130). -/
def EngOp.moved (o : EngOp) (m : Moved) (now : Nat) : EngOp :=
  { o with sparse := o.sparse || m.touch.sparse, rtry := o.rtry || m.touch.rtry, appliedAt := now,
           wrote := if o.races then (m.dst, m.units) :: o.wrote else o.wrote }

/-- What has moved is noted: in the ring it fills (R149), and for a fence that waits for what the team writes to the host (R116). -/
def State.noteMoved (s : State) (o : EngOp) (u : Nat) (m : Moved) : State :=
  let s := if o.ring then s.ringArrive o (u * o.dstSize) (m.units * o.dstSize) else s
  if o.dstSpace = 5 && !o.phys then s.noteHostWrite o.team else s

/-- A piece beyond the prefix goes home before it, as an open choice (R128): how many units it has; none when the prefix comes next. A
piece that meets an error is left for its turn. -/
def State.engAhead (s : State) (o : EngOp) (limit : Nat) : State × Option Nat :=
  let (i, s) := s.newFree
  let (j, s) := s.newFree
  let u := o.done + 1 + Config.freeNat j % (o.total - o.done)
  if !Config.freeBool i || decide (o.total ≤ u) || o.isAhead u then (s, none)
  else match s.engMove o o.mix u (min limit (o.gap u)) with
    | (t, .error .wait) => (t, none)
    | (t, .error _) => ({ s with free := t.free }, none)
    | (t, .ok m) =>
      if m.stop.isSome then ({ s with free := t.free }, none)
      else
        let o' := o.moved m s.gt
        ((t.putOp { o' with ahead := ⟨u, m.units, m.touch.w⟩ :: o'.ahead }).noteMoved o u m, some m.units)

/-- What the engine does about a stop (R51, R58, R134). -/
def State.engStopped (s : State) (o : EngOp) (e : EngStop) : State :=
  match e with
  | .wait => s
  | .mig c p => s.migWait (.op o.id) c p
  | .stop c _ => s.stopOp o (stopStatus c)
  | .gone => s.stopOp o 7
  | .owner t => s.engineFault o t
  | .own t => s.freezeEngine o t

/-- Moves up to `units` further units of an operation (R128, R129, R134) (DESIGN CHOICE, log 26). -/
def State.engRun (s : State) (id units : Nat) : Nat → State
  | 0 => s
  | n + 1 =>
    match s.op id with
    | none => s
    | some o =>
      if !o.live || units == 0 || s.migWaiting (.op id) then s
      else if o.total ≤ o.done then s.putOp { o with status := some 0 }
      else match s.engAhead o units with
        | (s, some m) => s.engRun id (units - m) n
        | (s, none) =>
          match s.engMove o o.mix o.done (min units (o.gap o.done)) with
          | (s, .error e) => s.engStopped o e
          | (s, .ok m) =>
            let o' := o.moved m s.gt
            let o' := { o' with done := o.done + m.units, wmax := max o.wmax m.touch.w }.absorb (o.ahead.length + 1)
            let s := (s.putOp { o' with status := if o.total ≤ o'.done then some 0 else none }).noteMoved o o.done m
            match m.stop with
            | some e => s.engStopped o' e
            | none => s.engRun id (units - m.units) n

end Sys2Proof.Machine
end

