-- ==== Sys2Proof/Machine/Pool.lean ====
section
/-! DEFINITION. The register-pool instructions, shared ranges, deposits, and the claim list of a rod (spec/15 R321 to R329,
spec/08 R183, R185, R186). -/

namespace Sys2Proof.Machine

/-! ## Claims -/

/-- A count in B: an immediate, or a k register (R321). -/
def poolCount (r : Rank) (w : FWord) : Nat := if w.md.getLsbD 11 then w.b.toNat else (r.kreg w.b.toNat).val.toNat

/-- The B field of a count obeys R321. -/
def countOk (w : FWord) : Bool := if w.md.getLsbD 11 then fldOk .vec (.num 2048) (fldB w) else w.kb && fldOk .vec .reg (fldB w)

/-- The scoreboard numbers of a count. -/
def countKeys (w : FWord) : List Nat := if w.md.getLsbD 11 then [] else [2048 + w.b.toNat]

/-- A count read with its trap-mode bit set from a register in conflict (R182), or from one with a lasting error (R399). -/
def countTrap (r : Rank) (w : FWord) : Option Trap :=
  if w.md.getLsbD 11 then none
  else if w.tb && (r.kreg w.b.toNat).cf then some { code := .uniformConflict, detail := BitVec.ofNat 64 w.b.toNat }
  else r.kErr [w.b.toNat]

/-- The checks of a whole-rank count instruction with its count, or the state in which it trapped or blocked (DEDUCED, log 46). -/
def Foc.countPass (f : Foc) (op : BitVec 8) (w : FWord) (d : Opd) : Except State Nat :=
  let ps := f.members 0 false
  match f.permit (f.members w.g.toNat w.gn) ⟨fToWord op w, (w.md.toNat == 0 || w.md.toNat == 0x800) && guardP0 w && fldOk .vec d (fldD w) && fldOk .vec .none (fldA w) &&
      countOk w, [], []⟩ with
  | some s => .error s
  | none =>
    match countTrap f.r w with
    | some t => .error (f.trap t ⟨f.x.resume, f.issueSet ps, ps⟩)
    | none => .ok (poolCount f.r w)

/-- The registers a claim of n blocks adds to a rank. -/
def Rank.grow (r : Rank) (n : Nat) : Rank := { r with top := r.top + 8 * n }

/-- RCLAIM (R323). -/
def rclaimVec (w : FWord) (f : Foc) : State :=
  match f.countPass 0x80 w .none with
  | .error s => s
  | .ok n =>
    let ps := f.members 0 false
    if n = 0 then f.trapIssue ps .illegalOperand 0
    else if Config.poolRegs < f.r.width * (f.r.top + 8 * n) then f.trapIssue ps .regOverclaim (BitVec.ofNat 64 n)
    else if f.s.poolFree f.t.pair f.r.rod < f.r.width * (8 * n) then
      let f := f.spend
      let rod := f.s.rod f.t.pair f.r.rod
      let s := f.s.putRod f.t.pair f.r.rod { rod with claims := rod.claims ++ [⟨f.t.uid, f.r.num, f.x.age, n⟩] }
      ({ f with s := s }.block (.claim n)).close
    else
      let f := f.issue clsOnce (countKeys w) [] ps false
      ({ f with r := f.r.grow n }).next.close
/-- RCLAIM. -/
def execRclaim (w : FWord) (s : State) : Host.Outcome State Fault Refusal := answer (byStream s (rclaimVec w) (notInCtl 0x80 w))

/-- RCLAIMT (R323): D tells whether the claim was granted. -/
def rclaimtVec (w : FWord) (f : Foc) : State :=
  match f.countPass 0x81 w .pred with
  | .error s => s
  | .ok n =>
    let ps := f.members 0 false
    if n = 0 then f.trapIssue ps .illegalOperand 0
    else if Config.poolRegs < f.r.width * (f.r.top + 8 * n) then f.trapIssue ps .regOverclaim (BitVec.ofNat 64 n)
    else
      let ok := decide (f.r.width * (8 * n) ≤ f.s.poolFree f.t.pair f.r.rod)
      let f := f.issue clsOnce (countKeys w) [4096 + w.d.toNat] ps false
      let r := ps.foldl (fun r p => r.putPred p w.d.toNat ok) f.r
      ({ f with r := if ok then r.grow n else r }).next.close
/-- RCLAIMT. -/
def execRclaimt (w : FWord) (s : State) : Host.Outcome State Fault Refusal := answer (byStream s (rclaimtVec w) (notInCtl 0x81 w))

/-- The registers from `lo` up read zero, full and untagged again when they are claimed anew (R183). -/
def Rank.cut (r : Rank) (lo : Nat) : Rank :=
  { r with
    top := lo
    threads := r.threads.map (fun th => { th with regs := tabClear th.regs lo 2048, tags := tabClear th.tags (lo / 4) 512 }) }

/-- A range of registers [lo, hi) meets a shared range of a rank. -/
def Rank.meetsShare (r : Rank) (lo hi : Nat) : Bool := r.shares.any (fun h => decide (lo < h.own + 8 * h.blocks) && decide (h.own < hi))

/-- The vector registers of a rank that a matrix operand map still has to read, as a range (R325, R342). -/
def mapRegs (m : BitVec 128) (j nk next : Nat) : Option (Nat × Nat) :=
  let v := m.toNat
  if bitsAt v 24 2 = 2 ∧ bitsAt v 0 5 = j ∧ next < nk then
    let base := bitsAt v 5 11
    let pitch := bitsAt v 48 16
    some (base + (if pitch = 0 then 0 else pitch * next), base + pitch * (nk - 1) + 12)
  else none

/-- An accepted matrix operation still has to read registers [lo, hi) of a rank (R325) (DESIGN CHOICE, log 55). -/
def State.matrixReads (s : State) (t : Team) (j lo hi : Nat) : Bool :=
  (s.pair t.pair).abaci.any (fun e => e.2.ops.any (fun o => o.team == t.uid && decide (o.kind = .mma) &&
    [o.mapA, o.mapB].any (fun m => match mapRegs m j o.nk o.next with
      | some (a, b) => decide (a < hi) && decide (lo < b)
      | none => false)))

/-- RRELEASE (R325) (DESIGN CHOICE, log 55). -/
def rreleaseVec (w : FWord) (f : Foc) : State :=
  match f.countPass 0x82 w .none with
  | .error s => s
  | .ok n =>
    let ps := f.members 0 false
    let lo := f.r.top - 8 * n
    if n = 0 ∨ f.r.top < f.r.base + 8 * n ∨ f.r.meetsShare lo f.r.top then f.trapIssue ps .illegalOperand (fHi 0x82 w)
    else
      match emptyNeeds f.r (List.range f.r.width) ((List.range (8 * n)).map (fun i => lo + i)) with
      | m :: l => (f.spend.block (.regs (m :: l))).close
      | [] =>
        if f.s.matrixReads f.t f.r.num lo f.r.top then (f.spend.block (.regs [])).close
        else
          let f := f.issue clsOnce (countKeys w) [] ps false
          ({ f with r := f.r.cut lo }).next.close
/-- RRELEASE. -/
def execRrelease (w : FWord) (s : State) : Host.Outcome State Fault Refusal := answer (byStream s (rreleaseVec w) (notInCtl 0x82 w))

/-- Inserts a claim by (rank slot, age) (R323). -/
def insertClaim (slot : Claim → Nat) (c : Claim) : List Claim → List Claim
  | [] => [c]
  | d :: l => if slot c < slot d ∨ (slot c = slot d ∧ c.age < d.age) then c :: d :: l else d :: insertClaim slot c l

/-- The rank slot of a claim. -/
def State.claimSlot (s : State) (c : Claim) : Nat := (((s.team c.team).bind (fun t => t.rank c.rank)).map (fun r => r.slot)).getD 16

/-- The claims of a rod in the order it scans them. -/
def State.claimOrder (s : State) (pair q : Nat) : List Claim := (s.rod pair q).claims.foldr (insertClaim s.claimSlot) []

/-- Grants a claim (R323). -/
def State.grantClaim (s : State) (pair q : Nat) (c : Claim) : State :=
  let rod := s.rod pair q
  let s := s.putRod pair q { rod with claims := rod.claims.filter (fun d => decide (d ≠ c)) }
  match s.team c.team with
  | none => s
  | some t => match t.rank c.rank with
    | none => s
    | some r => s.putTeam (t.putRank ({ r.grow c.blocks with
        splits := r.splits.map (fun x => if x.age = c.age then x.past else x) }))

/-- Scans a rod's claim list: every claim that fits is granted (R323). -/
def State.scanClaims (s : State) (pair q : Nat) : State :=
  (s.claimOrder pair q).foldl (fun s c =>
    match (s.team c.team).bind (fun t => t.rank c.rank) with
    | none => s
    | some r => if r.width * (8 * c.blocks) ≤ s.poolFree pair q then s.grantClaim pair q c else s) s

/-- The channels that NCH of SAMPLE and FETCH names (R306). -/
def channelsOf (md : Nat) : Nat := 2 ^ (md % 4)

/-- The registers an access in flight will write: its first and how many. -/
def AccKind.target : AccKind → Nat × Nat
  | .load d => (d.reg, if d.ty = 12 then 4 else if tyBits d.ty = 64 then 2 else 1)
  | .atom _ _ _ _ d => (d.reg, if tyBits d.ty = 64 then 2 else 1)
  | .texture op _ md _ _ _ _ _ _ reg => (reg, if op = 2 then 1 else channelsOf md + 1)
  | .trace _ _ _ reg => (reg, 5)
  | .answered _ _ _ reg l _ => (reg, l.length)
  | .popped reg ty _ => (reg, if tyBits ty = 64 then 2 else 1)
  | .alloc _ reg => (reg, 4)
  | _ => (0, 0)

/-- A load of a rank's own is on its way to a register (R324). -/
def State.ownLoad (s : State) (uid j p n : Nat) : Bool :=
  s.accesses.any (fun a => decide (a.who = ⟨uid, some j, p⟩) && decide (a.kind.target.1 ≤ n) && decide (n < a.kind.target.1 + a.kind.target.2))

/-- A split waits in a way that R324 counts (DEDUCED, log 54). -/
def State.stuckSplit (s : State) (t : Team) (r : Rank) (x : Split) : Bool :=
  match x.wait with
  | .claim _ => true
  | .bar _ => true
  | .flag _ _ _ => !waitOver s t r x.wait
  | .push _ _ => !waitOver s t r x.wait
  | .pop _ _ => !waitOver s t r x.wait
  | .ring _ => !waitOver s t r x.wait
  | .handle _ => !waitOver s t r x.wait
  | .share _ _ _ _ => true
  | .regs needs => needs.any (fun n => !r.isFull n.1 n.2 && !s.ownLoad t.uid r.num n.1 n.2)
  | _ => false

/-- Every resident rank of a rod is stuck, a claim waits, and the smallest does not fit (R324) (DEDUCED, log 54). -/
def State.deadlocked (s : State) (pair q : Nat) : Bool :=
  let claims := (s.rod pair q).claims
  !claims.isEmpty &&
    (s.ranksOn pair q).all (fun tr => tr.2.splits.all (fun x => s.stuckSplit tr.1 tr.2 x)) &&
    claims.all (fun c => decide (s.poolFree pair q < (((s.team c.team).bind (fun t => t.rank c.rank)).map (fun r => r.width)).getD 0 * (8 * c.blocks)))

/-- Raises REG_DEADLOCK on a split that claims (R324). -/
def State.deadlockTrap (s : State) (c : Claim) : State :=
  match focus { s with cur := .vec c.team c.rank c.age } with
  | none => s
  | some f =>
    let ps := f.members 0 false
    { f.trapIssue ps .regDeadlock (BitVec.ofNat 64 c.blocks) with cur := s.cur }

/-- Settles a rod's pool: grants what fits, and breaks a deadlock (R323, R324) (DEDUCED, log 54). -/
def State.settlePool (s : State) (pair q : Nat) : State :=
  let s := s.scanClaims pair q
  if s.deadlocked pair q then
    let claims := s.claimOrder pair q
    let rod := s.rod pair q
    claims.foldl State.deadlockTrap (s.putRod pair q { rod with claims := [] })
  else s

/-- Settles every rod that has claims. -/
def State.settlePools (s : State) : State :=
  s.pairs.foldl (fun s e => e.2.rods.foldl (fun s d => if d.2.claims.isEmpty then s else s.settlePool e.1 d.1) s) s

/-! ## Shared ranges -/

/-- A plain number field of a pool instruction. -/
def plainNum (f : Fld) (lo hi : Nat) : Bool := fldOk .vec (.num 2048) f && decide (lo ≤ f.n) && decide (f.n ≤ hi)

/-- What makes RSHARE illegal at the rank that issues it (R326). -/
def shareBad (t : Team) (r : Rank) (partner : Option (Team × Rank)) (own other n : Nat) : Bool :=
  decide (own % 8 ≠ 0) || decide (other % 8 ≠ 0) || decide (r.top < own + 8 * n) || r.meetsShare own (own + 8 * n) || decide (2 ≤ r.shares.length) ||
    match partner with
    | none => true
    | some (u, p) =>
      (u.uid == t.uid && p.num == r.num) || decide (p.width ≠ r.width) || decide (2 ≤ p.shares.length) || p.meetsShare other (other + 8 * n) ||
        p.splits.any (fun x => match x.wait with
          | .share slot o q m => slot == r.slot && !(o == other && q == own && m == n)
          | _ => false)

/-- RSHARE (R326). -/
def rshareVec (w : FWord) (f : Foc) : State :=
  let ps := f.members 0 false
  let own := w.d.toNat
  let other := w.a.toNat
  let n := w.b.toNat
  let slot := bitsAt w.md.toNat 0 4
  match f.permit (f.members w.g.toNat w.gn) ⟨fToWord 0x83 w, plainMod w 16 && guardP0 w && plainNum (fldD w) 0 2047 && plainNum (fldA w) 0 2047 && plainNum (fldB w) 1 64,
      [], []⟩ with
  | some s => s
  | none =>
    let partner := f.s.rankAt f.t.pair f.r.rod slot
    if shareBad f.t f.r partner own other n then f.trapIssue ps .illegalOperand (fHi 0x83 w)
    else
      match partner with
      | none => f.next.close
      | some (u, p) =>
        match p.splits.find? (fun x => decide (x.wait = .share f.r.slot other own n)) with
        | none => (f.spend.block (.share slot own other n)).close
        | some y =>
          let f := f.issue clsOnce [] [] ps false
          let mine : Share := ⟨own, u.uid, p.num, other, n⟩
          let theirs : Share := ⟨other, f.t.uid, f.r.num, own, n⟩
          let r := if p.slot < f.r.slot then copyShare p f.r other own n else f.r
          let r := { r with shares := r.shares ++ [mine] }
          let p' := { p with shares := p.shares ++ [theirs], splits := p.splits.map (fun x => if x.age = y.age then x.past else x) }
          let f := { f with r := r }.next
          if u.uid = f.t.uid then ({ f with t := f.t.putRank p' }).close else ({ f with s := f.s.putTeam (u.putRank p') }).close
/-- RSHARE. -/
def execRshare (w : FWord) (s : State) : Host.Outcome State Fault Refusal := answer (byStream s (rshareVec w) (notInCtl 0x83 w))

/-- RUNSHARE (R326): both ranks keep their own copy. -/
def runshareVec (w : FWord) (f : Foc) : State :=
  let ps := f.members 0 false
  match f.permit (f.members w.g.toNat w.gn) ⟨fToWord 0x84 w, plainMod w 1 && guardP0 w && plainNum (fldD w) 0 2047 && fldOk .vec .none (fldA w) && fldOk .vec .none (fldB w),
      [], []⟩ with
  | some s => s
  | none =>
    match f.r.shares.find? (fun h => h.own == w.d.toNat) with
    | none => f.trapIssue ps .illegalOperand (fHi 0x84 w)
    | some h =>
      let f := f.issue clsOnce [] [] ps false
      let cut (r : Rank) (own : Nat) : Rank := { r with shares := r.shares.filter (fun g => g.own != own) }
      let s := ({ f with r := cut f.r h.own }).next.close
      match s.team h.team with
      | none => s
      | some u => match u.rank h.rank with
        | none => s
        | some p => s.putTeam (u.putRank (cut p h.partner))
/-- RUNSHARE. -/
def execRunshare (w : FWord) (s : State) : Host.Outcome State Fault Refusal := answer (byStream s (runshareVec w) (notInCtl 0x84 w))

/-! ## Deposits -/

/-- The pair, pair-rod and rank slot that DEPOSIT's k register names (R327). -/
def depositTarget (pair : Nat) (v : Word) : Nat × Nat × Nat :=
  (4 * clusterOf pair + bitsAt v.toNat 0 2, 16 * bitsAt v.toNat 2 1 + bitsAt v.toNat 3 4, bitsAt v.toNat 7 4)

/-- DEPOSIT of one thread (R327). -/
def depositThread (w : FWord) (f : Foc) (p : Nat) : Except Stop Foc :=
  match readOpd f.r p .reg (fldA w) with
  | .error t => .error (.trap t)
  | .ok v =>
    match readOpd f.r p .reg (fldB w) with
    | .error t => .error (.trap t)
    | .ok _ =>
      let e := depositTarget f.t.pair (f.r.kreg w.b.toNat).val
      if f.r.helper p then .ok f
      else
        let (id, s) := f.s.newId
        let d : Deposit := { id := id, who := ⟨f.t.uid, some f.r.num, p⟩, grid := f.t.grid, pair := e.1, rod := e.2.1, slot := e.2.2,
                             reg := w.d.toNat, val := lo32 v }
        .ok { f with s := { s with deposits := s.deposits ++ [d] } }

/-- DEPOSIT (R327). -/
def depositVec (w : FWord) (f : Foc) : State :=
  let ps := f.members w.g.toNat w.gn
  match f.permit ps ⟨fToWord 0x85 w, plainMod w 1 && plainNum (fldD w) 0 2047 && fldOk .vec .reg (fldA w) && w.kb && fldOk .vec .reg (fldB w),
      vregsOf .reg (fldA w), fullNeeds .reg (fldA w)⟩ with
  | some s => s
  | none =>
    let v := (f.r.kreg w.b.toNat).val
    let e := depositTarget f.t.pair v
    if v.toNat / 2048 ≠ 0 ∨ coreOf e.1 e.2.1 = coreOf f.t.pair f.r.rod then f.trapIssue ps .illegalOperand (fHi 0x85 w)
    else
      match passLoop (depositThread w) (fun f _ => f) ps
          (f.issue clsPer (guardKey w.g :: keysOf .reg (fldA w) ++ keysOf .reg (fldB w)) [] ps false) with
      | (f, some (p, st)) => f.stopAt ps p st
      | (f, none) => f.next.close
/-- DEPOSIT. -/
def execDeposit (w : FWord) (s : State) : Host.Outcome State Fault Refusal := answer (byStream s (depositVec w) (notInCtl 0x85 w))

/-- RMARK of one thread (R328). -/
def rmarkThread (w : FWord) (f : Foc) (p : Nat) : Except Stop Foc :=
  let regs := (List.range w.b.toNat).map (fun i => w.d.toNat + i)
  match unallocated f.r regs with
  | some n => .error (.trap { code := .regUnallocated, detail := BitVec.ofNat 64 n })
  | none => .ok { f with r := regs.foldl (fun r n => (r.emptyV p n).putVtag p n false) f.r }

/-- RMARK (R328). -/
def rmarkVec (w : FWord) (f : Foc) : State :=
  let ps := f.members w.g.toNat w.gn
  let regs := (List.range w.b.toNat).map (fun i => w.d.toNat + i)
  match f.permit ps ⟨fToWord 0x86 w, plainMod w 1 && plainNum (fldD w) 0 2047 && fldOk .vec .none (fldA w) && plainNum (fldB w) 1 64, [],
      regs.filter (fun n => decide (n < f.r.top))⟩ with
  | some s => s
  | none =>
    match passLoop (rmarkThread w) (fun f _ => f) ps (f.issue clsPer [guardKey w.g] regs ps false) with
    | (f, some (p, st)) => f.stopAt ps p st
    | (f, none) => f.next.close
/-- RMARK. -/
def execRmark (w : FWord) (s : State) : Host.Outcome State Fault Refusal := answer (byStream s (rmarkVec w) (notInCtl 0x86 w))

/-- RARRIV (R329): MOD [0] WAIT, [11] BI. -/
def rarrivVec (w : FWord) (f : Foc) : State :=
  let ps := f.members w.g.toNat w.gn
  let wait := w.md.getLsbD 0
  let bi := w.md.getLsbD 11
  let ok := w.md.toNat % 2048 < 2 && fldOk .vec .reg (fldD w) && fldOk .vec .none (fldA w) &&
    (if wait then countOk w else !bi && fldOk .vec .none (fldB w))
  match f.permit ps ⟨fToWord 0x87 w, ok, vregsOf .reg (fldD w), vregsOf .reg (fldD w)⟩ with
  | some s => s
  | none =>
    match (if wait then countTrap f.r w else none) with
    | some t => f.trap t ⟨(ps.head?).getD f.x.resume, ps.take 1, ps⟩
    | none =>
      let cmp : Word := BitVec.ofNat 32 (poolCount f.r w)
      if wait && !ps.isEmpty && decide (2 ^ 31 ≤ (f.r.arrival - cmp).toNat) then (f.spend.block (.arrival cmp)).close
      else
        let uniform := w.kd && guardP0 w
        let f := f.issue clsInt (guardKey w.g :: (if wait then countKeys w else [])) (keysOf .reg (fldD w)) ps uniform
        let who := if uniform then ps.take 1 else ps
        ({ f with r := who.foldl (fun r p => writeOpd r f.x.age p .reg (fldD w) ⟨f.r.arrival.setWidth 128, false⟩) f.r }).next.close
/-- RARRIV. -/
def execRarriv (w : FWord) (s : State) : Host.Outcome State Fault Refusal := answer (byStream s (rarrivVec w) (notInCtl 0x87 w))

/-- DEPOSIT_ARRIVE (R186, R327): a deposit lands, or is discarded; those of one thread to one register keep their order. -/
def State.depositArrive (s : State) (id : Nat) : State :=
  match s.deposits.find? (fun d => d.id == id) with
  | none => s
  | some d =>
    if (s.deposits.takeWhile (fun e => e.id != id)).any (fun e => decide (e.who = d.who) && e.pair == d.pair && e.rod == d.rod && e.slot == d.slot && e.reg == d.reg) then s
    else
      let s := { s with deposits := s.deposits.filter (fun e => e.id != id) }
      match s.rankAt d.pair d.rod d.slot with
      | none => s
      | some (t, r) =>
        if t.grid ≠ d.grid ∨ r.width ≤ d.who.pos ∨ r.top ≤ d.reg then s
        else (s.arrived d.pair r [d.reg]).putRank t.uid { r.writeV d.who.pos d.reg d.val with arrival := r.arrival + 1 }

/-- DEPOSIT_ARRIVE. -/
def execDepositArrive (id : Nat) (s : State) : Host.Outcome State Fault Refusal := answer (s.depositArrive id)

end Sys2Proof.Machine
end

