-- ==== Sys2Proof/Machine/Copies.lean ====
section
/-! DEFINITION. Copies, handles, rings, locked translations and pins (spec/16 R330 to R339, R354, spec/06 R127 to R151, spec/02
R54 to R56, spec/03 R81). -/

namespace Sys2Proof.Machine

/-! ## Fields -/

/-- A run of n c registers that stays at or below c15 (R330). -/
def cRun (f : Fld) (n : Nat) : Bool := fldOk .ctl .quad f && decide (f.n + n ≤ 80)
/-- A run of n s registers that stays at or below s63 (R330). -/
def sRun (f : Fld) (n : Nat) : Bool := fldOk .ctl .wide f && decide (f.n + n ≤ 64)

/-- The handle that a field names. -/
def handleOf (f : Fld) : Nat := f.n - 80

/-- Makes a handle hold a state. -/
def Team.putHandle (t : Team) (h : Nat) (v : Handle) : Team := { t with handles := tabPut .idle t.handles h v }

/-- HANDLE_INVALID (R135, R138). -/
def badHandle (h : Nat) (s : State) (t : Team) : State := s.trapCtl t { code := .handleInvalid, detail := BitVec.ofNat 64 h }

/-- A result with nothing but a status (R136). -/
def HResult.of (status : BitVec 8) : HResult := ⟨false, false, status, 0, 0⟩

/-! ## The copy descriptor -/

/-- The copies that run in an engine instance. -/
def OpKind.isCopy : OpKind → Bool
  | .copy => true
  | .gather => true
  | .scatter => true
  | .hostCopy => true
  | .decompress => true
  | _ => false

/-- MOD of a copy obeys R332 (DEDUCED, log 82). -/
def copyMod (kind : OpKind) (w : FWord) : Bool :=
  let m := w.md.toNat
  decide (m < 512) && decide (m % 4 ≠ 3) && (decide (kind = .copy) || (m % 4 == 0 && !w.md.getLsbD 3 && !w.md.getLsbD 4)) &&
    !(decide (kind = .scatter) && w.md.getLsbD 5) && !((w.md.getLsbD 3 || w.md.getLsbD 4) && (m % 4 != 0 || w.md.getLsbD 2)) &&
    !(w.md.getLsbD 3 && w.md.getLsbD 4)

/-- The c registers that a copy names (R331). -/
def copyCaps (kind : OpKind) (w : FWord) : Nat := if kind = .copy ∧ !w.md.getLsbD 3 ∧ !w.md.getLsbD 4 then 2 else 3

/-- The fields of a copy's word (R330, R331) (DEDUCED, log 27). -/
def copyFields (kind : OpKind) (w : FWord) : Bool :=
  copyMod kind w && fldOk .ctl .handle (fldD w) && cRun (fldA w) (copyCaps kind w) && sRun (fldB w) 4

/-- The copy descriptor obeys R333 (DEDUCED, log 27). -/
def copyDescOk (o : EngOp) : Bool :=
  let types := bitsAt (o.word 3) 0 8
  decide (bitsAt (o.word 3) 13 51 = 0) && decide (types % 16 ≤ 11) && decide (types / 16 ≤ 11) &&
    (decide (o.dim ≠ 0) || (decide (bitsAt (o.word 0) 32 16 = 0) && decide (bitsAt (o.word 1) 32 32 = 0))) &&
    (decide (o.dim ≠ 0) || (o.indexed && !o.cv) || decide (bitsAt (o.word 1) 0 32 = 0)) &&
    (decide (o.dim = 2) || decide (bitsAt (o.word 0) 48 16 = 0)) &&
    (if o.blocks then decide (bitsAt (o.word 2) 48 16 = 0) else decide (o.dim = 2) || decide (o.word 2 = 0)) &&
    (o.cv || types == 0) && (o.ring || o.rng == 0)

/-- The operation that a copy's word and the s registers it names ask for. -/
def copyOp (kind : OpKind) (w : FWord) (t : Team) : EngOp :=
  let c (i : Nat) : TCap := t.ctl.getC (w.a.toNat - 64 + i)
  { id := 0, unit := clusterOf t.pair, team := t.uid, ctx := t.ctx, pair := t.pair, hnd := handleOf (fldD w), kind := kind, md := w.md
    desc := (List.range 4).map (fun i => t.ctl.getS (w.b.toNat + i)), dst := c 0, src := c 1
    third := if copyCaps kind w = 3 then c 2 else TCap.null, target := 0, total := 0, done := 0, started := false, srcFmt := 0, dstFmt := 0
    cancel := false, rtry := false, sparse := false, status := none, wmax := 0, claimed := [], window := none, waitFault := none, ahead := [], wrote := [],
    appliedAt := 0 }

/-! ## Formats at issue -/

/-- The format code of a side, from the leaf or map entry of its first address (R334): plain when there is none. -/
def State.sideFmt (s : State) (q : Req) (c : TCap) : State × Nat :=
  let a := capCursor c
  let space := capSpace c
  if space = 1 ∨ space = 4 then
    match s.translate q a 0 with
    | (s, .page p) => (s, 4 * p.fmt + p.blk)
    | (s, _) => (s, 0)
  else if space = 2 ∨ space = 3 then
    (s, match (s.pair (homePair q.pair space a)).mapAt (a % 2 ^ 19) with | some (_, m) => 4 * m.fmt + m.blk | none => 0)
  else (s, 0)

/-- The formats of both sides go together (R131, R334, R335); the trap names the first format side's address. -/
def copyFmtTrap (o : EngOp) : Option Trap :=
  let bad (c : TCap) : Option Trap := some { code := .formatMismatch, detail := BitVec.ofNat 64 (capCursor c % 2 ^ 32) }
  let side := if o.dstFmt ≠ 0 then o.dst else o.src
  if !fmtValid (o.dstFmt / 4) (o.dstFmt % 4) then bad o.dst
  else if !fmtValid (o.srcFmt / 4) (o.srcFmt % 4) then bad o.src
  else if o.cv then none
  else if o.srcFmt = 0 ∧ o.dstFmt = 0 then none
  else if o.srcFmt = o.dstFmt ∧ o.kind = .copy ∧ !o.blocks then none
  else bad side

/-- A block of a block-scaled side starts at an address (R98). -/
def State.blockStart (s : State) (o : EngOp) (a : Nat) : Bool :=
  let (e, c) := s.elemIndex o.ctx o.pair (capSpace o.dst) a (o.dstFmt / 4) (o.dstFmt % 4)
  c == 0 || e % lineElems (o.dstFmt / 4) (o.dstFmt % 4) % blkElems (o.dstFmt % 4) == 0

/-- A block of a block-scaled side ends with the element at an address, or its page or range does (R97, R98). -/
def State.blockEnd (s : State) (o : EngOp) (a : Nat) : Bool :=
  let (e, c) := s.elemIndex o.ctx o.pair (capSpace o.dst) a (o.dstFmt / 4) (o.dstFmt % 4)
  c == 0 || e + 1 == c || (e % lineElems (o.dstFmt / 4) (o.dstFmt % 4) + 1) % blkElems (o.dstFmt % 4) == 0

/-- A line of a format side starts at an address (R98). -/
def State.lineStart (s : State) (o : EngOp) (c : TCap) (fmt : Nat) : Bool :=
  (s.elemIndex o.ctx o.pair (capSpace c) (capCursor c) (fmt / 4) (fmt % 4)).1 % lineElems (fmt / 4) (fmt % 4) == 0

/-- Format copies name whole lines, by the index of an element in its page or range; every row of a copy into a block-scaled side starts
and ends on block boundaries; ESZ is not 0 (R131, R334, R335). A converting copy that does not keep to blocks raises ILLEGAL_OPERAND, as
a format copy does that does not keep to lines (DEDUCED, log 27). -/
def State.copyShapeOk (s : State) (o : EngOp) : Bool :=
  let blocked := o.dstFmt % 4 != 0
  let row (n i : Nat) : Bool :=
    let a := capCursor o.dst + i % o.rows * bitsAt (o.word 1) 32 32 + i / o.rows * bitsAt (o.word 2) 32 32
    s.blockStart o a && s.blockEnd o (a + n - 1)
  if o.indexed then o.elemUnits != 0 && (!blocked || (decide (o.kind = .gather) && row o.nx 0))
  else if o.cv then !blocked || (List.range (o.rows * o.planes)).all (row o.nx)
  else o.blocks || o.srcFmt == 0 ||
    (o.nx % lineElems (o.srcFmt / 4) (o.srcFmt % 4) == 0 && s.lineStart o o.dst o.dstFmt && s.lineStart o o.src o.srcFmt)

/-! ## Ranges -/

/-- A range of a copy: whether it is the destination, its capability, first and last address, and the permissions it needs. -/
structure CopyRange where
  dst : Bool
  cap : TCap
  first : Nat
  last : Nat
  need : Nat

/-- The span of a side from its first to its last unit (R334, R336). -/
def EngOp.span (o : EngOp) (dst : Bool) : CopyRange :=
  let c := if dst then o.dst else o.src
  let size := if dst then o.dstSize else o.srcSize
  let first := capCursor c
  let units := if o.indexed then o.units - 1
    else o.nx - 1 + (o.rows - 1) * (if dst then bitsAt (o.word 1) 32 32 else bitsAt (o.word 1) 0 32) +
      (o.planes - 1) * (if dst then bitsAt (o.word 2) 32 32 else bitsAt (o.word 2) 0 32)
  ⟨dst, c, first, first + units * size + size - 1, if dst then permST else permLD⟩

/-- The span that an indexed side may reach (R142): from the greater of cursor and bottom to the top, or one unit at the cursor. -/
def EngOp.reach (o : EngOp) (dst : Bool) : CopyRange :=
  let c := if dst then o.dst else o.src
  let lo := max (capCursor c) (capBottom c)
  if lo < capTop c then ⟨dst, c, lo, capTop c - 1, 0⟩
  else ⟨dst, c, capCursor c, capCursor c + (if dst then o.dstSize else o.srcSize) - 1, 0⟩

/-- The index list (R335). -/
def EngOp.indexList (o : EngOp) : CopyRange := ⟨false, o.third, capCursor o.third, capCursor o.third + 4 * o.nx - 1, permLD⟩

/-- The side that indices reach is the destination. -/
def EngOp.indexedDst (o : EngOp) : Bool := decide (o.kind = .scatter)

/-- The ranges checked at issue (R336 step 2). -/
def EngOp.checked (o : EngOp) : List CopyRange :=
  (if o.ring || (o.indexed && o.indexedDst) then [] else [o.span true]) ++
  (if o.indexed && !o.indexedDst then [] else [o.span false]) ++ (if o.indexed then [o.indexList] else [])

/-- The ranges registered in range-lock tables (R142). -/
def EngOp.registered (o : EngOp) : List CopyRange :=
  let d := if o.indexed && o.indexedDst then o.reach true else o.span true
  let r := if o.indexed && !o.indexedDst then o.reach false else o.span false
  let same := o.dec && capSpace o.dst == capSpace o.src && d.first == r.first && d.last == r.last
  (if o.ring then [] else [d]) ++ (if same then [] else [r]) ++ (if o.indexed then [o.indexList] else [])

/-- A range of offsets lies within the extent of every column it meets (R8, R76). -/
def State.inColumns (s : State) (pair space first last : Nat) : Bool :=
  if space = 2 then decide (last < s.extent pair)
  else if space = 3 then
    (List.range (last / 2 ^ 19 + 1 - first / 2 ^ 19)).all (fun i =>
      let c := first / 2 ^ 19 + i
      decide (min last (c * 2 ^ 19 + 2 ^ 19 - 1) % 2 ^ 19 < s.extentOf pair c))
  else true

/-- Steps 1 to 4 of R25 on a range, which must lie within the extents of its columns (R8, R28, R76). -/
def State.checkSpan (s : State) (pair : Nat) (r : CopyRange) : Option Trap :=
  match capGate .ctl r.need (r.first : Int) r.cap with
  | some t => some t
  | none =>
    if r.first < capBottom r.cap ∨ capTop r.cap ≤ r.last ∨ !s.inColumns pair (capSpace r.cap) r.first r.last then
      some (capTrap .capBounds 0 (r.first : Int) r.cap)
    else none

/-- The check of a ring target (R336): a local capability that holds every slot. -/
def State.checkRing (s : State) (o : EngOp) : Option Trap :=
  let r := s.ring o.pair o.rng
  let lo := 256 * r.base
  match capCheck .ctl permST 1 (s.extentOf o.pair) (lo : Int) (r.count * r.bytes) o.dst with
  | some t => some t
  | none => if capSpace o.dst = 2 then none else some (capTrap .capPerm 0 (lo : Int) o.dst)

/-- The first trap of the ranges in their order. -/
def State.checkSpans (s : State) (o : EngOp) : Option Trap :=
  match (if o.ring then s.checkRing o else none) with
  | some t => some t
  | none => o.checked.findSome? (s.checkSpan o.pair)

/-- A range split by the columns of a pooled space (R142): table and entry. -/
def EngOp.entries (o : EngOp) (slot : Nat) (r : CopyRange) : List (Nat × RangeLock) :=
  let space := capSpace r.cap
  let at_ (pair first last : Nat) : Nat × RangeLock := (pair, ⟨o.pair % 4, slot, o.hnd, r.dst, space, last, first, o.id⟩)
  if space ≠ 3 then [at_ o.pair r.first r.last]
  else ((List.range 4).filter (fun c => decide (r.first / 2 ^ 19 ≤ c) && decide (c ≤ r.last / 2 ^ 19))).map (fun c =>
    at_ (4 * clusterOf o.pair + c) (max r.first (c * 2 ^ 19)) (min r.last (c * 2 ^ 19 + 2 ^ 19 - 1)))

/-- Two ranges overlap in one domain (R143). -/
def lockOverlap (a b : RangeLock) : Bool :=
  let x := lockKey a.space a.first
  let y := lockKey b.space b.first
  x.1 == y.1 && decide (x.2 ≤ y.2 + (b.last - b.first)) && decide (y.2 ≤ x.2 + (a.last - a.first))

/-- An operation's own ranges clash: a source or index list overlaps the destination (R142). -/
def ownClash (l : List (Nat × RangeLock)) : Bool :=
  l.any (fun a => a.2.dst && l.any (fun b => !b.2.dst && a.1 == b.1 && lockOverlap a.2 b.2))

/-- The free entries of a table (R141). -/
def Pair.freeLocks (p : Pair) : List Nat := (List.range 32).filter (fun i => decide (tabGet none p.locks i = none))

/-- A range waits for a pending operation's entry (R145). -/
def Pair.lockWait (p : Pair) (r : RangeLock) : Bool :=
  p.locks.any (fun e => match e.2 with | some l => lockOverlap l r && (l.dst || r.dst) | none => false)

/-- The tables can take the entries now (R142, R145). -/
def State.locksFree (s : State) (l : List (Nat × RangeLock)) : Bool :=
  l.all (fun e => !(s.pair e.1).lockWait e.2) &&
    l.all (fun e => decide ((l.filter (fun x => x.1 == e.1)).length ≤ (s.pair e.1).freeLocks.length))

/-- Registers entries (R142). -/
def State.putLocks (s : State) (l : List (Nat × RangeLock)) : State :=
  l.foldl (fun s e =>
    let p := s.pair e.1
    match p.freeLocks with
    | i :: _ => s.putPair e.1 { p with locks := tabPut none p.locks i (some e.2) }
    | [] => s) s

/-- Frees an operation's entries (R146). -/
def State.freeLocks (s : State) (op : Nat) : State :=
  { s with pairs := s.pairs.map (fun e => (e.1, { e.2 with locks := e.2.locks.filter (fun l => match l.2 with | some r => r.op != op | none => true) })) }

/-! ## Issue -/

/-- The stop of a read at issue as the control thread takes it. -/
def engTrap (e : EngStop) : Stop :=
  match e with
  | .stop code a => .trap { code := code, detail := BitVec.ofNat 64 (a % 2 ^ 32) }
  | .owner t => .trap t
  | .own t => .trap t
  | .mig c p => .block (.migration c p)
  | .wait => .block .engine
  | .gone => .block .engine

/-- The address of the target descriptor (R334). -/
def EngOp.targetAddr (o : EngOp) : Nat := capCursor o.third + bitsAt (o.word 2) 0 48

/-- The target descriptor of a compressing or decompressing copy, read at issue (R334). -/
def State.copyTarget (s : State) (o : EngOp) : State × Except Stop Nat :=
  let a := o.targetAddr
  match s.checkSpan o.pair ⟨false, o.third, a, a + 63, permLD + permST⟩ with
  | some t => (s, .error (.trap t))
  | none =>
    match s.engRead o (capSpace o.third) 0 a 64 with
    | (s, .error e) => (s, .error (engTrap e))
    | (s, .ok (b, _)) =>
      let d := leNat b
      if rtBad d then (s, .error (.trap { code := .illegalOperand, detail := BitVec.ofNat 64 (a % 2 ^ 32) })) else (s, .ok d)

/-- The operations of an instance that hold a place (R127). -/
def State.opsOn (s : State) (unit : Nat) : Nat := (s.ops.filter (fun o => o.unit == unit && o.kind.isCopy)).length

/-- Steps 3 to 5 of R336: the place, the range locks, and the handle. -/
def copyStart (o : EngOp) (s : State) (t : Team) : State :=
  if tabGet false s.engines o.unit then s.ctlDone (t.putHandle o.hnd (.resolved (HResult.of 8)))
  else if 64 ≤ s.opsOn o.unit then s.ctlBlock t .engine
  else
    let l (o : EngOp) : List (Nat × RangeLock) := o.registered.flatMap (o.entries t.slot)
    if !s.locksFree (l o) then s.ctlBlock t .engine
    else
      let (id, s) := s.newId
      let o := { o with id := id, total := o.units }
      { s.putLocks (l o) with ops := s.ops ++ [o] }.ctlDone (t.putHandle o.hnd (.pending id))

/-- The ring that a copy targets is the team's (R150, R336). -/
def State.ringMine (s : State) (t : Team) (k : Nat) : Bool := (s.ring t.pair k).v && (s.ring t.pair k).team == t.slot

/-- A copy at issue (R336): the checks of its words, formats and ranges' shape, the handle, the ranges, and the target. A copy of no
units makes only the checks of its words and of the handle (R334). -/
def copyIssue (kind : OpKind) (hi : DWord) (w : FWord) (s : State) (t : Team) : State :=
  let o := copyOp kind w t
  let illegal (s : State) : State := s.trapCtl t { code := .illegalOperand, detail := hi }
  if !copyDescOk o then illegal s
  else if o.nx = 0 then
    (if t.handle o.hnd ≠ .idle then badHandle o.hnd s t else s.ctlDone (t.putHandle o.hnd (.resolved (HResult.of 0))))
  else if o.ring && !s.ringMine t o.rng then illegal s
  else
    let (s, a) := s.sideFmt o.req o.src
    let (s, b) := if o.ring then (s, 0) else s.sideFmt o.req o.dst
    let o := { o with srcFmt := a, dstFmt := b }
    match copyFmtTrap o with
    | some tr => s.trapCtl t tr
    | none =>
      if !s.copyShapeOk o then illegal s
      else if t.handle o.hnd ≠ .idle then badHandle o.hnd s t
      else if ownClash (o.registered.flatMap (o.entries t.slot)) then illegal s
      else match s.checkSpans o with
        | some tr => s.trapCtl t tr
        | none =>
          match (if o.blocks then s.copyTarget o else (s, .ok 0)) with
          | (s, .error (.trap tr)) => s.trapCtl t tr
          | (s, .error (.block b)) => s.ctlBlock t b
          | (s, .ok d) => copyStart { o with target := d } s t

/-- A copy in the control stream. -/
def copyCtl (op : BitVec 8) (kind : OpKind) (w : FWord) (s : State) (t : Team) : State :=
  ctlPass s t (copyFields kind w) (fToWord op w) w.g w.gn clsOnce
    ((List.range (copyCaps kind w)).map (fun i => w.a.toNat + i) ++ (List.range 4).map (fun i => w.b.toNat + i)) [] (copyIssue kind (fHi op w) w)

/-- CPY. -/
def execCpy (w : FWord) (s : State) : Host.Outcome State Fault Refusal := answer (byStream s (notInVec 0xB8 w) (copyCtl 0xB8 .copy w))
/-- CPYG. -/
def execCpyg (w : FWord) (s : State) : Host.Outcome State Fault Refusal := answer (byStream s (notInVec 0xB9 w) (copyCtl 0xB9 .gather w))
/-- CPYS. -/
def execCpys (w : FWord) (s : State) : Host.Outcome State Fault Refusal := answer (byStream s (notInVec 0xBA w) (copyCtl 0xBA .scatter w))

/-! ## Handles -/

/-- The 128 bits of a result (R136). -/
def HResult.low (r : HResult) : DWord := BitVec.ofNat 64 r.wmax
/-- Bits [127:64]. -/
def HResult.high (r : HResult) : DWord :=
  BitVec.ofNat 64 ((if r.rtry then 2 ^ 49 else 0) + (if r.sparse then 2 ^ 48 else 0) + r.status.toNat * 2 ^ 40 + r.done.toNat)

/-- HWAIT (R138, R337). -/
def hwaitCtl (w : FWord) (s : State) (t : Team) : State :=
  ctlPass s t (w.md == 0 && fldOk .ctl .spair (fldD w) && fldOk .ctl .handle (fldA w) && fldOk .ctl .none (fldB w)) (fToWord 0xBB w)
    w.g w.gn clsOnce [] (ctlKeysOf .spair (fldD w)) (fun s t =>
      let h := handleOf (fldA w)
      match t.handle h with
      | .idle => badHandle h s t
      | .pending _ => s.ctlBlock t (.handle h)
      | .resolved r =>
        let c := (t.ctl.putS w.d.toNat r.low).putS (w.d.toNat + 1) r.high
        s.ctlDone { t.putHandle h .idle with ctl := { c with pcm := max c.pcm r.wmax } })
/-- HWAIT. -/
def execHwait (w : FWord) (s : State) : Host.Outcome State Fault Refusal := answer (byStream s (notInVec 0xBB w) (hwaitCtl w))

/-- HTEST (R138). -/
def htestCtl (w : FWord) (s : State) (t : Team) : State :=
  ctlPass s t (w.md == 0 && fldOk .ctl .pred (fldD w) && fldOk .ctl .handle (fldA w) && fldOk .ctl .none (fldB w)) (fToWord 0xBC w)
    w.g w.gn clsOnce [] (ctlKeysOf .pred (fldD w)) (fun s t =>
      match t.handle (handleOf (fldA w)) with
      | .resolved r => s.ctlDone { t with ctl := { t.ctl.putPred w.d.toNat true with pcm := max t.ctl.pcm r.wmax } }
      | _ => s.ctlDone { t with ctl := t.ctl.putPred w.d.toNat false })
/-- HTEST. -/
def execHtest (w : FWord) (s : State) : Host.Outcome State Fault Refusal := answer (byStream s (notInVec 0xBC w) (htestCtl w))

/-- Asks for the cancellation of an operation (R138). -/
def State.cancelOp (s : State) (id : Nat) : State := { s with ops := s.ops.map (fun o => if o.id = id then { o with cancel := true } else o) }

/-- HCANCEL (R138). -/
def hcancelCtl (w : FWord) (s : State) (t : Team) : State :=
  ctlPass s t (w.md == 0 && fldOk .ctl .none (fldD w) && fldOk .ctl .handle (fldA w) && fldOk .ctl .none (fldB w)) (fToWord 0xBD w)
    w.g w.gn clsOnce [] [] (fun s t =>
      let h := handleOf (fldA w)
      match t.handle h with
      | .idle => badHandle h s t
      | .pending id => (s.cancelOp id).ctlDone t
      | .resolved _ => s.ctlDone t)
/-- HCANCEL. -/
def execHcancel (w : FWord) (s : State) : Host.Outcome State Fault Refusal := answer (byStream s (notInVec 0xBD w) (hcancelCtl w))

/-! ## Rings -/

/-- The ring that RINGINIT makes from s_A (R338). -/
def ringOf (slot v : Nat) : Ring :=
  { Ring.zero with nm1 := bitsAt v 0 6, slot := bitsAt v 6 11, base := bitsAt v 17 11, team := slot, v := true }

/-- What makes RINGINIT illegal (R148, R338). -/
def State.ringBad (s : State) (t : Team) (k v : Nat) : Bool :=
  let old := s.ring t.pair k
  let r := ringOf t.slot v
  let n := r.count * r.slot
  decide (2 ^ 28 ≤ v) || r.slot == 0 || (old.v && (decide (old.clm ≠ old.rel) || old.team != t.slot)) ||
    decide (s.extent t.pair < (r.base + n) * 256) ||
    (s.pair t.pair).maps.any (fun e => match e.2 with | some m => decide (m.soff < r.base + n) && decide (r.base < m.soff + m.slen) | none => false)

/-- RINGINIT (R148, R338). -/
def ringinitCtl (w : FWord) (s : State) (t : Team) : State :=
  ctlPass s t (plainMod w 32 && fldOk .ctl .none (fldD w) && fldOk .ctl .wide (fldA w) && fldOk .ctl .none (fldB w)) (fToWord 0xBE w)
    w.g w.gn clsOnce (ctlKeysOf .wide (fldA w)) [] (fun s t =>
      let v := (t.ctl.getS w.a.toNat).toNat
      if s.ringBad t w.md.toNat v then s.trapCtl t { code := .illegalOperand, detail := fHi 0xBE w }
      else (s.putRing t.pair w.md.toNat (ringOf t.slot v)).ctlDone t)
/-- RINGINIT. -/
def execRinginit (w : FWord) (s : State) : Host.Outcome State Fault Refusal := answer (byStream s (notInVec 0xBE w) (ringinitCtl w))

/-- The slot that RWAIT hands out, its byte count, and the ring after it; none while FIL = TAK (R150). -/
def Ring.take (r : Ring) : Option (Nat × Nat × Ring) :=
  if r.fil = r.tak then none
  else
    let k := r.tak.toNat % r.count
    some (k, (r.at k).amt - (r.at k).left, { r with tak := r.tak + 1 })

/-- RWAIT in the vector stream (R150, R339). -/
def rwaitVec (w : FWord) (f : Foc) : State :=
  let ps := f.members w.g.toNat w.gn
  match f.permit ps ⟨fToWord 0xBF w, plainMod w 32 && fldOk .vec .pair (fldD w) && fldOk .vec .none (fldA w) && fldOk .vec .none (fldB w),
      vregsOf .pair (fldD w), vregsOf .pair (fldD w)⟩ with
  | some s => s
  | none =>
    if (f.actives ps).isEmpty then (f.issue clsOnce [guardKey w.g] [] ps false).next.close
    else if !f.s.ringMine f.t w.md.toNat then f.trapIssue ps .illegalOperand (fHi 0xBF w)
    else match (f.s.ring f.t.pair w.md.toNat).take with
      | none => (f.spend.block (.ring w.md.toNat)).close
      | some (k, n, r) =>
        let f := f.issue clsOnce [guardKey w.g] (keysOf .pair (fldD w)) ps (w.kd && guardP0 w)
        let f := { f with s := f.s.putRing f.t.pair w.md.toNat r }
        let v : TCap := ⟨BitVec.ofNat 128 (k + 2 ^ 32 * n), false⟩
        ({ f with r := ps.foldl (fun r p => writeOpd r f.x.age p .pair (fldD w) v) f.r }).next.close

/-- RWAIT in the control stream. -/
def rwaitCtl (w : FWord) (s : State) (t : Team) : State :=
  ctlPass s t (plainMod w 32 && fldOk .ctl .wide (fldD w) && fldOk .ctl .none (fldA w) && fldOk .ctl .none (fldB w)) (fToWord 0xBF w)
    w.g w.gn clsOnce [] (ctlKeysOf .wide (fldD w)) (fun s t =>
      if !s.ringMine t w.md.toNat then s.trapCtl t { code := .illegalOperand, detail := fHi 0xBF w }
      else match (s.ring t.pair w.md.toNat).take with
        | none => s.ctlBlock t (.ring w.md.toNat)
        | some (k, n, r) =>
          (s.putRing t.pair w.md.toNat r).ctlDone { t with ctl := t.ctl.putS w.d.toNat (BitVec.ofNat 64 (k + 2 ^ 32 * n)) })
/-- RWAIT. -/
def execRwait (w : FWord) (s : State) : Host.Outcome State Fault Refusal := answer (byStream s (rwaitVec w) (rwaitCtl w))

/-- Slot k lies between REL and TAK - 1 (R150). -/
def Ring.held (r : Ring) (k : Nat) : Bool := (List.range (r.tak - r.rel).toNat).any (fun i => (r.rel + BitVec.ofNat 7 i).toNat % r.count == k)

/-- RFREE of a slot: the ring after it, or none when it is illegal (R150). -/
def Ring.free (r : Ring) (k : Nat) : Option Ring :=
  if !r.held k || (r.at k).rls then none else some ((r.put k { r.at k with rls := true }).release 128)

/-- RFREE in the vector stream (R150, R339): A is read, and waited for, at the lowest active position alone. -/
def rfreeVec (w : FWord) (f : Foc) : State :=
  let ps := f.members w.g.toNat w.gn
  match f.permit ps ⟨fToWord 0xC0 w, plainMod w 32 && fldOk .vec .none (fldD w) && fldOk .vec .reg (fldA w) && fldOk .vec .none (fldB w),
      vregsOf .reg (fldA w), []⟩ with
  | some s => s
  | none =>
    match f.actives ps with
    | [] => (f.issue clsOnce [guardKey w.g] [] ps false).next.close
    | p :: _ =>
      let empty := emptyNeeds f.r [p] (fullNeeds .reg (fldA w))
      if !empty.isEmpty then (f.spend.block (.regs empty)).close
      else if !f.s.ringMine f.t w.md.toNat then f.trapIssue ps .illegalOperand (fHi 0xC0 w)
      else match readOpd f.r p .reg (fldA w) with
        | .error t => f.trap t ⟨p, [p], ps⟩
        | .ok v =>
          match (f.s.ring f.t.pair w.md.toNat).free (lo32 v).toNat with
          | none => f.trapIssue ps .illegalOperand (fHi 0xC0 w)
          | some r =>
            let f := f.issue clsOnce (guardKey w.g :: keysOf .reg (fldA w)) [] ps false
            ({ f with s := f.s.putRing f.t.pair w.md.toNat r }).next.close

/-- RFREE in the control stream. -/
def rfreeCtl (w : FWord) (s : State) (t : Team) : State :=
  ctlPass s t (plainMod w 32 && fldOk .ctl .none (fldD w) && fldOk .ctl .reg (fldA w) && fldOk .ctl .none (fldB w)) (fToWord 0xC0 w)
    w.g w.gn clsOnce (ctlKeysOf .reg (fldA w)) [] (fun s t =>
      let bad := s.trapCtl t { code := .illegalOperand, detail := fHi 0xC0 w }
      if !s.ringMine t w.md.toNat then bad
      else match (s.ring t.pair w.md.toNat).free ((t.ctl.getS w.a.toNat).toNat % 2 ^ 32) with
        | none => bad
        | some r => (s.putRing t.pair w.md.toNat r).ctlDone t)
/-- RFREE. -/
def execRfree (w : FWord) (s : State) : Host.Outcome State Fault Refusal := answer (byStream s (rfreeVec w) (rfreeCtl w))

/-! ## Locked translations and pins -/

/-- The address of a context's region entry, and LOCKCNT changed by a number of pages (R35, R54). -/
def State.countLocks (s : State) (ctx region : Nat) (f : Nat → Nat) : State :=
  match s.ctx ctx with
  | none => s
  | some c =>
    let a := c.desc + 16 * region
    let v := leNat (memBytes s.mem a 8)
    let n := f (bitsAt v 20 16) % 2 ^ 16
    ((s.reach a 8).writeDev a 0 (natLe 8 (v - bitsAt v 20 16 * 2 ^ 20 + n * 2 ^ 20))).2

/-- The pages that [a, a + len) meets in a region: the first page's start and how many. -/
def pagesMeet (r : Region) (a len : Nat) : Nat × Nat :=
  let z := 2 ^ pageBits r.psz
  (a / z * z, (a + len - 1) / z + 1 - a / z)

/-- Walks pages for TLBLOCK: their leaves, or none when one is absent or lacks R (R54). -/
def State.lockWalk (s : State) (r : Region) (va : Nat) : Nat → State × Option (List DWord)
  | 0 => (s, some [])
  | n + 1 =>
    match s.walk r va with
    | (s, .leaf e) =>
      if !leafHas e needR then (s, none)
      else match s.lockWalk r (va + 2 ^ pageBits r.psz) n with
        | (s, some l) => (s, some (e :: l))
        | (s, none) => (s, none)
    | (s, _) => (s, none)

/-- TLBLOCK's effect, all or nothing (R54): whether it locked (DEDUCED, log 28). A page that the team has locked already takes another
lockable entry and is counted in LOCKCNT again (DESIGN CHOICE, log 71). -/
def State.tlbLock (s : State) (o : EngOp) : State × Bool :=
  let a := capCursor o.src
  let len := o.total
  let n := a / 2 ^ 44 % 16
  let r := s.region o.ctx n
  let (lo, k) := pagesMeet r a len
  let held := ((tabGet [] s.tlbs o.pair).filter (fun e => decide (e.locked ≠ none))).length
  let space := capSpace o.src
  if !(space == 1 || space == 4) || !r.en || (a + len - 1) / 2 ^ 44 != a / 2 ^ 44 || r.lklen == 0 || decide (a % 2 ^ 44 < r.lkbase * 4096) ||
      decide ((r.lkbase + r.lklen) * 4096 < a % 2 ^ 44 + len) || decide (16 < held + k) then (s, false)
  else
    match s.lockWalk r lo k with
    | (s, none) => (s, false)
    | (s, some l) =>
      let z := 2 ^ pageBits r.psz
      let new := l.zipIdx.map (fun e => (⟨o.ctx, n, pageOf r (lo + e.2 * z), e.1, false, some o.team⟩ : TlbEntry))
      let s := { s with tlbs := tabMod [] s.tlbs o.pair (fun t => t ++ new), lockRanges := s.lockRanges ++ [LockRange.mk o.pair o.team o.ctx lo (lo + k * z) false] }
      (s.countLocks o.ctx n (fun c => c + k), true)

/-- Frees a team's locked pages in [lo, hi) of a context (R55). -/
def State.unlockRange (s : State) (pair team ctx lo hi : Nat) : State :=
  let mine (l : LockRange) : Bool := l.pair == pair && l.team == team && l.ctx == ctx && decide (l.lo < hi) && decide (lo < l.hi)
  let cut (l : LockRange) : List LockRange :=
    if mine l then (if l.lo < lo then [{ l with hi := lo }] else []) ++ (if hi < l.hi then [{ l with lo := hi }] else []) else [l]
  let gone := s.lockRanges.filter mine
  let s := { s with
    lockRanges := s.lockRanges.flatMap cut
    tlbs := tabMod [] s.tlbs pair (fun t => t.filter (fun e =>
      let z := 2 ^ pageBits (s.region ctx e.region).psz
      let va := e.region * 2 ^ 44 + e.page * z
      !(decide (e.locked = some team) && e.ctx == ctx && decide (lo < va + z) && decide (va < hi)))) }
  gone.foldl (fun s l =>
    let n := l.lo / 2 ^ 44 % 16
    s.countLocks ctx n (fun c => c - (min l.hi hi - max l.lo lo) / 2 ^ pageBits (s.region ctx n).psz)) s

/-- Frees every locked page of a team (R55). -/
def State.unlockTeam (s : State) (team : Nat) : State :=
  (s.lockRanges.filter (fun l => l.team == team)).foldl (fun s l => s.unlockRange l.pair l.team l.ctx l.lo l.hi) s

/-- TLBUNLOCK's effect (R55): a range of a space without pages names none. -/
def State.tlbUnlock (s : State) (o : EngOp) : State :=
  let a := capCursor o.src
  let r := s.region o.ctx (a / 2 ^ 44 % 16)
  let (lo, k) := pagesMeet r a o.total
  if capSpace o.src = 1 ∨ capSpace o.src = 4 then s.unlockRange o.pair o.team o.ctx lo (lo + k * 2 ^ pageBits r.psz) else s

/-- The four sectors of a line, as far as they are not filled, are filled from GDDR 7 (R79, R81). -/
def State.fillLine (s : State) (line : Nat) : State :=
  let s := (List.range 4).foldl (fun s i => if s.sectorHeld (4 * line + i) then s else (s.sectorRead (4 * line + i)).1) s
  s.noteLine line 0xFFFFFFFF 0

/-- Pins one line under a partition (R81): a line that lies in a way outside the mask is allocated anew in one of its ways, all four
sectors are filled, and the line is marked. -/
def State.pinLine (s : State) (line part : Nat) : State × Bool :=
  let mask := s.wayMask (setOf (line * 1024) / 8192) part
  let outside := match tabGet none s.lines line with
    | some m => !mask.getLsbD m.way
    | none => false
  let s := (if outside then s.evict line else s).touch (line * 1024) part
  let s := s.fillLine line
  match tabGet none s.lines line with
  | none => (s, false)
  | some m =>
    let s := { s with lines := tabPut none s.lines line (some { m with pinned := true }) }
    (s, decide (((s.setLines (setOf (line * 1024))).filter (fun e => e.2.pinned)).length ≤ 12))

/-- Pins lines in turn. -/
def State.pinLoop (s : State) (part : Nat) : List Nat → State × Bool
  | [] => (s, true)
  | l :: ls =>
    match s.pinLine l part with
    | (s, true) => s.pinLoop part ls
    | (s, false) => (s, false)

/-- Pins lines, all or nothing (R81). -/
def State.pinLines (s : State) (part : Nat) (l : List Nat) : State × Bool :=
  match s.pinLoop part l with
  | (s', true) => (s', true)
  | (s', false) => ({ s with free := s'.free }, false)

/-- Clears pin marks; the lines stay (R81). -/
def State.unpinLines (s : State) (l : List Nat) : State :=
  l.foldl (fun s n => match tabGet none s.lines n with
    | some m => { s with lines := tabPut none s.lines n (some { m with pinned := false }) }
    | none => s) s

/-- The lines of a virtual range, or none when a page is absent (R354). -/
def State.rangeLines (s : State) (ctx va len : Nat) : Nat → State × Option (List Nat)
  | 0 => (s, some [])
  | n + 1 =>
    if len = 0 then (s, some [])
    else
      let r := s.region ctx (va / 2 ^ 44 % 16)
      let z := 2 ^ pageBits r.psz
      let here := min len (z - va % z)
      if !r.en then (s, none)
      else match s.walk r va with
        | (s, .leaf e) =>
          let p := pageFor r e va
          match s.rangeLines ctx (va + here) (len - here) n with
          | (s, some l) => (s, some (linesOf (p.base + p.off) here ++ l))
          | (s, none) => (s, none)
        | (s, _) => (s, none)

/-- CPIN's effect: whether it took place (R81, R354). -/
def State.cpin (s : State) (o : EngOp) : State × Bool :=
  let space := capSpace o.src
  if space ≠ 1 ∧ space ≠ 4 then (s, false)
  else match s.rangeLines o.ctx (capCursor o.src) o.total (o.total + 1) with
    | (s, none) => (s, false)
    | (s, some l) => if o.kind = .unpin then (s.unpinLines l, true) else s.pinLines (o.md.toNat % 16) l

/-- The operation that TLBLOCK, TLBUNLOCK or CPIN asks for: its length stands in `total`. -/
def rangeOp (kind : OpKind) (w : FWord) (t : Team) : EngOp :=
  { copyOp kind w t with
    desc := []
    dst := TCap.null
    src := t.ctl.getC (w.a.toNat - 64)
    third := TCap.null
    total := (t.ctl.getS w.b.toNat).toNat
    unit := 128 }

/-- TLBLOCK, TLBUNLOCK and CPIN at issue (R135, R354). -/
def rangeIssue (kind : OpKind) (w : FWord) (s : State) (t : Team) : State :=
  let o := rangeOp kind w t
  if t.handle o.hnd ≠ .idle then badHandle o.hnd s t
  else if o.total = 0 then s.ctlDone (t.putHandle o.hnd (.resolved (HResult.of 0)))
  else match s.checkSpan o.pair ⟨false, o.src, capCursor o.src, capCursor o.src + o.total - 1, permLD⟩ with
    | some tr => s.trapCtl t tr
    | none =>
      let (id, s) := s.newId
      { s with ops := s.ops ++ [{ o with id := id, started := true }] }.ctlDone (t.putHandle o.hnd (.pending id))

/-- Such an instruction in the control stream. -/
def rangeCtl (op : BitVec 8) (kind : OpKind) (mods : Nat) (w : FWord) (s : State) (t : Team) : State :=
  ctlPass s t (plainMod w mods && fldOk .ctl .handle (fldD w) && fldOk .ctl .quad (fldA w) && fldOk .ctl .wide (fldB w)) (fToWord op w)
    w.g w.gn clsOnce (ctlKeysOf .quad (fldA w) ++ ctlKeysOf .wide (fldB w)) [] (rangeIssue kind w)

/-- TLBLOCK. -/
def execTlblock (w : FWord) (s : State) : Host.Outcome State Fault Refusal := answer (byStream s (notInVec 0xCD w) (rangeCtl 0xCD .tlblock 1 w))
/-- TLBUNLOCK. -/
def execTlbunlock (w : FWord) (s : State) : Host.Outcome State Fault Refusal := answer (byStream s (notInVec 0xCE w) (rangeCtl 0xCE .tlbunlock 1 w))
/-- CPIN. -/
def execCpin (w : FWord) (s : State) : Host.Outcome State Fault Refusal :=
  answer (byStream s (notInVec 0xCF w) (rangeCtl 0xCF (if w.md.getLsbD 4 then .unpin else .pin) 32 w))

/-! ## The events of an operation -/

/-- ENGINE_OP_START (R118): the issuer's earlier fences are over, since a fence holds its thread. -/
def execEngineOpStart (id : Nat) (s : State) : Host.Outcome State Fault Refusal :=
  answer (match s.op id with
    | some o => if o.kind.isCopy then s.putOp { o with started := true } else s
    | none => s)

/-- ENGINE_WRITE_ACK (R128, R129, R134): up to `units` further units move and are acknowledged. -/
def execEngineWriteAck (id units : Nat) (s : State) : Host.Outcome State Fault Refusal :=
  answer (match s.op id with
    | some o => if o.kind.isCopy then s.engRun id units (units + 1) else s
    | none => s)

/-- RING_SLOT_CLAIM (R149): earlier operations on the ring claim all their slots first. -/
def State.ringClaim (s : State) (o : EngOp) : State :=
  let r := s.ring o.pair o.rng
  let need (p : EngOp) : Bool := decide (p.claimed.length * r.bytes < p.units * p.dstSize) && decide (p.status = none) && !p.cancel
  let earlier := (s.ops.takeWhile (fun p => p.id != o.id)).any (fun p => p.ring && p.kind.isCopy && p.pair == o.pair && p.rng == o.rng && need p)
  if !(o.ring && o.kind.isCopy && need o && r.v) || earlier || decide (r.count ≤ (r.clm - r.rel).toNat) then s
  else
    let k := r.clm.toNat % r.count
    let n := min r.bytes (o.bytes - o.claimed.length * r.bytes)
    (s.putRing o.pair o.rng { r.put k ⟨n, n, false⟩ with clm := r.clm + 1 }).putOp { o with claimed := o.claimed ++ [k] }

/-- RING_SLOT_CLAIM. -/
def execRingSlotClaim (id : Nat) (s : State) : Host.Outcome State Fault Refusal :=
  answer (match s.op id with
    | some o => s.ringClaim o
    | none => s)

/-- A handle of an operation takes its result, wherever it is (R135, R139). -/
def Handle.settle (id : Nat) (r : HResult) (h : Handle) : Handle := if h = .pending id then .resolved r else h

/-- The same for a queue entry. -/
def QEntry.settle (id : Nat) (r : HResult) (q : QEntry) : QEntry := { q with mark := q.mark.map (Handle.settle id r) }

/-- The same for every handle of a team and of its queues. -/
def Team.settleHandles (id : Nat) (r : HResult) (t : Team) : Team :=
  { t with
    handles := t.handles.map (fun (e : Nat × Handle) => (e.1, Handle.settle id r e.2))
    queues := t.queues.map (fun (e : Nat × List QEntry) => (e.1, e.2.map (QEntry.settle id r))) }

/-- Every handle of an operation resolves, its range locks are freed, and it is over (R135, R146). -/
def State.resolveHandles (s : State) (id : Nat) (r : HResult) : State :=
  let s := { s with
    teams := s.teams.map (Team.settleHandles id r)
    ops := s.ops.filter (fun o => o.id != id) }
  s.freeLocks id

/-- The result of a copy that has stopped (R136). -/
def EngOp.result (o : EngOp) : HResult := ⟨o.rtry, o.sparse, o.status.getD 0, BitVec.ofNat 40 o.doneCount, o.wmax⟩

/-- The effect of TLBLOCK, TLBUNLOCK or CPIN, and its status; a cancelled one may do nothing (R138) (DEDUCED, log 28). -/
def State.rangeEffect (s : State) (o : EngOp) : State × BitVec 8 :=
  match o.kind with
  | .tlblock => let (s, ok) := s.tlbLock o; (s, if ok then 0 else 9)
  | .tlbunlock => (s.tlbUnlock o, 0)
  | _ => let (s, ok) := s.cpin o; (s, if ok then 0 else 10)

/-- HANDLE_RESOLVE (R105, R135 to R138, R354): a copy's times are returned at least a tick after its last write was applied. A cancelled
TLBLOCK or CPIN does all or nothing, with status 0x00 or 0x01; TLBUNLOCK always acts. -/
def State.handleResolve (s : State) (o : EngOp) : State :=
  if o.window.isSome then s
  else if o.kind.isCopy then
    if o.wmax ≠ 0 ∧ s.gt ≤ o.appliedAt then s
    else match o.status with
    | some _ => s.resolveHandles o.id o.result
    | none =>
      if !o.cancel then s
      else
        let s := s.stopOp o 1
        s.resolveHandles o.id ((s.op o.id).getD o).result
  else
    let cancelled := o.cancel && decide (o.kind ≠ .tlbunlock)
    let (i, s) := if cancelled then s.newFree else (0, s)
    if cancelled && Config.freeBool i then s.resolveHandles o.id (HResult.of 1)
    else
      let (s, st) := s.rangeEffect o
      s.resolveHandles o.id (HResult.of (if cancelled && st != 0 then 1 else st))

/-- HANDLE_RESOLVE. -/
def execHandleResolve (id : Nat) (s : State) : Host.Outcome State Fault Refusal :=
  answer (match s.op id with
    | some o => s.handleResolve o
    | none => s)

end Sys2Proof.Machine
end

