-- ==== Sys2Proof/Machine/Matrix.lean ====
section
/-! DEFINITION. Accumulator tiles, leases, and the matrix instructions (spec/16 R340 to R349, spec/17 R373, R374, spec/18 R386 to
R388, spec/03 R65, spec/04 R102 to R104). -/

namespace Sys2Proof.Machine

/-! ## Operand maps -/

/-- BASE. -/
def mapBase (m : BitVec 128) : Nat := bitsAt m.toNat 0 24
/-- KIND. -/
def mapKind (m : BitVec 128) : Nat := bitsAt m.toNat 24 2
/-- ROT. -/
def mapRot (m : BitVec 128) : Nat := bitsAt m.toNat 26 4
/-- RPI. -/
def mapRow (m : BitVec 128) : Nat := bitsAt m.toNat 32 16
/-- TPI. -/
def mapTile (m : BitVec 128) : Nat := bitsAt m.toNat 48 16
/-- FMT. -/
def mapFmt (m : BitVec 128) : Nat := bitsAt m.toNat 64 4
/-- IKIND. -/
def mapIkind (m : BitVec 128) : Nat := bitsAt m.toNat 102 2
/-- IBASE. -/
def mapIbase (m : BitVec 128) : Nat := bitsAt m.toNat 104 24

/-- The map of an s pair. -/
def mapAt (c : Ctl) (n : Nat) : BitVec 128 := c.getS (n + 1) ++ c.getS n

/-- Reserved bits and fields that must be 0 (R342). -/
def mapOk (m : BitVec 128) (gather : Bool) : Bool :=
  let v := m.toNat
  bitsAt v 30 2 == 0 && bitsAt v 68 2 == 0 && bitsAt v 70 32 == 0 &&
    (if gather then decide (mapIkind m < 2) else mapIkind m == 0 && mapIbase m == 0) &&
    (if mapKind m = 2 then mapRow m == 0 else if mapKind m = 3 then mapRow m == 0 && mapTile m == 0 else true)

/-- The elements of a 48-byte chunk in a format. -/
def chunkElems (fmt : Nat) : Nat := 384 / fmtBits fmt

/-- The space and offset of chunk k of row i on a local or pooled source (R342). -/
def mapOff (m : BitVec 128) (i k : Nat) : Nat := mapBase m + i * mapRow m + k * mapTile m
/-- The space of a local or pooled source. -/
def mapSpace (m : BitVec 128) : Nat := 2 + mapKind m

/-- Where granule g of the chunk at X of row i lies under a rotation code (R65). -/
def rotated (x i c g : Nat) : Nat := x + 16 * ((bitsAt x 4 5 + g + i * c) % 32) - 16 * bitsAt x 4 5

/-- The map entry that a local or pooled source lies on, when its range has a format (R70, R342). -/
def State.mapRange (s : State) (pair : Nat) (m : BitVec 128) : Option MapEntry :=
  if 2 ≤ mapKind m then none
  else match (s.pair (homePair pair (mapSpace m) (mapBase m))).mapAt (mapBase m % 2 ^ 19) with
    | some (_, e) => if e.fmt = 0 ∧ e.blk = 0 then none else some e
    | none => none

/-- FMT and BLK of a source; the format of a plain source comes from its map (R342, R343). -/
def State.mapFormat (s : State) (pair : Nat) (m : BitVec 128) : Option (Nat × Nat) :=
  match s.mapRange pair m with
  | some e => if mapFmt m = 0 ∧ fmtValid e.fmt e.blk then some (e.fmt, e.blk) else none
  | none => if 1 ≤ mapFmt m ∧ mapFmt m ≤ 9 then some (mapFmt m, 0) else none

/-- Two formats may meet in a matrix operation (R343). -/
def fmtsMeet (a b : Nat × Nat) : Bool :=
  let fits (x : Nat × Nat) : Bool := x.2 == 0 || chunkElems x.1 % blkElems x.2 == 0
  fmtBits a.1 == fmtBits b.1 && fmtIsInt a.1 == fmtIsInt b.1 && (decide (a.1 < 8) || a.1 == b.1) && fits a && fits b

/-- The byte or element ranges of a local or pooled source: every chunk of every row, granule by granule where it is plain (R345
step 2). -/
def mapPrint (m : BitVec 128) (fmt : Option Nat) (rows : List Nat) (nk : Nat) : List (Nat × Nat) :=
  rows.zipIdx.flatMap (fun r => (List.range nk).flatMap (fun k =>
    let x := mapOff m r.1 k
    match fmt with
    | some f => [(x, chunkElems f)]
    | none => (List.range 3).map (fun g => (rotated x r.1 (mapRot m) g, 16))))

/-- A chunk of a format range starts on a block boundary and lies in one line of the same entry, with no hole (R342). -/
def chunkFits (p : Pair) (e : MapEntry) (off : Nat) : Bool :=
  let n := chunkElems e.fmt
  let i := off - e.soff * 256
  (match p.mapAt off with | some (_, f) => decide (f = e) | none => false) && (e.blk == 0 || i % blkElems e.blk == 0) &&
    i / lineElems e.fmt e.blk == (i + n - 1) / lineElems e.fmt e.blk && decide (i + n ≤ pageElems e.fmt e.blk (e.slen * 256))

/-! ## Tiles -/

/-- A tile of a team. -/
def Team.tile (t : Team) (n : Nat) : Tile := tabGet Tile.zero t.tiles n
/-- Replaces a tile. -/
def Team.putTile (t : Team) (n : Nat) (v : Tile) : Team := { t with tiles := tabPut Tile.zero t.tiles n v }
/-- The number of a field's tile. -/
def tileOf (f : Fld) : Nat := f.n - 96
/-- Element (r, c) of a tile. -/
def Tile.get (t : Tile) (r c : Nat) : Word := if r < 16 then tabGet 0 t.upper.elems (16 * r + c) else tabGet 0 t.lower.elems (16 * (r - 16) + c)
/-- Replaces an element. -/
def Tile.put (t : Tile) (r c : Nat) (v : Word) : Tile :=
  if r < 16 then { t with upper := { t.upper with elems := tabPut 0 t.upper.elems (16 * r + c) v } }
  else { t with lower := { t.lower with elems := tabPut 0 t.lower.elems (16 * (r - 16) + c) v } }
/-- Sets the marks that a form with or without P writes (R340). -/
def Tile.mark (t : Tile) (p : Bool) (m : TileMark) : Tile :=
  { t with upper := { t.upper with mark := m }, lower := if p then { t.lower with mark := m } else t.lower }
/-- The rows of a form (R340). -/
def rowsOf (p : Bool) : Nat := if p then 32 else 16

/-- The trap of a marked tile (R340, R376). -/
def Tile.trap (t : Tile) (p : Bool) (n : Nat) : Option Trap :=
  let of (m : TileMark) : Option Trap := match m with
    | .none => none
    | .lost => some { code := .accLost, detail := BitVec.ofNat 64 n }
    | .err c a => some { code := c, detail := a.setWidth 64 }
  match of t.upper.mark with
  | some x => some x
  | none => if p then of t.lower.mark else none

/-- A tile that the team has (R340). -/
def State.hasTile (s : State) (t : Team) (n : Nat) : Bool := decide (n < ((s.grid t.grid).map (fun g => g.launch.accum)).getD 0)

/-! ## Abaci and leases -/

/-- The abacus of a layer of a pair. -/
def State.abacus (s : State) (pair layer : Nat) : Abacus := tabGet Abacus.idle (s.pair pair).abaci layer
/-- Replaces an abacus. -/
def State.putAbacus (s : State) (pair layer : Nat) (a : Abacus) : State :=
  s.putPair pair { s.pair pair with abaci := tabPut Abacus.idle (s.pair pair).abaci layer a }
/-- The layers that a lease of a team covers (R341). -/
def leaseLayers (t : Team) (p : Bool) : List Nat := if p then [0, 1] else [t.layer]

/-- Ends every lease of a team (R374). -/
def State.endLease (s : State) (t : Team) : State :=
  [0, 1].foldl (fun s l =>
    let a := s.abacus t.pair l
    if a.holder = some t.uid then s.putAbacus t.pair l { a with holder := none } else s) s

/-- The abacus of a team accepts an operation (R345). -/
def State.accept (s : State) (t : Team) (o : MatOp) : State :=
  let a := s.abacus t.pair t.layer
  s.putAbacus t.pair t.layer { a with ops := a.ops ++ [o] }

/-- An operation with nothing but its team, kind, PC, word, P and tile. -/
def MatOp.of (t : Team) (kind : MatKind) (word : DWord) (p : Bool) (tile : Nat) : MatOp :=
  { team := t.uid, kind := kind, pc := t.ctl.pc, word := word, p := p, tile := tile, mapA := 0, mapB := 0, rowsA := [], nk := 0, next := 0, bufA := [],
    bufB := [], ty := 0, fmt := 0, md := 0, slot := none, acc := false, rows := [], scales := [] }

/-- MACQ (R341). -/
def macqCtl (w : FWord) (s : State) (t : Team) : State :=
  ctlPass s t (plainMod w 512 && fldOk .ctl .none (fldD w) && fldOk .ctl .none (fldA w) && fldOk .ctl .none (fldB w)) (fToWord 0xC1 w)
    w.g w.gn clsOnce [] [] (fun s t =>
      let p := w.md.getLsbD 8
      let s := if p = t.leaseP then s else s.endLease t
      s.ctlDone { t with quantum := w.md.toNat % 256 + 1, leaseP := p, lc := if p = t.leaseP then t.lc else 0 })
/-- MACQ. -/
def execMacq (w : FWord) (s : State) : Host.Outcome State Fault Refusal := answer (byStream s (notInVec 0xC1 w) (macqCtl w))

/-- MREL (R341). -/
def mrelCtl (w : FWord) (s : State) (t : Team) : State :=
  ctlPass s t (plainMod w 1 && fldOk .ctl .none (fldD w) && fldOk .ctl .none (fldA w) && fldOk .ctl .none (fldB w)) (fToWord 0xC2 w)
    w.g w.gn clsOnce [] [] (fun s t => (s.endLease t).ctlDone { t with lc := 0 })
/-- MREL. -/
def execMrel (w : FWord) (s : State) : Host.Outcome State Fault Refusal := answer (byStream s (notInVec 0xC2 w) (mrelCtl w))

/-- MZERO (R346): the mark goes at issue, the elements in the abacus's order. -/
def mzeroCtl (w : FWord) (s : State) (t : Team) : State :=
  let n := tileOf (fldD w)
  ctlPass s t (plainMod w 2 && fldOk .ctl .tile (fldD w) && s.hasTile t n && fldOk .ctl .none (fldA w) && fldOk .ctl .none (fldB w))
    (fToWord 0xC3 w) w.g w.gn clsOnce [] [] (fun s t =>
      let p := w.md.getLsbD 0
      (s.accept t (MatOp.of t .mzero (fToWord 0xC3 w) p n)).ctlDone (t.putTile n ((t.tile n).mark p .none)))
/-- MZERO. -/
def execMzero (w : FWord) (s : State) : Host.Outcome State Fault Refusal := answer (byStream s (notInVec 0xC3 w) (mzeroCtl w))

/-! ## Footprints at issue -/

/-- Step 2 of R345 on ranges of a local or pooled source, through c1 or c2. -/
def State.matCaps (s : State) (t : Team) (space : Nat) (l : List (Nat × Nat)) : Option Trap :=
  l.findSome? (fun r => capCheck .ctl permLD 1 (s.extentOf t.pair) (r.1 : Int) r.2 (t.ctl.getC (space - 1)))

/-- Step 3 of R345: range locks. -/
def State.matLocks (s : State) (pair space : Nat) (write : Bool) (l : List (Nat × Nat)) : Option Trap :=
  l.findSome? (fun r =>
    if (s.pair (homePair pair space r.1)).lockHit space r.1 r.2 write then some { code := .rangeLocked, detail := BitVec.ofNat 64 (r.1 % 2 ^ 32) }
    else none)

/-- Step 6 of R345: the fills of the mapped sectors that byte ranges touch. -/
def State.matFills (s : State) (pair : Nat) (who : Who) : List (Nat × Nat × Nat) → State × Option Wait
  | [] => (s, none)
  | (space, a, n) :: l =>
    match s.sectorWait (homePair pair space a) (a % 2 ^ 19) n who false with
    | (s, some w) => (s, some w)
    | (s, none) => s.matFills pair who l

/-- The bytes that a chunk of a source lies on: of a format range its data and scale bytes (R98, R342). -/
def mapBytes (m : BitVec 128) (e : Option MapEntry) (rows : List Nat) (nk : Nat) : List (Nat × Nat × Nat) :=
  match e with
  | none => (mapPrint m none rows nk).map (fun r => (mapSpace m, r.1, r.2))
  | some e => (mapPrint m (some e.fmt) rows nk).flatMap (fun r =>
      let col := r.1 / 2 ^ 19 * 2 ^ 19
      let i := r.1 % 2 ^ 19 - e.soff * 256
      let at_ := elemPlace e.fmt e.blk i
      let base := col + e.soff * 256
      (mapSpace m, base + at_.1, r.2 * fmtBits e.fmt / 8) ::
        (if e.blk = 0 then [] else [(mapSpace m, base + at_.2.2, ceilDiv r.2 (blkElems e.blk))]))

/-- A list of 16-bit indices at a local or pooled offset (R344, R348). -/
structure IdxList where
  space : Nat
  off : Nat
  n : Nat
  deriving DecidableEq, Repr

/-- Step 1 of R345 for an index list: on a format range it is refused as other byte reads are (R96) (DEDUCED, log 44). -/
def State.idxForm (s : State) (t : Team) (x : IdxList) : Option Trap :=
  if (s.pair (homePair t.pair x.space x.off)).onFormat (x.off % 2 ^ 19) (2 * x.n) then some { code := .formatMismatch, detail := BitVec.ofNat 64 (x.off % 2 ^ 32) }
  else none

/-- Step 2 of R345 for an index list. -/
def State.idxCaps (s : State) (t : Team) (x : IdxList) : Option Trap := s.matCaps t x.space [(x.off, 2 * x.n)]

/-- Step 3 of R345 for an index list. -/
def State.idxLocks (s : State) (t : Team) (x : IdxList) : Option Trap := s.matLocks t.pair x.space false [(x.off, 2 * x.n)]

/-- The indices of a list, once its sectors have left F; none before, or when they are poisoned. -/
def State.idxRead (s : State) (t : Team) (x : IdxList) : Option (List Nat) :=
  let p := s.pair (homePair t.pair x.space x.off)
  if (p.unfilled (x.off % 2 ^ 19) (2 * x.n)).isSome ∨ p.poisoned (x.off % 2 ^ 19) (2 * x.n) then none
  else some ((List.range x.n).map (fun i => leNat (memBytes p.pad (x.off % 2 ^ 19 + 2 * i) 2)))

/-- What an index list that cannot be read leads to: issue waits for its fills, or its poison is raised (R345, R399). The list is waited for
before the lease, since the rows it names are checked before (DEDUCED, log 44). -/
def State.idxStop (s : State) (t : Team) (x : IdxList) : State × Stop :=
  match s.matFills t.pair ⟨t.uid, none, 0⟩ [(x.space, x.off, 2 * x.n)] with
  | (s, some w) => (s, .block w)
  | (s, none) => (s, .trap { code := .poison, detail := BitVec.ofNat 64 (x.off % 2 ^ 32) })

/-- The rows that a form with or without an index list names; none while the list cannot be read. -/
def State.rowsNamed (s : State) (t : Team) (p : Bool) (x : Option IdxList) : Option (List Nat) :=
  match x with
  | none => some (List.range (rowsOf p))
  | some x => s.idxRead t x

/-- The control thread stops at a matrix instruction. -/
def State.matStop (s : State) (t : Team) (e : Stop) : State :=
  match e with
  | .trap tr => s.trapCtl t tr
  | .block b => s.ctlBlock t b

/-- What R343 asks of a vector-register or queue source. -/
def State.sourceForm (s : State) (t : Team) (m : BitVec 128) (rows : List Nat) (nk : Nat) (hi : DWord) : Option Trap :=
  let illegal : Option Trap := some { code := .illegalOperand, detail := hi }
  match mapKind m with
  | 2 =>
    match t.rank (mapBase m % 32) with
    | none => illegal
    | some r =>
      if r.ended || decide (r.width < rows.length) || rows.any (fun i => decide (r.width ≤ i)) ||
          decide (r.top < bitsAt (mapBase m) 5 11 + mapTile m * (nk - 1) + 12) then illegal else none
  | 3 =>
    let q := mapBase m % 16
    if (tabGet Endpoint.unbound t.ends q).kind = none then some { code := .queueFault, detail := BitVec.ofNat 64 q } else none
  | _ => if mapRot m ≠ 0 ∧ (s.mapRange t.pair m).isSome then illegal else none

/-- Step 1 of R345 but for the chunks of format ranges: R343, with the formats known. -/
def State.matForms (s : State) (t : Team) (o : MatOp) (hi : DWord) : Option Trap :=
  match s.mapFormat t.pair o.mapA, s.mapFormat t.pair o.mapB with
  | some fa, some fb =>
    if !fmtsMeet fa fb then some { code := .formatMismatch, detail := BitVec.ofNat 64 (mapBase o.mapA) }
    else match s.sourceForm t o.mapA o.rowsA o.nk hi with
      | some tr => some tr
      | none => s.sourceForm t o.mapB (List.range 16) o.nk hi
  | _, _ => some { code := .formatMismatch, detail := BitVec.ofNat 64 (mapBase o.mapA) }

/-- What R342 asks of the chunks of a format range, and R343 of a plain source, none of whose chunks may lie on one. -/
def State.sourceChunks (s : State) (t : Team) (m : BitVec 128) (rows : List Nat) (nk : Nat) : Option Trap :=
  if 2 ≤ mapKind m then none
  else
    let bad (r : Nat × Nat) : Bool :=
      let p := s.pair (homePair t.pair (mapSpace m) r.1)
      match s.mapRange t.pair m with
      | some e => !chunkFits p e (r.1 % 2 ^ 19)
      | none => p.onFormat (r.1 % 2 ^ 19) r.2
    ((mapPrint m ((s.mapRange t.pair m).map (fun e => e.fmt)) rows nk).find? bad).map
      (fun r => { code := .formatMismatch, detail := BitVec.ofNat 64 (r.1 % 2 ^ 32) })

/-- The ranges of a local or pooled source, which the capabilities and range locks check. -/
def State.sourcePrint (s : State) (t : Team) (m : BitVec 128) (rows : List Nat) (nk : Nat) : List (Nat × Nat) :=
  if 2 ≤ mapKind m then [] else mapPrint m ((s.mapRange t.pair m).map (fun e => e.fmt)) rows nk

/-- Step 2 of R345 for a source. -/
def State.sourceCaps (s : State) (t : Team) (m : BitVec 128) (rows : List Nat) (nk : Nat) : Option Trap :=
  s.matCaps t (mapSpace m) (s.sourcePrint t m rows nk)

/-- Step 3 of R345 for a source. -/
def State.sourceLocks (s : State) (t : Team) (m : BitVec 128) (rows : List Nat) (nk : Nat) : Option Trap :=
  s.matLocks t.pair (mapSpace m) false (s.sourcePrint t m rows nk)

/-- The bytes of a source whose fills are waited for. -/
def State.sourceBytes (s : State) (t : Team) (m : BitVec 128) (rows : List Nat) (nk : Nat) : List (Nat × Nat × Nat) :=
  if 2 ≤ mapKind m then [] else mapBytes m (s.mapRange t.pair m) rows nk

/-! ## MMA and MMAG -/

/-- The checks of R345 on an MMA up to its lease, in their order; those on the rows of A wait until an index list can be read. -/
def State.mmaTrap (s : State) (t : Team) (o : MatOp) (x : Option IdxList) (hi : DWord) : Option Trap :=
  let b := List.range 16
  [s.matForms t o hi, s.sourceChunks t o.mapA o.rowsA o.nk, s.sourceChunks t o.mapB b o.nk, x.bind (s.idxForm t),
    s.sourceCaps t o.mapA o.rowsA o.nk, s.sourceCaps t o.mapB b o.nk, x.bind (s.idxCaps t),
    s.sourceLocks t o.mapA o.rowsA o.nk, s.sourceLocks t o.mapB b o.nk, x.bind (s.idxLocks t),
    (t.tile o.tile).trap o.p o.tile, if o.p && !t.leaseP then some { code := .illegalOperand, detail := hi } else none].findSome? id

/-- MMA at issue (R343, R345). -/
def mmaIssue (o : MatOp) (x : Option IdxList) (hi : DWord) (s : State) (t : Team) : State :=
  let rows := s.rowsNamed t o.p x
  let o := { o with rowsA := rows.getD [] }
  match s.mmaTrap t o x hi, rows, x with
  | some tr, _, _ => s.trapCtl t tr
  | none, none, some x => (s.idxStop t x).1.matStop t (s.idxStop t x).2
  | none, _, _ =>
    if t.lc = 0 then s.ctlBlock t (.lease t.leaseP)
    else match s.matFills t.pair ⟨t.uid, none, 0⟩ (s.sourceBytes t o.mapA o.rowsA o.nk ++ s.sourceBytes t o.mapB (List.range 16) o.nk) with
      | (s, some b) => s.ctlBlock t b
      | (s, none) =>
        let s := s.accept t o
        let s := if t.lc = 1 then s.endLease t else s
        s.ctlDone { t with lc := t.lc - 1 }

/-- MMA and MMAG in the control stream. -/
def mmaCtl (op : BitVec 8) (gather : Bool) (w : FWord) (s : State) (t : Team) : State :=
  let n := tileOf (fldD w)
  let a := mapAt t.ctl w.a.toNat
  let b := mapAt t.ctl w.b.toNat
  let p := w.md.getLsbD 0
  ctlPass s t (plainMod w 512 && fldOk .ctl .tile (fldD w) && s.hasTile t n && fldOk .ctl .spair (fldA w) && fldOk .ctl .spair (fldB w))
    (fToWord op w) w.g w.gn clsOnce (ctlKeysOf .spair (fldA w) ++ ctlKeysOf .spair (fldB w)) [] (fun s t =>
      let s := s.landCtl t.uid
      let o := { MatOp.of t .mma (fToWord op w) p n with mapA := a, mapB := b, nk := bitsAt w.md.toNat 1 8 + 1 }
      if !mapOk a gather || !mapOk b false then s.trapCtl t { code := .illegalOperand, detail := fHi op w }
      else mmaIssue o (if gather then some ⟨2 + mapIkind a, mapIbase a, rowsOf p⟩ else none) (fHi op w) s t)

/-- MMA. -/
def execMma (w : FWord) (s : State) : Host.Outcome State Fault Refusal := answer (byStream s (notInVec 0xC4 w) (mmaCtl 0xC4 false w))
/-- MMAG. -/
def execMmag (w : FWord) (s : State) : Host.Outcome State Fault Refusal := answer (byStream s (notInVec 0xC5 w) (mmaCtl 0xC5 true w))

/-! ## Tile loads and stores at issue -/

/-- The bytes of a type code of MLOAD and MSTORE (R331). -/
def tileBytes (ty : Nat) : Nat := if ty = 0 then 4 else 2

/-- A row of a tile load or store as an access of the control thread. -/
def tileReq (t : Team) (c : TCap) (a : Nat) : MemReq := t.memReq (c, (a : Int)) false

/-- Step 2 of R345 for the rows of a tile load or store: steps 1 to 5 of R25 on each. -/
def State.rowCaps (s : State) (t : Team) (c : TCap) (need align len : Nat) (l : List Nat) : Option Trap :=
  l.findSome? (fun (a : Nat) => capCheck .ctl need align (s.extentOf t.pair) (a : Int) len c)

/-- Step 3 of R345 for them. -/
def State.rowLocks (s : State) (t : Team) (c : TCap) (len : Nat) (write : Bool) (l : List Nat) : Option Trap :=
  l.findSome? (fun a => s.rangeTrap (tileReq t c a) len write)

/-- The plain pieces of rows: translation and homes, the first stop first (R346, R347). -/
def State.tileRows (s : State) (t : Team) (c : TCap) (leaf len : Nat) : List Nat → State × Except Stop (List (List Piece))
  | [] => (s, .ok [])
  | a :: l =>
    -- poison met by a load marks the tile: the plan does not look for it
    match s.planMem (tileReq t c a) leaf len false (List.replicate len 0) false false with
    | (s, .error e) => (s, .error e)
    | (s, .ok p) =>
      match s.tileRows t c leaf len l with
      | (s, .error e) => (s, .error e)
      | (s, .ok ps) => (s, .ok (p.pieces :: ps))

/-- The addresses of rows under a capability. -/
def rowAddrs (c : TCap) (pitch : Nat) (l : List Nat) : List Nat := l.map (fun r => capCursor c + r * pitch)

/-- MLOAD (R346). -/
def mloadCtl (w : FWord) (s : State) (t : Team) : State :=
  let n := tileOf (fldD w)
  let p := w.md.getLsbD 0
  let ty := bitsAt w.md.toNat 1 2
  ctlPass s t (plainMod w 8 && decide (ty ≠ 3) && fldOk .ctl .tile (fldD w) && s.hasTile t n && fldOk .ctl .quad (fldA w) && fldOk .ctl .wide (fldB w))
    (fToWord 0xC6 w) w.g w.gn clsOnce (ctlKeysOf .quad (fldA w) ++ ctlKeysOf .wide (fldB w)) [] (fun s t =>
      let s := s.landCtl t.uid
      let c := t.ctl.getC (w.a.toNat - 64)
      let pitch := (t.ctl.getS w.b.toNat).toNat % 2 ^ 32
      let addrs := rowAddrs c pitch (List.range (rowsOf p))
      let len := 16 * tileBytes ty
      match (s.rowCaps t c permLD 1 len addrs).or (s.rowLocks t c len false addrs) with
      | some tr => s.trapCtl t tr
      | none =>
        match s.tileRows t c needR len addrs with
        | (s, .error e) => s.matStop t e
        | (s, .ok rows) =>
          (s.accept t { MatOp.of t .mload (fToWord 0xC6 w) p n with ty := ty, rows := rows, rowsA := addrs }).ctlDone (t.putTile n ((t.tile n).mark p .none)))
/-- MLOAD. -/
def execMload (w : FWord) (s : State) : Host.Outcome State Fault Refusal := answer (byStream s (notInVec 0xC6 w) (mloadCtl w))

/-- The element pieces of one row of a format destination: data pieces and the scale bytes they touch (R97, R347). -/
def State.tileElems (s : State) (t : Team) (c : TCap) (fmt : Nat) : List Nat → State × Except Stop (List Piece × List Piece)
  | [] => (s, .ok ([], []))
  | a :: l =>
    match s.elemAt (tileReq t c a) needW false with
    | (s, .error e) => (s, .error e)
    | (s, .ok e) =>
      if !e.sparse && 4 * e.fmt + e.blk != fmt then (s, .error (formatTrap a))
      else
        let data := e.piece e.data (if 8 ≤ e.fmt then 2 else 1) [] (if fmtBits e.fmt = 4 then some (15 * 2 ^ e.bit) else none)
        match s.tileElems t c fmt l with
        | (s, .error x) => (s, .error x)
        | (s, .ok (d, sc)) =>
          (s, .ok ({ data with sparse := e.sparse } :: d,
            if e.sparse ∨ e.blk = 0 ∨ sc.any (fun p => decide (p.home = e.scale)) then sc else e.piece e.scale 1 [] none :: sc))

/-- tileElems over rows of 16 units. -/
def State.tileElemRows (s : State) (t : Team) (c : TCap) (fmt : Nat) : List Nat → State × Except Stop (List (List Piece) × List Piece)
  | [] => (s, .ok ([], []))
  | a :: l =>
    match s.tileElems t c fmt ((List.range 16).map (fun i => a + i)) with
    | (s, .error e) => (s, .error e)
    | (s, .ok (d, x)) =>
      match s.tileElemRows t c fmt l with
      | (s, .error e) => (s, .error e)
      | (s, .ok (ds, y)) => (s, .ok (d :: ds, x ++ y.filter (fun p => !x.any (fun o => decide (o.home = p.home)))))

/-- The format of a tile store's destination, 4 FMT + BLK: that of the first row whose page is present. None when a page is absent
before; a destination of sparse pages alone counts as plain (DEDUCED, log 29). -/
def State.destFmt (s : State) (t : Team) (c : TCap) : List Nat → State × Option Nat
  | [] => (s, some 0)
  | a :: l =>
    let space := capSpace c
    if space = 1 ∨ space = 4 then
      match s.translate t.req a 0 with
      | (s, .page p) => (s, some (4 * p.fmt + p.blk))
      | (s, .sparse) => s.destFmt t c l
      | (s, _) => (s, none)
    else if space = 2 ∨ space = 3 then
      (s, some (match (s.pair (homePair t.pair space a)).mapAt (a % 2 ^ 19) with | some (_, m) => 4 * m.fmt + m.blk | none => 0))
    else (s, some 0)

/-- The checks of R345 on a tile store up to its translation, in their order; a unit is a byte on plain memory and an element on a format
destination, and where no page says which, one address of each unit is checked (R347). -/
def State.storeTrap (s : State) (t : Team) (o : MatOp) (c : TCap) (fmt : Option Nat) (x : Option IdxList) (addrs : List Nat) : Option Trap :=
  let len := if o.acc ∨ fmt = some 0 then 16 * tileBytes o.ty else 16
  [x.bind (s.idxForm t), s.rowCaps t c (if o.acc then permAT else permST) (if o.acc then 4 else 1) len addrs, x.bind (s.idxCaps t),
    s.rowLocks t c len true addrs, x.bind (s.idxLocks t), (t.tile o.tile).trap o.p o.tile].findSome? id

/-- MSTORE and MSTOREG at issue (R345, R347, R348). -/
def storeIssue (o : MatOp) (c : TCap) (pitch : Nat) (x : Option IdxList) (hi : DWord) (s : State) (t : Team) : State :=
  let illegal (s : State) : State := s.trapCtl t { code := .illegalOperand, detail := hi }
  let rows := s.rowsNamed t o.p x
  let addrs := rowAddrs c pitch (rows.getD [])
  let (s, fmt) := s.destFmt t c addrs
  match s.storeTrap t o c fmt x addrs, rows, x with
  | some tr, _, _ => s.trapCtl t tr
  | none, none, some x => (s.idxStop t x).1.matStop t (s.idxStop t x).2
  | none, _, _ =>
    let f := fmt.getD 0
    if f / 4 = 0 ∨ o.acc then
      if o.slot.isSome ∧ fmt.isSome then illegal s
      else match s.tileRows t c (if o.acc then needR + needW else needW) (16 * tileBytes o.ty) addrs with
        | (s, .error e) => s.matStop t e
        | (s, .ok rows) => (s.accept t { o with rows := rows }).ctlDone t
    else if 8 ≤ f / 4 ∧ o.slot.isSome then illegal s
    else match s.tileElemRows t c f addrs with
      | (s, .error e) => s.matStop t e
      | (s, .ok (rows, scales)) => (s.accept t { o with rows := rows, scales := scales, fmt := f }).ctlDone t

/-- MSTORE and MSTOREG in the control stream. -/
def mstoreCtl (op : BitVec 8) (gather : Bool) (w : FWord) (s : State) (t : Team) : State :=
  let n := tileOf (fldA w)
  let p := w.md.getLsbD 0
  let q := w.md.getLsbD 3
  let acc := gather && w.md.getLsbD 6
  let ty := bitsAt w.md.toNat 4 2
  ctlPass s t (plainMod w (if gather then 128 else 64) && decide (ty ≠ 3) && !(acc && (q || ty != 0)) && fldOk .ctl .quad (fldD w) &&
      fldOk .ctl .tile (fldA w) && s.hasTile t n && sRun (fldB w) (if gather then 2 else 1)) (fToWord op w) w.g w.gn clsOnce
    (ctlKeysOf .quad (fldD w) ++ w.b.toNat :: (if gather then [w.b.toNat + 1] else [])) [] (fun s t =>
      let c := t.ctl.getC (w.d.toNat - 64)
      let v := (t.ctl.getS w.b.toNat).toNat
      let x := (t.ctl.getS (w.b.toNat + 1)).toNat
      let o := { MatOp.of t .mstore (fToWord op w) p n with ty := ty, md := w.md, acc := acc, slot := if q then some (bitsAt v 32 8) else none }
      let hi := fHi op w
      if bitsAt v 40 24 ≠ 0 ∨ (gather ∧ 2 ≤ bitsAt x 24 2) then s.trapCtl t { code := .illegalOperand, detail := hi }
      else storeIssue o c (v % 2 ^ 32) (if gather then some ⟨2 + bitsAt x 24 2, bitsAt x 0 24, rowsOf p⟩ else none) hi s t)

/-- MSTORE. -/
def execMstore (w : FWord) (s : State) : Host.Outcome State Fault Refusal := answer (byStream s (notInVec 0xC7 w) (mstoreCtl 0xC7 false w))
/-- MSTOREG. -/
def execMstoreg (w : FWord) (s : State) : Host.Outcome State Fault Refusal := answer (byStream s (notInVec 0xC8 w) (mstoreCtl 0xC8 true w))

/-- AMAXSTEP (R349): it follows the thread's earlier MSTORE. -/
def amaxstepCtl (w : FWord) (s : State) (t : Team) : State :=
  ctlPass s t (plainMod w 1 && fldOk .ctl .none (fldD w) && fldOk .ctl .wide (fldA w) && fldOk .ctl .none (fldB w)) (fToWord 0xC9 w)
    w.g w.gn clsOnce (ctlKeysOf .wide (fldA w)) [] (fun s t =>
      (s.accept t { MatOp.of t .amaxstep (fToWord 0xC9 w) false 0 with slot := some ((t.ctl.getS w.a.toNat).toNat % 256) }).ctlDone t)
/-- AMAXSTEP. -/
def execAmaxstep (w : FWord) (s : State) : Host.Outcome State Fault Refusal := answer (byStream s (notInVec 0xC9 w) (amaxstepCtl w))

/-! ## Scale slots -/

/-- The maximum of a slot record's entries as FP32 values, one that is a NaN left out; 0 when all are (R103) (DESIGN CHOICE, log 74). -/
def slotMax (rec_ : Nat) : Fv :=
  match fpUnpack fp32 ((List.range 16).foldl (fun m i => fpMinMax fp32 true false m (bitsAt rec_ (32 * i) 32)) (bitsAt rec_ 0 32)) with
  | .nan => .fin false 0 0
  | v => v

/-- E from the maximum of a slot record's entries (R103); the record is the number its 128 bytes hold (DEDUCED, log 29). -/
def slotExp (fmt rec_ : Nat) : Int := scaleExp fmt (slotMax rec_)

/-- A record with a field of n bits at lo replaced. -/
def setBits (v lo n x : Nat) : Nat := v - bitsAt v lo n * 2 ^ lo + (x % 2 ^ n) * 2 ^ lo

/-- The record after a fold of a with E (R103). -/
def slotFold (rec_ : Nat) (a : Nat) (e : Int) : Nat :=
  let i := bitsAt rec_ 512 4
  setBits (setBits rec_ (32 * i) 32 (fpMinMax fp32 true false (bitsAt rec_ (32 * i) 32) a)) 520 8 (e % 256).toNat

/-- The record after AMAXSTEP (R104). -/
def slotStep (rec_ : Nat) : Nat :=
  let i := (bitsAt rec_ 512 4 + 1) % 16
  setBits (setBits rec_ 512 4 i) (32 * i) 32 0

/-- The address of scale slot n of a context (R102). -/
def State.slotAddr (s : State) (ctx n : Nat) : Nat := ((s.ctx ctx).map (fun c => c.ssbase)).getD 0 + 128 * n

/-- An atomic operation on slot n of a context at its home (R102 to R104): its result, and the time of its write (DEDUCED, log 29). -/
def State.slotAtomic (s : State) (t : Team) (n : Nat) (f : Nat → Nat × Int) : State × Int × Nat :=
  let va := s.slotAddr t.ctx n
  let open_ (s : State) : State × Int × Nat :=
    let (i, s) := s.newFree
    (s, ((Config.freeNat i % 255 : Nat) : Int) - 127, 0)
  match s.unitPage t.req va (needR + needW) with
  | (s, .page p) =>
    match s.readDev (p.base + p.off) 128 p.part with
    | (s, .error _) => open_ s
    | (s, .ok b) =>
      let (v, e) := f (leNat b)
      let (w, s) := s.homePut (.dev (p.base + p.off)) p.part (natLe 128 v)
      (s, e, w)
  | (s, _) => open_ s

/-- An operation on a scale slot, which waits with none of its effect while the slot's page is in migration (R58, R102). -/
def State.slotReady (s : State) (pair layer : Nat) (t : Team) (slot : Option Nat) (act : State → State) : State :=
  match slot with
  | none => act s
  | some n => s.whenMigrated (.abacus pair layer) t.req (needR + needW) (s.slotAddr t.ctx n) 128 act

/-! ## What the abacus does -/

/-- The values of a row of bytes in a format. -/
def rowValues (fmt : Nat) (bytes : List Byte) : List Fv :=
  let v := leNat bytes
  (List.range (chunkElems fmt)).map (fun e => elemValue fmt (bitsAt v (e * fmtBits fmt) (fmtBits fmt)))

/-- What reading an operand's chunk gives: the rows' values, nothing yet, or an error of the data with its address. -/
inductive Operand where
  | rows (l : List (List Fv))
  | wait
  | bad (code : TrapCode) (addr : Nat)

/-- One row's chunk of a local or pooled source (R65, R342, R344). -/
def State.rowMem (s : State) (pair : Nat) (m : BitVec 128) (i k : Nat) : Operand :=
  let x := mapOff m i k
  let p := s.pair (homePair pair (mapSpace m) x)
  match s.mapRange pair m with
  | none =>
    let fmt := mapFmt m
    let at_ (g : Nat) : Nat := rotated x i (mapRot m) g % 2 ^ 19
    if [0, 1, 2].any (fun g => p.poisoned (at_ g) 16) then .bad .poison x
    else if [0, 1, 2].any (fun g => (p.mappedIn (at_ g) 16).any (fun sec => decide ((p.sector sec).st = .f) || decide ((p.sector sec).st = .u))) then .wait
    else .rows [rowValues fmt ([0, 1, 2].flatMap (fun g => memBytes p.pad (at_ g) 16))]
  | some e =>
    let i0 := x % 2 ^ 19 - e.soff * 256
    let one (j : Nat) : Fv × Bool :=
      let at_ := elemPlace e.fmt e.blk (i0 + j)
      let n := if 8 ≤ e.fmt then 2 else 1
      let v := elemValue e.fmt (leNat (memBytes p.pad (e.soff * 256 + at_.1) n) >>> at_.2.1)
      let c := (tabGet 0 p.pad (e.soff * 256 + at_.2.2)).toNat
      (if e.blk = 0 then v else if c = 255 then .nan else v.scale ((c : Int) - 127),
        p.poisoned (e.soff * 256 + at_.1) n || (e.blk != 0 && p.poisoned (e.soff * 256 + at_.2.2) 1))
    let l := (List.range (chunkElems e.fmt)).map one
    if l.any (fun v => v.2) then .bad .poison x else .rows [l.map (fun v => v.1)]

/-- One row's chunk of a vector-register source: a thread's 12 registers, each once it is full (R342, R345). -/
def rowRegs (r : Rank) (m : BitVec 128) (i k : Nat) : Operand :=
  let regs := (List.range 12).map (fun n => r.vreg i (bitsAt (mapBase m) 5 11 + mapTile m * k + n))
  match regs.find? (fun v => v.err.isSome) with
  | some v => .bad (v.err.map (fun e => e.1) |>.getD .poison) ((v.err.map (fun e => e.2.toNat)).getD 0)
  | none =>
    if regs.all (fun v => v.full) then .rows [rowValues (mapFmt m) (regs.flatMap (fun v => natLe 4 v.val.toNat))] else .wait

/-- The rows of operands one after the other. -/
def gatherRows : List Operand → Operand
  | [] => .rows []
  | o :: l =>
    match o with
    | .wait => .wait
    | .bad c a => .bad c a
    | .rows r => match gatherRows l with
      | .rows rs => .rows (r ++ rs)
      | x => x

/-- An operand of an operation at its next chunk; `buf` holds the words of a queue source (R342). -/
def State.operand (s : State) (t : Team) (m : BitVec 128) (rows : List Nat) (k : Nat) (buf : List DWord) : Operand :=
  match mapKind m with
  | 2 =>
    match t.rank (mapBase m % 32) with
    | none => .bad .regUnallocated 0
    | some r => gatherRows (rows.map (fun i => rowRegs r m i k))
  | 3 =>
    if buf.length < 6 * rows.length then .wait
    else .rows ((List.range rows.length).map (fun i => rowValues (mapFmt m) (((buf.drop (6 * i)).take 6).flatMap (fun w => natLe 8 w.toNat))))
  | _ => gatherRows (rows.map (fun i => s.rowMem t.pair m i k))

/-- Takes response words from the endpoint of a queue source, up to what a chunk needs (R342). -/
def drawWords (t : Team) (m : BitVec 128) (rows : Nat) (buf : List DWord) : Team × List DWord :=
  if mapKind m ≠ 3 then (t, buf)
  else
    let q := mapBase m % 16
    let e := tabGet Endpoint.unbound t.ends q
    let n := 6 * rows - buf.length
    ({ t with ends := tabPut Endpoint.unbound t.ends q { e with words := e.words.drop n } }, buf ++ e.words.take n)

/-- One K-chunk added to a tile: one rounding each (R344). -/
def addChunk (t : Tile) (a b : List (List Fv)) : Tile :=
  a.zipIdx.foldl (fun t ra => b.zipIdx.foldl (fun t rb =>
    let s := fvSum .rne (List.zipWith Fv.mul ra.1 rb.1)
    t.put ra.2 rb.2 (BitVec.ofNat 32 (fpSum fp32 .rne [f32 (t.get ra.2 rb.2), s]))) t) t

/-- The abacus is done with its operation number i, or with a part of it that leaves `next` to do. -/
def State.retire (s : State) (pair layer i : Nat) (next : Option MatOp) : State :=
  let a := s.abacus pair layer
  let ops := match next with
    | some n => listPut a.ops i n
    | none => a.ops.eraseIdx i
  s.putAbacus pair layer { a with ops := ops, last := s.gt, ready := none }

/-- Operation number i of an abacus marks its tile with an error, but for the halves that a later MZERO or MLOAD of the team, which cleared
their marks as it issued, is still to write (R340, R346). -/
def State.failTile (s : State) (layer i : Nat) (t : Team) (o : MatOp) (v : Tile) (code : TrapCode) (a : Nat) : Tile :=
  let later := ((s.abacus t.pair layer).ops.drop (i + 1)).filter (fun q =>
    q.team == o.team && q.tile == o.tile && (decide (q.kind = .mzero) || decide (q.kind = .mload)))
  let m : TileMark := .err code (BitVec.ofNat 32 a)
  { upper := if later.isEmpty then { v.upper with mark := m } else v.upper
    lower := if o.p && !later.any (fun q => q.p) then { v.lower with mark := m } else v.lower }

/-- One chunk of an MMA, its operands ready (R344, R345): an error of an operand marks the tile. -/
def State.mmaChunk (s : State) (layer i : Nat) (t : Team) (o : MatOp) : State :=
  let (t, bufA) := drawWords t o.mapA o.rowsA.length o.bufA
  let (t, bufB) := drawWords t o.mapB 16 o.bufB
  let next : Option MatOp := if o.next + 1 < o.nk then some { o with next := o.next + 1, bufA := [], bufB := [] } else none
  let done (v : Tile) : State := (s.putTeam (t.putTile o.tile v)).retire t.pair layer i next
  let marked (c : TrapCode) (a : Nat) : State := done (s.failTile layer i t o (t.tile o.tile) c a)
  match s.operand t o.mapA o.rowsA o.next bufA, s.operand t o.mapB (List.range 16) o.next bufB with
  | .bad c a, _ => marked c a
  | _, .bad c a => marked c a
  | .rows a, .rows b => done (addChunk (t.tile o.tile) a b)
  | _, _ => s

/-! ## Tile loads and stores in the abacus -/

/-- The bytes of the pieces of a row, or the error that a piece met (R346). -/
def State.readPieces (s : State) (addr : Nat) : List Piece → State × Except EngStop (List Byte)
  | [] => (s, .ok [])
  | p :: l =>
    match s.chunkRead addr ⟨if p.sparse then none else some p.home, p.len, p.part⟩ with
    | (s, .error e) => (s, .error e)
    | (s, .ok (b, _)) =>
      match s.readPieces (addr + p.len) l with
      | (s, .error e) => (s, .error e)
      | (s, .ok c) => (s, .ok (b ++ c))

/-- The words of a row of a type code (R346): exact in FP32. -/
def rowWords (ty : Nat) (bytes : List Byte) : List Word :=
  (List.range 16).map (fun c =>
    let v := leNat ((bytes.drop (c * tileBytes ty)).take (tileBytes ty))
    if ty = 0 then BitVec.ofNat 32 v else w32 (fpUnpack (if ty = 1 then fp16 else bf16) v))

/-- MLOAD row by row: an error of the data marks the tile by `fail` (R346). -/
def State.loadRows (s : State) (fail : Tile → TrapCode → Nat → Tile) (o : MatOp) : List (Nat × Nat × List Piece) → Tile → State × Tile
  | [], v => (s, v)
  | (r, addr, ps) :: l, v =>
    match s.readPieces addr ps with
    | (s, .ok b) => s.loadRows fail o l ((rowWords o.ty b).zipIdx.foldl (fun v w => v.put r w.2 w.1) v)
    | (s, .error (.stop c a)) => s.loadRows fail o l (fail v c a)
    | (s, .error _) => s.loadRows fail o l v

/-- A list in an order that is an open choice (DESIGN CHOICE, log 30). -/
def State.shuffled {α : Type} (s : State) (l : List α) : Nat → State × List α
  | 0 => (s, [])
  | n + 1 =>
    let (i, s) := s.newFree
    let k := Config.freeNat i % l.length
    match l[k]? with
    | none => (s, [])
    | some a =>
      let (s, r) := s.shuffled (l.eraseIdx k) n
      (s, a :: r)

/-- A write of bytes to pieces in turn, as stores of the control thread (R345): their greatest W. -/
def State.putPieces (s : State) (pair : Nat) : List Piece → List Byte → Nat × State
  | [], _ => (0, s)
  | p :: l, bytes =>
    let (w, s) := if p.sparse then (0, s) else
      let p := { p with data := bytes.take p.len, order := s.order + 1 }
      let (w, s) := s.landPiece p
      match p.home with
      | .dev pa => (w, ((s.clearWords pa p.len).ackL1 pair p w))
      | _ => (w, s)
    let (v, s) := s.putPieces pair l (bytes.drop p.len)
    (max w v, s)

/-- The place of the 4 bytes that lie at byte b of the pieces of a row. -/
def pieceSpot : List Piece → Nat → Option Piece
  | [], _ => none
  | p :: l, b =>
    if b < p.len then
      if p.sparse then none
      else some { p with len := 4, home := (match p.home with
        | .dev a => .dev (a + b)
        | .pad q o => .pad q (o + b)
        | .host q a => .host q (a + b)) }
    else pieceSpot l (b - p.len)

/-- MSTOREG with ACC, one row: each element as an atomic of its own, past which the pair holds no older copy of it (R67, R348). -/
def State.addRow (s : State) (pair : Nat) (ps : List Piece) : List (Word × Nat) → Nat × State
  | [] => (0, s)
  | (v, c) :: l =>
    let (w, s) := match pieceSpot ps (4 * c) with
      | none => (0, s)
      | some p =>
        let r := { s.tear 0 p with order := s.order + 1 }.atomHome 10 10 (v.setWidth 64) 0 p
        (r.2.time, r.1.dropPieces pair [p])
    let (x, s) := s.addRow pair ps l
    (max w x, s)

/-- The bytes of an element's code in its data byte or bytes. -/
def codeBytes (p : Piece) (code : Nat) : List Byte :=
  if p.len = 2 then natLe 2 code
  else match p.mask with
    | some m => [BitVec.ofNat 8 (if m = 15 then code % 16 else code % 16 * 16)]
    | none => [BitVec.ofNat 8 code]

/-- MSTORE row by row (R347, R348): E of the scale slot has been taken (DESIGN CHOICE, log 30). -/
def State.storeRows (s : State) (pair : Nat) (o : MatOp) (e : Int) : List (List Word × List Piece) → Nat × State
  | [] => (0, s)
  | (ws, ps) :: l =>
    let rm := rmOf (bitsAt o.md.toNat 1 2)
    let (w, s) :=
      if o.acc then s.addRow pair ps ws.zipIdx
      else if o.fmt / 4 = 0 then
        let f := if o.ty = 0 then fp32 else if o.ty = 1 then fp16 else bf16
        s.putPieces pair ps (ws.flatMap (fun v => natLe (tileBytes o.ty) (fpRound f rm (f32 v))))
      else s.putPieces pair ps ((ws.zip ps).flatMap (fun v => codeBytes v.2 (elemEncode (o.fmt / 4) ((f32 v.1).scale e) rm true)))
    let (x, s) := s.storeRows pair o e l
    (max w x, s)

/-- The words of the rows that a form names. -/
def Tile.words (v : Tile) (p : Bool) : List (List Word) := (List.range (rowsOf p)).map (fun r => (List.range 16).map (fun c => v.get r c))

/-- MSTORE and MSTOREG in the abacus: the read-and-fold first, then the rows in no order, then the scale bytes (R103, R347). -/
def State.storeTile (s : State) (t : Team) (o : MatOp) : Nat × State :=
  let ws := (t.tile o.tile).words o.p
  let a := fpRound fp32 .rne (maxAbs (ws.flatten.map f32))
  let (s, e, w) := match o.slot with
    | none => (s, 0, 0)
    | some n => s.slotAtomic t n (fun r => let e := slotExp (o.fmt / 4) r; (slotFold r a e, e))
  let (s, rows) := s.shuffled (ws.zip o.rows) o.rows.length
  let (x, s) := s.storeRows t.pair o e rows
  let (y, s) := s.putPieces t.pair o.scales (o.scales.map (fun _ => BitVec.ofInt 8 (127 - e)))
  (max w (max x y), s)

/-! ## The events of the abacus -/

/-- The abacus is in the middle of an MMA; with `p`, of one with P. -/
def Abacus.mid (a : Abacus) (p : Bool) : Bool := a.ops.any (fun o => decide (o.kind = .mma) && (o.p || !p) && decide (0 < o.next))

/-- The operations that may run next: the first of each team on the abacus (R345), with their places. -/
def Abacus.heads (a : Abacus) : List (MatOp × Nat) := a.ops.zipIdx.filter (fun e => !(a.ops.take e.2).any (fun o => o.team == e.1.team))

/-- An operation may run: an MMA with its operands ready (R345), and an MMA with P only while the other abacus is in the middle of none
(R341). -/
def State.opReady (s : State) (other : Abacus) (o : MatOp) : Bool :=
  match s.team o.team with
  | none => true
  | some t =>
    match o.kind with
    | .mma =>
      let (t, bufA) := drawWords t o.mapA o.rowsA.length o.bufA
      let (t, bufB) := drawWords t o.mapB 16 o.bufB
      !(o.p && other.mid false) &&
        (match s.operand t o.mapA o.rowsA o.next bufA, s.operand t o.mapB (List.range 16) o.next bufB with
          | .bad .., _ => true
          | _, .bad .. => true
          | .rows _, .rows _ => true
          | _, _ => false)
    | _ => true

/-- The operation that an abacus runs next, with its place. -/
def State.nextOp (s : State) (pair layer : Nat) : Option (MatOp × Nat) :=
  let other := s.abacus pair (1 - layer)
  if other.mid true then none else (s.abacus pair layer).heads.find? (fun e => s.opReady other e.1)

/-- The heads of an abacus take the response words that are there for their queue sources (R342). -/
def State.drawHeads (s : State) (pair layer : Nat) : State :=
  (s.abacus pair layer).heads.foldl (fun s e =>
    match s.team e.1.team with
    | none => s
    | some t =>
      if e.1.kind ≠ .mma then s
      else
        let (t, bufA) := drawWords t e.1.mapA e.1.rowsA.length e.1.bufA
        let (t, bufB) := drawWords t e.1.mapB 16 e.1.bufB
        let a := s.abacus pair layer
        (s.putTeam t).putAbacus pair layer { a with ops := listPut a.ops e.2 { e.1 with bufA := bufA, bufB := bufB } }) s

/-- ABACUS_CHUNK (R344 to R349, R374): one K-chunk, 4 cycles after the last at the soonest, or a whole operation of another kind. -/
def State.abacusChunk (s : State) (pair layer : Nat) : State :=
  match s.nextOp pair layer with
  | none => s.drawHeads pair layer
  | some (o, i) =>
    match s.team o.team with
    | none => s.retire pair layer i none
    | some t =>
      match o.kind with
      | .mma => if s.gt < (s.abacus pair layer).last + 4 then s else s.mmaChunk layer i t o
      | .mzero =>
        let v := t.tile o.tile
        let v : Tile := { upper := { v.upper with elems := [] }, lower := if o.p then { v.lower with elems := [] } else v.lower }
        (s.putTeam (t.putTile o.tile v)).retire pair layer i none
      | .mload =>
        let (s, v) := s.loadRows (s.failTile layer i t o) o (((List.range o.rows.length).zip (o.rowsA.zip o.rows))) (t.tile o.tile)
        (s.putTeam (t.putTile o.tile v)).retire pair layer i none
      | .mstore => s.slotReady pair layer t o.slot (fun s =>
        let (w, s) := s.storeTile t o
        (s.foldPcm ⟨t.uid, none, 0⟩ w).retire pair layer i none)
      | .amaxstep => s.slotReady pair layer t o.slot (fun s =>
        let (s, _, w) := s.slotAtomic t (o.slot.getD 0) (fun r => (slotStep r, 0))
        (s.foldPcm ⟨t.uid, none, 0⟩ w).retire pair layer i none)

/-- ABACUS_CHUNK. -/
def execAbacusChunk (pair layer : Nat) (s : State) : Host.Outcome State Fault Refusal := answer (s.abacusChunk pair (layer % 2))

/-- The teams of a pair that wait for a lease, with the kind, the priority of their grids and their places after the team that was
granted last (R373). -/
def State.leaseRequests (s : State) (pair : Nat) : List (Team × Bool × Nat × Nat) :=
  s.teams.filterMap (fun t =>
    if t.pair ≠ pair ∨ !s.teamRuns t then none
    else match t.ctl.wait with
      | .lease p => some (t, p, s.launchOf t (fun g => g.launch.prio), (t.slot + 31 - (s.pair pair).lastGrant) % 32)
      | _ => none)

/-- A request stands before another (R373). -/
def leaseBefore (a b : Team × Bool × Nat × Nat) : Bool :=
  decide (b.2.2.1 < a.2.2.1) || (a.2.2.1 == b.2.2.1 && decide (a.2.2.2 < b.2.2.2))

/-- Puts a request in its place. -/
def insertLease (a : Team × Bool × Nat × Nat) : List (Team × Bool × Nat × Nat) → List (Team × Bool × Nat × Nat)
  | [] => [a]
  | b :: l => if leaseBefore a b then a :: b :: l else b :: insertLease a l

/-- The requests of a pair in the arbiter's order (R373). -/
def State.leaseOrder (s : State) (pair : Nat) : List (Team × Bool × Nat × Nat) := (s.leaseRequests pair).foldr insertLease []

/-- The request that the arbiter grants next: all its abaci are free, and it is the first in order or takes nothing that the
first still needs (R373). -/
def State.leaseNext (s : State) (pair : Nat) : Option (Team × Bool × Nat × Nat) :=
  let l := s.leaseOrder pair
  let needs (e : Team × Bool × Nat × Nat) : List Nat := leaseLayers e.1 e.2.1
  let free (e : Team × Bool × Nat × Nat) : Bool := (needs e).all (fun n => decide ((s.abacus pair n).holder = none))
  match l with
  | [] => none
  | f :: _ => l.find? (fun e => free e && (e.1.uid == f.1.uid || !(needs e).any (fun n => (needs f).any (fun m => m == n))))

/-- ABACUS_LEASE_GRANT (R341, R373). -/
def State.leaseGrant (s : State) (pair : Nat) : State :=
  match s.leaseNext pair with
  | none => s
  | some (t, p, _, _) =>
    let s := (leaseLayers t p).foldl (fun s n => s.putAbacus pair n { s.abacus pair n with holder := some t.uid }) s
    let s := s.putPair pair { s.pair pair with lastGrant := t.slot }
    s.putTeam { t with lc := t.quantum, ctl := { t.ctl with wait := .none } }

/-- ABACUS_LEASE_GRANT. -/
def execAbacusLeaseGrant (pair : Nat) (s : State) : Host.Outcome State Fault Refusal := answer (s.leaseGrant pair)

/-- A tile whose half on a reset core is lost: the upper half of a team that leads on the core, the lower half of the others
(R340, R386). -/
def Tile.lose (v : Tile) (upper lower : Bool) : Tile :=
  { upper := if upper then { v.upper with mark := .lost } else v.upper, lower := if lower then { v.lower with mark := .lost } else v.lower }

/-- A team after the reset of the abaci of some layers of its pair (R386). -/
def Team.loseTiles (t : Team) (layers : List Nat) (tiles : Nat) : Team :=
  let has (l : Nat) : Bool := layers.any (fun m => m == l)
  (List.range tiles).foldl (fun t n => t.putTile n ((t.tile n).lose (has t.layer) (has (1 - t.layer)))) t

/-- Notes since when the operands of the next chunk of an abacus have been ready (R386). -/
def State.noteReady (s : State) : State :=
  s.pairs.foldl (fun s e => [0, 1].foldl (fun s l =>
    let a := s.abacus e.1 l
    if a.ops.isEmpty && a.ready.isNone then s
    else match s.nextOp e.1 l, a.ready with
      | some _, none => s.putAbacus e.1 l { a with ready := some s.gt }
      | none, some _ => s.putAbacus e.1 l { a with ready := none }
      | _, _ => s) s) s

/-- The operation of an abacus that is hung (R386): its operands have been ready for 65,536 cy. -/
def State.hungOp (s : State) (pair layer : Nat) : Option MatOp :=
  match (s.abacus pair layer).ready with
  | none => none
  | some r => if r + 65536 ≤ s.gt then (s.nextOp pair layer).map (fun e => e.1) else none

/-- ABACUS_HANG_RESET (R386): tiles on the reset cores are lost, every operation queued on the reset abaci is discarded, and their leases
end. -/
def State.hangReset (s : State) (pair layer : Nat) : State :=
  match s.hungOp pair layer with
  | none => s
  | some o =>
    let layers := if o.p then [0, 1] else [layer]
    let hit (l : Nat) : Bool := layers.any (fun m => m == l)
    let holders := layers.filterMap (fun l => (s.abacus pair l).holder)
    let s := layers.foldl (fun s l =>
      s.putAbacus pair l { s.abacus pair l with holder := none, ops := [], ready := none }) s
    -- a P lease ends on both of its abaci
    let s := [0, 1].foldl (fun s l =>
      let a := s.abacus pair l
      if !hit l && (match a.holder with | some u => holders.any (fun h => h == u) | none => false) then s.putAbacus pair l { a with holder := none } else s) s
    { s with teams := s.teams.map (fun t =>
        if t.pair ≠ pair then t
        else
          let t := t.loseTiles layers (s.launchOf t (fun g => g.launch.accum))
          let t : Team := if holders.any (fun h => h == t.uid) then { t with lc := 0 } else t
          if t.uid = o.team then { t with hung := some o.pc } else t) }

/-- ABACUS_HANG_RESET. -/
def execAbacusHangReset (pair layer : Nat) (s : State) : Host.Outcome State Fault Refusal := answer (s.hangReset pair (layer % 2))

/-- MATRIX_RESET_DELIVER (R388): the control thread takes the trap at its next boundary; a blocked instruction issues again on
return. -/
def State.matrixDeliver (s : State) (uid : Nat) : State :=
  match s.team uid with
  | none => s
  | some t =>
    match t.hung with
    | none => s
    | some pc =>
      if !s.teamRuns t || t.ctl.ended then s
      else s.trapCtl { t with hung := none, ctl := { t.ctl with wait := .none } } { code := .matrixReset, detail := pc.setWidth 64 }

/-- MATRIX_RESET_DELIVER. -/
def execMatrixResetDeliver (team : Nat) (s : State) : Host.Outcome State Fault Refusal := answer (s.matrixDeliver team)

end Sys2Proof.Machine
end

