-- ==== Sys2Proof/Machine/LoadStore.lean ====
section
/-! DEFINITION. The L.mem instructions and FENCE in both streams: loads, stores, element accesses, compaction, atomics,
capability accesses, prefetch, scratchpad write-back and fences (spec/14 R290 to R302). -/

namespace Sys2Proof.Machine

/-! ## Passes -/

/-- A vector L.mem pass: the checks at issue, its effect on one thread, and what a helper gets that would trap. -/
structure MemPass where
  spec : PassSpec
  reads : List Nat
  writes : List Nat
  step : Foc → Nat → Foc × Option Stop
  zero : Foc → Nat → Foc

/-- The scoreboard number of a RES predicate (R52, R368). -/
def resKey (w : MemWord) : Nat := 4096 + w.res.toNat

/-- Runs a memory pass thread by thread; where it stops, the threads below have committed (R28, R291). -/
def memLoop (q : MemPass) : List Nat → Foc → Foc × Option (Nat × Stop)
  | [], f => (f, none)
  | p :: ps, f =>
    match q.step f p with
    | (f, none) => memLoop q ps f
    | (f, some (.block w)) => (f, some (p, .block w))
    | (f, some (.trap t)) => if f.r.helper p then memLoop q ps (q.zero f p) else (f, some (p, .trap t))

/-- The requests of a pass, those from `lo` on, are made as their groups issue (R173, R370). -/
def State.grouped (s : State) (lo : Nat) (quad : Bool) (ps : List Nat) : State :=
  { s with accesses := s.accesses.map (fun a => if lo ≤ a.id then { a with born := a.born + groupOf quad ps a.who.pos } else a) }

/-- What follows the walk of a memory pass: poisoned units that it writes whole, and when its requests leave (R60, R370). -/
def Foc.sent (f : Foc) (lo : Nat) (ps : List Nat) : Foc := { f with s := (f.s.markClears lo).grouped lo (f.s.quadMode f.t.grid) ps }

/-- A vector memory pass (R291). -/
def memVec (q : MemPass) (g : BitVec 3) (gn : Bool) (f : Foc) : State :=
  let ps := f.members g.toNat gn
  match f.permit ps q.spec with
  | some s => s
  | none =>
    let f := f.issue clsPer q.reads q.writes ps false
    let lo := f.s.nextId
    match memLoop q ps f with
    | (f, some (p, st)) => (f.sent lo ps).stopAt ps p st
    | (f, none) => (f.sent lo ps).next.close

/-- The control thread's part after an access: it traps, waits to issue again, or goes on. -/
def ctlSent (t : Team) (w : MemWord) (zero : Ctl → Ctl) (load : Bool) (out : State × Except Stop Sent) : State :=
  match out with
  | (s, .error (.trap tr)) => s.trapCtl t tr
  | (s, .error (.block b)) => s.ctlBlock t b
  | (s, .ok .sparse) => s.ctlDone { t with ctl := (zero t.ctl).putPred w.res.toNat false }
  | (s, .ok (.access id)) =>
    let t := { t with ctl := t.ctl.putPred w.res.toNat true }
    if load then s.ctlBlock t (.result id) else s.ctlDone t

/-- A control L.mem instruction. -/
def memCtl (op : BitVec 8) (w : MemWord) (d : Opd) (types : Nat → Bool) (res : Bool) (dRead : Bool) (act : State → Team → State)
    (s : State) (t : Team) : State :=
  ctlPass s t (memOk .ctl d types res w) (memToWord op w) w.g w.gn clsPer
    (memCtlKeys w ++ (if dRead then ctlKeysOf d (memD w) else [])) ((if dRead then [] else ctlKeysOf d (memD w)) ++ [2048 + w.res.toNat]) act

/-- Marks the destination registers of a variable-latency result empty (R184, R291). -/
def Rank.emptyAll (r : Rank) (p : Nat) (regs : List Nat) : Rank := regs.foldl (fun r n => r.emptyV p n) r

/-- A vector load after its checks: zero and a false predicate on a sparse page, else its registers wait (R52, R291). -/
def Foc.loaded (f : Foc) (p : Nat) (o : Opd) (d : Fld) (res : BitVec 3) (out : State × Except Stop Sent) : Foc × Option Stop :=
  match out with
  | (s, .error e) => ({ f with s := s }, some e)
  | (s, .ok .sparse) => ({ f with s := s, r := (writeOpd f.r f.x.age p o d TCap.null).putPred p res.toNat false }, none)
  | (s, .ok (.access _)) => ({ f with s := s, r := (f.r.emptyAll p (vregsOf o d)).putPred p res.toNat true }, none)

/-- A vector store after its checks (R52). -/
def Foc.stored (f : Foc) (p : Nat) (res : BitVec 3) (out : State × Except Stop Sent) : Foc × Option Stop :=
  match out with
  | (s, .error e) => ({ f with s := s }, some e)
  | (s, .ok .sparse) => ({ f with s := s, r := f.r.putPred p res.toNat false }, none)
  | (s, .ok (.access _)) => ({ f with s := s, r := f.r.putPred p res.toNat true }, none)

/-- OFF as a signed number (R208). -/
def memOff (w : MemWord) : Int := w.off.toInt

/-! ## LD, LDF, LDCAP -/

/-- The frame of a vector load into D: `send` makes the access. -/
def loadPass (op : BitVec 8) (w : MemWord) (o : Opd) (types : Nat → Bool) (u : Nat) (send : State → MemReq → State × Except Stop Sent) : MemPass :=
  { spec := ⟨memToWord op w, memOk .vec o types true w, memNamed w ++ vregsOf o (memD w), memWaits w ++ vregsOf o (memD w)⟩
    reads := memKeys w
    writes := keysOf o (memD w) ++ [resKey w]
    step := fun f p =>
      match memAddr f.r p w u (memOff w) with
      | .error t => (f, some (.trap t))
      | .ok a => f.loaded p o (memD w) w.res (send f.s (f.memReq p a (w.res != 0)))
    zero := fun f p => { f with r := writeOpd f.r f.x.age p o (memD w) TCap.null } }

/-- The frame of a control load. -/
def loadCtl (op : BitVec 8) (w : MemWord) (o : Opd) (types : Nat → Bool) (u : Nat) (send : State → MemReq → State × Except Stop Sent)
    (s : State) (t : Team) : State :=
  memCtl op w o types true false (fun s t =>
    ctlSent t w (fun c => writeCtl c o (memD w) TCap.null) true (send s (t.memReq (memAddrCtl t.ctl w u (memOff w)) (w.res != 0)))) s t

/-- The D operand of a type in the control stream: an s register, or a c register for 16 bytes (R235). -/
def memOpdCtl (ty : Nat) : Opd := if ty = 12 then .quad else .wide

/-- LD's request. -/
def ldSend (w : MemWord) (s : State) (a : MemReq) : State × Except Stop Sent := s.sendLoad a false ⟨w.d.toNat, w.ty.toNat, none⟩
/-- LD (R293). -/
def execLd (w : MemWord) (s : State) : Host.Outcome State Fault Refusal :=
  let ty := w.ty.toNat
  answer (byStream s (memVec (loadPass 0x88 w (memOpd ty) (fun t => decide (t < 13)) (tyBytes ty) (ldSend w)) w.g w.gn)
    (loadCtl 0x88 w (memOpdCtl ty) (fun t => decide (t < 13)) (tyBytes ty) (ldSend w)))

/-- The register formats of LDF and STF (R234). -/
def elemTypes (t : Nat) : Bool := t == 4 || t == 5 || (decide (8 ≤ t) && decide (t ≤ 11))

/-- LDF's request. -/
def ldfSend (w : MemWord) (s : State) (a : MemReq) : State × Except Stop Sent := s.sendElemLoad a w.d.toNat w.ty.toNat
/-- LDF (R294): its unit is one element. -/
def execLdf (w : MemWord) (s : State) : Host.Outcome State Fault Refusal :=
  let ty := w.ty.toNat
  answer (byStream s (memVec (loadPass 0x8A w (memOpd ty) elemTypes 1 (ldfSend w)) w.g w.gn)
    (loadCtl 0x8A w (memOpdCtl ty) elemTypes 1 (ldfSend w)))

/-- LDCAP's request. -/
def ldcapSend (w : MemWord) (s : State) (a : MemReq) : State × Except Stop Sent := s.sendLoad a true ⟨w.d.toNat, 12, none⟩
/-- LDCAP (R299). -/
def execLdcap (w : MemWord) (s : State) : Host.Outcome State Fault Refusal :=
  answer (byStream s (memVec (loadPass 0x8F w .quad (fun t => t == 12) 16 (ldcapSend w)) w.g w.gn)
    (loadCtl 0x8F w .quad (fun t => t == 12) 16 (ldcapSend w)))

/-! ## ST, STF, STCAP -/

/-- The frame of a vector store from D; a helper makes none (R175). -/
def storePass (op : BitVec 8) (w : MemWord) (o : Opd) (types : Nat → Bool) (u : Nat)
    (send : Foc → Nat → MemReq → TCap → State × Except Stop Sent) : MemPass :=
  { spec := ⟨memToWord op w, memOk .vec o types true w, memNamed w ++ vregsOf o (memD w), memWaits w ++ vregsOf o (memD w)⟩
    reads := memKeys w ++ keysOf o (memD w)
    writes := [resKey w]
    step := fun f p =>
      if f.r.helper p then (f, none)
      else match memAddr f.r p w u (memOff w) with
        | .error t => (f, some (.trap t))
        | .ok a => match readOpd f.r p o (memD w) with
          | .error t => (f, some (.trap t))
          | .ok v => f.stored p w.res (send f p (f.memReq p a (w.res != 0)) v)
    zero := fun f _ => f }

/-- The frame of a control store. -/
def storeCtl (op : BitVec 8) (w : MemWord) (o : Opd) (types : Nat → Bool) (u : Nat) (send : State → Team → MemReq → TCap → State × Except Stop Sent)
    (s : State) (t : Team) : State :=
  memCtl op w o types true true (fun s t =>
    ctlSent t w id false (send s t (t.memReq (memAddrCtl t.ctl w u (memOff w)) (w.res != 0)) (readCtl t.ctl o (memD w)))) s t

/-- ST (R293). -/
def execSt (w : MemWord) (s : State) : Host.Outcome State Fault Refusal :=
  let ty := w.ty.toNat
  answer (byStream s (memVec (storePass 0x89 w (memOpd ty) (fun t => decide (t < 13)) (tyBytes ty) (fun f _ a v => f.s.sendStore a false ty v)) w.g w.gn)
    (storeCtl 0x89 w (memOpdCtl ty) (fun t => decide (t < 13)) (tyBytes ty) (fun s _ a v => s.sendStore a false ty v)))

/-- STCAP (R299). -/
def execStcap (w : MemWord) (s : State) : Host.Outcome State Fault Refusal :=
  answer (byStream s (memVec (storePass 0x90 w .quad (fun t => t == 12) 16 (fun f _ a v => f.s.sendStore a true 12 v)) w.g w.gn)
    (storeCtl 0x90 w .quad (fun t => t == 12) 16 (fun s _ a v => s.sendStore a true 12 v)))

/-- The scale code of a vector STF, from the register after the data (R295): one above the top is not allocated, and an empty
one blocks. -/
def stfScale (r : Rank) (p n : Nat) : Except Stop Nat :=
  if r.top ≤ n then .error (.trap { code := .regUnallocated, detail := BitVec.ofNat 64 n })
  else if !r.isFull p n then .error (.block (.regs [(p, n)]))
  else match readReg r p false false n with
    | .error t => .error (.trap t)
    | .ok v => .ok v.toNat

/-- STF (R295). In the control stream the register after s63 does not exist: its scale reads as a field out of range. -/
def execStf (w : MemWord) (s : State) : Host.Outcome State Fault Refusal :=
  let ty := w.ty.toNat
  let after := w.d.toNat + (if ty = 11 then 2 else 1)
  answer (byStream s
    (memVec (storePass 0x8B w (memOpd ty) elemTypes 1 (fun f p a v => f.s.sendElemStore a ty v.bits.toNat (stfScale f.r p after))) w.g w.gn)
    (storeCtl 0x8B w (memOpdCtl ty) elemTypes 1 (fun s t a v =>
      s.sendElemStore a ty v.bits.toNat
        (if w.d.toNat = 63 then .error (.trap { code := .illegalOperand, detail := hiOf (memToWord 0x8B w) })
         else .ok (t.ctl.getS (w.d.toNat + 1)).toNat))))

/-! ## STCMP and LDEXP -/

/-- A compacting pass: `send` makes the access of a thread at its unit (R296). -/
structure CmpPass where
  op : BitVec 8
  load : Bool
  send : Foc → Nat → MemReq → State × Except Stop Sent

/-- The checks of a compacting word: IDX names a k register (R296). -/
def cmpSpec (q : CmpPass) (w : MemWord) : PassSpec :=
  let o := memOpd w.ty.toNat
  ⟨memToWord q.op w, memOk .vec o (fun t => decide (t < 12)) true w && !noIdx w && w.ki, vregsOf .quad (memCap w) ++ vregsOf o (memD w),
    vregsOf .quad (memCap w) ++ vregsOf o (memD w)⟩

/-- One thread of a compacting pass at unit n: it traps, waits, or goes on; a dropped element counts (R296). -/
def cmpThread (q : CmpPass) (w : MemWord) (n : Nat) (f : Foc) (p : Nat) : Foc × Option Stop :=
  let ty := w.ty.toNat
  match readOpd f.r p .quad (memCap w) with
  | .error t => (f, some (.trap t))
  | .ok c =>
    let addr := (capCursor c : Int) + ((n : Int) + memOff w) * (tyBytes ty : Int)
    let out := q.send f p (f.memReq p (c, addr) (w.res != 0))
    if q.load then f.loaded p (memOpd ty) (memD w) w.res out else f.stored p w.res out

/-- The walk of a compacting pass; n counts the units taken so far. -/
def cmpLoop (q : CmpPass) (w : MemWord) : List Nat → Nat → Foc → Foc × Nat × Option (Nat × Stop)
  | [], n, f => (f, n, none)
  | p :: ps, n, f =>
    if f.r.helper p then cmpLoop q w ps n f
    else match cmpThread q w n f p with
      | (f, none) => cmpLoop q w ps (n + 1) f
      | (f, some st) => (f, n, some (p, st))

/-- STCMP and LDEXP (R296, R297): K[IDX] takes the count that committed, also before a trap is delivered. -/
def cmpVec (q : CmpPass) (w : MemWord) (f : Foc) : State :=
  let ps := f.members w.g.toNat w.gn
  let k := w.idx.toNat
  match f.permit ps (cmpSpec q w) with
  | some s => s
  | none =>
    let o := memOpd w.ty.toNat
    let f := f.issue clsPer (guardKey w.g :: keysOf .quad (memCap w) ++ [2048 + k] ++ (if q.load then [] else keysOf o (memD w)))
      ([2048 + k, resKey w] ++ (if q.load then keysOf o (memD w) else [])) ps false
    match ps with
    | [] => f.next.close
    | p0 :: _ =>
      if w.ti && (f.r.kreg k).cf then f.stopAt ps p0 (.trap { code := .uniformConflict, detail := BitVec.ofNat 64 k })
      else match f.r.kErr [k] with
      | some tr => f.stopAt ps p0 (.trap tr)
      | none =>
        let lo := f.s.nextId
        let (f, n, stop) := cmpLoop q w ps (f.r.kreg k).val.toNat f
        let f := f.sent lo ps
        let f := { f with r := f.r.writeK f.x.age k (BitVec.ofNat 32 n) }
        match stop with
        | some (p, st) => f.stopAt ps p st
        | none => f.next.close

/-- An L.mem instruction of the vector stream alone. -/
def memNotCtl (op : BitVec 8) (w : MemWord) (s : State) (t : Team) : State :=
  s.trapCtl t { code := .illegalStream, detail := hiOf (memToWord op w) }

/-- STCMP (R296, R297). -/
def execStcmp (w : MemWord) (s : State) : Host.Outcome State Fault Refusal :=
  let ty := w.ty.toNat
  answer (byStream s (cmpVec ⟨0x8C, false, fun f p a =>
    match readOpd f.r p (memOpd ty) (memD w) with
    | .error t => (f.s, .error (.trap t))
    | .ok v => f.s.sendStore a false ty v⟩ w) (memNotCtl 0x8C w))

/-- LDEXP (R296, R297). -/
def execLdexp (w : MemWord) (s : State) : Host.Outcome State Fault Refusal :=
  answer (byStream s (cmpVec ⟨0x8D, true, fun f _ a => f.s.sendLoad a false ⟨w.d.toNat, w.ty.toNat, none⟩⟩ w) (memNotCtl 0x8D w))

/-! ## ATOM -/

/-- ATOM's D operand: a compare-and-swap takes twice as much (R236). -/
def atomOpd (w : MemWord) : Opd :=
  let long := tyBits w.ty.toNat == 64
  if w.off = 7 then (if long then .quad else .pair) else (if long then .pair else .reg)

/-- ATOM in the vector stream (R298): D is read before it is marked empty, and the old value returns to its first register or
pair. -/
def atomPass (w : MemWord) : MemPass :=
  let ty := w.ty.toNat
  let o := atomOpd w
  let d := memD w
  { spec := ⟨memToWord 0x8E w, memOk .vec o (atomTypes w.off.toNat) true w, memNamed w ++ vregsOf o d, memWaits w ++ vregsOf o d⟩
    reads := memKeys w ++ keysOf o d
    writes := keysOf (memOpd ty) d ++ [resKey w]
    step := fun f p =>
      if f.r.helper p then (f, none)
      else match memAddr f.r p w (tyBytes ty) 0 with
        | .error t => (f, some (.trap t))
        | .ok a => match readOpd f.r p o d with
          | .error t => (f, some (.trap t))
          | .ok v =>
            let new : DWord := if tyBits ty = 64 then v.bits.extractLsb' 64 64 else (v.bits.extractLsb' 32 32).setWidth 64
            f.loaded p (memOpd ty) d w.res (f.s.sendAtom (f.memReq p a (w.res != 0)) w.off.toNat (v.bits.extractLsb' 0 64) new ⟨w.d.toNat, ty, none⟩)
    zero := fun f _ => f }

/-- ATOM in the control stream (R236, R298). -/
def atomCtl (w : MemWord) (s : State) (t : Team) : State :=
  let ty := w.ty.toNat
  let o : Opd := if w.off = 7 then .spair else .wide
  ctlPass s t (memOk .ctl o (atomTypes w.off.toNat) true w) (memToWord 0x8E w) w.g w.gn clsPer (memCtlKeys w ++ ctlKeysOf o (memD w)) (ctlKeysOf .wide (memD w) ++ [2048 + w.res.toNat]) (fun s t =>
    let v := t.ctl.getS w.d.toNat
    let new := t.ctl.getS (w.d.toNat + 1)
    ctlSent t w (fun c => c.putS w.d.toNat 0) true
      (s.sendAtom (t.memReq (memAddrCtl t.ctl w (tyBytes ty) 0) (w.res != 0)) w.off.toNat v new ⟨w.d.toNat, ty, none⟩))

/-- ATOM. -/
def execAtom (w : MemWord) (s : State) : Host.Outcome State Fault Refusal := answer (byStream s (memVec (atomPass w) w.g w.gn) (atomCtl w))

/-! ## PREF -/

/-- A prefetch (R26, R96, R300): dropped at the first check that fails, and on a format page; whether the line arrives is an open choice
(DESIGN CHOICE, log 20). -/
def State.prefetch (s : State) (a : MemReq) (u : Nat) : State :=
  let (a, len) := s.elemUnit a u
  match s.checkMem a permLD 1 len false with
  | some _ => s
  | none =>
    let space := capSpace a.c
    if space ≠ 1 ∧ space ≠ 4 then s
    else
      let (i, s) := s.newFree
      if Config.freeBool i then
        match s.translate a.q a.addr.toNat needR with
        | (s, .page p) => if p.fmt = 0 ∧ p.blk = 0 then s.fillL1 a.q.pair (p.base + p.off) p.reg.lease p.part else s
        | (s, _) => s
      else s

/-- PREF in the vector stream (DESIGN CHOICE, log 20). -/
def prefPass (w : MemWord) : MemPass :=
  let u := tyBytes w.ty.toNat
  { spec := ⟨memToWord 0x95 w, memOk .vec .none (fun t => decide (t < 13)) false w, memNamed w, memWaits w⟩
    reads := memKeys w
    writes := []
    step := fun f p =>
      match memAddr f.r p w u (memOff w) with
      | .error _ => (f, none)
      | .ok a => ({ f with s := f.s.prefetch (f.memReq p a false) u }, none)
    zero := fun f _ => f }

/-- PREF. -/
def execPref (w : MemWord) (s : State) : Host.Outcome State Fault Refusal :=
  let u := tyBytes w.ty.toNat
  answer (byStream s (memVec (prefPass w) w.g w.gn) (fun s t =>
    memCtl 0x95 w .none (fun t => decide (t < 13)) false true
      (fun s t => (s.prefetch (t.memReq (memAddrCtl t.ctl w u (memOff w)) false) u).ctlDone t) s t))

/-! ## Write-back triggers -/

/-- A write-back trigger of a mapped sector (R71, R74): a dirty sector starts its write, and a trigger that finds one in flight
waits to treat the sector anew. A NOWB entry is never written back (R68) (DEDUCED, log 25). -/
def State.trigger (s : State) (pair sec : Nat) (who : Who) : State :=
  let p := s.pair pair
  match p.mapAt (sec * 256) with
  | none => s
  | some (_, m) =>
    if m.nowb then s
    else
      let x := p.sector sec
      match x.st with
      | .d => s.putPair pair (p.putSector sec
          { x with st := .w, dirty := 0, flight := x.dirty, bytes := memBytes p.pad (sec * 256) 256, applied := none, covers := [who] })
      | .w => s.putPair pair (p.putSector sec (if x.covers.any (fun v => decide (v = who)) then x else { x with anew := x.anew ++ [who] }))
      | .wd => s.putPair pair (p.putSector sec { x with anew := x.anew ++ [who] })
      | .f => s.putPair pair (p.putSector sec { x with anew := x.anew ++ [who] })
      | _ => s

/-- Triggers every mapped sector of a range of a pair's scratchpad (DEDUCED, log 25). -/
def State.triggerRange (s : State) (pair off len : Nat) (who : Who) : State :=
  ((s.pair pair).mappedIn off len).foldl (fun s sec => s.trigger pair sec who) s

/-- A write-back that a thread triggered, or that covers its trigger, is not complete. -/
def State.awaitsWriteback (s : State) (who : Who) : Bool :=
  s.pairs.any (fun e => e.2.sectors.any (fun x => x.2.covers.any (fun v => decide (v = who)) || x.2.anew.any (fun v => decide (v = who))))

/-- SPWB of one thread (R301): the space check comes first, whatever the tag (DEDUCED, log 82). -/
def State.spwb (s : State) (a : MemReq) (len : Nat) : State × Option Stop :=
  let space := capSpace a.c
  let n := a.addr.toNat
  if space = 1 ∨ space = 4 ∨ space = 5 then (s, some (.trap { code := .illegalOperand, detail := BitVec.ofInt 64 (a.addr % 2 ^ 32) }))
  else if len = 0 then (s, none)
  else match capCheck a.m permST 1 (s.extentOf a.q.pair) a.addr len a.c with
    | some t => (s, some (.trap t))
    | none => (s.triggerRange (homePair a.q.pair space n) (n % 2 ^ 19) len a.who, none)

/-- SPWB in the vector stream. -/
def spwbPass (w : MemWord) : MemPass :=
  { spec := ⟨memToWord 0x97 w, memOk .vec .reg (fun t => t == 0) false w, memNamed w ++ vregsOf .reg (memD w), memWaits w ++ vregsOf .reg (memD w)⟩
    reads := memKeys w ++ keysOf .reg (memD w)
    writes := []
    step := fun f p =>
      if f.r.helper p then (f, none)
      else match memAddr f.r p w 1 (memOff w) with
        | .error t => (f, some (.trap t))
        | .ok a => match readReg f.r p false false w.d.toNat with
          | .error t => (f, some (.trap t))
          | .ok v =>
            let (s, st) := f.s.spwb (f.memReq p a false) v.toNat
            ({ f with s := s }, st)
    zero := fun f _ => f }

/-- SPWB in the vector stream: the split waits for the write-backs its threads triggered, those of a pass resumed after a trap with those
that had committed before (R301). -/
def spwbVec (w : MemWord) (f : Foc) : State :=
  let ps := f.members w.g.toNat w.gn
  match f.permit ps (spwbPass w).spec with
  | some s => s
  | none =>
    match memLoop (spwbPass w) ps ({ f with s := f.s.landPass f.t.uid f.r.num ps }.issue clsPer (spwbPass w).reads [] ps false) with
    | (f, some (p, st)) => f.stopAt ps p st
    | (f, none) =>
      let all := (maskList f.x.mask).filter (fun p => decide (p < f.x.resume) || ps.any (fun q => q == p))
      if all.any (fun p => f.s.awaitsWriteback ⟨f.t.uid, some f.r.num, p⟩) then (f.block (.spwb (maskOf all))).close else f.next.close

/-- SPWB in the control stream. -/
def spwbCtl (w : MemWord) (s : State) (t : Team) : State :=
  memCtl 0x97 w .reg (fun t => t == 0) false true (fun s t =>
    match (s.landCtl t.uid).spwb (t.memReq (memAddrCtl t.ctl w 1 (memOff w)) false) ((t.ctl.getS w.d.toNat).toNat % 2 ^ 32) with
    | (s, some (.trap tr)) => s.trapCtl t tr
    | (s, some (.block b)) => s.ctlBlock t b
    | (s, none) => if s.awaitsWriteback ⟨t.uid, none, 0⟩ then s.ctlBlock t (.spwb 1) else s.ctlDone t) s t

/-- SPWB. -/
def execSpwb (w : MemWord) (s : State) : Host.Outcome State Fault Refusal := answer (byStream s (spwbVec w) (spwbCtl w))

/-! ## FENCE -/

/-- The PCM of a thread or control thread. -/
def State.pcmOf (s : State) (who : Who) : Nat :=
  match s.team who.team with
  | none => 0
  | some t => match who.rank with
    | none => t.ctl.pcm
    | some j => ((t.rank j).map (fun r => (r.thread who.pos).pcm)).getD 0

/-- A control thread's engine operations that are not acknowledged, which a release waits for (R118). -/
def State.engineBusy (s : State) (who : Who) : Bool :=
  decide (who.rank = none) && s.ops.any (fun o => o.team == who.team && decide (o.window = none) && decide (o.status = none))

/-- A control thread's island requests that have not returned, which an acquire waits for (R116). -/
def State.islandBusy (s : State) (who : Who) : Bool :=
  decide (who.rank = none) && ((s.team who.team).map (fun t => t.ends.any (fun e => !e.2.cut && (e.2.inside != 0 || !e.2.batches.isEmpty)))).getD false

/-- A matrix operation that counts as a load of its control thread (R345). -/
def MatKind.loads : MatKind → Bool
  | .mma => true
  | .mload => true
  | _ => false

/-- A control thread's matrix operations that have not retired: its matrix loads alone, or its stores and atomics too (R345). -/
def State.matrixBusy (s : State) (who : Who) (loadsOnly : Bool) : Bool :=
  decide (who.rank = none) && s.pairs.any (fun e => e.2.abaci.any (fun a => a.2.ops.any (fun o =>
    o.team == who.team && decide (o.kind ≠ .mzero) && (!loadsOnly || o.kind.loads))))

/-- The flush read of a release of scope 5 returns (R116): the control thread has no write of space 5 left to acknowledge, or the port of its
context answers, or is lost (R454). -/
def State.flushOpen (s : State) (who : Who) : Bool :=
  if decide (who.rank ≠ none) || !s.unflushed.any (fun u => u == who.team) then true
  else
    let port := (((s.team who.team).bind (fun t => s.ctx t.ctx)).map (fun c => c.port)).getD 0
    s.portOpen port || decide ((tabGet Port.start s.ports port).state = .lost) || (tabGet Port.start s.ports port).frozen

/-- A fence is over: a release of scope 5 leaves no write of space 5 of its control thread without an acknowledgement (R116). -/
def State.flushed (s : State) (kind scope : Nat) (who : Who) : State :=
  if kind % 2 = 1 ∧ scope = 5 ∧ who.rank = none then { s with unflushed := s.unflushed.filter (fun u => u != who.team) } else s

/-- A fence of a kind and scope is complete for a thread (R116): kind 1 release, 2 acquire, 3 both. -/
def State.fenceDone (s : State) (kind scope : Nat) (who : Who) : Bool :=
  (kind % 2 == 0 || ((decide (scope ≠ 5) || s.flushOpen who) && !s.busy who false && !s.matrixBusy who false && !s.awaitsWriteback who && !s.engineBusy who && (decide (scope < 3) || decide (s.pcmOf who ≤ s.gt)))) &&
  (kind < 2 || (!s.busy who true && !s.matrixBusy who true && !s.islandBusy who))

/-- KIND and SC of FENCE (R302). -/
def fenceOk (st : Stream) (w : FWord) : Bool :=
  let m := w.md.toNat
  decide (m < 32) && m % 4 != 0 && decide (1 ≤ m / 4) && decide (m / 4 ≤ 5) &&
    fldOk st .none (fldD w) && fldOk st .none (fldA w) && fldOk st .none (fldB w)

/-- FENCE in the vector stream (R116, R302). -/
def fenceVec (w : FWord) (f : Foc) : State :=
  let ps := f.members w.g.toNat w.gn
  let kind := w.md.toNat % 4
  let scope := w.md.toNat / 4
  match f.permit ps ⟨fToWord 0x96 w, fenceOk .vec w, [], []⟩ with
  | some s => s
  | none =>
    let f := f.issue clsOnce [guardKey w.g] [] ps false
    let who (p : Nat) : Who := ⟨f.t.uid, some f.r.num, p⟩
    let s := if kind % 2 = 1 then ps.foldl (fun s p => s.triggerRange f.t.pair 0 (s.extent f.t.pair) (who p)) (f.s.landPass f.t.uid f.r.num ps) else f.s
    if ps.all (fun p => s.fenceDone kind scope (who p)) then ({ f with s := s }.next).close
    else ({ f with s := s }.block (.fence kind scope (maskOf ps))).close

/-- FENCE in the control stream. -/
def fenceCtl (w : FWord) (s : State) (t : Team) : State :=
  ctlPass s t (fenceOk .ctl w) (fToWord 0x96 w) w.g w.gn clsOnce [] [] (fun s t =>
    let kind := w.md.toNat % 4
    let who : Who := ⟨t.uid, none, 0⟩
    let s := if kind % 2 = 1 then (s.landCtl t.uid).triggerRange t.pair 0 (s.extent t.pair) who else s
    if s.fenceDone kind (w.md.toNat / 4) who then (s.flushed kind (w.md.toNat / 4) who).ctlDone t else s.ctlBlock t (.fence kind (w.md.toNat / 4) 1))

/-- FENCE. -/
def execFence (w : FWord) (s : State) : Host.Outcome State Fault Refusal := answer (byStream s (fenceVec w) (fenceCtl w))

end Sys2Proof.Machine
end

