-- ==== Sys2Proof/Machine/Fills.lean ====
section
/-! DEFINITION. Mapped sectors that leave F, the accesses and triggers that wait for them, and the bytes that a unit reads through a pad
(spec/03 R68 to R74, spec/14 R301, R311). -/

namespace Sys2Proof.Machine

/-- The split of an agent goes on past the instruction it waits at. -/
def State.pastSplit (s : State) (t : Team) (r : Rank) (x : Split) : State := s.putRank t.uid (r.putSplit x.past)

/-- Every SPWB whose write-backs are acknowledged goes on (R301). -/
def State.sweepSpwb (s : State) : State :=
  s.teams.foldl (fun s t0 =>
    match s.team t0.uid with
    | none => s
    | some t =>
      let s := match t.ctl.wait with
        | .spwb _ => if s.awaitsWriteback ⟨t.uid, none, 0⟩ then s else s.ctlDone t
        | _ => s
      t.ranks.foldl (fun s r => r.splits.foldl (fun s x =>
        match x.wait with
        | .spwb act =>
          if (maskList act).any (fun p => s.awaitsWriteback ⟨t.uid, some r.num, p⟩) then s
          else match s.splitOf (.vec t.uid r.num x.age) with
            | some (t, r, x) => s.pastSplit t r x
            | none => s
        | _ => s) s) s) s

/-- The grid that stands on a pair. -/
def State.gridOn (s : State) (pair : Nat) : Option Grid := (s.pair pair).grid.bind s.grid

/-- The global address of a mapped sector (R68). -/
def MapEntry.sectorVa (m : MapEntry) (sec : Nat) : Nat := (m.gva + (sec - m.soff)) * 256

/-- A wait for a sector. -/
def Wait.forSector (w : Wait) (pair sec : Nat) : Bool :=
  match w with
  | .sector p n _ => p == pair && n == sec
  | _ => false

/-- An access that waits for a sector issues again (R71). -/
def State.wakeWaiter (s : State) (pair sec : Nat) (who : Who) : State :=
  match s.team who.team with
  | none => s
  | some t =>
    match who.rank with
    | none => if t.ctl.wait.forSector pair sec then s.putTeam { t with ctl := { t.ctl with wait := .none } } else s
    | some j =>
      match t.rank j with
      | none => s
      | some r => match r.splits.find? (fun x => maskHas x.mask who.pos && x.wait.forSector pair sec) with
        | some x => s.putTeam (t.putRank (r.putSplit { x with wait := .none }))
        | none => s

/-- A sector has left F: the accesses that wait for it are released in their order of arrival, and the triggers that wait treat it anew
(R71). -/
def State.releaseWaiters (s : State) (pair sec : Nat) (x : Sector) : State :=
  let s := x.waiters.foldl (fun s who => s.wakeWaiter pair sec who) s
  let s := x.anew.foldl (fun s who => s.trigger pair sec who) s
  if x.anew.isEmpty then s else s.sweepSpwb

/-- A fill that succeeds: the data stands in the sector, its tags are clear, and those that wait are released (R71). -/
def State.fillDone (s : State) (pair sec : Nat) (bytes : List Byte) : State :=
  let p := (s.pair pair).write (sec * 256) bytes false
  let x := (s.pair pair).sector sec
  (s.putPair pair (p.putSector sec { Sector.fresh with st := .c })).releaseWaiters pair sec x

/-- A fault of the sector is with its owner. -/
def State.sectorAsked (s : State) (pair sec : Nat) : Bool := s.faults.any (fun r => decide (r.sector = some (pair, sec)))

/-- A unit's read through a pad fills the mapped sectors it meets at the moment of the read (R71, R311) (DESIGN CHOICE, log 18). -/
def State.padFill (s : State) (pair sec : Nat) : State × UnitRead :=
  match (s.pair pair).mapAt (sec * 256), s.gridOn pair with
  | some (_, m), some g =>
    let va := m.sectorVa sec
    match s.unitAny ⟨pair, g.ctx, 0⟩ va needR with
    | (s, .bad e) => (s, .bad e)
    | (s, .page pg) =>
      if pg.fmt ≠ m.fmt ∨ pg.blk ≠ m.blk then (s, .none)
      else match s.readDev (pg.base + pg.off) 256 m.part with
        | (s, .error e) => (s, .bad e)
        | (s, .ok b) => (s.fillDone pair sec b, .bytes [])
    | (s, _) => (s, .none)
  | _, _ => (s, .bytes [])

/-- Bytes that a unit reads through a pad: a format range refuses them (R42, R95); a granule may be poisoned. -/
def State.unitPad (s : State) (pair off len : Nat) : Nat → State × UnitRead
  | 0 => (s, .bytes (memBytes (s.pair pair).pad off len))
  | n + 1 =>
    if (s.pair pair).onFormat off len then (s, .none)
    else match (s.pair pair).unfilled off len with
      | none => (s, if (s.pair pair).poisoned off len then .bad .poison else .bytes (memBytes (s.pair pair).pad off len))
      | some sec => match s.padFill pair sec with
        | (s, .bytes _) => s.unitPad pair off len n
        | r => r

end Sys2Proof.Machine
end

