-- ==== Sys2Proof/Machine/Heap.lean ====
section
/-! DEFINITION. The device heap of a context: DALLOC and DFREE (spec/14 R303 to R305). -/

namespace Sys2Proof.Machine

/-- PERM of a block capability: LD, ST, TL, TS and AT (R304). -/
def heapPerm : Nat := 0b111011

/-- The size of the smallest class that holds a size (R303). -/
def heapClass (size : Nat) : Nat := 256 <<< ((findBelow (fun k => decide (size ≤ 256 <<< k)) 29).getD 28)

/-- No allocated block meets [lo, lo + len). -/
def Ctx.heapIdle (c : Ctx) (lo len : Nat) : Bool := c.blocks.all (fun b => decide (lo + len ≤ b.1) || decide (b.1 + b.2 ≤ lo))

/-- A free block of a class: which one is an open choice (R304) (DESIGN CHOICE, log 19). -/
def Ctx.heapPick (c : Ctx) (cls choice : Nat) : Option Nat :=
  let n := c.heapLen / cls
  let slots := choice % n :: 0 :: c.blocks.map (fun b => ceilDiv (b.1 + b.2 - c.heapBase) cls)
  ((slots.filter (fun i => decide (i < n))).map (fun i => c.heapBase + i * cls)).find? (fun lo => c.heapIdle lo cls)

/-- Zeroes the bytes of a range of a context's memory, page by page. -/
def State.zeroRange (s : State) (q : Req) (va len : Nat) : Nat → State
  | 0 => s
  | n + 1 =>
    if len = 0 then s
    else
      let size := 2 ^ pageBits (s.region q.ctx (va / 2 ^ 44 % 16)).psz
      let here := min len (size - va % size)
      let s := match s.translate q va needW with
        | (s, .page p) => { s with mem := tabClear s.mem (p.base + p.off) here }
        | (s, _) => s
      s.zeroRange q (va + here) (len - here) n

/-- Allocates a block, whose bytes are kept or zeroed as an open choice, or gives the null capability (R304) (DESIGN CHOICE, log 19). -/
def State.heapTake (s : State) (q : Req) (size : Nat) : State × TCap :=
  match s.ctx q.ctx with
  | none => (s, TCap.null)
  | some c =>
    if size = 0 ∨ c.heapLen < size then (s, TCap.null)
    else
      let cls := heapClass size
      let (i, s) := s.newFree
      match c.heapPick cls (Config.freeNat i) with
      | none => (s, TCap.null)
      | some lo =>
        let s := s.putCtx q.ctx { c with blocks := (lo, cls) :: c.blocks }
        let (j, s) := s.newFree
        let s := if Config.freeBool j then s.zeroRange q lo cls (cls / 4096 + 2) else s
        (s, capOf 1 heapPerm lo cls lo)

/-- The operands of DALLOC obey R304: MOD [2:0] names the predicate. -/
def dallocOk (st : Stream) (w : FWord) : Bool :=
  plainMod w 8 && fldOk st .quad (fldD w) && fldOk st .reg (fldA w) && fldOk st .none (fldB w)

/-- DALLOC of one thread. -/
def dallocThread (w : FWord) (f : Foc) (p : Nat) : Except Stop Foc :=
  match readOpd f.r p .reg (fldA w) with
  | .error t => .error (.trap t)
  | .ok v =>
    if f.r.helper p then
      .ok { f with r := (writeOpd f.r f.x.age p .quad (fldD w) TCap.null).putPred p (w.md.toNat % 8) false }
    else
      let (s, c) := f.s.heapTake f.t.req v.bits.toNat
      let r := f.r.putPred p (w.md.toNat % 8) c.tag
      if w.kd then .ok { f with s := s, r := writeOpd r f.x.age p .quad (fldD w) c }
      else
        let (_, s) := s.start ⟨f.t.uid, some f.r.num, p⟩ f.t.pair f.t.ctx 1 0 (.alloc c w.d.toNat) []
        .ok { f with s := s, r := r.emptyAll p (vregsOf .quad (fldD w)) }

/-- A helper's result where it would trap: the null capability and a false predicate. -/
def dallocZero (w : FWord) (f : Foc) (p : Nat) : Foc :=
  { f with r := (writeOpd f.r f.x.age p .quad (fldD w) TCap.null).putPred p (w.md.toNat % 8) false }

/-- A uniform pass runs once, at its lowest position (R176). -/
def onceIf (uniform : Bool) (ps : List Nat) : List Nat := if uniform then ps.take 1 else ps

/-- DALLOC in the vector stream (R304). -/
def dallocVec (w : FWord) (f : Foc) : State :=
  let ps := f.members w.g.toNat w.gn
  match f.permit ps ⟨fToWord 0x98 w, dallocOk .vec w, vregsOf .quad (fldD w) ++ vregsOf .reg (fldA w),
      vregsOf .quad (fldD w) ++ fullNeeds .reg (fldA w)⟩ with
  | some s => s
  | none =>
    let uniform := w.kd && w.ka && guardP0 w && w.md.toNat % 8 == 0
    let f := f.issue clsPer (guardKey w.g :: keysOf .reg (fldA w)) (keysOf .quad (fldD w) ++ [4096 + w.md.toNat % 8]) ps uniform
    match passLoop (dallocThread w) (dallocZero w) (onceIf uniform ps) f with
    | (f, some (p, st)) => f.stopAt ps p st
    | (f, none) => f.next.close

/-- DALLOC in the control stream: the thread waits for its capability. -/
def dallocCtl (w : FWord) (s : State) (t : Team) : State :=
  ctlPass s t (dallocOk .ctl w && !w.kd) (fToWord 0x98 w) w.g w.gn clsPer (ctlKeysOf .reg (fldA w))
    (ctlKeysOf .quad (fldD w) ++ [2048 + w.md.toNat % 8]) (fun s t =>
      let (s, c) := s.heapTake t.req ((t.ctl.getS w.a.toNat).toNat % 2 ^ 32)
      let (id, s) := s.start ⟨t.uid, none, 0⟩ t.pair t.ctx 1 0 (.alloc c w.d.toNat) []
      s.ctlBlock { t with ctl := t.ctl.putPred (w.md.toNat % 8) c.tag } (.result id))

/-- DALLOC. -/
def execDalloc (w : FWord) (s : State) : Host.Outcome State Fault Refusal := answer (byStream s (dallocVec w) (dallocCtl w))

/-! ## DFREE -/

/-- Bottom and length name exactly one allocated block that no other thread is freeing (R305). -/
def State.heapOwns (s : State) (ctx : Nat) (c : TCap) : Bool :=
  ((s.ctx ctx).map (fun x => x.blocks.any (fun b => b.1 == capBottom c && b.2 == capLen c))).getD false &&
    !s.accesses.any (fun a => a.ctx == ctx && (match a.kind with | .free lo _ => lo == capBottom c | _ => false))

/-- DFREE of one thread up to its wait (R305). -/
def State.heapFree (s : State) (who : Who) (q : Req) (c : TCap) : State × Option Trap :=
  if !c.tag then (s, some (capTrap .capTag 0 (capCursor c : Int) c))
  else if !s.heapOwns q.ctx c then (s, some { code := .illegalOperand, detail := BitVec.ofNat 64 (capBottom c % 2 ^ 32) })
  else
    let (_, s) := s.start who q.pair q.ctx 1 0 (.free (capBottom c) (capLen c)) []
    (s, none)

/-- The blocks that threads gave up join the free lists (R305). -/
def State.releaseFrees (s : State) (mine : Who → Bool) : State :=
  let gone := s.accesses.filter (fun a => mine a.who && (match a.kind with | .free _ _ => true | _ => false))
  let s := gone.foldl (fun s a => match a.kind, s.ctx a.ctx with
    | .free lo _, some c => s.putCtx a.ctx { c with blocks := c.blocks.filter (fun b => b.1 != lo) }
    | _, _ => s) s
  { s with accesses := s.accesses.filter (fun a => !gone.any (fun b => b.id == a.id)) }

/-- Blocks whose threads' earlier accesses are done by now join the free lists (R305). -/
def State.settleFrees (s : State) : State := s.releaseFrees (s.fenceDone 1 4)

/-- The blocks that threads were about to give up stay allocated. -/
def State.keepFrees (s : State) (mine : Who → Bool) : State :=
  { s with accesses := s.accesses.filter (fun a => !(mine a.who && (match a.kind with | .free _ _ => true | _ => false))) }

/-- The operands of DFREE (R305). -/
def dfreeOk (st : Stream) (w : FWord) : Bool :=
  plainMod w 1 && fldOk st .none (fldD w) && !w.kd && fldOk st .quad (fldA w) && fldOk st .none (fldB w)

/-- DFREE of one thread; a helper frees nothing (R175). -/
def dfreeThread (w : FWord) (f : Foc) (p : Nat) : Except Stop Foc :=
  if f.r.helper p then .ok f
  else match readOpd f.r p .quad (fldA w) with
    | .error t => .error (.trap t)
    | .ok c =>
      match f.s.heapFree ⟨f.t.uid, some f.r.num, p⟩ f.t.req c with
      | (_, some t) => .error (.trap t)
      | (s, none) => .ok { f with s := s }

/-- A thread of a rank. -/
def whoIn (uid j : Nat) (m : DWord) (w : Who) : Bool := w.team == uid && decide (w.rank = some j) && maskHas m w.pos

/-- DFREE in the vector stream: it waits as a device-scope release does. -/
def dfreeVec (w : FWord) (f : Foc) : State :=
  let ps := f.members w.g.toNat w.gn
  match f.permit ps ⟨fToWord 0x99 w, dfreeOk .vec w, vregsOf .quad (fldA w), fullNeeds .quad (fldA w)⟩ with
  | some s => s
  | none =>
    match passLoop (dfreeThread w) (fun f _ => f) ps (f.issue clsPer (guardKey w.g :: keysOf .quad (fldA w)) [] ps false) with
    | (f, some (p, st)) => f.stopAt ps p st
    | (f, none) =>
      let who (p : Nat) : Who := ⟨f.t.uid, some f.r.num, p⟩
      let s := ps.foldl (fun s p => s.triggerRange f.t.pair 0 (s.extent f.t.pair) (who p)) (f.s.landPass f.t.uid f.r.num ps)
      if ps.all (fun p => s.fenceDone 1 4 (who p)) then ({ f with s := s.releaseFrees (whoIn f.t.uid f.r.num (maskOf ps)) }.next).close
      else ({ f with s := s }.block (.fence 1 4 (maskOf ps))).close

/-- A control thread. -/
def whoCtl (uid : Nat) (w : Who) : Bool := w.team == uid && decide (w.rank = none)

/-- DFREE in the control stream. -/
def dfreeCtl (w : FWord) (s : State) (t : Team) : State :=
  ctlPass s t (dfreeOk .ctl w) (fToWord 0x99 w) w.g w.gn clsPer (ctlKeysOf .quad (fldA w)) [] (fun s t =>
    let who : Who := ⟨t.uid, none, 0⟩
    match s.heapFree who t.req (t.ctl.getC (w.a.toNat - 64)) with
    | (s, some tr) => s.trapCtl t tr
    | (s, none) =>
      let s := (s.landCtl t.uid).triggerRange t.pair 0 (s.extent t.pair) who
      if s.fenceDone 1 4 who then (s.releaseFrees (whoCtl t.uid)).ctlDone t else s.ctlBlock t (.fence 1 4 1))

/-- DFREE. -/
def execDfree (w : FWord) (s : State) : Host.Outcome State Fault Refusal := answer (byStream s (dfreeVec w) (dfreeCtl w))

end Sys2Proof.Machine
end

