-- ==== Sys2Proof/Machine/Sampled.lean ====
section
/-! DEFINITION. SAMPLE, FETCH and RQUERY, and the remainder records they offer (spec/14 R306 to R309, spec/07 R156 to R164,
spec/20 R433, R434). -/

namespace Sys2Proof.Machine

/-! ## Choosing the level -/

/-- FILT. -/
def smFilt (md : Nat) : Nat := bitsAt md 2 3
/-- LODM. -/
def smLodm (md : Nat) : Nat := bitsAt md 5 2
/-- ADDR. -/
def smAddr (md : Nat) : Nat := bitsAt md 7 2

/-- The smallest n in 1..N with n * n * lo >= hi, or N (R433) (DEDUCED, log 61). -/
def anisoCount (big : Nat) (hi lo : Word) : Nat :=
  (((List.range big).map (fun i => i + 1)).find? (fun (n : Nat) => fvCond 5 ((Fv.ofInt ((n * n : Nat) : Int)).mul (f32 lo)) (f32 hi))).getD big

/-- The level, the trilinear weight, the probe count and the probe step of a SAMPLE, from the quad's coordinates (R433,
R434). -/
def sampleLevel (d md : Nat) (us vs : List Word) (op3 : Word) : Nat × Word × Nat × Word × Word :=
  let u (i : Nat) : Word := us.getD i 0
  let v (i : Nat) : Word := vs.getD i 0
  let w := num32 (txW d 0)
  let h := num32 (txH d 0)
  let du (i : Nat) : Word := fsub (u i) (u 0)
  let dv (i : Nat) : Word := fsub (v i) (v 0)
  let ux := fmul (du 1) w
  let vx := fmul (dv 1) h
  let uy := fmul (du 2) w
  let vy := fmul (dv 2) h
  let px := ffma ux ux (fmul vx vx)
  let py := ffma uy uy (fmul vy vy)
  let hi : Word := BitVec.ofNat 32 (fpMinMax fp32 true false px.toNat py.toNat)
  let lo : Word := BitVec.ofNat 32 (fpMinMax fp32 false false px.toNat py.toNat)
  let half : Word := 0x3F000000
  let lg (x : Word) : Word := fmul half (BitVec.ofNat 32 (fpLg2 .rne (f32 x)))
  let filt := smFilt md
  let n := if 3 ≤ filt then anisoCount (2 ^ (filt - 2)) hi lo else 1
  let lf := if 3 ≤ filt then lg (fmul hi (frcp (num32 (n * n)))) else lg hi
  let lf := if smLodm md = 1 then op3 else if smLodm md = 2 then fadd lf op3 else lf
  let lf := if (f32 lf).isNan then 0 else lf
  let last := txLast d
  let step := if fvCond 5 (f32 px) (f32 py) then (du 1, dv 1) else (du 2, dv 2)
  if filt = 2 then
    let l := (clampFloor 0 last lf).toNat
    let f := if flt lf 0 || l == last then 0 else BitVec.ofNat 32 (fpClamp01 fp32 (fsub lf (num32 l)).toNat)
    (l, f, n, step)
  else ((clampFloor 0 last (fadd lf half)).toNat, 0, n, step)

/-- The coordinates of the probes (R434). -/
def probeCoords (n : Nat) (u v du dv : Word) : List (Word × Word) :=
  if n ≤ 1 then [(u, v)]
  else (List.range n).map (fun (i : Nat) =>
    let k : Int := ((2 * i + 1 : Nat) : Int) - ((n : Nat) : Int)
    let s := ratio32 (decide (k < 0)) k.natAbs (2 * n)
    (ffma du s u, ffma dv s v))

/-! ## The checks and the descriptor -/

/-- What the checks of R153 give a thread: its descriptor, or the error that the descriptor's read met. -/
inductive DescRead where
  | desc (d : Nat)
  | bad (e : ReadErr)

/-- R153: the checks of a capability to a descriptor, in order, the read of the descriptor, and the checks of the ranges it
names. -/
def State.readDesc (s : State) (m : Master) (q : Req) (h : Holder) (c : TCap) : State × Except Trap DescRead :=
  let at_ := capCursor c
  let check (a len align : Nat) : Option Trap := capCheck m permLD align (fun _ => 0) (a : Int) len c
  let illegal : Trap := { code := .illegalOperand, detail := BitVec.ofNat 64 (at_ % 2 ^ 32) }
  if c.tag && !(capSpace c == 1 || capSpace c == 4) then (s, .error illegal)
  else match check at_ 64 64 with
    | some t => (s, .error t)
    | none =>
      match s.unitNat q h at_ 64 with
      | (s, .error e) => (s, .ok (.bad (e, BitVec.ofNat 32 at_)))
      | (s, .ok d) =>
        if txBad d then (s, .error { illegal with detail := BitVec.ofNat 64 at_ })
        else match (txRanges d).findSome? (fun r => check r.1 r.2 1) with
          | some t => (s, .error t)
          | none => (s, .ok (.desc d))

/-! ## The remainder ring -/

/-- A record without its phase (R163). -/
def remainderRecord (gt layer ty tx level status texid ulev : Nat) : Nat :=
  gt % 2 ^ 32 * 2 ^ 96 + layer % 2048 * 2 ^ 85 + ty % 1024 * 2 ^ 75 + tx % 1024 * 2 ^ 65 + level % 32 * 2 ^ 60 + status % 16 * 2 ^ 56 +
    texid % 2 ^ 20 * 2 ^ 36 + ulev % 32 * 2 ^ 31

/-- The lowest index among the oldest entries of a filter. -/
def oldestIdx (l : List FilterEntry) : Nat :=
  (l.zipIdx.foldl (fun (b : Option (FilterEntry × Nat)) e => match b with
    | none => some e
    | some x => if e.1.stamp < x.1.stamp then some e else some x) none).elim 0 (fun e => e.2)

/-- Offers an append to a core's duplicate filter; a fresh key sends it to the header's home (R161) (DEDUCED, log 52). -/
def State.offer (s : State) (core ctx header key record : Nat) : State :=
  let l := tabGet [] s.filters core
  if l.any (fun e => e.key == key && decide (s.gt - e.stamp < 65536)) then s
  else
    let e : FilterEntry := ⟨key, s.gt⟩
    let l := if l.length < 64 then l ++ [e] else listPut l (oldestIdx l) e
    let (id, s) := s.newId
    { s with filters := tabPut [] s.filters core l, appends := s.appends ++ [⟨id, core, ctx, header, record⟩] }

/-- Appends a record when R160 asks for one (DEDUCED, log 52). -/
def State.remainder (s : State) (core ctx : Nat) (d : Nat) (j : TexJob) (u : Option Nat) : State :=
  let status := texStatus d j.level u
  let ring := fieldAt d 229 228
  let header := ((s.ctx ctx).map (fun c => c.rhp.getD ring 0)).getD 0
  if status = 0 ∨ !d.testBit 230 ∨ header = 0 then s
  else
    let tap : Option (Nat × Nat) := match j.probes d j.level (if j.mode = 3 then 1 else j.mode) with
      | p :: _ => (p.taps.head?).join
      | [] => none
    let tx := if txTail d ≤ j.level then 0 else ((tap.map (fun t => t.1)).getD 0) / txTw d
    let ty := if txTail d ≤ j.level then 0 else ((tap.map (fun t => t.2)).getD 0) / txTh d
    let texid := fieldAt d 227 208
    let key := ((((((ctx * 4 + ring) * 2 ^ 20 + texid) * 32 + j.level) * 1024 + tx) * 1024 + ty) * 2048 + j.layer)
    s.offer core ctx header key (remainderRecord s.gt j.layer ty tx j.level status texid (u.getD 31))

/-! ## The pass -/

/-- A sampled load: operation 0 SAMPLE, 1 FETCH, 2 RQUERY, and its opcode. -/
def smOpcode (op : Nat) : BitVec 8 := if op = 0 then 0x91 else if op = 1 then 0x92 else 0x93

/-- How many registers D takes. -/
def smCount (op md : Nat) : Nat := if op = 2 then 1 else channelsOf md + 1

/-- How many registers B takes. -/
def smArgs (op md : Nat) : Nat := if op = 0 then (if smLodm md = 0 then 3 else 4) else 4

/-- The field rules of R306; implicit levels need quad mode. -/
def smOk (op : Nat) (quad : Bool) (st : Stream) (w : FWord) : Bool :=
  let md := w.md.toNat
  (match op with
    | 0 => decide (md < 512) && decide (md % 4 ≠ 3) && decide (smFilt md ≠ 7) && decide (smLodm md ≠ 3) && (quad || smLodm md == 1)
    | 1 => decide (md < 3)
    | _ => decide (md < 2)) &&
  (match st with
    | .vec => fldOk .vec (.run (smCount op md)) (fldD w) && fldOk .vec .quad (fldA w) && fldOk .vec (.run (smArgs op md)) (fldB w)
    | .ctl => fldOk .ctl .reg (fldD w) && !w.kd && fldOk .ctl .quad (fldA w) && fldOk .ctl .reg (fldB w) && decide (w.b.toNat + 3 < 64))

/-- The job of a thread from its operands (R156, R307, R433). -/
def smJob (op d md : Nat) (args us vs : List Word) : TexJob × Option Nat × Word × Nat :=
  let a (i : Nat) : Word := args.getD i 0
  if op = 0 then
    let (l, f, n, du, dv) := sampleLevel d md us vs (a 3)
    ({ fetch := false, level := l, layer := min (a 2).toNat (txLm1 d), filt := smFilt md, mode := smAddr md,
       coords := probeCoords n (a 0) (a 1) du dv, texel := (0, 0) }, some l, f, n)
  else
    let l := (a 3).toNat
    let ok := decide (l ≤ txLast d) && decide ((a 0).toNat < txW d l) && decide ((a 1).toNat < txH d l) && decide ((a 2).toNat ≤ txLm1 d)
    ({ fetch := true, level := l, layer := (a 2).toNat, filt := 0, mode := 0, coords := [], texel := ((a 0).toNat, (a 1).toNat) },
      if ok then some l else none, 0, 1)

/-- What the map bits decide for a job: the used levels, or the error of a map read (R156, R158). -/
def State.smLevels (s : State) (q : Req) (h : Holder) (d : Nat) (j : TexJob) (tri : Bool) (from_ : Option Nat) :
    State × Except UnitErr (Option Nat × List Nat) :=
  match from_ with
  | none => (s, .ok (none, []))
  | some l =>
    match s.resolveLevel q h d j l 33 with
    | (s, .error e) => (s, .error e)
    | (s, .ok none) => (s, .ok (none, []))
    | (s, .ok (some u)) =>
      if !tri then (s, .ok (some u, [u]))
      else if u = l then
        match s.resolveLevel q h d j (min (l + 1) (txLast d)) 33 with
        | (s, .error e) => (s, .error e)
        | (s, .ok v) => (s, .ok (some u, [u, v.getD u]))
      else (s, .ok (some u, [u, min (u + 1) (txLast d)]))

/-- A sampled load after its checks and operands: the access that carries its level, and its status (DESIGN CHOICE, log 17). -/
def State.smStart (s : State) (q : Req) (core op md : Nat) (helper : Bool) (dr : DescRead) (args us vs : List Word) (reg : Nat) : AccKind × State :=
  let h : Holder := .texture core
  match dr with
  | .bad e => (.texture op 0 md [] [] [] 0 0 (some e) reg, s)
  | .desc d =>
    let (j, from_, f, n) := smJob op d md args us vs
    match s.smLevels q h d j (op == 0 && smFilt md == 2) from_ with
    | (s, .error e) => (.texture op d md [] [] [] 0 0 (some e.mark) reg, s)
    | (s, .ok (u, levels)) =>
      let s := if helper || (op == 2 && !md.testBit 0) || from_.isNone then s else s.remainder core q.ctx d j u
      let wt := if op = 0 && smFilt md == 2 then f else if n ≤ 1 then one32 else ratio32 false 1 n
      (.texture op d md [BitVec.ofNat 32 j.layer, BitVec.ofNat 32 j.level, BitVec.ofNat 32 j.texel.1, BitVec.ofNat 32 j.texel.2]
        (j.coords.flatMap (fun c => [c.1, c.2])) levels wt (statusWord d j.level u) none reg, s)

/-- Coordinates from their flat list. -/
def pairUp : List Word → List (Word × Word)
  | a :: b :: l => (a, b) :: pairUp l
  | _ => []

/-- One probe's island request (R401) (DEDUCED, log 79). -/
def probeRequest (idx count filt mode u : Nat) (coarse : Bool) (wt : Word) (p : Probe) (texels : List Word) : List Word :=
  [p.fx, p.fy, wt, BitVec.ofNat 32 (idx + (count - 1) % 16 * 16 + filt * 256 + mode * 2048 + u * 8192 + (if coarse then 2 ^ 18 else 0))] ++ texels

/-- Adds the responses of a sample channel by channel, in probe order (R402). -/
def sumProbes : List (List Word) → List Word
  | [] => [0, 0, 0, 0]
  | a :: l => l.foldl (fun a b => (a.zip b).map (fun c => fadd c.1 c.2)) a

/-- The error that marks a sample's data: a fault of the island, else the read at the lower address. -/
def worseErr (a b : Option UnitErr) : Option UnitErr :=
  match a, b with
  | some a, some b => if a.1 = .islandFault then some a else if b.1 = .islandFault then some b else lowerErr (some a) (some b)
  | a, b => lowerErr a b

/-- Runs the probes of a sample through the texture island; an answer that does not come is ISLAND_FAULT, with the island's kind as detail
(R292, R390). -/
def State.runProbes (s : State) (q : Req) (core d layer filt mode u count : Nat) :
    List (Nat × Nat × Bool × Word × Probe) → State × List (List Word) × Option UnitErr
  | [] => (s, [], none)
  | (i, l, coarse, wt, p) :: rest =>
    let (s, ts, e) := s.texels q (.texture core) d l layer p.taps
    let (s, ans) := s.askIsland 0 core (probeRequest i count filt mode u coarse wt p ts)
    let (s, more, e') := s.runProbes q core d layer filt mode u count rest
    let mine : Option UnitErr := match ans with
      | none => some (.islandFault, 0)
      | some _ => e
    (s, ans.getD [] :: more, worseErr mine e')

/-- The data of a sampled load, and the error that marks it (R307, R434). -/
def State.smData (s : State) (q : Req) (core op d md : Nat) (args probe : List Word) (levels : List Nat) (weight : Word) :
    State × List Word × Option UnitErr :=
  let a (i : Nat) : Nat := (args.getD i 0).toNat
  let coords := pairUp probe
  let j : TexJob := { fetch := op == 1, level := a 1, layer := a 0, filt := if op = 0 then smFilt md else 0, mode := if op = 0 then smAddr md else 0,
                      coords := coords, texel := (a 2, a 3) }
  let sets : List (Nat × Bool × Word) := match levels with
    | [u] => [(u, false, weight)]
    | [u, v] => [(u, false, fsub one32 weight), (v, true, weight)]
    | _ => []
  let all := sets.flatMap (fun e => (j.probes d e.1 j.mode).map (fun p => (e.1, e.2.1, e.2.2, p)))
  let (s, l, e) := s.runProbes q core d j.layer j.filt j.mode (levels.headD 0) all.length
    (all.zipIdx.map (fun e => (e.2, e.1.1, e.1.2.1, e.1.2.2.1, e.1.2.2.2)))
  (s, sumProbes l, e)

/-- The core whose units serve an agent (R171, R400). -/
def State.coreOfWho (s : State) (w : Who) : Nat :=
  match s.team w.team with
  | none => 0
  | some t => match w.rank.bind t.rank with
    | some r => coreOf t.pair r.rod
    | none => 2 * t.pair + t.layer

/-- The registers a sampled load writes, in order from its first: values, or the mark each takes (R292, R307, R308). -/
def smResult (op md : Nat) (status : Word) (err : Option ReadErr) (data : List Word) (dataErr : Option ReadErr) : List (Word × Option ReadErr) :=
  let n := if op = 2 then 0 else channelsOf md
  match err with
  | some e => List.replicate (n + 1) (0, some e)
  | none => (List.range n).map (fun i => (if dataErr.isSome then 0 else data.getD i 0, dataErr)) ++ [(status, none)]

/-- The results of an access of a sampled load. -/
def State.smFinish (s : State) (q : Req) (core : Nat) (k : AccKind) : State × List (Word × Option ReadErr) :=
  match k with
  | .texture op d md args probe levels weight status err _ =>
    if err.isSome || op == 2 then (s, smResult op md status err [] none)
    else
      let (s, data, e) := s.smData q core op d md args probe levels weight
      (s, smResult op md status none data (e.map UnitErr.mark))
  | _ => (s, [])

/-- Writes results to consecutive k registers; a mark is raised at once, as a k register has none. -/
def Rank.writeKs (r : Rank) (age n : Nat) (l : List (Word × Option ReadErr)) : Except Trap Rank :=
  match l.findSome? (fun e => e.2) with
  | some e => .error { code := e.1, detail := e.2.setWidth 64 }
  | none => .ok (l.zipIdx.foldl (fun r e => r.writeK age (n + e.2) e.1.1) r)

/-- A coordinate of a position of a quad, as its register stands (R433). -/
def quadCoord (r : Rank) (w : FWord) (p i : Nat) : Word :=
  if w.kb then (r.kreg (w.b.toNat + i)).val else (r.vreg p (w.b.toNat + i)).val

/-- A sampled load of one thread (DESIGN CHOICE, log 17). -/
def smThread (op : Nat) (w : FWord) (f : Foc) (p : Nat) : Except Stop Foc :=
  let md := w.md.toNat
  let core := coreOf f.t.pair f.r.rod
  match readOpd f.r p .quad (fldA w) with
  | .error t => .error (.trap t)
  | .ok c =>
    match f.s.readDesc .vec f.t.req (.texture core) c with
    | (_, .error t) => .error (.trap t)
    | (s, .ok dr) =>
      match readRegs f.r p w.kb w.tb w.b.toNat (smArgs op md) with
      | .error t => .error (.trap t)
      | .ok args =>
        let quad (i : Nat) : List Word := (List.range 3).map (fun k => quadCoord f.r w (p / 4 * 4 + k) i)
        let who : Who := ⟨f.t.uid, some f.r.num, p⟩
        let (kind, s) := s.smStart f.t.req core op md (f.r.helper p) dr args (quad 0) (quad 1) w.d.toNat
        if w.kd then
          let (s, l) := s.smFinish f.t.req core kind
          match f.r.writeKs f.x.age w.d.toNat l with
          | .error t => .error (.trap t)
          | .ok r => .ok { f with s := s, r := r }
        else
          let (_, s) := s.start who f.t.pair f.t.ctx 1 (capCursor c) kind []
          .ok { f with s := s, r := f.r.emptyAll p (vregsOf (.run (smCount op md)) (fldD w)) }

/-- What a helper that would trap gets: zeros (R175). -/
def smZero (op : Nat) (w : FWord) (f : Foc) (p : Nat) : Foc :=
  { f with r := (List.range (smCount op w.md.toNat)).foldl (fun r i =>
      if w.kd then r.writeK f.x.age (w.d.toNat + i) 0 else r.writeV p (w.d.toNat + i) 0) f.r }

/-- A sampled load in the vector stream. -/
def smVec (op : Nat) (w : FWord) (f : Foc) : State :=
  let ps := f.members w.g.toNat w.gn
  let md := w.md.toNat
  let d : Opd := .run (smCount op md)
  let b : Opd := .run (smArgs op md)
  match f.permit ps ⟨fToWord (smOpcode op) w, smOk op (f.s.quadMode f.t.grid) .vec w, vregsOf d (fldD w) ++ vregsOf .quad (fldA w) ++ vregsOf b (fldB w),
      vregsOf d (fldD w) ++ fullNeeds .quad (fldA w) ++ fullNeeds b (fldB w)⟩ with
  | some s => s
  | none =>
    let uniform := w.kd && w.ka && w.kb && guardP0 w
    let f := f.issue clsPer (guardKey w.g :: keysOf .quad (fldA w) ++ keysOf b (fldB w)) (keysOf d (fldD w)) ps uniform
    match passLoop (smThread op w) (smZero op w) (onceIf uniform ps) f with
    | (f, some (p, st)) => f.stopAt ps p st
    | (f, none) => f.next.close

/-- SAMPLE (R306, R307). -/
def execSample (w : FWord) (s : State) : Host.Outcome State Fault Refusal := answer (byStream s (smVec 0 w) (notInCtl 0x91 w))
/-- FETCH (R306, R307). -/
def execFetch (w : FWord) (s : State) : Host.Outcome State Fault Refusal := answer (byStream s (smVec 1 w) (notInCtl 0x92 w))

/-- RQUERY in the control stream (R309): the thread waits for its status word; an error is raised at the instruction. -/
def rqueryCtl (w : FWord) (s : State) (t : Team) : State :=
  ctlPass s t (smOk 2 false .ctl w) (fToWord 0x93 w) w.g w.gn clsPer
    (ctlKeysOf .quad (fldA w) ++ ctlKeysOf (.run 4) (fldB w)) (ctlKeysOf .reg (fldD w)) (fun s t =>
      let core := 2 * t.pair + t.layer
      match s.readDesc .ctl t.req (.texture core) (t.ctl.getC (w.a.toNat - 64)) with
      | (s, .error tr) => s.trapCtl t tr
      | (s, .ok dr) =>
        let args := (List.range 4).map (fun i => (t.ctl.getS (w.b.toNat + i)).extractLsb' 0 32)
        let who : Who := ⟨t.uid, none, 0⟩
        let (kind, s) := s.smStart t.req core 2 w.md.toNat false dr args [] [] w.d.toNat
        let (id, s) := s.start who t.pair t.ctx 1 0 kind []
        s.ctlBlock t (.result id))

/-- RQUERY (R309). -/
def execRquery (w : FWord) (s : State) : Host.Outcome State Fault Refusal := answer (byStream s (smVec 2 w) (rqueryCtl w))

end Sys2Proof.Machine
end

