-- ==== Sys2Proof/Machine/Ray.lean ====
section
/-! DEFINITION. Ray queries: nodes, boxes, instances, traversal and TRACE (spec/14 R310, R311, spec/20 R414 to R422). -/

namespace Sys2Proof.Machine

/-! ## Nodes -/

/-- Which unit reads nodes, and through which capability. -/
structure NodeReq where
  q : Req
  m : Master
  holder : Holder
  core : Nat
  root : TCap
  cull : Bool
  first : Bool

/-- Why a node does not give its bytes: absent or refused, outside the bounds, or bad data (R311). -/
inductive NodeErr where
  | absent | outside | bad
  deriving DecidableEq, Repr

/-- A read of a node as a number (R311, R414). -/
def State.nodeRead (s : State) (n : NodeReq) (va len : Nat) : State × Except NodeErr Nat :=
  let space := capSpace n.root
  if !capInBounds (s.extentOf n.q.pair) (va : Int) len n.root then (s, .error .outside)
  else if space = 1 ∨ space = 4 then
    match s.unitRead n.q n.holder va len (len + 1) with
    | (s, .bytes l) => (s, .ok (leNat l))
    | (s, .none) => (s, .error .absent)
    | (s, .bad _) => (s, .error .bad)
  else if space = 5 then (s, .error .absent)
  else
    match s.unitPad (homePair n.q.pair space va) (va % 2 ^ 19) len (len + 2) with
    | (s, .bytes l) => (s, .ok (leNat l))
    | (s, .none) => (s, .error .absent)
    | (s, .bad _) => (s, .error .bad)

/-- A child reference as the units take it (R414, R418). -/
inductive NodeRef where
  | empty
  | box (va : Nat)
  | run (va count : Nat)
  | inst (va : Nat)

/-- Reads a reference: a reserved kind or bit, and a misaligned address, count as empty (R418). -/
def nodeRef (v : Nat) : NodeRef :=
  let kind := bitsAt v 60 4
  let nm1 := bitsAt v 55 5
  let va := bitsAt v 0 48
  if bitsAt v 48 7 ≠ 0 then .empty
  else if kind = 2 then (if va % 16 = 0 then .run va (nm1 + 1) else .empty)
  else if nm1 ≠ 0 ∨ va % 64 ≠ 0 then .empty
  else if kind = 1 then .box va
  else if kind = 3 then .inst va
  else .empty

/-! ## Rays -/

/-- A ray in one space: origin and direction. -/
structure RayVec where
  o : List Word
  d : List Word

/-- An accepted hit. -/
structure RayHit where
  t : Word
  prim : Word
  inst : Word
  u : Word
  v : Word

/-- A ray under way: its limits, its best hit, whether FIRST has ended it, and the node error or the island's failure that has. -/
structure RayRun where
  s : State
  tmin : Word
  tmax : Word
  hit : Option RayHit
  ended : Bool
  err : Option NodeErr

/-- A component of a matrix row applied to a vector, exact and rounded once (R419). -/
def rowDot (m : Nat) (r : Nat) (v : List Word) (point : Bool) : Word :=
  let c (k : Nat) : Word := BitVec.ofNat 32 (bitsAt m (32 * (4 * r + k)) 32)
  let ts := (List.range 3).map (fun k => (f32 (c k)).mul (f32 (v.getD k 0)))
  BitVec.ofNat 32 (fpSum fp32 .rne (if point then ts ++ [f32 (c 3)] else ts))

/-- The object-space ray of an instance (R419). -/
def RayVec.into (r : RayVec) (m : Nat) : RayVec :=
  ⟨(List.range 3).map (fun i => rowDot m i r.o true), (List.range 3).map (fun i => rowDot m i r.d false)⟩

/-- The greater of two values that are no NaNs. -/
def fvMax (a b : Fv) : Fv := if fvCond 2 a b then b else a
/-- The lesser of two values that are no NaNs. -/
def fvMin (a b : Fv) : Fv := if fvCond 2 b a then b else a

/-- The two plane values of an axis in exact arithmetic, as lesser and greater; none when one is a NaN. A value of the form
0 * infinity counts below everything for the lesser and above everything for the greater (R420) (DEDUCED, log 80). -/
def planeValues (lo hi o inv : Word) : Option (Fv × Fv) :=
  let diff (b : Word) : Fv := fvSum .rne [f32 b, (f32 o).neg]
  let odd (b : Word) : Bool := (match diff b, f32 inv with | .fin _ m _, .inf _ => decide (m = 0) | _, _ => false)
  let val (b : Word) (neg : Bool) : Fv := if odd b then .inf neg else (diff b).mul (f32 inv)
  if (val lo true).isNan || (val hi true).isNan then none
  else some (fvMin (val lo true) (val hi true), fvMax (val lo false) (val hi false))

/-- The entry distance of a ray into child i of a box node, when it is hit (R415, R420). -/
def boxEntry (r : RayVec) (tmin tmax : Word) (node i : Nat) : Option Fv :=
  let b (k : Nat) : Word := BitVec.ofNat 32 (bitsAt node (192 * i + 32 * k) 32)
  if (List.range 6).any (fun k => (f32 (b k)).isNan) || r.o.any (fun w => (f32 w).isNan) || r.d.any (fun w => (f32 w).isNan) then none
  else
    match (List.range 3).mapM (fun a => planeValues (b a) (b (3 + a)) (r.o.getD a 0) (frcp (r.d.getD a 0))) with
    | none => none
    | some l =>
      let near := l.foldl (fun n e => fvMax n e.1) (f32 tmin)
      let far := l.foldl (fun n e => fvMin n e.2) (f32 tmax)
      if fvCond 3 near far then some near else none

/-- Inserts a hit child by (entry distance, child index) (R421). -/
def insertChild (c : Fv × Nat) : List (Fv × Nat) → List (Fv × Nat)
  | [] => [c]
  | d :: l => if fvCond 2 c.1 d.1 || (fvCond 0 c.1 d.1 && decide (c.2 < d.2)) then c :: d :: l else d :: insertChild c l

/-- The request of a leaf record (R401, R416) (DEDUCED, log 80). -/
def leafRequest (n : NodeReq) (r : RayVec) (tmin tmax inst : Word) (rec_ : Nat) : List Word :=
  let w (k : Nat) : Word := BitVec.ofNat 32 (bitsAt rec_ (32 * k) 32)
  r.o ++ r.d ++ [tmin, tmax] ++ (List.range 12).map w ++
    [w 9, inst, BitVec.ofNat 32 ((if n.cull then 1 else 0) + (if n.first then 2 else 0) + 16 * bitsAt rec_ 324 4), 0]

/-- Whether a hit comes before another of the same distance: lower instance id, then lower primitive id (R310). -/
def hitBefore (a b : RayHit) : Bool := decide (a.inst.toNat < b.inst.toNat) || (decide (a.inst = b.inst) && decide (a.prim.toNat < b.prim.toNat))

/-- One leaf record against a ray (R402, R416, R421) (DEDUCED, log 80). -/
def RayRun.leaf (x : RayRun) (n : NodeReq) (r : RayVec) (inst : Word) (va : Nat) : RayRun :=
  if x.ended || x.err.isSome then x
  else match x.s.nodeRead n va 48 with
    | (s, .error e) => { x with s := s, err := some e }
    | (s, .ok rec_) =>
      let x := { x with s := s }
      if bitsAt rec_ 320 4 ≠ 0 ∨ bitsAt rec_ 328 24 ≠ 0 then x
      else match s.askIsland 1 n.core (leafRequest n r x.tmin x.tmax inst rec_) with
        | (s, none) => { x with s := s, err := some .bad }
        | (s, some o) =>
          let x := { x with s := s }
          let t := o.getD 0 0
          let flags := o.getD 3 0
          let ok := flags.getLsbD 0 && fle x.tmin t && fle t x.tmax && !(n.cull && flags.getLsbD 1)
          let h : RayHit := ⟨t, BitVec.ofNat 32 (bitsAt rec_ 288 32), inst, o.getD 1 0, o.getD 2 0⟩
          let better := match x.hit with
            | none => true
            | some b => flt t b.t || (fvCond 0 (f32 t) (f32 b.t) && hitBefore h b)
          if !ok || !better then x else { x with hit := some h, tmax := if n.first then x.tmax else t, ended := n.first }

/-- The records of a run, in order. -/
def RayRun.leaves (x : RayRun) (n : NodeReq) (r : RayVec) (inst : Word) (va : Nat) : Nat → RayRun
  | 0 => x
  | k + 1 => (x.leaf n r inst va).leaves n r inst (va + 48) k

/-- The visit of a node, `fuel` levels above depth 16 (R418, R421). -/
def RayRun.visit (n : NodeReq) (world : RayVec) : Nat → RayVec → Option Word → NodeRef → RayRun → RayRun
  | 0, _, _, _, x => x
  | fuel + 1, r, inst, ref, x =>
    if x.ended || x.err.isSome then x
    else match ref with
      | .empty => x
      | .run va count => x.leaves n r (inst.getD 0xFFFFFFFF) va count
      | .inst va =>
        if inst.isSome then x
        else match x.s.nodeRead n va 64 with
          | (s, .error e) => { x with s := s, err := some e }
          | (s, .ok v) =>
            let x := { x with s := s }
            let child := nodeRef (bitsAt v 384 64)
            match child with
            | .inst _ => x
            | _ => if bitsAt v 480 32 ≠ 0 then x
              else RayRun.visit n world fuel (world.into (bitsAt v 0 384)) (some (BitVec.ofNat 32 (bitsAt v 448 32))) child x
      | .box va =>
        match x.s.nodeRead n va 128 with
        | (s, .error e) => { x with s := s, err := some e }
        | (s, .ok v) =>
          let x := { x with s := s }
          let hits := (List.range 4).filterMap (fun i => (boxEntry r x.tmin x.tmax v i).map (fun e => (e, i)))
          (hits.foldr insertChild []).foldl (fun x c =>
            if fvCond 4 c.1 (f32 x.tmax) then x else RayRun.visit n world fuel r inst (nodeRef (bitsAt v (768 + 64 * c.2) 64)) x) x

/-- A ray as it is given: origin, direction, tmin and tmax (R310). -/
def rayMisses (ray : List Word) : Bool :=
  ray.any (fun w => (f32 w).isNan) || ((ray.drop 3).take 3).all (fun w => decide (w.toNat % 2 ^ 31 = 0)) || flt (ray.getD 7 0) (ray.getD 6 0)

/-- The row of a miss (R311). -/
def missRow : List Word := [0x7F800000, 0xFFFFFFFF, 0xFFFFFFFF, 0, 0]

/-- The row of a ray that a node error ended (R311). -/
def errorRow (e : NodeErr) : List Word :=
  [nan32, (match e with | .absent => 0xFFFFFFFE | .outside => 0xFFFFFFFD | .bad => 0xFFFFFFFC), 0xFFFFFFFF, 0, 0]

/-- Casts a ray from a node (R310, R311) (DESIGN CHOICE, log 18). -/
def State.castRay (s : State) (n : NodeReq) (ref : NodeRef) (ray : List Word) : State × List Word :=
  if rayMisses ray then (s, missRow)
  else
    let r : RayVec := ⟨ray.take 3, (ray.drop 3).take 3⟩
    let x := RayRun.visit n r 16 r none ref ⟨s, ray.getD 6 0, ray.getD 7 0, none, false, none⟩
    (x.s, match x.err, x.hit with
      | some e, _ => errorRow e
      | none, some h => [h.t, h.prim, h.inst, h.u, h.v]
      | none, none => missRow)

/-- The reference to the root of a capability: a misaligned one is empty (R310, R418) (DEDUCED, log 80). -/
def rootRef (c : TCap) : NodeRef := if capCursor c % 64 = 0 then .box (capCursor c) else .empty

/-- The five words of an access of TRACE. -/
def State.traceWords (s : State) (q : Req) (core : Nat) (root : TCap) (md : Nat) (ray : List Word) : State × List Word :=
  s.castRay ⟨q, .vec, .nodes core, core, root, md.testBit 1, md.testBit 0⟩ (rootRef root) ray

/-- TRACE of one thread (R310) (DESIGN CHOICE, log 18). -/
def traceThread (w : FWord) (f : Foc) (p : Nat) : Except Stop Foc :=
  match readOpd f.r p .quad (fldA w) with
  | .error t => .error (.trap t)
  | .ok c =>
    match readRegs f.r p w.kb w.tb w.b.toNat 8 with
    | .error t => .error (.trap t)
    | .ok ray =>
      match capCheck .vec permLD 1 (f.s.extentOf f.t.pair) (capCursor c : Int) 128 c with
      | some t => .error (.trap t)
      | none =>
        if w.kd then
          let (s, l) := f.s.traceWords f.t.req (coreOf f.t.pair f.r.rod) c w.md.toNat ray
          .ok { f with s := s, r := l.zipIdx.foldl (fun r e => r.writeK f.x.age (w.d.toNat + e.2) e.1) f.r }
        else
          let (_, s) := f.s.start ⟨f.t.uid, some f.r.num, p⟩ f.t.pair f.t.ctx (capSpace c) (capCursor c) (.trace c w.md.toNat ray w.d.toNat) []
          .ok { f with s := s, r := f.r.emptyAll p (vregsOf (.run 5) (fldD w)) }

/-- What a helper that would trap gets. -/
def traceZero (w : FWord) (f : Foc) (p : Nat) : Foc :=
  { f with r := (List.range 5).foldl (fun r i => if w.kd then r.writeK f.x.age (w.d.toNat + i) 0 else r.writeV p (w.d.toNat + i) 0) f.r }

/-- TRACE in the vector stream (R306, R310). -/
def traceVec (w : FWord) (f : Foc) : State :=
  let ps := f.members w.g.toNat w.gn
  match f.permit ps ⟨fToWord 0x94 w, plainMod w 4 && fldOk .vec (.run 5) (fldD w) && fldOk .vec .quad (fldA w) && fldOk .vec (.run 8) (fldB w),
      vregsOf (.run 5) (fldD w) ++ vregsOf .quad (fldA w) ++ vregsOf (.run 8) (fldB w),
      vregsOf (.run 5) (fldD w) ++ fullNeeds .quad (fldA w) ++ fullNeeds (.run 8) (fldB w)⟩ with
  | some s => s
  | none =>
    let uniform := w.kd && w.ka && w.kb && guardP0 w
    let f := f.issue clsPer (guardKey w.g :: keysOf .quad (fldA w) ++ keysOf (.run 8) (fldB w)) (keysOf (.run 5) (fldD w)) ps uniform
    match passLoop (traceThread w) (traceZero w) (onceIf uniform ps) f with
    | (f, some (p, st)) => f.stopAt ps p st
    | (f, none) => f.next.close

/-- TRACE. -/
def execTrace (w : FWord) (s : State) : Host.Outcome State Fault Refusal := answer (byStream s (traceVec w) (notInCtl 0x94 w))

end Sys2Proof.Machine
end

