-- ==== Sys2Proof/Machine/Beams.lean ====
section
/-! DEFINITION. BEAM: the beam descriptor, projection, coverage by regions, and the visibility words (spec/16 R351, spec/20 R424 to
R427). -/

namespace Sys2Proof.Machine

/-! ## The beam descriptor -/

/-- FP32 word i of PROJ (R425). -/
def beamProj (d i : Nat) : Word := BitVec.ofNat 32 (bitsAt d (32 * i) 32)
/-- FP32 word i of RAYS. -/
def beamRay (d i : Nat) : Word := BitVec.ofNat 32 (bitsAt d (384 + 32 * i) 32)
/-- WM1. -/
def beamWm1 (d : Nat) : Nat := bitsAt d 768 16
/-- HM1. -/
def beamHm1 (d : Nat) : Nat := bitsAt d 784 16
/-- VBPITCH. -/
def beamPitch (d : Nat) : Nat := bitsAt d 800 32
/-- NEAR. -/
def beamNear (d : Nat) : Word := BitVec.ofNat 32 (bitsAt d 832 32)
/-- CULL. -/
def beamCull (d : Nat) : Nat := bitsAt d 864 2

/-- Round(a / b, FP32, RNE) of exact values (R425). -/
def divRound (a b : Fv) : Word :=
  match a, b with
  | .nan, _ => nan32
  | _, .nan => nan32
  | .inf _, .inf _ => nan32
  | .inf s, .fin t _ _ => w32 (.inf (s != t))
  | .fin s _ _, .inf t => w32 (.fin (s != t) 0 0)
  | .fin s m e, .fin t n g =>
    if n = 0 then (if m = 0 then nan32 else w32 (.inf (s != t)))
    else
      let k := n.log2 + 64
      BitVec.ofNat 32 (fpRoundMag fp32 .rne (s != t) (m * 2 ^ k / n) (e - g - k) (decide (m * 2 ^ k % n ≠ 0)))

/-- The exact value of a row of PROJ at a vertex of a leaf record (R416, R425). -/
def projRow (d rec_ row vertex : Nat) : Fv :=
  let v (c : Nat) : Fv := f32 (BitVec.ofNat 32 (bitsAt rec_ (32 * (3 * vertex + c)) 32))
  let m (c : Nat) : Fv := f32 (beamProj d (4 * row + c))
  fvSum .rne ((List.range 3).map (fun c => (m c).mul (v c)) ++ [m 3])

/-- A triangle that the projection does not reach: a vertex with W below NEAR (R426). -/
def nearTriangle (d rec_ : Nat) : Bool := (List.range 3).any (fun j => fvCond 2 (projRow d rec_ 2 j) (f32 (beamNear d)))

/-- The screen vertices of a triangle, i0 to i8 of a coverage request (R401, R425). -/
def projWords (d rec_ : Nat) : List Word :=
  (List.range 3).flatMap (fun j =>
    let w := projRow d rec_ 2 j
    [divRound (projRow d rec_ 0 j) w, divRound (projRow d rec_ 1 j) w, divRound (f32 (beamNear d)) w])

/-- The ray of a pixel (R425), from 0 to infinity (DEDUCED, log 81). -/
def pixelRay (d x y : Nat) : List Word :=
  let dir (c : Nat) : Word := BitVec.ofNat 32 (fpSum fp32 .rne
    [f32 (beamRay d (3 + c)), (Fv.fin false x 0).mul (f32 (beamRay d (6 + c))), (Fv.fin false y 0).mul (f32 (beamRay d (9 + c)))])
  (List.range 3).map (beamRay d) ++ (List.range 3).map dir ++ [0, 0x7F800000]

/-! ## Items -/

/-- What the traversal of a beam reaches (R426): a leaf record with its address, or an instance node with the levels below it. -/
inductive BeamItem where
  | leaf (rec_ va : Nat)
  | inst (va fuel : Nat)

/-- The records of a run; one that cannot be read is left out (R311, R351) (DEDUCED, log 81). -/
def State.beamLeaves (s : State) (n : NodeReq) (va : Nat) : Nat → State × List BeamItem
  | 0 => (s, [])
  | k + 1 =>
    let (s, l) := match s.nodeRead n va 48 with
      | (s, .error _) => (s, [])
      | (s, .ok v) => (s, if bitsAt v 320 4 ≠ 0 ∨ bitsAt v 328 24 ≠ 0 then [] else [BeamItem.leaf v va])
    let (s, m) := s.beamLeaves n (va + 48) k
    (s, l ++ m)

/-- The items below a reference, no box culled (R418, R426) (DESIGN CHOICE, log 81). -/
def State.beamItems (n : NodeReq) : Nat → NodeRef → State → State × List BeamItem
  | 0, _, s => (s, [])
  | fuel + 1, ref, s =>
    match ref with
    | .empty => (s, [])
    | .run va count => s.beamLeaves n va count
    | .inst va => (s, [.inst va (fuel + 1)])
    | .box va =>
      match s.nodeRead n va 128 with
      | (s, .error _) => (s, [])
      | (s, .ok v) =>
        (List.range 4).foldl (fun (a : State × List BeamItem) i =>
          let b := State.beamItems n fuel (nodeRef (bitsAt v (768 + 64 * i) 64)) a.1
          (b.1, a.2 ++ b.2)) (s, [])

/-! ## Regions -/

/-- The largest update of each pixel of the tile so far: 8 y + x within the tile. -/
structure BeamRun where
  s : State
  best : Tab Nat

/-- An update of a pixel of the tile (R424): a depth outside [+0, 1.0] is not written. -/
def BeamRun.update (r : BeamRun) (i : Nat) (depth prim : Word) : BeamRun :=
  if depth.toNat ≤ 0x3F800000 then { r with best := tabMod 0 r.best i (fun v => max v (depth.toNat * 2 ^ 32 + prim.toNat)) } else r

/-- A pixel's ray against one item (R426). -/
def BeamRun.cast (r : BeamRun) (n : NodeReq) (d x y : Nat) (item : BeamItem) : BeamRun :=
  let ray := pixelRay d x y
  if rayMisses ray then r
  else
    let v : RayVec := ⟨ray.take 3, (ray.drop 3).take 3⟩
    let start : RayRun := ⟨r.s, 0, 0x7F800000, none, false, none⟩
    let out := match item with
      | .leaf _ va => start.leaves n v 0xFFFFFFFF va 1
      | .inst va fuel => RayRun.visit n v fuel v none (.inst va) start
    let r := { r with s := out.s }
    match out.hit with
    | none => r
    | some h => r.update (8 * (y % 8) + x % 8) (divRound (f32 (beamNear d)) (f32 h.t)) h.prim

/-- One item in a region: rays, or a coverage request; whether it goes on to the quarters (R426) (DEDUCED, log 81). -/
def BeamRun.item (r : BeamRun) (n : NodeReq) (d ox oy code : Nat) (item : BeamItem) : BeamRun × Bool :=
  let size := 8 >>> code
  let rays : BeamRun := (List.range (size * size)).foldl (fun r i => r.cast n d (ox + i % size) (oy + i / size) item) r
  match item with
  | .inst _ _ => (rays, false)
  | .leaf rec_ _ =>
    if bitsAt rec_ 324 4 ≠ 0 ∨ nearTriangle d rec_ then (rays, false)
    else
      let prim := BitVec.ofNat 32 (bitsAt rec_ 288 32)
      let words := projWords d rec_ ++ [BitVec.ofNat 32 ox, BitVec.ofNat 32 oy, BitVec.ofNat 32 code, prim, BitVec.ofNat 32 (beamCull d), 0, 0]
      match r.s.askIsland 2 n.core words with
      | (s, none) => ({ r with s := s }, false)
      | (s, some o) =>
        let r := { r with s := s }
        let mask := ((o.getD 1 0) ++ (o.getD 0 0)).toNat
        if (o.getD 5 0).getLsbD 0 then (r, true)
        else
          ((List.range 64).foldl (fun r i =>
            let a := i % 8
            let b := i / 8
            if mask.testBit i && decide (a < size) && decide (b < size) then
              let z := ffma (o.getD 4 0) (w32 (.fin false b 0)) (ffma (o.getD 3 0) (w32 (.fin false a 0)) (o.getD 2 0))
              r.update (8 * ((oy + b) % 8) + (ox + a) % 8) z prim
            else r) r, false)

/-- Region(R, list) of R426, with the size code of R. -/
def BeamRun.region (n : NodeReq) (d : Nat) : Nat → Nat → Nat → Nat → List BeamItem → BeamRun → BeamRun
  | 0, _, _, _, _, r => r
  | fuel + 1, ox, oy, code, items, r =>
    let out := items.foldl (fun (a : BeamRun × List BeamItem) item =>
      let b := a.1.item n d ox oy code item
      (b.1, if b.2 then a.2 ++ [item] else a.2)) (r, [])
    if out.2.isEmpty then out.1
    else
      let half := (8 >>> code) / 2
      (List.range 4).foldl (fun r q => BeamRun.region n d fuel (ox + q % 2 * half) (oy + q / 2 * half) (code + 1) out.2 r) out.1

/-! ## BEAM -/

/-- Bytes that the control thread reads at an address through a capability, as a load does, as a number (R351, R352). -/
def State.ctlRead (s : State) (t : Team) (c : TCap) (a align len : Nat) : State × Except Stop Nat :=
  let q : MemReq := t.memReq (c, (a : Int)) false
  match s.checkMem q permLD align len false with
  | some tr => (s, .error (.trap tr))
  | none =>
    match s.planMem q needR len true [] false false with
    | (s, .error e) => (s, .error e)
    | (s, .ok p) =>
      if p.sparse then (s, .error (missingPage q))
      else match s.readPieces a p.pieces with
        | (s, .ok b) => (s, .ok (leNat b))
        | (s, .error (.stop code x)) => (s, .error (.trap { code := code, detail := BitVec.ofNat 64 (x % 2 ^ 32) }))
        | (s, .error _) => (s, .error (.block .engine))

/-- The visibility words of the tile, each checked and translated (R351); the pieces of those within the target, by pixel (R425). -/
def State.beamPieces (s : State) (t : Team) (c : TCap) (d tx ty : Nat) : List Nat → State × Except Stop (List (Nat × Nat × List Piece))
  | [] => (s, .ok [])
  | i :: l =>
    let x := 8 * tx + i % 8
    let y := 8 * ty + i / 8
    let a := capCursor c + y * beamPitch d + 8 * x
    let q : MemReq := t.memReq (c, (a : Int)) false
    match s.checkMem q (permST + permAT) 8 8 true with
    | some tr => (s, .error (.trap tr))
    | none =>
      match s.planMem q (needR + needW) 8 true [] false false with
      | (s, .error e) => (s, .error e)
      | (s, .ok p) =>
        match s.beamPieces t c d tx ty l with
        | (s, .error e) => (s, .error e)
        | (s, .ok r) => (s, .ok (if p.sparse || decide (beamWm1 d < x) || decide (beamHm1 d < y) then r else (i, a, p.pieces) :: r))

/-- The tile's updates leave as accesses of the control thread, each a maximum at its home (R351, R424). -/
def State.beamSend (s : State) (t : Team) (space : Nat) (best : Tab Nat) (l : List (Nat × Nat × List Piece)) : State :=
  l.foldl (fun s e =>
    let v := tabGet 0 best e.1
    if v = 0 then s
    else (s.start ⟨t.uid, none, 0⟩ t.pair t.ctx space e.2.1 (.vismax (BitVec.ofNat 64 v)) e.2.2).2) s

/-- BEAM once its descriptor and words are known. -/
def State.beamRun (s : State) (t : Team) (root words : TCap) (d tx ty : Nat) (l : List (Nat × Nat × List Piece)) : State :=
  let core := 2 * t.pair + t.layer
  let n : NodeReq := ⟨t.req, .ctl, .nodes core, core, root, false, false⟩
  let (s, items) := State.beamItems n 16 (rootRef root) s
  let r := BeamRun.region n d 4 (8 * tx) (8 * ty) 0 items ⟨s, []⟩
  (r.s.beamSend t (capSpace words) r.best l).ctlDone t

/-- BEAM in the control stream (R351, R426) (DEDUCED, log 81). -/
def beamCtl (w : FWord) (s : State) (t : Team) : State :=
  ctlPass s t (plainMod w 1 && fldOk .ctl .none (fldD w) && cRun (fldA w) 2 && sRun (fldB w) 2) (fToWord 0xCB w) w.g w.gn clsOnce
    [w.a.toNat, w.a.toNat + 1, w.b.toNat, w.b.toNat + 1] [] (fun s t =>
      let s := s.landCtl t.uid
      let root := t.ctl.getC (w.a.toNat - 64)
      let words := t.ctl.getC (w.a.toNat - 63)
      let tile := (t.ctl.getS w.b.toNat).toNat
      let tx := bitsAt tile 0 16
      let ty := bitsAt tile 16 16
      let stop (s : State) (e : Stop) : State := match e with
        | .trap tr => s.trapCtl t tr
        | .block b => s.ctlBlock t b
      match s.checkMem (t.memReq (root, (capCursor root : Int)) false) permLD 1 128 false with
      | some tr => s.trapCtl t tr
      | none =>
        match s.ctlRead t root ((t.ctl.getS (w.b.toNat + 1)).toNat % 2 ^ 48) 1 128 with
        | (s, .error e) => stop s e
        | (s, .ok d) =>
          match s.beamPieces t words d tx ty (List.range 64) with
          | (s, .error e) => stop s e
          | (s, .ok l) => s.beamRun t root words d tx ty l)

/-- BEAM. -/
def execBeam (w : FWord) (s : State) : Host.Outcome State Fault Refusal := answer (byStream s (notInVec 0xCB w) (beamCtl w))

end Sys2Proof.Machine
end

