-- ==== Sys2Proof/Machine/Requests.lean ====
section
/-! DEFINITION. Batches of island requests: IREQ, the islands' streams, responses, and islands that stop (spec/16 R350, spec/19 R400 to
R403, R412, spec/18 R383, R389, R390). -/

namespace Sys2Proof.Machine

/-! ## IREQ -/

/-- The parts of [off, off + len) in the columns of the pooled space. -/
def colPieces (off len : Nat) : Nat → List (Nat × Nat)
  | 0 => []
  | n + 1 =>
    if len = 0 then []
    else
      let here := min len (2 ^ 19 - off % 2 ^ 19)
      (off, here) :: colPieces (off + here) (len - here) n

/-- A batch word that IREQ takes (R350): reserved bits 0, local or pooled, at least one request (DEDUCED, log 82). -/
def batchOk (v : Nat) : Bool := bitsAt v 26 6 == 0 && bitsAt v 48 16 == 0 && bitsAt v 32 16 != 0 && decide (bitsAt v 24 2 < 2)

/-- An endpoint of a team. -/
def Team.endAt (t : Team) (q : Nat) : Endpoint := tabGet Endpoint.unbound t.ends q
/-- Replaces an endpoint. -/
def Team.putEnd (t : Team) (q : Nat) (e : Endpoint) : Team := { t with ends := tabPut Endpoint.unbound t.ends q e }

/-- The operands that IREQ may name: q4 to q15. -/
def ireqOk (w : FWord) (a : Opd) : Bool :=
  plainMod w 8 && fldOk .ctl .queue (fldD w) && decide (116 ≤ w.d.toNat) && fldOk .ctl a (fldA w) && fldOk .ctl .none (fldB w)

/-- IREQ in the control stream (R345, R350). On an endpoint whose stream a stopped island cut off it sends nothing (R390) (DESIGN CHOICE,
log 73). -/
def ireqCtl (w : FWord) (s : State) (t : Team) : State :=
  ctlPass s t (ireqOk w .wide) (fToWord 0xCA w) w.g w.gn clsOnce (ctlKeysOf .wide (fldA w)) [] (fun s t =>
    let q := w.d.toNat - 112
    let kind := w.md.toNat % 4
    let v := (t.ctl.getS w.a.toNat).toNat
    let e := t.endAt q
    let pooled := v.testBit 24
    let space := if pooled then 3 else 2
    let off := bitsAt v 0 24
    let n := bitsAt v 32 16
    let len := n * (4 * islandWords kind)
    let cols := colPieces off len 8
    if !batchOk v || (e.kind.isSome && decide (e.kind ≠ some kind)) then s.trapCtl t { code := .illegalOperand, detail := fHi 0xCA w }
    else
      let s := s.landCtl t.uid
      match s.matCaps t space [(off, len)] with
      | some tr => s.trapCtl t tr
      | none =>
        match s.matLocks t.pair space false cols with
        | some tr => s.trapCtl t tr
        | none =>
          if cols.any (fun r => (s.pair (homePair t.pair space r.1)).onFormat (r.1 % 2 ^ 19) r.2) then
            s.trapCtl t { code := .formatMismatch, detail := BitVec.ofNat 64 off }
          else match s.matFills t.pair ⟨t.uid, none, 0⟩ (cols.map (fun r => (space, r.1, r.2))) with
            | (s, some b) => s.ctlBlock t b
            | (s, none) => s.ctlDone (t.putEnd q (if e.cut then e else { e with kind := some kind, batches := e.batches ++ [⟨pooled, off, n, none⟩] })))

/-- IREQ. -/
def execIreq (w : FWord) (s : State) : Host.Outcome State Fault Refusal := answer (byStream s (notInVec 0xCA w) (ireqCtl w))

/-- IREQ.unb (R350): an endpoint with responses to come or unread stays bound. -/
def ireqUnbCtl (w : FWord) (s : State) (t : Team) : State :=
  ctlPass s t (ireqOk w .none) (fToWord 0xCA w) w.g w.gn clsOnce [] [] (fun s t =>
    let q := w.d.toNat - 112
    let e := t.endAt q
    if e.kind = none then s.ctlDone t
    else if !e.words.isEmpty || e.inside != 0 || !e.batches.isEmpty then s.trapCtl t { code := .illegalOperand, detail := fHi 0xCA w }
    else s.ctlDone (t.putEnd q Endpoint.unbound))

/-- IREQ.unb. -/
def execIreqUnb (w : FWord) (s : State) : Host.Outcome State Fault Refusal := answer (byStream s (notInVec 0xCA w) (ireqUnbCtl w))

/-! ## Streams -/

/-- The island of a kind that a team's requests go to. -/
def Team.islandFor (t : Team) (kind : Nat) : Nat := islandUnit kind (2 * t.pair + t.layer)

/-- The queue words of a response of a kind (R400). -/
def responseQueue (kind : Nat) : Nat := if kind = 2 then 3 else 2

/-- The bytes of the next request of a batch, in parts by column. -/
def State.batchParts (s : State) (t : Team) (kind : Nat) (b : Batch) : List (Pair × Nat × Nat) :=
  let space := if b.pooled then 3 else 2
  (colPieces b.off (4 * islandWords kind) 2).map (fun r => (s.pair (homePair t.pair space r.1), r.1 % 2 ^ 19, r.2))

/-- A part of the next request of a batch is poisoned. -/
def State.batchBad (s : State) (t : Team) (kind : Nat) (b : Batch) : Bool := (s.batchParts t kind b).any (fun p => p.1.poisoned p.2.1 p.2.2)

/-- The words of the next request of a batch. -/
def State.batchWords (s : State) (t : Team) (kind : Nat) (b : Batch) : List Word :=
  let bytes := (s.batchParts t kind b).flatMap (fun p => memBytes p.1.pad p.2.1 p.2.2)
  (List.range (islandWords kind)).map (fun i => BitVec.ofNat 32 (leNat ((bytes.drop (4 * i)).take 4)))

/-- Endpoint q of a team may send its next request to its island (R350, R383): its team runs, and there is room for the response. -/
def State.endReady (s : State) (kind unit : Nat) (t : Team) (q : Nat) : Bool :=
  let e := t.endAt q
  s.teamRuns t && t.islandFor kind == unit && decide (e.kind = some kind) && !e.cut &&
    decide (e.words.length + (e.inside + 1) * responseQueue kind ≤ 64) &&
    (match e.batches with | [] => false | b :: _ => !(s.batchBad t kind b) || e.inside == 0)

/-- A stream comes before another in an island's turn: ascending endpoint number, then team (R412). -/
def streamBefore (a b : Nat) : Bool := decide (a % 16 < b % 16) || (a % 16 == b % 16 && decide (a < b))

/-- The first of a list of streams in the order of the turn. -/
def firstStream : List Nat → Option Nat
  | [] => none
  | a :: l => match firstStream l with
    | none => some a
    | some b => some (if streamBefore b a then b else a)

/-- The stream whose turn it is, among those that are ready: the first after the one served last (R412). -/
def nextStream (last : Nat) (ready : List Nat) : Option Nat :=
  match firstStream (ready.filter (fun a => streamBefore last a)) with
  | some a => some a
  | none => firstStream ready

/-- The streams of an island with a request ready, as team * 16 + endpoint. -/
def State.readyStreams (s : State) (kind unit : Nat) : List Nat :=
  s.teams.flatMap (fun t => ((List.range 12).filter (fun i => s.endReady kind unit t (i + 4))).map (fun i => t.uid * 16 + (i + 4)))

/-- The batches of an endpoint once its next request is sent. -/
def Endpoint.sent (e : Endpoint) (kind : Nat) : Endpoint :=
  match e.batches with
  | [] => e
  | b :: l => { e with
      inside := e.inside + 1
      batches := if b.left ≤ 1 then l else { b with off := b.off + 4 * islandWords kind, left := b.left - 1 } :: l }

/-- An endpoint whose stream is cut off (R390). -/
def Endpoint.cutOff (e : Endpoint) : Endpoint := { e with cut := true, batches := [], inside := 0 }

/-- The island's turn passes to a stream, and it is busy for II cycles. -/
def State.islandTook (s : State) (kind unit stream : Nat) : State :=
  let key := islandKey kind unit
  let i := s.island key
  s.putIsland key { i with lastStream := stream, nextAt := s.gt + i.interval kind }

/-- Response words as an endpoint holds them (R400). -/
def packWords : List Word → List DWord
  | a :: b :: l => (b ++ a) :: packWords l
  | _ => []

/-- A response reaches its endpoint, with the largest W of the writes it reports (R118, R350). -/
def State.respond (s : State) (stream : Nat) (words : List Word) (w : Nat) : State :=
  match s.team (stream / 16) with
  | none => s
  | some t =>
    let e := t.endAt (stream % 16)
    if e.cut then s
    else s.putTeam (t.putEnd (stream % 16) { e with inside := e.inside - 1, words := e.words ++ packWords words, wmax := max e.wmax w })

/-- An island of a kind other than blend takes the next request of a stream (R403, R412); poison in it cuts the stream (R399)
(DESIGN CHOICE, log 32). -/
def State.cellAccept (s : State) (kind unit stream : Nat) : State :=
  let i := s.island (islandKey kind unit)
  if i.stopped || i.frozen || decide (s.gt < i.nextAt) || decide (nextStream i.lastStream (s.readyStreams kind unit) ≠ some stream) then s
  else match s.team (stream / 16) with
    | none => s
    | some t =>
      let q := stream % 16
      let e := t.endAt q
      match e.batches with
      | [] => s
      | b :: _ =>
        if s.batchBad t kind b then s.putTeam (t.putEnd q e.cutOff)
        else
          let s := s.putIsland (islandKey kind unit) { i with reqs := i.reqs ++ [⟨stream, s.batchWords t kind b, s.gt⟩] }
          (s.putTeam (t.putEnd q (e.sent kind))).islandTook kind unit stream

/-- The first response of an island of a kind other than blend, when its time has come (R403) (DESIGN CHOICE, log 32). -/
def State.cellRespond (s : State) (kind unit : Nat) : State :=
  let key := islandKey kind unit
  let i := s.island key
  match i.reqs with
  | [] => s
  | r :: l =>
    if s.gt < r.accepted + islandLatency kind (i.interval kind) then s
    else (s.putIsland key { i with reqs := l }).respond r.stream (islandAnswer i.image kind r.words) 0

/-! ## Islands that stop -/

/-- The first pair that an island serves. -/
def islandPair (kind unit : Nat) : Nat := if kind = 0 then unit / 2 else if kind = 1 then unit else 4 * unit

/-- The endpoint's stream to an island is cut when requests of it are outstanding (R390). -/
def Team.cutStreams (t : Team) (kind unit : Nat) : Team :=
  if t.islandFor kind ≠ unit then t
  else { t with ends := t.ends.map (fun e =>
    (e.1, if e.2.kind = some kind ∧ (e.2.inside ≠ 0 ∨ e.2.batches ≠ []) then e.2.cutOff else e.2)) }

/-- The responses that an island of a kind other than blend has produced reach their endpoints. -/
def State.cellDrain (s : State) (kind unit : Nat) : Nat → State
  | 0 => s
  | n + 1 =>
    if ((s.cellRespond kind unit).island (islandKey kind unit)).reqs.length < (s.island (islandKey kind unit)).reqs.length then
      (s.cellRespond kind unit).cellDrain kind unit n
    else s

/-- An access whose island stops before its response leaves takes what R390 gives it. -/
def Access.cutOff (a : Access) (key gt : Nat) : Access :=
  match a.kind with
  | .answered k kind due reg _ cut => if k = key ∧ gt < due then { a with kind := .answered k kind gt reg cut cut } else a
  | _ => a

/-- A lasting error in an island's configuration (R389, R390): it stops, what it produced before is delivered, and its outstanding streams
are cut; the slice logs the error (R398). -/
def State.islandStop (s : State) (kind unit : Nat) : State :=
  let key := islandKey kind unit
  let s := s.cellDrain kind unit (s.island key).reqs.length
  let s := s.putIsland key { s.island key with stopped := true, reqs := [] }
  let s := { s with teams := s.teams.map (fun (t : Team) => t.cutStreams kind unit), accesses := s.accesses.map (fun (a : Access) => a.cutOff key s.gt) }
  (s.modSlice (stackOf (islandPair kind unit)) (fun c => { c with lasting := c.lasting + 1 })).modCore (stackOf (islandPair kind unit))
    (fun c => { c with logs := c.logs ++ [(4, key)] })

end Sys2Proof.Machine
end

