-- ==== Sys2Proof/Machine/Blend.lean ====
section
/-! DEFINITION. The blend front end: order by sequence number, the destination pixel, blocks and their mode bytes, and sorted splats
(spec/19 R401, R413, spec/20 R428, R438 to R441). -/

namespace Sys2Proof.Machine

/-! ## Fields of a request -/

/-- The blend state word, i9 (R438). -/
def BlendReq.state (r : BlendReq) : Nat := (r.words.getD 9 0).toNat
/-- SLOT. -/
def BlendReq.slot (r : BlendReq) : Nat := bitsAt r.state 29 3
/-- END. -/
def BlendReq.ends (r : BlendReq) : Bool := r.state.testBit 28
/-- MODE. -/
def BlendReq.mode (r : BlendReq) : Nat := bitsAt r.state 24 4
/-- SEQ. -/
def BlendReq.seq (r : BlendReq) : Nat := bitsAt r.state 0 24
/-- x of the pixel (R401). -/
def BlendReq.x (r : BlendReq) : Nat := bitsAt (r.words.getD 8 0).toNat 0 16
/-- y of the pixel. -/
def BlendReq.y (r : BlendReq) : Nat := bitsAt (r.words.getD 8 0).toNat 16 16
/-- The sort key of a splat, i11 (R441). -/
def BlendReq.key (r : BlendReq) : Nat := (r.words.getD 11 0).toNat
/-- The primitive of a request among those of its tile: its SEQ, or 2^24 for the splats, whose END closes a group (R439, R441) (DEDUCED,
log 34). -/
def BlendReq.prim (r : BlendReq) : Nat := if r.mode = 6 then 2 ^ 24 else r.seq
/-- The number of a tile (tx, ty): 2,048 ty + tx. -/
def BlendReq.tile (r : BlendReq) : Nat := 2048 * (r.y / 32) + r.x / 32
/-- Two requests are for one tile of one target. -/
def BlendReq.sameTile (a b : BlendReq) : Bool := a.ctx == b.ctx && a.slot == b.slot && a.tile == b.tile

/-- The front end of a cluster. -/
def State.blendUnit (s : State) (cluster : Nat) : BlendUnit := tabGet BlendUnit.idle s.blends cluster
/-- Replaces it. -/
def State.putBlend (s : State) (cluster : Nat) (b : BlendUnit) : State := { s with blends := tabPut BlendUnit.idle s.blends cluster b }

/-- Who translates for a cluster's front ends: the first pair of the cluster. -/
def frontReq (cluster ctx : Nat) : Req := ⟨4 * cluster, ctx, 0⟩
/-- The holder of the copies of a front end (R413). -/
def frontHolder (kind cluster : Nat) : Holder := .island kind cluster

/-- The slice's error log counts a refused or discarded request (R438, R439). -/
def State.countBlend (s : State) (cluster : Nat) : State := s.modSlice (stackOf (4 * cluster)) (fun c => { c with blends := c.blends + 1 })

/-- Four canonical NaNs. -/
def fourNans : List Word := List.replicate 4 nan32

/-! ## Memory of the front ends -/

/-- A front end's access that a present page or its region refuses is logged to the page's owner, as `unitAny` logs an absent page
(R413). -/
def State.frontLog (s : State) (q : Req) (va need : Nat) : State :=
  let r := s.region q.ctx (va / 2 ^ 44 % 16)
  if !r.en then s.logOwner q.ctx 1 va
  else match s.peekLeaf r va with
    | none => s
    | some e => if leafHas e need && bitsAt e.toNat 40 6 == 0 then s else s.logOwner q.ctx 1 va

/-- A read at the home, byte by byte; an absent or refused page reads as zero (R413). -/
def State.homeNat (s : State) (q : Req) (va : Nat) : Nat → State × Except TrapCode Nat
  | 0 => (s, .ok 0)
  | n + 1 =>
    match s.unitPage q va needR with
    | (s, .bad e) => (s, .error e)
    | (s, .page p) =>
      match s.readDev (p.base + p.off) 1 p.part with
      | (s, .error e) => (s, .error e)
      | (s, .ok b) =>
        match s.homeNat q (va + 1) n with
        | (s, .error e) => (s, .error e)
        | (s, .ok v) => (s, .ok (leNat b + 256 * v))
    | (s, _) =>
      match s.homeNat q (va + 1) n with
      | (s, .error e) => (s, .error e)
      | (s, .ok v) => (s, .ok (256 * v))

/-- A front end's write, after which it reads no copy of its own from before (R413). -/
def State.frontWrite (s : State) (h : Holder) (q : Req) (va : Nat) (bytes : List Byte) : Nat × State :=
  let (w, s) := (s.frontLog q va needW).unitWrite q va bytes (bytes.length + 1)
  (w, { s with copies := s.copies.filter (fun c => !decide (c.holder = h)) })

/-- A front end's read through its copies (R413). -/
def State.frontRead (s : State) (h : Holder) (q : Req) (va len : Nat) : State × Except TrapCode Nat := (s.frontLog q va needR).unitNat q h va len

/-- The descriptor of a render target of a context (R435). -/
def State.targetDesc (s : State) (cluster ctx slot : Nat) : State × Except TrapCode Nat :=
  let base := ((s.ctx ctx).map (fun c => c.rttab)).getD 0
  s.frontRead (frontHolder 3 cluster) (frontReq cluster ctx) ((base + 64 * slot) % 2 ^ 48) 64

/-- The 64 pixels of a block as it stands in memory, with a mode byte that is still to be written (R436, R440). -/
def State.targetBlock (s : State) (cluster ctx slot d bx by_ : Nat) : State × Except TrapCode (List Word) :=
  let q := frontReq cluster ctx
  let h := frontHolder 3 cluster
  let due := ((s.blendUnit cluster).modes.filter (fun m => m.ctx == ctx && m.slot == slot && m.col == bx && m.row == by_)).getLast?
  let mode : State × Except TrapCode Nat :=
    if !rtCmp d then (s, .ok 0)
    else match due with
      | some m => (s, .ok m.mode)
      | none => s.frontRead h q (rtModeAddr d bx by_) 1
  match mode with
  | (s, .error e) => (s, .error e)
  | (s, .ok m) =>
    match (s.frontLog q (rtBlockAddr d bx by_) needR).unitBlock q h (rtBlockAddr d bx by_) (modeBytes m) with
    | (s, .error e) => (s, .error e)
    | (s, .ok v) => (s, .ok (blockPixels m (natLe 256 v) (rtClear d)))

/-- A committed pixel that no END has flushed yet. -/
def BlendUnit.pixel (b : BlendUnit) (ctx slot x y : Nat) : Option Word :=
  (b.pixels.find? (fun p => p.ctx == ctx && p.slot == slot && p.x == x && p.y == y)).map (fun p => p.rgba)

/-- The destination pixel as it stands when a request commits (R401). -/
def State.destPixel (s : State) (cluster d : Nat) (r : BlendReq) : State × Except TrapCode Word :=
  match (s.blendUnit cluster).pixel r.ctx r.slot r.x r.y with
  | some p => (s, .ok p)
  | none =>
    match s.targetBlock cluster r.ctx r.slot d (r.x / 8) (r.y / 8) with
    | (s, .error e) => (s, .error e)
    | (s, .ok px) => (s, .ok (px.getD (8 * (r.y % 8) + r.x % 8) 0))

/-- A pixel from the cells' channels (R438). -/
def encodePixel (srgb : Bool) (l : List Word) : Word :=
  let ch (c : Nat) : Nat := if srgb && c != 3 then srgbEncode (l.getD c 0) else unormEncode (l.getD c 0)
  BitVec.ofNat 32 (ch 0 + 256 * ch 1 + 65536 * ch 2 + 16777216 * ch 3)

/-- Two committed writes are of one pixel. -/
def PixelWrite.same (a b : PixelWrite) : Bool := a.ctx == b.ctx && a.slot == b.slot && a.x == b.x && a.y == b.y

/-- Records a committed pixel; the primitives that wrote it before keep their part in its block (R440). -/
def BlendUnit.putPixel (b : BlendUnit) (p : PixelWrite) : BlendUnit :=
  let old := (b.pixels.filter (fun o => o.same p)).flatMap (fun o => o.prims)
  { b with pixels := b.pixels.filter (fun o => !o.same p) ++ [{ p with prims := (p.prims ++ old).eraseDups }] }

/-! ## Committing -/

/-- The cells' answer for a request with its destination pixel, which is written for MODE 0 to 6 (R401, R438). A pixel beyond the
target writes nothing and returns NaNs. -/
def State.blendPixel (s : State) (cluster d : Nat) (r : BlendReq) : State × Except TrapCode (List Word) :=
  if rtWm1 d < r.x ∨ rtHm1 d < r.y then (s, .ok fourNans)
  else match s.destPixel cluster d r with
    | (s, .error e) => (s, .error e)
    | (s, .ok old) =>
      let words := r.words.take 4 ++ rgbaChannels (rtFmt d == 1) old ++ r.words.drop 8
      let out := islandAnswer (s.island (islandKey 3 cluster)).image 3 words
      if 7 ≤ r.mode then (s, .ok out)
      else (s.putBlend cluster ((s.blendUnit cluster).putPixel ⟨r.ctx, r.slot, r.x, r.y, encodePixel (rtFmt d == 1) out, [r.prim]⟩), .ok out)

/-- The largest W of writes that the responses of a stream report (R118). -/
def State.foldEnd (s : State) (stream w : Nat) : State :=
  match s.team (stream / 16) with
  | none => s
  | some t => let e := t.endAt (stream % 16); s.putTeam (t.putEnd (stream % 16) { e with wmax := max e.wmax w })

/-- Rewrites one block of a tile for an END (R437, R440): its data now, its mode byte later. -/
def State.flushBlock (s : State) (cluster d : Nat) (r : BlendReq) (bx by_ : Nat) : State :=
  match s.targetBlock cluster r.ctx r.slot d bx by_ with
  | (s, .error _) => s
  | (s, .ok old) =>
    let b := s.blendUnit cluster
    let px := old.zipIdx.map (fun e => (b.pixel r.ctx r.slot (8 * bx + e.2 % 8) (8 * by_ + e.2 / 8)).getD e.1)
    let (mode, bytes) := if rtCmp d then blockEncode px (some (rtClear d)) else (0, pixelBytes px)
    let (w, s) := s.frontWrite (frontHolder 3 cluster) (frontReq cluster r.ctx) (rtBlockAddr d bx by_) bytes
    let b := s.blendUnit cluster
    let s := if rtCmp d then
        s.putBlend cluster { b with modes := b.modes ++ [⟨r.ctx, r.slot, bx, by_, rtModeAddr d bx by_, mode, r.id, r.stream⟩] }
      else s
    s.foldEnd r.stream w

/-- A committed pixel of a request's tile and primitive. -/
def PixelWrite.ofPrim (p : PixelWrite) (r : BlendReq) : Bool :=
  p.ctx == r.ctx && p.slot == r.slot && 2048 * (p.y / 32) + p.x / 32 == r.tile && p.prims.any (fun n => n == r.prim)

/-- The blocks of a request's tile in which its primitive has committed a pixel (R440). -/
def BlendUnit.dirtyBlocks (b : BlendUnit) (r : BlendReq) : List (Nat × Nat) :=
  ((b.pixels.filter (fun p => p.ofPrim r)).map (fun p => (p.x / 8, p.y / 8))).eraseDups

/-- The committed pixels without a primitive's part in them (R440). -/
def BlendUnit.endPrim (b : BlendUnit) (r : BlendReq) : BlendUnit :=
  let rest (p : PixelWrite) : PixelWrite := if p.ofPrim r then { p with prims := p.prims.filter (fun n => n != r.prim) } else p
  { b with pixels := (b.pixels.map rest).filter (fun p => !p.prims.isEmpty) }

/-- The effect of a committed END on the target (R440). -/
def State.flushTile (s : State) (cluster d : Nat) (r : BlendReq) : State :=
  let s := ((s.blendUnit cluster).dirtyBlocks r).foldl (fun s e => s.flushBlock cluster d r e.1 e.2) s
  s.putBlend cluster ((s.blendUnit cluster).endPrim r)

/-- What becomes of a request that is not a splat (R428, R438, R439). -/
inductive BlendFate where
  | cut
  | refused
  | unowned
  | stale
  | waits
  | commits (d ns : Nat)
  deriving DecidableEq

/-- The tile of a request belongs to another cluster (R428). -/
def BlendReq.foreign (r : BlendReq) (cluster : Nat) : Bool := decide (tileOwner (r.x / 32) (r.y / 32) ≠ cluster)

/-- The descriptor of a request, or its fate when there is none that it may use (DEDUCED, log 34). -/
def State.blendDesc (s : State) (cluster : Nat) (r : BlendReq) : State × Except BlendFate Nat :=
  match s.targetDesc cluster r.ctx r.slot with
  | (s, .error _) => (s, .error .cut)
  | (s, .ok d) => if rtBad d then (s, .error .refused) else if r.foreign cluster then (s, .error .unowned) else (s, .ok d)

/-- The fate of a request now (R439). -/
def State.blendFate (s : State) (cluster : Nat) (r : BlendReq) : State × BlendFate :=
  match s.blendDesc cluster r with
  | (s, .error f) => (s, f)
  | (s, .ok d) =>
    match (s.frontLog (frontReq cluster r.ctx) (rtSeqAddr d (r.x / 32) (r.y / 32)) needR).homeNat (frontReq cluster r.ctx) (rtSeqAddr d (r.x / 32) (r.y / 32)) 4 with
    | (s, .error _) => (s, .cut)
    | (s, .ok v) =>
      let ns := v % 2 ^ 24
      if r.mode = 15 then (s, .commits d r.seq)
      else if r.seq = ns then
        let earlier := (s.blendUnit cluster).held.any (fun o => decide (o.id < r.id) && decide (o.reply = none) && o.sameTile r && o.seq == r.seq && o.mode != 15)
        (s, if earlier then .waits else .commits d (if r.ends then (ns + 1) % 2 ^ 24 else ns))
      else (s, if (r.seq + 2 ^ 24 - ns) % 2 ^ 24 < 2 ^ 23 then .waits else .stale)

/-- Writes NS of a request's tile at its home (R439). -/
def State.putNs (s : State) (cluster d ns : Nat) (r : BlendReq) : State :=
  let q := frontReq cluster r.ctx
  let va := rtSeqAddr d (r.x / 32) (r.y / 32)
  let (w, s) := (s.frontLog q va needW).unitWrite q va (natLe 3 ns) 4
  s.foldEnd r.stream w

/-- Runs an action of a front end unless a page that one of the writes [va, va + len) meets is in migration: then it waits, with none of
the effect (R58). -/
def State.frontMig (s : State) (cluster ctx : Nat) (writes : List (Nat × Nat)) (act : State → State) : State :=
  let h : MigHolder := .blend cluster
  if s.migWaiting h then s
  else match writes with
    | [] => act s
    | (va, len) :: rest =>
      match s.unitMig (frontReq cluster ctx) needW va len 3 with
      | (s, some k) => s.migWait h ctx k
      | (s, none) => s.frontMig cluster ctx rest act

/-- The writes that the commit of a request makes besides mode bytes: its sequence word, and the blocks of an END (R439, R440). -/
def State.commitWrites (s : State) (cluster d : Nat) (r : BlendReq) : List (Nat × Nat) :=
  (if r.ends ∨ r.mode = 15 then [(rtSeqAddr d (r.x / 32) (r.y / 32), 4)] else []) ++
    (if r.ends then ((s.blendUnit cluster).dirtyBlocks r ++ (if r.mode < 7 then [(r.x / 8, r.y / 8)] else [])).map
        (fun e => (rtBlockAddr d e.1 e.2, 256)) else [])

/-- The cells take a request now: its response leaves no sooner than their latency after it (R403). -/
def State.blendStart (s : State) (cluster : Nat) (r : BlendReq) : State :=
  let b := s.blendUnit cluster
  s.putBlend cluster { b with held := b.held.map (fun o => if o.id = r.id then { o with at_ := s.gt } else o) }

/-- Sets the response of a request. -/
def State.blendReply (s : State) (cluster : Nat) (r : BlendReq) (l : List Word) : State :=
  let b := s.blendUnit cluster
  s.putBlend cluster { b with held := b.held.map (fun o => if o.id = r.id then { o with reply := some l } else o) }

/-- Cuts the stream of a request (R390, R399), whose requests the front end drops. -/
def State.cutStream (s : State) (cluster stream : Nat) : State :=
  let b := s.blendUnit cluster
  let s := s.putBlend cluster { b with held := b.held.filter (fun o => o.stream != stream), splats := b.splats.filter (fun o => o.stream != stream) }
  match s.team (stream / 16) with
  | none => s
  | some t => s.putTeam (t.putEnd (stream % 16) (t.endAt (stream % 16)).cutOff)

/-- BLEND_COMMIT (R438 to R440) (DEDUCED, log 34). -/
def State.blendCommit (s : State) (cluster id : Nat) : State :=
  match (s.blendUnit cluster).held.find? (fun r => r.id == id && decide (r.reply = none)) with
  | none => s
  | some r =>
    let i := s.island (islandKey 3 cluster)
    if i.stopped then s
    else match s.blendFate cluster r with
      | (s, .cut) => s.cutStream cluster r.stream
      | (s, .refused) => (s.countBlend cluster).blendReply cluster r fourNans
      | (s, .unowned) => s.blendReply cluster r fourNans
      | (s, .stale) => (s.countBlend cluster).blendReply cluster r fourNans
      | (s, .waits) => s
      | (s, .commits d ns) => s.frontMig cluster r.ctx (s.commitWrites cluster d r) (fun s =>
        match s.blendPixel cluster d r with
        | (s, .error _) => s.cutStream cluster r.stream
        | (s, .ok out) =>
          let s := if r.ends then s.flushTile cluster d r else s
          let s := if r.ends ∨ r.mode = 15 then s.putNs cluster d ns r else s
          (s.blendStart cluster r).blendReply cluster r out)

/-- BLEND_COMMIT. -/
def execBlendCommit (cluster request : Nat) (s : State) : Host.Outcome State Fault Refusal := answer (s.blendCommit cluster request)

/-- BLOCK_MODE_WRITE (R58, R440): the first mode byte that is due. -/
def State.blockModeWrite (s : State) (cluster : Nat) : State :=
  let b := s.blendUnit cluster
  match b.modes with
  | [] => s
  | m :: l => s.frontMig cluster m.ctx [(m.addr, 1)] (fun s =>
    let s := s.putBlend cluster { s.blendUnit cluster with modes := l }
    let (w, s) := s.frontWrite (frontHolder 3 cluster) (frontReq cluster m.ctx) m.addr (natLe 1 m.mode)
    s.foldEnd m.stream w)

/-- BLOCK_MODE_WRITE. -/
def execBlockModeWrite (cluster : Nat) (s : State) : Host.Outcome State Fault Refusal := answer (s.blockModeWrite cluster)

/-! ## Splats -/

/-- A splat comes before another when it is released (R441). -/
def splatBefore (a b : BlendReq) : Bool := decide (a.key < b.key) || (a.key == b.key && decide (a.seq < b.seq))

/-- Puts a splat in its place; equal ones keep their order. -/
def insertSplat (a : BlendReq) : List BlendReq → List BlendReq
  | [] => [a]
  | b :: l => if splatBefore b a then b :: insertSplat a l else a :: b :: l

/-- Composites one splat (R441): one over an opaque pixel is dropped, and its response is open. -/
def State.splatOne (s : State) (cluster : Nat) (r : BlendReq) : State :=
  match s.blendDesc cluster r with
  | (s, .error .cut) => s.cutStream cluster r.stream
  | (s, .error _) => s.blendReply cluster r fourNans
  | (s, .ok d) =>
    match (if rtWm1 d < r.x ∨ rtHm1 d < r.y then (s, .ok 0) else s.destPixel cluster d r) with
    | (s, .error _) => s.cutStream cluster r.stream
    | (s, .ok old) =>
      if pixelChan old 3 = 255 then
        let (i, s) := s.newFree
        s.blendReply cluster r ((List.range 4).map (fun c => Config.freeWord (4 * i + c)))
      else match s.blendPixel cluster d r with
        | (s, .error _) => s.cutStream cluster r.stream
        | (s, .ok out) => (s.blendStart cluster r).blendReply cluster r out

/-- The splats of a group that is full or has its END (R441). -/
def BlendUnit.group (b : BlendUnit) (slot tile : Nat) : List BlendReq :=
  let full (r : BlendReq) : Bool :=
    let l := b.splats.filter (fun o => o.sameTile r)
    decide (4096 ≤ l.length) || l.any (fun o => o.ends)
  match b.splats.find? (fun r => r.slot == slot && r.tile == tile && full r) with
  | none => []
  | some r => b.splats.filter (fun o => o.sameTile r)

/-- SPLAT_SORT_RELEASE (R441): the group in ascending order; its END rewrites the tile's blocks. -/
def State.splatRelease (s : State) (cluster slot tile : Nat) : State :=
  let b := s.blendUnit cluster
  let l := b.group slot tile
  if (s.island (islandKey 3 cluster)).stopped then s
  else match l with
    | [] => s
    | r :: _ =>
      let blocks := l.flatMap (fun o => [(o.x / 8, o.y / 8)]) ++ b.dirtyBlocks r
      let writes (s : State) : State × List (Nat × Nat) :=
        if !l.any (fun o => o.ends) then (s, [])
        else match s.blendDesc cluster r with
          | (s, .ok d) => (s, blocks.eraseDups.map (fun e => (rtBlockAddr d e.1 e.2, 256)))
          | (s, .error _) => (s, [])
      let (s, ws) := writes s
      s.frontMig cluster r.ctx ws (fun s =>
        let b := s.blendUnit cluster
        let s := s.putBlend cluster { b with splats := b.splats.filter (fun o => !o.sameTile r), held := b.held ++ l }
        let s := (l.foldr insertSplat []).foldl (fun s r => s.splatOne cluster r) s
        match l.find? (fun o => o.ends) with
        | none => s
        | some e => match s.blendDesc cluster e with
          | (s, .ok d) => s.flushTile cluster d e
          | (s, .error _) => s)

/-- SPLAT_SORT_RELEASE. -/
def execSplatSortRelease (cluster slot tile : Nat) (s : State) : Host.Outcome State Fault Refusal := answer (s.splatRelease cluster slot tile)

/-! ## The blend island's streams -/

/-- The next request of a stream as the front end would hold it. -/
def State.blendNext (s : State) (stream : Nat) : Option (Team × Batch × BlendReq) :=
  match s.team (stream / 16) with
  | none => none
  | some t => match (t.endAt (stream % 16)).batches with
    | [] => none
    | b :: _ => some (t, b, { id := b.back.getD s.nextId, at_ := s.gt, ctx := t.ctx, stream := stream, src := { b with left := 1 }, words := s.batchWords t 3 b, reply := none })

/-- The front end may take a request (R439, R441): there is room to hold it, or it need not be held. -/
def State.blendRoom (s : State) (cluster : Nat) (r : BlendReq) : Bool :=
  let b := s.blendUnit cluster
  if r.mode = 6 then
    let l := b.splats.filter (fun o => o.sameTile r)
    decide (l.length < 4096) && !l.any (fun o => o.ends)
  else decide ((b.held.filter (fun o => decide (o.reply = none))).length < 256) || decide ((s.blendFate cluster r).2 ≠ .waits)

/-- The blend island takes the next request of a stream (R412, R439, R441). -/
def State.blendAccept (s : State) (cluster stream : Nat) : State :=
  let i := s.island (islandKey 3 cluster)
  let ready := (s.readyStreams 3 cluster).filter (fun n => match s.blendNext n with | some (_, _, r) => s.blendRoom cluster r | none => false)
  if i.stopped || i.frozen || decide (s.gt < i.nextAt) || decide (nextStream i.lastStream ready ≠ some stream) then s
  else match s.blendNext stream with
    | none => s
    | some (t, b, r) =>
      let e := t.endAt (stream % 16)
      if s.batchBad t 3 b then s.putTeam (t.putEnd (stream % 16) e.cutOff)
      else
        let s := if b.back = none then (s.newId).2 else s
        let s := (s.putTeam (t.putEnd (stream % 16) (e.sent 3))).islandTook 3 cluster stream
        let u := s.blendUnit cluster
        if r.mode ≠ 6 then s.putBlend cluster { u with held := u.held ++ [r] }
        else match s.blendDesc cluster r with
          | (s, .error .cut) => s.cutStream cluster stream
          | (s, .error f) =>
            let s := if f = .refused then s.countBlend cluster else s
            let u := s.blendUnit cluster
            s.putBlend cluster { u with held := u.held ++ [{ r with reply := some fourNans }] }
          | (s, .ok _) =>
            let u := s.blendUnit cluster
            s.putBlend cluster { u with splats := u.splats ++ [r] }

/-- A response that may leave the blend island: the first of its stream, with the mode bytes of its END written. -/
def BlendUnit.deliverable (b : BlendUnit) : Option (BlendReq × List Word) :=
  b.held.findSome? (fun r => match r.reply with
    | none => none
    | some l =>
      let first := !(b.held ++ b.splats).any (fun o => o.stream == r.stream && decide (o.id < r.id))
      let written := !b.modes.any (fun m => m.req == r.id)
      if first && written then some (r, l) else none)

/-- A response of the blend island reaches its endpoint (R439), when the cells have had their time (R403). -/
def State.blendRespond (s : State) (cluster : Nat) : State :=
  let b := s.blendUnit cluster
  match b.deliverable with
  | none => s
  | some (r, l) =>
    if s.gt < r.at_ + islandLatency 3 ((s.island (islandKey 3 cluster)).interval 3) then s
    else (s.putBlend cluster { b with held := b.held.filter (fun o => o.id != r.id) }).respond r.stream l 0

/-! ## The events of the islands -/

/-- ISLAND_REQUEST_ACCEPT (R403, R412). -/
def execIslandRequestAccept (kind unit stream : Nat) (s : State) : Host.Outcome State Fault Refusal :=
  answer (if kind = 3 then s.blendAccept unit stream else s.cellAccept kind unit stream)

/-- ISLAND_RESPONSE (R403). -/
def execIslandResponse (kind unit : Nat) (s : State) : Host.Outcome State Fault Refusal :=
  answer (if kind = 3 then s.blendRespond unit else s.cellRespond kind unit)

/-- The responses that the blend island has produced reach their endpoints. -/
def State.blendDrain (s : State) (cluster : Nat) : Nat → State
  | 0 => s
  | n + 1 =>
    if ((s.blendRespond cluster).blendUnit cluster).held.length < (s.blendUnit cluster).held.length then (s.blendRespond cluster).blendDrain cluster n
    else s

/-- ISLAND_CONFIG_ERROR (R389, R390): what was answered before the stop is delivered. -/
def State.configError (s : State) (kind unit : Nat) : State :=
  if kind ≠ 3 then s.islandStop kind unit
  else
    let s := (s.blendDrain unit (s.blendUnit unit).held.length).islandStop 3 unit
    let b := s.blendUnit unit
    s.putBlend unit { b with held := [], splats := [] }

/-- ISLAND_CONFIG_ERROR. -/
def execIslandConfigError (kind unit : Nat) (s : State) : Host.Outcome State Fault Refusal := answer (s.configError (kind % 4) unit)

end Sys2Proof.Machine
end

