-- ==== Sys2Proof/Machine/Capability.lean ====
section
/-! DEFINITION. The capability instructions (spec/01 R22, R23, spec/12 R266 to R270). -/

namespace Sys2Proof.Machine

/-- The frame of the capability instructions. -/
def capBase (opc : BitVec 8) (op : Nat → Src → Except Trap Res) : AluSpec :=
  { intBase opc op with d := fun _ => .quad, a := fun _ => .quad, cls := fun _ => clsFlt, bi := false }

/-- The frame of the readers: B unused. -/
def capReader (opc : BitVec 8) (d : Opd) (op : TCap → Except Trap Res) : AluSpec :=
  { capBase opc (fun _ s => op s.a) with d := fun _ => d, b := fun _ => .none }

/-- CDERIVE (R22, R267): MOD [5:0] mask, [9:6] space. -/
def specCderive : AluSpec :=
  { capBase 0x30 (fun m s =>
      match capDerive s.a (s.b.bits.extractLsb' 0 64).toNat (s.b.bits.extractLsb' 64 64).toNat (bitsAt m 6 4) (bitsAt m 0 6) with
      | .error t => .error t
      | .ok c => okC c) with b := fun _ => .span, mod := fun m => decide (m < 1024) }
/-- CDERIVE. -/
def execCderive (w : FWord) (s : State) : Host.Outcome State Fault Refusal := answer (aluExec specCderive w s)

/-- CAIM (R268). -/
def specCaim : AluSpec :=
  { capBase 0x31 (fun _ s => okC (capSetCursor s.a ((lo64 s.b).toNat % 2 ^ 48))) with b := fun _ => .pair }
/-- CAIM. -/
def execCaim (w : FWord) (s : State) : Host.Outcome State Fault Refusal := answer (aluExec specCaim w s)

/-- CSTEP (R268): MOD [0] W64; with BI, W64 is illegal (R266). -/
def cstepOp (m : Nat) (s : Src) : Except Trap Res :=
  let inc : Int := if bitAt m 0 then (lo64 s.b).toInt else (lo32 s.b).toInt
  okC (capSetCursor s.a (((capCursor s.a : Int) + inc) % ((2 ^ 48 : Nat) : Int)).toNat)
/-- CSTEP with a register, and with an immediate. -/
def specCstep : AluSpec :=
  { capBase 0x32 cstepOp with
    bi := true
    b := fun m => if bitAt m 0 then .pair else .reg
    mod := fun m => decide (m < 2) }
/-- CSTEP: BI with W64 raises ILLEGAL_OPERAND. -/
def specCstepBad : AluSpec := { specCstep with mod := fun _ => false }
/-- CSTEP. -/
def execCstep (w : FWord) (s : State) : Host.Outcome State Fault Refusal :=
  answer (aluExec (if w.md.getLsbD 11 && w.md.getLsbD 0 then specCstepBad else specCstep) w s)

/-- CFLOOR (R269). -/
def specCfloor : AluSpec := capReader 0x33 .pair (fun c => ok64 (BitVec.ofNat 64 (capBottom c)))
/-- CFLOOR. -/
def execCfloor (w : FWord) (s : State) : Host.Outcome State Fault Refusal := answer (aluExec specCfloor w s)
/-- CSPAN (R269). -/
def specCspan : AluSpec := capReader 0x34 .pair (fun c => ok64 (BitVec.ofNat 64 (capLen c)))
/-- CSPAN. -/
def execCspan (w : FWord) (s : State) : Host.Outcome State Fault Refusal := answer (aluExec specCspan w s)
/-- CWHERE (R269). -/
def specCwhere : AluSpec := capReader 0x35 .pair (fun c => ok64 (BitVec.ofNat 64 (capCursor c)))
/-- CWHERE. -/
def execCwhere (w : FWord) (s : State) : Host.Outcome State Fault Refusal := answer (aluExec specCwhere w s)
/-- CNARROW (R268). -/
def specCnarrow : AluSpec := { capBase 0x36 (fun _ s => okC (capNarrow s.a ((lo32 s.b).toNat % 64))) with bi := true }
/-- CNARROW. -/
def execCnarrow (w : FWord) (s : State) : Host.Outcome State Fault Refusal := answer (aluExec specCnarrow w s)
/-- CPROBE (R270): MOD [2:0] test; for test 0 B is unused. -/
def specCprobe : AluSpec :=
  { capBase 0x37 (fun m s => okP (capProbe m (lo32 s.b).toNat s.a)) with
    d := fun _ => .pred
    b := fun m => if m = 0 then .none else .reg
    bi := true
    mod := fun m => decide (m < 3) }
/-- CPROBE with a test that takes no B: MOD[11] is then reserved with it. -/
def specCprobeTag : AluSpec := { specCprobe with bi := false }
/-- CPROBE. -/
def execCprobe (w : FWord) (s : State) : Host.Outcome State Fault Refusal :=
  answer (aluExec (if bitsAt w.md.toNat 0 3 = 0 then specCprobeTag else specCprobe) w s)
/-- CKIND (R269). -/
def specCkind : AluSpec := capReader 0x38 .reg (fun c => ok32 (BitVec.ofNat 32 (capKind c)))
/-- CKIND. -/
def execCkind (w : FWord) (s : State) : Host.Outcome State Fault Refusal := answer (aluExec specCkind w s)

end Sys2Proof.Machine
end

