-- ==== Sys2Proof/Machine/Homes.lean ====
section
/-! DEFINITION. Accesses in flight as they reach their homes and come back, mapped sectors as their fills and write-backs complete,
fences and sleeps that end, and words that arrive in an instruction cache (spec/03 R66 to R74, spec/05 R106 to R116, spec/08 R184,
spec/14 R291 to R305). -/

namespace Sys2Proof.Machine

/-! ## At the homes -/

/-- A load's piece served at its home (R66, R111): a miss of the pair's L1 portion takes the line under a lease. The tag of a whole
granule comes with it (DESIGN CHOICE, log 21). -/
def State.servePiece (s : State) (a : Access) (p : Piece) (data : List Byte) : State × Option Piece :=
  match p.home with
  | .dev pa =>
    match s.readDev pa p.len p.part with
    | (s, .error e) => (s, some { p with done := true, err := some e, time := (s.times pa).2, served := s.gt })
    | (s, .ok b) =>
      let t := (s.times pa).2
      (s.fillL1 a.pair pa p.lease p.part, some { p with done := true, data := p.gets b, time := t, served := s.gt })
  | .pad q off =>
    (s, some { p with done := true, data := p.gets (memBytes (s.pair q).pad off p.len), time := s.gt, served := s.gt, tag := tabGet false (s.pair q).tags (off / 16),
                      err := if (s.pair q).poisoned off p.len then some .poison else none })
  | .host port _ =>
    if s.portOpen port ∧ data.length = p.len then (s, some { p with done := true, data := data, time := s.gt, served := s.gt })
    else (s, none)

/-- HOME_LOAD_SERVE (R107, R111, R370): a load, or an atomic that the host performs, with the data the host returns (DESIGN CHOICE, log 9). -/
def State.homeLoad (s : State) (id i : Nat) (data : List Byte) : State :=
  match s.access id with
  | none => s
  | some a =>
    match a.pieces[i]? with
    | none => s
    | some p =>
      let host : Bool := match p.home with | .host _ _ => true | _ => false
      let serves : Bool := match a.kind with
        | .load _ => true
        | .atom .. => host
        | _ => false
      if p.done || !serves || !s.inOrder a p || decide (s.gt < a.leaves) then s
      else match s.servePiece a p data with
        | (s, some q) => s.putPiece a i q
        | (s, none) => s

/-- HOME_LOAD_SERVE. -/
def execHomeLoadServe (access piece : Nat) (data : List Byte) (s : State) : Host.Outcome State Fault Refusal := answer (s.homeLoad access piece data)

/-- HOME_WRITE_APPLY: a piece reaches its home no earlier than its request leaves (R370). -/
def State.writeArrives (s : State) (id i : Nat) : State :=
  match s.access id with
  | none => s
  | some a => if s.gt < a.leaves then s else s.homeWrite id i

/-- HOME_WRITE_APPLY. -/
def execHomeWriteApply (access piece : Nat) (s : State) : Host.Outcome State Fault Refusal := answer (s.writeArrives access piece)

/-- The greatest time of an access's pieces. -/
def Access.time (a : Access) : Nat := maxOf (a.pieces.map (fun p => p.time))

/-- Every piece of an access is done. -/
def Access.done (a : Access) : Bool := a.pieces.all (fun p => p.done)

/-- The times an access brings back are returned at least a tick after the homes applied its writes (R105). -/
def State.ripe (s : State) (a : Access) : Bool := !a.kind.writes || a.pieces.all (fun p => p.sparse || decide (p.served < s.gt))

/-- STORE_ACK (R67, R105, R112, R114): the thread folds W, and the pair's line takes the bytes; past a visibility word's maximum it is
dropped. -/
def State.ackStore (s : State) (id : Nat) : State :=
  match s.access id with
  | none => s
  | some a =>
    let mine : Bool := match a.kind with | .store => true | .vismax _ => true | _ => false
    if !mine || !a.done || !s.ripe a then s
    else
      let s := if a.kind = .store then a.pieces.foldl (fun s p => if p.sparse then s else s.ackL1 a.pair p p.time) s else s.dropPieces a.pair a.pieces
      (s.foldPcm a.who a.time).dropAccess id

/-- STORE_ACK. -/
def execStoreAck (access : Nat) (s : State) : Host.Outcome State Fault Refusal := answer (s.ackStore access)

/-! ## Results -/

/-- The value of a load or atomic, from its pieces (R293, R294, R299). -/
def destValue (d : Dest) (l : List Piece) : TCap :=
  match d.elem with
  | some (fmt, hi) =>
    let v := leNat ((l.headD (pieceAt (.dev 0) 0 [] false false)).data)
    let code := if fmtBits fmt = 4 then (if hi then v / 16 else v % 16) else v
    let scale := match l[1]? with | some p => leNat p.data | none => 127
    ⟨elemBits fmt d.ty code scale, false⟩
  | none =>
    let v := leNat (l.flatMap (fun p => p.data))
    if d.ty = 12 then ⟨BitVec.ofNat 128 v, l.length == 1 && l.all (fun p => p.tag)⟩ else ⟨loadBits d.ty v, false⟩

/-- What an access returns: values for consecutive registers, each with its mark, or a capability or value of a type. -/
inductive Result where
  | value (reg ty : Nat) (v : TCap)
  | words (reg : Nat) (l : List (Word × Option ReadErr))
  | bad (reg n : Nat) (e : ReadErr)

/-- The result of an access that is complete; sampled loads, casts and allocations are made now. -/
def State.resultOf (s : State) (a : Access) : State × Option Result :=
  let q : Req := ⟨a.pair, a.ctx, a.who.team⟩
  let loaded (d : Dest) : Result :=
    match a.pieces.findSome? (fun p => p.err) with
    | some e => .bad d.reg (if d.ty = 12 then 4 else if tyBits d.ty = 64 then 2 else 1) (e, BitVec.ofNat 32 a.addr)
    | none => .value d.reg d.ty (destValue d a.pieces)
  match a.kind with
  | .load d => (s, some (loaded d))
  | .atom _ _ _ _ d => (s, some (loaded d))
  | .texture _ _ _ _ _ _ _ _ _ reg =>
    let (s, l) := s.smFinish q (s.coreOfWho a.who) a.kind
    (s, some (.words reg l))
  | .trace root md ray reg =>
    let (s, l) := s.traceWords q (s.coreOfWho a.who) root md ray
    (s, some (.words reg (l.map (fun w => (w, none)))))
  | .answered _ _ due reg l _ => (s, if due ≤ s.gt then some (.words reg l) else none)
  | .popped reg ty v => (s, some (.value reg ty ⟨v.setWidth 128, false⟩))
  | .alloc c reg => (s, some (.value reg 12 c))
  | _ => (s, none)

/-- The island that an access of a texture or ray unit asks: its key and kind (R400). -/
def State.asks (s : State) (a : Access) : Option (Nat × Nat) :=
  match a.kind with
  | .texture .. => some (islandKey 0 (islandUnit 0 (s.coreOfWho a.who)), 0)
  | .trace .. => some (islandKey 1 (islandUnit 1 (s.coreOfWho a.who)), 1)
  | _ => none

/-- What the registers get when an island stops before its response leaves: the data of a sampled load marked and its status as it is, and
the row of a poisoned node for a ray (R390). -/
def cutResult (kind : Nat) (l : List (Word × Option ReadErr)) : List (Word × Option ReadErr) :=
  if kind = 0 then l.dropLast.map (fun _ => (0, some (.islandFault, 0))) ++ l.drop (l.length - 1)
  else (errorRow .bad).map (fun w => (w, none))

/-- An access whose results took an island's turn waits until the response leaves it (R403). -/
def State.holdAnswer (old s : State) (a : Access) (x : Result) : Option State :=
  match old.asks a, x with
  | some (key, kind), .words reg l =>
    if (s.island key).nextAt = (old.island key).nextAt then none
    else some (s.putAccess { a with kind := .answered key kind (s.islandLeaves key kind) reg l (cutResult kind l) })
  | _, _ => none

/-- A v register gets a value, or a mark and its full bit (R184, R292). -/
def Rank.giveV (r : Rank) (p n : Nat) (v : Word × Option ReadErr) : Rank :=
  match v.2 with
  | none => r.writeV p n v.1
  | some e => (r.putVreg p n ⟨v.1, true, some e⟩).putVtag p n false

/-- A result reaches the registers of a thread of a rank. -/
def Rank.give (r : Rank) (p : Nat) (x : Result) : Rank :=
  match x with
  | .value n ty v => writeOpd r 0 p (memOpd ty) ⟨n, false, false⟩ v
  | .words n l => l.zipIdx.foldl (fun r e => r.giveV p (n + e.2) e.1) r
  | .bad n k e => (List.range k).foldl (fun r i => r.giveV p (n + i) (0, some e)) r

/-- The v registers that a result fills. -/
def Result.regs (x : Result) : List Nat :=
  match x with
  | .value n ty _ => keysOf (memOpd ty) ⟨n, false, false⟩
  | .words n l => (List.range l.length).map (fun i => n + i)
  | .bad n k _ => (List.range k).map (fun i => n + i)

/-- A result reaches the control thread that waits for it: an error is raised at the instruction (R292). -/
def State.giveCtl (s : State) (t : Team) (x : Result) : State :=
  let c := { t.ctl with wait := .none }
  let done (c : Ctl) : State := s.putTeam { t with ctl := c.next }
  let trap (e : ReadErr) : State := s.trapCtl { t with ctl := c } { code := e.1, detail := e.2.setWidth 64 }
  match x with
  | .value n ty v => done (writeCtl c (memOpdCtl ty) ⟨n, false, false⟩ v)
  | .words n l =>
    match l.findSome? (fun e => e.2) with
    | some e => trap e
    | none => done (l.zipIdx.foldl (fun c e => c.putS (n + e.2) (e.1.1.setWidth 64)) c)
  | .bad _ _ e => trap e

/-- A result of an access reaches the thread that waits for it; what no thread waits for any longer is dropped (R112, R184, R292). -/
def State.deliverResult (s : State) (a : Access) (x : Result) : State :=
  let s := (s.foldPcm a.who a.time).dropAccess a.id
  match s.team a.who.team with
  | none => s
  | some t =>
    match a.who.rank with
    | none => if t.ctl.wait = .result a.id then s.giveCtl t x else s
    | some j => match t.rank j with
      | none => s
      | some r => if r.ended then s else (s.arrived t.pair r x.regs).putRank t.uid (r.give a.who.pos x)

/-- LOAD_RESULT_RETURN (R105, R112, R184, R292). Past an atomic no line of the pair keeps a value older than it (R67, R114); the answer of
an island is waited for (R403). -/
def State.loadReturn (s : State) (id : Nat) : State :=
  match s.access id with
  | none => s
  | some a =>
    if !a.done || !s.ripe a then s
    else match (if a.kind.writes then s.dropPieces a.pair a.pieces else s).resultOf a with
      | (u, none) => u
      | (u, some x) => match s.holdAnswer u a x with
        | some v => v
        | none => u.deliverResult a x

/-- LOAD_RESULT_RETURN. -/
def execLoadResultReturn (access : Nat) (s : State) : Host.Outcome State Fault Refusal := answer (s.loadReturn access)

/-! ## Waits that end -/

/-- FENCE_PASS_COMPLETE (R116, R305): the fence's conditions hold for every thread of its pass. -/
def State.fencePass (s : State) (a : Agent) : State :=
  match a with
  | .ctl uid =>
    match s.team uid with
    | none => s
    | some t => match t.ctl.wait with
      | .fence kind scope _ => if s.fenceDone kind scope ⟨uid, none, 0⟩ then ((s.releaseFrees (whoCtl uid)).flushed kind scope ⟨uid, none, 0⟩).ctlDone t else s
      | _ => s
  | .vec uid j _ =>
    match s.splitOf a with
    | none => s
    | some (t, r, x) => match x.wait with
      | .fence kind scope act =>
        if (maskList act).all (fun p => s.fenceDone kind scope ⟨uid, some j, p⟩) then (s.releaseFrees (whoIn uid j act)).pastSplit t r x else s
      | _ => s

/-- FENCE_PASS_COMPLETE. -/
def execFencePassComplete (a : Agent) (s : State) : Host.Outcome State Fault Refusal := answer (s.fencePass a)

/-- SLEEP_WAKE (R253). -/
def State.sleepWake (s : State) (a : Agent) : State :=
  match a with
  | .ctl uid =>
    match s.team uid with
    | none => s
    | some t => match t.ctl.wait with
      | .sleep d => if d ≤ s.gt then s.ctlDone t else s
      | _ => s
  | .vec .. =>
    match s.splitOf a with
    | none => s
    | some (t, r, x) => match x.wait with
      | .sleep d => if d ≤ s.gt then s.pastSplit t r x else s
      | _ => s

/-- SLEEP_WAKE. -/
def execSleepWake (a : Agent) (s : State) : Host.Outcome State Fault Refusal := answer (s.sleepWake a)

/-- IFETCH_FILL (R109, R367): the word at the agent's PC arrives, and the one after it for a two-word opcode; a read that fails
raises its trap at issue (R15). -/
def State.fetchFill (s : State) (a : Agent) : State :=
  let fill (s : State) (q : Req) (pc : Nat) : State × Option Trap :=
    match s.fillWord q pc with
    | (s, some t) => (s, some t)
    | (s, none) => match s.fetchWord q pc with
      | (s, .word w) => if w.extractLsb' 54 10 = 0x064#10 then s.fillWord q (pc + 8) else (s, none)
      | (s, _) => (s, none)
  match a with
  | .ctl uid =>
    match s.team uid with
    | none => s
    | some t =>
      if t.ctl.wait ≠ .fetch then s
      else
        let u : Team := { t with ctl := { t.ctl with wait := .none } }
        match fill s t.req t.ctl.pc.toNat with
        | (s, none) => s.putTeam u
        | (s, some tr) => s.trapCtl u tr
  | .vec uid _ _ =>
    match s.splitOf a with
    | none => s
    | some (t, r, x) =>
      if x.wait ≠ .fetch then s
      else match fill s t.req x.pc.toNat with
        | (s, none) => s.putRank uid (r.putSplit { x with wait := .none })
        | (s, some tr) =>
          match focus { s with cur := a } with
          | none => s
          | some f => let ps := f.members 0 false; f.trap tr ⟨x.resume, f.issueSet ps, ps⟩

/-- IFETCH_FILL. -/
def execIfetchFill (a : Agent) (s : State) : Host.Outcome State Fault Refusal := answer (s.fetchFill a)

/-- WATCHDOG_EXPIRE (R193, R375): the current split of a rod has been current for as many cycles as its grid allows (DEDUCED, log 53). -/
def State.watchdog (s : State) (pair rod : Nat) : State :=
  let v := s.rod pair rod
  match v.cur with
  | none => s
  | some a =>
    match focus { s with cur := a } with
    | none => s
    | some f =>
      let limit := ((s.grid f.t.grid).map (fun g => g.wdlim)).getD (2 ^ 24)
      if v.watch < limit then s
      else
        let ps := f.members 0 false
        f.trap { code := .watchdog, detail := BitVec.ofNat 64 (limit % 2 ^ 32) } ⟨f.x.resume, f.issueSet ps, ps⟩

/-- WATCHDOG_EXPIRE. -/
def execWatchdogExpire (pair rod : Nat) (s : State) : Host.Outcome State Fault Refusal := answer (s.watchdog pair rod)

/-! ## Fills -/

/-- The access that started a fill takes its trap, at the position it waits at (R72); the owner has been asked already. -/
def State.trapStarter (s : State) (who : Who) (pair sec : Nat) (code : TrapCode) (va : Nat) : State :=
  let tr : Trap := { code := code, detail := BitVec.ofNat 64 (va % 2 ^ 32), addr := BitVec.ofNat 48 va }
  match s.team who.team with
  | none => s
  | some t =>
    match who.rank with
    | none => if t.ctl.wait.forSector pair sec then s.deliverCtl { t with ctl := { t.ctl with wait := .none } } tr else s
    | some j =>
      match (t.rank j).bind (fun r => r.splits.find? (fun x => maskHas x.mask who.pos && x.wait.forSector pair sec)) with
      | none => s
      | some x =>
        let act := match x.wait with | .sector _ _ m => m | _ => 0
        match focus { s with cur := .vec t.uid j x.age } with
        | none => s
        | some f => f.deliver tr ⟨x.resume, [x.resume], maskList act⟩

/-- A fill that fails (R71, R72): the sector is U again, the access that started it takes the trap, and the others issue again; an engine
operation stops. -/
def State.fillFail (s : State) (pair sec : Nat) (code : TrapCode) (va : Nat) : State :=
  let p := s.pair pair
  let x := p.sector sec
  let s := s.putPair pair (p.putSector sec Sector.fresh)
  let s := match x.starter with
    | none => s
    | some who =>
      if who.team = 0 then
        match s.op who.pos with
        | some o => if o.status = none then s.stopOp o (stopStatus code) else s
        | none => s
      else s.trapStarter who pair sec code va
  s.releaseWaiters pair sec x

/-- A fault of a fill or write-back goes to the owner of the page (R49, R72, R73). -/
def State.sectorFault (s : State) (pair sec ctx va : Nat) (t : Trap) : State :=
  let (id, s) := s.newId
  { s with faults := s.faults ++ [{ id := id, agent := none, op := none, sector := some (pair, sec), ctx := ctx, va := va, code := t.code,
                                    disabled := t.detail.getLsbD 63, core := sliceOf (va / 4096), delivered := false, pos := 0, actives := 0,
                                    handled := 0 }] }

/-- SECTOR_FILL_COMPLETE (R71, R72): a snapshot of memory, or zeros from a sparse page (DEDUCED, log 23). The map unit belongs to every
team of the grid on the pair, so its fills and write-backs translate as no team, and no team's locked entries or broken ranges serve or
stop them (DESIGN CHOICE, log 66). A trap of a failed fill has the global address of the sector's first byte as its detail, but for one
that the walk gave (DESIGN CHOICE, log 67). -/
def State.sectorFill (s : State) (pair sec : Nat) : State :=
  match (s.pair pair).mapAt (sec * 256), s.gridOn pair with
  | some (_, m), some g =>
    if ((s.pair pair).sector sec).st ≠ .f ∨ s.sectorAsked pair sec then s
    else
      let va := m.sectorVa sec
      match s.translate ⟨pair, g.ctx, 0⟩ va needR with
      | (s, .fault t) => if ownerFirst t.code then s.sectorFault pair sec g.ctx va t else s.fillFail pair sec t.code (t.detail.toNat)
      | (s, .migrating) => s
      | (s, .sparse) => s.fillDone pair sec (List.replicate 256 0)
      | (s, .page pg) =>
        if pg.fmt ≠ m.fmt ∨ pg.blk ≠ m.blk then s.fillFail pair sec .formatMismatch va
        else match s.readDev (pg.base + pg.off) 256 m.part with
          | (s, .error e) => s.fillFail pair sec e va
          | (s, .ok b) => s.fillDone pair sec b
  | _, _ => s

/-- SECTOR_FILL_COMPLETE. -/
def execSectorFillComplete (pair sector : Nat) (s : State) : Host.Outcome State Fault Refusal := answer (s.sectorFill pair sector)

/-! ## Write-backs -/

/-- The granules of a write-back in turn, each one write of 16 bytes at its home (R73). -/
def State.writeGranules (s : State) (pa part : Nat) (flight : BitVec 16) (bytes : List Byte) : List Nat → Nat × State
  | [] => (0, s)
  | g :: l =>
    if !flight.getLsbD g then s.writeGranules pa part flight bytes l
    else
      let (w, s) := (s.tearDev (pa + 16 * g) 16).writeDev (pa + 16 * g) part ((bytes.drop (16 * g)).take 16)
      let (v, s) := (s.clearWords (pa + 16 * g) 16).writeGranules pa part flight bytes l
      (max w v, s)

/-- The largest WCT of a grid's unmap write-backs grows (R125, R353). -/
def State.foldGrid (s : State) (pair : Nat) (w : Nat) : State :=
  match s.gridOn pair with
  | some g => s.putGrid { g with wmax := max g.wmax w }
  | none => s

/-- Changes FLT of a map entry. -/
def State.putFlt (s : State) (pair idx : Nat) (m : MapEntry) (flt : Bool) : State :=
  s.putPair pair { s.pair pair with maps := tabPut none (s.pair pair).maps idx (some { m with flt := flt }) }

/-- A write-back is done at W (R71, R73, R74): its triggers fold W, those that came later treat the sector anew. Who 0 is the
unmap. -/
def State.writebackDone (s : State) (pair sec w : Nat) : State :=
  let p := s.pair pair
  let x := p.sector sec
  let s := s.putPair pair (p.putSector sec { Sector.fresh with st := (if x.st = .wd then .d else .c), dirty := x.dirty })
  let s := (x.covers ++ x.anew).foldl (fun s who => if who.team = 0 then s.foldGrid pair w else s.foldPcm who w) s
  (x.anew.foldl (fun s who => s.trigger pair sec who) s).sweepSpwb

/-- The threads of a rank's waiting fence or SPWB that a denied write-back covers: the lowest takes WRITEBACK_DENIED (R301, R385). -/
def State.denyRank (s : State) (uid j : Nat) (ps : List Nat) (tr : Trap) : State :=
  match (s.team uid).bind (fun t => t.rank j) with
  | none => s
  | some r =>
    let hit (x : Split) : Option (DWord × Nat) := match x.wait with
      | .fence _ _ act => ((maskList act).find? (fun p => ps.any (fun q => q == p))).map (fun p => (act, p))
      | .spwb act => ((maskList act).find? (fun p => ps.any (fun q => q == p))).map (fun p => (act, p))
      | _ => none
    r.splits.foldl (fun s x =>
      match hit x with
      | none => s
      | some (act, p) =>
        let s := s.keepFrees (fun w => whoIn uid j act w && decide (p ≤ w.pos))
        let s := s.releaseFrees (fun w => whoIn uid j act w && decide (w.pos < p) && s.fenceDone 1 4 w)
        match focus { s with cur := .vec uid j x.age } with
        | none => s
        | some f => f.trap tr ⟨p, [p], maskList act⟩) s

/-- A write-back that does not go home (R71, R74, R385): the granules are dirty again, and each trigger that waits traps; at unmap the
grid records it. A denial sets FLT; a walk that fails has its own trap and does not (R61, R73). -/
def State.writebackStop (s : State) (pair sec : Nat) (tr : Trap) (va : Nat) : State :=
  let p := s.pair pair
  let x := p.sector sec
  let s := s.putPair pair (p.putSector sec { Sector.fresh with st := .d, dirty := x.dirty ||| x.flight })
  let hit := x.covers ++ x.anew
  let s := if hit.any (fun w => w.team == 0) then
      match s.gridOn pair with
      | some g => s.putGrid { g with wbd := if g.wbd = none then some va else g.wbd }
      | none => s
    else s
  let s := (hit.filter (fun w => decide (w.rank = none) && w.team != 0)).foldl (fun s w =>
    match s.team w.team with
    | none => s
    | some t =>
      let waits : Bool := match t.ctl.wait with | .fence .. => true | .spwb _ => true | _ => false
      if !waits then s
      else (s.keepFrees (whoCtl w.team)).trapCtl { t with ctl := { t.ctl with wait := .none } } tr) s
  let ranks := (hit.filterMap (fun w => w.rank.map (fun j => (w.team, j)))).eraseDups
  ranks.foldl (fun s e => s.denyRank e.1 e.2 ((hit.filter (fun w => w.team == e.1 && decide (w.rank = some e.2))).map (fun w => w.pos)) tr) s

/-- A denied write-back (R71, R73). -/
def State.writebackDeny (s : State) (pair sec idx : Nat) (m : MapEntry) (va : Nat) : State :=
  (s.putFlt pair idx m true).writebackStop pair sec { code := .writebackDenied, detail := BitVec.ofNat 64 (va % 2 ^ 32) } va

/-- The address of the first granule of a write-back in flight. -/
def firstGranule (va : Nat) (flight : BitVec 16) : Nat := va + 16 * ((findBelow (fun g => flight.getLsbD g) 16).getD 0)

/-- A write-back of an entry is complete with no denial, so that FLT goes (R73). -/
def State.clearFlt (s : State) (pair idx : Nat) (m : MapEntry) : State := if m.flt then s.putFlt pair idx m false else s

/-- WRITEBACK_COMPLETE (R58, R61, R71, R73): every dirty granule goes home, or the page denies it, or is in migration and is waited for;
its W returns in a later tick (R105). It translates as no team (DESIGN CHOICE, log 66). -/
def State.writeback (s : State) (pair sec : Nat) : State :=
  match (s.pair pair).mapAt (sec * 256), s.gridOn pair with
  | some (idx, m), some g =>
    let x := (s.pair pair).sector sec
    if (x.st ≠ .w ∧ x.st ≠ .wd) ∨ s.sectorAsked pair sec ∨ s.migWaiting (.sector pair sec) then s
    else match x.applied with
    | some (a, w) => if s.gt ≤ a then s else (s.writebackDone pair sec w).clearFlt pair idx m
    | none =>
      let va := m.sectorVa sec
      let first := firstGranule va x.flight
      match s.translate ⟨pair, g.ctx, 0⟩ va needW with
      | (s, .fault t) =>
        if t.code = .notPresent then s.sectorFault pair sec g.ctx first t
        else if t.code = .permission then s.writebackDeny pair sec idx m first
        else s.writebackStop pair sec t first
      | (s, .migrating) => s.migWait (.sector pair sec) g.ctx (s.pageKey g.ctx va)
      | (s, .sparse) => (s.writebackDone pair sec s.gt).clearFlt pair idx m
      | (s, .page pg) =>
        let (w, s) := s.writeGranules (pg.base + pg.off) m.part x.flight x.bytes (List.range 16)
        -- poison goes with the granule into the sector it is written to (R60, R397)
        let bad := (List.range 16).any (fun g => x.flight.getLsbD g && (s.pair pair).poisoned (sec * 256 + 16 * g) 16)
        let s := if bad then { s with poison := tabPut false s.poison ((pg.base + pg.off) / 256) true } else s
        s.putPair pair ((s.pair pair).putSector sec { x with applied := some (s.gt, w) })
  | _, _ => s

/-- WRITEBACK_COMPLETE. -/
def execWritebackComplete (pair sector : Nat) (s : State) : Host.Outcome State Fault Refusal := answer (s.writeback pair sector)

/-! ## Remainder appends -/

/-- REMAINDER_APPEND (R58, R164): one atomic update of the header at its home, then one write of the record. A header or slot on a page in
migration is waited for. An append whose header is read with an error is discarded with a record to the owner of its page (DESIGN
CHOICE, log 68). -/
def State.remainderAppend (s : State) (id : Nat) : State :=
  match s.appends.find? (fun a => a.id == id) with
  | none => s
  | some a =>
    let q : Req := ⟨a.core / 2, a.ctx, 0⟩
    let ended (s : State) : State := { s with appends := s.appends.filter (fun b => b.id != id) }
    if s.migWaiting (.append id) then s
    else match s.unitPage q a.header (needR + needW) with
    | (s, .wait k) => s.migWait (.append id) a.ctx k
    | (s, .none) => ended s
    | (s, .bad _) => (ended s).logOwner a.ctx 2 a.header
    | (s, .page p) =>
      let pa := p.base + p.off
      match s.readDev pa 32 p.part with
      | (s, .error _) => (ended s).logOwner a.ctx 2 a.header
      | (s, .ok b) =>
        let v := leNat b
        let tail := bitsAt v 0 64
        let log := bitsAt v 193 5
        let slot := a.header + 64 + 16 * (tail % 2 ^ log)
        if log < 4 ∨ 20 < log then (ended s).logOwner a.ctx 3 a.header
        else if 2 ^ log ≤ (tail + 2 ^ 64 - bitsAt v 64 64) % 2 ^ 64 then
          (((ended s).tearDev (pa + 16) 16).writeDev (pa + 16) p.part (natLe 8 ((bitsAt v 128 64 + 1) % 2 ^ 64) ++ natLe 8 (bitsAt v 192 64 ||| 1))).2.clearWords (pa + 16) 16
        else match s.unitMig q needW slot 16 3 with
          | (s, some k) => s.migWait (.append id) a.ctx k
          | (s, none) =>
            let s := ((((ended s).tearDev pa 8).writeDev pa p.part (natLe 8 ((tail + 1) % 2 ^ 64))).2).clearWords pa 8
            let phase := (tail / 2 ^ log + 1) % 2
            (s.unitWrite q slot (natLe 16 (a.record + phase)) 32).2

/-- REMAINDER_APPEND. -/
def execRemainderAppend (append : Nat) (s : State) : Host.Outcome State Fault Refusal := answer (s.remainderAppend append)

end Sys2Proof.Machine
end

