-- ==== Sys2Proof/Machine/Faults.lean ====
section
/-! DEFINITION. The owner of a page: fault records, restarts and declines, migration, invalidates, and the debugger's resume (spec/02
R47 to R59, spec/18 R384). -/

namespace Sys2Proof.Machine

/-! ## Fault records -/

/-- A record of a fault. -/
def State.fault (s : State) (id : Nat) : Option FaultRec := s.faults.find? (fun r => r.id == id)

/-- Removes a fault record. -/
def State.dropFault (s : State) (id : Nat) : State := { s with faults := s.faults.filter (fun r => r.id != id) }

/-- The size of the page a fault fell on; 4 KiB in a region that is off (R37, R50). -/
def State.faultPage (s : State) (r : FaultRec) : Nat × Nat :=
  let size := if r.disabled then 4096 else 2 ^ pageBits (s.region r.ctx (r.va / 2 ^ 44 % 16)).psz
  (size, r.va / size)

/-- The owner of the page a fault fell on (R37, R48). -/
def State.ownerOf (s : State) (r : FaultRec) : Nat := if r.disabled then sliceOf (r.va % 2 ^ 40 / 4096) else s.pageOwner r.ctx r.va

/-- OWNER_FAULT (R48 to R51): the record reaches its service core; a BREAK under a debugger comes with a record of R31 that
has its trap PC (R382, R384). -/
def State.ownerFault (s : State) (id : Nat) : State :=
  match s.fault id with
  | none => s
  | some r =>
    if r.delivered then s
    else
      let brk := decide (r.code = .brk)
      let (team, pc) : Option Team × BitVec 48 := match r.agent with
        | some (.ctl u) => (s.team u, ((s.team u).map (fun t => t.ctl.pc)).getD 0)
        | some (.vec u j a) => (s.team u, ((s.splitOf (.vec u j a)).map (fun x => x.2.2.pc)).getD 0)
        | none => (none, 0)
      let core := if brk then (team.map (fun t => stackOf t.pair)).getD 0 else s.ownerOf r
      let s := { s with faults := s.faults.map (fun q => if q.id = id then { q with delivered := true, core := core } else q) }
      if !brk then s
      else s.sendFreeze core { val := TCap.null, addr := 0, pc := trapPcOf r.code pc, resume := r.pos, grid := (team.map (fun t => t.grid)).getD 0, more := 0,
                               gtv := s.gt, mkind := 0, mid := (team.map (fun t => t.pair * 32 + t.slot)).getD 0, code := 0x39 }

/-- OWNER_FAULT. -/
def execOwnerFault (fault : Nat) (s : State) : Host.Outcome State Fault Refusal := answer (s.ownerFault fault)

/-- Words that the service kernel writes to its tables (R47, R49). -/
def State.tableWrites (s : State) (l : List (Nat × DWord)) : State :=
  l.foldl (fun s w => ((s.writeDev w.1 0 (natLe 8 w.2.toNat)).2).clearWords w.1 8) s

/-- What waits under a fault record goes on: a split or control thread issues again from its resume position, an operation from its
byte (R49, R51). -/
def State.restartOne (s : State) (r : FaultRec) : State :=
  let s := s.dropFault r.id
  let s := match r.op with
    | some o => match s.op o with
      | some q => s.putOp { q with waitFault := none }
      | none => s
    | none => s
  match r.agent with
  | none => s
  | some (.ctl u) =>
    match s.team u with
    | some t => if t.ctl.wait = .owner r.id then s.putTeam { t with ctl := { t.ctl with wait := .none } } else s
    | none => s
  | some a =>
    match s.splitOf a with
    | some (t, q, x) => if x.wait = .owner r.id then s.putRank t.uid (q.putSplit { x with wait := .none }) else s
    | none => s

/-- The context is off the device: an owner's answer waits for its return (R392). -/
def State.away (s : State) (n : Nat) : Bool := match s.ctx n with | some c => c.saved.isSome | none => false

/-- FAULT_RESTART (R49, R50): the owner writes its tables, and every fault on the page that waits restarts with the one it acts on
(DEDUCED, log 43). -/
def State.faultRestart (s : State) (id : Nat) (writes : List (Nat × DWord)) : State :=
  match s.fault id with
  | none => s
  | some r =>
    if !r.delivered || r.code == .brk || s.away r.ctx then s
    else
      let page := s.faultPage r
      let same (q : FaultRec) : Bool := q.ctx == r.ctx && q.code != .brk && decide (s.faultPage q = page)
      ((s.faults.filter same).foldl (fun s q => s.restartOne q) (s.tableWrites writes))

/-- FAULT_RESTART. -/
def execFaultRestart (fault : Nat) (writes : List (Nat × DWord)) (s : State) : Host.Outcome State Fault Refusal := answer (s.faultRestart fault writes)

/-- FAULT_DECLINE (R49, R51, R72, R73): the trap goes to the user handler, an operation stops, a fill fails, a write-back is denied
(DEDUCED, log 43). -/
def State.faultDecline (s : State) (id : Nat) : State :=
  match s.fault id with
  | none => s
  | some r =>
    if !r.delivered || r.code == .brk || s.away r.ctx then s
    else
      let s := s.dropFault id
      let tr : Trap := { code := r.code, detail := BitVec.ofNat 64 (r.va % 2 ^ 32), addr := BitVec.ofNat 48 r.va }
      let s := match r.op with
        | some o => match s.op o with
          | some q => if q.waitFault = some id then s.stopOp q (stopStatus r.code) else s
          | none => s
        | none => s
      let s := match r.sector with
        | none => s
        | some (pair, sec) =>
          match ((s.pair pair).sector sec).st, (s.pair pair).mapAt (sec * 256) with
          | .f, some _ => s.fillFail pair sec r.code r.va
          | .w, some (idx, m) => s.writebackDeny pair sec idx m r.va
          | .wd, some (idx, m) => s.writebackDeny pair sec idx m r.va
          | _, _ => s
      match r.agent with
      | none => s
      | some (.ctl u) =>
        match s.team u with
        | some t => if t.ctl.wait = .owner id then s.deliverCtl { t with ctl := { t.ctl with wait := .none } } tr else s
        | none => s
      | some a =>
        match focus { s with cur := a } with
        | some f => if f.x.wait = .owner id then f.deliver tr ⟨r.pos, maskList r.handled, maskList r.actives⟩ else s
        | none => s

/-- FAULT_DECLINE. -/
def execFaultDecline (fault : Nat) (s : State) : Host.Outcome State Fault Refusal := answer (s.faultDecline fault)

/-- DEBUGGER_RESUME (R379, R384): threads of H go on at the PC that the debugger chooses, or past the BRK with the others. -/
def State.debuggerResume (s : State) (id : Nat) (pc : Option (BitVec 48)) : State :=
  match s.fault id with
  | none => s
  | some r =>
    if !r.delivered || r.code != .brk || s.away r.ctx then s
    else
      let s := s.dropFault id
      match r.agent with
      | none => s
      | some (.ctl u) =>
        match s.team u with
        | some t => if t.ctl.wait = .owner id then s.putTeam { t with ctl := { t.ctl with wait := .none, pc := pc.getD (t.ctl.pc + 8) } } else s
        | none => s
      | some a =>
        match focus { s with cur := a } with
        | none => s
        | some f =>
          if f.x.wait ≠ .owner id then s
          else
            let save : HandlerSave := { code := .brk, trapPc := f.x.pc + 8, pc := f.x.pc, resume := r.pos, mask := f.x.mask, actives := r.actives,
                                        handled := r.handled, given := f.x.given, record := f.x.record }
            let inside := f.x.inHandler
            let old := f.r.splits.map (fun x => x.age)
            let g := f.retTo save (pc.getD save.trapPc)
            let mine (x : Split) : Bool := x.age == f.x.age || !old.any (fun a => a == x.age)
            let r' := { g.r with handler := f.r.handler, splits := g.r.splits.map (fun x => if mine x then { x with inHandler := inside } else x) }
            { g with r := r' }.close

/-- DEBUGGER_RESUME. -/
def execDebuggerResume (fault : Nat) (pc : Option (BitVec 48)) (s : State) : Host.Outcome State Fault Refusal := answer (s.debuggerResume fault pc)

/-! ## Migration and invalidates -/

/-- The engine copies the sectors of a frame, reading each again when its read fails, which the page's owner logs (R58, R59): poison goes
with them. Whether a sector failed twice. -/
def State.moveSectors (s : State) (owner src dst : Nat) : Nat → State × Bool
  | 0 => (s, false)
  | n + 1 =>
    let copy (s : State) : State := (((s.tearDev dst 256).writeDev dst 0 (memBytes s.mem src 256)).2).clearWords dst 256
    let s := ((s.reach src 256).touch src 0).noteFilled src 256 false
    let (s, bad) := match s.sectorReadBy owner (src / 256) with
      | (s, none) => (copy s, false)
      | (s, some .poison) => let s := copy s; ({ s with poison := tabPut false s.poison (dst / 256) true }, false)
      | (s, some _) => (s, true)
    let (s, more) := s.moveSectors owner (src + 256) (dst + 256) n
    (s, bad || more)

/-- Copies frames; whether a sector failed twice. -/
def State.moveFrames (s : State) (owner : Nat) : List (Nat × Nat) → State × Bool
  | [] => (s, false)
  | m :: l =>
    let (s, bad) := s.moveSectors owner (m.1 / 4096 * 4096) (m.2 / 4096 * 4096) 16
    let (s, more) := s.moveFrames owner l
    (s, bad || more)

/-- The leaves of an aborted migration (R59): the source frame stays, MIG is clear, PSN is set. -/
def State.abortLeaves (s : State) (l : List (Nat × DWord)) : State :=
  s.tableWrites (l.map (fun w =>
    let old := BitVec.ofNat 64 (leNat (memBytes s.mem w.1 8))
    (w.1, (old &&& ~~~(1#64 <<< 5)) ||| (1#64 <<< 6))))

/-- Frames are moved only once MIG stands in the leaf of every page of the range and step 1's invalidate is complete (R58). -/
def State.mayMove (s : State) (ctx region page pages : Nat) : Bool :=
  let r := s.region ctx region
  (List.range pages).all (fun i =>
    !s.invalidating ctx region (page + i) &&
      ((s.peekLeaf r (region * 2 ^ 44 + (page + i) * 2 ^ pageBits r.psz)).map (fun e => e.getLsbD 5)).getD false)

/-- TLB_INVALIDATE (R47, R58, R59): the service kernel copies the frames that it moves and writes its leaves, then asks for the
invalidate. -/
def State.tlbInvalidate (s : State) (ctx region page pages : Nat) (moves : List (Nat × Nat)) (writes : List (Nat × DWord)) : State :=
  if !moves.isEmpty && !s.mayMove ctx region page pages then s
  else
    let owner := s.pageOwner ctx (region * 2 ^ 44 + page * 2 ^ pageBits (s.region ctx region).psz)
    let (s, bad) := s.moveFrames owner moves
    let s := if bad then s.abortLeaves writes else s.tableWrites writes
    let (id, s) := s.newId
    { s with invalidates := s.invalidates ++ [⟨id, ctx, region, page, pages⟩] }

/-- TLB_INVALIDATE. -/
def execTlbInvalidate (ctx region page pages : Nat) (moves : List (Nat × Nat)) (writes : List (Nat × DWord)) (s : State) :
    Host.Outcome State Fault Refusal := answer (s.tlbInvalidate ctx region page pages moves writes)

/-- The addresses that an invalidate names: first and past the last. -/
def State.invalidSpan (s : State) (v : Invalidate) : Nat × Nat :=
  let size := 2 ^ pageBits (s.region v.ctx v.region).psz
  (v.region * 2 ^ 44 + v.page * size, v.region * 2 ^ 44 + (v.page + v.pages) * size)

/-- Every access that may have been translated through a matching entry has reached its home (R47). -/
def State.invalidReady (s : State) (v : Invalidate) : Bool :=
  let e := s.invalidSpan v
  s.accesses.all (fun a =>
    let len := (a.pieces.map (fun p => p.len)).foldl (fun n m => n + m) 0
    a.ctx != v.ctx || !(a.space == 1 || a.space == 4) || a.pieces.all (fun p => p.done) || !(decide (a.addr < e.2) && decide (e.1 < a.addr + len))) &&
  s.pairs.all (fun p => p.2.abaci.all (fun b => b.2.ops.all (fun o =>
    o.rows.isEmpty || ((s.team o.team).map (fun t => t.ctx)) != some v.ctx)))

/-- An entry that an invalidate matches. -/
def Invalidate.hits (v : Invalidate) (e : TlbEntry) : Bool :=
  e.ctx == v.ctx && e.region == v.region && decide (v.page ≤ e.page) && decide (e.page < v.page + v.pages)

/-- Waits for a page in migration end where an invalidate names it (R58). -/
def Wait.migrated (v : Invalidate) (w : Wait) : Wait :=
  match w with
  | .migration c p =>
    if c = v.ctx ∧ p / 2 ^ 32 = v.region ∧ v.page ≤ p % 2 ^ 32 ∧ p % 2 ^ 32 < v.page + v.pages then .none else w
  | w => w

/-- INVALIDATE_COMPLETE (R47, R56, R58): matching entries are gone, locked ranges that lost one are broken, blocked accesses of threads
and units translate again. -/
def State.invalidateComplete (s : State) (id : Nat) : State :=
  match s.invalidates.find? (fun v => v.id == id) with
  | none => s
  | some v =>
    if !s.invalidReady v then s
    else
      let e := s.invalidSpan v
      let cut (l : List TlbEntry) : List TlbEntry := l.filter (fun x => !v.hits x)
      { s with
        invalidates := s.invalidates.filter (fun w => w.id != id)
        migWaits := s.migWaits.filter (fun w => decide (Wait.migrated v (.migration w.ctx w.page) ≠ .none))
        tlbs := s.tlbs.foldl (fun t x => tabPut [] t x.1 (cut x.2)) []
        clusterTlbs := s.clusterTlbs.foldl (fun t x => tabPut [] t x.1 (cut x.2)) []
        lockRanges := s.lockRanges.map (fun l => if l.ctx = v.ctx ∧ l.lo < e.2 ∧ e.1 < l.hi then { l with broken := true } else l)
        teams := s.teams.map (fun t => { t with
          ctl := { t.ctl with wait := t.ctl.wait.migrated v }
          ranks := t.ranks.map (fun r => { r with splits := r.splits.map (fun x => { x with wait := x.wait.migrated v }) }) }) }

/-- INVALIDATE_COMPLETE. -/
def execInvalidateComplete (request : Nat) (s : State) : Host.Outcome State Fault Refusal := answer (s.invalidateComplete request)

end Sys2Proof.Machine
end

