-- ==== Sys2Proof/Machine/Place.lean ====
section
/-! DEFINITION. The reckoner: queues, checks of a grid, placement of teams and gangs, the state a team starts with, and the end of
teams, pairs and grids (spec/17 R355 to R363, spec/08 R189 to R191, spec/03 R63, R68, R69, R74, spec/16 R353, spec/18 R32). -/

namespace Sys2Proof.Machine

/-! ## Whether a team fits -/

/-- The rank slots of a rod that are free (R170). -/
def State.freeSlots (s : State) (pair q : Nat) : List Nat := (List.range 16).filter (fun n => (s.rankAt pair q n).isNone)

/-- The ranks of a team that rod r of its spread takes (R171, R360). -/
def Launch.ranksOn (l : Launch) (r : Nat) : Nat := ceilDiv (l.ranks - r) l.spread

/-- Pair-rod b + r has the rank slots and pool registers that it needs, for every r (R360). -/
def State.baseFits (s : State) (pair : Nat) (l : Launch) (b : Nat) : Bool :=
  (List.range l.spread).all (fun r =>
    let k := l.ranksOn r
    decide (k ≤ (s.freeSlots pair (b + r)).length) && decide (k * (l.width * l.regs) ≤ s.poolFree pair (b + r)))

/-- The teams on a pair. -/
def State.teamsOn (s : State) (pair : Nat) : List Team := s.teams.filter (fun t => t.pair == pair)

/-- The team slots of a pair that are free. -/
def State.freeTeamSlots (s : State) (pair : Nat) : List Nat := (List.range 32).filter (fun n => !(s.teamsOn pair).any (fun t => t.slot == n))

/-- The tiles charged on a pair's cores (R340). -/
def State.tilesOn (s : State) (pair : Nat) : Nat := (s.teamsOn pair).foldl (fun n t => n + s.launchOf t (fun g => g.launch.accum)) 0

/-- The digest of a context's image of a kind; none for the default image. -/
def State.imageDigest (s : State) (ctx kind : Nat) : Option Nat := ((s.ctx ctx).bind (fun c => tabGet none c.images kind)).map (fun m => m.digest)

/-- The islands that serve a pair (R400): kind and unit. -/
def islandsOf (pair : Nat) : List (Nat × Nat) := [(0, 2 * pair), (0, 2 * pair + 1), (1, pair), (2, clusterOf pair), (3, clusterOf pair)]

/-- An island holds the image that a context has (R412). -/
def State.islandHolds (s : State) (e : Nat × Nat) (ctx : Nat) : Bool :=
  decide ((s.island (islandKey e.1 e.2)).image.map (fun m => m.digest) = s.imageDigest ctx e.1)

/-- Every island that serves a pair holds the context's image, or serves no team with another (R412). -/
def State.imagesFit (s : State) (pair ctx : Nat) : Bool :=
  (islandsOf pair).all (fun e => s.islandHolds e ctx ||
    s.teams.all (fun t => !((islandsOf t.pair).any (fun f => decide (f = e))) || decide (s.imageDigest t.ctx e.1 = s.imageDigest ctx e.1)))

/-- The pair is idle, or holds only teams of the grid (R359). -/
def State.pairOpen (s : State) (pair gid : Nat) : Bool :=
  match (s.pair pair).grid with
  | none => true
  | some g => g == gid && !(s.teamsOn pair).isEmpty

/-- The base that a team of a grid takes on a pair, when it fits there (R360). -/
def State.fits (s : State) (g : Grid) (pair : Nat) : Option Nat :=
  let l := g.launch
  if !s.pairOpen pair g.id || (s.freeTeamSlots pair).isEmpty || decide (64 < s.tilesOn pair + l.accum) || !s.imagesFit pair g.ctx then none
  else (List.range 32).find? (fun b => b % l.spread == 0 && s.baseFits pair l b)

/-- Scan index q visits this pair (R359). -/
def scanPair (q : Nat) : Nat := 32 * (q % 8) + q / 8

/-- A team of the launch fits on an empty pair (R358). -/
def Launch.fitsEmpty (l : Launch) : Bool :=
  (List.range l.spread).all (fun r => decide (l.ranksOn r ≤ 16) && decide (l.ranksOn r * (l.width * l.regs) ≤ Config.poolRegs))

/-! ## Map descriptors -/

/-- A map descriptor read from a launch record's table (R68); one that cannot be read reads as zero. -/
def State.mapDesc (s : State) (q : Req) (va : Nat) : State × Nat :=
  match s.homeNat q va 16 with
  | (s, .ok v) => (s, v)
  | (s, .error _) => (s, 0)

/-- Descriptors in turn. -/
def State.mapDescs (s : State) (q : Req) (va : Nat) : Nat → State × List Nat
  | 0 => (s, [])
  | n + 1 =>
    let (s, v) := s.mapDesc q va
    let (s, l) := s.mapDescs q (va + 16) n
    (s, v :: l)

/-- A map entry from a descriptor and the leaf of the first page of its range (R69). -/
def State.mapEntry (s : State) (pair ctx v : Nat) : State × MapEntry :=
  let gva := bitsAt v 88 40
  let (s, w) := s.translate ⟨pair, ctx, 0⟩ (gva * 256) 0
  let leaf : DWord := match w with | .page p => p.leaf | _ => 0
  (s, { gva := gva, soff := bitsAt v 77 11, slen := bitsAt v 66 11, fmt := bitsAt leaf.toNat 40 4, blk := bitsAt leaf.toNat 44 2,
        part := bitsAt v 56 4, nowb := v.testBit 55, flt := false })

/-- Two entries overlap in the scratchpad or in global addresses. -/
def MapEntry.meets (a b : MapEntry) : Bool :=
  (decide (a.soff < b.soff + b.slen) && decide (b.soff < a.soff + a.slen)) || (decide (a.gva < b.gva + b.slen) && decide (b.gva < a.gva + a.slen))

/-- An entry alone breaks R69. -/
def MapEntry.bad (m : MapEntry) (extent : Nat) (root : TCap) : Bool :=
  m.slen == 0 || decide (extent < (m.soff + m.slen) * 256) ||
    decide (m.gva * 256 < capBottom root) || decide (capTop root < (m.gva + m.slen) * 256) ||
    !permHas (capPerm root) permLD || (!m.nowb && !permHas (capPerm root) permST) ||
    (m.fmt != 0 && (m.gva % 4 != 0 || m.soff % 4 != 0 || m.slen % 4 != 0))

/-- Some two entries of a list overlap. -/
def mapsMeet : List MapEntry → Bool
  | [] => false
  | m :: l => l.any (fun n => m.meets n) || mapsMeet l

/-- The entries that a pair takes from descriptors: FMT and BLK as the leaves stand at the install (R68, R69). -/
def State.installMaps (s : State) (pair ctx : Nat) (l : List Nat) : State × List MapEntry :=
  l.foldl (fun (a : State × List MapEntry) v => let b := a.1.mapEntry pair ctx v; (b.1, a.2 ++ [b.2])) (s, [])

/-- The map entries of a grid on a pair, or none when R69 refuses them. The descriptors are read and checked for the first team alone
(R358). -/
def State.mapEntries (s : State) (g : Grid) (pair extent : Nat) : State × Option (List MapEntry) :=
  match g.descs with
  | some vs => let (s, l) := s.installMaps pair g.ctx vs; (s, some l)
  | none =>
    let (s, vs) := s.mapDescs ⟨pair, g.ctx, 0⟩ g.launch.mapva g.launch.mapn
    let (s, l) := s.installMaps pair g.ctx vs
    if l.any (fun m => m.bad extent g.root) || mapsMeet l then (s, none)
    else (s.putGrid { g with descs := some vs }, some l)

/-! ## A team at its start -/

/-- L1SZ for a grid (R63). -/
def l1Size (lstore : Nat) : Nat := Config.localStore - 65536 * max 1 (ceilDiv lstore 65536)

/-- The PERM of c1 and c2 (R14): LD, ST, TL, TS and AT. -/
def permLocal : Nat := permLD + permST + permTL + permTS + permAT

/-- The k registers of a rank at its start (R191). -/
def startK (g : Grid) : Tab KReg :=
  let put (t : Tab KReg) (n : Nat) (v : Word) : Tab KReg := tabPut KReg.zero t n ⟨v, false, none, false⟩
  let t := (capWords g.root).zipIdx.foldl (fun t e => put t e.2 e.1) []
  (List.range 12).foldl (fun t i => put t (4 + i) ((g.launch.args.getD i 0).extractLsb' 0 32)) t

/-- A rank at its start (R170, R191). No field of a launch gives coverage, so no thread starts as a helper (R175) (DEDUCED, log 75). -/
def startRank (g : Grid) (j rod slot : Nat) : Rank :=
  let l := g.launch
  let x : Split := { mask := maskFull l.width, pc := l.vecEnt, age := 0, record := none, resume := 0, given := [], wait := .none, inHandler := false, notBefore := 0 }
  { num := j, rod := rod, slot := slot, width := l.width, base := l.regs, top := l.regs, scnt := 1, arrival := 0, shares := [],
    k := startK g, ktags := tabPut false [] 0 g.root.tag, recs := [], splits := [x], threads := List.replicate l.width Thread.start,
    handler := none, ended := false }

/-- The control thread at its start (R14, R191). -/
def startCtl (g : Grid) (gt extent gang : Nat) (host : TCap) : Ctl :=
  let c := tabPut TCap.null [] 0 g.root
  let c := tabPut TCap.null c 1 (capOf 2 permLocal 0 extent 0)
  let c := if gang = 0 then c else tabPut TCap.null c 2 (capOf 3 permLocal 0 (gang * 2 ^ 19) 0)
  let c := tabPut TCap.null c 3 host
  { pc := g.launch.ctlEnt, s := (g.launch.args.zipIdx).foldl (fun t e => tabPut 0 t (e.2 + 1) e.1) [], c := c, preds := 0, rets := [], pcm := 0,
    wait := .none, handler := none, ended := false, earliest := gt, readyAt := [], errs := [] }

/-- The ranks of a team on the rods of a base, each in the lowest slot that is free (R360). -/
def State.startRanks (s : State) (g : Grid) (pair b : Nat) : List Rank :=
  (List.range g.launch.ranks).map (fun j =>
    let q := b + j % g.launch.spread
    startRank g j q ((s.freeSlots pair q).getD (j / g.launch.spread) 0))

/-- The islands that serve a pair take the context's images (R412). -/
def State.reconfigure (s : State) (pair ctx : Nat) : State :=
  (islandsOf pair).foldl (fun s e =>
    if s.islandHolds e ctx then s
    else s.putIsland (islandKey e.1 e.2) { s.island (islandKey e.1 e.2) with image := (s.ctx ctx).bind (fun c => tabGet none c.images e.1) }) s

/-- An idle pair as it is set up for a grid (R63, R68); a core that changes context clears its duplicate filter (R161). A core that stood
idle between two stays of one context has not changed it (DESIGN CHOICE, log 76). -/
def State.setUpPair (s : State) (g : Grid) (pair : Nat) (maps : List MapEntry) : State :=
  let s := if (s.pair pair).lastCtx = some g.ctx then s
    else { s with filters := tabPut [] (tabPut [] s.filters (2 * pair) []) (2 * pair + 1) [] }
  s.putPair pair { s.pair pair with
    l1sz := l1Size g.launch.lstore
    grid := some g.id
    lastCtx := some g.ctx
    maps := maps.zipIdx.foldl (fun t e => tabPut none t e.2 (some e.1)) []
    sectors := [] }

/-- No register of a rank that starts waits for a producer of the rank that had its slot before (R191, R368). -/
def State.forgetProducers (s : State) (pair : Nat) (ranks : List Rank) : State :=
  ranks.foldl (fun s r => s.putRod pair r.rod { s.rod pair r.rod with
    producers := (s.rod pair r.rod).producers.filter (fun e => e.1 / 8192 != r.slot) }) s

/-- Puts the next team of a grid on a pair at a base (R360, R361); `ready` is false for a gang's member. -/
def State.putTeamOn (s : State) (g : Grid) (pair b number : Nat) (gangm : Option Nat) (ready : Bool) : Nat × State :=
  let s := s.reconfigure pair g.ctx
  let (uid, s) := s.newId
  let host := ((s.ctx g.ctx).map (fun c => c.hostcap)).getD TCap.null
  let t : Team := { uid := uid, grid := g.id, ctx := g.ctx, number := number, gangm := gangm, pair := pair, slot := (s.freeTeamSlots pair).getD 0 0,
                    baseRod := b, ready := ready, halted := false, frozen := none,
                    ctl := startCtl g s.gt (s.extent pair) (if gangm = none then 0 else g.launch.gang) host, handles := [], queues := [], flags := [],
                    bars := [], ends := [], tiles := [], quantum := 1, lc := 0, leaseP := false, hung := none, ranks := s.startRanks g pair b }
  (uid, { s.forgetProducers pair t.ranks with teams := s.teams ++ [t] })

/-! ## The queues -/

/-- The level of a queue: the child queue of priority p is 2 p, the host queue 2 p + 1 (R356). -/
def queueKey (prio : Nat) (child : Bool) : Nat := 2 * prio + (if child then 0 else 1)

/-- Takes a grid out of every queue. -/
def State.unqueue (s : State) (gid : Nat) : State :=
  { s with reckoner := { s.reckoner with
      queues := s.reckoner.queues.foldl (fun t e => tabPut [] t e.1 (e.2.filter (fun n => n != gid))) [] } }

/-- The members of the gang under way go, and their pairs return to idle without zeroing (R363). -/
def State.releaseGang (s : State) : State :=
  match s.reckoner.gang with
  | none => s
  | some a =>
    let mine := s.teams.filter (fun t => a.members.any (fun u => u == t.uid))
    let s := { s with teams := s.teams.filter (fun t => !a.members.any (fun u => u == t.uid)), reckoner := { s.reckoner with gang := none } }
    mine.foldl (fun s t =>
      if (s.teamsOn t.pair).isEmpty then s.putPair t.pair { s.pair t.pair with l1sz := Pair.idle.l1sz, grid := none, maps := [], sectors := [] } else s) s

/-- A grid enters its queue; one of higher priority than a gang under way takes its reservations back (R356, R363). -/
def State.enqueue (s : State) (g : Grid) : State :=
  let k := queueKey g.launch.prio g.parent.isSome
  let s := { s with reckoner := { s.reckoner with queues := tabMod [] s.reckoner.queues k (fun l => l ++ [g.id]) } }
  match s.reckoner.gang.bind (fun a => s.grid a.grid) with
  | some h => if h.launch.prio < g.launch.prio then s.releaseGang else s
  | none => s

/-- A grid whose context runs and that has not been ended may be placed (R391). -/
def State.placeable (s : State) (g : Grid) : Bool :=
  decide (g.ended = none) && (match s.ctx g.ctx with | some c => decide (c.mode = .running) | none => false)

/-- The head grid (R357): the first of the highest level, child queue first. -/
def State.headGrid (s : State) : Option Grid :=
  (List.range 8).findSome? (fun i => [queueKey (7 - i) true, queueKey (7 - i) false].findSome? (fun k =>
    (tabGet [] s.reckoner.queues k).findSome? (fun n => (s.grid n).bind (fun g => if s.placeable g then some g else none))))

/-- A team of a grid is placed; the grid leaves its queue with its last. -/
def State.countPlaced (s : State) (g : Grid) (n : Nat) : State :=
  let s := s.putGrid { g with placed := g.placed + n }
  if g.launch.nteam ≤ g.placed + n then s.unqueue g.id else s

/-- A grid that the reckoner does not place (R358). -/
def State.notPlaced (s : State) (g : Grid) (code : Nat) : State := (s.putGrid { g with ended := some (.notPlaced code) }).unqueue g.id

/-- The first 1 KiB at each entry address of a grid goes into a pair's instruction cache (R364). -/
def State.fetchEntries (s : State) (g : Grid) (pair : Nat) : State :=
  let q : Req := ⟨pair, g.ctx, 0⟩
  (s.fetchAhead q g.launch.vecEnt.toNat).fetchAhead q g.launch.ctlEnt.toNat

/-- Places a team on a pair: an idle pair is set up first. None when R69 refuses the grid's map. -/
def State.placeOn (s : State) (g : Grid) (pair b number : Nat) (gangm : Option Nat) (ready : Bool) : State × Option Nat :=
  if (s.pair pair).grid ≠ none then let (u, s) := s.putTeamOn g pair b number gangm ready; (s, some u)
  else match s.mapEntries g pair (Config.localStore - l1Size g.launch.lstore) with
    | (s, none) => (s, none)
    | (s, some l) =>
      let (u, s) := (s.setUpPair g pair l).putTeamOn g pair b number gangm ready
      (if number = 0 then s.fetchEntries g pair else s, some u)

/-- The grid as it stands, with what placing a team wrote to it. -/
def State.regrid (s : State) (g : Grid) : Grid := (s.grid g.id).getD g

/-- TEAM_PLACE (R357 to R361). While a gang is being reserved nothing else is placed (R363). -/
def State.teamPlace (s : State) : State :=
  match s.headGrid with
  | none => s
  | some g =>
    if g.launch.gang ≠ 0 ∨ s.reckoner.gang.isSome then s
    else match ((List.range 256).map scanPair).findSome? (fun p => (s.fits g p).map (fun b => (p, b))) with
      | none => s
      | some (p, b) =>
        match s.placeOn g p b g.placed none true with
        | (s, none) => s.notPlaced g 2
        | (s, some _) => s.countPlaced (s.regrid g) 1

/-- TEAM_PLACE. -/
def execTeamPlace (s : State) : Host.Outcome State Fault Refusal := answer s.teamPlace

/-- The cluster for the next gang of a grid: the lowest whose columns each take a member (R362). -/
def State.gangCluster (s : State) (g : Grid) : Option Nat :=
  (((List.range 256).map scanPair).filter (fun p => p % 4 == 0)).findSome? (fun p =>
    if (List.range g.launch.gang).all (fun j => (s.fits g (p + j)).isSome) then some (p / 4) else none)

/-- GANG_RESERVE (R362): the next pair of the gang under way, or the first of a new one. -/
def State.gangReserve (s : State) : State :=
  let take (s : State) (g : Grid) (cluster : Nat) (members : List Nat) : State :=
    let j := members.length
    match s.fits g (4 * cluster + j) with
    | none => s
    | some b =>
      match s.placeOn g (4 * cluster + j) b (g.placed + j) (some j) false with
      | (s, none) => (s.releaseGang).notPlaced g 2
      | (s, some u) => { s with reckoner := { s.reckoner with gang := some ⟨g.id, cluster, members ++ [u], false⟩ } }
  match s.reckoner.gang with
  | some a =>
    match s.grid a.grid with
    | none => s
    | some g => if g.launch.gang ≤ a.members.length then s else take s g a.cluster a.members
  | none =>
    match s.headGrid with
    | none => s
    | some g =>
      if g.launch.gang = 0 then s
      else match s.gangCluster g with
        | none => s
        | some c => take s g c []

/-- GANG_RESERVE. -/
def execGangReserve (s : State) : Host.Outcome State Fault Refusal := answer s.gangReserve

/-- GANG_COMMIT (R189, R362): every member becomes ready. -/
def State.gangCommit (s : State) : State :=
  match s.reckoner.gang with
  | none => s
  | some a =>
    match s.grid a.grid with
    | none => s
    | some g =>
      if a.members.length < g.launch.gang then s
      else
        let wake (t : Team) : Team := if a.members.any (fun u => u == t.uid) then { t with ready := true } else t
        let s := { s with
          teams := s.teams.map wake
          reckoner := { s.reckoner with gang := none } }
        s.countPlaced g g.launch.gang

/-- GANG_COMMIT. -/
def execGangCommit (s : State) : Host.Outcome State Fault Refusal := answer s.gangCommit

/-- RECKONER_FAILOVER (R355): the replica of the next slice goes on from the recorded state. -/
def execReckonerFailover (s : State) : Host.Outcome State Fault Refusal :=
  answer { s with reckoner := { s.reckoner with acting := (s.reckoner.acting + 1) % 8 } }

/-! ## The end of teams, pairs and grids -/

/-- The handles of a team, those in its queues among them (R139). -/
def Team.allHandles (t : Team) : List Handle := t.handles.map (fun h => h.2) ++ t.queues.flatMap (fun q => q.2.filterMap (fun e => e.mark))

/-- A team has ended (R244): its control thread and ranks, no handle pending, its stores acknowledged and its matrix operations
retired (DEDUCED, log 49). -/
def State.teamOver (s : State) (t : Team) : Bool :=
  t.ready && t.ctl.ended && t.ranks.all (fun r => r.ended) &&
    t.allHandles.all (fun h => match h with | .pending _ => false | _ => true) &&
    !s.accesses.any (fun a => a.who.team == t.uid && (match a.kind with | .free .. => false | _ => true)) &&
    !(s.abacus t.pair 0).ops.any (fun o => o.team == t.uid) && !(s.abacus t.pair 1).ops.any (fun o => o.team == t.uid)

/-- The largest WCT that a team's threads and handles know of (R353). -/
def Team.lastTime (t : Team) : Nat :=
  max (max t.ctl.pcm (maxOf (t.ranks.map (fun r => maxOf (r.threads.map (fun th => th.pcm))))))
    (maxOf (t.allHandles.map (fun h => match h with | .resolved r => r.wmax | _ => 0)))

/-- Unmap (R74): every sector of the pair that may be written back is triggered. -/
def State.unmapPair (s : State) (pair : Nat) : State := s.triggerRange pair 0 (s.extent pair) ⟨0, none, 0⟩

/-- TEAM_END (R148, R244, R374): the team is gone; the last of its grid on the pair starts the unmap (DEDUCED, log 49). -/
def State.teamEnd (s : State) (uid : Nat) : State :=
  match s.team uid with
  | none => s
  | some t =>
    if !s.teamOver t then s
    else
      let s := (s.releaseFrees (fun w => w.team == uid)).unlockTeam uid
      let s := s.endLease t
      let p := s.pair t.pair
      let s := s.putPair t.pair { p with rings := p.rings.foldl (fun r e => if e.2.team = t.slot then tabPut Ring.zero r e.1 { e.2 with v := false } else r) p.rings }
      let s := match s.grid t.grid with
        | some g => s.putGrid { g with endedTeams := g.endedTeams + 1, wmax := max g.wmax t.lastTime }
        | none => s
      let s := { s with teams := s.teams.filter (fun u => u.uid != uid) }
      if (s.teamsOn t.pair).isEmpty then s.unmapPair t.pair else s

/-- TEAM_END. -/
def execTeamEnd (team : Nat) (s : State) : Host.Outcome State Fault Refusal := answer (s.teamEnd team)

/-- PAIR_IDLE (R63, R74): with its unmap complete, the pair's scratchpad is zeroed and its L1 lines are discarded. -/
def State.pairIdle (s : State) (pair : Nat) : State :=
  let p := s.pair pair
  if p.grid = none ∨ !(s.teamsOn pair).isEmpty then s
  else
    let dirty (e : Nat × Sector) : Bool := match p.mapAt (e.1 * 256) with
      | some (_, m) => decide (e.2.st = .d) && !m.nowb && !m.flt
      | none => false
    let busy := p.sectors.any (fun e => decide (e.2.st = .w) || decide (e.2.st = .wd) || decide (e.2.st = .f))
    if p.sectors.any dirty then s.unmapPair pair
    else if busy then s
    else
      let s := { s with copies := s.copies.filter (fun (c : Copy) => !decide (c.holder = Holder.l1 pair)) }
      s.putPair pair { p with l1sz := Pair.idle.l1sz, grid := none, pad := [], tags := [], poison := [], maps := [], sectors := [] }

/-- PAIR_IDLE. -/
def execPairIdle (pair : Nat) (s : State) : Host.Outcome State Fault Refusal := answer (s.pairIdle pair)

/-- A grid may retire (R190): its teams are placed and ended, its children are gone, and its pairs are idle. -/
def State.gridOver (s : State) (g : Grid) : Bool :=
  !g.retired && (g.ended.isSome || decide (g.launch.nteam ≤ g.placed)) && !s.teams.any (fun t => t.grid == g.id) &&
    !s.grids.any (fun c => decide (c.parent = some g.id)) && !s.pairs.any (fun p => decide (p.2.grid = some g.id)) &&
    !s.ctxs.any (fun c => match c.2 with | some c => (match c.saved with | some v => v.teams.any (fun t => t.grid == g.id) | none => false) | none => false)

/-- GRID_RETIRE (R190). -/
def State.gridRetire (s : State) (id : Nat) : State :=
  match s.grid id with
  | none => s
  | some g => if s.gridOver g then (s.putGrid { g with retired := true, ended := some (g.ended.getD .completed) }).unqueue id else s

/-- GRID_RETIRE. -/
def execGridRetire (grid : Nat) (s : State) : Host.Outcome State Fault Refusal := answer (s.gridRetire grid)

/-- DONEW of a grid (R353, R381). -/
def Grid.donewWord (g : Grid) : Nat :=
  2 ^ 63 + (match g.ended.getD .completed with
    | .completed => 0
    | .trapped code _ none => 1 + 256 * code.num
    | .trapped code _ (some h) => 1 + 256 * code.num + 2 ^ 16 + 2 ^ 24 * h.num
    | .frozen code => 2 + 256 * code.num
    | .notPlaced code => 3 + 256 * code)

/-- Removes a grid whose end has been reported. -/
def State.dropGrid (s : State) (id : Nat) : State := { s with grids := s.grids.filter (fun g => g.id != id) }

/-- CHILD_DONE_WRITE (R58, R353): DONEW as one unit, once GT has reached the child's last write. One in a scratchpad that the parent's grid no
longer holds is dropped. -/
def State.childDone (s : State) (id : Nat) : State :=
  match s.grid id with
  | none => s
  | some g =>
    if !g.retired || decide (g.parent = none) || decide (s.gt < g.wmax) then s
    else
      let bytes := natLe 8 g.donewWord
      let ended (s : State) : State := s.dropGrid id
      match g.donew with
      | none => ended s
      | some (space, pair, a) =>
        if space = 1 ∨ space = 4 then
          s.whenMigrated (.donew id) ⟨pair, g.ctx, 0⟩ needW a 8 (fun s => ended (s.unitWrite ⟨pair, g.ctx, 0⟩ a bytes 9).2)
        else if space = 5 then
          let port := ((s.ctx g.ctx).map (fun (c : Ctx) => c.port)).getD 0
          ended (s.landPiece (pieceAt (.host port a) 8 bytes false false)).2
        else if (s.pair (homePair pair space a)).grid = g.parent then
          ended (s.landPiece (pieceAt (.pad (homePair pair space a) (a % 2 ^ 19)) 8 bytes false false)).2
        else ended s

/-- CHILD_DONE_WRITE. -/
def execChildDoneWrite (grid : Nat) (s : State) : Host.Outcome State Fault Refusal := answer (s.childDone grid)

/-- The frozen team of a grid whose violation came first (R31, R32). -/
def firstFrozen : List Team → Option FreezeRec
  | [] => none
  | t :: l => match t.frozen, firstFrozen l with
    | none, r => r
    | some f, none => some f
    | some f, some r => some (if r.gtv < f.gtv then r else f)

/-- The trap code of a number that a freeze record holds (R31, R376). -/
def violationOf (n : Nat) : TrapCode := if n = 0x10 then .capTag else if n = 0x11 then .capBounds else if n = 0x12 then .capPerm else .privileged

/-- GRID_END (R32): the service kernel ends a grid that holds a frozen team. -/
def State.gridEnd (s : State) (id : Nat) : State :=
  match s.grid id with
  | none => s
  | some g =>
    match firstFrozen (s.teams.filter (fun t => t.grid == id)) with
    | none => s
    | some f =>
      let s := match s.reckoner.gang with
        | some a => if a.grid = id then s.releaseGang else s
        | none => s
      ((s.putGrid { g with ended := some (g.ended.getD (.frozen (violationOf f.code))) }).unqueue id).stopGrid id

/-- GRID_END. -/
def execGridEnd (grid : Nat) (s : State) : Host.Outcome State Fault Refusal := answer (s.gridEnd grid)

end Sys2Proof.Machine
end

