-- ==== Sys2Proof/Machine/Launch.lean ====
section
/-! DEFINITION. Launch records, and LAUNCH of a child grid (spec/16 R352, spec/17 R356, R358, spec/21 R450). A record is the number its
192 bytes hold. -/

namespace Sys2Proof.Machine

/-- The launch values of a record (R220, R352). -/
def launchValues (v : Nat) : Launch :=
  { ctlEnt := BitVec.ofNat 48 (bitsAt v 0 48), vecEnt := BitVec.ofNat 48 (bitsAt v 64 48), width := 8 * 2 ^ bitsAt v 128 3, quad := v.testBit 131,
    regs := 16 * 2 ^ bitsAt v 132 2, ranks := bitsAt v 134 6 + 1, spread := 2 ^ bitsAt v 140 3, gang := bitsAt v 144 3, prio := bitsAt v 147 3,
    accum := bitsAt v 150 5, lstore := bitsAt v 160 32, nteam := bitsAt v 192 32, ctrap := signedOf 32 (bitsAt v 224 32),
    vtrap := signedOf 32 (bitsAt v 480 32), wdlim := (if bitsAt v 256 64 = 0 then 2 ^ 24 else bitsAt v 256 64), mapva := bitsAt v 320 48,
    mapn := bitsAt v 368 5, succva := bitsAt v 384 48, succn := bitsAt v 448 32,
    args := (List.range 15).map (fun i => BitVec.ofNat 64 (bitsAt v (512 + 64 * i) 64)) }

/-- KPAR breaks a limit of R217 or a reserved bit of R220. -/
def kparBad (v : Nat) : Bool :=
  decide (3 < bitsAt v 128 3) || bitsAt v 132 2 == 3 || decide (31 < bitsAt v 134 6) || decide (5 < bitsAt v 140 3) || v.testBit 143 ||
    bitsAt v 144 3 == 1 || decide (4 < bitsAt v 144 3) || decide (16 < bitsAt v 150 5)

/-- The byte offset of the first field of a child-launch record that fails a check of R352 (DEDUCED, log 45). -/
def launchField (v : Nat) : Option Nat :=
  ([(6, bitsAt v 48 16 != 0), (14, bitsAt v 112 16 != 0), (16, kparBad v), (19, bitsAt v 155 5 != 0), (20, decide (458752 < bitsAt v 160 32)),
    (24, bitsAt v 192 32 == 0), (28, bitsAt v 224 32 % 8 != 0), (46, decide (16 < bitsAt v 368 5) || bitsAt v 373 11 != 0),
    (54, bitsAt v 432 16 != 0), (60, bitsAt v 480 32 % 8 != 0)].find? (fun e : Nat × Bool => e.2)).map (fun e => e.1)

/-- A record that R358 calls LAUNCH_INVALID. -/
def launchInvalid (v : Nat) : Bool :=
  bitsAt v 192 32 == 0 || decide (3 < bitsAt v 128 3) || decide (31 < bitsAt v 134 6) || bitsAt v 144 3 == 1 || decide (4 < bitsAt v 144 3) ||
    bitsAt v 132 2 == 3 || decide (5 < bitsAt v 140 3) || decide (16 < bitsAt v 368 5) ||
    (bitsAt v 256 64 != 0 && (decide (bitsAt v 256 64 < 2 ^ 16) || decide (2 ^ 32 < bitsAt v 256 64))) ||
    bitsAt v 64 48 % 8 != 0 || bitsAt v 0 48 % 8 != 0 || bitsAt v 480 32 % 8 != 0 || bitsAt v 224 32 % 8 != 0

/-- The placement status of a record that the reckoner does not place, but for MAP_INVALID (R358). -/
def launchCode (v : Nat) : Option Nat :=
  let l := launchValues v
  if launchInvalid v then some 6
  else if 458752 < l.lstore then some 1
  else if 16 < l.accum then some 5
  else if l.gang ≠ 0 ∧ l.nteam % l.gang ≠ 0 then some 4
  else if !l.fitsEmpty then some 3
  else none

/-- TRAPH of a stream at the start of a grid (R254, R352). -/
def startTraph (ent : BitVec 48) (disp : Int) : BitVec 64 := if disp = 0 then 0 else (ent + BitVec.ofInt 48 disp).setWidth 64

/-- A GRIDID that none of those in use has: the first one from v on (R254) (DESIGN CHOICE, log 59). -/
def freshGrid (used : List Nat) (v : Nat) : Nat := ((List.range' v (used.length + 1)).find? (fun n => !used.contains n)).getD 0

/-- A new grid, whose GRIDID is a free value that no grid has had since reset (log 59), and which enters its queue, or is not placed at once (R254, R356, R358): its GRIDID
(DEDUCED, log 45). -/
def State.newGrid (s : State) (v ctx : Nat) (parent : Option Nat) (depth : Nat) (priv : Bool) (window : Option Nat) (root : TCap)
    (donew : Option (Nat × Nat × Nat)) : Nat × State :=
  let (i, s) := s.newFree
  let id := freshGrid s.gridIds (1 + Config.freeNat i % (2 ^ 64 - 2 ^ 32))
  let l := launchValues v
  let g : Grid := { id := id, ctx := ctx, parent := parent, depth := depth, priv := priv, window := window, launch := l, root := root, donew := donew,
                    trapV := startTraph l.vecEnt l.vtrap, trapC := startTraph l.ctlEnt l.ctrap, wdlim := l.wdlim, descs := none, placed := 0, endedTeams := 0,
                    ended := (launchCode v).map GridEnd.notPlaced, wbd := none, wmax := 0, retired := false }
  let s := { s with gridIds := s.gridIds ++ [id], grids := s.grids ++ [g] }
  (id, if g.ended = none then s.enqueue g else s)

/-- LAUNCH in the control stream (R352, R356). -/
def launchCtl (w : FWord) (s : State) (t : Team) : State :=
  ctlPass s t (plainMod w 1 && fldOk .ctl .wide (fldD w) && cRun (fldA w) 2 && fldOk .ctl .none (fldB w)) (fToWord 0xCC w) w.g w.gn clsOnce
    [w.a.toNat, w.a.toNat + 1] (ctlKeysOf .wide (fldD w)) (fun s t =>
      let s := s.landCtl t.uid
      let c := t.ctl.getC (w.a.toNat - 64)
      let root := t.ctl.getC (w.a.toNat - 63)
      match s.ctlRead t c (capCursor c) 64 192 with
      | (s, .error (.trap tr)) => s.trapCtl t tr
      | (s, .error (.block b)) => s.ctlBlock t b
      | (s, .ok v) =>
        let g := s.grid t.grid
        if !root.tag then s.trapCtl t (capTrap .capTag 0 (capCursor root : Int) root)
        else if capSpace root ≠ 1 ∧ capSpace root ≠ 4 then s.trapCtl t (capTrap .capPerm 0 (capCursor root : Int) root)
        else match launchField v with
          | some n => s.trapCtl t { code := .illegalOperand, detail := BitVec.ofNat 64 n }
          | none =>
            let depth := (g.map (fun g => g.depth)).getD 1
            if 10 ≤ depth then s.trapCtl t { code := .nestDepth, detail := 10 }
            else if 4096 ≤ s.queued then s.ctlBlock t .launchRoom
            else
              let (id, s) := s.newGrid v t.ctx (some t.grid) (depth + 1) false none root (some (capSpace c, t.pair, capCursor c + 184))
              s.ctlDone { t with ctl := t.ctl.putS w.d.toNat (BitVec.ofNat 64 id) })

/-- LAUNCH. -/
def execLaunch (w : FWord) (s : State) : Host.Outcome State Fault Refusal := answer (byStream s (notInVec 0xCC w) (launchCtl w))

end Sys2Proof.Machine
end

