-- ==== Sys2Proof/Machine/Lms.lean ====
section
/-! DEFINITION. SHA-256, the LMS signatures that a Proxo image carries, and the checks of an image (spec/19 R404 to R411). -/

namespace Sys2Proof.Machine

/-! ## SHA-256 -/

/-- The `e`-th root of a number, rounded down, found bit by bit from bit n - 1 over what is known of it. -/
def rootBits (e v : Nat) : Nat → Nat → Nat
  | 0, known => known
  | n + 1, known => rootBits e v n (if (known + 2 ^ n) ^ e ≤ v then known + 2 ^ n else known)

/-- The first 32 bits of the fraction of a prime's `e`-th root, from which SHA-256 takes its constants. -/
def rootFraction (e p : Nat) : Word := BitVec.ofNat 32 (rootBits e (p * 2 ^ (32 * e)) 37 0)

/-- The first 64 primes. -/
def shaPrimes : List Nat := ((List.range 312).drop 2).filter (fun n => [2, 3, 5, 7, 11, 13, 17].all (fun d => n == d || n % d != 0))

/-- What the 64 rounds of SHA-256 add in: cube roots. -/
def roundAdds : List Word := shaPrimes.map (rootFraction 3)

/-- The chaining value that SHA-256 starts with: square roots. -/
def shaStart : List Word := (shaPrimes.take 8).map (rootFraction 2)

/-- The exclusive or of a word's rotations to the right. -/
def rotations (x : Word) (by_ : List Nat) : Word := by_.foldl (fun v n => v ^^^ x.rotateRight n) 0

/-- The number a big-endian byte list holds. -/
def beNat (l : List Byte) : Nat := leNat l.reverse
/-- The `n` bytes of a number, most significant first. -/
def natBe (n v : Nat) : List Byte := (natLe n v).reverse

/-- The message schedule grows by `n` words; the newest stands first, so that word t - k is entry k - 1. -/
def growSchedule : Nat → List Word → List Word
  | 0, l => l
  | n + 1, l =>
    let ago (k : Nat) : Word := (l[k - 1]?).getD 0
    let near := rotations (ago 2) [17, 19] ^^^ (ago 2 >>> 10)
    let far := rotations (ago 15) [7, 18] ^^^ (ago 15 >>> 3)
    growSchedule n ((near + ago 7 + far + ago 16) :: l)

/-- One round over the eight working words, first to last: `add` is the round's constant and schedule word together. -/
def shaRound (h : List Word) (add : Word) : List Word :=
  let v (i : Nat) : Word := h.getD i 0
  -- where a bit of word 4 is set its bit of word 5 is chosen, else that of word 6
  let chosen := v 6 ^^^ (v 4 &&& (v 5 ^^^ v 6))
  -- the bit that at least two of the first three words have
  let most := (v 0 &&& v 1) ||| (v 2 &&& (v 0 ||| v 1))
  let sum := v 7 + rotations (v 4) [6, 11, 25] + chosen + add
  (sum + rotations (v 0) [2, 13, 22] + most) :: h.take 3 ++ (v 3 + sum) :: (h.drop 4).take 3

/-- The big-endian words of a block. -/
def beWords : List Byte → List Word
  | a :: b :: c :: d :: l => (a ++ b ++ c ++ d) :: beWords l
  | _ => []

/-- Takes one 64-byte block in. -/
def shaBlock (h : List Word) (block : List Byte) : List Word :=
  let adds := List.zipWith (fun k w => k + w) roundAdds (growSchedule 48 (beWords block).reverse).reverse
  List.zipWith (fun a b => a + b) h (adds.foldl shaRound h)

/-- Takes `n` blocks in. -/
def shaBlocks : Nat → List Word → List Byte → List Word
  | 0, h, _ => h
  | n + 1, h, l => shaBlocks n (shaBlock h (l.take 64)) (l.drop 64)

/-- SHA-256. -/
def sha256 (m : List Byte) : List Byte :=
  let pad := m ++ [0x80] ++ List.replicate ((119 - m.length % 64) % 64) 0 ++ natBe 8 (8 * m.length)
  (shaBlocks (pad.length / 64) shaStart pad).flatMap (fun w => natBe 4 w.toNat)

/-! ## LMS signatures (RFC 8554, LMS_SHA256_M32_H10 and LMOTS_SHA256_N32_W4) -/

/-- Part of a byte list. -/
def bytesAt (l : List Byte) (lo n : Nat) : List Byte := (l.drop lo).take n

/-- The 67 digits of a hash and its checksum. -/
def lmsDigits (q : List Byte) : List Nat :=
  let d := q.flatMap (fun b => [b.toNat / 16, b.toNat % 16])
  let c := (d.map (fun v => 15 - v)).foldl (· + ·) 0
  d ++ [c / 256 % 16, c / 16 % 16, c % 16]

/-- `n` steps of a chain from step j. -/
def lmsChain (pre : List Byte) (j : Nat) : Nat → List Byte → List Byte
  | 0, x => x
  | n + 1, x => lmsChain pre (j + 1) n (sha256 (pre ++ natBe 1 j ++ x))

/-- The root that a path leads to from a node. -/
def lmsRoot (id : List Byte) : Nat → List Byte → List (List Byte) → List Byte
  | _, x, [] => x
  | node, x, p :: l => lmsRoot id (node / 2) (sha256 (id ++ natBe 4 (node / 2) ++ [0x83, 0x83] ++ (if node % 2 = 1 then p ++ x else x ++ p))) l

/-- A signature of 2,508 bytes is right for a message under a key of 56 bytes (R410). -/
def lmsVerify (key msg sig : List Byte) : Bool :=
  let id := bytesAt key 8 16
  let q := beNat (bytesAt sig 0 4)
  let d := lmsDigits (sha256 (id ++ natBe 4 q ++ [0x81, 0x81] ++ bytesAt sig 8 32 ++ msg))
  let ends := d.zipIdx.flatMap (fun e => lmsChain (id ++ natBe 4 q ++ natBe 2 e.2) e.1 (15 - e.1) (bytesAt sig (40 + 32 * e.2) 32))
  let leaf := sha256 (id ++ natBe 4 (1024 + q) ++ [0x82, 0x82] ++ sha256 (id ++ natBe 4 q ++ [0x80, 0x80] ++ ends))
  beNat (bytesAt key 0 4) == 6 && beNat (bytesAt key 4 4) == 3 && decide (key.length = 56) && decide (sig.length = 2508) &&
    beNat (bytesAt sig 4 4) == 3 && beNat (bytesAt sig 2184 4) == 6 && decide (q < 1024) &&
    lmsRoot id (1024 + q) leaf ((List.range 10).map (fun i => bytesAt sig (2188 + 32 * i) 32)) == bytesAt key 24 32

/-! ## The image -/

/-- The number in bytes [lo, lo + n) of an image. -/
def imgNat (l : List Byte) (lo n : Nat) : Nat := leNat (bytesAt l lo n)
/-- IKIND. -/
def imgKind (l : List Byte) : Nat := imgNat l 6 1 % 4
/-- II. -/
def imgII (l : List Byte) : Nat := imgNat l 6 1 / 16 + 1
/-- NRESW. -/
def imgResw (l : List Byte) : Nat := imgNat l 24 2
/-- NCONST. -/
def imgConsts (l : List Byte) : Nat := imgNat l 26 2
/-- The bytes of the cell table (R409). -/
def imgCellLen (l : List Byte) : Nat := islandCols (imgKind l) * islandRows (imgKind l) * imgII l * 8
/-- PMAPOFF. -/
def imgMapOff (l : List Byte) : Nat := 64 + imgCellLen l
/-- CONSTOFF. -/
def imgConstOff (l : List Byte) : Nat := imgMapOff l + 8 * ceilDiv (2 * imgResw l) 8
/-- SIGOFF. -/
def imgSigOff (l : List Byte) : Nat := imgConstOff l + 8 * ceilDiv (4 * imgConsts l) 8

/-- Step 1 of R411: the header and the sizes of R408 and R409. -/
def imgShape (l : List Byte) (len : Nat) : Bool :=
  imgNat l 0 4 == 0x4F585250 && imgNat l 4 2 == 1 && imgNat l 6 1 / 4 % 4 == 0 && decide (imgNat l 7 1 < 8) && imgNat l 40 24 == 0 &&
    decide (imgNat l 8 4 ≤ 16384) && imgNat l 8 4 == len && imgNat l 12 4 == 64 && imgNat l 16 4 == imgCellLen l &&
    imgNat l 20 4 == imgMapOff l && decide (imgConsts l ≤ 64) && imgNat l 28 4 == imgConstOff l && imgNat l 32 4 == imgSigOff l &&
    imgNat l 8 4 == imgSigOff l + 2508

/-- The sources that a cell operation uses (bit 0 a, bit 1 b, bit 2 c), whether it uses RM, and how many CND values it has; none
for a reserved code (R405). -/
def cellUses (op : Nat) : Option (Nat × Bool × Nat) :=
  if op = 0 then some (0, false, 0)
  else if op = 1 ∨ op = 0x0C then some (1, false, 0)
  else if 2 ≤ op ∧ op ≤ 4 then some (3, true, 0)
  else if op = 5 then some (7, true, 0)
  else if op = 6 ∨ op = 7 then some (3, false, 0)
  else if op = 8 then some (3, false, 8)
  else if op = 9 then some (7, false, 0)
  else if op = 0x0A ∨ op = 0x0B then some (1, true, 0)
  else if 0x10 ≤ op ∧ op ≤ 0x17 then some (3, false, 0)
  else if op = 0x18 then some (3, false, 10)
  else if op = 0x19 ∨ op = 0x1A then some (3, false, 0)
  else if 0x20 ≤ op ∧ op ≤ 0x23 then some (1, true, 0)
  else none

/-- A selector read from column `col` at slot `slot` is one that R406 or R407 allows; the response map reads from column NCOL, at any
slot. -/
def selOk (kind ii consts col : Nat) (slot : Option Nat) (sel : Nat) : Bool :=
  let sk := sel / 1024
  let from_ (back within : Nat) : Bool :=
    decide (back ≤ col) && sel / 128 % 8 == 0 && decide (bitsAt sel 4 3 < islandRows kind) && decide (bitsAt sel 0 4 < ii) &&
      decide (bitsAt sel 0 4 ≤ (slot.map (fun s => s + within)).getD 15)
  if sk = 0 then sel / 64 % 16 == 0 && decide (sel % 64 < islandWords kind)
  else if sk = 1 then sel / 64 % 16 == 0 && decide (sel % 64 < consts)
  else if sk = 2 then from_ 1 0
  else from_ 2 4

/-- A cell operation is one that R404 to R406 allow in its column and slot. -/
def cellOk (kind ii consts col slot w : Nat) : Bool :=
  match cellUses (bitsAt w 58 6) with
  | none => false
  | some (uses, rm, cnds) =>
    let src (bit lo : Nat) : Bool := if uses.testBit bit then selOk kind ii consts col (some slot) (bitsAt w lo 12) else bitsAt w lo 12 == 0
    src 0 46 && src 1 34 && src 2 22 && bitsAt w 0 16 == 0 && (rm || bitsAt w 20 2 == 0) &&
      (if cnds = 0 then bitsAt w 16 4 == 0 else decide (bitsAt w 16 4 < cnds)) &&
      (decide (bitsAt w 58 6 < 0x20) || col == islandSpecial kind)

/-- Step 4 of R411. -/
def imgCells (l : List Byte) : Bool :=
  let k := imgKind l
  let n := imgII l
  let map (j : Nat) : Nat := imgNat l (imgMapOff l + 2 * j) 2
  imgResw l == islandResp k &&
    (List.range (imgCellLen l / 8)).all (fun i => cellOk k n (imgConsts l) (i / (islandRows k * n)) (i % n) (imgNat l (64 + 8 * i) 8)) &&
    (List.range (imgResw l)).all (fun j => decide (map j < 4096) && selOk k n (imgConsts l) (islandCols k) none (map j)) &&
    imgNat l (imgMapOff l + 2 * imgResw l) (imgConstOff l - imgMapOff l - 2 * imgResw l) == 0 &&
    imgNat l (imgConstOff l + 4 * imgConsts l) (imgSigOff l - imgConstOff l - 4 * imgConsts l) == 0

/-- The image that verified bytes hold. -/
def imgOf (l : List Byte) : Image :=
  { kind := imgKind l
    ii := imgII l
    cells := (List.range (imgCellLen l / 8)).foldl (fun t i => tabPut 0 t i (BitVec.ofNat 64 (imgNat l (64 + 8 * i) 8))) []
    map := (List.range (imgResw l)).map (fun j => imgNat l (imgMapOff l + 2 * j) 2)
    consts := (List.range (imgConsts l)).map (fun j => BitVec.ofNat 32 (imgNat l (imgConstOff l + 4 * j) 4))
    digest := leNat (sha256 l) }

/-- The checks of R411 in order: the image, or the status of the first that fails. -/
def imgCheck (keys : List (List Byte)) (floors : List Nat) (l : List Byte) (len : Nat) : Except Nat Image :=
  if !imgShape l len then .error 0x10
  else match keys[imgNat l 7 1]? with
    | none => .error 0x11
    | some k =>
      if !lmsVerify k (l.take (imgSigOff l)) (l.drop (imgSigOff l)) then .error 0x11
      else if imgNat l 36 4 < floors.getD (imgKind l) 0 then .error 0x12
      else if !imgCells l then .error 0x10
      else .ok (imgOf l)

end Sys2Proof.Machine
end

