-- ==== Sys2Proof/Machine/Commands.lean ====
section
/-! DEFINITION. The command windows: what each host command does once its window has taken it up, and how it ends (spec/05 R123 to
R125, spec/21 R445 to R451). SAVE_CONTEXT and RESUME stand with pre-emption. -/

namespace Sys2Proof.Machine

/-! ## Windows and commands -/

/-- A window. -/
def State.window (s : State) (n : Nat) : Window := tabGet Window.start s.windows n
/-- Replaces a window. -/
def State.putWindow (s : State) (n : Nat) (v : Window) : State := { s with windows := tabPut Window.start s.windows n v }
/-- A port. -/
def State.port (s : State) (n : Nat) : Port := tabGet Port.start s.ports n
/-- Replaces a port. -/
def State.putPort (s : State) (n : Nat) (v : Port) : State := { s with ports := tabPut Port.start s.ports n v }

/-- The service core that serves a window: that of the slice its BASE frame is homed on (R457). -/
def Window.core (w : Window) : Nat := sliceOf (w.base / 4096)

/-- The number in bytes [lo, lo + n) of a command's slot, for lo from 8 (R446, R448). -/
def Command.field (c : Command) (lo n : Nat) : Nat := leNat ((c.body.drop (lo - 8)).take n)

/-- A byte of the body lies in no field of the command and is not 0 (R448): `used` lists the fields as first byte and length. -/
def Command.reserved (c : Command) (used : List (Nat × Nat)) : Bool :=
  c.body.zipIdx.any (fun e => decide (e.1 ≠ 0) && !used.any (fun f => decide (f.1 ≤ e.2 + 8) && decide (e.2 + 8 < f.1 + f.2)))

/-- Replaces the command of a window. -/
def State.putCmd (s : State) (win : Nat) (c : Command) : State := s.putWindow win { s.window win with cmd := some c }

/-- A command ends with a status (R449). -/
def State.endCmd (s : State) (win : Nat) (c : Command) (status : Nat) : State := s.putCmd win { c with begun := true, status := some status }

/-- A read by a service core (R80, R399): a failing read records a machine check, and the bytes are open (DEDUCED, log 37). -/
def State.svcRead (s : State) (core pa len : Nat) : State × List Byte :=
  match s.readDev pa len 0 with
  | (s, .ok l) => (s, l)
  | (s, .error _) =>
    let (i, s) := s.newFree
    (s.modCore core (fun c => { c with checks := c.checks + 1 }), (List.range len).map (fun k => Config.freeByte i (BitVec.ofNat 32 k)))

/-- Whether the command of a window may begin: its code is `code`, it has not begun, and the port is open (R383, R455). -/
def State.cmdReady (s : State) (win code : Nat) : Option Command :=
  match (s.window win).cmd with
  | some c => if c.cmd = code ∧ c.status = none ∧ (c.begun ∨ s.portOpen (s.window win).port = true) then some c else none
  | none => none

/-- The context bound to a window, with its number. -/
def State.windowCtx (s : State) (win : Nat) : Option (Nat × Ctx) := (s.window win).ctx.bind (fun n => (s.ctx n).map (fun c => (n, c)))

/-- A command that needs its window's context waits while that context is parked (R456). -/
def CtxMode.waits : CtxMode → Bool
  | .parked => true
  | .halting p => p
  | .halted p => p
  | _ => false

/-- Runs a command that has not begun: BAD_COMMAND when its body is refused (R448) (DEDUCED, log 36). -/
def State.runCmd (s : State) (win code : Nat) (bad : Command → Bool) (act : State → Command → State) : State :=
  match s.cmdReady win code with
  | none => s
  | some c => if c.begun then s else if bad c then s.endCmd win c 2 else act s c

/-! ## LAUNCH_GRID -/

/-- A reserved bit of a host launch record is set (R220, R352, R450). -/
def recordReserved (v : Nat) : Bool :=
  bitsAt v 48 16 != 0 || bitsAt v 112 16 != 0 || v.testBit 143 || bitsAt v 155 5 != 0 || bitsAt v 373 11 != 0 || bitsAt v 432 16 != 0 ||
    bitsAt v 1472 64 != 0 || bitsAt v 1665 383 != 0

/-- The grid root capability of a host launch record, tagged (R15, R450). -/
def recordRoot (v : Nat) : TCap := ⟨BitVec.ofNat 128 (bitsAt v 1536 128), true⟩

/-- LAUNCH_GRID (R356, R448, R450). -/
def State.launchGrid (s : State) (win : Nat) : State :=
  s.runCmd win 1 (fun c => c.reserved [(8, 8)] || c.field 8 8 % 256 != 0) (fun s c =>
    match s.windowCtx win with
    | none => s.endCmd win c 3
    | some (n, x) =>
      if x.mode.waits || decide (4096 ≤ s.queued) then s
      else
        let w := s.window win
        let (s, l) := s.svcRead w.core (c.field 8 8) 256
        let v := leNat l
        let root := recordRoot v
        if recordReserved v || (capSpace root != 1 && capSpace root != 4) then s.endCmd win c 2
        else
          let (id, s) := s.newGrid v n none 1 (w.svc && v.testBit 1664) (some win) root none
          s.putCmd win { c with begun := true, grid := some id })

/-- LAUNCH_GRID. -/
def execLaunchGrid (win : Nat) (s : State) : Host.Outcome State Fault Refusal := answer (s.launchGrid win)

/-! ## SET_CONTEXT -/

/-- Entry n of a region attribute file (R35). -/
def regionOf (v n : Nat) : Region :=
  let e := bitsAt v (128 * n) 128
  { psz := bitsAt e 0 2, en := e.testBit 2, sparse := e.testBit 3, lease := bitsAt e 12 4, part := bitsAt e 16 4, root := bitsAt e 36 28,
    lkbase := bitsAt e 64 32, lklen := bitsAt e 96 32 }

/-- An entry of the file that R36 refuses. -/
def regionBad (v n : Nat) : Bool :=
  let r := regionOf v n
  let unit := 2 ^ (pageBits r.psz - 12)
  r.en && (decide (8 < r.lease) || bitsAt v (128 * n + 4) 8 != 0 ||
    (decide (r.lklen ≠ 0) && (decide (2 ^ 32 < r.lkbase + r.lklen) || r.lkbase % unit != 0 || r.lklen % unit != 0)))

/-- Bits [lo + n - 1 : lo] of the part of a context descriptor that starts at byte 256 (R451). -/
def descAt (v lo n : Nat) : Nat := bitsAt v (2048 + lo) n
/-- CODECAP, tagged (R15). -/
def descCode (v : Nat) : TCap := ⟨BitVec.ofNat 128 (descAt v 648 128), true⟩
/-- HOSTCAP, tagged when HCEN is set (R14). -/
def descHost (v : Nat) : TCap := if descAt v 647 1 = 1 then ⟨BitVec.ofNat 128 (descAt v 512 128), true⟩ else TCap.null

/-- A heap length that R451 allows. -/
def heapLenOk (n : Nat) : Bool := n == 0 || (List.range 21).any (fun k => n == 2 ^ (16 + k))

/-- A descriptor that SET_CONTEXT refuses (R36, R451). -/
def descBad (v : Nat) : Bool :=
  let code := descCode v
  (List.range 16).any (regionBad v) || descAt v 776 1272 != 0 || descAt v 644 3 != 0 || descAt v 0 64 % 32768 != 0 ||
    (List.range 4).any (fun n => descAt v (64 + 64 * n) 64 % 64 != 0) || !heapLenOk (descAt v 384 64) ||
    (descAt v 384 64 != 0 && descAt v 320 64 % descAt v 384 64 != 0) ||
    (descAt v 647 1 == 1 && bne (capSpace ⟨BitVec.ofNat 128 (descAt v 512 128), true⟩) 5) ||
    (capSpace code != 1 && capSpace code != 4) || !permHas (capPerm code) permEX || capLen code == 0

/-- The context that a descriptor gives (R35, R451). -/
def ctxOf (v desc win port : Nat) (token : DWord) (old : Option Ctx) : Ctx :=
  { desc := desc, window := win, token := token, port := port
    regions := (List.range 16).foldl (fun t n => let r := regionOf v n; if r.en then tabPut Region.off t n r else t) []
    ssbase := descAt v 0 64, rhp := (List.range 4).map (fun n => descAt v (64 + 64 * n) 64), heapBase := descAt v 320 64
    heapLen := descAt v 384 64, rttab := descAt v 448 64, hostcap := descHost v, ipart := descAt v 640 4, code := descCode v
    debugger := (old.map (fun c => c.debugger)).getD false, images := (old.map (fun c => c.images)).getD []
    blocks := (old.map (fun c => c.blocks)).getD [], mode := (old.map (fun c => c.mode)).getD .running, saved := old.bind (fun c => c.saved)
    grace := old.bind (fun c => c.grace), haltReq := (old.map (fun c => c.haltReq)).getD 0, haltAt := (old.map (fun c => c.haltAt)).getD 0 }

/-- The service kernel zeroes one frame of a new context's scale slots and pins it in the stacked cache (R81, R102): the largest W. A frame
that is not mapped, or that does not fit, is left as it is (DESIGN CHOICE, log 77). -/
def State.slotFrame (s : State) (n va : Nat) : Nat × State :=
  match s.translate ⟨0, n, 0⟩ va 0 with
  | (s, .page p) =>
    let pa := p.base + p.off
    let (w, s) := s.writeDev pa p.part (List.replicate 4096 0)
    (w, (s.pinLines p.part (linesOf pa 4096)).1)
  | (s, _) => (0, s)

/-- The 32 KiB of scale slots of a new context (R102). -/
def State.slotArea (s : State) (n base : Nat) : Nat × State :=
  (List.range 8).foldl (fun e i => let (w, s) := e.2.slotFrame n (base + 4096 * i); (max e.1 w, s)) (0, s)

/-- SET_CONTEXT (R36, R102, R451) (DEDUCED, log 36). -/
def State.setContext (s : State) (win : Nat) : State :=
  s.runCmd win 2 (fun c => c.reserved [(8, 8), (16, 2), (24, 8)] || c.field 8 8 % 512 != 0 || decide (255 < c.field 16 2)) (fun s c =>
    let w := s.window win
    let n := c.field 16 2
    let desc := c.field 8 8
    let (s, l) := s.svcRead w.core desc 512
    let v := leNat l
    let old := s.ctx n
    if descBad v || (match old with | some x => decide (x.desc ≠ desc) | none => false) then s.endCmd win c 1
    else
      let x := ctxOf v desc win w.port (BitVec.ofNat 64 (c.field 24 8)) old
      let s := s.putCtx n x
      let s := if old.isSome then s else (List.range 16).foldl (fun s r => if (tabGet Region.off x.regions r).en then s.countLocks n r (fun _ => 0) else s) s
      let (wmax, s) := if old.isSome then (0, s) else s.slotArea n x.ssbase
      let s := s.putWindow win { s.window win with ctx := some n }
      s.endCmd win { c with wmax := wmax } 0)

/-- SET_CONTEXT. -/
def execSetContext (win : Nat) (s : State) : Host.Outcome State Fault Refusal := answer (s.setContext win)

/-! ## LOAD_IMAGE -/

/-- A context has a placed team, or a saved one (R411). -/
def State.ctxBusy (s : State) (n : Nat) (x : Ctx) : Bool :=
  s.teams.any (fun t => t.ctx == n) || (match x.saved with | some v => !v.teams.isEmpty | none => false)

/-- LOAD_IMAGE (R411). -/
def State.loadImage (s : State) (win : Nat) : State :=
  s.runCmd win 3 (fun c => c.reserved [(8, 8), (16, 4)] || c.field 8 8 % 256 != 0) (fun s c =>
    match s.windowCtx win with
    | none => s.endCmd win c 3
    | some (n, x) =>
      if x.mode.waits then s
      else
        let len := c.field 16 4
        let (s', l) := s.svcRead (s.window win).core (c.field 8 8) (min len 16384)
        match imgCheck s.board.keys s.board.floors l len with
        | .error st => s'.endCmd win c st
        | .ok m =>
          if s.ctxBusy n x then s
          else (s'.putCtx n { x with images := tabPut none x.images m.kind (some m) }).endCmd win c 0)

/-- LOAD_IMAGE. -/
def execLoadImage (win : Nat) (s : State) : Host.Outcome State Fault Refusal := answer (s.loadImage win)

/-! ## Values -/

/-- WRITE_VALUE (R448): it completes at its write's WCT. -/
def State.writeValue (s : State) (win : Nat) : State :=
  s.runCmd win 4 (fun c => c.reserved [(8, 8), (16, 8), (24, 1)] || !(c.field 24 1 == 4 || c.field 24 1 == 8) || c.field 8 8 % c.field 24 1 != 0)
    (fun s c =>
      let (w, s) := s.writeDev (c.field 8 8) 0 (natLe (c.field 24 1) (c.field 16 8))
      s.endCmd win { c with wmax := w } 0)

/-- WRITE_VALUE. -/
def execWriteValue (win : Nat) (s : State) : Host.Outcome State Fault Refusal := answer (s.writeValue win)

/-- The condition of WAIT_VALUE (R448). -/
def waitCond (cond word mask value : Nat) : Bool :=
  let a := word &&& mask
  if cond = 0 then a == value else if cond = 1 then a != value else decide (value ≤ a)

/-- WAIT_VALUE (R448): one read of the word at its home. -/
def State.waitValue (s : State) (win : Nat) : State :=
  match s.cmdReady win 5 with
  | none => s
  | some c =>
    if !c.begun && (c.reserved [(8, 8), (16, 8), (24, 8), (32, 1), (40, 8)] || c.field 8 8 % 8 != 0 || decide (2 < c.field 32 1)) then s.endCmd win c 2
    else
      let c := if c.begun then c else { c with begun := true, deadline := if c.field 40 8 = 0 then none else some (s.gt + c.field 40 8) }
      let (s, l) := s.svcRead (s.window win).core (c.field 8 8) 8
      if waitCond (c.field 32 1) (leNat l) (c.field 24 8) (c.field 16 8) then s.endCmd win c 0 else s.putCmd win c

/-- WAIT_VALUE. -/
def execWaitValue (win : Nat) (s : State) : Host.Outcome State Fault Refusal := answer (s.waitValue win)

/-- WAIT_VALUE_TIMEOUT (R448). -/
def State.waitTimeout (s : State) (win : Nat) : State :=
  match s.cmdReady win 5 with
  | some c => match c.deadline with
    | some d => if d ≤ s.gt then s.endCmd win c 9 else s
    | none => s
  | none => s

/-- WAIT_VALUE_TIMEOUT. -/
def execWaitValueTimeout (win : Nat) (s : State) : Host.Outcome State Fault Refusal := answer (s.waitTimeout win)

/-! ## COPY and DECOMPRESS -/

/-- A physical address as the cursor of a side of a slice engine's operation. -/
def physCap (pa : Nat) : TCap := capSetCursor TCap.null pa

/-- Hands an operation to the engine of the slice that homes the window (R127); a frozen engine stops it at once. -/
def State.startOp (s : State) (win : Nat) (c : Command) (o : EngOp) : State :=
  let (id, s) := s.newId
  let unit := 64 + (s.window win).core
  let o := { o with id := id, unit := unit, total := o.units, status := if tabGet false s.engines unit then some 8 else none }
  { s with ops := s.ops ++ [o] }.putCmd win { c with begun := true, op := some id }

/-- An operation of a window between physical addresses. -/
def physOp (kind : OpKind) (win dst src : Nat) (md : BitVec 12) (desc : List DWord) (target : Nat) : EngOp :=
  { id := 0, unit := 0, team := 0, ctx := 0, pair := 0, hnd := 0, kind := kind, md := md, desc := desc, dst := physCap dst, src := physCap src,
    third := physCap 0, target := target, total := 0, done := 0, started := false, srcFmt := 0, dstFmt := 0, cancel := false, rtry := false,
    sparse := false, status := none, wmax := 0, claimed := [], window := some win, waitFault := none, ahead := [], wrote := [],
    appliedAt := 0 }

/-- COPY (R448). -/
def State.copyCmd (s : State) (win : Nat) : State :=
  s.runCmd win 6 (fun c => c.reserved [(8, 8), (16, 8), (24, 8)]) (fun s c =>
    let n := c.field 24 8
    (((s.reach (c.field 8 8) n).reach (c.field 16 8) n)).startOp win c (physOp .hostCopy win (c.field 8 8) (c.field 16 8) 0 [BitVec.ofNat 64 n] 0))

/-- COPY. -/
def execCopy (win : Nat) (s : State) : Host.Outcome State Fault Refusal := answer (s.copyCmd win)

/-- The 256-byte blocks of the 64 KiB tiles of a target (R435). -/
def rtBlocks (d : Nat) : Nat := 256 * (rtPitch d * (rtHm1 d / 128 + 1))

/-- DECOMPRESS (R132, R448): a decompressing copy of the target onto itself. -/
def State.decompressCmd (s : State) (win : Nat) : State :=
  s.runCmd win 7 (fun c => c.reserved [(8, 8)]) (fun s c =>
    let (s, l) := s.svcRead (s.window win).core (c.field 8 8) 64
    let d := leNat l
    if rtBad d then s.endCmd win c 2
    else s.startOp win c (physOp .decompress win (rtBase d) (rtBase d) 16 [BitVec.ofNat 64 (rtBlocks d)] d))

/-- DECOMPRESS. -/
def execDecompress (win : Nat) (s : State) : Host.Outcome State Fault Refusal := answer (s.decompressCmd win)

/-! ## PARTITION, PIN, LATENCY_TOLERANCE -/

/-- PARTITION (R80, R448). -/
def State.partitionCmd (s : State) (win : Nat) : State :=
  s.runCmd win 8 (fun c => c.reserved [(8, 1), (9, 1), (10, 2)] || decide (15 < c.field 8 1)) (fun s c =>
    let s := (List.range 8).foldl (fun s n => if (c.field 9 1).testBit n then
      s.modSlice n (fun v => { v with ways := tabPut 0xFFFF v.ways (c.field 8 1) (BitVec.ofNat 16 (c.field 10 2)) }) else s) s
    s.endCmd win c 0)

/-- PARTITION. -/
def execPartition (win : Nat) (s : State) : Host.Outcome State Fault Refusal := answer (s.partitionCmd win)

/-- PIN (R81, R448). -/
def State.pinCmd (s : State) (win : Nat) : State :=
  s.runCmd win 9 (fun c => c.reserved [(8, 8), (16, 8), (24, 1), (25, 1)] || decide (15 < c.field 24 1) || decide (1 < c.field 25 1)) (fun s c =>
    let s := s.reach (c.field 8 8) (c.field 16 8)
    let l := linesOf (c.field 8 8) (c.field 16 8)
    if c.field 25 1 = 1 then (s.unpinLines l).endCmd win c 0
    else match s.pinLines (c.field 24 1) l with
      | (s, true) => s.endCmd win c 0
      | (s, false) => s.endCmd win c 8)

/-- PIN. -/
def execPin (win : Nat) (s : State) : Host.Outcome State Fault Refusal := answer (s.pinCmd win)

/-- LATENCY_TOLERANCE (R448, R461): the tolerance changes as the command completes. -/
def State.toleranceCmd (s : State) (win : Nat) : State := s.runCmd win 0x0A (fun c => c.reserved [(8, 4)]) (fun s c => s.endCmd win c 0)

/-- LATENCY_TOLERANCE. -/
def execLatencyTolerance (win : Nat) (s : State) : Host.Outcome State Fault Refusal := answer (s.toleranceCmd win)

/-! ## Taking a command up -/

/-- The bytes of the seal word's slot for the next command (R446, R447). -/
def Window.slotAddr (w : Window) : Nat := w.base + 64 * (w.nextseq % 256)

/-- SEAL_ACCEPT (R123, R447): the slot's seal holds NEXTSEQ, and GT has reached PCMH as it stood when the seal arrived. A reserved bit of
the seal word or an unknown code ends the command at once (R448). -/
def State.sealAccept (s : State) (win : Nat) : State :=
  let w := s.window win
  if !w.en || w.cmd.isSome || !s.portOpen w.port || decide (s.gt < tabGet 0 w.seals (w.nextseq % 256)) then s
  else
    let (s', l) := s.svcRead w.core w.slotAddr 64
    let v := leNat (l.take 8)
    if v / 2 ^ 32 ≠ w.nextseq then s
    else
      let code := v % 256
      let bad := decide (bitsAt v 9 23 ≠ 0) || decide (code = 0) || decide (0x0C < code)
      let c : Command := { seq := w.nextseq, cmd := code, msix := v.testBit 8, body := l.drop 8, begun := bad, deadline := none, grid := none, op := none,
                           status := if bad then some 2 else none, tcode := 0, pcode := 0, dt := false, wbd := false, detail := 0, aux := 0, wmax := 0,
                           noted := false }
      let next := if w.nextseq = 0xFFFFFFFF then 1 else w.nextseq + 1
      s'.putWindow win { w with cmd := some c, nextseq := next, seals := tabPut 0 w.seals (w.nextseq % 256) 0 }

/-- SEAL_ACCEPT. -/
def execSealAccept (win : Nat) (s : State) : Host.Outcome State Fault Refusal := answer (s.sealAccept win)

/-! ## Completion -/

/-- What the end of a grid gives its command's record (R381, R449). -/
def Command.ofGrid (c : Command) (g : Grid) : Command :=
  let c := { c with wmax := g.wmax, wbd := g.wbd.isSome, aux := g.wbd.getD 0 }
  match g.ended.getD .completed with
  | .completed => { c with status := some 0 }
  | .trapped code detail none => { c with status := some 4, tcode := code.num, detail := detail.toNat }
  | .trapped code detail (some h) => { c with status := some 4, tcode := code.num, dt := true, detail := h.num + 2 ^ 32 * (detail.toNat % 2 ^ 32) }
  | .frozen code => { c with status := some 5, tcode := code.num }
  | .notPlaced p => { c with status := some 6, pcode := p }

/-- What the stop of a slice engine's operation gives its command's record (R137, R449). -/
def Command.ofOp (c : Command) (o : EngOp) (status : BitVec 8) : Command :=
  { c with status := some (if status = 0 then 0 else 7), tcode := status.toNat, wmax := o.wmax, aux := if o.kind = .hostCopy then o.doneCount else 0 }

/-- A command whose grid or operation is over takes its status (R448): what is gone with its context gives NO_CONTEXT (R454). -/
def State.settleCmd (s : State) (c : Command) : Command :=
  match c.status with
  | some _ => c
  | none => match c.grid, c.op with
    | some id, _ => match s.grid id with
      | some g => if g.retired then c.ofGrid g else c
      | none => { c with status := some 3 }
    | none, some id => match s.op id with
      | some o => match o.status with
        | some st => c.ofOp o st
        | none => c
      | none => { c with status := some 3 }
    | none, none => c

/-- The first 8 bytes of a completion record (R449). -/
def Command.head (c : Command) : Nat := c.status.getD 0 * 2 ^ 16 + c.cmd * 2 ^ 24 + c.seq * 2 ^ 32
/-- Bytes 8 to 31 (R449). -/
def Command.rest (c : Command) : Nat :=
  (if c.dt then 1 else 0) + (if c.wbd then 2 else 0) + c.pcode % 256 * 2 ^ 16 + c.tcode % 256 * 2 ^ 24 + c.detail % 2 ^ 64 * 2 ^ 64 +
    c.aux % 2 ^ 64 * 2 ^ 128

/-- MSI-X: sent over an open port, dropped and counted over a lost one (R125, R383, R455). -/
def State.sendMsix (s : State) (win : Nat) : State :=
  let p := (s.window win).port
  if s.portOpen p then { s with msix := s.msix ++ [win] }
  else s.putPort p { s.port p with dropped := (s.port p).dropped + 1 }

/-- A port whose transmission has stopped holds back the flush read and the MSI-X write of a command (R125, R454). -/
def State.flushWaits (s : State) (win : Nat) (c : Command) : Bool := (c.msix || c.grid.isSome) && decide ((s.port (s.window win).port).state = .hold) && !(s.port (s.window win).port).frozen

/-- COMMAND_COMPLETE (R125): bytes 8 to 31 of the record once GT has reached the command's WCTs, and then its first 8 bytes as one unit,
with MSI-X; the window is free for its next command. -/
def State.commandComplete (s : State) (win : Nat) : State :=
  let w := s.window win
  match w.cmd with
  | none => s
  | some c =>
    let c := s.settleCmd c
    let a := w.recbase + 32 * (c.seq % 256)
    if c.status = none ∨ s.gt < c.wmax ∨ s.flushWaits win c then s
    else if !c.noted then (s.writeDev (a + 8) 0 (natLe 24 c.rest)).2.putCmd win { c with noted := true }
    else
      let s := (s.writeDev a 0 (natLe 8 c.head)).2
      let s := match c.grid with
        | some id => s.dropGrid id
        | none => s
      let s := match c.op with
        | some id => { s with ops := s.ops.filter (fun o => o.id != id) }
        | none => s
      let s := if c.cmd = 0x0A ∧ c.status = some 0 then { s with power := { s.power with tolerance := c.field 8 4 } } else s
      (if c.msix then s.sendMsix win else s).putWindow win { w with cmd := none }

/-- COMMAND_COMPLETE. -/
def execCommandComplete (win : Nat) (s : State) : Host.Outcome State Fault Refusal := answer (s.commandComplete win)

end Sys2Proof.Machine
end

