-- ==== Sys2Proof/Machine/Cross.lean ====
section
/-! DEFINITION. The cross-thread instructions (spec/15 R312 to R320). -/

namespace Sys2Proof.Machine

/-- What a cross-thread instruction knows for one active thread: OP, EXC, the subgroup size, the positions of the pass, the
members of the thread's subgroup in lane order, which of them live, the values of the living, the position, its B and its own
A. -/
structure XthIn where
  op : Nat
  exc : Bool
  size : Nat
  act : List Nat
  members : List Nat
  live : Nat → Bool
  val : Nat → Word
  pos : Nat
  b : Word

/-- A cross-thread instruction: its opcode, operands, whether it takes a lane in B, whether bit 7 is EXC, which OP values are
legal, and its result for a thread. -/
structure XthSpec where
  opc : BitVec 8
  d : Opd
  a : Opd
  lane : Bool
  exc : Bool
  ops : Nat → Bool
  result : XthIn → BitVec 128

/-- MOD of a cross-thread instruction: LS, MK, MM, bit 7 and OP (R313). -/
def xLs (w : FWord) : Nat := bitsAt w.md.toNat 0 3
/-- MK. -/
def xMk (w : FWord) : Bool := w.md.getLsbD 3
/-- MM. -/
def xMm (w : FWord) : Nat := bitsAt w.md.toNat 4 3
/-- BI or EXC. -/
def xBi (w : FWord) : Bool := w.md.getLsbD 7
/-- OP. -/
def xOp (w : FWord) : Nat := bitsAt w.md.toNat 8 4

/-- The mask of a pass: the k pair that MM names, or all ones (R313, R314). -/
def xMask (r : Rank) (w : FWord) : DWord :=
  if xMk w then (r.kreg (33 + 2 * xMm w)).val ++ (r.kreg (32 + 2 * xMm w)).val else BitVec.allOnes 64

/-- The members of a position's subgroup, in lane order (R314). -/
def xMembers (r : Rank) (mask : DWord) (size p : Nat) : List Nat :=
  ((List.range size).map (fun i => p / size * size + i)).filter (fun u => decide (u < r.width) && maskHas mask u)

/-- A thread of the rank has not ended. -/
def Rank.living (r : Rank) (p : Nat) : Bool := decide ((r.thread p).life ≠ .ended)

/-- The A value of a member, a predicate as 0 or 1; a trap-mode read of an empty register carries the member's position
(R315). -/
def xSource (r : Rank) (q : XthSpec) (w : FWord) (u : Nat) : Except Trap Word :=
  match readOpd r u q.a (fldA w) with
  | .ok v => .ok (lo32 v)
  | .error t => .error (if t.code = .emptyRead then { t with detail := BitVec.ofNat 64 u } else t)

/-- The first trap that gathering the sources meets. -/
def firstTrap (src : Nat → Except Trap Word) : List Nat → Option Trap
  | [] => none
  | u :: us => match src u with
    | .error t => some t
    | .ok _ => firstTrap src us

/-- A gathered value; a source that trapped has ended the pass before. -/
def gathered (src : Nat → Except Trap Word) (u : Nat) : Word :=
  match src u with
  | .ok v => v
  | .error _ => 0

/-- B of a thread: an immediate zero-extended, or a register (R312). -/
def xLane (r : Rank) (q : XthSpec) (w : FWord) (p : Nat) : Except Trap Word :=
  if !q.lane then .ok 0
  else if xBi w then .ok (w.b.setWidth 32)
  else match readOpd r p .reg (fldB w) with
    | .ok v => .ok (lo32 v)
    | .error t => .error t

/-- The kind of B. -/
def xBKind (q : XthSpec) (w : FWord) : Opd := if !q.lane then .none else if xBi w then .num 2048 else .reg

/-- Step 3 of R207 for a cross-thread word, but for the mask (R312 to R314). -/
def xFieldsOk (q : XthSpec) (r : Rank) (w : FWord) : Bool :=
  decide (xLs w < 7) && decide (2 ^ xLs w ≤ r.width) && (!xBi w || q.lane || q.exc) && q.ops (xOp w) &&
    fldOk .vec q.d (fldD w) && fldOk .vec q.a (fldA w) && fldOk .vec (xBKind q w) (fldB w)

/-- A cross-thread pass (R312 to R315). -/
def xthVec (q : XthSpec) (w : FWord) (f : Foc) : State :=
  let ps := f.members w.g.toNat w.gn
  let mask := xMask f.r w
  let size := 2 ^ xLs w
  let word := fToWord q.opc w
  let ok := xFieldsOk q f.r w
  let users := ps.flatMap (fun p => (xMembers f.r mask size p).filter f.r.living)
  let at_ : TrapAt := ⟨(ps.head?).getD f.x.resume, f.issueSet ps, ps⟩
  if !ok then f.trapIssue ps .illegalOperand (hiOf word)
  else match ps.filter (fun p => !maskHas mask p) with
    | p :: _ => f.trap { code := .illegalMask, detail := BitVec.ofNat 64 p } at_
    | [] =>
      match f.permit ps ⟨word, true, vregsOf q.d (fldD w) ++ vregsOf q.a (fldA w) ++ vregsOf (xBKind q w) (fldB w),
          vregsOf q.d (fldD w) ++ fullNeeds (xBKind q w) (fldB w)⟩ with
      | some s => s
      | none =>
        match emptyNeeds f.r users (fullNeeds q.a (fldA w)) with
        | n :: l => (f.spend.block (.regs (n :: l))).close
        | [] =>
          let src := xSource f.r q w
          let lane := xLane f.r q w
          match ((f.r.kErr (if xMk w then [32 + 2 * xMm w, 33 + 2 * xMm w] else [])).or (firstTrap src users)).or (firstTrap lane ps) with
          | some t => f.trap t at_
          | none =>
            let r := f.r
            let maskKeys := if xMk w then [2048 + 32 + 2 * xMm w, 2048 + 33 + 2 * xMm w] else []
            let f := f.issue clsXth (guardKey w.g :: keysOf q.a (fldA w) ++ keysOf (xBKind q w) (fldB w) ++ maskKeys) (keysOf q.d (fldD w)) ps false
            let one (p : Nat) : TCap :=
              ⟨q.result { op := xOp w, exc := xBi w, size := size, act := ps, members := xMembers r mask size p, live := r.living,
                          val := gathered src, pos := p, b := gathered lane p }, false⟩
            ({ f with r := ps.foldl (fun d p => writeOpd d f.x.age p q.d (fldD w) (one p)) f.r }).next.close

/-- A cross-thread instruction is illegal in the control stream (R229). -/
def xthExec (q : XthSpec) (w : FWord) (s : State) : State := byStream s (xthVec q w) (notInCtl q.opc w)

/-! ## Shuffles -/

/-- The value of the member at a lane, 0 when it has ended; the thread's own value when the lane is no member's (R315,
R316). -/
def shuffle (x : XthIn) (lane : Int) : BitVec 128 :=
  let s : Nat := x.pos / x.size * x.size + lane.toNat
  if 0 ≤ lane ∧ lane < (x.size : Int) ∧ x.members.any (fun u => u == s) then
    (if x.live s then x.val s else 0).setWidth 128
  else (x.val x.pos).setWidth 128

/-- The frame of the shuffles. -/
def shuffleSpec (opc : BitVec 8) (lane : Nat → Word → Int) : XthSpec :=
  { opc := opc, d := .reg, a := .reg, lane := true, exc := false, ops := fun o => o == 0,
    result := fun x => shuffle x (lane (x.pos % x.size) x.b) }

/-- SHFL. -/
def execShfl (w : FWord) (s : State) : Host.Outcome State Fault Refusal := answer (xthExec (shuffleSpec 0x70 (fun _ b => (b.toNat : Int))) w s)
/-- SHFLX. -/
def execShflx (w : FWord) (s : State) : Host.Outcome State Fault Refusal :=
  answer (xthExec (shuffleSpec 0x71 (fun l b => ((l ^^^ b.toNat : Nat) : Int))) w s)
/-- SHFLUP. -/
def execShflup (w : FWord) (s : State) : Host.Outcome State Fault Refusal :=
  answer (xthExec (shuffleSpec 0x72 (fun l b => (l : Int) - (b.toNat : Int))) w s)
/-- SHFLDN. -/
def execShfldn (w : FWord) (s : State) : Host.Outcome State Fault Refusal :=
  answer (xthExec (shuffleSpec 0x73 (fun l b => (l : Int) + (b.toNat : Int))) w s)

/-! ## Ballots, votes, matches, elections -/

/-- The living members of a thread's subgroup. -/
def XthIn.living (x : XthIn) : List Nat := x.members.filter x.live

/-- A predicate as a result. -/
def boolBits (b : Bool) : BitVec 128 := if b then 1 else 0

/-- BALLOT (R317). -/
def specBallot : XthSpec :=
  { opc := 0x74, d := .pair, a := .pred, lane := false, exc := false, ops := fun o => o == 0,
    result := fun x => (maskOf (x.living.filter (fun u => x.val u != 0))).setWidth 128 }
/-- BALLOT. -/
def execBallot (w : FWord) (s : State) : Host.Outcome State Fault Refusal := answer (xthExec specBallot w s)

/-- VOTE (R317): OP 0 every, 1 some, 2 agree. -/
def specVote : XthSpec :=
  { opc := 0x75, d := .pred, a := .pred, lane := false, exc := false, ops := fun o => decide (o < 3),
    result := fun x =>
      let all := x.living.all (fun u => x.val u != 0)
      let any := x.living.any (fun u => x.val u != 0)
      boolBits (if x.op = 0 then all else if x.op = 1 then any else all || !any) }
/-- VOTE. -/
def execVote (w : FWord) (s : State) : Host.Outcome State Fault Refusal := answer (xthExec specVote w s)

/-- MATCH (R317). -/
def specMatch : XthSpec :=
  { opc := 0x78, d := .pair, a := .reg, lane := false, exc := false, ops := fun o => o == 0,
    result := fun x => (maskOf (x.living.filter (fun u => x.val u == x.val x.pos))).setWidth 128 }
/-- MATCH. -/
def execMatchv (w : FWord) (s : State) : Host.Outcome State Fault Refusal := answer (xthExec specMatch w s)

/-- ELECT (R317). -/
def specElect : XthSpec :=
  { opc := 0x79, d := .pred, a := .none, lane := false, exc := false, ops := fun o => o == 0,
    result := fun x => boolBits ((x.members.filter (fun u => x.act.any (fun p => p == u))).head? == some x.pos) }
/-- ELECT. -/
def execElect (w : FWord) (s : State) : Host.Outcome State Fault Refusal := answer (xthExec specElect w s)

/-! ## Reductions and scans -/

/-- The identity of a combination (R318). -/
def redIdentity (op : Nat) : Word :=
  match op with
  | 1 => 0x7FFFFFFF | 2 => 0xFFFFFFFF | 3 => 0x80000000 | 5 => 0xFFFFFFFF | 8 => 0x80000000 | 9 => 0x7F800000 | 10 => 0xFF800000 | _ => 0

/-- A combination of two values (R318). -/
def redStep (op : Nat) (a b : Word) : Word :=
  match op with
  | 0 => a + b
  | 1 => minMax false true a b
  | 2 => minMax false false a b
  | 3 => minMax true true a b
  | 4 => minMax true false a b
  | 5 => a &&& b
  | 6 => a ||| b
  | 7 => a ^^^ b
  | 8 => fadd a b
  | 9 => BitVec.ofNat 32 (fpMinMax fp32 false false a.toNat b.toNat)
  | _ => BitVec.ofNat 32 (fpMinMax fp32 true false a.toNat b.toNat)

/-- Members combined in ascending lane order; an ended one gives the identity (R315, R318). -/
def combine (x : XthIn) (l : List Nat) : Word :=
  let v (u : Nat) : Word := if x.live u then x.val u else redIdentity x.op
  match l with
  | [] => redIdentity x.op
  | u :: us => us.foldl (fun a n => redStep x.op a (v n)) (v u)

/-- RED (R318). -/
def specRed : XthSpec :=
  { opc := 0x76, d := .reg, a := .reg, lane := false, exc := false, ops := fun o => decide (o < 11),
    result := fun x => (combine x x.members).setWidth 128 }
/-- RED. -/
def execRed (w : FWord) (s : State) : Host.Outcome State Fault Refusal := answer (xthExec specRed w s)

/-- SCAN (R318). -/
def specScan : XthSpec :=
  { opc := 0x77, d := .reg, a := .reg, lane := false, exc := true, ops := fun o => decide (o < 11),
    result := fun x => (combine x (x.members.filter (fun u => decide (u < x.pos) || (!x.exc && decide (u = x.pos))))).setWidth 128 }
/-- SCAN. -/
def execScan (w : FWord) (s : State) : Host.Outcome State Fault Refusal := answer (xthExec specScan w s)

/-! ## Derivatives -/

/-- The two positions within a quad whose difference a thread takes (R319): DDY is told from DDX by `y` (DEDUCED, log 15). -/
def derivPair (y fine : Bool) (lane : Nat) : Nat × Nat :=
  if y then (if fine then (lane % 2, lane % 2 + 2) else (0, 2))
  else (if fine then (lane / 2 * 2, lane / 2 * 2 + 1) else (0, 1))

/-- DDX and DDY (R312, R314, R319) (DEDUCED, log 15). -/
def derivVec (opc : BitVec 8) (y : Bool) (w : FWord) (f : Foc) : State :=
  let ps := f.members w.g.toNat w.gn
  let fine := w.md.getLsbD 8
  let word := fToWord opc w
  let q : XthSpec := { opc := opc, d := .reg, a := .reg, lane := false, exc := false, ops := fun _ => true, result := fun _ => 0 }
  let users := ((List.range 16).filter (fun n => ps.any (fun p => p / 4 == n))).flatMap (fun n => quadOf (4 * n))
  match f.permit ps ⟨word, (w.md.toNat == 0 || w.md.toNat == 0x100) && f.s.quadMode f.t.grid && fldOk .vec .reg (fldD w) &&
      fldOk .vec .reg (fldA w) && fldOk .vec .none (fldB w), vregsOf .reg (fldD w) ++ vregsOf .reg (fldA w), vregsOf .reg (fldD w)⟩ with
  | some s => s
  | none =>
    match emptyNeeds f.r users (fullNeeds .reg (fldA w)) with
    | n :: l => (f.spend.block (.regs (n :: l))).close
    | [] =>
      let src := xSource f.r q w
      match firstTrap src users with
      | some t => f.trap t ⟨(ps.head?).getD f.x.resume, f.issueSet ps, ps⟩
      | none =>
        let f := f.issue clsXth (guardKey w.g :: keysOf .reg (fldA w)) (keysOf .reg (fldD w)) ps false
        let one (p : Nat) : TCap :=
          let e := derivPair y fine (p % 4)
          ⟨(fsub (gathered src (p / 4 * 4 + e.2)) (gathered src (p / 4 * 4 + e.1))).setWidth 128, false⟩
        ({ f with r := ps.foldl (fun d p => writeOpd d f.x.age p .reg (fldD w) (one p)) f.r }).next.close

/-- DDX. -/
def execDdx (w : FWord) (s : State) : Host.Outcome State Fault Refusal := answer (byStream s (derivVec 0x7A false w) (notInCtl 0x7A w))
/-- DDY. -/
def execDdy (w : FWord) (s : State) : Host.Outcome State Fault Refusal := answer (byStream s (derivVec 0x7B true w) (notInCtl 0x7B w))

/-! ## RDUNI -/

/-- RDUNI (R320). -/
def rduniVec (w : FWord) (f : Foc) : State :=
  let ps := f.members w.g.toNat w.gn
  let ok := (w.md.toNat == 0 || w.md.toNat == 0x80) && w.kd && fldOk .vec .reg (fldD w) && !w.ka && fldOk .vec .reg (fldA w) &&
    (if xBi w then fldOk .vec (.num f.r.width) (fldB w) else fldOk .vec .none (fldB w))
  match f.permit ps ⟨fToWord 0x7C w, ok, vregsOf .reg (fldA w), []⟩ with
  | some s => s
  | none =>
    match ps with
    | [] => ((f.issue clsXth [guardKey w.g] [] ps false).next).close
    | p0 :: _ =>
      let p := if xBi w then w.b.toNat else p0
      let users := if f.r.living p then [p] else []
      match emptyNeeds f.r users (fullNeeds .reg (fldA w)) with
      | n :: l => (f.spend.block (.regs (n :: l))).close
      | [] =>
        let src := xSource f.r { specRed with opc := 0x7C } w
        match firstTrap src users with
        | some t => f.trap t ⟨p0, f.issueSet ps, ps⟩
        | none =>
          let v : Word := if users.isEmpty then 0 else gathered src p
          let f := f.issue clsXth (guardKey w.g :: keysOf .reg (fldA w)) (keysOf .reg (fldD w)) ps false
          ({ f with r := f.r.writeK f.x.age w.d.toNat v }).next.close

/-- RDUNI. -/
def execRduni (w : FWord) (s : State) : Host.Outcome State Fault Refusal := answer (byStream s (rduniVec w) (notInCtl 0x7C w))

end Sys2Proof.Machine
end

