-- ==== Sys2Proof/Machine/Link.lean ====
section
/-! DEFINITION. The host link: BAR0, host reads, writes and atomics of device memory, flits and the compressed tether, and the states of
a port (spec/05 R122 to R126, spec/18 R383, R397, spec/21 R442 to R456). LINK_LOST stands with pre-emption. -/

namespace Sys2Proof.Machine

/-- The board lights a port, and bring-up has come to its ports or, in recovery, lights port 0 alone (R442, R458). -/
def State.lit (s : State) (port : Nat) : Bool := decide (port < 8) && s.board.ports.getD port 0 % 4 != 0 && (s.boot.step == 9 || s.boot.failed.isSome)

/-! ## BAR0 -/

/-- An access that BAR0 serves: aligned, of 4 or 8 bytes (R444). -/
def barServes (off size : Nat) : Bool := (size == 4 || size == 8) && off % size == 0 && decide (off + size ≤ 65536)

/-- The 256 bits of a window entry as BAR0 shows them (R445). -/
def Window.entry (w : Window) : Nat :=
  w.port + w.base + w.recbase * 2 ^ 64 + (if w.en then 2 ^ 130 else 0) + (if w.svc then 2 ^ 131 else 0) + w.nextseq * 2 ^ 192

/-- A window with the fields of an entry written to it (R445): BASE, RECBASE and PORT only while EN is 0, SVC only by a service core; EN
going from 0 to 1 restarts NEXTSEQ (DEDUCED, log 40). -/
def Window.write (w : Window) (svc : Bool) (v : Nat) : Window :=
  let base := bitsAt v 14 50 * 2 ^ 14
  let w := if w.en then w
    else { w with base := base, port := v % 8, recbase := bitsAt v 77 51 * 2 ^ 13, seals := if base = w.base then w.seals else [] }
  let w := if svc then { w with svc := v.testBit 131 } else w
  { w with en := v.testBit 130, nextseq := if v.testBit 130 && !w.en then 1 else w.nextseq }

/-- WINDOW_ENTRY_WRITE (R444, R445). -/
def State.windowWrite (s : State) (svc : Bool) (off size : Nat) (value : DWord) : State :=
  if !barServes off size || decide (off < 0x1000) || decide (0x1800 ≤ off) then s
  else
    let n := (off - 0x1000) / 32
    let w := s.window n
    s.putWindow n (w.write svc (setBits w.entry (off % 32 * 8) (size * 8) value.toNat))

/-- WINDOW_ENTRY_WRITE. -/
def execWindowEntryWrite (svc : Bool) (off size : Nat) (value : DWord) (s : State) : Host.Outcome State Fault Refusal :=
  answer (s.windowWrite svc off size value)

/-- BAR0_REGISTER_WRITE (R444): port p's partition in bits [3:0] at offset 8p; nothing else below the window entries is a register. -/
def State.barWrite (s : State) (off size : Nat) (value : DWord) : State :=
  if !barServes off size || decide (64 ≤ off) || off % 8 != 0 then s
  else s.putPort (off / 8) { s.port (off / 8) with part := value.toNat % 16 }

/-- BAR0_REGISTER_WRITE. -/
def execBar0RegisterWrite (off size : Nat) (value : DWord) (s : State) : Host.Outcome State Fault Refusal := answer (s.barWrite off size value)

/-- The 64 bits that BAR0 shows from a multiple of 8 on (R444, R445): a port's partition, a part of a window entry, or 0; in recovery the
failed step alone, at offset 0 (R458). -/
def State.barWord (s : State) (off : Nat) : Nat :=
  match s.boot.failed with
  | some n => if off = 0 then n % 256 else 0
  | none =>
    if off < 64 then (s.port (off / 8)).part % 16
    else if 0x1000 ≤ off ∧ off < 0x1800 then bitsAt (s.window ((off - 0x1000) / 32)).entry (off % 32 * 8) 64
    else 0

/-- What a read of BAR0 returns (R444): zero bytes unless it is aligned and of 4 or 8 bytes. -/
def State.barBytes (s : State) (off size : Nat) : List Byte :=
  natLe size (if barServes off size then bitsAt (s.barWord (off / 8 * 8)) (off % 8 * 8) (8 * size) else 0)

/-! ## Host accesses to device memory -/

/-- The completion of a host request. -/
def State.hostReply (s : State) (port : Nat) (r : HostResp) : State := s.putPort port { s.port port with resp := r }

/-- A host write folds its W into the port's PCMH (R123). -/
def State.foldHost (s : State) (port w : Nat) : State := s.putPort port { s.port port with pcmh := max (s.port port).pcmh w }

/-- A host write meets the records of the debug switch (R122): it is always applied, and one that conflicts is counted and replaces them. -/
def State.hostWords (s : State) (pa len : Nat) : State :=
  let n := sliceOf (pa / 4096)
  let c := tabGet Slice.start s.slices n
  if !c.debug then s
  else if c.conflict pa len then s.modSlice n (fun c => ({ c with mixedHost := c.mixedHost + 1 } : Slice).note pa len)
  else s

/-- A host write reaches seal words: each window notes PCMH as it stands (R123) (DEDUCED, log 40). -/
def State.noteSeals (s : State) (port pa len : Nat) : State :=
  let pcmh := (s.port port).pcmh
  let mark (w : Window) (k : Nat) : Window := if pa < w.base + 64 * k + 8 ∧ w.base + 64 * k < pa + len then { w with seals := tabPut 0 w.seals k pcmh } else w
  { s with windows := s.windows.map (fun e => (e.1, ((List.range 256).filter (fun k => decide (pa < e.2.base + 64 * k + 8) && decide (e.2.base + 64 * k < pa + len))).foldl mark e.2)) }

/-- A host write at its home, 64 bytes of an aligned line at a time (R111, R121, R123) (DEDUCED, log 41). -/
def State.hostApply (s : State) (port pa : Nat) (data : List Byte) : Nat → State
  | 0 => s
  | n + 1 =>
    if data.isEmpty then s
    else
      let k := 64 - pa % 64
      let (w, s) := ((s.hostWords pa (min k data.length)).tearDev pa (min k data.length)).writeDev pa (s.port port).part (data.take k)
      (s.foldHost port w).hostApply port (pa + k) (data.drop k) n

/-- Serves a host request; a compare-and-swap that fails writes nothing (R120, R123, R126, R399, R444). -/
def State.hostServe (s : State) (port : Nat) (q : HostReq) : State :=
  let beyond (pa len : Nat) : Bool := decide (s.installed < pa + len)
  let unsupported : State := s.hostReply port { HostResp.none with unsupported := true }
  match q with
  | .read pa len =>
    if beyond pa len then unsupported
    else match s.readDev pa len (s.port port).part with
      | (s, .ok l) => s.hostReply port { HostResp.none with data := l }
      | (s, .error _) => s.hostReply port { HostResp.none with poison := true }
  | .write pa data =>
    if beyond pa data.length then unsupported
    else ((s.noteSeals port pa data.length).hostApply port pa data (data.length + 1)).hostReply port HostResp.none
  | .atomic pa size kind value compare =>
    if beyond pa size || !((size == 4 || size == 8) && pa % size == 0) then unsupported
    else match s.readDev pa size (s.port port).part with
      | (s, .error _) => s.hostReply port { HostResp.none with poison := true }
      | (s, .ok l) =>
        let old := leNat l
        let new := match kind with
          | .fetchAdd => some (old + value.toNat)
          | .swap => some value.toNat
          | .cas => if old = compare.toNat % 256 ^ size then some value.toNat else none
        let s := match new with
          | some v => (s.noteSeals port pa size).hostApply port pa (natLe size v) 2
          | none => s
        s.hostReply port { HostResp.none with data := l }
  | .bar off size => s.hostReply port { HostResp.none with data := s.barBytes off size }

/-- A request to BAR0, which a device in recovery still serves (R458). -/
def HostReq.isBar : HostReq → Bool
  | .bar _ _ => true
  | _ => false

/-- A host request arrives: a frozen port answers with Completer Abort (R383); in C3 and C4 it waits for the exit that it starts (R461); in
recovery only BAR0 is there (R458) (DEDUCED, log 41) (DESIGN CHOICE, log 58). -/
def State.hostRequest (s : State) (port : Nat) (q : HostReq) : State :=
  if !s.lit port || (s.boot.failed.isSome && !q.isBar) then s
  else if (s.port port).frozen then s.hostReply port { HostResp.none with abort := true }
  else if (s.port port).state ≠ .up then s
  else
    let s := { s with power := { s.power with lastHost := s.gt } }
    if s.power.device = 0 then s.hostServe port q
    else
      let s := if s.power.exiting.any (fun u => decide (u = .device)) then s
        else { s with power := { s.power with exiting := s.power.exiting ++ [.device] } }
      s.putPort port { s.port port with held := (s.port port).held ++ [q] }

/-- HOST_MEM_READ. -/
def execHostMemRead (port pa len : Nat) (s : State) : Host.Outcome State Fault Refusal := answer (s.hostRequest port (.read pa len))

/-- HOST_MEM_WRITE. -/
def execHostMemWrite (port pa : Nat) (data : List Byte) (s : State) : Host.Outcome State Fault Refusal := answer (s.hostRequest port (.write pa data))

/-- HOST_ATOMIC. -/
def execHostAtomic (port pa size : Nat) (kind : HostAtom) (value compare : DWord) (s : State) : Host.Outcome State Fault Refusal :=
  answer (s.hostRequest port (.atomic pa size kind value compare))

/-! ## Flits and the tether -/

/-- What a code stream gives: a granule and the bytes after it, too few bytes yet, or a bitmap that R453 calls an error. -/
inductive Decoded where
  | granule (g rest : List Byte)
  | short
  | bad

/-- Applies XOR bytes to the bytes of a reference that a bitmap marks. -/
def deltaBytes (bitmap : Nat) : Nat → List Byte → List Byte → List Byte
  | _, [], _ => []
  | i, r :: ref, x => if bitmap.testBit i then (r ^^^ x.headD 0) :: deltaBytes bitmap (i + 1) ref x.tail else r :: deltaBytes bitmap (i + 1) ref x

/-- Decodes one code (R452, R453). -/
def decodeGranule (tag : Nat) (ref l : List Byte) : Decoded :=
  if tag = 0 then .granule (List.replicate 32 0) l
  else if tag = 1 then .granule ref l
  else if tag = 2 then
    let bitmap := leNat (l.take 4)
    let n := popc (BitVec.ofNat 32 bitmap)
    if l.length < 4 then .short
    else if 27 < n then .bad
    else if l.length < 4 + n then .short
    else .granule (deltaBytes bitmap 0 ref (l.drop 4)) (l.drop (4 + n))
  else if l.length < 32 then .short
  else .granule (l.take 32) (l.drop 32)

/-- Decodes the codes of a group: the direction after it with the bytes it delivers. -/
def decodeGroup (tags : Nat) : Nat → Tether → List Byte → List Byte → Option (Option (Tether × List Byte × List Byte))
  | 0, t, l, out => some (some (t, l, out))
  | n + 1, t, l, out =>
    match decodeGranule (tags % 4) t.ref l with
    | .granule g rest => decodeGroup (tags / 4) n (t.note g) rest (out ++ g)
    | .short => some none
    | .bad => none

/-- Decodes every whole group that has arrived; none on a link error (DESIGN CHOICE, log 42). -/
def decodeGroups : Nat → Tether → List Byte → Option (Tether × List Byte)
  | 0, t, out => some (t, out)
  | n + 1, t, out =>
    match t.part with
    | [] => some (t, out)
    | tag :: l => match decodeGroup tag.toNat 4 t l [] with
      | none => none
      | some none => some (t, out)
      | some (some (t', rest, more)) => decodeGroups n { t' with part := rest } (out ++ more)

/-- A port starts training: compression history is cleared (R453, R454). -/
def Port.train (p : Port) : Port := { p with state := .train, rx := Tether.fresh, tx := Tether.fresh }

/-- FLIT_RECEIVE (R397, R398, R452, R453): a flit whose replay fails too leaves its wavelength to be retrained (DESIGN CHOICE, log 42). -/
def State.flitReceive (s : State) (port : Nat) (crcOk replayOk : Bool) (body : List Byte) : State :=
  let p := s.port port
  if !s.lit port || decide (p.state ≠ .up) then s
  else
    let p := if crcOk then p else { p with errors := p.errors + 1 }
    if !crcOk && !replayOk then s.putPort port { p with retraining := p.retraining + 1 }
    else if !s.tethered port then s.putPort port { p with delivered := p.delivered ++ body }
    else
      let part := p.rx.part ++ body
      match decodeGroups (part.length + 1) { p.rx with part := part } [] with
      | some (t, out) => s.putPort port { p with rx := t, delivered := p.delivered ++ out }
      | none => s.putPort port { p.train with errors := p.errors + 1 }

/-- FLIT_RECEIVE. -/
def execFlitReceive (port : Nat) (crcOk replayOk : Bool) (body : List Byte) (s : State) : Host.Outcome State Fault Refusal :=
  answer (s.flitReceive port crcOk replayOk body)

/-- GRANULE_IDLE_FLUSH (R452). -/
def State.granuleFlush (s : State) (port : Nat) : State :=
  let p := s.port port
  if !s.lit port || !s.tethered port || decide (p.state ≠ .up) || p.tx.part.isEmpty || decide (s.gt < p.lastTx + 16) then s
  else s.putPort port ({ p with tx := { p.tx with part := [] } }.putGranule (p.tx.part ++ List.replicate (32 - p.tx.part.length) 0))

/-- GRANULE_IDLE_FLUSH. -/
def execGranuleIdleFlush (port : Nat) (s : State) : Host.Outcome State Fault Refusal := answer (s.granuleFlush port)

/-- WAVELENGTH_RETRAINED (R397). -/
def State.wavelengthRetrained (s : State) (port wavelength : Nat) (restored : Bool) : State :=
  let p := s.port port
  if p.retraining = 0 then s
  else s.putPort port { p with retraining := p.retraining - 1,
                               retired := if restored || p.retired.any (fun w => w == wavelength) then p.retired else p.retired ++ [wavelength] }

/-- WAVELENGTH_RETRAINED. -/
def execWavelengthRetrained (port wavelength : Nat) (restored : Bool) (s : State) : Host.Outcome State Fault Refusal :=
  answer (s.wavelengthRetrained port wavelength restored)

/-! ## Lock and training -/

/-- LINK_LOCK_LOST (R454). -/
def State.lockLost (s : State) (port : Nat) : State :=
  let p := s.port port
  if !s.lit port then s
  else match p.state with
    | .up => s.putPort port { p with state := .hold, lostAt := s.gt }
    | .train => s.putPort port { p with state := .lost }
    | _ => s

/-- LINK_LOCK_LOST. -/
def execLinkLockLost (port : Nat) (s : State) : Host.Outcome State Fault Refusal := answer (s.lockLost port)

/-- LINK_LOCK_REGAINED (R454): within 3,000 ticks nothing is lost; a lost port trains. -/
def State.lockRegained (s : State) (port : Nat) : State :=
  let p := s.port port
  if !s.lit port then s
  else match p.state with
    | .hold => if s.gt ≤ p.lostAt + Config.holdTicks then s.putPort port { p with state := .up } else s
    | .lost => s.putPort port p.train
    | _ => s

/-- LINK_LOCK_REGAINED. -/
def execLinkLockRegained (port : Nat) (s : State) : Host.Outcome State Fault Refusal := answer (s.lockRegained port)

/-- TRAINING_COMPLETE (R454). -/
def State.trainingComplete (s : State) (port : Nat) : State :=
  if s.lit port && decide ((s.port port).state = .train) then s.putPort port { s.port port with state := .up } else s

/-- TRAINING_COMPLETE. -/
def execTrainingComplete (port : Nat) (s : State) : Host.Outcome State Fault Refusal := answer (s.trainingComplete port)

/-! ## Mailboxes and resets of masters -/

/-- MAILBOX_SEND (R457): a message of 64 bytes joins the 16 entries that the target keeps for the source; a sender whose mailbox is full
waits. -/
def State.mailboxSend (s : State) (source target : Nat) (message : List Byte) : State :=
  let box := tabGet [] (s.core target).mail source
  if source = target ∨ 8 ≤ source ∨ 8 ≤ target ∨ message.length ≠ 64 ∨ 16 ≤ box.length then s
  else s.modCore target (fun c => { c with mail := tabPut [] c.mail source (box ++ [message]) })

/-- MAILBOX_SEND. -/
def execMailboxSend (source target : Nat) (message : List Byte) (s : State) : Host.Outcome State Fault Refusal :=
  answer (s.mailboxSend source target message)

/-- MASTER_RESET (R32, R383): the handles on a frozen engine instance resolve, an island reloads its image, a port retrains. -/
def State.masterReset (s : State) (kind : MasterKind) (unit : Nat) : State :=
  match kind with
  | .engine =>
    if !tabGet false s.engines unit then s
    else
      let mine := s.ops.filter (fun o => o.unit == unit && o.kind.isCopy && o.status.isSome)
      mine.foldl (fun s o => s.handleResolve o) { s with engines := tabPut false s.engines unit false }
  | .island =>
    let i := s.island unit
    if i.frozen || i.stopped then s.putIsland unit { i with frozen := false, stopped := false } else s
  | .port => if (s.port unit).frozen then s.putPort unit { (s.port unit).train with frozen := false } else s

/-- MASTER_RESET. -/
def execMasterReset (kind : MasterKind) (unit : Nat) (s : State) : Host.Outcome State Fault Refusal := answer (s.masterReset kind unit)

end Sys2Proof.Machine
end

