-- ==== Sys2Proof/Machine/Paired.lean ====
section
/-! DEFINITION. The P form: two short operations on v registers in one pass (spec/09 R204 to R206, spec/10 R233). -/

namespace Sys2Proof.Machine

/-- What a slot's operation reads: its d, its A, its immediate (R205). -/
structure Slot where
  d : Bool
  a : Bool
  imm : Bool

/-- The X slot's operations (R205). -/
def xSlot (pop : Nat) : Option Slot :=
  if pop = 0 then some ⟨false, false, false⟩ else if pop = 6 then some ⟨false, true, false⟩
  else if pop ≤ 10 then some ⟨true, true, false⟩ else none

/-- The Y slot's operations (R205). -/
def ySlot (pop : Nat) : Option Slot :=
  if pop = 0 then some ⟨false, false, false⟩
  else if pop = 3 ∨ pop = 8 ∨ pop = 9 ∨ pop = 10 then some ⟨true, false, true⟩
  else if pop = 13 ∨ pop = 15 then some ⟨false, true, false⟩
  else if pop = 14 then some ⟨false, false, true⟩
  else if pop ≤ 15 then some ⟨true, true, false⟩ else none

/-- An operation on both FP16 halves of a word. -/
def halves (g : Nat → Nat → Nat) (a b : Word) : Word :=
  BitVec.ofNat 16 (g (a.toNat / 65536) (b.toNat / 65536)) ++ BitVec.ofNat 16 (g (a.toNat % 65536) (b.toNat % 65536))

/-- The X slot's result (R205). -/
def xResult (pop : Nat) (d a : Word) : Word :=
  match pop with
  | 1 => fadd d a
  | 2 => fsub d a
  | 3 => fmul d a
  | 4 => redStep 9 d a
  | 5 => redStep 10 d a
  | 6 => a
  | 7 => halves (fun x y => fpSum fp16 .rne [fpUnpack fp16 x, fpUnpack fp16 y]) d a
  | 8 => halves (fun x y => fpSum fp16 .rne [(fpUnpack fp16 x).mul (fpUnpack fp16 y)]) d a
  | 9 => halves (fpMinMax fp16 false false) d a
  | _ => halves (fpMinMax fp16 true false) d a

/-- The Y slot's result (R205). -/
def yResult (pop : Nat) (d a : Word) (imm : BitVec 8) : Word :=
  let n := imm.toNat % 32
  match pop with
  | 1 => d + a
  | 2 => d - a
  | 3 => d + imm.signExtend 32
  | 4 => d &&& a
  | 5 => d ||| a
  | 6 => d ^^^ a
  | 7 => d &&& ~~~a
  | 8 => d <<< n
  | 9 => d >>> n
  | 10 => d.sshiftRight n
  | 11 => minMax false true d a
  | 12 => minMax true true d a
  | 13 => a
  | 14 => imm.signExtend 32
  | _ => BitVec.ofNat 32 ((List.range 32).filter (fun i => a.getLsbD i)).length

/-- The v registers a slot reads. -/
def slotReads (q : Slot) (d a : Nat) : List Nat := (if q.d then [d] else []) ++ (if q.a then [a] else [])

/-- The registers a slot writes. -/
def slotWrites (pop : BitVec 7) (d : BitVec 8) : List Nat := if pop = 0 then [] else [d.toNat]

/-- The fields of a P-form word obey R199, R205 and R206. -/
def pairOk (w : PWord) (x y : Slot) : Bool :=
  w.ximm == 0 && (w.xpop != 0 || w.xd == 0) && (x.a || w.xa == 0) && (w.ypop != 0 || w.yd == 0) && (y.a || w.ya == 0) &&
    (y.imm || w.yimm == 0) && (!(w.ypop == 8 || w.ypop == 9 || w.ypop == 10) || decide (w.yimm.toNat < 32)) &&
    (w.xpop == 0 || w.ypop == 0 || w.xd != w.yd) &&
    !(slotReads x w.xd.toNat w.xa.toNat).any (fun n => (slotReads y w.yd.toNat w.ya.toNat).any (fun m => n % 4 == m % 4))

/-- One thread of a P-form pass: both slots read before either writes (R206). -/
def pairThread (w : PWord) (x y : Slot) (f : Foc) (p : Nat) : Except Stop Foc :=
  let rd (use : Bool) (n : BitVec 8) : Except Trap Word := if use then readReg f.r p false false n.toNat else .ok 0
  match rd x.d w.xd, rd x.a w.xa, rd y.d w.yd, rd y.a w.ya with
  | .ok xd, .ok xa, .ok yd, .ok ya =>
    let r := if w.xpop = 0 then f.r else f.r.writeV p w.xd.toNat (xResult w.xpop.toNat xd xa)
    .ok { f with r := if w.ypop = 0 then r else r.writeV p w.yd.toNat (yResult w.ypop.toNat yd ya w.yimm) }
  | .error t, _, _, _ => .error (.trap t)
  | _, .error t, _, _ => .error (.trap t)
  | _, _, .error t, _ => .error (.trap t)
  | _, _, _, .error t => .error (.trap t)

/-- A helper that would trap takes zero in both destinations (R175). -/
def pairZero (w : PWord) (f : Foc) (p : Nat) : Foc :=
  let r := if w.xpop = 0 then f.r else f.r.writeV p w.xd.toNat 0
  { f with r := if w.ypop = 0 then r else r.writeV p w.yd.toNat 0 }

/-- A P-form pass (R206). -/
def pairVec (w : PWord) (f : Foc) : State :=
  let ps := f.members 0 false
  let word := pToWord w
  match xSlot w.xpop.toNat, ySlot w.ypop.toNat with
  | some x, some y =>
    let xr := slotReads x w.xd.toNat w.xa.toNat
    let yr := slotReads y w.yd.toNat w.ya.toNat
    let xw := slotWrites w.xpop w.xd
    let yw := slotWrites w.ypop w.yd
    match f.permit ps ⟨word, pairOk w x y, xr ++ yr ++ xw ++ yw, xr ++ yr ++ xw ++ yw⟩ with
    | some s => s
    | none =>
      if w.xpop = 0 ∧ w.ypop = 0 then ((f.issue clsNop [] [] ps false).next).close
      else
        match passLoop (pairThread w x y) (pairZero w) ps (f.issueSlots clsFlt (xr ++ yr) [(clsFlt, xw), (clsInt, yw)] ps false) with
        | (f, some (p, st)) => f.stopAt ps p st
        | (f, none) => f.next.close
  | _, _ => f.trapIssue ps .illegalOpcode (hiOf word)

/-- A P-form word in the control stream: an unassigned pop is found first (R207). -/
def pairCtl (w : PWord) (s : State) (t : Team) : State :=
  let code : TrapCode := if (xSlot w.xpop.toNat).isSome && (ySlot w.ypop.toNat).isSome then .illegalStream else .illegalOpcode
  s.trapCtl t { code := code, detail := hiOf (pToWord w) }

/-- P_FORM_PAIR. -/
def execPFormPair (w : PWord) (s : State) : Host.Outcome State Fault Refusal := answer (byStream s (pairVec w) (pairCtl w))

/-- The positions of the pass of a word of no instruction: its guard holds where its upper bits name the F layout (R200). -/
def Foc.wordMembers (f : Foc) (w : DWord) : List Nat :=
  let g := fOfWord w
  if w.extractLsb' 62 2 = 0 then f.members g.g.toNat g.gn else f.members 0 false

/-- A word of no instruction raises ILLEGAL_OPCODE (R200, R202, R207, R232). -/
def execUnassignedOpcodeWord (w : DWord) (s : State) : Host.Outcome State Fault Refusal :=
  answer (byStream s (fun f => f.trapIssue (f.wordMembers w) .illegalOpcode (hiOf w))
    (fun s t => s.trapCtl t { code := .illegalOpcode, detail := hiOf w }))

end Sys2Proof.Machine
end

