-- ==== Sys2Proof/Machine/Power.lean ====
section
/-! DEFINITION. Power states, issue holds, and bring-up from reset (spec/21 R458 to R462). -/

namespace Sys2Proof.Machine

/-! ## Power states -/

/-- The power state a unit is in: 0 for C0 to 4 for C4 (R460). -/
def State.powerOf (s : State) : PowerUnit → Nat
  | .core n => tabGet 0 s.power.cores n
  | .cluster n => tabGet 0 s.power.clusters n
  | .device => s.power.device

/-- Puts a unit into a power state. -/
def State.putPower (s : State) (u : PowerUnit) (level : Nat) : State :=
  match u with
  | .core n => { s with power := { s.power with cores := tabPut 0 s.power.cores n level } }
  | .cluster n => { s with power := { s.power with clusters := tabPut 0 s.power.clusters n level } }
  | .device => { s with power := { s.power with device := level } }

/-- A unit is on its way back to C0. -/
def State.exits (s : State) (u : PowerUnit) : Bool := s.power.exiting.any (fun v => decide (v = u))

/-- The exit latency of a power state in ns (R460). -/
def exitLatency (level : Nat) : Nat := if level = 1 then 200 else if level = 2 then 20000 else if level = 3 then 2000000 else 50000000

/-- A team is resident on a core: its control thread or a rank of it. -/
def Team.onCore (t : Team) (n : Nat) : Bool := 2 * t.pair + t.layer == n || t.ranks.any (fun r => coreOf t.pair r.rod == n)

/-- A window has a sealed slot at its turn (R447). -/
def State.sealed (s : State) (w : Window) : Bool := w.en && leNat (memBytes s.mem (w.slotAddr + 4) 4) == w.nextseq

/-- The condition of a power state (R460) (DEDUCED, log 7, 50). -/
def State.mayEnter (s : State) (u : PowerUnit) (level : Nat) : Bool :=
  match u with
  | .core n => level == 1 && decide (n < 512) && !s.teams.any (fun t => t.onCore n)
  | .cluster n => level == 2 && decide (n < 64) && !s.teams.any (fun t => clusterOf t.pair == n) && !s.ops.any (fun o => o.unit == n) &&
      !s.pairs.any (fun p => clusterOf p.1 == n && p.2.grid.isSome)
  | .device => (level == 3 || level == 4) && s.teams.isEmpty && !s.pairs.any (fun p => p.2.grid.isSome) &&
      !s.windows.any (fun w => w.2.cmd.isSome || s.sealed w.2) && decide (s.power.lastHost + 15000 ≤ s.gt)

/-- POWER_STATE_ENTER (R460, R461): nothing architectural changes (DEDUCED, log 50). -/
def State.powerEnter (s : State) (u : PowerUnit) (level : Nat) : State :=
  if s.mayEnter u level && decide (s.powerOf u < level) && decide (exitLatency level ≤ s.power.tolerance) && !s.exits u then s.putPower u level else s

/-- POWER_STATE_ENTER. -/
def execPowerStateEnter (unit : PowerUnit) (level : Nat) (s : State) : Host.Outcome State Fault Refusal := answer (s.powerEnter unit level)

/-- POWER_WAKE (R461): an exit starts. -/
def State.powerWake (s : State) (u : PowerUnit) : State :=
  if s.powerOf u = 0 ∨ s.exits u then s else { s with power := { s.power with exiting := s.power.exiting ++ [u] } }

/-- POWER_WAKE. -/
def execPowerWake (unit : PowerUnit) (s : State) : Host.Outcome State Fault Refusal := answer (s.powerWake unit)

/-- What the device does on the way out of C3 or C4: the pinned lines are there again, and every LEXP, LWCT, SEXP and SWCT is GT (R460). -/
def State.refill (s : State) : State :=
  { s with
    lines := s.lines.filterMap (fun e => match e.2 with
      | some m => if m.pinned then some (e.1, some { m with lexp := s.gt, lwct := s.gt }) else none
      | none => none)
    sets := []
    slices := s.slices.map (fun e => (e.1, { e.2 with words := [] }))
    power := { s.power with floor := s.gt } }

/-- Serves the host requests that waited at a port for the exit (R461). -/
def State.serveHeld (s : State) (port : Nat) : State :=
  (s.port port).held.foldl (fun s q => s.hostServe port q) (s.putPort port { s.port port with held := [] })

/-- POWER_EXIT_COMPLETE (R460, R461). -/
def State.powerExit (s : State) (u : PowerUnit) : State :=
  if !s.exits u then s
  else
    let deep := decide (u = .device) && decide (3 ≤ s.power.device)
    let s := { s with power := { s.power with exiting := s.power.exiting.filter (fun v => !decide (v = u)) } }.putPower u 0
    if deep then (List.range 8).foldl (fun s p => s.serveHeld p) s.refill else s

/-- POWER_EXIT_COMPLETE. -/
def execPowerExitComplete (unit : PowerUnit) (s : State) : Host.Outcome State Fault Refusal := answer (s.powerExit unit)

/-- POWER_ISSUE_HOLD (R462): a rod's later cycles shift by whole cycles. -/
def State.issueHold (s : State) (pair rod cycles : Nat) : State :=
  let r := s.rod pair rod
  s.putRod pair rod { r with earliest := max r.earliest s.gt + cycles }

/-- POWER_ISSUE_HOLD. -/
def execPowerIssueHold (pair rod cycles : Nat) (s : State) : Host.Outcome State Fault Refusal := answer (s.issueHold pair rod cycles)

/-! ## Bring-up -/

/-- The board that a verified configuration body and its image keys describe (R459). -/
def boardOf (b : BootInput) : Board :=
  let v := b.body.toNat
  { gib128 := bitsAt v 256 8 == 1, pwr := bitsAt v 264 16, grace := bitsAt v 416 32, floors := (List.range 4).map (fun k => bitsAt v (288 + 32 * k) 32)
    ports := (List.range 8).map (fun p => bitsAt v (32 * p) 32), keys := b.keys.take (bitsAt v 280 8) }

/-- The ports of a board before they train, each with its partition (R458, R459). -/
def portsOf (b : Board) : Tab Port :=
  b.ports.zipIdx.foldl (fun t e => tabPut Port.start t e.2 { Port.start with part := bitsAt e.1 2 4 }) []

/-- DEVICE_RESET (R458): every step passes and the lit ports train, or bring-up stops at a failed step, where port 0 alone lights. The
moves to come and the counters of the model go on. -/
def State.deviceReset (s : State) (b : BootInput) : State :=
  let fresh : State := { State.reset with agenda := s.agenda, cur := s.cur, free := s.free, nextId := s.nextId, hole := s.hole }
  match b.failStep with
  | none =>
    let board := boardOf b
    { fresh with board := board, boot := ⟨9, none⟩, ports := portsOf board }
  | some n =>
    let board := if n ≤ 4 then Board.start else boardOf b
    { fresh with board := { board with ports := [1, 0, 0, 0, 0, 0, 0, 0] }, boot := ⟨n - 1, some n⟩ }

/-- DEVICE_RESET. -/
def execDeviceReset (boot : BootInput) (s : State) : Host.Outcome State Fault Refusal := answer (s.deviceReset boot)

end Sys2Proof.Machine
end

