-- ==== Sys2Proof/Machine/SaveArea.lean ====
section
/-! DEFINITION. The bytes of the save area: its header, the pair and team records, and the records of matrix operations (spec/18 R393 to
R395, spec/08 R178). Within a section the manual gives the contents in their order and the section's length, but not their places: here
they stand close together from the section's first byte, and the bytes left over are open (DESIGN CHOICE, log 38). -/

namespace Sys2Proof.Machine

/-- Bytes of the save area whose places the manual does not give. -/
def openBytes (i lo n : Nat) : List Byte := (List.range n).map (fun k => Config.freeByte i (BitVec.ofNat 32 (lo + k)))

/-- A section of n bytes: its contents in order, then open bytes (DESIGN CHOICE, log 38). -/
def section_ (i n : Nat) (l : List Byte) : List Byte := l.take n ++ openBytes i l.length (n - l.length)

/-- One bit for each entry of a list, the first lowest. -/
def bitList (l : List Bool) : Nat := l.foldr (fun b n => (if b then 1 else 0) + 2 * n) 0

/-! ## Pair records -/

/-- The bits of a map entry (R68). -/
def mapBits (m : MapEntry) (dirty : Nat) : Nat :=
  m.gva * 2 ^ 88 + m.soff * 2 ^ 77 + m.slen * 2 ^ 66 + m.fmt * 2 ^ 62 + m.blk * 2 ^ 60 + m.part * 2 ^ 56 + (if m.nowb then 2 ^ 55 else 0) +
    (if m.flt then 2 ^ 54 else 0) + 2 ^ 53 + dirty * 2 ^ 42

/-- The bits of a range-lock entry (R141). -/
def lockBits (r : RangeLock) : Nat :=
  r.icol * 2 ^ 111 + r.team * 2 ^ 106 + r.hnd * 2 ^ 102 + 2 ^ 101 + (if r.dst then 2 ^ 100 else 0) + r.space * 2 ^ 96 + r.last * 2 ^ 48 + r.first

/-- The bits of a ring's state word (R147). -/
def ringBits (r : Ring) : Nat :=
  r.rel.toNat * 2 ^ 57 + r.tak.toNat * 2 ^ 50 + r.fil.toNat * 2 ^ 43 + r.clm.toNat * 2 ^ 36 + r.nm1 * 2 ^ 30 + r.slot * 2 ^ 19 + r.base * 2 ^ 8 +
    r.team * 2 ^ 3 + (if r.v then 1 else 0)

/-- Two granules' TAG and poison bits in a byte (R394). -/
def granByte (p : Pair) (k : Nat) : Byte :=
  let bits (g : Nat) : Nat := (if tabGet false p.tags g then 1 else 0) + (if tabGet false p.poison g then 2 else 0)
  BitVec.ofNat 8 (bits (2 * k) + 16 * bits (2 * k + 1))

/-- The code of a sector's state, in the order of R71's table (DESIGN CHOICE, log 38). -/
def SecState.code : SecState → Nat
  | .u => 0 | .f => 1 | .c => 2 | .d => 3 | .w => 4 | .wd => 5

/-- The map entries that a pair holds. -/
def Pair.entries (p : Pair) : List MapEntry := (List.range 16).filterMap (fun n => tabGet none p.maps n)

/-- The rings of a pair that are in use. -/
def Pair.usedRings (p : Pair) : List Nat := (List.range 32).filter (fun n => (tabGet Ring.zero p.rings n).v)

/-- The lengths of a pair record's sections after its header (R394). -/
def Pair.sections (p : Pair) : List Nat :=
  let x := Config.localStore - p.l1sz
  [x, x / 32, 256, 4 * (p.entries.map (fun m => m.slen)).foldl (· + ·) 0, 512, 256, 512 * p.usedRings.length]

/-- A pair record (R394). -/
def pairBytes (n : Nat) (p : Pair) (i : Nat) : List Byte :=
  let x := Config.localStore - p.l1sz
  let dirty (m : MapEntry) : Nat := ((List.range m.slen).filter (fun k => (p.sector (m.soff + k)).dirty != 0)).length
  let sector (k : Nat) : List Byte := natLe 4 ((p.sector k).st.code + (p.sector k).dirty.toNat * 2 ^ 16)
  section_ i 64 (natLe 4 n ++ natLe 4 (n % 4) ++ natLe 8 (p.grid.getD 0) ++ natLe 8 p.l1sz ++ p.sections.flatMap (natLe 4)) ++
    memBytes p.pad 0 x ++ (List.range (x / 32)).map (granByte p) ++
    (List.range 16).flatMap (fun n => natLe 16 (match tabGet none p.maps n with | some m => mapBits m (dirty m) | none => 0)) ++
    p.entries.flatMap (fun m => (List.range m.slen).flatMap (fun k => sector (m.soff + k))) ++
    (List.range 32).flatMap (fun n => natLe 16 (match tabGet none p.locks n with | some r => lockBits r | none => 0)) ++
    (List.range 32).flatMap (fun n => natLe 8 (ringBits (tabGet Ring.zero p.rings n))) ++
    p.usedRings.flatMap (fun n => (List.range 64).flatMap (fun k =>
      let x := tabGet RingSlot.zero (tabGet Ring.zero p.rings n).slots k
      natLe 8 (x.amt * 2 ^ 20 + x.left * 2 + (if x.rls then 1 else 0))))

/-- The bytes of a pair record. -/
def Pair.recordLength (p : Pair) : Nat := 64 + p.sections.foldl (· + ·) 0

/-! ## Team records -/

/-- A capability and its tag. -/
def capBytes (l : List TCap) : List Byte := l.flatMap (fun c => natLe 16 c.bits.toNat) ++ natLe 2 (bitList (l.map (fun c => c.tag)))

/-- A return stack, the oldest entry first (R241). -/
def stackBytes (l : List (BitVec 48)) : List Byte := (List.range 16).flatMap (fun k => natLe 6 ((l.reverse[k]?).getD 0).toNat)

/-- The bits [154:128] of a kernel record, as KPAR holds them (R220, R352). -/
def Launch.kpar (l : Launch) : Nat :=
  Nat.log2 (l.width / 8) + (if l.quad then 8 else 0) + Nat.log2 (l.regs / 16) * 2 ^ 4 + (l.ranks - 1) * 2 ^ 6 + Nat.log2 l.spread * 2 ^ 12 +
    l.gang * 2 ^ 16 + l.prio * 2 ^ 19 + l.accum * 2 ^ 22

/-- The result of a handle (R136). -/
def HResult.bits (r : HResult) : Nat :=
  (if r.rtry then 2 ^ 113 else 0) + (if r.sparse then 2 ^ 112 else 0) + r.status.toNat * 2 ^ 104 + r.done.toNat * 2 ^ 64 + r.wmax % 2 ^ 64

/-- A handle: its state, its result, and open bytes where the operation to issue again is recorded (R140, R394). -/
def handleBytes (i : Nat) (h : Handle) : List Byte :=
  section_ i 32 (match h with
    | .idle => natLe 17 0
    | .pending _ => natLe 17 1
    | .resolved r => natLe 1 2 ++ natLe 16 r.bits)

/-- The control thread's section (R394). -/
def ctlBytes (i : Nat) (c : Ctl) : List Byte :=
  section_ i 1536 ((List.range 64).flatMap (fun n => natLe 8 (c.getS n).toNat) ++ capBytes ((List.range 16).map c.getC) ++ natLe 1 c.preds.toNat ++
    natLe 6 c.pc.toNat ++ stackBytes c.rets ++ natLe 8 c.pcm ++ (match c.handler with
      | some h => natLe 6 h.trapPc.toNat ++ natLe 1 1
      | none => natLe 7 0))

/-- A team queue: 32 entries, and a mark for each that carries a handle (R188). -/
def queueBytes (i : Nat) (l : List QEntry) : List Byte :=
  section_ i 320 ((List.range 32).flatMap (fun k => natLe 8 (((l[k]?).map QEntry.val).getD 0).toNat) ++
    natLe 4 (bitList (l.map (fun e => e.mark.isSome))))

/-- A barrier: E, the control thread's arrival, and how many threads have arrived (R245). -/
def barBytes (i : Nat) (b : Barrier) : List Byte :=
  section_ i 16 (natLe 1 (match b.e with | none => 0 | some false => 1 | some true => 2) ++ natLe 1 (if b.ctl then 1 else 0) ++
    natLe 4 ((b.arrived.map (fun e => (maskList e.2).length)).foldl (· + ·) 0))

/-- The remaining-batch word of an endpoint: what is left of the batch under way, laid out as s_A gives a batch (R350). -/
def batchWord (e : Endpoint) : Nat := match e.batches with
  | [] => 0
  | b :: _ => b.off % 2 ^ 24 + (if b.pooled then 2 ^ 24 else 0) + b.left * 2 ^ 32

/-- An endpoint (R350). -/
def endBytes (e : Endpoint) : List Byte :=
  natLe 8 (match e.kind with | some k => k + 1 | none => 0) ++ (List.range 64).flatMap (fun k => natLe 8 ((e.words[k]?).getD 0).toNat) ++ natLe 8 (batchWord e)

/-- A tile: the upper half, then the lower (R340). -/
def tileRecord (t : Tile) : List Byte :=
  (List.range 256).flatMap (fun n => natLe 4 (tabGet 0 t.upper.elems n).toNat) ++ (List.range 256).flatMap (fun n => natLe 4 (tabGet 0 t.lower.elems n).toNat)

/-- A convergence record (R178). -/
def ConvRec.bits (c : Option ConvRec) : Nat := match c with
  | none => 0x1F * 2 ^ 184
  | some c => 2 ^ 189 + c.up.getD 0x1F * 2 ^ 184 + c.age * 2 ^ 168 + c.jpc.toNat * 2 ^ 112

/-- A split: its mask, PC, age, record and resume position (R177). -/
def splitBytes (i : Nat) (x : Split) : List Byte :=
  section_ i 32 (natLe 8 x.mask.toNat ++ natLe 6 x.pc.toNat ++ natLe 2 x.age ++ natLe 1 (x.record.getD 0x1F) ++ natLe 1 x.resume ++ natLe 1 (if x.inHandler then 1 else 0))

/-- The bytes of a rank (R394). -/
def Rank.recordLength (r : Rank) : Nat := 1344 + (r.width * 136 + r.width * 21 * r.top / 4)

/-- A rank's section (R178, R394). -/
def rankBytes (i : Nat) (r : Rank) : List Byte :=
  let ps := List.range r.width
  let each (f : Nat → Nat → List Byte) : List Byte := (List.range r.top).flatMap (fun n => ps.flatMap (fun p => f p n))
  let convRec (k : Nat) : Option ConvRec := tabGet none r.recs k
  section_ i r.recordLength (natLe 1 r.slot ++ natLe 1 r.top ++ natLe 2 r.scnt ++ natLe 4 r.arrival.toNat ++
    natLe 1 r.shares.length ++ r.shares.flatMap (fun h => natLe 1 h.own ++ natLe 4 h.team ++ natLe 1 h.rank ++ natLe 1 h.partner ++ natLe 1 h.blocks) ++
    (List.range 64).flatMap (fun n => natLe 4 (r.kreg n).val.toNat) ++ natLe 8 (bitList ((List.range 64).map (fun n => (r.kreg n).cf))) ++
    (List.range 64).flatMap (fun n => natLe 2 ((r.kreg n).wm.getD 0xFFFF)) ++
    (List.range 16).flatMap (fun k => natLe 32 (ConvRec.bits (convRec k))) ++
    (List.range 16).flatMap (fun k => natLe 8 (((convRec k).map ConvRec.mask).getD 0).toNat ++ natLe 8 (((convRec k).map ConvRec.arr).getD 0).toNat) ++
    r.splits.flatMap (splitBytes i) ++
    ps.flatMap (fun p => natLe 1 (r.thread p).preds.toNat) ++ ps.flatMap (fun p => stackBytes (r.thread p).rets) ++ ps.flatMap (fun p => natLe 8 (r.thread p).pcm) ++
    each (fun p n => natLe 4 (r.vreg p n).val.toNat) ++
    (List.range r.top).flatMap (fun n => natLe (r.width / 8) (bitList (ps.map (fun p => r.isFull p n)))) ++
    (List.range (r.top / 4)).flatMap (fun q => natLe (r.width / 8) (bitList (ps.map (fun p => r.vtag p (4 * q))))) ++
    each (fun p n => natLe 1 (((r.vreg p n).err.map (fun e => e.1.num)).getD 0)))

/-- The bytes of a team record (R394). -/
def teamLength (t : Team) (accum : Nat) : Nat :=
  64 + 1536 + 16 * 32 + (4 * 320 + 64 + 16 * 16) + 12 * 528 + 2048 * accum + (t.ranks.map Rank.recordLength).foldl (· + ·) 0

/-- A team record (R394). -/
def teamBytes (i : Nat) (l : Launch) (t : Team) : List Byte :=
  section_ i 64 (natLe 8 t.grid ++ natLe 4 t.number ++ natLe 1 (t.gangm.getD 0) ++ natLe 1 t.slot ++ natLe 4 l.kpar ++ natLe 1 t.layer ++ natLe 1 (t.ranks.length - 1) ++
      natLe 1 (if t.ctl.handler.isSome then 1 else 0) ++ natLe 8 (bitList (t.ranks.map (fun r => r.handler.isSome)))) ++
    ctlBytes i t.ctl ++ (List.range 16).flatMap (fun h => handleBytes i (t.handle h)) ++
    (List.range 4).flatMap (fun q => queueBytes i (t.queue q)) ++ (List.range 16).flatMap (fun f => natLe 4 (t.flag f).toNat) ++
    (List.range 16).flatMap (fun b => barBytes i (t.bar b)) ++ (List.range 12).flatMap (fun e => endBytes (t.endAt (e + 4))) ++
    (List.range l.accum).flatMap (fun n => tileRecord (tabGet Tile.zero t.tiles n)) ++ t.ranks.flatMap (rankBytes i)

/-! ## Matrix operations and the header -/

/-- A matrix operation's record: the issuing team's record index, its word, its maps, and its next K-chunk (R395). -/
def matBytes (i : Nat) (teams : List Team) (o : MatOp) : List Byte :=
  section_ i 64 (natLe 4 ((teams.findIdx? (fun t => t.uid == o.team)).getD 0) ++ natLe 8 o.word.toNat ++ natLe 16 o.mapA.toNat ++ natLe 16 o.mapB.toNat ++
    natLe 4 o.next)

/-- A pair's matrix operations not yet retired, in issue order per abacus (R395). -/
def Pair.mats (p : Pair) : List MatOp := p.abaci.flatMap (fun e => e.2.ops)

/-- The context header (R393). -/
def headerBytes (n slen : Nat) (c : Ctx) (teams : List Team) (pairs : Tab Pair) (digests : List Nat) : List Byte :=
  natLe 4 0x56415351 ++ natLe 4 1 ++ natLe 12 0 ++ natLe 4 n ++ natLe 4 teams.length ++ natLe 2 pairs.length ++
    natLe 2 (pairs.flatMap (fun e => e.2.mats)).length ++ natLe 8 c.haltReq ++ natLe 8 c.haltAt ++ natLe 8 slen ++ natLe 8 c.ssbase ++
    natLe 64 0 ++ digests.flatMap (fun d => natLe 32 d)

/-- Everything after the header, in its order (R393). -/
def bodyBytes (i : Nat) (launch : Nat → Launch) (v : Saved) : List Byte :=
  v.pairs.flatMap (fun e => pairBytes e.1 e.2 i) ++ v.teams.flatMap (fun t => teamBytes i (launch t.grid) t) ++
    (v.pairs.flatMap (fun e => e.2.mats)).flatMap (matBytes i v.teams)

/-! ## Reading a pair record back -/

/-- The scratchpad bytes and granule bits of a saved pair as the save area holds them (R394, R396): `l` are the record's bytes from its
scratchpad on. -/
def Pair.reload (p : Pair) (l : List Byte) : Pair :=
  let x := Config.localStore - p.l1sz
  let gran (b : Byte) (g k : Nat) : Bool := b.getLsbD (4 * (g % 2) + k)
  let bits (k : Nat) : Tab Bool := ((l.drop x).take (x / 32)).zipIdx.foldl (fun t e =>
    tabPut false (tabPut false t (2 * e.2) (gran e.1 0 k)) (2 * e.2 + 1) (gran e.1 1 k)) []
  { p with pad := memPut [] 0 (l.take x), tags := bits 0, poison := bits 1 }

end Sys2Proof.Machine
end

