-- ==== Sys2Proof/Machine/Preempt.lean ====
section
/-! DEFINITION. Pre-emption, the save area, resume, LINK_LOST and the end of a parked context (spec/18 R391 to R396, spec/21 R448,
R454 to R456). -/

namespace Sys2Proof.Machine

/-! ## The halt -/

/-- What a wait is once pre-emption has halted it (R192, R194, R248, R392): a blocked pass issues again in full, while a barrier's arrival, a
deadline, a place in a convergence record, an owner's answer and a handler of the rank stay as they stand. -/
def Wait.halted (w : Wait) : Wait :=
  match w with
  | .join _ => w
  | .bar _ => w
  | .sleep _ => w
  | .owner _ => w
  | .withdrawn => w
  | .result _ => w
  | _ => .none

/-- A team halts at an instruction boundary (R392). -/
def Team.halt (t : Team) : Team :=
  { t with
    halted := true
    ctl := { t.ctl with wait := t.ctl.wait.halted }
    ranks := t.ranks.map (fun r => { r with splits := r.splits.map (fun x => { x with wait := x.wait.halted }) }) }

/-- The team belongs to a context. -/
def State.inCtx (s : State) (n uid : Nat) : Bool := s.teams.any (fun t => t.uid == uid && t.ctx == n)

/-- Stage 1 of a pre-emption (R391): the reckoner stops placing the context's grids and takes an unplaced gang's reservations back. -/
def State.askHalt (s : State) (n : Nat) (park : Bool) : State :=
  match s.ctx n with
  | none => s
  | some c =>
    let s := s.putCtx n { c with mode := .halting park, haltReq := s.gt }
    match s.reckoner.gang.bind (fun a => s.grid a.grid) with
    | some g => if g.ctx = n then s.releaseGang else s
    | none => s

/-- Stages 2 and 3 (R391, R392): every rod and control thread of the context halts; a claim leaves its list, and a DFREE that still
waits issues again. -/
def State.haltCtx (s : State) (n : Nat) (c : Ctx) : State :=
  let s := s.keepFrees (fun w => s.inCtx n w.team)
  let gone (t : Nat) : Bool := s.inCtx n t
  let rod (r : Rod) : Rod := { r with claims := r.claims.filter (fun q => !gone q.team) }
  let park := match c.mode with | .halting p => p | _ => true
  let s : State := { s with
    teams := s.teams.map (fun t => if t.ctx = n then t.halt else t)
    pairs := s.pairs.map (fun e => (e.1, { e.2 with rods := e.2.rods.map (fun r => (r.1, rod r.2)) })) }
  s.putCtx n { c with mode := .halted park, haltAt := s.gt }

/-- PREEMPT_REQUEST (R391): the request reaches every pair that holds the context. The service kernel may ask for a running context on
its own. -/
def State.preempt (s : State) (n : Nat) : State :=
  match s.ctx n with
  | none => s
  | some c => match c.mode with
    | .running => let s := s.askHalt n true
      match s.ctx n with
      | some c => s.haltCtx n c
      | none => s
    | .halting _ => s.haltCtx n c
    | _ => s

/-- PREEMPT_REQUEST. -/
def execPreemptRequest (ctx : Nat) (s : State) : Host.Outcome State Fault Refusal := answer (s.preempt ctx)

/-! ## The save area -/

/-- An access of a context is in flight, a deposit, an append, or a request inside an island (R391 stage 4). -/
def State.inFlight (s : State) (n : Nat) : Bool :=
  s.accesses.any (fun a => a.ctx == n) || s.appends.any (fun a => a.ctx == n) ||
    s.deposits.any (fun d => match s.grid d.grid with | some g => g.ctx == n | none => false) ||
    s.islands.any (fun i => i.2.reqs.any (fun r => s.inCtx n (r.stream / 16))) ||
    s.blends.any (fun b => b.2.modes.any (fun m => m.ctx == n) || b.2.held.any (fun r => r.ctx == n && r.reply.isSome))

/-- A blend request that has not committed goes back to its endpoint, ahead of the rest of its batch (R439). -/
def State.returnBlend (s : State) (r : BlendReq) : State :=
  match s.team (r.stream / 16) with
  | none => s
  | some t =>
    let e := t.endAt (r.stream % 16)
    s.putTeam (t.putEnd (r.stream % 16) { e with inside := e.inside - 1, batches := { r.src with left := 1, back := some r.id } :: e.batches })

/-- Every held request of a context goes back, the last first. -/
def State.returnBlends (s : State) (n : Nat) : State :=
  let mine := s.blends.flatMap (fun b => (b.2.held ++ b.2.splats).filter (fun r => r.ctx == n))
  let s := mine.reverse.foldl (fun s r => s.returnBlend r) s
  { s with blends := s.blends.map (fun b => (b.1, { b.2 with held := b.2.held.filter (fun r => r.ctx != n), splats := b.2.splats.filter (fun r => r.ctx != n) })) }

/-- A sector as it is saved (R75): F returns as U, W and WD as D. -/
def Sector.saved (x : Sector) : Sector :=
  match x.st with
  | .f => Sector.fresh
  | .w => { Sector.fresh with st := .d, dirty := x.dirty ||| x.flight }
  | .wd => { Sector.fresh with st := .d, dirty := x.dirty ||| x.flight }
  | _ => x

/-- A pair as it is saved (R374, R394, R396): no lease, no timing. -/
def Pair.saved (p : Pair) : Pair :=
  { p with
    sectors := p.sectors.foldl (fun t e => tabPut Sector.fresh t e.1 e.2.saved) []
    rods := []
    abaci := p.abaci.map (fun e => (e.1, { e.2 with holder := none, last := 0, ready := none })) }

/-- A team as it is saved (R374): LC is 0, and nothing of the timing stays. -/
def Team.saved (t : Team) : Team := { t with lc := 0, leaseP := false, ctl := { t.ctl with readyAt := [] } }

/-- Writes a run of bytes by sectors, with the largest W (R111). -/
def State.writeRun (s : State) (pa : Nat) (bytes : List Byte) : Nat → Nat × State
  | 0 => (0, s)
  | n + 1 =>
    if bytes.isEmpty then (0, s)
    else
      let k := 256 - pa % 256
      let (w, s) := s.writeDev pa 0 (bytes.take k)
      let (v, s) := s.writeRun (pa + k) (bytes.drop k) n
      (max w v, s)

/-- The SAVE_CONTEXT that waits for a context's save area, with its window (R448). -/
def State.saveCmd (s : State) (n : Nat) : Option (Nat × Command) :=
  s.windows.findSome? (fun w => match w.2.cmd with
    | some c => if c.cmd = 0x0B ∧ c.begun ∧ c.status = none ∧ c.field 8 2 = n then some (w.1, c) else none
    | none => none)

/-- The context issues again, as it stood (R396, R448). -/
def State.unhalt (s : State) (n : Nat) (c : Ctx) : State :=
  let s : State := { s with teams := s.teams.map (fun t => if t.ctx = n then { t with halted := false } else t) }
  s.putCtx n { c with mode := .running }

/-- The context leaves the device: its locked pages and leases are given up, its pairs are free (R55, R374, R391 stage 6). -/
def State.takeOff (s : State) (n : Nat) (c : Ctx) (v : Saved) (park : Bool) : State :=
  let s := v.teams.foldl (fun s t => s.unlockTeam t.uid) s
  let mine (p : Nat) : Bool := v.pairs.any (fun e => e.1 == p)
  let s : State := { s with
    teams := s.teams.filter (fun t => t.ctx != n)
    ops := s.ops.filter (fun o => !v.ops.any (fun q => q.id == o.id))
    faults := s.faults.filter (fun r => match r.sector with | some (p, _) => !mine p | none => true)
    copies := s.copies.filter (fun (q : Copy) => match q.holder with | .l1 p => !mine p | _ => true)
    pairs := v.pairs.foldl (fun t e => tabPut Pair.idle t e.1 { Pair.idle with lastCtx := e.2.lastCtx }) s.pairs }
  s.putCtx n { c with mode := (if park then CtxMode.parked else CtxMode.saved), saved := some v }

/-- What is saved of a context that has halted (R394, R395): every operation still in flight is recorded with its prefix (R140)
(DESIGN CHOICE, log 38). -/
def State.savedPart (s : State) (n area : Nat) : Saved :=
  { area := area
    teams := (s.teams.filter (fun t => t.ctx == n)).map Team.saved
    pairs := (s.pairs.filter (fun e => match e.2.grid.bind s.grid with | some g => g.ctx == n | none => false)).map (fun e => (e.1, e.2.saved))
    ops := (s.ops.filter (fun o => decide (o.window = none) && o.ctx == n)).map (fun o => { o with started := false, ahead := [] })
    digests := (List.range 4).map (fun k => (s.imageDigest n k).getD 0) }

/-- An operation that is recorded stops as HCANCEL would stop it: units beyond its prefix may have been written (R129, R140). -/
def State.recordOps (s : State) (n : Nat) : State :=
  (s.ops.filter (fun o => decide (o.window = none) && o.ctx == n && o.kind.isCopy && decide (o.status = none) && o.started)).foldl
    (fun s o => s.strayUnits o o.done (o.total - o.done)) s

/-- SAVE_AREA_WRITE (R391 stages 4 to 6, R393 to R395): once the context has halted and its work in flight has landed. Without a
SAVE_CONTEXT the area is the service kernel's own, which no rule places (DESIGN CHOICE, log 38) (DEDUCED, log 57). -/
def State.saveArea (s : State) (n : Nat) : State :=
  match s.ctx n with
  | none => s
  | some c => match c.mode with
    | .halted park =>
      if s.inFlight n then s
      else
        let s := (s.returnBlends n).recordOps n
        let (i, s) := s.newFree
        match s.saveCmd n with
        | none => s.takeOff n c (s.savedPart n 0) park
        | some (win, cmd) =>
          let area := cmd.field 16 8
          let v := s.savedPart n area
          let body := bodyBytes i (fun g => ((s.grid g).map (fun g => g.launch)).getD (launchValues 0)) v
          let slen := 256 + body.length
          if cmd.field 24 8 < slen then
            let (w, s) := s.writeRun area (headerBytes n 256 c v.teams v.pairs v.digests) 3
            (s.unhalt n c).endCmd win { cmd with wmax := w, aux := 256 } 0x0A
          else
            let (w, s) := s.writeRun area (headerBytes n slen c v.teams v.pairs v.digests ++ body) (slen + 1)
            (s.takeOff n c v park).endCmd win { cmd with wmax := w, aux := slen } 0
    | _ => s

/-- SAVE_AREA_WRITE. -/
def execSaveAreaWrite (ctx : Nat) (s : State) : Host.Outcome State Fault Refusal := answer (s.saveArea ctx)

/-- SAVE_CONTEXT (R391, R448): it asks for the halt; SAVE_AREA_WRITE ends it. -/
def State.saveContext (s : State) (win : Nat) : State :=
  s.runCmd win 0x0B (fun c => c.reserved [(8, 2), (16, 8), (24, 8)] || decide (255 < c.field 8 2)) (fun s c =>
    match s.ctx (c.field 8 2) with
    | none => s.endCmd win c 3
    | some x => if x.mode = .running then (s.askHalt (c.field 8 2) false).putCmd win { c with begun := true } else s)

/-- SAVE_CONTEXT. -/
def execSaveContext (win : Nat) (s : State) : Host.Outcome State Fault Refusal := answer (s.saveContext win)

/-! ## Resume -/

/-- Pairs of a saved context that move together: those of a gang in one cluster, or one pair (R396). -/
def State.saveGroups (s : State) (v : Saved) : List (List Nat) :=
  let gang (e : Nat × Pair) : Option Nat := match e.2.grid.bind s.grid with
    | some g => if g.launch.gang = 0 then none else some (clusterOf e.1)
    | none => none
  let keys := (v.pairs.filterMap gang).eraseDups
  keys.map (fun k => (v.pairs.filter (fun e => decide (gang e = some k))).map (fun e => e.1)) ++
    (v.pairs.filter (fun e => decide (gang e = none))).map (fun e => [e.1])

/-- A pair that is free for a context to return to (R360, R412). -/
def State.pairFree (s : State) (n p : Nat) : Bool := decide ((s.pair p).grid = none) && (s.teamsOn p).isEmpty && s.imagesFit p n

/-- Places where a group of pairs may go (R396): each moves by whole clusters when there is more than one (DESIGN CHOICE, log 39). -/
def State.groupSpots (s : State) (n : Nat) (used : List Nat) (l : List Nat) (whole : Bool) : List (List (Nat × Nat)) :=
  let free (p : Nat) : Bool := s.pairFree n p && !used.any (fun q => q == p)
  if whole then ((List.range 64).map (fun c => l.map (fun p => (p, 4 * c + p % 4)))).filter (fun m => m.all (fun e => free e.2))
  else ((List.range 256).map (fun q => l.map (fun p => (p, q)))).filter (fun m => m.all (fun e => free e.2))

/-- A pair for every saved pair, each group's an open choice among those that fit; none when one fits nowhere (DESIGN CHOICE, log 39). -/
def State.choosePairs (s : State) (n : Nat) : List (List Nat × Bool) → List (Nat × Nat) → State × Option (List (Nat × Nat))
  | [], acc => (s, some acc)
  | (l, whole) :: rest, acc =>
    match s.groupSpots n (acc.map (fun e => e.2)) l whole with
    | [] => (s, none)
    | m :: ms =>
      let (i, s) := s.newFree
      let pick := ((m :: ms)[Config.freeNat i % (ms.length + 1)]?).getD m
      s.choosePairs n rest (acc ++ pick)

/-- Where a saved pair goes. -/
def movedTo (l : List (Nat × Nat)) (p : Nat) : Nat := ((l.find? (fun e => e.1 == p)).map (fun e => e.2)).getD p

/-- A piece follows the pair that holds its home. -/
def Piece.moved (f : Nat → Nat) (p : Piece) : Piece :=
  match p.home with
  | .pad q off => { p with home := .pad (f q) off }
  | _ => p

/-- A matrix operation follows its pair. -/
def MatOp.moved (f : Nat → Nat) (o : MatOp) : MatOp := { o with rows := o.rows.map (fun l => l.map (Piece.moved f)), scales := o.scales.map (Piece.moved f) }

/-- The islands that serve a pair reload the context's images where their current digest differs from IDIG; an image is verified again
against its digest (R396). -/
def State.reload (s : State) (pair ctx : Nat) (idig : List Nat) : State :=
  (islandsOf pair).foldl (fun s e =>
    let i := s.island (islandKey e.1 e.2)
    let want := (idig[e.1]?).getD 0
    let mine := ((s.ctx ctx).bind (fun c => tabGet none c.images e.1)).filter (fun m => m.digest == want)
    if (i.image.map (fun m => m.digest)).getD 0 = want then s else s.putIsland (islandKey e.1 e.2) { i with image := mine }) s

/-- The scratchpads of a saved context as its save area holds them, read by a service core; `at_` is the next pair record (R394, R396). -/
def State.readPairs (s : State) (core : Nat) : Nat → Tab Pair → State × Tab Pair
  | _, [] => (s, [])
  | at_, (n, p) :: rest =>
    let x := Config.localStore - p.l1sz
    let (s, l) := s.svcRead core (at_ + 64) (x + x / 32)
    let (s, l') := s.readPairs core (at_ + p.recordLength) rest
    (s, (n, p.reload l) :: l')

/-- A range lock of a pair that returns as another one: ICOL is the issuing pair's column there (R141). -/
def RangeLock.moved (f : Nat → Nat) (pair : Nat) (r : RangeLock) : RangeLock := { r with icol := f (4 * clusterOf pair + r.icol) % 4 }

/-- Puts a saved context back on the device (R396): every section is restored, islands hold its images, recorded work is issued again,
and every split and control thread is ready (DEDUCED, log 57). -/
def State.putBack (s : State) (n : Nat) (c : Ctx) (v : Saved) (l : List (Nat × Nat)) : State :=
  let f := movedTo l
  let s := l.foldl (fun s e => s.reload e.2 n v.digests) s
  let frozen (o : EngOp) : Bool := tabGet false s.engines (clusterOf (f o.pair))
  let pair (n : Nat) (p : Pair) : Pair :=
    { p with
      abaci := p.abaci.map (fun a => (a.1, { a.2 with ops := a.2.ops.map (MatOp.moved f) }))
      locks := p.locks.map (fun e => (e.1, e.2.map (RangeLock.moved f n))) }
  let op (o : EngOp) : EngOp :=
    { o with
      pair := f o.pair
      unit := clusterOf (f o.pair)
      status := if frozen o && o.kind.isCopy && decide (o.status = none) then some 8 else o.status }
  let s : State := { s with
    filters := l.foldl (fun t e => tabPut [] (tabPut [] t (2 * e.2) []) (2 * e.2 + 1) []) s.filters
    pairs := v.pairs.foldl (fun t e => tabPut Pair.idle t (f e.1) (pair e.1 e.2)) s.pairs
    teams := s.teams ++ v.teams.map (fun t => { t with pair := f t.pair, halted := false, ctl := { t.ctl with earliest := s.gt } })
    ops := s.ops ++ v.ops.map op
    grids := s.grids.map (fun g => match g.donew with
      | some (space, p, a) => if g.ctx = n then { g with donew := some (space, f p, a) } else g
      | none => g) }
  s.putCtx n { c with mode := .running, saved := none, grace := none }

/-- RESUME (R396, R448, R456): refused on another token, or for a context that is not saved or parked; it waits until the context fits. -/
def State.resumeCmd (s : State) (win : Nat) : State :=
  s.runCmd win 0x0C (fun c => c.reserved [(8, 2), (16, 8), (24, 8)] || decide (255 < c.field 8 2)) (fun s c =>
    let n := c.field 8 2
    match s.ctx n with
    | none => s.endCmd win c 0x0B
    | some x =>
      let parked := decide (x.mode = .parked)
      match x.saved with
      | none => s.endCmd win c 0x0B
      | some v =>
        if !(parked || decide (x.mode = .saved)) || x.token.toNat != c.field 24 8 || parked != (c.field 16 8 == 0) then s.endCmd win c 0x0B
        else
          let groups := (s.saveGroups v).map (fun l => (l, match l with
            | p :: _ => (match (v.pairs.find? (fun e => e.1 == p)).bind (fun e => e.2.grid.bind s.grid) with | some g => g.launch.gang != 0 | none => false)
            | [] => false))
          match s.choosePairs n groups [] with
          | (_, none) => s
          | (s', some l) =>
            let (s', pairs) := if parked then (s', v.pairs) else s'.readPairs (s.window win).core (c.field 16 8 + 256) v.pairs
            (s'.putBack n x { v with pairs := pairs } l).endCmd win c 0)

/-- RESUME. -/
def execResume (win : Nat) (s : State) : Host.Outcome State Fault Refusal := answer (s.resumeCmd win)

/-! ## LINK_LOST -/

/-- What a lost port does to a piece of an access that waits for it: a posted write is dropped, a read fails with open bytes. -/
def Piece.lost (port now i : Nat) (writes : Bool) (p : Piece) : Piece :=
  match p.home with
  | .host q _ =>
    if q ≠ port ∨ p.done then p
    else if writes then { p with done := true, time := now }
    else { p with done := true, time := now, data := openBytes i 0 p.len }
  | _ => p

/-- The posted writes that wait in a port. -/
def State.posted (s : State) (port : Nat) : Nat :=
  (s.accesses.map (fun a => if a.kind.writes then (a.pieces.filter (fun p => match p.home with | .host q _ => q == port && !p.done | _ => false)).length else 0)).foldl
    (· + ·) 0

/-- The contexts bound to a window of a port (R455). -/
def State.portCtxs (s : State) (port : Nat) : List Nat := (s.windows.filterMap (fun w => if w.2.port = port then w.2.ctx else none)).eraseDups

/-- LINK_LOST (R454, R455): posted writes are dropped and counted, reads of host memory fail, and every context of the port is asked to
halt and park; its grace period starts (DEDUCED, log 7). -/
def State.linkLost (s : State) (port : Nat) : State :=
  let p := s.port port
  if !s.lit port || decide (p.state ≠ .hold) || decide (s.gt < p.lostAt + Config.holdTicks) then s
  else
    let (i, s) := s.newFree
    let s := s.putPort port { p with state := .lost, dropped := p.dropped + s.posted port }
    let s : State := { s with accesses := s.accesses.map (fun a => { a with pieces := a.pieces.map (Piece.lost port s.gt i a.kind.writes) }) }
    (s.portCtxs port).foldl (fun (s : State) n => match s.ctx n with
      | some c => if c.mode = CtxMode.running then (s.putCtx n { c with grace := some (s.gt + s.board.grace * 1500000) }).askHalt n true else s
      | none => s) s

/-- LINK_LOST. -/
def execLinkLost (port : Nat) (s : State) : Host.Outcome State Fault Refusal := answer (s.linkLost port)

/-- Tears a context down (R454): what it kept is gone, its grids and faults with it, and no window holds it. -/
def State.tearDown (s : State) (n : Nat) : State :=
  { s with
    ctxs := tabPut none s.ctxs n none
    grids := s.grids.filter (fun g => g.ctx != n)
    reckoner := { s.reckoner with queues := s.reckoner.queues.foldl (fun t e =>
      tabPut [] t e.1 (e.2.filter (fun id => match s.grid id with | some g => g.ctx != n | none => false))) [] }
    faults := s.faults.filter (fun r => r.ctx != n)
    invalidates := s.invalidates.filter (fun v => v.ctx != n)
    tlbs := s.tlbs.foldl (fun t e => tabPut [] t e.1 (e.2.filter (fun x => x.ctx != n))) []
    clusterTlbs := s.clusterTlbs.foldl (fun t e => tabPut [] t e.1 (e.2.filter (fun x => x.ctx != n))) []
    blends := s.blends.map (fun b => (b.1, { b.2 with pixels := b.2.pixels.filter (fun p => p.ctx != n) }))
    windows := s.windows.map (fun w => (w.1, if w.2.ctx = some n then { w.2 with ctx := none } else w.2)) }

/-- GRACE_EXPIRE (R454): the context is torn down; its commands end with NO_CONTEXT. -/
def State.graceExpire (s : State) (n : Nat) : State :=
  match s.ctx n with
  | none => s
  | some c => match c.grace with
    | none => s
    | some d => if s.gt < d ∨ c.mode ≠ .parked then s else s.tearDown n

/-- GRACE_EXPIRE. -/
def execGraceExpire (ctx : Nat) (s : State) : Host.Outcome State Fault Refusal := answer (s.graceExpire ctx)

end Sys2Proof.Machine
end

