-- ==== Sys2Proof/Machine/Dispatch.lean ====
section
/-! DEFINITION. exec: one arm for each instruction, command and event, each one direct call of its meaning. -/

namespace Sys2Proof.Machine

/-- What an instruction does. -/
def exec (i : Instr) (s : State) : Host.Outcome State Fault Refusal :=
  match i with
  | .nop w => Sys2Proof.Machine.execNop w s
  | .pFormPair w => Sys2Proof.Machine.execPFormPair w s
  | .iadd w => Sys2Proof.Machine.execIadd w s
  | .isub w => Sys2Proof.Machine.execIsub w s
  | .imul w => Sys2Proof.Machine.execImul w s
  | .imulh w => Sys2Proof.Machine.execImulh w s
  | .imad w => Sys2Proof.Machine.execImad w s
  | .iaddc w => Sys2Proof.Machine.execIaddc w s
  | .imin w => Sys2Proof.Machine.execImin w s
  | .imax w => Sys2Proof.Machine.execImax w s
  | .iabs w => Sys2Proof.Machine.execIabs w s
  | .and w => Sys2Proof.Machine.execAnd w s
  | .or w => Sys2Proof.Machine.execOr w s
  | .xor w => Sys2Proof.Machine.execXor w s
  | .andn w => Sys2Proof.Machine.execAndn w s
  | .shl w => Sys2Proof.Machine.execShl w s
  | .shr w => Sys2Proof.Machine.execShr w s
  | .sar w => Sys2Proof.Machine.execSar w s
  | .rotl w => Sys2Proof.Machine.execRotl w s
  | .bfx w => Sys2Proof.Machine.execBfx w s
  | .bfi w => Sys2Proof.Machine.execBfi w s
  | .popc w => Sys2Proof.Machine.execPopc w s
  | .clz w => Sys2Proof.Machine.execClz w s
  | .ctz w => Sys2Proof.Machine.execCtz w s
  | .brev w => Sys2Proof.Machine.execBrev w s
  | .perm w => Sys2Proof.Machine.execPerm w s
  | .sel w => Sys2Proof.Machine.execSel w s
  | .icmp w => Sys2Proof.Machine.execIcmp w s
  | .mov w => Sys2Proof.Machine.execMov w s
  | .li w => Sys2Proof.Machine.execLi w s
  | .iadd64 w => Sys2Proof.Machine.execIadd64 w s
  | .isub64 w => Sys2Proof.Machine.execIsub64 w s
  | .imad64 w => Sys2Proof.Machine.execImad64 w s
  | .shl64 w => Sys2Proof.Machine.execShl64 w s
  | .shr64 w => Sys2Proof.Machine.execShr64 w s
  | .sar64 w => Sys2Proof.Machine.execSar64 w s
  | .icmp64 w => Sys2Proof.Machine.execIcmp64 w s
  | .mov64 w => Sys2Proof.Machine.execMov64 w s
  | .cderive w => Sys2Proof.Machine.execCderive w s
  | .caim w => Sys2Proof.Machine.execCaim w s
  | .cstep w => Sys2Proof.Machine.execCstep w s
  | .cfloor w => Sys2Proof.Machine.execCfloor w s
  | .cspan w => Sys2Proof.Machine.execCspan w s
  | .cwhere w => Sys2Proof.Machine.execCwhere w s
  | .cnarrow w => Sys2Proof.Machine.execCnarrow w s
  | .cprobe w => Sys2Proof.Machine.execCprobe w s
  | .ckind w => Sys2Proof.Machine.execCkind w s
  | .fadd w => Sys2Proof.Machine.execFadd w s
  | .fsub w => Sys2Proof.Machine.execFsub w s
  | .fmul w => Sys2Proof.Machine.execFmul w s
  | .ffma w => Sys2Proof.Machine.execFfma w s
  | .ffms w => Sys2Proof.Machine.execFfms w s
  | .fnma w => Sys2Proof.Machine.execFnma w s
  | .fmin w => Sys2Proof.Machine.execFmin w s
  | .fmax w => Sys2Proof.Machine.execFmax w s
  | .fcmp w => Sys2Proof.Machine.execFcmp w s
  | .frnd w => Sys2Proof.Machine.execFrnd w s
  | .ffrac w => Sys2Proof.Machine.execFfrac w s
  | .fclass w => Sys2Proof.Machine.execFclass w s
  | .frcp w => Sys2Proof.Machine.execFrcp w s
  | .frsq w => Sys2Proof.Machine.execFrsq w s
  | .fsqrt w => Sys2Proof.Machine.execFsqrt w s
  | .fex2 w => Sys2Proof.Machine.execFex2 w s
  | .flg2 w => Sys2Proof.Machine.execFlg2 w s
  | .fsin w => Sys2Proof.Machine.execFsin w s
  | .fcos w => Sys2Proof.Machine.execFcos w s
  | .hadd2 w => Sys2Proof.Machine.execHadd2 w s
  | .hsub2 w => Sys2Proof.Machine.execHsub2 w s
  | .hmul2 w => Sys2Proof.Machine.execHmul2 w s
  | .hfma2 w => Sys2Proof.Machine.execHfma2 w s
  | .hmin2 w => Sys2Proof.Machine.execHmin2 w s
  | .hmax2 w => Sys2Proof.Machine.execHmax2 w s
  | .hcmp2 w => Sys2Proof.Machine.execHcmp2 w s
  | .dadd w => Sys2Proof.Machine.execDadd w s
  | .dmul w => Sys2Proof.Machine.execDmul w s
  | .dfma w => Sys2Proof.Machine.execDfma w s
  | .dcmp w => Sys2Proof.Machine.execDcmp w s
  | .cvt w => Sys2Proof.Machine.execCvt w s
  | .cvtn w => Sys2Proof.Machine.execCvtn w s
  | .cvtw w => Sys2Proof.Machine.execCvtw w s
  | .dot4 w => Sys2Proof.Machine.execDot4 w s
  | .dot8 w => Sys2Proof.Machine.execDot8 w s
  | .dot2h w => Sys2Proof.Machine.execDot2h w s
  | .ffma4 w x => Sys2Proof.Machine.execFfma4 w x s
  | .shfl w => Sys2Proof.Machine.execShfl w s
  | .shflx w => Sys2Proof.Machine.execShflx w s
  | .shflup w => Sys2Proof.Machine.execShflup w s
  | .shfldn w => Sys2Proof.Machine.execShfldn w s
  | .ballot w => Sys2Proof.Machine.execBallot w s
  | .vote w => Sys2Proof.Machine.execVote w s
  | .red w => Sys2Proof.Machine.execRed w s
  | .scan w => Sys2Proof.Machine.execScan w s
  | .matchv w => Sys2Proof.Machine.execMatchv w s
  | .elect w => Sys2Proof.Machine.execElect w s
  | .ddx w => Sys2Proof.Machine.execDdx w s
  | .ddy w => Sys2Proof.Machine.execDdy w s
  | .rduni w => Sys2Proof.Machine.execRduni w s
  | .rclaim w => Sys2Proof.Machine.execRclaim w s
  | .rclaimt w => Sys2Proof.Machine.execRclaimt w s
  | .rrelease w => Sys2Proof.Machine.execRrelease w s
  | .rshare w => Sys2Proof.Machine.execRshare w s
  | .runshare w => Sys2Proof.Machine.execRunshare w s
  | .deposit w => Sys2Proof.Machine.execDeposit w s
  | .rmark w => Sys2Proof.Machine.execRmark w s
  | .rarriv w => Sys2Proof.Machine.execRarriv w s
  | .ld w => Sys2Proof.Machine.execLd w s
  | .st w => Sys2Proof.Machine.execSt w s
  | .ldf w => Sys2Proof.Machine.execLdf w s
  | .stf w => Sys2Proof.Machine.execStf w s
  | .stcmp w => Sys2Proof.Machine.execStcmp w s
  | .ldexp w => Sys2Proof.Machine.execLdexp w s
  | .atom w => Sys2Proof.Machine.execAtom w s
  | .ldcap w => Sys2Proof.Machine.execLdcap w s
  | .stcap w => Sys2Proof.Machine.execStcap w s
  | .sample w => Sys2Proof.Machine.execSample w s
  | .fetch w => Sys2Proof.Machine.execFetch w s
  | .rquery w => Sys2Proof.Machine.execRquery w s
  | .trace w => Sys2Proof.Machine.execTrace w s
  | .pref w => Sys2Proof.Machine.execPref w s
  | .fence w => Sys2Proof.Machine.execFence w s
  | .spwb w => Sys2Proof.Machine.execSpwb w s
  | .dalloc w => Sys2Proof.Machine.execDalloc w s
  | .dfree w => Sys2Proof.Machine.execDfree w s
  | .bra w => Sys2Proof.Machine.execBra w s
  | .brai w => Sys2Proof.Machine.execBrai w s
  | .call w => Sys2Proof.Machine.execCall w s
  | .calli w => Sys2Proof.Machine.execCalli w s
  | .ret w => Sys2Proof.Machine.execRet w s
  | .retH w => Sys2Proof.Machine.execRetH w s
  | .join w => Sys2Proof.Machine.execJoin w s
  | .yield w => Sys2Proof.Machine.execYield w s
  | .exit w => Sys2Proof.Machine.execExit w s
  | .bar w => Sys2Proof.Machine.execBar w s
  | .flagadd w => Sys2Proof.Machine.execFlagadd w s
  | .flagwait w => Sys2Proof.Machine.execFlagwait w s
  | .qpush w => Sys2Proof.Machine.execQpush w s
  | .qpop w => Sys2Proof.Machine.execQpop w s
  | .trap w => Sys2Proof.Machine.execTrap w s
  | .brk w => Sys2Proof.Machine.execBrk w s
  | .sleep w => Sys2Proof.Machine.execSleep w s
  | .rdsys w => Sys2Proof.Machine.execRdsys w s
  | .wrsys w => Sys2Proof.Machine.execWrsys w s
  | .cpy w => Sys2Proof.Machine.execCpy w s
  | .cpyg w => Sys2Proof.Machine.execCpyg w s
  | .cpys w => Sys2Proof.Machine.execCpys w s
  | .hwait w => Sys2Proof.Machine.execHwait w s
  | .htest w => Sys2Proof.Machine.execHtest w s
  | .hcancel w => Sys2Proof.Machine.execHcancel w s
  | .ringinit w => Sys2Proof.Machine.execRinginit w s
  | .rwait w => Sys2Proof.Machine.execRwait w s
  | .rfree w => Sys2Proof.Machine.execRfree w s
  | .macq w => Sys2Proof.Machine.execMacq w s
  | .mrel w => Sys2Proof.Machine.execMrel w s
  | .mzero w => Sys2Proof.Machine.execMzero w s
  | .mma w => Sys2Proof.Machine.execMma w s
  | .mmag w => Sys2Proof.Machine.execMmag w s
  | .mload w => Sys2Proof.Machine.execMload w s
  | .mstore w => Sys2Proof.Machine.execMstore w s
  | .mstoreg w => Sys2Proof.Machine.execMstoreg w s
  | .amaxstep w => Sys2Proof.Machine.execAmaxstep w s
  | .ireq w => Sys2Proof.Machine.execIreq w s
  | .ireqUnb w => Sys2Proof.Machine.execIreqUnb w s
  | .beam w => Sys2Proof.Machine.execBeam w s
  | .launch w => Sys2Proof.Machine.execLaunch w s
  | .tlblock w => Sys2Proof.Machine.execTlblock w s
  | .tlbunlock w => Sys2Proof.Machine.execTlbunlock w s
  | .cpin w => Sys2Proof.Machine.execCpin w s
  | .launchGrid win => Sys2Proof.Machine.execLaunchGrid win s
  | .setContext win => Sys2Proof.Machine.execSetContext win s
  | .loadImage win => Sys2Proof.Machine.execLoadImage win s
  | .writeValue win => Sys2Proof.Machine.execWriteValue win s
  | .waitValue win => Sys2Proof.Machine.execWaitValue win s
  | .copy win => Sys2Proof.Machine.execCopy win s
  | .decompress win => Sys2Proof.Machine.execDecompress win s
  | .partition win => Sys2Proof.Machine.execPartition win s
  | .pin win => Sys2Proof.Machine.execPin win s
  | .latencyTolerance win => Sys2Proof.Machine.execLatencyTolerance win s
  | .saveContext win => Sys2Proof.Machine.execSaveContext win s
  | .resume win => Sys2Proof.Machine.execResume win s
  | .waitValueTimeout win => Sys2Proof.Machine.execWaitValueTimeout win s
  | .windowEntryWrite svc off size value => Sys2Proof.Machine.execWindowEntryWrite svc off size value s
  | .bar0RegisterWrite off size value => Sys2Proof.Machine.execBar0RegisterWrite off size value s
  | .sealAccept win => Sys2Proof.Machine.execSealAccept win s
  | .commandComplete win => Sys2Proof.Machine.execCommandComplete win s
  | .hostMemRead port pa len => Sys2Proof.Machine.execHostMemRead port pa len s
  | .hostMemWrite port pa data => Sys2Proof.Machine.execHostMemWrite port pa data s
  | .hostAtomic port pa size kind value compare => Sys2Proof.Machine.execHostAtomic port pa size kind value compare s
  | .teamPlace => Sys2Proof.Machine.execTeamPlace s
  | .gangReserve => Sys2Proof.Machine.execGangReserve s
  | .gangCommit => Sys2Proof.Machine.execGangCommit s
  | .reckonerFailover => Sys2Proof.Machine.execReckonerFailover s
  | .teamEnd team => Sys2Proof.Machine.execTeamEnd team s
  | .pairIdle pair => Sys2Proof.Machine.execPairIdle pair s
  | .gridRetire grid => Sys2Proof.Machine.execGridRetire grid s
  | .childDoneWrite grid => Sys2Proof.Machine.execChildDoneWrite grid s
  | .loadResultReturn access => Sys2Proof.Machine.execLoadResultReturn access s
  | .storeAck access => Sys2Proof.Machine.execStoreAck access s
  | .homeWriteApply access piece => Sys2Proof.Machine.execHomeWriteApply access piece s
  | .homeLoadServe access piece data => Sys2Proof.Machine.execHomeLoadServe access piece data s
  | .sectorFillComplete pair sector => Sys2Proof.Machine.execSectorFillComplete pair sector s
  | .writebackComplete pair sector => Sys2Proof.Machine.execWritebackComplete pair sector s
  | .ownerFault fault => Sys2Proof.Machine.execOwnerFault fault s
  | .faultRestart fault writes => Sys2Proof.Machine.execFaultRestart fault writes s
  | .faultDecline fault => Sys2Proof.Machine.execFaultDecline fault s
  | .tlbInvalidate ctx region page pages moves writes => Sys2Proof.Machine.execTlbInvalidate ctx region page pages moves writes s
  | .invalidateComplete request => Sys2Proof.Machine.execInvalidateComplete request s
  | .gridEnd grid => Sys2Proof.Machine.execGridEnd grid s
  | .masterReset kind unit => Sys2Proof.Machine.execMasterReset kind unit s
  | .abacusHangReset pair layer => Sys2Proof.Machine.execAbacusHangReset pair layer s
  | .matrixResetDeliver team => Sys2Proof.Machine.execMatrixResetDeliver team s
  | .abacusLeaseGrant pair => Sys2Proof.Machine.execAbacusLeaseGrant pair s
  | .abacusChunk pair layer => Sys2Proof.Machine.execAbacusChunk pair layer s
  | .watchdogExpire pair rod => Sys2Proof.Machine.execWatchdogExpire pair rod s
  | .sleepWake a => Sys2Proof.Machine.execSleepWake a s
  | .depositArrive deposit => Sys2Proof.Machine.execDepositArrive deposit s
  | .ifetchFill a => Sys2Proof.Machine.execIfetchFill a s
  | .engineOpStart op => Sys2Proof.Machine.execEngineOpStart op s
  | .engineWriteAck op units => Sys2Proof.Machine.execEngineWriteAck op units s
  | .handleResolve op => Sys2Proof.Machine.execHandleResolve op s
  | .ringSlotClaim op => Sys2Proof.Machine.execRingSlotClaim op s
  | .remainderAppend append => Sys2Proof.Machine.execRemainderAppend append s
  | .islandRequestAccept kind unit stream => Sys2Proof.Machine.execIslandRequestAccept kind unit stream s
  | .islandResponse kind unit => Sys2Proof.Machine.execIslandResponse kind unit s
  | .islandConfigError kind unit => Sys2Proof.Machine.execIslandConfigError kind unit s
  | .blendCommit cluster request => Sys2Proof.Machine.execBlendCommit cluster request s
  | .blockModeWrite cluster => Sys2Proof.Machine.execBlockModeWrite cluster s
  | .splatSortRelease cluster slot tile => Sys2Proof.Machine.execSplatSortRelease cluster slot tile s
  | .mailboxSend source target message => Sys2Proof.Machine.execMailboxSend source target message s
  | .preemptRequest ctx => Sys2Proof.Machine.execPreemptRequest ctx s
  | .saveAreaWrite ctx => Sys2Proof.Machine.execSaveAreaWrite ctx s
  | .linkLockLost port => Sys2Proof.Machine.execLinkLockLost port s
  | .linkLockRegained port => Sys2Proof.Machine.execLinkLockRegained port s
  | .linkLost port => Sys2Proof.Machine.execLinkLost port s
  | .trainingComplete port => Sys2Proof.Machine.execTrainingComplete port s
  | .graceExpire ctx => Sys2Proof.Machine.execGraceExpire ctx s
  | .flitReceive port crcOk replayOk body => Sys2Proof.Machine.execFlitReceive port crcOk replayOk body s
  | .granuleIdleFlush port => Sys2Proof.Machine.execGranuleIdleFlush port s
  | .powerStateEnter unit level => Sys2Proof.Machine.execPowerStateEnter unit level s
  | .powerWake unit => Sys2Proof.Machine.execPowerWake unit s
  | .powerIssueHold pair rod cycles => Sys2Proof.Machine.execPowerIssueHold pair rod cycles s
  | .deviceReset boot => Sys2Proof.Machine.execDeviceReset boot s
  | .fencePassComplete a => Sys2Proof.Machine.execFencePassComplete a s
  | .unassignedOpcodeWord w => Sys2Proof.Machine.execUnassignedOpcodeWord w s
  | .debuggerResume fault pc => Sys2Proof.Machine.execDebuggerResume fault pc s
  | .powerExitComplete unit => Sys2Proof.Machine.execPowerExitComplete unit s
  | .wavelengthRetrained port wavelength restored => Sys2Proof.Machine.execWavelengthRetrained port wavelength restored s

end Sys2Proof.Machine
end

