-- ==== Sys2Proof/Machine/Upsets.lean ====
section
/-! DEFINITION. What comes from outside the table of events: the service kernel's switches (spec/05 R122, spec/18 R384), and storage that
fails when it is read (spec/18 R397 to R399). -/

namespace Sys2Proof.Machine

/-- The service kernel acts. Without the debug switch a slice keeps no sizes (R122). -/
def State.kernelAct (s : State) (a : KernelAct) : State :=
  match a with
  | .debugSwitch n on => if 8 ≤ n then s else s.modSlice n (fun c => { c with debug := on, words := if on then c.words else [] })
  | .debugger n on =>
    match s.ctx n with
    | some c => { s with ctxs := tabPut none s.ctxs n (some { c with debugger := on }) }
    | none => s

/-- The pair whose storage it is, of a team. -/
def State.teamPair (s : State) (uid : Nat) : Nat := ((s.team uid).map (fun t => t.pair)).getD 0

/-- The slice whose error log counts it, and the unit there: the kind of storage and the pair or island that has it (DEDUCED, log 60). -/
def State.upsetUnit (s : State) (u : Upset) : Nat × Nat :=
  match u with
  | .sector n => (sliceOf (n / 16), 0)
  | .granule p _ => (stackOf p, 1024 + p)
  | .vreg t _ _ _ => (stackOf (s.teamPair t), 2048 + s.teamPair t)
  | .kreg t _ _ => (stackOf (s.teamPair t), 2048 + s.teamPair t)
  | .ctl t _ => (stackOf (s.teamPair t), 2048 + s.teamPair t)
  | .tile t _ _ => (stackOf (s.teamPair t), 3072 + s.teamPair t)
  | .config k n => (stackOf (islandPair k n), 4096 + islandKey k n)
  | .array p => (stackOf p, 16384 + p)

/-- Marks storage that a second read did not give (R397, R399). -/
def State.markLasting (s : State) (u : Upset) : State :=
  match u with
  | .sector _ => s
  | .array _ => s
  | .config k n => s.configError (k % 4) n
  | .granule p n => s.putPair p { s.pair p with poison := tabPut false (s.pair p).poison n true }
  | .vreg t j p n =>
    match (s.team t).bind (fun t => t.rank j) with
    | some r => s.putRank t (r.putVreg p n { r.vreg p n with err := some (.uncorrectable, BitVec.ofNat 32 n) })
    | none => s
  | .kreg t j n =>
    match (s.team t).bind (fun t => t.rank j) with
    | some r => s.putRank t { r with k := tabPut KReg.zero r.k n { r.kreg n with err := true } }
    | none => s
  | .ctl t n =>
    match s.team t with
    | some v => s.putTeam { v with ctl := { v.ctl with errs := tabPut false v.ctl.errs n true } }
    | none => s
  | .tile t n lower =>
    match s.team t with
    | some v =>
      let x := v.tile n
      let mark (h : Half) : Half := { h with mark := .err .uncorrectable (BitVec.ofNat 32 n) }
      s.putTeam (v.putTile n (if lower then { x with lower := mark x.lower } else { x with upper := mark x.upper }))
    | none => s

/-- A read meets storage that has failed, of which `n` reads fail: with none the error is corrected and counted, with one the second read
succeeds and is logged, and a lasting error is logged and marks the storage (R397, R398). A sector keeps it for its next read (DEDUCED,
log 60). -/
def State.upset (s : State) (u : Upset) (n : Nat) : State :=
  let (slice, unit) := s.upsetUnit u
  let repaired : Bool := decide (n = 0) || (match u with | .array _ => true | _ => false)
  if repaired then s.modSlice slice (fun c => { c with corrected := tabMod 0 c.corrected unit (fun k => k + 1) })
  else match u with
    | .sector k => { s with flaws := tabPut 0 s.flaws k (min n 2) }
    | _ =>
      if n = 1 then s.modSlice slice (fun c => { c with transient := c.transient + 1 })
      else match u with
        -- the island's own stop logs it
        | .config .. => s.markLasting u
        | _ => (s.modSlice slice (fun c => { c with lasting := c.lasting + 1 })).markLasting u

end Sys2Proof.Machine
end

