-- ==== Sys2Proof/WellFormed.lean ====
section
/-! DEFINITION. Which instruction terms mean something: the words an encoding admits, and for commands and events the
ranges of the units they name (spec/00 R3, spec/21 R445). A bad field of a word is no matter of form here: such a word
decodes, and raises ILLEGAL_OPERAND when it issues (R199, R207). -/

namespace Sys2Proof

/-- The number of units of an island kind: texture per core, intersection per pair, coverage and blend per cluster (R400). -/
def islandUnits (kind : Nat) : Nat := if kind = 0 then 512 else if kind = 1 then 256 else 64

/-- The unit of a power state exists (R3, R460). -/
def powerUnitOk : PowerUnit → Bool
  | .core n => decide (n < 512)
  | .cluster n => decide (n < 64)
  | .device => true

/-- The unit of a master exists (R3, R382): an engine of a cluster, or 64 + n of slice n; island `1024 * kind + unit`; a port. -/
def masterOk (kind : MasterKind) (unit : Nat) : Bool :=
  match kind with
  | .engine => decide (unit < 72)
  | .island => decide (unit / 1024 < 4) && decide (unit % 1024 < islandUnits (unit / 1024))
  | .port => decide (unit < 8)

/-- The term stands for a word of its encoding, or names units that exist. -/
def wellFormed : Instr → Bool
  | .nop _ => true
  | .pFormPair _ => true
  | .iadd _ => true
  | .isub _ => true
  | .imul _ => true
  | .imulh _ => true
  | .imad _ => true
  | .iaddc _ => true
  | .imin _ => true
  | .imax _ => true
  | .iabs _ => true
  | .and _ => true
  | .or _ => true
  | .xor _ => true
  | .andn _ => true
  | .shl _ => true
  | .shr _ => true
  | .sar _ => true
  | .rotl _ => true
  | .bfx _ => true
  | .bfi _ => true
  | .popc _ => true
  | .clz _ => true
  | .ctz _ => true
  | .brev _ => true
  | .perm _ => true
  | .sel _ => true
  | .icmp _ => true
  | .mov _ => true
  | .li _ => true
  | .iadd64 _ => true
  | .isub64 _ => true
  | .imad64 _ => true
  | .shl64 _ => true
  | .shr64 _ => true
  | .sar64 _ => true
  | .icmp64 _ => true
  | .mov64 _ => true
  | .cderive _ => true
  | .caim _ => true
  | .cstep _ => true
  | .cfloor _ => true
  | .cspan _ => true
  | .cwhere _ => true
  | .cnarrow _ => true
  | .cprobe _ => true
  | .ckind _ => true
  | .fadd _ => true
  | .fsub _ => true
  | .fmul _ => true
  | .ffma _ => true
  | .ffms _ => true
  | .fnma _ => true
  | .fmin _ => true
  | .fmax _ => true
  | .fcmp _ => true
  | .frnd _ => true
  | .ffrac _ => true
  | .fclass _ => true
  | .frcp _ => true
  | .frsq _ => true
  | .fsqrt _ => true
  | .fex2 _ => true
  | .flg2 _ => true
  | .fsin _ => true
  | .fcos _ => true
  | .hadd2 _ => true
  | .hsub2 _ => true
  | .hmul2 _ => true
  | .hfma2 _ => true
  | .hmin2 _ => true
  | .hmax2 _ => true
  | .hcmp2 _ => true
  | .dadd _ => true
  | .dmul _ => true
  | .dfma _ => true
  | .dcmp _ => true
  | .cvt _ => true
  | .cvtn _ => true
  | .cvtw _ => true
  | .dot4 _ => true
  | .dot8 _ => true
  | .dot2h _ => true
  | .ffma4 _ _ => true
  | .shfl _ => true
  | .shflx _ => true
  | .shflup _ => true
  | .shfldn _ => true
  | .ballot _ => true
  | .vote _ => true
  | .red _ => true
  | .scan _ => true
  | .matchv _ => true
  | .elect _ => true
  | .ddx _ => true
  | .ddy _ => true
  | .rduni _ => true
  | .rclaim _ => true
  | .rclaimt _ => true
  | .rrelease _ => true
  | .rshare _ => true
  | .runshare _ => true
  | .deposit _ => true
  | .rmark _ => true
  | .rarriv _ => true
  | .ld _ => true
  | .st _ => true
  | .ldf _ => true
  | .stf _ => true
  | .stcmp _ => true
  | .ldexp _ => true
  | .atom _ => true
  | .ldcap _ => true
  | .stcap _ => true
  | .sample _ => true
  | .fetch _ => true
  | .rquery _ => true
  | .trace _ => true
  | .pref _ => true
  | .fence _ => true
  | .spwb _ => true
  | .dalloc _ => true
  | .dfree _ => true
  | .bra _ => true
  | .brai _ => true
  | .call _ => true
  | .calli _ => true
  | .ret f => !f.md.getLsbD 1
  | .retH f => f.md.getLsbD 1
  | .join _ => true
  | .yield _ => true
  | .exit _ => true
  | .bar _ => true
  | .flagadd _ => true
  | .flagwait _ => true
  | .qpush _ => true
  | .qpop _ => true
  | .trap _ => true
  | .brk _ => true
  | .sleep _ => true
  | .rdsys _ => true
  | .wrsys _ => true
  | .cpy _ => true
  | .cpyg _ => true
  | .cpys _ => true
  | .hwait _ => true
  | .htest _ => true
  | .hcancel _ => true
  | .ringinit _ => true
  | .rwait _ => true
  | .rfree _ => true
  | .macq _ => true
  | .mrel _ => true
  | .mzero _ => true
  | .mma _ => true
  | .mmag _ => true
  | .mload _ => true
  | .mstore _ => true
  | .mstoreg _ => true
  | .amaxstep _ => true
  | .ireq f => !f.md.getLsbD 2
  | .ireqUnb f => f.md.getLsbD 2
  | .beam _ => true
  | .launch _ => true
  | .tlblock _ => true
  | .tlbunlock _ => true
  | .cpin _ => true
  | .launchGrid win => decide (win < 64)
  | .setContext win => decide (win < 64)
  | .loadImage win => decide (win < 64)
  | .writeValue win => decide (win < 64)
  | .waitValue win => decide (win < 64)
  | .copy win => decide (win < 64)
  | .decompress win => decide (win < 64)
  | .partition win => decide (win < 64)
  | .pin win => decide (win < 64)
  | .latencyTolerance win => decide (win < 64)
  | .saveContext win => decide (win < 64)
  | .resume win => decide (win < 64)
  | .waitValueTimeout win => decide (win < 64)
  | .windowEntryWrite _ off _ _ => decide (0x1000 ≤ off) && decide (off < 0x1000 + 32 * 64)
  | .bar0RegisterWrite off _ _ => decide (off < 0x1000) || (decide (0x1000 + 32 * 64 ≤ off) && decide (off < 65536))
  | .sealAccept win => decide (win < 64)
  | .commandComplete win => decide (win < 64)
  | .hostMemRead port _ _ => decide (port < 8)
  | .hostMemWrite port _ _ => decide (port < 8)
  | .hostAtomic port pa size _ _ _ => decide (port < 8) && (size == 4 || size == 8 || size == 16) && pa % size == 0
  | .teamPlace => true
  | .gangReserve => true
  | .gangCommit => true
  | .reckonerFailover => true
  | .teamEnd _ => true
  | .pairIdle pair => decide (pair < 256)
  | .gridRetire _ => true
  | .childDoneWrite _ => true
  | .loadResultReturn _ => true
  | .storeAck _ => true
  | .homeWriteApply _ _ => true
  | .homeLoadServe _ _ _ => true
  | .sectorFillComplete pair sector => decide (pair < 256) && decide (sector < 1792)
  | .writebackComplete pair sector => decide (pair < 256) && decide (sector < 1792)
  | .ownerFault _ => true
  | .faultRestart _ _ => true
  | .faultDecline _ => true
  | .tlbInvalidate ctx region _ _ _ _ => decide (ctx < 256) && decide (region < 16)
  | .invalidateComplete _ => true
  | .gridEnd _ => true
  | .masterReset kind unit => masterOk kind unit
  | .abacusHangReset pair layer => decide (pair < 256) && decide (layer < 2)
  | .matrixResetDeliver _ => true
  | .abacusLeaseGrant pair => decide (pair < 256)
  | .abacusChunk pair layer => decide (pair < 256) && decide (layer < 2)
  | .watchdogExpire pair rod => decide (pair < 256) && decide (rod < 32)
  | .sleepWake _ => true
  | .depositArrive _ => true
  | .ifetchFill _ => true
  | .engineOpStart _ => true
  | .engineWriteAck _ _ => true
  | .handleResolve _ => true
  | .ringSlotClaim _ => true
  | .remainderAppend _ => true
  | .islandRequestAccept kind unit _ => decide (kind < 4) && decide (unit < islandUnits kind)
  | .islandResponse kind unit => decide (kind < 4) && decide (unit < islandUnits kind)
  | .islandConfigError kind unit => decide (kind < 4) && decide (unit < islandUnits kind)
  | .blendCommit cluster _ => decide (cluster < 64)
  | .blockModeWrite cluster => decide (cluster < 64)
  | .splatSortRelease cluster slot _ => decide (cluster < 64) && decide (slot < 8)
  | .mailboxSend source target message => decide (source < 8) && decide (target < 8) && !decide (source = target) && decide (message.length = 64)
  | .preemptRequest ctx => decide (ctx < 256)
  | .saveAreaWrite ctx => decide (ctx < 256)
  | .linkLockLost port => decide (port < 8)
  | .linkLockRegained port => decide (port < 8)
  | .linkLost port => decide (port < 8)
  | .trainingComplete port => decide (port < 8)
  | .graceExpire ctx => decide (ctx < 256)
  | .flitReceive port _ _ _ => decide (port < 8)
  | .granuleIdleFlush port => decide (port < 8)
  | .powerStateEnter unit level => powerUnitOk unit && decide (1 ≤ level) && decide (level ≤ 4)
  | .powerWake unit => powerUnitOk unit
  | .powerIssueHold pair rod _ => decide (pair < 256) && decide (rod < 32)
  | .deviceReset _ => true
  | .fencePassComplete _ => true
  | .unassignedOpcodeWord w => decide ((decodeWords w none).1 = .unassignedOpcodeWord w)
  | .debuggerResume _ _ => true
  | .powerExitComplete unit => powerUnitOk unit
  | .wavelengthRetrained port wavelength _ => decide (port < 8) && decide (wavelength < 64)

end Sys2Proof
end

