-- ==== Sys2Proof/Machine/Turns.lean ====
section
/-! DEFINITION. What a step is made of: the turn that comes next, a rod's pass with the tandem passes that fuse with it (spec/17 R371), a
control thread's instruction, and an event; and the placing of one instruction where the next step fetches it. The turns come from the
agenda, or, when it is empty, from a policy of the model's own (log 2). -/

namespace Sys2Proof.Machine

/-- Goes on from a next state. -/
def onNext (o : Host.Outcome State Fault Refusal) (f : State → Host.Outcome State Fault Refusal) : Host.Outcome State Fault Refusal :=
  match o with
  | .next s => f s
  | .fault r => .fault r
  | .refused r => .refused r

/-- Opcodes that only the control stream has (R228). -/
def ctlOnly (w : Nat) : Bool :=
  let op := bitsAt w 54 8
  bitsAt w 62 2 == 0 && decide (0xB8 ≤ op) && decide (op ≤ 0xCF) && op != 0xBF && op != 0xC0

/-! ## A rod's pass -/

/-- An instruction of the classes that fuse (R371): not XTH, POOL or CTL, not RWAIT, RFREE or FENCE, none of the control stream's. -/
def tandemOk (i : Instr) : Bool :=
  match encode i with
  | [] => false
  | w :: _ =>
    let op := (w.extractLsb' 54 8).toNat
    let within (lo hi : Nat) : Bool := decide (lo ≤ op) && decide (op ≤ hi)
    match (w.extractLsb' 62 2).toNat with
    | 0 => !(within 0x70 0x7C || within 0x80 0x87 || op == 0x96 || within 0xA0 0xCF)
    | 1 => true
    | 2 => !(op == 0xA0 || op == 0xA2) && !(op == 0x1C && w.getLsbD 42)
    | _ => false

/-- What a split's pass would do on its own: when it starts, how long it holds the rod, how many threads it lists, and whether it blocks,
traps or is uniform. -/
structure PassPlan where
  slot : Nat
  agent : Agent
  start : Nat
  length : Nat
  lanes : Nat
  blocks : Bool
  uniform : Bool

/-- Tries a split's pass of an instruction. -/
def State.planPass (s : State) (i : Instr) (pair q : Nat) (e : Nat × Agent) : PassPlan :=
  match exec i (s.wakeSplit pair q e.2) with
  | .next t =>
    let rod := t.rod pair q
    let blocks := match t.splitOf t.cur with
      | some (_, _, x) => decide (x.wait ≠ .none)
      | none => false
    ⟨e.1, e.2, t.gt, rod.doneAt - t.gt, rod.lanes, blocks, rod.uniform⟩
  | _ => ⟨e.1, e.2, s.gt, 1, 0, false, false⟩

/-- Keeps the first of the entries of each rank slot. -/
def firstOfSlot : List (Nat × Agent) → List (Nat × Agent)
  | [] => []
  | e :: l => e :: (firstOfSlot l).filter (fun d => d.1 != e.1)

/-- Puts an entry in its place by rank slot. -/
def insertSlot (e : Nat × Agent) : List (Nat × Agent) → List (Nat × Agent)
  | [] => [e]
  | d :: l => if d.1 < e.1 then d :: insertSlot e l else e :: d :: l

/-- The passes that fuse with the current split's, which is among them, by rank slot, lowest first; none when it issues alone (R371). -/
def State.partners (s : State) (i : Instr) (pair q : Nat) (a : Agent) : List PassPlan :=
  match s.splitOf a with
  | none => []
  | some (t, r, x) =>
    if 16 < r.width ∨ !tandemOk i then []
    else
      let peer (e : Nat × Agent) : Bool := match s.splitOf e.2 with
        | some (u, p, y) => u.uid == t.uid && p.num != r.num && decide (p.width ≤ 16) && decide (y.pc = x.pc)
        | none => false
      match firstOfSlot (((s.readySplits pair q).filter peer).foldr insertSlot []) with
      | [] => []
      | l =>
        let mine := s.planPass i pair q (r.slot, a)
        if mine.blocks || mine.uniform then []
        else match ((l.map (s.planPass i pair q)).filter (fun p => !p.blocks && !p.uniform)).take (64 / r.width - 1) with
          | [] => []
          | ps => ps.takeWhile (fun p => decide (p.slot < r.slot)) ++ mine :: ps.dropWhile (fun p => decide (p.slot < r.slot))

/-- The start of a tandem pass: that of the first of its passes that could start (R372) (DEDUCED, log 8). -/
def fusedStart (l : List PassPlan) : Nat := (l.map (fun p => p.start)).foldl min ((l.headD ⟨0, .ctl 0, 0, 0, 0, false, false⟩).start)

/-- When the groups of each pass of a tandem pass begin: behind the threads of the passes before it, in groups of four (R371, R372)
(DEDUCED, log 8). -/
def fusedStarts (start : Nat) : Nat → List PassPlan → List (Nat × PassPlan)
  | _, [] => []
  | n, p :: l => (max p.start (start + ceilDiv n 4 * (p.length / max 1 (ceilDiv p.lanes 4))), p) :: fusedStarts start (n + p.lanes) l

/-- The end of a tandem pass: its threads form groups of four, and no pass of it ends before it could alone (R371, R372) (DEDUCED, log 8). -/
def fusedEnd (l : List PassPlan) : Nat :=
  let lanes := (l.map (fun p => p.lanes)).foldl (fun n m => n + m) 0
  let occ := maxOf (l.map (fun p => p.length / max 1 (ceilDiv p.lanes 4)))
  max (fusedStart l + ceilDiv lanes 4 * occ) (maxOf (l.map (fun p => p.start + p.length)))

/-- A split has gone past its instruction, which its pass neither stopped nor trapped. -/
def State.passed (s : State) (x : Split) : Bool :=
  match s.splitOf s.cur with
  | some (t, _, y) => (decide (y.pc = x.pc + 8) || decide (y.pc = x.pc + 16)) && decide (y.inHandler = x.inHandler) && y.resume == 0 && decide (t.frozen = none)
  | none => false

/-- The passes of a tandem pass in ascending rank slot, up to one that stops (R371): each begins at its place from the rod's state
before, and the second answer says whether the current split is the one that stopped. -/
def runTandem (i : Instr) (pair q gt : Nat) (a : Agent) (rod : Rod) : List (Nat × PassPlan) → State → Host.Outcome (State × Bool) Fault Refusal
  | [], s => .next (s, false)
  | e :: l, s =>
    match s.splitOf e.2.agent with
    | none => runTandem i pair q gt a rod l s
    | some (_, _, x) =>
      let u := ({ s with gt := gt }.putRod pair q { s.rod pair q with earliest := e.1, watch := rod.watch }).wakeSplit pair q e.2.agent
      match exec i u with
      | .next t => if t.passed x then runTandem i pair q gt a rod l t else .next (t, decide (e.2.agent = a))
      | .fault r => .fault r
      | .refused r => .refused r

/-- Issues an instruction for a rod's current split, with those that fuse with it: one pass of all their threads, after which the split
that was current stays current unless it stopped, and the watchdog counts for it alone (R371, R372, R375). -/
def State.issueRod (s : State) (i : Instr) (pair q : Nat) (a : Agent) : Host.Outcome State Fault Refusal :=
  match s.partners i pair q a with
  | [] => exec i s
  | l =>
    let rod := s.rod pair q
    match runTandem i pair q s.gt a rod (fusedStarts (fusedStart l) 0 l) s with
    | .next (t, stopped) =>
      let after := t.rod pair q
      let fin := fusedEnd l
      answer ({ t with gt := fusedStart l, cur := a }.putRod pair q { after with
        cur := if stopped then after.cur else some a
        watch := if stopped then after.watch else rod.watch + (fin - rod.earliest)
        earliest := fin
        doneAt := fin })
    | .fault r => .fault r
    | .refused r => .refused r

/-- The watchdog limit of the current agent's grid has been reached by its rod (R193) (DEDUCED, log 53). -/
def State.watchdogDue (s : State) (pair q : Nat) : Bool :=
  match focus s with
  | none => false
  | some f => decide (((s.grid f.t.grid).map (fun g => g.wdlim)).getD (2 ^ 24) ≤ (s.rod pair q).watch)

/-- Time moves to where the next pass of a rod's split may start (R365, R379). -/
def State.untilPass (s : State) (pair q : Nat) (a : Agent) : State :=
  let x := match s.splitOf a with
    | some (_, _, x) => x.notBefore
    | none => 0
  { s with gt := max s.gt (max (s.rod pair q).earliest x) }

/-- What a rod would do in a turn of its own (R181, R193): a split is chosen, its word is fetched, and the instruction issues. -/
def State.rodRun (s : State) (pair q : Nat) : Host.Outcome State Fault Refusal :=
  match s.chooseSplit pair q with
  | none => answer s
  | some a =>
    let s := (s.makeCurrent pair q a).untilPass pair q a
    if s.watchdogDue pair q then answer (s.watchdog pair q)
    else match s.fetchCur with
      | (s, none) => answer s
      | (s, some i) => s.issueRod i pair q a

/-- What a control thread would do in a turn of its own (R187, R369): one instruction, unless its word is missed. -/
def State.ctlRun (s : State) (t : Team) : Host.Outcome State Fault Refusal :=
  let next := tabGet 0 (s.pair t.pair).nextCtl t.layer
  let s := { s with cur := .ctl t.uid, gt := max s.gt (max t.ctl.earliest next) }.putTeam { t with ctl := { t.ctl with wait := .none } }
  match s.fetchCur with
  | (s, none) =>
    if (s.ctlTeam).any (fun u => decide (u.ctl.wait = .fetch)) then answer s
    else answer (s.ctlTurned t.pair t.layer t.slot t.uid)
  | (s, some i) => onNext (exec i s) (fun s => answer (s.ctlTurned t.pair t.layer t.slot t.uid))

/-! ## Times -/

/-- The time at which what would be done starts. -/
def State.startOf (s : State) (o : Host.Outcome State Fault Refusal) : Nat :=
  match o with
  | .next t => t.gt
  | _ => s.gt

/-- A rod's next issue and its start: none when it has nothing to issue, or when its team is frozen and the cycle of the violation is over
by then (R33). -/
def State.rodNext (s : State) (pair q : Nat) : Option (Nat × Host.Outcome State Fault Refusal) :=
  match (s.chooseSplit pair q).bind s.splitOf with
  | none => none
  | some (t, _, _) =>
    let o := s.rodRun pair q
    if t.frozen = none ∨ s.startOf o ≤ s.gt then some (s.startOf o, o) else none

/-- A control thread's next instruction and its start. A frozen team issues no engine, island or abacus work (R30). -/
def State.ctlNext (s : State) (t : Team) : Option (Nat × Host.Outcome State Fault Refusal) :=
  let o := s.ctlRun t
  if t.frozen = none then some (s.startOf o, o)
  else match ({ s with cur := .ctl t.uid } : State).fetchCur with
    | (_, some i) => if s.startOf o ≤ s.gt ∧ ((encode i).take 1).all (fun w => !ctlOnly w.toNat) then some (s.startOf o, o) else none
    | _ => none

/-- The better of two control threads for a core's next turn: the one that starts first, and among those the next in team-slot order
after the last (R187). -/
def ctlFirst (last : Nat) (e f : Nat × Nat × Host.Outcome State Fault Refusal) : Bool :=
  let key (n : Nat) : Nat := if last ≤ n then n else n + 32
  decide (e.2.1 < f.2.1) || (decide (e.2.1 = f.2.1) && decide (key e.1 ≤ key f.1))

/-- A core's next instruction of the control stream and its start (R187, R369). -/
def State.coreNext (s : State) (pair layer : Nat) : Option (Nat × Host.Outcome State Fault Refusal) :=
  let last := tabGet 0 (s.pair pair).lastCtl layer
  let l := (s.readyCtls pair layer).filterMap (fun t => (s.ctlNext t).map (fun e => (t.slot, e)))
  match l with
  | [] => none
  | e :: l => some (l.foldl (fun m d => if ctlFirst last m d then m else d) e).2

/-- The rods that hold a rank. -/
def State.heldRods (s : State) : List (Nat × Nat) := (s.teams.flatMap (fun t => t.ranks.map (fun r => (t.pair, r.rod)))).eraseDups

/-- The cores that hold a control thread, as pair and layer. -/
def State.heldCores (s : State) : List (Nat × Nat) := (s.teams.map (fun t => (t.pair, t.layer))).eraseDups

/-- The issues to come, each with its start. -/
def State.issues (s : State) : List (Nat × Move) :=
  s.heldRods.filterMap (fun e => (s.rodNext e.1 e.2).map (fun n => (n.1, .rod e.1 e.2))) ++
    s.heldCores.filterMap (fun e => (s.coreNext e.1 e.2).map (fun n => (n.1, .ctl e.1 e.2)))

/-- Time moves on to a later tick; a texel is read before its bound is reached (R166). -/
def State.elapse (s : State) (till : Nat) : State :=
  let late (a : Access) : Bool := (match a.kind with | .texture .. => true | _ => false) && decide (a.born + Config.texelBound ≤ till)
  let s := (s.accesses.filter late).foldl (fun s a => { s with gt := max s.gt (a.born + Config.texelBound - 1) }.loadReturn a.id) s
  { s with gt := max s.gt till }

/-- An issue takes place when no other comes before it: time moves to its start first (R365, R369). Before its time nothing happens. -/
def State.atStart (s : State) (next : State → Option (Nat × Host.Outcome State Fault Refusal)) : Host.Outcome State Fault Refusal :=
  match next s with
  | none => answer s
  | some (now, o) =>
    if now ≤ s.gt then o
    else if s.issues.any (fun e => decide (e.1 < now)) then answer s
    else
      let s := s.elapse now
      match next s with
      | some (then_, o) => if then_ ≤ s.gt then o else answer s
      | none => answer s

/-- A rod takes its turn. -/
def State.rodTurn (s : State) (pair q : Nat) : Host.Outcome State Fault Refusal := s.atStart (fun s => s.rodNext pair q)

/-- A core's control stream takes its turn. -/
def State.ctlTurn (s : State) (pair layer : Nat) : Host.Outcome State Fault Refusal := s.atStart (fun s => s.coreNext pair layer)

/-- An event of the table happens; a word of a stream is no event. -/
def State.eventTurn (s : State) (i : Instr) : Host.Outcome State Fault Refusal :=
  if (encode i).isEmpty && wellFormed i then exec i s else answer s

/-! ## A turn -/

/-- Time passes, at most to the start of the next issue: a pass starts at the earliest cycle that it may (R365, R369). -/
def State.pass (s : State) (ticks : Nat) : State :=
  if ticks = 0 then s else s.elapse ((s.issues.map (fun e => e.1)).foldl min (s.gt + ticks))

/-- A rod that rests notes a split that has become ready, whose pass may start in the next cycle (R366). A split that waits for its word
keeps its rod (R367). -/
def State.noteRod (s : State) (pair q : Nat) : State :=
  let rod := s.rod pair q
  let ready := !(s.readySplits pair q).isEmpty
  let stalls := match rod.cur.bind s.splitOf with
    | some (_, _, x) => decide (x.wait = .fetch)
    | none => false
  if rod.rests && ready then s.putRod pair q { rod with rests := false, earliest := max rod.earliest (s.gt + 1) }
  else if !rod.rests && !ready && !stalls then s.putRod pair q { rod with rests := true } else s

/-- What follows a move at once: claims are granted (R323), blocks whose accesses are over join the free lists (R305), and it is noted which
abaci have their next chunk's operands (R386) and which rods rest (R366). -/
def State.settle (s : State) : State :=
  let s := s.settlePools.settleFrees.noteReady
  s.heldRods.foldl (fun s e => s.noteRod e.1 e.2) s

/-- One move. -/
def State.move (s : State) (m : Move) : Host.Outcome State Fault Refusal :=
  match m with
  | .rod p q => s.rodTurn p q
  | .ctl p layer => s.ctlTurn p layer
  | .event i => s.eventTurn i
  | .kernel a => answer (s.kernelAct a)
  | .upset u n => answer (s.upset u n)
  | .barRead port off size => answer (s.hostRequest port (.bar off size))
  | .tick => answer s

/-- One turn: time passes, the move is made, and what follows at once follows. -/
def State.turn (s : State) (t : Turn) : Host.Outcome State Fault Refusal :=
  onNext ((s.pass t.ticks).move t.move) (fun s => answer s.settle)

/-! ## The policy of an empty agenda -/

/-- The event that runs a command of a code in a window (R448). -/
def commandEvent (code win : Nat) : Instr :=
  if code = 1 then .launchGrid win else if code = 2 then .setContext win else if code = 3 then .loadImage win
  else if code = 4 then .writeValue win else if code = 5 then .waitValue win else if code = 6 then .copy win
  else if code = 7 then .decompress win else if code = 8 then .partition win else if code = 9 then .pin win
  else if code = 10 then .latencyTolerance win else if code = 11 then .saveContext win else .resume win

/-- What may come of the accesses in flight. -/
def State.accessEvents (s : State) : List Instr :=
  s.accesses.flatMap (fun a =>
    (List.range a.pieces.length).flatMap (fun n => match a.pieces[n]? with
      | some p => if p.done then [] else match p.home with
        | .host _ _ => [.homeWriteApply a.id n]
        | _ => [.homeWriteApply a.id n, .homeLoadServe a.id n []]
      | none => []) ++ [.storeAck a.id, .loadResultReturn a.id])

/-- The agents of a team: its control thread and its splits. -/
def Team.agents (t : Team) : List Agent := .ctl t.uid :: t.ranks.flatMap (fun r => r.splits.map (fun x => .vec t.uid r.num x.age))

/-- What may come of the waits of the agents. -/
def State.waitEvents (s : State) : List Instr :=
  (s.teams.flatMap (fun t => t.agents)).flatMap (fun a => [.ifetchFill a, .fencePassComplete a, .sleepWake a])

/-- What may come of the engines, the rings, deposits and appends in flight. -/
def State.engineEvents (s : State) : List Instr :=
  s.ops.flatMap (fun o => [.engineOpStart o.id, .ringSlotClaim o.id, .engineWriteAck o.id 256, .handleResolve o.id]) ++
    s.deposits.map (fun d => .depositArrive d.id) ++ s.appends.map (fun a => .remainderAppend a.id)

/-- What may come of the scratchpads, the abaci and the state of the pairs. -/
def State.pairEvents (s : State) : List Instr :=
  s.pairs.flatMap (fun e =>
    e.2.sectors.flatMap (fun d => [.sectorFillComplete e.1 d.1, .writebackComplete e.1 d.1]) ++
      [.abacusLeaseGrant e.1, .abacusChunk e.1 0, .abacusChunk e.1 1, .pairIdle e.1])

/-- What may come of the islands and the blend front ends. -/
def State.islandEvents (s : State) : List Instr :=
  s.islands.map (fun e => .islandResponse (e.1 / 1024) (e.1 % 1024)) ++
    s.teams.flatMap (fun t => t.ends.filterMap (fun e => match e.2.kind with
      | some k => if e.2.batches.isEmpty then none else some (.islandRequestAccept k (islandUnit k (2 * t.pair + t.layer)) (16 * t.uid + e.1))
      | none => none)) ++
    s.blends.flatMap (fun e =>
      e.2.held.map (fun r => .blendCommit e.1 r.id) ++ e.2.splats.map (fun r => .splatSortRelease e.1 r.slot r.tile) ++
        [.blockModeWrite e.1, .islandResponse 3 e.1])

/-- What may come of the windows, contexts and ports. -/
def State.hostEvents (s : State) : List Instr :=
  s.windows.flatMap (fun e =>
    (match e.2.cmd with
      | some c => [commandEvent c.cmd e.1, .waitValueTimeout e.1]
      | none => []) ++ [.commandComplete e.1, .sealAccept e.1]) ++
    s.ctxs.flatMap (fun e => match e.2 with
      | some c => (match c.mode with
        | .halting _ => [.preemptRequest e.1]
        | _ => []) ++ [.saveAreaWrite e.1, .graceExpire e.1]
      | none => []) ++
    s.ports.flatMap (fun e => [.linkLost e.1, .granuleIdleFlush e.1])

/-- What may come of the grids: placement, the ends of teams and grids, faults on their way to an owner, invalidates, and the power that
teams need. -/
def State.gridEvents (s : State) : List Instr :=
  s.teams.flatMap (fun t => [.teamEnd t.uid, .matrixResetDeliver t.uid, .powerWake (.cluster (clusterOf t.pair)), .powerWake (.core (2 * t.pair)),
      .powerWake (.core (2 * t.pair + 1))]) ++
    s.grids.flatMap (fun g => [.gridEnd g.id, .gridRetire g.id, .childDoneWrite g.id]) ++
    s.faults.map (fun r => .ownerFault r.id) ++ s.invalidates.map (fun v => .invalidateComplete v.id) ++
    s.power.exiting.map (fun u => .powerExitComplete u) ++
    [.teamPlace, .gangCommit, .gangReserve]

/-- The events that the policy tries, in order. -/
def State.candidates (s : State) : List Instr :=
  s.accessEvents ++ s.waitEvents ++ s.engineEvents ++ s.pairEvents ++ s.islandEvents ++ s.gridEvents ++ s.hostEvents

/-- An event does something now, more than to ask for a free value. -/
def State.worth (s : State) (i : Instr) : Bool :=
  wellFormed i && match exec i s with
    | .next t => !decide ({ t with free := s.free } = s)
    | _ => true

/-- The earliest of the moves. -/
def earliestMove : List (Nat × Move) → Option Move
  | [] => none
  | e :: l => some (l.foldl (fun m d => if d.1 < m.1 then d else m) e).2

/-- The turn of an empty agenda (log 2): the first event that does something, else the issue that comes first, else time passes. -/
def State.policy (s : State) : Turn :=
  match s.candidates.find? (fun i => s.worth i) with
  | some i => ⟨0, .event i⟩
  | none => match earliestMove s.issues with
    | some m => ⟨0, m⟩
    | none => ⟨1, .tick⟩

/-- The next turn, and the state without it. -/
def State.nextTurn (s : State) : Turn × State :=
  match s.agenda with
  | t :: l => (t, { s with agenda := l })
  | [] => (s.policy, s)

/-! ## Placing one instruction -/

/-- The physical addresses that a placed instruction uses: its root table, its leaf table and its page (R37 to R39). -/
def placeTable : Nat := 0x20000
/-- The page of a placed instruction. -/
def placePage : Nat := 0x40000

/-- The context a placed instruction runs in: one region of 64 KiB pages, and code over the first page with LD, ST and EX. -/
def placeCtx : Ctx :=
  { desc := 0, window := 0, token := 0, port := 0, regions := tabPut Region.off [] 0 { Region.off with psz := 1, en := true, lklen := 0 }, ssbase := 0, rhp := [],
    heapBase := 0, heapLen := 0, rttab := 0, hostcap := TCap.null, ipart := 0, code := capOf 1 permEX 0 0x10000 0, debugger := false, images := [],
    blocks := [], mode := .running, saved := none, grace := none, haltReq := 0, haltAt := 0 }

/-- The grid that a placed instruction belongs to: one team of one rank of 8 threads, entered at 0 in both streams. -/
def placeGrid : Grid :=
  { id := 0, ctx := 0, parent := none, depth := 1, priv := false, window := none,
    launch := { ctlEnt := 0, vecEnt := 0, width := 8, quad := false, regs := 64, ranks := 1, spread := 1, gang := 0, prio := 0, accum := 16, lstore := 65536,
                nteam := 1, ctrap := 0, vtrap := 0, wdlim := 2 ^ 24, mapva := 0, mapn := 0, succva := 0, succn := 0, args := [] },
    root := TCap.null, donew := none, trapV := 0, trapC := 0, wdlim := 2 ^ 24, descs := none, placed := 1, endedTeams := 0, ended := none, wbd := none, wmax := 0, retired := false }

/-- Eight bytes of memory, whatever they hold now. -/
def putWord (m : Tab Byte) (pa v : Nat) : Tab Byte := (natLe 8 v).zipIdx.foldl (fun m e => tabPut 0 m (pa + e.2) e.1) m

/-- A state in which the next step fetches and runs an instruction word (and the word after it): a team stands on pair 0 in context 0, its
code page holds the words, and the agenda gives the turn to rod 0, or to the control stream for an opcode that only it has (log 6). -/
def State.placeWord (s : State) (w : Nat) : State :=
  let lo := w % 2 ^ 64
  let hi := w / 2 ^ 64 % 2 ^ 64
  let mem := putWord (putWord (putWord (putWord s.mem 0 (placeTable + 1)) placeTable (placePage + 0x1D)) placePage lo) (placePage + 8) hi
  let clean (t : Tab Bool) : Tab Bool := [0, placeTable, placePage].foldl (fun t a => tabPut false t (a / 256) false) t
  let s : State := { s with
    mem := mem
    poison := clean s.poison
    flaws := [0, placeTable, placePage].foldl (fun t a => tabPut 0 t (a / 256) 0) s.flaws
    tlbs := tabPut [] s.tlbs 0 []
    clusterTlbs := tabPut [] s.clusterTlbs 0 []
    lockRanges := []
    copies := s.copies.filter (fun c => !decide (c.holder = .icache 0)) ++ [⟨.icache 0, placePage, natLe 8 lo ++ natLe 8 hi, s.gt + 1000000, 0, 0, []⟩]
    teams := s.teams.filter (fun t => t.pair != 0)
    grids := s.grids.filter (fun g => g.id != 0) ++ [placeGrid]
    ctxs := tabPut none s.ctxs 0 (some placeCtx)
    pairs := tabPut Pair.idle s.pairs 0 Pair.idle
    power := { s.power with device := 0, clusters := tabPut 0 s.power.clusters 0 0, cores := tabPut 0 (tabPut 0 s.power.cores 0 0) 1 0 }
    hole := none }
  let (_, s) := (s.setUpPair placeGrid 0 []).putTeamOn placeGrid 0 0 0 none true
  { s with agenda := [⟨0, if ctlOnly lo then .ctl 0 0 else .rod 0 0⟩] }

end Sys2Proof.Machine
end

