-- ==== Sys2Proof/Machine/Step.lean ====
section
/-! DEFINITION. The step: the next turn of the device, and the placing of one instruction for it. -/

namespace Sys2Proof.Machine

/-- One step of the device: its next turn. -/
def step (s : State) : Host.Outcome State Fault Refusal := s.nextTurn.2.turn s.nextTurn.1

/-- The state in which the next step runs the instruction whose bits are w (DESIGN CHOICE, log 6). -/
def State.withFetchWord (s : State) (nbits w : Nat) : State := s.placeWord (w % 2 ^ nbits)

end Sys2Proof.Machine
end

