-- ==== Sys2Proof/Safety.lean ====
section
/-! DEFINITION. The terms claims are stated in: who issues, what a pass of each kind does to registers, and what stays as it was. -/

namespace Sys2Proof.Machine

/-! ## Who issues -/

/-- The control thread of a team issues, none of its registers has an error (R399), and no nested access has failed. -/
structure CtlIssues (s : State) (t : Team) : Prop where
  cur : s.cur = .ctl t.uid
  team : s.team t.uid = some t
  sound : t.ctl.errs = []
  whole : s.hole = none

/-- A split issues, no k register of its rank has an error (R399), and no nested access has failed. -/
structure VecIssues (s : State) (f : Foc) : Prop where
  foc : focus s = some f
  sound : ∀ n, (f.r.kreg n).err = false
  whole : s.hole = none

/-- The state once a pass has issued on a rod: time and the rod's own timing are what they are, and nothing else has changed. -/
def State.afterIssue (s : State) (f : Foc) (now : Nat) (rod : Rod) : State := { s with gt := now }.putRod f.t.pair f.r.rod rod

/-- The state once an instruction of a control thread has issued: time and the turn of its core are what they are, and nothing else has
changed. -/
def State.afterCtl (s : State) (t : Team) (now : Nat) (last : Tab Nat) : State :=
  { s with gt := now }.putPair t.pair { s.pair t.pair with lastCtl := last }

/-- A team whose control thread's next issue and results in flight have the times they have. -/
def Team.retimed (t : Team) (earliest : Nat) (readyAt : Tab Nat) : Team := { t with ctl := { t.ctl with earliest := earliest, readyAt := readyAt } }

/-- The instruction runs for a split: the next state is what `k` makes of the focus once the pass has issued. -/
def VecRuns (i : Instr) (s : State) (f : Foc) (k : Foc → State) : Prop :=
  ∃ now rod, exec i s = .next (k { f with s := s.afterIssue f now rod })

/-- The instruction runs for a control thread: the next state is what `k` makes of the state and the team once it has issued. -/
def CtlRuns (i : Instr) (s : State) (t : Team) (k : State → Team → State) : Prop :=
  ∃ now last earliest readyAt, exec i s = .next (k (s.afterCtl t now last) (t.retimed earliest readyAt))

/-- The registers a pass names are allocated, and those it waits for are full in every thread of it (R183, R184). -/
structure Clear (f : Foc) (ps named waits : List Nat) : Prop where
  allocated : ∀ n ∈ named, n < f.r.top
  full : ∀ p ∈ ps, ∀ n ∈ waits, f.r.isFull p n = true

/-- The pass of a split goes past its word. -/
def Foc.done (f : Foc) : State := f.next.close

/-- The focus with its rank, its state or its team replaced. -/
def Foc.withRank (f : Foc) (r : Rank) : Foc := { f with r := r }
/-- The state replaced. -/
def Foc.withState (f : Foc) (s : State) : Foc := { f with s := s }
/-- The team replaced. -/
def Foc.withTeam (f : Foc) (t : Team) : Foc := { f with t := t }

/-- A team with its control thread replaced. -/
def Team.withCtl (t : Team) (c : Ctl) : Team := { t with ctl := c }

/-- The threads that a word with a guard leaves in the pass (R200). -/
def Foc.pass (f : Foc) (w : FWord) : List Nat := f.members w.g.toNat w.gn

/-- The guard of a word holds for a control thread (R200). -/
def Team.guard (t : Team) (g : BitVec 3) (gn : Bool) : Prop := (t.ctl.pred g.toNat == gn) = false

/-! ## Register instructions -/

/-- The operation, word and second word of the instructions that compute on registers alone (R256 to R289). -/
def aluOf (i : Instr) : Option (AluSpec × FWord × Option XWord) :=
  match i with
  | .iadd w => some (specIadd, w, none)
  | .isub w => some (specIsub, w, none)
  | .imul w => some (specImul, w, none)
  | .imulh w => some (specImulh, w, none)
  | .imad w => some (specImad, w, none)
  | .iaddc w => some (specIaddc, w, none)
  | .imin w => some (specImin, w, none)
  | .imax w => some (specImax, w, none)
  | .iabs w => some (specIabs, w, none)
  | .and w => some (specAnd, w, none)
  | .or w => some (specOr, w, none)
  | .xor w => some (specXor, w, none)
  | .andn w => some (specAndn, w, none)
  | .shl w => some (specShl, w, none)
  | .shr w => some (specShr, w, none)
  | .sar w => some (specSar, w, none)
  | .rotl w => some (specRotl, w, none)
  | .bfx w => some (specBfx, w, none)
  | .bfi w => some (specBfi, w, none)
  | .popc w => some (specPopc, w, none)
  | .clz w => some (specClz, w, none)
  | .ctz w => some (specCtz, w, none)
  | .brev w => some (specBrev, w, none)
  | .perm w => some (specPerm, w, none)
  | .sel w => some (specSel, w, none)
  | .icmp w => some (specIcmp, w, none)
  | .mov w => some (specMov, w, none)
  | .iadd64 w => some (specIadd64, w, none)
  | .isub64 w => some (specIsub64, w, none)
  | .imad64 w => some (specImad64, w, none)
  | .shl64 w => some (specShl64, w, none)
  | .shr64 w => some (specShr64, w, none)
  | .sar64 w => some (specSar64, w, none)
  | .icmp64 w => some (specIcmp64, w, none)
  | .mov64 w => some (specMov64, w, none)
  | .cderive w => some (specCderive, w, none)
  | .caim w => some (specCaim, w, none)
  | .cstep w => some ((if w.md.getLsbD 11 && w.md.getLsbD 0 then specCstepBad else specCstep), w, none)
  | .cfloor w => some (specCfloor, w, none)
  | .cspan w => some (specCspan, w, none)
  | .cwhere w => some (specCwhere, w, none)
  | .cnarrow w => some (specCnarrow, w, none)
  | .cprobe w => some ((if bitsAt w.md.toNat 0 3 = 0 then specCprobeTag else specCprobe), w, none)
  | .ckind w => some (specCkind, w, none)
  | .fadd w => some (specFadd, w, none)
  | .fsub w => some (specFsub, w, none)
  | .fmul w => some (specFmul, w, none)
  | .ffma w => some (specFfma, w, none)
  | .ffms w => some (specFfms, w, none)
  | .fnma w => some (specFnma, w, none)
  | .fmin w => some (specFmin, w, none)
  | .fmax w => some (specFmax, w, none)
  | .fcmp w => some (specFcmp, w, none)
  | .frnd w => some (specFrnd, w, none)
  | .ffrac w => some (specFfrac, w, none)
  | .fclass w => some (specFclass, w, none)
  | .frcp w => some ((xcSpec 0x4C fpRcp), w, none)
  | .frsq w => some ((xcSpec 0x4D fpRsq), w, none)
  | .fsqrt w => some ((xcSpec 0x4E fpSqrt), w, none)
  | .fex2 w => some ((xcSpec 0x4F fpEx2), w, none)
  | .flg2 w => some ((xcSpec 0x50 fpLg2), w, none)
  | .fsin w => some ((xcSpec 0x51 fpSin), w, none)
  | .fcos w => some ((xcSpec 0x52 fpCos), w, none)
  | .hadd2 w => some ((halfSpec 0x53 0x17F false (fun f m a b _ => addBits f m a b)), w, none)
  | .hsub2 w => some ((halfSpec 0x54 0x17F false (fun f m a b _ => subBits f m a b)), w, none)
  | .hmul2 w => some ((halfSpec 0x55 0x17F false (fun f m a b _ => mulBits f m a b)), w, none)
  | .hfma2 w => some ((halfSpec 0x56 0x17F true fmaBits), w, none)
  | .hmin2 w => some ((halfSpec 0x57 0x1BC false (fun f m a b _ => minMaxBits f false m a b)), w, none)
  | .hmax2 w => some ((halfSpec 0x58 0x1BC false (fun f m a b _ => minMaxBits f true m a b)), w, none)
  | .hcmp2 w => some ((halfSpec 0x59 0xF3C false (fun f m a b _ => if cmpBits f m a b then 0xFFFF else 0)), w, none)
  | .dadd w => some (specDadd, w, none)
  | .dmul w => some (specDmul, w, none)
  | .dfma w => some (specDfma, w, none)
  | .dcmp w => some (specDcmp, w, none)
  | .cvt w => some (specCvt, w, none)
  | .cvtn w => some (specCvtn, w, none)
  | .cvtw w => some (specCvtw, w, none)
  | .dot4 w => some ((dotSpec 0x61 false), w, none)
  | .dot8 w => some ((dotSpec 0x62 true), w, none)
  | .dot2h w => some (specDot2h, w, none)
  | .ffma4 w x => some (specFfma4, w, some x)
  | _ => none

/-- What a thread of such a pass does to its rank: it reads its sources, computes, and writes (R260). -/
def aluLane (spec : AluSpec) (w : FWord) (x : Option XWord) (age : Nat) (r : Rank) (p : Nat) : Except Trap Rank :=
  match readOpd r p (spec.a (modOf spec w)) (fldA w), (if isImm spec w then .ok (immB w) else readOpd r p (spec.b (modOf spec w)) (fldB w)),
    readOpd r p (cKind x) (cFld x), (if spec.readsD (modOf spec w) then readOpd r p (spec.d (modOf spec w)) (fldD w) else .ok TCap.null) with
  | .ok a, .ok b, .ok c, .ok d =>
    match spec.op (modOf spec w) ⟨a, b, c, d, fun n => r.pred p n⟩ with
    | .error t => .error t
    | .ok res =>
      let r := writeOpd r age p (spec.d (modOf spec w)) (fldD w) res.val
      .ok (match res.p with
        | some (n, v) => r.putPred p n v
        | none => r)
  | .error t, _, _, _ => .error t
  | .ok _, .error t, _, _ => .error t
  | .ok _, .ok _, .error t, _ => .error t
  | .ok _, .ok _, .ok _, .error t => .error t

/-- The threads of such a pass in position order; none when one of them traps that is no helper (R28, R175). -/
def aluRun (spec : AluSpec) (w : FWord) (x : Option XWord) (age : Nat) : List Nat → Rank → Option Rank
  | [], r => some r
  | p :: ps, r =>
    match aluLane spec w x age r p with
    | .ok r' => aluRun spec w x age ps r'
    | .error _ => if r.helper p then aluRun spec w x age ps (writeOpd r age p (spec.d (modOf spec w)) (fldD w) TCap.null) else none

/-- The v registers that such a word names. -/
def aluRegs (spec : AluSpec) (w : FWord) (x : Option XWord) : List Nat :=
  vregsOf (spec.d (modOf spec w)) (fldD w) ++ vregsOf (spec.a (modOf spec w)) (fldA w) ++
    (if isImm spec w then [] else vregsOf (spec.b (modOf spec w)) (fldB w)) ++ vregsOf (cKind x) (cFld x)

/-- The v registers that must be full before such a pass issues: all but sources with a trap-mode bit (R184). -/
def aluNeeds (spec : AluSpec) (w : FWord) (x : Option XWord) : List Nat :=
  vregsOf (spec.d (modOf spec w)) (fldD w) ++ (if w.ta then [] else vregsOf (spec.a (modOf spec w)) (fldA w)) ++
    (if w.tb then [] else if isImm spec w then [] else vregsOf (spec.b (modOf spec w)) (fldB w)) ++
    (if (cFld x).t then [] else vregsOf (cKind x) (cFld x))

/-- The positions that execute: those the guard leaves, or the first of them for a uniform instruction (R176, R200). -/
def aluThreads (spec : AluSpec) (w : FWord) (x : Option XWord) (f : Foc) : List Nat :=
  if aluUniform spec w x then (f.members w.g.toNat w.gn).take 1 else f.members w.g.toNat w.gn

/-- The sources of such an instruction in a control thread (R258). -/
def ctlSrc (spec : AluSpec) (w : FWord) (c : Ctl) : Src :=
  ⟨readCtl c (spec.a (modOf spec w)) (fldA w), (if isImm spec w then immB w else readCtl c (spec.b (modOf spec w)) (fldB w)), TCap.null,
    (if spec.readsD (modOf spec w) then readCtl c (spec.d (modOf spec w)) (fldD w) else TCap.null), c.pred⟩

/-- A control thread with the results of such an instruction written (R258). -/
def Ctl.results (c : Ctl) (spec : AluSpec) (w : FWord) (res : Res) : Ctl :=
  match res.p with
  | some (n, v) => (writeCtl c (spec.d (modOf spec w)) (fldD w) res.val).putPred n v
  | none => writeCtl c (spec.d (modOf spec w)) (fldD w) res.val

/-- What such an instruction makes of its sources; none where it traps. -/
def resultOf (i : Instr) (x : Src) : Option TCap :=
  match aluOf i with
  | none => none
  | some (spec, w, _) => match spec.op (modOf spec w) x with
    | .ok res => some res.val
    | .error _ => none

/-- A 32-bit value in an operand. -/
def val32 (v : Word) : TCap := ⟨v.setWidth 128, false⟩
/-- A 64-bit value in an operand. -/
def val64 (v : DWord) : TCap := ⟨v.setWidth 128, false⟩
/-- A predicate in an operand. -/
def valP (b : Bool) : TCap := ⟨if b then 1 else 0, false⟩

/-- The result is a 32-bit value of which a statement holds. -/
def Gives (i : Instr) (x : Src) (q : Word → Prop) : Prop := ∃ v, resultOf i x = some (val32 v) ∧ q v
/-- The result is a 64-bit value of which a statement holds. -/
def Gives64 (i : Instr) (x : Src) (q : DWord → Prop) : Prop := ∃ v, resultOf i x = some (val64 v) ∧ q v

/-! ## Memory as it is read -/

/-- The byte of device memory at a physical address. -/
def State.byteAt (s : State) (pa : Nat) : Byte := tabGet 0 s.mem pa

/-- The byte of a pair's scratchpad at a local offset. -/
def State.padByte (s : State) (pair off : Nat) : Byte := tabGet 0 (s.pair pair).pad off

/-- What byte k of a store's piece leaves where a byte stood: the new byte, under its mask when it has one (R101). -/
def Piece.newByte (p : Piece) (old : Byte) (k : Nat) : Byte :=
  match p.mask with
  | some m => mergeBits old (p.data.getD k 0) m
  | none => p.data.getD k 0

/-- No sector of a range is poisoned or about to fail (R60, R398). -/
def State.sound (s : State) (pa len : Nat) : Prop :=
  ∀ k, k < sectorCount pa len → tabGet false s.poison (pa / 256 + k) = false ∧ tabGet 0 s.flaws (pa / 256 + k) = 0

/-- Piece `i` of an access in flight has not reached its home, its request has left, and no earlier access of its thread to its bytes
stands before it (R107, R370). -/
def State.pieceOpen (s : State) (id i : Nat) (a : Access) (p : Piece) : Prop :=
  s.access id = some a ∧ a.pieces[i]? = some p ∧ p.done = false ∧ s.inOrder a p = true ∧ a.leaves ≤ s.gt

/-- What stands as piece `i` of an access. -/
def State.pieceIs (s : State) (id i : Nat) (p : Piece) : Prop := ∃ a, s.access id = some a ∧ a.pieces[i]? = some p

/-- The state as a write of a piece of an access comes next in home order: units in flight that overlap it without being equal have met it
(R121). -/
def State.comes (s : State) (id : Nat) (p : Piece) : State := { s.tear id p with order := s.order + 1 }

/-! ## What some instructions leave -/

/-- What an operand of a thread reads as; the null capability where the read traps. -/
def readVal (r : Rank) (p : Nat) (o : Opd) (f : Fld) : TCap :=
  match readOpd r p o f with
  | .ok v => v
  | .error _ => TCap.null

/-- Every thread of a list reads an operand without a trap. -/
def Reads (r : Rank) (ps : List Nat) (o : Opd) (f : Fld) : Prop := ∀ p ∈ ps, readOpd r p o f = .ok (readVal r p o f)

/-- A deposit joins those on their way under the next identifier. -/
def State.post (s : State) (d : Deposit) : State := { s with nextId := s.nextId + 1, deposits := s.deposits ++ [{ d with id := s.nextId }] }

/-- A rank without the shared range that begins at a register. -/
def Rank.unshare (r : Rank) (own : Nat) : Rank := { r with shares := r.shares.filter (fun g => g.own != own) }

/-- The other rank of a shared range keeps its own copy (R326). -/
def State.endShare (s : State) (h : Share) : State :=
  match s.team h.team with
  | none => s
  | some u => match u.rank h.rank with
    | none => s
    | some p => s.putTeam (u.putRank (p.unshare h.partner))

/-- A rank of another team, or another rank of the same team, is changed beside the focus. -/
def Foc.putPartner (f : Foc) (u : Team) (p : Rank) : Foc :=
  if u.uid = f.t.uid then f.withTeam (f.t.putRank p) else f.withState (f.s.putTeam (u.putRank p))

/-- A rank with one more shared range. -/
def Rank.share (r : Rank) (h : Share) : Rank := { r with shares := r.shares ++ [h] }

/-- Registers marked empty for every thread of a list (R328). -/
def Rank.emptyMarks (r : Rank) (ps regs : List Nat) : Rank :=
  ps.foldl (fun r p => regs.foldl (fun r n => (r.emptyV p n).putVtag p n false) r) r

/-- One value written to a destination by every thread of a list. -/
def Rank.writeAll (r : Rank) (age : Nat) (ps : List Nat) (o : Opd) (d : Fld) (v : Nat → TCap) : Rank :=
  ps.foldl (fun r p => writeOpd r age p o d (v p)) r

/-- A predicate written by every thread of a list. -/
def Rank.predAll (r : Rank) (ps : List Nat) (n : Nat) (b : Nat → Bool) : Rank := ps.foldl (fun r p => r.putPred p n (b p)) r

/-- The control stream traps ILLEGAL_STREAM at an F-form word of an opcode it does not have (R207). -/
def NotInControl (i : Instr) (op : BitVec 8) (w : FWord) (s : State) (t : Team) : Prop :=
  exec i s = .next (s.deliverCtl t { code := .illegalStream, detail := hiOf (fToWord op w) })

/-- The same for the vector stream. -/
def NotInVector (i : Instr) (op : BitVec 8) (w : FWord) (s : State) (f : Foc) : Prop :=
  exec i s = .next (f.trapIssue (f.members w.g.toNat w.gn) .illegalStream (hiOf (fToWord op w)))

/-- A control thread at a PC with a return stack, waiting for nothing. -/
def Ctl.goto (c : Ctl) (pc : BitVec 48) (rets : List (BitVec 48)) : Ctl := { c with pc := pc, rets := rets, wait := .none }

/-- Every thread of a split goes to one PC. -/
def Foc.allTo (f : Foc) (ps : List Nat) (pc : BitVec 48) : Foc := (f.goto pc).putSplit { (f.goto pc).x with mask := maskOf ps }

/-- A split divides in two: it keeps some threads at one PC, and the others become a split of the next age at another (R179). -/
def Foc.fork (f : Foc) (pc : BitVec 48) (ps : List Nat) (pc' : BitVec 48) (ps' : List Nat) (record : Option Nat) : Foc :=
  let g := f.putSplit { f.x with mask := maskOf ps, pc := pc, resume := 0, given := [], record := record, wait := .none }
  g.withRank { g.r with splits := g.r.splits ++ [⟨maskOf ps', pc', g.r.scnt, record, 0, [], .none, g.x.inHandler, 0⟩], scnt := g.r.scnt + 1 }

/-- A rank with a new convergence record for a split (R178, R179). -/
def Foc.recorded (f : Foc) (i : Nat) (jpc : BitVec 48) : Foc :=
  f.withRank { f.r with recs := tabPut none f.r.recs i (some ⟨f.x.record, f.x.age, jpc, f.x.mask, 0⟩) }

/-- The threads of a branch pass that take it, and those that fall through (R239). -/
def Foc.takers (f : Foc) (g : BitVec 3) (gn : Bool) : List Nat := (f.members 0 false).filter (fun p => f.r.pred p g.toNat != gn)
/-- Those that fall through. -/
def Foc.fallers (f : Foc) (g : BitVec 3) (gn : Bool) : List Nat := (f.members 0 false).filter (fun p => !(f.r.pred p g.toNat != gn))

/-- A return address pushed on the stack of each of some threads (R239). -/
def Rank.pushAll (r : Rank) (ps : List Nat) (pc : BitVec 48) : Rank := ps.foldl (fun r p => r.modThread p (fun th => { th with rets := pc :: th.rets })) r
/-- The top of the return stack of each of some threads popped (R241). -/
def Rank.popAll (r : Rank) (ps : List Nat) : Rank := ps.foldl (fun r p => r.modThread p (fun th => { th with rets := th.rets.tail })) r

/-- A control thread that has ended (R244). -/
def Ctl.finish (c : Ctl) : Ctl := { c with ended := true, wait := .none }

/-- A team whose barrier `b` stands as given. -/
def Team.putBar (t : Team) (b : Nat) (v : Barrier) : Team := { t with bars := tabPut Barrier.empty t.bars b v }

/-- The rod's other ready splits, for which a split that yields waits (R181). -/
def Foc.others (f : Foc) : List Agent :=
  ((f.s.readySplits f.t.pair f.r.rod).map (fun e => e.2)).filter (fun a => decide (a ≠ .vec f.t.uid f.r.num f.x.age))

/-- The rod chooses anew, and a split that yields waits for the others (R181, R243). -/
def Foc.yieldTo (f : Foc) (others : List Agent) : Foc :=
  let g := f.stopCur
  let rod := g.s.rod f.t.pair f.r.rod
  g.withState (g.s.putRod f.t.pair f.r.rod { rod with
    yielded := rod.yielded ++ (if others.isEmpty then [] else [(.vec f.t.uid f.r.num f.x.age, others)]) })

/-! ## Cross-thread instructions -/

/-- The cross-thread instructions that act within subgroups, with their descriptions (R312 to R318). -/
def xthOf (i : Instr) : Option (XthSpec × FWord) :=
  match i with
  | .shfl w => some (shuffleSpec 0x70 (fun _ b => (b.toNat : Int)), w)
  | .shflx w => some (shuffleSpec 0x71 (fun l b => ((l ^^^ b.toNat : Nat) : Int)), w)
  | .shflup w => some (shuffleSpec 0x72 (fun l b => (l : Int) - (b.toNat : Int)), w)
  | .shfldn w => some (shuffleSpec 0x73 (fun l b => (l : Int) + (b.toNat : Int)), w)
  | .ballot w => some (specBallot, w)
  | .vote w => some (specVote, w)
  | .red w => some (specRed, w)
  | .scan w => some (specScan, w)
  | .matchv w => some (specMatch, w)
  | .elect w => some (specElect, w)
  | _ => none

/-- What such an instruction knows for a position of its pass (R313 to R315). -/
def Foc.crossIn (f : Foc) (q : XthSpec) (w : FWord) (p : Nat) : XthIn :=
  { op := xOp w, exc := xBi w, size := 2 ^ xLs w, act := f.pass w, members := xMembers f.r (xMask f.r w) (2 ^ xLs w) p, live := f.r.living,
    val := fun u => lo32 (readVal f.r u q.a (fldA w)), pos := p,
    b := if q.lane then (if xBi w then w.b.setWidth 32 else lo32 (readVal f.r p .reg (fldB w))) else 0 }

/-- The living members of the subgroups that such a pass reads. -/
def Foc.crossUsers (f : Foc) (w : FWord) : List Nat :=
  (f.pass w).flatMap (fun p => (xMembers f.r (xMask f.r w) (2 ^ xLs w) p).filter f.r.living)

/-- The positions of the quads that a pass has threads in. -/
def Foc.quadUsers (f : Foc) (w : FWord) : List Nat :=
  ((List.range 16).filter (fun n => (f.pass w).any (fun p => p / 4 == n))).flatMap (fun n => quadOf (4 * n))

/-! ## Memory instructions -/

/-- The passes of the memory instructions of the vector stream, with their guards (R290 to R300). -/
def memOf (i : Instr) : Option (MemPass × BitVec 3 × Bool) :=
  match i with
  | .ld w => some (loadPass 0x88 w (memOpd w.ty.toNat) (fun t => decide (t < 13)) (tyBytes w.ty.toNat) (ldSend w), w.g, w.gn)
  | .ldf w => some (loadPass 0x8A w (memOpd w.ty.toNat) elemTypes 1 (ldfSend w), w.g, w.gn)
  | .ldcap w => some (loadPass 0x8F w .quad (fun t => t == 12) 16 (ldcapSend w), w.g, w.gn)
  | .st w => some (storePass 0x89 w (memOpd w.ty.toNat) (fun t => decide (t < 13)) (tyBytes w.ty.toNat)
      (fun f _ a v => f.s.sendStore a false w.ty.toNat v), w.g, w.gn)
  | .stcap w => some (storePass 0x90 w .quad (fun t => t == 12) 16 (fun f _ a v => f.s.sendStore a true 12 v), w.g, w.gn)
  | .stf w => some (storePass 0x8B w (memOpd w.ty.toNat) elemTypes 1
      (fun f p a v => f.s.sendElemStore a w.ty.toNat v.bits.toNat (stfScale f.r p (w.d.toNat + (if w.ty.toNat = 11 then 2 else 1)))), w.g, w.gn)
  | .atom w => some (atomPass w, w.g, w.gn)
  | .pref w => some (prefPass w, w.g, w.gn)
  | _ => none

/-- Whatever the time a split issues at, its pass reaches its end with no trap, no wait and no access beyond the installed memory. -/
def VecWhole (s : State) (f : Foc) (pass : Foc → Foc × Option (Nat × Stop)) : Prop :=
  ∀ now rod, (pass { f with s := s.afterIssue f now rod }).2 = none ∧ (pass { f with s := s.afterIssue f now rod }).1.s.hole = none

/-- Whatever the time a control thread issues at, its access is sent, with no access beyond the installed memory. -/
def CtlSends (s : State) (t : Team) (send : State → State × Except Stop Sent) : Prop :=
  ∀ now last, ∃ s' id, send (s.afterCtl t now last) = (s', .ok (.access id)) ∧ s'.hole = none

/-- The identifier of the access that a control thread's instruction sent, and the state with it in flight. -/
def sentId (out : State × Except Stop Sent) : Nat :=
  match out.2 with
  | .ok (.access id) => id
  | _ => 0

/-- A control thread whose RES predicate says that its page was there (R52). -/
def Team.present (t : Team) (res : BitVec 3) : Team := t.withCtl (t.ctl.putPred res.toNat true)

/-- The state with one more access in flight, under the next identifier. -/
def State.flying (s : State) (a : MemReq) (kind : AccKind) (pieces : List Piece) : State :=
  { s with
    nextId := s.nextId + 1
    accesses := s.accesses ++ [{ id := s.nextId, born := s.gt, who := a.who, pair := a.q.pair, ctx := a.q.ctx, space := capSpace a.c,
                                 addr := a.addr.toNat, kind := kind, pieces := pieces }] }

/-- Whatever the time a control thread issues at, what follows meets no address beyond the installed memory. -/
def CtlWhole (s : State) (t : Team) (k : State → Team → State) : Prop :=
  ∀ now last e ra, (k (s.afterCtl t now last) (t.retimed e ra)).hole = none

/-! ## Sampled loads, traces and the heap -/

/-- The per-thread step and the zeros of a helper of the instructions that hand each thread to the sampler, the traversal unit or the heap:
with the threads of the pass (R306 to R310, R304). -/
def taskOf (i : Instr) (f : Foc) : Option ((Foc → Nat → Except Stop Foc) × (Foc → Nat → Foc) × List Nat) :=
  match i with
  | .sample w => some (smThread 0 w, smZero 0 w, onceIf (w.kd && w.ka && w.kb && guardP0 w) (f.pass w))
  | .fetch w => some (smThread 1 w, smZero 1 w, onceIf (w.kd && w.ka && w.kb && guardP0 w) (f.pass w))
  | .rquery w => some (smThread 2 w, smZero 2 w, onceIf (w.kd && w.ka && w.kb && guardP0 w) (f.pass w))
  | .trace w => some (traceThread w, traceZero w, onceIf (w.kd && w.ka && w.kb && guardP0 w) (f.pass w))
  | .dalloc w => some (dallocThread w, dallocZero w, onceIf (w.kd && w.ka && guardP0 w && w.md.toNat % 8 == 0) (f.pass w))
  | _ => none

/-- The word of such an instruction, its operands and whether its modifier is legal. -/
def taskForm (i : Instr) (quad : Bool) : Option (FWord × Opd × Opd × Opd × Bool) :=
  match i with
  | .sample w => some (w, .run (smCount 0 w.md.toNat), .quad, .run (smArgs 0 w.md.toNat), smOk 0 quad .vec w)
  | .fetch w => some (w, .run (smCount 1 w.md.toNat), .quad, .run (smArgs 1 w.md.toNat), smOk 1 quad .vec w)
  | .rquery w => some (w, .run (smCount 2 w.md.toNat), .quad, .run (smArgs 2 w.md.toNat), smOk 2 quad .vec w)
  | .trace w => some (w, .run 5, .quad, .run 8,
      plainMod w 4 && fldOk .vec (.run 5) (fldD w) && fldOk .vec .quad (fldA w) && fldOk .vec (.run 8) (fldB w))
  | .dalloc w => some (w, .quad, .reg, .none, dallocOk .vec w)
  | _ => none

/-- What a DFREE does once its threads have given up their blocks: it waits as a device-scope release does (R305). -/
def Foc.afterFrees (f : Foc) (ps : List Nat) : Foc :=
  f.withState (ps.foldl (fun s p => s.triggerRange f.t.pair 0 (s.extent f.t.pair) ⟨f.t.uid, some f.r.num, p⟩) (f.s.landPass f.t.uid f.r.num ps))

/-- The same of a control thread. -/
def State.afterFree (s : State) (t : Team) : State := (s.landCtl t.uid).triggerRange t.pair 0 (s.extent t.pair) ⟨t.uid, none, 0⟩

/-! ## Engines -/

/-- The format codes of both sides of a copy, from the pages or map entries they begin in (R334). -/
def State.copyFormats (s : State) (o : EngOp) : State × EngOp :=
  ((if o.ring then (s.sideFmt o.req o.src).1 else ((s.sideFmt o.req o.src).1.sideFmt o.req o.dst).1),
    { o with srcFmt := (s.sideFmt o.req o.src).2, dstFmt := if o.ring then 0 else ((s.sideFmt o.req o.src).1.sideFmt o.req o.dst).2 })

/-- The range-lock entries of a copy (R142). -/
def EngOp.lockList (o : EngOp) (slot : Nat) : List (Nat × RangeLock) := o.registered.flatMap (o.entries slot)

/-- A copy passes the checks of R336 whatever the time it issues at, and its engine has a place and its range locks are free. -/
def CopyGoes (s : State) (t : Team) (o : EngOp) : Prop :=
  ∀ now last, ∀ x, x = (s.afterCtl t now last).copyFormats o →
    copyFmtTrap x.2 = none ∧ x.1.copyShapeOk x.2 = true ∧ ownClash (x.2.lockList t.slot) = false ∧ x.1.checkSpans x.2 = none ∧ x.1.hole = none ∧
      tabGet false x.1.engines o.unit = false ∧ x.1.opsOn o.unit < 64 ∧ x.1.locksFree ({ x.2 with target := 0 }.lockList t.slot) = true

/-- An operation joins those in flight under the next identifier, and registers its range locks (R142, R336). -/
def State.launchOp (s : State) (o : EngOp) (slot : Nat) : State :=
  let p : EngOp := { o with id := s.nextId, total := o.units }
  let s := { s with nextId := s.nextId + 1 }
  { s.putLocks (p.lockList slot) with ops := s.ops ++ [p] }

/-- A control thread that holds a handle's state. -/
def Team.holding (t : Team) (h : Nat) (v : Handle) : Team := { t with handles := tabPut .idle t.handles h v }

/-- A control thread whose PCM has reached a time. -/
def Team.reach (t : Team) (w : Nat) : Team := t.withCtl { t.ctl with pcm := max t.ctl.pcm w }

/-! ## Matrix instructions -/

/-- The operation that MMA or MMAG asks for, with the rows of its first source (R344, R345). -/
def mmaOp (op : BitVec 8) (w : FWord) (t : Team) (rows : List Nat) : MatOp :=
  { MatOp.of t .mma (fToWord op w) (w.md.getLsbD 0) (tileOf (fldD w)) with
    mapA := mapAt t.ctl w.a.toNat
    mapB := mapAt t.ctl w.b.toNat
    nk := bitsAt w.md.toNat 1 8 + 1
    rowsA := rows }

/-- The index list that MMAG's first source names. -/
def mmaList (w : FWord) (t : Team) : IdxList :=
  ⟨2 + mapIkind (mapAt t.ctl w.a.toNat), mapIbase (mapAt t.ctl w.a.toNat), rowsOf (w.md.getLsbD 0)⟩

/-- The checks of R345 on an MMA all pass, its rows are known, its lease has a chunk left, and its mapped sectors are there. -/
def MmaFree (o : MatOp) (x : Option IdxList) (hi : DWord) (s : State) (t : Team) : Prop :=
  s.rowsNamed t o.p x = some o.rowsA ∧ s.mmaTrap t o x hi = none ∧ t.lc ≠ 0 ∧
    s.matFills t.pair ⟨t.uid, none, 0⟩ (s.sourceBytes t o.mapA o.rowsA o.nk ++ s.sourceBytes t o.mapB (List.range 16) o.nk) = (s, none)

/-- An MMA that its abacus has accepted: the lease counts it, and ends with its last (R341, R345). -/
def State.accepted (s : State) (t : Team) (o : MatOp) : State :=
  (if t.lc = 1 then (s.accept t o).endLease t else s.accept t o).ctlDone { t with lc := t.lc - 1 }

/-- What an attempt gave, or a value in its place. -/
def okOr {α : Type} (d : α) (e : Except Stop α) : α :=
  match e with
  | .ok v => v
  | .error _ => d

/-- The operation that MSTORE or MSTOREG asks for on plain memory, before its rows are translated (R347, R348). -/
def storeOp (op : BitVec 8) (w : FWord) (t : Team) (acc : Bool) : MatOp :=
  { MatOp.of t .mstore (fToWord op w) (w.md.getLsbD 0) (tileOf (fldA w)) with ty := bitsAt w.md.toNat 4 2, md := w.md, acc := acc }

/-- The index list that MSTOREG names. -/
def storeList (w : FWord) (t : Team) : IdxList :=
  ⟨2 + bitsAt (t.ctl.getS (w.b.toNat + 1)).toNat 24 2, bitsAt (t.ctl.getS (w.b.toNat + 1)).toNat 0 24, rowsOf (w.md.getLsbD 0)⟩

/-- The addresses of the rows that a tile store names (R347, R348). -/
def storeRows (w : FWord) (t : Team) (rows : List Nat) : List Nat :=
  rowAddrs (t.ctl.getC (w.d.toNat - 64)) ((t.ctl.getS w.b.toNat).toNat % 2 ^ 32) rows

/-- The pieces of plain rows of MSTORE and MSTOREG, translated; with ACC each element is an atomic (R347, R348). -/
def State.storePlan (s : State) (t : Team) (o : MatOp) (c : TCap) (addrs : List Nat) : State × Except Stop (List (List Piece)) :=
  (s.destFmt t c addrs).1.tileRows t c (if o.acc then needR + needW else needW) (16 * tileBytes o.ty) addrs

/-- A tile store to plain memory whose rows are known passes the checks of R345. -/
def StoreFree (o : MatOp) (c : TCap) (x : Option IdxList) (rows addrs : List Nat) (s : State) (t : Team) : Prop :=
  s.rowsNamed t o.p x = some rows ∧ ((s.destFmt t c addrs).2.getD 0 / 4 = 0 ∨ o.acc = true) ∧
    (s.destFmt t c addrs).1.storeTrap t o c (s.destFmt t c addrs).2 x addrs = none ∧
    (∃ l, (s.storePlan t o c addrs).2 = .ok l) ∧ (s.storePlan t o c addrs).1.hole = none

/-! ## Host commands -/

/-- The fields of a command's slot, each as its first byte and its length (R448). -/
def cmdFields : Nat → List (Nat × Nat)
  | 2 => [(8, 8), (16, 2), (24, 8)]
  | 3 => [(8, 8), (16, 4)]
  | 4 => [(8, 8), (16, 8), (24, 1)]
  | 5 => [(8, 8), (16, 8), (24, 8), (32, 1), (40, 8)]
  | 6 => [(8, 8), (16, 8), (24, 8)]
  | 8 => [(8, 1), (9, 1), (10, 2)]
  | 9 => [(8, 8), (16, 8), (24, 1), (25, 1)]
  | 10 => [(8, 4)]
  | 11 => [(8, 2), (16, 8), (24, 8)]
  | 12 => [(8, 2), (16, 8), (24, 8)]
  | _ => [(8, 8)]

/-- A command that completes with BAD_COMMAND: a byte of its body outside the fields is not 0, an address is misaligned, or a field is
out of its range (R448). -/
def Command.wrong (c : Command) (code : Nat) : Bool :=
  c.body.zipIdx.any (fun e => decide (e.1 ≠ 0) && (cmdFields code).all (fun f => decide (e.2 + 8 < f.1) || decide (f.1 + f.2 ≤ e.2 + 8))) ||
    (match code with
      | 1 => c.field 8 8 % 256 != 0
      | 2 => c.field 8 8 % 512 != 0 || decide (255 < c.field 16 2)
      | 3 => c.field 8 8 % 256 != 0
      | 4 => (c.field 24 1 != 4 && c.field 24 1 != 8) || c.field 8 8 % c.field 24 1 != 0
      | 5 => c.field 8 8 % 8 != 0 || decide (2 < c.field 32 1)
      | 8 => decide (15 < c.field 8 1)
      | 9 => decide (15 < c.field 24 1) || decide (1 < c.field 25 1)
      | 11 => decide (255 < c.field 8 2)
      | 12 => decide (255 < c.field 8 2)
      | _ => false)

/-- A window holds a command of this code that may begin, and whose body is right. -/
def State.takes (s : State) (win code : Nat) (c : Command) : Prop := s.cmdReady win code = some c ∧ c.begun = false ∧ c.wrong code = false

/-- What a window's command is after an event. -/
def State.cmdIs (s : State) (win : Nat) (c : Command) : Prop := (s.window win).cmd = some c

/-- The groups of pairs of a saved context that move together, and whether each moves as a gang in its cluster (R396). -/
def State.savedGroups (s : State) (v : Saved) : List (List Nat × Bool) :=
  (s.saveGroups v).map (fun l => (l, match l with
    | p :: _ => (match (v.pairs.find? (fun e => e.1 == p)).bind (fun e => e.2.grid.bind s.grid) with | some g => g.launch.gang != 0 | none => false)
    | [] => false))

/-! ## Faults and the owner -/

/-- A fault that an owner's answer may act on: delivered, of a context on the device, and of the debugger or not (R49, R384, R392). -/
def State.answerable (s : State) (id : Nat) (brk : Bool) (r : FaultRec) : Prop :=
  s.fault id = some r ∧ r.delivered = true ∧ decide (r.code = .brk) = brk ∧ s.away r.ctx = false

/-- The trap of a declined fault (R49). -/
def FaultRec.trap (r : FaultRec) : Trap := { code := r.code, detail := BitVec.ofNat 64 (r.va % 2 ^ 32), addr := BitVec.ofNat 48 r.va }

/-- The threads H of a split that waits at a BRK go on at an address, the others behind it as a return from its handler puts them
(R379, R384). -/
def Foc.resumed (f : Foc) (r : FaultRec) (pc : BitVec 48) : State :=
  let g := f.retTo { code := .brk, trapPc := f.x.pc + 8, pc := f.x.pc, resume := r.pos, mask := f.x.mask, actives := r.actives, handled := r.handled,
                     given := f.x.given, record := f.x.record } pc
  let mine (x : Split) : Bool := x.age == f.x.age || !(f.r.splits.map (fun y => y.age)).any (fun a => a == x.age)
  ({ g with r := { g.r with
      handler := f.r.handler
      splits := g.r.splits.map (fun x => if mine x then { x with inHandler := f.x.inHandler } else x) } } : Foc).close

/-! ## Instructions that may write device memory -/

/-- The instructions, commands and events that may write a byte of device memory as they run: stores and what carries them out, copies,
write-backs, records, tables and host writes; an instruction that first lets its thread's own stores land; DALLOC, which clears a block; and
the reset. -/
def mayWriteMemory : Instr → Bool
  | .abacusChunk _ _ => true
  | .atom _ => true
  | .beam _ => true
  | .blendCommit _ _ => true
  | .blockModeWrite _ => true
  | .childDoneWrite _ => true
  | .commandComplete _ => true
  | .dalloc _ => true
  | .dfree _ => true
  | .engineWriteAck _ _ => true
  | .faultDecline _ => true
  | .faultRestart _ _ => true
  | .fence _ => true
  | .handleResolve _ => true
  | .homeWriteApply _ _ => true
  | .hostAtomic _ _ _ _ _ _ => true
  | .hostMemWrite _ _ _ => true
  | .ireq _ => true
  | .launch _ => true
  | .masterReset _ _ => true
  | .mload _ => true
  | .mma _ => true
  | .mmag _ => true
  | .powerExitComplete _ => true
  | .remainderAppend _ => true
  | .saveAreaWrite _ => true
  | .sectorFillComplete _ _ => true
  | .setContext _ => true
  | .splatSortRelease _ _ _ => true
  | .spwb _ => true
  | .st _ => true
  | .stcap _ => true
  | .stcmp _ => true
  | .stf _ => true
  | .teamEnd _ => true
  | .tlbInvalidate _ _ _ _ _ _ => true
  | .writeValue _ => true
  | .writebackComplete _ _ => true
  | .deviceReset _ => true
  | _ => false

end Sys2Proof.Machine
end

