-- ==== Sys2Proof/Certificates/Slice0/Obligations.lean ====
section
/-! DEFINITION. The statements to be proved: what the instructions, commands and events do, what they leave unchanged, how words decode, and
what every step keeps. -/

open Sys2Proof Sys2Proof.Machine

/-- The register instructions of the vector stream (R256 to R260); The register instructions of the control stream (R258). -/
def Obligations.AluInstructionsRun : Prop :=
  (∀ (i : Instr) (sp : AluSpec) (w : FWord) (x : Option XWord) (s : State) (f : Foc) (r' : Rank), aluOf i = some (sp, w, x) → VecIssues s f →
    aluFieldsOk .vec sp w x = true → (∀ n ∈ aluRegs sp w x, n < f.r.top) →
    (∀ p ∈ aluThreads sp w x f, ∀ n ∈ aluNeeds sp w x, f.r.isFull p n = true) →
    aluRun sp w x f.x.age (aluThreads sp w x f) f.r = some r' →
    VecRuns i s f (fun g => ((g.withRank r').goto (f.x.pc + (if x.isSome then 16 else 8))).close)) ∧
  (∀ (i : Instr) (sp : AluSpec) (w : FWord) (x : Option XWord) (s : State) (t : Team), aluOf i = some (sp, w, x) → CtlIssues s t →
    (sp.ctl = true → aluFieldsOk .ctl sp w none = true →
      (¬ t.guard w.g w.gn → CtlRuns i s t State.ctlDone) ∧
      (∀ res, t.guard w.g w.gn → sp.op (modOf sp w) (ctlSrc sp w t.ctl) = .ok res →
        CtlRuns i s t (fun s u => s.ctlDone (u.withCtl (u.ctl.results sp w res)))) ∧
      (∀ tr, t.guard w.g w.gn → sp.op (modOf sp w) (ctlSrc sp w t.ctl) = .error tr → CtlRuns i s t (fun s u => s.trapCtl u tr))) ∧
    (sp.ctl = false → exec i s = .next (s.deliverCtl t { code := .illegalStream, detail := hiOf (fToWord sp.opc w) })))

/-- The frame of the register instructions (R256, R260). -/
def Obligations.AluFrame : Prop :=
  ∀ (i : Instr) (sp : AluSpec) (w : FWord) (x : Option XWord) (age : Nat) (ps : List Nat) (r r' : Rank), aluOf i = some (sp, w, x) →
    aluFieldsOk .vec sp w x = true → aluRun sp w x age ps r = some r' →
    (∀ p n, p ∉ ps → r'.vreg p n = r.vreg p n ∧ r'.pred p n = r.pred p n ∧ r'.vtag p n = r.vtag p n) ∧
    (∀ p n, n ∉ vregsOf (sp.d (modOf sp w)) (fldD w) → r'.vreg p n = r.vreg p n) ∧
    (∀ p n, sp.d (modOf sp w) ≠ .pred → n ≠ sp.predOut (modOf sp w) → r'.pred p n = r.pred p n) ∧
    (∀ p n, sp.d (modOf sp w) = .pred → n ≠ w.d.toNat → n ≠ sp.predOut (modOf sp w) → r'.pred p n = r.pred p n) ∧
    (∀ n, w.kd = false → r'.kreg n = r.kreg n ∧ r'.ktag n = r.ktag n) ∧
    (∀ n, w.kd = true → (n < w.d.toNat ∨ w.d.toNat + (sp.d (modOf sp w)).count ≤ n) → r'.kreg n = r.kreg n) ∧
    r'.splits = r.splits ∧ r'.shares = r.shares ∧ r'.top = r.top ∧ r'.width = r.width ∧ r'.threads.length = r.threads.length

/-- NOP, the empty pair and LI (R206, R231, R265). -/
def Obligations.NopAndImmediateRun : Prop :=
  (∀ w s f, VecIssues s f → fToWord 0x00#8 w = 0 → VecRuns (.nop w) s f Foc.done) ∧
  (∀ w s t, CtlIssues s t → fToWord 0x00#8 w = 0 → CtlRuns (.nop w) s t State.ctlDone) ∧
  (∀ w s f, VecIssues s f → fToWord 0x00#8 w ≠ 0 →
    exec (.nop w) s = .next (f.trapIssue (f.members w.g.toNat w.gn) .illegalOperand (hiOf (fToWord 0x00#8 w)))) ∧
  (∀ w s t, CtlIssues s t → fToWord 0x00#8 w ≠ 0 →
    exec (.nop w) s = .next (s.deliverCtl t { code := .illegalOperand, detail := hiOf (fToWord 0x00#8 w) })) ∧
  (∀ (w : DWord) (nx : Option DWord), (∃ f, fToWord 0x00#8 f = 0 ∧ (decodeWords w nx).1 = .nop f) ↔ w = 0) ∧
  (∀ w s f, VecIssues s f → pToWord w = 0x4000000000000000#64 → VecRuns (.pFormPair w) s f Foc.done) ∧
  (∀ w s f, VecIssues s f → fldOk .vec .reg ⟨w.d.toNat, w.kd, false⟩ = true → w.res = 0 →
    Clear f (f.members 0 false) (vregsOf .reg ⟨w.d.toNat, w.kd, false⟩) (vregsOf .reg ⟨w.d.toNat, w.kd, false⟩) →
    VecRuns (.li w) s f (fun g => (g.withRank (g.r.writeAll f.x.age (if w.kd then (f.members 0 false).take 1 else f.members 0 false) .reg
      ⟨w.d.toNat, w.kd, false⟩ (fun _ => ⟨w.imm.setWidth 128, false⟩))).done)) ∧
  (∀ w s t, CtlIssues s t → fldOk .ctl .reg ⟨w.d.toNat, w.kd, false⟩ = true → w.res = 0 →
    CtlRuns (.li w) s t (fun s t => s.ctlDone (t.withCtl (t.ctl.putS w.d.toNat (w.imm.signExtend 64)))))

/-- The 32-bit arithmetic of R261; Logic, shifts, fields and counts (R262, R263). -/
def Obligations.IntegerAndBitwiseResults : Prop :=
  (∀ (w : FWord) (x : Src),
    (w.md.toNat % 2048 = 0 → Gives (.iadd w) x (fun v => v = lo32 x.a + lo32 x.b) ∧ Gives (.isub w) x (fun v => v = lo32 x.a - lo32 x.b)) ∧
    (w.md.toNat % 2048 = 1 →
      Gives (.iadd w) x (fun v => v.toInt = max (-2 ^ 31) (min (2 ^ 31 - 1) ((lo32 x.a).toInt + (lo32 x.b).toInt))) ∧
      Gives (.isub w) x (fun v => v.toInt = max (-2 ^ 31) (min (2 ^ 31 - 1) ((lo32 x.a).toInt - (lo32 x.b).toInt)))) ∧
    (w.md.toNat % 2048 = 2 →
      Gives (.iadd w) x (fun v => v.toNat = min (2 ^ 32 - 1) ((lo32 x.a).toNat + (lo32 x.b).toNat)) ∧
      Gives (.isub w) x (fun v => v.toNat = (lo32 x.a).toNat - (lo32 x.b).toNat)) ∧
    Gives (.imul w) x (fun v => v.toNat = (lo32 x.a).toNat * (lo32 x.b).toNat % 2 ^ 32) ∧
    Gives (.imad w) x (fun v => v.toNat = ((lo32 x.a).toNat * (lo32 x.b).toNat + (lo32 x.d).toNat) % 2 ^ 32) ∧
    (w.md.getLsbD 0 = false → Gives (.imulh w) x (fun v => v.toNat = (lo32 x.a).toNat * (lo32 x.b).toNat / 2 ^ 32)) ∧
    (w.md.getLsbD 0 = true → Gives (.imulh w) x (fun v => v.toInt = (lo32 x.a).toInt * (lo32 x.b).toInt / 2 ^ 32)) ∧
    (∀ c, c = (w.md.getLsbD 7 && x.p (bitsAt w.md.toNat 4 3)) → Gives (.iaddc w) x (fun v =>
      (∃ k : Bool, iaddcOp (w.md.toNat % 2048) x = .ok { val := val32 v, p := some (bitsAt w.md.toNat 0 3, k) } ∧
        v.toNat + 2 ^ 32 * k.toNat = (lo32 x.a).toNat + (lo32 x.b).toNat + c.toNat))) ∧
    (w.md.getLsbD 0 = true → Gives (.imin w) x (fun v => v.toInt = min (lo32 x.a).toInt (lo32 x.b).toInt) ∧
      Gives (.imax w) x (fun v => v.toInt = max (lo32 x.a).toInt (lo32 x.b).toInt)) ∧
    (w.md.getLsbD 0 = false → Gives (.imin w) x (fun v => v.toNat = min (lo32 x.a).toNat (lo32 x.b).toNat) ∧
      Gives (.imax w) x (fun v => v.toNat = max (lo32 x.a).toNat (lo32 x.b).toNat)) ∧
    Gives (.iabs w) x (fun v => if lo32 x.a = 0x80000000 then v = (if w.md.getLsbD 0 then 0x7FFFFFFF else 0x80000000)
      else v.toInt = ((lo32 x.a).toInt.natAbs : Int))) ∧
  (∀ (w : FWord) (x : Src),
    Gives (.and w) x (fun v => ∀ i < 32, v.getLsbD i = ((lo32 x.a).getLsbD i && (lo32 x.b).getLsbD i)) ∧
    Gives (.or w) x (fun v => ∀ i < 32, v.getLsbD i = ((lo32 x.a).getLsbD i || (lo32 x.b).getLsbD i)) ∧
    Gives (.xor w) x (fun v => ∀ i < 32, v.getLsbD i = ((lo32 x.a).getLsbD i != (lo32 x.b).getLsbD i)) ∧
    Gives (.andn w) x (fun v => ∀ i < 32, v.getLsbD i = ((lo32 x.a).getLsbD i && !(lo32 x.b).getLsbD i)) ∧
    Gives (.shl w) x (fun v => v.toNat = (lo32 x.a).toNat * 2 ^ (lo32 x.b).toNat % 2 ^ 32) ∧
    Gives (.shr w) x (fun v => v.toNat = (lo32 x.a).toNat / 2 ^ (lo32 x.b).toNat) ∧
    Gives (.sar w) x (fun v => v.toInt = (lo32 x.a).toInt / 2 ^ (lo32 x.b).toNat) ∧
    Gives (.rotl w) x (fun v => ∀ i < 32, v.getLsbD ((i + (lo32 x.b).toNat) % 32) = (lo32 x.a).getLsbD i) ∧
    (∀ pos len, pos = (lo32 x.b).toNat % 32 → len = min ((lo32 x.b).toNat / 32 % 64) (32 - pos) →
      Gives (.bfx w) x (fun v => ∀ i < 32, v.getLsbD i =
        (if i < len then (lo32 x.a).getLsbD (pos + i) else w.md.getLsbD 0 && decide (0 < len) && (lo32 x.a).getLsbD (pos + len - 1))) ∧
      Gives (.bfi w) x (fun v => ∀ i < 32, v.getLsbD i =
        (if pos ≤ i ∧ i < pos + len then (lo32 x.a).getLsbD (i - pos) else (lo32 x.d).getLsbD i))) ∧
    Gives (.popc w) x (fun v => v.toNat = (List.range 32).countP (fun i => (lo32 x.a).getLsbD i)) ∧
    Gives (.clz w) x (fun v => v.toNat ≤ 32 ∧ (lo32 x.a).toNat < 2 ^ (32 - v.toNat) ∧ (v.toNat < 32 → 2 ^ (31 - v.toNat) ≤ (lo32 x.a).toNat)) ∧
    Gives (.ctz w) x (fun v => v.toNat ≤ 32 ∧ (lo32 x.a).toNat % 2 ^ v.toNat = 0 ∧ (v.toNat < 32 → (lo32 x.a).toNat / 2 ^ v.toNat % 2 = 1)) ∧
    Gives (.brev w) x (fun v => ∀ i < 32, v.getLsbD i = (lo32 x.a).getLsbD (31 - i)) ∧
    Gives (.perm w) x (fun v => ∀ i < 4, v.toNat / 2 ^ (8 * i) % 256 =
      ((lo32 x.a).toNat + 2 ^ 32 * (lo32 x.b).toNat) / 2 ^ (8 * (w.md.toNat / 2 ^ (3 * i) % 8)) % 256) ∧
    Gives (.sel w) x (fun v => v = if x.p (w.md.toNat % 8) != w.md.getLsbD 3 then lo32 x.a else lo32 x.b) ∧
    Gives (.mov w) x (fun v => v = lo32 x.a))

/-- Comparisons and the 64-bit instructions (R263, R264), and the carry chain of R261. -/
def Obligations.LongAndCompareResults : Prop :=
  (∀ (w : FWord) (x : Src) (c : Nat), c = w.md.toNat % 2048 → c < 10 →
    (∀ (a b : Word), a = lo32 x.a → b = lo32 x.b → resultOf (.icmp w) x = some (valP (decide
      ((c = 0 ∧ a = b) ∨ (c = 1 ∧ a ≠ b) ∨ (c = 2 ∧ a.toInt < b.toInt) ∨ (c = 3 ∧ a.toInt ≤ b.toInt) ∨ (c = 4 ∧ b.toInt < a.toInt) ∨
        (c = 5 ∧ b.toInt ≤ a.toInt) ∨ (c = 6 ∧ a.toNat < b.toNat) ∨ (c = 7 ∧ a.toNat ≤ b.toNat) ∨ (c = 8 ∧ b.toNat < a.toNat) ∨
        (c = 9 ∧ b.toNat ≤ a.toNat))))) ∧
    (∀ (a b : DWord), a = lo64 x.a → b = lo64 x.b → resultOf (.icmp64 w) x = some (valP (decide
      ((c = 0 ∧ a = b) ∨ (c = 1 ∧ a ≠ b) ∨ (c = 2 ∧ a.toInt < b.toInt) ∨ (c = 3 ∧ a.toInt ≤ b.toInt) ∨ (c = 4 ∧ b.toInt < a.toInt) ∨
        (c = 5 ∧ b.toInt ≤ a.toInt) ∨ (c = 6 ∧ a.toNat < b.toNat) ∨ (c = 7 ∧ a.toNat ≤ b.toNat) ∨ (c = 8 ∧ b.toNat < a.toNat) ∨
        (c = 9 ∧ b.toNat ≤ a.toNat)))))) ∧
  (∀ (w : FWord) (x : Src),
    Gives64 (.iadd64 w) x (fun v => v.toNat = ((lo64 x.a).toNat + (lo64 x.b).toNat) % 2 ^ 64) ∧
    Gives64 (.isub64 w) x (fun v => v = lo64 x.a - lo64 x.b) ∧
    Gives64 (.imad64 w) x (fun v => v.toNat = ((lo64 x.a).toNat * (lo64 x.b).toNat + (lo64 x.d).toNat) % 2 ^ 64) ∧
    Gives64 (.shl64 w) x (fun v => v.toNat = (lo64 x.a).toNat * 2 ^ (lo32 x.b).toNat % 2 ^ 64) ∧
    Gives64 (.shr64 w) x (fun v => v.toNat = (lo64 x.a).toNat / 2 ^ (lo32 x.b).toNat) ∧
    Gives64 (.sar64 w) x (fun v => v.toInt = (lo64 x.a).toInt / 2 ^ (lo32 x.b).toNat) ∧
    Gives64 (.mov64 w) x (fun v => v = lo64 x.a)) ∧
  (∀ (al ah bl bh : Word) (k l : FWord) (q : Nat → Bool), k.md.toNat % 2048 = 1 → l.md.toNat % 2048 = 0x92 →
    ∃ lo hi c e, iaddcOp (k.md.toNat % 2048) ⟨val32 al, val32 bl, TCap.null, TCap.null, q⟩ = .ok { val := val32 lo, p := some (1, c) } ∧
      iaddcOp (l.md.toNat % 2048) ⟨val32 ah, val32 bh, TCap.null, TCap.null, fun n => if n = 1 then c else q n⟩ =
        .ok { val := val32 hi, p := some (2, e) } ∧
      lo.toNat + 2 ^ 32 * hi.toNat + 2 ^ 64 * e.toNat = (al.toNat + 2 ^ 32 * ah.toNat) + (bl.toNat + 2 ^ 32 * bh.toNat))

/-- The arithmetic of R276 on FP32, and by halves; Rounding (R86 to R88). -/
def Obligations.FloatArithmeticAndRounding : Prop :=
  (∀ (w : FWord) (x : Src) (a b d : Fv), a = fpUnpack fp32 (modA fp32 w.md.toNat (n32 x.a)) → b = fpUnpack fp32 (modB fp32 w.md.toNat (n32 x.b)) →
    d = fpUnpack fp32 (n32 x.d) →
    (w.md.getLsbD 6 = false →
      (a = .nan ∨ b = .nan → Gives (.fadd w) x (fun v => v = 0x7FC00000) ∧ Gives (.fsub w) x (fun v => v = 0x7FC00000) ∧
        Gives (.fmul w) x (fun v => v = 0x7FC00000) ∧ Gives (.ffma w) x (fun v => v = 0x7FC00000) ∧ Gives (.ffms w) x (fun v => v = 0x7FC00000) ∧
        Gives (.fnma w) x (fun v => v = 0x7FC00000)) ∧
      (∀ n, a = .inf n → b = .inf (!n) → Gives (.fadd w) x (fun v => v = 0x7FC00000)) ∧
      (∀ n, a = .inf n → b = .inf n → Gives (.fsub w) x (fun v => v = 0x7FC00000) ∧
        Gives (.fadd w) x (fun v => v = if n then 0xFF800000 else 0x7F800000)) ∧
      (∀ n k e, a = .inf n → b = .fin k 0 e → Gives (.fmul w) x (fun v => v = 0x7FC00000) ∧ Gives (.ffma w) x (fun v => v = 0x7FC00000)) ∧
      (∀ n k m e, a = .inf n → b = .fin k (m + 1) e → d = .inf (n == k) → Gives (.ffma w) x (fun v => v = 0x7FC00000)) ∧
      (∀ n m e, a = .fin n m e → b = .fin (!n) m e → Gives (.fadd w) x (fun v => v = if w.md.toNat % 4 = 2 then 0x80000000 else 0))) ∧
    (w.md.getLsbD 6 = true →
      Gives (.fadd w) x (fun v => v.toNat ≤ 0x3F800000) ∧ Gives (.fmul w) x (fun v => v.toNat ≤ 0x3F800000) ∧
      Gives (.ffma w) x (fun v => v.toNat ≤ 0x3F800000)) ∧
    resultOf (.fsub w) x = resultOf (.fadd { w with md := w.md ^^^ 8 }) x ∧
    resultOf (.fnma w) x = resultOf (.ffma { w with md := w.md ^^^ 4 }) x ∧
    (∀ y, w.md.getLsbD 7 = false → resultOf (.ffma4 w y) x = resultOf (.ffma w) { x with d := x.c }) ∧
    Gives (.hadd2 w) x (fun v => ∀ i < 2, v.toNat / 2 ^ (16 * i) % 2 ^ 16 = addBits (halfFmt w.md.toNat) w.md.toNat (n32 x.a / 2 ^ (16 * i) % 2 ^ 16) (n32 x.b / 2 ^ (16 * i) % 2 ^ 16)) ∧
    Gives (.hfma2 w) x (fun v => ∀ i < 2, v.toNat / 2 ^ (16 * i) % 2 ^ 16 = fmaBits (halfFmt w.md.toNat) w.md.toNat (n32 x.a / 2 ^ (16 * i) % 2 ^ 16) (n32 x.b / 2 ^ (16 * i) % 2 ^ 16)
      (n32 x.d / 2 ^ (16 * i) % 2 ^ 16))) ∧
  (∀ (f : FFmt), f = fp16 ∨ f = bf16 ∨ f = fp32 ∨ f = fp64 →
    (∀ (rm : Rm) (v : Nat), v < 2 ^ (f.eb + f.fb + 1) → fpUnpack f v ≠ .nan → fpRound f rm (fpUnpack f v) = v) ∧
    (∀ (m : Nat) (e : Int), 0 < m →
      (∀ rm, rm = Rm.rtz ∨ rm = Rm.rdn → ∃ n k, fpUnpack f (fpRound f rm (.fin false m e)) = .fin false n k ∧
        n * 2 ^ (k - min k e).toNat ≤ m * 2 ^ (e - min k e).toNat) ∧
      (fpUnpack f (fpRound f .rup (.fin false m e)) = .inf false ∨ ∃ n k, fpUnpack f (fpRound f .rup (.fin false m e)) = .fin false n k ∧
        m * 2 ^ (e - min k e).toNat ≤ n * 2 ^ (k - min k e).toNat)))

/-- FMIN, FMAX and FCMP (R278, R279); The special results of R281 and R282. -/
def Obligations.FloatOrderAndSpecialResults : Prop :=
  (∀ (w : FWord) (x : Src) (a b : Nat), a = modA fp32 w.md.toNat (n32 x.a) → b = modB fp32 w.md.toNat (n32 x.b) →
    (fpUnpack fp32 a = .nan → fpUnpack fp32 b = .nan → Gives (.fmin w) x (fun v => v = 0x7FC00000) ∧ Gives (.fmax w) x (fun v => v = 0x7FC00000)) ∧
    (fpUnpack fp32 a = .nan → fpUnpack fp32 b ≠ .nan → Gives (.fmin w) x (fun v => v.toNat = if w.md.getLsbD 7 then 0x7FC00000 else b) ∧
      Gives (.fmax w) x (fun v => v.toNat = if w.md.getLsbD 7 then 0x7FC00000 else b)) ∧
    (fpUnpack fp32 a ≠ .nan → fpUnpack fp32 b = .nan → Gives (.fmin w) x (fun v => v.toNat = if w.md.getLsbD 7 then 0x7FC00000 else a) ∧
      Gives (.fmax w) x (fun v => v.toNat = if w.md.getLsbD 7 then 0x7FC00000 else a)) ∧
    (∀ o, fvCompare (fpUnpack fp32 a) (fpUnpack fp32 b) = some o →
      Gives (.fmin w) x (fun v => (o = .lt → v.toNat = a) ∧ (o = .gt → v.toNat = b) ∧ (o = .eq → v.toNat = max a b)) ∧
      Gives (.fmax w) x (fun v => (o = .lt → v.toNat = b) ∧ (o = .gt → v.toNat = a) ∧ (o = .eq → v.toNat = min a b))) ∧
    (∀ c, c = w.md.toNat / 512 →
      (fpUnpack fp32 a = .nan ∨ fpUnpack fp32 b = .nan → resultOf (.fcmp w) x = some (valP (decide (c = 1 ∨ c = 7)))) ∧
      (∀ o, fvCompare (fpUnpack fp32 a) (fpUnpack fp32 b) = some o → resultOf (.fcmp w) x = some (valP (decide
        ((c = 0 ∧ o = .eq) ∨ (c = 1 ∧ o ≠ .eq) ∨ (c = 2 ∧ o = .lt) ∨ (c = 3 ∧ o ≠ .gt) ∨ (c = 4 ∧ o = .gt) ∨ (c = 5 ∧ o ≠ .lt) ∨ c = 6)))))) ∧
  (∀ (w : FWord) (x : Src), w.md.toNat < 4 →
    (∀ a, lo32 x.a = a → (fpUnpack fp32 a.toNat = .nan →
      (∀ i ∈ [Instr.frnd w, .ffrac w, .frcp w, .frsq w, .fsqrt w, .fex2 w, .flg2 w, .fsin w, .fcos w], Gives i x (fun v => v = 0x7FC00000)))) ∧
    (∀ a, lo32 x.a = a → (a = 0 ∨ a = 0x80000000 →
      Gives (.frnd w) x (fun v => v = a) ∧ Gives (.ffrac w) x (fun v => v = 0) ∧ Gives (.frcp w) x (fun v => v = a ||| 0x7F800000) ∧
      Gives (.frsq w) x (fun v => v = a ||| 0x7F800000) ∧ Gives (.fsqrt w) x (fun v => v = a) ∧ Gives (.fex2 w) x (fun v => v = 0x3F800000) ∧
      Gives (.flg2 w) x (fun v => v = 0xFF800000) ∧ Gives (.fsin w) x (fun v => v = a) ∧ Gives (.fcos w) x (fun v => v = 0x3F800000))) ∧
    (lo32 x.a = 0x7F800000 →
      Gives (.frnd w) x (fun v => v = 0x7F800000) ∧ Gives (.ffrac w) x (fun v => v = 0x7FC00000) ∧ Gives (.frcp w) x (fun v => v = 0) ∧
      Gives (.frsq w) x (fun v => v = 0) ∧ Gives (.fsqrt w) x (fun v => v = 0x7F800000) ∧ Gives (.fex2 w) x (fun v => v = 0x7F800000) ∧
      Gives (.flg2 w) x (fun v => v = 0x7F800000) ∧ Gives (.fsin w) x (fun v => v = 0x7FC00000) ∧ Gives (.fcos w) x (fun v => v = 0x7FC00000)) ∧
    (lo32 x.a = 0xFF800000 →
      Gives (.frnd w) x (fun v => v = 0xFF800000) ∧ Gives (.ffrac w) x (fun v => v = 0x7FC00000) ∧ Gives (.frcp w) x (fun v => v = 0x80000000) ∧
      Gives (.frsq w) x (fun v => v = 0x7FC00000) ∧ Gives (.fsqrt w) x (fun v => v = 0x7FC00000) ∧ Gives (.fex2 w) x (fun v => v = 0) ∧
      Gives (.flg2 w) x (fun v => v = 0x7FC00000) ∧ Gives (.fsin w) x (fun v => v = 0x7FC00000) ∧ Gives (.fcos w) x (fun v => v = 0x7FC00000)) ∧
    (∀ m e, fpUnpack fp32 (n32 x.a) = .fin true (m + 1) e →
      Gives (.frsq w) x (fun v => v = 0x7FC00000) ∧ Gives (.fsqrt w) x (fun v => v = 0x7FC00000) ∧ Gives (.flg2 w) x (fun v => v = 0x7FC00000)) ∧
    (∀ n m e, fpUnpack fp32 (n32 x.a) = .fin n m e → 0 ≤ e →
      Gives (.frnd w) x (fun v => v = lo32 x.a) ∧ Gives (.ffrac w) x (fun v => v = 0) ∧
      Gives (.fsin w) x (fun v => v = if n then 0x80000000 else 0)) ∧
    (lo32 x.a = 0x3F800000 → Gives (.flg2 w) x (fun v => v = 0)))

/-- FCLASS (R280). -/
def Obligations.FloatClass : Prop :=
  (∀ (s : State) (f : Foc) (w : FWord) (r' : Rank), VecIssues s f → w.md = 0 → fldOk .vec .reg (fldD w) = true → fldOk .vec .reg (fldA w) = true →
    fldOk .vec .none (fldB w) = true → (∀ n ∈ aluRegs specFclass w none, n < f.r.top) →
    (∀ p ∈ aluThreads specFclass w none f, ∀ n ∈ aluNeeds specFclass w none, f.r.isFull p n = true) →
    aluRun specFclass w none f.x.age (aluThreads specFclass w none f) f.r = some r' →
    VecRuns (.fclass w) s f (fun g => (g.withRank r').done)) ∧
  (∀ (w : FWord) (age p : Nat) (r : Rank) (v : TCap) (a : Word), w.md = 0 → fldOk .vec .none (fldB w) = true →
    readOpd r p .reg (fldA w) = .ok v → a = lo32 v →
    ∃ b, aluLane specFclass w none age r p = .ok (writeOpd r age p .reg (fldD w) (val32 (1#32 <<< b))) ∧
      (b = 0 ↔ a = 0xFF800000) ∧
      (b = 1 ↔ a.msb = true ∧ 0 < a.toNat / 2 ^ 23 % 256 ∧ a.toNat / 2 ^ 23 % 256 < 255) ∧
      (b = 2 ↔ a.msb = true ∧ a.toNat / 2 ^ 23 % 256 = 0 ∧ a.toNat % 2 ^ 23 ≠ 0) ∧
      (b = 3 ↔ a = 0x80000000) ∧
      (b = 4 ↔ a = 0) ∧
      (b = 5 ↔ a.msb = false ∧ a.toNat / 2 ^ 23 % 256 = 0 ∧ a.toNat % 2 ^ 23 ≠ 0) ∧
      (b = 6 ↔ a.msb = false ∧ 0 < a.toNat / 2 ^ 23 % 256 ∧ a.toNat / 2 ^ 23 % 256 < 255) ∧
      (b = 7 ↔ a = 0x7F800000) ∧
      (b = 8 ↔ a.toNat / 2 ^ 23 % 256 = 255 ∧ a.getLsbD 22 = false ∧ a.toNat % 2 ^ 23 ≠ 0) ∧
      (b = 9 ↔ a.toNat / 2 ^ 23 % 256 = 255 ∧ a.getLsbD 22 = true) ∧ b < 10) ∧
  (∀ (s : State) (f : Foc) (w : FWord), VecIssues s f → w.md ≠ 0 →
    exec (.fclass w) s = .next (f.trapIssue (f.members w.g.toNat w.gn) .illegalOperand (hiOf (fToWord 0x4B#8 w)))) ∧
  (∀ (s : State) (t : Team) (w : FWord), CtlIssues s t → NotInControl (.fclass w) 0x4B#8 w s t)

/-- CVT, CVTW, CVTN, DOT4 and DOT8 (R283 to R289). -/
def Obligations.ConversionAndDotResults : Prop :=
  ∀ (w : FWord) (x : Src) (m : Nat), m = w.md.toNat →
    (∀ st dt z, st = m / 64 % 16 → dt = m / 4 % 16 → st < 8 → dt < 8 →
      z = (if tySigned st then signedOf (tyBits st) (n64 x.a) else ((n64 x.a % 2 ^ tyBits st : Nat) : Int)) →
      (w.md.getLsbD 10 = false → ∃ v, resultOf (.cvt w) x = some ⟨v, false⟩ ∧ v.toNat % 2 ^ tyBits dt = (z % 2 ^ tyBits dt).toNat ∧
        (tySigned dt = false → v.toNat < 2 ^ tyBits dt) ∧ (tySigned dt = true → -2 ^ (tyBits dt - 1) ≤ v.toInt ∧ v.toInt < 2 ^ (tyBits dt - 1))) ∧
      (w.md.getLsbD 10 = true → ∃ v, resultOf (.cvt w) x = some ⟨v, false⟩ ∧
        (tySigned dt = false → v.toInt = max 0 (min (2 ^ tyBits dt - 1) z)) ∧
        (tySigned dt = true → v.toInt = max (-2 ^ (tyBits dt - 1)) (min (2 ^ (tyBits dt - 1) - 1) z)))) ∧
    (∀ dt, m / 64 % 16 = 10 → dt = m / 4 % 16 → dt < 8 →
      (fpUnpack fp32 (n32 x.a) = .nan → resultOf (.cvt w) x = some ⟨0, false⟩) ∧
      (n32 x.a = 0x7F800000 → ∃ v, resultOf (.cvt w) x = some ⟨v, false⟩ ∧ v.toInt = 2 ^ (if tySigned dt then tyBits dt - 1 else tyBits dt) - 1) ∧
      (n32 x.a = 0xFF800000 → ∃ v, resultOf (.cvt w) x = some ⟨v, false⟩ ∧ v.toInt = if tySigned dt then -2 ^ (tyBits dt - 1) else 0)) ∧
    (m % 1024 / 4 = 0xAA → Gives (.cvt w) x (fun v => v = if fpUnpack fp32 (n32 x.a) = .nan then 0x7FC00000 else lo32 x.a)) ∧
    (∀ (u : FWord), m = 0 → u.md = 4 → ∀ (h : Word), fpUnpack fp16 (h.toNat % 2 ^ 16) ≠ .nan → fpUnpack fp16 (h.toNat / 2 ^ 16) ≠ .nan →
      ∃ v : DWord, resultOf (.cvtw u) { x with a := val32 h } = some (val64 v) ∧
        resultOf (.cvtw w) { x with a := val32 (v.extractLsb' 0 32), b := val32 (v.extractLsb' 32 32) } = some (val32 h)) ∧
    (∀ bits lane, bits = fmtBits (nfFmt (m / 4 % 8)) → lane = m / 1024 → m / 4 % 8 < 7 → (bits = 4 ∨ lane ≤ 1) → w.md.getLsbD 5 = false →
      Gives (.cvtn w) x (fun v => ∀ i < 32 / bits, i ≠ 2 * lane → i ≠ 2 * lane + 1 → v.toNat / 2 ^ (bits * i) % 2 ^ bits = n32 x.d / 2 ^ (bits * i) % 2 ^ bits)) ∧
    (m % 16 = 8 → m / 16 % 4 = 2 → m < 64 → Gives (.dot4 w) x (fun v => v.toInt = Int.bmod ((lo32 x.d).toInt +
      ((List.range 4).map (fun i => signedOf 8 (n32 x.a / 2 ^ (8 * i) % 256) * signedOf 8 (n32 x.b / 2 ^ (8 * i) % 256))).sum) (2 ^ 32))) ∧
    (m % 16 = 12 → m / 16 % 4 = 3 → 64 ≤ m → m < 128 → Gives (.dot8 w) x (fun v => v.toInt = min (2 ^ 31 - 1) ((lo32 x.d).toInt +
      ((List.range 8).map (fun i => ((n32 x.a / 2 ^ (4 * i) % 16 * (n32 x.b / 2 ^ (4 * i) % 16) : Nat) : Int))).sum)))

/-- Capabilities are not forged (R13, R22, R23). -/
def Obligations.CapabilitiesAreNotForged : Prop :=
  ∀ (i : Instr) (x : Src) (c : TCap), resultOf i x = some c → c.tag = true →
    x.a.tag = true ∧ capBottom x.a ≤ capBottom c ∧ capTop c ≤ capTop x.a ∧ (∀ k, (capPerm c).testBit k = true → (capPerm x.a).testBit k = true) ∧
      (capSpace c = capSpace x.a ∨ (capSpace x.a = 1 ∧ capSpace c = 4))

/-- The capability instructions (R266 to R270). -/
def Obligations.CapabilityResults : Prop :=
  ∀ (w : FWord) (x : Src),
    (∀ base len space, base = x.b.bits.toNat % 2 ^ 64 → len = x.b.bits.toNat / 2 ^ 64 → space = w.md.toNat / 64 % 16 →
      (∀ c, resultOf (.cderive w) x = some c → c.tag = true ∧ capCursor c = base ∧ capBottom c ≤ base ∧ base + len ≤ capTop c ∧ capSpace c = space ∧
        (∀ k, (capPerm c).testBit k = ((capPerm x.a).testBit k && w.md.getLsbD k && decide (k < 6) && (decide (space ≠ 4) || decide (k ∈ [0, 2, 3]))))) ∧
      (x.a.tag = false → ∃ t, specCderive.op w.md.toNat x = .error t ∧ t.code = .capTag) ∧
      (x.a.tag = true → (space = 0 ∨ 5 < space ∨ (space ≠ capSpace x.a ∧ ¬ (capSpace x.a = 1 ∧ space = 4))) →
        ∃ t, specCderive.op w.md.toNat x = .error t ∧ t.code = .capPerm) ∧
      (x.a.tag = true → 1 ≤ space → space ≤ 5 → space = capSpace x.a → (base < capBottom x.a ∨ capTop x.a < base + len) →
        ∃ t, specCderive.op w.md.toNat x = .error t ∧ t.code = .capBounds)) ∧
    (∃ c, resultOf (.caim w) x = some c ∧ c.tag = x.a.tag ∧ c.bits.toNat / 2 ^ 48 = x.a.bits.toNat / 2 ^ 48 ∧ capCursor c = (lo64 x.b).toNat % 2 ^ 48) ∧
    (∃ c, resultOf (.cstep w) x = some c ∧ c.tag = x.a.tag ∧ c.bits.toNat / 2 ^ 48 = x.a.bits.toNat / 2 ^ 48 ∧
      (capCursor c : Int) = ((capCursor x.a : Int) + (if w.md.getLsbD 0 then (lo64 x.b).toInt else (lo32 x.b).toInt)) % 2 ^ 48) ∧
    (∃ c, resultOf (.cnarrow w) x = some c ∧ c.tag = x.a.tag ∧ c.bits.toNat % 2 ^ 118 = x.a.bits.toNat % 2 ^ 118 ∧
      c.bits.toNat / 2 ^ 124 = x.a.bits.toNat / 2 ^ 124 ∧ ∀ k < 6, (capPerm c).testBit k = ((capPerm x.a).testBit k && (lo32 x.b).getLsbD k)) ∧
    Gives64 (.cfloor w) x (fun v => v.toNat = capBottom x.a) ∧ Gives64 (.cspan w) x (fun v => v.toNat = capTop x.a - capBottom x.a) ∧
    Gives64 (.cwhere w) x (fun v => v.toNat = x.a.bits.toNat % 2 ^ 48) ∧
    Gives (.ckind w) x (fun v => v.toNat = capSpace x.a + 2 ^ 4 * capPerm x.a + 2 ^ 10 * x.a.tag.toNat) ∧
    (w.md.toNat % 2048 = 0 → w.md.getLsbD 11 = false → resultOf (.cprobe w) x = some (valP x.a.tag)) ∧
    (w.md.toNat % 2048 = 1 → resultOf (.cprobe w) x = some (valP (decide (x.a.tag = true ∧ capBottom x.a ≤ capCursor x.a ∧
      capCursor x.a + (lo32 x.b).toNat ≤ capTop x.a)))) ∧
    (w.md.toNat % 2048 = 2 → resultOf (.cprobe w) x = some (valP (x.a.tag &&
      (List.range 6).all (fun k => !(lo32 x.b).getLsbD k || (capPerm x.a).testBit k))))

/-- The cross-thread instructions (R312 to R318); The results of the cross-thread instructions (R316 to R318). -/
def Obligations.CrossThreadInstructions : Prop :=
  ((∀ (i : Instr) (q : XthSpec) (w : FWord) (s : State) (f : Foc), xthOf i = some (q, w) → VecIssues s f → xFieldsOk q f.r w = true →
    ((∀ p ∈ f.pass w, maskHas (xMask f.r w) p = true) →
      Clear f (f.pass w) (vregsOf q.d (fldD w) ++ vregsOf q.a (fldA w) ++ vregsOf (xBKind q w) (fldB w)) (vregsOf q.d (fldD w) ++ fullNeeds (xBKind q w) (fldB w)) →
      (∀ u ∈ f.crossUsers w, ∀ n ∈ fullNeeds q.a (fldA w), f.r.isFull u n = true) → Reads f.r (f.crossUsers w) q.a (fldA w) →
      (q.lane = true → xBi w = false → Reads f.r (f.pass w) .reg (fldB w)) →
      VecRuns i s f (fun g => (g.withRank (g.r.writeAll f.x.age (f.pass w) q.d (fldD w) (fun p => ⟨q.result (f.crossIn q w p), false⟩))).done)) ∧
    (∀ p l, (f.pass w).filter (fun p => !maskHas (xMask f.r w) p) = p :: l →
      exec i s = .next (f.deliver { code := .illegalMask, detail := BitVec.ofNat 64 p } ⟨((f.pass w).head?).getD f.x.resume, f.issueSet (f.pass w), f.pass w⟩))) ∧
  (∀ (i : Instr) (q : XthSpec) (w : FWord) (s : State) (t : Team), xthOf i = some (q, w) → CtlIssues s t → NotInControl i q.opc w s t)) ∧
  (∀ (x : XthIn) (w : FWord), (∀ u ∈ x.members, u < 64) → x.members.Pairwise (· < ·) → 0 < x.size →
    (∀ i q l u, xthOf i = some (q, w) → u = x.pos / x.size * x.size + l.toNat →
      ((i = .shfl w ∧ l = (x.b.toNat : Int)) ∨ (i = .shflx w ∧ l = ((x.pos % x.size ^^^ x.b.toNat : Nat) : Int)) ∨
        (i = .shflup w ∧ l = ((x.pos % x.size : Nat) : Int) - x.b.toNat) ∨ (i = .shfldn w ∧ l = ((x.pos % x.size : Nat) : Int) + x.b.toNat)) →
      (0 ≤ l → l < x.size → u ∈ x.members → q.result x = (if x.live u then x.val u else 0).setWidth 128) ∧
      (¬ (0 ≤ l ∧ l < x.size ∧ u ∈ x.members) → q.result x = (x.val x.pos).setWidth 128)) ∧
    (∀ u, (specBallot.result x).getLsbD u = (decide (u ∈ x.members) && x.live u && x.val u != 0)) ∧
    (∀ u, (specMatch.result x).getLsbD u = (decide (u ∈ x.members) && x.live u && x.val u == x.val x.pos)) ∧
    (x.op < 3 → specVote.result x = if ((x.op = 0 ∨ x.op = 2) ∧ ∀ u ∈ x.members, x.live u = true → x.val u ≠ 0) ∨
      (x.op = 1 ∧ ∃ u ∈ x.members, x.live u = true ∧ x.val u ≠ 0) ∨ (x.op = 2 ∧ ∀ u ∈ x.members, x.live u = true → x.val u = 0) then 1 else 0) ∧
    (specElect.result x = 1 ↔ x.pos ∈ x.members ∧ x.pos ∈ x.act ∧ ∀ u ∈ x.members, u ∈ x.act → x.pos ≤ u) ∧
    (x.op = 0 → (specRed.result x).toNat = ((x.members.filter x.live).map (fun u => (x.val u).toNat)).sum % 2 ^ 32) ∧
    (x.op = 6 → ∀ k < 32, (specRed.result x).getLsbD k = x.members.any (fun u => x.live u && (x.val u).getLsbD k)) ∧
    (x.op = 4 → ∀ n, (specRed.result x).toNat ≤ n ↔ ∀ u ∈ x.members, x.live u = true → (x.val u).toNat ≤ n) ∧
    (x.op = 0 → x.pos ∈ x.members → x.live x.pos = true →
      (specScan.result { x with exc := false }).extractLsb' 0 32 = (specScan.result { x with exc := true }).extractLsb' 0 32 + x.val x.pos))

/-- DDX, DDY and RDUNI (R319, R320). -/
def Obligations.DerivativesAndUniformReads : Prop :=
  (∀ (s : State) (f : Foc) (w : FWord), VecIssues s f →
    ((w.md = 0 ∨ w.md = 0x100) → s.quadMode f.t.grid = true → fldOk .vec .reg (fldD w) = true → fldOk .vec .reg (fldA w) = true →
      fldOk .vec .none (fldB w) = true → Clear f (f.pass w) (vregsOf .reg (fldD w) ++ vregsOf .reg (fldA w)) (vregsOf .reg (fldD w)) →
      (∀ u ∈ f.quadUsers w, ∀ n ∈ fullNeeds .reg (fldA w), f.r.isFull u n = true) → Reads f.r (f.quadUsers w) .reg (fldA w) →
      VecRuns (.ddx w) s f (fun g => (g.withRank (g.r.writeAll f.x.age (f.pass w) .reg (fldD w) (fun p =>
        val32 (fsub (lo32 (readVal f.r (if w.md.getLsbD 8 then p / 2 * 2 + 1 else p / 4 * 4 + 1) .reg (fldA w)))
          (lo32 (readVal f.r (if w.md.getLsbD 8 then p / 2 * 2 else p / 4 * 4) .reg (fldA w))))))).done) ∧
      VecRuns (.ddy w) s f (fun g => (g.withRank (g.r.writeAll f.x.age (f.pass w) .reg (fldD w) (fun p =>
        val32 (fsub (lo32 (readVal f.r (if w.md.getLsbD 8 then p / 4 * 4 + p % 2 + 2 else p / 4 * 4 + 2) .reg (fldA w)))
          (lo32 (readVal f.r (if w.md.getLsbD 8 then p / 4 * 4 + p % 2 else p / 4 * 4) .reg (fldA w))))))).done)) ∧
    (∀ p0 l p, (w.md = 0 ∨ w.md = 0x80) → w.kd = true → fldOk .vec .reg (fldD w) = true → w.ka = false → fldOk .vec .reg (fldA w) = true →
      (if w.md = 0x80 then fldOk .vec (.num f.r.width) (fldB w) else fldOk .vec .none (fldB w)) = true → (∀ n ∈ vregsOf .reg (fldA w), n < f.r.top) →
      f.pass w = p0 :: l → p = (if w.md = 0x80 then w.b.toNat else p0) →
      (f.r.living p = true → (∀ n ∈ fullNeeds .reg (fldA w), f.r.isFull p n = true) ∧ Reads f.r [p] .reg (fldA w)) →
      VecRuns (.rduni w) s f (fun g => (g.withRank (g.r.writeK f.x.age w.d.toNat
        (if f.r.living p then lo32 (readVal f.r p .reg (fldA w)) else 0))).done))) ∧
  (∀ (s : State) (t : Team) (w : FWord), CtlIssues s t →
    NotInControl (.ddx w) 0x7A#8 w s t ∧ NotInControl (.ddy w) 0x7B#8 w s t ∧ NotInControl (.rduni w) 0x7C#8 w s t)

/-- The P form (R204 to R206). -/
def Obligations.PairsRun : Prop :=
  (∀ (s : State) (f : Foc) (w : PWord) (x y : Slot) (regs : List Nat), VecIssues s f → xSlot w.xpop.toNat = some x → ySlot w.ypop.toNat = some y →
    pairOk w x y = true →
    regs = slotReads x w.xd.toNat w.xa.toNat ++ slotReads y w.yd.toNat w.ya.toNat ++ slotWrites w.xpop w.xd ++ slotWrites w.ypop w.yd →
    Clear f (f.members 0 false) regs regs → (∀ p ∈ f.members 0 false, ∀ n ∈ regs, (f.r.vreg p n).err = none) →
    VecRuns (.pFormPair w) s f (fun g => (g.withRank ((f.members 0 false).foldl (fun r p =>
      let r1 := if w.xpop = 0 then r else r.writeV p w.xd.toNat (xResult w.xpop.toNat (if x.d then (f.r.vreg p w.xd.toNat).val else 0)
        (if x.a then (f.r.vreg p w.xa.toNat).val else 0))
      if w.ypop = 0 then r1 else r1.writeV p w.yd.toNat (yResult w.ypop.toNat (if y.d then (f.r.vreg p w.yd.toNat).val else 0)
        (if y.a then (f.r.vreg p w.ya.toNat).val else 0) w.yimm)) g.r)).done)) ∧
  (∀ (d a : Word) (imm : BitVec 8),
    xResult 1 d a = BitVec.ofNat 32 (addBits fp32 0 d.toNat a.toNat) ∧ xResult 2 d a = BitVec.ofNat 32 (subBits fp32 0 d.toNat a.toNat) ∧
    xResult 3 d a = BitVec.ofNat 32 (mulBits fp32 0 d.toNat a.toNat) ∧ xResult 6 d a = a ∧
    yResult 1 d a imm = d + a ∧ yResult 2 d a imm = d - a ∧ yResult 3 d a imm = d + imm.signExtend 32 ∧ yResult 4 d a imm = d &&& a ∧
    yResult 5 d a imm = d ||| a ∧ yResult 6 d a imm = d ^^^ a ∧ yResult 7 d a imm = d &&& ~~~a ∧
    (imm.toNat < 32 → (yResult 8 d a imm).toNat = d.toNat * 2 ^ imm.toNat % 2 ^ 32 ∧ (yResult 9 d a imm).toNat = d.toNat / 2 ^ imm.toNat ∧
      (yResult 10 d a imm).toInt = d.toInt / 2 ^ imm.toNat) ∧
    yResult 13 d a imm = a ∧ yResult 14 d a imm = imm.signExtend 32 ∧
    (yResult 15 d a imm).toNat = (List.range 32).countP (fun i => a.getLsbD i)) ∧
  (∀ (s : State) (f : Foc) (w : PWord), VecIssues s f → xSlot w.xpop.toNat = none ∨ ySlot w.ypop.toNat = none →
    exec (.pFormPair w) s = .next (f.trapIssue (f.members 0 false) .illegalOpcode (hiOf (pToWord w)))) ∧
  (∀ (s : State) (t : Team) (w : PWord), CtlIssues s t →
    exec (.pFormPair w) s = .next (s.deliverCtl t
      { code := if (xSlot w.xpop.toNat).isSome && (ySlot w.ypop.toNat).isSome then .illegalStream else .illegalOpcode, detail := hiOf (pToWord w) })) ∧
  (∀ (s : State) (f : Foc) (w : DWord), VecIssues s f →
    exec (.unassignedOpcodeWord w) s = .next (f.trapIssue (f.wordMembers w) .illegalOpcode (hiOf w))) ∧
  (∀ (s : State) (t : Team) (w : DWord), CtlIssues s t →
    exec (.unassignedOpcodeWord w) s = .next (s.deliverCtl t { code := .illegalOpcode, detail := hiOf w }))

/-- Branches of the control stream (R238 to R241, R379). -/
def Obligations.ControlBranches : Prop :=
  ∀ (s : State) (t : Team), CtlIssues s t →
    (∀ w : BrWord, w.div = false → w.jn = 0 →
      CtlRuns (.bra w) s t (fun s u => if u.ctl.pred w.g.toNat = w.gn then s.ctlDone u
        else s.putTeam (u.withCtl (u.ctl.goto (wordsAway t.ctl.pc w.tgt) t.ctl.rets))) ∧
      (t.ctl.rets.length < 16 → (∀ now last, ((s.afterCtl t now last).callAhead t.req t.grid [wordsAway t.ctl.pc w.tgt]).hole = none) →
        CtlRuns (.call w) s t (fun s u => if u.ctl.pred w.g.toNat = w.gn then s.ctlDone u
          else (s.callAhead t.req t.grid [wordsAway t.ctl.pc w.tgt]).putTeam
            (u.withCtl (u.ctl.goto (wordsAway t.ctl.pc w.tgt) ((t.ctl.pc + 8) :: t.ctl.rets))))) ∧
      (16 ≤ t.ctl.rets.length → t.guard w.g w.gn →
        CtlRuns (.call w) s t (fun s u => s.deliverCtl u { code := .callOverflow, detail := 0 }))) ∧
    (∀ w : FWord, w.md = 0 → fldOk .ctl .none (fldD w) = true → w.kd = false → fldOk .ctl .wide (fldA w) = true → fldOk .ctl .none (fldB w) = true →
      (s.targetTrap .ctl t.ctx ((t.ctl.getS w.a.toNat).extractLsb' 0 48) = none →
        CtlRuns (.brai w) s t (fun s u => if u.ctl.pred w.g.toNat = w.gn then s.ctlDone u
          else s.putTeam (u.withCtl (u.ctl.goto ((t.ctl.getS w.a.toNat).extractLsb' 0 48) t.ctl.rets))) ∧
        (t.ctl.rets.length < 16 →
          (∀ now last, ((s.afterCtl t now last).callAhead t.req t.grid [(t.ctl.getS w.a.toNat).extractLsb' 0 48]).hole = none) →
          CtlRuns (.calli w) s t (fun s u => if u.ctl.pred w.g.toNat = w.gn then s.ctlDone u
            else (s.callAhead t.req t.grid [(t.ctl.getS w.a.toNat).extractLsb' 0 48]).putTeam
              (u.withCtl (u.ctl.goto ((t.ctl.getS w.a.toNat).extractLsb' 0 48) ((t.ctl.pc + 8) :: t.ctl.rets)))))) ∧
      (((t.ctl.getS w.a.toNat).extractLsb' 0 48).toNat % 8 ≠ 0 → t.guard w.g w.gn →
        CtlRuns (.brai w) s t (fun s u => s.deliverCtl u
          { code := .misaligned, detail := BitVec.ofNat 64 (((t.ctl.getS w.a.toNat).extractLsb' 0 48).toNat % 2 ^ 32) }))) ∧
    (∀ w : FWord, noOperands .ctl w = true →
      (∀ pc l, w.md = 0 → t.ctl.rets = pc :: l →
        CtlRuns (.ret w) s t (fun s u => if u.ctl.pred w.g.toNat = w.gn then s.ctlDone u else s.putTeam (u.withCtl (u.ctl.goto pc l)))) ∧
      (w.md = 0 → t.ctl.rets = [] → t.guard w.g w.gn →
        CtlRuns (.ret w) s t (fun s u => s.deliverCtl u { code := .callOverflow, detail := 1 })) ∧
      (w.md = 2 → t.ctl.handler.isSome = true →
        CtlRuns (.retH w) s t (fun s u => if u.ctl.pred w.g.toNat = w.gn then s.ctlDone u
          else s.putTeam (u.withCtl { (u.ctl.goto ((t.ctl.getS 61).extractLsb' 0 48) t.ctl.rets) with handler := none }))))

/-- BRA of the vector stream (R179, R239). -/
def Obligations.VectorBranch : Prop :=
  ∀ (s : State) (f : Foc) (w : BrWord), VecIssues s f → f.x.given = [] → f.members 0 false ≠ [] →
    (f.fallers w.g w.gn = [] → VecRuns (.bra w) s f (fun g => (g.allTo (f.members 0 false) (wordsAway f.x.pc w.tgt)).close)) ∧
    (f.takers w.g w.gn = [] → VecRuns (.bra w) s f (fun g => (g.allTo (f.members 0 false) (f.x.pc + 8)).close)) ∧
    (f.takers w.g w.gn ≠ [] → f.fallers w.g w.gn ≠ [] →
      (w.div = true → w.jn = 0 →
        VecRuns (.bra w) s f (fun g => (g.fork (f.x.pc + 8) (f.fallers w.g w.gn) (wordsAway f.x.pc w.tgt) (f.takers w.g w.gn) f.x.record).close)) ∧
      (∀ i, w.div = true → w.jn ≠ 0 → f.r.freeRec = some i →
        VecRuns (.bra w) s f (fun g => ((g.recorded i (wordsAway f.x.pc w.jn)).fork (f.x.pc + 8) (f.fallers w.g w.gn) (wordsAway f.x.pc w.tgt)
          (f.takers w.g w.gn) (some i)).close)) ∧
      (w.div = false → exec (.bra w) s = .next (f.trapIssue (f.members 0 false) .illegalOperand ((f.x.pc.extractLsb' 0 32).setWidth 64))) ∧
      (w.div = true → w.jn ≠ 0 → f.r.freeRec = none →
        exec (.bra w) s = .next (f.trapIssue (f.members 0 false) .convOverflow ((f.x.pc.extractLsb' 0 32).setWidth 64))))

/-- CALL, BRAI, CALLI, RET and RET.h of the vector stream (R239 to R241, R379). -/
def Obligations.VectorCallsAndReturns : Prop :=
  ∀ (s : State) (f : Foc), VecIssues s f → f.x.given = [] → f.members 0 false ≠ [] →
    (∀ w : BrWord, f.fallers w.g w.gn = [] → (∀ p ∈ f.members 0 false, (f.r.thread p).rets.length < 16) →
      (∀ now rod, ((s.afterIssue f now rod).callAhead f.t.req f.t.grid [wordsAway f.x.pc w.tgt]).hole = none) →
      VecRuns (.call w) s f (fun g => ((g.withState (g.s.callAhead f.t.req f.t.grid [wordsAway f.x.pc w.tgt])).withRank
        (g.r.pushAll (f.members 0 false) (f.x.pc + 8))).allTo (f.members 0 false) (wordsAway f.x.pc w.tgt) |>.close)) ∧
    (∀ (w : FWord) (pc : BitVec 48), plainMod w 4 = true → w.md.getLsbD 1 = false → fldOk .vec .none (fldD w) = true → w.kd = false →
      fldOk .vec .pair (fldA w) = true → fldOk .vec .none (fldB w) = true → f.fallers w.g w.gn = [] →
      Clear f (f.members 0 false) (vregsOf .pair (fldA w)) (fullNeeds .pair (fldA w)) →
      (∀ p ∈ f.members 0 false, ∃ v, readOpd f.r p .pair (fldA w) = .ok v ∧ v.bits.extractLsb' 0 48 = pc) →
      (∀ now rod, (s.afterIssue f now rod).targetTrap .vec f.t.ctx pc = none) →
      VecRuns (.brai w) s f (fun g => (g.allTo (f.members 0 false) pc).close) ∧
      ((∀ p ∈ f.members 0 false, (f.r.thread p).rets.length < 16) → (∀ now rod, ((s.afterIssue f now rod).callAhead f.t.req f.t.grid [pc]).hole = none) →
        VecRuns (.calli w) s f (fun g => ((g.withState (g.s.callAhead f.t.req f.t.grid [pc])).withRank
          (g.r.pushAll (f.members 0 false) (f.x.pc + 8))).allTo (f.members 0 false) pc |>.close))) ∧
    (∀ (w : FWord) (pc : BitVec 48), noOperands .vec w = true → plainMod w 2 = true → f.fallers w.g w.gn = [] →
      (∀ p ∈ f.members 0 false, (f.r.thread p).rets.head? = some pc) →
      VecRuns (.ret w) s f (fun g => ((g.withRank (g.r.popAll (f.members 0 false))).allTo (f.members 0 false) pc).close)) ∧
    (∀ (w : FWord) (h : HandlerSave), w.md = 2 → noOperands .vec w = true → f.r.handler = some h → f.x.inHandler = true → f.pass w ≠ [] →
      maskMinus h.handled f.x.mask = 0 →
      VecRuns (.retH w) s f (fun g => (g.retTo h (((f.r.kreg 62).val ++ (f.r.kreg 61).val).extractLsb' 0 48)).close))

/-- JOIN, YIELD, EXIT and BAR (R242 to R246). -/
def Obligations.JoinYieldExitBarrier : Prop :=
  (∀ (s : State) (t : Team) (w : FWord), CtlIssues s t → noOperands .ctl w = true →
    (plainMod w 1 = true → guardP0 w = true → CtlRuns (.join w) s t State.ctlDone ∧ CtlRuns (.yield w) s t State.ctlDone) ∧
    (plainMod w 1 = true → CtlRuns (.exit w) s t (fun s u => if u.ctl.pred w.g.toNat = w.gn then s.ctlDone u
      else (s.putTeam (u.withCtl u.ctl.finish)).sweepBars t.uid)) ∧
    (plainMod w 16 = true → guardP0 w = true → (t.bar (bitsAt w.md.toNat 0 4)).e ≠ some true →
      CtlRuns (.bar w) s t (fun s u => (s.ctlBlock (u.putBar (bitsAt w.md.toNat 0 4) ⟨(t.bar (bitsAt w.md.toNat 0 4)).arrived, true, some false⟩)
        (.bar (bitsAt w.md.toNat 0 4))).sweepBars t.uid))) ∧
  (∀ (s : State) (f : Foc) (w : FWord), VecIssues s f → noOperands .vec w = true →
    (plainMod w 1 = true → guardP0 w = true →
      (∀ i c, f.x.record = some i → tabGet none f.r.recs i = some c → c.jpc ≠ f.x.pc) → VecRuns (.join w) s f Foc.done) ∧
    (plainMod w 1 = true → guardP0 w = true → VecRuns (.yield w) s f (fun g => (g.next.yieldTo f.others).close)) ∧
    (plainMod w 1 = true → VecRuns (.exit w) s f (fun g => g.next.exitThreads (f.pass w))) ∧
    (plainMod w 32 = true → guardP0 w = true →
      ((f.t.bar (bitsAt w.md.toNat 0 4)).e.getD (w.md.getLsbD 4) = w.md.getLsbD 4 →
        VecRuns (.bar w) s f (fun g => (((g.withTeam (g.t.putBar (bitsAt w.md.toNat 0 4) ((f.t.bar (bitsAt w.md.toNat 0 4)).arrive f.r.num
          (maskOf (f.actives (maskList f.x.mask))) (w.md.getLsbD 4)))).block (.bar (bitsAt w.md.toNat 0 4))).close).sweepBars f.t.uid)) ∧
      ((f.t.bar (bitsAt w.md.toNat 0 4)).e.getD (w.md.getLsbD 4) ≠ w.md.getLsbD 4 →
        exec (.bar w) s = .next (f.trapIssue (f.members 0 false) .illegalOperand (hiOf (fToWord 0xA8 w))))))

/-- TRAP, BRK and SLEEP, and the read of a control register that an error has marked (R252, R253, R378, R399). -/
def Obligations.SoftwareTrapsAndSleep : Prop :=
  (∀ (s : State) (t : Team) (w : FWord), CtlIssues s t → t.guard w.g w.gn →
    (noOperands .ctl w = true → t.ctl.handler = none → s.traph t.grid true ≠ 0 →
      CtlRuns (.trap w) s t (fun s u => s.putTeam (u.withCtl { (((u.ctl.putS 60 (BitVec.ofNat 64 0x38)).putS 61 ((t.ctl.pc + 8).setWidth 64)).putS 62 (w.md.setWidth 64)) with
        pc := BitVec.ofNat 48 (s.traph t.grid true), wait := .none, handler := some ⟨.software, t.ctl.pc + 8⟩, earliest := max u.ctl.earliest (s.gt + 3) })) ∧
      (s.debugged t.ctx = false →
        CtlRuns (.brk w) s t (fun s u => s.putTeam (u.withCtl { (((u.ctl.putS 60 (BitVec.ofNat 64 0x39)).putS 61 ((t.ctl.pc + 8).setWidth 64)).putS 62 (w.md.setWidth 64)) with
          pc := BitVec.ofNat 48 (s.traph t.grid true), wait := .none, handler := some ⟨.brk, t.ctl.pc + 8⟩, earliest := max u.ctl.earliest (s.gt + 3) })))) ∧
    (plainMod w 1 = true → fldOk .ctl .none (fldD w) = true → w.kd = false → fldOk .ctl .reg (fldA w) = true → fldOk .ctl .none (fldB w) = true →
      CtlRuns (.sleep w) s t (fun s u => if ((t.ctl.getS w.a.toNat).extractLsb' 0 32).toNat = 0 then s.ctlDone u
        else s.ctlBlock u (.sleep (s.gt + ((t.ctl.getS w.a.toNat).extractLsb' 0 32).toNat))))) ∧
  (∀ (s : State) (t : Team) (w : FWord), s.cur = .ctl t.uid → s.team t.uid = some t → s.hole = none → t.guard w.g w.gn → plainMod w 1 = true →
    fldOk .ctl .none (fldD w) = true → w.kd = false → fldOk .ctl .reg (fldA w) = true → fldOk .ctl .none (fldB w) = true →
    tabGet false t.ctl.errs w.a.toNat = true →
    CtlRuns (.sleep w) s t (fun s u => s.deliverCtl u { code := .uncorrectable, detail := BitVec.ofNat 64 w.a.toNat })) ∧
  (∀ (s : State) (f : Foc) (w : FWord), VecIssues s f →
    (noOperands .vec w = true → (∀ p l, f.actives (f.pass w) = p :: l →
      VecRuns (.trap w) s f (fun g => g.deliver { code := .software, detail := w.md.setWidth 64 } ⟨p, p :: l, f.pass w⟩) ∧
      (s.debugged f.t.ctx = false → VecRuns (.brk w) s f (fun g => g.deliver { code := .brk, detail := w.md.setWidth 64 } ⟨p, p :: l, f.pass w⟩)))) ∧
    (plainMod w 1 = true → fldOk .vec .none (fldD w) = true → w.kd = false → fldOk .vec .reg (fldA w) = true → fldOk .vec .none (fldB w) = true →
      Clear f (f.pass w) (vregsOf .reg (fldA w)) (fullNeeds .reg (fldA w)) → Reads f.r (f.actives (f.pass w)) .reg (fldA w) →
      ∀ n, n = maxOf ((f.actives (f.pass w)).map (fun p => (lo32 (readVal f.r p .reg (fldA w))).toNat)) →
        VecRuns (.sleep w) s f (fun g => if n = 0 then g.done else (g.block (.sleep (g.s.gt + n))).close)))

/-- Taking a trap (R377, R380, R381). -/
def Obligations.TrapEntry : Prop :=
  ∀ (f : Foc) (tr : Trap) (w : TrapAt),
    (f.r.handler = none → f.s.traph f.t.grid false ≠ 0 →
      ∃ (r : Rank) (save : HandlerSave) (x : Split),
        f.deliver tr w = ((({ f.withRank { r with handler := some save } with x := x } : Foc).withRank ({ r with handler := some save }.putSplit x)).stopCur).close ∧
        (r.kreg 60).val = BitVec.ofNat 32 tr.code.num ∧ (r.kreg 61).val = (trapPcOf tr.code f.x.pc).extractLsb' 0 32 ∧
        (r.kreg 62).val = ((trapPcOf tr.code f.x.pc).extractLsb' 32 16).setWidth 32 ∧ (r.kreg 63).val = tr.detail.extractLsb' 0 32 ∧
        r.threads = f.r.threads ∧ r.splits = f.r.splits ∧ (∀ n, n < 60 ∨ 63 < n → r.kreg n = f.r.kreg n) ∧
        save.code = tr.code ∧ save.trapPc = trapPcOf tr.code f.x.pc ∧ save.pc = f.x.pc ∧ save.resume = w.pos ∧ save.mask = f.x.mask ∧
        save.handled = maskOf w.handled ∧ save.actives = maskOf w.actives ∧ save.given = f.x.given ∧ save.record = f.x.record ∧
        x.mask = maskOf w.handled ∧ x.pc = BitVec.ofNat 48 (f.s.traph f.t.grid false) ∧ x.age = f.x.age ∧ x.resume = 0 ∧ x.given = [] ∧
        x.record = none ∧ x.wait = .none ∧ x.inHandler = true) ∧
    (f.r.handler = none → f.s.traph f.t.grid false = 0 → f.deliver tr w = f.close.failGrid f.t.grid tr.code tr.detail (some tr.code)) ∧
    (∀ h, f.r.handler = some h → f.x.inHandler = true → f.deliver tr w = f.close.failGrid f.t.grid tr.code tr.detail (some h.code)) ∧
    (f.deliver tr w).mem = f.s.mem

/-- Flags and queues of the control stream (R247 to R251). -/
def Obligations.ControlFlagsAndQueues : Prop :=
  ∀ (s : State) (t : Team) (w : FWord), CtlIssues s t → t.guard w.g w.gn → w.kd = false →
    (plainMod w 1 = true → fldOk .ctl .none (fldD w) = true → fldOk .ctl .flag (fldA w) = true → fldOk .ctl .reg (fldB w) = true →
      CtlRuns (.flagadd w) s t (fun s u => (s.ctlDone u).flagAdd t.uid (flagNum w) ((t.ctl.getS w.b.toNat).extractLsb' 0 32))) ∧
    (plainMod w 3 = true → fldOk .ctl .none (fldD w) = true → fldOk .ctl .flag (fldA w) = true → fldOk .ctl .reg (fldB w) = true →
      CtlRuns (.flagwait w) s t (fun s u =>
        if flagCond w.md.toNat (t.flag (flagNum w)) ((t.ctl.getS w.b.toNat).extractLsb' 0 32) then s.ctlDone u
        else if t.alone none then s.deliverCtl u { code := .queueFault, detail := BitVec.ofNat 64 (256 + flagNum w) }
        else s.ctlBlock u (.flag (flagNum w) w.md.toNat [(t.ctl.getS w.b.toNat).extractLsb' 0 32]))) ∧
    (w.md = 0 → fldOk .ctl .none (fldD w) = true → fldOk .ctl .queue (fldA w) = true → w.a.toNat - 112 < 4 →
      (fldOk .ctl .wide (fldB w) = true → isHandle (fldB w) = false →
        CtlRuns (.qpush w) s t (fun s u =>
          if (t.queue (w.a.toNat - 112)).length < 32 then
            s.ctlDone (u.putQueue (w.a.toNat - 112) (t.queue (w.a.toNat - 112) ++ [⟨t.ctl.getS w.b.toNat, none⟩]))
          else if t.alone none then s.deliverCtl u { code := .queueFault, detail := BitVec.ofNat 64 (w.a.toNat - 112) }
          else s.ctlBlock u (.push (w.a.toNat - 112) 1))) ∧
      (isHandle (fldB w) = true → t.handle (w.b.toNat - 80) ≠ .idle → (t.queue (w.a.toNat - 112)).length < 32 →
        CtlRuns (.qpush w) s t (fun s u => s.ctlDone ({ u with handles := tabPut .idle t.handles (w.b.toNat - 80) .idle }.putQueue (w.a.toNat - 112)
          (t.queue (w.a.toNat - 112) ++ [QEntry.mk 0 (some (t.handle (w.b.toNat - 80)))]))))) ∧
    (w.md = 0 → fldOk .ctl .queue (fldA w) = true → fldOk .ctl .none (fldB w) = true →
      (fldOk .ctl .wide (fldD w) = true → isHandle (fldD w) = false → w.a.toNat - 112 < 4 →
        CtlRuns (.qpop w) s t (fun s u => match t.queue (w.a.toNat - 112) with
          | e :: l => s.ctlDone ((u.withCtl (u.ctl.putS w.d.toNat (if e.mark.isSome then 0 else e.val))).putQueue (w.a.toNat - 112) l)
          | [] => if t.alone none then s.deliverCtl u { code := .queueFault, detail := BitVec.ofNat 64 (w.a.toNat - 112) }
            else s.ctlBlock u (.pop (w.a.toNat - 112) 1))) ∧
      (∀ e h l, isHandle (fldD w) = true → w.a.toNat - 112 < 4 → t.handle (w.d.toNat - 80) = .idle →
        t.queue (w.a.toNat - 112) = e :: l → e.mark = some h →
        CtlRuns (.qpop w) s t (fun s u => s.ctlDone ({ u with handles := tabPut .idle t.handles (w.d.toNat - 80) h }.putQueue (w.a.toNat - 112) l))) ∧
      (∀ k r l, fldOk .ctl .wide (fldD w) = true → isHandle (fldD w) = false → 4 ≤ w.a.toNat - 112 →
        (tabGet Endpoint.unbound t.ends (w.a.toNat - 112)).kind = some k → (tabGet Endpoint.unbound t.ends (w.a.toNat - 112)).words = r :: l →
        CtlRuns (.qpop w) s t (fun s u => s.ctlDone
          { u with ends := tabPut Endpoint.unbound t.ends (w.a.toNat - 112) { tabGet Endpoint.unbound t.ends (w.a.toNat - 112) with words := l },
                   ctl := { u.ctl.putS w.d.toNat r with pcm := max u.ctl.pcm (tabGet Endpoint.unbound t.ends (w.a.toNat - 112)).wmax } })))

/-- Flags and queues of the vector stream (R247 to R250). -/
def Obligations.VectorFlagsAndQueues : Prop :=
  ∀ (s : State) (f : Foc) (w : FWord), VecIssues s f →
    (plainMod w 1 = true → fldOk .vec .none (fldD w) = true → w.kd = false → fldOk .vec .flag (fldA w) = true → fldOk .vec .reg (fldB w) = true →
      Clear f (f.pass w) (vregsOf .reg (fldB w)) (fullNeeds .reg (fldB w)) → Reads f.r (f.actives (f.pass w)) .reg (fldB w) →
      f.actives (f.pass w) ≠ [] →
      VecRuns (.flagadd w) s f (fun g => g.done.flagAdd f.t.uid w.a.toNat
        ((f.actives (f.pass w)).foldl (fun n p => n + lo32 (readVal f.r p .reg (fldB w))) 0))) ∧
    (plainMod w 3 = true → fldOk .vec .none (fldD w) = true → w.kd = false → fldOk .vec .flag (fldA w) = true → fldOk .vec .reg (fldB w) = true →
      Clear f (f.pass w) (vregsOf .reg (fldB w)) (fullNeeds .reg (fldB w)) → Reads f.r (f.actives (f.pass w)) .reg (fldB w) →
      ((∀ p ∈ f.actives (f.pass w), flagCond w.md.toNat (f.t.flag w.a.toNat) (lo32 (readVal f.r p .reg (fldB w))) = true) →
        VecRuns (.flagwait w) s f Foc.done) ∧
      ((∃ p ∈ f.actives (f.pass w), flagCond w.md.toNat (f.t.flag w.a.toNat) (lo32 (readVal f.r p .reg (fldB w))) = false) →
        f.t.alone (some f.r.num) = false →
        VecRuns (.flagwait w) s f (fun g => (g.block (.flag w.a.toNat w.md.toNat
          ((f.actives (f.pass w)).map (fun p => lo32 (readVal f.r p .reg (fldB w)))))).close))) ∧
    (plainMod w 4 = true → fldOk .vec .none (fldD w) = true → w.kd = false → fldOk .vec .queue (fldA w) = true → fldOk .vec (entryOpd w) (fldB w) = true →
      Clear f (f.pass w) (vregsOf (entryOpd w) (fldB w)) (fullNeeds (entryOpd w) (fldB w)) →
      Reads f.r (queueThreads w (f.actives (f.pass w))) (entryOpd w) (fldB w) → (w.md.getLsbD 1 = true ∨ (f.actives (f.pass w)).length ≤ 32) →
      (f.t.queue w.a.toNat).length + (queueThreads w (f.actives (f.pass w))).length ≤ 32 →
      VecRuns (.qpush w) s f (fun g => (g.withTeam (g.t.putQueue w.a.toNat (f.t.queue w.a.toNat ++
        (queueThreads w (f.actives (f.pass w))).map (fun p => ⟨lo64 (readVal f.r p (entryOpd w) (fldB w)), none⟩)))).done)) ∧
    (plainMod w 4 = true → fldOk .vec (entryOpd w) (fldD w) = true → fldOk .vec .queue (fldA w) = true → (w.kd = false ∨ w.md.getLsbD 1 = true) →
      fldOk .vec .none (fldB w) = true → Clear f (f.pass w) (vregsOf (entryOpd w) (fldD w)) (vregsOf (entryOpd w) (fldD w)) →
      (∀ p ∈ f.pass w, f.r.helper p = false) → (f.pass w).length ≤ (f.t.queue w.a.toNat).length →
      (w.md.getLsbD 1 = false → (f.pass w).length ≤ 32 →
        VecRuns (.qpop w) s f (fun g => (((f.pass w).zip (f.t.queue w.a.toNat)).foldl (fun g e => popGive w g e.1 e.2.word)
          (g.withTeam (g.t.putQueue w.a.toNat ((f.t.queue w.a.toNat).drop (f.pass w).length)))).done)) ∧
      (∀ e l, w.md.getLsbD 1 = true → f.t.queue w.a.toNat = e :: l → f.pass w ≠ [] →
        VecRuns (.qpop w) s f (fun g => ((f.pass w).foldl (fun g p => popGive w g p e.word) (g.withTeam (g.t.putQueue w.a.toNat l))).done))) ∧
    (∀ (g : Foc) (p : Nat) (v : TCap),
      (w.kd = true → popGive w g p v = g.withRank (writeOpd g.r g.x.age p (entryOpd w) (fldD w) v)) ∧
      (w.kd = false → fldOk .vec (entryOpd w) (fldD w) = true →
        (∃ a, (popGive w g p v).s.accesses = g.s.accesses ++ [a] ∧ a.who = ⟨g.t.uid, some g.r.num, p⟩ ∧ a.born = g.s.gt ∧ a.pieces = [] ∧
          a.kind = .popped w.d.toNat (if w.md.getLsbD 0 then 6 else 4) (lo64 v)) ∧
        (∀ n ∈ vregsOf (entryOpd w) (fldD w), (popGive w g p v).r.isFull p n = false ∨ g.r.threads[p]? = none) ∧
        (∀ q n, q ≠ p → (popGive w g p v).r.vreg q n = g.r.vreg q n)))

/-- RDSYS and WRSYS (R254, R255). -/
def Obligations.SystemRegisters : Prop :=
  (∀ (s : State) (t : Team) (w : FWord), CtlIssues s t → t.guard w.g w.gn →
    ((sysWidth .ctl w.md.toNat).isSome = true → fldOk .ctl .wide (fldD w) = true → fldOk .ctl .none (fldA w) = true → fldOk .ctl .none (fldB w) = true →
      CtlRuns (.rdsys w) s t (fun s u => s.ctlDone (u.withCtl (u.ctl.putS w.d.toNat (BitVec.ofNat 64
        (if w.md.toNat = 0x020 then 2 * t.pair + t.layer else sysShared s t true t.ctl.pcm w.md.toNat)))))) ∧
    (∀ g, s.grid t.grid = some g → fldOk .ctl .none (fldD w) = true → w.kd = false → fldOk .ctl .wide (fldA w) = true → fldOk .ctl .none (fldB w) = true →
      (g.priv = true → w.md = 0x040 → 2 ^ 16 ≤ (t.ctl.getS w.a.toNat).toNat → (t.ctl.getS w.a.toNat).toNat ≤ 2 ^ 32 →
        CtlRuns (.wrsys w) s t (fun s u => (s.putGrid { g with wdlim := (t.ctl.getS w.a.toNat).toNat }).ctlDone u)) ∧
      (g.priv = true → w.md = 0x041 → (t.ctl.getS w.a.toNat).toNat % 8 = 0 →
        CtlRuns (.wrsys w) s t (fun s u => (s.putGrid { g with trapC := t.ctl.getS w.a.toNat }).ctlDone u)) ∧
      (g.priv = false → (w.md = 0x040 ∨ w.md = 0x041) →
        CtlRuns (.wrsys w) s t (fun s u => (s.putTeam u).freezeTeam t.uid { code := .privileged } t.ctl.pc 0)))) ∧
  (∀ (s : State) (f : Foc) (w : FWord), VecIssues s f →
    (∀ n, sysWidth .vec w.md.toNat = some n → fldOk .vec (if n = 64 then .pair else .reg) (fldD w) = true → fldOk .vec .none (fldA w) = true →
      fldOk .vec .none (fldB w) = true → Clear f (f.pass w) (vregsOf (if n = 64 then .pair else .reg) (fldD w)) (vregsOf (if n = 64 then .pair else .reg) (fldD w)) →
      VecRuns (.rdsys w) s f (fun g => (g.withRank (g.r.writeAll f.x.age (if w.kd && guardP0 w then (f.actives (f.pass w) ++ f.pass w).take 1 else f.pass w)
        (if n = 64 then .pair else .reg) (fldD w)
        (fun p => ⟨BitVec.ofNat 128 (sysVec g (f.pass w) p w.md.toNat % 2 ^ 64), false⟩))).done)) ∧
    (∀ g v, s.grid f.t.grid = some g → g.priv = true → w.md = 0x041 → fldOk .vec .none (fldD w) = true → w.kd = false → fldOk .vec .pair (fldA w) = true →
      fldOk .vec .none (fldB w) = true → Clear f (f.pass w) (vregsOf .pair (fldA w)) (fullNeeds .pair (fldA w)) → f.pass w ≠ [] →
      (∀ p ∈ f.pass w, f.r.helper p = false ∧ readOpd f.r p .pair (fldA w) = .ok v) → (lo64 v).toNat % 8 = 0 →
      VecRuns (.wrsys w) s f (fun h => (h.withState (h.s.putGrid { g with trapV := lo64 v })).done)))

/-- RCLAIM, RCLAIMT and RRELEASE (R323, R325); RSHARE, RUNSHARE, DEPOSIT, RMARK and RARRIV (R326 to R329). -/
def Obligations.PoolInstructions : Prop :=
  ((∀ (s : State) (f : Foc) (w : FWord), VecIssues s f → (w.md = 0 ∨ w.md = 0x800) → guardP0 w = true → fldOk .vec .none (fldA w) = true →
    countOk w = true → countTrap f.r w = none → poolCount f.r w ≠ 0 →
    (fldOk .vec .none (fldD w) = true → f.r.width * (f.r.top + 8 * poolCount f.r w) ≤ Config.poolRegs →
      f.r.width * (8 * poolCount f.r w) ≤ s.poolFree f.t.pair f.r.rod →
      VecRuns (.rclaim w) s f (fun g => (g.withRank (g.r.grow (poolCount f.r w))).done)) ∧
    (fldOk .vec .none (fldD w) = true → f.r.width * (f.r.top + 8 * poolCount f.r w) ≤ Config.poolRegs →
      s.poolFree f.t.pair f.r.rod < f.r.width * (8 * poolCount f.r w) →
      ∃ g : Foc, g = f.spend ∧ exec (.rclaim w) s = .next ((g.withState (g.s.putRod f.t.pair f.r.rod
        { g.s.rod f.t.pair f.r.rod with claims := (g.s.rod f.t.pair f.r.rod).claims ++ [⟨f.t.uid, f.r.num, f.x.age, poolCount f.r w⟩] })).block
          (.claim (poolCount f.r w))).close) ∧
    (fldOk .vec .pred (fldD w) = true → f.r.width * (f.r.top + 8 * poolCount f.r w) ≤ Config.poolRegs →
      VecRuns (.rclaimt w) s f (fun g => if f.r.width * (8 * poolCount f.r w) ≤ s.poolFree f.t.pair f.r.rod
        then (g.withRank ((g.r.predAll (f.members 0 false) w.d.toNat (fun _ => true)).grow (poolCount f.r w))).done
        else (g.withRank (g.r.predAll (f.members 0 false) w.d.toNat (fun _ => false))).done)) ∧
    (fldOk .vec .none (fldD w) = true → f.r.base + 8 * poolCount f.r w ≤ f.r.top →
      f.r.meetsShare (f.r.top - 8 * poolCount f.r w) f.r.top = false →
      (∀ p < f.r.width, ∀ i < 8 * poolCount f.r w, f.r.isFull p (f.r.top - 8 * poolCount f.r w + i) = true) →
      s.matrixReads f.t f.r.num (f.r.top - 8 * poolCount f.r w) f.r.top = false →
      VecRuns (.rrelease w) s f (fun g => (g.withRank (g.r.cut (f.r.top - 8 * poolCount f.r w))).done))) ∧
  (∀ (s : State) (t : Team) (w : FWord), CtlIssues s t →
    NotInControl (.rclaim w) 0x80 w s t ∧ NotInControl (.rclaimt w) 0x81 w s t ∧ NotInControl (.rrelease w) 0x82 w s t ∧
      NotInControl (.rshare w) 0x83 w s t ∧ NotInControl (.runshare w) 0x84 w s t ∧ NotInControl (.deposit w) 0x85 w s t ∧
      NotInControl (.rmark w) 0x86 w s t ∧ NotInControl (.rarriv w) 0x87 w s t)) ∧
  (∀ (s : State) (f : Foc) (w : FWord), VecIssues s f →
    (∀ u p y, plainMod w 16 = true → guardP0 w = true → plainNum (fldD w) 0 2047 = true → plainNum (fldA w) 0 2047 = true → plainNum (fldB w) 1 64 = true →
      s.rankAt f.t.pair f.r.rod (bitsAt w.md.toNat 0 4) = some (u, p) → shareBad f.t f.r (some (u, p)) w.d.toNat w.a.toNat w.b.toNat = false →
      p.splits.find? (fun x => decide (x.wait = .share f.r.slot w.a.toNat w.d.toNat w.b.toNat)) = some y →
      VecRuns (.rshare w) s f (fun g =>
        ((g.withRank ((if p.slot < f.r.slot then copyShare p g.r w.a.toNat w.d.toNat w.b.toNat else g.r).share ⟨w.d.toNat, u.uid, p.num, w.a.toNat, w.b.toNat⟩)).next.putPartner u
          { p.share ⟨w.a.toNat, f.t.uid, f.r.num, w.d.toNat, w.b.toNat⟩ with splits := p.splits.map (fun x => if x.age = y.age then x.past else x) }).close)) ∧
    (∀ h, plainMod w 1 = true → guardP0 w = true → plainNum (fldD w) 0 2047 = true → fldOk .vec .none (fldA w) = true → fldOk .vec .none (fldB w) = true →
      f.r.shares.find? (fun h => h.own == w.d.toNat) = some h →
      VecRuns (.runshare w) s f (fun g => ((g.withRank (g.r.unshare h.own)).done).endShare h)) ∧
    (plainMod w 1 = true → plainNum (fldD w) 0 2047 = true → fldOk .vec .reg (fldA w) = true → w.kb = true → fldOk .vec .reg (fldB w) = true →
      Clear f (f.pass w) (vregsOf .reg (fldA w)) (fullNeeds .reg (fldA w)) → Reads f.r (f.pass w) .reg (fldA w) → Reads f.r (f.pass w) .reg (fldB w) →
      (f.r.kreg w.b.toNat).val.toNat < 2048 → 
      coreOf (depositTarget f.t.pair (f.r.kreg w.b.toNat).val).1 (depositTarget f.t.pair (f.r.kreg w.b.toNat).val).2.1 ≠ coreOf f.t.pair f.r.rod →
      VecRuns (.deposit w) s f (fun g => (g.withState ((f.actives (f.pass w)).foldl (fun s p => s.post
        ⟨0, ⟨f.t.uid, some f.r.num, p⟩, f.t.grid, (depositTarget f.t.pair (f.r.kreg w.b.toNat).val).1, (depositTarget f.t.pair (f.r.kreg w.b.toNat).val).2.1,
          (depositTarget f.t.pair (f.r.kreg w.b.toNat).val).2.2, w.d.toNat, lo32 (readVal f.r p .reg (fldA w))⟩) g.s)).done)) ∧
    (plainMod w 1 = true → plainNum (fldD w) 0 2047 = true → fldOk .vec .none (fldA w) = true → plainNum (fldB w) 1 64 = true →
      Clear f (f.pass w) ((List.range w.b.toNat).map (fun i => w.d.toNat + i)) ((List.range w.b.toNat).map (fun i => w.d.toNat + i)) →
      VecRuns (.rmark w) s f (fun g => (g.withRank (g.r.emptyMarks (f.pass w) ((List.range w.b.toNat).map (fun i => w.d.toNat + i)))).done)) ∧
    (w.md.toNat % 2048 < 2 → fldOk .vec .reg (fldD w) = true → fldOk .vec .none (fldA w) = true →
      (if w.md.getLsbD 0 then countOk w else !w.md.getLsbD 11 && fldOk .vec .none (fldB w)) = true →
      Clear f (f.pass w) (vregsOf .reg (fldD w)) (vregsOf .reg (fldD w)) → (w.md.getLsbD 0 = true → countTrap f.r w = none) →
      (w.md.getLsbD 0 = true → (f.r.arrival - BitVec.ofNat 32 (poolCount f.r w)).toNat < 2 ^ 31) →
      VecRuns (.rarriv w) s f (fun g => (g.withRank (g.r.writeAll f.x.age (if w.kd && guardP0 w then (f.pass w).take 1 else f.pass w) .reg (fldD w)
        (fun _ => ⟨f.r.arrival.setWidth 128, false⟩))).done)))

/-- Memory passes of the vector stream (R28, R290 to R300). -/
def Obligations.VectorMemoryPasses : Prop :=
  ∀ (i : Instr) (q : MemPass) (g : BitVec 3) (gn : Bool) (s : State) (f : Foc), memOf i = some (q, g, gn) → VecIssues s f → q.spec.ok = true →
    Clear f (f.members g.toNat gn) q.spec.named q.spec.waits →
    (VecWhole s f (memLoop q (f.members g.toNat gn)) →
      VecRuns i s f (fun h => ((memLoop q (f.members g.toNat gn) h).1.sent s.nextId (f.members g.toNat gn)).done)) ∧
    (∀ h p tr, memLoop q (f.members g.toNat gn) (f.issue clsPer q.reads q.writes (f.members g.toNat gn) false) = (h, some (p, .trap tr)) → h.s.hole = none →
      tr.code.violation = false → ownerFirst tr.code = false → tr.code ≠ .brk →
      exec i s = .next ((h.sent s.nextId (f.members g.toNat gn)).deliver tr ⟨p, [p], f.members g.toNat gn⟩))

/-- Memory instructions of the control stream (R290 to R300). -/
def Obligations.ControlMemoryInstructions : Prop :=
  ∀ (s : State) (t : Team) (w : MemWord), CtlIssues s t → t.guard w.g w.gn →
    (∀ (i : Instr) (o : Opd) (types : Nat → Bool) (u : Nat) (send : State → MemReq → State × Except Stop Sent),
      ((i = .ld w ∧ o = memOpdCtl w.ty.toNat ∧ types = (fun n => decide (n < 13)) ∧ u = tyBytes w.ty.toNat ∧ send = ldSend w) ∨
        (i = .ldf w ∧ o = memOpdCtl w.ty.toNat ∧ types = elemTypes ∧ u = 1 ∧ send = ldfSend w) ∨
        (i = .ldcap w ∧ o = .quad ∧ types = (fun n => n == 12) ∧ u = 16 ∧ send = ldcapSend w)) →
      memOk .ctl o types true w = true →
      CtlSends s t (fun s => send s (t.memReq (memAddrCtl t.ctl w u (memOff w)) (w.res != 0))) →
      CtlRuns i s t (fun s v => (send s (t.memReq (memAddrCtl t.ctl w u (memOff w)) (w.res != 0))).1.ctlBlock (v.present w.res)
        (.result (sentId (send s (t.memReq (memAddrCtl t.ctl w u (memOff w)) (w.res != 0))))))) ∧
    (∀ (i : Instr) (o : Opd) (types : Nat → Bool) (u : Nat) (send : State → MemReq → State × Except Stop Sent),
      ((i = .st w ∧ o = memOpdCtl w.ty.toNat ∧ types = (fun n => decide (n < 13)) ∧ u = tyBytes w.ty.toNat ∧
          send = (fun s a => s.sendStore a false w.ty.toNat (readCtl t.ctl o (memD w)))) ∨
        (i = .stcap w ∧ o = .quad ∧ types = (fun n => n == 12) ∧ u = 16 ∧ send = (fun s a => s.sendStore a true 12 (readCtl t.ctl o (memD w)))) ∨
        (i = .stf w ∧ o = memOpdCtl w.ty.toNat ∧ types = elemTypes ∧ u = 1 ∧ w.d.toNat ≠ 63 ∧
          send = (fun s a => s.sendElemStore a w.ty.toNat (readCtl t.ctl o (memD w)).bits.toNat (.ok (t.ctl.getS (w.d.toNat + 1)).toNat)))) →
      memOk .ctl o types true w = true →
      CtlSends s t (fun s => send s (t.memReq (memAddrCtl t.ctl w u (memOff w)) (w.res != 0))) →
      CtlRuns i s t (fun s v => (send s (t.memReq (memAddrCtl t.ctl w u (memOff w)) (w.res != 0))).1.ctlDone (v.present w.res))) ∧
    (memOk .ctl (if w.off = 7 then .spair else .wide) (atomTypes w.off.toNat) true w = true →
      CtlSends s t (fun s => s.sendAtom (t.memReq (memAddrCtl t.ctl w (tyBytes w.ty.toNat) 0) (w.res != 0)) w.off.toNat (t.ctl.getS w.d.toNat)
        (t.ctl.getS (w.d.toNat + 1)) ⟨w.d.toNat, w.ty.toNat, none⟩) →
      CtlRuns (.atom w) s t (fun s v =>
        (s.sendAtom (t.memReq (memAddrCtl t.ctl w (tyBytes w.ty.toNat) 0) (w.res != 0)) w.off.toNat (t.ctl.getS w.d.toNat)
          (t.ctl.getS (w.d.toNat + 1)) ⟨w.d.toNat, w.ty.toNat, none⟩).1.ctlBlock (v.present w.res)
        (.result (sentId (s.sendAtom (t.memReq (memAddrCtl t.ctl w (tyBytes w.ty.toNat) 0) (w.res != 0)) w.off.toNat (t.ctl.getS w.d.toNat)
          (t.ctl.getS (w.d.toNat + 1)) ⟨w.d.toNat, w.ty.toNat, none⟩))))) ∧
    (memOk .ctl .none (fun n => decide (n < 13)) false w = true →
      (∀ now last, ((s.afterCtl t now last).prefetch (t.memReq (memAddrCtl t.ctl w (tyBytes w.ty.toNat) (memOff w)) false) (tyBytes w.ty.toNat)).hole = none) →
      CtlRuns (.pref w) s t (fun s v => (s.prefetch (t.memReq (memAddrCtl t.ctl w (tyBytes w.ty.toNat) (memOff w)) false) (tyBytes w.ty.toNat)).ctlDone v))

/-- Accesses at commit (R25, R52, R209, R291). -/
def Obligations.AccessesAtCommit : Prop :=
  (∀ (s : State) (a b : MemReq) (d : Dest) (u : Nat) (t : Trap), s.elemUnit a (tyBytes d.ty) = (b, u) →
    (s.checkMem b permLD 1 u false = some t → s.sendLoad a false d = (s, .error (.trap t))) ∧
    (∀ op v new, s.checkMem b permAT u u true = some t → s.sendAtom a op v new d = (s, .error (.trap t)))) ∧
  (∀ (s : State) (a b : MemReq) (ty u : Nat) (v : TCap) (t : Trap), s.elemUnit a (tyBytes ty) = (b, u) → s.checkMem b permST 1 u true = some t →
    s.sendStore a false ty v = (s, .error (.trap t))) ∧
  (∀ (s s1 : State) (a b : MemReq) (d : Dest) (u : Nat) (p : Plan), s.elemUnit a (tyBytes d.ty) = (b, u) → s.checkMem b permLD 1 u false = none →
    s.planMem b needR u true [] false false = (s1, .ok p) →
    (p.sparse = false → (capSpace a.c = 2 ∨ capSpace a.c = 3 ∨ capSpace a.c = 5) →
      s.sendLoad a false d = (s1.flying b (.load d) p.pieces, .ok (.access s1.nextId))) ∧
    (p.sparse = false → (capSpace a.c = 1 ∨ capSpace a.c = 4) →
      s.sendLoad a false d = (s1.flying b (.load d) (p.pieces.map (fun x => s1.hitL1 a.q.pair a.who x)), .ok (.access s1.nextId))) ∧
    (p.sparse = true → a.res = false →
      s.sendLoad a false d = (s1, .error (.trap { code := .missingPage, detail := BitVec.ofNat 64 (b.addr.toNat % 2 ^ 32) }))) ∧
    (p.sparse = true → a.res = true → s.sendLoad a false d = (s1, .ok .sparse))) ∧
  (∀ (s s1 : State) (a b : MemReq) (ty u : Nat) (v : TCap) (p : Plan), s.elemUnit a (tyBytes ty) = (b, u) → s.checkMem b permST 1 u true = none →
    s.planMem b needW u false (storeBytes ty v) false false = (s1, .ok p) →
    (p.sparse = false → (∀ n, (tabGet Slice.start s1.slices n).debug = false) →
      (capSpace a.c ≠ 5 → s.sendStore a false ty v = (s1.flying b .store p.pieces, .ok (.access s1.nextId))) ∧
      (capSpace a.c = 5 → s.sendStore a false ty v = ((s1.noteHostWrite a.who.team).flying b .store p.pieces, .ok (.access s1.nextId)))) ∧
    (p.sparse = true → s.sendStore a false ty v = (s1, .ok .sparse))) ∧
  (∀ (s : State) (a b : MemReq) (u n : Nat), 0 < u → s.elemUnit a u = (b, n) →
    b.c = a.c ∧ b.who = a.who ∧ b.q = a.q ∧ b.m = a.m ∧ b.res = a.res ∧ (n = u ∨ n = 1) ∧
    (s.formatAt a.q (capSpace a.c) ((capCursor a.c : Int) + (a.addr - (capCursor a.c : Int)) / (u : Int)) = true →
      n = 1 ∧ b.addr = (capCursor a.c : Int) + (a.addr - (capCursor a.c : Int)) / (u : Int)) ∧
    (s.formatAt a.q (capSpace a.c) ((capCursor a.c : Int) + (a.addr - (capCursor a.c : Int)) / (u : Int)) = false →
      s.formatAt a.q (capSpace a.c) a.addr = false → n = u ∧ b = a))

/-- STCMP, LDEXP, FENCE and SPWB (R116, R296, R297, R301, R302). -/
def Obligations.CompactionFencesAndWriteBacks : Prop :=
  (∀ (s : State) (f : Foc) (w : MemWord) (q : CmpPass) (i : Instr), VecIssues s f →
    ((i = .stcmp w ∧ q = ⟨0x8C, false, fun f p a => match readOpd f.r p (memOpd w.ty.toNat) (memD w) with
        | .error t => (f.s, .error (.trap t))
        | .ok v => f.s.sendStore a false w.ty.toNat v⟩) ∨
      (i = .ldexp w ∧ q = ⟨0x8D, true, fun f _ a => f.s.sendLoad a false ⟨w.d.toNat, w.ty.toNat, none⟩⟩)) →
    (cmpSpec q w).ok = true → Clear f (f.members w.g.toNat w.gn) (cmpSpec q w).named (cmpSpec q w).waits → f.members w.g.toNat w.gn ≠ [] →
    (w.ti = false ∨ (f.r.kreg w.idx.toNat).cf = false) →
    (∀ now rod, ∃ h n, cmpLoop q w (f.members w.g.toNat w.gn) (f.r.kreg w.idx.toNat).val.toNat { f with s := s.afterIssue f now rod } = (h, n, none) ∧
      h.s.hole = none) →
    VecRuns i s f (fun g => ((((cmpLoop q w (f.members w.g.toNat w.gn) (f.r.kreg w.idx.toNat).val.toNat g).1.sent s.nextId
      (f.members w.g.toNat w.gn)).withRank
        ((cmpLoop q w (f.members w.g.toNat w.gn) (f.r.kreg w.idx.toNat).val.toNat g).1.r.writeK f.x.age w.idx.toNat
          (BitVec.ofNat 32 (cmpLoop q w (f.members w.g.toNat w.gn) (f.r.kreg w.idx.toNat).val.toNat g).2.1))).done))) ∧
  (∀ (s : State) (t : Team) (w : FWord), CtlIssues s t → t.guard w.g w.gn → fenceOk .ctl w = true →
    (w.md.toNat % 4 = 2 →
      CtlRuns (.fence w) s t (fun s u => if s.fenceDone 2 (w.md.toNat / 4) ⟨t.uid, none, 0⟩ then s.ctlDone u
        else s.ctlBlock u (.fence 2 (w.md.toNat / 4) 1))) ∧
    (w.md.toNat % 4 ≠ 2 → (∀ now last, (((s.afterCtl t now last).landCtl t.uid).triggerRange t.pair 0 (s.extent t.pair) ⟨t.uid, none, 0⟩).hole = none) →
      CtlRuns (.fence w) s t (fun s u =>
        if ((s.landCtl t.uid).triggerRange t.pair 0 (s.extent t.pair) ⟨t.uid, none, 0⟩).fenceDone (w.md.toNat % 4) (w.md.toNat / 4) ⟨t.uid, none, 0⟩
        then (((s.landCtl t.uid).triggerRange t.pair 0 (s.extent t.pair) ⟨t.uid, none, 0⟩).flushed (w.md.toNat % 4) (w.md.toNat / 4) ⟨t.uid, none, 0⟩).ctlDone u
        else ((s.landCtl t.uid).triggerRange t.pair 0 (s.extent t.pair) ⟨t.uid, none, 0⟩).ctlBlock u (.fence (w.md.toNat % 4) (w.md.toNat / 4) 1)))) ∧
  (∀ (s : State) (f : Foc) (w : FWord), VecIssues s f → fenceOk .vec w = true → w.md.toNat % 4 = 2 →
    ((∀ p ∈ f.pass w, ∀ now rod, (s.afterIssue f now rod).fenceDone 2 (w.md.toNat / 4) ⟨f.t.uid, some f.r.num, p⟩ = true) → VecRuns (.fence w) s f Foc.done) ∧
    ((∃ p ∈ f.pass w, ∀ now rod, (s.afterIssue f now rod).fenceDone 2 (w.md.toNat / 4) ⟨f.t.uid, some f.r.num, p⟩ = false) →
      VecRuns (.fence w) s f (fun g => (g.block (.fence 2 (w.md.toNat / 4) (maskOf (f.pass w)))).close))) ∧
  (∀ (s : State) (t : Team) (w : MemWord), CtlIssues s t → t.guard w.g w.gn → memOk .ctl .reg (fun n => n == 0) false w = true →
    (∀ now last, ((s.afterCtl t now last).landCtl t.uid).spwb (t.memReq (memAddrCtl t.ctl w 1 (memOff w)) false) ((t.ctl.getS w.d.toNat).toNat % 2 ^ 32) =
      ((((s.afterCtl t now last).landCtl t.uid).spwb (t.memReq (memAddrCtl t.ctl w 1 (memOff w)) false) ((t.ctl.getS w.d.toNat).toNat % 2 ^ 32)).1, none) ∧
      (((s.afterCtl t now last).landCtl t.uid).spwb (t.memReq (memAddrCtl t.ctl w 1 (memOff w)) false) ((t.ctl.getS w.d.toNat).toNat % 2 ^ 32)).1.hole = none) →
    CtlRuns (.spwb w) s t (fun s u =>
      if ((s.landCtl t.uid).spwb (t.memReq (memAddrCtl t.ctl w 1 (memOff w)) false) ((t.ctl.getS w.d.toNat).toNat % 2 ^ 32)).1.awaitsWriteback ⟨t.uid, none, 0⟩
      then ((s.landCtl t.uid).spwb (t.memReq (memAddrCtl t.ctl w 1 (memOff w)) false) ((t.ctl.getS w.d.toNat).toNat % 2 ^ 32)).1.ctlBlock u (.spwb 1)
      else ((s.landCtl t.uid).spwb (t.memReq (memAddrCtl t.ctl w 1 (memOff w)) false) ((t.ctl.getS w.d.toNat).toNat % 2 ^ 32)).1.ctlDone u))

/-- SAMPLE, FETCH, RQUERY, TRACE and DALLOC (R304 to R310). -/
def Obligations.SampledLoadsTracesAndAllocationsRun : Prop :=
  (∀ (i : Instr) (s : State) (f : Foc) (step : Foc → Nat → Except Stop Foc) (zero : Foc → Nat → Foc) (ps : List Nat) (w : FWord) (d a b : Opd),
    VecIssues s f → taskOf i f = some (step, zero, ps) → taskForm i (s.quadMode f.t.grid) = some (w, d, a, b, true) →
    (∀ n ∈ vregsOf d (fldD w) ++ vregsOf a (fldA w) ++ vregsOf b (fldB w), n < f.r.top) →
    (∀ p ∈ f.pass w, ∀ n ∈ vregsOf d (fldD w) ++ fullNeeds a (fldA w) ++ fullNeeds b (fldB w), f.r.isFull p n = true) →
    (VecWhole s f (passLoop step zero ps) → VecRuns i s f (fun g => (passLoop step zero ps g).1.done)) ∧
    (∀ (g g' : Foc) (p : Nat), step g p = .ok g' → w.kd = false → g.r.helper p = false →
      (∃ x, g'.s.accesses = g.s.accesses ++ [x] ∧ x.who = ⟨g.t.uid, some g.r.num, p⟩ ∧ x.born = g.s.gt) ∧
      g'.t = g.t ∧ g'.x = g.x ∧
      (∀ q n, (q ≠ p ∨ n ∉ vregsOf d (fldD w)) → g'.r.vreg q n = g.r.vreg q n) ∧ (∀ n ∈ vregsOf d (fldD w), g'.r.isFull p n = false ∨ g.r.threads[p]? = none) ∧
      (∀ n, g'.r.kreg n = g.r.kreg n) ∧
      ((∀ v, i ≠ .dalloc v) → g'.s.mem = g.s.mem ∧ ∀ q n, g'.r.pred q n = g.r.pred q n))) ∧
  (∀ (s : State) (t : Team) (w : FWord), CtlIssues s t → t.guard w.g w.gn →
    (dallocOk .ctl w = true → w.kd = false →
      CtlWhole s t (fun s _ => (s.heapTake t.req ((t.ctl.getS w.a.toNat).toNat % 2 ^ 32)).1) →
      CtlRuns (.dalloc w) s t (fun s u =>
        ((s.heapTake t.req ((t.ctl.getS w.a.toNat).toNat % 2 ^ 32)).1.start ⟨t.uid, none, 0⟩ t.pair t.ctx 1 0
          (.alloc (s.heapTake t.req ((t.ctl.getS w.a.toNat).toNat % 2 ^ 32)).2 w.d.toNat) []).2.ctlBlock
        (u.withCtl (u.ctl.putPred (w.md.toNat % 8) (s.heapTake t.req ((t.ctl.getS w.a.toNat).toNat % 2 ^ 32)).2.tag))
        (.result ((s.heapTake t.req ((t.ctl.getS w.a.toNat).toNat % 2 ^ 32)).1.nextId)))) ∧
    (∀ dr, smOk 2 false .ctl w = true →
      (∀ now last, ∃ x, (s.afterCtl t now last).readDesc .ctl t.req (.texture (2 * t.pair + t.layer)) (t.ctl.getC (w.a.toNat - 64)) = (x, .ok dr) ∧
        (x.smStart t.req (2 * t.pair + t.layer) 2 w.md.toNat false dr ((List.range 4).map (fun i => (t.ctl.getS (w.b.toNat + i)).extractLsb' 0 32)) [] [] w.d.toNat).2.hole = none) →
      ∃ s' id, exec (.rquery w) s = .next s' ∧ (∃ x u, s'.accesses = s.accesses ++ [x] ∧ x.id = id ∧ x.who = ⟨t.uid, none, 0⟩ ∧
        s'.team t.uid = some u ∧ u.ctl.wait = .result id ∧ u.ctl.pc = t.ctl.pc ∧ u.ctl.s = t.ctl.s ∧ s'.mem = s.mem))) ∧
  (∀ (s : State) (t : Team) (w : FWord), CtlIssues s t →
    NotInControl (.sample w) 0x91 w s t ∧ NotInControl (.fetch w) 0x92 w s t ∧ NotInControl (.trace w) 0x94 w s t)

/-- The device heap (R303 to R305). -/
def Obligations.HeapBlocks : Prop :=
  (∀ (s s' : State) (q : Req) (size : Nat) (x : Ctx) (c : TCap), s.ctx q.ctx = some x → size < 2 ^ 32 → x.heapBase % 256 = 0 →
    x.heapBase + x.heapLen ≤ 2 ^ 48 → s.heapTake q size = (s', c) →
    (c.tag = false → c = TCap.null ∧ s'.ctx q.ctx = some x) ∧
    (c.tag = true → capSpace c = 1 ∧ capCursor c = capBottom c ∧ size ≤ capLen c ∧ 0 < size ∧ x.heapBase ≤ capBottom c ∧
      capTop c ≤ x.heapBase + x.heapLen ∧ (∀ b ∈ x.blocks, capTop c ≤ b.1 ∨ b.1 + b.2 ≤ capBottom c))) ∧
  (∀ (s : State) (who : Who) (q : Req) (c : TCap),
    (c.tag = false → (s.heapFree who q c).2 = some { code := .capTag, detail := 0, addr := BitVec.ofInt 48 (capCursor c), val := c }) ∧
    (c.tag = true → s.heapOwns q.ctx c = false → ∃ d, (s.heapFree who q c).2 = some { code := .illegalOperand, detail := d }) ∧
    (c.tag = true → s.heapOwns q.ctx c = true → (s.heapFree who q c).2 = none)) ∧
  (∀ (s : State) (f : Foc) (w : FWord), VecIssues s f → dfreeOk .vec w = true →
    Clear f (f.pass w) (vregsOf .quad (fldA w)) (fullNeeds .quad (fldA w)) →
    (∀ now rod g, g = (passLoop (dfreeThread w) (fun f _ => f) (f.pass w) { f with s := s.afterIssue f now rod }).1 →
      (passLoop (dfreeThread w) (fun f _ => f) (f.pass w) { f with s := s.afterIssue f now rod }).2 = none ∧ (g.afterFrees (f.pass w)).s.hole = none ∧
        ∀ p ∈ f.pass w, (g.afterFrees (f.pass w)).s.fenceDone 1 4 ⟨f.t.uid, some f.r.num, p⟩ = true) →
    VecRuns (.dfree w) s f (fun g => ((((passLoop (dfreeThread w) (fun f _ => f) (f.pass w) g).1.afterFrees (f.pass w)).withState
      (((passLoop (dfreeThread w) (fun f _ => f) (f.pass w) g).1.afterFrees (f.pass w)).s.releaseFrees
        (whoIn f.t.uid f.r.num (maskOf (f.pass w)))))).done)) ∧
  (∀ (s : State) (t : Team) (w : FWord), CtlIssues s t → t.guard w.g w.gn → dfreeOk .ctl w = true →
    (∀ now last s1, s1 = ((s.afterCtl t now last).heapFree ⟨t.uid, none, 0⟩ t.req (t.ctl.getC (w.a.toNat - 64))).1 →
      ((s.afterCtl t now last).heapFree ⟨t.uid, none, 0⟩ t.req (t.ctl.getC (w.a.toNat - 64))).2 = none ∧ (s1.afterFree t).hole = none ∧
        (s1.afterFree t).fenceDone 1 4 ⟨t.uid, none, 0⟩ = true) →
    CtlRuns (.dfree w) s t (fun s u =>
      (((s.heapFree ⟨t.uid, none, 0⟩ t.req (t.ctl.getC (w.a.toNat - 64))).1.afterFree t).releaseFrees (whoCtl t.uid)).ctlDone u))

/-- Stores at their homes (R107, R111, R121); Atomics and loads at their homes (R107, R111, R121, R298). -/
def Obligations.AccessesAreServedAtTheirHomes : Prop :=
  (∀ (s : State) (id i : Nat) (a : Access) (p : Piece), s.hole = none → s.pieceOpen id i a p → a.kind = .store →
    (∀ pa, p.home = .dev pa → pa + p.data.length ≤ s.installed →
      ∃ t w, exec (.homeWriteApply id i) s = .next t ∧
        (∀ x, t.byteAt x = if pa ≤ x ∧ x < pa + p.data.length ∧ x - pa ∉ p.gone then p.newByte (s.byteAt x) (x - pa) else s.byteAt x) ∧
        t.pairs = s.pairs ∧ t.teams = s.teams ∧ t.order = s.order + 1 ∧
        t.pieceIs id i { p with done := true, time := w, served := s.gt, order := s.order + 1 } ∧ s.gt ≤ w ∧
        ((∀ l ∈ linesOf pa p.data.length, (tabGet none s.lines l).isSome = true) → w = max s.gt (s.lexpOf pa p.data.length))) ∧
    (∀ pair off, p.home = .pad pair off → p.clears = false →
      exec (.homeWriteApply id i) s = .next (((s.comes id p).putPair pair
        ((s.pair pair).write off (p.leaves (memBytes (s.pair pair).pad off p.data.length) p.data) p.tag)).putPiece a i
          { p with done := true, time := s.gt, served := s.gt, order := s.order + 1 })) ∧
    (∀ port addr, p.home = .host port addr → s.portOpen port = true →
      exec (.homeWriteApply id i) s =
        .next (((s.comes id p).sendPort port p.data).putPiece a i { p with done := true, time := s.gt, served := s.gt, order := s.order + 1 }))) ∧
  (∀ (s : State) (id i : Nat) (a : Access) (p : Piece), s.hole = none → s.pieceOpen id i a p →
    (∀ op ty v new d pa old, a.kind = .atom op ty v new d → p.home = .dev pa → p.mask = none → pa + p.len ≤ s.installed → s.sound pa p.len →
      old = p.gets (memBytes s.mem pa p.len) →
      ∃ t w, exec (.homeWriteApply id i) s = .next t ∧
        (∀ x, t.byteAt x = match atomResult op ty (leNat old) (v.toNat % 2 ^ tyBits ty) (new.toNat % 2 ^ tyBits ty) with
          | some r => if pa ≤ x ∧ x < pa + p.len ∧ x - pa ∉ p.gone then (natLe p.len r).getD (x - pa) 0 else s.byteAt x
          | none => s.byteAt x) ∧
        t.pairs = s.pairs ∧ t.teams = s.teams ∧
        t.pieceIs id i { p with done := true, data := old, time := w, served := s.gt, order := s.order + 1 }) ∧
    (∀ op ty v new d pair off old, a.kind = .atom op ty v new d → p.home = .pad pair off → p.clears = false →
      old = p.gets (memBytes (s.pair pair).pad off p.len) →
      exec (.homeWriteApply id i) s = .next (State.putPiece
        (match atomResult op ty (leNat old) (v.toNat % 2 ^ tyBits ty) (new.toNat % 2 ^ tyBits ty) with
          | some r => (s.comes id p).putPair pair ((s.pair pair).write off (p.leaves (memBytes (s.pair pair).pad off p.len) (natLe p.len r)) false)
          | none => s.comes id p)
        a i { p with done := true, data := old, time := s.gt, served := s.gt, order := s.order + 1 })) ∧
    (∀ d pa data, a.kind = .load d → p.home = .dev pa → pa + p.len ≤ s.installed → pa / 256 * 256 + 256 ≤ s.installed → s.sound pa p.len →
      ∃ t w, exec (.homeLoadServe id i data) s = .next t ∧ (∀ x, t.byteAt x = s.byteAt x) ∧ t.pairs = s.pairs ∧ t.teams = s.teams ∧
        t.accesses = (s.putPiece a i { p with done := true, data := p.gets (memBytes s.mem pa p.len), time := w, served := s.gt }).accesses) ∧
    (∀ d pair off data, a.kind = .load d → p.home = .pad pair off →
      exec (.homeLoadServe id i data) s = .next (s.putPiece a i
        { p with done := true, data := p.gets (memBytes (s.pair pair).pad off p.len), time := s.gt, served := s.gt,
                 tag := tabGet false (s.pair pair).tags (off / 16), err := if (s.pair pair).poisoned off p.len then some .poison else none })) ∧
    (∀ d port addr data, a.kind = .load d → p.home = .host port addr → s.portOpen port = true → data.length = p.len →
      exec (.homeLoadServe id i data) s = .next (s.putPiece a i { p with done := true, data := data, time := s.gt, served := s.gt }))) ∧
  (∀ (s : State) (id i : Nat) (a : Access), s.hole = none → s.access id = some a → s.gt < a.leaves →
    exec (.homeWriteApply id i) s = .next s ∧ ∀ data, exec (.homeLoadServe id i data) s = .next s)

/-- STORE_ACK and LOAD_RESULT_RETURN (R105, R112, R184, R292); Waits that end (R109, R116, R193, R253, R367). -/
def Obligations.ResultsArriveAndWaitsEnd : Prop :=
  (∀ (s : State) (id : Nat) (a : Access), s.hole = none → s.access id = some a → a.done = true →
    (s.ripe a = false → exec (.storeAck id) s = .next s ∧ exec (.loadResultReturn id) s = .next s) ∧
    ((a.kind = .store ∨ ∃ v, a.kind = .vismax v) → s.ripe a = true →
      ∃ t, exec (.storeAck id) s = .next t ∧ t.accesses = (s.dropAccess id).accesses ∧ t.teams = (s.foldPcm a.who a.time).teams ∧
        t.mem = s.mem ∧ t.pairs = s.pairs) ∧
    (∀ j t r, a.who.rank = some j → (s.foldPcm a.who a.time).team a.who.team = some t → t.rank j = some r → r.ended = false →
      (∀ d, a.kind = .load d → a.pieces.findSome? (fun p => p.err) = none →
        exec (.loadResultReturn id) s = .next ((((s.foldPcm a.who a.time).dropAccess id).arrived t.pair r (keysOf (memOpd d.ty) ⟨d.reg, false, false⟩)).putRank
          t.uid (writeOpd r 0 a.who.pos (memOpd d.ty) ⟨d.reg, false, false⟩ (destValue d a.pieces)))) ∧
      (∀ d e n, a.kind = .load d → a.pieces.findSome? (fun p => p.err) = some e → n = (if d.ty = 12 then 4 else if tyBits d.ty = 64 then 2 else 1) →
        exec (.loadResultReturn id) s = .next ((((s.foldPcm a.who a.time).dropAccess id).arrived t.pair r ((List.range n).map (fun i => d.reg + i))).putRank
          t.uid ((List.range n).foldl (fun r i => (r.putVreg a.who.pos (d.reg + i) ⟨0, true, some (e, BitVec.ofNat 32 a.addr)⟩).putVtag a.who.pos
            (d.reg + i) false) r))) ∧
      (∀ reg ty v, a.kind = .popped reg ty v →
        exec (.loadResultReturn id) s = .next ((((s.foldPcm a.who a.time).dropAccess id).arrived t.pair r (keysOf (memOpd ty) ⟨reg, false, false⟩)).putRank
          t.uid (writeOpd r 0 a.who.pos (memOpd ty) ⟨reg, false, false⟩ ⟨v.setWidth 128, false⟩)))) ∧
    (∀ d t, a.kind = .load d → a.who.rank = none → (s.foldPcm a.who a.time).team a.who.team = some t → t.ctl.wait = .result id →
      (a.pieces.findSome? (fun p => p.err) = none →
        exec (.loadResultReturn id) s = .next (((s.foldPcm a.who a.time).dropAccess id).putTeam
          (t.withCtl (writeCtl { t.ctl with wait := .none } (memOpdCtl d.ty) ⟨d.reg, false, false⟩ (destValue d a.pieces)).next))) ∧
      (∀ e, a.pieces.findSome? (fun p => p.err) = some e → e.violation = false → ownerFirst e = false → e ≠ .brk →
        exec (.loadResultReturn id) s = .next (((s.foldPcm a.who a.time).dropAccess id).deliverCtl (t.withCtl { t.ctl with wait := .none })
          { code := e, detail := (BitVec.ofNat 32 a.addr).setWidth 64 })))) ∧
  (∀ (s : State), s.hole = none →
    (∀ uid t d, s.team uid = some t → t.ctl.wait = .sleep d →
      exec (.sleepWake (.ctl uid)) s = .next (if d ≤ s.gt then s.putTeam (t.withCtl t.ctl.next) else s)) ∧
    (∀ uid j age t r x d, s.splitOf (.vec uid j age) = some (t, r, x) → x.wait = .sleep d →
      exec (.sleepWake (.vec uid j age)) s = .next (if d ≤ s.gt then s.putRank t.uid (r.putSplit x.past) else s)) ∧
    (∀ uid t kind scope act, s.team uid = some t → t.ctl.wait = .fence kind scope act → s.fenceDone kind scope ⟨uid, none, 0⟩ = true →
      exec (.fencePassComplete (.ctl uid)) s =
        .next (((s.releaseFrees (whoCtl uid)).flushed kind scope ⟨uid, none, 0⟩).putTeam (t.withCtl t.ctl.next))) ∧
    (∀ uid j age t r x kind scope act, s.splitOf (.vec uid j age) = some (t, r, x) → x.wait = .fence kind scope act →
      (∀ p ∈ maskList act, s.fenceDone kind scope ⟨uid, some j, p⟩ = true) →
      exec (.fencePassComplete (.vec uid j age)) s = .next ((s.releaseFrees (whoIn uid j act)).putRank t.uid (r.putSplit x.past))) ∧
    (∀ uid t s1 s2 w, s.team uid = some t → t.ctl.wait = .fetch → s.fillWord t.req t.ctl.pc.toNat = (s1, none) →
      s1.fetchWord t.req t.ctl.pc.toNat = (s2, .word w) → w.extractLsb' 54 10 ≠ 0x064#10 → s2.hole = none →
      exec (.ifetchFill (.ctl uid)) s = .next (s2.putTeam { t with ctl := { t.ctl with wait := .none } })) ∧
    (∀ uid j age t r x s1 s2 w, s.splitOf (.vec uid j age) = some (t, r, x) → x.wait = .fetch → s.fillWord t.req x.pc.toNat = (s1, none) →
      s1.fetchWord t.req x.pc.toNat = (s2, .word w) → w.extractLsb' 54 10 ≠ 0x064#10 → s2.hole = none →
      exec (.ifetchFill (.vec uid j age)) s = .next (s2.putRank uid (r.putSplit { x with wait := .none }))) ∧
    (∀ pair rod a f g, (s.rod pair rod).cur = some a → focus { s with cur := a } = some f → s.grid f.t.grid = some g → g.wdlim ≤ (s.rod pair rod).watch →
      exec (.watchdogExpire pair rod) s = .next (f.deliver { code := .watchdog, detail := BitVec.ofNat 64 (g.wdlim % 2 ^ 32) }
        ⟨f.x.resume, f.issueSet (f.members 0 false), f.members 0 false⟩)))

/-- Fills and write-backs of mapped sectors (R71 to R73, R105); that they translate as no team is the model's choice (log 66). -/
def Obligations.SectorsFillAndGoHome : Prop :=
  (∀ (s : State) (pair sec : Nat) (idx : Nat) (m : MapEntry) (g : Grid), s.hole = none → (s.pair pair).mapAt (sec * 256) = some (idx, m) →
    s.gridOn pair = some g → s.sectorAsked pair sec = false →
    (((s.pair pair).sector sec).st = .f →
      (∀ s1 s2 pg b, s.translate ⟨pair, g.ctx, 0⟩ (m.sectorVa sec) needR = (s1, .page pg) → pg.fmt = m.fmt → pg.blk = m.blk →
        s1.readDev (pg.base + pg.off) 256 m.part = (s2, .ok b) → s2.hole = none →
        exec (.sectorFillComplete pair sec) s = .next (s2.fillDone pair sec b)) ∧
      (∀ s1, s.translate ⟨pair, g.ctx, 0⟩ (m.sectorVa sec) needR = (s1, .sparse) → s1.hole = none →
        exec (.sectorFillComplete pair sec) s = .next (s1.fillDone pair sec (List.replicate 256 0)))) ∧
    ((((s.pair pair).sector sec).st = .w ∨ ((s.pair pair).sector sec).st = .wd) → s.migWaiting (.sector pair sec) = false →
      (∀ s1 pg, ((s.pair pair).sector sec).applied = none → s.translate ⟨pair, g.ctx, 0⟩ (m.sectorVa sec) needW = (s1, .page pg) → s1.hole = none →
        pg.base + pg.off + 256 ≤ s1.installed → ((s.pair pair).sector sec).bytes.length = 256 →
        ∃ t w, exec (.writebackComplete pair sec) s = .next t ∧ ((t.pair pair).sector sec).applied = some (t.gt, w) ∧
          ∀ x, t.byteAt x = if pg.base + pg.off ≤ x ∧ x < pg.base + pg.off + 256 ∧
              ((s.pair pair).sector sec).flight.getLsbD ((x - (pg.base + pg.off)) / 16) = true
            then ((s.pair pair).sector sec).bytes.getD (x - (pg.base + pg.off)) 0 else s1.byteAt x) ∧
      (∀ a w, ((s.pair pair).sector sec).applied = some (a, w) →
        (s.gt ≤ a → exec (.writebackComplete pair sec) s = .next s) ∧
        (a < s.gt → exec (.writebackComplete pair sec) s = .next ((s.writebackDone pair sec w).clearFlt pair idx m))))) ∧
  (∀ (s : State) (pair sec : Nat) (b : List Byte), b.length = 256 →
    (∀ k, k < 256 → (s.fillDone pair sec b).padByte pair (sec * 256 + k) = b.getD k 0) ∧
    (((s.fillDone pair sec b).pair pair).sector sec).st = .c ∧ (s.fillDone pair sec b).mem = s.mem) ∧
  (∀ (s : State) (pair sec w : Nat), ((s.pair pair).sector sec).anew = [] →
    (((s.writebackDone pair sec w).pair pair).sector sec).st = (if ((s.pair pair).sector sec).st = .wd then .d else .c) ∧
    (((s.writebackDone pair sec w).pair pair).sector sec).dirty = ((s.pair pair).sector sec).dirty ∧
    (((s.writebackDone pair sec w).pair pair).sector sec).covers = [] ∧ (s.writebackDone pair sec w).mem = s.mem)

/-- DEPOSIT_ARRIVE and REMAINDER_APPEND (R164, R186, R327). -/
def Obligations.DepositsAndAppendsArrive : Prop :=
  (∀ (s : State) (d : Deposit), s.hole = none → s.deposits.find? (fun e => e.id == d.id) = some d →
    (s.deposits.takeWhile (fun e => e.id != d.id)).any
      (fun e => decide (e.who = d.who) && e.pair == d.pair && e.rod == d.rod && e.slot == d.slot && e.reg == d.reg) = false →
    (∀ t r, ({ s with deposits := s.deposits.filter (fun e => e.id != d.id) } : State).rankAt d.pair d.rod d.slot = some (t, r) →
      t.grid = d.grid → d.who.pos < r.width → d.reg < r.top →
      exec (.depositArrive d.id) s = .next ((({ s with deposits := s.deposits.filter (fun e => e.id != d.id) } : State).arrived d.pair r [d.reg]).putRank
        t.uid { r.writeV d.who.pos d.reg d.val with arrival := r.arrival + 1 })) ∧
    (({ s with deposits := s.deposits.filter (fun e => e.id != d.id) } : State).rankAt d.pair d.rod d.slot = none →
      exec (.depositArrive d.id) s = .next { s with deposits := s.deposits.filter (fun e => e.id != d.id) })) ∧
  (∀ (s s1 s2 : State) (a : Append) (p : Page) (b : List Byte) (q : Req) (v n slot : Nat), s.appends.find? (fun c => c.id == a.id) = some a →
    s.migWaiting (.append a.id) = false → q = ⟨a.core / 2, a.ctx, 0⟩ → s.unitPage q a.header (needR + needW) = (s1, .page p) →
    s1.readDev (p.base + p.off) 32 p.part = (s2, .ok b) → v = leNat b → n = bitsAt v 193 5 → 4 ≤ n → n ≤ 20 → slot = a.header + 64 + 16 * (bitsAt v 0 64 % 2 ^ n) →
    (∀ s3 t, (bitsAt v 0 64 + 2 ^ 64 - bitsAt v 64 64) % 2 ^ 64 < 2 ^ n → s2.unitMig q needW slot 16 3 = (s3, none) →
      t = (((((({ s3 with appends := s3.appends.filter (fun c => c.id != a.id) } : State).tearDev (p.base + p.off) 8).writeDev (p.base + p.off) p.part
        (natLe 8 ((bitsAt v 0 64 + 1) % 2 ^ 64))).2).clearWords (p.base + p.off) 8).unitWrite q slot
        (natLe 16 (a.record + (bitsAt v 0 64 / 2 ^ n + 1) % 2)) 32).2 → t.hole = none →
      exec (.remainderAppend a.id) s = .next t) ∧
    (∀ t, 2 ^ n ≤ (bitsAt v 0 64 + 2 ^ 64 - bitsAt v 64 64) % 2 ^ 64 →
      t = ((({ s2 with appends := s2.appends.filter (fun c => c.id != a.id) } : State).tearDev (p.base + p.off + 16) 16).writeDev (p.base + p.off + 16) p.part
        (natLe 8 ((bitsAt v 128 64 + 1) % 2 ^ 64) ++ natLe 8 (bitsAt v 192 64 ||| 1))).2.clearWords (p.base + p.off + 16) 16 → t.hole = none →
      exec (.remainderAppend a.id) s = .next t))

/-- CPY, CPYG and CPYS (R330 to R336). -/
def Obligations.CopiesStart : Prop :=
  (∀ (i : Instr) (kind : OpKind) (op : BitVec 8) (s : State) (t : Team) (w : FWord) (o : EngOp), CtlIssues s t → t.guard w.g w.gn →
    ((i = .cpy w ∧ kind = .copy ∧ op = 0xB8) ∨ (i = .cpyg w ∧ kind = .gather ∧ op = 0xB9) ∨ (i = .cpys w ∧ kind = .scatter ∧ op = 0xBA)) →
    copyFields kind w = true →
    o = copyOp kind w t →
    (copyDescOk o = false → CtlRuns i s t (fun s u => s.deliverCtl u { code := .illegalOperand, detail := hiOf (fToWord op w) })) ∧
    (copyDescOk o = true → o.nx = 0 →
      (t.handle o.hnd = .idle → CtlRuns i s t (fun s u => s.ctlDone (u.holding o.hnd (.resolved ⟨false, false, 0, 0, 0⟩)))) ∧
      (t.handle o.hnd ≠ .idle → CtlRuns i s t (fun s u => s.deliverCtl u { code := .handleInvalid, detail := BitVec.ofNat 64 o.hnd }))) ∧
    (copyDescOk o = true → o.nx ≠ 0 → o.ring = true → s.ringMine t o.rng = false →
      CtlRuns i s t (fun s u => s.deliverCtl u { code := .illegalOperand, detail := hiOf (fToWord op w) })) ∧
    (copyDescOk o = true → o.nx ≠ 0 → (o.ring = true → s.ringMine t o.rng = true) → t.handle o.hnd ≠ .idle →
      (∀ now last, ∀ x, x = (s.afterCtl t now last).copyFormats o → copyFmtTrap x.2 = none ∧ x.1.copyShapeOk x.2 = true ∧ x.1.hole = none) →
      CtlRuns i s t (fun s u => (s.copyFormats o).1.deliverCtl u { code := .handleInvalid, detail := BitVec.ofNat 64 o.hnd })) ∧
    (copyDescOk o = true → (o.ring = true → s.ringMine t o.rng = true) → t.handle o.hnd = .idle → o.nx ≠ 0 → o.blocks = false → CopyGoes s t o →
      CtlRuns i s t (fun s u => ((s.copyFormats o).1.launchOp (s.copyFormats o).2 t.slot).ctlDone (u.holding o.hnd (.pending s.nextId))))) ∧
  (∀ (s : State) (f : Foc) (w : FWord), VecIssues s f →
    NotInVector (.cpy w) 0xB8 w s f ∧ NotInVector (.cpyg w) 0xB9 w s f ∧ NotInVector (.cpys w) 0xBA w s f ∧ NotInVector (.hwait w) 0xBB w s f ∧
      NotInVector (.htest w) 0xBC w s f ∧ NotInVector (.hcancel w) 0xBD w s f ∧ NotInVector (.ringinit w) 0xBE w s f ∧
      NotInVector (.tlblock w) 0xCD w s f ∧ NotInVector (.tlbunlock w) 0xCE w s f ∧ NotInVector (.cpin w) 0xCF w s f)

/-- HWAIT, HTEST, HCANCEL, TLBLOCK, TLBUNLOCK and CPIN (R135 to R138, R337, R354). -/
def Obligations.HandlesAndRanges : Prop :=
  ∀ (s : State) (t : Team) (w : FWord), CtlIssues s t → t.guard w.g w.gn →
    (w.md = 0 → fldOk .ctl .spair (fldD w) = true → fldOk .ctl .handle (fldA w) = true → fldOk .ctl .none (fldB w) = true →
      (∀ r, t.handle (handleOf (fldA w)) = .resolved r →
        CtlRuns (.hwait w) s t (fun s u => s.ctlDone (((u.withCtl ((u.ctl.putS w.d.toNat (BitVec.ofNat 64 r.wmax)).putS (w.d.toNat + 1)
          (BitVec.ofNat 64 (r.rtry.toNat * 2 ^ 49 + r.sparse.toNat * 2 ^ 48 + r.status.toNat * 2 ^ 40 + r.done.toNat)))).reach r.wmax).holding
          (handleOf (fldA w)) .idle))) ∧
      (∀ id, t.handle (handleOf (fldA w)) = .pending id → CtlRuns (.hwait w) s t (fun s u => s.ctlBlock u (.handle (handleOf (fldA w))))) ∧
      (t.handle (handleOf (fldA w)) = .idle →
        CtlRuns (.hwait w) s t (fun s u => s.deliverCtl u { code := .handleInvalid, detail := BitVec.ofNat 64 (handleOf (fldA w)) }))) ∧
    (w.md = 0 → fldOk .ctl .pred (fldD w) = true → fldOk .ctl .handle (fldA w) = true → fldOk .ctl .none (fldB w) = true →
      (∀ r, t.handle (handleOf (fldA w)) = .resolved r →
        CtlRuns (.htest w) s t (fun s u => s.ctlDone ((u.withCtl (u.ctl.putPred w.d.toNat true)).reach r.wmax))) ∧
      ((∀ r, t.handle (handleOf (fldA w)) ≠ .resolved r) → CtlRuns (.htest w) s t (fun s u => s.ctlDone (u.withCtl (u.ctl.putPred w.d.toNat false))))) ∧
    (w.md = 0 → fldOk .ctl .none (fldD w) = true → fldOk .ctl .handle (fldA w) = true → fldOk .ctl .none (fldB w) = true →
      (∀ id, t.handle (handleOf (fldA w)) = .pending id → CtlRuns (.hcancel w) s t (fun s u =>
        ({ s with ops := s.ops.map (fun o => if o.id = id then { o with cancel := true } else o) } : State).ctlDone u)) ∧
      (∀ r, t.handle (handleOf (fldA w)) = .resolved r → CtlRuns (.hcancel w) s t State.ctlDone)) ∧
    (∀ (i : Instr) (kind : OpKind) (o : EngOp),
      ((i = .tlblock w ∧ kind = .tlblock ∧ plainMod w 1 = true) ∨ (i = .tlbunlock w ∧ kind = .tlbunlock ∧ plainMod w 1 = true) ∨
        (i = .cpin w ∧ kind = (if w.md.getLsbD 4 then .unpin else .pin) ∧ plainMod w 32 = true)) →
      fldOk .ctl .handle (fldD w) = true → fldOk .ctl .quad (fldA w) = true → fldOk .ctl .wide (fldB w) = true → o = rangeOp kind w t →
      (t.handle o.hnd = .idle → o.total = 0 → CtlRuns i s t (fun s u => s.ctlDone (u.holding o.hnd (.resolved ⟨false, false, 0, 0, 0⟩)))) ∧
      (t.handle o.hnd = .idle → o.total ≠ 0 →
        (∀ now last, (s.afterCtl t now last).checkSpan o.pair ⟨false, o.src, capCursor o.src, capCursor o.src + o.total - 1, permLD⟩ = none) →
        CtlRuns i s t (fun s u => ({ s with nextId := s.nextId + 1, ops := s.ops ++ [{ o with id := s.nextId, started := true }] } : State).ctlDone
          (u.holding o.hnd (.pending s.nextId)))))

/-- RINGINIT, RWAIT and RFREE (R148 to R150, R338, R339). -/
def Obligations.RingsHandOutSlots : Prop :=
  (∀ (s : State) (t : Team) (w : FWord), CtlIssues s t → t.guard w.g w.gn → plainMod w 32 = true →
    (fldOk .ctl .none (fldD w) = true → fldOk .ctl .wide (fldA w) = true → fldOk .ctl .none (fldB w) = true →
      s.ringBad t w.md.toNat (t.ctl.getS w.a.toNat).toNat = false →
      CtlRuns (.ringinit w) s t (fun s u => (s.putRing t.pair w.md.toNat { Ring.zero with
        nm1 := (t.ctl.getS w.a.toNat).toNat % 2 ^ 6, slot := (t.ctl.getS w.a.toNat).toNat / 2 ^ 6 % 2 ^ 11,
        base := (t.ctl.getS w.a.toNat).toNat / 2 ^ 17 % 2 ^ 11, team := t.slot, v := true }).ctlDone u)) ∧
    (fldOk .ctl .wide (fldD w) = true → fldOk .ctl .none (fldA w) = true → fldOk .ctl .none (fldB w) = true →
      (s.ringMine t w.md.toNat = false → CtlRuns (.rwait w) s t (fun s u => s.deliverCtl u { code := .illegalOperand, detail := hiOf (fToWord 0xBF w) })) ∧
      (∀ r k, r = s.ring t.pair w.md.toNat → s.ringMine t w.md.toNat = true → k = r.tak.toNat % (r.nm1 + 1) →
        (r.fil = r.tak → CtlRuns (.rwait w) s t (fun s u => s.ctlBlock u (.ring w.md.toNat))) ∧
        (r.fil ≠ r.tak → CtlRuns (.rwait w) s t (fun s u => (s.putRing t.pair w.md.toNat { r with tak := r.tak + 1 }).ctlDone
          (u.withCtl (u.ctl.putS w.d.toNat (BitVec.ofNat 64 (k + 2 ^ 32 * ((r.at k).amt - (r.at k).left))))))))) ∧
    (fldOk .ctl .none (fldD w) = true → fldOk .ctl .reg (fldA w) = true → fldOk .ctl .none (fldB w) = true →
      ∀ r k, r = s.ring t.pair w.md.toNat → k = (t.ctl.getS w.a.toNat).toNat % 2 ^ 32 → s.ringMine t w.md.toNat = true →
        (r.held k = true → (r.at k).rls = false →
          CtlRuns (.rfree w) s t (fun s u => (s.putRing t.pair w.md.toNat ((r.put k { r.at k with rls := true }).release 128)).ctlDone u)) ∧
        (r.held k = false → CtlRuns (.rfree w) s t (fun s u => s.deliverCtl u { code := .illegalOperand, detail := hiOf (fToWord 0xC0 w) })))) ∧
  (∀ (s : State) (f : Foc) (w : FWord) (r : Ring) (k : Nat), VecIssues s f → plainMod w 32 = true → f.actives (f.pass w) ≠ [] →
    s.ringMine f.t w.md.toNat = true → r = s.ring f.t.pair w.md.toNat →
    (fldOk .vec .pair (fldD w) = true → fldOk .vec .none (fldA w) = true → fldOk .vec .none (fldB w) = true →
      Clear f (f.pass w) (vregsOf .pair (fldD w)) (vregsOf .pair (fldD w)) → r.fil ≠ r.tak → k = r.tak.toNat % (r.nm1 + 1) →
      VecRuns (.rwait w) s f (fun g => ((g.withState (g.s.putRing f.t.pair w.md.toNat { r with tak := r.tak + 1 })).withRank
        (g.r.writeAll f.x.age (f.pass w) .pair (fldD w) (fun _ => ⟨BitVec.ofNat 128 (k + 2 ^ 32 * ((r.at k).amt - (r.at k).left)), false⟩))).done)) ∧
    (∀ p l v, fldOk .vec .none (fldD w) = true → fldOk .vec .reg (fldA w) = true → fldOk .vec .none (fldB w) = true →
      Clear f [p] (vregsOf .reg (fldA w)) (fullNeeds .reg (fldA w)) → f.actives (f.pass w) = p :: l → readOpd f.r p .reg (fldA w) = .ok v →
      k = (lo32 v).toNat → r.held k = true → (r.at k).rls = false →
      VecRuns (.rfree w) s f (fun g => (g.withState (g.s.putRing f.t.pair w.md.toNat ((r.put k { r.at k with rls := true }).release 128))).done)))

/-- The events of an engine operation (R118, R128, R135, R149). -/
def Obligations.EngineOperationsProceed : Prop :=
  (∀ (s : State) (id : Nat), s.hole = none →
    (s.op id = none → exec (.engineOpStart id) s = .next s ∧ (∀ n, exec (.engineWriteAck id n) s = .next s) ∧
      exec (.ringSlotClaim id) s = .next s ∧ exec (.handleResolve id) s = .next s) ∧
    (∀ o, s.op id = some o → o.kind.isCopy = true →
      exec (.engineOpStart id) s = .next (s.putOp { o with started := true }) ∧
      (∀ n, (s.engRun id n (n + 1)).hole = none → exec (.engineWriteAck id n) s = .next (s.engRun id n (n + 1))) ∧
      (∀ st, o.window = none → o.status = some st →
        (o.wmax ≠ 0 → s.gt ≤ o.appliedAt → exec (.handleResolve id) s = .next s) ∧
        ((o.wmax = 0 ∨ o.appliedAt < s.gt) → exec (.handleResolve id) s =
          .next (s.resolveHandles id ⟨o.rtry, o.sparse, st, BitVec.ofNat 40 o.doneCount, o.wmax⟩))) ∧
      (∀ r k n, r = s.ring o.pair o.rng → o.ring = true → r.v = true → o.status = none → o.cancel = false →
        o.claimed.length * (256 * r.slot) < o.units * o.dstSize → (r.clm - r.rel).toNat < r.nm1 + 1 →
        (∀ p ∈ s.ops.takeWhile (fun p => p.id != o.id), (p.ring && p.pair == o.pair && p.rng == o.rng) = false) →
        k = r.clm.toNat % (r.nm1 + 1) → n = min (256 * r.slot) (o.units * o.dstSize - o.claimed.length * (256 * r.slot)) →
        exec (.ringSlotClaim id) s = .next ((s.putRing o.pair o.rng { r.put k ⟨n, n, false⟩ with clm := r.clm + 1 }).putOp
          { o with claimed := o.claimed ++ [k] })))) ∧
  (∀ (s s' : State) (o : EngOp) (p : Spot) (limit : Nat) (m : Moved), o.phys = false → o.ring = false → capSpace o.src = 2 → capSpace o.dst = 2 →
    0 < limit → 0 < p.run → s.movePlain o (fun _ => false) p limit = (s', .ok m) →
    0 < m.units ∧ m.units ≤ 256 ∧ m.units ≤ p.run ∧
      (∀ k < m.units, s'.padByte o.pair (p.dst % 2 ^ 19 + k) = s.padByte o.pair (p.src % 2 ^ 19 + k)) ∧
      (∀ a, (a < p.dst % 2 ^ 19 ∨ p.dst % 2 ^ 19 + m.units ≤ a) → s'.padByte o.pair a = s.padByte o.pair a) ∧ s'.mem = s.mem)

/-- MACQ, MREL, MZERO and AMAXSTEP (R340, R341, R346, R349). -/
def Obligations.LeasesAndSimpleMatrixInstructions : Prop :=
  (∀ (s : State) (t : Team) (w : FWord), CtlIssues s t → t.guard w.g w.gn →
    (plainMod w 512 = true → fldOk .ctl .none (fldD w) = true → fldOk .ctl .none (fldA w) = true → fldOk .ctl .none (fldB w) = true →
      (w.md.getLsbD 8 = t.leaseP → CtlRuns (.macq w) s t (fun s u => s.ctlDone { u with quantum := w.md.toNat % 256 + 1 })) ∧
      (w.md.getLsbD 8 ≠ t.leaseP → CtlRuns (.macq w) s t (fun s u => (s.endLease t).ctlDone
        { u with quantum := w.md.toNat % 256 + 1, leaseP := w.md.getLsbD 8, lc := 0 }))) ∧
    (w.md = 0 → fldOk .ctl .none (fldD w) = true → fldOk .ctl .none (fldA w) = true → fldOk .ctl .none (fldB w) = true →
      CtlRuns (.mrel w) s t (fun s u => (s.endLease t).ctlDone { u with lc := 0 })) ∧
    (plainMod w 2 = true → fldOk .ctl .tile (fldD w) = true → s.hasTile t (tileOf (fldD w)) = true → fldOk .ctl .none (fldA w) = true →
      fldOk .ctl .none (fldB w) = true → CtlRuns (.mzero w) s t (fun s u => (s.accept t (MatOp.of t .mzero (fToWord 0xC3 w) (w.md.getLsbD 0) (tileOf (fldD w)))).ctlDone
        (u.putTile (tileOf (fldD w)) ((u.tile (tileOf (fldD w))).mark (w.md.getLsbD 0) .none)))) ∧
    (w.md = 0 → fldOk .ctl .none (fldD w) = true → fldOk .ctl .wide (fldA w) = true → fldOk .ctl .none (fldB w) = true →
      CtlRuns (.amaxstep w) s t (fun s u => (s.accept t { MatOp.of t .amaxstep (fToWord 0xC9 w) false 0 with slot := some ((t.ctl.getS w.a.toNat).toNat % 256) }).ctlDone u)) ∧
    (∀ l, l ∈ [0, 1] → ((s.endLease t).abacus t.pair l).holder ≠ some t.uid)) ∧
  (∀ (s : State) (f : Foc) (w : FWord), VecIssues s f →
    NotInVector (.macq w) 0xC1 w s f ∧ NotInVector (.mrel w) 0xC2 w s f ∧ NotInVector (.mzero w) 0xC3 w s f ∧ NotInVector (.mma w) 0xC4 w s f ∧
      NotInVector (.mmag w) 0xC5 w s f ∧ NotInVector (.mload w) 0xC6 w s f ∧ NotInVector (.mstore w) 0xC7 w s f ∧
      NotInVector (.mstoreg w) 0xC8 w s f ∧ NotInVector (.amaxstep w) 0xC9 w s f)

/-- MMA, MMAG, MLOAD, MSTORE and MSTOREG at issue (R345 to R348). -/
def Obligations.MatrixOperationsAreAccepted : Prop :=
  ∀ (s : State) (t : Team) (w : FWord), CtlIssues s t → t.guard w.g w.gn →
    (plainMod w 512 = true → fldOk .ctl .tile (fldD w) = true → s.hasTile t (tileOf (fldD w)) = true → fldOk .ctl .spair (fldA w) = true →
      fldOk .ctl .spair (fldB w) = true → mapOk (mapAt t.ctl w.b.toNat) false = true →
      (∀ o, o = mmaOp 0xC4 w t (List.range (rowsOf (w.md.getLsbD 0))) → mapOk (mapAt t.ctl w.a.toNat) false = true →
        (∀ now last e ra, MmaFree o none (hiOf (fToWord 0xC4 w)) ((s.afterCtl t now last).landCtl t.uid) (t.retimed e ra) ∧
          ((s.afterCtl t now last).landCtl t.uid).hole = none) →
        CtlRuns (.mma w) s t (fun s u => (s.landCtl t.uid).accepted u o)) ∧
      (∀ rows o, o = mmaOp 0xC5 w t rows → mapOk (mapAt t.ctl w.a.toNat) true = true →
        (∀ now last e ra, MmaFree o (some (mmaList w t)) (hiOf (fToWord 0xC5 w)) ((s.afterCtl t now last).landCtl t.uid) (t.retimed e ra) ∧
          ((s.afterCtl t now last).landCtl t.uid).hole = none) →
        CtlRuns (.mmag w) s t (fun s u => (s.landCtl t.uid).accepted u o))) ∧
    (∀ c ty p len addrs, c = t.ctl.getC (w.a.toNat - 64) → ty = w.md.toNat / 2 % 4 → p = w.md.getLsbD 0 → len = 16 * tileBytes ty →
      addrs = rowAddrs c ((t.ctl.getS w.b.toNat).toNat % 2 ^ 32) (List.range (rowsOf p)) →
      plainMod w 8 = true → ty ≠ 3 → fldOk .ctl .tile (fldD w) = true → s.hasTile t (tileOf (fldD w)) = true → fldOk .ctl .quad (fldA w) = true →
      fldOk .ctl .wide (fldB w) = true →
      (∀ now last e ra, ∃ x rows, ((s.afterCtl t now last).landCtl t.uid).rowCaps (t.retimed e ra) c permLD 1 len addrs = none ∧
        ((s.afterCtl t now last).landCtl t.uid).rowLocks (t.retimed e ra) c len false addrs = none ∧
        ((s.afterCtl t now last).landCtl t.uid).tileRows (t.retimed e ra) c needR len addrs = (x, .ok rows) ∧ x.hole = none) →
      CtlRuns (.mload w) s t (fun s u =>
        (((s.landCtl t.uid).tileRows u c needR len addrs).1.accept u
          { MatOp.of t .mload (fToWord 0xC6 w) p (tileOf (fldD w)) with
            ty := ty
            rows := okOr [] ((s.landCtl t.uid).tileRows u c needR len addrs).2
            rowsA := addrs }).ctlDone (u.putTile (tileOf (fldD w)) ((t.tile (tileOf (fldD w))).mark p .none)))) ∧
    (∀ (i : Instr) op c x acc rows addrs o, ((i = .mstore w ∧ op = 0xC7 ∧ plainMod w 64 = true ∧ x = none ∧ acc = false ∧ sRun (fldB w) 1 = true) ∨
        (i = .mstoreg w ∧ op = 0xC8 ∧ plainMod w 128 = true ∧ x = some (storeList w t) ∧ acc = w.md.getLsbD 6 ∧ sRun (fldB w) 2 = true ∧
          (t.ctl.getS (w.b.toNat + 1)).toNat / 2 ^ 24 % 4 < 2)) →
      c = t.ctl.getC (w.d.toNat - 64) → addrs = storeRows w t rows → o = storeOp op w t acc →
      w.md.getLsbD 3 = false → w.md.toNat / 16 % 4 ≠ 3 → (acc = true → w.md.toNat / 16 % 4 = 0) → fldOk .ctl .quad (fldD w) = true →
      fldOk .ctl .tile (fldA w) = true → s.hasTile t (tileOf (fldA w)) = true → (t.ctl.getS w.b.toNat).toNat / 2 ^ 40 = 0 →
      (∀ now last e ra, StoreFree o c x rows addrs (s.afterCtl t now last) (t.retimed e ra)) →
      CtlRuns i s t (fun s u => ((s.storePlan u o c addrs).1.accept u { o with rows := okOr [] (s.storePlan u o c addrs).2 }).ctlDone u))

/-- ABACUS_CHUNK, ABACUS_LEASE_GRANT, ABACUS_HANG_RESET and MATRIX_RESET_DELIVER (R341, R344, R373, R386, R388). -/
def Obligations.AbacusRuns : Prop :=
  (∀ (s : State) (pair layer : Nat), s.hole = none → layer < 2 →
    (s.nextOp pair layer = none → exec (.abacusChunk pair layer) s = .next (s.drawHeads pair layer)) ∧
    (∀ o i t, s.nextOp pair layer = some (o, i) → s.team o.team = some t →
      (o.kind = .mzero → exec (.abacusChunk pair layer) s = .next ((s.putTeam (t.putTile o.tile
        { upper := { (t.tile o.tile).upper with elems := [] }, lower := if o.p then { (t.tile o.tile).lower with elems := [] } else (t.tile o.tile).lower })).retire
          pair layer i none)) ∧
      (o.kind = .mma → s.gt < (s.abacus pair layer).last + 4 → exec (.abacusChunk pair layer) s = .next s) ∧
      (∀ a b, o.kind = .mma → mapKind o.mapA ≠ 3 → mapKind o.mapB ≠ 3 → s.operand t o.mapA o.rowsA o.next o.bufA = .rows a →
        s.operand t o.mapB (List.range 16) o.next o.bufB = .rows b → t.pair = pair → (s.abacus pair layer).last + 4 ≤ s.gt →
        exec (.abacusChunk pair layer) s = .next ((s.putTeam (t.putTile o.tile (addChunk (t.tile o.tile) a b))).retire pair layer i
          (if o.next + 1 < o.nk then some { o with next := o.next + 1, bufA := [], bufB := [] } else none)))) ∧
    (s.hungOp pair layer = none → exec (.abacusHangReset pair layer) s = .next s) ∧
    (∀ o, s.hungOp pair layer = some o → ∃ s', exec (.abacusHangReset pair layer) s = .next s' ∧
      (s'.abacus pair layer).ops = [] ∧ (s'.abacus pair layer).holder = none ∧ s'.mem = s.mem) ∧
    (∀ r, (s.abacus pair layer).ready = some r → s.gt < r + 65536 → s.hungOp pair layer = none)) ∧
  (∀ (v : Tile) (a b : List (List Fv)) (i j : Nat), a.length ≤ 32 → b.length ≤ 16 → i < 32 → j < 16 →
    (addChunk v a b).get i j = if i < a.length ∧ j < b.length
      then BitVec.ofNat 32 (fpSum fp32 .rne [f32 (v.get i j), fvSum .rne (List.zipWith Fv.mul (a.getD i []) (b.getD j []))]) else v.get i j) ∧
  (∀ (s : State) (pair : Nat), s.hole = none →
    (s.leaseNext pair = none → exec (.abacusLeaseGrant pair) s = .next s) ∧
    (∀ t p x y, s.leaseNext pair = some (t, p, x, y) → s.team t.uid = some t → ∃ s', exec (.abacusLeaseGrant pair) s = .next s' ∧
      s'.team t.uid = some { t with lc := t.quantum, ctl := { t.ctl with wait := .none } } ∧ (∀ l ∈ leaseLayers t p, (s'.abacus pair l).holder = some t.uid) ∧
      s'.mem = s.mem)) ∧
  (∀ (s : State) (uid : Nat) (t : Team), s.hole = none → s.team uid = some t →
    (t.hung = none → exec (.matrixResetDeliver uid) s = .next s) ∧
    (∀ pc, t.hung = some pc → s.teamRuns t = true → t.ctl.ended = false →
      exec (.matrixResetDeliver uid) s = .next (s.deliverCtl { t with hung := none, ctl := { t.ctl with wait := .none } }
        { code := .matrixReset, detail := pc.setWidth 64 })))

/-- IREQ, BEAM and LAUNCH (R350 to R352). -/
def Obligations.RequestsBeamsAndLaunches : Prop :=
  (∀ (s : State) (t : Team) (w : FWord), CtlIssues s t → t.guard w.g w.gn →
    (∀ q kind v e space off n cols, ireqOk w .wide = true → q = w.d.toNat - 112 → kind = w.md.toNat % 4 → v = (t.ctl.getS w.a.toNat).toNat → e = t.endAt q →
      space = (if v.testBit 24 then 3 else 2) → off = v % 2 ^ 24 → n = v / 2 ^ 32 % 2 ^ 16 → cols = colPieces off (n * (4 * islandWords kind)) 8 →
      batchOk v = true → e.cut = false → (e.kind = none ∨ e.kind = some kind) →
      (∀ now last e ra x, x = (s.afterCtl t now last).landCtl t.uid → x.matCaps (t.retimed e ra) space [(off, n * (4 * islandWords kind))] = none ∧
        x.matLocks t.pair space false cols = none ∧ cols.any (fun r => (x.pair (homePair t.pair space r.1)).onFormat (r.1 % 2 ^ 19) r.2) = false ∧
        x.matFills t.pair ⟨t.uid, none, 0⟩ (cols.map (fun r => (space, r.1, r.2))) = (x, none) ∧ x.hole = none) →
      CtlRuns (.ireq w) s t (fun s u => (s.landCtl t.uid).ctlDone
        (u.putEnd q { e with kind := some kind, batches := e.batches ++ [⟨v.testBit 24, off, n, none⟩] }))) ∧
    (∀ q e, ireqOk w .none = true → q = w.d.toNat - 112 → e = t.endAt q →
      (e.kind = none → CtlRuns (.ireqUnb w) s t State.ctlDone) ∧
      (∀ k, e.kind = some k → e.words = [] → e.inside = 0 → e.batches = [] → CtlRuns (.ireqUnb w) s t (fun s u => s.ctlDone (u.putEnd q Endpoint.unbound))) ∧
      (∀ k, e.kind = some k → (e.words ≠ [] ∨ e.inside ≠ 0 ∨ e.batches ≠ []) →
        CtlRuns (.ireqUnb w) s t (fun s u => s.deliverCtl u { code := .illegalOperand, detail := hiOf (fToWord 0xCA w) }))) ∧
    (∀ c root v depth, w.md = 0 → fldOk .ctl .wide (fldD w) = true → cRun (fldA w) 2 = true → fldOk .ctl .none (fldB w) = true →
      c = t.ctl.getC (w.a.toNat - 64) → root = t.ctl.getC (w.a.toNat - 63) → root.tag = true → (capSpace root = 1 ∨ capSpace root = 4) → launchField v = none →
      depth = ((s.grid t.grid).map (fun g => g.depth)).getD 1 →
      (∀ now last e ra, ∃ x, ((s.afterCtl t now last).landCtl t.uid).ctlRead (t.retimed e ra) c (capCursor c) 64 192 = (x, .ok v) ∧
        x.hole = none ∧ x.queued < 4096 ∧ x.grid t.grid = s.grid t.grid) →
      (depth < 10 → CtlRuns (.launch w) s t (fun s u =>
        let n := ((s.landCtl t.uid).ctlRead u c (capCursor c) 64 192).1.newGrid v t.ctx (some t.grid) (depth + 1) false none root
          (some (capSpace c, t.pair, capCursor c + 184))
        n.2.ctlDone (u.withCtl (u.ctl.putS w.d.toNat (BitVec.ofNat 64 n.1))))) ∧
      (10 ≤ depth → CtlRuns (.launch w) s t (fun s u =>
        (((s.landCtl t.uid).ctlRead u c (capCursor c) 64 192).1.deliverCtl u { code := .nestDepth, detail := 10 })))) ∧
    (∀ root words tile d l, w.md = 0 → fldOk .ctl .none (fldD w) = true → cRun (fldA w) 2 = true → sRun (fldB w) 2 = true →
      root = t.ctl.getC (w.a.toNat - 64) → words = t.ctl.getC (w.a.toNat - 63) → tile = (t.ctl.getS w.b.toNat).toNat →
      (∀ now last e ra, ∃ x y, ((s.afterCtl t now last).landCtl t.uid).checkMem ((t.retimed e ra).memReq (root, (capCursor root : Int)) false) permLD 1 128 false = none ∧
        ((s.afterCtl t now last).landCtl t.uid).ctlRead (t.retimed e ra) root ((t.ctl.getS (w.b.toNat + 1)).toNat % 2 ^ 48) 1 128 = (x, .ok d) ∧
        x.beamPieces (t.retimed e ra) words d (tile % 2 ^ 16) (tile / 2 ^ 16 % 2 ^ 16) (List.range 64) = (y, .ok l) ∧
        (y.beamRun (t.retimed e ra) root words d (tile % 2 ^ 16) (tile / 2 ^ 16 % 2 ^ 16) l).hole = none) →
      CtlRuns (.beam w) s t (fun s u =>
        ((((s.landCtl t.uid).ctlRead u root ((t.ctl.getS (w.b.toNat + 1)).toNat % 2 ^ 48) 1 128).1.beamPieces u words d (tile % 2 ^ 16)
          (tile / 2 ^ 16 % 2 ^ 16) (List.range 64)).1.beamRun u root words d (tile % 2 ^ 16) (tile / 2 ^ 16 % 2 ^ 16) l)))) ∧
  (∀ (s : State) (f : Foc) (w : FWord), VecIssues s f →
    NotInVector (.ireq w) 0xCA w s f ∧ NotInVector (.ireqUnb w) 0xCA w s f ∧ NotInVector (.beam w) 0xCB w s f ∧ NotInVector (.launch w) 0xCC w s f)

/-- ISLAND_REQUEST_ACCEPT, ISLAND_RESPONSE and ISLAND_CONFIG_ERROR (R389, R390, R400, R403, R412); The default images (R423, R427, R434, R438). -/
def Obligations.IslandsAndTheirImages : Prop :=
  (∀ (s : State) (kind unit stream : Nat) (i : Island), s.hole = none → kind < 3 → i = s.island (islandKey kind unit) →
    (i.stopped = true → exec (.islandRequestAccept kind unit stream) s = .next s) ∧
    (∀ t e b l, i.stopped = false → i.frozen = false → i.nextAt ≤ s.gt → nextStream i.lastStream (s.readyStreams kind unit) = some stream →
      s.team (stream / 16) = some t → e = t.endAt (stream % 16) → e.batches = b :: l →
      (s.batchBad t kind b = true → exec (.islandRequestAccept kind unit stream) s =
        .next (s.putTeam (t.putEnd (stream % 16) { e with cut := true, batches := [], inside := 0 }))) ∧
      (s.batchBad t kind b = false → ∃ s', exec (.islandRequestAccept kind unit stream) s = .next s' ∧ s'.mem = s.mem ∧
        (s'.island (islandKey kind unit)).reqs = i.reqs ++ [⟨stream, s.batchWords t kind b, s.gt⟩] ∧
        (s'.island (islandKey kind unit)).lastStream = stream ∧ s'.gt = s.gt ∧
        (s'.island (islandKey kind unit)).nextAt = s.gt + (match i.image with | some m => m.ii | none => defaultII kind) ∧
        ∃ t', s'.team (stream / 16) = some t' ∧ (t'.endAt (stream % 16)).inside = e.inside + 1 ∧
          (t'.endAt (stream % 16)).batches = if b.left ≤ 1 then l else { b with off := b.off + 4 * islandWords kind, left := b.left - 1 } :: l)) ∧
    (i.reqs = [] → exec (.islandResponse kind unit) s = .next s) ∧
    (∀ r l, i.reqs = r :: l →
      (s.gt < r.accepted + 4 * islandCols kind + (match i.image with | some m => m.ii | none => defaultII kind) + 7 → exec (.islandResponse kind unit) s = .next s) ∧
      (r.accepted + 4 * islandCols kind + (match i.image with | some m => m.ii | none => defaultII kind) + 7 ≤ s.gt → exec (.islandResponse kind unit) s =
        .next ((s.putIsland (islandKey kind unit) { i with reqs := l }).respond r.stream (islandAnswer i.image kind r.words) 0))) ∧
    (∃ s', exec (.islandConfigError kind unit) s = .next s' ∧ (s'.island (islandKey kind unit)).stopped = true ∧
      (s'.island (islandKey kind unit)).reqs = [] ∧ s'.mem = s.mem)) ∧
  ((∀ (x : List Word) (c : Nat), c < 4 →
    (bitsAt (x.getD 9 0).toNat 24 4 = 0 → (blendImage x).getD c 0 = x.getD c 0) ∧
    (bitsAt (x.getD 9 0).toNat 24 4 = 1 → (blendImage x).getD c 0 = ffma (x.getD (4 + c) 0) (fsub 0x3F800000 (x.getD 3 0)) (x.getD c 0)) ∧
    (bitsAt (x.getD 9 0).toNat 24 4 = 2 → (blendImage x).getD c 0 = fadd (x.getD c 0) (x.getD (4 + c) 0)) ∧
    (bitsAt (x.getD 9 0).toNat 24 4 = 3 → (blendImage x).getD c 0 = fmul (x.getD c 0) (x.getD (4 + c) 0)) ∧
    ((textureImage x).getD c 0 = fmul (ffma (x.getD 1 0) (fsub (ffma (x.getD 0 0) (fsub (x.getD (16 + c) 0) (x.getD (12 + c) 0)) (x.getD (12 + c) 0))
      (ffma (x.getD 0 0) (fsub (x.getD (8 + c) 0) (x.getD (4 + c) 0)) (x.getD (4 + c) 0)))
      (ffma (x.getD 0 0) (fsub (x.getD (8 + c) 0) (x.getD (4 + c) 0)) (x.getD (4 + c) 0))) (x.getD 2 0))) ∧
  (∀ (x : List Word) (area : Fv), area = f32 (edgeValue (x.getD 0 0) (x.getD 1 0) (x.getD 3 0) (x.getD 4 0) (x.getD 6 0) (x.getD 7 0)) →
    (area = .nan ∨ (∃ n e, area = .fin n 0 e) → (coverageImage x).getD 0 0 = 0 ∧ (coverageImage x).getD 1 0 = 0) ∧
    (∀ i, i < 64 → (8 >>> ((x.getD 11 0).toNat % 4) ≤ i % 8 ∨ 8 >>> ((x.getD 11 0).toNat % 4) ≤ i / 8) →
      ((coverageImage x).getD 1 0 ++ (coverageImage x).getD 0 0 : BitVec 64).getLsbD i = false)) ∧
  (∀ (x : List Word), bitsAt (x.getD 22 0).toNat 4 4 ≠ 0 → (intersectImage x).getD 3 0 = 0))

/-- BLEND_COMMIT, BLOCK_MODE_WRITE and SPLAT_SORT_RELEASE (R438 to R441). -/
def Obligations.BlendingCommits : Prop :=
  ∀ (s : State) (cluster : Nat), s.hole = none →
    (∀ id, (s.blendUnit cluster).held.find? (fun r => r.id == id && decide (r.reply = none)) = none → exec (.blendCommit cluster id) s = .next s) ∧
    (∀ id r, (s.blendUnit cluster).held.find? (fun r => r.id == id && decide (r.reply = none)) = some r →
      ((s.island (islandKey 3 cluster)).stopped = true → exec (.blendCommit cluster id) s = .next s) ∧
      ((s.island (islandKey 3 cluster)).stopped = false → ∀ x, x.hole = none →
        (s.blendFate cluster r = (x, .waits) → exec (.blendCommit cluster id) s = .next x) ∧
        (s.blendFate cluster r = (x, .stale) → exec (.blendCommit cluster id) s = .next ((x.countBlend cluster).blendReply cluster r fourNans)) ∧
        (s.blendFate cluster r = (x, .refused) → exec (.blendCommit cluster id) s = .next ((x.countBlend cluster).blendReply cluster r fourNans)) ∧
        (s.blendFate cluster r = (x, .unowned) → exec (.blendCommit cluster id) s = .next (x.blendReply cluster r fourNans)) ∧
        (s.blendFate cluster r = (x, .cut) → exec (.blendCommit cluster id) s = .next (x.cutStream cluster r.stream)) ∧
        (∀ d ns, s.blendFate cluster r = (x, .commits d ns) → x.migWaiting (.blend cluster) = true → exec (.blendCommit cluster id) s = .next x) ∧
        (∀ d ns y out, s.blendFate cluster r = (x, .commits d ns) → x.migWaiting (.blend cluster) = false → r.ends = false → r.mode ≠ 15 →
          x.blendPixel cluster d r = (y, .ok out) → y.hole = none →
          exec (.blendCommit cluster id) s = .next ((y.blendStart cluster r).blendReply cluster r out)) ∧
        (∀ d ns x' y out, s.blendFate cluster r = (x, .commits d ns) → x.migWaiting (.blend cluster) = false → r.ends = false → r.mode = 15 →
          x.unitMig (frontReq cluster r.ctx) needW (rtSeqAddr d (r.x / 32) (r.y / 32)) 4 3 = (x', none) →
          x'.blendPixel cluster d r = (y, .ok out) → (y.putNs cluster d ns r).hole = none →
          exec (.blendCommit cluster id) s = .next (((y.putNs cluster d ns r).blendStart cluster r).blendReply cluster r out)))) ∧
    ((s.blendUnit cluster).modes = [] → exec (.blockModeWrite cluster) s = .next s) ∧
    (∀ m l x y, (s.blendUnit cluster).modes = m :: l → s.migWaiting (.blend cluster) = false →
      s.unitMig (frontReq cluster m.ctx) needW m.addr 1 3 = (x, none) →
      y = ((x.putBlend cluster { x.blendUnit cluster with modes := l }).frontWrite (frontHolder 3 cluster) (frontReq cluster m.ctx) m.addr (natLe 1 m.mode)) →
      (y.2.foldEnd m.stream y.1).hole = none → exec (.blockModeWrite cluster) s = .next (y.2.foldEnd m.stream y.1)) ∧
    (∀ slot tile, (s.blendUnit cluster).group slot tile = [] → exec (.splatSortRelease cluster slot tile) s = .next s) ∧
    (∀ slot tile r l e s0 d0 s1 x d, (s.blendUnit cluster).group slot tile = r :: l → (s.island (islandKey 3 cluster)).stopped = false →
      (r :: l).find? (fun o => o.ends) = some e → s.blendDesc cluster r = (s0, .ok d0) →
      s0.frontMig cluster r.ctx (((r :: l).flatMap (fun (o : BlendReq) => [(o.x / 8, o.y / 8)]) ++ (s.blendUnit cluster).dirtyBlocks r).eraseDups.map
        (fun (e : Nat × Nat) => (rtBlockAddr d0 e.1 e.2, 256))) (fun u => u) = s1 → s1.migWaiting (.blend cluster) = false →
      (((r :: l).foldr insertSplat []).foldl (fun s r => s.splatOne cluster r) (s1.putBlend cluster { s1.blendUnit cluster with
        splats := (s1.blendUnit cluster).splats.filter (fun o => !o.sameTile r), held := (s1.blendUnit cluster).held ++ (r :: l) })).blendDesc cluster e = (x, .ok d) →
      (x.flushTile cluster d e).hole = none → exec (.splatSortRelease cluster slot tile) s = .next (x.flushTile cluster d e)) ∧
    (∀ (l : List BlendReq), ((l.foldr insertSplat []).Pairwise (fun a b => splatBefore b a = false)) ∧ (l.foldr insertSplat []).Perm l) ∧
    (∀ stream ready t b r, ready = (s.readyStreams 3 cluster).filter (fun n => match s.blendNext n with | some (_, _, r) => s.blendRoom cluster r | none => false) →
      (s.island (islandKey 3 cluster)).stopped = false → (s.island (islandKey 3 cluster)).frozen = false → (s.island (islandKey 3 cluster)).nextAt ≤ s.gt →
      nextStream (s.island (islandKey 3 cluster)).lastStream ready = some stream → s.blendNext stream = some (t, b, r) → s.batchBad t 3 b = false → r.mode ≠ 6 →
      ∃ s', exec (.islandRequestAccept 3 cluster stream) s = .next s' ∧ (s'.blendUnit cluster).held = (s.blendUnit cluster).held ++ [r] ∧ s'.mem = s.mem)

/-- The commands over grids, contexts and images (R411, R448, R450, R451). -/
def Obligations.HostCommandsAnswer : Prop :=
  ∀ (s : State) (win : Nat), s.hole = none →
    (∀ code, 1 ≤ code → code ≤ 12 →
      (s.cmdReady win code = none → exec (commandEvent code win) s = .next s) ∧
      (∀ c, s.cmdReady win code = some c → c.begun = true → code ≠ 5 → exec (commandEvent code win) s = .next s) ∧
      (∀ c, s.cmdReady win code = some c → c.begun = false → c.wrong code = true → exec (commandEvent code win) s = .next (s.endCmd win c 2))) ∧
    (∀ c, s.takes win 1 c →
      (s.windowCtx win = none → exec (.launchGrid win) s = .next (s.endCmd win c 3)) ∧
      (∀ n x, s.windowCtx win = some (n, x) →
        ((x.mode.waits = true ∨ 4096 ≤ s.queued) → exec (.launchGrid win) s = .next s) ∧
        (∀ s1 l v root, x.mode.waits = false → s.queued < 4096 → s.svcRead (s.window win).core (c.field 8 8) 256 = (s1, l) → s1.hole = none →
          v = leNat l → root = (⟨BitVec.ofNat 128 (bitsAt v 1536 128), true⟩ : TCap) →
          ((recordReserved v = true ∨ (capSpace root ≠ 1 ∧ capSpace root ≠ 4)) → exec (.launchGrid win) s = .next (s1.endCmd win c 2)) ∧
          (recordReserved v = false → (capSpace root = 1 ∨ capSpace root = 4) →
            ∃ (t : State) (g : Grid), exec (.launchGrid win) s = .next t ∧ t.grids = s1.grids ++ [g] ∧ g.id ∉ s1.gridIds ∧ t.gridIds = s1.gridIds ++ [g.id] ∧ t.mem = s1.mem ∧
              t.cmdIs win { c with begun := true, grid := some g.id } ∧ g.ctx = n ∧ g.parent = none ∧ g.depth = 1 ∧
              g.launch = launchValues v ∧ g.root = root ∧ g.priv = ((s.window win).svc && v.testBit 1664) ∧
              g.ended = (launchCode v).map GridEnd.notPlaced)))) ∧
    (∀ c s1 l v, s.takes win 2 c → s.svcRead (s.window win).core (c.field 8 8) 512 = (s1, l) → s1.hole = none → v = leNat l →
      ((descBad v = true ∨ ∃ x, s1.ctx (c.field 16 2) = some x ∧ x.desc ≠ c.field 8 8) → exec (.setContext win) s = .next (s1.endCmd win c 1)) ∧
      (descBad v = false → (∀ x, s1.ctx (c.field 16 2) = some x → x.desc = c.field 8 8) →
        ∀ n x, n = c.field 16 2 → x = ctxOf v (c.field 8 8) win (s.window win).port (BitVec.ofNat 64 (c.field 24 8)) (s1.ctx n) →
        (s1.ctx n ≠ none → ∃ t, exec (.setContext win) s = .next t ∧ (t.window win).ctx = some n ∧
          t.cmdIs win { c with begun := true, status := some 0, wmax := 0 } ∧ t.ctx n = some x ∧ t.mem = s1.mem) ∧
        (∀ s2 w s3, s1.ctx n = none → s2 = (List.range 16).foldl (fun s r => if (tabGet Region.off x.regions r).en then s.countLocks n r (fun _ => 0) else s)
            (s1.putCtx n x) → s2.slotArea n x.ssbase = (w, s3) → s3.hole = none →
          ∃ t, exec (.setContext win) s = .next t ∧ (t.window win).ctx = some n ∧ t.cmdIs win { c with begun := true, status := some 0, wmax := w } ∧
            t.ctx n = some x ∧ t.mem = s3.mem))) ∧
    (∀ c, s.takes win 3 c →
      (s.windowCtx win = none → exec (.loadImage win) s = .next (s.endCmd win c 3)) ∧
      (∀ n x, s.windowCtx win = some (n, x) →
        (x.mode.waits = true → exec (.loadImage win) s = .next s) ∧
        (∀ s1 l, x.mode.waits = false → s.svcRead (s.window win).core (c.field 8 8) (min (c.field 16 4) 16384) = (s1, l) → s1.hole = none →
          (∀ st, imgCheck s.board.keys s.board.floors l (c.field 16 4) = .error st → exec (.loadImage win) s = .next (s1.endCmd win c st)) ∧
          (∀ m, imgCheck s.board.keys s.board.floors l (c.field 16 4) = .ok m →
            (s.ctxBusy n x = true → exec (.loadImage win) s = .next s) ∧
            (s.ctxBusy n x = false → exec (.loadImage win) s =
              .next ((s1.putCtx n { x with images := tabPut none x.images m.kind (some m) }).endCmd win c 0)))))) ∧
    (∀ c, s.takes win 11 c →
      (s.ctx (c.field 8 2) = none → exec (.saveContext win) s = .next (s.endCmd win c 3)) ∧
      (∀ x, s.ctx (c.field 8 2) = some x →
        (x.mode = .running → exec (.saveContext win) s = .next ((s.askHalt (c.field 8 2) false).putCmd win { c with begun := true })) ∧
        (x.mode ≠ .running → exec (.saveContext win) s = .next s))) ∧
    (∀ c n, s.takes win 12 c → n = c.field 8 2 →
      (s.ctx n = none → exec (.resume win) s = .next (s.endCmd win c 0x0B)) ∧
      (∀ x, s.ctx n = some x →
        ((x.saved = none ∨ (x.mode ≠ .parked ∧ x.mode ≠ .saved) ∨ x.token.toNat ≠ c.field 24 8 ∨ (x.mode = .parked ∧ c.field 16 8 ≠ 0) ∨
            (x.mode = .saved ∧ c.field 16 8 = 0)) → exec (.resume win) s = .next (s.endCmd win c 0x0B)) ∧
        (∀ v, x.saved = some v → x.token.toNat = c.field 24 8 → ((x.mode = .parked ∧ c.field 16 8 = 0) ∨ (x.mode = .saved ∧ c.field 16 8 ≠ 0)) →
          (∀ s1, s.choosePairs n (s.savedGroups v) [] = (s1, none) → exec (.resume win) s = .next s) ∧
          (∀ s1 l, s.choosePairs n (s.savedGroups v) [] = (s1, some l) →
            (x.mode = .parked → exec (.resume win) s = .next ((s1.putBack n x v l).endCmd win c 0)) ∧
            (∀ s2 ps, x.mode = .saved → s1.readPairs (s.window win).core (c.field 16 8 + 256) v.pairs = (s2, ps) → s2.hole = none →
              exec (.resume win) s = .next ((s2.putBack n x { v with pairs := ps } l).endCmd win c 0))))))

/-- The commands over memory, slices and time (R80, R81, R127, R448). -/
def Obligations.HostCommandsOnMemory : Prop :=
  ∀ (s : State) (win : Nat), s.hole = none →
    (∀ c, s.takes win 4 c → c.field 8 8 + c.field 24 1 ≤ s.installed →
      ∃ t w, exec (.writeValue win) s = .next t ∧ t.cmdIs win { c with begun := true, status := some 0, wmax := w } ∧ s.gt ≤ w ∧
        ∀ x, t.byteAt x = if c.field 8 8 ≤ x ∧ x < c.field 8 8 + c.field 24 1 then BitVec.ofNat 8 (c.field 16 8 / 256 ^ (x - c.field 8 8)) else s.byteAt x) ∧
    (∀ c d s1 l a, s.cmdReady win 5 = some c → (c.begun = true ∨ c.wrong 5 = false) →
      d = (if c.begun then c else { c with begun := true, deadline := if c.field 40 8 = 0 then none else some (s.gt + c.field 40 8) }) →
      s.svcRead (s.window win).core (c.field 8 8) 8 = (s1, l) → s1.hole = none → a = leNat l &&& c.field 24 8 →
      (((c.field 32 1 = 0 ∧ a = c.field 16 8) ∨ (c.field 32 1 = 1 ∧ a ≠ c.field 16 8) ∨ (c.field 32 1 = 2 ∧ c.field 16 8 ≤ a)) →
        exec (.waitValue win) s = .next (s1.endCmd win d 0)) ∧
      (((c.field 32 1 = 0 ∧ a ≠ c.field 16 8) ∨ (c.field 32 1 = 1 ∧ a = c.field 16 8) ∨ (c.field 32 1 = 2 ∧ a < c.field 16 8)) →
        exec (.waitValue win) s = .next (s1.putCmd win d))) ∧
    (s.cmdReady win 5 = none → exec (.waitValueTimeout win) s = .next s) ∧
    (∀ c, s.cmdReady win 5 = some c →
      (∀ d, c.deadline = some d → d ≤ s.gt → exec (.waitValueTimeout win) s = .next (s.endCmd win c 9)) ∧
      (∀ d, c.deadline = some d → s.gt < d → exec (.waitValueTimeout win) s = .next s) ∧
      (c.deadline = none → exec (.waitValueTimeout win) s = .next s)) ∧
    (∀ c, s.takes win 6 c → c.field 8 8 + c.field 24 8 ≤ s.installed → c.field 16 8 + c.field 24 8 ≤ s.installed →
      ∃ (t : State) (o : EngOp), exec (.copy win) s = .next t ∧ t.ops = s.ops ++ [o] ∧ t.mem = s.mem ∧ t.cmdIs win { c with begun := true, op := some o.id } ∧
        o.kind = .hostCopy ∧ o.window = some win ∧ o.unit = 64 + sliceOf ((s.window win).base / 4096) ∧ capCursor o.dst = c.field 8 8 % 2 ^ 48 ∧
        capCursor o.src = c.field 16 8 % 2 ^ 48 ∧ o.desc = [BitVec.ofNat 64 (c.field 24 8)] ∧
        o.status = (if tabGet false s.engines o.unit then some 8 else none)) ∧
    (∀ c s1 l d, s.takes win 7 c → s.svcRead (s.window win).core (c.field 8 8) 64 = (s1, l) → s1.hole = none → d = leNat l →
      (rtBad d = true → exec (.decompress win) s = .next (s1.endCmd win c 2)) ∧
      (rtBad d = false → ∃ (t : State) (o : EngOp), exec (.decompress win) s = .next t ∧ t.ops = s1.ops ++ [o] ∧ t.mem = s1.mem ∧
        t.cmdIs win { c with begun := true, op := some o.id } ∧ o.kind = .decompress ∧ o.window = some win ∧ o.target = d ∧
        o.unit = 64 + sliceOf ((s.window win).base / 4096))) ∧
    (∀ c, s.takes win 8 c → ∃ t, exec (.partition win) s = .next t ∧ t.cmdIs win { c with begun := true, status := some 0 } ∧ t.mem = s.mem ∧
      ∀ n p, tabGet 0xFFFF (tabGet Slice.start t.slices n).ways p =
        if n < 8 ∧ (c.field 9 1).testBit n = true ∧ p = c.field 8 1 then BitVec.ofNat 16 (c.field 10 2) else tabGet 0xFFFF (tabGet Slice.start s.slices n).ways p) ∧
    (∀ c, s.takes win 9 c → c.field 8 8 + c.field 16 8 ≤ s.installed →
      (c.field 25 1 = 1 → exec (.pin win) s = .next ((s.unpinLines (linesOf (c.field 8 8) (c.field 16 8))).endCmd win c 0)) ∧
      (c.field 25 1 = 0 → ∀ s1 b, s.pinLines (c.field 24 1) (linesOf (c.field 8 8) (c.field 16 8)) = (s1, b) → s1.hole = none →
        exec (.pin win) s = .next (s1.endCmd win c (if b then 0 else 8)))) ∧
    (∀ c, s.takes win 10 c → exec (.latencyTolerance win) s = .next (s.endCmd win c 0))

/-- Windows, slots and completion records (R125, R444 to R449). -/
def Obligations.WindowsTakeAndCompleteCommands : Prop :=
  ∀ (s : State), s.hole = none →
    (∀ svc off size value, (barServes off size = false ∨ off < 0x1000 ∨ 0x1800 ≤ off) → exec (.windowEntryWrite svc off size value) s = .next s) ∧
    (∀ svc off size (value : DWord) n w v, barServes off size = true → 0x1000 ≤ off → off < 0x1800 → n = (off - 0x1000) / 32 → w = s.window n →
      v = setBits w.entry (off % 32 * 8) (size * 8) value.toNat →
      ∃ t, exec (.windowEntryWrite svc off size value) s = .next t ∧ t.mem = s.mem ∧ (∀ m, m ≠ n → t.window m = s.window m) ∧
        (w.en = true → (t.window n).base = w.base ∧ (t.window n).recbase = w.recbase ∧ (t.window n).port = w.port) ∧
        (w.en = false → (t.window n).base = bitsAt v 14 50 * 2 ^ 14 ∧ (t.window n).recbase = bitsAt v 77 51 * 2 ^ 13 ∧ (t.window n).port = v % 8) ∧
        (t.window n).svc = (if svc then v.testBit 131 else w.svc) ∧ (t.window n).en = v.testBit 130 ∧
        (t.window n).nextseq = (if w.en = false ∧ v.testBit 130 = true then 1 else w.nextseq) ∧ (t.window n).cmd = w.cmd ∧ (t.window n).ctx = w.ctx) ∧
    (∀ off size (value : DWord), (barServes off size = false ∨ 64 ≤ off ∨ off % 8 ≠ 0) → exec (.bar0RegisterWrite off size value) s = .next s) ∧
    (∀ off size (value : DWord), barServes off size = true → off < 64 → off % 8 = 0 →
      exec (.bar0RegisterWrite off size value) s = .next (s.putPort (off / 8) { s.port (off / 8) with part := value.toNat % 16 })) ∧
    (∀ win w, w = s.window win →
      ((w.en = false ∨ w.cmd.isSome = true ∨ s.portOpen w.port = false ∨ s.gt < tabGet 0 w.seals (w.nextseq % 256)) →
        exec (.sealAccept win) s = .next s) ∧
      (∀ s1 l v, w.en = true → w.cmd = none → s.portOpen w.port = true → tabGet 0 w.seals (w.nextseq % 256) ≤ s.gt →
        s.svcRead w.core (w.base + 64 * (w.nextseq % 256)) 64 = (s1, l) → s1.hole = none → v = leNat (l.take 8) →
        (v / 2 ^ 32 ≠ w.nextseq → exec (.sealAccept win) s = .next s) ∧
        (v / 2 ^ 32 = w.nextseq → ∃ t c, exec (.sealAccept win) s = .next t ∧ t.mem = s1.mem ∧ t.cmdIs win c ∧
          (t.window win).nextseq = (if w.nextseq = 0xFFFFFFFF then 1 else w.nextseq + 1) ∧
          c.seq = w.nextseq ∧ c.cmd = v % 256 ∧ c.msix = v.testBit 8 ∧ c.body = l.drop 8 ∧
          c.status = (if v / 2 ^ 9 % 2 ^ 23 ≠ 0 ∨ v % 256 = 0 ∨ 0x0C < v % 256 then some 2 else none)))) ∧
    (∀ win w, w = s.window win →
      (w.cmd = none → exec (.commandComplete win) s = .next s) ∧
      (∀ c0 c a, w.cmd = some c0 → c = s.settleCmd c0 → a = w.recbase + 32 * (c.seq % 256) →
        ((c.status = none ∨ s.gt < c.wmax ∨ s.flushWaits win c = true) → exec (.commandComplete win) s = .next s) ∧
        (∀ st, c.status = some st → c.wmax ≤ s.gt → s.flushWaits win c = false → a + 32 ≤ s.installed →
          (c.noted = false → ∃ t, exec (.commandComplete win) s = .next t ∧ t.cmdIs win { c with noted := true } ∧
            ∀ x, t.byteAt x = if a + 8 ≤ x ∧ x < a + 32 then (natLe 24 ((if c.dt then 1 else 0) + (if c.wbd then 2 else 0) + c.pcode % 256 * 2 ^ 16 +
              c.tcode % 256 * 2 ^ 24 + c.detail % 2 ^ 64 * 2 ^ 64 + c.aux % 2 ^ 64 * 2 ^ 128)).getD (x - (a + 8)) 0 else s.byteAt x) ∧
          (c.noted = true → ∃ t, exec (.commandComplete win) s = .next t ∧ (t.window win).cmd = none ∧
            (∀ x, t.byteAt x = if a ≤ x ∧ x < a + 8 then (natLe 8 (st * 2 ^ 16 + c.cmd * 2 ^ 24 + c.seq * 2 ^ 32)).getD (x - a) 0 else s.byteAt x) ∧
            (c.msix = false → t.msix = s.msix) ∧ (c.msix = true → s.portOpen w.port = true → t.msix = s.msix ++ [win]) ∧
            (c.msix = true → s.portOpen w.port = false → t.msix = s.msix ∧ (t.port w.port).dropped = (s.port w.port).dropped + 1)))))

/-- Host accesses of device memory (R123, R126, R444). -/
def Obligations.HostAccessesOfDeviceMemory : Prop :=
  ∀ (s : State) (port : Nat), s.hole = none →
    (∀ i ∈ [0, 1, 2], ∀ pa len data size kind value compare q,
      q = (if i = 0 then Instr.hostMemRead port pa len else if i = 1 then .hostMemWrite port pa data else .hostAtomic port pa size kind value compare) →
      ((s.lit port = false ∨ s.boot.failed.isSome = true) → exec q s = .next s) ∧
      (s.lit port = true → s.boot.failed = none → (s.port port).frozen = true →
        exec q s = .next (s.hostReply port ⟨[], false, false, true⟩)) ∧
      (s.lit port = true → s.boot.failed = none → (s.port port).frozen = false → (s.port port).state ≠ .up → exec q s = .next s) ∧
      (s.lit port = true → s.boot.failed = none → (s.port port).frozen = false → (s.port port).state = .up → s.power.device ≠ 0 →
        ∃ t, exec q s = .next t ∧ t.mem = s.mem ∧ t.power.exiting.contains .device = true ∧
          (t.port port).held = (s.port port).held ++ [if i = 0 then .read pa len else if i = 1 then .write pa data else .atomic pa size kind value compare])) ∧
    (s.lit port = true → s.boot.failed = none → (s.port port).frozen = false → (s.port port).state = .up → s.power.device = 0 →
      (∀ pa len,
        (s.installed < pa + len → ∃ t, exec (.hostMemRead port pa len) s = .next t ∧ (t.port port).resp = ⟨[], false, true, false⟩ ∧ t.mem = s.mem) ∧
        (pa + len ≤ s.installed → s.sound pa len →
          ∃ t, exec (.hostMemRead port pa len) s = .next t ∧ (t.port port).resp = ⟨memBytes s.mem pa len, false, false, false⟩ ∧ t.mem = s.mem)) ∧
      (∀ pa (data : List Byte),
        (s.installed < pa + data.length → ∃ t, exec (.hostMemWrite port pa data) s = .next t ∧ (t.port port).resp = ⟨[], false, true, false⟩ ∧ t.mem = s.mem) ∧
        (pa + data.length ≤ s.installed → ∃ t, exec (.hostMemWrite port pa data) s = .next t ∧ (t.port port).resp = ⟨[], false, false, false⟩ ∧
          ∀ x, t.byteAt x = if pa ≤ x ∧ x < pa + data.length then data.getD (x - pa) 0 else s.byteAt x)) ∧
      (∀ pa size kind value compare,
        ((s.installed < pa + size ∨ (size ≠ 4 ∧ size ≠ 8) ∨ pa % size ≠ 0) →
          ∃ t, exec (.hostAtomic port pa size kind value compare) s = .next t ∧ (t.port port).resp = ⟨[], false, true, false⟩ ∧ t.mem = s.mem) ∧
        (pa + size ≤ s.installed → (size = 4 ∨ size = 8) → pa % size = 0 → s.sound pa size →
          ∃ t, exec (.hostAtomic port pa size kind value compare) s = .next t ∧ (t.port port).resp = ⟨memBytes s.mem pa size, false, false, false⟩ ∧
            ∀ x, t.byteAt x = if pa ≤ x ∧ x < pa + size then
              (natLe size (match kind with
                | .fetchAdd => leNat (memBytes s.mem pa size) + value.toNat
                | .swap => value.toNat
                | .cas => if leNat (memBytes s.mem pa size) = compare.toNat % 256 ^ size then value.toNat else leNat (memBytes s.mem pa size))).getD (x - pa) 0
            else s.byteAt x)))

/-- TEAM_PLACE, GANG_RESERVE, GANG_COMMIT and RECKONER_FAILOVER (R355 to R363). -/
def Obligations.TeamsAndGangsArePlaced : Prop :=
  ∀ (s : State), s.hole = none →
    ((s.reckoner.gang ≠ none ∨ s.headGrid = none ∨ ∃ g, s.headGrid = some g ∧ (g.launch.gang ≠ 0 ∨ ∀ q, q < 256 → s.fits g (32 * (q % 8) + q / 8) = none)) →
      exec .teamPlace s = .next s) ∧
    (∀ g q p b s1, s.reckoner.gang = none → s.headGrid = some g → g.launch.gang = 0 → q < 256 → p = 32 * (q % 8) + q / 8 → s.fits g p = some b →
      (∀ q', q' < q → s.fits g (32 * (q' % 8) + q' / 8) = none) → s1.hole = none →
      (s.placeOn g p b g.placed none true = (s1, none) → exec .teamPlace s = .next (s1.notPlaced g 2)) ∧
      (∀ u, s.placeOn g p b g.placed none true = (s1, some u) → exec .teamPlace s = .next (s1.countPlaced (s1.regrid g) 1) ∧
        ∃ t, (s1.countPlaced (s1.regrid g) 1).teams = s.teams ++ [t] ∧ t.uid = u ∧ t.grid = g.id ∧ t.ctx = g.ctx ∧ t.number = g.placed ∧ t.pair = p ∧ t.baseRod = b ∧
          t.gangm = none ∧ t.ready = true ∧ t.slot < 32 ∧ (∀ v ∈ s.teamsOn p, v.slot ≠ t.slot) ∧
          (∀ n, n < t.slot → ∃ v ∈ s.teamsOn p, v.slot = n) ∧ t.ctl.pc = g.launch.ctlEnt ∧ t.ranks.length = g.launch.ranks ∧
          (∀ j r, t.ranks[j]? = some r → r.num = j ∧ r.rod = b + j % g.launch.spread ∧ r.width = g.launch.width ∧ r.top = g.launch.regs ∧
            r.threads.length = g.launch.width ∧ ∃ x, r.splits = [x] ∧ x.pc = g.launch.vecEnt ∧ x.wait = .none))) ∧
    (s.reckoner.gang = none → (s.headGrid = none ∨ ∃ g, s.headGrid = some g ∧ (g.launch.gang = 0 ∨ s.gangCluster g = none)) →
      exec .gangReserve s = .next s) ∧
    (∀ g c b s1, s.reckoner.gang = none → s.headGrid = some g → g.launch.gang ≠ 0 → s.gangCluster g = some c → s.fits g (4 * c) = some b → s1.hole = none →
      (s.placeOn g (4 * c) b g.placed (some 0) false = (s1, none) → exec .gangReserve s = .next (s1.releaseGang.notPlaced g 2)) ∧
      (∀ u, s.placeOn g (4 * c) b g.placed (some 0) false = (s1, some u) →
        exec .gangReserve s = .next { s1 with reckoner := { s1.reckoner with gang := some ⟨g.id, c, [u], false⟩ } })) ∧
    (∀ a g b s1 p, s.reckoner.gang = some a → s.grid a.grid = some g → a.members.length < g.launch.gang → p = 4 * a.cluster + a.members.length →
      s.fits g p = some b → s1.hole = none →
      (s.placeOn g p b (g.placed + a.members.length) (some a.members.length) false = (s1, none) → exec .gangReserve s = .next (s1.releaseGang.notPlaced g 2)) ∧
      (∀ u, s.placeOn g p b (g.placed + a.members.length) (some a.members.length) false = (s1, some u) →
        exec .gangReserve s = .next { s1 with reckoner := { s1.reckoner with gang := some ⟨g.id, a.cluster, a.members ++ [u], false⟩ } })) ∧
    ((s.reckoner.gang = none ∨ ∃ a g, s.reckoner.gang = some a ∧ s.grid a.grid = some g ∧ a.members.length < g.launch.gang) →
      exec .gangCommit s = .next s) ∧
    (∀ a g, s.reckoner.gang = some a → s.grid a.grid = some g → g.launch.gang ≤ a.members.length →
      ∃ t, exec .gangCommit s = .next t ∧ t.reckoner.gang = none ∧ t.mem = s.mem ∧
        t.teams = s.teams.map (fun v => if v.uid ∈ a.members then { v with ready := true } else v) ∧
        (∃ h, t.grid a.grid = some h ∧ h.placed = g.placed + g.launch.gang)) ∧
    exec .reckonerFailover s = .next { s with reckoner := { s.reckoner with acting := (s.reckoner.acting + 1) % 8 } }

/-- TEAM_END, PAIR_IDLE, GRID_RETIRE, CHILD_DONE_WRITE and GRID_END (R32, R63, R74, R190, R244, R353). -/
def Obligations.TeamsPairsAndGridsEnd : Prop :=
  ∀ (s : State), s.hole = none →
    (∀ uid, (s.team uid = none ∨ ∃ t, s.team uid = some t ∧ s.teamOver t = false) → exec (.teamEnd uid) s = .next s) ∧
    (∀ uid t, s.team uid = some t → s.teamOver t = true → ((s.releaseFrees (fun w => w.team == uid)).unlockTeam uid).hole = none →
      ∃ y : State, exec (.teamEnd uid) s = .next (if (y.teamsOn t.pair).isEmpty then y.unmapPair t.pair else y) ∧ y.teams = s.teams.filter (fun u => u.uid != uid) ∧
        (∀ g, s.grid t.grid = some g → y.grid t.grid = some { g with endedTeams := g.endedTeams + 1, wmax := max g.wmax t.lastTime }) ∧
        (∀ l, l < 2 → (y.abacus t.pair l).holder ≠ some uid)) ∧
    (∀ pair p, p = s.pair pair → (p.grid = none ∨ s.teamsOn pair ≠ []) → exec (.pairIdle pair) s = .next s) ∧
    (∀ pair p, p = s.pair pair → p.grid ≠ none → s.teamsOn pair = [] →
      ((∃ e ∈ p.sectors, e.2.st = .d ∧ ∃ k m, p.mapAt (e.1 * 256) = some (k, m) ∧ m.nowb = false ∧ m.flt = false) →
        exec (.pairIdle pair) s = .next (s.unmapPair pair)) ∧
      ((∀ e ∈ p.sectors, e.2.st = .d → ∀ k m, p.mapAt (e.1 * 256) = some (k, m) → m.nowb = true ∨ m.flt = true) →
        ((∃ e ∈ p.sectors, e.2.st = .w ∨ e.2.st = .wd ∨ e.2.st = .f) → exec (.pairIdle pair) s = .next s) ∧
        ((∀ e ∈ p.sectors, e.2.st ≠ .w ∧ e.2.st ≠ .wd ∧ e.2.st ≠ .f) →
          ∃ t, exec (.pairIdle pair) s = .next t ∧ t.mem = s.mem ∧ (t.pair pair).grid = none ∧ (∀ off, t.padByte pair off = 0) ∧
            (t.pair pair).maps = [] ∧ (t.pair pair).tags = [] ∧ (t.pair pair).poison = [] ∧ (∀ c ∈ t.copies, c.holder ≠ .l1 pair) ∧
            (∀ q, q ≠ pair → t.pair q = s.pair q)))) ∧
    (∀ id, (s.grid id = none ∨ ∃ g, s.grid id = some g ∧ s.gridOver g = false) → exec (.gridRetire id) s = .next s) ∧
    (∀ id g, s.grid id = some g → s.gridOver g = true →
      ∃ t, exec (.gridRetire id) s = .next t ∧ t.grid id = some { g with retired := true, ended := some (g.ended.getD .completed) } ∧ t.mem = s.mem ∧
        t.teams = s.teams) ∧
    (∀ id, (s.grid id = none ∨ ∃ g, s.grid id = some g ∧ (g.retired = false ∨ g.parent = none ∨ s.gt < g.wmax)) → exec (.childDoneWrite id) s = .next s) ∧
    (∀ id g, s.grid id = some g → g.retired = true → g.parent ≠ none → g.wmax ≤ s.gt →
      (g.donew = none → exec (.childDoneWrite id) s = .next (s.dropGrid id)) ∧
      (∀ space pair a, g.donew = some (space, pair, a) →
        ((space = 1 ∨ space = 4) → s.migWaiting (.donew id) = true → exec (.childDoneWrite id) s = .next s) ∧
        (∀ y w x, (space = 1 ∨ space = 4) → s.migWaiting (.donew id) = false → s.unitMig ⟨pair, g.ctx, 0⟩ needW a 8 2 = (y, none) →
          y.unitWrite ⟨pair, g.ctx, 0⟩ a (natLe 8 g.donewWord) 9 = (w, x) → x.hole = none → exec (.childDoneWrite id) s = .next (x.dropGrid id)) ∧
        (∀ v, (space = 2 ∨ space = 3) → (s.pair (homePair pair space a)).grid = g.parent →
          v = { s.tear 0 (pieceAt (.pad (homePair pair space a) (a % 2 ^ 19)) 8 (natLe 8 g.donewWord) false false) with order := s.order + 1 } →
          exec (.childDoneWrite id) s = .next ((v.putPair (homePair pair space a)
            ((s.pair (homePair pair space a)).write (a % 2 ^ 19) (natLe 8 g.donewWord) false)).dropGrid id)) ∧
        ((space = 2 ∨ space = 3) → (s.pair (homePair pair space a)).grid ≠ g.parent → exec (.childDoneWrite id) s = .next (s.dropGrid id)))) ∧
    (∀ id, (s.grid id = none ∨ firstFrozen (s.teams.filter (fun t => t.grid == id)) = none) → exec (.gridEnd id) s = .next s) ∧
    (∀ id g r, s.grid id = some g → firstFrozen (s.teams.filter (fun t => t.grid == id)) = some r →
      ∃ t, exec (.gridEnd id) s = .next t ∧ t.mem = s.mem ∧ (∀ v ∈ t.teams, v.grid = id → v.ctl.ended = true ∧ ∀ r ∈ v.ranks, r.ended = true) ∧
        t.grid id = some { g with ended := some (g.ended.getD (.frozen (violationOf r.code))) })

/-- OWNER_FAULT, FAULT_RESTART, FAULT_DECLINE, DEBUGGER_RESUME, TLB_INVALIDATE and INVALIDATE_COMPLETE (R47 to R59, R384). -/
def Obligations.FaultsAndInvalidates : Prop :=
  ∀ (s : State), s.hole = none →
    (∀ id, (s.fault id = none ∨ ∃ r, s.fault id = some r ∧ r.delivered = true) → exec (.ownerFault id) s = .next s) ∧
    (∀ id r, s.fault id = some r → r.delivered = false →
      (r.code ≠ .brk → exec (.ownerFault id) s =
        .next { s with faults := s.faults.map (fun q => if q.id = id then { q with delivered := true, core := s.ownerOf r } else q) }) ∧
      (r.code = .brk → ∃ t core, exec (.ownerFault id) s = .next t ∧ t.mem = s.mem ∧
        t.faults = s.faults.map (fun q => if q.id = id then { q with delivered := true, core := core } else q))) ∧
    (∀ id writes, (∀ r, ¬ s.answerable id false r) → exec (.faultRestart id writes) s = .next s ∧ exec (.faultDecline id) s = .next s) ∧
    (∀ id pc, (∀ r, ¬ s.answerable id true r) → exec (.debuggerResume id pc) s = .next s) ∧
    (∀ id r writes, s.answerable id false r → (s.tableWrites writes).hole = none →
      ∃ t, exec (.faultRestart id writes) s = .next t ∧ t.mem = (s.tableWrites writes).mem ∧
        (∀ q ∈ t.faults, q.ctx = r.ctx → q.code ≠ .brk → s.faultPage q ≠ s.faultPage r) ∧
        (∀ u v, r.agent = some (.ctl u) → s.team u = some v → v.ctl.wait = .owner id → ∃ v', t.team u = some v' ∧ v'.ctl.wait = .none)) ∧
    (∀ id r, s.answerable id false r →
      (r.op = none → r.sector = none →
        (r.agent = none → exec (.faultDecline id) s = .next (s.dropFault id)) ∧
        (∀ u t, r.agent = some (.ctl u) → s.team u = some t → t.ctl.wait = .owner id →
          exec (.faultDecline id) s = .next ((s.dropFault id).deliverCtl { t with ctl := { t.ctl with wait := .none } } r.trap)) ∧
        (∀ u j a f, r.agent = some (.vec u j a) → focus { s.dropFault id with cur := .vec u j a } = some f → f.x.wait = .owner id →
          exec (.faultDecline id) s = .next (f.deliver r.trap ⟨r.pos, maskList r.handled, maskList r.actives⟩))) ∧
      (∀ o q, r.op = some o → r.sector = none → r.agent = none → s.op o = some q → q.waitFault = some id →
        ((s.dropFault id).stopOp q (stopStatus r.code)).hole = none →
        exec (.faultDecline id) s = .next ((s.dropFault id).stopOp q (stopStatus r.code))) ∧
      (∀ pair sec k m, r.op = none → r.sector = some (pair, sec) → r.agent = none → (s.pair pair).mapAt (sec * 256) = some (k, m) →
        (((s.pair pair).sector sec).st = .f → ((s.dropFault id).fillFail pair sec r.code r.va).hole = none →
          exec (.faultDecline id) s = .next ((s.dropFault id).fillFail pair sec r.code r.va)) ∧
        ((((s.pair pair).sector sec).st = .w ∨ ((s.pair pair).sector sec).st = .wd) → ((s.dropFault id).writebackDeny pair sec k m r.va).hole = none →
          exec (.faultDecline id) s = .next ((s.dropFault id).writebackDeny pair sec k m r.va)))) ∧
    (∀ id r pc, s.answerable id true r →
      (r.agent = none → exec (.debuggerResume id pc) s = .next (s.dropFault id)) ∧
      (∀ u t, r.agent = some (.ctl u) → s.team u = some t → t.ctl.wait = .owner id →
        exec (.debuggerResume id pc) s = .next ((s.dropFault id).putTeam { t with ctl := { t.ctl with wait := .none, pc := pc.getD (t.ctl.pc + 8) } })) ∧
      (∀ u j a f, r.agent = some (.vec u j a) → focus { s.dropFault id with cur := .vec u j a } = some f → f.x.wait = .owner id →
        exec (.debuggerResume id pc) s = .next (f.resumed r (pc.getD (f.x.pc + 8))))) ∧
    (∀ ctx region page pages moves writes, moves ≠ [] → s.mayMove ctx region page pages = false →
      exec (.tlbInvalidate ctx region page pages moves writes) s = .next s) ∧
    (∀ ctx region page pages moves writes x bad y, (moves = [] ∨ s.mayMove ctx region page pages = true) →
      s.moveFrames (s.pageOwner ctx (region * 2 ^ 44 + page * 2 ^ pageBits (s.region ctx region).psz)) moves = (x, bad) → y = (if bad then x.abortLeaves writes else x.tableWrites writes) →
      y.hole = none → ∃ t id, exec (.tlbInvalidate ctx region page pages moves writes) s = .next t ∧ t.mem = y.mem ∧ t.teams = y.teams ∧
        t.invalidates = y.invalidates ++ [⟨id, ctx, region, page, pages⟩]) ∧
    (∀ id, (s.invalidates.find? (fun v => v.id == id) = none ∨ ∃ v, s.invalidates.find? (fun v => v.id == id) = some v ∧ s.invalidReady v = false) →
      exec (.invalidateComplete id) s = .next s) ∧
    (∀ id v, s.invalidates.find? (fun v => v.id == id) = some v → s.invalidReady v = true →
      ∃ t, exec (.invalidateComplete id) s = .next t ∧ t.mem = s.mem ∧ t.invalidates = s.invalidates.filter (fun w => w.id != id) ∧
        (∀ k, ∀ e ∈ tabGet [] t.tlbs k, v.hits e = false) ∧ (∀ k, ∀ e ∈ tabGet [] t.clusterTlbs k, v.hits e = false) ∧
        t.lockRanges = s.lockRanges.map (fun l => if l.ctx = v.ctx ∧ l.lo < (s.invalidSpan v).2 ∧ (s.invalidSpan v).1 < l.hi then { l with broken := true } else l) ∧
        (∀ w ∈ t.migWaits, w ∈ s.migWaits ∧ Wait.migrated v (.migration w.ctx w.page) ≠ .none) ∧
        t.teams.map (fun u => u.ctl.wait) = s.teams.map (fun u => u.ctl.wait.migrated v))

/-- PREEMPT_REQUEST, SAVE_AREA_WRITE, LINK_LOST and GRACE_EXPIRE (R391 to R395, R454, R455). -/
def Obligations.ContextsHaltAndLeave : Prop :=
  ∀ (s : State), s.hole = none →
    (∀ n, (s.ctx n = none ∨ ∃ c, s.ctx n = some c ∧ c.mode ≠ .running ∧ ∀ p, c.mode ≠ .halting p) → exec (.preemptRequest n) s = .next s) ∧
    (∀ n c p, s.ctx n = some c → c.mode = .halting p →
      ∃ t, exec (.preemptRequest n) s = .next t ∧ t.mem = s.mem ∧ t.teams = s.teams.map (fun u => if u.ctx = n then u.halt else u) ∧
        t.ctx n = some { c with mode := .halted p, haltAt := s.gt }) ∧
    (∀ n c, s.ctx n = some c → c.mode = .running →
      ∃ t, exec (.preemptRequest n) s = .next t ∧ t.mem = s.mem ∧ (∀ u ∈ t.teams, u.ctx = n → u.halted = true) ∧
        t.ctx n = some { c with mode := .halted true, haltReq := s.gt, haltAt := s.gt }) ∧
    (∀ n, (s.ctx n = none ∨ ∃ c, s.ctx n = some c ∧ ((∀ p, c.mode ≠ .halted p) ∨ s.inFlight n = true)) → exec (.saveAreaWrite n) s = .next s) ∧
    (∀ n c p, s.ctx n = some c → c.mode = .halted p → s.inFlight n = false → (s.saveArea n).hole = none →
      ∃ (t : State) (c' : Ctx), exec (.saveAreaWrite n) s = .next t ∧ t.ctx n = some c' ∧
        (s.saveCmd n = none → c'.mode = (if p then .parked else .saved) ∧ (∃ v, c'.saved = some v ∧ v.area = 0) ∧ ∀ u ∈ t.teams, u.ctx ≠ n) ∧
        (∀ win cmd, s.saveCmd n = some (win, cmd) → ∃ d, t.cmdIs win d ∧
          ((d.status = some 0 ∧ c'.mode = (if p then .parked else .saved) ∧ (∃ v, c'.saved = some v ∧ v.area = cmd.field 16 8) ∧
              (∀ u ∈ t.teams, u.ctx ≠ n) ∧ d.aux ≤ cmd.field 24 8) ∨
            (d.status = some 0x0A ∧ d.aux = 256 ∧ c'.mode = .running ∧ ∀ u ∈ t.teams, u.ctx = n → u.halted = false)))) ∧
    (∀ port, (s.lit port = false ∨ (s.port port).state ≠ .hold ∨ s.gt < (s.port port).lostAt + 3000) → exec (.linkLost port) s = .next s) ∧
    (∀ port, s.lit port = true → (s.port port).state = .hold → (s.port port).lostAt + 3000 ≤ s.gt →
      ∃ t, exec (.linkLost port) s = .next t ∧ t.mem = s.mem ∧ (t.port port).state = .lost ∧ (t.port port).dropped = (s.port port).dropped + s.posted port ∧
        (∃ i, t.accesses = s.accesses.map (fun a => { a with pieces := a.pieces.map (Piece.lost port s.gt i a.kind.writes) })) ∧
        ∀ n c, n ∈ s.portCtxs port → s.ctx n = some c → c.mode = .running →
          ∃ c', t.ctx n = some c' ∧ c'.mode = .halting true ∧ c'.haltReq = s.gt ∧ c'.grace = some (s.gt + s.board.grace * 1500000)) ∧
    (∀ n, (s.ctx n = none ∨ ∃ c, s.ctx n = some c ∧ (c.grace = none ∨ (∃ d, c.grace = some d ∧ s.gt < d) ∨ c.mode ≠ .parked)) →
      exec (.graceExpire n) s = .next s) ∧
    (∀ n c d, s.ctx n = some c → c.grace = some d → d ≤ s.gt → c.mode = .parked →
      ∃ t, exec (.graceExpire n) s = .next t ∧ t.mem = s.mem ∧ t.ctx n = none ∧ (∀ g ∈ t.grids, g.ctx ≠ n) ∧ (∀ r ∈ t.faults, r.ctx ≠ n) ∧
        (∀ w ∈ t.windows, w.2.ctx ≠ some n) ∧ (∀ m, m ≠ n → t.ctx m = s.ctx m))

/-- The events of the link, mailboxes and resets of masters (R383, R397, R452 to R457). -/
def Obligations.LinksMailboxesAndResets : Prop :=
  ∀ (s : State), s.hole = none →
    (∀ port p, p = s.port port →
      (s.lit port = false → exec (.linkLockLost port) s = .next s ∧ exec (.linkLockRegained port) s = .next s ∧ exec (.trainingComplete port) s = .next s ∧
        (∀ a b l, exec (.flitReceive port a b l) s = .next s) ∧ exec (.granuleIdleFlush port) s = .next s) ∧
      (s.lit port = true →
        (p.state = .up → exec (.linkLockLost port) s = .next (s.putPort port { p with state := .hold, lostAt := s.gt })) ∧
        (p.state = .train → exec (.linkLockLost port) s = .next (s.putPort port { p with state := .lost })) ∧
        ((p.state = .hold ∨ p.state = .lost) → exec (.linkLockLost port) s = .next s) ∧
        (p.state = .hold → s.gt ≤ p.lostAt + 3000 → exec (.linkLockRegained port) s = .next (s.putPort port { p with state := .up })) ∧
        (p.state = .hold → p.lostAt + 3000 < s.gt → exec (.linkLockRegained port) s = .next s) ∧
        (p.state = .lost → exec (.linkLockRegained port) s =
          .next (s.putPort port { p with state := .train, rx := Tether.fresh, tx := Tether.fresh })) ∧
        ((p.state = .up ∨ p.state = .train) → exec (.linkLockRegained port) s = .next s) ∧
        (p.state = .train → exec (.trainingComplete port) s = .next (s.putPort port { p with state := .up })) ∧
        (p.state ≠ .train → exec (.trainingComplete port) s = .next s) ∧
        (p.state ≠ .up → (∀ a b l, exec (.flitReceive port a b l) s = .next s) ∧ exec (.granuleIdleFlush port) s = .next s) ∧
        (∀ l, p.state = .up → exec (.flitReceive port false false l) s =
          .next (s.putPort port { p with errors := p.errors + 1, retraining := p.retraining + 1 })) ∧
        (∀ a b l, p.state = .up → (a = true ∨ b = true) → s.tethered port = false → exec (.flitReceive port a b l) s =
          .next (s.putPort port { p with errors := (if a then p.errors else p.errors + 1), delivered := p.delivered ++ l })) ∧
        (∀ a b l, p.state = .up → (a = true ∨ b = true) → s.tethered port = true → ∃ q : Port, exec (.flitReceive port a b l) s = .next (s.putPort port q) ∧
          (∀ t out, decodeGroups ((p.rx.part ++ l).length + 1) { p.rx with part := p.rx.part ++ l } [] = some (t, out) →
            q.rx = t ∧ q.delivered = p.delivered ++ out ∧ q.state = .up) ∧
          (decodeGroups ((p.rx.part ++ l).length + 1) { p.rx with part := p.rx.part ++ l } [] = none →
            q.state = .train ∧ q.rx = Tether.fresh ∧ q.tx = Tether.fresh ∧ q.delivered = p.delivered)) ∧
        ((s.tethered port = false ∨ p.tx.part = [] ∨ s.gt < p.lastTx + 16) → exec (.granuleIdleFlush port) s = .next s) ∧
        (p.state = .up → s.tethered port = true → p.tx.part ≠ [] → p.lastTx + 16 ≤ s.gt → exec (.granuleIdleFlush port) s =
          .next (s.putPort port ({ p with tx := { p.tx with part := [] } }.putGranule (p.tx.part ++ List.replicate (32 - p.tx.part.length) 0))))) ∧
      (∀ n b, p.retraining = 0 → exec (.wavelengthRetrained port n b) s = .next s) ∧
      (∀ n, p.retraining ≠ 0 → exec (.wavelengthRetrained port n true) s = .next (s.putPort port { p with retraining := p.retraining - 1 }) ∧
        ∃ q : Port, exec (.wavelengthRetrained port n false) s = .next (s.putPort port q) ∧ q.retraining = p.retraining - 1 ∧ n ∈ q.retired ∧
          (∀ k, k ≠ n → (k ∈ q.retired ↔ k ∈ p.retired))) ∧
      ((s.port port).frozen = false → exec (.masterReset .port port) s = .next s) ∧
      ((s.port port).frozen = true → exec (.masterReset .port port) s =
        .next (s.putPort port { p with state := .train, rx := Tether.fresh, tx := Tether.fresh, frozen := false }))) ∧
    (∀ src tgt (m : List Byte), src ≠ tgt → src < 8 → tgt < 8 → m.length = 64 → (tabGet [] (s.core tgt).mail src).length < 16 →
      ∃ t, exec (.mailboxSend src tgt m) s = .next t ∧ tabGet [] (t.core tgt).mail src = tabGet [] (s.core tgt).mail src ++ [m] ∧ t.mem = s.mem ∧
        ∀ k, (k ≠ tgt → t.core k = s.core k)) ∧
    (∀ src tgt (m : List Byte), (src = tgt ∨ 8 ≤ src ∨ 8 ≤ tgt ∨ m.length ≠ 64 ∨ 16 ≤ (tabGet [] (s.core tgt).mail src).length) →
      exec (.mailboxSend src tgt m) s = .next s) ∧
    (∀ unit, tabGet false s.engines unit = false → exec (.masterReset .engine unit) s = .next s) ∧
    (∀ unit, tabGet false s.engines unit = true → (s.masterReset .engine unit).hole = none →
      ∃ t, exec (.masterReset .engine unit) s = .next t ∧ tabGet false t.engines unit = false ∧
        ∀ o ∈ s.ops, o.unit = unit → o.kind.isCopy = true → o.status.isSome = true → o.window = none → ∀ q ∈ t.ops, q.id ≠ o.id) ∧
    (∀ unit i, i = s.island unit → (i.frozen = false ∧ i.stopped = false → exec (.masterReset .island unit) s = .next s) ∧
      (i.frozen = true ∨ i.stopped = true → exec (.masterReset .island unit) s = .next (s.putIsland unit { i with frozen := false, stopped := false })))

/-- The events of power and bring-up (R458 to R462; memory after reset by log 1). -/
def Obligations.PowerAndReset : Prop :=
  ∀ (s : State), s.hole = none →
    (∀ u l, (s.mayEnter u l = false ∨ l ≤ s.powerOf u ∨ s.power.tolerance < exitLatency l ∨ s.exits u = true) → exec (.powerStateEnter u l) s = .next s) ∧
    (∀ u l, s.mayEnter u l = true → s.powerOf u < l → exitLatency l ≤ s.power.tolerance → s.exits u = false →
      exec (.powerStateEnter u l) s = .next (s.putPower u l)) ∧
    (∀ n l t, t ∈ s.teams → t.onCore n = true → exec (.powerStateEnter (.core n) l) s = .next s) ∧
    (∀ l, s.teams ≠ [] → exec (.powerStateEnter .device l) s = .next s) ∧
    (∀ u, (s.powerOf u = 0 ∨ s.exits u = true) → exec (.powerWake u) s = .next s) ∧
    (∀ u, s.powerOf u ≠ 0 → s.exits u = false →
      exec (.powerWake u) s = .next { s with power := { s.power with exiting := s.power.exiting ++ [u] } }) ∧
    (∀ u, s.exits u = false → exec (.powerExitComplete u) s = .next s) ∧
    (∀ u, s.exits u = true → (u ≠ .device ∨ s.power.device < 3) →
      exec (.powerExitComplete u) s = .next (({ s with power := { s.power with exiting := s.power.exiting.filter (fun v => !decide (v = u)) } } : State).putPower u 0)) ∧
    (s.exits .device = true → 3 ≤ s.power.device →
      ((s.powerExit .device).hole = none → ∃ t, exec (.powerExitComplete .device) s = .next t ∧ t.power.device = 0 ∧ ∀ p, p < 8 → (t.port p).held = []) ∧
      ((∀ p, p < 8 → (s.port p).held = []) → ∃ t, exec (.powerExitComplete .device) s = .next t ∧ t.mem = s.mem ∧ t.power.device = 0 ∧ t.power.floor = s.gt ∧
        t.sets = [] ∧ (∀ k m, tabGet none t.lines k = some m → m.pinned = true ∧ m.lexp = s.gt ∧ m.lwct = s.gt) ∧ t.teams = s.teams ∧ t.pairs = s.pairs)) ∧
    (∀ pair q n, ∃ t, exec (.powerIssueHold pair q n) s = .next t ∧ t.rod pair q = { s.rod pair q with earliest := max (s.rod pair q).earliest s.gt + n } ∧
      t.mem = s.mem ∧ t.teams = s.teams ∧ t.gt = s.gt) ∧
    (∀ b, ∃ t, exec (.deviceReset b) s = .next t ∧ (∀ x, t.byteAt x = 0) ∧ t.teams = [] ∧ t.grids = [] ∧ (∀ n, t.ctx n = none) ∧
      (∀ n, t.window n = Window.start) ∧ t.copies = [] ∧ t.accesses = [] ∧ t.gt = 0 ∧
      (b.failStep = none → t.boot = ⟨9, none⟩ ∧ t.board.gib128 = decide (b.body.toNat / 2 ^ 256 % 256 = 1) ∧ t.board.pwr = b.body.toNat / 2 ^ 264 % 2 ^ 16 ∧
        t.board.grace = b.body.toNat / 2 ^ 416 % 2 ^ 32 ∧
        (∀ p, p < 8 → t.board.ports.getD p 0 = b.body.toNat / 2 ^ (32 * p) % 2 ^ 32 ∧ (t.port p).state = .train ∧
          (t.port p).part = b.body.toNat / 2 ^ (32 * p + 2) % 16)) ∧
      (∀ n, b.failStep = some n → t.boot = ⟨n - 1, some n⟩ ∧ t.board.ports = [1, 0, 0, 0, 0, 0, 0, 0] ∧ (∀ p, 0 < p → t.lit p = false) ∧ t.lit 0 = true))

/-- The state after reset (R80, R445, R458, R461; log 1, log 3). -/
def Obligations.ResetHolds : Prop :=
  (∀ n, (State.reset.window n).en = false ∧ (State.reset.window n).nextseq = 1 ∧ (State.reset.window n).svc = false ∧ (State.reset.window n).base = 0 ∧
    (State.reset.window n).recbase = 0 ∧ (State.reset.window n).port = 0 ∧ (State.reset.window n).cmd = none ∧ (State.reset.window n).ctx = none) ∧
  (∀ n p, tabGet 0xFFFF (tabGet Slice.start State.reset.slices n).ways p = 0xFFFF) ∧ State.reset.power.tolerance = 0 ∧
  (∀ n, State.reset.ctx n = none) ∧ State.reset.teams = [] ∧ State.reset.grids = [] ∧ State.reset.accesses = [] ∧ State.reset.copies = [] ∧
  (∀ k, tabGet none State.reset.lines k = none) ∧ (∀ p, (State.reset.pair p).grid = none) ∧ tabWf 0 State.reset.mem = true ∧ State.reset.mem = []

/-- Words of the manual's worked cases. -/
def Obligations.ManualWordsDecode : Prop :=
  decodeTableWord 64 0x0040500400EA9000 = some (.iadd ⟨10, 4, 7, 2, true, false, true, false, false, true, 0⟩) ∧
  decodeTableWord 64 0xA81A000008000014 = some (.bra ⟨3, false, true, 8, 20⟩) ∧
  decodeTableWord 64 0x87004C003F800000 = some (.li ⟨9, true, 0, 1065353216⟩) ∧
  decodeTableWord 64 0x40840480030E0005 = some (.pFormPair ⟨1, 8, 9, 0, 3, 14, 0, 5⟩) ∧
  decodeTableWord 64 0xA380A00802A01840 = some (.atom ⟨20, 8, 21, 0, false, false, false, false, 6, 0, 4, 0⟩) ∧
  decodeTableWord 64 0x2A00000000000003 = some (.bar ⟨0, 0, 0, 0, false, false, false, false, false, false, 3⟩) ∧
  decodeTableWord 64 0x06801005FFA00802 = some (.icmp ⟨2, 5, 2045, 0, false, false, false, false, false, false, 2050⟩) ∧
  decodeTableWord 64 0x0C00800803000041 = some (.cderive ⟨16, 8, 24, 0, false, false, false, false, false, false, 65⟩) ∧
  decodeTableWord 64 0x10C0500400E01027 = some (.ffma ⟨10, 4, 7, 0, false, false, false, false, false, true, 39⟩) ∧
  decodeTableWord 64 0xA300F00800A05000 = some (.stcmp ⟨30, 8, 5, 0, false, false, false, true, 4, 0, 0, 0⟩) ∧
  decodeTableWord 64 0x1D00300100000003 = some (.ballot ⟨6, 1, 0, 0, false, false, false, false, false, false, 3⟩) ∧
  decodeTableWord 64 0x2000000000600800 = some (.rclaim ⟨0, 0, 3, 0, false, false, false, false, false, false, 2048⟩) ∧
  decodeTableWord 64 0x2441400004002026 = some (.sample ⟨40, 0, 32, 0, false, false, false, false, true, false, 38⟩) ∧
  decodeTableWord 64 0x2E02984402800001 = some (.cpy ⟨83, 68, 20, 0, false, false, false, false, false, false, 1⟩) ∧
  decodeTableWord 64 0x3103102805400007 = some (.mma ⟨98, 40, 42, 0, false, false, false, false, false, false, 7⟩) ∧
  decodeTableWord 64 0x3283A01A00000001 = some (.ireq ⟨116, 26, 0, 0, false, false, false, false, false, false, 1⟩) ∧
  decodeTableWord 64 0x2900000000000002 = some (.retH ⟨0, 0, 0, 0, false, false, false, false, false, false, 2⟩) ∧
  decodeTableWord 128 (0x1900A01502C00000 + 2 ^ 64 * 0xC0B8000000000000) = some (.ffma4 ⟨20, 21, 22, 0, false, false, false, false, false, false, 0⟩ ⟨23, false, false, 0⟩) ∧
  decodeTableWord 64 0x09C0000000000000 = some (.unassignedOpcodeWord 0x09C0000000000000)

/-- Decode and encode agree (R195 to R211, R228). -/
def Obligations.DecodeOfEncode : Prop :=
  ∀ (i : Instr) (rest : List Byte), wellFormed i = true → encode i ≠ [] → (∀ w, i = .unassignedOpcodeWord w → rest.length < 8) →
    decode (encodeBytes i ++ rest) = some (i, rest)

/-- The canonical form of memory is an invariant (log 1). -/
def Obligations.StepKeepsMemoryCanonical : Prop :=
  ∀ s t : State, tabWf 0 s.mem = true → step s = .next t → tabWf 0 t.mem = true

/-- The step (R176, R181, R187, R195, R371; log 2). -/
def Obligations.StepRunsTheDecodedInstruction : Prop :=
  (∀ (s s0 s1 s2 : State) (n pair q : Nat) (l : List Turn) (a : Agent) (t : Team) (r : Rank) (x : Split) (i : Instr), s.agenda = ⟨n, .rod pair q⟩ :: l →
    s0 = ({ s with agenda := l } : State).pass n → s0.chooseSplit pair q = some a → s0.splitOf a = some (t, r, x) → t.frozen = none →
    s1 = (s0.makeCurrent pair q a).untilPass pair q a → s1.watchdogDue pair q = false → s1.fetchCur = (s2, some i) →
    (s2.partners i pair q a = [] → s0.startOf (exec i s2) ≤ s0.gt → step s = onNext (exec i s2) (fun u => answer u.settle)) ∧
    (∀ ps y stopped, s2.partners i pair q a = ps → ps ≠ [] →
      runTandem i pair q s2.gt a (s2.rod pair q) (fusedStarts (fusedStart ps) 0 ps) s2 = .next (y, stopped) → fusedStart ps ≤ s0.gt → y.hole = none →
      step s = answer (({ y with gt := fusedStart ps, cur := a }.putRod pair q { y.rod pair q with
        cur := if stopped then (y.rod pair q).cur else some a
        watch := if stopped then (y.rod pair q).watch else (s2.rod pair q).watch + (fusedEnd ps - (s2.rod pair q).earliest)
        earliest := fusedEnd ps
        doneAt := fusedEnd ps }).settle))) ∧
  (∀ (s s0 : State) (n pair q : Nat) (l : List Turn) (now : Nat) (o : Host.Outcome State Fault Refusal), s.agenda = ⟨n, .rod pair q⟩ :: l →
    s0 = ({ s with agenda := l } : State).pass n → s0.rodNext pair q = some (now, o) → s0.gt < now → s0.hole = none →
    (s0.issues.any (fun e => decide (e.1 < now)) = true → step s = answer s0.settle) ∧
    (∀ b p, s0.issues.any (fun e => decide (e.1 < now)) = false → (s0.elapse now).rodNext pair q = some (b, p) → b ≤ (s0.elapse now).gt →
      step s = onNext p (fun u => answer u.settle))) ∧
  (∀ (s s0 : State) (n pair layer : Nat) (l : List Turn) (now : Nat) (o : Host.Outcome State Fault Refusal), s.agenda = ⟨n, .ctl pair layer⟩ :: l →
    s0 = ({ s with agenda := l } : State).pass n → s0.coreNext pair layer = some (now, o) → now ≤ s0.gt → step s = onNext o (fun u => answer u.settle)) ∧
  (∀ (s : State) (pair layer now : Nat) (o : Host.Outcome State Fault Refusal), s.coreNext pair layer = some (now, o) →
    (∃ t ∈ s.readyCtls pair layer, s.ctlNext t = some (now, o)) ∧ ∀ t ∈ s.readyCtls pair layer, ∀ m p, s.ctlNext t = some (m, p) → now ≤ m) ∧
  (∀ (s s2 : State) (t : Team) (i : Instr) (o : Host.Outcome State Fault Refusal), t.frozen = none →
    (({ s with cur := .ctl t.uid, gt := max s.gt (max t.ctl.earliest (tabGet 0 (s.pair t.pair).nextCtl t.layer)) } : State).putTeam
      { t with ctl := { t.ctl with wait := .none } }).fetchCur = (s2, some i) →
    o = onNext (exec i s2) (fun u => answer (u.ctlTurned t.pair t.layer t.slot t.uid)) → s.ctlNext t = some (s.startOf o, o)) ∧
  (∀ (s : State) (n : Nat) (l : List Turn) (i : Instr), s.agenda = ⟨n, .event i⟩ :: l → encode i = [] → wellFormed i = true →
    step s = onNext (exec i (({ s with agenda := l } : State).pass n)) (fun t => answer t.settle)) ∧
  (∀ (s s1 : State) (f : Foc) (p : Page) (c : Copy) (i : Instr), focus s = some f → s.fetchPage f.t.req f.x.pc.toNat = (s1, .ok p) →
    s1.copyFor (.icache f.t.pair) (p.base + p.off) 8 = some c → decode ((c.data.drop (p.base + p.off - c.pa)).take 8) = some (i, []) →
    ¬ ((∃ w, i = .unassignedOpcodeWord w ∧ w.extractLsb' 54 10 = 0x064#10)) → s.fetchCur = (s1, some i)) ∧
  (∀ (s s1 : State) (t : Team) (p : Page) (c : Copy) (i : Instr), focus s = none → s.ctlTeam = some t → s.fetchPage t.req t.ctl.pc.toNat = (s1, .ok p) →
    s1.copyFor (.icache t.pair) (p.base + p.off) 8 = some c → decode ((c.data.drop (p.base + p.off - c.pa)).take 8) = some (i, []) →
    ¬ ((∃ w, i = .unassignedOpcodeWord w ∧ w.extractLsb' 54 10 = 0x064#10)) → s.fetchCur = (s1, some i)) ∧
  (∀ (s s1 s2 : State) (f : Foc) (p p' : Page) (c c' : Copy) (w : FWord) (x : XWord), focus s = some f → s.fetchPage f.t.req f.x.pc.toNat = (s1, .ok p) →
    s1.copyFor (.icache f.t.pair) (p.base + p.off) 8 = some c → s1.fetchPage f.t.req (f.x.pc.toNat + 8) = (s2, .ok p') →
    s2.copyFor (.icache f.t.pair) (p'.base + p'.off) 8 = some c' →
    decode ((c.data.drop (p.base + p.off - c.pa)).take 8 ++ (c'.data.drop (p'.base + p'.off - c'.pa)).take 8) = some (.ffma4 w x, []) →
    s.fetchCur = (s2, some (.ffma4 w x)))

/-- The frame of memory for every instruction that stores nothing (R106, R111). -/
def Obligations.OthersLeaveMemory : Prop :=
  ∀ (i : Instr) (s t : State), mayWriteMemory i = false → exec i s = .next t → ∀ x, t.byteAt x = s.byteAt x
end

