-- ==== Sys2Proof/Laws/State.lean ====
section
/-! SUPPORT. What each update of the state does to each field: one lemma per field per update, true by definition. -/

namespace Sys2Proof.Machine

@[simp] theorem State.putTeam_gt (s : State) (t : Team) : (s.putTeam t).gt = s.gt := rfl
@[simp] theorem State.putTeam_board (s : State) (t : Team) : (s.putTeam t).board = s.board := rfl
@[simp] theorem State.putTeam_boot (s : State) (t : Team) : (s.putTeam t).boot = s.boot := rfl
@[simp] theorem State.putTeam_power (s : State) (t : Team) : (s.putTeam t).power = s.power := rfl
@[simp] theorem State.putTeam_mem (s : State) (t : Team) : (s.putTeam t).mem = s.mem := rfl
@[simp] theorem State.putTeam_poison (s : State) (t : Team) : (s.putTeam t).poison = s.poison := rfl
@[simp] theorem State.putTeam_flaws (s : State) (t : Team) : (s.putTeam t).flaws = s.flaws := rfl
@[simp] theorem State.putTeam_lines (s : State) (t : Team) : (s.putTeam t).lines = s.lines := rfl
@[simp] theorem State.putTeam_sets (s : State) (t : Team) : (s.putTeam t).sets = s.sets := rfl
@[simp] theorem State.putTeam_slices (s : State) (t : Team) : (s.putTeam t).slices = s.slices := rfl
@[simp] theorem State.putTeam_copies (s : State) (t : Team) : (s.putTeam t).copies = s.copies := rfl
@[simp] theorem State.putTeam_tlbs (s : State) (t : Team) : (s.putTeam t).tlbs = s.tlbs := rfl
@[simp] theorem State.putTeam_clusterTlbs (s : State) (t : Team) : (s.putTeam t).clusterTlbs = s.clusterTlbs := rfl
@[simp] theorem State.putTeam_lockRanges (s : State) (t : Team) : (s.putTeam t).lockRanges = s.lockRanges := rfl
@[simp] theorem State.putTeam_invalidates (s : State) (t : Team) : (s.putTeam t).invalidates = s.invalidates := rfl
@[simp] theorem State.putTeam_accesses (s : State) (t : Team) : (s.putTeam t).accesses = s.accesses := rfl
@[simp] theorem State.putTeam_deposits (s : State) (t : Team) : (s.putTeam t).deposits = s.deposits := rfl
@[simp] theorem State.putTeam_appends (s : State) (t : Team) : (s.putTeam t).appends = s.appends := rfl
@[simp] theorem State.putTeam_filters (s : State) (t : Team) : (s.putTeam t).filters = s.filters := rfl
@[simp] theorem State.putTeam_pairs (s : State) (t : Team) : (s.putTeam t).pairs = s.pairs := rfl
@[simp] theorem State.putTeam_engines (s : State) (t : Team) : (s.putTeam t).engines = s.engines := rfl
@[simp] theorem State.putTeam_ops (s : State) (t : Team) : (s.putTeam t).ops = s.ops := rfl
@[simp] theorem State.putTeam_islands (s : State) (t : Team) : (s.putTeam t).islands = s.islands := rfl
@[simp] theorem State.putTeam_blends (s : State) (t : Team) : (s.putTeam t).blends = s.blends := rfl
@[simp] theorem State.putTeam_teams (s : State) (t : Team) : (s.putTeam t).teams = s.teams.map (fun u => if u.uid = t.uid then t else u) := rfl
@[simp] theorem State.putTeam_grids (s : State) (t : Team) : (s.putTeam t).grids = s.grids := rfl
@[simp] theorem State.putTeam_reckoner (s : State) (t : Team) : (s.putTeam t).reckoner = s.reckoner := rfl
@[simp] theorem State.putTeam_ctxs (s : State) (t : Team) : (s.putTeam t).ctxs = s.ctxs := rfl
@[simp] theorem State.putTeam_windows (s : State) (t : Team) : (s.putTeam t).windows = s.windows := rfl
@[simp] theorem State.putTeam_ports (s : State) (t : Team) : (s.putTeam t).ports = s.ports := rfl
@[simp] theorem State.putTeam_msix (s : State) (t : Team) : (s.putTeam t).msix = s.msix := rfl
@[simp] theorem State.putTeam_cores (s : State) (t : Team) : (s.putTeam t).cores = s.cores := rfl
@[simp] theorem State.putTeam_faults (s : State) (t : Team) : (s.putTeam t).faults = s.faults := rfl
@[simp] theorem State.putTeam_gridIds (s : State) (t : Team) : (s.putTeam t).gridIds = s.gridIds := rfl
@[simp] theorem State.putTeam_nextId (s : State) (t : Team) : (s.putTeam t).nextId = s.nextId := rfl
@[simp] theorem State.putTeam_agenda (s : State) (t : Team) : (s.putTeam t).agenda = s.agenda := rfl
@[simp] theorem State.putTeam_cur (s : State) (t : Team) : (s.putTeam t).cur = s.cur := rfl
@[simp] theorem State.putTeam_free (s : State) (t : Team) : (s.putTeam t).free = s.free := rfl
@[simp] theorem State.putTeam_migWaits (s : State) (t : Team) : (s.putTeam t).migWaits = s.migWaits := rfl
@[simp] theorem State.putTeam_unflushed (s : State) (t : Team) : (s.putTeam t).unflushed = s.unflushed := rfl
@[simp] theorem State.putTeam_order (s : State) (t : Team) : (s.putTeam t).order = s.order := rfl
@[simp] theorem State.putTeam_hole (s : State) (t : Team) : (s.putTeam t).hole = s.hole := rfl

@[simp] theorem State.putPair_gt (s : State) (p : Nat) (v : Pair) : (s.putPair p v).gt = s.gt := rfl
@[simp] theorem State.putPair_board (s : State) (p : Nat) (v : Pair) : (s.putPair p v).board = s.board := rfl
@[simp] theorem State.putPair_boot (s : State) (p : Nat) (v : Pair) : (s.putPair p v).boot = s.boot := rfl
@[simp] theorem State.putPair_power (s : State) (p : Nat) (v : Pair) : (s.putPair p v).power = s.power := rfl
@[simp] theorem State.putPair_mem (s : State) (p : Nat) (v : Pair) : (s.putPair p v).mem = s.mem := rfl
@[simp] theorem State.putPair_poison (s : State) (p : Nat) (v : Pair) : (s.putPair p v).poison = s.poison := rfl
@[simp] theorem State.putPair_flaws (s : State) (p : Nat) (v : Pair) : (s.putPair p v).flaws = s.flaws := rfl
@[simp] theorem State.putPair_lines (s : State) (p : Nat) (v : Pair) : (s.putPair p v).lines = s.lines := rfl
@[simp] theorem State.putPair_sets (s : State) (p : Nat) (v : Pair) : (s.putPair p v).sets = s.sets := rfl
@[simp] theorem State.putPair_slices (s : State) (p : Nat) (v : Pair) : (s.putPair p v).slices = s.slices := rfl
@[simp] theorem State.putPair_copies (s : State) (p : Nat) (v : Pair) : (s.putPair p v).copies = s.copies := rfl
@[simp] theorem State.putPair_tlbs (s : State) (p : Nat) (v : Pair) : (s.putPair p v).tlbs = s.tlbs := rfl
@[simp] theorem State.putPair_clusterTlbs (s : State) (p : Nat) (v : Pair) : (s.putPair p v).clusterTlbs = s.clusterTlbs := rfl
@[simp] theorem State.putPair_lockRanges (s : State) (p : Nat) (v : Pair) : (s.putPair p v).lockRanges = s.lockRanges := rfl
@[simp] theorem State.putPair_invalidates (s : State) (p : Nat) (v : Pair) : (s.putPair p v).invalidates = s.invalidates := rfl
@[simp] theorem State.putPair_accesses (s : State) (p : Nat) (v : Pair) : (s.putPair p v).accesses = s.accesses := rfl
@[simp] theorem State.putPair_deposits (s : State) (p : Nat) (v : Pair) : (s.putPair p v).deposits = s.deposits := rfl
@[simp] theorem State.putPair_appends (s : State) (p : Nat) (v : Pair) : (s.putPair p v).appends = s.appends := rfl
@[simp] theorem State.putPair_filters (s : State) (p : Nat) (v : Pair) : (s.putPair p v).filters = s.filters := rfl
@[simp] theorem State.putPair_pairs (s : State) (p : Nat) (v : Pair) : (s.putPair p v).pairs = tabPut Pair.idle s.pairs p v := rfl
@[simp] theorem State.putPair_engines (s : State) (p : Nat) (v : Pair) : (s.putPair p v).engines = s.engines := rfl
@[simp] theorem State.putPair_ops (s : State) (p : Nat) (v : Pair) : (s.putPair p v).ops = s.ops := rfl
@[simp] theorem State.putPair_islands (s : State) (p : Nat) (v : Pair) : (s.putPair p v).islands = s.islands := rfl
@[simp] theorem State.putPair_blends (s : State) (p : Nat) (v : Pair) : (s.putPair p v).blends = s.blends := rfl
@[simp] theorem State.putPair_teams (s : State) (p : Nat) (v : Pair) : (s.putPair p v).teams = s.teams := rfl
@[simp] theorem State.putPair_grids (s : State) (p : Nat) (v : Pair) : (s.putPair p v).grids = s.grids := rfl
@[simp] theorem State.putPair_reckoner (s : State) (p : Nat) (v : Pair) : (s.putPair p v).reckoner = s.reckoner := rfl
@[simp] theorem State.putPair_ctxs (s : State) (p : Nat) (v : Pair) : (s.putPair p v).ctxs = s.ctxs := rfl
@[simp] theorem State.putPair_windows (s : State) (p : Nat) (v : Pair) : (s.putPair p v).windows = s.windows := rfl
@[simp] theorem State.putPair_ports (s : State) (p : Nat) (v : Pair) : (s.putPair p v).ports = s.ports := rfl
@[simp] theorem State.putPair_msix (s : State) (p : Nat) (v : Pair) : (s.putPair p v).msix = s.msix := rfl
@[simp] theorem State.putPair_cores (s : State) (p : Nat) (v : Pair) : (s.putPair p v).cores = s.cores := rfl
@[simp] theorem State.putPair_faults (s : State) (p : Nat) (v : Pair) : (s.putPair p v).faults = s.faults := rfl
@[simp] theorem State.putPair_gridIds (s : State) (p : Nat) (v : Pair) : (s.putPair p v).gridIds = s.gridIds := rfl
@[simp] theorem State.putPair_nextId (s : State) (p : Nat) (v : Pair) : (s.putPair p v).nextId = s.nextId := rfl
@[simp] theorem State.putPair_agenda (s : State) (p : Nat) (v : Pair) : (s.putPair p v).agenda = s.agenda := rfl
@[simp] theorem State.putPair_cur (s : State) (p : Nat) (v : Pair) : (s.putPair p v).cur = s.cur := rfl
@[simp] theorem State.putPair_free (s : State) (p : Nat) (v : Pair) : (s.putPair p v).free = s.free := rfl
@[simp] theorem State.putPair_migWaits (s : State) (p : Nat) (v : Pair) : (s.putPair p v).migWaits = s.migWaits := rfl
@[simp] theorem State.putPair_unflushed (s : State) (p : Nat) (v : Pair) : (s.putPair p v).unflushed = s.unflushed := rfl
@[simp] theorem State.putPair_order (s : State) (p : Nat) (v : Pair) : (s.putPair p v).order = s.order := rfl
@[simp] theorem State.putPair_hole (s : State) (p : Nat) (v : Pair) : (s.putPair p v).hole = s.hole := rfl

@[simp] theorem State.putRod_gt (s : State) (p q : Nat) (v : Rod) : (s.putRod p q v).gt = s.gt := rfl
@[simp] theorem State.putRod_board (s : State) (p q : Nat) (v : Rod) : (s.putRod p q v).board = s.board := rfl
@[simp] theorem State.putRod_boot (s : State) (p q : Nat) (v : Rod) : (s.putRod p q v).boot = s.boot := rfl
@[simp] theorem State.putRod_power (s : State) (p q : Nat) (v : Rod) : (s.putRod p q v).power = s.power := rfl
@[simp] theorem State.putRod_mem (s : State) (p q : Nat) (v : Rod) : (s.putRod p q v).mem = s.mem := rfl
@[simp] theorem State.putRod_poison (s : State) (p q : Nat) (v : Rod) : (s.putRod p q v).poison = s.poison := rfl
@[simp] theorem State.putRod_flaws (s : State) (p q : Nat) (v : Rod) : (s.putRod p q v).flaws = s.flaws := rfl
@[simp] theorem State.putRod_lines (s : State) (p q : Nat) (v : Rod) : (s.putRod p q v).lines = s.lines := rfl
@[simp] theorem State.putRod_sets (s : State) (p q : Nat) (v : Rod) : (s.putRod p q v).sets = s.sets := rfl
@[simp] theorem State.putRod_slices (s : State) (p q : Nat) (v : Rod) : (s.putRod p q v).slices = s.slices := rfl
@[simp] theorem State.putRod_copies (s : State) (p q : Nat) (v : Rod) : (s.putRod p q v).copies = s.copies := rfl
@[simp] theorem State.putRod_tlbs (s : State) (p q : Nat) (v : Rod) : (s.putRod p q v).tlbs = s.tlbs := rfl
@[simp] theorem State.putRod_clusterTlbs (s : State) (p q : Nat) (v : Rod) : (s.putRod p q v).clusterTlbs = s.clusterTlbs := rfl
@[simp] theorem State.putRod_lockRanges (s : State) (p q : Nat) (v : Rod) : (s.putRod p q v).lockRanges = s.lockRanges := rfl
@[simp] theorem State.putRod_invalidates (s : State) (p q : Nat) (v : Rod) : (s.putRod p q v).invalidates = s.invalidates := rfl
@[simp] theorem State.putRod_accesses (s : State) (p q : Nat) (v : Rod) : (s.putRod p q v).accesses = s.accesses := rfl
@[simp] theorem State.putRod_deposits (s : State) (p q : Nat) (v : Rod) : (s.putRod p q v).deposits = s.deposits := rfl
@[simp] theorem State.putRod_appends (s : State) (p q : Nat) (v : Rod) : (s.putRod p q v).appends = s.appends := rfl
@[simp] theorem State.putRod_filters (s : State) (p q : Nat) (v : Rod) : (s.putRod p q v).filters = s.filters := rfl
@[simp] theorem State.putRod_pairs (s : State) (p q : Nat) (v : Rod) : (s.putRod p q v).pairs = tabPut Pair.idle s.pairs p { s.pair p with rods := tabPut Rod.idle (s.pair p).rods q v } := rfl
@[simp] theorem State.putRod_engines (s : State) (p q : Nat) (v : Rod) : (s.putRod p q v).engines = s.engines := rfl
@[simp] theorem State.putRod_ops (s : State) (p q : Nat) (v : Rod) : (s.putRod p q v).ops = s.ops := rfl
@[simp] theorem State.putRod_islands (s : State) (p q : Nat) (v : Rod) : (s.putRod p q v).islands = s.islands := rfl
@[simp] theorem State.putRod_blends (s : State) (p q : Nat) (v : Rod) : (s.putRod p q v).blends = s.blends := rfl
@[simp] theorem State.putRod_teams (s : State) (p q : Nat) (v : Rod) : (s.putRod p q v).teams = s.teams := rfl
@[simp] theorem State.putRod_grids (s : State) (p q : Nat) (v : Rod) : (s.putRod p q v).grids = s.grids := rfl
@[simp] theorem State.putRod_reckoner (s : State) (p q : Nat) (v : Rod) : (s.putRod p q v).reckoner = s.reckoner := rfl
@[simp] theorem State.putRod_ctxs (s : State) (p q : Nat) (v : Rod) : (s.putRod p q v).ctxs = s.ctxs := rfl
@[simp] theorem State.putRod_windows (s : State) (p q : Nat) (v : Rod) : (s.putRod p q v).windows = s.windows := rfl
@[simp] theorem State.putRod_ports (s : State) (p q : Nat) (v : Rod) : (s.putRod p q v).ports = s.ports := rfl
@[simp] theorem State.putRod_msix (s : State) (p q : Nat) (v : Rod) : (s.putRod p q v).msix = s.msix := rfl
@[simp] theorem State.putRod_cores (s : State) (p q : Nat) (v : Rod) : (s.putRod p q v).cores = s.cores := rfl
@[simp] theorem State.putRod_faults (s : State) (p q : Nat) (v : Rod) : (s.putRod p q v).faults = s.faults := rfl
@[simp] theorem State.putRod_gridIds (s : State) (p q : Nat) (v : Rod) : (s.putRod p q v).gridIds = s.gridIds := rfl
@[simp] theorem State.putRod_nextId (s : State) (p q : Nat) (v : Rod) : (s.putRod p q v).nextId = s.nextId := rfl
@[simp] theorem State.putRod_agenda (s : State) (p q : Nat) (v : Rod) : (s.putRod p q v).agenda = s.agenda := rfl
@[simp] theorem State.putRod_cur (s : State) (p q : Nat) (v : Rod) : (s.putRod p q v).cur = s.cur := rfl
@[simp] theorem State.putRod_free (s : State) (p q : Nat) (v : Rod) : (s.putRod p q v).free = s.free := rfl
@[simp] theorem State.putRod_migWaits (s : State) (p q : Nat) (v : Rod) : (s.putRod p q v).migWaits = s.migWaits := rfl
@[simp] theorem State.putRod_unflushed (s : State) (p q : Nat) (v : Rod) : (s.putRod p q v).unflushed = s.unflushed := rfl
@[simp] theorem State.putRod_order (s : State) (p q : Nat) (v : Rod) : (s.putRod p q v).order = s.order := rfl
@[simp] theorem State.putRod_hole (s : State) (p q : Nat) (v : Rod) : (s.putRod p q v).hole = s.hole := rfl

@[simp] theorem State.putGrid_gt (s : State) (g : Grid) : (s.putGrid g).gt = s.gt := rfl
@[simp] theorem State.putGrid_board (s : State) (g : Grid) : (s.putGrid g).board = s.board := rfl
@[simp] theorem State.putGrid_boot (s : State) (g : Grid) : (s.putGrid g).boot = s.boot := rfl
@[simp] theorem State.putGrid_power (s : State) (g : Grid) : (s.putGrid g).power = s.power := rfl
@[simp] theorem State.putGrid_mem (s : State) (g : Grid) : (s.putGrid g).mem = s.mem := rfl
@[simp] theorem State.putGrid_poison (s : State) (g : Grid) : (s.putGrid g).poison = s.poison := rfl
@[simp] theorem State.putGrid_flaws (s : State) (g : Grid) : (s.putGrid g).flaws = s.flaws := rfl
@[simp] theorem State.putGrid_lines (s : State) (g : Grid) : (s.putGrid g).lines = s.lines := rfl
@[simp] theorem State.putGrid_sets (s : State) (g : Grid) : (s.putGrid g).sets = s.sets := rfl
@[simp] theorem State.putGrid_slices (s : State) (g : Grid) : (s.putGrid g).slices = s.slices := rfl
@[simp] theorem State.putGrid_copies (s : State) (g : Grid) : (s.putGrid g).copies = s.copies := rfl
@[simp] theorem State.putGrid_tlbs (s : State) (g : Grid) : (s.putGrid g).tlbs = s.tlbs := rfl
@[simp] theorem State.putGrid_clusterTlbs (s : State) (g : Grid) : (s.putGrid g).clusterTlbs = s.clusterTlbs := rfl
@[simp] theorem State.putGrid_lockRanges (s : State) (g : Grid) : (s.putGrid g).lockRanges = s.lockRanges := rfl
@[simp] theorem State.putGrid_invalidates (s : State) (g : Grid) : (s.putGrid g).invalidates = s.invalidates := rfl
@[simp] theorem State.putGrid_accesses (s : State) (g : Grid) : (s.putGrid g).accesses = s.accesses := rfl
@[simp] theorem State.putGrid_deposits (s : State) (g : Grid) : (s.putGrid g).deposits = s.deposits := rfl
@[simp] theorem State.putGrid_appends (s : State) (g : Grid) : (s.putGrid g).appends = s.appends := rfl
@[simp] theorem State.putGrid_filters (s : State) (g : Grid) : (s.putGrid g).filters = s.filters := rfl
@[simp] theorem State.putGrid_pairs (s : State) (g : Grid) : (s.putGrid g).pairs = s.pairs := rfl
@[simp] theorem State.putGrid_engines (s : State) (g : Grid) : (s.putGrid g).engines = s.engines := rfl
@[simp] theorem State.putGrid_ops (s : State) (g : Grid) : (s.putGrid g).ops = s.ops := rfl
@[simp] theorem State.putGrid_islands (s : State) (g : Grid) : (s.putGrid g).islands = s.islands := rfl
@[simp] theorem State.putGrid_blends (s : State) (g : Grid) : (s.putGrid g).blends = s.blends := rfl
@[simp] theorem State.putGrid_teams (s : State) (g : Grid) : (s.putGrid g).teams = s.teams := rfl
@[simp] theorem State.putGrid_grids (s : State) (g : Grid) : (s.putGrid g).grids = s.grids.map (fun h => if h.id = g.id then g else h) := rfl
@[simp] theorem State.putGrid_reckoner (s : State) (g : Grid) : (s.putGrid g).reckoner = s.reckoner := rfl
@[simp] theorem State.putGrid_ctxs (s : State) (g : Grid) : (s.putGrid g).ctxs = s.ctxs := rfl
@[simp] theorem State.putGrid_windows (s : State) (g : Grid) : (s.putGrid g).windows = s.windows := rfl
@[simp] theorem State.putGrid_ports (s : State) (g : Grid) : (s.putGrid g).ports = s.ports := rfl
@[simp] theorem State.putGrid_msix (s : State) (g : Grid) : (s.putGrid g).msix = s.msix := rfl
@[simp] theorem State.putGrid_cores (s : State) (g : Grid) : (s.putGrid g).cores = s.cores := rfl
@[simp] theorem State.putGrid_faults (s : State) (g : Grid) : (s.putGrid g).faults = s.faults := rfl
@[simp] theorem State.putGrid_gridIds (s : State) (g : Grid) : (s.putGrid g).gridIds = s.gridIds := rfl
@[simp] theorem State.putGrid_nextId (s : State) (g : Grid) : (s.putGrid g).nextId = s.nextId := rfl
@[simp] theorem State.putGrid_agenda (s : State) (g : Grid) : (s.putGrid g).agenda = s.agenda := rfl
@[simp] theorem State.putGrid_cur (s : State) (g : Grid) : (s.putGrid g).cur = s.cur := rfl
@[simp] theorem State.putGrid_free (s : State) (g : Grid) : (s.putGrid g).free = s.free := rfl
@[simp] theorem State.putGrid_migWaits (s : State) (g : Grid) : (s.putGrid g).migWaits = s.migWaits := rfl
@[simp] theorem State.putGrid_unflushed (s : State) (g : Grid) : (s.putGrid g).unflushed = s.unflushed := rfl
@[simp] theorem State.putGrid_order (s : State) (g : Grid) : (s.putGrid g).order = s.order := rfl
@[simp] theorem State.putGrid_hole (s : State) (g : Grid) : (s.putGrid g).hole = s.hole := rfl

@[simp] theorem State.putCtx_gt (s : State) (n : Nat) (c : Ctx) : (s.putCtx n c).gt = s.gt := rfl
@[simp] theorem State.putCtx_board (s : State) (n : Nat) (c : Ctx) : (s.putCtx n c).board = s.board := rfl
@[simp] theorem State.putCtx_boot (s : State) (n : Nat) (c : Ctx) : (s.putCtx n c).boot = s.boot := rfl
@[simp] theorem State.putCtx_power (s : State) (n : Nat) (c : Ctx) : (s.putCtx n c).power = s.power := rfl
@[simp] theorem State.putCtx_mem (s : State) (n : Nat) (c : Ctx) : (s.putCtx n c).mem = s.mem := rfl
@[simp] theorem State.putCtx_poison (s : State) (n : Nat) (c : Ctx) : (s.putCtx n c).poison = s.poison := rfl
@[simp] theorem State.putCtx_flaws (s : State) (n : Nat) (c : Ctx) : (s.putCtx n c).flaws = s.flaws := rfl
@[simp] theorem State.putCtx_lines (s : State) (n : Nat) (c : Ctx) : (s.putCtx n c).lines = s.lines := rfl
@[simp] theorem State.putCtx_sets (s : State) (n : Nat) (c : Ctx) : (s.putCtx n c).sets = s.sets := rfl
@[simp] theorem State.putCtx_slices (s : State) (n : Nat) (c : Ctx) : (s.putCtx n c).slices = s.slices := rfl
@[simp] theorem State.putCtx_copies (s : State) (n : Nat) (c : Ctx) : (s.putCtx n c).copies = s.copies := rfl
@[simp] theorem State.putCtx_tlbs (s : State) (n : Nat) (c : Ctx) : (s.putCtx n c).tlbs = s.tlbs := rfl
@[simp] theorem State.putCtx_clusterTlbs (s : State) (n : Nat) (c : Ctx) : (s.putCtx n c).clusterTlbs = s.clusterTlbs := rfl
@[simp] theorem State.putCtx_lockRanges (s : State) (n : Nat) (c : Ctx) : (s.putCtx n c).lockRanges = s.lockRanges := rfl
@[simp] theorem State.putCtx_invalidates (s : State) (n : Nat) (c : Ctx) : (s.putCtx n c).invalidates = s.invalidates := rfl
@[simp] theorem State.putCtx_accesses (s : State) (n : Nat) (c : Ctx) : (s.putCtx n c).accesses = s.accesses := rfl
@[simp] theorem State.putCtx_deposits (s : State) (n : Nat) (c : Ctx) : (s.putCtx n c).deposits = s.deposits := rfl
@[simp] theorem State.putCtx_appends (s : State) (n : Nat) (c : Ctx) : (s.putCtx n c).appends = s.appends := rfl
@[simp] theorem State.putCtx_filters (s : State) (n : Nat) (c : Ctx) : (s.putCtx n c).filters = s.filters := rfl
@[simp] theorem State.putCtx_pairs (s : State) (n : Nat) (c : Ctx) : (s.putCtx n c).pairs = s.pairs := rfl
@[simp] theorem State.putCtx_engines (s : State) (n : Nat) (c : Ctx) : (s.putCtx n c).engines = s.engines := rfl
@[simp] theorem State.putCtx_ops (s : State) (n : Nat) (c : Ctx) : (s.putCtx n c).ops = s.ops := rfl
@[simp] theorem State.putCtx_islands (s : State) (n : Nat) (c : Ctx) : (s.putCtx n c).islands = s.islands := rfl
@[simp] theorem State.putCtx_blends (s : State) (n : Nat) (c : Ctx) : (s.putCtx n c).blends = s.blends := rfl
@[simp] theorem State.putCtx_teams (s : State) (n : Nat) (c : Ctx) : (s.putCtx n c).teams = s.teams := rfl
@[simp] theorem State.putCtx_grids (s : State) (n : Nat) (c : Ctx) : (s.putCtx n c).grids = s.grids := rfl
@[simp] theorem State.putCtx_reckoner (s : State) (n : Nat) (c : Ctx) : (s.putCtx n c).reckoner = s.reckoner := rfl
@[simp] theorem State.putCtx_ctxs (s : State) (n : Nat) (c : Ctx) : (s.putCtx n c).ctxs = tabPut none s.ctxs n (some c) := rfl
@[simp] theorem State.putCtx_windows (s : State) (n : Nat) (c : Ctx) : (s.putCtx n c).windows = s.windows := rfl
@[simp] theorem State.putCtx_ports (s : State) (n : Nat) (c : Ctx) : (s.putCtx n c).ports = s.ports := rfl
@[simp] theorem State.putCtx_msix (s : State) (n : Nat) (c : Ctx) : (s.putCtx n c).msix = s.msix := rfl
@[simp] theorem State.putCtx_cores (s : State) (n : Nat) (c : Ctx) : (s.putCtx n c).cores = s.cores := rfl
@[simp] theorem State.putCtx_faults (s : State) (n : Nat) (c : Ctx) : (s.putCtx n c).faults = s.faults := rfl
@[simp] theorem State.putCtx_gridIds (s : State) (n : Nat) (c : Ctx) : (s.putCtx n c).gridIds = s.gridIds := rfl
@[simp] theorem State.putCtx_nextId (s : State) (n : Nat) (c : Ctx) : (s.putCtx n c).nextId = s.nextId := rfl
@[simp] theorem State.putCtx_agenda (s : State) (n : Nat) (c : Ctx) : (s.putCtx n c).agenda = s.agenda := rfl
@[simp] theorem State.putCtx_cur (s : State) (n : Nat) (c : Ctx) : (s.putCtx n c).cur = s.cur := rfl
@[simp] theorem State.putCtx_free (s : State) (n : Nat) (c : Ctx) : (s.putCtx n c).free = s.free := rfl
@[simp] theorem State.putCtx_migWaits (s : State) (n : Nat) (c : Ctx) : (s.putCtx n c).migWaits = s.migWaits := rfl
@[simp] theorem State.putCtx_unflushed (s : State) (n : Nat) (c : Ctx) : (s.putCtx n c).unflushed = s.unflushed := rfl
@[simp] theorem State.putCtx_order (s : State) (n : Nat) (c : Ctx) : (s.putCtx n c).order = s.order := rfl
@[simp] theorem State.putCtx_hole (s : State) (n : Nat) (c : Ctx) : (s.putCtx n c).hole = s.hole := rfl

@[simp] theorem State.modCore_gt (s : State) (n : Nat) (f : ServiceCore → ServiceCore) : (s.modCore n f).gt = s.gt := rfl
@[simp] theorem State.modCore_board (s : State) (n : Nat) (f : ServiceCore → ServiceCore) : (s.modCore n f).board = s.board := rfl
@[simp] theorem State.modCore_boot (s : State) (n : Nat) (f : ServiceCore → ServiceCore) : (s.modCore n f).boot = s.boot := rfl
@[simp] theorem State.modCore_power (s : State) (n : Nat) (f : ServiceCore → ServiceCore) : (s.modCore n f).power = s.power := rfl
@[simp] theorem State.modCore_mem (s : State) (n : Nat) (f : ServiceCore → ServiceCore) : (s.modCore n f).mem = s.mem := rfl
@[simp] theorem State.modCore_poison (s : State) (n : Nat) (f : ServiceCore → ServiceCore) : (s.modCore n f).poison = s.poison := rfl
@[simp] theorem State.modCore_flaws (s : State) (n : Nat) (f : ServiceCore → ServiceCore) : (s.modCore n f).flaws = s.flaws := rfl
@[simp] theorem State.modCore_lines (s : State) (n : Nat) (f : ServiceCore → ServiceCore) : (s.modCore n f).lines = s.lines := rfl
@[simp] theorem State.modCore_sets (s : State) (n : Nat) (f : ServiceCore → ServiceCore) : (s.modCore n f).sets = s.sets := rfl
@[simp] theorem State.modCore_slices (s : State) (n : Nat) (f : ServiceCore → ServiceCore) : (s.modCore n f).slices = s.slices := rfl
@[simp] theorem State.modCore_copies (s : State) (n : Nat) (f : ServiceCore → ServiceCore) : (s.modCore n f).copies = s.copies := rfl
@[simp] theorem State.modCore_tlbs (s : State) (n : Nat) (f : ServiceCore → ServiceCore) : (s.modCore n f).tlbs = s.tlbs := rfl
@[simp] theorem State.modCore_clusterTlbs (s : State) (n : Nat) (f : ServiceCore → ServiceCore) : (s.modCore n f).clusterTlbs = s.clusterTlbs := rfl
@[simp] theorem State.modCore_lockRanges (s : State) (n : Nat) (f : ServiceCore → ServiceCore) : (s.modCore n f).lockRanges = s.lockRanges := rfl
@[simp] theorem State.modCore_invalidates (s : State) (n : Nat) (f : ServiceCore → ServiceCore) : (s.modCore n f).invalidates = s.invalidates := rfl
@[simp] theorem State.modCore_accesses (s : State) (n : Nat) (f : ServiceCore → ServiceCore) : (s.modCore n f).accesses = s.accesses := rfl
@[simp] theorem State.modCore_deposits (s : State) (n : Nat) (f : ServiceCore → ServiceCore) : (s.modCore n f).deposits = s.deposits := rfl
@[simp] theorem State.modCore_appends (s : State) (n : Nat) (f : ServiceCore → ServiceCore) : (s.modCore n f).appends = s.appends := rfl
@[simp] theorem State.modCore_filters (s : State) (n : Nat) (f : ServiceCore → ServiceCore) : (s.modCore n f).filters = s.filters := rfl
@[simp] theorem State.modCore_pairs (s : State) (n : Nat) (f : ServiceCore → ServiceCore) : (s.modCore n f).pairs = s.pairs := rfl
@[simp] theorem State.modCore_engines (s : State) (n : Nat) (f : ServiceCore → ServiceCore) : (s.modCore n f).engines = s.engines := rfl
@[simp] theorem State.modCore_ops (s : State) (n : Nat) (f : ServiceCore → ServiceCore) : (s.modCore n f).ops = s.ops := rfl
@[simp] theorem State.modCore_islands (s : State) (n : Nat) (f : ServiceCore → ServiceCore) : (s.modCore n f).islands = s.islands := rfl
@[simp] theorem State.modCore_blends (s : State) (n : Nat) (f : ServiceCore → ServiceCore) : (s.modCore n f).blends = s.blends := rfl
@[simp] theorem State.modCore_teams (s : State) (n : Nat) (f : ServiceCore → ServiceCore) : (s.modCore n f).teams = s.teams := rfl
@[simp] theorem State.modCore_grids (s : State) (n : Nat) (f : ServiceCore → ServiceCore) : (s.modCore n f).grids = s.grids := rfl
@[simp] theorem State.modCore_reckoner (s : State) (n : Nat) (f : ServiceCore → ServiceCore) : (s.modCore n f).reckoner = s.reckoner := rfl
@[simp] theorem State.modCore_ctxs (s : State) (n : Nat) (f : ServiceCore → ServiceCore) : (s.modCore n f).ctxs = s.ctxs := rfl
@[simp] theorem State.modCore_windows (s : State) (n : Nat) (f : ServiceCore → ServiceCore) : (s.modCore n f).windows = s.windows := rfl
@[simp] theorem State.modCore_ports (s : State) (n : Nat) (f : ServiceCore → ServiceCore) : (s.modCore n f).ports = s.ports := rfl
@[simp] theorem State.modCore_msix (s : State) (n : Nat) (f : ServiceCore → ServiceCore) : (s.modCore n f).msix = s.msix := rfl
@[simp] theorem State.modCore_cores (s : State) (n : Nat) (f : ServiceCore → ServiceCore) : (s.modCore n f).cores = tabMod ServiceCore.empty s.cores n f := rfl
@[simp] theorem State.modCore_faults (s : State) (n : Nat) (f : ServiceCore → ServiceCore) : (s.modCore n f).faults = s.faults := rfl
@[simp] theorem State.modCore_gridIds (s : State) (n : Nat) (f : ServiceCore → ServiceCore) : (s.modCore n f).gridIds = s.gridIds := rfl
@[simp] theorem State.modCore_nextId (s : State) (n : Nat) (f : ServiceCore → ServiceCore) : (s.modCore n f).nextId = s.nextId := rfl
@[simp] theorem State.modCore_agenda (s : State) (n : Nat) (f : ServiceCore → ServiceCore) : (s.modCore n f).agenda = s.agenda := rfl
@[simp] theorem State.modCore_cur (s : State) (n : Nat) (f : ServiceCore → ServiceCore) : (s.modCore n f).cur = s.cur := rfl
@[simp] theorem State.modCore_free (s : State) (n : Nat) (f : ServiceCore → ServiceCore) : (s.modCore n f).free = s.free := rfl
@[simp] theorem State.modCore_migWaits (s : State) (n : Nat) (f : ServiceCore → ServiceCore) : (s.modCore n f).migWaits = s.migWaits := rfl
@[simp] theorem State.modCore_unflushed (s : State) (n : Nat) (f : ServiceCore → ServiceCore) : (s.modCore n f).unflushed = s.unflushed := rfl
@[simp] theorem State.modCore_order (s : State) (n : Nat) (f : ServiceCore → ServiceCore) : (s.modCore n f).order = s.order := rfl
@[simp] theorem State.modCore_hole (s : State) (n : Nat) (f : ServiceCore → ServiceCore) : (s.modCore n f).hole = s.hole := rfl

@[simp] theorem State.newId_gt (s : State) : (s.newId.2).gt = s.gt := rfl
@[simp] theorem State.newId_board (s : State) : (s.newId.2).board = s.board := rfl
@[simp] theorem State.newId_boot (s : State) : (s.newId.2).boot = s.boot := rfl
@[simp] theorem State.newId_power (s : State) : (s.newId.2).power = s.power := rfl
@[simp] theorem State.newId_mem (s : State) : (s.newId.2).mem = s.mem := rfl
@[simp] theorem State.newId_poison (s : State) : (s.newId.2).poison = s.poison := rfl
@[simp] theorem State.newId_flaws (s : State) : (s.newId.2).flaws = s.flaws := rfl
@[simp] theorem State.newId_lines (s : State) : (s.newId.2).lines = s.lines := rfl
@[simp] theorem State.newId_sets (s : State) : (s.newId.2).sets = s.sets := rfl
@[simp] theorem State.newId_slices (s : State) : (s.newId.2).slices = s.slices := rfl
@[simp] theorem State.newId_copies (s : State) : (s.newId.2).copies = s.copies := rfl
@[simp] theorem State.newId_tlbs (s : State) : (s.newId.2).tlbs = s.tlbs := rfl
@[simp] theorem State.newId_clusterTlbs (s : State) : (s.newId.2).clusterTlbs = s.clusterTlbs := rfl
@[simp] theorem State.newId_lockRanges (s : State) : (s.newId.2).lockRanges = s.lockRanges := rfl
@[simp] theorem State.newId_invalidates (s : State) : (s.newId.2).invalidates = s.invalidates := rfl
@[simp] theorem State.newId_accesses (s : State) : (s.newId.2).accesses = s.accesses := rfl
@[simp] theorem State.newId_deposits (s : State) : (s.newId.2).deposits = s.deposits := rfl
@[simp] theorem State.newId_appends (s : State) : (s.newId.2).appends = s.appends := rfl
@[simp] theorem State.newId_filters (s : State) : (s.newId.2).filters = s.filters := rfl
@[simp] theorem State.newId_pairs (s : State) : (s.newId.2).pairs = s.pairs := rfl
@[simp] theorem State.newId_engines (s : State) : (s.newId.2).engines = s.engines := rfl
@[simp] theorem State.newId_ops (s : State) : (s.newId.2).ops = s.ops := rfl
@[simp] theorem State.newId_islands (s : State) : (s.newId.2).islands = s.islands := rfl
@[simp] theorem State.newId_blends (s : State) : (s.newId.2).blends = s.blends := rfl
@[simp] theorem State.newId_teams (s : State) : (s.newId.2).teams = s.teams := rfl
@[simp] theorem State.newId_grids (s : State) : (s.newId.2).grids = s.grids := rfl
@[simp] theorem State.newId_reckoner (s : State) : (s.newId.2).reckoner = s.reckoner := rfl
@[simp] theorem State.newId_ctxs (s : State) : (s.newId.2).ctxs = s.ctxs := rfl
@[simp] theorem State.newId_windows (s : State) : (s.newId.2).windows = s.windows := rfl
@[simp] theorem State.newId_ports (s : State) : (s.newId.2).ports = s.ports := rfl
@[simp] theorem State.newId_msix (s : State) : (s.newId.2).msix = s.msix := rfl
@[simp] theorem State.newId_cores (s : State) : (s.newId.2).cores = s.cores := rfl
@[simp] theorem State.newId_faults (s : State) : (s.newId.2).faults = s.faults := rfl
@[simp] theorem State.newId_gridIds (s : State) : (s.newId.2).gridIds = s.gridIds := rfl
@[simp] theorem State.newId_nextId (s : State) : (s.newId.2).nextId = s.nextId + 1 := rfl
@[simp] theorem State.newId_agenda (s : State) : (s.newId.2).agenda = s.agenda := rfl
@[simp] theorem State.newId_cur (s : State) : (s.newId.2).cur = s.cur := rfl
@[simp] theorem State.newId_free (s : State) : (s.newId.2).free = s.free := rfl
@[simp] theorem State.newId_migWaits (s : State) : (s.newId.2).migWaits = s.migWaits := rfl
@[simp] theorem State.newId_unflushed (s : State) : (s.newId.2).unflushed = s.unflushed := rfl
@[simp] theorem State.newId_order (s : State) : (s.newId.2).order = s.order := rfl
@[simp] theorem State.newId_hole (s : State) : (s.newId.2).hole = s.hole := rfl

@[simp] theorem State.newFree_gt (s : State) : (s.newFree.2).gt = s.gt := rfl
@[simp] theorem State.newFree_board (s : State) : (s.newFree.2).board = s.board := rfl
@[simp] theorem State.newFree_boot (s : State) : (s.newFree.2).boot = s.boot := rfl
@[simp] theorem State.newFree_power (s : State) : (s.newFree.2).power = s.power := rfl
@[simp] theorem State.newFree_mem (s : State) : (s.newFree.2).mem = s.mem := rfl
@[simp] theorem State.newFree_poison (s : State) : (s.newFree.2).poison = s.poison := rfl
@[simp] theorem State.newFree_flaws (s : State) : (s.newFree.2).flaws = s.flaws := rfl
@[simp] theorem State.newFree_lines (s : State) : (s.newFree.2).lines = s.lines := rfl
@[simp] theorem State.newFree_sets (s : State) : (s.newFree.2).sets = s.sets := rfl
@[simp] theorem State.newFree_slices (s : State) : (s.newFree.2).slices = s.slices := rfl
@[simp] theorem State.newFree_copies (s : State) : (s.newFree.2).copies = s.copies := rfl
@[simp] theorem State.newFree_tlbs (s : State) : (s.newFree.2).tlbs = s.tlbs := rfl
@[simp] theorem State.newFree_clusterTlbs (s : State) : (s.newFree.2).clusterTlbs = s.clusterTlbs := rfl
@[simp] theorem State.newFree_lockRanges (s : State) : (s.newFree.2).lockRanges = s.lockRanges := rfl
@[simp] theorem State.newFree_invalidates (s : State) : (s.newFree.2).invalidates = s.invalidates := rfl
@[simp] theorem State.newFree_accesses (s : State) : (s.newFree.2).accesses = s.accesses := rfl
@[simp] theorem State.newFree_deposits (s : State) : (s.newFree.2).deposits = s.deposits := rfl
@[simp] theorem State.newFree_appends (s : State) : (s.newFree.2).appends = s.appends := rfl
@[simp] theorem State.newFree_filters (s : State) : (s.newFree.2).filters = s.filters := rfl
@[simp] theorem State.newFree_pairs (s : State) : (s.newFree.2).pairs = s.pairs := rfl
@[simp] theorem State.newFree_engines (s : State) : (s.newFree.2).engines = s.engines := rfl
@[simp] theorem State.newFree_ops (s : State) : (s.newFree.2).ops = s.ops := rfl
@[simp] theorem State.newFree_islands (s : State) : (s.newFree.2).islands = s.islands := rfl
@[simp] theorem State.newFree_blends (s : State) : (s.newFree.2).blends = s.blends := rfl
@[simp] theorem State.newFree_teams (s : State) : (s.newFree.2).teams = s.teams := rfl
@[simp] theorem State.newFree_grids (s : State) : (s.newFree.2).grids = s.grids := rfl
@[simp] theorem State.newFree_reckoner (s : State) : (s.newFree.2).reckoner = s.reckoner := rfl
@[simp] theorem State.newFree_ctxs (s : State) : (s.newFree.2).ctxs = s.ctxs := rfl
@[simp] theorem State.newFree_windows (s : State) : (s.newFree.2).windows = s.windows := rfl
@[simp] theorem State.newFree_ports (s : State) : (s.newFree.2).ports = s.ports := rfl
@[simp] theorem State.newFree_msix (s : State) : (s.newFree.2).msix = s.msix := rfl
@[simp] theorem State.newFree_cores (s : State) : (s.newFree.2).cores = s.cores := rfl
@[simp] theorem State.newFree_faults (s : State) : (s.newFree.2).faults = s.faults := rfl
@[simp] theorem State.newFree_gridIds (s : State) : (s.newFree.2).gridIds = s.gridIds := rfl
@[simp] theorem State.newFree_nextId (s : State) : (s.newFree.2).nextId = s.nextId := rfl
@[simp] theorem State.newFree_agenda (s : State) : (s.newFree.2).agenda = s.agenda := rfl
@[simp] theorem State.newFree_cur (s : State) : (s.newFree.2).cur = s.cur := rfl
@[simp] theorem State.newFree_free (s : State) : (s.newFree.2).free = s.free + 1 := rfl
@[simp] theorem State.newFree_migWaits (s : State) : (s.newFree.2).migWaits = s.migWaits := rfl
@[simp] theorem State.newFree_unflushed (s : State) : (s.newFree.2).unflushed = s.unflushed := rfl
@[simp] theorem State.newFree_order (s : State) : (s.newFree.2).order = s.order := rfl
@[simp] theorem State.newFree_hole (s : State) : (s.newFree.2).hole = s.hole := rfl

@[simp] theorem State.putAccess_gt (s : State) (a : Access) : (s.putAccess a).gt = s.gt := rfl
@[simp] theorem State.putAccess_board (s : State) (a : Access) : (s.putAccess a).board = s.board := rfl
@[simp] theorem State.putAccess_boot (s : State) (a : Access) : (s.putAccess a).boot = s.boot := rfl
@[simp] theorem State.putAccess_power (s : State) (a : Access) : (s.putAccess a).power = s.power := rfl
@[simp] theorem State.putAccess_mem (s : State) (a : Access) : (s.putAccess a).mem = s.mem := rfl
@[simp] theorem State.putAccess_poison (s : State) (a : Access) : (s.putAccess a).poison = s.poison := rfl
@[simp] theorem State.putAccess_flaws (s : State) (a : Access) : (s.putAccess a).flaws = s.flaws := rfl
@[simp] theorem State.putAccess_lines (s : State) (a : Access) : (s.putAccess a).lines = s.lines := rfl
@[simp] theorem State.putAccess_sets (s : State) (a : Access) : (s.putAccess a).sets = s.sets := rfl
@[simp] theorem State.putAccess_slices (s : State) (a : Access) : (s.putAccess a).slices = s.slices := rfl
@[simp] theorem State.putAccess_copies (s : State) (a : Access) : (s.putAccess a).copies = s.copies := rfl
@[simp] theorem State.putAccess_tlbs (s : State) (a : Access) : (s.putAccess a).tlbs = s.tlbs := rfl
@[simp] theorem State.putAccess_clusterTlbs (s : State) (a : Access) : (s.putAccess a).clusterTlbs = s.clusterTlbs := rfl
@[simp] theorem State.putAccess_lockRanges (s : State) (a : Access) : (s.putAccess a).lockRanges = s.lockRanges := rfl
@[simp] theorem State.putAccess_invalidates (s : State) (a : Access) : (s.putAccess a).invalidates = s.invalidates := rfl
@[simp] theorem State.putAccess_accesses (s : State) (a : Access) : (s.putAccess a).accesses = s.accesses.map (fun b => if b.id = a.id then a else b) := rfl
@[simp] theorem State.putAccess_deposits (s : State) (a : Access) : (s.putAccess a).deposits = s.deposits := rfl
@[simp] theorem State.putAccess_appends (s : State) (a : Access) : (s.putAccess a).appends = s.appends := rfl
@[simp] theorem State.putAccess_filters (s : State) (a : Access) : (s.putAccess a).filters = s.filters := rfl
@[simp] theorem State.putAccess_pairs (s : State) (a : Access) : (s.putAccess a).pairs = s.pairs := rfl
@[simp] theorem State.putAccess_engines (s : State) (a : Access) : (s.putAccess a).engines = s.engines := rfl
@[simp] theorem State.putAccess_ops (s : State) (a : Access) : (s.putAccess a).ops = s.ops := rfl
@[simp] theorem State.putAccess_islands (s : State) (a : Access) : (s.putAccess a).islands = s.islands := rfl
@[simp] theorem State.putAccess_blends (s : State) (a : Access) : (s.putAccess a).blends = s.blends := rfl
@[simp] theorem State.putAccess_teams (s : State) (a : Access) : (s.putAccess a).teams = s.teams := rfl
@[simp] theorem State.putAccess_grids (s : State) (a : Access) : (s.putAccess a).grids = s.grids := rfl
@[simp] theorem State.putAccess_reckoner (s : State) (a : Access) : (s.putAccess a).reckoner = s.reckoner := rfl
@[simp] theorem State.putAccess_ctxs (s : State) (a : Access) : (s.putAccess a).ctxs = s.ctxs := rfl
@[simp] theorem State.putAccess_windows (s : State) (a : Access) : (s.putAccess a).windows = s.windows := rfl
@[simp] theorem State.putAccess_ports (s : State) (a : Access) : (s.putAccess a).ports = s.ports := rfl
@[simp] theorem State.putAccess_msix (s : State) (a : Access) : (s.putAccess a).msix = s.msix := rfl
@[simp] theorem State.putAccess_cores (s : State) (a : Access) : (s.putAccess a).cores = s.cores := rfl
@[simp] theorem State.putAccess_faults (s : State) (a : Access) : (s.putAccess a).faults = s.faults := rfl
@[simp] theorem State.putAccess_gridIds (s : State) (a : Access) : (s.putAccess a).gridIds = s.gridIds := rfl
@[simp] theorem State.putAccess_nextId (s : State) (a : Access) : (s.putAccess a).nextId = s.nextId := rfl
@[simp] theorem State.putAccess_agenda (s : State) (a : Access) : (s.putAccess a).agenda = s.agenda := rfl
@[simp] theorem State.putAccess_cur (s : State) (a : Access) : (s.putAccess a).cur = s.cur := rfl
@[simp] theorem State.putAccess_free (s : State) (a : Access) : (s.putAccess a).free = s.free := rfl
@[simp] theorem State.putAccess_migWaits (s : State) (a : Access) : (s.putAccess a).migWaits = s.migWaits := rfl
@[simp] theorem State.putAccess_unflushed (s : State) (a : Access) : (s.putAccess a).unflushed = s.unflushed := rfl
@[simp] theorem State.putAccess_order (s : State) (a : Access) : (s.putAccess a).order = s.order := rfl
@[simp] theorem State.putAccess_hole (s : State) (a : Access) : (s.putAccess a).hole = s.hole := rfl

@[simp] theorem State.putOp_gt (s : State) (o : EngOp) : (s.putOp o).gt = s.gt := rfl
@[simp] theorem State.putOp_board (s : State) (o : EngOp) : (s.putOp o).board = s.board := rfl
@[simp] theorem State.putOp_boot (s : State) (o : EngOp) : (s.putOp o).boot = s.boot := rfl
@[simp] theorem State.putOp_power (s : State) (o : EngOp) : (s.putOp o).power = s.power := rfl
@[simp] theorem State.putOp_mem (s : State) (o : EngOp) : (s.putOp o).mem = s.mem := rfl
@[simp] theorem State.putOp_poison (s : State) (o : EngOp) : (s.putOp o).poison = s.poison := rfl
@[simp] theorem State.putOp_flaws (s : State) (o : EngOp) : (s.putOp o).flaws = s.flaws := rfl
@[simp] theorem State.putOp_lines (s : State) (o : EngOp) : (s.putOp o).lines = s.lines := rfl
@[simp] theorem State.putOp_sets (s : State) (o : EngOp) : (s.putOp o).sets = s.sets := rfl
@[simp] theorem State.putOp_slices (s : State) (o : EngOp) : (s.putOp o).slices = s.slices := rfl
@[simp] theorem State.putOp_copies (s : State) (o : EngOp) : (s.putOp o).copies = s.copies := rfl
@[simp] theorem State.putOp_tlbs (s : State) (o : EngOp) : (s.putOp o).tlbs = s.tlbs := rfl
@[simp] theorem State.putOp_clusterTlbs (s : State) (o : EngOp) : (s.putOp o).clusterTlbs = s.clusterTlbs := rfl
@[simp] theorem State.putOp_lockRanges (s : State) (o : EngOp) : (s.putOp o).lockRanges = s.lockRanges := rfl
@[simp] theorem State.putOp_invalidates (s : State) (o : EngOp) : (s.putOp o).invalidates = s.invalidates := rfl
@[simp] theorem State.putOp_accesses (s : State) (o : EngOp) : (s.putOp o).accesses = s.accesses := rfl
@[simp] theorem State.putOp_deposits (s : State) (o : EngOp) : (s.putOp o).deposits = s.deposits := rfl
@[simp] theorem State.putOp_appends (s : State) (o : EngOp) : (s.putOp o).appends = s.appends := rfl
@[simp] theorem State.putOp_filters (s : State) (o : EngOp) : (s.putOp o).filters = s.filters := rfl
@[simp] theorem State.putOp_pairs (s : State) (o : EngOp) : (s.putOp o).pairs = s.pairs := rfl
@[simp] theorem State.putOp_engines (s : State) (o : EngOp) : (s.putOp o).engines = s.engines := rfl
@[simp] theorem State.putOp_ops (s : State) (o : EngOp) : (s.putOp o).ops = s.ops.map (fun q => if q.id = o.id then o else q) := rfl
@[simp] theorem State.putOp_islands (s : State) (o : EngOp) : (s.putOp o).islands = s.islands := rfl
@[simp] theorem State.putOp_blends (s : State) (o : EngOp) : (s.putOp o).blends = s.blends := rfl
@[simp] theorem State.putOp_teams (s : State) (o : EngOp) : (s.putOp o).teams = s.teams := rfl
@[simp] theorem State.putOp_grids (s : State) (o : EngOp) : (s.putOp o).grids = s.grids := rfl
@[simp] theorem State.putOp_reckoner (s : State) (o : EngOp) : (s.putOp o).reckoner = s.reckoner := rfl
@[simp] theorem State.putOp_ctxs (s : State) (o : EngOp) : (s.putOp o).ctxs = s.ctxs := rfl
@[simp] theorem State.putOp_windows (s : State) (o : EngOp) : (s.putOp o).windows = s.windows := rfl
@[simp] theorem State.putOp_ports (s : State) (o : EngOp) : (s.putOp o).ports = s.ports := rfl
@[simp] theorem State.putOp_msix (s : State) (o : EngOp) : (s.putOp o).msix = s.msix := rfl
@[simp] theorem State.putOp_cores (s : State) (o : EngOp) : (s.putOp o).cores = s.cores := rfl
@[simp] theorem State.putOp_faults (s : State) (o : EngOp) : (s.putOp o).faults = s.faults := rfl
@[simp] theorem State.putOp_gridIds (s : State) (o : EngOp) : (s.putOp o).gridIds = s.gridIds := rfl
@[simp] theorem State.putOp_nextId (s : State) (o : EngOp) : (s.putOp o).nextId = s.nextId := rfl
@[simp] theorem State.putOp_agenda (s : State) (o : EngOp) : (s.putOp o).agenda = s.agenda := rfl
@[simp] theorem State.putOp_cur (s : State) (o : EngOp) : (s.putOp o).cur = s.cur := rfl
@[simp] theorem State.putOp_free (s : State) (o : EngOp) : (s.putOp o).free = s.free := rfl
@[simp] theorem State.putOp_migWaits (s : State) (o : EngOp) : (s.putOp o).migWaits = s.migWaits := rfl
@[simp] theorem State.putOp_unflushed (s : State) (o : EngOp) : (s.putOp o).unflushed = s.unflushed := rfl
@[simp] theorem State.putOp_order (s : State) (o : EngOp) : (s.putOp o).order = s.order := rfl
@[simp] theorem State.putOp_hole (s : State) (o : EngOp) : (s.putOp o).hole = s.hole := rfl

@[simp] theorem State.putWindow_gt (s : State) (n : Nat) (v : Window) : (s.putWindow n v).gt = s.gt := rfl
@[simp] theorem State.putWindow_board (s : State) (n : Nat) (v : Window) : (s.putWindow n v).board = s.board := rfl
@[simp] theorem State.putWindow_boot (s : State) (n : Nat) (v : Window) : (s.putWindow n v).boot = s.boot := rfl
@[simp] theorem State.putWindow_power (s : State) (n : Nat) (v : Window) : (s.putWindow n v).power = s.power := rfl
@[simp] theorem State.putWindow_mem (s : State) (n : Nat) (v : Window) : (s.putWindow n v).mem = s.mem := rfl
@[simp] theorem State.putWindow_poison (s : State) (n : Nat) (v : Window) : (s.putWindow n v).poison = s.poison := rfl
@[simp] theorem State.putWindow_flaws (s : State) (n : Nat) (v : Window) : (s.putWindow n v).flaws = s.flaws := rfl
@[simp] theorem State.putWindow_lines (s : State) (n : Nat) (v : Window) : (s.putWindow n v).lines = s.lines := rfl
@[simp] theorem State.putWindow_sets (s : State) (n : Nat) (v : Window) : (s.putWindow n v).sets = s.sets := rfl
@[simp] theorem State.putWindow_slices (s : State) (n : Nat) (v : Window) : (s.putWindow n v).slices = s.slices := rfl
@[simp] theorem State.putWindow_copies (s : State) (n : Nat) (v : Window) : (s.putWindow n v).copies = s.copies := rfl
@[simp] theorem State.putWindow_tlbs (s : State) (n : Nat) (v : Window) : (s.putWindow n v).tlbs = s.tlbs := rfl
@[simp] theorem State.putWindow_clusterTlbs (s : State) (n : Nat) (v : Window) : (s.putWindow n v).clusterTlbs = s.clusterTlbs := rfl
@[simp] theorem State.putWindow_lockRanges (s : State) (n : Nat) (v : Window) : (s.putWindow n v).lockRanges = s.lockRanges := rfl
@[simp] theorem State.putWindow_invalidates (s : State) (n : Nat) (v : Window) : (s.putWindow n v).invalidates = s.invalidates := rfl
@[simp] theorem State.putWindow_accesses (s : State) (n : Nat) (v : Window) : (s.putWindow n v).accesses = s.accesses := rfl
@[simp] theorem State.putWindow_deposits (s : State) (n : Nat) (v : Window) : (s.putWindow n v).deposits = s.deposits := rfl
@[simp] theorem State.putWindow_appends (s : State) (n : Nat) (v : Window) : (s.putWindow n v).appends = s.appends := rfl
@[simp] theorem State.putWindow_filters (s : State) (n : Nat) (v : Window) : (s.putWindow n v).filters = s.filters := rfl
@[simp] theorem State.putWindow_pairs (s : State) (n : Nat) (v : Window) : (s.putWindow n v).pairs = s.pairs := rfl
@[simp] theorem State.putWindow_engines (s : State) (n : Nat) (v : Window) : (s.putWindow n v).engines = s.engines := rfl
@[simp] theorem State.putWindow_ops (s : State) (n : Nat) (v : Window) : (s.putWindow n v).ops = s.ops := rfl
@[simp] theorem State.putWindow_islands (s : State) (n : Nat) (v : Window) : (s.putWindow n v).islands = s.islands := rfl
@[simp] theorem State.putWindow_blends (s : State) (n : Nat) (v : Window) : (s.putWindow n v).blends = s.blends := rfl
@[simp] theorem State.putWindow_teams (s : State) (n : Nat) (v : Window) : (s.putWindow n v).teams = s.teams := rfl
@[simp] theorem State.putWindow_grids (s : State) (n : Nat) (v : Window) : (s.putWindow n v).grids = s.grids := rfl
@[simp] theorem State.putWindow_reckoner (s : State) (n : Nat) (v : Window) : (s.putWindow n v).reckoner = s.reckoner := rfl
@[simp] theorem State.putWindow_ctxs (s : State) (n : Nat) (v : Window) : (s.putWindow n v).ctxs = s.ctxs := rfl
@[simp] theorem State.putWindow_windows (s : State) (n : Nat) (v : Window) : (s.putWindow n v).windows = tabPut Window.start s.windows n v := rfl
@[simp] theorem State.putWindow_ports (s : State) (n : Nat) (v : Window) : (s.putWindow n v).ports = s.ports := rfl
@[simp] theorem State.putWindow_msix (s : State) (n : Nat) (v : Window) : (s.putWindow n v).msix = s.msix := rfl
@[simp] theorem State.putWindow_cores (s : State) (n : Nat) (v : Window) : (s.putWindow n v).cores = s.cores := rfl
@[simp] theorem State.putWindow_faults (s : State) (n : Nat) (v : Window) : (s.putWindow n v).faults = s.faults := rfl
@[simp] theorem State.putWindow_gridIds (s : State) (n : Nat) (v : Window) : (s.putWindow n v).gridIds = s.gridIds := rfl
@[simp] theorem State.putWindow_nextId (s : State) (n : Nat) (v : Window) : (s.putWindow n v).nextId = s.nextId := rfl
@[simp] theorem State.putWindow_agenda (s : State) (n : Nat) (v : Window) : (s.putWindow n v).agenda = s.agenda := rfl
@[simp] theorem State.putWindow_cur (s : State) (n : Nat) (v : Window) : (s.putWindow n v).cur = s.cur := rfl
@[simp] theorem State.putWindow_free (s : State) (n : Nat) (v : Window) : (s.putWindow n v).free = s.free := rfl
@[simp] theorem State.putWindow_migWaits (s : State) (n : Nat) (v : Window) : (s.putWindow n v).migWaits = s.migWaits := rfl
@[simp] theorem State.putWindow_unflushed (s : State) (n : Nat) (v : Window) : (s.putWindow n v).unflushed = s.unflushed := rfl
@[simp] theorem State.putWindow_order (s : State) (n : Nat) (v : Window) : (s.putWindow n v).order = s.order := rfl
@[simp] theorem State.putWindow_hole (s : State) (n : Nat) (v : Window) : (s.putWindow n v).hole = s.hole := rfl

@[simp] theorem State.putPort_gt (s : State) (n : Nat) (v : Port) : (s.putPort n v).gt = s.gt := rfl
@[simp] theorem State.putPort_board (s : State) (n : Nat) (v : Port) : (s.putPort n v).board = s.board := rfl
@[simp] theorem State.putPort_boot (s : State) (n : Nat) (v : Port) : (s.putPort n v).boot = s.boot := rfl
@[simp] theorem State.putPort_power (s : State) (n : Nat) (v : Port) : (s.putPort n v).power = s.power := rfl
@[simp] theorem State.putPort_mem (s : State) (n : Nat) (v : Port) : (s.putPort n v).mem = s.mem := rfl
@[simp] theorem State.putPort_poison (s : State) (n : Nat) (v : Port) : (s.putPort n v).poison = s.poison := rfl
@[simp] theorem State.putPort_flaws (s : State) (n : Nat) (v : Port) : (s.putPort n v).flaws = s.flaws := rfl
@[simp] theorem State.putPort_lines (s : State) (n : Nat) (v : Port) : (s.putPort n v).lines = s.lines := rfl
@[simp] theorem State.putPort_sets (s : State) (n : Nat) (v : Port) : (s.putPort n v).sets = s.sets := rfl
@[simp] theorem State.putPort_slices (s : State) (n : Nat) (v : Port) : (s.putPort n v).slices = s.slices := rfl
@[simp] theorem State.putPort_copies (s : State) (n : Nat) (v : Port) : (s.putPort n v).copies = s.copies := rfl
@[simp] theorem State.putPort_tlbs (s : State) (n : Nat) (v : Port) : (s.putPort n v).tlbs = s.tlbs := rfl
@[simp] theorem State.putPort_clusterTlbs (s : State) (n : Nat) (v : Port) : (s.putPort n v).clusterTlbs = s.clusterTlbs := rfl
@[simp] theorem State.putPort_lockRanges (s : State) (n : Nat) (v : Port) : (s.putPort n v).lockRanges = s.lockRanges := rfl
@[simp] theorem State.putPort_invalidates (s : State) (n : Nat) (v : Port) : (s.putPort n v).invalidates = s.invalidates := rfl
@[simp] theorem State.putPort_accesses (s : State) (n : Nat) (v : Port) : (s.putPort n v).accesses = s.accesses := rfl
@[simp] theorem State.putPort_deposits (s : State) (n : Nat) (v : Port) : (s.putPort n v).deposits = s.deposits := rfl
@[simp] theorem State.putPort_appends (s : State) (n : Nat) (v : Port) : (s.putPort n v).appends = s.appends := rfl
@[simp] theorem State.putPort_filters (s : State) (n : Nat) (v : Port) : (s.putPort n v).filters = s.filters := rfl
@[simp] theorem State.putPort_pairs (s : State) (n : Nat) (v : Port) : (s.putPort n v).pairs = s.pairs := rfl
@[simp] theorem State.putPort_engines (s : State) (n : Nat) (v : Port) : (s.putPort n v).engines = s.engines := rfl
@[simp] theorem State.putPort_ops (s : State) (n : Nat) (v : Port) : (s.putPort n v).ops = s.ops := rfl
@[simp] theorem State.putPort_islands (s : State) (n : Nat) (v : Port) : (s.putPort n v).islands = s.islands := rfl
@[simp] theorem State.putPort_blends (s : State) (n : Nat) (v : Port) : (s.putPort n v).blends = s.blends := rfl
@[simp] theorem State.putPort_teams (s : State) (n : Nat) (v : Port) : (s.putPort n v).teams = s.teams := rfl
@[simp] theorem State.putPort_grids (s : State) (n : Nat) (v : Port) : (s.putPort n v).grids = s.grids := rfl
@[simp] theorem State.putPort_reckoner (s : State) (n : Nat) (v : Port) : (s.putPort n v).reckoner = s.reckoner := rfl
@[simp] theorem State.putPort_ctxs (s : State) (n : Nat) (v : Port) : (s.putPort n v).ctxs = s.ctxs := rfl
@[simp] theorem State.putPort_windows (s : State) (n : Nat) (v : Port) : (s.putPort n v).windows = s.windows := rfl
@[simp] theorem State.putPort_ports (s : State) (n : Nat) (v : Port) : (s.putPort n v).ports = tabPut Port.start s.ports n v := rfl
@[simp] theorem State.putPort_msix (s : State) (n : Nat) (v : Port) : (s.putPort n v).msix = s.msix := rfl
@[simp] theorem State.putPort_cores (s : State) (n : Nat) (v : Port) : (s.putPort n v).cores = s.cores := rfl
@[simp] theorem State.putPort_faults (s : State) (n : Nat) (v : Port) : (s.putPort n v).faults = s.faults := rfl
@[simp] theorem State.putPort_gridIds (s : State) (n : Nat) (v : Port) : (s.putPort n v).gridIds = s.gridIds := rfl
@[simp] theorem State.putPort_nextId (s : State) (n : Nat) (v : Port) : (s.putPort n v).nextId = s.nextId := rfl
@[simp] theorem State.putPort_agenda (s : State) (n : Nat) (v : Port) : (s.putPort n v).agenda = s.agenda := rfl
@[simp] theorem State.putPort_cur (s : State) (n : Nat) (v : Port) : (s.putPort n v).cur = s.cur := rfl
@[simp] theorem State.putPort_free (s : State) (n : Nat) (v : Port) : (s.putPort n v).free = s.free := rfl
@[simp] theorem State.putPort_migWaits (s : State) (n : Nat) (v : Port) : (s.putPort n v).migWaits = s.migWaits := rfl
@[simp] theorem State.putPort_unflushed (s : State) (n : Nat) (v : Port) : (s.putPort n v).unflushed = s.unflushed := rfl
@[simp] theorem State.putPort_order (s : State) (n : Nat) (v : Port) : (s.putPort n v).order = s.order := rfl
@[simp] theorem State.putPort_hole (s : State) (n : Nat) (v : Port) : (s.putPort n v).hole = s.hole := rfl

end Sys2Proof.Machine
end

