-- ==== Sys2Proof/Laws/Tab.lean ====
section
/-! SUPPORT. Sparse tables: a read after a write gives the value written, a write leaves every other key alone, and every write keeps the
canonical form. -/

namespace Sys2Proof.Machine

variable {α : Type}

/-! ## Reads after writes -/

theorem tabGet_filter (d : α) (t : Tab α) (n m : Nat) : tabGet d (t.filter (fun e => e.1 != n)) m = if m = n then d else tabGet d t m := by
  induction t with
  | nil => simp [tabGet]
  | cons e t ih =>
    obtain ⟨k, v⟩ := e
    by_cases hk : k = n
    · subst hk
      rw [List.filter_cons_of_neg (by simp), ih]
      by_cases hm : m = k <;> simp [tabGet, hm]
    · rw [List.filter_cons_of_pos (by simpa using hk)]
      simp only [tabGet, ih]
      by_cases hm : m = k
      · subst hm; simp [hk]
      · simp [hm]

theorem tabGet_insert (d : α) {t : Tab α} {n : Nat} (m : Nat) (v : α) (h : ∀ e ∈ t, e.1 ≠ n) :
    tabGet d (tabInsert n v t) m = if m = n then v else tabGet d t m := by
  induction t with
  | nil => rfl
  | cons e t ih =>
    obtain ⟨k, w⟩ := e
    have hk : k ≠ n := h (k, w) (by simp)
    have ih := ih (fun e he => h e (by simp [he]))
    simp only [tabInsert]
    split
    · rfl
    · simp only [tabGet, ih]
      by_cases hm : m = k
      · subst hm; simp [hk]
      · simp [hm]

variable [DecidableEq α]

/-- A read after a write gives the value written at its key, and elsewhere what it gave. -/
theorem tabGet_tabPut (d : α) (t : Tab α) (n m : Nat) (v : α) : tabGet d (tabPut d t n v) m = if m = n then v else tabGet d t m := by
  unfold tabPut
  split
  · rename_i h; rw [tabGet_filter, h]
  · rw [tabGet_insert d m v (by simp), tabGet_filter]
    split <;> rfl

@[simp] theorem tabGet_tabPut_same (d : α) (t : Tab α) (n : Nat) (v : α) : tabGet d (tabPut d t n v) n = v := by simp [tabGet_tabPut]

/-- A read of one byte after a write of a list of bytes. -/
theorem tabGet_memPut (m : Tab Byte) (a : Nat) (l : List Byte) (x : Nat) :
    tabGet 0 (memPut m a l) x = if a ≤ x ∧ x < a + l.length then l.getD (x - a) 0 else tabGet 0 m x := by
  induction l generalizing a m with
  | nil => simp only [memPut, List.length_nil]; rw [if_neg (by omega)]
  | cons b l ih =>
    simp only [memPut, List.length_cons]
    rw [ih, tabGet_tabPut]
    by_cases hx : x = a
    · subst hx
      rw [if_neg (by omega), if_pos rfl, if_pos (by omega)]
      simp
    · by_cases hr : a + 1 ≤ x ∧ x < a + 1 + l.length
      · rw [if_pos hr, if_pos (by omega)]
        have : x - a = (x - (a + 1)) + 1 := by omega
        rw [this]; simp
      · rw [if_neg hr, if_neg hx, if_neg (by omega)]

omit [DecidableEq α] in
/-- A read after keys are cleared. -/
theorem tabGet_tabClear (d : α) (t : Tab α) (a n m : Nat) :
    tabGet d (tabClear t a n) m = if a ≤ m ∧ m < a + n then d else tabGet d t m := by
  induction t with
  | nil => simp [tabClear, tabGet]
  | cons e t ih =>
    obtain ⟨k, v⟩ := e
    simp only [tabClear] at ih ⊢
    rw [List.filter_cons]
    simp only [tabGet]
    by_cases hk : k < a ∨ a + n ≤ k
    · rw [if_pos (by simpa using hk)]
      simp only [tabGet, ih]
      by_cases hm : m = k
      · rw [if_pos hm, if_neg (by omega), if_pos hm]
      · rw [if_neg hm, if_neg hm]
    · rw [if_neg (by simpa using hk), ih]
      by_cases hm : m = k
      · rw [if_pos (by omega), if_pos (by omega)]
      · rw [if_neg hm]

/-! ## The canonical form -/

/-- The lower bound that a canonical table starts above. -/
def tabLow : Option Nat → Nat → Prop
  | none, _ => True
  | some l, n => l < n

theorem tabWfAbove_cons (d : α) (lo : Option Nat) (k : Nat) (v : α) (t : Tab α) :
    tabWfAbove d lo ((k, v) :: t) = true ↔ tabLow lo k ∧ v ≠ d ∧ tabWfAbove d (some k) t = true := by
  cases lo <;> simp [tabWfAbove, tabLow, and_assoc]

/-- A canonical table above a bound is canonical above every lower one. -/
theorem tabWfAbove_mono (d : α) {t : Tab α} {a : Nat} {lo : Option Nat} (h : tabWfAbove d (some a) t = true) (hl : ∀ n, a < n → tabLow lo n) :
    tabWfAbove d lo t = true := by
  cases t with
  | nil => cases lo <;> rfl
  | cons e t =>
    obtain ⟨k, v⟩ := e
    rw [tabWfAbove_cons] at h ⊢
    exact ⟨hl k h.1, h.2⟩

theorem tabWfAbove_filter (d : α) (p : Nat × α → Bool) {t : Tab α} {lo : Option Nat} (h : tabWfAbove d lo t = true) :
    tabWfAbove d lo (t.filter p) = true := by
  induction t generalizing lo with
  | nil => cases lo <;> rfl
  | cons e t ih =>
    obtain ⟨k, v⟩ := e
    have h' := (tabWfAbove_cons d lo k v t).1 h
    rw [List.filter_cons]
    split
    · rw [tabWfAbove_cons]; exact ⟨h'.1, h'.2.1, ih h'.2.2⟩
    · refine ih (tabWfAbove_mono d h'.2.2 (fun m hm => ?_))
      have := h'.1
      cases lo <;> simp only [tabLow] at *
      omega

theorem tabInsert_wfAbove (d : α) {t : Tab α} {lo : Option Nat} {n : Nat} {v : α} (hv : v ≠ d) (h : tabWfAbove d lo t = true)
    (hk : ∀ e ∈ t, e.1 ≠ n) (hn : tabLow lo n) : tabWfAbove d lo (tabInsert n v t) = true := by
  induction t generalizing lo with
  | nil => rw [tabInsert, tabWfAbove_cons]; exact ⟨hn, hv, rfl⟩
  | cons e t ih =>
    obtain ⟨k, w⟩ := e
    have h' := (tabWfAbove_cons d lo k w t).1 h
    have hne : k ≠ n := hk (k, w) (by simp)
    simp only [tabInsert]
    split
    · rename_i hlt
      rw [tabWfAbove_cons, tabWfAbove_cons]
      exact ⟨hn, hv, hlt, h'.2⟩
    · rename_i hge
      rw [tabWfAbove_cons]
      exact ⟨h'.1, h'.2.1, ih h'.2.2 (fun e he => hk e (by simp [he])) (show k < n by omega)⟩

/-- A write keeps the canonical form. -/
theorem tabPut_wf (d : α) {t : Tab α} (n : Nat) (v : α) (h : tabWf d t = true) : tabWf d (tabPut d t n v) = true := by
  unfold tabPut
  split
  · exact tabWfAbove_filter d _ h
  · rename_i hv
    exact tabInsert_wfAbove d hv (tabWfAbove_filter d _ h) (by simp) trivial

/-- A write of bytes keeps the canonical form. -/
theorem memPut_wf (a : Nat) (l : List Byte) {m : Tab Byte} (h : tabWf 0 m = true) : tabWf 0 (memPut m a l) = true := by
  induction l generalizing a m with
  | nil => exact h
  | cons b l ih => exact ih (a + 1) (tabPut_wf 0 a b h)

/-- Clearing keys keeps the canonical form. -/
theorem tabClear_wf (d : α) {t : Tab α} (a n : Nat) (h : tabWf d t = true) : tabWf d (tabClear t a n) = true := tabWfAbove_filter d _ h

end Sys2Proof.Machine
end

