-- ==== Sys2Proof/Laws/Ops.lean ====
section
/-! SUPPORT. What the shared operations do, each said once: opening and closing a focus, issuing, the checks before a pass, and the answer
of a meaning. -/

namespace Sys2Proof.Machine

theorem focus_spec {s : State} {f : Foc} (h : focus s = some f) : f.s = s := by
  unfold focus at h
  split at h
  · cases h
  · split at h
    · cases h
    · split at h
      · cases h
      · split at h
        · cases h
        · cases h; rfl

@[simp] theorem syncShares_hole (s : State) (uid : Nat) (r : Rank) : (s.syncShares uid r).hole = s.hole := by
  unfold State.syncShares
  generalize r.shares = l
  induction l generalizing s with
  | nil => rfl
  | cons h l ih =>
    rw [List.foldl_cons, ih]
    split
    · rfl
    · split
      · rfl
      · split <;> rfl

@[simp] theorem renameSplits_hole (s : State) (p q u j : Nat) (g : Nat → Nat) : (s.renameSplits p q u j g).hole = s.hole := rfl

@[simp] theorem close_hole (f : Foc) : f.close.hole = f.s.hole := by
  unfold Foc.close
  simp only []
  split
  · split <;> simp
  · split <;> simp
theorem answer_next {s : State} (h : s.hole = none) : answer s = .next s := by simp [answer, h]

theorem issue_eq (f : Foc) (c rd wr act u) : ∃ now rod, f.issue c rd wr act u = { f with s := f.s.afterIssue f now rod } :=
  ⟨_, _, rfl⟩
theorem issueCtl_eq (s : State) (t : Team) (c rd wr) : ∃ now last e ra, s.issueCtl t c rd wr = (s.afterCtl t now last, t.retimed e ra) :=
  ⟨_, _, _, _, rfl⟩

theorem byStream_vec {s f} (h : focus s = some f) (a b) : byStream s a b = a f := by simp [byStream, h]
theorem byStream_ctl {s : State} {t : Team} (h1 : s.cur = .ctl t.uid) (h2 : s.team t.uid = some t) (a b) : byStream s a b = b s t := by
  simp [byStream, focus, State.ctlTeam, h1, h2]

theorem unallocated_none {r : Rank} {l : List Nat} (h : ∀ n ∈ l, n < r.top) : unallocated r l = none := by
  have : l.filter (fun n => decide (r.top ≤ n)) = [] := by
    rw [List.filter_eq_nil_iff]; intro n hn; have := h n hn; simp; omega
  simp [unallocated, this]
theorem emptyNeeds_nil {r : Rank} {ps l : List Nat} (h : ∀ p ∈ ps, ∀ n ∈ l, r.isFull p n = true) : emptyNeeds r ps l = [] := by
  simp only [emptyNeeds, List.flatMap_eq_nil_iff, List.map_eq_nil_iff, List.filter_eq_nil_iff]
  intro p hp n hn; simp [h p hp n hn]

/-- The checks of a pass, when its fields are legal, its registers allocated, and those full that its readers read. -/
theorem permitFor_none {f : Foc} {ps readers : List Nat} {q : PassSpec} (hok : q.ok = true) (hc : Clear f readers q.named q.waits) :
    f.permitFor ps readers q = none := by
  simp [Foc.permitFor, hok, unallocated_none hc.allocated, emptyNeeds_nil hc.full]

/-- The checks of a pass whose every position reads its registers. -/
theorem admit_none {f : Foc} {ps : List Nat} {q : PassSpec} (hok : q.ok = true) (hc : Clear f ps q.named q.waits) : f.permit ps q = none :=
  permitFor_none hok hc

/-- No register of a control thread without errors stops a read (R399). -/
theorem readErr_none {c : Ctl} (h : c.errs = []) (l : List Nat) : c.readErr l = none := by
  have : l.find? (fun n => tabGet false c.errs n) = none := by rw [h]; simp [tabGet]
  simp [Ctl.readErr, this]

/-- No k register of a rank without errors stops a read (R399). -/
theorem kErr_none {r : Rank} (h : ∀ n, (r.kreg n).err = false) (l : List Nat) : r.kErr l = none := by
  simp [Rank.kErr, h]

/-- How an instruction of the control stream runs: its fields are legal, so that it issues, and its guard says whether it acts. -/
theorem ctl_runs {i : Instr} {s : State} {t : Team} {a : Foc → State} {b : State → Team → State} {ok : Bool} {word : DWord} {g : BitVec 3} {gn : Bool}
    {c : Cls} {rd wr : List Nat} {act k : State → Team → State} (h : CtlIssues s t) (hex : exec i s = answer (byStream s a b))
    (hb : b s t = ctlPass s t ok word g gn c rd wr act) (hok : ok = true)
    (hk : ∀ now last e ra, (if (t.retimed e ra).ctl.pred g.toNat = gn then (s.afterCtl t now last).ctlDone (t.retimed e ra)
      else act (s.afterCtl t now last) (t.retimed e ra)) = k (s.afterCtl t now last) (t.retimed e ra))
    (hh : ∀ now last e ra, (k (s.afterCtl t now last) (t.retimed e ra)).hole = none) : CtlRuns i s t k := by
  obtain ⟨now, last, e, ra, hi⟩ := issueCtl_eq s t c (rd ++ [2048 + g.toNat]) wr
  refine ⟨now, last, e, ra, ?_⟩
  have hp : ctlPass s t ok word g gn c rd wr act = k (s.afterCtl t now last) (t.retimed e ra) := by
    rw [← hk]
    unfold ctlPass
    rw [hi, hok]
    simp only [Bool.not_true, Bool.false_eq_true, if_false, beq_iff_eq]
    rw [show (t.retimed e ra).ctl.readErr rd = none from readErr_none h.sound rd]
    rfl
  rw [hex, byStream_ctl h.cur h.team, hb, hp, answer_next (hh now last e ra)]

/-- A pass that goes on past its checks leaves what its focus leaves when it closes. -/
theorem vec_runs {i : Instr} {s : State} {f : Foc} {a : Foc → State} {b : State → Team → State} {c : Cls} {rd wr act : List Nat} {u : Bool}
    {k : Foc → State} (h : VecIssues s f) (hex : exec i s = answer (byStream s a b)) (ha : a f = k (f.issue c rd wr act u))
    (hh : ∀ now rod, (k { f with s := s.afterIssue f now rod }).hole = none) : VecRuns i s f k := by
  obtain ⟨now, rod, hi⟩ := issue_eq f c rd wr act u
  refine ⟨now, rod, ?_⟩
  have hs := focus_spec h.foc
  rw [hi, hs] at ha
  rw [hex, byStream_vec h.foc, ha, answer_next (hh now rod)]

@[simp] theorem putTeam_hole (s : State) (t : Team) : (s.putTeam t).hole = s.hole := rfl
@[simp] theorem ctlDone_hole (s : State) (t : Team) : (s.ctlDone t).hole = s.hole := rfl
@[simp] theorem ctlBlock_hole (s : State) (t : Team) (w : Wait) : (s.ctlBlock t w).hole = s.hole := rfl
@[simp] theorem afterIssue_hole (s : State) (f : Foc) (now : Nat) (rod : Rod) : (s.afterIssue f now rod).hole = s.hole := rfl
@[simp] theorem afterCtl_hole (s : State) (t : Team) (now : Nat) (last : Tab Nat) : (s.afterCtl t now last).hole = s.hole := rfl
@[simp] theorem putSplit_state (f : Foc) (x : Split) : (f.putSplit x).s = f.s := rfl
@[simp] theorem goto_state (f : Foc) (pc : BitVec 48) : (f.goto pc).s = f.s := rfl
@[simp] theorem next_state (f : Foc) : f.next.s = f.s := rfl
@[simp] theorem done_hole (f : Foc) : f.done.hole = f.s.hole := by simp [Foc.done]
@[simp] theorem withRank_state (f : Foc) (r : Rank) : (f.withRank r).s = f.s := rfl
@[simp] theorem withState_state (f : Foc) (s : State) : (f.withState s).s = s := rfl
@[simp] theorem withTeam_state (f : Foc) (t : Team) : (f.withTeam t).s = f.s := rfl
@[simp] theorem stopCur_hole (f : Foc) : f.stopCur.s.hole = f.s.hole := rfl
@[simp] theorem block_hole (f : Foc) (w : Wait) : (f.block w).s.hole = f.s.hole := rfl
@[simp] theorem putRank_hole (s : State) (u : Nat) (r : Rank) : (s.putRank u r).hole = s.hole := by
  unfold State.putRank; split <;> simp
@[simp] theorem failGrid_hole (s : State) (g : Nat) (c : TrapCode) (d : DWord) (e : Option TrapCode) : (s.failGrid g c d e).hole = s.hole := by
  unfold State.failGrid; split <;> rfl
@[simp] theorem deliverCtl_hole (s : State) (t : Team) (tr : Trap) : (s.deliverCtl t tr).hole = s.hole := by
  unfold State.deliverCtl
  dsimp only
  split
  · simp
  · split <;> simp
@[simp] theorem deliver_hole (f : Foc) (tr : Trap) (w : TrapAt) : (f.deliver tr w).hole = f.s.hole := by
  unfold Foc.deliver
  dsimp only
  split
  · split <;> simp
  · split <;> simp

/-- A trap of the control thread that neither freezes nor asks an owner is delivered. -/
theorem trapCtl_plain {s : State} {t : Team} {tr : Trap} (h : tr.code.violation = false) (h2 : ownerFirst tr.code = false) (h3 : tr.code ≠ .brk) :
    s.trapCtl t tr = s.deliverCtl t tr := by
  unfold State.trapCtl; simp [h, h2, h3]

/-- A trap of a split that neither freezes nor asks an owner is delivered. -/
theorem trap_plain {f : Foc} {tr : Trap} {w : TrapAt} (h : tr.code.violation = false) (h2 : ownerFirst tr.code = false) (h3 : tr.code ≠ .brk) :
    f.trap tr w = f.deliver tr w := by
  unfold Foc.trap; simp [h, h2, h3]

/-! ## What issuing leaves of a team -/

@[simp] theorem retimed_uid (t : Team) (e : Nat) (ra : Tab Nat) : (t.retimed e ra).uid = t.uid := rfl
@[simp] theorem retimed_grid (t : Team) (e : Nat) (ra : Tab Nat) : (t.retimed e ra).grid = t.grid := rfl
@[simp] theorem retimed_ctx (t : Team) (e : Nat) (ra : Tab Nat) : (t.retimed e ra).ctx = t.ctx := rfl
@[simp] theorem retimed_pair (t : Team) (e : Nat) (ra : Tab Nat) : (t.retimed e ra).pair = t.pair := rfl
@[simp] theorem retimed_layer (t : Team) (e : Nat) (ra : Tab Nat) : (t.retimed e ra).layer = t.layer := rfl
@[simp] theorem retimed_req (t : Team) (e : Nat) (ra : Tab Nat) : (t.retimed e ra).req = t.req := rfl
@[simp] theorem retimed_flags (t : Team) (e : Nat) (ra : Tab Nat) : (t.retimed e ra).flags = t.flags := rfl
@[simp] theorem retimed_flag (t : Team) (e : Nat) (ra : Tab Nat) (n : Nat) : (t.retimed e ra).flag n = t.flag n := rfl
@[simp] theorem retimed_queue (t : Team) (e : Nat) (ra : Tab Nat) (n : Nat) : (t.retimed e ra).queue n = t.queue n := rfl
@[simp] theorem retimed_handle (t : Team) (e : Nat) (ra : Tab Nat) (n : Nat) : (t.retimed e ra).handle n = t.handle n := rfl
@[simp] theorem retimed_bar (t : Team) (e : Nat) (ra : Tab Nat) (n : Nat) : (t.retimed e ra).bar n = t.bar n := rfl
@[simp] theorem retimed_alone (t : Team) (e : Nat) (ra : Tab Nat) (j : Option Nat) : (t.retimed e ra).alone j = t.alone j := rfl
@[simp] theorem retimed_ends (t : Team) (e : Nat) (ra : Tab Nat) : (t.retimed e ra).ends = t.ends := rfl
@[simp] theorem retimed_pc (t : Team) (e : Nat) (ra : Tab Nat) : (t.retimed e ra).ctl.pc = t.ctl.pc := rfl
@[simp] theorem retimed_rets (t : Team) (e : Nat) (ra : Tab Nat) : (t.retimed e ra).ctl.rets = t.ctl.rets := rfl
@[simp] theorem retimed_handler (t : Team) (e : Nat) (ra : Tab Nat) : (t.retimed e ra).ctl.handler = t.ctl.handler := rfl
@[simp] theorem retimed_pred (t : Team) (e : Nat) (ra : Tab Nat) (n : Nat) : (t.retimed e ra).ctl.pred n = t.ctl.pred n := rfl
@[simp] theorem retimed_getS (t : Team) (e : Nat) (ra : Tab Nat) (n : Nat) : (t.retimed e ra).ctl.getS n = t.ctl.getS n := rfl
@[simp] theorem retimed_getC (t : Team) (e : Nat) (ra : Tab Nat) (n : Nat) : (t.retimed e ra).ctl.getC n = t.ctl.getC n := rfl

/-- How an instruction of the control stream acts under a guard that holds. -/
theorem ctl_acts {i : Instr} {s : State} {t : Team} {a : Foc → State} {b : State → Team → State} {ok : Bool} {word : DWord} {g : BitVec 3} {gn : Bool}
    {c : Cls} {rd wr : List Nat} {act k : State → Team → State} (h : CtlIssues s t) (hex : exec i s = answer (byStream s a b))
    (hb : b s t = ctlPass s t ok word g gn c rd wr act) (hok : ok = true) (hg : t.guard g gn)
    (hk : ∀ now last e ra, act (s.afterCtl t now last) (t.retimed e ra) = k (s.afterCtl t now last) (t.retimed e ra))
    (hh : ∀ now last e ra, (k (s.afterCtl t now last) (t.retimed e ra)).hole = none) : CtlRuns i s t k := by
  refine ctl_runs h hex hb hok (fun now last e ra => ?_) hh
  rw [if_neg (by simpa [Team.guard] using hg)]
  exact hk now last e ra

/-! ## Reads and writes of registers -/

theorem readAll_reads {r : Rank} {l : List Nat} {o : Opd} {f : Fld} (h : Reads r l o f) :
    readAll r o f l = (l.map (fun p => (p, readVal r p o f)), none) := by
  induction l with
  | nil => rfl
  | cons a l ih =>
    unfold readAll
    rw [h a (by simp), ih (fun p hp => h p (by simp [hp]))]
    rfl

/-- A write of a k register: its value, conflict bit and writer mark (R182); the others keep theirs. -/
theorem writeK_kreg (r : Rank) (a n m : Nat) (v : Word) : (r.writeK a n v).kreg m = if m = n then (if r.converged then (⟨v, false, none, false⟩ : KReg)
    else if (r.kreg n).wm = none ∨ (r.kreg n).wm = some a then ⟨v, (r.kreg n).cf, some a, false⟩ else ⟨v, true, some a, false⟩) else r.kreg m := by
  unfold Rank.writeK Rank.kreg
  dsimp only
  rw [tabGet_tabPut]

theorem writeK_val (r : Rank) (a n : Nat) (v : Word) : ((r.writeK a n v).kreg n).val = v := by
  rw [writeK_kreg, if_pos rfl]; split <;> (try split) <;> rfl

theorem writeK_ne (r : Rank) (a n m : Nat) (v : Word) (h : m ≠ n) : (r.writeK a n v).kreg m = r.kreg m := by
  rw [writeK_kreg, if_neg h]

@[simp] theorem sweepBars_hole (s : State) (u : Nat) : (s.sweepBars u).hole = s.hole := by
  unfold State.sweepBars; split <;> simp

@[simp] theorem exitThreads_hole (f : Foc) (ps : List Nat) : (f.exitThreads ps).hole = f.s.hole := by
  unfold Foc.exitThreads
  dsimp only
  rw [sweepBars_hole]
  split
  · show (State.dropShares _ _ _).hole = _
    unfold State.dropShares
    dsimp only
    split <;> simp
  · split <;> simp

/-! ## Bytes of memory that stay -/

theorem syncShares_mem (s : State) (uid : Nat) (r : Rank) : (s.syncShares uid r).mem = s.mem := by
  unfold State.syncShares
  generalize r.shares = l
  induction l generalizing s with
  | nil => rfl
  | cons h l ih =>
    rw [List.foldl_cons, ih]
    split
    · rfl
    · split
      · rfl
      · split <;> rfl

/-- A focus closes without a change to memory. -/
theorem close_mem (f : Foc) : f.close.mem = f.s.mem := by
  unfold Foc.close
  dsimp only
  have h1 : ∀ (s : State) t, (s.putTeam t).mem = s.mem := fun _ _ => rfl
  have h2 : ∀ (s : State) a b c d e, (s.renameSplits a b c d e).mem = s.mem := fun _ _ _ _ _ _ => rfl
  split
  · split <;> simp [h2, syncShares_mem]
  · split <;> simp [h2, syncShares_mem]

theorem failGrid_mem (s : State) (g : Nat) (c : TrapCode) (d : DWord) (e : Option TrapCode) : (s.failGrid g c d e).mem = s.mem := by
  unfold State.failGrid; split <;> rfl

/-- A trap reaches its handler, or fails its grid, without a change to memory. -/
theorem deliver_mem (f : Foc) (tr : Trap) (w : TrapAt) : (f.deliver tr w).mem = f.s.mem := by
  unfold Foc.deliver
  dsimp only
  split
  · split
    · rw [failGrid_mem, close_mem]
    · rw [close_mem]; rfl
  · split
    · rw [failGrid_mem, close_mem]
    · rw [close_mem]; rfl

/-- A new GRIDID is none of those in use. -/
theorem freshGrid_spec (used : List Nat) (v : Nat) : freshGrid used v ∉ used ∧ v ≤ freshGrid used v ∧ freshGrid used v ≤ v + used.length := by
  unfold freshGrid
  cases hf : (List.range' v (used.length + 1)).find? (fun n => !used.contains n) with
  | some n =>
    have h1 := List.find?_some hf
    have h2 := List.mem_of_find?_eq_some hf
    simp only [List.mem_range'_1] at h2
    simp at h1
    exact ⟨h1, by simp; omega, by simp; omega⟩
  | none =>
    rw [List.find?_eq_none] at hf
    have hs : List.range' v (used.length + 1) ⊆ used := fun n hn => by simpa using hf n hn
    have := (List.subperm_of_subset List.nodup_range' hs).length_le
    simp at this

end Sys2Proof.Machine
end

