-- ==== Sys2Proof/Laws/Memory.lean ====
section
/-! SUPPORT. What the operations on device memory do, each said once: an allocation and a lease change the stacked cache alone, a read
changes no byte, and a write changes its bytes alone. -/

namespace Sys2Proof.Machine

/-- The state with what the homes keep beside the bytes replaced: lines, sets, slices and the free counter. -/
def State.withCache (s : State) (lines : Tab (Option LineMeta)) (sets : Tab SetMeta) (slices : Tab Slice) (free : Nat) : State :=
  { s with lines := lines, sets := sets, slices := slices, free := free }

/-- The state with the bytes of device memory and its marks replaced. -/
def State.withMem (s : State) (mem : Tab Byte) (poison : Tab Bool) (flaws : Tab Nat) : State := { s with mem := mem, poison := poison, flaws := flaws }

theorem reach_in {s : State} {pa len : Nat} (h : pa + len ≤ s.installed) : s.reach pa len = s := by simp [State.reach, h]

theorem evict_eq (s : State) (l : Nat) : ∃ a b c, s.evict l = s.withCache a b c s.free := by
  unfold State.evict
  split
  · exact ⟨s.lines, s.sets, s.slices, rfl⟩
  · exact ⟨_, _, _, rfl⟩

/-- An allocation changes nothing but the stacked cache. -/
theorem touch_eq (s : State) (pa part : Nat) : ∃ a b c d, s.touch pa part = s.withCache a b c d := by
  unfold State.touch
  dsimp only
  split
  · exact ⟨s.lines, s.sets, s.slices, s.free, rfl⟩
  · split
    · exact ⟨_, s.sets, s.slices, s.free, rfl⟩
    · split
      · exact ⟨s.lines, s.sets, s.slices, s.free, rfl⟩
      · split
        · dsimp only [State.newFree]
          generalize he : State.evict _ _ = e
          obtain ⟨a, b, c, h⟩ := evict_eq _ _
          rw [h] at he
          subst he
          exact ⟨_, b, c, s.free + 1, rfl⟩
        · exact ⟨s.lines, s.sets, s.slices, s.free + 1, rfl⟩

/-- A raise of a line's times changes nothing but the stacked cache. -/
theorem raise_eq (s : State) (pa x y : Nat) : ∃ a b, s.raise pa x y = s.withCache a b s.slices s.free := by
  unfold State.raise
  split
  · exact ⟨_, s.sets, rfl⟩
  · exact ⟨s.lines, _, rfl⟩

/-- What changes the stacked cache alone at each of a list of places changes it alone. -/
theorem foldl_withCache {α : Type} (f : State → α → State) (hf : ∀ s x, ∃ a b c d, f s x = s.withCache a b c d) (l : List α) (s : State) :
    ∃ a b c d, l.foldl f s = s.withCache a b c d := by
  induction l generalizing s with
  | nil => exact ⟨s.lines, s.sets, s.slices, s.free, rfl⟩
  | cons x l ih =>
    obtain ⟨a, b, c, d, h⟩ := hf s x
    obtain ⟨a', b', c', d', h'⟩ := ih (f s x)
    exact ⟨a', b', c', d', by rw [List.foldl_cons, h', h]; rfl⟩

/-- Allocations change nothing but the stacked cache. -/
theorem touchAll_eq (s : State) (pa len part : Nat) : ∃ a b c d, s.touchAll pa len part = s.withCache a b c d :=
  foldl_withCache _ (fun s l => touch_eq s (l * 1024) part) _ s

/-- A note of what a line holds changes nothing but the stacked cache. -/
theorem noteLine_eq (s : State) (line : Nat) (x : BitVec 32) (y : BitVec 4) : ∃ a b c d, s.noteLine line x y = s.withCache a b c d := by
  unfold State.noteLine
  split
  · exact ⟨s.lines, s.sets, s.slices, s.free, rfl⟩
  · exact ⟨_, s.sets, s.slices, s.free, rfl⟩

/-- Notes of filled and dirty sectors change nothing but the stacked cache. -/
theorem noteFilled_eq (s : State) (pa len : Nat) (write : Bool) : ∃ a b c d, s.noteFilled pa len write = s.withCache a b c d :=
  foldl_withCache _ (fun s l => noteLine_eq s l _ _) _ s

/-- A note keeps the times of every address. -/
theorem noteLine_times (s : State) (line : Nat) (x : BitVec 32) (y : BitVec 4) (pa : Nat) : (s.noteLine line x y).times pa = s.times pa := by
  unfold State.noteLine
  split
  · rfl
  · rename_i m hm
    unfold State.times
    dsimp only
    rw [tabGet_tabPut]
    by_cases hl : pa / 1024 = line
    · rw [if_pos hl, hl, hm]
    · rw [if_neg hl]

/-- Notes of filled and dirty sectors keep the times of every address. -/
theorem noteFilled_times (s : State) (pa len : Nat) (write : Bool) (q : Nat) : (s.noteFilled pa len write).times q = s.times q := by
  unfold State.noteFilled
  generalize linesOf pa len = l
  induction l generalizing s with
  | nil => rfl
  | cons x l ih => rw [List.foldl_cons, ih, noteLine_times]

/-- The home's times of a write change nothing but the stacked cache. -/
theorem applied_eq (s : State) (pa len : Nat) :
    ∃ a b c d, s.applied pa len = (max s.gt (s.lexpOf pa len), s.withCache a b c d) := by
  have hf : ∀ w (s : State) (l : Nat), ∃ a b c d, s.raise (l * 1024) 0 w = s.withCache a b c d := fun w s l => by
    obtain ⟨a, b, h⟩ := raise_eq s (l * 1024) 0 w
    exact ⟨a, b, s.slices, s.free, h⟩
  obtain ⟨a, b, c, d, h⟩ := foldl_withCache _ (hf (max s.gt (s.lexpOf pa len))) (linesOf pa len) s
  exact ⟨a, b, c, d, by simp only [State.applied, h]⟩

/-- Reads of sound sectors meet no error and change nothing. -/
theorem sectorsRead_sound {s : State} (k n : Nat) (h : ∀ j, j < n → tabGet false s.poison (k + j) = false ∧ tabGet 0 s.flaws (k + j) = 0) :
    s.sectorsRead k n = (s, none) := by
  induction n generalizing k with
  | zero => rfl
  | succ n ih =>
    have h0 := h 0 (by omega)
    simp only [State.sectorsRead, State.sectorRead, State.sectorReadBy]
    simp only [Nat.add_zero] at h0
    rw [h0.1, h0.2]
    refine ih (k + 1) (fun j hj => ?_)
    have := h (j + 1) (by omega)
    rwa [show k + (j + 1) = k + 1 + j by omega] at this

/-- A read of sound, installed memory gives its bytes and changes the stacked cache alone. -/
theorem readDev_sound {s : State} {pa len : Nat} (part : Nat) (h : pa + len ≤ s.installed) (hs : s.sound pa len) :
    ∃ a b c d, s.readDev pa len part = (s.withCache a b c d, .ok (memBytes s.mem pa len)) := by
  unfold State.readDev
  rw [reach_in h]
  obtain ⟨a, b, c, d, e⟩ := touchAll_eq s pa len part
  obtain ⟨a', b', c', d', e'⟩ := noteFilled_eq (s.touchAll pa len part) pa len false
  have he : (s.touchAll pa len part).noteFilled pa len false = s.withCache a' b' c' d' := by rw [e', e]; rfl
  have : (s.withCache a' b' c' d').sectorsRead (pa / 256) (sectorCount pa len) = (s.withCache a' b' c' d', none) := sectorsRead_sound _ _ hs
  refine ⟨a', b', c', d', ?_⟩
  simp only [he, this]
  rfl

/-- A read of one sector changes the marks of the sector and a slice's counts alone. -/
theorem sectorRead_eq (s : State) (k : Nat) : ∃ p f c, (s.sectorRead k).1 = (s.withMem s.mem p f).withCache s.lines s.sets c s.free := by
  unfold State.sectorRead State.sectorReadBy
  split
  · exact ⟨s.poison, s.flaws, s.slices, rfl⟩
  · split
    · exact ⟨s.poison, s.flaws, s.slices, rfl⟩
    · exact ⟨s.poison, _, _, rfl⟩
    · exact ⟨_, _, _, rfl⟩

theorem sectorsRead_eq (s : State) (k n : Nat) : ∃ p f c, (s.sectorsRead k n).1 = (s.withMem s.mem p f).withCache s.lines s.sets c s.free := by
  induction n generalizing s k with
  | zero => exact ⟨s.poison, s.flaws, s.slices, rfl⟩
  | succ n ih =>
    unfold State.sectorsRead
    obtain ⟨p, f, c, h⟩ := sectorRead_eq s k
    generalize hr : s.sectorRead k = r at h
    obtain ⟨s', e⟩ := r
    dsimp only at h
    subst h
    cases e with
    | some e => exact ⟨p, f, c, rfl⟩
    | none =>
      obtain ⟨p', f', c', h'⟩ := ih ((s.withMem s.mem p f).withCache s.lines s.sets c s.free) (k + 1)
      exact ⟨p', f', c', by simp only [h']; rfl⟩

/-- The fills before a partial write change marks and counts alone. -/
theorem fillPartial_eq (s : State) (pa len : Nat) : ∃ p f c, s.fillPartial pa len = (s.withMem s.mem p f).withCache s.lines s.sets c s.free := by
  unfold State.fillPartial
  generalize List.range (sectorCount pa len) = l
  induction l generalizing s with
  | nil => exact ⟨s.poison, s.flaws, s.slices, rfl⟩
  | cons x l ih =>
    rw [List.foldl_cons]
    dsimp only
    split
    · exact ih s
    · obtain ⟨p, f, c, h⟩ := sectorRead_eq s (pa / 256 + x)
      obtain ⟨p', f', c', h'⟩ := ih (s.sectorRead (pa / 256 + x)).1
      exact ⟨p', f', c', by rw [h', h]; rfl⟩

/-- A write to installed memory writes its bytes, and has the time W of R111: the latest lease of its lines once they are allocated. -/
theorem writeDev_eq {s : State} {pa : Nat} {bytes : List Byte} (part : Nat) (h : pa + bytes.length ≤ s.installed) :
    ∃ p f a b c d, s.writeDev pa part bytes = (max s.gt ((s.touchAll pa bytes.length part).lexpOf pa bytes.length),
      (s.withMem (memPut s.mem pa bytes) p f).withCache a b c d) := by
  unfold State.writeDev
  rw [reach_in h]
  obtain ⟨a, b, c, d, e⟩ := touchAll_eq s pa bytes.length part
  obtain ⟨p, f, c1, e1⟩ := fillPartial_eq (s.touchAll pa bytes.length part) pa bytes.length
  generalize hu : (s.touchAll pa bytes.length part).fillPartial pa bytes.length = u at e1
  obtain ⟨a2, b2, c2, d2, e2⟩ := noteFilled_eq { u with mem := memPut u.mem pa bytes, poison := clearPoison u.poison pa bytes.length } pa bytes.length true
  have ht : ∀ q, ({ u with mem := memPut u.mem pa bytes, poison := clearPoison u.poison pa bytes.length } : State).times q =
      (s.touchAll pa bytes.length part).times q := fun q => by rw [e1]; rfl
  obtain ⟨a3, b3, c3, d3, e3⟩ := applied_eq (({ u with mem := memPut u.mem pa bytes, poison := clearPoison u.poison pa bytes.length } : State).noteFilled pa bytes.length true) pa bytes.length
  have hl : (({ u with mem := memPut u.mem pa bytes, poison := clearPoison u.poison pa bytes.length } : State).noteFilled pa bytes.length true).lexpOf pa bytes.length =
      (s.touchAll pa bytes.length part).lexpOf pa bytes.length := by simp only [State.lexpOf, noteFilled_times, ht]
  rw [hl] at e3
  refine ⟨clearPoison p pa bytes.length, f, a3, b3, c3, d3, ?_⟩
  dsimp only
  rw [e3, e2, e1, e]
  rfl

/-- A read of installed memory changes no byte of it. -/
theorem readDev_eq {s : State} {pa len : Nat} (part : Nat) (h : pa + len ≤ s.installed) :
    ∃ p f a b c d, (s.readDev pa len part).1 = (s.withMem s.mem p f).withCache a b c d := by
  unfold State.readDev
  rw [reach_in h]
  obtain ⟨a, b, c, d, e⟩ := touchAll_eq s pa len part
  obtain ⟨a', b', c', d', e'⟩ := noteFilled_eq (s.touchAll pa len part) pa len false
  have he : (s.touchAll pa len part).noteFilled pa len false = s.withCache a' b' c' d' := by rw [e', e]; rfl
  dsimp only
  rw [he]
  obtain ⟨p, f, c2, h'⟩ := sectorsRead_eq (s.withCache a' b' c' d') (pa / 256) (sectorCount pa len)
  generalize hr : (s.withCache a' b' c' d').sectorsRead (pa / 256) (sectorCount pa len) = r at h'
  obtain ⟨s', x⟩ := r
  dsimp only at h'
  subst h'
  refine ⟨p, f, a', b', c2, d', ?_⟩
  cases x <;> rfl

/-- A new copy changes the copies alone. -/
theorem addCopy_eq (s : State) (c : Copy) : ∃ l n, s.addCopy c = { s with copies := l, free := n } := by
  unfold State.addCopy
  dsimp only
  split
  · split
    · exact ⟨_, s.free, rfl⟩
    · dsimp only [State.newFree]
      split <;> exact ⟨_, _, rfl⟩
  · exact ⟨_, s.free, rfl⟩

/-- A fill of an L1 line changes no byte of memory. -/
theorem fillL1_eq {s : State} {pair pa lease part : Nat} (h : pa / 256 * 256 + 256 ≤ s.installed) :
    ∃ p f a b c d l, s.fillL1 pair pa lease part = { (s.withMem s.mem p f).withCache a b c d with copies := l } := by
  unfold State.fillL1
  dsimp only
  obtain ⟨p, f, a, b, c, d, e⟩ := readDev_eq part h
  generalize hr : s.readDev (pa / 256 * 256) 256 part = r at e
  obtain ⟨s', x⟩ := r
  dsimp only at e
  subst e
  cases x with
  | error _ => exact ⟨p, f, a, b, c, d, _, rfl⟩
  | ok bytes =>
    dsimp only [State.grant]
    obtain ⟨a', b', e'⟩ := raise_eq ((s.withMem s.mem p f).withCache a b c d) (pa / 256 * 256) (((s.withMem s.mem p f).withCache a b c d).gt + 256 <<< lease) 0
    rw [e']
    generalize hc : State.addCopy _ _ = r
    obtain ⟨l, n, e2⟩ := addCopy_eq _ _
    rw [e2] at hc
    subst hc
    exact ⟨p, f, a', b', c, n, l, rfl⟩

end Sys2Proof.Machine
end

