-- ==== Sys2Proof/Laws/PerInstr.lean ====
section
/-! SUPPORT. One fact of every instruction's syntax: how long its encoding is (spec/09 R195, R202). A command or an event of the device
has no word, FFMA4 has two, and every other instruction of a code stream has one. -/

namespace Sys2Proof.Laws.F

/-- A number has as many bytes as it is written in. -/
theorem length_natLe (n v : Nat) : (Machine.natLe n v).length = n := by
  induction n generalizing v with
  | zero => rfl
  | succ n ih => simp [Machine.natLe, ih]

/-- The bytes of an instruction are those of its words, of which there are at most two. -/
def Statement (i : Instr) : Prop := (encodeBytes i).length = 8 * (encode i).length ∧ (encode i).length ≤ 2

/-- An instruction of no word. -/
theorem of_none {i : Instr} (h : encode i = []) : Statement i := by simp [Statement, encodeBytes, h]

/-- An instruction of one word. -/
theorem of_one {i : Instr} {w : DWord} (h : encode i = [w]) : Statement i := by simp [Statement, encodeBytes, h, length_natLe]

/-- An instruction of two words. -/
theorem of_two {i : Instr} {w x : DWord} (h : encode i = [w, x]) : Statement i := by simp [Statement, encodeBytes, h, length_natLe]

theorem nop (w : FWord) : Statement (.nop w) := of_one rfl
theorem pFormPair (w : PWord) : Statement (.pFormPair w) := of_one rfl
theorem iadd (w : FWord) : Statement (.iadd w) := of_one rfl
theorem isub (w : FWord) : Statement (.isub w) := of_one rfl
theorem imul (w : FWord) : Statement (.imul w) := of_one rfl
theorem imulh (w : FWord) : Statement (.imulh w) := of_one rfl
theorem imad (w : FWord) : Statement (.imad w) := of_one rfl
theorem iaddc (w : FWord) : Statement (.iaddc w) := of_one rfl
theorem imin (w : FWord) : Statement (.imin w) := of_one rfl
theorem imax (w : FWord) : Statement (.imax w) := of_one rfl
theorem iabs (w : FWord) : Statement (.iabs w) := of_one rfl
theorem and (w : FWord) : Statement (.and w) := of_one rfl
theorem or (w : FWord) : Statement (.or w) := of_one rfl
theorem xor (w : FWord) : Statement (.xor w) := of_one rfl
theorem andn (w : FWord) : Statement (.andn w) := of_one rfl
theorem shl (w : FWord) : Statement (.shl w) := of_one rfl
theorem shr (w : FWord) : Statement (.shr w) := of_one rfl
theorem sar (w : FWord) : Statement (.sar w) := of_one rfl
theorem rotl (w : FWord) : Statement (.rotl w) := of_one rfl
theorem bfx (w : FWord) : Statement (.bfx w) := of_one rfl
theorem bfi (w : FWord) : Statement (.bfi w) := of_one rfl
theorem popc (w : FWord) : Statement (.popc w) := of_one rfl
theorem clz (w : FWord) : Statement (.clz w) := of_one rfl
theorem ctz (w : FWord) : Statement (.ctz w) := of_one rfl
theorem brev (w : FWord) : Statement (.brev w) := of_one rfl
theorem perm (w : FWord) : Statement (.perm w) := of_one rfl
theorem sel (w : FWord) : Statement (.sel w) := of_one rfl
theorem icmp (w : FWord) : Statement (.icmp w) := of_one rfl
theorem mov (w : FWord) : Statement (.mov w) := of_one rfl
theorem li (w : ImmWord) : Statement (.li w) := of_one rfl
theorem iadd64 (w : FWord) : Statement (.iadd64 w) := of_one rfl
theorem isub64 (w : FWord) : Statement (.isub64 w) := of_one rfl
theorem imad64 (w : FWord) : Statement (.imad64 w) := of_one rfl
theorem shl64 (w : FWord) : Statement (.shl64 w) := of_one rfl
theorem shr64 (w : FWord) : Statement (.shr64 w) := of_one rfl
theorem sar64 (w : FWord) : Statement (.sar64 w) := of_one rfl
theorem icmp64 (w : FWord) : Statement (.icmp64 w) := of_one rfl
theorem mov64 (w : FWord) : Statement (.mov64 w) := of_one rfl
theorem cderive (w : FWord) : Statement (.cderive w) := of_one rfl
theorem caim (w : FWord) : Statement (.caim w) := of_one rfl
theorem cstep (w : FWord) : Statement (.cstep w) := of_one rfl
theorem cfloor (w : FWord) : Statement (.cfloor w) := of_one rfl
theorem cspan (w : FWord) : Statement (.cspan w) := of_one rfl
theorem cwhere (w : FWord) : Statement (.cwhere w) := of_one rfl
theorem cnarrow (w : FWord) : Statement (.cnarrow w) := of_one rfl
theorem cprobe (w : FWord) : Statement (.cprobe w) := of_one rfl
theorem ckind (w : FWord) : Statement (.ckind w) := of_one rfl
theorem fadd (w : FWord) : Statement (.fadd w) := of_one rfl
theorem fsub (w : FWord) : Statement (.fsub w) := of_one rfl
theorem fmul (w : FWord) : Statement (.fmul w) := of_one rfl
theorem ffma (w : FWord) : Statement (.ffma w) := of_one rfl
theorem ffms (w : FWord) : Statement (.ffms w) := of_one rfl
theorem fnma (w : FWord) : Statement (.fnma w) := of_one rfl
theorem fmin (w : FWord) : Statement (.fmin w) := of_one rfl
theorem fmax (w : FWord) : Statement (.fmax w) := of_one rfl
theorem fcmp (w : FWord) : Statement (.fcmp w) := of_one rfl
theorem frnd (w : FWord) : Statement (.frnd w) := of_one rfl
theorem ffrac (w : FWord) : Statement (.ffrac w) := of_one rfl
theorem fclass (w : FWord) : Statement (.fclass w) := of_one rfl
theorem frcp (w : FWord) : Statement (.frcp w) := of_one rfl
theorem frsq (w : FWord) : Statement (.frsq w) := of_one rfl
theorem fsqrt (w : FWord) : Statement (.fsqrt w) := of_one rfl
theorem fex2 (w : FWord) : Statement (.fex2 w) := of_one rfl
theorem flg2 (w : FWord) : Statement (.flg2 w) := of_one rfl
theorem fsin (w : FWord) : Statement (.fsin w) := of_one rfl
theorem fcos (w : FWord) : Statement (.fcos w) := of_one rfl
theorem hadd2 (w : FWord) : Statement (.hadd2 w) := of_one rfl
theorem hsub2 (w : FWord) : Statement (.hsub2 w) := of_one rfl
theorem hmul2 (w : FWord) : Statement (.hmul2 w) := of_one rfl
theorem hfma2 (w : FWord) : Statement (.hfma2 w) := of_one rfl
theorem hmin2 (w : FWord) : Statement (.hmin2 w) := of_one rfl
theorem hmax2 (w : FWord) : Statement (.hmax2 w) := of_one rfl
theorem hcmp2 (w : FWord) : Statement (.hcmp2 w) := of_one rfl
theorem dadd (w : FWord) : Statement (.dadd w) := of_one rfl
theorem dmul (w : FWord) : Statement (.dmul w) := of_one rfl
theorem dfma (w : FWord) : Statement (.dfma w) := of_one rfl
theorem dcmp (w : FWord) : Statement (.dcmp w) := of_one rfl
theorem cvt (w : FWord) : Statement (.cvt w) := of_one rfl
theorem cvtn (w : FWord) : Statement (.cvtn w) := of_one rfl
theorem cvtw (w : FWord) : Statement (.cvtw w) := of_one rfl
theorem dot4 (w : FWord) : Statement (.dot4 w) := of_one rfl
theorem dot8 (w : FWord) : Statement (.dot8 w) := of_one rfl
theorem dot2h (w : FWord) : Statement (.dot2h w) := of_one rfl
theorem ffma4 (w : FWord) (x : XWord) : Statement (.ffma4 w x) := of_two rfl
theorem shfl (w : FWord) : Statement (.shfl w) := of_one rfl
theorem shflx (w : FWord) : Statement (.shflx w) := of_one rfl
theorem shflup (w : FWord) : Statement (.shflup w) := of_one rfl
theorem shfldn (w : FWord) : Statement (.shfldn w) := of_one rfl
theorem ballot (w : FWord) : Statement (.ballot w) := of_one rfl
theorem vote (w : FWord) : Statement (.vote w) := of_one rfl
theorem red (w : FWord) : Statement (.red w) := of_one rfl
theorem scan (w : FWord) : Statement (.scan w) := of_one rfl
theorem matchv (w : FWord) : Statement (.matchv w) := of_one rfl
theorem elect (w : FWord) : Statement (.elect w) := of_one rfl
theorem ddx (w : FWord) : Statement (.ddx w) := of_one rfl
theorem ddy (w : FWord) : Statement (.ddy w) := of_one rfl
theorem rduni (w : FWord) : Statement (.rduni w) := of_one rfl
theorem rclaim (w : FWord) : Statement (.rclaim w) := of_one rfl
theorem rclaimt (w : FWord) : Statement (.rclaimt w) := of_one rfl
theorem rrelease (w : FWord) : Statement (.rrelease w) := of_one rfl
theorem rshare (w : FWord) : Statement (.rshare w) := of_one rfl
theorem runshare (w : FWord) : Statement (.runshare w) := of_one rfl
theorem deposit (w : FWord) : Statement (.deposit w) := of_one rfl
theorem rmark (w : FWord) : Statement (.rmark w) := of_one rfl
theorem rarriv (w : FWord) : Statement (.rarriv w) := of_one rfl
theorem ld (w : MemWord) : Statement (.ld w) := of_one rfl
theorem st (w : MemWord) : Statement (.st w) := of_one rfl
theorem ldf (w : MemWord) : Statement (.ldf w) := of_one rfl
theorem stf (w : MemWord) : Statement (.stf w) := of_one rfl
theorem stcmp (w : MemWord) : Statement (.stcmp w) := of_one rfl
theorem ldexp (w : MemWord) : Statement (.ldexp w) := of_one rfl
theorem atom (w : MemWord) : Statement (.atom w) := of_one rfl
theorem ldcap (w : MemWord) : Statement (.ldcap w) := of_one rfl
theorem stcap (w : MemWord) : Statement (.stcap w) := of_one rfl
theorem sample (w : FWord) : Statement (.sample w) := of_one rfl
theorem fetch (w : FWord) : Statement (.fetch w) := of_one rfl
theorem rquery (w : FWord) : Statement (.rquery w) := of_one rfl
theorem trace (w : FWord) : Statement (.trace w) := of_one rfl
theorem pref (w : MemWord) : Statement (.pref w) := of_one rfl
theorem fence (w : FWord) : Statement (.fence w) := of_one rfl
theorem spwb (w : MemWord) : Statement (.spwb w) := of_one rfl
theorem dalloc (w : FWord) : Statement (.dalloc w) := of_one rfl
theorem dfree (w : FWord) : Statement (.dfree w) := of_one rfl
theorem bra (w : BrWord) : Statement (.bra w) := of_one rfl
theorem brai (w : FWord) : Statement (.brai w) := of_one rfl
theorem call (w : BrWord) : Statement (.call w) := of_one rfl
theorem calli (w : FWord) : Statement (.calli w) := of_one rfl
theorem ret (w : FWord) : Statement (.ret w) := of_one rfl
theorem retH (w : FWord) : Statement (.retH w) := of_one rfl
theorem join (w : FWord) : Statement (.join w) := of_one rfl
theorem yield (w : FWord) : Statement (.yield w) := of_one rfl
theorem exit (w : FWord) : Statement (.exit w) := of_one rfl
theorem bar (w : FWord) : Statement (.bar w) := of_one rfl
theorem flagadd (w : FWord) : Statement (.flagadd w) := of_one rfl
theorem flagwait (w : FWord) : Statement (.flagwait w) := of_one rfl
theorem qpush (w : FWord) : Statement (.qpush w) := of_one rfl
theorem qpop (w : FWord) : Statement (.qpop w) := of_one rfl
theorem trap (w : FWord) : Statement (.trap w) := of_one rfl
theorem brk (w : FWord) : Statement (.brk w) := of_one rfl
theorem sleep (w : FWord) : Statement (.sleep w) := of_one rfl
theorem rdsys (w : FWord) : Statement (.rdsys w) := of_one rfl
theorem wrsys (w : FWord) : Statement (.wrsys w) := of_one rfl
theorem cpy (w : FWord) : Statement (.cpy w) := of_one rfl
theorem cpyg (w : FWord) : Statement (.cpyg w) := of_one rfl
theorem cpys (w : FWord) : Statement (.cpys w) := of_one rfl
theorem hwait (w : FWord) : Statement (.hwait w) := of_one rfl
theorem htest (w : FWord) : Statement (.htest w) := of_one rfl
theorem hcancel (w : FWord) : Statement (.hcancel w) := of_one rfl
theorem ringinit (w : FWord) : Statement (.ringinit w) := of_one rfl
theorem rwait (w : FWord) : Statement (.rwait w) := of_one rfl
theorem rfree (w : FWord) : Statement (.rfree w) := of_one rfl
theorem macq (w : FWord) : Statement (.macq w) := of_one rfl
theorem mrel (w : FWord) : Statement (.mrel w) := of_one rfl
theorem mzero (w : FWord) : Statement (.mzero w) := of_one rfl
theorem mma (w : FWord) : Statement (.mma w) := of_one rfl
theorem mmag (w : FWord) : Statement (.mmag w) := of_one rfl
theorem mload (w : FWord) : Statement (.mload w) := of_one rfl
theorem mstore (w : FWord) : Statement (.mstore w) := of_one rfl
theorem mstoreg (w : FWord) : Statement (.mstoreg w) := of_one rfl
theorem amaxstep (w : FWord) : Statement (.amaxstep w) := of_one rfl
theorem ireq (w : FWord) : Statement (.ireq w) := of_one rfl
theorem ireqUnb (w : FWord) : Statement (.ireqUnb w) := of_one rfl
theorem beam (w : FWord) : Statement (.beam w) := of_one rfl
theorem launch (w : FWord) : Statement (.launch w) := of_one rfl
theorem tlblock (w : FWord) : Statement (.tlblock w) := of_one rfl
theorem tlbunlock (w : FWord) : Statement (.tlbunlock w) := of_one rfl
theorem cpin (w : FWord) : Statement (.cpin w) := of_one rfl
theorem launchGrid (win : Nat) : Statement (.launchGrid win) := of_none rfl
theorem setContext (win : Nat) : Statement (.setContext win) := of_none rfl
theorem loadImage (win : Nat) : Statement (.loadImage win) := of_none rfl
theorem writeValue (win : Nat) : Statement (.writeValue win) := of_none rfl
theorem waitValue (win : Nat) : Statement (.waitValue win) := of_none rfl
theorem copy (win : Nat) : Statement (.copy win) := of_none rfl
theorem decompress (win : Nat) : Statement (.decompress win) := of_none rfl
theorem partition (win : Nat) : Statement (.partition win) := of_none rfl
theorem pin (win : Nat) : Statement (.pin win) := of_none rfl
theorem latencyTolerance (win : Nat) : Statement (.latencyTolerance win) := of_none rfl
theorem saveContext (win : Nat) : Statement (.saveContext win) := of_none rfl
theorem resume (win : Nat) : Statement (.resume win) := of_none rfl
theorem waitValueTimeout (win : Nat) : Statement (.waitValueTimeout win) := of_none rfl
theorem windowEntryWrite (svc : Bool) (off size : Nat) (value : DWord) : Statement (.windowEntryWrite svc off size value) := of_none rfl
theorem bar0RegisterWrite (off size : Nat) (value : DWord) : Statement (.bar0RegisterWrite off size value) := of_none rfl
theorem sealAccept (win : Nat) : Statement (.sealAccept win) := of_none rfl
theorem commandComplete (win : Nat) : Statement (.commandComplete win) := of_none rfl
theorem hostMemRead (port pa len : Nat) : Statement (.hostMemRead port pa len) := of_none rfl
theorem hostMemWrite (port pa : Nat) (data : List Byte) : Statement (.hostMemWrite port pa data) := of_none rfl
theorem hostAtomic (port pa size : Nat) (kind : HostAtom) (value compare : DWord) : Statement (.hostAtomic port pa size kind value compare) := of_none rfl
theorem teamPlace : Statement .teamPlace := of_none rfl
theorem gangReserve : Statement .gangReserve := of_none rfl
theorem gangCommit : Statement .gangCommit := of_none rfl
theorem reckonerFailover : Statement .reckonerFailover := of_none rfl
theorem teamEnd (team : Nat) : Statement (.teamEnd team) := of_none rfl
theorem pairIdle (pair : Nat) : Statement (.pairIdle pair) := of_none rfl
theorem gridRetire (grid : Nat) : Statement (.gridRetire grid) := of_none rfl
theorem childDoneWrite (grid : Nat) : Statement (.childDoneWrite grid) := of_none rfl
theorem loadResultReturn (access : Nat) : Statement (.loadResultReturn access) := of_none rfl
theorem storeAck (access : Nat) : Statement (.storeAck access) := of_none rfl
theorem homeWriteApply (access piece : Nat) : Statement (.homeWriteApply access piece) := of_none rfl
theorem homeLoadServe (access piece : Nat) (data : List Byte) : Statement (.homeLoadServe access piece data) := of_none rfl
theorem sectorFillComplete (pair sector : Nat) : Statement (.sectorFillComplete pair sector) := of_none rfl
theorem writebackComplete (pair sector : Nat) : Statement (.writebackComplete pair sector) := of_none rfl
theorem ownerFault (fault : Nat) : Statement (.ownerFault fault) := of_none rfl
theorem faultRestart (fault : Nat) (writes : List (Nat × DWord)) : Statement (.faultRestart fault writes) := of_none rfl
theorem faultDecline (fault : Nat) : Statement (.faultDecline fault) := of_none rfl
theorem tlbInvalidate (ctx region page pages : Nat) (moves : List (Nat × Nat)) (writes : List (Nat × DWord)) : Statement (.tlbInvalidate ctx region page pages moves writes) := of_none rfl
theorem invalidateComplete (request : Nat) : Statement (.invalidateComplete request) := of_none rfl
theorem gridEnd (grid : Nat) : Statement (.gridEnd grid) := of_none rfl
theorem masterReset (kind : MasterKind) (unit : Nat) : Statement (.masterReset kind unit) := of_none rfl
theorem abacusHangReset (pair layer : Nat) : Statement (.abacusHangReset pair layer) := of_none rfl
theorem matrixResetDeliver (team : Nat) : Statement (.matrixResetDeliver team) := of_none rfl
theorem abacusLeaseGrant (pair : Nat) : Statement (.abacusLeaseGrant pair) := of_none rfl
theorem abacusChunk (pair layer : Nat) : Statement (.abacusChunk pair layer) := of_none rfl
theorem watchdogExpire (pair rod : Nat) : Statement (.watchdogExpire pair rod) := of_none rfl
theorem sleepWake (a : Agent) : Statement (.sleepWake a) := of_none rfl
theorem depositArrive (deposit : Nat) : Statement (.depositArrive deposit) := of_none rfl
theorem ifetchFill (a : Agent) : Statement (.ifetchFill a) := of_none rfl
theorem engineOpStart (op : Nat) : Statement (.engineOpStart op) := of_none rfl
theorem engineWriteAck (op units : Nat) : Statement (.engineWriteAck op units) := of_none rfl
theorem handleResolve (op : Nat) : Statement (.handleResolve op) := of_none rfl
theorem ringSlotClaim (op : Nat) : Statement (.ringSlotClaim op) := of_none rfl
theorem remainderAppend (append : Nat) : Statement (.remainderAppend append) := of_none rfl
theorem islandRequestAccept (kind unit stream : Nat) : Statement (.islandRequestAccept kind unit stream) := of_none rfl
theorem islandResponse (kind unit : Nat) : Statement (.islandResponse kind unit) := of_none rfl
theorem islandConfigError (kind unit : Nat) : Statement (.islandConfigError kind unit) := of_none rfl
theorem blendCommit (cluster request : Nat) : Statement (.blendCommit cluster request) := of_none rfl
theorem blockModeWrite (cluster : Nat) : Statement (.blockModeWrite cluster) := of_none rfl
theorem splatSortRelease (cluster slot tile : Nat) : Statement (.splatSortRelease cluster slot tile) := of_none rfl
theorem powerExitComplete (unit : PowerUnit) : Statement (.powerExitComplete unit) := of_none rfl
theorem preemptRequest (ctx : Nat) : Statement (.preemptRequest ctx) := of_none rfl
theorem saveAreaWrite (ctx : Nat) : Statement (.saveAreaWrite ctx) := of_none rfl
theorem linkLockLost (port : Nat) : Statement (.linkLockLost port) := of_none rfl
theorem linkLockRegained (port : Nat) : Statement (.linkLockRegained port) := of_none rfl
theorem linkLost (port : Nat) : Statement (.linkLost port) := of_none rfl
theorem trainingComplete (port : Nat) : Statement (.trainingComplete port) := of_none rfl
theorem graceExpire (ctx : Nat) : Statement (.graceExpire ctx) := of_none rfl
theorem flitReceive (port : Nat) (crcOk replayOk : Bool) (body : List Byte) : Statement (.flitReceive port crcOk replayOk body) := of_none rfl
theorem granuleIdleFlush (port : Nat) : Statement (.granuleIdleFlush port) := of_none rfl
theorem powerStateEnter (unit : PowerUnit) (level : Nat) : Statement (.powerStateEnter unit level) := of_none rfl
theorem powerWake (unit : PowerUnit) : Statement (.powerWake unit) := of_none rfl
theorem powerIssueHold (pair rod cycles : Nat) : Statement (.powerIssueHold pair rod cycles) := of_none rfl
theorem deviceReset (boot : BootInput) : Statement (.deviceReset boot) := of_none rfl
theorem fencePassComplete (a : Agent) : Statement (.fencePassComplete a) := of_none rfl
theorem unassignedOpcodeWord (w : DWord) : Statement (.unassignedOpcodeWord w) := of_one rfl
theorem debuggerResume (fault : Nat) (pc : Option (BitVec 48)) : Statement (.debuggerResume fault pc) := of_none rfl
theorem mailboxSend (source target : Nat) (message : List Byte) : Statement (.mailboxSend source target message) := of_none rfl
theorem wavelengthRetrained (port wavelength : Nat) (restored : Bool) : Statement (.wavelengthRetrained port wavelength restored) := of_none rfl

end Sys2Proof.Laws.F
end

