-- ==== Sys2Proof/Tests/Slice0.lean ====
section
/-! SUPPORT. Tests: ill-formed terms, words of the manual and their decoding, results of its worked cases, single steps, and for every
statement a state and operands that meet its hypotheses. -/

set_option Elab.async false

namespace Sys2Proof.Tests.Slice0
open Sys2Proof Sys2Proof.Machine

/-! ## Ill-formed terms -/

/-- Words under the wrong constructor: RET and RET.h by MOD bit 1, IREQ and IREQ.unb by MOD bit 2, an assigned word called unassigned. -/
theorem test_ill_words : ∀ i ∈ ([.ret ⟨0, 0, 0, 0, false, false, false, false, false, false, 2⟩, .retH ⟨0, 0, 0, 0, false, false, false, false, false, false, 0⟩,
    .ireq ⟨112, 0, 0, 0, false, false, false, false, false, false, 4⟩, .ireqUnb ⟨112, 0, 0, 0, false, false, false, false, false, false, 1⟩,
    .unassignedOpcodeWord 0] : List Instr), wellFormed i = false := by decide

/-- Commands and window events of a window that does not exist, and register writes outside their part of BAR0. -/
theorem test_ill_windows : ∀ i ∈ ([.launchGrid 64, .setContext 64, .loadImage 64, .writeValue 64, .waitValue 64, .copy 64, .decompress 64, .partition 64, .pin 64,
    .latencyTolerance 64, .saveContext 64, .resume 64, .waitValueTimeout 64, .sealAccept 64, .commandComplete 64, .windowEntryWrite false 0xFF8 8 0,
    .windowEntryWrite false 0x1800 8 0, .bar0RegisterWrite 0x1000 8 0, .bar0RegisterWrite 65536 8 0] : List Instr), wellFormed i = false := by decide

/-- Events of ports, host atomics, contexts and regions that do not exist. -/
theorem test_ill_host : ∀ i ∈ ([.hostMemRead 8 0 4, .hostMemWrite 8 0 [], .hostAtomic 8 0 4 .swap 0 0, .hostAtomic 0 0 2 .swap 0 0, .hostAtomic 0 4 8 .swap 0 0,
    .linkLockLost 8, .linkLockRegained 8, .linkLost 8, .trainingComplete 8, .flitReceive 8 true true [], .granuleIdleFlush 8, .wavelengthRetrained 8 0 true,
    .wavelengthRetrained 0 64 true, .preemptRequest 256, .saveAreaWrite 256, .graceExpire 256, .tlbInvalidate 256 0 0 0 [] [], .tlbInvalidate 0 16 0 0 [] [],
    .mailboxSend 8 0 (List.replicate 64 0), .mailboxSend 0 8 (List.replicate 64 0), .mailboxSend 1 1 (List.replicate 64 0), .mailboxSend 0 1 []] : List Instr),
    wellFormed i = false := by decide

/-- Events of pairs, rods, sectors, islands, masters and power units that do not exist. -/
theorem test_ill_units : ∀ i ∈ ([.pairIdle 256, .sectorFillComplete 256 0, .sectorFillComplete 0 1792, .writebackComplete 256 0, .writebackComplete 0 1792,
    .masterReset .engine 72, .masterReset .island 4096, .masterReset .island (1024 + 256), .masterReset .port 8, .abacusHangReset 256 0, .abacusHangReset 0 2, .abacusLeaseGrant 256,
    .abacusChunk 256 0, .abacusChunk 0 2, .watchdogExpire 256 0, .watchdogExpire 0 32, .islandRequestAccept 4 0 0, .islandRequestAccept 2 64 0,
    .islandResponse 0 512, .islandConfigError 1 256, .blendCommit 64 0, .blockModeWrite 64, .splatSortRelease 64 0 0, .splatSortRelease 0 8 0,
    .powerStateEnter (.core 512) 1, .powerStateEnter .device 0, .powerStateEnter .device 5, .powerWake (.cluster 64), .powerIssueHold 256 0 0,
    .powerIssueHold 0 32 0, .powerExitComplete (.core 512)] : List Instr), wellFormed i = false := by decide
/-- The fields of the worked IADD word of spec/09 (D 10, A 4, B 7, G 2, GN, TB, KB). -/
def f0 : FWord := ⟨10, 4, 7, 2, true, false, true, false, false, true, 0⟩

/-- The fields of the worked ATOM word of spec/10 (D 20, CAP 8, IDX 21, TYPE 6, SCOPE 4). -/
def m0 : MemWord := ⟨20, 8, 21, 0, false, false, false, false, 6, 0, 4, 0⟩

/-- The fields of the worked BRA word of spec/09 (G 3, DIV, TGT +8, JN +20). -/
def b0 : BrWord := ⟨3, false, true, 8, 20⟩

/-- The fields of the worked LI word of spec/09 (D 9, KD, 1.0). -/
def i0 : ImmWord := ⟨9, true, 0, 1065353216⟩

/-- Row 0_ of the opcode map (R228), with the fields of the worked words. -/
theorem test_decode_row_0a : ∀ e ∈ ([(0x0000500400EA9000, .nop f0), (0x0040500400EA9000, .iadd f0), (0x0080500400EA9000, .isub f0), (0x00C0500400EA9000, .imul f0), (0x0100500400EA9000, .imulh f0), (0x0140500400EA9000, .imad f0), (0x0180500400EA9000, .iaddc f0), (0x01C0500400EA9000, .imin f0)] : List (Nat × Instr)), decodeTableWord 64 e.1 = some e.2 := by decide

/-- Row 0_ of the opcode map (R228), with the fields of the worked words. -/
theorem test_decode_row_0b : ∀ e ∈ ([(0x0200500400EA9000, .imax f0), (0x0240500400EA9000, .iabs f0), (0x0280500400EA9000, .and f0), (0x02C0500400EA9000, .or f0), (0x0300500400EA9000, .xor f0), (0x0340500400EA9000, .andn f0), (0x0380500400EA9000, .shl f0), (0x03C0500400EA9000, .shr f0)] : List (Nat × Instr)), decodeTableWord 64 e.1 = some e.2 := by decide

/-- Row 1_ of the opcode map (R228), with the fields of the worked words. -/
theorem test_decode_row_1a : ∀ e ∈ ([(0x0400500400EA9000, .sar f0), (0x0440500400EA9000, .rotl f0), (0x0480500400EA9000, .bfx f0), (0x04C0500400EA9000, .bfi f0), (0x0500500400EA9000, .popc f0), (0x0540500400EA9000, .clz f0), (0x0580500400EA9000, .ctz f0), (0x05C0500400EA9000, .brev f0)] : List (Nat × Instr)), decodeTableWord 64 e.1 = some e.2 := by decide

/-- Row 1_ of the opcode map (R228), with the fields of the worked words. -/
theorem test_decode_row_1b : ∀ e ∈ ([(0x0600500400EA9000, .perm f0), (0x0640500400EA9000, .sel f0), (0x0680500400EA9000, .icmp f0), (0x06C0500400EA9000, .mov f0), (0x87004C003F800000, .li i0), (0x0740500400EA9000, .iadd64 f0), (0x0780500400EA9000, .isub64 f0), (0x07C0500400EA9000, .imad64 f0)] : List (Nat × Instr)), decodeTableWord 64 e.1 = some e.2 := by decide

/-- Row 2_ of the opcode map (R228), with the fields of the worked words. -/
theorem test_decode_row_2 : ∀ e ∈ ([(0x0800500400EA9000, .shl64 f0), (0x0840500400EA9000, .shr64 f0), (0x0880500400EA9000, .sar64 f0), (0x08C0500400EA9000, .icmp64 f0), (0x0900500400EA9000, .mov64 f0)] : List (Nat × Instr)), decodeTableWord 64 e.1 = some e.2 := by decide

/-- Row 3_ of the opcode map (R228), with the fields of the worked words. -/
theorem test_decode_row_3a : ∀ e ∈ ([(0x0C00500400EA9000, .cderive f0), (0x0C40500400EA9000, .caim f0), (0x0C80500400EA9000, .cstep f0), (0x0CC0500400EA9000, .cfloor f0), (0x0D00500400EA9000, .cspan f0), (0x0D40500400EA9000, .cwhere f0), (0x0D80500400EA9000, .cnarrow f0), (0x0DC0500400EA9000, .cprobe f0)] : List (Nat × Instr)), decodeTableWord 64 e.1 = some e.2 := by decide

/-- Row 3_ of the opcode map (R228), with the fields of the worked words. -/
theorem test_decode_row_3b : ∀ e ∈ ([(0x0E00500400EA9000, .ckind f0)] : List (Nat × Instr)), decodeTableWord 64 e.1 = some e.2 := by decide

/-- Row 4_ of the opcode map (R228), with the fields of the worked words. -/
theorem test_decode_row_4a : ∀ e ∈ ([(0x1000500400EA9000, .fadd f0), (0x1040500400EA9000, .fsub f0), (0x1080500400EA9000, .fmul f0), (0x10C0500400EA9000, .ffma f0), (0x1100500400EA9000, .ffms f0), (0x1140500400EA9000, .fnma f0), (0x1180500400EA9000, .fmin f0), (0x11C0500400EA9000, .fmax f0)] : List (Nat × Instr)), decodeTableWord 64 e.1 = some e.2 := by decide

/-- Row 4_ of the opcode map (R228), with the fields of the worked words. -/
theorem test_decode_row_4b : ∀ e ∈ ([(0x1200500400EA9000, .fcmp f0), (0x1240500400EA9000, .frnd f0), (0x1280500400EA9000, .ffrac f0), (0x12C0500400EA9000, .fclass f0), (0x1300500400EA9000, .frcp f0), (0x1340500400EA9000, .frsq f0), (0x1380500400EA9000, .fsqrt f0), (0x13C0500400EA9000, .fex2 f0)] : List (Nat × Instr)), decodeTableWord 64 e.1 = some e.2 := by decide

/-- Row 5_ of the opcode map (R228), with the fields of the worked words. -/
theorem test_decode_row_5a : ∀ e ∈ ([(0x1400500400EA9000, .flg2 f0), (0x1440500400EA9000, .fsin f0), (0x1480500400EA9000, .fcos f0), (0x14C0500400EA9000, .hadd2 f0), (0x1500500400EA9000, .hsub2 f0), (0x1540500400EA9000, .hmul2 f0), (0x1580500400EA9000, .hfma2 f0), (0x15C0500400EA9000, .hmin2 f0)] : List (Nat × Instr)), decodeTableWord 64 e.1 = some e.2 := by decide

/-- Row 5_ of the opcode map (R228), with the fields of the worked words. -/
theorem test_decode_row_5b : ∀ e ∈ ([(0x1600500400EA9000, .hmax2 f0), (0x1640500400EA9000, .hcmp2 f0), (0x1680500400EA9000, .dadd f0), (0x16C0500400EA9000, .dmul f0), (0x1700500400EA9000, .dfma f0), (0x1740500400EA9000, .dcmp f0), (0x1780500400EA9000, .cvt f0), (0x17C0500400EA9000, .cvtn f0)] : List (Nat × Instr)), decodeTableWord 64 e.1 = some e.2 := by decide

/-- Row 6_ of the opcode map (R228), with the fields of the worked words. -/
theorem test_decode_row_6 : ∀ e ∈ ([(0x1800500400EA9000, .cvtw f0), (0x1840500400EA9000, .dot4 f0), (0x1880500400EA9000, .dot8 f0), (0x18C0500400EA9000, .dot2h f0)] : List (Nat × Instr)), decodeTableWord 64 e.1 = some e.2 := by decide

/-- Row 7_ of the opcode map (R228), with the fields of the worked words. -/
theorem test_decode_row_7a : ∀ e ∈ ([(0x1C00500400EA9000, .shfl f0), (0x1C40500400EA9000, .shflx f0), (0x1C80500400EA9000, .shflup f0), (0x1CC0500400EA9000, .shfldn f0), (0x1D00500400EA9000, .ballot f0), (0x1D40500400EA9000, .vote f0), (0x1D80500400EA9000, .red f0), (0x1DC0500400EA9000, .scan f0)] : List (Nat × Instr)), decodeTableWord 64 e.1 = some e.2 := by decide

/-- Row 7_ of the opcode map (R228), with the fields of the worked words. -/
theorem test_decode_row_7b : ∀ e ∈ ([(0x1E00500400EA9000, .matchv f0), (0x1E40500400EA9000, .elect f0), (0x1E80500400EA9000, .ddx f0), (0x1EC0500400EA9000, .ddy f0), (0x1F00500400EA9000, .rduni f0)] : List (Nat × Instr)), decodeTableWord 64 e.1 = some e.2 := by decide

/-- Row 8_ of the opcode map (R228), with the fields of the worked words. -/
theorem test_decode_row_8a : ∀ e ∈ ([(0x2000500400EA9000, .rclaim f0), (0x2040500400EA9000, .rclaimt f0), (0x2080500400EA9000, .rrelease f0), (0x20C0500400EA9000, .rshare f0), (0x2100500400EA9000, .runshare f0), (0x2140500400EA9000, .deposit f0), (0x2180500400EA9000, .rmark f0), (0x21C0500400EA9000, .rarriv f0)] : List (Nat × Instr)), decodeTableWord 64 e.1 = some e.2 := by decide

/-- Row 8_ of the opcode map (R228), with the fields of the worked words. -/
theorem test_decode_row_8b : ∀ e ∈ ([(0xA200A00802A01840, .ld m0), (0xA240A00802A01840, .st m0), (0xA280A00802A01840, .ldf m0), (0xA2C0A00802A01840, .stf m0), (0xA300A00802A01840, .stcmp m0), (0xA340A00802A01840, .ldexp m0), (0xA380A00802A01840, .atom m0), (0xA3C0A00802A01840, .ldcap m0)] : List (Nat × Instr)), decodeTableWord 64 e.1 = some e.2 := by decide

/-- Row 9_ of the opcode map (R228), with the fields of the worked words. -/
theorem test_decode_row_9a : ∀ e ∈ ([(0xA400A00802A01840, .stcap m0), (0x2440500400EA9000, .sample f0), (0x2480500400EA9000, .fetch f0), (0x24C0500400EA9000, .rquery f0), (0x2500500400EA9000, .trace f0), (0xA540A00802A01840, .pref m0), (0x2580500400EA9000, .fence f0), (0xA5C0A00802A01840, .spwb m0)] : List (Nat × Instr)), decodeTableWord 64 e.1 = some e.2 := by decide

/-- Row 9_ of the opcode map (R228), with the fields of the worked words. -/
theorem test_decode_row_9b : ∀ e ∈ ([(0x2600500400EA9000, .dalloc f0), (0x2640500400EA9000, .dfree f0)] : List (Nat × Instr)), decodeTableWord 64 e.1 = some e.2 := by decide

/-- Row A_ of the opcode map (R228), with the fields of the worked words. -/
theorem test_decode_row_aa : ∀ e ∈ ([(0xA81A000008000014, .bra b0), (0x2840500400EA9000, .brai f0), (0xA89A000008000014, .call b0), (0x28C0500400EA9000, .calli f0), (0x2900500400EA9000, .ret f0), (0x2940500400EA9000, .join f0), (0x2980500400EA9000, .yield f0), (0x29C0500400EA9000, .exit f0)] : List (Nat × Instr)), decodeTableWord 64 e.1 = some e.2 := by decide

/-- Row A_ of the opcode map (R228), with the fields of the worked words. -/
theorem test_decode_row_ab : ∀ e ∈ ([(0x2A00500400EA9000, .bar f0), (0x2A40500400EA9000, .flagadd f0), (0x2A80500400EA9000, .flagwait f0), (0x2AC0500400EA9000, .qpush f0), (0x2B00500400EA9000, .qpop f0), (0x2B40500400EA9000, .trap f0), (0x2B80500400EA9000, .brk f0), (0x2BC0500400EA9000, .sleep f0)] : List (Nat × Instr)), decodeTableWord 64 e.1 = some e.2 := by decide

/-- Row B_ of the opcode map (R228), with the fields of the worked words. -/
theorem test_decode_row_ba : ∀ e ∈ ([(0x2C00500400EA9000, .rdsys f0), (0x2C40500400EA9000, .wrsys f0), (0x2E00500400EA9000, .cpy f0), (0x2E40500400EA9000, .cpyg f0), (0x2E80500400EA9000, .cpys f0), (0x2EC0500400EA9000, .hwait f0), (0x2F00500400EA9000, .htest f0), (0x2F40500400EA9000, .hcancel f0)] : List (Nat × Instr)), decodeTableWord 64 e.1 = some e.2 := by decide

/-- Row B_ of the opcode map (R228), with the fields of the worked words. -/
theorem test_decode_row_bb : ∀ e ∈ ([(0x2F80500400EA9000, .ringinit f0), (0x2FC0500400EA9000, .rwait f0)] : List (Nat × Instr)), decodeTableWord 64 e.1 = some e.2 := by decide

/-- Row C_ of the opcode map (R228), with the fields of the worked words. -/
theorem test_decode_row_ca : ∀ e ∈ ([(0x3000500400EA9000, .rfree f0), (0x3040500400EA9000, .macq f0), (0x3080500400EA9000, .mrel f0), (0x30C0500400EA9000, .mzero f0), (0x3100500400EA9000, .mma f0), (0x3140500400EA9000, .mmag f0), (0x3180500400EA9000, .mload f0), (0x31C0500400EA9000, .mstore f0)] : List (Nat × Instr)), decodeTableWord 64 e.1 = some e.2 := by decide

/-- Row C_ of the opcode map (R228), with the fields of the worked words. -/
theorem test_decode_row_cb : ∀ e ∈ ([(0x3200500400EA9000, .mstoreg f0), (0x3240500400EA9000, .amaxstep f0), (0x3280500400EA9000, .ireq f0), (0x32C0500400EA9000, .beam f0), (0x3300500400EA9000, .launch f0), (0x3340500400EA9000, .tlblock f0), (0x3380500400EA9000, .tlbunlock f0), (0x33C0500400EA9000, .cpin f0)] : List (Nat × Instr)), decodeTableWord 64 e.1 = some e.2 := by decide

/-- Words of the manual's worked cases (spec/09 to spec/26), with the fields stated there. -/
theorem test_decode_manual_1 : ∀ e ∈ ([(0x0040500400EA9000, .iadd ⟨10, 4, 7, 2, true, false, true, false, false, true, 0⟩),
    (0xA81A000008000014, .bra ⟨3, false, true, 8, 20⟩),
    (0x87004C003F800000, .li ⟨9, true, 0, 1065353216⟩),
    (0x40840480030E0005, .pFormPair ⟨1, 8, 9, 0, 3, 14, 0, 5⟩),
    (0xA380A00802A01840, .atom ⟨20, 8, 21, 0, false, false, false, false, 6, 0, 4, 0⟩),
    (0x2A00000000000003, .bar ⟨0, 0, 0, 0, false, false, false, false, false, false, 3⟩),
    (0x2A40000200E40000, .flagadd ⟨0, 2, 7, 1, false, false, false, false, false, false, 0⟩)] : List (Nat × Instr)),
    decodeTableWord 64 e.1 = some e.2 := by decide

/-- Words of the manual's worked cases (spec/09 to spec/26), with the fields stated there. -/
theorem test_decode_manual_2 : ∀ e ∈ ([(0x2B00600100000002, .qpop ⟨12, 1, 0, 0, false, false, false, false, false, false, 2⟩),
    (0xA880000080000000, .call ⟨0, false, false, 128, 0⟩),
    (0x06801005FFA00802, .icmp ⟨2, 5, 2045, 0, false, false, false, false, false, false, 2050⟩),
    (0x0C00800803000041, .cderive ⟨16, 8, 24, 0, false, false, false, false, false, false, 65⟩),
    (0x10C0500400E01027, .ffma ⟨10, 4, 7, 0, false, false, false, false, false, true, 39⟩),
    (0xA200A00802A01182, .ld ⟨20, 8, 21, 0, false, false, false, false, 4, 3, 0, 2⟩),
    (0xA300F00800A05000, .stcmp ⟨30, 8, 5, 0, false, false, false, true, 4, 0, 0, 0⟩)] : List (Nat × Instr)),
    decodeTableWord 64 e.1 = some e.2 := by decide

/-- Words of the manual's worked cases (spec/09 to spec/26), with the fields stated there. -/
theorem test_decode_manual_3 : ∀ e ∈ ([(0x2580000000000011, .fence ⟨0, 0, 0, 0, false, false, false, false, false, false, 17⟩),
    (0x2441400004002026, .sample ⟨40, 0, 32, 0, false, false, false, false, true, false, 38⟩),
    (0x2000000000600800, .rclaim ⟨0, 0, 3, 0, false, false, false, false, false, false, 2048⟩),
    (0x2E02984402800001, .cpy ⟨83, 68, 20, 0, false, false, false, false, false, false, 1⟩),
    (0x3103102805400007, .mma ⟨98, 40, 42, 0, false, false, false, false, false, false, 7⟩),
    (0x2FC0600000000003, .rwait ⟨12, 0, 0, 0, false, false, false, false, false, false, 3⟩),
    (0x2900000000000002, .retH ⟨0, 0, 0, 0, false, false, false, false, false, false, 2⟩)] : List (Nat × Instr)),
    decodeTableWord 64 e.1 = some e.2 := by decide

/-- Words of the manual's worked cases (spec/09 to spec/26), with the fields stated there. -/
theorem test_decode_manual_4 : ∀ e ∈ ([(0xA80C000009000000, .bra ⟨1, true, false, 9, 0⟩),
    (0x2080000000E00800, .rrelease ⟨0, 0, 7, 0, false, false, false, false, false, false, 2048⟩),
    (0x2A00000000000011, .bar ⟨0, 0, 0, 0, false, false, false, false, false, false, 17⟩),
    (0x1D00300100000003, .ballot ⟨6, 1, 0, 0, false, false, false, false, false, false, 3⟩),
    (0xA30020000284D000, .stcmp ⟨4, 0, 20, 1, false, false, true, true, 4, 0, 0, 0⟩),
    (0x3283A01A00000001, .ireq ⟨116, 26, 0, 0, false, false, false, false, false, false, 1⟩),
    (0x2B00A07400000000, .qpop ⟨20, 116, 0, 0, false, false, false, false, false, false, 0⟩)] : List (Nat × Instr)),
    decodeTableWord 64 e.1 = some e.2 := by decide

/-- Words of the manual's worked cases (spec/09 to spec/26), with the fields stated there. -/
theorem test_decode_manual_5 : ∀ e ∈ ([(0xA240A84403C01801, .st ⟨21, 68, 30, 0, false, false, false, false, 6, 0, 0, 1⟩),
    (0xA809FFFFFA000000, .bra ⟨1, false, false, 33554426, 0⟩),
    (0xA240F84003C00000, .st ⟨31, 64, 30, 0, false, false, false, false, 0, 0, 0, 0⟩),
    (0x0640901302400001, .sel ⟨18, 19, 18, 0, false, false, false, false, false, false, 1⟩),
    (0x3283A81A00000003, .ireq ⟨117, 26, 0, 0, false, false, false, false, false, false, 3⟩),
    (0x2E02884603000010, .cpy ⟨81, 70, 24, 0, false, false, false, false, false, false, 16⟩),
    (0x0C80E00040002800, .cstep ⟨28, 0, 512, 0, false, false, false, false, true, false, 2048⟩)] : List (Nat × Instr)),
    decodeTableWord 64 e.1 = some e.2 := by decide

/-- Words of the manual's worked cases (spec/09 to spec/26), with the fields stated there. -/
theorem test_decode_manual_6 : ∀ e ∈ ([(0x2500A01C01800000, .trace ⟨20, 28, 12, 0, false, false, false, false, false, false, 0⟩),
    (0x2440D00001042020, .sample ⟨26, 0, 8, 1, false, false, false, false, true, false, 32⟩)] : List (Nat × Instr)),
    decodeTableWord 64 e.1 = some e.2 := by decide

/-- RET.h and IREQ.unb are told from RET and IREQ by their MOD bits (R241, R350), and FFMA4 takes the X word after it (R202; the worked word
of spec/13). -/
theorem test_decode_forms : ∀ e ∈ ([(0x2900000000000002, .retH ⟨0, 0, 0, 0, false, false, false, false, false, false, 2⟩), (0x3283A00000000004, .ireqUnb ⟨116, 0, 0, 0, false, false, false, false, false, false, 4⟩)] : List (Nat × Instr)),
    decodeTableWord 64 e.1 = some e.2 := by decide

/-- The worked FFMA4 word pair of spec/13; without its X word, and an X word alone, it is no instruction (R201, R202). -/
theorem test_decode_two_words : decodeTableWord 128 0xC0B80000000000001900A01502C00000 = some (.ffma4 ⟨20, 21, 22, 0, false, false, false, false, false, false, 0⟩ ⟨23, false, false, 0⟩) ∧
    decodeTableWord 64 0x1900A01502C00000 = some (.unassignedOpcodeWord 0x1900A01502C00000) ∧
    decodeTableWord 64 0xC0B8000000000000 = some (.unassignedOpcodeWord 0xC0B8000000000000) := by decide

/-- Unassigned opcodes in every layout (R232; the worked word of spec/10), and an opcode in the wrong layout (R207). -/
theorem test_decode_unassigned : ∀ w ∈ ([0x09C0000000000000, 0x3FC0000000000000, 0xB400000000000000, 0x8040000000000000, 0x2200000000000000] : List Nat),
    decodeTableWord 64 w = some (.unassignedOpcodeWord (BitVec.ofNat 64 w)) := by decide
/-! ## Results: the manual's worked cases -/

/-- A word with MOD, D, A and B. -/
def wf (md : BitVec 12) (d a b : BitVec 11) : FWord := ⟨d, a, b, 0, false, false, false, false, false, false, md⟩
/-- Sources a, b, c and d of 32 bits. -/
def src (a b : Word) (c d : Word := 0) : Src := ⟨val32 a, val32 b, val32 c, val32 d, fun _ => false⟩
/-- The 32-bit result of an instruction. -/
def res (i : Instr) (x : Src) : Option Word := (resultOf i x).map lo32

/-- The worked case of spec/12 R261 to R263. -/
theorem test_integer_worked : res (.iadd (wf 1 1 2 3)) (src 0x7FFFFFF0 0x20) = some 0x7FFFFFFF ∧ res (.isub (wf 2 1 2 3)) (src 5 9) = some 0 ∧
    res (.imulh (wf 1 1 2 3)) (src 0xFFFFFFFE 3) = some 0xFFFFFFFF ∧ res (.iabs (wf 0 1 2 0)) (src 0x80000000 0) = some 0x80000000 ∧
    res (.sar (wf 0 1 2 3)) (src 0x80000001 40) = some 0xFFFFFFFF ∧ res (.bfx (wf 1 1 2 3)) (src 0xA0000000 0x7C) = some 2 ∧
    res (.perm (wf (4 + 0 * 8 + 7 * 64 + 3 * 512) 1 2 3)) (src 0x44332211 0x88776655) = some 0x44881155 := by decide

/-- Hand calculation from R262 and R264: a negative shift amount gives 0, and a 64-bit sum carries. -/
theorem test_shift_and_long : res (.shl (wf 0 1 2 3)) (src 1 0xFFFFFFFF) = some 0 ∧
    resultOf (.iadd64 (wf 0 2 4 6)) ⟨val64 0xFFFFFFFF, val64 1, TCap.null, TCap.null, fun _ => false⟩ = some (val64 0x100000000) := by decide

/-- The worked case of spec/13 R278 and R281: zeros, quiet NaNs, and rounding down. -/
theorem test_float_order_worked : res (.fmin (wf 0 1 2 3)) (src 0 0x80000000) = some 0x80000000 ∧
    res (.fmin (wf 0 1 2 3)) (src 0x7FC01234 0x40400000) = some 0x40400000 ∧ res (.fmin (wf 0x80 1 2 3)) (src 0x7FC01234 0x40400000) = some 0x7FC00000 ∧
    res (.frnd (wf 2 1 2 0)) (src 0xC0200000 0) = some 0xC0400000 ∧ res (.fsqrt (wf 4 1 2 0)) (src 0 0) = some 0x80000000 := by decide

/-- The worked case of spec/13 R284. -/
theorem test_conversion_worked : res (.cvt (wf (10 * 64 + 5 * 4) 1 2 0)) (src 0xC0200000 0) = some 0xFFFFFFFE ∧
    res (.cvt (wf (10 * 64 + 5 * 4) 1 2 0)) (src 0x4F32D05E 0) = some 0x7FFFFFFF ∧ res (.cvt (wf (10 * 64 + 5 * 4) 1 2 0)) (src 0x7FC00000 0) = some 0 ∧
    res (.cvt (wf (10 * 64 + 8 * 4) 1 2 0)) (src 0x4788B800 0) = some 0x7C00 ∧ res (.cvt (wf (1024 + 10 * 64 + 8 * 4) 1 2 0)) (src 0x4788B800 0) = some 0x7BFF ∧
    res (.cvt (wf (1024 + 10 * 64 + 8 * 4) 1 2 0)) (src 0x7F800000 0) = some 0x7C00 := by decide

/-- The worked case of spec/13 R287: 0.3 and 500 into lanes 2 and 3, with SAT and with NSAT. -/
theorem test_narrow_worked : res (.cvtn (wf (1 * 1024) 5 6 7)) (src 0x3E99999A 0x43FA0000 0 0x11111111) = some 0x7E2A1111 ∧
    res (.cvtn (wf (1 * 1024 + 256) 5 6 7)) (src 0x3E99999A 0x43FA0000 0 0x11111111) = some 0x7F2A1111 := by decide

/-- The worked case of spec/13 R289: one rounding of the exact sum, to nearest and up. -/
theorem test_dot_worked : res (.dot4 (wf 0 1 2 3)) (src 0x01B84038 0x38383838 0 0x4B800000) = some 0x4B800001 ∧
    res (.dot4 (wf 3 1 2 3)) (src 0x01B84038 0x38383838 0 0x4B800000) = some 0x4B800002 := by decide

/-- The parent of spec/01's worked case, tagged. -/
def parent : TCap := ⟨0x10C0000180000012345600001234 * 0x10000 + 0x5700, true⟩

/-- The worked case of spec/01: the fields of the quad 0x12345700, 0x34560000, 0x80000012, 0x10C00001. -/
theorem test_capability_fields : (⟨0x10C00001800000123456000012345700, true⟩ : TCap) = parent ∧ capBottom parent = 0x12345600 ∧ capTop parent = 0x1235D600 ∧
    capSpace parent = 1 ∧ capPerm parent = 3 ∧ capCursor parent = 0x12345700 := by decide

/-- The worked case of spec/12: CDERIVE of 1,000 bytes at 0x12345710 with LD, and what its cases raise. -/
theorem test_cderive_worked :
    resultOf (.cderive (wf 0x041 16 8 24)) ⟨parent, ⟨BitVec.ofNat 128 (0x12345710 + 1000 * 2 ^ 64), false⟩, TCap.null, TCap.null, fun _ => false⟩ =
      some ⟨0x10400000040000123457000012345710, true⟩ ∧
    (match specCderive.op 0x041 ⟨parent, ⟨BitVec.ofNat 128 (0x12345710 + 0x18000 * 2 ^ 64), false⟩, TCap.null, TCap.null, fun _ => false⟩ with
      | .error t => decide (t.code = .capBounds)
      | .ok _ => false) = true ∧
    (match specCderive.op 0x081 ⟨parent, ⟨BitVec.ofNat 128 (0x12345710 + 1000 * 2 ^ 64), false⟩, TCap.null, TCap.null, fun _ => false⟩ with
      | .error t => decide (t.code = .capPerm)
      | .ok _ => false) = true := by decide

/-- The worked case of spec/12: CPROBE.inb of the child with 0x3F8 is false (R270). -/
theorem test_cprobe_worked :
    resultOf (.cprobe (wf 1 4 16 0)) ⟨⟨0x10400000040000123457000012345710, true⟩, val32 0x3F8, TCap.null, TCap.null, fun _ => false⟩ = some (valP false) := by decide

/-- Position p of the worked case of spec/15: subgroups of 4, mask 0xEF, 2 live in a parked split, 7 ended. -/
def crossAt (p op : Nat) (exc : Bool) (b : Word) : XthIn :=
  { op := op, exc := exc, size := 4, act := [0, 1, 3, 5, 6], members := if p < 4 then [0, 1, 2, 3] else [5, 6, 7], live := fun u => u != 7,
    val := fun u => [10, 20, 30, 40, 50, 60, 70, 80].getD u 0, pos := p, b := b }
/-- The five active positions of that case. -/
def crossPs : List Nat := [0, 1, 3, 5, 6]

/-- The worked case of spec/15 (R315 to R318). -/
theorem test_cross_worked : crossPs.map (fun p => (specScan.result (crossAt p 0 true 0)).toNat) = [0, 10, 60, 0, 60] ∧
    crossPs.map (fun p => (specRed.result (crossAt p 0 false 0)).toNat) = [100, 100, 100, 130, 130] ∧
    crossPs.map (fun p => ((shuffleSpec 0x70 (fun _ b => (b.toNat : Int))).result (crossAt p 0 false 2)).toNat) = [30, 30, 30, 70, 70] ∧
    crossPs.map (fun p => ((shuffleSpec 0x73 (fun l b => (l : Int) + (b.toNat : Int))).result (crossAt p 0 false 1)).toNat) = [20, 30, 40, 70, 0] ∧
    crossPs.map (fun p => (specElect.result (crossAt p 0 false 0)).toNat) = [1, 0, 0, 1, 0] := by decide

/-- The worked case of spec/03 R83: frames 0x4560 to 0x4567 go to slices 7 down to 0. -/
theorem test_slices_worked : (List.range 8).map (fun k => sliceOf (0x4560 + k)) = [7, 6, 5, 4, 3, 2, 1, 0] := by decide

/-- The worked case of spec/03 R63: 150,000 bytes of local store leave 320 KiB of L1, and none leave 448 KiB. -/
theorem test_l1_worked : l1Size 150000 = 320 * 1024 ∧ l1Size 0 = 448 * 1024 := by decide

/-- The worked case of spec/21 R453: granule 8 differs from granule 0 in bytes 8 and 9. -/
theorem test_tether_worked : deltaBytes 0x300 0 (List.replicate 8 0 ++ [0x00, 0x12] ++ List.replicate 22 0) [0x10, 0x01] =
    List.replicate 8 0 ++ [0x10, 0x13] ++ List.replicate 22 0 ∧
    (match decodeGranule (0xD2 % 4) (List.replicate 8 0 ++ [0x00, 0x12] ++ List.replicate 22 0) [0x00, 0x03, 0x00, 0x00, 0x10, 0x01] with
      | .granule g rest => decide (g = List.replicate 8 0 ++ [0x10, 0x13] ++ List.replicate 22 0 ∧ rest = [])
      | _ => false) = true := by decide
/-! ## Small states -/

/-- The state with one word placed at the only page of a grid of one team, at no move. -/
def placed (w : Nat) : State := { State.reset.withFetchWord 64 w with agenda := [] }
/-- Its first vector split issues. -/
def vs : State := { placed 0 with cur := .vec 1 0 0 }
/-- Its control thread issues. -/
def cs : State := { placed 0 with cur := .ctl 1 }
/-- The focus of the split. -/
def vf : Foc := (focus vs).get (by decide)
/-- The team of the control thread. -/
def ct : Team := (cs.team 1).get (by decide)
/-- No k register of a rank has an error when none that it holds has. -/
theorem kregs_sound {r : Rank} (h : r.k.all (fun e => !e.2.err) = true) (n : Nat) : (r.kreg n).err = false := by
  unfold Rank.kreg
  generalize r.k = t at h
  induction t with
  | nil => rfl
  | cons e t ih =>
    simp only [List.all_cons, Bool.and_eq_true] at h
    simp only [tabGet]
    split
    · simpa using h.1
    · exact ih h.2
theorem vec_of {s : State} {f : Foc} (hf : focus s = some f) (hk : f.r.k.all (fun e => !e.2.err) = true) (hh : s.hole = none) : VecIssues s f :=
  ⟨hf, kregs_sound hk, hh⟩
theorem vf_issues : VecIssues vs vf := vec_of (Option.some_get _).symm (by decide) rfl
theorem ct_issues : CtlIssues cs ct := ⟨by decide, (Option.some_get _).symm, by decide, by decide⟩
/-- A value of an option that is not none. -/
theorem some_of {α : Type} {o : Option α} (h : o.isSome = true) : ∃ x, o = some x := Option.isSome_iff_exists.mp h
theorem has_of {α : Type} {o : Option α} {q : α → Bool} (h : o.any q = true) : ∃ x, o = some x ∧ q x = true := by
  cases o with
  | none => simp at h
  | some x => exact ⟨x, rfl, by simpa using h⟩
/-- The control thread with its team changed. -/
def csOf (f : Team → Team) : State := cs.putTeam (f ct)
/-- The team so changed. -/
def ctOf (f : Team → Team) : Team := ((csOf f).team 1).getD ct
/-- The split with its rank changed. -/
def vsOf (f : Rank → Rank) : State := vs.putTeam (vf.t.putRank (f vf.r))
/-- Its focus. -/
def vfOf (f : Rank → Rank) : Foc := (focus (vsOf f)).getD vf
theorem vfOf_issues {f : Rank → Rank} (h : (focus (vsOf f)).isSome = true) (hh : (vsOf f).hole = none)
    (hk : (vfOf f).r.k.all (fun e => !e.2.err) = true := by decide) : VecIssues (vsOf f) (vfOf f) := by
  refine vec_of ?_ hk hh
  obtain ⟨x, hx⟩ := some_of h
  simp [vfOf, hx]
/-- The team of a placed control thread. -/
theorem ctOf_team {f : Team → Team} (h : ((csOf f).team 1).isSome = true) (hu : (ctOf f).uid = 1) : (csOf f).team (ctOf f).uid = some (ctOf f) := by
  obtain ⟨x, hx⟩ := some_of h
  rw [hu]; simp [ctOf, hx]
theorem ctOf_issues {f : Team → Team} (h : ((csOf f).team 1).isSome = true) (hu : (ctOf f).uid = 1) (he : (ctOf f).ctl.errs = [] := by decide) :
    CtlIssues (csOf f) (ctOf f) := by
  refine ⟨?_, ctOf_team h hu, he, rfl⟩
  rw [hu]; rfl
/-- The instructions of a step that goes on. -/
def nextOf (o : Host.Outcome State Fault Refusal) : Option State := match o with | .next s => some s | _ => none
theorem nextOf_some {o : Host.Outcome State Fault Refusal} (h : (nextOf o).isSome = true) : ∃ t, o = .next t := by
  cases o <;> simp_all [nextOf]
theorem reads_of {r : Rank} {ps : List Nat} {o : Opd} {f : Fld} (h : ∀ p ∈ ps, (readOpd r p o f).toOption.isSome = true) : Reads r ps o f := by
  intro p hp
  have := h p hp
  unfold readVal
  cases hr : readOpd r p o f <;> simp_all [Except.toOption]
theorem read_gives {α : Type} {r : Rank} {ps : List Nat} {o : Opd} {f : Fld} {q : TCap → α} {a : α}
    (h : ∀ p ∈ ps, (readOpd r p o f).toOption.map q = some a) : ∀ p ∈ ps, ∃ v, readOpd r p o f = .ok v ∧ q v = a := by
  intro p hp
  have := h p hp
  cases hr : readOpd r p o f <;> simp_all [Except.toOption]
theorem pair_ok {α β ε : Type} {x : α × Except ε β} {q : α → β → Bool} (h : x.2.toOption.any (q x.1) = true) : ∃ s p, x = (s, .ok p) ∧ q s p = true := by
  obtain ⟨s, p⟩ := x
  cases p with
  | error e => simp [Except.toOption] at h
  | ok p => exact ⟨s, p, rfl, by simpa [Except.toOption] using h⟩

theorem page_of {x : State × Tr} {q : State → Page → Bool} (h : (match x.2 with | .page p => q x.1 p | _ => false) = true) :
    ∃ (s : State) (p : Page), x = (s, .page p) ∧ q s p = true := by
  obtain ⟨s, t⟩ := x
  cases t with
  | page p => exact ⟨s, p, rfl, h⟩
  | sparse => simp at h
  | fault t => simp at h
  | migrating => simp at h
theorem word_of {x : State × Fetched} {q : State → DWord → Bool} (h : (match x.2 with | .word w => q x.1 w | _ => false) = true) :
    ∃ (s : State) (w : DWord), x = (s, .word w) ∧ q s w = true := by
  obtain ⟨s, t⟩ := x
  cases t with
  | word w => exact ⟨s, w, rfl, h⟩
  | miss => simp at h
  | trap t => simp at h
theorem sparse_of {x : State × Tr} (h : (match x.2 with | .sparse => x.1.hole.isNone | _ => false) = true) : ∃ s, x = (s, .sparse) ∧ s.hole = none := by
  obtain ⟨s, t⟩ := x
  cases t with
  | sparse => exact ⟨s, rfl, by simpa using h⟩
  | page p => simp at h
  | fault t => simp at h
  | migrating => simp at h
theorem none_of {α β : Type} {x : α × Option β} (h : x.2.isNone = true) : ∃ s, x = (s, none) := ⟨x.1, by obtain ⟨a, b⟩ := x; simp_all⟩

/-! ## States and operands that meet the hypotheses of the statements -/

/-- A word with a guard. -/
def wg (w : FWord) (g : BitVec 3) (gn : Bool) : FWord := { w with g := g, gn := gn }
/-- Registers, their pairs and quads as a word's fields name them. -/
theorem wit_AluInstructionsRun_vec : VecIssues vs vf ∧ aluOf (.iadd (wf 0 1 2 3)) = some (specIadd, wf 0 1 2 3, none) ∧
    aluFieldsOk .vec specIadd (wf 0 1 2 3) none = true ∧ (∀ n ∈ aluRegs specIadd (wf 0 1 2 3) none, n < vf.r.top) ∧
    (∀ p ∈ aluThreads specIadd (wf 0 1 2 3) none vf, ∀ n ∈ aluNeeds specIadd (wf 0 1 2 3) none, vf.r.isFull p n = true) ∧
    ∃ r, aluRun specIadd (wf 0 1 2 3) none vf.x.age (aluThreads specIadd (wf 0 1 2 3) none vf) vf.r = some r :=
  ⟨vf_issues, rfl, by decide, by decide, by decide, some_of (by decide)⟩

theorem wit_AluInstructionsRun_ctl : CtlIssues cs ct ∧ specIadd.ctl = true ∧ aluFieldsOk .ctl specIadd (wf 0 1 2 3) none = true ∧
    ct.guard 0 false ∧ (∃ res, specIadd.op (modOf specIadd (wf 0 1 2 3)) (ctlSrc specIadd (wf 0 1 2 3) ct.ctl) = .ok res) ∧
    ¬ ct.guard 0 true ∧ specFsub.ctl = false := ⟨ct_issues, rfl, by decide, by unfold Team.guard; decide, ⟨_, rfl⟩, by unfold Team.guard; decide, rfl⟩

theorem wit_AluInstructionsRun_ctl_trap : CtlIssues cs ct ∧ aluOf (.cderive (wf 0x41 64 68 2)) = some (specCderive, wf 0x41 64 68 2, none) ∧
    specCderive.ctl = true ∧ aluFieldsOk .ctl specCderive (wf 0x41 64 68 2) none = true ∧ ct.guard 0 false ∧
    ∃ tr, specCderive.op (modOf specCderive (wf 0x41 64 68 2)) (ctlSrc specCderive (wf 0x41 64 68 2) ct.ctl) = .error tr :=
  ⟨ct_issues, rfl, rfl, by decide, by unfold Team.guard; decide, ⟨_, rfl⟩⟩

theorem wit_AluFrame : aluOf (.icmp (wf 0 1 2 3)) = some (specIcmp, wf 0 1 2 3, none) ∧ aluFieldsOk .vec specIcmp (wf 0 1 2 3) none = true ∧
    ∃ r, aluRun specIcmp (wf 0 1 2 3) none 0 [0, 7] vf.r = some r := ⟨rfl, by decide, some_of (by decide)⟩

theorem wit_NopAndImmediateRun : VecIssues vs vf ∧ CtlIssues cs ct ∧ fToWord 0x00#8 (wf 0 0 0 0) = 0 ∧ fToWord 0x00#8 (wf 1 0 0 0) ≠ 0 ∧
    pToWord ⟨0, 0, 0, 0, 0, 0, 0, 0⟩ = 0x4000000000000000#64 ∧ fldOk .vec .reg ⟨5, false, false⟩ = true ∧
    Clear vf (vf.members 0 false) (vregsOf .reg ⟨5, false, false⟩) (vregsOf .reg ⟨5, false, false⟩) ∧ fldOk .ctl .reg ⟨63, false, false⟩ = true :=
  ⟨vf_issues, ct_issues, by decide, by decide, by decide, by decide, ⟨by decide, by decide⟩, by decide⟩

theorem wit_IntegerAndBitwiseResults : (wf 0 1 2 3).md.toNat % 2048 = 0 ∧ (wf 0x801 1 2 3).md.toNat % 2048 = 1 ∧ (wf 2 1 2 3).md.toNat % 2048 = 2 ∧
    (wf 1 1 2 3).md.getLsbD 0 = true ∧ (wf 0x7FE 1 2 3).md.getLsbD 0 = false := by decide

theorem wit_LongAndCompareResults : (wf 0 1 2 3).md.toNat % 2048 < 10 ∧ (wf 9 1 2 3).md.toNat % 2048 < 10 ∧ (wf 1 1 2 3).md.toNat % 2048 = 1 ∧
    (wf 0x92 1 2 3).md.toNat % 2048 = 0x92 := by decide

theorem wit_FloatArithmeticAndRounding : fpUnpack fp32 (modA fp32 0 0x7FC00000) = .nan ∧ fpUnpack fp32 (modA fp32 0 0x7F800001) = .nan ∧
    fpUnpack fp32 (modA fp32 0 0x7F800000) = .inf false ∧ fpUnpack fp32 (modB fp32 0 0xFF800000) = .inf (!false) ∧
    fpUnpack fp32 (modB fp32 0 0x80000000) = .fin true 0 (-149) ∧ fpUnpack fp32 (modB fp32 0 0x00000001) = .fin false (0 + 1) (-149) ∧
    fpUnpack fp32 0xFF800000 = .inf (false == false) ∧ fpUnpack fp32 (modA fp32 0 0x3F800000) = .fin false 0x800000 (-23) ∧
    fpUnpack fp32 (modB fp32 0 0xBF800000) = .fin (!false) 0x800000 (-23) ∧ (wf 0x40 1 2 3).md.getLsbD 6 = true ∧ (wf 0x7F 1 2 3).md.getLsbD 7 = false ∧
    0xFF800000 < 2 ^ (fp32.eb + fp32.fb + 1) ∧ fpUnpack fp32 0xFF800000 ≠ .nan := by decide

theorem wit_FloatOrderAndSpecialResults : fvCompare (fpUnpack fp32 0x80000000) (fpUnpack fp32 0) = some .eq ∧
    fvCompare (fpUnpack fp32 0x3F800000) (fpUnpack fp32 0x40000000) = some .lt ∧ fvCompare (fpUnpack fp32 0x7F800000) (fpUnpack fp32 0xFF800000) = some .gt ∧
    fpUnpack fp32 0x7FC00001 = .nan ∧ (wf 3 1 2 0).md.toNat < 4 ∧ (wf 0xFFF 1 2 3).md.toNat / 512 = 7 ∧
    fpUnpack fp32 0xBF800000 = .fin true (0x7FFFFF + 1) (-23) ∧ fpUnpack fp32 0x4B000000 = .fin false 0x800000 0 := by decide

theorem wit_FloatClass : VecIssues vs vf ∧ fldOk .vec .reg (fldD (wf 0 1 2 0)) = true ∧ fldOk .vec .reg (fldA (wf 0 1 2 0)) = true ∧
    fldOk .vec .none (fldB (wf 0 1 2 0)) = true ∧ (∀ n ∈ aluRegs specFclass (wf 0 1 2 0) none, n < vf.r.top) ∧
    (∀ p ∈ aluThreads specFclass (wf 0 1 2 0) none vf, ∀ n ∈ aluNeeds specFclass (wf 0 1 2 0) none, vf.r.isFull p n = true) ∧
    (∃ r, aluRun specFclass (wf 0 1 2 0) none vf.x.age (aluThreads specFclass (wf 0 1 2 0) none vf) vf.r = some r) ∧
    (∃ v, readOpd vf.r 7 .reg (fldA (wf 0 1 2 0)) = .ok v) ∧ CtlIssues cs ct :=
  ⟨vf_issues, by decide, by decide, by decide, by decide, by decide, some_of (by decide), ⟨_, rfl⟩, ct_issues⟩

theorem wit_ConversionAndDotResults : ((wf 0x55C 1 2 0).md.toNat / 64 % 16 = 5 ∧ (wf 0x55C 1 2 0).md.toNat / 4 % 16 = 7 ∧ (wf 0x55C 1 2 0).md.getLsbD 10 = true) ∧
    (wf 0x29C 1 2 0).md.toNat / 64 % 16 = 10 ∧ (wf 0x2A8 1 2 0).md.toNat % 1024 / 4 = 0xAA ∧ fpUnpack fp16 0x7C00 ≠ .nan ∧
    (fmtBits (nfFmt ((wf 0x000 1 2 0).md.toNat / 4 % 8)) = 4 ∨ (wf 0x000 1 2 0).md.toNat / 1024 ≤ 1) ∧
    ((wf 0x28 1 2 0).md.toNat % 16 = 8 ∧ (wf 0x28 1 2 0).md.toNat / 16 % 4 = 2) ∧ ((wf 0x7C 1 2 0).md.toNat % 16 = 12 ∧ (wf 0x7C 1 2 0).md.toNat / 16 % 4 = 3) := by decide

/-- A capability over the first MiB of the context space with every permission, its cursor at 4,096. -/
def rootCap : TCap := capOf 1 63 0 0x100000 4096

theorem wit_CapabilitiesAreNotForged : ∃ c, resultOf (.cnarrow (wf 0 4 8 1)) ⟨rootCap, val32 3, TCap.null, TCap.null, fun _ => false⟩ = some c ∧ c.tag = true :=
  has_of (q := TCap.tag) (by decide)

/-- The first, the last and a partly overlapping base and length of CDERIVE. -/
theorem wit_CapabilityResults : ∃ c, resultOf (.cderive (wf 0x41 4 8 12)) ⟨rootCap, ⟨0x1000000000000001000, false⟩, TCap.null, TCap.null, fun _ => false⟩ = some c :=
  some_of (by decide)
theorem wit_CapabilityResults_traps : TCap.null.tag = false ∧ rootCap.tag = true ∧ 0 ≠ capSpace rootCap ∧ (5 < 6 ∧ 6 ≠ capSpace rootCap) ∧ 1 = capSpace rootCap ∧
    capTop rootCap < 0xFFFFF + 2 := by decide
theorem wit_CapabilityResults_probe : (wf 0 1 2 3).md.toNat % 2048 = 0 ∧ (wf 0 1 2 3).md.getLsbD 11 = false ∧ (wf 1 1 2 3).md.toNat % 2048 = 1 ∧
    (wf 2 1 2 3).md.toNat % 2048 = 2 := by decide

/-- BALLOT over a subgroup of 8, of v1. -/
theorem wit_CrossThreadInstructions : xthOf (.ballot (wf 3 6 1 0)) = some (specBallot, wf 3 6 1 0) ∧ VecIssues vs vf ∧ xFieldsOk specBallot vf.r (wf 3 6 1 0) = true ∧
    (∀ p ∈ vf.pass (wf 3 6 1 0), maskHas (xMask vf.r (wf 3 6 1 0)) p = true) ∧
    Clear vf (vf.pass (wf 3 6 1 0)) (vregsOf specBallot.d (fldD (wf 3 6 1 0)) ++ vregsOf specBallot.a (fldA (wf 3 6 1 0)) ++ vregsOf (xBKind specBallot (wf 3 6 1 0)) (fldB (wf 3 6 1 0)))
      (vregsOf specBallot.d (fldD (wf 3 6 1 0)) ++ fullNeeds (xBKind specBallot (wf 3 6 1 0)) (fldB (wf 3 6 1 0))) ∧
    (∀ u ∈ vf.crossUsers (wf 3 6 1 0), ∀ n ∈ fullNeeds specBallot.a (fldA (wf 3 6 1 0)), vf.r.isFull u n = true) ∧
    Reads vf.r (vf.crossUsers (wf 3 6 1 0)) specBallot.a (fldA (wf 3 6 1 0)) ∧ specBallot.lane = false :=
  ⟨rfl, vf_issues, by decide, by decide, ⟨by decide, by decide⟩, by decide, reads_of (by decide), rfl⟩
theorem wit_CrossThreadInstructions_masked : ∃ p l, (vfOf (fun r => r.writeK 0 48 0xFE)).pass (wf 0x403 6 1 48) = p :: l := ⟨_, _, rfl⟩
theorem wit_CrossThreadInstructions_results : (∀ u ∈ [0, 7], u < 64) ∧ [0, 7].Pairwise (· < ·) ∧ (0 : Nat) < 8 ∧ xthOf (.shfl (wf 3 6 1 2)) = some (shuffleSpec 0x70 (fun _ b => (b.toNat : Int)), wf 3 6 1 2) :=
  ⟨by decide, by decide, by decide, rfl⟩

/-- The split, with its grid in quad mode. -/
def vq : State := { vs with grids := vs.grids.map (fun g => { g with launch := { g.launch with quad := true } }) }
/-- Its focus. -/
def vqf : Foc := (focus vq).get (by decide)
theorem vqf_issues : VecIssues vq vqf := vec_of (Option.some_get _).symm (by decide) rfl

theorem wit_DerivativesAndUniformReads : VecIssues vq vqf ∧ vq.quadMode vqf.t.grid = true ∧ fldOk .vec .reg (fldD (wf 0x100 6 1 0)) = true ∧
    fldOk .vec .reg (fldA (wf 0x100 6 1 0)) = true ∧ fldOk .vec .none (fldB (wf 0x100 6 1 0)) = true ∧
    Clear vqf (vqf.pass (wf 0x100 6 1 0)) (vregsOf .reg (fldD (wf 0x100 6 1 0)) ++ vregsOf .reg (fldA (wf 0x100 6 1 0))) (vregsOf .reg (fldD (wf 0x100 6 1 0))) ∧
    (∀ u ∈ vqf.quadUsers (wf 0x100 6 1 0), ∀ n ∈ fullNeeds .reg (fldA (wf 0x100 6 1 0)), vqf.r.isFull u n = true) ∧
    Reads vqf.r (vqf.quadUsers (wf 0x100 6 1 0)) .reg (fldA (wf 0x100 6 1 0)) ∧ CtlIssues cs ct :=
  ⟨vqf_issues, by decide, by decide, by decide, by decide, ⟨by decide, by decide⟩, by decide, reads_of (by decide), ct_issues⟩

/-- RDUNI from the first thread, and from the last, number 7. -/
theorem wit_DerivativesAndUniformReads_uniform : fldOk .vec .reg (fldD { wf 0x80 0 1 7 with kd := true }) = true ∧
    fldOk .vec (.num vf.r.width) (fldB { wf 0x80 0 1 7 with kd := true }) = true ∧ fldOk .vec .none (fldB { wf 0 0 1 0 with kd := true }) = true ∧
    (∀ n ∈ vregsOf .reg (fldA { wf 0x80 0 1 7 with kd := true }), n < vf.r.top) ∧ (∃ p l, vf.pass { wf 0x80 0 1 7 with kd := true } = p :: l) ∧
    (∀ n ∈ fullNeeds .reg (fldA { wf 0x80 0 1 7 with kd := true }), vf.r.isFull 7 n = true) ∧ Reads vf.r [7] .reg (fldA { wf 0x80 0 1 7 with kd := true }) :=
  ⟨by decide, by decide, by decide, by decide, ⟨_, _, rfl⟩, by decide, reads_of (by decide)⟩

theorem wit_PairsRun : VecIssues vs vf ∧ (∃ x y, xSlot (⟨1, 8, 9, 0, 3, 14, 0, 5⟩ : PWord).xpop.toNat = some x ∧ ySlot (⟨1, 8, 9, 0, 3, 14, 0, 5⟩ : PWord).ypop.toNat = some y ∧
      pairOk ⟨1, 8, 9, 0, 3, 14, 0, 5⟩ x y = true) ∧ Clear vf (vf.members 0 false) [8, 9, 14] [8, 9, 14] ∧
    (∀ p ∈ vf.members 0 false, ∀ n ∈ [8, 9, 14], (vf.r.vreg p n).err = none) ∧ xSlot 0x7F = none ∧ CtlIssues cs ct ∧ (31 : BitVec 8).toNat < 32 :=
  ⟨vf_issues, ⟨_, _, rfl, rfl, by decide⟩, ⟨by decide, by decide⟩, by decide, by decide, ct_issues, by decide⟩

/-- A control thread at the edges of its return stack. -/
theorem wit_ControlBranches : CtlIssues cs ct ∧ (∃ w : BrWord, w.div = false ∧ w.jn = 0) ∧ ct.ctl.rets.length < 16 ∧
    (∀ now last, ((cs.afterCtl ct now last).callAhead ct.req ct.grid [wordsAway ct.ctl.pc 1#25]).hole = none) := by
  refine ⟨ct_issues, ⟨⟨0, false, false, 1, 0⟩, rfl, rfl⟩, by decide, fun now last => ?_⟩
  rfl
theorem wit_ControlBranches_full : CtlIssues (csOf (fun t => t.withCtl { t.ctl with rets := List.replicate 16 8 })) (ctOf (fun t => t.withCtl { t.ctl with rets := List.replicate 16 8 })) ∧
    16 ≤ (ctOf (fun t => t.withCtl { t.ctl with rets := List.replicate 16 8 })).ctl.rets.length ∧
    (ctOf (fun t => t.withCtl { t.ctl with rets := List.replicate 16 8 })).guard 0 false ∧ noOperands .ctl (wf 0 0 0 0) = true ∧
    ∃ pc l, (ctOf (fun t => t.withCtl { t.ctl with rets := List.replicate 16 8 })).ctl.rets = pc :: l :=
  ⟨ctOf_issues (by decide) (by decide), by decide, by unfold Team.guard; decide, by decide, ⟨_, _, rfl⟩⟩
theorem wit_ControlBranches_return : ct.ctl.rets = [] ∧ ct.guard 0 false ∧ ((ctOf (fun t => t.withCtl { t.ctl with handler := some ⟨.software, 8⟩ })).ctl.handler).isSome = true ∧
    noOperands .ctl (wf 2 0 0 0) = true := ⟨by decide, by unfold Team.guard; decide, by decide, by decide⟩
/-- An address of the code capability's range, and one that is no word's. -/
theorem wit_ControlBranches_register : fldOk .ctl .none (fldD (wf 0 0 4 0)) = true ∧ fldOk .ctl .wide (fldA (wf 0 0 4 0)) = true ∧
    cs.targetTrap .ctl ct.ctx ((ct.ctl.getS 4).extractLsb' 0 48) = none ∧
    (((ctOf (fun t => t.withCtl (t.ctl.putS 4 4))).ctl.getS 4).extractLsb' 0 48).toNat % 8 ≠ 0 := by decide

theorem wit_VectorBranch : VecIssues vs vf ∧ vf.x.given = [] ∧ vf.members 0 false ≠ [] ∧ vf.fallers 0 false = [] ∧ vf.takers 1 false = [] :=
  ⟨vf_issues, by decide, by decide, by decide, by decide⟩
/-- p1 true in the odd threads. -/
def odd (r : Rank) : Rank := [1, 3, 5, 7].foldl (fun r p => r.putPred p 1 true) r
/-- The same with no convergence record free. -/
def oddFull (r : Rank) : Rank := { odd r with recs := (List.range 256).map (fun i => (i, some ⟨none, 0, 0, 0, 0⟩)) }
theorem wit_VectorBranch_divergent : VecIssues (vsOf odd) (vfOf odd) ∧ (vfOf odd).x.given = [] ∧ (vfOf odd).takers 1 false = [1, 3, 5, 7] ∧
    (vfOf odd).fallers 1 false = [0, 2, 4, 6] ∧ (∃ i, (vfOf odd).r.freeRec = some i) ∧ (vfOf oddFull).r.freeRec = none ∧ (vfOf oddFull).fallers 1 false = [0, 2, 4, 6] :=
  ⟨vfOf_issues (by decide) rfl, by decide, by decide, by decide, some_of (by decide), by decide, by decide⟩

theorem wit_VectorCallsAndReturns : VecIssues vs vf ∧ vf.x.given = [] ∧ vf.members 0 false ≠ [] ∧ vf.fallers 0 false = [] ∧
    (∀ p ∈ vf.members 0 false, (vf.r.thread p).rets.length < 16) ∧
    (∀ now rod, ((vs.afterIssue vf now rod).callAhead vf.t.req vf.t.grid [wordsAway vf.x.pc 1#25]).hole = none) ∧
    plainMod (wf 0 0 4 0) 4 = true ∧ fldOk .vec .pair (fldA (wf 0 0 4 0)) = true ∧
    Clear vf (vf.members 0 false) (vregsOf .pair (fldA (wf 0 0 4 0))) (fullNeeds .pair (fldA (wf 0 0 4 0))) ∧
    (∀ p ∈ vf.members 0 false, ∃ v, readOpd vf.r p .pair (fldA (wf 0 0 4 0)) = .ok v ∧ v.bits.extractLsb' 0 48 = 0) ∧
    (∀ now rod, (vs.afterIssue vf now rod).targetTrap .vec vf.t.ctx 0 = none) :=
  ⟨vf_issues, by decide, by decide, by decide, by decide, fun now rod => rfl, by decide, by decide, ⟨by decide, by decide⟩,
    read_gives (q := fun v => v.bits.extractLsb' 0 48) (by decide), fun now rod => show vs.targetTrap .vec vf.t.ctx 0 = none by decide⟩
/-- Every thread with one return address. -/
def pushed (r : Rank) : Rank := (List.range 8).foldl (fun r p => r.modThread p (fun th => { th with rets := [0] })) r
/-- A rank in its handler. -/
def handling (r : Rank) : Rank :=
  { r with handler := some ⟨.software, 8, 0, 0, 0xFF, 0xFF, 0xFF, [], none⟩, splits := r.splits.map (fun x => { x with inHandler := true }) }
theorem wit_VectorCallsAndReturns_return : VecIssues (vsOf pushed) (vfOf pushed) ∧ (∀ p ∈ (vfOf pushed).members 0 false, ((vfOf pushed).r.thread p).rets.head? = some 0) ∧
    (vfOf pushed).fallers 0 false = [] ∧ noOperands .vec (wf 0 0 0 0) = true ∧ plainMod (wf 0 0 0 0) 2 = true :=
  ⟨vfOf_issues (by decide) rfl, by decide, by decide, by decide, by decide⟩
theorem wit_VectorCallsAndReturns_handler : VecIssues (vsOf handling) (vfOf handling) ∧ noOperands .vec (wf 2 0 0 0) = true ∧ (∃ h, (vfOf handling).r.handler = some h ∧
    maskMinus h.handled (vfOf handling).x.mask = 0) ∧ (vfOf handling).x.inHandler = true ∧ (vfOf handling).pass (wf 2 0 0 0) ≠ [] :=
  ⟨vfOf_issues (by decide) rfl, by decide, ⟨_, rfl, by decide⟩, by decide, by decide⟩

theorem wit_JoinYieldExitBarrier : CtlIssues cs ct ∧ VecIssues vs vf ∧ noOperands .ctl (wf 0 0 0 0) = true ∧ plainMod (wf 0 0 0 0) 1 = true ∧ guardP0 (wf 0 0 0 0) = true ∧
    noOperands .vec (wf 15 0 0 0) = true ∧ plainMod (wf 15 0 0 0) 16 = true ∧ (ct.bar 15).e ≠ some true ∧ vf.x.record = none ∧ plainMod (wf 31 0 0 0) 32 = true ∧
    (vf.t.bar (bitsAt (wf 31 0 0 0).md.toNat 0 4)).e.getD ((wf 31 0 0 0).md.getLsbD 4) = (wf 31 0 0 0).md.getLsbD 4 :=
  ⟨ct_issues, vf_issues, by decide, by decide, by decide, by decide, by decide, by decide, by decide, by decide, by decide⟩
/-- Barrier 0 of the split's team stands at E 1. -/
theorem wit_JoinYieldExitBarrier_clash : ((vf.t.putBar 0 ⟨[], false, some true⟩).bar (bitsAt (wf 0 0 0 0).md.toNat 0 4)).e.getD ((wf 0 0 0 0).md.getLsbD 4) ≠ (wf 0 0 0 0).md.getLsbD 4 := by decide

/-- A grid with handlers in both streams. -/
def trapping (s : State) : State := { s with grids := s.grids.map (fun g => { g with trapV := 64, trapC := 64 }) }
/-- The focus of its split. -/
def vtf : Foc := (focus (trapping vs)).get (by decide)
theorem wit_SoftwareTrapsAndSleep : CtlIssues (trapping cs) ct ∧ ct.guard 0 false ∧ ct.ctl.handler = none ∧ (trapping cs).traph ct.grid true ≠ 0 ∧
    (trapping cs).debugged ct.ctx = false ∧ VecIssues (trapping vs) vtf ∧ (∃ p l, vf.actives (vf.pass (wf 0 0 0 0)) = p :: l) ∧
    (trapping vs).debugged vf.t.ctx = false :=
  ⟨⟨rfl, by decide, by decide, rfl⟩, by unfold Team.guard; decide, by decide, by decide, by decide, vec_of (Option.some_get _).symm (by decide) rfl, ⟨_, _, rfl⟩, by decide⟩
theorem wit_SoftwareTrapsAndSleep_sleep : plainMod (wf 0 0 5 0) 1 = true ∧ fldOk .ctl .none (fldD (wf 0 0 5 0)) = true ∧ fldOk .ctl .reg (fldA (wf 0 0 5 0)) = true ∧
    fldOk .vec .reg (fldA (wf 0 0 5 0)) = true ∧ Clear vf (vf.pass (wf 0 0 5 0)) (vregsOf .reg (fldA (wf 0 0 5 0))) (fullNeeds .reg (fldA (wf 0 0 5 0))) ∧
    Reads vf.r (vf.actives (vf.pass (wf 0 0 5 0))) .reg (fldA (wf 0 0 5 0)) :=
  ⟨by decide, by decide, by decide, by decide, ⟨by decide, by decide⟩, reads_of (by decide)⟩

/-- A control thread whose s5 an error has marked. -/
def spoilt (t : Team) : Team := t.withCtl { t.ctl with errs := [(5, true)] }
theorem wit_SoftwareTrapsAndSleep_spoilt : (csOf spoilt).cur = .ctl (ctOf spoilt).uid ∧ (csOf spoilt).team (ctOf spoilt).uid = some (ctOf spoilt) ∧ (csOf spoilt).hole = none ∧
    (ctOf spoilt).guard 0 false ∧ tabGet false (ctOf spoilt).ctl.errs (wf 0 0 5 0).a.toNat = true :=
  ⟨by decide, ctOf_team (by decide) (by decide), by decide, by unfold Team.guard; decide, by decide⟩

theorem wit_TrapEntry : vf.r.handler = none ∧ ({ vf with s := trapping vs } : Foc).s.traph vf.t.grid false ≠ 0 ∧ vf.s.traph vf.t.grid false = 0 ∧
    (∃ h, (vfOf handling).r.handler = some h) ∧ (vfOf handling).x.inHandler = true := ⟨by decide, by decide, by decide, ⟨_, rfl⟩, by decide⟩

/-- Flags, queues and endpoints of a control thread at an empty, a full and a marked queue. -/
theorem wit_ControlFlagsAndQueues : CtlIssues cs ct ∧ ct.guard 0 false ∧ fldOk .ctl .flag (fldA (wf 0 0 143 5)) = true ∧ fldOk .ctl .reg (fldB (wf 0 0 143 5)) = true ∧
    plainMod (wf 2 0 143 5) 3 = true ∧ fldOk .ctl .queue (fldA (wf 0 0 115 5)) = true ∧ (wf 0 0 115 5).a.toNat - 112 < 4 ∧ isHandle (fldB (wf 0 0 115 5)) = false ∧
    fldOk .ctl .wide (fldD (wf 0 5 112 0)) = true ∧ isHandle (fldD (wf 0 5 112 0)) = false :=
  ⟨ct_issues, by unfold Team.guard; decide, by decide, by decide, by decide, by decide, by decide, by decide, by decide, by decide⟩
/-- A team with a pending handle 3, a marked entry in queue 0 and a response at endpoint 4. -/
def marked (t : Team) : Team :=
  { t with handles := [(3, .pending 9)], queues := [(0, [⟨0, some (.pending 9)⟩])], ends := [(4, { Endpoint.unbound with kind := some 1, words := [7] })] }
theorem wit_ControlFlagsAndQueues_handles : CtlIssues (csOf marked) (ctOf marked) ∧ isHandle (fldB (wf 0 0 112 83)) = true ∧ (ctOf marked).handle ((wf 0 0 112 83).b.toNat - 80) ≠ .idle ∧
    ((ctOf marked).queue 0).length < 32 ∧ isHandle (fldD (wf 0 84 112 0)) = true ∧ (ctOf marked).handle ((wf 0 84 112 0).d.toNat - 80) = .idle ∧
    (∃ e h l, (ctOf marked).queue 0 = e :: l ∧ e.mark = some h) ∧ 4 ≤ (wf 0 5 116 0).a.toNat - 112 ∧
    (∃ k, (tabGet Endpoint.unbound (ctOf marked).ends 4).kind = some k) ∧ ∃ r l, (tabGet Endpoint.unbound (ctOf marked).ends 4).words = r :: l :=
  ⟨ctOf_issues (by decide) (by decide), by decide, by decide, by decide, by decide, by decide, ⟨_, _, _, rfl, rfl⟩, by decide, ⟨_, rfl⟩, ⟨_, _, rfl⟩⟩

theorem wit_VectorFlagsAndQueues : VecIssues vs vf ∧ plainMod (wf 0 0 15 5) 1 = true ∧ fldOk .vec .flag (fldA (wf 0 0 15 5)) = true ∧ fldOk .vec .reg (fldB (wf 0 0 15 5)) = true ∧
    Clear vf (vf.pass (wf 0 0 15 5)) (vregsOf .reg (fldB (wf 0 0 15 5))) (fullNeeds .reg (fldB (wf 0 0 15 5))) ∧ Reads vf.r (vf.actives (vf.pass (wf 0 0 15 5))) .reg (fldB (wf 0 0 15 5)) ∧
    vf.actives (vf.pass (wf 0 0 15 5)) ≠ [] ∧
    (∀ p ∈ vf.actives (vf.pass (wf 0 0 15 5)), flagCond 0 (vf.t.flag 15) (lo32 (readVal vf.r p .reg (fldB (wf 0 0 15 5)))) = true) ∧
    plainMod (wf 2 0 15 5) 3 = true ∧
    (∃ p ∈ vf.actives (vf.pass (wf 2 0 15 5)), flagCond 2 (vf.t.flag 15) (lo32 (readVal vf.r p .reg (fldB (wf 2 0 15 5)))) = false) ∧ vf.t.alone (some vf.r.num) = false :=
  ⟨vf_issues, by decide, by decide, by decide, ⟨by decide, by decide⟩, reads_of (by decide), by decide, by decide, by decide, by decide, by decide⟩
/-- QPUSH of every thread, and QPOP of as many entries as there are threads. -/
def stocked (t : Team) : Team := { t with queues := [(3, List.replicate 8 ⟨1, none⟩)] }
/-- The split with its team so. -/
def vk : State := vs.putTeam (stocked vf.t)
/-- Its focus. -/
def vkf : Foc := (focus vk).get (by decide)
theorem wit_VectorFlagsAndQueues_queues : VecIssues vk vkf ∧ plainMod (wf 3 0 3 6) 4 = true ∧ fldOk .vec .queue (fldA (wf 3 0 3 6)) = true ∧ fldOk .vec (entryOpd (wf 1 0 3 6)) (fldB (wf 1 0 3 6)) = true ∧
    Clear vkf (vkf.pass (wf 1 0 3 6)) (vregsOf (entryOpd (wf 1 0 3 6)) (fldB (wf 1 0 3 6))) (fullNeeds (entryOpd (wf 1 0 3 6)) (fldB (wf 1 0 3 6))) ∧
    Reads vkf.r (queueThreads (wf 1 0 3 6) (vkf.actives (vkf.pass (wf 1 0 3 6)))) (entryOpd (wf 1 0 3 6)) (fldB (wf 1 0 3 6)) ∧
    (vkf.actives (vkf.pass (wf 1 0 3 6))).length ≤ 32 ∧ (vkf.t.queue 3).length + (queueThreads (wf 1 0 3 6) (vkf.actives (vkf.pass (wf 1 0 3 6)))).length ≤ 32 ∧
    (∀ p ∈ vkf.pass (wf 0 6 3 0), vkf.r.helper p = false) ∧ (vkf.pass (wf 0 6 3 0)).length ≤ (vkf.t.queue 3).length ∧
    Clear vkf (vkf.pass (wf 0 6 3 0)) (vregsOf (entryOpd (wf 0 6 3 0)) (fldD (wf 0 6 3 0))) (vregsOf (entryOpd (wf 0 6 3 0)) (fldD (wf 0 6 3 0))) ∧
    (∃ e l, vkf.t.queue 3 = e :: l) ∧ vkf.pass (wf 0 6 3 0) ≠ [] :=
  ⟨vec_of (Option.some_get _).symm (by decide) rfl, by decide, by decide, by decide, ⟨by decide, by decide⟩, reads_of (by decide), by decide, by decide, by decide, by decide, ⟨by decide, by decide⟩,
    ⟨_, _, rfl⟩, by decide⟩

theorem wit_SystemRegisters : CtlIssues cs ct ∧ ct.guard 0 false ∧ (sysWidth .ctl (wf 0x020 5 0 0).md.toNat).isSome = true ∧ fldOk .ctl .wide (fldD (wf 0x020 5 0 0)) = true ∧
    (∃ g, cs.grid ct.grid = some g ∧ g.priv = false) ∧ VecIssues vs vf ∧ sysWidth .vec 0 = some 64 ∧ fldOk .vec .pair (fldD (wf 0 6 0 0)) = true ∧
    Clear vf (vf.pass (wf 0 6 0 0)) (vregsOf .pair (fldD (wf 0 6 0 0))) (vregsOf .pair (fldD (wf 0 6 0 0))) :=
  ⟨ct_issues, by unfold Team.guard; decide, by decide, by decide, ⟨_, rfl, by decide⟩, vf_issues, by decide, by decide, ⟨by decide, by decide⟩⟩
/-- A privileged grid; s5 at the least and at the greatest watchdog limit, and at a word's address. -/
def privileged (s : State) : State := { s with grids := s.grids.map (fun g => { g with priv := true }) }
theorem wit_SystemRegisters_write : (∃ g, (privileged cs).grid ct.grid = some g ∧ g.priv = true) ∧ fldOk .ctl .wide (fldA (wf 0x040 0 5 0)) = true ∧
    2 ^ 16 ≤ ((ct.ctl.putS 5 0x10000).getS 5).toNat ∧ ((ct.ctl.putS 5 0x100000000).getS 5).toNat ≤ 2 ^ 32 ∧ ((ct.ctl.putS 5 8).getS 5).toNat % 8 = 0 ∧
    (∃ g, (privileged vs).grid vf.t.grid = some g ∧ g.priv = true) ∧
    (∀ p ∈ vf.pass (wf 0x041 0 6 0), ∃ v, readOpd vf.r p .pair (fldA (wf 0x041 0 6 0)) = .ok v ∧ v.bits = 0) ∧ (∀ p ∈ vf.pass (wf 0x041 0 6 0), vf.r.helper p = false) :=
  ⟨⟨_, rfl, by decide⟩, by decide, by decide, by decide, by decide, ⟨_, rfl, by decide⟩, read_gives (q := TCap.bits) (by decide), by decide⟩

/-- A claim of one block, of all that is free, and of one block more than is free. -/
def crowded (t : Team) : Team := { t with ranks := t.ranks ++ t.ranks.map (fun r => { r with num := 1, slot := 1, top := 440 }) }
/-- The split beside a large rank. -/
def vc : State := vs.putTeam (crowded vf.t)
/-- Its focus. -/
def vcf : Foc := (focus vc).get (by decide)
theorem wit_PoolInstructions : VecIssues vs vf ∧ guardP0 (wf 0x800 0 0 1) = true ∧ fldOk .vec .none (fldA (wf 0x800 0 0 1)) = true ∧ countOk (wf 0x800 0 0 1) = true ∧
    countTrap vf.r (wf 0x800 0 0 1) = none ∧ poolCount vf.r (wf 0x800 0 0 1) ≠ 0 ∧ vf.r.width * (vf.r.top + 8 * poolCount vf.r (wf 0x800 0 0 56)) ≤ Config.poolRegs ∧
    vf.r.width * (8 * poolCount vf.r (wf 0x800 0 0 56)) ≤ vs.poolFree vf.t.pair vf.r.rod ∧ VecIssues vc vcf ∧
    vcf.r.width * (vcf.r.top + 8 * poolCount vcf.r (wf 0x800 0 0 2)) ≤ Config.poolRegs ∧ vc.poolFree vcf.t.pair vcf.r.rod < vcf.r.width * (8 * poolCount vcf.r (wf 0x800 0 0 2)) ∧
    fldOk .vec .pred (fldD (wf 0x800 7 0 1)) = true ∧ CtlIssues cs ct :=
  ⟨vf_issues, by decide, by decide, by decide, by decide, by decide, by decide, by decide, vec_of (Option.some_get _).symm (by decide) rfl, by decide, by decide, by decide, ct_issues⟩
/-- RRELEASE of a block above the base. -/
def grown (r : Rank) : Rank := { r with top := 72 }
theorem wit_PoolInstructions_release : VecIssues (vsOf grown) (vfOf grown) ∧ (vfOf grown).r.base + 8 * poolCount (vfOf grown).r (wf 0x800 0 0 1) ≤ (vfOf grown).r.top ∧
    (vfOf grown).r.meetsShare ((vfOf grown).r.top - 8) (vfOf grown).r.top = false ∧
    (∀ p < (vfOf grown).r.width, ∀ i < 8, (vfOf grown).r.isFull p ((vfOf grown).r.top - 8 + i) = true) ∧
    (vsOf grown).matrixReads (vfOf grown).t (vfOf grown).r.num ((vfOf grown).r.top - 8) (vfOf grown).r.top = false :=
  ⟨vfOf_issues (by decide) rfl, by decide, by decide, by decide, by decide⟩
/-- Rank 1 of the team waits to share v8 to v15 with v16 to v23 of rank 0. -/
def sharing (t : Team) : Team :=
  { t with ranks := t.ranks ++ t.ranks.map (fun r => { r with num := 1, slot := 1, splits := r.splits.map (fun x => { x with wait := .share 0 8 16 1 }) }) }
/-- The split of rank 0. -/
def vh : State := vs.putTeam (sharing vf.t)
/-- Its focus. -/
def vhf : Foc := (focus vh).get (by decide)
theorem wit_PoolInstructions_share : VecIssues vh vhf ∧ plainMod (wf 1 16 8 1) 16 = true ∧ guardP0 (wf 1 16 8 1) = true ∧ plainNum (fldD (wf 1 16 8 1)) 0 2047 = true ∧
    plainNum (fldA (wf 1 16 8 1)) 0 2047 = true ∧ plainNum (fldB (wf 1 16 8 1)) 1 64 = true ∧
    ∃ u p, vh.rankAt vhf.t.pair vhf.r.rod (bitsAt (wf 1 16 8 1).md.toNat 0 4) = some (u, p) ∧ shareBad vhf.t vhf.r (some (u, p)) 16 8 1 = false ∧
      ∃ y, p.splits.find? (fun x => decide (x.wait = .share vhf.r.slot 8 16 1)) = some y :=
  ⟨vec_of (Option.some_get _).symm (by decide) rfl, by decide, by decide, by decide, by decide, by decide, ⟨_, _, rfl, by decide, some_of (by decide)⟩⟩
/-- A rank that shares v16 to v23. -/
def sharer (r : Rank) : Rank := r.share ⟨16, 1, 1, 8, 1⟩
theorem wit_PoolInstructions_unshare : VecIssues (vsOf sharer) (vfOf sharer) ∧ plainMod (wf 0 16 0 0) 1 = true ∧ plainNum (fldD (wf 0 16 0 0)) 0 2047 = true ∧
    ∃ h, (vfOf sharer).r.shares.find? (fun h => h.own == (wf 0 16 0 0).d.toNat) = some h := ⟨vfOf_issues (by decide) rfl, by decide, by decide, some_of (by decide)⟩
/-- A deposit for rod 0 of the next pair of the cluster. -/
def aimed (r : Rank) : Rank := r.writeK 0 5 1
theorem wit_PoolInstructions_deposit : VecIssues (vsOf aimed) (vfOf aimed) ∧ plainNum (fldD { wf 0 9 4 5 with kb := true }) 0 2047 = true ∧
    fldOk .vec .reg (fldB { wf 0 9 4 5 with kb := true }) = true ∧
    Clear (vfOf aimed) ((vfOf aimed).pass { wf 0 9 4 5 with kb := true }) (vregsOf .reg (fldA { wf 0 9 4 5 with kb := true })) (fullNeeds .reg (fldA { wf 0 9 4 5 with kb := true })) ∧
    Reads (vfOf aimed).r ((vfOf aimed).pass { wf 0 9 4 5 with kb := true }) .reg (fldA { wf 0 9 4 5 with kb := true }) ∧
    Reads (vfOf aimed).r ((vfOf aimed).pass { wf 0 9 4 5 with kb := true }) .reg (fldB { wf 0 9 4 5 with kb := true }) ∧ ((vfOf aimed).r.kreg 5).val.toNat < 2048 ∧
    coreOf (depositTarget (vfOf aimed).t.pair ((vfOf aimed).r.kreg 5).val).1 (depositTarget (vfOf aimed).t.pair ((vfOf aimed).r.kreg 5).val).2.1 ≠ coreOf (vfOf aimed).t.pair (vfOf aimed).r.rod :=
  ⟨vfOf_issues (by decide) rfl, by decide, by decide, ⟨by decide, by decide⟩, reads_of (by decide), reads_of (by decide), by decide, by decide⟩
/-- RMARK of the registers v0 to v63, and RARRIV with and without a comparand. -/
theorem wit_PoolInstructions_marks : plainNum (fldB (wf 0 0 0 64)) 1 64 = true ∧
    Clear vf (vf.pass (wf 0 0 0 64)) ((List.range (wf 0 0 0 64).b.toNat).map (fun i => (wf 0 0 0 64).d.toNat + i)) ((List.range (wf 0 0 0 64).b.toNat).map (fun i => (wf 0 0 0 64).d.toNat + i)) ∧
    (wf 0x801 6 0 0).md.toNat % 2048 < 2 ∧ countOk (wf 0x801 6 0 0) = true ∧ countTrap vf.r (wf 0x801 6 0 0) = none ∧
    (vf.r.arrival - BitVec.ofNat 32 (poolCount vf.r (wf 0x801 6 0 0))).toNat < 2 ^ 31 := ⟨by decide, ⟨by decide, by decide⟩, by decide, by decide, by decide, by decide⟩

/-! ### Memory -/

/-- The word of a memory instruction. -/
def mw (d cap idx : BitVec 11) (g : BitVec 3) (ty scope off : BitVec 4) : MemWord := ⟨d, cap, idx, g, false, false, false, false, ty, 0, scope.setWidth 3, off⟩
/-- A capability over the first 4 KiB of the scratchpad. -/
def padCap : TCap := capOf 2 63 0 4096 0
/-- p1 true in thread 3 alone, and v8 to v11 the scratchpad's capability. -/
def armed (r : Rank) : Rank := writeOpd (r.putPred 3 1 true) 0 3 .quad ⟨8, false, false⟩ padCap
/-- The control thread with the scratchpad's capability in c4. -/
def armedCtl (t : Team) : Team := t.withCtl { t.ctl with c := [(4, padCap)] }

/-- A load from a scratchpad with no map, lock or poison, whose checks pass, is sent. -/
theorem sendLoad_pad (s : State) (a : MemReq) (d : Dest) (h2 : capSpace a.c = 2) (hm : (s.pair a.q.pair).maps = []) (hl : (s.pair a.q.pair).locks = [])
    (hq : (s.pair a.q.pair).poison = []) (hc : capCheck a.m permLD 1 (fun _ => Config.localStore - (s.pair a.q.pair).l1sz) a.addr (tyBytes d.ty) a.c = none) :
    ∃ l, s.sendLoad a false d = (s.flying a (.load d) l, .ok (.access s.nextId)) := by
  have hb : capInBounds (s.extentOf a.q.pair) a.addr (tyBytes d.ty) a.c =
      capInBounds (fun _ => Config.localStore - (s.pair a.q.pair).l1sz) a.addr (tyBytes d.ty) a.c := by
    simp [capInBounds, h2, State.extentOf, State.extent]
  have hc' : capCheck a.m permLD 1 (s.extentOf a.q.pair) a.addr (tyBytes d.ty) a.c = none := by rw [← hc]; simp [capCheck, hb]
  have hk : s.checkMem a permLD 1 (tyBytes d.ty) false = none := by simp [State.checkMem, State.rangeTrap, hc', h2, homePair, Pair.lockHit, hl]
  have hn : ∀ off len, (s.pair a.q.pair).mappedIn off len = [] := fun off len => by simp [Pair.mappedIn, Pair.mapAt, hm]
  have hp : ∀ off len, (s.pair a.q.pair).poisoned off len = false := fun off len => by simp [Pair.poisoned, hq, tabGet]
  have ho : ∀ off len, (s.pair a.q.pair).onFormat off len = false := fun off len => by simp [Pair.onFormat, hn]
  have hf : ∀ n, s.formatAt a.q 2 n = false := fun n => by simp [State.formatAt, homePair, ho]
  have he : s.elemUnit a (tyBytes d.ty) = (a, tyBytes d.ty) := by simp [State.elemUnit, h2, hf]
  simp [State.sendLoad, he, hk, State.planMem, h2, State.planPad, homePair, hn, hp, ho, State.sectorWait, State.start, State.newId, State.flying]
/-- The pair of a state once a pass has issued there. -/
theorem afterIssue_pair (s : State) (f : Foc) (now : Nat) (rod : Rod) : (s.afterIssue f now rod).pair f.t.pair =
    { s.pair f.t.pair with rods := tabPut Rod.idle (s.pair f.t.pair).rods f.r.rod rod } := by
  simp only [State.afterIssue, State.putRod, State.pair, State.putPair]
  exact tabGet_tabPut_same _ _ _ _
/-- LD of one thread. -/
theorem wit_VectorMemoryPasses : VecIssues (vsOf armed) (vfOf armed) ∧ ∃ q, memOf (.ld (mw 4 8 0x7FF 1 4 0 0)) = some (q, 1, false) ∧ q.spec.ok = true ∧
      Clear (vfOf armed) ((vfOf armed).members 1 false) q.spec.named q.spec.waits ∧ VecWhole (vsOf armed) (vfOf armed) (memLoop q ((vfOf armed).members 1 false)) := by
  refine ⟨vfOf_issues (by decide) rfl, _, rfl, by decide, ⟨by decide, by decide⟩, fun now rod => ?_⟩
  have hm : (vfOf armed).members 1 false = [3] := by decide
  have ha : memAddr (vfOf armed).r 3 (mw 4 8 0x7FF 1 4 0 0) 4 0 = .ok (padCap, 0) := by with_unfolding_all rfl
  have hc : capCheck .vec permLD 1 (fun _ => Config.localStore - ((vsOf armed).pair (vfOf armed).t.pair).l1sz) 0 4 padCap = none := by decide
  have hx : ((vsOf armed).pair (vfOf armed).t.pair).maps = [] ∧ ((vsOf armed).pair (vfOf armed).t.pair).locks = [] ∧ ((vsOf armed).pair (vfOf armed).t.pair).poison = [] := by decide
  have h2 : capSpace padCap = 2 := by decide
  have ht : tyBytes 4 = 4 := by decide
  have ho : memOff (mw 4 8 0x7FF 1 4 0 0) = 0 := by decide
  have hp := afterIssue_pair (vsOf armed) (vfOf armed) now rod
  rw [hm]
  obtain ⟨l, hl⟩ := sendLoad_pad ((vsOf armed).afterIssue (vfOf armed) now rod)
    ({ vfOf armed with s := (vsOf armed).afterIssue (vfOf armed) now rod }.memReq 3 (padCap, 0) false) ⟨4, 4, none⟩ (by simp only [Foc.memReq]; exact h2)
    (by simp only [Foc.memReq, Team.req, hp]; exact hx.1) (by simp only [Foc.memReq, Team.req, hp]; exact hx.2.1)
    (by simp only [Foc.memReq, Team.req, hp]; exact hx.2.2) (by simp only [Foc.memReq, Team.req, hp]; exact hc)
  have hl' := hl
  simp only [memLoop, loadPass, ht, ho, ha, ldSend, show (mw 4 8 0x7FF 1 4 0 0).d.toNat = 4 from rfl, show (mw 4 8 0x7FF 1 4 0 0).ty.toNat = 4 from rfl,
    show ((mw 4 8 0x7FF 1 4 0 0).res != 0) = false from rfl, hl', Foc.loaded]
  exact ⟨trivial, rfl⟩
/-- An atomic at an address that is no multiple of its size. -/
def skewed (r : Rank) : Rank := writeOpd (r.putPred 3 1 true) 0 3 .quad ⟨8, false, false⟩ (capOf 2 63 0 4096 2)
theorem wit_VectorMemoryPasses_trap : VecIssues (vsOf skewed) (vfOf skewed) ∧ ∃ q, memOf (.atom (mw 4 8 0x7FF 1 4 0 0)) = some (q, 1, false) ∧ q.spec.ok = true ∧
      Clear (vfOf skewed) ((vfOf skewed).members 1 false) q.spec.named q.spec.waits ∧
      ∃ h p tr, memLoop q ((vfOf skewed).members 1 false) ((vfOf skewed).issue clsPer q.reads q.writes ((vfOf skewed).members 1 false) false) = (h, some (p, .trap tr)) ∧
        h.s.hole = none ∧ tr.code.violation = false ∧ ownerFirst tr.code = false ∧ tr.code ≠ .brk :=
  ⟨vfOf_issues (by decide) rfl, _, rfl, by decide, ⟨by decide, by decide⟩, _, _, _, rfl, rfl, by decide, by decide, by decide⟩

theorem sends_of {out : State × Except Stop Sent} (h : (match out.2 with | .ok (.access _) => out.1.hole.isNone | _ => false) = true) :
    ∃ s' id, out = (s', .ok (.access id)) ∧ s'.hole = none := by
  obtain ⟨s, e⟩ := out
  cases e with
  | error e => simp at h
  | ok x => cases x with
    | access id => exact ⟨s, id, rfl, by simpa using h⟩
    | _ => simp at h
theorem wit_ControlMemoryInstructions : CtlIssues (csOf armedCtl) (ctOf armedCtl) ∧ (ctOf armedCtl).guard 0 false ∧
    memOk .ctl (memOpdCtl 4) (fun n => decide (n < 13)) true (mw 5 68 0x7FF 0 4 0 0) = true ∧
    CtlSends (csOf armedCtl) (ctOf armedCtl) (fun s => ldSend (mw 5 68 0x7FF 0 4 0 0) s ((ctOf armedCtl).memReq (memAddrCtl (ctOf armedCtl).ctl (mw 5 68 0x7FF 0 4 0 0) 4 (memOff (mw 5 68 0x7FF 0 4 0 0))) false)) :=
  ⟨ctOf_issues (by decide) (by decide), by unfold Team.guard; decide, by decide, fun now last => sends_of rfl⟩
theorem wit_ControlMemoryInstructions_store : memOk .ctl (memOpdCtl 4) (fun n => decide (n < 13)) true (mw 5 68 0x7FF 0 4 0 0) = true ∧
    CtlSends (csOf armedCtl) (ctOf armedCtl) (fun s => s.sendStore ((ctOf armedCtl).memReq (memAddrCtl (ctOf armedCtl).ctl (mw 5 68 0x7FF 0 4 0 0) 4 (memOff (mw 5 68 0x7FF 0 4 0 0))) false) false 4
      (readCtl (ctOf armedCtl).ctl (memOpdCtl 4) (memD (mw 5 68 0x7FF 0 4 0 0)))) := ⟨by decide, fun now last => sends_of rfl⟩
theorem wit_ControlMemoryInstructions_atomic : memOk .ctl .wide (atomTypes 0) true (mw 5 68 0x7FF 0 4 0 0) = true ∧
    CtlSends (csOf armedCtl) (ctOf armedCtl) (fun s => s.sendAtom ((ctOf armedCtl).memReq (memAddrCtl (ctOf armedCtl).ctl (mw 5 68 0x7FF 0 4 0 0) 4 0) false) 0
      ((ctOf armedCtl).ctl.getS 5) ((ctOf armedCtl).ctl.getS 6) ⟨5, 4, none⟩) ∧
    memOk .ctl .none (fun n => decide (n < 13)) false (mw 0 68 0x7FF 0 4 0 0) = true ∧
    (∀ now last, (((csOf armedCtl).afterCtl (ctOf armedCtl) now last).prefetch ((ctOf armedCtl).memReq (memAddrCtl (ctOf armedCtl).ctl (mw 0 68 0x7FF 0 4 0 0) 4 (memOff (mw 0 68 0x7FF 0 4 0 0))) false) 4).hole = none) :=
  ⟨by decide, fun now last => sends_of rfl, by decide, fun now last => rfl⟩

/-- A request of the control thread at the scratchpad, with a null capability, and past its extent. -/
def padReq (c : TCap) (n : Int) : MemReq := ct.memReq (c, n) false
theorem wit_AccessesAtCommit_traps : (∃ t, cs.checkMem (padReq TCap.null 0) permLD 1 4 false = some t) ∧ (∃ t, cs.checkMem (padReq TCap.null 0) permST 1 4 true = some t) ∧
    (∃ t, cs.checkMem (padReq padCap 4093) permLD 1 4 false = some t) ∧ cs.checkMem (padReq padCap 4092) permLD 1 4 false = none ∧
    (∃ t, cs.checkMem (padReq padCap 2) permAT 4 4 true = some t) := ⟨some_of (by decide), some_of (by decide), some_of (by decide), by decide, some_of (by decide)⟩
theorem wit_AccessesAtCommit_pad : (∃ (s : State) (p : Plan), cs.planMem (padReq padCap 4092) needR 4 true [] false false = (s, .ok p) ∧ (!p.sparse) = true) ∧ capSpace (padReq padCap 4092).c = 2 ∧
    cs.checkMem (padReq padCap 4092) permST 1 4 true = none ∧
    (∃ (s : State) (p : Plan), cs.planMem (padReq padCap 4092) needW 4 false (storeBytes 4 TCap.null) false false = (s, .ok p) ∧ (!p.sparse && decide (s.slices = [])) = true) :=
  ⟨pair_ok (q := fun _ (p : Plan) => !p.sparse) (by decide), by decide, by decide, pair_ok (q := fun (s : State) (p : Plan) => !p.sparse && decide (s.slices = [])) (by decide)⟩
/-- The page of the placed word, in space 1. -/
theorem wit_AccessesAtCommit_page : cs.checkMem (padReq (capOf 1 63 0 4096 0) 0) permLD 1 4 false = none ∧
    ∃ (s : State) (p : Plan), cs.planMem (padReq (capOf 1 63 0 4096 0) 0) needR 4 true [] false false = (s, .ok p) ∧ (!p.sparse) = true :=
  ⟨by decide, pair_ok (q := fun _ (p : Plan) => !p.sparse) (by decide)⟩


/-- With no access in flight no store has to land. -/
theorem landCtl_idle {s : State} (h : s.accesses = []) (uid : Nat) : s.landCtl uid = s := by simp [State.landCtl, State.landOwn, h]
/-- Without a map nothing is written back. -/
theorem triggerRange_unmapped {s : State} {pair : Nat} (h : (s.pair pair).maps = []) (off len : Nat) (who : Who) : s.triggerRange pair off len who = s := by
  simp [State.triggerRange, Pair.mappedIn, Pair.mapAt, h]
/-- The pair of a state once a control thread has issued there. -/
theorem afterCtl_pair (s : State) (t : Team) (now : Nat) (last : Tab Nat) : (s.afterCtl t now last).pair t.pair = { s.pair t.pair with lastCtl := last } := by
  simp only [State.afterCtl, State.pair, State.putPair]
  exact tabGet_tabPut_same _ _ _ _

/-- LDEXP of one thread, its count in k5. -/
def xw : MemWord := ⟨4, 8, 5, 1, false, false, false, true, 4, 0, 0, 0⟩
theorem wit_CompactionFencesAndWriteBacks : VecIssues (vsOf armed) (vfOf armed) ∧
    (cmpSpec ⟨0x8D, true, fun f _ a => f.s.sendLoad a false ⟨4, 4, none⟩⟩ xw).ok = true ∧
    Clear (vfOf armed) ((vfOf armed).members 1 false) (cmpSpec ⟨0x8D, true, fun f _ a => f.s.sendLoad a false ⟨4, 4, none⟩⟩ xw).named
      (cmpSpec ⟨0x8D, true, fun f _ a => f.s.sendLoad a false ⟨4, 4, none⟩⟩ xw).waits ∧ (vfOf armed).members 1 false ≠ [] ∧ xw.ti = false ∧
    ∀ now rod, ∃ h n, cmpLoop ⟨0x8D, true, fun f _ a => f.s.sendLoad a false ⟨4, 4, none⟩⟩ xw ((vfOf armed).members 1 false) ((vfOf armed).r.kreg 5).val.toNat
      { vfOf armed with s := (vsOf armed).afterIssue (vfOf armed) now rod } = (h, n, none) ∧ h.s.hole = none := by
  refine ⟨vfOf_issues (by decide) rfl, by decide, ⟨by decide, by decide⟩, by decide, rfl, fun now rod => ?_⟩
  have hm : (vfOf armed).members 1 false = [3] := by decide
  have hk : ((vfOf armed).r.kreg 5).val.toNat = 0 := by decide
  have hh : (vfOf armed).r.helper 3 = false := by decide
  have ha : readOpd (vfOf armed).r 3 .quad (memCap xw) = .ok padCap := by with_unfolding_all rfl
  have hc : capCheck .vec permLD 1 (fun _ => Config.localStore - ((vsOf armed).pair (vfOf armed).t.pair).l1sz) ((capCursor padCap : Int) + (((0 : Nat) : Int) + memOff xw) * (tyBytes 4 : Int)) 4 padCap = none := by decide
  have hx : ((vsOf armed).pair (vfOf armed).t.pair).maps = [] ∧ ((vsOf armed).pair (vfOf armed).t.pair).locks = [] ∧ ((vsOf armed).pair (vfOf armed).t.pair).poison = [] := by decide
  have h2 : capSpace padCap = 2 := by decide
  have hp := afterIssue_pair (vsOf armed) (vfOf armed) now rod
  obtain ⟨l, hl⟩ := sendLoad_pad ((vsOf armed).afterIssue (vfOf armed) now rod)
    ({ vfOf armed with s := (vsOf armed).afterIssue (vfOf armed) now rod }.memReq 3 (padCap, (capCursor padCap : Int) + (((0 : Nat) : Int) + memOff xw) * (tyBytes 4 : Int)) false) ⟨4, 4, none⟩ (by simp only [Foc.memReq]; exact h2)
    (by simp only [Foc.memReq, Team.req, hp]; exact hx.1) (by simp only [Foc.memReq, Team.req, hp]; exact hx.2.1)
    (by simp only [Foc.memReq, Team.req, hp]; exact hx.2.2) (by simp only [Foc.memReq, Team.req, hp]; exact hc)
  rw [hm, hk]
  simp only [cmpLoop, cmpThread, ha, hh, show xw.ty.toNat = 4 from rfl, show (xw.res != 0) = false from rfl, hl, Foc.loaded, if_true, Bool.false_eq_true, if_false]
  exact ⟨_, _, rfl, rfl⟩

/-- An acquire of a thread is complete with no access in flight. -/
theorem acquire_idle {s : State} {who : Who} (h : s.accesses = []) (hr : who.rank ≠ none) (scope : Nat) : s.fenceDone 2 scope who = true := by
  simp [State.fenceDone, State.busy, State.matrixBusy, State.islandBusy, h, hr]
theorem wit_CompactionFencesAndWriteBacks_fences : CtlIssues cs ct ∧ ct.guard 0 false ∧ fenceOk .ctl (wf 22 0 0 0) = true ∧ (wf 22 0 0 0).md.toNat % 4 = 2 ∧
    fenceOk .ctl (wf 5 0 0 0) = true ∧ (wf 5 0 0 0).md.toNat % 4 ≠ 2 ∧
    (∀ now last, (((cs.afterCtl ct now last).landCtl ct.uid).triggerRange ct.pair 0 (cs.extent ct.pair) ⟨ct.uid, none, 0⟩).hole = none) ∧
    fenceOk .vec (wf 22 0 0 0) = true ∧
    (∀ p ∈ vf.pass (wf 22 0 0 0), ∀ now rod, (vs.afterIssue vf now rod).fenceDone 2 5 ⟨vf.t.uid, some vf.r.num, p⟩ = true) := by
  refine ⟨ct_issues, by unfold Team.guard; decide, by decide, by decide, by decide, by decide, fun now last => ?_, by decide, fun p _ now rod => ?_⟩
  · have hm : (cs.pair ct.pair).maps = [] := by decide
    rw [landCtl_idle (show (cs.afterCtl ct now last).accesses = [] from rfl), triggerRange_unmapped (by rw [afterCtl_pair]; simpa only using hm)]
    rfl
  · exact acquire_idle rfl (fun h => by cases h) 5
/-- A load of thread 3 in flight. -/
def loading : State := { vs with accesses := [⟨7, 0, ⟨vf.t.uid, some vf.r.num, 3⟩, 0, 0, 2, 0, .load ⟨4, 4, none⟩, []⟩] }
/-- The focus there. -/
def lf : Foc := (focus loading).get (by decide)
theorem wit_CompactionFencesAndWriteBacks_waits : VecIssues loading lf ∧
    ∃ p ∈ lf.pass (wf 22 0 0 0), ∀ now rod, (loading.afterIssue lf now rod).fenceDone 2 5 ⟨lf.t.uid, some lf.r.num, p⟩ = false := by
  refine ⟨vec_of (Option.some_get _).symm (by decide) rfl, 3, by decide, fun now rod => ?_⟩
  have h3 : loading.busy ⟨lf.t.uid, some lf.r.num, 3⟩ true = true := by decide
  have hb : (loading.afterIssue lf now rod).busy ⟨lf.t.uid, some lf.r.num, 3⟩ true = true := h3
  simp [State.fenceDone, hb]
theorem spwb_none (s : State) (a : MemReq) (h : capSpace a.c = 2) : s.spwb a 0 = (s, none) := by simp [State.spwb, h]
theorem wit_CompactionFencesAndWriteBacks_spwb : memOk .ctl .reg (fun n => n == 0) false (mw 5 68 0x7FF 0 0 0 0) = true ∧
    ∀ now last, (((csOf armedCtl).afterCtl (ctOf armedCtl) now last).landCtl (ctOf armedCtl).uid).spwb
      ((ctOf armedCtl).memReq (memAddrCtl (ctOf armedCtl).ctl (mw 5 68 0x7FF 0 0 0 0) 1 0) false) 0 = ((csOf armedCtl).afterCtl (ctOf armedCtl) now last, none) := by
  refine ⟨by decide, fun now last => ?_⟩
  rw [landCtl_idle (show ((csOf armedCtl).afterCtl (ctOf armedCtl) now last).accesses = [] from rfl)]
  exact spwb_none _ _ (by decide)

/-- A size of 0 takes no block. -/
theorem heapTake_zero (s : State) (q : Req) : s.heapTake q 0 = (s, TCap.null) := by
  unfold State.heapTake
  split <;> simp
/-- DALLOC of 0 bytes by one thread, and by a control thread. -/
theorem wit_SampledLoadsTracesAndAllocationsRun : VecIssues (vsOf armed) (vfOf armed) ∧
    (∃ step zero, taskOf (.dalloc { wf 2 12 5 0 with g := 1 }) (vfOf armed) = some (step, zero, [3]) ∧ VecWhole (vsOf armed) (vfOf armed) (passLoop step zero [3])) ∧
    taskForm (.dalloc { wf 2 12 5 0 with g := 1 }) ((vsOf armed).quadMode (vfOf armed).t.grid) = some ({ wf 2 12 5 0 with g := 1 }, .quad, .reg, .none, true) ∧
    (∀ n ∈ vregsOf .quad (fldD { wf 2 12 5 0 with g := 1 }) ++ vregsOf .reg (fldA { wf 2 12 5 0 with g := 1 }) ++ vregsOf .none (fldB { wf 2 12 5 0 with g := 1 }), n < (vfOf armed).r.top) ∧
    (∀ p ∈ (vfOf armed).pass { wf 2 12 5 0 with g := 1 }, ∀ n ∈ vregsOf .quad (fldD { wf 2 12 5 0 with g := 1 }) ++ fullNeeds .reg (fldA { wf 2 12 5 0 with g := 1 }) ++
      fullNeeds .none (fldB { wf 2 12 5 0 with g := 1 }), (vfOf armed).r.isFull p n = true) := by
  refine ⟨vfOf_issues (by decide) rfl, ⟨dallocThread { wf 2 12 5 0 with g := 1 }, dallocZero { wf 2 12 5 0 with g := 1 }, ?_, fun now rod => ?_⟩, by decide, by decide, by decide⟩
  · have : (vfOf armed).pass { wf 2 12 5 0 with g := 1 } = [3] := by decide
    simp only [taskOf, this]
    rfl
  · have ha : readOpd (vfOf armed).r 3 .reg (fldA { wf 2 12 5 0 with g := 1 }) = .ok ⟨0, false⟩ := by with_unfolding_all rfl
    have hh : (vfOf armed).r.helper 3 = false := by decide
    simp only [passLoop, dallocThread, ha, hh, show (0 : BitVec 128).toNat = 0 from rfl, heapTake_zero]
    exact ⟨rfl, rfl⟩
theorem wit_SampledLoadsTracesAndAllocationsRun_ctl : CtlIssues cs ct ∧ ct.guard 0 false ∧ dallocOk .ctl (wf 2 68 5 0) = true ∧
    CtlWhole cs ct (fun s _ => (s.heapTake ct.req ((ct.ctl.getS 5).toNat % 2 ^ 32)).1) ∧ smOk 2 false .ctl (wf 0 8 68 12) = true := by
  refine ⟨ct_issues, by unfold Team.guard; decide, by decide, fun now last e ra => ?_, by decide⟩
  have : (ct.ctl.getS 5).toNat % 2 ^ 32 = 0 := by decide
  simp only [this, heapTake_zero]
  rfl
theorem wit_SampledLoadsTracesAndAllocationsRun_step : ∃ g, dallocThread (wf 2 12 5 0) vf 3 = .ok g ∧ (wf 2 12 5 0).kd = false ∧ vf.r.helper 3 = false := by
  have ha : readOpd vf.r 3 .reg (fldA (wf 2 12 5 0)) = .ok ⟨0, false⟩ := by with_unfolding_all rfl
  have hh : vf.r.helper 3 = false := by decide
  simp only [dallocThread, ha, hh]
  exact ⟨_, rfl, rfl, trivial⟩

/-- A context with a heap of 1 MiB whose first block of 256 bytes is taken. -/
def heapy (s : State) : State := { s with ctxs := s.ctxs.map (fun e => (e.1, e.2.map (fun c => { c with heapBase := 0x100000, heapLen := 0x100000, blocks := [(0x100000, 256)] }))) }
theorem wit_HeapBlocks : (∃ x, (heapy cs).ctx ct.req.ctx = some x ∧ x.heapBase % 256 = 0 ∧ x.heapBase + x.heapLen ≤ 2 ^ 48) ∧
    TCap.null.tag = false ∧ (capOf 1 59 0x100000 256 0x100000).tag = true ∧ (heapy cs).heapOwns ct.req.ctx (capOf 1 59 0x100000 256 0x100000) = true ∧
    (heapy cs).heapOwns ct.req.ctx (capOf 1 59 0x100000 512 0x100000) = false := ⟨⟨_, rfl, by decide, by decide⟩, by decide, by decide, by decide, by decide⟩
/-- DFREE by no thread that is active, and by a control thread. -/
theorem wit_HeapBlocks_free : VecIssues vs vf ∧ dfreeOk .vec { wf 0 0 8 0 with g := 1 } = true ∧
    Clear vf (vf.pass { wf 0 0 8 0 with g := 1 }) (vregsOf .quad (fldA { wf 0 0 8 0 with g := 1 })) (fullNeeds .quad (fldA { wf 0 0 8 0 with g := 1 })) ∧
    vf.pass { wf 0 0 8 0 with g := 1 } = [] ∧ dfreeOk .ctl (wf 0 0 68 0) = true ∧ CtlIssues cs ct ∧ ct.guard 0 false :=
  ⟨vf_issues, by decide, ⟨by decide, by decide⟩, by decide, by decide, ct_issues, by unfold Team.guard; decide⟩

/-! ### Homes, results, sectors and engines -/

/-- One access of thread 3 in flight, of one piece. -/
def flying (k : AccKind) (p : Piece) : State := { vs with gt := 10, accesses := [⟨7, 0, ⟨1, some 0, 3⟩, 0, 0, 1, 0, k, [p]⟩] }
/-- A piece of 4 bytes. -/
def four (h : Home) : Piece := ⟨h, 4, [1, 2, 3, 4], false, none, false, false, 0, none, 0, 0, false, 0, 0, [], []⟩
/-- Port 0 up. -/
def portUp (s : State) : State := { s with ports := [(0, { Port.start with state := .up })] }

theorem wit_AccessesAreServedAtTheirHomes_stores :
    (flying .store (four (.dev 64))).hole = none ∧ (∃ a, (flying .store (four (.dev 64))).pieceOpen 7 0 a (four (.dev 64)) ∧ a.kind = .store) ∧
    64 + (four (.dev 64)).data.length ≤ (flying .store (four (.dev 64))).installed ∧
    (flying .store (four (.dev 64))).installed = 0x1000000000 ∧ (0x1000000000 - 4) + (four (.dev (0x1000000000 - 4))).data.length ≤ (flying .store (four (.dev 64))).installed ∧
    (∃ a, (flying .store (four (.pad 0 0))).pieceOpen 7 0 a (four (.pad 0 0))) ∧ (four (.pad 0 0)).mask = none ∧ (four (.pad 0 0)).clears = false ∧
    (∃ a, (portUp (flying .store (four (.host 0 0)))).pieceOpen 7 0 a (four (.host 0 0))) ∧ (tabGet Port.start (portUp (flying .store (four (.host 0 0)))).ports 0).state = .up :=
  ⟨rfl, ⟨_, ⟨rfl, rfl, rfl, by decide⟩, rfl⟩, by decide, by decide, by decide, ⟨_, rfl, rfl, rfl, by decide⟩, rfl, rfl, ⟨_, rfl, rfl, rfl, by decide⟩, by decide⟩

theorem wit_AccessesAreServedAtTheirHomes_loads :
    (∃ a, (flying (.atom 0 4 1 0 ⟨5, 4, none⟩) (four (.dev 64))).pieceOpen 7 0 a (four (.dev 64)) ∧ a.kind = .atom 0 4 1 0 ⟨5, 4, none⟩) ∧ vs.sound 64 4 ∧
    (∃ a, (flying (.atom 0 4 1 0 ⟨5, 4, none⟩) (four (.pad 0 0))).pieceOpen 7 0 a (four (.pad 0 0))) ∧
    (∃ a, (flying (.load ⟨5, 4, none⟩) (four (.dev 64))).pieceOpen 7 0 a (four (.dev 64)) ∧ a.kind = .load ⟨5, 4, none⟩) ∧ 64 / 256 * 256 + 256 ≤ vs.installed ∧
    (∃ a, (flying (.load ⟨5, 4, none⟩) (four (.pad 0 0))).pieceOpen 7 0 a (four (.pad 0 0))) ∧
    (∃ a, (portUp (flying (.load ⟨5, 4, none⟩) (four (.host 0 0)))).pieceOpen 7 0 a (four (.host 0 0))) :=
  ⟨⟨_, ⟨rfl, rfl, rfl, by decide⟩, rfl⟩, by unfold State.sound; decide, ⟨_, rfl, rfl, rfl, by decide⟩, ⟨_, ⟨rfl, rfl, rfl, by decide⟩, rfl⟩, by decide,
    ⟨_, rfl, rfl, rfl, by decide⟩, ⟨_, rfl, rfl, rfl, by decide⟩⟩

/-- A piece that has been served. -/
def served (p : Piece) : Piece := { p with done := true }
theorem wit_ResultsArriveAndWaitsEnd_results :
    (∃ a, (flying .store (served (four (.dev 64)))).access 7 = some a ∧ a.done = true ∧ a.kind = .store) ∧
    (∃ a t r, (flying (.load ⟨5, 4, none⟩) (served (four (.dev 64)))).access 7 = some a ∧ a.done = true ∧ a.who.rank = some 0 ∧
      ((flying (.load ⟨5, 4, none⟩) (served (four (.dev 64)))).foldPcm a.who a.time).team a.who.team = some t ∧ t.rank 0 = some r ∧ r.ended = false) :=
  ⟨⟨_, rfl, by decide, rfl⟩, ⟨_, _, _, rfl, by decide, rfl, rfl, rfl, by decide⟩⟩
/-- A store that its home has just taken, or took before, a load that met poison, a word that a pop brings, and an access that has not left. -/
theorem wit_ResultsArriveAndWaitsEnd_cases :
    (∃ a, (flying .store { served (four (.dev 64)) with served := 10 }).access 7 = some a ∧ a.done = true ∧ (flying .store { served (four (.dev 64)) with served := 10 }).ripe a = false) ∧
    (∃ a, (flying .store (served (four (.dev 64)))).access 7 = some a ∧ a.done = true ∧ a.kind = .store ∧ (flying .store (served (four (.dev 64)))).ripe a = true) ∧
    (∃ a t r e, (flying (.load ⟨5, 4, none⟩) { served (four (.dev 64)) with err := some .poison }).access 7 = some a ∧ a.done = true ∧ a.who.rank = some 0 ∧ a.kind = .load ⟨5, 4, none⟩ ∧
      a.pieces.findSome? (fun p => p.err) = some e ∧
      ((flying (.load ⟨5, 4, none⟩) { served (four (.dev 64)) with err := some .poison }).foldPcm a.who a.time).team a.who.team = some t ∧ t.rank 0 = some r ∧ r.ended = false) ∧
    (∃ a t r, (flying (.popped 5 4 9) (served (four (.dev 64)))).access 7 = some a ∧ a.done = true ∧ a.who.rank = some 0 ∧ a.kind = .popped 5 4 9 ∧
      ((flying (.popped 5 4 9) (served (four (.dev 64)))).foldPcm a.who a.time).team a.who.team = some t ∧ t.rank 0 = some r ∧ r.ended = false) ∧
    (∃ a, ({ flying .store (four (.dev 64)) with gt := 3 } : State).access 7 = some a ∧ 3 < a.leaves) :=
  ⟨⟨_, rfl, by decide, by decide⟩, ⟨_, rfl, by decide, rfl, by decide⟩, ⟨_, _, _, _, rfl, by decide, rfl, rfl, rfl, rfl, rfl, by decide⟩,
    ⟨_, _, _, rfl, by decide, rfl, rfl, rfl, rfl, by decide⟩, ⟨_, rfl, by decide⟩⟩
/-- A control thread in a wait. -/
def csWait (w : Wait) : State := csOf (fun t => t.withCtl { t.ctl with wait := w })
/-- The split in a wait. -/
def vsWait (w : Wait) : State := vsOf (fun r => { r with splits := r.splits.map (fun x => { x with wait := w }) })
theorem wit_ResultsArriveAndWaitsEnd_control : ∃ t a, ({ csWait (.result 7) with accesses := [⟨7, 0, ⟨1, none, 0⟩, 0, 0, 1, 0, .load ⟨5, 4, none⟩, [served (four (.dev 64))]⟩] } : State).access 7 = some a ∧ a.done = true ∧
    (({ csWait (.result 7) with accesses := [⟨7, 0, ⟨1, none, 0⟩, 0, 0, 1, 0, .load ⟨5, 4, none⟩, [served (four (.dev 64))]⟩] } : State).foldPcm a.who a.time).team 1 = some t ∧ t.ctl.wait = .result 7 ∧
    a.pieces.findSome? (fun p => p.err) = none := ⟨_, _, rfl, by decide, rfl, by decide, by decide⟩
theorem wit_ResultsArriveAndWaitsEnd_waits : (∃ t, (csWait (.sleep 0)).team 1 = some t ∧ t.ctl.wait = .sleep 0) ∧
    (∃ t r x, (vsWait (.sleep 0)).splitOf (.vec 1 0 0) = some (t, r, x) ∧ x.wait = .sleep 0) ∧
    (∃ t, (csWait (.fence 3 5 1)).team 1 = some t ∧ t.ctl.wait = .fence 3 5 1) ∧ (csWait (.fence 3 5 1)).fenceDone 3 5 ⟨1, none, 0⟩ = true ∧
    (∃ t r x, (vsWait (.fence 3 5 0x81)).splitOf (.vec 1 0 0) = some (t, r, x) ∧ x.wait = .fence 3 5 0x81) ∧
    (∀ p ∈ maskList 0x81, (vsWait (.fence 3 5 0x81)).fenceDone 3 5 ⟨1, some 0, p⟩ = true) :=
  ⟨⟨_, rfl, by decide⟩, ⟨_, _, _, rfl, by decide⟩, ⟨_, rfl, by decide⟩, by decide, ⟨_, _, _, rfl, by decide⟩, by decide⟩

theorem wit_ResultsArriveAndWaitsEnd_fetch : (∃ t, (csWait .fetch).team 1 = some t ∧ t.ctl.wait = .fetch ∧ (∃ s, (csWait .fetch).fillWord t.req t.ctl.pc.toNat = (s, none)) ∧
      ∃ (s : State) (w : DWord), ((csWait .fetch).fillWord t.req t.ctl.pc.toNat).1.fetchWord t.req t.ctl.pc.toNat = (s, .word w) ∧ (w.extractLsb' 54 10 != 0x064#10 && s.hole.isNone) = true) ∧
    ∃ t r x, (vsWait .fetch).splitOf (.vec 1 0 0) = some (t, r, x) ∧ x.wait = .fetch ∧ (∃ s, (vsWait .fetch).fillWord t.req x.pc.toNat = (s, none)) ∧
      ∃ (s : State) (w : DWord), ((vsWait .fetch).fillWord t.req x.pc.toNat).1.fetchWord t.req x.pc.toNat = (s, .word w) ∧ (w.extractLsb' 54 10 != 0x064#10 && s.hole.isNone) = true :=
  ⟨⟨_, rfl, by decide, none_of (by decide), word_of (q := fun s w => w.extractLsb' 54 10 != 0x064#10 && s.hole.isNone) (by decide)⟩,
    ⟨_, _, _, rfl, by decide, none_of (by decide), word_of (q := fun s w => w.extractLsb' 54 10 != 0x064#10 && s.hole.isNone) (by decide)⟩⟩
/-- The split has been current for its grid's limit of cycles. -/
def watched : State := vs.putRod 0 0 { Rod.idle with cur := some (.vec 1 0 0), watch := 16777216 }
theorem wit_ResultsArriveAndWaitsEnd_watchdog : ∃ a f g, (watched.rod 0 0).cur = some a ∧ focus { watched with cur := a } = some f ∧ watched.grid f.t.grid = some g ∧
    g.wdlim ≤ (watched.rod 0 0).watch := ⟨.vec 1 0 0, _, _, by decide, rfl, rfl, by decide⟩

/-- Pair 0 with the placed page mapped at its first sixteen sectors, the first in a state. -/
def mapped (x : Sector) : State := vs.putPair 0 { vs.pair 0 with maps := [(0, some ⟨0, 0, 16, 0, 0, 0, false, false⟩)], sectors := [(0, x)] }
theorem wit_SectorsFillAndGoHome : (mapped { Sector.fresh with st := .f }).hole = none ∧
    ∃ idx m g, ((mapped { Sector.fresh with st := .f }).pair 0).mapAt (0 * 256) = some (idx, m) ∧ (mapped { Sector.fresh with st := .f }).gridOn 0 = some g ∧
      (mapped { Sector.fresh with st := .f }).sectorAsked 0 0 = false ∧ (((mapped { Sector.fresh with st := .f }).pair 0).sector 0).st = .f ∧
      (∃ (s1 : State) (pg : Page), (mapped { Sector.fresh with st := .f }).translate ⟨0, g.ctx, 0⟩ (m.sectorVa 0) needR = (s1, .page pg) ∧
        (pg.fmt == m.fmt && pg.blk == m.blk && (s1.readDev (pg.base + pg.off) 256 m.part).2.toOption.isSome && (s1.readDev (pg.base + pg.off) 256 m.part).1.hole.isNone) = true) :=
  ⟨rfl, 0, ⟨0, 0, 16, 0, 0, 0, false, false⟩, (vs.gridOn 0).getD placeGrid, by decide, by decide, by decide, by decide, page_of (q := fun s1 pg => pg.fmt == 0 && pg.blk == 0 && (s1.readDev (pg.base + pg.off) 256 0).2.toOption.isSome &&
    (s1.readDev (pg.base + pg.off) 256 0).1.hole.isNone) (by decide)⟩
/-- A sector whose last granule is on its way home. -/
def leaving : Sector := { Sector.fresh with st := .w, flight := 0x8000, bytes := List.replicate 256 7 }
theorem wit_SectorsFillAndGoHome_applied : (mapped leaving).migWaiting (.sector 0 0) = false ∧ (((mapped leaving).pair 0).sector 0).applied = none ∧
    (((mapped { leaving with applied := some (0, 5) }).pair 0).sector 0).applied = some (0, 5) ∧ (mapped { leaving with applied := some (0, 5) }).gt ≤ 0 ∧
    0 < ({ mapped { leaving with applied := some (0, 5) } with gt := 1 } : State).gt := ⟨by decide, rfl, by decide, by decide, by decide⟩
theorem wit_SectorsFillAndGoHome_back : (((mapped leaving).pair 0).sector 0).st = .w ∧ (((mapped leaving).pair 0).sector 0).bytes.length = 256 ∧ (mapped leaving).sectorAsked 0 0 = false ∧
    ∃ (s1 : State) (pg : Page), (mapped leaving).translate ⟨0, 0, 0⟩ 0 needW = (s1, .page pg) ∧ (s1.hole.isNone && decide (pg.base + pg.off + 256 ≤ s1.installed)) = true :=
  ⟨by decide, show (List.replicate 256 (7 : Byte)).length = 256 from List.length_replicate, by decide, page_of (q := fun s1 pg => s1.hole.isNone && decide (pg.base + pg.off + 256 ≤ s1.installed)) (by decide)⟩
/-- The region sparse and its page absent and marked so. -/
def holed : State := { mapped { Sector.fresh with st := .f } with
  ctxs := vs.ctxs.map (fun e => (e.1, e.2.map (fun c => { c with regions := c.regions.map (fun r => (r.1, { r.2 with sparse := true })) }))), mem := memPut (tabClear vs.mem placeTable 8) placeTable [2] }
theorem wit_SectorsFillAndGoHome_sparse : ∃ s1, holed.translate ⟨0, 0, 0⟩ 0 needR = (s1, .sparse) ∧ s1.hole = none := sparse_of (by decide)

/-- A deposit for v5 of thread 3 of the rank, and one for a slot without a rank. -/
def dep (slot : Nat) : Deposit := ⟨7, ⟨9, none, 3⟩, 0, 0, 0, slot, 5, 42⟩
/-- The deposit on its way. -/
def carrying (slot : Nat) : State := { vs with deposits := [dep slot] }
theorem wit_DepositsAndAppendsArrive : (carrying 0).hole = none ∧ (carrying 0).deposits.find? (fun e => e.id == (dep 0).id) = some (dep 0) ∧
    ((carrying 0).deposits.takeWhile (fun e => e.id != (dep 0).id)).any
      (fun e => decide (e.who = (dep 0).who) && e.pair == (dep 0).pair && e.rod == (dep 0).rod && e.slot == (dep 0).slot && e.reg == (dep 0).reg) = false ∧
    (∃ t r, ({ carrying 0 with deposits := (carrying 0).deposits.filter (fun e => e.id != (dep 0).id) } : State).rankAt 0 0 0 = some (t, r) ∧ t.grid = (dep 0).grid ∧ (dep 0).who.pos < r.width ∧ (dep 0).reg < r.top) ∧
    ({ carrying 1 with deposits := (carrying 1).deposits.filter (fun e => e.id != (dep 1).id) } : State).rankAt 0 0 1 = none :=
  ⟨rfl, rfl, rfl, ⟨_, _, rfl, by decide, by decide, by decide⟩, by decide⟩
/-- An append to an empty ring of 16 slots whose header stands at 1,024 in the placed page. -/
def appending : State := { vs with mem := memPut vs.mem (placePage + 1024) (natLe 32 (4 * 2 ^ 193)), appends := [⟨7, 0, 0, 1024, 5⟩] }
theorem wit_DepositsAndAppendsArrive_append : appending.appends.find? (fun c => c.id == 7) = some ⟨7, 0, 0, 1024, 5⟩ ∧ appending.migWaiting (.append 7) = false ∧
    ∃ (s1 : State) (p : Page), appending.unitPage ⟨0 / 2, 0, 0⟩ 1024 (needR + needW) = (s1, .page p) ∧
      (s1.readDev (p.base + p.off) 32 p.part).2.toOption.any (fun b => decide (4 ≤ bitsAt (leNat b) 193 5) && decide (bitsAt (leNat b) 193 5 ≤ 20) &&
        decide ((bitsAt (leNat b) 0 64 + 2 ^ 64 - bitsAt (leNat b) 64 64) % 2 ^ 64 < 2 ^ bitsAt (leNat b) 193 5) &&
        decide ((((s1.readDev (p.base + p.off) 32 p.part).1.unitMig ⟨0, 0, 0⟩ needW (1024 + 64 + 16 * (bitsAt (leNat b) 0 64 % 2 ^ bitsAt (leNat b) 193 5)) 16 3).2).isNone)) = true :=
  ⟨rfl, by decide, _, _, rfl, by decide⟩
/-- The same with every slot taken. -/
def appendingFull : State := { vs with mem := memPut vs.mem (placePage + 1024) (natLe 32 (16 + 4 * 2 ^ 193)), appends := [⟨7, 0, 0, 1024, 5⟩] }
theorem wit_DepositsAndAppendsArrive_full : appendingFull.appends.find? (fun c => c.id == 7) = some ⟨7, 0, 0, 1024, 5⟩ ∧ appendingFull.migWaiting (.append 7) = false ∧
    ∃ (s1 : State) (p : Page), appendingFull.unitPage ⟨0 / 2, 0, 0⟩ 1024 (needR + needW) = (s1, .page p) ∧
      (s1.readDev (p.base + p.off) 32 p.part).2.toOption.any (fun b => decide (4 ≤ bitsAt (leNat b) 193 5) && decide (bitsAt (leNat b) 193 5 ≤ 20) &&
        decide (2 ^ bitsAt (leNat b) 193 5 ≤ (bitsAt (leNat b) 0 64 + 2 ^ 64 - bitsAt (leNat b) 64 64) % 2 ^ 64)) = true :=
  ⟨rfl, by decide, _, _, rfl, by decide⟩

/-! ### Engines, rings and handles -/

/-- The tables of a pair stay as they are when a control thread issues. -/
theorem afterCtl_pairs (s : State) (t : Team) (now : Nat) (last : Tab Nat) (p : Nat) :
    ((s.afterCtl t now last).pair p).l1sz = (s.pair p).l1sz ∧ ((s.afterCtl t now last).pair p).locks = (s.pair p).locks := by
  have h : (s.afterCtl t now last).pair p = if p = t.pair then { s.pair t.pair with lastCtl := last } else s.pair p := by
    simp only [State.afterCtl, State.pair, State.putPair]
    exact tabGet_tabPut _ _ _ _ _
  rw [h]
  split
  · rename_i hp
    exact ⟨by rw [hp], by rw [hp]⟩
  · exact ⟨rfl, rfl⟩
/-- Copies of 64 bytes within the host's space: c4 the destination, c5 the source, s20 to s23 the descriptor. -/
def copying (nx : DWord) (t : Team) : Team := t.withCtl { t.ctl with c := [(4, capOf 5 63 0 4096 0), (5, capOf 5 63 0 4096 2048)], s := [(20, nx)] }
/-- CPY of bytes under handle 3. -/
def kw : FWord := wf 0 83 68 20
/-- The operation it asks for. -/
def kop (nx : DWord) : EngOp := copyOp .copy kw (ctOf (copying nx))
theorem wit_CopiesStart : CtlIssues (csOf (copying 64)) (ctOf (copying 64)) ∧ (ctOf (copying 64)).guard 0 false ∧ copyFields .copy kw = true ∧ copyDescOk (kop 64) = true ∧
    (kop 64).ring = false ∧ (ctOf (copying 64)).handle (kop 64).hnd = .idle ∧ (kop 64).nx ≠ 0 ∧ (kop 64).blocks = false ∧ (kop 0).nx = 0 ∧ copyDescOk (kop 0) = true ∧ VecIssues vs vf :=
  ⟨ctOf_issues (by decide) (by decide), by unfold Team.guard; decide, by decide, by decide, by decide, by decide, by decide, by decide, by decide, by decide, vf_issues⟩
/-- Sides in the host's space have no format. -/
theorem copyFormats_host (s : State) (o : EngOp) (h1 : capSpace o.src = 5) (h2 : capSpace o.dst = 5) (h3 : o.ring = false) :
    s.copyFormats o = (s, { o with srcFmt := 0, dstFmt := 0 }) := by simp [State.copyFormats, State.sideFmt, h1, h2, h3]
/-- The copy as its formats are known. -/
def kopf : EngOp := { kop 64 with srcFmt := 0, dstFmt := 0 }
/-- Spans are checked by extents alone. -/
theorem checkSpan_congr {s s' : State} (h : ∀ p, s.extent p = s'.extent p) (pair : Nat) (r : CopyRange) : s.checkSpan pair r = s'.checkSpan pair r := by
  have hc : s.inColumns pair (capSpace r.cap) r.first r.last = s'.inColumns pair (capSpace r.cap) r.first r.last := by
    have he : s.extent = s'.extent := funext h
    unfold State.inColumns State.extentOf
    rw [he]
  unfold State.checkSpan
  rw [hc]
/-- Range locks are checked by the tables alone. -/
theorem locksFree_congr {s s' : State} (h : ∀ p, (s.pair p).locks = (s'.pair p).locks) (l : List (Nat × RangeLock)) : s.locksFree l = s'.locksFree l := by
  simp only [State.locksFree, Pair.lockWait, Pair.freeLocks, h]
  rfl
theorem wit_CopiesStart_goes : CopyGoes (csOf (copying 64)) (ctOf (copying 64)) (kop 64) := by
  intro now last x hx
  rw [copyFormats_host _ _ (by decide) (by decide) (by decide)] at hx
  subst hx
  have h := afterCtl_pairs (csOf (copying 64)) (ctOf (copying 64)) now last
  have he : ∀ p, ((csOf (copying 64)).afterCtl (ctOf (copying 64)) now last).extent p = (csOf (copying 64)).extent p := fun p => by simp only [State.extent, (h p).1]
  have hr : kopf.ring = false := by decide
  have hc : kopf.checked.findSome? ((csOf (copying 64)).checkSpan kopf.pair) = none := by decide
  have hl : (csOf (copying 64)).locksFree ({ kopf with target := 0 }.lockList (ctOf (copying 64)).slot) = true := by decide
  refine ⟨show copyFmtTrap kopf = none by decide, show State.copyShapeOk _ kopf = true by rfl, show ownClash (kopf.lockList (ctOf (copying 64)).slot) = false by decide, ?_, rfl, ?_, ?_, ?_⟩
  · show State.checkSpans _ kopf = none
    have hf : State.checkSpan ((csOf (copying 64)).afterCtl (ctOf (copying 64)) now last) kopf.pair = (csOf (copying 64)).checkSpan kopf.pair := funext (checkSpan_congr he _)
    simp only [State.checkSpans, hr, hf, hc]
    rfl
  · show tabGet false (csOf (copying 64)).engines (kop 64).unit = false
    decide
  · show (csOf (copying 64)).opsOn (kop 64).unit < 64
    decide
  · exact (locksFree_congr (fun p => (h p).2) _).trans hl
/-- Handle 3 pending. -/
def pending (t : Team) : Team := t.holding 3 (.pending 9)
/-- Handle 3 resolved. -/
def resolved (t : Team) : Team := t.holding 3 (.resolved ⟨true, false, 8, 0xFFFFFFFFFF, 5⟩)
theorem wit_HandlesAndRanges : CtlIssues (csOf pending) (ctOf pending) ∧ CtlIssues (csOf resolved) (ctOf resolved) ∧ (ctOf pending).guard 0 false ∧
    fldOk .ctl .spair (fldD (wf 0 6 83 0)) = true ∧ fldOk .ctl .handle (fldA (wf 0 6 83 0)) = true ∧ fldOk .ctl .none (fldB (wf 0 6 83 0)) = true ∧
    (∃ id, (ctOf pending).handle (handleOf (fldA (wf 0 6 83 0))) = .pending id) ∧ (∃ r, (ctOf resolved).handle (handleOf (fldA (wf 0 6 83 0))) = .resolved r) ∧
    ct.handle (handleOf (fldA (wf 0 6 83 0))) = .idle ∧ fldOk .ctl .pred (fldD (wf 0 7 95 0)) = true ∧ fldOk .ctl .handle (fldA (wf 0 7 95 0)) = true ∧
    fldOk .ctl .none (fldD (wf 0 0 80 0)) = true ∧ fldOk .ctl .handle (fldA (wf 0 0 80 0)) = true :=
  ⟨ctOf_issues (by decide) (by decide), ctOf_issues (by decide) (by decide), by unfold Team.guard; decide, by decide, by decide, by decide, ⟨_, rfl⟩, ⟨_, rfl⟩, by decide, by decide, by decide,
    by decide, by decide⟩
/-- A range of the context space of 0 bytes and of 4,096 bytes in c4 and s20. -/
def ranged (n : DWord) (t : Team) : Team := t.withCtl { t.ctl with c := [(4, capOf 1 63 0 0x100000 4096)], s := [(20, n)] }
theorem wit_HandlesAndRanges_range : CtlIssues (csOf (ranged 4096)) (ctOf (ranged 4096)) ∧ plainMod (wf 0 83 68 20) 1 = true ∧ plainMod (wf 0x1F 83 68 20) 32 = true ∧
    fldOk .ctl .handle (fldD (wf 0 83 68 20)) = true ∧ fldOk .ctl .quad (fldA (wf 0 83 68 20)) = true ∧ fldOk .ctl .wide (fldB (wf 0 83 68 20)) = true ∧
    (ctOf (ranged 4096)).handle (rangeOp .tlblock (wf 0 83 68 20) (ctOf (ranged 4096))).hnd = .idle ∧ (rangeOp .tlblock (wf 0 83 68 20) (ctOf (ranged 0))).total = 0 ∧
    (rangeOp .tlblock (wf 0 83 68 20) (ctOf (ranged 4096))).total ≠ 0 ∧
    (∀ now last, ((csOf (ranged 4096)).afterCtl (ctOf (ranged 4096)) now last).checkSpan 0 ⟨false, (rangeOp .tlblock (wf 0 83 68 20) (ctOf (ranged 4096))).src,
      capCursor (rangeOp .tlblock (wf 0 83 68 20) (ctOf (ranged 4096))).src, capCursor (rangeOp .tlblock (wf 0 83 68 20) (ctOf (ranged 4096))).src + 4096 - 1, permLD⟩ = none) := by
  refine ⟨ctOf_issues (by decide) (by decide), by decide, by decide, by decide, by decide, by decide, by decide, by decide, by decide, fun now last => ?_⟩
  have h := afterCtl_pairs (csOf (ranged 4096)) (ctOf (ranged 4096)) now last
  have he : ∀ p, ((csOf (ranged 4096)).afterCtl (ctOf (ranged 4096)) now last).extent p = (csOf (ranged 4096)).extent p := fun p => by simp only [State.extent, (h p).1]
  rw [checkSpan_congr he]
  decide

/-- Ring 0 of pair 0: two slots of 256 bytes, the first filled, the first taken, or both counters about to wrap. -/
def ringed (tak fil : BitVec 7) (s : State) : State := s.putRing 0 0 { Ring.zero with nm1 := 1, slot := 1, v := true, tak := tak, fil := fil, clm := fil, slots := [(0, ⟨256, 6, false⟩)] }
theorem wit_RingsHandOutSlots : CtlIssues (ringed 0 1 cs) ct ∧ ct.guard 0 false ∧ plainMod (wf 0 0 5 0) 32 = true ∧ fldOk .ctl .wide (fldA (wf 0 0 5 0)) = true ∧
    cs.ringBad ct 31 (2 ^ 6) = false ∧ (ringed 0 1 cs).ringMine ct 0 = true ∧ (ringed 0 1 cs).ringMine ct 31 = false ∧
    ((ringed 0 1 cs).ring ct.pair 0).fil ≠ ((ringed 0 1 cs).ring ct.pair 0).tak ∧ ((ringed 127 127 cs).ring ct.pair 0).fil = ((ringed 127 127 cs).ring ct.pair 0).tak ∧
    ((ringed 1 1 cs).ring ct.pair 0).held 0 = true ∧ (((ringed 1 1 cs).ring ct.pair 0).at 0).rls = false ∧ ((ringed 1 1 cs).ring ct.pair 0).held 1 = false :=
  ⟨⟨rfl, by decide, by decide, rfl⟩, by unfold Team.guard; decide, by decide, by decide, by decide, by decide, by decide, by decide, by decide, by decide, by decide, by decide⟩
/-- The same for the split. -/
def rf (tak fil : BitVec 7) : Foc := (focus (ringed tak fil vs)).getD vf
theorem wit_RingsHandOutSlots_vec : VecIssues (ringed 0 1 vs) (rf 0 1) ∧ (rf 0 1).actives ((rf 0 1).pass (wf 0 6 0 0)) ≠ [] ∧ (ringed 0 1 vs).ringMine (rf 0 1).t 0 = true ∧
    fldOk .vec .pair (fldD (wf 0 6 0 0)) = true ∧ Clear (rf 0 1) ((rf 0 1).pass (wf 0 6 0 0)) (vregsOf .pair (fldD (wf 0 6 0 0))) (vregsOf .pair (fldD (wf 0 6 0 0))) ∧
    ((ringed 0 1 vs).ring 0 0).fil ≠ ((ringed 0 1 vs).ring 0 0).tak ∧
    VecIssues (ringed 1 1 vs) (rf 1 1) ∧ Clear (rf 1 1) ((rf 1 1).pass (wf 0 0 5 0)) (vregsOf .reg (fldA (wf 0 0 5 0))) (fullNeeds .reg (fldA (wf 0 0 5 0))) ∧
    (∃ p l, (rf 1 1).actives ((rf 1 1).pass (wf 0 0 5 0)) = p :: l) ∧ (∃ v, readOpd (rf 1 1).r 0 .reg (fldA (wf 0 0 5 0)) = .ok v ∧ (lo32 v).toNat = 0) ∧
    ((ringed 1 1 vs).ring 0 0).held 0 = true :=
  ⟨vec_of rfl (by decide) rfl, by decide, by decide, by decide, ⟨by decide, by decide⟩, by decide, vec_of rfl (by decide) rfl, ⟨by decide, by decide⟩, ⟨_, _, rfl⟩, ⟨_, rfl, by decide⟩, by decide⟩

/-- An operation in flight: a plain copy of 64 bytes, which has not begun. -/
def engine (o : EngOp) : State := { vs with ops := [o] }
/-- The copy. -/
def eop : EngOp := { kop 64 with id := 9, total := 64 }
theorem wit_EngineOperationsProceed : vs.hole = none ∧ vs.op 9 = none ∧ (engine eop).op 9 = some eop ∧ eop.kind.isCopy = true ∧ eop.window = none ∧
    (∃ st, ({ eop with status := some 8 } : EngOp).status = some st) ∧ ((engine eop).engRun 9 0 1).hole = none :=
  ⟨rfl, by decide, rfl, rfl, rfl, ⟨_, rfl⟩, by decide⟩
/-- A copy into ring 0, which has a slot to claim. -/
def rop : EngOp := { eop with md := 32, dst := capOf 2 63 0 4096 0 }
theorem wit_EngineOperationsProceed_ring : rop.ring = true ∧ ((ringed 0 0 (engine rop)).ring rop.pair rop.rng).v = true ∧ rop.status = none ∧ rop.cancel = false ∧
    rop.claimed.length * (256 * ((ringed 0 0 (engine rop)).ring rop.pair rop.rng).slot) < rop.units * rop.dstSize ∧
    (((ringed 0 0 (engine rop)).ring rop.pair rop.rng).clm - ((ringed 0 0 (engine rop)).ring rop.pair rop.rng).rel).toNat < ((ringed 0 0 (engine rop)).ring rop.pair rop.rng).nm1 + 1 ∧
    ((ringed 0 0 (engine rop)).ops.takeWhile (fun p => p.id != rop.id)) = [] := by decide
/-- A copy of 4 bytes within the scratchpad. -/
def pop : EngOp := { eop with src := capOf 2 63 0 4096 0, dst := capOf 2 63 0 4096 64, total := 4, desc := [4] }
theorem wit_EngineOperationsProceed_plain : pop.phys = false ∧ pop.ring = false ∧ capSpace pop.src = 2 ∧ capSpace pop.dst = 2 ∧
    ∃ s m, (engine pop).movePlain pop (fun _ => false) ⟨0, 64, 4, Touch.none⟩ 1 = (s, .ok m) := by
  refine ⟨by decide, by decide, by decide, by decide, ?_⟩
  have h : ((engine pop).movePlain pop (fun _ => false) ⟨0, 64, 4, Touch.none⟩ 1).2.toOption.isSome = true := by decide
  cases hx : (engine pop).movePlain pop (fun _ => false) ⟨0, 64, 4, Touch.none⟩ 1 with
  | mk s e => cases e with
    | error e => simp [hx, Except.toOption] at h
    | ok m => exact ⟨s, m, rfl⟩

/-! ### Matrix instructions, islands and requests -/

theorem wit_LeasesAndSimpleMatrixInstructions : CtlIssues cs ct ∧ ct.guard 0 false ∧ plainMod (wf 511 0 0 0) 512 = true ∧ fldOk .ctl .none (fldD (wf 511 0 0 0)) = true ∧
    (wf 511 0 0 0).md.getLsbD 8 ≠ ct.leaseP ∧ (wf 255 0 0 0).md.getLsbD 8 = ct.leaseP ∧ plainMod (wf 1 111 0 0) 2 = true ∧ fldOk .ctl .tile (fldD (wf 1 111 0 0)) = true ∧
    cs.hasTile ct (tileOf (fldD (wf 1 111 0 0))) = true ∧ fldOk .ctl .wide (fldA (wf 0 0 63 0)) = true ∧ VecIssues vs vf :=
  ⟨ct_issues, by unfold Team.guard; decide, by decide, by decide, by decide, by decide, by decide, by decide, by decide, by decide, vf_issues⟩

/-- Sources from endpoints 0 and 1 in FP16, a lease with chunks left, and in c1 the scratchpad's capability for an index list at 64. -/
def leased (t : Team) : Team :=
  { t.withCtl { t.ctl with c := [(1, padCap)], s := [(40, 0x03000000), (41, 8), (42, 0x03000001), (43, 8), (44, 0x03000000), (45, 8 + 2 ^ 46)] } with
    lc := 1, ends := [(0, { Endpoint.unbound with kind := some 0 }), (1, { Endpoint.unbound with kind := some 0 })] }
/-- Queue sources lie on no memory: an MMA on two of them passes its checks if its index list does. -/
theorem mmaFree_queues (s : State) (t : Team) (o : MatOp) (x : Option IdxList) (hi : DWord) (ha : mapKind o.mapA = 3) (hb : mapKind o.mapB = 3)
    (fa : mapFmt o.mapA = 8) (fb : mapFmt o.mapB = 8) (ea : (tabGet Endpoint.unbound t.ends (mapBase o.mapA % 16)).kind ≠ none)
    (eb : (tabGet Endpoint.unbound t.ends (mapBase o.mapB % 16)).kind ≠ none) (ht : (t.tile o.tile).trap o.p o.tile = none) (hp : o.p = false) (hl : t.lc ≠ 0)
    (hx : x.bind (s.idxForm t) = none ∧ x.bind (s.idxCaps t) = none ∧ x.bind (s.idxLocks t) = none) (hr : s.rowsNamed t o.p x = some o.rowsA) : MmaFree o x hi s t := by
  have h8 : fmtsMeet (8, 0) (8, 0) = true := by decide
  have hf : s.matForms t o hi = none := by simp [State.matForms, State.mapFormat, State.mapRange, ha, hb, fa, fb, h8, State.sourceForm, ea, eb]
  refine ⟨hr, ?_, hl, by simp [State.sourceBytes, ha, hb, State.matFills]⟩
  simp [State.mmaTrap, hf, State.sourceChunks, State.sourceCaps, State.sourceLocks, State.sourcePrint, State.matCaps, State.matLocks, ha, hb, hx.1, hx.2.1, hx.2.2, hp]
  simpa only [hp] using ht
theorem wit_MatrixOperationsAreAccepted : CtlIssues (csOf leased) (ctOf leased) ∧ (ctOf leased).guard 0 false ∧ plainMod (wf 0x1FE 98 40 42) 512 = true ∧
    fldOk .ctl .tile (fldD (wf 0x1FE 98 40 42)) = true ∧ (csOf leased).hasTile (ctOf leased) (tileOf (fldD (wf 0x1FE 98 40 42))) = true ∧ fldOk .ctl .spair (fldA (wf 0x1FE 98 40 42)) = true ∧
    fldOk .ctl .spair (fldB (wf 0x1FE 98 40 42)) = true ∧ mapOk (mapAt (ctOf leased).ctl 42) false = true ∧ mapOk (mapAt (ctOf leased).ctl 40) false = true ∧
    (∀ now last e ra, MmaFree (mmaOp 0xC4 (wf 0x1FE 98 40 42) (ctOf leased) (List.range 16)) none (hiOf (fToWord 0xC4 (wf 0x1FE 98 40 42))) (((csOf leased).afterCtl (ctOf leased) now last).landCtl 1)
      ((ctOf leased).retimed e ra) ∧ (((csOf leased).afterCtl (ctOf leased) now last).landCtl 1).hole = none) := by
  refine ⟨ctOf_issues (by decide) (by decide), by unfold Team.guard; decide, by decide, by decide, by decide, by decide, by decide, by decide, by decide, fun now last e ra => ⟨?_, ?_⟩⟩
  · exact mmaFree_queues _ _ _ _ _ (by decide) (by decide) (by decide) (by decide) (show (tabGet Endpoint.unbound (ctOf leased).ends _).kind ≠ none by decide)
      (show (tabGet Endpoint.unbound (ctOf leased).ends _).kind ≠ none by decide) (show ((ctOf leased).tile _).trap _ _ = none by decide) rfl (show (ctOf leased).lc ≠ 0 by decide)
      ⟨rfl, rfl, rfl⟩ rfl
  · rw [landCtl_idle (show ((csOf leased).afterCtl (ctOf leased) now last).accesses = [] from rfl)]
    rfl
/-- An index list in a scratchpad with no map, lock or poison passes its checks and is read. -/
theorem idx_pad (s : State) (t : Team) (off n : Nat) (rows : List Nat) (hm : (s.pair t.pair).maps = []) (hl : (s.pair t.pair).locks = []) (hq : (s.pair t.pair).poison = [])
    (hc : capCheck .ctl permLD 1 (s.extentOf t.pair) (off : Int) (2 * n) (t.ctl.getC 1) = none)
    (hz : (List.range n).map (fun i => leNat (memBytes (s.pair t.pair).pad (off % 2 ^ 19 + 2 * i) 2)) = rows) :
    (s.idxForm t ⟨2, off, n⟩ = none ∧ s.idxCaps t ⟨2, off, n⟩ = none ∧ s.idxLocks t ⟨2, off, n⟩ = none) ∧
      s.idxRead t ⟨2, off, n⟩ = some rows := by
  have hn : ∀ off len, (s.pair t.pair).mappedIn off len = [] := fun off len => by simp [Pair.mappedIn, Pair.mapAt, hm]
  have hp : ∀ off len, (s.pair t.pair).poisoned off len = false := fun off len => by simp [Pair.poisoned, hq, tabGet]
  refine ⟨⟨?_, ?_, ?_⟩, ?_⟩
  · simp [State.idxForm, homePair, Pair.onFormat, hn]
  · simp [State.idxCaps, State.matCaps, hc]
  · simp [State.idxLocks, State.matLocks, homePair, Pair.lockHit, hl]
  · simp [State.idxRead, homePair, Pair.unfilled, hn, hp, ← hz]
/-- The rows that the list at offset 64 names in an empty scratchpad: row 0, sixteen times. -/
theorem wit_MatrixOperationsAreAccepted_gather : mapOk (mapAt (ctOf leased).ctl 44) true = true ∧
    (∀ now last e ra, MmaFree (mmaOp 0xC5 (wf 0x1FE 98 44 42) (ctOf leased) (List.replicate 16 0)) (some (mmaList (wf 0x1FE 98 44 42) (ctOf leased)))
      (hiOf (fToWord 0xC5 (wf 0x1FE 98 44 42))) (((csOf leased).afterCtl (ctOf leased) now last).landCtl 1) ((ctOf leased).retimed e ra)) := by
  refine ⟨by decide, fun now last e ra => ?_⟩
  rw [landCtl_idle (show ((csOf leased).afterCtl (ctOf leased) now last).accesses = [] from rfl)]
  have hx : ((csOf leased).pair (ctOf leased).pair).maps = [] ∧ ((csOf leased).pair (ctOf leased).pair).locks = [] ∧ ((csOf leased).pair (ctOf leased).pair).poison = [] := by decide
  have hz : (List.range 16).map (fun i => leNat (memBytes ((csOf leased).pair (ctOf leased).pair).pad (64 % 2 ^ 19 + 2 * i) 2)) = List.replicate 16 0 := by decide
  have hc : capCheck .ctl permLD 1 ((csOf leased).extentOf (ctOf leased).pair) 64 32 ((ctOf leased).ctl.getC 1) = none := by decide
  have h := afterCtl_pairs (csOf leased) (ctOf leased) now last
  have he : ((csOf leased).afterCtl (ctOf leased) now last).extentOf (ctOf leased).pair = (csOf leased).extentOf (ctOf leased).pair :=
    funext (fun c => by simp only [State.extentOf, State.extent, (h _).1])
  have hp := afterCtl_pair (csOf leased) (ctOf leased) now last
  have hp' : ((csOf leased).afterCtl (ctOf leased) now last).pair ((ctOf leased).retimed e ra).pair = { (csOf leased).pair (ctOf leased).pair with lastCtl := last } := hp
  have hm : mmaList (wf 0x1FE 98 44 42) (ctOf leased) = ⟨2, 64, 16⟩ := by rfl
  have hi := idx_pad ((csOf leased).afterCtl (ctOf leased) now last) ((ctOf leased).retimed e ra) 64 16 (List.replicate 16 0) (by rw [hp']; simpa only using hx.1) (by rw [hp']; simpa only using hx.2.1)
    (by rw [hp']; simpa only using hx.2.2) (by
      show capCheck .ctl permLD 1 (((csOf leased).afterCtl (ctOf leased) now last).extentOf (ctOf leased).pair) 64 32 ((ctOf leased).ctl.getC 1) = none
      rw [he]; exact hc) (by rw [hp']; simpa only using hz)
  rw [hm]
  refine mmaFree_queues _ _ _ _ _ (by decide) (by decide) (by decide) (by decide) (show (tabGet Endpoint.unbound (ctOf leased).ends _).kind ≠ none by decide)
    (show (tabGet Endpoint.unbound (ctOf leased).ends _).kind ≠ none by decide) (show ((ctOf leased).tile _).trap _ _ = none by decide) rfl (show (ctOf leased).lc ≠ 0 by decide)
    hi.1 hi.2
/-- Rows in the host's space pass the checks of a tile load or store. -/
theorem rowCaps_host (s : State) (t : Team) (c : TCap) (need align len : Nat) (h5 : capSpace c = 5) (l : List Nat)
    (h : ∀ a ∈ l, capCheck .ctl need align (fun _ => 0) (a : Int) len c = none) : s.rowCaps t c need align len l = none := by
  have hb : ∀ e a, capInBounds e a len c = capInBounds (fun _ => 0) a len c := fun e a => by simp [capInBounds, h5]
  have hc : ∀ e a, capCheck .ctl need align e a len c = capCheck .ctl need align (fun _ => 0) a len c := fun e a => by simp [capCheck, hb e]
  unfold State.rowCaps
  rw [List.findSome?_eq_none_iff]
  exact fun a ha => (hc _ _).trans (h a ha)
/-- No range lock covers them. -/
theorem rowLocks_host (s : State) (t : Team) (c : TCap) (len : Nat) (w : Bool) (h5 : capSpace c = 5) (l : List Nat) : s.rowLocks t c len w l = none := by
  unfold State.rowLocks
  rw [List.findSome?_eq_none_iff]
  exact fun a _ => by simp [State.rangeTrap, tileReq, Team.memReq, h5]
/-- They are planned. -/
theorem tileRows_host (s : State) (t : Team) (c : TCap) (leaf len : Nat) (h5 : capSpace c = 5) : ∀ l : List Nat, ∃ rows, s.tileRows t c leaf len l = (s, .ok rows)
  | [] => ⟨[], rfl⟩
  | a :: l => by
    obtain ⟨rows, hr⟩ := tileRows_host s t c leaf len h5 l
    simp [State.tileRows, tileReq, Team.memReq, h5, State.planMem, State.planHost, hr]
/-- They have no format. -/
theorem destFmt_host (s : State) (t : Team) (c : TCap) (h5 : capSpace c = 5) (l : List Nat) : s.destFmt t c l = (s, some 0) := by
  cases l with
  | nil => rfl
  | cons a l => simp [State.destFmt, h5]
/-- The same with the host's first 4 KiB in c4, a pitch of 256 bytes in s20 and a list at 64 in s21, and tile 15 unmarked. -/
def tiling (t : Team) : Team := t.withCtl { t.ctl with c := [(1, padCap), (4, capOf 5 63 0 4096 0)], s := [(20, 256), (21, 64)] }
theorem wit_MatrixOperationsAreAccepted_tiles : CtlIssues (csOf tiling) (ctOf tiling) ∧ plainMod (wf 4 111 68 20) 8 = true ∧ fldOk .ctl .tile (fldD (wf 4 111 68 20)) = true ∧
    fldOk .ctl .quad (fldA (wf 4 111 68 20)) = true ∧ fldOk .ctl .wide (fldB (wf 4 111 68 20)) = true ∧ (wf 4 111 68 20).md.toNat / 2 % 4 ≠ 3 ∧
    (∀ now last e ra, ∃ x rows, (((csOf tiling).afterCtl (ctOf tiling) now last).landCtl 1).rowCaps ((ctOf tiling).retimed e ra) ((ctOf tiling).ctl.getC 4) permLD 1 32
        (rowAddrs ((ctOf tiling).ctl.getC 4) 256 (List.range 16)) = none ∧
      (((csOf tiling).afterCtl (ctOf tiling) now last).landCtl 1).rowLocks ((ctOf tiling).retimed e ra) ((ctOf tiling).ctl.getC 4) 32 false
        (rowAddrs ((ctOf tiling).ctl.getC 4) 256 (List.range 16)) = none ∧
      (((csOf tiling).afterCtl (ctOf tiling) now last).landCtl 1).tileRows ((ctOf tiling).retimed e ra) ((ctOf tiling).ctl.getC 4) needR 32
        (rowAddrs ((ctOf tiling).ctl.getC 4) 256 (List.range 16)) = (x, .ok rows) ∧ x.hole = none) := by
  have h5 : capSpace ((ctOf tiling).ctl.getC 4) = 5 := by decide
  refine ⟨ctOf_issues (by decide) (by decide), by decide, by decide, by decide, by decide, by decide, fun now last e ra => ?_⟩
  rw [landCtl_idle (show ((csOf tiling).afterCtl (ctOf tiling) now last).accesses = [] from rfl)]
  obtain ⟨rows, hr⟩ := tileRows_host ((csOf tiling).afterCtl (ctOf tiling) now last) ((ctOf tiling).retimed e ra) _ needR 32 h5 (rowAddrs ((ctOf tiling).ctl.getC 4) 256 (List.range 16))
  exact ⟨_, rows, rowCaps_host _ _ _ _ _ _ h5 _ (by decide), rowLocks_host _ _ _ _ _ h5 _, hr, rfl⟩
/-- A tile store to the host's space whose rows are known goes. -/
theorem storeFree_host (s : State) (t : Team) (o : MatOp) (c : TCap) (x : Option IdxList) (rows addrs : List Nat) (h5 : capSpace c = 5) (hs : s.hole = none)
    (hr : s.rowsNamed t o.p x = some rows) (hx : x.bind (s.idxForm t) = none ∧ x.bind (s.idxCaps t) = none ∧ x.bind (s.idxLocks t) = none)
    (hc : ∀ a ∈ addrs, capCheck .ctl (if o.acc then permAT else permST) (if o.acc then 4 else 1) (fun _ => 0) (a : Int) (16 * tileBytes o.ty) c = none)
    (ht : (t.tile o.tile).trap o.p o.tile = none) : StoreFree o c x rows addrs s t := by
  obtain ⟨l, hl⟩ := tileRows_host s t c (if o.acc then needR + needW else needW) (16 * tileBytes o.ty) h5 addrs
  have hp : s.storePlan t o c addrs = (s, .ok l) := by simp only [State.storePlan, destFmt_host s t c h5, hl]
  refine ⟨hr, Or.inl (by rw [destFmt_host s t c h5]; simp), ?_, ⟨l, by rw [hp]⟩, by rw [hp]; exact hs⟩
  rw [destFmt_host s t c h5]
  simp only [State.storeTrap, or_true, if_true, rowCaps_host s t c _ _ _ h5 addrs hc, rowLocks_host s t c _ _ h5, hx.1, hx.2.1, hx.2.2, ht]
  rfl
theorem wit_MatrixOperationsAreAccepted_stores : plainMod (wf 0 68 111 20) 64 = true ∧ sRun (fldB (wf 0 68 111 20)) 1 = true ∧ fldOk .ctl .quad (fldD (wf 0 68 111 20)) = true ∧
    fldOk .ctl .tile (fldA (wf 0 68 111 20)) = true ∧ (csOf tiling).hasTile (ctOf tiling) (tileOf (fldA (wf 0 68 111 20))) = true ∧ ((ctOf tiling).ctl.getS 20).toNat / 2 ^ 40 = 0 ∧
    (∀ now last e ra, StoreFree (storeOp 0xC7 (wf 0 68 111 20) (ctOf tiling) false) ((ctOf tiling).ctl.getC 4) none (List.range 16) (storeRows (wf 0 68 111 20) (ctOf tiling) (List.range 16))
      ((csOf tiling).afterCtl (ctOf tiling) now last) ((ctOf tiling).retimed e ra)) ∧
    plainMod (wf 64 68 111 20) 128 = true ∧ sRun (fldB (wf 64 68 111 20)) 2 = true ∧ ((ctOf tiling).ctl.getS 21).toNat / 2 ^ 24 % 4 < 2 ∧
    (∀ now last e ra, StoreFree (storeOp 0xC8 (wf 64 68 111 20) (ctOf tiling) true) ((ctOf tiling).ctl.getC 4) (some (storeList (wf 64 68 111 20) (ctOf tiling))) (List.replicate 16 0)
      (storeRows (wf 64 68 111 20) (ctOf tiling) (List.replicate 16 0)) ((csOf tiling).afterCtl (ctOf tiling) now last) ((ctOf tiling).retimed e ra)) := by
  have h5 : capSpace ((ctOf tiling).ctl.getC 4) = 5 := by decide
  refine ⟨by decide, by decide, by decide, by decide, by decide, by decide, fun now last e ra => ?_, by decide, by decide, by decide, fun now last e ra => ?_⟩
  · exact storeFree_host _ _ _ _ _ _ _ h5 rfl rfl ⟨rfl, rfl, rfl⟩ (by decide) (show ((ctOf tiling).tile _).trap _ _ = none by decide)
  · have hx : ((csOf tiling).pair (ctOf tiling).pair).maps = [] ∧ ((csOf tiling).pair (ctOf tiling).pair).locks = [] ∧ ((csOf tiling).pair (ctOf tiling).pair).poison = [] := by decide
    have hz : (List.range 16).map (fun i => leNat (memBytes ((csOf tiling).pair (ctOf tiling).pair).pad (64 % 2 ^ 19 + 2 * i) 2)) = List.replicate 16 0 := by decide
    have hc : capCheck .ctl permLD 1 ((csOf tiling).extentOf (ctOf tiling).pair) 64 32 ((ctOf tiling).ctl.getC 1) = none := by decide
    have h := afterCtl_pairs (csOf tiling) (ctOf tiling) now last
    have he : ((csOf tiling).afterCtl (ctOf tiling) now last).extentOf (ctOf tiling).pair = (csOf tiling).extentOf (ctOf tiling).pair :=
      funext (fun c => by simp only [State.extentOf, State.extent, (h _).1])
    have hp : ((csOf tiling).afterCtl (ctOf tiling) now last).pair ((ctOf tiling).retimed e ra).pair = { (csOf tiling).pair (ctOf tiling).pair with lastCtl := last } :=
      afterCtl_pair (csOf tiling) (ctOf tiling) now last
    have hm : storeList (wf 64 68 111 20) (ctOf tiling) = ⟨2, 64, 16⟩ := by rfl
    have hi := idx_pad ((csOf tiling).afterCtl (ctOf tiling) now last) ((ctOf tiling).retimed e ra) 64 16 (List.replicate 16 0) (by rw [hp]; simpa only using hx.1) (by rw [hp]; simpa only using hx.2.1)
      (by rw [hp]; simpa only using hx.2.2) (by
        show capCheck .ctl permLD 1 (((csOf tiling).afterCtl (ctOf tiling) now last).extentOf (ctOf tiling).pair) 64 32 ((ctOf tiling).ctl.getC 1) = none
        rw [he]; exact hc) (by rw [hp]; simpa only using hz)
    rw [hm]
    refine storeFree_host _ _ _ _ _ _ _ h5 rfl hi.2 hi.1 (by decide) (show ((ctOf tiling).tile _).trap _ _ = none by decide)

/-- The pair with an operation on abacus 0, of a team with a rank of 16 threads. -/
def matting (o : MatOp) : State := { (vs.putTeam { vf.t with ranks := vf.t.ranks.map (fun r => { r with width := 16, threads := List.replicate 16 Thread.start }) }).putAbacus 0 0 ⟨some 1, [o], 0, some 0⟩ with gt := 3000000000 }
/-- MZERO of tile 15, and an MMA of 16 rows of registers v0 and v16 in FP16. -/
def zop : MatOp := MatOp.of ct .mzero 0 true 15
/-- The MMA. -/
def gop : MatOp := { MatOp.of ct .mma 0 false 15 with mapA := 8 <<< 64 ||| 0x02000000, mapB := 8 <<< 64 ||| 0x02000200, nk := 1, rowsA := List.range 16 }
theorem wit_AbacusRuns : vs.hole = none ∧ vs.nextOp 0 0 = none ∧ (∃ i t, (matting zop).nextOp 0 0 = some (zop, i) ∧ (matting zop).team zop.team = some t) ∧ zop.kind = .mzero ∧
    vs.hungOp 0 0 = none ∧ (∃ o, (matting gop).hungOp 0 0 = some o) ∧ vs.leaseNext 0 = none := ⟨rfl, by decide, ⟨0, _, by decide, rfl⟩, rfl, by decide, some_of (by decide), by decide⟩
theorem gather_rows : ∀ l : List Operand, (∀ o ∈ l, ∃ r, o = .rows r) → ∃ r, gatherRows l = .rows r
  | [], _ => ⟨[], rfl⟩
  | o :: l, h => by
    obtain ⟨r, hr⟩ := gather_rows l (fun x hx => h x (List.mem_cons_of_mem _ hx))
    obtain ⟨q, rfl⟩ := h o (List.mem_cons_self ..)
    exact ⟨q ++ r, by simp [gatherRows, hr]⟩
/-- Full registers without a mark make a row. -/
theorem rowRegs_full (r : Rank) (m : BitVec 128) (i k : Nat) (h1 : ((List.range 12).map (fun n => r.vreg i (bitsAt (mapBase m) 5 11 + mapTile m * k + n))).find? (fun v => v.err.isSome) = none)
    (h2 : ((List.range 12).map (fun n => r.vreg i (bitsAt (mapBase m) 5 11 + mapTile m * k + n))).all (fun v => v.full) = true) : ∃ l, rowRegs r m i k = .rows l := by
  simp only [rowRegs, h1, h2, if_true]
  exact ⟨_, rfl⟩
/-- The rank of the MMA's sources. -/
def gr : Rank := { vf.r with width := 16, threads := List.replicate 16 Thread.start }
theorem operand_regs (s : State) (t : Team) (m : BitVec 128) (rows : List Nat) (hk : mapKind m = 2) (ht : t.rank (mapBase m % 32) = some gr)
    (h : ∀ i ∈ rows, ((List.range 12).map (fun n => gr.vreg i (bitsAt (mapBase m) 5 11 + mapTile m * 0 + n))).find? (fun v => v.err.isSome) = none ∧
      ((List.range 12).map (fun n => gr.vreg i (bitsAt (mapBase m) 5 11 + mapTile m * 0 + n))).all (fun v => v.full) = true) : ∃ l, s.operand t m rows 0 [] = .rows l := by
  simp only [State.operand, hk, ht]
  exact gather_rows _ (fun o ho => by
    obtain ⟨i, hi, rfl⟩ := List.mem_map.mp ho
    exact rowRegs_full _ _ _ _ (h i hi).1 (h i hi).2)
theorem wit_AbacusRuns_chunk : (∃ i, (matting gop).nextOp 0 0 = some (gop, i)) ∧ mapKind gop.mapA ≠ 3 ∧ mapKind gop.mapB ≠ 3 ∧
    ∃ t, (matting gop).team gop.team = some t ∧ t.pair = 0 ∧ (∃ a, (matting gop).operand t gop.mapA gop.rowsA 0 [] = .rows a) ∧ (∃ b, (matting gop).operand t gop.mapB (List.range 16) 0 [] = .rows b) :=
  ⟨⟨0, by decide⟩, by decide, by decide, _, rfl, by decide, operand_regs _ _ _ _ (by decide) (by decide) (by decide), operand_regs _ _ _ _ (by decide) (by decide) (by decide)⟩
/-- The control thread waits for a lease of both abaci. -/
theorem wit_AbacusRuns_lease : ∃ t p x y, (csWait (.lease true)).leaseNext 0 = some (t, p, x, y) ∧ (csWait (.lease true)).team t.uid = some t := ⟨_, _, _, _, rfl, by decide⟩
/-- A hung matrix instruction's trap is still to come. -/
theorem wit_AbacusRuns_reset : ∃ t, (csOf (fun t => { t with hung := some 8 })).team 1 = some t ∧ t.hung = some 8 ∧ (csOf (fun t => { t with hung := some 8 })).teamRuns t = true ∧ t.ctl.ended = false :=
  ⟨_, rfl, rfl, by decide, by decide⟩


/-! ### Requests, beams and launches -/

/-- In s26 a batch of one request at offset 0, in c1 the scratchpad's capability. -/
def batching (t : Team) : Team := t.withCtl { t.ctl with c := [(1, padCap)], s := [(26, 0x100000000)] }
theorem matCaps_congr {s s' : State} (h : ∀ p, s.extent p = s'.extent p) (t : Team) (e : Nat) (ra : Tab Nat) (space : Nat) (l : List (Nat × Nat)) :
    s.matCaps (t.retimed e ra) space l = s'.matCaps t space l := by
  have he : s.extentOf t.pair = s'.extentOf t.pair := funext (fun c => by simp only [State.extentOf, h])
  show l.findSome? (fun r => capCheck .ctl permLD 1 (s.extentOf t.pair) (r.1 : Int) r.2 (t.ctl.getC (space - 1))) = _
  rw [he]
  rfl
theorem matFills_pad (s : State) (pair : Nat) (who : Who) (hm : (s.pair pair).maps = []) : ∀ l : List (Nat × Nat), s.matFills pair who (l.map (fun r => (2, r.1, r.2))) = (s, none)
  | [] => rfl
  | a :: l => by
    have hn : ∀ off len, (s.pair pair).mappedIn off len = [] := fun off len => by simp [Pair.mappedIn, Pair.mapAt, hm]
    simp [State.matFills, homePair, State.sectorWait, hn, matFills_pad s pair who hm l]
theorem wit_RequestsBeamsAndLaunches : CtlIssues (csOf batching) (ctOf batching) ∧ (ctOf batching).guard 0 false ∧ ireqOk (wf 1 116 26 0) .wide = true ∧
    batchOk 0x100000000 = true ∧ ((ctOf batching).ctl.getS 26).toNat = 0x100000000 ∧ ((ctOf batching).endAt 4).kind = none ∧
    (∀ now last e ra x, x = ((csOf batching).afterCtl (ctOf batching) now last).landCtl (ctOf batching).uid →
      x.matCaps ((ctOf batching).retimed e ra) 2 [(0, 1 * (4 * islandWords 1))] = none ∧
      x.matLocks (ctOf batching).pair 2 false (colPieces 0 (1 * (4 * islandWords 1)) 8) = none ∧
      (colPieces 0 (1 * (4 * islandWords 1)) 8).any (fun r => (x.pair (homePair (ctOf batching).pair 2 r.1)).onFormat (r.1 % 2 ^ 19) r.2) = false ∧
      x.matFills (ctOf batching).pair ⟨(ctOf batching).uid, none, 0⟩ ((colPieces 0 (1 * (4 * islandWords 1)) 8).map (fun r => (2, r.1, r.2))) = (x, none) ∧ x.hole = none) := by
  refine ⟨ctOf_issues (by decide) (by decide), by unfold Team.guard; decide, by decide, by decide, by decide, by decide, fun now last e ra x hx => ?_⟩
  rw [landCtl_idle (show ((csOf batching).afterCtl (ctOf batching) now last).accesses = [] from rfl)] at hx
  subst hx
  have hp := afterCtl_pair (csOf batching) (ctOf batching) now last
  have hx : ((csOf batching).pair (ctOf batching).pair).maps = [] ∧ ((csOf batching).pair (ctOf batching).pair).locks = [] := by decide
  have hm : (((csOf batching).afterCtl (ctOf batching) now last).pair (ctOf batching).pair).maps = [] := by rw [hp]; simpa only using hx.1
  have hl : (((csOf batching).afterCtl (ctOf batching) now last).pair (ctOf batching).pair).locks = [] := by rw [hp]; simpa only using hx.2
  have he : ∀ p, ((csOf batching).afterCtl (ctOf batching) now last).extent p = (csOf batching).extent p :=
    fun p => by simp only [State.extent, (afterCtl_pairs (csOf batching) (ctOf batching) now last p).1]
  have hn : ∀ off len, (((csOf batching).afterCtl (ctOf batching) now last).pair (ctOf batching).pair).mappedIn off len = [] := fun off len => by simp [Pair.mappedIn, Pair.mapAt, hm]
  have hc : (csOf batching).matCaps (ctOf batching) 2 [(0, 1 * (4 * islandWords 1))] = none := by decide
  refine ⟨(matCaps_congr he _ _ _ _ _).trans hc, ?_, ?_, matFills_pad _ _ _ hm _, rfl⟩
  · simp [State.matLocks, homePair, Pair.lockHit, hl]
  · simp [homePair, Pair.onFormat, hn]
/-- Endpoint 4 bound to textures and drained, with a word left, or not bound at all. -/
def bound (l : List DWord) (t : Team) : Team := { t with ends := [(4, { Endpoint.unbound with kind := some 1, words := l })] }
theorem wit_RequestsBeamsAndLaunches_unb : CtlIssues (csOf (bound [])) (ctOf (bound [])) ∧ (ctOf (bound [])).guard 0 false ∧ ireqOk (wf 0 116 0 0) .none = true ∧
    (ct.endAt 4).kind = none ∧ ((ctOf (bound [])).endAt 4).kind = some 1 ∧ ((ctOf (bound [])).endAt 4).words = [] ∧ ((ctOf (bound [])).endAt 4).inside = 0 ∧
    ((ctOf (bound [])).endAt 4).batches = [] ∧ ((ctOf (bound [7])).endAt 4).words ≠ [] ∧ CtlIssues (csOf (bound [7])) (ctOf (bound [7])) :=
  ⟨ctOf_issues (by decide) (by decide), by unfold Team.guard; decide, by decide, by decide, by decide, by decide, by decide, by decide, by decide, ctOf_issues (by decide) (by decide)⟩

/-- Pieces in a scratchpad without poison are read. -/
theorem readPieces_pad (s : State) (pair : Nat) (hq : (s.pair pair).poison = []) : ∀ (l : List (Nat × Nat)) (a : Nat),
    s.readPieces a (l.map (fun u => pieceAt (.pad pair (u.1 % 2 ^ 19)) u.2 [] false false)) = (s, .ok (l.flatMap (fun u => memBytes (s.pair pair).pad (u.1 % 2 ^ 19) u.2)))
  | [], a => rfl
  | u :: l, a => by
    have hp : ∀ off len, (s.pair pair).poisoned off len = false := fun off len => by simp [Pair.poisoned, hq, tabGet]
    have h1 : s.chunkRead a ⟨some (.pad pair (u.1 % 2 ^ 19)), u.2, 0⟩ = (s, .ok (memBytes (s.pair pair).pad (u.1 % 2 ^ 19) u.2, false)) := by
      simp [State.chunkRead, hp]
    have h2 : (pieceAt (.pad pair (u.1 % 2 ^ 19)) u.2 [] false false).sparse = false := rfl
    have h3 : (pieceAt (.pad pair (u.1 % 2 ^ 19)) u.2 [] false false).home = .pad pair (u.1 % 2 ^ 19) := rfl
    have h4 : (pieceAt (.pad pair (u.1 % 2 ^ 19)) u.2 [] false false).len = u.2 := rfl
    have h5 : (pieceAt (.pad pair (u.1 % 2 ^ 19)) u.2 [] false false).part = 0 := rfl
    simp only [List.map_cons, State.readPieces, h2, h3, h4, h5, Bool.false_eq_true, if_false, h1, readPieces_pad s pair hq l (a + u.2), List.flatMap_cons]
/-- A control thread reads a scratchpad with no map, lock or poison. -/
theorem ctlRead_pad (s : State) (t : Team) (c : TCap) (a align len : Nat) (h2 : capSpace c = 2) (hm : (s.pair t.pair).maps = []) (hl : (s.pair t.pair).locks = [])
    (hq : (s.pair t.pair).poison = []) (hc : capCheck .ctl permLD align (s.extentOf t.pair) (a : Int) len c = none) :
    s.ctlRead t c a align len = (s, .ok (leNat ((unitsOf false a len).flatMap (fun u => memBytes (s.pair t.pair).pad (u.1 % 2 ^ 19) u.2)))) := by
  have hn : ∀ off len, (s.pair t.pair).mappedIn off len = [] := fun off len => by simp [Pair.mappedIn, Pair.mapAt, hm]
  have hp : ∀ off len, (s.pair t.pair).poisoned off len = false := fun off len => by simp [Pair.poisoned, hq, tabGet]
  have hk : s.checkMem (t.memReq (c, (a : Int)) false) permLD align len false = none := by
    simp [State.checkMem, State.rangeTrap, Team.memReq, Team.req, hc, h2, homePair, Pair.lockHit, hl]
  have hpl : s.planMem (t.memReq (c, (a : Int)) false) needR len true [] false false = (s, .ok ⟨(unitsOf false a len).map (fun u => pieceAt (.pad t.pair (u.1 % 2 ^ 19)) u.2 [] false false), false, []⟩) := by
    simp [State.planMem, Team.memReq, Team.req, h2, State.planPad, homePair, hn, hp, State.sectorWait, Pair.onFormat]
  simp only [State.ctlRead, hk, hpl, readPieces_pad s t.pair hq]
  rfl
theorem retimed_pair (t : Team) (e : Nat) (ra : Tab Nat) : (t.retimed e ra).pair = t.pair := rfl
/-- The same once the control thread has issued. -/
theorem ctlRead_after (s : State) (t : Team) (now : Nat) (last : Tab Nat) (e : Nat) (ra : Tab Nat) (c : TCap) (a align len : Nat) (h2 : capSpace c = 2)
    (hm : (s.pair t.pair).maps = []) (hl : (s.pair t.pair).locks = []) (hq : (s.pair t.pair).poison = [])
    (hc : capCheck .ctl permLD align (s.extentOf t.pair) (a : Int) len c = none) :
    (s.afterCtl t now last).checkMem ((t.retimed e ra).memReq (c, (a : Int)) false) permLD align len false = none ∧
    (s.afterCtl t now last).ctlRead (t.retimed e ra) c a align len =
      (s.afterCtl t now last, .ok (leNat ((unitsOf false a len).flatMap (fun u => memBytes (s.pair t.pair).pad (u.1 % 2 ^ 19) u.2)))) := by
  have hp := afterCtl_pair s t now last
  have he : (s.afterCtl t now last).extentOf t.pair = s.extentOf t.pair :=
    funext (fun c => by simp only [State.extentOf, State.extent, (afterCtl_pairs s t now last _).1])
  have h := ctlRead_pad (s.afterCtl t now last) (t.retimed e ra) c a align len h2
  simp only [retimed_pair, hp, he] at h
  refine ⟨?_, h hm hl hq hc⟩
  have hl' : ((s.afterCtl t now last).pair t.pair).locks = [] := by rw [hp]; exact hl
  rw [← he] at hc
  simp only [State.checkMem, State.rangeTrap, Team.memReq, Team.req, retimed_pair, hc, h2, homePair, Pair.lockHit]
  simp [hl']
/-- A launch record of one thread in the scratchpad at 0, its capability in c4, and a root in c5; for BEAM a root with no tree in c4, and the tile past the target in s20. -/
def rooted (t : Team) : Team := t.withCtl { t.ctl with c := [(4, padCap), (5, capOf 1 63 0 4096 0), (6, capOf 2 63 0 4096 32), (7, padCap)], s := [(20, 1), (21, 1024)] }
/-- The state with it. -/
def rs : State := (csOf rooted).putPair 0 { (csOf rooted).pair 0 with pad := [(24, 1)] }
/-- Its team. -/
def rt : Team := (rs.team 1).get (by decide)
theorem rt_issues : CtlIssues rs rt := ⟨by decide, (Option.some_get _).symm, by decide, by decide⟩
theorem pad_rs : (rs.pair rt.pair).maps = [] ∧ (rs.pair rt.pair).locks = [] ∧ (rs.pair rt.pair).poison = [] ∧ (rs.pair rt.pair).pad = [(24, 1)] := by decide
theorem ctlRead_rs (now : Nat) (last : Tab Nat) (e : Nat) (ra : Tab Nat) (c : TCap) (a align len : Nat) (h2 : capSpace c = 2)
    (hc : capCheck .ctl permLD align (rs.extentOf rt.pair) (a : Int) len c = none) :
    (rs.afterCtl rt now last).ctlRead (rt.retimed e ra) c a align len = (rs.afterCtl rt now last, .ok (leNat ((unitsOf false a len).flatMap (fun u => memBytes [(24, 1)] (u.1 % 2 ^ 19) u.2)))) := by
  rw [(ctlRead_after rs rt now last e ra c a align len h2 pad_rs.1 pad_rs.2.1 pad_rs.2.2.1 hc).2, pad_rs.2.2.2]
/-- The launch record there. -/
def rec24 : Nat := leNat ((unitsOf false 0 192).flatMap (fun u => memBytes [(24, 1)] (u.1 % 2 ^ 19) u.2))
theorem rec24_eq : rec24 = 6277101735386680763835789423207666416102355444464034512896 := by decide +kernel
theorem wit_RequestsBeamsAndLaunches_launch : CtlIssues rs rt ∧ rt.guard 0 false ∧ fldOk .ctl .wide (fldD (wf 0 30 68 0)) = true ∧ cRun (fldA (wf 0 30 68 0)) 2 = true ∧
    fldOk .ctl .none (fldB (wf 0 30 68 0)) = true ∧ (rt.ctl.getC 5).tag = true ∧ capSpace (rt.ctl.getC 5) = 1 ∧ launchField rec24 = none ∧ ((rs.grid rt.grid).map (fun g => g.depth)).getD 1 < 10 ∧
    (∀ now last e ra, ∃ x, ((rs.afterCtl rt now last).landCtl rt.uid).ctlRead (rt.retimed e ra) (rt.ctl.getC 4) (capCursor (rt.ctl.getC 4)) 64 192 = (x, .ok rec24) ∧
      x.hole = none ∧ x.queued < 4096 ∧ x.grid rt.grid = rs.grid rt.grid) := by
  refine ⟨rt_issues, by unfold Team.guard; decide, by decide, by decide, by decide, by decide, by decide, by rw [rec24_eq]; decide, by decide, fun now last e ra => ?_⟩
  rw [landCtl_idle (show (rs.afterCtl rt now last).accesses = [] from rfl), ctlRead_rs now last e ra _ _ _ _ (by decide) (by decide), show capCursor (rt.ctl.getC 4) = 0 by decide, rec24]
  exact ⟨_, rfl, rfl, show rs.queued < 4096 by decide, rfl⟩
/-- At depth 10. -/
theorem wit_RequestsBeamsAndLaunches_deep : 10 ≤ ((({ rs with grids := rs.grids.map (fun g => { g with depth := 10 }) } : State).grid rt.grid).map (fun g => g.depth)).getD 1 := by decide
/-- The beam's descriptor: all zeros. -/
def beam0 : Nat := leNat ((unitsOf false 1024 128).flatMap (fun u => memBytes [(24, 1)] (u.1 % 2 ^ 19) u.2))
theorem beam0_eq : beam0 = 0 := by decide +kernel
theorem beamPieces_past (s : State) (t : Team) (c : TCap) (d tx ty : Nat) (h2 : capSpace c = 2) (hm : (s.pair t.pair).maps = []) (hl : (s.pair t.pair).locks = [])
    (hq : (s.pair t.pair).poison = []) (h : beamWm1 d < 8 * tx) : ∀ l : List Nat,
    (∀ i ∈ l, capCheck .ctl (permST + permAT) 8 (s.extentOf t.pair) ((capCursor c + (8 * ty + i / 8) * beamPitch d + 8 * (8 * tx + i % 8) : Nat) : Int) 8 c = none) →
    s.beamPieces t c d tx ty l = (s, .ok [])
  | [], _ => rfl
  | i :: l, hc => by
    have hx : beamWm1 d < 8 * tx + i % 8 := by omega
    have hn : ∀ off len, (s.pair t.pair).mappedIn off len = [] := fun off len => by simp [Pair.mappedIn, Pair.mapAt, hm]
    have hp : ∀ off len, (s.pair t.pair).poisoned off len = false := fun off len => by simp [Pair.poisoned, hq, tabGet]
    have hi := hc i (List.mem_cons_self ..)
    have hk : s.checkMem (t.memReq (c, ((capCursor c + (8 * ty + i / 8) * beamPitch d + 8 * (8 * tx + i % 8) : Nat) : Int)) false) (permST + permAT) 8 8 true = none := by
      simp only [State.checkMem, Team.memReq, Team.req, hi]
      simp [State.rangeTrap, h2, homePair, Pair.lockHit, hl]
    have hpl : ∃ p, s.planMem (t.memReq (c, ((capCursor c + (8 * ty + i / 8) * beamPitch d + 8 * (8 * tx + i % 8) : Nat) : Int)) false) (needR + needW) 8 true [] false false = (s, .ok p) := by
      simp [State.planMem, Team.memReq, Team.req, h2, State.planPad, homePair, hn, hp, State.sectorWait, Pair.onFormat]
    obtain ⟨p, hpl⟩ := hpl
    simp only [State.beamPieces, hk, hpl, beamPieces_past s t c d tx ty h2 hm hl hq h l (fun j hj => hc j (List.mem_cons_of_mem _ hj)), hx, decide_true, Bool.or_true, Bool.true_or, if_true]
theorem wit_RequestsBeamsAndLaunches_beam : CtlIssues rs rt ∧ rt.guard 0 false ∧ fldOk .ctl .none (fldD (wf 0 0 70 20)) = true ∧ cRun (fldA (wf 0 0 70 20)) 2 = true ∧ sRun (fldB (wf 0 0 70 20)) 2 = true ∧
    (∀ now last e ra, ∃ x y l, ((rs.afterCtl rt now last).landCtl rt.uid).checkMem ((rt.retimed e ra).memReq (rt.ctl.getC 6, (capCursor (rt.ctl.getC 6) : Int)) false) permLD 1 128 false = none ∧
      ((rs.afterCtl rt now last).landCtl rt.uid).ctlRead (rt.retimed e ra) (rt.ctl.getC 6) ((rt.ctl.getS 21).toNat % 2 ^ 48) 1 128 = (x, .ok beam0) ∧
      x.beamPieces (rt.retimed e ra) (rt.ctl.getC 7) beam0 1 0 (List.range 64) = (y, .ok l) ∧
      (y.beamRun (rt.retimed e ra) (rt.ctl.getC 6) (rt.ctl.getC 7) beam0 1 0 l).hole = none) := by
  refine ⟨rt_issues, by unfold Team.guard; decide, by decide, by decide, by decide, fun now last e ra => ?_⟩
  rw [landCtl_idle (show (rs.afterCtl rt now last).accesses = [] from rfl), ctlRead_rs now last e ra _ _ _ _ (by decide) (by decide), show (rt.ctl.getS 21).toNat % 2 ^ 48 = 1024 by decide]
  have hp := afterCtl_pair rs rt now last
  have he : (rs.afterCtl rt now last).extentOf rt.pair = rs.extentOf rt.pair :=
    funext (fun c => by simp only [State.extentOf, State.extent, (afterCtl_pairs rs rt now last _).1])
  refine ⟨_, _, _, (ctlRead_after rs rt now last e ra _ _ _ _ (by decide) pad_rs.1 pad_rs.2.1 pad_rs.2.2.1 (by decide)).1, by rw [beam0], beamPieces_past _ _ _ _ _ _ (by decide) (by rw [retimed_pair, hp]; simpa only using pad_rs.1)
    (by rw [retimed_pair, hp]; simpa only using pad_rs.2.1) (by rw [retimed_pair, hp]; simpa only using pad_rs.2.2.1) (by rw [beam0_eq]; decide) _ (by rw [retimed_pair, he, beam0_eq]; decide), ?_⟩
  · have hr : rootRef (rt.ctl.getC 6) = .empty := by rw [rootRef, if_neg (by decide)]
    simp only [State.beamRun, hr, State.beamItems, BeamRun.region, List.foldl_nil, List.isEmpty_nil, if_true, State.beamSend]
    rfl

/-! ### Islands and blending -/

/-- Endpoint 4 bound to a kind with a batch of two requests, its stream 20. -/
def streaming (kind : Nat) (t : Team) : Team := { t with ends := [(4, { Endpoint.unbound with kind := some kind, batches := [⟨false, 0, 2, none⟩] })] }
/-- The control thread's state with it. -/
def ss (kind : Nat) : State := csOf (streaming kind)
/-- A state in which the first 256 bytes of the scratchpad are poisoned. -/
def spoiled (s : State) : State := s.putPair 0 { s.pair 0 with poison := [(0, true)] }
/-- A texture island that stopped, and one with a request in it. -/
def islandOf (i : Island) (s : State) : State := s.putIsland (islandKey 1 0) i
theorem wit_IslandsAndTheirImages : (ss 1).hole = none ∧ ((islandOf { Island.start with stopped := true } cs).island (islandKey 1 0)).stopped = true ∧
    ((ss 1).island (islandKey 1 0)).stopped = false ∧ ((ss 1).island (islandKey 1 0)).frozen = false ∧ ((ss 1).island (islandKey 1 0)).nextAt ≤ (ss 1).gt ∧
    nextStream ((ss 1).island (islandKey 1 0)).lastStream ((ss 1).readyStreams 1 0) = some 20 ∧
    (∃ t b l, (ss 1).team (20 / 16) = some t ∧ (t.endAt (20 % 16)).batches = b :: l ∧ (ss 1).batchBad t 1 b = false) ∧
    nextStream ((spoiled (ss 1)).island (islandKey 1 0)).lastStream ((spoiled (ss 1)).readyStreams 1 0) = some 20 ∧
    (∃ t b l, (spoiled (ss 1)).team (20 / 16) = some t ∧ (t.endAt (20 % 16)).batches = b :: l ∧ (spoiled (ss 1)).batchBad t 1 b = true) :=
  ⟨rfl, by decide, by decide, by decide, by decide, by decide, ⟨_, _, _, rfl, rfl, by decide⟩, by decide, ⟨_, _, _, rfl, rfl, by decide⟩⟩
theorem wit_IslandsAndTheirImages_answers : (cs.island (islandKey 1 0)).reqs = [] ∧
    (∃ r l, ((islandOf { Island.start with reqs := [⟨20, [], 0⟩] } cs).island (islandKey 1 0)).reqs = r :: l ∧
      (islandOf { Island.start with reqs := [⟨20, [], 0⟩] } cs).gt < r.accepted + 4 * islandCols 1 + defaultII 1 + 7) ∧
    (∃ r l, ((islandOf { Island.start with reqs := [⟨20, [], 0⟩] } cs).island (islandKey 1 0)).reqs = r :: l ∧
      r.accepted + 4 * islandCols 1 + defaultII 1 + 7 ≤ ({ islandOf { Island.start with reqs := [⟨20, [], 0⟩] } cs with gt := 1000000 } : State).gt) :=
  ⟨by decide, ⟨_, _, rfl, by decide⟩, ⟨_, _, rfl, by decide⟩⟩
/-- A blend mode for each clause, a triangle without area and one with a vertex that is no number, and a pixel outside a block of 4. -/
theorem wit_IslandsAndTheirImages_images : (∀ n, n < 4 → bitsAt (([0, 0, 0, 0, 0, 0, 0, 0, 0, BitVec.ofNat 32 (n * 2 ^ 24)] : List Word).getD 9 0).toNat 24 4 = n) ∧
    (∃ (n : Bool) (e : Int), f32 (edgeValue 0 0 0 0 0 0) = .fin n 0 e) ∧ f32 (edgeValue 0x7FC00000 0 0 0 0 0) = .nan ∧ 8 >>> (1 % 4) ≤ 4 % 8 ∧
    bitsAt ((List.replicate 22 0 ++ [0x10] : List Word).getD 22 0).toNat 4 4 ≠ 0 :=
  ⟨by decide, ⟨false, -149, by decide⟩, by decide, by decide, by decide⟩

/-- A blend request of stream 20 for a pixel, with its state word. -/
def breq (i8 i9 : Word) : BlendReq := ⟨5, 0, ct.ctx, 20, ⟨false, 0, 1, none⟩, [0, 0, 0, 0, 0, 0, 0, 0, i8, i9, 0, 0], none⟩
/-- It is held in front of cluster 0's island. -/
def bs (r : BlendReq) : State := cs.putBlend 0 { BlendUnit.idle with held := [r] }
/-- The target's descriptor with a reserved bit set, and on a poisoned line. -/
def badRt (s : State) : State := { s with mem := s.mem ++ [(262207, 1)] }
def lostRt (s : State) : State := { s with poison := [(1024, true)] }
theorem wit_BlendingCommits : cs.hole = none ∧ (cs.blendUnit 0).held.find? (fun r => r.id == 5 && decide (r.reply = none)) = none ∧
    (((bs (breq 0 0)).blendUnit 0).held.find? (fun r => r.id == 5 && decide (r.reply = none)) = some (breq 0 0)) ∧
    (((bs (breq 0 0)).putIsland (islandKey 3 0) { Island.start with stopped := true }).island (islandKey 3 0)).stopped = true ∧ ((bs (breq 0 0)).island (islandKey 3 0)).stopped = false ∧
    ((bs (breq 0 1)).blendFate 0 (breq 0 1)).2 = .waits ∧ ((bs (breq 0 0xFFFFFF)).blendFate 0 (breq 0 0xFFFFFF)).2 = .stale ∧
    ((badRt (bs (breq 0 0))).blendFate 0 (breq 0 0)).2 = .refused ∧ ((bs (breq 32 0)).blendFate 0 (breq 32 0)).2 = .unowned ∧
    ((lostRt (bs (breq 0 0))).blendFate 0 (breq 0 0)).2 = .cut ∧
    (((bs (breq 0 1)).blendFate 0 (breq 0 1)).1.hole = none ∧ ((bs (breq 0 0xFFFFFF)).blendFate 0 (breq 0 0xFFFFFF)).1.hole = none ∧
      ((badRt (bs (breq 0 0))).blendFate 0 (breq 0 0)).1.hole = none ∧ ((bs (breq 32 0)).blendFate 0 (breq 32 0)).1.hole = none ∧ ((lostRt (bs (breq 0 0))).blendFate 0 (breq 0 0)).1.hole = none) := by
  refine ⟨rfl, by decide +kernel, by decide +kernel, by decide +kernel, by decide +kernel, by decide +kernel, by decide +kernel, by decide +kernel, by decide +kernel, by decide +kernel, by decide +kernel, by decide +kernel, by decide +kernel, by decide +kernel, by decide +kernel⟩
theorem wit_BlendingCommits_commits : ∃ (x : State) (d ns : Nat), (bs (breq 0 0)).blendFate 0 (breq 0 0) = (x, .commits d ns) ∧ x.migWaiting (.blend 0) = false ∧ (breq 0 0).ends = false ∧ (breq 0 0).mode ≠ 15 ∧
    ∃ (y : State) (out : List Word), x.blendPixel 0 d (breq 0 0) = (y, .ok out) ∧ (y.hole.isNone) = true := by
  have h : (match (bs (breq 0 0)).blendFate 0 (breq 0 0) with | (x, .commits d _) => !x.migWaiting (.blend 0) && (x.blendPixel 0 d (breq 0 0)).2.toOption.any (fun _ => (x.blendPixel 0 d (breq 0 0)).1.hole.isNone) | _ => false) = true := by decide +kernel
  generalize hf : (bs (breq 0 0)).blendFate 0 (breq 0 0) = z at h
  obtain ⟨x, f⟩ := z
  cases f with
  | commits d ns =>
    simp only [Bool.and_eq_true, Bool.not_eq_true'] at h
    exact ⟨x, d, ns, rfl, h.1, by decide, by decide, pair_ok (q := fun (s : State) (_ : List Word) => s.hole.isNone) h.2⟩
  | cut => simp at h
  | refused => simp at h
  | unowned => simp at h
  | stale => simp at h
  | waits => simp at h
/-- A request of MODE 15, which sets NS. -/
theorem wit_BlendingCommits_sets : (breq 0 0xF000000).ends = false ∧ (breq 0 0xF000000).mode = 15 ∧ ∃ (x : State) (d ns : Nat),
    (bs (breq 0 0xF000000)).blendFate 0 (breq 0 0xF000000) = (x, .commits d ns) ∧ x.migWaiting (.blend 0) = false ∧
      (x.unitMig (frontReq 0 (breq 0 0xF000000).ctx) needW (rtSeqAddr d ((breq 0 0xF000000).x / 32) ((breq 0 0xF000000).y / 32)) 4 3).2.isNone = true ∧
      ∃ (y : State) (out : List Word), (x.unitMig (frontReq 0 (breq 0 0xF000000).ctx) needW (rtSeqAddr d ((breq 0 0xF000000).x / 32) ((breq 0 0xF000000).y / 32)) 4 3).1.blendPixel 0 d (breq 0 0xF000000) = (y, .ok out) ∧
        (y.putNs 0 d ns (breq 0 0xF000000)).hole.isNone = true := by
  refine ⟨by decide, by decide, ?_⟩
  have h : (match (bs (breq 0 0xF000000)).blendFate 0 (breq 0 0xF000000) with
      | (x, .commits d ns) =>
        let z := x.unitMig (frontReq 0 (breq 0 0xF000000).ctx) needW (rtSeqAddr d ((breq 0 0xF000000).x / 32) ((breq 0 0xF000000).y / 32)) 4 3
        (!x.migWaiting (.blend 0) && z.2.isNone) && (z.1.blendPixel 0 d (breq 0 0xF000000)).2.toOption.any (fun _ => ((z.1.blendPixel 0 d (breq 0 0xF000000)).1.putNs 0 d ns (breq 0 0xF000000)).hole.isNone)
      | _ => false) = true := by decide +kernel
  generalize hf : (bs (breq 0 0xF000000)).blendFate 0 (breq 0 0xF000000) = z at h
  obtain ⟨x, f⟩ := z
  cases f with
  | commits d ns =>
    simp only [Bool.and_eq_true, Bool.not_eq_true'] at h
    exact ⟨x, d, ns, rfl, h.1.1, h.1.2, pair_ok (q := fun (s : State) (_ : List Word) => (s.putNs 0 d ns (breq 0 0xF000000)).hole.isNone) h.2⟩
  | cut => simp at h
  | refused => simp at h
  | unowned => simp at h
  | stale => simp at h
  | waits => simp at h
/-- A mode byte that is due for block (0, 0), and a group of one splat with its END. -/
def dueBs : State := cs.putBlend 0 { BlendUnit.idle with modes := [⟨ct.ctx, 0, 0, 0, 64, 1, 5, 20⟩] }
def splatBs : State := cs.putBlend 0 { BlendUnit.idle with splats := [breq 0 0x16000000] }
/-- What the clause on the group asks once its descriptor is known: no page it writes is in migration, and its tile goes home. -/
def splatRest (s0 : State) (d0 : Nat) : Bool :=
  let r := breq 0 0x16000000
  let s1 := s0.frontMig 0 r.ctx (([(r.x / 8, r.y / 8)] ++ (splatBs.blendUnit 0).dirtyBlocks r).eraseDups.map (fun (e : Nat × Nat) => (rtBlockAddr d0 e.1 e.2, 256))) (fun u => u)
  !s1.migWaiting (.blend 0) && (match ([r].foldl (fun s r => s.splatOne 0 r) (s1.putBlend 0 { s1.blendUnit 0 with splats := [], held := [r] })).blendDesc 0 r with
    | (x, .ok d) => (x.flushTile 0 d r).hole.isNone
    | _ => false)
theorem wit_BlendingCommits_rest : (cs.blendUnit 0).modes = [] ∧ dueBs.migWaiting (.blend 0) = false ∧ (∃ m l, (dueBs.blendUnit 0).modes = m :: l ∧
      (dueBs.unitMig (frontReq 0 m.ctx) needW m.addr 1 3).2.isNone = true ∧
      ((((dueBs.unitMig (frontReq 0 m.ctx) needW m.addr 1 3).1.putBlend 0 { (dueBs.unitMig (frontReq 0 m.ctx) needW m.addr 1 3).1.blendUnit 0 with modes := l }).frontWrite (frontHolder 3 0) (frontReq 0 m.ctx) m.addr (natLe 1 m.mode)).2.foldEnd m.stream
        (((dueBs.unitMig (frontReq 0 m.ctx) needW m.addr 1 3).1.putBlend 0 { (dueBs.unitMig (frontReq 0 m.ctx) needW m.addr 1 3).1.blendUnit 0 with modes := l }).frontWrite (frontHolder 3 0) (frontReq 0 m.ctx) m.addr (natLe 1 m.mode)).1).hole = none) ∧
    (cs.blendUnit 0).group 0 0 = [] ∧ (∃ r l, (splatBs.blendUnit 0).group 0 0 = r :: l ∧ ∃ e, (r :: l).find? (fun o => o.ends) = some e) ∧ (splatBs.island (islandKey 3 0)).stopped = false ∧
    ∃ (s0 : State) (d0 : Nat), splatBs.blendDesc 0 (breq 0 0x16000000) = (s0, .ok d0) ∧ splatRest s0 d0 = true :=
  ⟨by decide, by decide, ⟨_, _, rfl, by decide +kernel, by decide +kernel⟩, by decide, ⟨_, _, rfl, _, rfl⟩, by decide, pair_ok (q := splatRest) (by decide +kernel)⟩
theorem wit_BlendingCommits_accept : ∃ stream, (((ss 3).readyStreams 3 0).filter (fun n => match (ss 3).blendNext n with | some (_, _, r) => (ss 3).blendRoom 0 r | none => false)) = [stream] ∧
    ((ss 3).island (islandKey 3 0)).stopped = false ∧ ((ss 3).island (islandKey 3 0)).frozen = false ∧ ((ss 3).island (islandKey 3 0)).nextAt ≤ (ss 3).gt ∧
    nextStream ((ss 3).island (islandKey 3 0)).lastStream [stream] = some stream ∧ ∃ t b r, (ss 3).blendNext stream = some (t, b, r) ∧ (ss 3).batchBad t 3 b = false ∧ r.mode ≠ 6 :=
  ⟨20, by decide, by decide, by decide, by decide, by decide, _, _, _, rfl, by decide, by decide⟩

/-! ### Windows and commands -/

/-- A command of a code with a body, and one whose body holds numbers at offsets. -/
def cmdB (code : Nat) (body : List Byte) : Command := ⟨1, code, false, body, false, none, none, none, none, 0, 0, false, false, 0, 0, 0, false⟩
def cmdN (code : Nat) (l : List (Nat × Nat)) : Command := cmdB code ((l.flatMap (fun e => natLe e.1 e.2)))
/-- Window 0 holds it, over a port that is UP, bound to a context or to none. -/
def hs (c : Option Command) (ctx : Option Nat) : State := (portUp cs).putWindow 0 { Window.start with en := true, base := 0x80000, recbase := 0xA0000, cmd := c, ctx := ctx }
/-- The context of the placed team, and the state with it changed. -/
def cx : Ctx := (cs.ctx ct.ctx).get (by decide)
def hx (c : Command) (x : Ctx) : State := (hs (some c) (some ct.ctx)).putCtx ct.ctx x
/-- Bytes in memory from an address. -/
def atPa (s : State) (pa : Nat) (l : List Byte) : State := { s with mem := s.mem ++ (l.zipIdx.filter (fun e => e.1 != 0)).map (fun e => (pa + e.2, e.1)) }

theorem wit_HostCommandsAnswer_wrong : (∀ code ∈ List.range 13, 1 ≤ code → (hs none none).cmdReady 0 code = none ∧
    (∃ c, (hs (some { cmdB code [] with begun := true }) none).cmdReady 0 code = some c ∧ c.begun = true) ∧
    ∃ c, (hs (some (cmdB code (List.replicate 56 1))) none).cmdReady 0 code = some c ∧ c.begun = false ∧ c.wrong code = true) := by
  intro code h
  refine fun hl => ⟨?_, ?_, ?_⟩
  · simp [hs, State.cmdReady, State.window, State.putWindow, tabGet_tabPut_same]
  · refine ⟨{ cmdB code [] with begun := true }, ?_, rfl⟩
    simp [hs, State.cmdReady, State.window, State.putWindow, tabGet_tabPut_same, cmdB]
  · refine ⟨cmdB code (List.replicate 56 1), ?_, rfl, ?_⟩
    · have hp : (hs (some (cmdB code (List.replicate 56 1))) none).portOpen 0 = true := rfl
      simp [State.cmdReady, hs, State.window, State.putWindow, tabGet_tabPut_same, cmdB, Window.start] at hp ⊢
      exact hp
    · have : ∀ code ∈ List.range 13, (cmdB code (List.replicate 56 1)).wrong code = true := by decide +kernel
      exact this code h
/-- LAUNCH_GRID at 0x90000: a record of zeros has no root; one with a root and a count of threads. -/
def lg : Command := cmdN 1 [(8, 0x90000), (48, 0)]
/-- A good host launch record. -/
def lgRec : List Byte := natLe 24 0 ++ natLe 168 1 ++ natLe 16 (capOf 1 63 0 4096 0).bits.toNat
theorem wit_HostCommandsAnswer_grids : (hs (some lg) none).takes 0 1 lg ∧ (hs (some lg) none).windowCtx 0 = none ∧ (hx lg cx).takes 0 1 lg ∧
    (∃ n x, (hx lg cx).windowCtx 0 = some (n, x) ∧ x.mode.waits = false ∧ (hx lg cx).queued < 4096) ∧
    (∃ n x, (hx lg { cx with mode := .parked }).windowCtx 0 = some (n, x) ∧ x.mode.waits = true) ∧ (lg.field 8 8 = 0x90000) ∧
    (∃ (s1 : State) (l : List Byte), (hx lg cx).svcRead 0 0x90000 256 = (s1, l) ∧ s1.hole = none ∧ capSpace (⟨BitVec.ofNat 128 (bitsAt (leNat l) 1536 128), true⟩ : TCap) = 0) ∧
    (∃ (s1 : State) (l : List Byte), (atPa (hx lg cx) 0x90000 lgRec).svcRead 0 0x90000 256 = (s1, l) ∧ s1.hole = none ∧
      recordReserved (leNat l) = false ∧ capSpace (⟨BitVec.ofNat 128 (bitsAt (leNat l) 1536 128), true⟩ : TCap) = 1) :=
  ⟨⟨by decide, rfl, by decide +kernel⟩, by decide, ⟨by decide, rfl, by decide +kernel⟩, ⟨_, _, rfl, by decide, by decide⟩, ⟨_, _, rfl, by decide⟩, by decide,
    ⟨_, _, rfl, by decide +kernel, by decide +kernel⟩, ⟨_, _, rfl, by decide +kernel, by decide +kernel, by decide +kernel⟩⟩
/-- SET_CONTEXT of context 5 with its descriptor at 0x90000. -/
def sc : Command := cmdN 2 [(8, 0x90000), (2, 5), (46, 0)]
/-- A good descriptor. -/
def scDesc : List Byte := natLe 337 0 ++ natLe 16 (capOf 1 63 0 4096 0).bits.toNat
theorem wit_HostCommandsAnswer_contexts : (hs (some sc) none).takes 0 2 sc ∧ sc.field 8 8 = 0x90000 ∧ sc.field 16 2 = 5 ∧
    (∃ (s1 : State) (l : List Byte), (hs (some sc) none).svcRead 0 0x90000 512 = (s1, l) ∧ s1.hole = none ∧ descBad (leNat l) = true) ∧
    (∃ (s1 : State) (l : List Byte), (atPa (hs (some sc) none) 0x90000 scDesc).svcRead 0 0x90000 512 = (s1, l) ∧ s1.hole = none ∧ descBad (leNat l) = false ∧ s1.ctx 5 = none) :=
  ⟨⟨by decide, rfl, by decide +kernel⟩, by decide, by decide, ⟨_, _, rfl, by decide +kernel, by decide +kernel⟩, ⟨_, _, rfl, by decide +kernel, by decide +kernel, by decide +kernel⟩⟩
/-- SAVE_CONTEXT and RESUME of the placed team's context, and of one that does not exist. -/
def sv (n : Nat) : Command := cmdN 11 [(2, n), (6, 0), (8, 0), (8, 0)]
def ru (n : Nat) (area : Nat) : Command := cmdN 12 [(2, n), (6, 0), (8, area), (8, 0)]
/-- A saved context of no pair, and of one pair. -/
def kept (l : Tab Pair) : Saved := ⟨0, [], l, [], [0, 0, 0, 0]⟩
/-- The context saved. -/
def savedCx (l : Tab Pair) : Ctx := { cx with mode := .saved, saved := some (kept l), token := 0 }
/-- No pair is free. -/
def fullHs (s : State) : State := { s with pairs := (List.range 256).map (fun p => (p, { Pair.idle with grid := some 9 })) }
theorem wit_HostCommandsAnswer_saves : (hs (some (sv 9)) none).takes 0 11 (sv 9) ∧ (hs (some (sv 9)) none).ctx 9 = none ∧ (sv 9).field 8 2 = 9 ∧
    (hx (sv ct.ctx) cx).takes 0 11 (sv ct.ctx) ∧ (∃ x, (hx (sv ct.ctx) cx).ctx ct.ctx = some x ∧ x.mode = .running) ∧
    (∃ x, (hx (sv ct.ctx) { cx with mode := .parked }).ctx ct.ctx = some x ∧ x.mode ≠ .running) ∧
    (hs (some (ru 9 0)) none).takes 0 12 (ru 9 0) ∧ (hs (some (ru 9 0)) none).ctx 9 = none ∧
    (∃ x, (hx (ru ct.ctx 64) cx).ctx ct.ctx = some x ∧ x.saved = none) ∧ (hx (ru ct.ctx 64) (savedCx [])).takes 0 12 (ru ct.ctx 64) ∧
    (∃ x v, (hx (ru ct.ctx 64) (savedCx [])).ctx ct.ctx = some x ∧ x.saved = some v ∧ x.token.toNat = (ru ct.ctx 64).field 24 8 ∧ x.mode = .saved ∧ (ru ct.ctx 64).field 16 8 ≠ 0 ∧
      ∃ s1 l, (hx (ru ct.ctx 64) (savedCx [])).choosePairs ct.ctx ((hx (ru ct.ctx 64) (savedCx [])).savedGroups v) [] = (s1, some l)) ∧
    (∃ s1, (fullHs (hx (ru ct.ctx 64) (savedCx [(3, Pair.idle)]))).choosePairs ct.ctx ((fullHs (hx (ru ct.ctx 64) (savedCx [(3, Pair.idle)]))).savedGroups (kept [(3, Pair.idle)])) [] = (s1, none)) :=
  ⟨⟨by decide, rfl, by decide +kernel⟩, by decide, by decide, ⟨by decide, rfl, by decide +kernel⟩, ⟨_, rfl, by decide⟩, ⟨_, rfl, by decide⟩, ⟨by decide, rfl, by decide +kernel⟩, by decide,
    ⟨_, rfl, by decide⟩, ⟨by decide, rfl, by decide +kernel⟩, ⟨_, _, rfl, rfl, by decide, by decide, by decide, _, _, rfl⟩, none_of (by decide +kernel)⟩

/-! An image that verifies: the key is made for a signature of zeros. -/

theorem shaRound_eight {h : List Word} (x : Word) (hl : h.length = 8) : (shaRound h x).length = 8 := by
  match h, hl with
  | [a, b, c, d, e, f, g, i], _ => rfl
theorem shaRounds_eight : ∀ (l : List Word) (h : List Word), h.length = 8 → (l.foldl shaRound h).length = 8
  | [], _, hl => hl
  | x :: l, _, hl => shaRounds_eight l _ (shaRound_eight x hl)
theorem shaBlocks_eight : ∀ (n : Nat) (h : List Word) (l : List Byte), h.length = 8 → (shaBlocks n h l).length = 8
  | 0, _, _, hl => hl
  | n + 1, h, l, hl => shaBlocks_eight n _ _ (by simp [shaBlock, shaRounds_eight _ _ hl, hl])
theorem flatMap_four : ∀ l : List Word, (l.flatMap (fun w => natBe 4 w.toNat)).length = 4 * l.length
  | [] => rfl
  | w :: l => by
    have h4 : (natBe 4 w.toNat).length = 4 := by simp [natBe, natLe]
    simp only [List.flatMap_cons, List.length_append, flatMap_four l, h4, List.length_cons]
    omega
theorem sha256_length (m : List Byte) : (sha256 m).length = 32 := by
  simp only [sha256, flatMap_four]
  rw [shaBlocks_eight _ _ _ (by decide)]
theorem lmsRoot_length (id : List Byte) : ∀ (l : List (List Byte)) (node : Nat) (x : List Byte), x.length = 32 → (lmsRoot id node x l).length = 32
  | [], _, _, h => h
  | _ :: l, _, _, _ => lmsRoot_length id l _ _ (sha256_length _)
/-- The key's part before the root, and a signature of zeros but for its types. -/
def keyHead : List Byte := natBe 4 6 ++ natBe 4 3 ++ List.replicate 16 0
def zeroSig : List Byte := List.replicate 4 0 ++ natBe 4 3 ++ List.replicate 2176 0 ++ natBe 4 6 ++ List.replicate 320 0
/-- The root that such a signature leads to. -/
def rootFor (msg : List Byte) : List Byte :=
  let id := List.replicate 16 (0 : Byte)
  let d := lmsDigits (sha256 (id ++ natBe 4 0 ++ [0x81, 0x81] ++ bytesAt zeroSig 8 32 ++ msg))
  let ends := d.zipIdx.flatMap (fun e => lmsChain (id ++ natBe 4 0 ++ natBe 2 e.2) e.1 (15 - e.1) (bytesAt zeroSig (40 + 32 * e.2) 32))
  lmsRoot id (1024 + 0) (sha256 (id ++ natBe 4 (1024 + 0) ++ [0x82, 0x82] ++ sha256 (id ++ natBe 4 0 ++ [0x80, 0x80] ++ ends)))
    ((List.range 10).map (fun i => bytesAt zeroSig (2188 + 32 * i) 32))
theorem rootFor_length (msg : List Byte) : (rootFor msg).length = 32 := lmsRoot_length _ _ _ _ (sha256_length _)
theorem bytesAt_head (a b : List Byte) (lo n : Nat) (h : lo + n ≤ a.length) : bytesAt (a ++ b) lo n = bytesAt a lo n := by
  unfold bytesAt
  rw [List.drop_append_of_le_length (by omega), List.take_append_of_le_length (by simp; omega)]
theorem bytesAt_tail (a b : List Byte) : bytesAt (a ++ b) a.length b.length = b := by simp [bytesAt]
theorem lmsVerify_made (msg : List Byte) : lmsVerify (keyHead ++ rootFor msg) msg zeroSig = true := by
  have h1 : bytesAt (keyHead ++ rootFor msg) 8 16 = List.replicate 16 0 := by rw [bytesAt_head _ _ _ _ (by decide)]; decide
  have h2 : beNat (bytesAt (keyHead ++ rootFor msg) 0 4) = 6 := by rw [bytesAt_head _ _ _ _ (by decide)]; decide
  have h3 : beNat (bytesAt (keyHead ++ rootFor msg) 4 4) = 3 := by rw [bytesAt_head _ _ _ _ (by decide)]; decide
  have h4 : bytesAt (keyHead ++ rootFor msg) 24 32 = rootFor msg := by
    have := bytesAt_tail keyHead (rootFor msg)
    rw [rootFor_length, show keyHead.length = 24 by decide] at this
    exact this
  have h5 : (keyHead ++ rootFor msg).length = 56 := by rw [List.length_append, rootFor_length]; decide
  have h6 : zeroSig.length = 2508 := by decide +kernel
  have h7 : beNat (bytesAt zeroSig 0 4) = 0 := by decide +kernel
  have h8 : beNat (bytesAt zeroSig 4 4) = 3 := by decide +kernel
  have h9 : beNat (bytesAt zeroSig 2184 4) = 6 := by decide +kernel
  simp only [lmsVerify, h1, h2, h3, h4, h5, h6, h7, h8, h9]
  simp [rootFor]
/-- The bytes of a texture image of no constants before its signature: the header, cells and map all of zeros but for the sizes. -/
def imgMsg : List Byte :=
  let c := islandCols 1 * islandRows 1 * 8
  let m := 8 * ceilDiv (2 * islandResp 1) 8
  natLe 4 0x4F585250 ++ natLe 2 1 ++ [1, 0] ++ natLe 4 (64 + c + m + 2508) ++ natLe 4 64 ++ natLe 4 c ++ natLe 4 (64 + c) ++ natLe 2 (islandResp 1) ++ natLe 2 0 ++
    natLe 4 (64 + c + m) ++ natLe 4 (64 + c + m) ++ natLe 4 1 ++ List.replicate (24 + c + m) 0
/-- The image. -/
def img : List Byte := imgMsg ++ zeroSig
theorem imgCheck_made : imgCheck [keyHead ++ rootFor imgMsg] [0, 0, 0, 0] img img.length = .ok (imgOf img) := by
  have h1 : imgShape img img.length = true := by decide +kernel
  have h2 : imgNat img 7 1 = 0 := by decide +kernel
  have h3 : imgSigOff img = imgMsg.length := by decide +kernel
  have h4 : (decide (imgNat img 36 4 < [0, 0, 0, 0].getD (imgKind img) 0)) = false := by decide +kernel
  have h5 : imgCells img = true := by decide +kernel
  have h6 : img.take imgMsg.length = imgMsg := List.take_left
  have h7 : img.drop imgMsg.length = zeroSig := List.drop_left
  simp only [imgCheck, h1, h2, h3, h5, h6, h7, List.getElem?_cons_zero, lmsVerify_made]
  rw [if_neg (by simp), if_neg (by simp), if_neg (by simpa using h4)]
  simp
/-- LOAD_IMAGE at 0x90000, of the image's length. -/
def li (n : Nat) : Command := cmdN 3 [(8, 0x90000), (4, n), (44, 0)]
/-- The device whose board holds that key, with the image in memory. -/
def imgState (n : Nat) (x : Ctx) : State := { atPa (hx (li n) x) 0x90000 img with board := { cs.board with keys := [keyHead ++ rootFor imgMsg], floors := [0, 0, 0, 0] } }
theorem imgState_board (n : Nat) (x : Ctx) : (imgState n x).board = { cs.board with keys := [keyHead ++ rootFor imgMsg], floors := [0, 0, 0, 0] } := rfl
theorem snd_of {α β : Type} {x : α × β} {b : β} {q : α → Bool} (h : x.2 = b ∧ q x.1 = true) : ∃ a, x = (a, b) ∧ q a = true := ⟨x.1, by rw [← h.1], h.2⟩
theorem wit_HostCommandsAnswer_images : (hs (some (li 64)) none).takes 0 3 (li 64) ∧ (hs (some (li 64)) none).windowCtx 0 = none ∧ (hx (li 64) cx).takes 0 3 (li 64) ∧
    (∃ n x, (hx (li 64) { cx with mode := .parked }).windowCtx 0 = some (n, x) ∧ x.mode.waits = true) ∧
    (∃ n x, (hx (li 64) cx).windowCtx 0 = some (n, x) ∧ x.mode.waits = false ∧ (∃ (s1 : State) (l : List Byte), (hx (li 64) cx).svcRead 0 0x90000 64 = (s1, l) ∧ s1.hole = none ∧
      imgCheck (hx (li 64) cx).board.keys (hx (li 64) cx).board.floors l 64 = .error 0x10)) ∧ (li img.length).field 8 8 = 0x90000 ∧ (li img.length).field 16 4 = img.length ∧ img.length ≤ 16384 ∧
    (∃ (s1 : State), (imgState img.length cx).svcRead 0 0x90000 img.length = (s1, img) ∧ s1.hole.isNone = true ∧
      imgCheck (imgState img.length cx).board.keys (imgState img.length cx).board.floors img img.length = .ok (imgOf img)) ∧
    (imgState img.length cx).ctxBusy ct.ctx cx = true ∧ ({ imgState img.length cx with teams := [] } : State).ctxBusy ct.ctx cx = false := by
  refine ⟨⟨by decide, rfl, by decide +kernel⟩, by decide, ⟨by decide, rfl, by decide +kernel⟩, ⟨_, _, rfl, by decide⟩,
    ⟨_, _, rfl, by decide, _, _, rfl, by decide +kernel, by decide +kernel⟩, by decide +kernel, by decide +kernel, by decide +kernel, ?_, by decide, by decide⟩
  have h : ((imgState img.length cx).svcRead 0 0x90000 img.length).2 = img ∧ ((imgState img.length cx).svcRead 0 0x90000 img.length).1.hole.isNone = true := by decide +kernel
  obtain ⟨s1, h1, h2⟩ := snd_of (q := fun s : State => s.hole.isNone) h
  exact ⟨s1, h1, h2, by rw [imgState_board]; exact imgCheck_made⟩

/-- WRITE_VALUE of 8 bytes, WAIT_VALUE for equality, COPY, DECOMPRESS, PARTITION, PIN and LATENCY_TOLERANCE. -/
def wv : Command := cmdN 4 [(8, 0x90000), (8, 77), (1, 8), (39, 0)]
def wt (value : Nat) : Command := cmdN 5 [(8, 0x90000), (8, value), (8, 255), (1, 0), (7, 0), (8, 100), (16, 0)]
def cp : Command := cmdN 6 [(8, 0x90000), (8, 0x91000), (8, 256), (32, 0)]
def dcm : Command := cmdN 7 [(8, 0x90000), (48, 0)]
def pt : Command := cmdN 8 [(1, 3), (1, 1), (2, 7), (52, 0)]
def pn (un : Nat) : Command := cmdN 9 [(8, 0x90000), (8, 4096), (1, 3), (1, un), (38, 0)]
def lt : Command := cmdN 10 [(4, 5), (52, 0)]
theorem wit_HostCommandsOnMemory : (hs (some wv) none).hole = none ∧ (hs (some wv) none).takes 0 4 wv ∧ wv.field 8 8 + wv.field 24 1 ≤ (hs (some wv) none).installed ∧
    (hs (some (wt 0)) none).cmdReady 0 5 = some (wt 0) ∧ (wt 0).begun = false ∧ (wt 0).wrong 5 = false ∧
    (∃ (s1 : State) (l : List Byte), (hs (some (wt 0)) none).svcRead 0 0x90000 8 = (s1, l) ∧ s1.hole = none ∧ leNat l &&& (wt 0).field 24 8 = 0) ∧
    (wt 0).field 32 1 = 0 ∧ (wt 0).field 16 8 = 0 ∧ (wt 1).field 16 8 = 1 ∧ (hs (some (wt 1)) none).cmdReady 0 5 = some (wt 1) ∧ (wt 1).wrong 5 = false ∧ (hs none none).cmdReady 0 5 = none ∧
    (hs (some { wt 0 with begun := true, deadline := some 0 }) none).cmdReady 0 5 = some { wt 0 with begun := true, deadline := some 0 } ∧ 0 ≤ (hs none none).gt ∧ (hs none none).gt < 1000000 :=
  ⟨rfl, ⟨by decide, rfl, by decide +kernel⟩, by decide, by decide, rfl, by decide +kernel, ⟨_, _, rfl, by decide +kernel, by decide +kernel⟩, by decide, by decide, by decide, by decide, by decide +kernel,
    by decide, by decide, by decide, by decide⟩
theorem wit_HostCommandsOnMemory_engines : (hs (some cp) none).takes 0 6 cp ∧ cp.field 8 8 + cp.field 24 8 ≤ (hs (some cp) none).installed ∧ cp.field 16 8 + cp.field 24 8 ≤ (hs (some cp) none).installed ∧
    (hs (some dcm) none).takes 0 7 dcm ∧
    (∃ (s1 : State) (l : List Byte), (hs (some dcm) none).svcRead 0 0x90000 64 = (s1, l) ∧ s1.hole = none ∧ rtBad (leNat l) = false) ∧
    (∃ (s1 : State) (l : List Byte), (atPa (hs (some dcm) none) 0x90000 (natLe 64 (2 ^ 240))).svcRead 0 0x90000 64 = (s1, l) ∧ s1.hole = none ∧ rtBad (leNat l) = true) ∧
    (hs (some pt) none).takes 0 8 pt ∧ (hs (some (pn 1)) none).takes 0 9 (pn 1) ∧ (pn 1).field 25 1 = 1 ∧ (pn 1).field 8 8 + (pn 1).field 16 8 ≤ (hs (some (pn 1)) none).installed ∧
    (hs (some (pn 0)) none).takes 0 9 (pn 0) ∧ (pn 0).field 25 1 = 0 ∧ ((hs (some (pn 0)) none).pinLines ((pn 0).field 24 1) (linesOf ((pn 0).field 8 8) ((pn 0).field 16 8))).1.hole = none ∧
    (hs (some lt) none).takes 0 10 lt :=
  ⟨⟨by decide, rfl, by decide +kernel⟩, by decide, by decide, ⟨by decide, rfl, by decide +kernel⟩, ⟨_, _, rfl, by decide +kernel, by decide +kernel⟩, ⟨_, _, rfl, by decide +kernel, by decide +kernel⟩,
    ⟨by decide, rfl, by decide +kernel⟩, ⟨by decide, rfl, by decide +kernel⟩, by decide, by decide, ⟨by decide, rfl, by decide +kernel⟩, by decide, by decide +kernel, ⟨by decide, rfl, by decide +kernel⟩⟩

/-- A slot sealed as command 10 with number 1, and with number 2. -/
def slot (n : Nat) : State := atPa (hs none none) 0x80040 (natLe 8 (10 + n * 2 ^ 32))
/-- A command that has ended, its record's second part still to be written or written. -/
def ended (noted : Bool) : Command := { cmdB 10 (List.replicate 56 0) with begun := true, status := some 0, noted := noted, msix := true }
theorem wit_WindowsTakeAndCompleteCommands : barServes 0x17F8 8 = true ∧ barServes 0x1000 4 = true ∧ barServes 2 4 = false ∧ barServes 56 8 = true ∧ (hs none none).hole = none ∧
    ((hs none none).window 0).en = true ∧ ((hs none none).window 63).en = false ∧ ((hs none none).window 0).cmd = none ∧ ((hs none none).port 0).state = .up ∧
    tabGet 0 ((hs none none).window 0).seals (((hs none none).window 0).nextseq % 256) ≤ (hs none none).gt ∧
    (∃ (s1 : State) (l : List Byte), (slot 1).svcRead 0 (0x80000 + 64 * 1) 64 = (s1, l) ∧ s1.hole = none ∧ leNat (l.take 8) / 2 ^ 32 = 1 ∧ ((slot 1).window 0).nextseq = 1) ∧
    (∃ (s1 : State) (l : List Byte), (slot 2).svcRead 0 (0x80000 + 64 * 1) 64 = (s1, l) ∧ s1.hole = none ∧ leNat (l.take 8) / 2 ^ 32 ≠ 1) ∧
    ((hs (some (ended false)) none).window 0).cmd = some (ended false) ∧ (hs (some (ended false)) none).settleCmd (ended false) = ended false ∧
    (hs (some (ended true)) none).settleCmd (ended true) = ended true ∧ (ended true).wmax ≤ (hs (some (ended true)) none).gt ∧ (hs (some (ended true)) none).flushWaits 0 (ended true) = false ∧
    ((hs (some (ended true)) none).window 0).recbase + 32 * ((ended true).seq % 256) + 32 ≤ (hs (some (ended true)) none).installed ∧ (hs none none).settleCmd lt = lt ∧ lt.status = none :=
  ⟨by decide, by decide, by decide, by decide, rfl, by decide, by decide, by decide, by decide, by decide, ⟨_, _, rfl, by decide +kernel, by decide +kernel, by decide⟩,
    ⟨_, _, rfl, by decide +kernel, by decide +kernel⟩, by decide, by decide, by decide, by decide, by decide, by decide, by decide, by decide⟩

/-- Port 0 has its lanes, and bring-up is over. -/
def litUp (s : State) : State := { portUp s with boot := ⟨9, none⟩, board := { s.board with ports := [1] } }
theorem wit_HostAccessesOfDeviceMemory : (litUp cs).hole = none ∧ (litUp cs).lit 0 = true ∧ (litUp cs).lit 8 = false ∧ (litUp cs).boot.failed = none ∧ ((litUp cs).port 0).frozen = false ∧
    ((litUp cs).port 0).state = .up ∧ (litUp cs).power.device = 0 ∧ (litUp cs).sound 64 8 ∧ 64 + 8 ≤ (litUp cs).installed ∧
    ((litUp cs).putPort 0 { (litUp cs).port 0 with frozen := true }).lit 0 = true ∧ (((litUp cs).putPort 0 { (litUp cs).port 0 with frozen := true }).port 0).frozen = true ∧
    (((litUp cs).putPort 0 { (litUp cs).port 0 with state := .hold }).port 0).state ≠ .up ∧ ({ litUp cs with power := { (litUp cs).power with device := 3 } } : State).power.device ≠ 0 ∧
    (litUp cs).installed < (litUp cs).installed + 1 := by
  refine ⟨rfl, by decide, by decide, by decide, by decide, by decide, by decide, ?_, by decide, by decide, by decide, by decide, by decide, by decide⟩
  unfold State.sound; decide

/-! ### Placement, ends and faults -/

/-- A grid of four teams of which two are placed, one in gangs of two, and one whose map R69 refuses. -/
def grid7 (gang mapn : Nat) : Grid := { (cs.grids.getD 0 placeGrid) with id := 7, placed := 2, launch := { placeGrid.launch with nteam := 4, gang := gang, mapn := mapn } }
/-- It stands at the head of its queue. -/
def qs (gang mapn : Nat) : State := { cs with grids := cs.grids ++ [grid7 gang mapn], reckoner := { cs.reckoner with queues := [(1, [7])] } }
theorem fails_of {α β : Type} {x : α × Option β} {q : α → Bool} (h : (x.2.isNone && q x.1) = true) : ∃ s, x = (s, none) ∧ q s = true := by
  obtain ⟨s, b⟩ := x
  cases b with
  | none => exact ⟨s, rfl, by simpa using h⟩
  | some b => simp at h
theorem gives_of {α β : Type} {x : α × Option β} {q : α → Bool} (h : (x.2.isSome && q x.1) = true) : ∃ s u, x = (s, some u) ∧ q s = true := by
  obtain ⟨s, b⟩ := x
  cases b with
  | none => simp at h
  | some b => exact ⟨s, b, rfl, by simpa using h⟩
theorem wit_TeamsAndGangsArePlaced : (qs 0 0).hole = none ∧ cs.headGrid = none ∧ (qs 0 0).headGrid = some (grid7 0 0) ∧ (grid7 0 0).launch.gang = 0 ∧ (qs 2 0).headGrid = some (grid7 2 0) ∧
    (grid7 2 0).launch.gang ≠ 0 ∧ (fullHs (qs 0 0)).headGrid = some (grid7 0 0) ∧ (∀ q, q < 256 → (fullHs (qs 0 0)).fits (grid7 0 0) (32 * (q % 8) + q / 8) = none) ∧
    (qs 0 0).fits (grid7 0 0) (32 * (1 % 8) + 1 / 8) = some 0 ∧ (∀ q', q' < 1 → (qs 0 0).fits (grid7 0 0) (32 * (q' % 8) + q' / 8) = none) ∧
    (∃ s1 u, (qs 0 0).placeOn (grid7 0 0) 32 0 2 none true = (s1, some u) ∧ s1.hole.isNone = true) ∧
    (qs 0 1).headGrid = some (grid7 0 1) ∧ (qs 0 1).fits (grid7 0 1) 32 = some 0 ∧ (∃ s1, (qs 0 1).placeOn (grid7 0 1) 32 0 2 none true = (s1, none) ∧ s1.hole.isNone = true) :=
  ⟨rfl, by decide, by decide, by decide, by decide, by decide, by decide +kernel, by decide +kernel, by decide +kernel, by decide +kernel, gives_of (q := fun s : State => s.hole.isNone) (by decide +kernel),
    by decide, by decide +kernel, fails_of (q := fun s : State => s.hole.isNone) (by decide +kernel)⟩
/-- A gang of which some members are reserved. -/
def gs (mapn : Nat) (l : List Nat) : State := { qs 2 mapn with reckoner := { (qs 2 mapn).reckoner with gang := some ⟨7, 8, l, false⟩ } }
theorem wit_TeamsAndGangsArePlaced_gangs : (qs 2 0).reckoner.gang = none ∧ (qs 2 0).gangCluster (grid7 2 0) = some 8 ∧ (qs 2 0).fits (grid7 2 0) (4 * 8) = some 0 ∧
    (fullHs (qs 2 0)).gangCluster (grid7 2 0) = none ∧ (∃ s1 u, (qs 2 0).placeOn (grid7 2 0) (4 * 8) 0 2 (some 0) false = (s1, some u) ∧ s1.hole.isNone = true) ∧
    (∃ s1, (qs 2 1).placeOn (grid7 2 1) (4 * 8) 0 2 (some 0) false = (s1, none) ∧ s1.hole.isNone = true) ∧ (qs 2 1).headGrid = some (grid7 2 1) ∧ (qs 2 1).gangCluster (grid7 2 1) = some 8 ∧
    (gs 0 [1]).grid 7 = some (grid7 2 0) ∧ (gs 0 [1]).fits (grid7 2 0) (4 * 8 + 1) = some 0 ∧
    (∃ s1 u, (gs 0 [1]).placeOn (grid7 2 0) (4 * 8 + 1) 0 (2 + 1) (some 1) false = (s1, some u) ∧ s1.hole.isNone = true) ∧
    (∃ s1, (gs 1 [1]).placeOn (grid7 2 1) (4 * 8 + 1) 0 (2 + 1) (some 1) false = (s1, none) ∧ s1.hole.isNone = true) ∧
    (gs 0 [1, 2]).grid 7 = some (grid7 2 0) ∧ (grid7 2 0).launch.gang ≤ [1, 2].length :=
  ⟨rfl, by decide +kernel, by decide +kernel, by decide +kernel, gives_of (q := fun s : State => s.hole.isNone) (by decide +kernel), fails_of (q := fun s : State => s.hole.isNone) (by decide +kernel),
    by decide, by decide +kernel, by decide, by decide +kernel, gives_of (q := fun s : State => s.hole.isNone) (by decide +kernel), fails_of (q := fun s : State => s.hole.isNone) (by decide +kernel),
    by decide, by decide⟩

/-- A team that is over. -/
def overTeam (t : Team) : Team := { t.withCtl { t.ctl with ended := true } with ranks := t.ranks.map (fun r => { r with ended := true }) }
/-- Pair 0 without a team, with a mapped sector in a state. -/
def emptied (st : SecState) : State := { mapped { Sector.fresh with st := st } with teams := [] }
/-- A grid alone, changed. -/
def alone (f : Grid → Grid) : State := { vs with teams := [], pairs := [], grids := vs.grids.map f }
/-- A team frozen by a capability without its tag. -/
def frozenTeam (t : Team) : Team := { t with frozen := some ⟨TCap.null, 0, 0, 0, 0, 0, 5, 0, 0, 0x10⟩ }
theorem wit_TeamsPairsAndGridsEnd : cs.team 9 = none ∧ (∃ t, cs.team 1 = some t ∧ cs.teamOver t = false) ∧
    (∃ t, (csOf overTeam).team 1 = some t ∧ (csOf overTeam).teamOver t = true) ∧ (((csOf overTeam).releaseFrees (fun w => w.team == 1)).unlockTeam 1).hole = none ∧
    (cs.pair 5).grid = none ∧ (cs.pair 0).grid ≠ none ∧ cs.teamsOn 0 ≠ [] ∧ ((emptied .d).pair 0).grid ≠ none ∧ (emptied .d).teamsOn 0 = [] ∧
    (∃ e ∈ ((emptied .d).pair 0).sectors, e.2.st = .d ∧ ∃ k m, ((emptied .d).pair 0).mapAt (e.1 * 256) = some (k, m) ∧ m.nowb = false ∧ m.flt = false) ∧
    (∃ e ∈ ((emptied .f).pair 0).sectors, e.2.st = .w ∨ e.2.st = .wd ∨ e.2.st = .f) ∧ (∀ e ∈ ((emptied .f).pair 0).sectors, e.2.st ≠ .d) ∧
    (∀ e ∈ ((emptied .c).pair 0).sectors, e.2.st ≠ .d ∧ e.2.st ≠ .w ∧ e.2.st ≠ .wd ∧ e.2.st ≠ .f) ∧ ((emptied .c).pair 0).grid ≠ none ∧ (emptied .c).teamsOn 0 = [] :=
  ⟨by decide, ⟨_, rfl, by decide⟩, ⟨_, rfl, by decide⟩, by decide, by decide, by decide, by decide, by decide, by decide, ⟨(0, { Sector.fresh with st := .d }), by decide, rfl, _, _, rfl, rfl, rfl⟩,
    ⟨(0, { Sector.fresh with st := .f }), by decide, Or.inr (Or.inr rfl)⟩, by decide, by decide, by decide, by decide⟩
theorem wit_TeamsPairsAndGridsEnd_grids : cs.grid 9 = none ∧ (∃ g, cs.grid 0 = some g ∧ cs.gridOver g = false) ∧ (∃ g, (alone id).grid 0 = some g ∧ (alone id).gridOver g = true) ∧
    (∃ g, (alone (fun g => { g with retired := true, parent := some 4 })).grid 0 = some g ∧ g.retired = true ∧ g.parent ≠ none ∧ g.wmax ≤ (alone id).gt ∧ g.donew = none) ∧
    (∃ g, (alone (fun g => { g with retired := true, parent := some 4, donew := some (1, 0, 64) })).grid 0 = some g ∧ g.retired = true ∧ g.parent ≠ none ∧ g.donew = some (1, 0, 64) ∧
      ((alone (fun g => { g with retired := true, parent := some 4, donew := some (1, 0, 64) })).unitWrite ⟨0, g.ctx, 0⟩ 64 (natLe 8 g.donewWord) 9).2.hole = none) ∧
    (∃ g, (alone (fun g => { g with retired := true, parent := some 4, donew := some (2, 0, 64) })).grid 0 = some g ∧ g.donew = some (2, 0, 64) ∧
      ((alone id).pair (homePair 0 2 64)).grid ≠ g.parent) ∧
    (∃ g, ({ cs with grids := [{ placeGrid with retired := true, parent := some 0, donew := some (2, 0, 64), id := 3 }] } : State).grid 3 = some g ∧ (cs.pair (homePair 0 2 64)).grid = g.parent) ∧
    firstFrozen (cs.teams.filter (fun t => t.grid == 0)) = none ∧ (∃ g r, (csOf frozenTeam).grid 0 = some g ∧ firstFrozen ((csOf frozenTeam).teams.filter (fun t => t.grid == 0)) = some r) :=
  ⟨by decide, ⟨_, rfl, by decide⟩, ⟨_, rfl, by decide⟩, ⟨_, rfl, rfl, by decide, by decide, rfl⟩, ⟨_, rfl, rfl, by decide, rfl, by decide +kernel⟩, ⟨_, rfl, rfl, by decide⟩, ⟨_, rfl, by decide⟩, by decide, ⟨_, _, rfl, rfl⟩⟩

/-- A record of a missing page, of an agent or of none, delivered or not. -/
def frec (a : Option Agent) (code : TrapCode) (d : Bool) : FaultRec := ⟨3, a, none, none, 0, 0x5000, code, false, 0, d, 0, 8, 8⟩
/-- The control thread, and the split, wait at it. -/
def cw (r : FaultRec) : State := { csWait (.owner 3) with faults := [r] }
def vw (r : FaultRec) : State := { vsWait (.owner 3) with faults := [r] }
theorem wit_FaultsAndInvalidates : cs.hole = none ∧ cs.fault 3 = none ∧ (∃ r, (cw (frec none .missingPage true)).fault 3 = some r ∧ r.delivered = true) ∧
    (∃ r, (cw (frec none .missingPage false)).fault 3 = some r ∧ r.delivered = false ∧ r.code ≠ .brk) ∧ (∃ r, (cw (frec none .brk false)).fault 3 = some r ∧ r.delivered = false ∧ r.code = .brk) ∧
    (∀ r, ¬ cs.answerable 3 false r) ∧ (∀ r, ¬ cs.answerable 3 true r) ∧
    (cw (frec (some (.ctl 1)) .missingPage true)).answerable 3 false (frec (some (.ctl 1)) .missingPage true) ∧
    ((cw (frec (some (.ctl 1)) .missingPage true)).tableWrites [(0x100000, 5)]).hole = none ∧
    (∃ v, (cw (frec (some (.ctl 1)) .missingPage true)).team 1 = some v ∧ v.ctl.wait = .owner 3) ∧
    (cw (frec none .missingPage true)).answerable 3 false (frec none .missingPage true) ∧
    (vw (frec (some (.vec 1 0 0)) .missingPage true)).answerable 3 false (frec (some (.vec 1 0 0)) .missingPage true) ∧
    (∃ f, focus { (vw (frec (some (.vec 1 0 0)) .missingPage true)).dropFault 3 with cur := .vec 1 0 0 } = some f ∧ f.x.wait = .owner 3) ∧
    (cw (frec none .brk true)).answerable 3 true (frec none .brk true) ∧ (cw (frec (some (.ctl 1)) .brk true)).answerable 3 true (frec (some (.ctl 1)) .brk true) ∧
    (∃ f, focus { (vw (frec (some (.vec 1 0 0)) .brk true)).dropFault 3 with cur := .vec 1 0 0 } = some f ∧ f.x.wait = .owner 3) := by
  have hn : cs.fault 3 = none := by decide
  refine ⟨rfl, hn, ⟨_, rfl, rfl⟩, ⟨_, rfl, rfl, by decide⟩, ⟨_, rfl, rfl, rfl⟩, fun r h => ?_, fun r h => ?_, ⟨rfl, rfl, by decide, by decide⟩, by decide +kernel, ⟨_, rfl, by decide⟩,
    ⟨rfl, rfl, by decide, by decide⟩, ⟨rfl, rfl, by decide, by decide⟩, ⟨_, rfl, by decide⟩, ⟨rfl, rfl, by decide, by decide⟩, ⟨rfl, rfl, by decide, by decide⟩, ⟨_, rfl, by decide⟩⟩
  · rw [State.answerable, hn] at h; exact absurd h.1 (by simp)
  · rw [State.answerable, hn] at h; exact absurd h.1 (by simp)
/-- A copy that waits at the record, and a sector's fill and write-back that do. -/
def opWait : State := { engine { eop with done := 64, waitFault := some 3 } with faults := [{ frec none .missingPage true with op := some 9 }] }
def secWait (st : SecState) : State := { mapped { Sector.fresh with st := st } with faults := [{ frec none .missingPage true with sector := some (0, 0) }] }
theorem wit_FaultsAndInvalidates_decline : opWait.answerable 3 false { frec none .missingPage true with op := some 9 } ∧ (∃ q, opWait.op 9 = some q ∧ q.waitFault = some 3 ∧
      ((opWait.dropFault 3).stopOp q (stopStatus .missingPage)).hole = none) ∧
    (secWait .f).answerable 3 false { frec none .missingPage true with sector := some (0, 0) } ∧ (∃ k m, ((secWait .f).pair 0).mapAt (0 * 256) = some (k, m)) ∧
    (((secWait .f).pair 0).sector 0).st = .f ∧ (((secWait .f).dropFault 3).fillFail 0 0 .missingPage 0x5000).hole = none ∧ (((secWait .w).pair 0).sector 0).st = .w ∧
    (∃ k m, ((secWait .w).pair 0).mapAt (0 * 256) = some (k, m) ∧ (((secWait .w).dropFault 3).writebackDeny 0 0 k m 0x5000).hole = none) :=
  ⟨⟨rfl, rfl, by decide, by decide⟩, ⟨_, rfl, rfl, by decide +kernel⟩, ⟨rfl, rfl, by decide, by decide⟩, ⟨_, _, rfl⟩, by decide, by decide +kernel, by decide, ⟨_, _, rfl, by decide +kernel⟩⟩
/-- An invalidate under way. -/
def inval (s : State) : State := { s with invalidates := [⟨4, 0, 0, 0, 1⟩] }
theorem wit_FaultsAndInvalidates_invalidates : (cs.moveFrames 0 []).2 = false ∧ ((cs.moveFrames 0 []).1.tableWrites [(0x100000, 5)]).hole = none ∧ cs.invalidates.find? (fun v => v.id == 4) = none ∧
    (∃ v, (inval cs).invalidates.find? (fun v => v.id == 4) = some v ∧ (inval cs).invalidReady v = true) ∧
    (∃ v, (inval (flying .store (four (.dev 0x40000)))).invalidates.find? (fun v => v.id == 4) = some v ∧ (inval (flying .store (four (.dev 0x40000)))).invalidReady v = false) :=
  ⟨by decide, by decide +kernel, by decide, ⟨_, rfl, by decide +kernel⟩, ⟨_, rfl, by decide +kernel⟩⟩

/-! ### Contexts, links and power -/

/-- The state with its context changed. -/
def cxState (f : Ctx → Ctx) : State := cs.putCtx ct.ctx (f cx)
/-- The same without teams, and with a SAVE_CONTEXT under way in window 0, for an area of some length. -/
def saving (len : Nat) : State := { (cxState (fun c => { c with mode := .halted false })) with
  teams := []
  pairs := []
  windows := [(0, { Window.start with en := true, cmd := some { cmdN 11 [(2, ct.ctx), (6, 0), (8, 0x100000), (8, len), (32, 0)] with begun := true } })] }
theorem wit_ContextsHaltAndLeave : cs.hole = none ∧ cs.ctx 9 = none ∧ (∃ c, (cxState (fun c => { c with mode := .parked })).ctx ct.ctx = some c ∧ c.mode ≠ .running ∧ ∀ p, c.mode ≠ .halting p) ∧
    (∃ c, (cxState (fun c => { c with mode := .halting true })).ctx ct.ctx = some c ∧ c.mode = .halting true) ∧ (∃ c, cs.ctx ct.ctx = some c ∧ c.mode = .running) ∧
    (∃ c, (cxState (fun c => { c with mode := .halted false })).ctx ct.ctx = some c ∧ c.mode = .halted false) ∧ (cxState (fun c => { c with mode := .halted false })).inFlight ct.ctx = false ∧
    ((cxState (fun c => { c with mode := .halted false })).saveArea ct.ctx).hole = none ∧ (cxState (fun c => { c with mode := .halted false })).saveCmd ct.ctx = none ∧
    (∃ p, (saving 0).saveCmd ct.ctx = some p) ∧ ((saving 0).saveArea ct.ctx).hole = none ∧ ((saving 256).saveArea ct.ctx).hole = none ∧ (flying .store (four (.dev 64))).inFlight 0 = true ∧
    (∃ c, (cxState (fun c => { c with mode := .parked, grace := some 0 })).ctx ct.ctx = some c ∧ c.grace = some 0 ∧ 0 ≤ (cxState (fun c => { c with mode := .parked, grace := some 0 })).gt ∧ c.mode = .parked) := by
  refine ⟨rfl, by decide, ⟨_, rfl, by decide, fun p => by simp⟩, ⟨_, rfl, rfl⟩, ⟨_, rfl, by decide⟩, ⟨_, rfl, rfl⟩, by decide, by decide +kernel, by decide, some_of (by decide +kernel), by decide +kernel, by decide +kernel, by decide,
    ⟨_, rfl, rfl, by decide, rfl⟩⟩
/-- Port 0 in a state, lit, its lanes of a kind (1 tethered, 2 not), and time at 10,000. -/
def ps (kind : Nat) (p : Port) : State := { litUp cs with gt := 10000, board := { cs.board with ports := [kind] }, ports := [(0, p)] }
theorem wit_ContextsHaltAndLeave_links : cs.lit 0 = false ∧ (ps 1 { Port.start with state := .hold }).lit 0 = true ∧ ((ps 1 { Port.start with state := .hold }).port 0).lostAt + 3000 ≤ (ps 1 Port.start).gt ∧
    ((ps 1 { Port.start with state := .hold, lostAt := 9000 }).port 0).lostAt + 3000 > (ps 1 Port.start).gt ∧ ((ps 1 { Port.start with state := .hold }).port 0).state = .hold ∧
    (∃ n c, n ∈ ({ ps 1 { Port.start with state := .hold } with windows := [(0, { Window.start with ctx := some ct.ctx })] } : State).portCtxs 0 ∧
      (ps 1 { Port.start with state := .hold }).ctx n = some c ∧ c.mode = .running) :=
  ⟨by decide, by decide, by decide, by decide, by decide, ⟨ct.ctx, _, by decide, rfl, by decide⟩⟩
/-- A group of four whole granules, and one that refers to no granule. -/
def goodGroup : List Byte := 0 :: List.replicate 200 255
def badGroup : List Byte := 2 :: List.replicate 200 255
theorem wit_LinksMailboxesAndResets : (ps 1 Port.start).hole = none ∧ cs.lit 0 = false ∧ (ps 1 Port.start).lit 0 = true ∧ ((ps 1 Port.start).port 0).state = .train ∧
    ((ps 1 { Port.start with state := .up }).port 0).state = .up ∧ ((ps 1 { Port.start with state := .lost }).port 0).state = .lost ∧
    (ps 2 { Port.start with state := .up }).tethered 0 = false ∧ (ps 1 { Port.start with state := .up }).tethered 0 = true ∧ (ps 2 { Port.start with state := .up }).lit 0 = true ∧
    (∃ p, decodeGroups ((Tether.fresh.part ++ goodGroup).length + 1) { Tether.fresh with part := Tether.fresh.part ++ goodGroup } [] = some p) ∧
    decodeGroups ((Tether.fresh.part ++ badGroup).length + 1) { Tether.fresh with part := Tether.fresh.part ++ badGroup } [] = none ∧
    (ps 1 { Port.start with state := .up, tx := { Tether.fresh with part := [1, 2] } }).tethered 0 = true ∧ Port.start.lastTx + 16 ≤ (ps 1 Port.start).gt ∧
    (tabGet [] (cs.core 1).mail 0).length < 16 ∧ tabGet false cs.engines 3 = false ∧ tabGet false ({ cs with engines := [(3, true)] } : State).engines 3 = true ∧
    (({ cs with engines := [(3, true)] } : State).masterReset .engine 3).hole = none ∧ (cs.island 0).frozen = false ∧ (cs.island 0).stopped = false ∧
    ((islandOf { Island.start with stopped := true } cs).island (islandKey 1 0)).stopped = true :=
  ⟨rfl, by decide, by decide, by decide, by decide, by decide, by decide, by decide, by decide, some_of (by decide +kernel), by decide +kernel, by decide, by decide,
    by decide, by decide, by decide, by decide +kernel, by decide, by decide, by decide⟩
/-- A device at rest, which tolerates a latency and has had time. -/
def resting : State := { cs with teams := [], pairs := [], gt := 100000, power := { cs.power with tolerance := 100000000 } }
theorem wit_PowerAndReset : cs.hole = none ∧ cs.mayEnter .device 3 = false ∧ resting.mayEnter .device 3 = true ∧ resting.powerOf .device < 3 ∧ exitLatency 3 ≤ resting.power.tolerance ∧
    resting.exits .device = false ∧ resting.mayEnter (.core 511) 1 = true ∧ resting.mayEnter (.core 512) 1 = false ∧ resting.mayEnter (.cluster 63) 2 = true ∧
    (∃ t, t ∈ cs.teams ∧ t.onCore 0 = true) ∧ cs.teams ≠ [] ∧ cs.powerOf .device = 0 ∧ ({ cs with power := { cs.power with device := 3 } } : State).powerOf .device ≠ 0 ∧
    ({ cs with power := { cs.power with device := 3, exiting := [.device] } } : State).exits .device = true ∧ 3 ≤ ({ cs with power := { cs.power with device := 3, exiting := [.device] } } : State).power.device ∧
    (({ cs with power := { cs.power with device := 3, exiting := [.device] } } : State).powerExit .device).hole = none ∧ (∀ p, p < 8 → (cs.port p).held = []) ∧
    ({ cs with power := { cs.power with exiting := [.core 3] } } : State).exits (.core 3) = true ∧ (⟨none, 0, []⟩ : BootInput).failStep = none ∧ (⟨some 4, 0, []⟩ : BootInput).failStep = some 4 :=
  ⟨rfl, by decide, by decide, by decide, by decide, by decide, by decide, by decide, by decide, ⟨_, List.mem_cons_self .., by decide⟩, by decide, by decide, by decide, by decide, by decide, by decide +kernel, by decide,
    by decide, rfl, rfl⟩

/-! ### The whole machine -/

theorem wit_DecodeOfEncode : (∃ i, wellFormed i = true ∧ encode i ≠ [] ∧ ∀ w, i ≠ .unassignedOpcodeWord w) ∧ wellFormed (.unassignedOpcodeWord 0x09C0000000000000) = true ∧
    encode (.unassignedOpcodeWord 0x09C0000000000000) ≠ [] := ⟨⟨.fadd (wf 0 4 5 6), by decide, by decide, fun w => by simp⟩, by decide, by decide⟩
/-- IADD of v4 and v5 at the PC, with the agenda that gives its rod the turn. -/
def run : State := State.reset.withFetchWord 64 0x0040200400A00000
theorem wit_StepKeepsMemoryCanonical : tabWf 0 run.mem = true ∧ ∃ t, step run = .next t := ⟨by decide, nextOf_some (by decide +kernel)⟩
/-- What the first turn gives its instruction. -/
def atPass (s : State) : State := ((({ s with agenda := [] } : State).pass 0).makeCurrent 0 0 (.vec 1 0 0)).untilPass 0 0 (.vec 1 0 0)
theorem wit_StepRunsTheDecodedInstruction : run.agenda = [⟨0, .rod 0 0⟩] ∧ (({ run with agenda := [] } : State).pass 0).chooseSplit 0 0 = some (.vec 1 0 0) ∧
    (∃ e, (({ run with agenda := [] } : State).pass 0).splitOf (.vec 1 0 0) = some e ∧ e.1.frozen = none) ∧ (atPass run).watchdogDue 0 0 = false ∧
    (∃ i, (atPass run).fetchCur.2 = some i) ∧ ((atPass run).fetchCur.2.all (fun i => ((atPass run).fetchCur.1.partners i 0 0 (.vec 1 0 0)).isEmpty &&
      decide ((({ run with agenda := [] } : State).pass 0).startOf (exec i (atPass run).fetchCur.1) ≤ (({ run with agenda := [] } : State).pass 0).gt))) = true :=
  ⟨by decide, by decide +kernel, ⟨_, rfl, by decide⟩, by decide +kernel, some_of (by decide +kernel), by decide +kernel⟩
/-- A second rank on the rod, at the same PC. -/
def twin (s : State) : State := { s with teams := s.teams.map (fun t => { t with ranks := t.ranks ++ t.ranks.map (fun r => { r with num := 1, slot := 1 }) }) }
/-- What the clause on fused passes asks of the passes that join. -/
def twinRest (ps : List PassPlan) (i : Instr) (s2 : State) : Bool := decide (fusedStart ps ≤ (({ twin run with agenda := [] } : State).pass 0).gt) &&
  (match runTandem i 0 0 s2.gt (.vec 1 0 0) (s2.rod 0 0) (fusedStarts (fusedStart ps) 0 ps) s2 with | .next (y, _) => y.hole.isNone | _ => false)
theorem wit_StepRunsTheDecodedInstruction_tandem : (twin run).agenda = [⟨0, .rod 0 0⟩] ∧ (({ twin run with agenda := [] } : State).pass 0).chooseSplit 0 0 = some (.vec 1 0 0) ∧
    (atPass (twin run)).watchdogDue 0 0 = false ∧ ((atPass (twin run)).fetchCur.2.any (fun i => !((atPass (twin run)).fetchCur.1.partners i 0 0 (.vec 1 0 0)).isEmpty &&
      twinRest ((atPass (twin run)).fetchCur.1.partners i 0 0 (.vec 1 0 0)) i (atPass (twin run)).fetchCur.1)) = true :=
  ⟨by decide, by decide +kernel, by decide +kernel, by decide +kernel⟩
/-- The rod is taken up to tick 5, beside the control thread or without it. -/
def late : State := run.putRod 0 0 { run.rod 0 0 with earliest := 5 }
def lateAlone : State := { late with teams := late.teams.map (fun t => t.withCtl { t.ctl with ended := true }) }
theorem wit_StepRunsTheDecodedInstruction_later : late.agenda = [⟨0, .rod 0 0⟩] ∧ lateAlone.agenda = [⟨0, .rod 0 0⟩] ∧
    ((({ late with agenda := [] } : State).pass 0).rodNext 0 0).map (fun e => e.1) = some 5 ∧ (({ late with agenda := [] } : State).pass 0).gt < 5 ∧
    (({ late with agenda := [] } : State).pass 0).issues.any (fun e => decide (e.1 < 5)) = true ∧
    ((({ lateAlone with agenda := [] } : State).pass 0).rodNext 0 0).map (fun e => e.1) = some 5 ∧ (({ lateAlone with agenda := [] } : State).pass 0).gt < 5 ∧
    (({ lateAlone with agenda := [] } : State).pass 0).issues.any (fun e => decide (e.1 < 5)) = false ∧
    (((({ lateAlone with agenda := [] } : State).pass 0).elapse 5).rodNext 0 0).map (fun e => e.1) = some 5 ∧ (({ late with agenda := [] } : State).pass 0).hole = none ∧
    (({ lateAlone with agenda := [] } : State).pass 0).hole = none :=
  ⟨by decide, by decide, by decide +kernel, by decide +kernel, by decide +kernel, by decide +kernel, by decide +kernel, by decide +kernel, by decide +kernel, by decide +kernel, by decide +kernel⟩
/-- MMA, which only the control stream has, at the control thread's PC. -/
def runCtl : State := State.reset.withFetchWord 64 0x3103102805400007
theorem wit_StepRunsTheDecodedInstruction_ctl : runCtl.agenda = [⟨0, .ctl 0 0⟩] ∧ ((({ runCtl with agenda := [] } : State).pass 0).coreNext 0 0).map (fun e => e.1) = some 0 ∧ (∃ t, step runCtl = .next t) ∧
    (∃ t, runCtl.team 1 = some t ∧ t.frozen = none ∧
      ∃ i, (({ runCtl with agenda := [], cur := .ctl t.uid, gt := max runCtl.gt (max t.ctl.earliest (tabGet 0 (runCtl.pair t.pair).nextCtl t.layer)) } : State).putTeam
        { t with ctl := { t.ctl with wait := .none } }).fetchCur.2 = some i) :=
  ⟨by decide, by decide +kernel, nextOf_some (by decide +kernel), _, rfl, by decide, some_of (by decide +kernel)⟩
theorem wit_OthersLeaveMemory : mayWriteMemory (.fadd (wf 0 4 5 6)) = false ∧ ∃ t, exec (.fadd (wf 0 4 5 6)) vs = .next t := ⟨rfl, nextOf_some (by decide +kernel)⟩

/-! ## Single steps -/

/-- What one step of the placed word leaves. -/
def after (w : Nat) : Option State := nextOf (step (State.reset.withFetchWord 64 w))
/-- The first split of a state, and what its thread 7 holds in a register. -/
def firstPc (s : State) : Option (BitVec 48) := (s.splitOf (.vec 1 0 0)).map (fun e => e.2.2.pc)
/-- The register. -/
def reg7 (s : State) (n : Nat) : Option Word := (s.splitOf (.vec 1 0 0)).map (fun e => (e.2.1.vreg 7 n).val)
/-- LI of v9 writes every thread and goes past its word (spec/12 R265). -/
theorem test_step_li : (after 0x8700480000000005).bind (fun s => reg7 s 9) = some 5 ∧ (after 0x8700480000000005).bind firstPc = some 8 := by decide +kernel
/-- BRA of every thread goes to its own address plus 8 times TGT (spec/11 R239). -/
theorem test_step_bra : (after 0xA800000008000014).bind firstPc = some 0x40 := by decide +kernel
/-- An unassigned opcode in a grid without a handler is a double trap, and the grid fails (spec/18 R376, R381). -/
theorem test_step_illegal : ((after 0x09C0000000000000).map (fun s => s.grids.map (fun g => g.ended))) = some [some (.trapped .illegalOpcode 0x09C00000 (some .illegalOpcode))] := by decide +kernel
end Sys2Proof.Tests.Slice0
end

section
/-! O10 and O11: the capability instructions. A capability is the number of its 128 bits; what an operation leaves of the fields is
arithmetic on that number. -/

namespace Sys2Proof.Machine

/-! ## Fields of a capability as numbers -/

theorem capSpace_eq (c : TCap) : capSpace c = c.bits.toNat / 2 ^ 124 % 2 ^ 4 := by simp [capSpace, bitsAt, Nat.shiftRight_eq_div_pow]
theorem capPerm_eq (c : TCap) : capPerm c = c.bits.toNat / 2 ^ 118 % 2 ^ 6 := by simp [capPerm, bitsAt, Nat.shiftRight_eq_div_pow]
theorem capG_eq (c : TCap) : capG c = c.bits.toNat / 2 ^ 114 % 2 ^ 4 := by simp [capG, bitsAt, Nat.shiftRight_eq_div_pow]
theorem capL_eq (c : TCap) : capL c = c.bits.toNat / 2 ^ 88 % 2 ^ 26 := by simp [capL, bitsAt, Nat.shiftRight_eq_div_pow]
theorem capBottom_eq (c : TCap) : capBottom c = c.bits.toNat / 2 ^ 48 % 2 ^ 40 * 256 := by simp [capBottom, bitsAt, Nat.shiftRight_eq_div_pow]
theorem capCursor_eq (c : TCap) : capCursor c = c.bits.toNat % 2 ^ 48 := by simp [capCursor, bitsAt]

/-- The number of two bit vectors joined. -/
theorem toNat_append_add {n m : Nat} (a : BitVec n) (b : BitVec m) : (a ++ b).toNat = a.toNat * 2 ^ m + b.toNat := by
  rw [BitVec.toNat_append, ← Nat.shiftLeft_add_eq_or_of_lt b.isLt, Nat.shiftLeft_eq]

theorem capMake_toNat (space perm g l base cursor : Nat) : (capMake space perm g l base cursor).toNat =
    space % 2 ^ 4 * 2 ^ 124 + perm % 2 ^ 6 * 2 ^ 118 + g % 2 ^ 4 * 2 ^ 114 + l % 2 ^ 26 * 2 ^ 88 + base % 2 ^ 40 * 2 ^ 48 + cursor % 2 ^ 48 := by
  simp only [capMake, toNat_append_add, BitVec.toNat_ofNat]
  omega

theorem capSetCursor_toNat (c : TCap) (v : Nat) : (capSetCursor c v).bits.toNat = c.bits.toNat / 2 ^ 48 * 2 ^ 48 + v % 2 ^ 48 := by
  have := c.bits.isLt
  simp only [capSetCursor, toNat_append_add, BitVec.toNat_ofNat, BitVec.extractLsb'_toNat, Nat.shiftRight_eq_div_pow]
  omega

theorem capNarrow_toNat (c : TCap) (mask : Nat) : (capNarrow c mask).bits.toNat =
    c.bits.toNat / 2 ^ 124 * 2 ^ 124 + (capPerm c &&& mask % 2 ^ 6) * 2 ^ 118 + c.bits.toNat % 2 ^ 118 := by
  have := c.bits.isLt
  simp only [capNarrow, toNat_append_add, BitVec.toNat_and, BitVec.toNat_ofNat, BitVec.extractLsb'_toNat, Nat.shiftRight_eq_div_pow, capPerm_eq]
  omega


/-- A capability with another cursor keeps its TAG and its upper 80 bits (R23). -/
theorem capSetCursor_fields (c : TCap) (v : Nat) : (capSetCursor c v).tag = c.tag ∧ (capSetCursor c v).bits.toNat / 2 ^ 48 = c.bits.toNat / 2 ^ 48 ∧
    capCursor (capSetCursor c v) = v % 2 ^ 48 := by
  refine ⟨rfl, ?_, ?_⟩
  · rw [capSetCursor_toNat]; omega
  · rw [capCursor_eq, capSetCursor_toNat]; omega

theorem capNarrow_perm (c : TCap) (mask : Nat) : capPerm (capNarrow c mask) = capPerm c &&& mask % 2 ^ 6 := by
  have hlt : capPerm c &&& mask % 2 ^ 6 < 2 ^ 6 := Nat.and_lt_two_pow _ (Nat.mod_lt _ (by decide))
  rw [capPerm_eq (capNarrow c mask), capNarrow_toNat]
  omega

/-- A narrowed capability keeps its TAG and every bit but its permissions (R23). -/
theorem capNarrow_fields (c : TCap) (mask : Nat) : (capNarrow c mask).tag = c.tag ∧ (capNarrow c mask).bits.toNat % 2 ^ 118 = c.bits.toNat % 2 ^ 118 ∧
    (capNarrow c mask).bits.toNat / 2 ^ 124 = c.bits.toNat / 2 ^ 124 := by
  have hlt : capPerm c &&& mask % 2 ^ 6 < 2 ^ 6 := Nat.and_lt_two_pow _ (Nat.mod_lt _ (by decide))
  refine ⟨rfl, ?_, ?_⟩ <;> rw [capNarrow_toNat] <;> omega

/-! ## Capabilities that reach no further than another -/

/-- A capability reaches no further than a tagged one it was made from (R13, R22, R23). -/
def CapWithin (c a : TCap) : Prop :=
  a.tag = true ∧ capBottom a ≤ capBottom c ∧ capTop c ≤ capTop a ∧ (∀ k, (capPerm c).testBit k = true → (capPerm a).testBit k = true) ∧
    (capSpace c = capSpace a ∨ (capSpace a = 1 ∧ capSpace c = 4))

/-- A capability with the bounds and the space of a tagged one, and no permission that it lacks, reaches no further. -/
theorem CapWithin.of_same_bounds {c a : TCap} (ht : a.tag = true) (hb : capBottom c = capBottom a) (hl : capLen c = capLen a)
    (hs : capSpace c = capSpace a) (hp : ∀ k, (capPerm c).testBit k = true → (capPerm a).testBit k = true) : CapWithin c a :=
  ⟨ht, hb.ge, by rw [capTop, capTop, hb, hl], hp, .inl hs⟩

theorem capSetCursor_within {c : TCap} (v : Nat) (ht : c.tag = true) : CapWithin (capSetCursor c v) c := by
  obtain ⟨-, hu, -⟩ := capSetCursor_fields c v
  refine .of_same_bounds ht ?_ ?_ ?_ (fun k hk => ?_)
  · rw [capBottom_eq, capBottom_eq, hu]
  · have hl : capL (capSetCursor c v) = capL c := by rw [capL_eq, capL_eq]; omega
    have hg : capG (capSetCursor c v) = capG c := by rw [capG_eq, capG_eq]; omega
    rw [capLen, capLen, hl, hg]
  · rw [capSpace_eq, capSpace_eq]; omega
  · rwa [show capPerm (capSetCursor c v) = capPerm c by rw [capPerm_eq, capPerm_eq]; omega] at hk

theorem capNarrow_within {c : TCap} (mask : Nat) (ht : c.tag = true) : CapWithin (capNarrow c mask) c := by
  obtain ⟨-, hlo, hhi⟩ := capNarrow_fields c mask
  refine .of_same_bounds ht ?_ ?_ ?_ (fun k hk => ?_)
  · rw [capBottom_eq, capBottom_eq]; omega
  · have hl : capL (capNarrow c mask) = capL c := by rw [capL_eq, capL_eq]; omega
    have hg : capG (capNarrow c mask) = capG c := by rw [capG_eq, capG_eq]; omega
    rw [capLen, capLen, hl, hg]
  · rw [capSpace_eq, capSpace_eq]; omega
  · rw [capNarrow_perm, Nat.testBit_and, Bool.and_eq_true] at hk
    exact hk.1

/-! ## Derivation -/

/-- The scale that a span gets is the greatest, or leaves a mantissa of 26 bits (R22). -/
theorem deriveG_spec (span : Nat) : deriveG span < 16 ∧ (ceilDiv span (2 ^ (8 + deriveG span)) < 2 ^ 26 ∨ deriveG span = 15) := by
  unfold deriveG findBelow
  cases h : (List.range 16).find? (fun g => decide (ceilDiv span (2 ^ (8 + g)) < 2 ^ 26)) with
  | none => exact ⟨by decide, .inr rfl⟩
  | some g => exact ⟨List.mem_range.1 (List.mem_of_find?_eq_some h), .inl (by simpa using List.find?_some h)⟩

/-- The scaled mantissa of a span covers it. -/
theorem le_ceilDiv_mul (n : Nat) {k : Nat} (hk : 0 < k) : n ≤ ceilDiv n k * k := by
  unfold ceilDiv
  have := Nat.div_add_mod (n + k - 1) k
  have := Nat.mod_lt (n + k - 1) hk
  rw [Nat.mul_comm]
  omega

/-- The greatest length that a capability can have (R11). -/
theorem capLen_le (c : TCap) : capLen c ≤ (2 ^ 26 - 1) * 2 ^ 23 := by
  have hl : capL c ≤ 2 ^ 26 - 1 := by rw [capL_eq]; omega
  have hg : 8 + capG c ≤ 23 := by rw [capG_eq]; omega
  rw [capLen, Nat.shiftLeft_eq]
  exact Nat.mul_le_mul hl (Nat.pow_le_pow_right (by decide) hg)

/-- The permissions that a derivation leaves (R22): those of the parent under the mask, and of space 4 those that only read. -/
def derivedPerm (parent : TCap) (space mask : Nat) : Nat :=
  if space = 4 then capPerm parent &&& mask &&& 0b001101 else capPerm parent &&& mask

/-- What a derivation gives (R22): the conditions it has checked, and the fields of the child. -/
structure Derived (parent : TCap) (base len space mask : Nat) (c : TCap) : Prop where
  tagged : parent.tag = true
  space_le : 1 ≤ space ∧ space ≤ 5
  space_from : space = capSpace parent ∨ (capSpace parent = 1 ∧ space = 4)
  bottom : capBottom c = base / 256 * 256
  covers : base + len ≤ capTop c
  inside : capBottom parent ≤ capBottom c ∧ capTop c ≤ capTop parent
  tag : c.tag = true
  cursor : capCursor c = base
  space_eq : capSpace c = space
  perm : capPerm c = derivedPerm parent space mask

/-- The fields of a capability made from fields that fit. -/
theorem capMake_fields {space perm g l base cursor : Nat} (hs : space < 2 ^ 4) (hp : perm < 2 ^ 6) (hg : g < 2 ^ 4) (hl : l < 2 ^ 26)
    (hb : base < 2 ^ 40) (hc : cursor < 2 ^ 48) (c : TCap) (h : c.bits = capMake space perm g l base cursor) :
    capSpace c = space ∧ capPerm c = perm ∧ capBottom c = base * 256 ∧ capTop c = base * 256 + l <<< (8 + g) ∧ capCursor c = cursor := by
  have hn := capMake_toNat space perm g l base cursor
  rw [← h] at hn
  have hG : capG c = g := by rw [capG_eq]; omega
  have hL : capL c = l := by rw [capL_eq]; omega
  have hB : capBottom c = base * 256 := by rw [capBottom_eq]; omega
  refine ⟨?_, ?_, hB, ?_, ?_⟩
  · rw [capSpace_eq]; omega
  · rw [capPerm_eq]; omega
  · rw [capTop, capLen, hB, hG, hL]
  · rw [capCursor_eq]; omega

theorem derivedPerm_lt (parent : TCap) (space mask : Nat) : derivedPerm parent space mask < 2 ^ 6 := by
  have h : capPerm parent &&& mask < 2 ^ 6 := lt_of_le_of_lt Nat.and_le_left (by rw [capPerm_eq]; omega)
  unfold derivedPerm
  split
  · exact lt_of_le_of_lt Nat.and_le_left h
  · exact h

/-- What a derivation that succeeds has checked, and what it made. -/
theorem capDerive_derived {parent c : TCap} {base len space mask : Nat} (h : capDerive parent base len space mask = .ok c) :
    Derived parent base len space mask c := by
  unfold capDerive at h
  simp only [Bool.not_eq_true'] at h
  split at h
  · cases h
  rename_i htag
  split at h
  · cases h
  rename_i hspace
  split at h
  · cases h
  rename_i hreq
  split at h
  · cases h
  rename_i hin
  simp only [Except.ok.injEq] at h
  obtain ⟨hg, hmant⟩ := deriveG_spec (base + len - base / 256 * 256)
  have hcover := le_ceilDiv_mul (base + len - base / 256 * 256) (Nat.two_pow_pos (8 + deriveG (base + len - base / 256 * 256)))
  generalize deriveG (base + len - base / 256 * 256) = g at *
  generalize ceilDiv (base + len - base / 256 * 256) (2 ^ (8 + g)) = l at *
  have hl : l < 2 ^ 26 := by
    rcases hmant with hl | rfl
    · exact hl
    · have := capLen_le parent
      rw [Nat.shiftLeft_eq, capTop] at hin
      omega
  obtain ⟨hs, hp, hb, ht, hc⟩ := capMake_fields (space := space) (perm := derivedPerm parent space mask) (by omega) (derivedPerm_lt parent space mask) hg hl
    (by omega : base / 256 < 2 ^ 40) (by omega : base < 2 ^ 48) c (by rw [← h, derivedPerm])
  rw [Nat.shiftLeft_eq] at hin ht
  exact { tagged := by simpa using htag, space_le := by omega, space_from := by omega, bottom := hb, covers := by omega, inside := by omega,
          tag := by rw [← h], cursor := hc, space_eq := hs, perm := hp }

theorem capDerive_within {parent c : TCap} {base len space mask : Nat} (h : capDerive parent base len space mask = .ok c) : CapWithin c parent := by
  have d := capDerive_derived h
  refine ⟨d.tagged, d.inside.1, d.inside.2, fun k hk => ?_, by rw [d.space_eq]; exact d.space_from⟩
  rw [d.perm, derivedPerm] at hk
  split at hk <;> simp only [Nat.testBit_and, Bool.and_eq_true] at hk
  · exact hk.1.1
  · exact hk.1

/-! ## Instructions that make no capability -/

/-- The register instructions whose result may carry a TAG (R267, R268). -/
def makesCap : Instr → Bool
  | .cderive _ | .caim _ | .cstep _ | .cnarrow _ => true
  | _ => false

/-- An operation on registers has no result with a TAG. -/
def Untagged (op : Nat → Src → Except Trap Res) : Prop := ∀ m x, (op m x).toOption.any (fun r => r.val.tag) = false

theorem cvtwOp_untagged : Untagged cvtwOp := fun m x => by
  unfold cvtwOp
  dsimp only
  split <;> rfl

theorem cvtnOp_untagged : Untagged cvtnOp := fun m x => by
  unfold cvtnOp
  dsimp only
  split
  · rfl
  · split <;> rfl

theorem dotOp_untagged (four : Bool) : Untagged (dotOp four) := fun m x => by
  unfold dotOp
  dsimp only
  split <;> rfl

/-- An instruction whose operation has no tagged result gives none. -/
theorem resultOf_untagged_of {i : Instr} {q : AluSpec} {w : FWord} {y : Option XWord} (h : aluOf i = some (q, w, y)) (hq : Untagged q.op) (x : Src) :
    (resultOf i x).any TCap.tag = false := by
  have hx := hq (modOf q w) x
  simp only [resultOf, h]
  cases hop : q.op (modOf q w) x with
  | error t => rfl
  | ok r => rwa [hop] at hx

/-- An instruction gives what its operation gives. -/
theorem resultOf_of_op {i : Instr} {q : AluSpec} {w : FWord} {y : Option XWord} {x : Src} {r : Res} (h : aluOf i = some (q, w, y))
    (hop : q.op (modOf q w) x = .ok r) : resultOf i x = some r.val := by simp only [resultOf, h, hop]

/-- An instruction whose operation traps gives nothing. -/
theorem resultOf_of_error {i : Instr} {q : AluSpec} {w : FWord} {y : Option XWord} {x : Src} {t : Trap} (h : aluOf i = some (q, w, y))
    (hop : q.op (modOf q w) x = .error t) : resultOf i x = none := by simp only [resultOf, h, hop]

/-- Only CDERIVE, CAIM, CSTEP and CNARROW give a value with its TAG set (R16, R23). -/
theorem resultOf_untagged {i : Instr} (h : makesCap i = false) (x : Src) : (resultOf i x).any TCap.tag = false := by
  cases i with
  | cderive _ | caim _ | cstep _ | cnarrow _ => cases h
  | cvtw w => exact resultOf_untagged_of (i := .cvtw w) rfl cvtwOp_untagged x
  | cvtn w => exact resultOf_untagged_of (i := .cvtn w) rfl cvtnOp_untagged x
  | dot4 w => exact resultOf_untagged_of (i := .dot4 w) rfl (dotOp_untagged false) x
  | dot8 w => exact resultOf_untagged_of (i := .dot8 w) rfl (dotOp_untagged true) x
  | cprobe w =>
    refine resultOf_untagged_of (i := .cprobe w) rfl (fun m x => ?_) x
    split <;> rfl
  | _ => rfl

/-- A result of any other instruction has no TAG. -/
theorem tag_of_resultOf {i : Instr} {x : Src} {c : TCap} (h : resultOf i x = some c) (hm : makesCap i = false) : c.tag = false := by
  have hu := resultOf_untagged hm x
  rwa [h] at hu

/-! ## What the capability instructions give -/

/-- CDERIVE gives what the derivation gives of its operands (R267). -/
theorem specCderive_op (m : Nat) (x : Src) : specCderive.op m x =
    (capDerive x.a (x.b.bits.toNat % 2 ^ 64) (x.b.bits.toNat / 2 ^ 64) (m / 64 % 16) (m % 64)).bind okC := by
  have hlo : (x.b.bits.extractLsb' 0 64).toNat = x.b.bits.toNat % 2 ^ 64 := by simp
  have hhi : (x.b.bits.extractLsb' 64 64).toNat = x.b.bits.toNat / 2 ^ 64 := by
    have := x.b.bits.isLt
    rw [BitVec.extractLsb'_toNat, Nat.shiftRight_eq_div_pow]
    omega
  have hs : bitsAt m 6 4 = m / 64 % 16 := by simp [bitsAt, Nat.shiftRight_eq_div_pow]
  have hm : bitsAt m 0 6 = m % 64 := by simp [bitsAt]
  rw [← hlo, ← hhi, ← hs, ← hm]
  simp only [specCderive, capBase, intBase]
  cases capDerive x.a (x.b.bits.extractLsb' 0 64).toNat (x.b.bits.extractLsb' 64 64).toNat (bitsAt m 6 4) (bitsAt m 0 6) <;> rfl

/-- A derivation's error is CDERIVE's. -/
theorem specCderive_error {m : Nat} {x : Src} {k : TrapCode}
    (h : ∃ t, capDerive x.a (x.b.bits.toNat % 2 ^ 64) (x.b.bits.toNat / 2 ^ 64) (m / 64 % 16) (m % 64) = .error t ∧ t.code = k) :
    ∃ t, specCderive.op m x = .error t ∧ t.code = k := by
  obtain ⟨t, ht, hk⟩ := h
  exact ⟨t, by rw [specCderive_op, ht]; rfl, hk⟩

/-- What CDERIVE gives where it does not trap. -/
theorem resultOf_cderive {w : FWord} {x : Src} {c : TCap} (h : resultOf (.cderive w) x = some c) :
    capDerive x.a (x.b.bits.toNat % 2 ^ 64) (x.b.bits.toNat / 2 ^ 64) (w.md.toNat / 64 % 16) (w.md.toNat % 64) = .ok c := by
  have hop := specCderive_op w.md.toNat x
  cases hd : capDerive x.a (x.b.bits.toNat % 2 ^ 64) (x.b.bits.toNat / 2 ^ 64) (w.md.toNat / 64 % 16) (w.md.toNat % 64) with
  | error t =>
    rw [hd] at hop
    have hnone : resultOf (.cderive w) x = none := resultOf_of_error (i := .cderive w) rfl hop
    rw [hnone] at h
    cases h
  | ok d =>
    rw [hd] at hop
    have hsome : resultOf (.cderive w) x = some d := resultOf_of_op (i := .cderive w) rfl hop
    rw [hsome] at h
    cases h
    rfl

theorem resultOf_caim (w : FWord) (x : Src) : resultOf (.caim w) x = some (capSetCursor x.a ((lo64 x.b).toNat % 2 ^ 48)) := rfl

theorem resultOf_cnarrow (w : FWord) (x : Src) : resultOf (.cnarrow w) x = some (capNarrow x.a ((lo32 x.b).toNat % 64)) := rfl

/-- CSTEP's signed step (R268). -/
def cstepInc (w : FWord) (x : Src) : Int := if w.md.getLsbD 0 then (lo64 x.b).toInt else (lo32 x.b).toInt

theorem testBit_zero_mod_2048 (n : Nat) : (n % 2048).testBit 0 = n.testBit 0 := by
  rw [show (2048 : Nat) = 2 ^ 11 from rfl, Nat.testBit_mod_two_pow]; rfl

/-- CSTEP moves the cursor alone, whether or not its word is legal (R268). -/
theorem resultOf_cstep (w : FWord) (x : Src) :
    resultOf (.cstep w) x = some (capSetCursor x.a (((capCursor x.a : Int) + cstepInc w x) % ((2 ^ 48 : Nat) : Int)).toNat) := by
  have hbit : bitAt (w.md.toNat % 2048) 0 = w.md.getLsbD 0 := testBit_zero_mod_2048 w.md.toNat
  have hop : cstepOp (w.md.toNat % 2048) x = okC (capSetCursor x.a (((capCursor x.a : Int) + cstepInc w x) % ((2 ^ 48 : Nat) : Int)).toNat) := by
    rw [cstepOp, hbit]; rfl
  exact resultOf_of_op (i := .cstep w) rfl (by split <;> exact hop)

/-- CPROBE tests under its modifier, with or without BI (R270). -/
theorem resultOf_cprobe {w : FWord} {test : Nat} (x : Src) (h : w.md.toNat % 2048 = test) (h0 : test % 8 = 0 → w.md.getLsbD 11 = false) :
    resultOf (.cprobe w) x = some (valP (capProbe test (lo32 x.b).toNat x.a)) := by
  refine resultOf_of_op (i := .cprobe w) (r := ⟨valP (capProbe test (lo32 x.b).toNat x.a), none⟩) rfl ?_
  split
  · rename_i hb
    have hlow : test % 8 = 0 := by rw [← h]; simp [bitsAt] at hb; omega
    have hmd : w.md.toNat = test := by
      have := h0 hlow
      rw [BitVec.getLsbD, Nat.testBit_eq_decide_div_mod_eq] at this
      have := w.md.isLt
      simp at *
      omega
    rw [← hmd]; rfl
  · rw [← h]; rfl

theorem resultOf_cfloor (w : FWord) (x : Src) : resultOf (.cfloor w) x = some (val64 (BitVec.ofNat 64 (capBottom x.a))) := rfl
theorem resultOf_cspan (w : FWord) (x : Src) : resultOf (.cspan w) x = some (val64 (BitVec.ofNat 64 (capLen x.a))) := rfl
theorem resultOf_cwhere (w : FWord) (x : Src) : resultOf (.cwhere w) x = some (val64 (BitVec.ofNat 64 (capCursor x.a))) := rfl
theorem resultOf_ckind (w : FWord) (x : Src) : resultOf (.ckind w) x = some (val32 (BitVec.ofNat 32 (capKind x.a))) := rfl

/-- A result that is a number below 2^64. -/
theorem gives64_number {i : Instr} {x : Src} {n : Nat} (h : resultOf i x = some (val64 (BitVec.ofNat 64 n))) (hn : n < 2 ^ 64) :
    Gives64 i x (fun v => v.toNat = n) := ⟨_, h, Nat.mod_eq_of_lt hn⟩

/-- The permissions of a capability hold some when they have every bit of them (R270). -/
theorem permHas_iff (perm n : Nat) : permHas perm (n % 64) = (List.range 6).all (fun k => !n.testBit k || perm.testBit k) := by
  have hmask : ∀ k, (n % 64).testBit k = (decide (k < 6) && n.testBit k) := fun k => by
    rw [show (64 : Nat) = 2 ^ 6 from rfl, Nat.testBit_mod_two_pow]
  rw [Bool.eq_iff_iff]
  simp only [permHas, beq_iff_eq, List.all_eq_true, List.mem_range, Bool.or_eq_true, Bool.not_eq_true']
  constructor
  · intro h k hk
    have := congrArg (fun v => v.testBit k) h
    simp only [Nat.testBit_and, hmask, hk, decide_true, Bool.true_and] at this
    cases hn : n.testBit k <;> simp_all
  · intro h
    refine Nat.eq_of_testBit_eq (fun k => ?_)
    rw [Nat.testBit_and, hmask]
    by_cases hk : k < 6
    · rcases h k hk with hn | hp <;> simp [*]
    · simp [hk]

/-! ## Where a derivation stops -/

theorem capDerive_untagged {p : TCap} (h : p.tag = false) (b l s m : Nat) : ∃ t, capDerive p b l s m = .error t ∧ t.code = .capTag := by
  simp [capDerive, h, capTrap]

theorem capDerive_space {p : TCap} (h : p.tag = true) {s : Nat} (hs : s = 0 ∨ 5 < s ∨ (s ≠ capSpace p ∧ ¬ (capSpace p = 1 ∧ s = 4))) (b l m : Nat) :
    ∃ t, capDerive p b l s m = .error t ∧ t.code = .capPerm := by
  have hbad : s = 0 ∨ 6 ≤ s ∨ ¬ (s = capSpace p ∨ (capSpace p = 1 ∧ s = 4)) := by omega
  exact ⟨capTrap .capPerm 1 (b : Int) p, by simp only [capDerive, h, if_pos hbad]; rfl, rfl⟩

theorem capDerive_bounds {p : TCap} (h : p.tag = true) {s b l : Nat} (h1 : 1 ≤ s) (h5 : s ≤ 5) (hs : s = capSpace p)
    (hr : b < capBottom p ∨ capTop p < b + l) (m : Nat) : ∃ t, capDerive p b l s m = .error t ∧ t.code = .capBounds := by
  have hgood : ¬ (s = 0 ∨ 6 ≤ s ∨ ¬ (s = capSpace p ∨ (capSpace p = 1 ∧ s = 4))) := by omega
  refine ⟨capTrap .capBounds 2 (b : Int) p, ?_, rfl⟩
  simp only [capDerive, h, Bool.not_true, Bool.false_eq_true, if_false, if_neg hgood]
  split
  · rfl
  · have hcover := le_ceilDiv_mul (b + l - b / 256 * 256) (Nat.two_pow_pos (8 + deriveG (b + l - b / 256 * 256)))
    rw [if_pos]
    rw [Nat.shiftLeft_eq]
    omega

/-- The permissions that CDERIVE leaves, bit by bit (R22). -/
theorem derivedPerm_testBit (p : TCap) (space n k : Nat) : (derivedPerm p space (n % 64)).testBit k =
    ((capPerm p).testBit k && n.testBit k && decide (k < 6) && (decide (space ≠ 4) || decide (k ∈ [0, 2, 3]))) := by
  have hmask : (n % 64).testBit k = (decide (k < 6) && n.testBit k) := by
    rw [show (64 : Nat) = 2 ^ 6 from rfl, Nat.testBit_mod_two_pow]
  by_cases hk : k < 6
  · unfold derivedPerm
    by_cases h4 : space = 4
    · rw [if_pos h4, Nat.testBit_and, Nat.testBit_and, hmask]
      interval_cases k <;> simp [h4, Nat.testBit, Bool.and_comm]
    · rw [if_neg h4, Nat.testBit_and, hmask]; simp [hk, h4]
  · have h0 : (derivedPerm p space (n % 64)).testBit k = false :=
      Nat.testBit_lt_two_pow (lt_of_lt_of_le (derivedPerm_lt p space (n % 64)) (Nat.pow_le_pow_right (by decide) (by omega)))
    simp [hk, h0]

/-! ## The obligations -/

/-- Settles O10, by cases on whether the instruction is one of the four that give a TAG. -/
theorem capabilitiesAreNotForged : Obligations.CapabilitiesAreNotForged := by
  unfold Obligations.CapabilitiesAreNotForged
  intro i x c h ht
  show CapWithin c x.a
  cases i with
  | cderive w => exact capDerive_within (resultOf_cderive h)
  | caim w =>
    obtain rfl : _ = c := Option.some.inj ((resultOf_caim w x).symm.trans h)
    exact capSetCursor_within _ ht
  | cstep w =>
    obtain rfl : _ = c := Option.some.inj ((resultOf_cstep w x).symm.trans h)
    exact capSetCursor_within _ ht
  | cnarrow w =>
    obtain rfl : _ = c := Option.some.inj ((resultOf_cnarrow w x).symm.trans h)
    exact capNarrow_within _ ht
  | _ =>
    exact absurd ht (by rw [tag_of_resultOf h rfl]; decide)

/-- CDERIVE derives or stops as R267 says. -/
theorem cderive_results (w : FWord) (x : Src) (base len space : Nat) (hbase : base = x.b.bits.toNat % 2 ^ 64) (hlen : len = x.b.bits.toNat / 2 ^ 64)
    (hspace : space = w.md.toNat / 64 % 16) :
    (∀ c, resultOf (.cderive w) x = some c → c.tag = true ∧ capCursor c = base ∧ capBottom c ≤ base ∧ base + len ≤ capTop c ∧ capSpace c = space ∧
      (∀ k, (capPerm c).testBit k = ((capPerm x.a).testBit k && w.md.getLsbD k && decide (k < 6) && (decide (space ≠ 4) || decide (k ∈ [0, 2, 3]))))) ∧
    (x.a.tag = false → ∃ t, specCderive.op w.md.toNat x = .error t ∧ t.code = .capTag) ∧
    (x.a.tag = true → (space = 0 ∨ 5 < space ∨ (space ≠ capSpace x.a ∧ ¬ (capSpace x.a = 1 ∧ space = 4))) →
      ∃ t, specCderive.op w.md.toNat x = .error t ∧ t.code = .capPerm) ∧
    (x.a.tag = true → 1 ≤ space → space ≤ 5 → space = capSpace x.a → (base < capBottom x.a ∨ capTop x.a < base + len) →
      ∃ t, specCderive.op w.md.toNat x = .error t ∧ t.code = .capBounds) := by
  subst hbase hlen hspace
  refine ⟨fun c h => ?_, fun h => specCderive_error (capDerive_untagged h _ _ _ _), fun h hs => specCderive_error (capDerive_space h hs _ _ _),
    fun h h1 h5 hs hr => specCderive_error (capDerive_bounds h h1 h5 hs hr _)⟩
  have d := capDerive_derived (resultOf_cderive h)
  refine ⟨d.tag, d.cursor, by have := d.bottom; omega, d.covers, d.space_eq, fun k => ?_⟩
  rw [d.perm, derivedPerm_testBit]
  rfl

/-- CSTEP's cursor as an exact sum (R268). -/
theorem cstep_cursor (a inc : Int) : (((a + inc) % ((2 ^ 48 : Nat) : Int)).toNat % 2 ^ 48 : Nat) = (a + inc) % 2 ^ 48 := by omega

/-- Settles O11, each instruction by what its operation leaves of the fields. -/
theorem capabilityResults : Obligations.CapabilityResults := by
  unfold Obligations.CapabilityResults
  intro w x
  have hbottom : capBottom x.a < 2 ^ 48 := by rw [capBottom_eq]; omega
  have hlen := capLen_le x.a
  have hperm : capPerm x.a < 2 ^ 6 := by rw [capPerm_eq]; omega
  have hspace : capSpace x.a < 2 ^ 4 := by rw [capSpace_eq]; omega
  refine ⟨fun base len space hb hl hs => cderive_results w x base len space hb hl hs, ?_, ?_, ?_, ?_, ?_, ?_, ?_, fun h0 h11 => ?_, fun h1 => ?_, fun h2 => ?_⟩
  · obtain ⟨ht, hu, hc⟩ := capSetCursor_fields x.a ((lo64 x.b).toNat % 2 ^ 48)
    exact ⟨_, resultOf_caim w x, ht, hu, by rw [hc, Nat.mod_mod]⟩
  · obtain ⟨ht, hu, hc⟩ := capSetCursor_fields x.a (((capCursor x.a : Int) + cstepInc w x) % ((2 ^ 48 : Nat) : Int)).toNat
    exact ⟨_, resultOf_cstep w x, ht, hu, by rw [hc]; exact cstep_cursor _ _⟩
  · obtain ⟨ht, hlo, hhi⟩ := capNarrow_fields x.a ((lo32 x.b).toNat % 64)
    refine ⟨_, resultOf_cnarrow w x, ht, hlo, hhi, fun k hk => ?_⟩
    rw [capNarrow_perm, Nat.testBit_and, show (64 : Nat) = 2 ^ 6 from rfl, Nat.mod_mod, Nat.testBit_mod_two_pow, decide_eq_true hk, Bool.true_and]
    rfl
  · exact gives64_number (resultOf_cfloor w x) (by omega)
  · rw [show capTop x.a - capBottom x.a = capLen x.a by rw [capTop]; omega]
    exact gives64_number (resultOf_cspan w x) (by omega)
  · rw [← capCursor_eq]
    exact gives64_number (resultOf_cwhere w x) (by rw [capCursor_eq]; omega)
  · have hkind : capKind x.a = capSpace x.a + 2 ^ 4 * capPerm x.a + 2 ^ 10 * x.a.tag.toNat := by unfold capKind; cases x.a.tag <;> simp
    have htag : x.a.tag.toNat ≤ 1 := Bool.toNat_le _
    exact ⟨_, resultOf_ckind w x, (Nat.mod_eq_of_lt (by omega)).trans hkind⟩
  · exact resultOf_cprobe x h0 (fun _ => h11)
  · rw [resultOf_cprobe x h1 (by simp)]
    simp [capProbe, Bool.and_assoc]
  · rw [resultOf_cprobe x h2 (by simp)]
    simp only [capProbe, permHas_iff]
    rfl

end Sys2Proof.Machine
end

section
/-! O25: memory passes of the vector stream. The pass is what its checks, its issue and its walk leave; the instruction's own part is
the pass of `memOf`. -/

namespace Sys2Proof.Machine

theorem sent_hole (f : Foc) (lo : Nat) (ps : List Nat) : (f.sent lo ps).s.hole = f.s.hole := rfl

/-- A memory instruction runs its pass of `memOf` in the vector stream (R290). -/
theorem exec_memOf {i : Instr} {q : MemPass} {g : BitVec 3} {gn : Bool} (h : memOf i = some (q, g, gn)) (s : State) :
    ∃ ctl, exec i s = answer (byStream s (memVec q g gn) ctl) := by
  cases i with
  | ld _ | ldf _ | ldcap _ | st _ | stcap _ | stf _ | atom _ | pref _ => cases h; exact ⟨_, rfl⟩
  | _ => cases h

/-- A memory pass past its checks whose walk stops: the threads below have committed, and the stop is taken at its thread (R28). -/
theorem memVec_stops {q : MemPass} {g : BitVec 3} {gn : Bool} {f h : Foc} {p : Nat} {st : Stop} (hok : q.spec.ok = true)
    (hc : Clear f (f.members g.toNat gn) q.spec.named q.spec.waits)
    (hl : memLoop q (f.members g.toNat gn) (f.issue clsPer q.reads q.writes (f.members g.toNat gn) false) = (h, some (p, st))) :
    memVec q g gn f = (h.sent f.s.nextId (f.members g.toNat gn)).stopAt (f.members g.toNat gn) p st := by
  unfold memVec
  dsimp only
  rw [admit_none hok hc]
  dsimp only
  rw [hl]
  rfl

/-- A memory pass past its checks whose walk meets nothing: it issues, walks its threads, and goes past its word (R291). -/
theorem memVec_goes_on {q : MemPass} {g : BitVec 3} {gn : Bool} {f : Foc} (hok : q.spec.ok = true)
    (hc : Clear f (f.members g.toNat gn) q.spec.named q.spec.waits)
    (hl : (memLoop q (f.members g.toNat gn) (f.issue clsPer q.reads q.writes (f.members g.toNat gn) false)).2 = none) :
    memVec q g gn f = ((memLoop q (f.members g.toNat gn) (f.issue clsPer q.reads q.writes (f.members g.toNat gn) false)).1.sent f.s.nextId
      (f.members g.toNat gn)).done := by
  unfold memVec
  dsimp only
  rw [admit_none hok hc]
  dsimp only
  generalize memLoop q (f.members g.toNat gn) (f.issue clsPer q.reads q.writes (f.members g.toNat gn) false) = r at *
  obtain ⟨h, stop⟩ := r
  subst hl
  rfl

/-- Settles O25: the pass goes on where its walk meets nothing, and takes the trap of the first thread that stops. -/
theorem vectorMemoryPasses : Obligations.VectorMemoryPasses := by
  unfold Obligations.VectorMemoryPasses
  intro i q g gn s f hi hv hok hc
  obtain ⟨ctl, hex⟩ := exec_memOf hi s
  have hs := focus_spec hv.foc
  refine ⟨fun hw => ?_, fun h p tr hl hh hviol howner hbrk => ?_⟩
  · refine vec_runs (c := clsPer) (rd := q.reads) (wr := q.writes) (act := f.members g.toNat gn) (u := false) hv hex ?_ (fun now rod => ?_)
    · obtain ⟨now, rod, hissue⟩ := issue_eq f clsPer q.reads q.writes (f.members g.toNat gn) false
      have hnone := (hw now rod).1
      rw [← hs, ← hissue] at hnone
      rw [memVec_goes_on hok hc hnone, hs]
    · rw [done_hole, sent_hole]
      exact (hw now rod).2
  · rw [hex, byStream_vec hv.foc, memVec_stops hok hc hl, hs, Foc.stopAt, trap_plain hviol howner hbrk, answer_next]
    rw [deliver_hole, sent_hole, hh]

end Sys2Proof.Machine
end

section
/-! O27: accesses at commit. An access is checked, planned and sent in this order, and each step says what the next one works on. -/

namespace Sys2Proof.Machine

/-! ## The unit of an access -/

/-- The unit of an access changes its address and its length alone (R209, R290). -/
theorem elemUnit_keeps {s : State} {a b : MemReq} {u n : Nat} (h : s.elemUnit a u = (b, n)) :
    b.c = a.c ∧ b.who = a.who ∧ b.q = a.q ∧ b.m = a.m ∧ b.res = a.res ∧ (n = u ∨ n = 1) := by
  unfold State.elemUnit at h
  dsimp only at h
  split at h
  · cases h; exact ⟨rfl, rfl, rfl, rfl, rfl, .inr rfl⟩
  · split at h <;> cases h
    · exact ⟨rfl, rfl, rfl, rfl, rfl, .inr rfl⟩
    · exact ⟨rfl, rfl, rfl, rfl, rfl, .inl rfl⟩

/-- Where the unit of an index lies on a format page, one element is the unit (R209). -/
theorem elemUnit_on_format {s : State} {a b : MemReq} {u n : Nat} (h : s.elemUnit a u = (b, n))
    (hf : s.formatAt a.q (capSpace a.c) ((capCursor a.c : Int) + (a.addr - (capCursor a.c : Int)) / (u : Int)) = true) :
    n = 1 ∧ b.addr = (capCursor a.c : Int) + (a.addr - (capCursor a.c : Int)) / (u : Int) := by
  simp only [State.elemUnit, hf, if_true] at h
  cases h
  exact ⟨rfl, rfl⟩

/-- Where neither place lies on a format page, the unit is the access's own (R290). -/
theorem elemUnit_off_format {s : State} {a b : MemReq} {u n : Nat} (h : s.elemUnit a u = (b, n))
    (hf : s.formatAt a.q (capSpace a.c) ((capCursor a.c : Int) + (a.addr - (capCursor a.c : Int)) / (u : Int)) = false)
    (hg : s.formatAt a.q (capSpace a.c) a.addr = false) : n = u ∧ b = a := by
  simp only [State.elemUnit, hf, hg, Bool.false_eq_true, if_false] at h
  cases h
  exact ⟨rfl, rfl⟩

/-! ## The debug switch -/

/-- Where no slice has its debug switch set, a store's pieces stay as they are and change nothing (R122). -/
theorem debugPieces_off {s : State} (h : ∀ n, (tabGet Slice.start s.slices n).debug = false) (addr : Nat) (l : List Piece) :
    s.debugPieces addr l = (s, .ok l) := by
  have hconf : ∀ p, s.debugConflict p = false := fun p => by
    unfold State.debugConflict
    split
    · simp [h]
    · rfl
  have happly : ∀ p, s.debugApply p = (s, p) := fun p => by
    unfold State.debugApply
    split
    · simp [h]
    · rfl
  have hall : ∀ l, s.debugAll l = (s, l) := fun l => by
    induction l with
    | nil => rfl
    | cons p l ih => simp only [State.debugAll, happly, ih]
  simp [State.debugPieces, State.mixedSize, hconf, hall]

/-! ## What an access comes to -/

section
variable {s s1 : State} {a b : MemReq} {d : Dest} {ty u : Nat} {v : TCap} {t : Trap} {p : Plan}

theorem sendLoad_trap (hu : s.elemUnit a (tyBytes d.ty) = (b, u)) (hc : s.checkMem b permLD 1 u false = some t) :
    s.sendLoad a false d = (s, .error (.trap t)) := by
  simp [State.sendLoad, hu, hc]

theorem sendAtom_trap (hu : s.elemUnit a (tyBytes d.ty) = (b, u)) (hc : s.checkMem b permAT u u true = some t) (op : Nat) (v new : DWord) :
    s.sendAtom a op v new d = (s, .error (.trap t)) := by
  simp [State.sendAtom, hu, hc]

theorem sendStore_trap (hu : s.elemUnit a (tyBytes ty) = (b, u)) (hc : s.checkMem b permST 1 u true = some t) :
    s.sendStore a false ty v = (s, .error (.trap t)) := by
  simp [State.sendStore, hu, hc]

/-- A load that passes its checks and finds its plan (R291, R293). -/
theorem sendLoad_planned (hu : s.elemUnit a (tyBytes d.ty) = (b, u)) (hc : s.checkMem b permLD 1 u false = none)
    (hp : s.planMem b needR u true [] false false = (s1, .ok p)) :
    s.sendLoad a false d =
      if p.sparse then (s1, if a.res then .ok .sparse else .error (missingPage b))
      else (s1.flying b (.load d) (if capSpace a.c = 1 ∨ capSpace a.c = 4 then p.pieces.map (fun x => s1.hitL1 a.q.pair a.who x) else p.pieces),
        .ok (.access s1.nextId)) := by
  obtain ⟨hcap, hwho, hq, -, hres, -⟩ := elemUnit_keeps hu
  rw [← hcap, ← hwho, ← hq, ← hres]
  simp only [State.sendLoad, hu, Bool.false_eq_true, if_false, hc, hp]
  rfl

/-- A store that passes its checks and finds its plan, with no debug switch set (R122, R291, R293). -/
theorem sendStore_planned (hu : s.elemUnit a (tyBytes ty) = (b, u)) (hc : s.checkMem b permST 1 u true = none)
    (hp : s.planMem b needW u false (storeBytes ty v) false false = (s1, .ok p)) :
    (p.sparse = true → s.sendStore a false ty v = (s1, .ok .sparse)) ∧
    (p.sparse = false → (∀ n, (tabGet Slice.start s1.slices n).debug = false) → s.sendStore a false ty v =
      ((if capSpace a.c = 5 then s1.noteHostWrite a.who.team else s1).flying b .store p.pieces,
        .ok (.access (if capSpace a.c = 5 then s1.noteHostWrite a.who.team else s1).nextId))) := by
  obtain ⟨hcap, hwho, -, -, -, -⟩ := elemUnit_keeps hu
  rw [← hcap, ← hwho]
  refine ⟨fun hs => ?_, fun hs hd => ?_⟩
  · simp only [State.sendStore, hu, Bool.false_eq_true, Bool.false_and, if_false, hc, hp, hs, if_true]
  · simp only [State.sendStore, hu, Bool.false_eq_true, Bool.false_and, if_false, hc, hp, hs, debugPieces_off hd]
    rfl

theorem noteHostWrite_nextId (s : State) (uid : Nat) : (s.noteHostWrite uid).nextId = s.nextId := by
  unfold State.noteHostWrite; split <;> rfl

end

/-- Settles O27, by what each kind of access comes to at each of its checks. -/
theorem accessesAtCommit : Obligations.AccessesAtCommit := by
  unfold Obligations.AccessesAtCommit
  refine ⟨fun s a b d u t hu => ⟨sendLoad_trap hu, fun op v new hc => sendAtom_trap hu hc op v new⟩, fun s a b ty u v t hu hc => sendStore_trap hu hc,
    fun s s1 a b d u p hu hc hp => ?_, fun s s1 a b ty u v p hu hc hp => ?_, fun s a b u n _ h => ?_⟩
  · rw [sendLoad_planned hu hc hp]
    refine ⟨fun hs hsp => ?_, fun hs hsp => ?_, fun hs hr => ?_, fun hs hr => ?_⟩
    · rw [hs, if_neg (by decide), if_neg (by omega)]
    · rw [hs, if_neg (by decide), if_pos hsp]
    · rw [hs, if_pos rfl, hr]; rfl
    · rw [hs, if_pos rfl, hr]; rfl
  · obtain ⟨hsparse, hsent⟩ := sendStore_planned hu hc hp
    refine ⟨fun hs hd => ⟨fun h5 => ?_, fun h5 => ?_⟩, hsparse⟩
    · rw [hsent hs hd, if_neg h5]
    · rw [hsent hs hd, if_pos h5, noteHostWrite_nextId]
  · obtain ⟨hcap, hwho, hq, hm, hres, hn⟩ := elemUnit_keeps h
    exact ⟨hcap, hwho, hq, hm, hres, hn, elemUnit_on_format h, elemUnit_off_format h⟩

end Sys2Proof.Machine
end

section
/-! O50: the end of teams, pairs and grids. What each event leaves is put together from what its parts change. -/

namespace Sys2Proof.Machine

/-! ## Teams and grids by their identifiers -/

theorem grid_id {s : State} {id : Nat} {g : Grid} (h : s.grid id = some g) : g.id = id := by simpa using List.find?_some h

theorem team_uid {s : State} {uid : Nat} {t : Team} (h : s.team uid = some t) : t.uid = uid := by simpa using List.find?_some h

/-- A grid read after it was replaced. -/
theorem putGrid_grid {s : State} {g h : Grid} (hs : s.grid g.id = some h) : (s.putGrid g).grid g.id = some g := by
  have hmap : ∀ l : List Grid, l.find? (fun x => x.id == g.id) = some h →
      (l.map (fun x => if x.id = g.id then g else x)).find? (fun x => x.id == g.id) = some g := fun l => by
    induction l with
    | nil => intro hf; cases hf
    | cons x l ih =>
      intro hf
      by_cases hx : x.id = g.id
      · simp [hx]
      · rw [List.find?_cons_of_neg (by simpa using hx)] at hf
        rw [List.map_cons, if_neg hx, List.find?_cons_of_neg (by simpa using hx), ih hf]
  exact hmap s.grids hs

/-! ## Operations that leave pairs, teams and grids -/

/-- The pairs, teams and grids of a state stay as they are. -/
structure KeepsUnits (s t : State) : Prop where
  pairs : t.pairs = s.pairs
  teams : t.teams = s.teams
  grids : t.grids = s.grids

theorem KeepsUnits.refl (s : State) : KeepsUnits s s := ⟨rfl, rfl, rfl⟩

theorem KeepsUnits.trans {s t u : State} (h : KeepsUnits s t) (k : KeepsUnits t u) : KeepsUnits s u :=
  ⟨k.pairs.trans h.pairs, k.teams.trans h.teams, k.grids.trans h.grids⟩

/-- What keeps them at each entry of a list keeps them over the list. -/
theorem KeepsUnits.foldl {α : Type} {f : State → α → State} (hf : ∀ s x, KeepsUnits s (f s x)) (l : List α) (s : State) :
    KeepsUnits s (l.foldl f s) :=
  List.foldlRecOn l f (.refl s) (fun t ht x _ => ht.trans (hf t x))

theorem KeepsUnits.grid {s t : State} (h : KeepsUnits s t) (id : Nat) : t.grid id = s.grid id := by unfold State.grid; rw [h.grids]

theorem reach_keepsUnits (s : State) (pa len : Nat) : KeepsUnits s (s.reach pa len) := by
  unfold State.reach
  split
  · exact .refl s
  · split <;> exact ⟨rfl, rfl, rfl⟩

theorem touchAll_keepsUnits (s : State) (pa len part : Nat) : KeepsUnits s (s.touchAll pa len part) := by
  obtain ⟨a, b, c, d, h⟩ := touchAll_eq s pa len part
  rw [h]; exact ⟨rfl, rfl, rfl⟩

theorem fillPartial_keepsUnits (s : State) (pa len : Nat) : KeepsUnits s (s.fillPartial pa len) := by
  obtain ⟨p, f, c, h⟩ := fillPartial_eq s pa len
  rw [h]; exact ⟨rfl, rfl, rfl⟩

theorem noteFilled_keepsUnits (s : State) (pa len : Nat) (write : Bool) : KeepsUnits s (s.noteFilled pa len write) := by
  obtain ⟨a, b, c, d, h⟩ := noteFilled_eq s pa len write
  rw [h]; exact ⟨rfl, rfl, rfl⟩

theorem applied_keepsUnits (s : State) (pa len : Nat) : KeepsUnits s (s.applied pa len).2 := by
  obtain ⟨a, b, c, d, h⟩ := applied_eq s pa len
  rw [h]; exact ⟨rfl, rfl, rfl⟩

/-- A write to device memory leaves them, wherever its address lies. -/
theorem writeDev_keepsUnits (s : State) (pa part : Nat) (bytes : List Byte) : KeepsUnits s (s.writeDev pa part bytes).2 := by
  have h1 := ((reach_keepsUnits s pa bytes.length).trans (touchAll_keepsUnits _ pa bytes.length part)).trans (fillPartial_keepsUnits _ pa bytes.length)
  unfold State.writeDev
  generalize ((s.reach pa bytes.length).touchAll pa bytes.length part).fillPartial pa bytes.length = u at h1
  have h2 : KeepsUnits u { u with mem := memPut u.mem pa bytes, poison := clearPoison u.poison pa bytes.length } := ⟨rfl, rfl, rfl⟩
  exact ((h1.trans h2).trans (noteFilled_keepsUnits _ pa bytes.length true)).trans (applied_keepsUnits _ pa bytes.length)

theorem countLocks_keepsUnits (s : State) (ctx region : Nat) (f : Nat → Nat) : KeepsUnits s (s.countLocks ctx region f) := by
  unfold State.countLocks
  split
  · exact .refl s
  · exact (reach_keepsUnits s _ _).trans (writeDev_keepsUnits _ _ _ _)

/-- A team's locked translations go without a change to pairs, teams or grids (R55). -/
theorem unlockTeam_keepsUnits (s : State) (uid : Nat) : KeepsUnits s (s.unlockTeam uid) := by
  refine .foldl (fun s l => ?_) _ s
  unfold State.unlockRange
  dsimp only
  refine KeepsUnits.trans ?_ (KeepsUnits.foldl (fun s l => countLocks_keepsUnits s _ _ _) _ _)
  exact ⟨rfl, rfl, rfl⟩

/-- Blocks given up go back to the heap without a change to pairs, teams or grids (R305). -/
theorem releaseFrees_keepsUnits (s : State) (mine : Who → Bool) : KeepsUnits s (s.releaseFrees mine) := by
  unfold State.releaseFrees
  refine KeepsUnits.trans (.foldl (fun s a => ?_) _ s) ⟨rfl, rfl, rfl⟩
  split
  · exact ⟨rfl, rfl, rfl⟩
  · exact .refl s

/-! ## Leases, triggers and accesses in flight -/

/-- The lease of one layer ends when a team holds it (R374): one step of endLease. -/
def State.endLayer (t : Team) (s : State) (l : Nat) : State :=
  if (s.abacus t.pair l).holder = some t.uid then s.putAbacus t.pair l { s.abacus t.pair l with holder := none } else s

theorem endLease_layers (s : State) (t : Team) : s.endLease t = State.endLayer t (State.endLayer t s 0) 1 := rfl

theorem endLayer_eq (t : Team) (s : State) (l : Nat) : ∃ ps, State.endLayer t s l = { s with pairs := ps } := by
  unfold State.endLayer
  split
  · exact ⟨_, rfl⟩
  · exact ⟨s.pairs, rfl⟩

/-- The end of a team's leases changes pairs alone (R374). -/
theorem endLease_eq (s : State) (t : Team) : ∃ ps, s.endLease t = { s with pairs := ps } := by
  obtain ⟨p0, h0⟩ := endLayer_eq t s 0
  obtain ⟨p1, h1⟩ := endLayer_eq t (State.endLayer t s 0) 1
  exact ⟨p1, by rw [endLease_layers, h1, h0]⟩

theorem endLease_teams (s : State) (t : Team) : (s.endLease t).teams = s.teams := by
  obtain ⟨ps, h⟩ := endLease_eq s t
  rw [h]

theorem endLease_grid (s : State) (t : Team) (id : Nat) : (s.endLease t).grid id = s.grid id := by
  obtain ⟨ps, h⟩ := endLease_eq s t
  rw [h]; rfl

theorem endLease_hole (s : State) (t : Team) : (s.endLease t).hole = s.hole := by
  obtain ⟨ps, h⟩ := endLease_eq s t
  rw [h]

theorem putAbacus_abacus (s : State) (pair l m : Nat) (a : Abacus) :
    (s.putAbacus pair l a).abacus pair m = if m = l then a else s.abacus pair m := by
  simp only [State.putAbacus, State.abacus, State.pair, State.putPair_pairs, tabGet_tabPut_same, tabGet_tabPut]

theorem endLayer_ends (t : Team) (s : State) (l : Nat) : ((State.endLayer t s l).abacus t.pair l).holder ≠ some t.uid := by
  unfold State.endLayer
  split
  · rw [putAbacus_abacus, if_pos rfl]; exact nofun
  · assumption

theorem endLayer_holds_no_more (t : Team) (s : State) (l : Nat) {m : Nat} (h : (s.abacus t.pair m).holder ≠ some t.uid) :
    ((State.endLayer t s l).abacus t.pair m).holder ≠ some t.uid := by
  unfold State.endLayer
  split
  · rw [putAbacus_abacus]
    split
    · exact nofun
    · exact h
  · exact h

/-- Past the end of its leases a team holds neither abacus (R374). -/
theorem endLease_holder (s : State) (t : Team) {l : Nat} (hl : l < 2) : ((s.endLease t).abacus t.pair l).holder ≠ some t.uid := by
  rw [endLease_layers]
  interval_cases l
  · exact endLayer_holds_no_more t _ 1 (endLayer_ends t s 0)
  · exact endLayer_ends t _ 1

/-- A write-back trigger changes pairs alone (R74). -/
theorem trigger_eq (s : State) (pair sec : Nat) (who : Who) : ∃ ps, s.trigger pair sec who = { s with pairs := ps } := by
  unfold State.trigger
  dsimp only
  split
  · exact ⟨s.pairs, rfl⟩
  · split
    · exact ⟨s.pairs, rfl⟩
    · split
      · exact ⟨_, rfl⟩
      · exact ⟨_, rfl⟩
      · exact ⟨_, rfl⟩
      · exact ⟨_, rfl⟩
      · exact ⟨s.pairs, rfl⟩

/-- The start of an unmap changes pairs alone (R74). -/
theorem unmapPair_eq (s : State) (pair : Nat) : ∃ ps, s.unmapPair pair = { s with pairs := ps } := by
  unfold State.unmapPair State.triggerRange
  refine List.foldlRecOn (motive := fun (u : State) => ∃ ps : Tab Pair, u = { s with pairs := ps }) _ _ ⟨s.pairs, rfl⟩ (fun u hu l _ => ?_)
  obtain ⟨ps, rfl⟩ := hu
  obtain ⟨ps', h⟩ := trigger_eq { s with pairs := ps } pair l ⟨0, none, 0⟩
  exact ⟨ps', h⟩

theorem unmapPair_hole (s : State) (pair : Nat) : (s.unmapPair pair).hole = s.hole := by
  obtain ⟨ps, h⟩ := unmapPair_eq s pair
  rw [h]

theorem tearBytes_eq (s : State) (reads writes : Bool) (p : Piece) (l : List (Nat × Byte)) :
    ∃ n, (s.tearBytes reads writes p l).1 = { s with free := n } := by
  induction l generalizing s p with
  | nil => exact ⟨s.free, rfl⟩
  | cons x l ih =>
    obtain ⟨n, h⟩ := ih { s with free := s.free + 1 + 1 } _
    exact ⟨n, h⟩

theorem tearPieces_eq (s : State) (a : Access) (w : Piece) (l : List Piece) : ∃ n, (s.tearPieces a w l).1 = { s with free := n } := by
  induction l generalizing s with
  | nil => exact ⟨s.free, rfl⟩
  | cons p l ih =>
    unfold State.tearPieces
    dsimp only
    split
    · obtain ⟨n, h⟩ := tearBytes_eq s a.kind.readsUnit a.kind.writes p _
      obtain ⟨n', h'⟩ := ih (s.tearBytes a.kind.readsUnit a.kind.writes p _).1
      exact ⟨n', by rw [h', h]⟩
    · exact ih s

/-- A write of a unit changes of the others the accesses in flight and the free values alone (R121). -/
theorem tear_eq (s : State) (by_ : Nat) (w : Piece) : ∃ l n, s.tear by_ w = { s with accesses := l, free := n } := by
  unfold State.tear
  refine List.foldlRecOn (motive := fun (u : State) => ∃ (l : List Access) (n : Nat), u = { s with accesses := l, free := n })
    _ _ ⟨s.accesses, s.free, rfl⟩ (fun u hu a _ => ?_)
  obtain ⟨l, n, rfl⟩ := hu
  obtain ⟨n', h⟩ := tearPieces_eq { s with accesses := l, free := n } a w a.pieces
  dsimp only
  rw [h]
  exact ⟨_, n', rfl⟩

/-! ## The end of a team -/

/-- The rings of a team's slot on its pair are no longer valid (R148). -/
def State.closeRings (s : State) (t : Team) : State :=
  s.putPair t.pair { s.pair t.pair with
    rings := (s.pair t.pair).rings.foldl (fun r e => if e.2.team = t.slot then tabPut Ring.zero r e.1 { e.2 with v := false } else r) (s.pair t.pair).rings }

/-- A grid counts a team that has ended, and its last write's time (R353). -/
def State.countEnd (s : State) (t : Team) : State :=
  match s.grid t.grid with
  | some g => s.putGrid { g with endedTeams := g.endedTeams + 1, wmax := max g.wmax t.lastTime }
  | none => s

/-- A team is no longer resident. -/
def State.dropTeam (s : State) (uid : Nat) : State := { s with teams := s.teams.filter (fun u => u.uid != uid) }

/-- What the end of a team does before its pair's unmap (R148, R244, R374). -/
def State.teamGone (s : State) (t : Team) : State :=
  (((((s.releaseFrees (fun w => w.team == t.uid)).unlockTeam t.uid).endLease t).closeRings t).countEnd t).dropTeam t.uid

/-- TEAM_END of a team that is over: it is gone, and the last of its pair starts the unmap. -/
theorem teamEnd_over {s : State} {uid : Nat} {t : Team} (ht : s.team uid = some t) (ho : s.teamOver t = true) :
    s.teamEnd uid = if ((s.teamGone t).teamsOn t.pair).isEmpty then (s.teamGone t).unmapPair t.pair else s.teamGone t := by
  obtain rfl := team_uid ht
  unfold State.teamEnd
  rw [ht]
  refine (if_neg (by rw [ho]; decide)).trans ?_
  extract_lets z e p r c y
  have hc : c = (((z.endLease t).closeRings t).countEnd t) := rfl
  have hy : y = s.teamGone t := congrArg (fun u : State => u.dropTeam t.uid) hc
  rw [hy]

theorem closeRings_teams (s : State) (t : Team) : (s.closeRings t).teams = s.teams := rfl
theorem closeRings_grid (s : State) (t : Team) (id : Nat) : (s.closeRings t).grid id = s.grid id := rfl
theorem closeRings_hole (s : State) (t : Team) : (s.closeRings t).hole = s.hole := rfl

theorem closeRings_abacus (s : State) (t : Team) (l : Nat) : (s.closeRings t).abacus t.pair l = s.abacus t.pair l := by
  simp only [State.closeRings, State.abacus, State.pair, State.putPair_pairs, tabGet_tabPut_same]

/-- The count of an ended team changes grids alone. -/
theorem countEnd_eq (s : State) (t : Team) : ∃ gs, s.countEnd t = { s with grids := gs } := by
  unfold State.countEnd
  split
  · exact ⟨_, rfl⟩
  · exact ⟨s.grids, rfl⟩

theorem countEnd_teams (s : State) (t : Team) : (s.countEnd t).teams = s.teams := by
  obtain ⟨gs, h⟩ := countEnd_eq s t
  rw [h]

theorem countEnd_hole (s : State) (t : Team) : (s.countEnd t).hole = s.hole := by
  obtain ⟨gs, h⟩ := countEnd_eq s t
  rw [h]

theorem countEnd_abacus (s : State) (t : Team) (pair l : Nat) : (s.countEnd t).abacus pair l = s.abacus pair l := by
  obtain ⟨gs, h⟩ := countEnd_eq s t
  rw [h]; rfl

theorem countEnd_grid {s : State} {t : Team} {g : Grid} (h : s.grid t.grid = some g) :
    (s.countEnd t).grid t.grid = some { g with endedTeams := g.endedTeams + 1, wmax := max g.wmax t.lastTime } := by
  have hid := grid_id h
  unfold State.countEnd
  rw [h]
  dsimp only
  rw [← hid] at h ⊢
  exact putGrid_grid h

theorem dropTeam_teams (s : State) (uid : Nat) : (s.dropTeam uid).teams = s.teams.filter (fun u => u.uid != uid) := rfl
theorem dropTeam_grid (s : State) (uid id : Nat) : (s.dropTeam uid).grid id = s.grid id := rfl
theorem dropTeam_hole (s : State) (uid : Nat) : (s.dropTeam uid).hole = s.hole := rfl
theorem dropTeam_abacus (s : State) (uid pair l : Nat) : (s.dropTeam uid).abacus pair l = s.abacus pair l := rfl

/-- What a team that has ended leaves: the other teams, its grid's count, no lease, and no fault of its own. -/
theorem teamGone_leaves (s : State) (t : Team) :
    (s.teamGone t).teams = s.teams.filter (fun u => u.uid != t.uid) ∧
    (∀ g, s.grid t.grid = some g → (s.teamGone t).grid t.grid = some { g with endedTeams := g.endedTeams + 1, wmax := max g.wmax t.lastTime }) ∧
    (∀ l, l < 2 → ((s.teamGone t).abacus t.pair l).holder ≠ some t.uid) ∧
    (s.teamGone t).hole = ((s.releaseFrees (fun w => w.team == t.uid)).unlockTeam t.uid).hole := by
  have hk := (releaseFrees_keepsUnits s (fun w => w.team == t.uid)).trans (unlockTeam_keepsUnits _ t.uid)
  unfold State.teamGone
  refine ⟨?_, fun g hg => ?_, fun l hl => ?_, ?_⟩
  · rw [dropTeam_teams, countEnd_teams, closeRings_teams, endLease_teams, hk.teams]
  · rw [dropTeam_grid]
    exact countEnd_grid (by rw [closeRings_grid, endLease_grid, hk.grid, hg])
  · rw [dropTeam_abacus, countEnd_abacus, closeRings_abacus]
    exact endLease_holder _ t hl
  · rw [dropTeam_hole, countEnd_hole, closeRings_hole, endLease_hole]

/-! ## An idle pair -/

/-- Some sector of a pair has bytes to be written back (R74). -/
def Pair.dirtySector (p : Pair) : Bool := p.sectors.any (fun e => match p.mapAt (e.1 * 256) with
  | some (_, m) => decide (e.2.st = .d) && !m.nowb && !m.flt
  | none => false)

/-- Some sector of a pair is being filled or written back (R71). -/
def Pair.busySector (p : Pair) : Bool := p.sectors.any (fun e => decide (e.2.st = .w) || decide (e.2.st = .wd) || decide (e.2.st = .f))

/-- A pair that goes back to idle: its scratchpad is zero and its L1 copies are gone (R63). -/
def State.clearPair (s : State) (pair : Nat) : State :=
  State.putPair { s with copies := s.copies.filter (fun (c : Copy) => !decide (c.holder = Holder.l1 pair)) } pair
    { s.pair pair with l1sz := Pair.idle.l1sz, grid := none, pad := [], tags := [], poison := [], maps := [], sectors := [] }

/-- PAIR_IDLE of a pair that a grid holds and no team uses (R63, R74). -/
theorem pairIdle_unused {s : State} {pair : Nat} (hg : (s.pair pair).grid ≠ none) (ht : s.teamsOn pair = []) :
    s.pairIdle pair = if (s.pair pair).dirtySector then s.unmapPair pair else if (s.pair pair).busySector then s else s.clearPair pair := by
  unfold State.pairIdle
  dsimp only
  rw [if_neg (by simp [hg, ht])]
  rfl

/-- PAIR_IDLE of a pair that no grid holds, or that a team uses. -/
theorem pairIdle_used {s : State} {pair : Nat} (h : (s.pair pair).grid = none ∨ s.teamsOn pair ≠ []) : s.pairIdle pair = s := by
  unfold State.pairIdle
  exact if_pos (by simpa using h)

theorem dirtySector_iff (p : Pair) : p.dirtySector = true ↔
    ∃ e ∈ p.sectors, e.2.st = .d ∧ ∃ k m, p.mapAt (e.1 * 256) = some (k, m) ∧ m.nowb = false ∧ m.flt = false := by
  simp only [Pair.dirtySector, List.any_eq_true]
  refine exists_congr (fun e => and_congr_right (fun _ => ?_))
  cases p.mapAt (e.1 * 256) with
  | none => simp
  | some km =>
    obtain ⟨k, m⟩ := km
    simp [and_assoc]

theorem busySector_iff (p : Pair) : p.busySector = true ↔ ∃ e ∈ p.sectors, e.2.st = .w ∨ e.2.st = .wd ∨ e.2.st = .f := by
  simp [Pair.busySector, or_assoc]

theorem clearPair_pair (s : State) (pair q : Nat) : (s.clearPair pair).pair q = if q = pair then
    { s.pair pair with l1sz := Pair.idle.l1sz, grid := none, pad := [], tags := [], poison := [], maps := [], sectors := [] } else s.pair q := by
  simp only [State.clearPair, State.pair, State.putPair_pairs, tabGet_tabPut]

/-- What a pair leaves that goes back to idle (R63): a scratchpad of zeros without tags or maps, no L1 copy, and every other pair as it was. -/
theorem clearPair_leaves (s : State) (pair : Nat) :
    ((s.clearPair pair).pair pair).grid = none ∧ (∀ off, (s.clearPair pair).padByte pair off = 0) ∧ ((s.clearPair pair).pair pair).maps = [] ∧
    ((s.clearPair pair).pair pair).tags = [] ∧ ((s.clearPair pair).pair pair).poison = [] ∧ (∀ c ∈ (s.clearPair pair).copies, c.holder ≠ .l1 pair) ∧
    (∀ q, q ≠ pair → (s.clearPair pair).pair q = s.pair q) := by
  have hself := (clearPair_pair s pair pair).trans (if_pos rfl)
  exact ⟨congrArg Pair.grid hself, fun off => congrArg (fun p : Pair => tabGet 0 p.pad off) hself, congrArg Pair.maps hself, congrArg Pair.tags hself,
    congrArg Pair.poison hself, fun c hc => by simpa using (List.mem_filter.1 hc).2, fun q hq => (clearPair_pair s pair q).trans (if_neg hq)⟩

/-- No sector of a pair has bytes to be written back where every dirty one is exempt (R68, R74). -/
theorem dirtySector_false {p : Pair} (h : ∀ e ∈ p.sectors, e.2.st = .d → ∀ k m, p.mapAt (e.1 * 256) = some (k, m) → m.nowb = true ∨ m.flt = true) :
    ¬ p.dirtySector = true := by
  rw [dirtySector_iff]
  rintro ⟨e, he, hst, k, m, hmap, hnowb, hflt⟩
  rcases h e he hst k m hmap with h | h
  · rw [hnowb] at h; cases h
  · rw [hflt] at h; cases h

theorem busySector_false {p : Pair} (h : ∀ e ∈ p.sectors, e.2.st ≠ .w ∧ e.2.st ≠ .wd ∧ e.2.st ≠ .f) : ¬ p.busySector = true := by
  rw [busySector_iff]
  rintro ⟨e, he, hst⟩
  have := h e he
  tauto

/-! ## The end of a grid -/

theorem gridRetire_over {s : State} {id : Nat} {g : Grid} (hg : s.grid id = some g) (ho : s.gridOver g = true) :
    s.gridRetire id = (s.putGrid { g with retired := true, ended := some (g.ended.getD .completed) }).unqueue id := by
  unfold State.gridRetire
  rw [hg]
  exact if_pos ho

/-- A gang that is taken back leaves grids, device memory and faults (R363). -/
theorem releaseGang_eq (s : State) : ∃ ts r ps, s.releaseGang = { s with teams := ts, reckoner := r, pairs := ps } := by
  unfold State.releaseGang
  split
  · exact ⟨s.teams, s.reckoner, s.pairs, rfl⟩
  · dsimp only
    refine List.foldlRecOn (motive := fun (u : State) => ∃ (ts : List Team) (r : Reckoner) (ps : Tab Pair),
      u = { s with teams := ts, reckoner := r, pairs := ps }) _ _ ⟨_, _, s.pairs, rfl⟩ (fun u hu t _ => ?_)
    obtain ⟨ts, r, ps, rfl⟩ := hu
    split
    · exact ⟨ts, r, _, rfl⟩
    · exact ⟨ts, r, ps, rfl⟩

/-- Every team of a grid that is stopped has ended, with all its ranks (R32). -/
theorem stopGrid_ends (s : State) (id : Nat) : ∀ v ∈ (s.stopGrid id).teams, v.grid = id → v.ctl.ended = true ∧ ∀ r ∈ v.ranks, r.ended = true := by
  intro v hv hid
  obtain ⟨t, -, rfl⟩ := List.mem_map.1 hv
  split at hid
  · rw [if_pos (by assumption)]
    refine ⟨rfl, fun r hr => ?_⟩
    obtain ⟨_, -, rfl⟩ := List.mem_map.1 hr
    rfl
  · contradiction

/-- GRID_END of a grid that holds a frozen team (R32). -/
theorem gridEnd_frozen {s : State} {id : Nat} {g : Grid} {r : FreezeRec} (hg : s.grid id = some g)
    (hr : firstFrozen (s.teams.filter (fun t => t.grid == id)) = some r) :
    ∃ u : State, (u = s ∨ u = s.releaseGang) ∧
      s.gridEnd id = ((u.putGrid { g with ended := some (g.ended.getD (.frozen (violationOf r.code))) }).unqueue id).stopGrid id := by
  unfold State.gridEnd
  rw [hg]
  dsimp only
  rw [hr]
  dsimp only
  split
  · split
    · exact ⟨_, .inr rfl, rfl⟩
    · exact ⟨_, .inl rfl, rfl⟩
  · exact ⟨_, .inl rfl, rfl⟩

theorem releaseGang_leaves (s : State) (id : Nat) : s.releaseGang.hole = s.hole ∧ s.releaseGang.mem = s.mem ∧ s.releaseGang.grid id = s.grid id := by
  obtain ⟨ts, r, ps, h⟩ := releaseGang_eq s
  rw [h]
  exact ⟨rfl, rfl, rfl⟩

/-- What GRID_END leaves of a grid that holds a frozen team: its end, its teams ended, and device memory (R32). -/
theorem gridEnd_leaves {s : State} {id : Nat} {g : Grid} {r : FreezeRec} (hg : s.grid id = some g)
    (hr : firstFrozen (s.teams.filter (fun t => t.grid == id)) = some r) :
    (s.gridEnd id).hole = s.hole ∧ (s.gridEnd id).mem = s.mem ∧
    (∀ v ∈ (s.gridEnd id).teams, v.grid = id → v.ctl.ended = true ∧ ∀ r ∈ v.ranks, r.ended = true) ∧
    (s.gridEnd id).grid id = some { g with ended := some (g.ended.getD (.frozen (violationOf r.code))) } := by
  obtain rfl := grid_id hg
  obtain ⟨u, hu, he⟩ := gridEnd_frozen hg hr
  have hkeep : u.hole = s.hole ∧ u.mem = s.mem ∧ u.grid g.id = s.grid g.id := by
    rcases hu with rfl | rfl
    · exact ⟨rfl, rfl, rfl⟩
    · exact releaseGang_leaves s g.id
  obtain ⟨hhole, hmem, hgrid⟩ := hkeep
  rw [he]
  exact ⟨hhole, hmem, stopGrid_ends _ g.id,
    putGrid_grid (g := { g with ended := some (g.ended.getD (.frozen (violationOf r.code))) }) (hgrid.trans hg)⟩

/-! ## DONEW of a child grid -/

theorem length_memBytes (m : Tab Byte) (a n : Nat) : (memBytes m a n).length = n := by
  induction n generalizing a with
  | zero => rfl
  | succ n ih => simp [memBytes, ih]

/-- A new piece leaves its own bytes in its unit (R101, R121). -/
theorem pieceAt_leaves (home : Home) {old data : List Byte} (h : data.length ≤ old.length) :
    (pieceAt home data.length data false false).leaves old data = data := by
  have : (pieceAt home data.length data false false).leaves old data = ((List.zip old data).zipIdx.map Prod.fst).map Prod.snd := by
    rw [List.map_map]; rfl
  rw [this, List.zipIdx_map_fst, List.map_snd_zip h]

/-- A unit of its own written in a scratchpad (R121): the accesses in flight that it meets have met it, and its bytes stand at their home. -/
theorem landPiece_pad (s : State) (pair off : Nat) (data : List Byte) :
    (s.landPiece (pieceAt (.pad pair off) data.length data false false)).2 =
      State.putPair { s.tear 0 (pieceAt (.pad pair off) data.length data false false) with order := s.order + 1 } pair
        ((s.pair pair).write off data false) := by
  obtain ⟨l, n, h⟩ := tear_eq s 0 (pieceAt (.pad pair off) data.length data false false)
  have hleaves := pieceAt_leaves (.pad pair off) (old := memBytes (s.pair pair).pad off data.length) (data := data) (length_memBytes _ _ _).ge
  unfold State.landPiece
  rw [h]
  show State.putPair _ pair ((s.pair pair).write off
    ((pieceAt (.pad pair off) data.length data false false).leaves (memBytes (s.pair pair).pad off data.length) data) false) = _
  rw [hleaves]

theorem tear_hole (s : State) (by_ : Nat) (w : Piece) : (s.tear by_ w).hole = s.hole := by
  obtain ⟨l, n, h⟩ := tear_eq s by_ w
  rw [h]

theorem dropGrid_hole (s : State) (id : Nat) : (s.dropGrid id).hole = s.hole := rfl

/-- CHILD_DONE_WRITE of a grid that is gone, not retired or no child, or before its last write (R353). -/
theorem childDone_early {s : State} {id : Nat} (h : s.grid id = none ∨ ∃ g, s.grid id = some g ∧ (g.retired = false ∨ g.parent = none ∨ s.gt < g.wmax)) :
    s.childDone id = s := by
  unfold State.childDone
  rcases h with h | ⟨g, h, hearly⟩
  · rw [h]
  · rw [h]
    exact if_pos (by simpa [or_assoc] using hearly)

/-- A unit's write that does not wait and meets no page in migration is done (R58). -/
theorem whenMigrated_free {s y : State} {h : MigHolder} {q : Req} {need va len : Nat} (hm : s.migWaiting h = false)
    (hu : s.unitMig q need va len (len / 4096 + 2) = (y, none)) (act : State → State) : s.whenMigrated h q need va len act = act y := by
  unfold State.whenMigrated
  rw [hm, hu]
  rfl

/-- A retired child past its last write is due. -/
theorem childDone_due {s : State} {g : Grid} (hr : g.retired = true) (hp : g.parent ≠ none) (hw : g.wmax ≤ s.gt) :
    ¬ (!g.retired || decide (g.parent = none) || decide (s.gt < g.wmax)) = true := by simp [hr, hp, hw]

section
variable {s : State} {id : Nat} {g : Grid} (hg : s.grid id = some g) (hr : g.retired = true) (hp : g.parent ≠ none) (hw : g.wmax ≤ s.gt)
  {space pair a : Nat}
include hg hr hp hw

/-- A child that names no place for DONEW is removed. -/
theorem childDone_nowhere (hd : g.donew = none) : s.childDone id = s.dropGrid id := by
  simp only [State.childDone, hg, if_neg (childDone_due hr hp hw), hd]

/-- DONEW in device memory waits for a page in migration (R58, R353). -/
theorem childDone_device (hd : g.donew = some (space, pair, a)) (hs : space = 1 ∨ space = 4) : s.childDone id =
    s.whenMigrated (.donew id) ⟨pair, g.ctx, 0⟩ needW a 8 (fun s => (s.unitWrite ⟨pair, g.ctx, 0⟩ a (natLe 8 g.donewWord) 9).2.dropGrid id) := by
  simp only [State.childDone, hg, if_neg (childDone_due hr hp hw), hd, if_pos hs]

/-- DONEW in a scratchpad that the parent's grid still holds is one unit there (R353). -/
theorem childDone_pad (hd : g.donew = some (space, pair, a)) (hs : space = 2 ∨ space = 3) (hh : (s.pair (homePair pair space a)).grid = g.parent) :
    s.childDone id =
      (s.landPiece (pieceAt (.pad (homePair pair space a) (a % 2 ^ 19)) (natLe 8 g.donewWord).length (natLe 8 g.donewWord) false false)).2.dropGrid id := by
  rw [Laws.F.length_natLe]
  simp only [State.childDone, hg, if_neg (childDone_due hr hp hw), hd, if_neg (show ¬ (space = 1 ∨ space = 4) by omega), if_neg (show space ≠ 5 by omega), if_pos hh]

/-- DONEW in a scratchpad that another grid holds is dropped. -/
theorem childDone_dropped (hd : g.donew = some (space, pair, a)) (hs : space = 2 ∨ space = 3)
    (hh : (s.pair (homePair pair space a)).grid ≠ g.parent) : s.childDone id = s.dropGrid id := by
  simp only [State.childDone, hg, if_neg (childDone_due hr hp hw), hd, if_neg (show ¬ (space = 1 ∨ space = 4) by omega), if_neg (show space ≠ 5 by omega), if_neg hh]

end

/-! ## The obligation -/

/-- TEAM_END of a team that is gone or not over. -/
theorem teamEnd_early {s : State} {uid : Nat} (h : s.team uid = none ∨ ∃ t, s.team uid = some t ∧ s.teamOver t = false) : s.teamEnd uid = s := by
  unfold State.teamEnd
  rcases h with h | ⟨t, h, ho⟩
  · rw [h]
  · rw [h]
    exact if_pos (by rw [ho]; rfl)

theorem gridRetire_early {s : State} {id : Nat} (h : s.grid id = none ∨ ∃ g, s.grid id = some g ∧ s.gridOver g = false) : s.gridRetire id = s := by
  unfold State.gridRetire
  rcases h with h | ⟨g, h, ho⟩
  · rw [h]
  · rw [h]
    exact if_neg (by rw [ho]; decide)

/-- GRID_END of a grid that is gone or holds no frozen team. -/
theorem gridEnd_early {s : State} {id : Nat} (h : s.grid id = none ∨ firstFrozen (s.teams.filter (fun t => t.grid == id)) = none) : s.gridEnd id = s := by
  unfold State.gridEnd
  cases hg : s.grid id with
  | none => rfl
  | some g =>
    have hf := h.resolve_left (by rw [hg]; exact nofun)
    dsimp only
    rw [hf]

/-- Settles O50, event by event: each is early and changes nothing, or leaves what the lemmas about it say. -/
theorem teamsPairsAndGridsEnd : Obligations.TeamsPairsAndGridsEnd := by
  unfold Obligations.TeamsPairsAndGridsEnd
  intro s hs
  have runs {i : Instr} {t u : State} (hi : exec i s = answer t) (ht : t = u) (hu : u.hole = none) : exec i s = .next u := by rw [hi, ht, answer_next hu]
  refine ⟨fun uid h => runs rfl (teamEnd_early h) hs, fun uid t ht ho hh => ?_, fun pair p hp h => runs rfl (pairIdle_used (hp ▸ h)) hs,
    fun pair p hp hgrid hteams => ?_, fun id h => runs rfl (gridRetire_early h) hs, fun id g hg ho => ?_, fun id h => runs rfl (childDone_early h) hs,
    fun id g hg hr hpar hw => ?_, fun id h => runs rfl (gridEnd_early h) hs, fun id g r hg hr => ?_⟩
  · obtain rfl := team_uid ht
    obtain ⟨hteams, hgrid, hlease, hhole⟩ := teamGone_leaves s t
    refine ⟨s.teamGone t, runs rfl (teamEnd_over ht ho) ?_, hteams, hgrid, hlease⟩
    split
    · rw [unmapPair_hole, hhole, hh]
    · rw [hhole, hh]
  · subst hp
    have hidle := pairIdle_unused hgrid hteams
    refine ⟨fun hd => ?_, fun hd => ⟨fun hb => ?_, fun hb => ?_⟩⟩
    · rw [if_pos ((dirtySector_iff _).2 hd)] at hidle
      exact runs rfl hidle ((unmapPair_hole s pair).trans hs)
    · rw [if_neg (dirtySector_false hd), if_pos ((busySector_iff _).2 hb)] at hidle
      exact runs rfl hidle hs
    · rw [if_neg (dirtySector_false hd), if_neg (busySector_false hb)] at hidle
      exact ⟨_, runs rfl hidle hs, rfl, clearPair_leaves s pair⟩
  · obtain rfl := grid_id hg
    exact ⟨_, runs rfl (gridRetire_over hg ho) hs,
      putGrid_grid (g := { g with retired := true, ended := some (g.ended.getD .completed) }) hg, rfl, rfl⟩
  · refine ⟨fun hd => runs rfl (childDone_nowhere hg hr hpar hw hd) hs, fun space pair a hd => ⟨fun hsp hm => ?_, fun y w x hsp hm hu hwr hx => ?_,
      fun v hsp hh hv => ?_, fun hsp hh => runs rfl (childDone_dropped hg hr hpar hw hd hsp hh) hs⟩⟩
    · exact runs rfl ((childDone_device hg hr hpar hw hd hsp).trans (if_pos hm)) hs
    · refine runs rfl ((childDone_device hg hr hpar hw hd hsp).trans ((whenMigrated_free hm hu _).trans ?_)) hx
      rw [hwr]
    · subst hv
      refine runs rfl ((childDone_pad hg hr hpar hw hd hsp hh).trans (congrArg (fun u : State => u.dropGrid id) ?_)) ?_
      · rw [landPiece_pad, Laws.F.length_natLe]
      · rw [dropGrid_hole, State.putPair_hole]
        exact (tear_hole s 0 _).trans hs
  · obtain ⟨hhole, hmem, hteams, hgrid⟩ := gridEnd_leaves hg hr
    exact ⟨_, runs rfl rfl (hhole.trans hs), hmem, hteams, hgrid⟩

end Sys2Proof.Machine
end

section
/-! O26: memory instructions of the control stream. Each issues, sends its access, and its control thread then waits for the result or
goes on. -/

namespace Sys2Proof.Machine

/-- What a control thread does once its access is in flight: a load waits for the result, a store goes on (R52, R291). -/
theorem ctlSent_access {out : State × Except Stop Sent} (h : ∃ s' id, out = (s', .ok (.access id)) ∧ s'.hole = none) (t : Team) (w : MemWord)
    (zero : Ctl → Ctl) (load : Bool) :
    ctlSent t w zero load out = if load then out.1.ctlBlock (t.present w.res) (.result (sentId out)) else out.1.ctlDone (t.present w.res) := by
  obtain ⟨s', id, rfl, -⟩ := h
  rfl

/-- An instruction of the control stream that issues and makes an access waits for its result when it is a load, and else goes past its
word (R52, R291). -/
theorem sending_runs {i : Instr} {s : State} {t : Team} {w : MemWord} {a : Foc → State} {ok load : Bool} {word : DWord}
    {rd wr : List Nat} {act : State → Team → State} {send : State → State × Except Stop Sent} {zero : Ctl → Ctl}
    (h : CtlIssues s t) (hg : t.guard w.g w.gn) (hok : ok = true)
    (hex : exec i s = answer (byStream s a (fun s t => ctlPass s t ok word w.g w.gn clsPer rd wr act)))
    (hact : ∀ s e ra, act s (t.retimed e ra) = ctlSent (t.retimed e ra) w zero load (send s)) (hsend : CtlSends s t send) :
    CtlRuns i s t (fun s v => if load then (send s).1.ctlBlock (v.present w.res) (.result (sentId (send s))) else (send s).1.ctlDone (v.present w.res)) := by
  refine ctl_runs h hex rfl hok (fun now last e ra => (if_neg (beq_eq_false_iff_ne.mp hg)).trans ?_) (fun now last e ra => ?_)
  · rw [hact, ctlSent_access (hsend now last)]
  · obtain ⟨s', id, hout, hhole⟩ := hsend now last
    split <;> simpa [hout] using hhole

/-- A load of the control stream waits for its result (R293, R294, R299). -/
theorem loadCtl_runs {i : Instr} {s : State} {t : Team} {w : MemWord} {a : Foc → State} {op : BitVec 8} {o : Opd} {types : Nat → Bool} {u : Nat}
    {send : State → MemReq → State × Except Stop Sent} (h : CtlIssues s t) (hg : t.guard w.g w.gn) (hok : memOk .ctl o types true w = true)
    (hex : exec i s = answer (byStream s a (loadCtl op w o types u send)))
    (hsend : CtlSends s t (fun s => send s (t.memReq (memAddrCtl t.ctl w u (memOff w)) (w.res != 0)))) :
    CtlRuns i s t (fun s v => (send s (t.memReq (memAddrCtl t.ctl w u (memOff w)) (w.res != 0))).1.ctlBlock (v.present w.res)
      (.result (sentId (send s (t.memReq (memAddrCtl t.ctl w u (memOff w)) (w.res != 0)))))) :=
  sending_runs (load := true) (zero := fun c => writeCtl c o (memD w) TCap.null)
    (act := fun s t => ctlSent t w (fun c => writeCtl c o (memD w) TCap.null) true (send s (t.memReq (memAddrCtl t.ctl w u (memOff w)) (w.res != 0))))
    h hg hok hex (fun _ _ _ => rfl) hsend

/-- A store of the control stream goes past its word; what it sends is the value its control thread holds (R293, R295, R299). -/
theorem storeCtl_runs {i : Instr} {s : State} {t : Team} {w : MemWord} {a : Foc → State} {op : BitVec 8} {o : Opd} {types : Nat → Bool} {u : Nat}
    {put : State → Team → MemReq → TCap → State × Except Stop Sent} {send : State → MemReq → State × Except Stop Sent}
    (h : CtlIssues s t) (hg : t.guard w.g w.gn) (hok : memOk .ctl o types true w = true)
    (hex : exec i s = answer (byStream s a (storeCtl op w o types u put)))
    (hput : ∀ s e ra a, put s (t.retimed e ra) a (readCtl t.ctl o (memD w)) = send s a)
    (hsend : CtlSends s t (fun s => send s (t.memReq (memAddrCtl t.ctl w u (memOff w)) (w.res != 0)))) :
    CtlRuns i s t (fun s v => (send s (t.memReq (memAddrCtl t.ctl w u (memOff w)) (w.res != 0))).1.ctlDone (v.present w.res)) :=
  sending_runs (load := false) (zero := id)
    (act := fun s t => ctlSent t w id false (put s t (t.memReq (memAddrCtl t.ctl w u (memOff w)) (w.res != 0)) (readCtl t.ctl o (memD w))))
    h hg hok hex (fun s e ra => congrArg (ctlSent (t.retimed e ra) w id false) (hput s e ra _)) hsend

/-- ATOM of the control stream waits for the old value (R298). -/
theorem atomCtl_runs {s : State} {t : Team} {w : MemWord} {send : State → State × Except Stop Sent} (h : CtlIssues s t) (hg : t.guard w.g w.gn)
    (hok : memOk .ctl (if w.off = 7 then .spair else .wide) (atomTypes w.off.toNat) true w = true)
    (hs : send = fun s => s.sendAtom (t.memReq (memAddrCtl t.ctl w (tyBytes w.ty.toNat) 0) (w.res != 0)) w.off.toNat (t.ctl.getS w.d.toNat)
      (t.ctl.getS (w.d.toNat + 1)) ⟨w.d.toNat, w.ty.toNat, none⟩)
    (hsend : CtlSends s t send) :
    CtlRuns (.atom w) s t (fun s v => (send s).1.ctlBlock (v.present w.res) (.result (sentId (send s)))) := by
  subst hs
  exact sending_runs (load := true) (zero := fun c => c.putS w.d.toNat 0)
    (act := fun s t => ctlSent t w (fun c => c.putS w.d.toNat 0) true
      (s.sendAtom (t.memReq (memAddrCtl t.ctl w (tyBytes w.ty.toNat) 0) (w.res != 0)) w.off.toNat (t.ctl.getS w.d.toNat)
        (t.ctl.getS (w.d.toNat + 1)) ⟨w.d.toNat, w.ty.toNat, none⟩))
    h hg hok rfl (fun _ _ _ => rfl) hsend

/-- Settles O26: each instruction sends its own access, which says what its control thread does next. -/
theorem controlMemoryInstructions : Obligations.ControlMemoryInstructions := by
  unfold Obligations.ControlMemoryInstructions
  intro s t w h hg
  refine ⟨fun i o types u send hi hok hsend => ?_, fun i o types u send hi hok hsend => ?_, fun hok hsend => ?_, fun hok hhole => ?_⟩
  · rcases hi with ⟨rfl, rfl, rfl, rfl, rfl⟩ | ⟨rfl, rfl, rfl, rfl, rfl⟩ | ⟨rfl, rfl, rfl, rfl, rfl⟩
    · exact loadCtl_runs h hg hok rfl hsend
    · exact loadCtl_runs h hg hok rfl hsend
    · exact loadCtl_runs h hg hok rfl hsend
  · rcases hi with ⟨rfl, rfl, rfl, rfl, hs⟩ | ⟨rfl, rfl, rfl, rfl, hs⟩ | ⟨rfl, rfl, rfl, rfl, hd, hs⟩
    · exact storeCtl_runs h hg hok rfl (fun _ _ _ _ => hs ▸ rfl) hsend
    · exact storeCtl_runs h hg hok rfl (fun _ _ _ _ => hs ▸ rfl) hsend
    · refine storeCtl_runs h hg hok rfl (fun s e ra a => ?_) hsend
      rw [if_neg hd, hs]
      rfl
  · exact atomCtl_runs h hg hok rfl hsend
  · exact ctl_runs h rfl rfl hok (fun now last e ra => if_neg (beq_eq_false_iff_ne.mp hg)) (fun now last e ra => hhole now last)

end Sys2Proof.Machine
end

section
/-! O58, the frame. What the functions of the model leave alone: `f_mem` says that `f` leaves device memory as it is. A function that runs
another (a pass, a command, an access of a unit) has two lemmas: `f_keeps P` says that it keeps a property P of memory when what it runs keeps
it, and `f_mem` that it leaves memory alone when what it runs does. -/

namespace Sys2Proof.Machine

/-! ### Lists -/

/-- What keeps a part of a state at each entry of a list keeps it over the list. -/
theorem foldl_keeps {α β γ : Type*} (m : β → γ) {f : β → α → β} (hf : ∀ b a, m (f b a) = m b) (l : List α) (b : β) : m (l.foldl f b) = m b :=
  List.foldlRecOn l f (motive := fun c => m c = m b) rfl (fun c hc a _ => (hf c a).trans hc)

theorem foldl_mem {α : Type*} {f : State → α → State} (hf : ∀ s a, (f s a).mem = s.mem) (l : List α) (s : State) : (l.foldl f s).mem = s.mem :=
  foldl_keeps State.mem hf l s

/-! ### Shared operations -/

@[simp] theorem putRank_mem (s : State) (uid : Nat) (r : Rank) : (s.putRank uid r).mem = s.mem := by
  grind [State.putRank, syncShares_mem, State.putTeam_mem]

@[simp] theorem renameSplits_mem (s : State) (pair q uid j : Nat) (f : Nat → Nat) : (s.renameSplits pair q uid j f).mem = s.mem := rfl

@[simp] theorem stopCur_mem (f : Foc) : f.stopCur.s.mem = f.s.mem := rfl

@[simp] theorem block_mem (f : Foc) (w : Wait) : (f.block w).s.mem = f.s.mem := rfl

@[simp] theorem sendFreeze_mem (s : State) (core : Nat) (r : FreezeRec) : (s.sendFreeze core r).mem = s.mem := rfl

@[simp] theorem countFreeze_mem (s : State) (core mkind mid : Nat) : (s.countFreeze core mkind mid).mem = s.mem := rfl

@[simp] theorem freezeTeam_mem (s : State) (uid : Nat) (tr : Trap) (pc : BitVec 48) (resume : Nat) : (s.freezeTeam uid tr pc resume).mem = s.mem := by
  grind [State.freezeTeam, countFreeze_mem, State.putTeam_mem, sendFreeze_mem, State.putPair_mem]

@[simp] theorem stopGrid_mem (s : State) (gid : Nat) : (s.stopGrid gid).mem = s.mem := rfl

@[simp] theorem trap_mem (f : Foc) (tr : Trap) (w : TrapAt) : (f.trap tr w).mem = f.s.mem := by
  grind [Foc.trap, freezeTeam_mem, close_mem, stopCur_mem, putSplit_state, State.newId_mem, deliver_mem]

@[simp] theorem deliverCtl_mem (s : State) (t : Team) (tr : Trap) : (s.deliverCtl t tr).mem = s.mem := by
  grind [State.deliverCtl, failGrid_mem, State.putTeam_mem]

@[simp] theorem trapCtl_mem (s : State) (t : Team) (tr : Trap) : (s.trapCtl t tr).mem = s.mem := by
  grind [State.trapCtl, freezeTeam_mem, State.putTeam_mem, State.newId_mem, deliverCtl_mem]

theorem retTo_state (f : Foc) (h : HandlerSave) (t : BitVec 48) : (f.retTo h t).s = f.s := by
  unfold Foc.retTo
  dsimp only
  split
  · rfl
  · split
    · rfl
    · exact foldl_keeps Foc.s (fun _ _ => by rfl) _ _

theorem divide_state {f g : Foc} {places : List (BitVec 48 × List Nat)} {join : Option (BitVec 48)} (h : f.divide places join = some g) :
    g.s = f.s := by
  unfold Foc.divide at h
  split at h
  · cases h; rfl
  · cases h; rfl
  · dsimp only at h
    split at h
    · cases h
    · rename_i hm
      cases h
      refine (foldl_keeps Foc.s (fun _ _ => by rfl) _ _).trans ?_
      split at hm
      · cases hm; rfl
      · split at hm <;> cases hm
        rfl

/-! ### Memory and its homes -/

@[simp] theorem modSlice_mem (s : State) (n : Nat) (f : Slice → Slice) : (s.modSlice n f).mem = s.mem := rfl

@[simp] theorem evict_mem (s : State) (line : Nat) : (s.evict line).mem = s.mem := by
  grind [State.evict, modSlice_mem]

@[simp] theorem touch_mem (s : State) (pa part : Nat) : (s.touch pa part).mem = s.mem := by
  grind [State.touch, State.newFree_mem, evict_mem]

@[simp] theorem touchAll_mem (s : State) (pa len part : Nat) : (s.touchAll pa len part).mem = s.mem := foldl_mem (fun s _ => touch_mem s _ _) _ s

@[simp] theorem noteLine_mem (s : State) (line : Nat) (filled : BitVec 32) (dirty : BitVec 4) : (s.noteLine line filled dirty).mem = s.mem := by
  grind [State.noteLine]

@[simp] theorem noteFilled_mem (s : State) (pa len : Nat) (write : Bool) : (s.noteFilled pa len write).mem = s.mem :=
  foldl_mem (fun s _ => noteLine_mem s _ _ _) _ s

@[simp] theorem raise_mem (s : State) (pa lexp lwct : Nat) : (s.raise pa lexp lwct).mem = s.mem := by
  grind [State.raise]

@[simp] theorem grant_mem (s : State) (pa code : Nat) : (s.grant pa code).2.mem = s.mem := by
  grind [State.grant, raise_mem]

@[simp] theorem applied_mem (s : State) (pa len : Nat) : (s.applied pa len).2.mem = s.mem := foldl_mem (fun s _ => raise_mem s _ _ _) _ s

@[simp] theorem reach_mem (s : State) (pa len : Nat) : (s.reach pa len).mem = s.mem := by
  grind [State.reach]

@[simp] theorem sectorReadBy_mem (s : State) (slice sector : Nat) : (s.sectorReadBy slice sector).1.mem = s.mem := by
  grind [State.sectorReadBy, modSlice_mem]

@[simp] theorem sectorRead_mem (s : State) (sector : Nat) : (s.sectorRead sector).1.mem = s.mem := by
  grind [State.sectorRead, sectorReadBy_mem]

@[simp] theorem sectorsRead_mem (s : State) (sector : Nat) (n : Nat) : (s.sectorsRead sector n).1.mem = s.mem := by
  induction n generalizing s sector with
  | zero => rfl
  | succ n ih => grind [State.sectorsRead, sectorRead_mem]

@[simp] theorem readDev_mem (s : State) (pa len part : Nat) : (s.readDev pa len part).1.mem = s.mem := by
  grind [State.readDev, noteFilled_mem, touchAll_mem, reach_mem, sectorsRead_mem]

@[simp] theorem readBursts_mem (s : State) (pa len part : Nat) : (s.readBursts pa len part).1.mem = s.mem := by
  grind [State.readBursts, touch_mem, reach_mem, noteLine_mem, sectorRead_mem]

@[simp] theorem fillPartial_mem (s : State) (pa len : Nat) : (s.fillPartial pa len).mem = s.mem :=
  foldl_mem (fun s _ => by grind [sectorRead_mem]) _ s

@[simp] theorem walkFrom_mem (s : State) (r : Region) (va : Nat) (l : List (Nat × Nat)) (n : Nat) : (s.walkFrom r va l n).1.mem = s.mem := by
  induction l generalizing s n with
  | nil => rfl
  | cons e l ih => grind [State.walkFrom, readDev_mem]

@[simp] theorem walk_mem (s : State) (r : Region) (va : Nat) : (s.walk r va).1.mem = s.mem := by
  grind [State.walk, walkFrom_mem]

@[simp] theorem tlbFill_mem (s : State) (pair : Nat) (e : TlbEntry) : (s.tlbFill pair e).mem = s.mem := rfl

@[simp] theorem tlbDrop_mem (s : State) (pair ctx region page : Nat) : (s.tlbDrop pair ctx region page).mem = s.mem := rfl

@[simp] theorem tlbRelock_mem (s : State) (pair team ctx region page : Nat) (e : DWord) : (s.tlbRelock pair team ctx region page e).mem = s.mem := rfl

@[simp] theorem walkFill_mem (s : State) (q : Req) (r : Region) (va need : Nat) : (s.walkFill q r va need).1.mem = s.mem := by
  unfold State.walkFill
  dsimp only
  cases (State.walk _ _ _).2 <;> simp only [tlbFill_mem, walk_mem, tlbDrop_mem]

@[simp] theorem walkLocked_mem (s : State) (q : Req) (r : Region) (va need : Nat) (e : TlbEntry) : (s.walkLocked q r va need e).1.mem = s.mem := by
  grind [State.walkLocked, walk_mem, tlbRelock_mem]

@[simp] theorem translate_mem (s : State) (q : Req) (va need : Nat) : (s.translate q va need).1.mem = s.mem := by
  grind [State.translate, walkLocked_mem, walkFill_mem, State.newFree_mem, tlbFill_mem]

@[simp] theorem translateRange_mem (s : State) (q : Req) (need : Nat) (addr : Nat) (len : Nat) (n : Nat) :
    (s.translateRange q need addr len n).1.mem = s.mem := by
  induction n generalizing s addr len with
  | zero => rfl
  | succ n ih => grind [State.translateRange, translate_mem]

@[simp] theorem planGlobal_mem (s : State) (q : Req) (need addr len : Nat) (data : List Byte) :
    (s.planGlobal q need addr len data).1.mem = s.mem := by
  grind [State.planGlobal, translateRange_mem]

@[simp] theorem sectorWait_mem (s : State) (pair off len : Nat) (who : Who) (whole : Bool) : (s.sectorWait pair off len who whole).1.mem = s.mem := by
  grind [State.sectorWait, State.putPair_mem]

@[simp] theorem planPad_mem (s : State) (pair addr space len : Nat) (who : Who) (read : Bool) (data : List Byte) (tag whole16 : Bool) :
    (s.planPad pair addr space len who read data tag whole16).1.mem = s.mem := by
  grind [State.planPad, sectorWait_mem]

@[simp] theorem dropAccess_mem (s : State) (id : Nat) : (s.dropAccess id).mem = s.mem := rfl

@[simp] theorem noteHostWrite_mem (s : State) (uid : Nat) : (s.noteHostWrite uid).mem = s.mem := by
  grind [State.noteHostWrite]

@[simp] theorem start_mem (s : State) (who : Who) (pair ctx space addr : Nat) (kind : AccKind) (pieces : List Piece) :
    (s.start who pair ctx space addr kind pieces).2.mem = s.mem :=
  rfl

@[simp] theorem dropL1_mem (s : State) (pair pa len : Nat) : (s.dropL1 pair pa len).mem = s.mem := rfl

@[simp] theorem addCopy_mem (s : State) (c : Copy) : (s.addCopy c).mem = s.mem := by
  grind [State.addCopy, State.newFree_mem]

@[simp] theorem fillL1_mem (s : State) (pair pa lease part : Nat) : (s.fillL1 pair pa lease part).mem = s.mem := by
  grind [State.fillL1, readDev_mem, dropL1_mem, grant_mem, addCopy_mem]

@[simp] theorem sendPort_mem (s : State) (port : Nat) (bytes : List Byte) : (s.sendPort port bytes).mem = s.mem := rfl

@[simp] theorem foldPcm_mem (s : State) (who : Who) (time : Nat) : (s.foldPcm who time).mem = s.mem := by
  grind [State.foldPcm, State.putTeam_mem]

@[simp] theorem tearBytes_mem (s : State) (reads writes : Bool) (p : Piece) (l : List (Nat × Byte)) :
    (s.tearBytes reads writes p l).1.mem = s.mem := by
  induction l generalizing s p with
  | nil => rfl
  | cons e l ih => exact ih _ _

@[simp] theorem tearPieces_mem (s : State) (a : Access) (w : Piece) (l : List Piece) : (s.tearPieces a w l).1.mem = s.mem := by
  induction l generalizing s with
  | nil => rfl
  | cons p l ih => grind [State.tearPieces, tearBytes_mem]

@[simp] theorem tear_mem (s : State) (by_ : Nat) (w : Piece) : (s.tear by_ w).mem = s.mem :=
  foldl_mem (fun s _ => by exact tearPieces_mem s _ _ _) _ s

@[simp] theorem tearDev_mem (s : State) (pa len : Nat) : (s.tearDev pa len).mem = s.mem := by
  grind [State.tearDev, tear_mem]

@[simp] theorem clearWords_mem (s : State) (pa len : Nat) : (s.clearWords pa len).mem = s.mem := rfl

/-! ### Passes and their times -/

@[simp] theorem issueSlots_mem (f : Foc) (c : Cls) (reads : List Nat) (slots : List (Cls × List Nat)) (act : List Nat) (uniform : Bool) :
    (f.issueSlots c reads slots act uniform).s.mem = f.s.mem :=
  rfl

@[simp] theorem arrived_mem (s : State) (pair : Nat) (r : Rank) (regs : List Nat) : (s.arrived pair r regs).mem = s.mem := rfl

@[simp] theorem issue_mem (f : Foc) (c : Cls) (reads writes act : List Nat) (uniform : Bool) : (f.issue c reads writes act uniform).s.mem = f.s.mem :=
  rfl

@[simp] theorem spend_mem (f : Foc) : f.spend.s.mem = f.s.mem := rfl

@[simp] theorem ctlTurned_mem (s : State) (pair layer slot uid : Nat) : (s.ctlTurned pair layer slot uid).mem = s.mem := by
  grind [State.ctlTurned, State.putPair_mem, State.putTeam_mem]

@[simp] theorem issueCtl_mem (s : State) (t : Team) (c : Cls) (reads writes : List Nat) : (s.issueCtl t c reads writes).1.mem = s.mem := rfl

/-! ### Register passes -/

@[simp] theorem issued_mem (f : Foc) : f.issued.s.mem = f.s.mem := by
  grind [Foc.issued, spend_mem]

@[simp] theorem trapIssue_mem (f : Foc) (ps : List Nat) (code : TrapCode) (detail : DWord) : (f.trapIssue ps code detail).mem = f.s.mem := by
  grind [Foc.trapIssue, trap_mem, issued_mem]

@[simp] theorem stopAt_mem (f : Foc) (ps : List Nat) (pos : Nat) (st : Stop) : (f.stopAt ps pos st).mem = f.s.mem := by
  cases st with
  | trap t => exact trap_mem f t _
  | block w => exact close_mem _

theorem passLoop_keeps (P : Tab Byte → Prop) {step : Foc → Nat → Except Stop Foc} {zero : Foc → Nat → Foc}
    (hs : ∀ f p g, step f p = .ok g → P f.s.mem → P g.s.mem) (hz : ∀ f p, (zero f p).s = f.s) (ps : List Nat) {f : Foc} (h : P f.s.mem) :
    P (passLoop step zero ps f).1.s.mem := by
  induction ps generalizing f with
  | nil => exact h
  | cons p ps ih =>
    unfold passLoop
    split
    · rename_i g hg
      exact ih (hs f p g hg h)
    · exact h
    · split
      · exact ih (by rw [hz]; exact h)
      · exact h

theorem passLoop_mem {step : Foc → Nat → Except Stop Foc} {zero : Foc → Nat → Foc} (hs : ∀ f p g, step f p = .ok g → g.s.mem = f.s.mem)
    (hz : ∀ f p, (zero f p).s = f.s) (ps : List Nat) (f : Foc) : (passLoop step zero ps f).1.s.mem = f.s.mem :=
  passLoop_keeps (fun m => m = f.s.mem) (fun g p g' hg h => (hs g p g' hg).trans h) hz ps rfl

theorem aluThread_state {spec : AluSpec} {w : FWord} {x : Option XWord} {f g : Foc} {p : Nat} (h : aluThread spec w x f p = .ok g) : g.s = f.s := by
  unfold aluThread at h
  dsimp only at h
  iterate 5 (split at h; · cases h)
  cases h
  rfl

@[simp] theorem aluZero_mem (spec : AluSpec) (w : FWord) (f : Foc) (p : Nat) : (aluZero spec w f p).s.mem = f.s.mem := rfl

@[simp] theorem aluVec_mem (spec : AluSpec) (w : FWord) (x : Option XWord) (f : Foc) : (aluVec spec w x f).mem = f.s.mem := by
  have hl := passLoop_mem (step := aluThread spec w x) (zero := aluZero spec w) (fun f p g h => congrArg State.mem (aluThread_state h)) (fun _ _ =>
      rfl)
  unfold aluVec
  grind [trapIssue_mem, putSplit_state, close_mem, block_mem, spend_mem, issue_mem, stopAt_mem, goto_state, next_state]

@[simp] theorem aluCtl_mem (spec : AluSpec) (w : FWord) (s : State) (t : Team) : (aluCtl spec w s t).mem = s.mem := by
  grind [aluCtl, trapCtl_mem, issueCtl_mem, State.putTeam_mem]

@[simp] theorem aluExec_mem (spec : AluSpec) (w : FWord) (s : State) : (aluExec spec w s).mem = s.mem := by
  grind [aluExec, focus_spec, aluVec_mem, aluCtl_mem]

/-! ### Integer instructions -/

@[simp] theorem nopVec_mem (w : FWord) (f : Foc) : (nopVec w f).mem = f.s.mem := by
  grind [nopVec, trapIssue_mem, close_mem, next_state, issue_mem]

@[simp] theorem nopCtl_mem (w : FWord) (s : State) (t : Team) : (nopCtl w s t).mem = s.mem := by
  grind [nopCtl, trapCtl_mem, issueCtl_mem, State.putTeam_mem]

@[simp] theorem liVec_mem (i : ImmWord) (f : Foc) : (liVec i f).mem = f.s.mem := by
  unfold liVec
  have hw := foldl_keeps Foc.s (f := fun (f : Foc) p => { f with r := writeOpd f.r f.x.age p .reg ⟨i.d.toNat, i.kd, false⟩ ⟨i.imm.setWidth 128,
      false⟩ }) (fun _ _ => rfl)
  grind [trapIssue_mem, close_mem, block_mem, spend_mem, issue_mem, next_state]

@[simp] theorem liCtl_mem (i : ImmWord) (s : State) (t : Team) : (liCtl i s t).mem = s.mem := by
  grind [liCtl, trapCtl_mem, issueCtl_mem, State.putTeam_mem]

/-! ### What is ready -/

@[simp] theorem wakeSplit_mem (s : State) (pair q : Nat) (a : Agent) : (s.wakeSplit pair q a).mem = s.mem := by
  grind [State.wakeSplit, State.putRod_mem, State.putTeam_mem]

@[simp] theorem makeCurrent_mem (s : State) (pair q : Nat) (a : Agent) : (s.makeCurrent pair q a).mem = s.mem := by
  grind [State.makeCurrent, wakeSplit_mem, State.putRod_mem]

@[simp] theorem fetchPage_mem (s : State) (q : Req) (pc : Nat) : (s.fetchPage q pc).1.mem = s.mem := by
  grind [State.fetchPage, translate_mem]

@[simp] theorem fetchWord_mem (s : State) (q : Req) (pc : Nat) : (s.fetchWord q pc).1.mem = s.mem := by
  grind [State.fetchWord, fetchPage_mem]

@[simp] theorem fetchAt_mem (s : State) (q : Req) (pc : Nat) : (s.fetchAt q pc).1.mem = s.mem := by
  grind [State.fetchAt, fetchWord_mem]

@[simp] theorem fetchCur_mem (s : State) : s.fetchCur.1.mem = s.mem := by
  grind [State.fetchCur, fetchAt_mem, trap_mem, issued_mem, close_mem, putSplit_state, trapCtl_mem, State.putTeam_mem]

@[simp] theorem fillWord_mem (s : State) (q : Req) (pc : Nat) : (s.fillWord q pc).1.mem = s.mem := by
  grind [State.fillWord, fetchPage_mem, readDev_mem, grant_mem, addCopy_mem]

@[simp] theorem succBytes_mem (s : State) (q : Req) (va len : Nat) : (s.succBytes q va len).1.mem = s.mem := by
  grind [State.succBytes, translate_mem, readDev_mem]

@[simp] theorem succEntry_mem (s : State) (q : Req) (base i : Nat) : (s.succEntry q base i).1.mem = s.mem := by
  grind [State.succEntry, succBytes_mem]

@[simp] theorem successors_mem (s : State) (q : Req) (base target : Nat) (n : Nat) (k : Nat) (m : Nat) :
    (s.successors q base target n k m).1.mem = s.mem := by
  induction n generalizing s k m with
  | zero => rfl
  | succ n ih => grind [State.successors, succEntry_mem]

@[simp] theorem fetchAhead_mem (s : State) (q : Req) (pc : Nat) : (s.fetchAhead q pc).mem = s.mem :=
  foldl_mem (fun s _ => by grind [fillWord_mem]) _ s

@[simp] theorem callAhead_mem (s : State) (q : Req) (gid : Nat) (targets : List (BitVec 48)) : (s.callAhead q gid targets).mem = s.mem := by
  unfold State.callAhead
  split
  · rfl
  · dsimp only
    split
    · rfl
    · rw [foldl_mem (fun s _ => fetchAhead_mem s _ _)]
      exact foldl_keeps (fun e : State × List Nat => e.1.mem) (fun e _ => by exact successors_mem e.1 _ _ _ _ _ _) _ (s, [])

/-! ### Passes -/

theorem permitFor_mem (f : Foc) (ps readers : List Nat) (q : PassSpec) {t : State} (h : f.permitFor ps readers q = some t) : t.mem = f.s.mem := by
  grind [Foc.permitFor, trapIssue_mem, close_mem, block_mem, spend_mem]

theorem permit_mem (f : Foc) (ps : List Nat) (q : PassSpec) {t : State} (h : f.permit ps q = some t) : t.mem = f.s.mem := by
  grind [Foc.permit, permitFor_mem]

theorem ctlPass_keeps (P : Tab Byte → Prop) {act : State → Team → State} (ha : ∀ s t, P s.mem → P (act s t).mem) {s : State} (t : Team) (ok : Bool)
    (word : DWord) (g : BitVec 3) (gn : Bool) (c : Cls) (reads writes : List Nat) (h : P s.mem) :
    P (ctlPass s t ok word g gn c reads writes act).mem := by
  unfold ctlPass
  split
  · rwa [trapCtl_mem]
  · dsimp only
    have hi : P (s.issueCtl t c (reads ++ [2048 + g.toNat]) writes).1.mem := by rwa [issueCtl_mem]
    split
    · exact hi
    · split
      · rwa [trapCtl_mem]
      · exact ha _ _ hi

theorem ctlPass_mem {act : State → Team → State} (ha : ∀ s t, (act s t).mem = s.mem) (s : State) (t : Team) (ok : Bool) (word : DWord)
    (g : BitVec 3) (gn : Bool) (c : Cls) (reads writes : List Nat) : (ctlPass s t ok word g gn c reads writes act).mem = s.mem :=
  ctlPass_keeps (fun m => m = s.mem) (fun u t h => (ha u t).trans h) t ok word g gn c reads writes rfl

@[simp] theorem ctlBlock_mem (s : State) (t : Team) (w : Wait) : (s.ctlBlock t w).mem = s.mem := rfl

@[simp] theorem ctlDone_mem (s : State) (t : Team) : (s.ctlDone t).mem = s.mem := rfl

@[simp] theorem notInCtl_mem (op : BitVec 8) (w : FWord) (s : State) (t : Team) : (notInCtl op w s t).mem = s.mem := by
  grind [notInCtl, trapCtl_mem]

@[simp] theorem notInVec_mem (op : BitVec 8) (w : FWord) (f : Foc) : (notInVec op w f).mem = f.s.mem := by
  grind [notInVec, trapIssue_mem]

@[simp] theorem dropShares_mem (s : State) (uid j : Nat) : (s.dropShares uid j).mem = s.mem := rfl

@[simp] theorem sweepBars_mem (s : State) (uid : Nat) : (s.sweepBars uid).mem = s.mem := by
  grind [State.sweepBars, State.putTeam_mem]

@[simp] theorem exitThreads_mem (f : Foc) (ps : List Nat) : (f.exitThreads ps).mem = f.s.mem := by
  grind [Foc.exitThreads, stopCur_mem, close_mem, dropShares_mem, sweepBars_mem]

@[simp] theorem flagAdd_mem (s : State) (uid n : Nat) (v : Word) : (s.flagAdd uid n v).mem = s.mem := by
  grind [State.flagAdd, State.putTeam_mem]

/-! ### Control flow, flags and queues -/

@[simp] theorem brWalk_mem (q : BrSpec) (taken : Nat → Bool) (l : List Nat) (f : Foc) : (brWalk q taken l f).1.s.mem = f.s.mem := by
  induction l generalizing f with
  | nil => rfl
  | cons p ps ih => grind [brWalk]

@[simp] theorem ahead_mem (f : Foc) (q : BrSpec) (ps : List Nat) : (f.ahead q ps).s.mem = f.s.mem := by
  grind [Foc.ahead, callAhead_mem]

@[simp] theorem branchVec_mem (q : BrSpec) (spec : PassSpec) (reads : List Nat) (g : BitVec 3) (gn : Bool) (f : Foc) :
    (branchVec q spec reads g gn f).mem = f.s.mem := by
  grind [branchVec, permitFor_mem, trapIssue_mem, issue_mem, brWalk_mem, trap_mem, putSplit_state, ahead_mem, divide_state, close_mem]

@[simp] theorem braVec_mem (op : BitVec 8) (push : Bool) (w : BrWord) (f : Foc) : (braVec op push w f).mem = f.s.mem := by
  grind [braVec, branchVec_mem]

@[simp] theorem ctlGo_mem (q : BrSpec) (ctx : Nat) (pc : BitVec 48) (s : State) (t : Team) : (ctlGo q ctx pc s t).mem = s.mem := by
  grind [ctlGo, trapCtl_mem, callAhead_mem, State.putTeam_mem]

@[simp] theorem braCtl_mem (op : BitVec 8) (push : Bool) (w : BrWord) (s : State) (t : Team) : (braCtl op push w s t).mem = s.mem :=
  ctlPass_mem (fun s t => by grind [ctlGo_mem]) s t _ _ _ _ _ _ _

@[simp] theorem braiVec_mem (op : BitVec 8) (push : Bool) (w : FWord) (f : Foc) : (braiVec op push w f).mem = f.s.mem := by
  grind [braiVec, branchVec_mem]

@[simp] theorem braiCtl_mem (op : BitVec 8) (push : Bool) (w : FWord) (s : State) (t : Team) : (braiCtl op push w s t).mem = s.mem :=
  ctlPass_mem (fun s t => by grind [ctlGo_mem]) s t _ _ _ _ _ _ _

@[simp] theorem retVec_mem (w : FWord) (f : Foc) : (retVec w f).mem = f.s.mem := by
  grind [retVec, branchVec_mem]

@[simp] theorem retCtl_mem (w : FWord) (s : State) (t : Team) : (retCtl w s t).mem = s.mem :=
  ctlPass_mem (fun s t => by grind [ctlGo_mem]) s t _ _ _ _ _ _ _

@[simp] theorem retHVec_mem (w : FWord) (f : Foc) : (retHVec w f).mem = f.s.mem := by
  grind [retHVec, permit_mem, trapIssue_mem, close_mem, next_state, issue_mem, stopAt_mem, retTo_state]

@[simp] theorem retHCtl_mem (w : FWord) (s : State) (t : Team) : (retHCtl w s t).mem = s.mem := by
  unfold retHCtl
  split
  · exact trapCtl_mem s t _
  · exact ctlPass_mem (fun s t => by rfl) s t _ _ _ _ _ _ _

@[simp] theorem joinVec_mem (w : FWord) (f : Foc) : (joinVec w f).mem = f.s.mem := by
  grind [joinVec, permit_mem, issue_mem, close_mem, next_state, putSplit_state, State.putRod_mem, stopCur_mem]

@[simp] theorem joinCtl_mem (w : FWord) (s : State) (t : Team) : (joinCtl w s t).mem = s.mem :=
  ctlPass_mem (fun s t => by grind [ctlDone_mem]) s t _ _ _ _ _ _ _

@[simp] theorem yieldVec_mem (w : FWord) (f : Foc) : (yieldVec w f).mem = f.s.mem := by
  grind [yieldVec, permit_mem, stopCur_mem, next_state, issue_mem, close_mem, State.putRod_mem]

@[simp] theorem yieldCtl_mem (w : FWord) (s : State) (t : Team) : (yieldCtl w s t).mem = s.mem :=
  ctlPass_mem (fun s t => by grind [ctlDone_mem]) s t _ _ _ _ _ _ _

@[simp] theorem exitVec_mem (w : FWord) (f : Foc) : (exitVec w f).mem = f.s.mem := by
  grind [exitVec, permit_mem, exitThreads_mem, next_state, issue_mem]

@[simp] theorem exitCtl_mem (w : FWord) (s : State) (t : Team) : (exitCtl w s t).mem = s.mem :=
  ctlPass_mem (fun s t => by grind [sweepBars_mem, State.putTeam_mem]) s t _ _ _ _ _ _ _

@[simp] theorem barVec_mem (w : FWord) (f : Foc) : (barVec w f).mem = f.s.mem := by
  grind [barVec, permit_mem, trapIssue_mem, issue_mem, sweepBars_mem, close_mem, block_mem]

@[simp] theorem barCtl_mem (w : FWord) (s : State) (t : Team) : (barCtl w s t).mem = s.mem :=
  ctlPass_mem (fun s t => by grind [trapCtl_mem, sweepBars_mem, ctlBlock_mem]) s t _ _ _ _ _ _ _

@[simp] theorem flagaddVec_mem (w : FWord) (f : Foc) : (flagaddVec w f).mem = f.s.mem := by
  grind [flagaddVec, permit_mem, issue_mem, trap_mem, close_mem, next_state, flagAdd_mem]

@[simp] theorem flagaddCtl_mem (w : FWord) (s : State) (t : Team) : (flagaddCtl w s t).mem = s.mem :=
  ctlPass_mem (fun s t => by grind [flagAdd_mem, ctlDone_mem]) s t _ _ _ _ _ _ _

@[simp] theorem flagwaitVec_mem (w : FWord) (f : Foc) : (flagwaitVec w f).mem = f.s.mem := by
  grind [flagwaitVec, permit_mem, trap_mem, issue_mem, close_mem, next_state, trapIssue_mem, block_mem]

@[simp] theorem flagwaitCtl_mem (w : FWord) (s : State) (t : Team) : (flagwaitCtl w s t).mem = s.mem :=
  ctlPass_mem (fun s t => by grind [ctlDone_mem, trapCtl_mem, ctlBlock_mem]) s t _ _ _ _ _ _ _

@[simp] theorem qpushVec_mem (w : FWord) (f : Foc) : (qpushVec w f).mem = f.s.mem := by
  grind [qpushVec, permit_mem, trapIssue_mem, close_mem, block_mem, spend_mem, issue_mem, trap_mem, next_state]

@[simp] theorem qpushCtl_mem (w : FWord) (s : State) (t : Team) : (qpushCtl w s t).mem = s.mem :=
  ctlPass_mem (fun s t => by grind [trapCtl_mem, ctlBlock_mem, ctlDone_mem]) s t _ _ _ _ _ _ _

@[simp] theorem popGive_mem (w : FWord) (f : Foc) (p : Nat) (v : TCap) : (popGive w f p v).s.mem = f.s.mem := by
  grind [popGive, start_mem]

@[simp] theorem popWrite_mem (w : FWord) (one : Bool) (f : Foc) (l : List Nat) (y : List QEntry) : (popWrite w one f l y).s.mem = f.s.mem := by
  induction l generalizing f y with
  | nil => rfl
  | cons p ps ih =>
    unfold popWrite
    split
    · exact (ih _ _).trans (popGive_mem w f p _)
    · exact (ih _ _).trans (popGive_mem w f p _)

@[simp] theorem qpopVec_mem (w : FWord) (f : Foc) : (qpopVec w f).mem = f.s.mem := by
  grind [qpopVec, permit_mem, trapIssue_mem, close_mem, block_mem, spend_mem, issue_mem, next_state, popWrite_mem]

@[simp] theorem popEnd_mem (d q : Nat) (s : State) (t : Team) : (popEnd d q s t).mem = s.mem := by
  grind [popEnd, trapCtl_mem, ctlDone_mem, ctlBlock_mem]

@[simp] theorem popHandle_mem (h q : Nat) (s : State) (t : Team) : (popHandle h q s t).mem = s.mem := by
  grind [popHandle, trapCtl_mem, popEnd_mem, ctlBlock_mem, ctlDone_mem]

@[simp] theorem qpopCtl_mem (w : FWord) (s : State) (t : Team) : (qpopCtl w s t).mem = s.mem :=
  ctlPass_mem (fun s t => by grind [popHandle_mem, popEnd_mem, trapCtl_mem, ctlBlock_mem, ctlDone_mem]) s t _ _ _ _ _ _ _

@[simp] theorem softVec_mem (op : BitVec 8) (code : TrapCode) (w : FWord) (f : Foc) : (softVec op code w f).mem = f.s.mem := by
  grind [softVec, permit_mem, issue_mem, close_mem, next_state, trap_mem]

@[simp] theorem softCtl_mem (op : BitVec 8) (code : TrapCode) (w : FWord) (s : State) (t : Team) : (softCtl op code w s t).mem = s.mem :=
  ctlPass_mem (fun s t => by grind [trapCtl_mem]) s t _ _ _ _ _ _ _

@[simp] theorem sleepVec_mem (w : FWord) (f : Foc) : (sleepVec w f).mem = f.s.mem := by
  grind [sleepVec, permit_mem, issue_mem, trap_mem, close_mem, next_state, block_mem]

@[simp] theorem sleepCtl_mem (w : FWord) (s : State) (t : Team) : (sleepCtl w s t).mem = s.mem :=
  ctlPass_mem (fun s t => by grind [ctlDone_mem, ctlBlock_mem]) s t _ _ _ _ _ _ _

@[simp] theorem rdsysVec_mem (w : FWord) (f : Foc) : (rdsysVec w f).mem = f.s.mem := by
  unfold rdsysVec
  dsimp only
  split
  · grind [permit_mem]
  · rw [close_mem, next_state]
    generalize hg : Foc.issue _ _ _ _ _ _ = g
    refine (congrArg State.mem (foldl_keeps Foc.s (fun _ _ => by rfl) _ g)).trans ?_
    rw [← hg, issue_mem]

@[simp] theorem rdsysCtl_mem (w : FWord) (s : State) (t : Team) : (rdsysCtl w s t).mem = s.mem :=
  ctlPass_mem (fun s t => by grind [ctlDone_mem]) s t _ _ _ _ _ _ _

theorem wrsysThread_mem (w : FWord) (f : Foc) (p : Nat) {g : Foc} (h : wrsysThread w f p = .ok g) : g.s.mem = f.s.mem := by
  grind [wrsysThread, State.putGrid_mem]

@[simp] theorem wrsysVec_mem (w : FWord) (f : Foc) : (wrsysVec w f).mem = f.s.mem := by
  have hl := passLoop_mem (step := wrsysThread w) (zero := fun f _ => f) (fun f p g h => wrsysThread_mem w f p h) (fun _ _ => rfl)
  unfold wrsysVec
  grind [permit_mem, issue_mem, stopAt_mem, close_mem, next_state]

@[simp] theorem wrsysCtl_mem (w : FWord) (s : State) (t : Team) : (wrsysCtl w s t).mem = s.mem :=
  ctlPass_mem (fun s t => by grind [ctlDone_mem, trapCtl_mem, State.putGrid_mem]) s t _ _ _ _ _ _ _

/-! ### Accesses -/

@[simp] theorem planMem_mem (s : State) (a : MemReq) (need len : Nat) (read : Bool) (data : List Byte) (tag whole16 : Bool) :
    (s.planMem a need len read data tag whole16).1.mem = s.mem := by
  grind [State.planMem, planGlobal_mem, planPad_mem]

@[simp] theorem sendLoad_mem (s : State) (a : MemReq) (cap : Bool) (d : Dest) : (s.sendLoad a cap d).1.mem = s.mem := by
  grind [State.sendLoad, planMem_mem, start_mem]

@[simp] theorem elemGlobal_mem (s : State) (q : Req) (need n : Nat) : (s.elemGlobal q need n).1.mem = s.mem := by
  grind [State.elemGlobal, translate_mem]

@[simp] theorem padReady_mem (s : State) (h : Home) (len n : Nat) (who : Who) (read : Bool) : (s.padReady h len n who read).1.mem = s.mem := by
  cases h with
  | pad hp off => grind [State.padReady, sectorWait_mem]
  | _ => rfl

@[simp] theorem elemPad_mem (s : State) (pair space n : Nat) (who : Who) (read : Bool) : (s.elemPad pair space n who read).1.mem = s.mem := by
  grind [State.elemPad, padReady_mem]

@[simp] theorem elemAt_mem (s : State) (a : MemReq) (need : Nat) (read : Bool) : (s.elemAt a need read).1.mem = s.mem := by
  grind [State.elemAt, elemGlobal_mem, elemPad_mem]

@[simp] theorem sendElemLoad_mem (s : State) (a : MemReq) (reg ty : Nat) : (s.sendElemLoad a reg ty).1.mem = s.mem := by
  grind [State.sendElemLoad, elemAt_mem, start_mem]

@[simp] theorem dropPieces_mem (s : State) (pair : Nat) (l : List Piece) : (s.dropPieces pair l).mem = s.mem :=
  foldl_mem (fun s p => by grind [dropL1_mem]) l s

@[simp] theorem markClears_mem (s : State) (lo : Nat) : (s.markClears lo).mem = s.mem := rfl

@[simp] theorem settleClear_mem (s : State) (p : Piece) : (s.settleClear p).mem = s.mem := by
  grind [State.settleClear, State.putPair_mem]

@[simp] theorem putPiece_mem (s : State) (a : Access) (i : Nat) (p : Piece) : (s.putPiece a i p).mem = s.mem := rfl

/-! ### The units' accesses -/

@[simp] theorem logOwner_mem (s : State) (ctx what va : Nat) : (s.logOwner ctx what va).mem = s.mem := rfl

@[simp] theorem blockRead_mem (s : State) (h : Holder) (pa len lease part : Nat) : (s.blockRead h pa len lease part).1.mem = s.mem := by
  grind [State.blockRead, readDev_mem, grant_mem, addCopy_mem]

@[simp] theorem unitAny_mem (s : State) (q : Req) (va need : Nat) : (s.unitAny q va need).1.mem = s.mem := by
  grind [State.unitAny, translate_mem, logOwner_mem]

@[simp] theorem unitPage_mem (s : State) (q : Req) (va need : Nat) : (s.unitPage q va need).1.mem = s.mem := by
  grind [State.unitPage, unitAny_mem]

@[simp] theorem burstRead_mem (s : State) (h : Holder) (pa len lease part : Nat) : (s.burstRead h pa len lease part).1.mem = s.mem := by
  grind [State.burstRead, readBursts_mem, grant_mem, addCopy_mem]

@[simp] theorem unitRead_mem (s : State) (q : Req) (h : Holder) (va len : Nat) (n : Nat) : (s.unitRead q h va len n).1.mem = s.mem := by
  induction n generalizing s va len with
  | zero => rfl
  | succ n ih => grind [State.unitRead, unitPage_mem, blockRead_mem]

@[simp] theorem unitNat_mem (s : State) (q : Req) (h : Holder) (va len : Nat) : (s.unitNat q h va len).1.mem = s.mem := by
  grind [State.unitNat, unitRead_mem]

@[simp] theorem unitBlock_mem (s : State) (q : Req) (h : Holder) (va len : Nat) : (s.unitBlock q h va len).1.mem = s.mem := by
  grind [State.unitBlock, unitPage_mem, unitNat_mem, burstRead_mem]

@[simp] theorem unitMig_mem (s : State) (q : Req) (need va len : Nat) (n : Nat) : (s.unitMig q need va len n).1.mem = s.mem := by
  induction n generalizing s va len with
  | zero => rfl
  | succ n ih => grind [State.unitMig, unitPage_mem]

@[simp] theorem migWait_mem (s : State) (h : MigHolder) (ctx page : Nat) : (s.migWait h ctx page).mem = s.mem := rfl

theorem whenMigrated_keeps (P : Tab Byte → Prop) {act : State → State} (ha : ∀ s, P s.mem → P (act s).mem) {s : State} (h : MigHolder) (q : Req)
    (need va len : Nat) (hs : P s.mem) : P (s.whenMigrated h q need va len act).mem := by
  unfold State.whenMigrated
  have hm := unitMig_mem s q need va len (len / 4096 + 2)
  grind [migWait_mem]

@[simp] theorem ackL1_mem (s : State) (pair : Nat) (p : Piece) (w : Nat) : (s.ackL1 pair p w).mem = s.mem := by
  grind [State.ackL1]

@[simp] theorem putIsland_mem (s : State) (key : Nat) (i : Island) : (s.putIsland key i).mem = s.mem := rfl

@[simp] theorem askIsland_mem (s : State) (kind core : Nat) (x : List Word) : (s.askIsland kind core x).1.mem = s.mem := by
  grind [State.askIsland, putIsland_mem]

/-! ### Textures -/

@[simp] theorem mapBits_mem (s : State) (q : Req) (h : Holder) (d : Nat) (l : List Nat) : (s.mapBits q h d l).1.mem = s.mem := by
  induction l generalizing s with
  | nil => rfl
  | cons x l ih => grind [State.mapBits, unitNat_mem]

@[simp] theorem resident_mem (s : State) (q : Req) (h : Holder) (d : Nat) (l : List Nat) : (s.resident q h d l).1.mem = s.mem := by
  grind [State.resident, mapBits_mem]

@[simp] theorem resolveLevel_mem (s : State) (q : Req) (h : Holder) (d : Nat) (j : TexJob) (l : Nat) (n : Nat) :
    (s.resolveLevel q h d j l n).1.mem = s.mem := by
  induction n generalizing s l with
  | zero => rfl
  | succ n ih => grind [State.resolveLevel, resident_mem]

@[simp] theorem texelNat_mem (s : State) (q : Req) (h : Holder) (va len : Nat) : (s.texelNat q h va len).1.mem = s.mem := by
  unfold State.texelNat
  have hu := unitAny_mem s q va needR
  split
  · grind
  · split
    · grind [unitNat_mem]
    · split
      · grind
      · refine (foldl_keeps (fun a : State × Except UnitErr (Option Nat) => a.1.mem) (fun a x => ?_) _ _).trans (by grind)
        grind [blockRead_mem]
  · grind

@[simp] theorem channels_mem (s : State) (fmt : Nat) (v : Option Nat) : (s.channels fmt v).1.mem = s.mem := by
  cases v <;> rfl

@[simp] theorem texelBlock_mem (s : State) (q : Req) (h : Holder) (d tile x y : Nat) : (s.texelBlock q h d tile x y).1.mem = s.mem := by
  grind [State.texelBlock, unitNat_mem, unitBlock_mem, State.newFree_mem]

@[simp] theorem texel_mem (s : State) (q : Req) (h : Holder) (d l layer : Nat) (t : Option (Nat × Nat)) :
    (s.texel q h d l layer t).1.mem = s.mem := by
  unfold State.texel
  grind [texelNat_mem, channels_mem, texelBlock_mem]

@[simp] theorem texels_mem (s : State) (q : Req) (h : Holder) (d l layer : Nat) (y : List (Option (Nat × Nat))) :
    (s.texels q h d l layer y).1.mem = s.mem := by
  induction y generalizing s with
  | nil => rfl
  | cons x y ih => grind [State.texels, texel_mem]

/-! ### Engines -/

@[simp] theorem engChunks_mem (s : State) (o : EngOp) (space want need addr len : Nat) (whole : Bool) :
    (s.engChunks o space want need addr len whole).1.mem = s.mem := by
  grind [State.engChunks, translateRange_mem, sectorWait_mem]

@[simp] theorem chunkRead_mem (s : State) (addr : Nat) (c : Chunk) : (s.chunkRead addr c).1.mem = s.mem := by
  grind [State.chunkRead, readDev_mem, State.newFree_mem]

@[simp] theorem chunksRead_mem (s : State) (addr : Nat) (l : List Chunk) : (s.chunksRead addr l).1.mem = s.mem := by
  induction l generalizing s addr with
  | nil => rfl
  | cons x l ih => grind [State.chunksRead, chunkRead_mem]

@[simp] theorem engRead_mem (s : State) (o : EngOp) (space want addr len : Nat) : (s.engRead o space want addr len).1.mem = s.mem := by
  grind [State.engRead, engChunks_mem, chunksRead_mem]

@[simp] theorem engElem_mem (s : State) (o : EngOp) (space want need n : Nat) : (s.engElem o space want need n).1.mem = s.mem := by
  grind [State.engElem, elemGlobal_mem, elemPad_mem]

@[simp] theorem engValue_mem (s : State) (o : EngOp) (a : Nat) : (s.engValue o a).1.mem = s.mem := by
  grind [State.engValue, engRead_mem, engElem_mem, chunkRead_mem]

@[simp] theorem engValues_mem (s : State) (o : EngOp) (l : List Nat) : (s.engValues o l).1.mem = s.mem := by
  induction l generalizing s with
  | nil => rfl
  | cons x l ih => grind [State.engValues, engValue_mem]

@[simp] theorem engLine_mem (s : State) (o : EngOp) (space fmt need a : Nat) : (s.engLine o space fmt need a).1.mem = s.mem := by
  grind [State.engLine, engElem_mem, sectorWait_mem]

@[simp] theorem putRing_mem (s : State) (pair k : Nat) (r : Ring) : (s.putRing pair k r).mem = s.mem := rfl

@[simp] theorem ringArrive_mem (s : State) (o : EngOp) (b n : Nat) : (s.ringArrive o b n).mem = s.mem := by
  grind [State.ringArrive, putRing_mem]

@[simp] theorem ringCut_mem (s : State) (o : EngOp) : (s.ringCut o).mem = s.mem := rfl

@[simp] theorem engIndex_mem (s : State) (o : EngOp) (i : Nat) : (s.engIndex o i).1.mem = s.mem := by
  grind [State.engIndex, engRead_mem]

@[simp] theorem engSpot_mem (s : State) (o : EngOp) (u : Nat) : (s.engSpot o u).1.mem = s.mem := by
  grind [State.engSpot, engIndex_mem]

@[simp] theorem unitSources_mem (s : State) (o : EngOp) (p : Spot) (u : Nat) (n : Nat) : (s.unitSources o p u n).1.mem = s.mem := by
  induction n generalizing s u with
  | zero => rfl
  | succ n ih => grind [State.unitSources, engSpot_mem]

@[simp] theorem lineRead_mem (s : State) (addr : Nat) (l : List Chunk) : (s.lineRead addr l).1.mem = s.mem := by
  induction l generalizing s addr with
  | nil => rfl
  | cons x l ih => grind [State.lineRead, chunkRead_mem]

@[simp] theorem engMode_mem (s : State) (o : EngOp) (perm need : Nat) (a : Option Nat) : (s.engMode o perm need a).1.mem = s.mem := by
  unfold State.engMode
  split
  · rfl
  · split
    · rfl
    · grind [engChunks_mem]

@[simp] theorem blockBytes_mem (s : State) (o : EngOp) (a n : Nat) : (s.blockBytes o a n).1.mem = s.mem := by
  grind [State.blockBytes, engChunks_mem, readBursts_mem, engRead_mem]

@[simp] theorem engPixels_mem (s : State) (o : EngOp) (a : Nat) : (s.engPixels o a).1.mem = s.mem := by
  grind [State.engPixels, engRead_mem, engMode_mem, blockBytes_mem]

@[simp] theorem engineFault_mem (s : State) (o : EngOp) (t : Trap) : (s.engineFault o t).mem = s.mem := rfl

@[simp] theorem noteMoved_mem (s : State) (o : EngOp) (u : Nat) (m : Moved) : (s.noteMoved o u m).mem = s.mem := by
  grind [State.noteMoved, ringArrive_mem, noteHostWrite_mem]

/-! ### The pool -/

theorem countPass_mem (f : Foc) (op : BitVec 8) (w : FWord) (d : Opd) {t : State} (h : f.countPass op w d = .error t) : t.mem = f.s.mem := by
  grind [Foc.countPass, permit_mem, trap_mem]

@[simp] theorem rclaimVec_mem (w : FWord) (f : Foc) : (rclaimVec w f).mem = f.s.mem := by
  grind [rclaimVec, countPass_mem, trapIssue_mem, spend_mem, State.putRod_mem, close_mem, block_mem, issue_mem, next_state]

@[simp] theorem rclaimtVec_mem (w : FWord) (f : Foc) : (rclaimtVec w f).mem = f.s.mem := by
  grind [rclaimtVec, countPass_mem, trapIssue_mem, issue_mem, close_mem, next_state]

@[simp] theorem rreleaseVec_mem (w : FWord) (f : Foc) : (rreleaseVec w f).mem = f.s.mem := by
  grind [rreleaseVec, countPass_mem, trapIssue_mem, close_mem, block_mem, spend_mem, issue_mem, next_state]

@[simp] theorem grantClaim_mem (s : State) (pair q : Nat) (c : Claim) : (s.grantClaim pair q c).mem = s.mem := by
  grind [State.grantClaim, State.putRod_mem, State.putTeam_mem]

@[simp] theorem scanClaims_mem (s : State) (pair q : Nat) : (s.scanClaims pair q).mem = s.mem := foldl_mem (fun s _ => by grind [grantClaim_mem]) _ s

@[simp] theorem deadlockTrap_mem (s : State) (c : Claim) : (s.deadlockTrap c).mem = s.mem := by
  grind [State.deadlockTrap, focus_spec, trapIssue_mem]

@[simp] theorem settlePool_mem (s : State) (pair q : Nat) : (s.settlePool pair q).mem = s.mem := by
  unfold State.settlePool
  dsimp only
  split
  · rw [foldl_mem deadlockTrap_mem, State.putRod_mem, scanClaims_mem]
  · exact scanClaims_mem s pair q

@[simp] theorem settlePools_mem (s : State) : s.settlePools.mem = s.mem :=
  foldl_mem (fun s _ => foldl_mem (fun s _ => by grind [settlePool_mem]) _ s) _ s

@[simp] theorem rshareVec_mem (w : FWord) (f : Foc) : (rshareVec w f).mem = f.s.mem := by
  grind [rshareVec, permit_mem, trapIssue_mem, close_mem, next_state, block_mem, spend_mem, issue_mem, State.putTeam_mem]

@[simp] theorem runshareVec_mem (w : FWord) (f : Foc) : (runshareVec w f).mem = f.s.mem := by
  unfold runshareVec
  grind [permit_mem, trapIssue_mem, issue_mem, close_mem, next_state, State.putTeam_mem]

theorem depositThread_mem (w : FWord) (f : Foc) (p : Nat) {g : Foc} (h : depositThread w f p = .ok g) : g.s.mem = f.s.mem := by
  grind [depositThread, State.newId_mem]

@[simp] theorem depositVec_mem (w : FWord) (f : Foc) : (depositVec w f).mem = f.s.mem := by
  have hl := passLoop_mem (step := depositThread w) (zero := fun f _ => f) (fun f p g h => depositThread_mem w f p h) (fun _ _ => rfl)
  unfold depositVec
  grind [permit_mem, trapIssue_mem, issue_mem, stopAt_mem, close_mem, next_state]

theorem rmarkThread_mem (w : FWord) (f : Foc) (p : Nat) {g : Foc} (h : rmarkThread w f p = .ok g) : g.s.mem = f.s.mem := by
  grind [rmarkThread]

@[simp] theorem rmarkVec_mem (w : FWord) (f : Foc) : (rmarkVec w f).mem = f.s.mem := by
  have hl := passLoop_mem (step := rmarkThread w) (zero := fun f _ => f) (fun f p g h => rmarkThread_mem w f p h) (fun _ _ => rfl)
  unfold rmarkVec
  grind [permit_mem, issue_mem, stopAt_mem, close_mem, next_state]

@[simp] theorem rarrivVec_mem (w : FWord) (f : Foc) : (rarrivVec w f).mem = f.s.mem := by
  grind [rarrivVec, permit_mem, trap_mem, close_mem, block_mem, spend_mem, issue_mem, next_state]

@[simp] theorem depositArrive_mem (s : State) (id : Nat) : (s.depositArrive id).mem = s.mem := by
  grind [State.depositArrive, putRank_mem, arrived_mem]

/-! ### Copies, rings and ranges -/

@[simp] theorem badHandle_mem (h : Nat) (s : State) (t : Team) : (badHandle h s t).mem = s.mem := by
  grind [badHandle, trapCtl_mem]

@[simp] theorem sideFmt_mem (s : State) (q : Req) (c : TCap) : (s.sideFmt q c).1.mem = s.mem := by
  grind [State.sideFmt, translate_mem]

@[simp] theorem putLocks_mem (s : State) (l : List (Nat × RangeLock)) : (s.putLocks l).mem = s.mem :=
  foldl_mem (fun s _ => by grind [State.putPair_mem]) l s

@[simp] theorem freeLocks_mem (s : State) (op : Nat) : (s.freeLocks op).mem = s.mem := rfl

@[simp] theorem copyTarget_mem (s : State) (o : EngOp) : (s.copyTarget o).1.mem = s.mem := by
  grind [State.copyTarget, engRead_mem]

@[simp] theorem copyStart_mem (o : EngOp) (s : State) (t : Team) : (copyStart o s t).mem = s.mem := by
  grind [copyStart, ctlDone_mem, ctlBlock_mem, State.newId_mem, putLocks_mem]

@[simp] theorem copyIssue_mem (kind : OpKind) (hi : DWord) (w : FWord) (s : State) (t : Team) : (copyIssue kind hi w s t).mem = s.mem := by
  unfold copyIssue
  dsimp only
  split
  · exact trapCtl_mem s t _
  · split
    · grind [badHandle_mem, ctlDone_mem]
    · split
      · exact trapCtl_mem s t _
      · generalize hx : (if (copyOp kind w t).ring = true then ((s.sideFmt (copyOp kind w t).req (copyOp kind w t).src).1, 0) else _) = x
        have hm : x.1.mem = s.mem := by grind [sideFmt_mem]
        split
        · exact (trapCtl_mem _ t _).trans hm
        · grind [trapCtl_mem, badHandle_mem, copyTarget_mem, copyStart_mem, ctlBlock_mem]

@[simp] theorem copyCtl_mem (op : BitVec 8) (kind : OpKind) (w : FWord) (s : State) (t : Team) : (copyCtl op kind w s t).mem = s.mem :=
  ctlPass_mem (fun s t => by grind [copyIssue_mem]) s t _ _ _ _ _ _ _

@[simp] theorem hwaitCtl_mem (w : FWord) (s : State) (t : Team) : (hwaitCtl w s t).mem = s.mem :=
  ctlPass_mem (fun s t => by grind [badHandle_mem, ctlBlock_mem, ctlDone_mem]) s t _ _ _ _ _ _ _

@[simp] theorem htestCtl_mem (w : FWord) (s : State) (t : Team) : (htestCtl w s t).mem = s.mem :=
  ctlPass_mem (fun s t => by grind [ctlDone_mem]) s t _ _ _ _ _ _ _

@[simp] theorem cancelOp_mem (s : State) (id : Nat) : (s.cancelOp id).mem = s.mem := rfl

@[simp] theorem hcancelCtl_mem (w : FWord) (s : State) (t : Team) : (hcancelCtl w s t).mem = s.mem :=
  ctlPass_mem (fun s t => by grind [badHandle_mem, ctlDone_mem, cancelOp_mem]) s t _ _ _ _ _ _ _

@[simp] theorem ringinitCtl_mem (w : FWord) (s : State) (t : Team) : (ringinitCtl w s t).mem = s.mem :=
  ctlPass_mem (fun s t => by grind [trapCtl_mem, ctlDone_mem, putRing_mem]) s t _ _ _ _ _ _ _

@[simp] theorem rwaitVec_mem (w : FWord) (f : Foc) : (rwaitVec w f).mem = f.s.mem := by
  grind [rwaitVec, permit_mem, close_mem, next_state, issue_mem, trapIssue_mem, block_mem, spend_mem, putRing_mem]

@[simp] theorem rwaitCtl_mem (w : FWord) (s : State) (t : Team) : (rwaitCtl w s t).mem = s.mem :=
  ctlPass_mem (fun s t => by grind [trapCtl_mem, ctlBlock_mem, ctlDone_mem, putRing_mem]) s t _ _ _ _ _ _ _

@[simp] theorem rfreeVec_mem (w : FWord) (f : Foc) : (rfreeVec w f).mem = f.s.mem := by
  unfold rfreeVec
  grind [permit_mem, trapIssue_mem, trap_mem, issue_mem, close_mem, next_state, block_mem, spend_mem, putRing_mem]

@[simp] theorem rfreeCtl_mem (w : FWord) (s : State) (t : Team) : (rfreeCtl w s t).mem = s.mem :=
  ctlPass_mem (fun s t => by grind [trapCtl_mem, ctlDone_mem, putRing_mem]) s t _ _ _ _ _ _ _

@[simp] theorem lockWalk_mem (s : State) (r : Region) (va : Nat) (n : Nat) : (s.lockWalk r va n).1.mem = s.mem := by
  induction n generalizing s va with
  | zero => rfl
  | succ n ih => grind [State.lockWalk, walk_mem]

@[simp] theorem fillLine_mem (s : State) (line : Nat) : (s.fillLine line).mem = s.mem :=
  (noteLine_mem _ _ _ _).trans (foldl_mem (fun s _ => by grind [sectorRead_mem]) _ s)

@[simp] theorem pinLine_mem (s : State) (line part : Nat) : (s.pinLine line part).1.mem = s.mem := by
  grind [State.pinLine, touch_mem, evict_mem, fillLine_mem]

@[simp] theorem pinLoop_mem (s : State) (part : Nat) (l : List Nat) : (s.pinLoop part l).1.mem = s.mem := by
  induction l generalizing s with
  | nil => rfl
  | cons x l ih => grind [State.pinLoop, pinLine_mem]

@[simp] theorem pinLines_mem (s : State) (part : Nat) (l : List Nat) : (s.pinLines part l).1.mem = s.mem := by
  grind [State.pinLines, pinLoop_mem]

@[simp] theorem unpinLines_mem (s : State) (l : List Nat) : (s.unpinLines l).mem = s.mem := foldl_mem (fun s _ => by grind) l s

@[simp] theorem rangeLines_mem (s : State) (ctx va len : Nat) (n : Nat) : (s.rangeLines ctx va len n).1.mem = s.mem := by
  induction n generalizing s va len with
  | zero => rfl
  | succ n ih => grind [State.rangeLines, walk_mem]

@[simp] theorem cpin_mem (s : State) (o : EngOp) : (s.cpin o).1.mem = s.mem := by
  grind [State.cpin, rangeLines_mem, unpinLines_mem, pinLines_mem]

@[simp] theorem rangeIssue_mem (kind : OpKind) (w : FWord) (s : State) (t : Team) : (rangeIssue kind w s t).mem = s.mem := by
  grind [rangeIssue, badHandle_mem, ctlDone_mem, trapCtl_mem, State.newId_mem]

@[simp] theorem rangeCtl_mem (op : BitVec 8) (kind : OpKind) (mods : Nat) (w : FWord) (s : State) (t : Team) :
    (rangeCtl op kind mods w s t).mem = s.mem :=
  ctlPass_mem (fun s t => by grind [rangeIssue_mem]) s t _ _ _ _ _ _ _

@[simp] theorem ringClaim_mem (s : State) (o : EngOp) : (s.ringClaim o).mem = s.mem := by
  grind [State.ringClaim, State.putOp_mem, putRing_mem]

@[simp] theorem resolveHandles_mem (s : State) (id : Nat) (r : HResult) : (s.resolveHandles id r).mem = s.mem := rfl

/-! ### Matrix -/

@[simp] theorem putAbacus_mem (s : State) (pair layer : Nat) (a : Abacus) : (s.putAbacus pair layer a).mem = s.mem := rfl

@[simp] theorem endLease_mem (s : State) (t : Team) : (s.endLease t).mem = s.mem := by
  grind [State.endLease, putAbacus_mem]

@[simp] theorem accept_mem (s : State) (t : Team) (o : MatOp) : (s.accept t o).mem = s.mem := rfl

@[simp] theorem macqCtl_mem (w : FWord) (s : State) (t : Team) : (macqCtl w s t).mem = s.mem :=
  ctlPass_mem (fun s t => by grind [endLease_mem, ctlDone_mem]) s t _ _ _ _ _ _ _

@[simp] theorem mrelCtl_mem (w : FWord) (s : State) (t : Team) : (mrelCtl w s t).mem = s.mem :=
  ctlPass_mem (fun s t => by grind [ctlDone_mem, endLease_mem]) s t _ _ _ _ _ _ _

@[simp] theorem mzeroCtl_mem (w : FWord) (s : State) (t : Team) : (mzeroCtl w s t).mem = s.mem :=
  ctlPass_mem (fun s t => by grind [ctlDone_mem, accept_mem]) s t _ _ _ _ _ _ _

@[simp] theorem matFills_mem (s : State) (pair : Nat) (who : Who) (l : List (Nat × Nat × Nat)) : (s.matFills pair who l).1.mem = s.mem := by
  induction l generalizing s with
  | nil => rfl
  | cons x l ih => grind [State.matFills, sectorWait_mem]

@[simp] theorem idxStop_mem (s : State) (t : Team) (x : IdxList) : (s.idxStop t x).1.mem = s.mem := by
  grind [State.idxStop, matFills_mem]

@[simp] theorem matStop_mem (s : State) (t : Team) (e : Stop) : (s.matStop t e).mem = s.mem := by
  cases e with
  | trap tr => exact trapCtl_mem s t tr
  | block b => rfl

@[simp] theorem mmaIssue_mem (o : MatOp) (x : Option IdxList) (hi : DWord) (s : State) (t : Team) : (mmaIssue o x hi s t).mem = s.mem := by
  unfold mmaIssue
  dsimp only
  split
  · exact trapCtl_mem s t _
  · rw [matStop_mem, idxStop_mem]
  · grind [matFills_mem, accept_mem, endLease_mem, ctlBlock_mem, ctlDone_mem]

@[simp] theorem tileRows_mem (s : State) (t : Team) (c : TCap) (leaf len : Nat) (l : List Nat) : (s.tileRows t c leaf len l).1.mem = s.mem := by
  induction l generalizing s with
  | nil => rfl
  | cons x l ih => grind [State.tileRows, planMem_mem]

@[simp] theorem tileElems_mem (s : State) (t : Team) (c : TCap) (fmt : Nat) (l : List Nat) : (s.tileElems t c fmt l).1.mem = s.mem := by
  induction l generalizing s with
  | nil => rfl
  | cons x l ih => grind [State.tileElems, elemAt_mem]

@[simp] theorem tileElemRows_mem (s : State) (t : Team) (c : TCap) (fmt : Nat) (l : List Nat) : (s.tileElemRows t c fmt l).1.mem = s.mem := by
  induction l generalizing s with
  | nil => rfl
  | cons x l ih => grind [State.tileElemRows, tileElems_mem]

@[simp] theorem destFmt_mem (s : State) (t : Team) (c : TCap) (l : List Nat) : (s.destFmt t c l).1.mem = s.mem := by
  induction l generalizing s with
  | nil => rfl
  | cons x l ih => grind [State.destFmt, translate_mem]

@[simp] theorem storeIssue_mem (o : MatOp) (c : TCap) (pitch : Nat) (x : Option IdxList) (hi : DWord) (s : State) (t : Team) :
    (storeIssue o c pitch x hi s t).mem = s.mem := by
  grind [storeIssue, trapCtl_mem, destFmt_mem, matStop_mem, idxStop_mem, tileRows_mem, ctlDone_mem, accept_mem, tileElemRows_mem]

@[simp] theorem mstoreCtl_mem (op : BitVec 8) (gather : Bool) (w : FWord) (s : State) (t : Team) : (mstoreCtl op gather w s t).mem = s.mem :=
  ctlPass_mem (fun s t => by grind [trapCtl_mem, storeIssue_mem]) s t _ _ _ _ _ _ _

@[simp] theorem amaxstepCtl_mem (w : FWord) (s : State) (t : Team) : (amaxstepCtl w s t).mem = s.mem :=
  ctlPass_mem (fun s t => by grind [ctlDone_mem, accept_mem]) s t _ _ _ _ _ _ _

theorem slotReady_keeps (P : Tab Byte → Prop) {act : State → State} (ha : ∀ s, P s.mem → P (act s).mem) {s : State} (pair layer : Nat) (t : Team)
    (slot : Option Nat) (hs : P s.mem) : P (s.slotReady pair layer t slot act).mem := by
  cases slot with
  | none => exact ha s hs
  | some n => exact whenMigrated_keeps P ha _ _ _ _ _ hs

@[simp] theorem retire_mem (s : State) (pair layer i : Nat) (next : Option MatOp) : (s.retire pair layer i next).mem = s.mem := rfl

@[simp] theorem mmaChunk_mem (s : State) (layer i : Nat) (t : Team) (o : MatOp) : (s.mmaChunk layer i t o).mem = s.mem := by
  grind [State.mmaChunk, retire_mem, State.putTeam_mem]

@[simp] theorem readPieces_mem (s : State) (addr : Nat) (l : List Piece) : (s.readPieces addr l).1.mem = s.mem := by
  induction l generalizing s addr with
  | nil => rfl
  | cons x l ih => grind [State.readPieces, chunkRead_mem]

@[simp] theorem loadRows_mem (s : State) (fail : Tile → TrapCode → Nat → Tile) (o : MatOp) (l : List (Nat × Nat × List Piece)) (y : Tile) :
    (s.loadRows fail o l y).1.mem = s.mem := by
  induction l generalizing s y with
  | nil => rfl
  | cons x l ih => grind [State.loadRows, readPieces_mem]

@[simp] theorem shuffled_mem {α : Type} (s : State) (l : List α) (n : Nat) : (s.shuffled l n).1.mem = s.mem := by
  induction n generalizing s l with
  | zero => rfl
  | succ n ih => grind [State.shuffled, State.newFree_mem]

@[simp] theorem drawHeads_mem (s : State) (pair layer : Nat) : (s.drawHeads pair layer).mem = s.mem :=
  foldl_mem (fun s _ => by grind [putAbacus_mem, State.putTeam_mem]) _ s

@[simp] theorem leaseGrant_mem (s : State) (pair : Nat) : (s.leaseGrant pair).mem = s.mem := by
  unfold State.leaseGrant
  split
  · rfl
  · exact foldl_mem (fun s _ => putAbacus_mem s _ _ _) _ s

@[simp] theorem noteReady_mem (s : State) : s.noteReady.mem = s.mem := foldl_mem (fun s _ => foldl_mem (fun s _ => by grind [putAbacus_mem]) _ s) _ s

@[simp] theorem hangReset_mem (s : State) (pair layer : Nat) : (s.hangReset pair layer).mem = s.mem := by
  grind [State.hangReset, putAbacus_mem]

@[simp] theorem matrixDeliver_mem (s : State) (uid : Nat) : (s.matrixDeliver uid).mem = s.mem := by
  grind [State.matrixDeliver, trapCtl_mem]

/-! ### Loads and stores -/

theorem memLoop_keeps (P : Tab Byte → Prop) {q : MemPass} (hs : ∀ f p, P f.s.mem → P (q.step f p).1.s.mem) (hz : ∀ f p, (q.zero f p).s = f.s)
    (ps : List Nat) {f : Foc} (h : P f.s.mem) : P (memLoop q ps f).1.s.mem := by
  induction ps generalizing f with
  | nil => exact h
  | cons p ps ih =>
    have hp := hs f p h
    unfold memLoop
    split
    · exact ih (by grind)
    · grind
    · split
      · exact ih (by rw [hz]; grind)
      · grind

@[simp] theorem grouped_mem (s : State) (lo : Nat) (quad : Bool) (ps : List Nat) : (s.grouped lo quad ps).mem = s.mem := rfl

@[simp] theorem sent_mem (f : Foc) (lo : Nat) (ps : List Nat) : (f.sent lo ps).s.mem = f.s.mem := rfl

theorem memVec_keeps (P : Tab Byte → Prop) {q : MemPass} (hs : ∀ f p, P f.s.mem → P (q.step f p).1.s.mem) (hz : ∀ f p, (q.zero f p).s = f.s)
    (g : BitVec 3) (gn : Bool) {f : Foc} (h : P f.s.mem) : P (memVec q g gn f).mem := by
  unfold memVec
  dsimp only
  split
  · rename_i s hs
    rwa [permit_mem f _ _ hs]
  · have hl := memLoop_keeps P hs hz (f.members g.toNat gn) (f := f.issue clsPer q.reads q.writes (f.members g.toNat gn) false) (by rwa [issue_mem])
    split
    · rw [stopAt_mem, sent_mem]; grind
    · rw [close_mem, next_state, sent_mem]; grind

theorem memVec_mem {q : MemPass} (hs : ∀ f p, (q.step f p).1.s.mem = f.s.mem) (hz : ∀ f p, (q.zero f p).s = f.s) (g : BitVec 3) (gn : Bool)
    (f : Foc) : (memVec q g gn f).mem = f.s.mem :=
  memVec_keeps (fun m => m = f.s.mem) (fun u p h => (hs u p).trans h) hz g gn rfl

theorem ctlSent_mem (t : Team) (w : MemWord) (zero : Ctl → Ctl) (load : Bool) (out : State × Except Stop Sent) :
    (ctlSent t w zero load out).mem = out.1.mem := by
  obtain ⟨s, x⟩ := out
  cases x with
  | error e => cases e with
    | trap tr => exact trapCtl_mem s t tr
    | block b => rfl
  | ok x => cases x with
    | sparse => rfl
    | access id => cases load <;> rfl

theorem loaded_state (f : Foc) (p : Nat) (o : Opd) (d : Fld) (res : BitVec 3) (out : State × Except Stop Sent) :
    (f.loaded p o d res out).1.s = out.1 := by
  obtain ⟨s, x⟩ := out
  cases x with
  | error e => rfl
  | ok x => cases x <;> rfl

theorem stored_state (f : Foc) (p : Nat) (res : BitVec 3) (out : State × Except Stop Sent) : (f.stored p res out).1.s = out.1 := by
  obtain ⟨s, x⟩ := out
  cases x with
  | error e => rfl
  | ok x => cases x <;> rfl

theorem loadCtl_mem {send : State → MemReq → State × Except Stop Sent} (hs : ∀ s a, (send s a).1.mem = s.mem) (op : BitVec 8) (w : MemWord)
    (o : Opd) (types : Nat → Bool) (u : Nat) (s : State) (t : Team) : (loadCtl op w o types u send s t).mem = s.mem :=
  ctlPass_mem (fun s t => (ctlSent_mem _ _ _ _ _).trans (hs s _)) s t _ _ _ _ _ _ _

@[simp] theorem ldSend_mem (w : MemWord) (s : State) (a : MemReq) : (ldSend w s a).1.mem = s.mem := by
  grind [ldSend, sendLoad_mem]

@[simp] theorem ldfSend_mem (w : MemWord) (s : State) (a : MemReq) : (ldfSend w s a).1.mem = s.mem := by
  grind [ldfSend, sendElemLoad_mem]

@[simp] theorem ldcapSend_mem (w : MemWord) (s : State) (a : MemReq) : (ldcapSend w s a).1.mem = s.mem := by
  grind [ldcapSend, sendLoad_mem]

theorem storeCtl_keeps (P : Tab Byte → Prop) {send : State → Team → MemReq → TCap → State × Except Stop Sent}
    (hs : ∀ s t a v, P s.mem → P (send s t a v).1.mem) (op : BitVec 8) (w : MemWord) (o : Opd) (types : Nat → Bool) (u : Nat) {s : State} (t : Team)
    (h : P s.mem) : P (storeCtl op w o types u send s t).mem :=
  ctlPass_keeps P (fun s t h => by rw [ctlSent_mem]; exact hs s t _ _ h) t _ _ _ _ _ _ _ h

theorem cmpThread_state (q : CmpPass) (w : MemWord) (n : Nat) (f : Foc) (p : Nat) :
    (cmpThread q w n f p).1.s = f.s ∨ ∃ a, (cmpThread q w n f p).1.s = (q.send f p a).1 := by
  unfold cmpThread
  split
  · exact .inl rfl
  · dsimp only
    split
    · exact .inr ⟨_, loaded_state _ _ _ _ _ _⟩
    · exact .inr ⟨_, stored_state _ _ _ _⟩

theorem cmpLoop_keeps (P : Tab Byte → Prop) {q : CmpPass} (hs : ∀ f p a, P f.s.mem → P (q.send f p a).1.mem) (w : MemWord) (ps : List Nat) (n : Nat)
    {f : Foc} (h : P f.s.mem) : P (cmpLoop q w ps n f).1.s.mem := by
  induction ps generalizing f n with
  | nil => exact h
  | cons p ps ih =>
    have hp : P (cmpThread q w n f p).1.s.mem := by
      obtain he | ⟨a, he⟩ := cmpThread_state q w n f p
      · rwa [he]
      · rw [he]; exact hs f p a h
    grind [cmpLoop]

theorem cmpVec_keeps (P : Tab Byte → Prop) {q : CmpPass} (hs : ∀ f p a, P f.s.mem → P (q.send f p a).1.mem) (w : MemWord) {f : Foc}
    (h : P f.s.mem) : P (cmpVec q w f).mem := by
  unfold cmpVec
  have hl := cmpLoop_keeps P hs w (f.members w.g.toNat w.gn)
  grind [permit_mem, issue_mem, stopAt_mem, close_mem, next_state, sent_mem]

theorem cmpVec_mem {q : CmpPass} (hs : ∀ f p a, (q.send f p a).1.mem = f.s.mem) (w : MemWord) (f : Foc) : (cmpVec q w f).mem = f.s.mem :=
  cmpVec_keeps (fun m => m = f.s.mem) (fun u p a h => (hs u p a).trans h) w rfl

@[simp] theorem memNotCtl_mem (op : BitVec 8) (w : MemWord) (s : State) (t : Team) : (memNotCtl op w s t).mem = s.mem := by
  grind [memNotCtl, trapCtl_mem]

@[simp] theorem prefetch_mem (s : State) (a : MemReq) (u : Nat) : (s.prefetch a u).mem = s.mem := by
  grind [State.prefetch, State.newFree_mem, translate_mem, fillL1_mem]

@[simp] theorem trigger_mem (s : State) (pair sec : Nat) (who : Who) : (s.trigger pair sec who).mem = s.mem := by
  grind [State.trigger, State.putPair_mem]

@[simp] theorem triggerRange_mem (s : State) (pair off len : Nat) (who : Who) : (s.triggerRange pair off len who).mem = s.mem :=
  foldl_mem (fun s _ => trigger_mem s _ _ _) _ s

@[simp] theorem spwb_mem (s : State) (a : MemReq) (len : Nat) : (s.spwb a len).1.mem = s.mem := by
  grind [State.spwb, triggerRange_mem]

@[simp] theorem flushed_mem (s : State) (kind scope : Nat) (who : Who) : (s.flushed kind scope who).mem = s.mem := by
  grind [State.flushed]

/-! ### Fills -/

@[simp] theorem pastSplit_mem (s : State) (t : Team) (r : Rank) (x : Split) : (s.pastSplit t r x).mem = s.mem := by
  grind [State.pastSplit, putRank_mem]

@[simp] theorem sweepSpwb_mem (s : State) : s.sweepSpwb.mem = s.mem := foldl_mem (fun s t0 => by
  split
  · rfl
  · refine (foldl_mem (fun s r => foldl_mem (fun s x => by grind [pastSplit_mem]) _ s) _ _).trans ?_
    grind [ctlDone_mem]) _ s

@[simp] theorem wakeWaiter_mem (s : State) (pair sec : Nat) (who : Who) : (s.wakeWaiter pair sec who).mem = s.mem := by
  unfold State.wakeWaiter
  repeat' split
  all_goals rfl

@[simp] theorem releaseWaiters_mem (s : State) (pair sec : Nat) (x : Sector) : (s.releaseWaiters pair sec x).mem = s.mem := by
  have h : (x.anew.foldl (fun s who => s.trigger pair sec who) (x.waiters.foldl (fun s who => s.wakeWaiter pair sec who) s)).mem = s.mem :=
    (foldl_mem (fun s _ => trigger_mem s _ _ _) _ _).trans (foldl_mem (fun s _ => wakeWaiter_mem s _ _ _) _ s)
  unfold State.releaseWaiters
  dsimp only
  split
  · exact h
  · exact (sweepSpwb_mem _).trans h

@[simp] theorem fillDone_mem (s : State) (pair sec : Nat) (bytes : List Byte) : (s.fillDone pair sec bytes).mem = s.mem := by
  grind [State.fillDone, releaseWaiters_mem, State.putPair_mem]

@[simp] theorem padFill_mem (s : State) (pair sec : Nat) : (s.padFill pair sec).1.mem = s.mem := by
  grind [State.padFill, unitAny_mem, readDev_mem, fillDone_mem]

@[simp] theorem unitPad_mem (s : State) (pair off len : Nat) (n : Nat) : (s.unitPad pair off len n).1.mem = s.mem := by
  induction n generalizing s with
  | zero => rfl
  | succ n ih => grind [State.unitPad, padFill_mem]

/-! ### The heap -/

@[simp] theorem dallocZero_mem (w : FWord) (f : Foc) (p : Nat) : (dallocZero w f p).s.mem = f.s.mem := rfl

@[simp] theorem heapFree_mem (s : State) (who : Who) (q : Req) (c : TCap) : (s.heapFree who q c).1.mem = s.mem := by
  grind [State.heapFree, start_mem]

@[simp] theorem releaseFrees_mem (s : State) (mine : Who → Bool) : (s.releaseFrees mine).mem = s.mem :=
  foldl_mem (fun s _ => by grind [State.putCtx_mem]) _ s

@[simp] theorem settleFrees_mem (s : State) : s.settleFrees.mem = s.mem := by
  grind [State.settleFrees, releaseFrees_mem]

@[simp] theorem keepFrees_mem (s : State) (mine : Who → Bool) : (s.keepFrees mine).mem = s.mem := rfl

theorem dfreeThread_mem (w : FWord) (f : Foc) (p : Nat) {g : Foc} (h : dfreeThread w f p = .ok g) : g.s.mem = f.s.mem := by
  grind [dfreeThread, heapFree_mem]

/-! ### Sampling -/

@[simp] theorem readDesc_mem (s : State) (m : Master) (q : Req) (h : Holder) (c : TCap) : (s.readDesc m q h c).1.mem = s.mem := by
  grind [State.readDesc, unitNat_mem]

@[simp] theorem offer_mem (s : State) (core ctx header key record : Nat) : (s.offer core ctx header key record).mem = s.mem := by
  grind [State.offer, State.newId_mem]

@[simp] theorem remainder_mem (s : State) (core ctx : Nat) (d : Nat) (j : TexJob) (u : Option Nat) : (s.remainder core ctx d j u).mem = s.mem := by
  grind [State.remainder, offer_mem]

@[simp] theorem smLevels_mem (s : State) (q : Req) (h : Holder) (d : Nat) (j : TexJob) (tri : Bool) (from_ : Option Nat) :
    (s.smLevels q h d j tri from_).1.mem = s.mem := by
  unfold State.smLevels
  grind [resolveLevel_mem]

@[simp] theorem smStart_mem (s : State) (q : Req) (core op md : Nat) (helper : Bool) (dr : DescRead) (args us vs : List Word) (reg : Nat) :
    (s.smStart q core op md helper dr args us vs reg).2.mem = s.mem := by
  cases dr with
  | bad e => rfl
  | desc d => grind [State.smStart, smLevels_mem, remainder_mem]

@[simp] theorem runProbes_mem (s : State) (q : Req) (core d layer filt mode u count : Nat) (l : List (Nat × Nat × Bool × Word × Probe)) :
    (s.runProbes q core d layer filt mode u count l).1.mem = s.mem := by
  induction l generalizing s with
  | nil => rfl
  | cons x l ih => grind [State.runProbes, texels_mem, askIsland_mem]

@[simp] theorem smData_mem (s : State) (q : Req) (core op d md : Nat) (args probe : List Word) (levels : List Nat) (weight : Word) :
    (s.smData q core op d md args probe levels weight).1.mem = s.mem :=
  runProbes_mem s q core d _ _ _ _ _ _

@[simp] theorem smFinish_mem (s : State) (q : Req) (core : Nat) (k : AccKind) : (s.smFinish q core k).1.mem = s.mem := by
  unfold State.smFinish
  grind [smData_mem]

theorem smThread_mem (op : Nat) (w : FWord) (f : Foc) (p : Nat) {g : Foc} (h : smThread op w f p = .ok g) : g.s.mem = f.s.mem := by
  unfold smThread at h
  grind [readDesc_mem, smStart_mem, smFinish_mem, start_mem]

@[simp] theorem smZero_mem (op : Nat) (w : FWord) (f : Foc) (p : Nat) : (smZero op w f p).s.mem = f.s.mem := rfl

@[simp] theorem smVec_mem (op : Nat) (w : FWord) (f : Foc) : (smVec op w f).mem = f.s.mem := by
  have hl := passLoop_mem (step := smThread op w) (zero := smZero op w) (fun f p g h => smThread_mem op w f p h) (fun _ _ => rfl)
  unfold smVec
  grind [permit_mem, issue_mem, stopAt_mem, close_mem, next_state]

@[simp] theorem rqueryCtl_mem (w : FWord) (s : State) (t : Team) : (rqueryCtl w s t).mem = s.mem :=
  ctlPass_mem (fun s t => by grind [readDesc_mem, trapCtl_mem, smStart_mem, start_mem, ctlBlock_mem]) s t _ _ _ _ _ _ _

/-! ### Rays -/

@[simp] theorem nodeRead_mem (s : State) (n : NodeReq) (va len : Nat) : (s.nodeRead n va len).1.mem = s.mem := by
  grind [State.nodeRead, unitRead_mem, unitPad_mem]

@[simp] theorem leaf_mem (x : RayRun) (n : NodeReq) (r : RayVec) (inst : Word) (va : Nat) : (x.leaf n r inst va).s.mem = x.s.mem := by
  grind [RayRun.leaf, nodeRead_mem, askIsland_mem]

@[simp] theorem leaves_mem (x : RayRun) (n : NodeReq) (r : RayVec) (inst : Word) (va k : Nat) : (x.leaves n r inst va k).s.mem = x.s.mem := by
  induction k generalizing x va with
  | zero => rfl
  | succ k ih => exact (ih _ _).trans (leaf_mem x n r inst va)

@[simp] theorem visit_mem (n : NodeReq) (world : RayVec) (fuel : Nat) (r : RayVec) (inst : Option Word) (ref : NodeRef) (x : RayRun) :
    (RayRun.visit n world fuel r inst ref x).s.mem = x.s.mem := by
  induction fuel generalizing r inst ref x with
  | zero => rfl
  | succ fuel ih =>
    unfold RayRun.visit
    split
    · rfl
    · cases ref with
      | empty => rfl
      | run va count => exact leaves_mem x n r _ va count
      | inst va => grind [nodeRead_mem]
      | box va =>
        dsimp only
        have hn := nodeRead_mem x.s n va 128
        split
        · grind
        · refine (foldl_keeps (fun x : RayRun => x.s.mem) (fun x c => ?_) _ _).trans (by grind)
          grind

@[simp] theorem castRay_mem (s : State) (n : NodeReq) (ref : NodeRef) (ray : List Word) : (s.castRay n ref ray).1.mem = s.mem := by
  unfold State.castRay
  split
  · rfl
  · exact visit_mem _ _ _ _ _ _ _

@[simp] theorem traceWords_mem (s : State) (q : Req) (core : Nat) (root : TCap) (md : Nat) (ray : List Word) :
    (s.traceWords q core root md ray).1.mem = s.mem := by
  grind [State.traceWords, castRay_mem]

theorem traceThread_mem (w : FWord) (f : Foc) (p : Nat) {g : Foc} (h : traceThread w f p = .ok g) : g.s.mem = f.s.mem := by
  grind [traceThread, traceWords_mem, start_mem]

@[simp] theorem traceZero_mem (w : FWord) (f : Foc) (p : Nat) : (traceZero w f p).s.mem = f.s.mem := rfl

@[simp] theorem traceVec_mem (w : FWord) (f : Foc) : (traceVec w f).mem = f.s.mem := by
  have hl := passLoop_mem (step := traceThread w) (zero := traceZero w) (fun f p g h => traceThread_mem w f p h) (fun _ _ => rfl)
  unfold traceVec
  grind [permit_mem, issue_mem, stopAt_mem, close_mem, next_state]

/-! ### Beams -/

@[simp] theorem beamLeaves_mem (s : State) (n : NodeReq) (va : Nat) (k : Nat) : (s.beamLeaves n va k).1.mem = s.mem := by
  induction k generalizing s va with
  | zero => rfl
  | succ k ih =>
    unfold State.beamLeaves
    dsimp only
    refine (ih _ _).trans ?_
    grind [nodeRead_mem]

@[simp] theorem beamItems_mem (n : NodeReq) (k : Nat) (l : NodeRef) (s : State) : (State.beamItems n k l s).1.mem = s.mem := by
  induction k generalizing l s with
  | zero => rfl
  | succ k ih =>
    unfold State.beamItems
    cases l with
    | empty => rfl
    | run va count => exact beamLeaves_mem s n va count
    | inst va => rfl
    | box va =>
      dsimp only
      have hn := nodeRead_mem s n va 128
      split
      · grind
      · exact (foldl_keeps (fun a : State × List BeamItem => a.1.mem) (fun a _ => by exact ih _ a.1) _ _).trans (by grind)

@[simp] theorem ctlRead_mem (s : State) (t : Team) (c : TCap) (a align len : Nat) : (s.ctlRead t c a align len).1.mem = s.mem := by
  grind [State.ctlRead, planMem_mem, readPieces_mem]

@[simp] theorem beamPieces_mem (s : State) (t : Team) (c : TCap) (d tx ty : Nat) (l : List Nat) : (s.beamPieces t c d tx ty l).1.mem = s.mem := by
  induction l generalizing s with
  | nil => rfl
  | cons x l ih => grind [State.beamPieces, planMem_mem]

@[simp] theorem beamSend_mem (s : State) (t : Team) (space : Nat) (best : Tab Nat) (l : List (Nat × Nat × List Piece)) :
    (s.beamSend t space best l).mem = s.mem :=
  foldl_mem (fun s _ => by grind [start_mem]) l s

@[simp] theorem cast_mem (r : BeamRun) (n : NodeReq) (d x y : Nat) (item : BeamItem) : (r.cast n d x y item).s.mem = r.s.mem := by
  unfold BeamRun.cast
  dsimp only
  split
  · rfl
  · cases item with
    | leaf rec_ va => split <;> grind [BeamRun.update, leaves_mem]
    | inst va fuel => split <;> grind [BeamRun.update, visit_mem]

@[simp] theorem item_mem (r : BeamRun) (n : NodeReq) (d ox oy code : Nat) (item : BeamItem) : (r.item n d ox oy code item).1.s.mem = r.s.mem := by
  have hr : ∀ l : List Nat, (l.foldl (fun r i => r.cast n d (ox + i % (8 >>> code)) (oy + i / (8 >>> code)) item) r).s.mem = r.s.mem :=
    fun l => foldl_keeps (fun r : BeamRun => r.s.mem) (fun r _ => cast_mem r n d _ _ item) l r
  unfold BeamRun.item
  cases item with
  | inst va fuel => exact hr _
  | leaf rec_ va =>
    dsimp only
    split
    · exact hr _
    · generalize hk : State.askIsland _ _ _ _ = k
      have hm : k.1.mem = r.s.mem := by rw [← hk, askIsland_mem]
      obtain ⟨s, o⟩ := k
      cases o with
      | none => exact hm
      | some o =>
        dsimp only
        split
        · exact hm
        · exact (foldl_keeps (fun r : BeamRun => r.s.mem) (fun r _ => by grind [BeamRun.update]) _ _).trans hm

@[simp] theorem region_mem (n : NodeReq) (d fuel ox oy code : Nat) (items : List BeamItem) (r : BeamRun) :
    (BeamRun.region n d fuel ox oy code items r).s.mem = r.s.mem := by
  induction fuel generalizing ox oy code items r with
  | zero => rfl
  | succ fuel ih =>
    unfold BeamRun.region
    dsimp only
    have hi := foldl_keeps (fun a : BeamRun × List BeamItem => a.1.s.mem) (f := fun a item =>
      ((a.1.item n d ox oy code item).1, if (a.1.item n d ox oy code item).2 then a.2 ++ [item] else a.2))
      (fun a i => item_mem a.1 _ _ _ _ _ i) items (r, [])
    split
    · exact hi
    · exact (foldl_keeps (fun r : BeamRun => r.s.mem) (fun r _ => by exact ih _ _ _ _ r) _ _).trans hi

@[simp] theorem beamRun_mem (s : State) (t : Team) (root words : TCap) (d tx ty : Nat) (l : List (Nat × Nat × List Piece)) :
    (s.beamRun t root words d tx ty l).mem = s.mem := by
  unfold State.beamRun
  dsimp only
  rw [ctlDone_mem, beamSend_mem, region_mem, beamItems_mem]

/-! ### Island requests -/

@[simp] theorem ireqUnbCtl_mem (w : FWord) (s : State) (t : Team) : (ireqUnbCtl w s t).mem = s.mem :=
  ctlPass_mem (fun s t => by grind [ctlDone_mem, trapCtl_mem]) s t _ _ _ _ _ _ _

@[simp] theorem islandTook_mem (s : State) (kind unit stream : Nat) : (s.islandTook kind unit stream).mem = s.mem := rfl

@[simp] theorem respond_mem (s : State) (stream : Nat) (words : List Word) (w : Nat) : (s.respond stream words w).mem = s.mem := by
  grind [State.respond, State.putTeam_mem]

@[simp] theorem cellAccept_mem (s : State) (kind unit stream : Nat) : (s.cellAccept kind unit stream).mem = s.mem := by
  grind [State.cellAccept, State.putTeam_mem, putIsland_mem, islandTook_mem]

@[simp] theorem cellRespond_mem (s : State) (kind unit : Nat) : (s.cellRespond kind unit).mem = s.mem := by
  grind [State.cellRespond, respond_mem, putIsland_mem]

@[simp] theorem cellDrain_mem (s : State) (kind unit : Nat) (n : Nat) : (s.cellDrain kind unit n).mem = s.mem := by
  induction n generalizing s with
  | zero => rfl
  | succ n ih => grind [State.cellDrain, cellRespond_mem]

@[simp] theorem islandStop_mem (s : State) (kind unit : Nat) : (s.islandStop kind unit).mem = s.mem := by
  grind [State.islandStop, cellDrain_mem, putIsland_mem, State.modCore_mem, modSlice_mem]

/-! ### Blending -/

@[simp] theorem putBlend_mem (s : State) (cluster : Nat) (b : BlendUnit) : (s.putBlend cluster b).mem = s.mem := rfl

@[simp] theorem countBlend_mem (s : State) (cluster : Nat) : (s.countBlend cluster).mem = s.mem := rfl

@[simp] theorem frontLog_mem (s : State) (q : Req) (va need : Nat) : (s.frontLog q va need).mem = s.mem := by
  grind [State.frontLog, logOwner_mem]

@[simp] theorem homeNat_mem (s : State) (q : Req) (va : Nat) (n : Nat) : (s.homeNat q va n).1.mem = s.mem := by
  induction n generalizing s va with
  | zero => rfl
  | succ n ih => grind [State.homeNat, unitPage_mem, readDev_mem]

@[simp] theorem frontRead_mem (s : State) (h : Holder) (q : Req) (va len : Nat) : (s.frontRead h q va len).1.mem = s.mem := by
  grind [State.frontRead, unitNat_mem, frontLog_mem]

@[simp] theorem targetDesc_mem (s : State) (cluster ctx slot : Nat) : (s.targetDesc cluster ctx slot).1.mem = s.mem := by
  grind [State.targetDesc, frontRead_mem]

@[simp] theorem targetBlock_mem (s : State) (cluster ctx slot d bx by_ : Nat) : (s.targetBlock cluster ctx slot d bx by_).1.mem = s.mem := by
  grind [State.targetBlock, frontRead_mem, unitBlock_mem, frontLog_mem]

@[simp] theorem destPixel_mem (s : State) (cluster d : Nat) (r : BlendReq) : (s.destPixel cluster d r).1.mem = s.mem := by
  grind [State.destPixel, targetBlock_mem]

@[simp] theorem blendPixel_mem (s : State) (cluster d : Nat) (r : BlendReq) : (s.blendPixel cluster d r).1.mem = s.mem := by
  grind [State.blendPixel, destPixel_mem, putBlend_mem]

@[simp] theorem foldEnd_mem (s : State) (stream w : Nat) : (s.foldEnd stream w).mem = s.mem := by
  grind [State.foldEnd, State.putTeam_mem]

@[simp] theorem blendDesc_mem (s : State) (cluster : Nat) (r : BlendReq) : (s.blendDesc cluster r).1.mem = s.mem := by
  grind [State.blendDesc, targetDesc_mem]

@[simp] theorem blendFate_mem (s : State) (cluster : Nat) (r : BlendReq) : (s.blendFate cluster r).1.mem = s.mem := by
  have h1 := blendDesc_mem s cluster r
  unfold State.blendFate
  split
  · grind
  · rename_i s1 d h
    generalize hn : State.homeNat _ _ _ _ = x
    have hx : x.1.mem = s1.mem := by rw [← hn, homeNat_mem, frontLog_mem]
    obtain ⟨s2, v⟩ := x
    cases v with
    | error _ => grind
    | ok v =>
      dsimp only
      repeat' split
      all_goals grind

theorem frontMig_keeps (P : Tab Byte → Prop) {act : State → State} (ha : ∀ s, P s.mem → P (act s).mem) {s : State} (cluster ctx : Nat)
    (writes : List (Nat × Nat)) (hs : P s.mem) : P (s.frontMig cluster ctx writes act).mem := by
  induction writes generalizing s with
  | nil => unfold State.frontMig; grind
  | cons e l ih =>
    have hm : P (s.unitMig (frontReq cluster ctx) needW e.1 e.2 3).1.mem := by rwa [unitMig_mem]
    unfold State.frontMig
    dsimp only
    split
    · exact hs
    · split
      · rename_i h
        rw [migWait_mem]
        rwa [h] at hm
      · rename_i h
        rw [h] at hm
        exact ih hm

@[simp] theorem blendStart_mem (s : State) (cluster : Nat) (r : BlendReq) : (s.blendStart cluster r).mem = s.mem := rfl

@[simp] theorem blendReply_mem (s : State) (cluster : Nat) (r : BlendReq) (l : List Word) : (s.blendReply cluster r l).mem = s.mem := rfl

@[simp] theorem cutStream_mem (s : State) (cluster stream : Nat) : (s.cutStream cluster stream).mem = s.mem := by
  grind [State.cutStream, putBlend_mem, State.putTeam_mem]

@[simp] theorem splatOne_mem (s : State) (cluster : Nat) (r : BlendReq) : (s.splatOne cluster r).mem = s.mem := by
  grind [State.splatOne, blendDesc_mem, cutStream_mem, blendReply_mem, destPixel_mem, State.newFree_mem, blendPixel_mem, blendStart_mem]

@[simp] theorem blendAccept_mem (s : State) (cluster stream : Nat) : (s.blendAccept cluster stream).mem = s.mem := by
  grind [State.blendAccept, State.putTeam_mem, State.newId_mem, islandTook_mem, putBlend_mem, blendDesc_mem, cutStream_mem, countBlend_mem]

@[simp] theorem blendRespond_mem (s : State) (cluster : Nat) : (s.blendRespond cluster).mem = s.mem := by
  grind [State.blendRespond, respond_mem, putBlend_mem]

@[simp] theorem blendDrain_mem (s : State) (cluster : Nat) (n : Nat) : (s.blendDrain cluster n).mem = s.mem := by
  induction n generalizing s with
  | zero => rfl
  | succ n ih => grind [State.blendDrain, blendRespond_mem]

@[simp] theorem configError_mem (s : State) (kind unit : Nat) : (s.configError kind unit).mem = s.mem := by
  grind [State.configError, islandStop_mem, blendDrain_mem, putBlend_mem]

/-! ### At the homes -/

@[simp] theorem servePiece_mem (s : State) (a : Access) (p : Piece) (data : List Byte) : (s.servePiece a p data).1.mem = s.mem := by
  grind [State.servePiece, readDev_mem, fillL1_mem]

@[simp] theorem homeLoad_mem (s : State) (id i : Nat) (data : List Byte) : (s.homeLoad id i data).mem = s.mem := by
  grind [State.homeLoad, servePiece_mem, putPiece_mem]

@[simp] theorem ackStore_mem (s : State) (id : Nat) : (s.ackStore id).mem = s.mem := by
  have hf : ∀ a : Access, (a.pieces.foldl (fun s p => if p.sparse then s else s.ackL1 a.pair p p.time) s).mem = s.mem :=
    fun a => foldl_mem (fun s p => by grind [ackL1_mem]) a.pieces s
  unfold State.ackStore
  split
  · rfl
  · rename_i a _
    cases a.kind <;> grind [dropAccess_mem, foldPcm_mem, dropPieces_mem]

@[simp] theorem resultOf_mem (s : State) (a : Access) : (s.resultOf a).1.mem = s.mem := by
  grind [State.resultOf, smFinish_mem, traceWords_mem]

theorem holdAnswer_mem {old s t : State} {a : Access} {x : Result} (h : State.holdAnswer old s a x = some t) : t.mem = s.mem := by
  unfold State.holdAnswer at h
  grind [State.putAccess_mem]

@[simp] theorem giveCtl_mem (s : State) (t : Team) (x : Result) : (s.giveCtl t x).mem = s.mem := by
  unfold State.giveCtl
  cases x with
  | words n l =>
    dsimp only
    split
    · exact trapCtl_mem s _ _
    · rfl
  | value n ty v => rfl
  | bad a b e => exact trapCtl_mem s _ _

@[simp] theorem deliverResult_mem (s : State) (a : Access) (x : Result) : (s.deliverResult a x).mem = s.mem := by
  grind [State.deliverResult, dropAccess_mem, foldPcm_mem, giveCtl_mem, putRank_mem, arrived_mem]

@[simp] theorem loadReturn_mem (s : State) (id : Nat) : (s.loadReturn id).mem = s.mem := by
  grind [State.loadReturn, resultOf_mem, dropPieces_mem, holdAnswer_mem, deliverResult_mem]

@[simp] theorem fencePass_mem (s : State) (a : Agent) : (s.fencePass a).mem = s.mem := by
  cases a with
  | ctl uid => grind [State.fencePass, flushed_mem, ctlDone_mem, releaseFrees_mem]
  | vec uid j age => grind [State.fencePass, pastSplit_mem, releaseFrees_mem]

@[simp] theorem sleepWake_mem (s : State) (a : Agent) : (s.sleepWake a).mem = s.mem := by
  cases a with
  | ctl uid => grind [State.sleepWake, flushed_mem, ctlDone_mem, releaseFrees_mem]
  | vec uid j age => grind [State.sleepWake, pastSplit_mem, releaseFrees_mem]

@[simp] theorem fetchFill_mem (s : State) (a : Agent) : (s.fetchFill a).mem = s.mem := by
  unfold State.fetchFill
  cases a <;> grind [fillWord_mem, fetchWord_mem, State.putTeam_mem, trapCtl_mem, putRank_mem, focus_spec, trap_mem]

@[simp] theorem watchdog_mem (s : State) (pair rod : Nat) : (s.watchdog pair rod).mem = s.mem := by
  grind [State.watchdog, focus_spec, trap_mem]

@[simp] theorem trapStarter_mem (s : State) (who : Who) (pair sec : Nat) (code : TrapCode) (va : Nat) :
    (s.trapStarter who pair sec code va).mem = s.mem := by
  unfold State.trapStarter
  dsimp only
  split
  · rfl
  · split
    · grind [deliverCtl_mem]
    · split
      · rfl
      · grind [deliver_mem, focus_spec]

@[simp] theorem sectorFault_mem (s : State) (pair sec ctx va : Nat) (t : Trap) : (s.sectorFault pair sec ctx va t).mem = s.mem := rfl

@[simp] theorem foldGrid_mem (s : State) (pair : Nat) (w : Nat) : (s.foldGrid pair w).mem = s.mem := by
  grind [State.foldGrid, State.putGrid_mem]

@[simp] theorem putFlt_mem (s : State) (pair idx : Nat) (m : MapEntry) (flt : Bool) : (s.putFlt pair idx m flt).mem = s.mem := rfl

@[simp] theorem writebackDone_mem (s : State) (pair sec w : Nat) : (s.writebackDone pair sec w).mem = s.mem := by
  unfold State.writebackDone
  dsimp only
  rw [sweepSpwb_mem, foldl_mem (fun s _ => trigger_mem s _ _ _)]
  exact foldl_mem (fun s _ => by grind [foldGrid_mem, foldPcm_mem]) _ _

@[simp] theorem denyRank_mem (s : State) (uid j : Nat) (ps : List Nat) (tr : Trap) : (s.denyRank uid j ps tr).mem = s.mem := by
  unfold State.denyRank
  split
  · rfl
  · exact foldl_mem (fun s _ => by grind [keepFrees_mem, releaseFrees_mem, focus_spec, trap_mem]) _ s

@[simp] theorem writebackStop_mem (s : State) (pair sec : Nat) (tr : Trap) (va : Nat) : (s.writebackStop pair sec tr va).mem = s.mem := by
  unfold State.writebackStop
  dsimp only
  rw [foldl_mem (fun s _ => denyRank_mem s _ _ _ _)]
  refine (foldl_mem (fun s w => by grind [keepFrees_mem, trapCtl_mem]) _ _).trans ?_
  grind [State.putPair_mem, State.putGrid_mem]

@[simp] theorem writebackDeny_mem (s : State) (pair sec idx : Nat) (m : MapEntry) (va : Nat) : (s.writebackDeny pair sec idx m va).mem = s.mem := by
  grind [State.writebackDeny, writebackStop_mem, putFlt_mem]

@[simp] theorem clearFlt_mem (s : State) (pair idx : Nat) (m : MapEntry) : (s.clearFlt pair idx m).mem = s.mem := by
  grind [State.clearFlt, putFlt_mem]

/-! ### Faults and invalidates -/

@[simp] theorem dropFault_mem (s : State) (id : Nat) : (s.dropFault id).mem = s.mem := rfl

@[simp] theorem ownerFault_mem (s : State) (id : Nat) : (s.ownerFault id).mem = s.mem := by
  grind [State.ownerFault, sendFreeze_mem]

@[simp] theorem restartOne_mem (s : State) (r : FaultRec) : (s.restartOne r).mem = s.mem := by
  grind [State.restartOne, dropFault_mem, State.putOp_mem, State.putTeam_mem, putRank_mem]

@[simp] theorem debuggerResume_mem (s : State) (id : Nat) (pc : Option (BitVec 48)) : (s.debuggerResume id pc).mem = s.mem := by
  unfold State.debuggerResume
  split
  · rfl
  · dsimp only
    split
    · rfl
    · split
      · rfl
      · grind [State.putTeam_mem, dropFault_mem]
      · grind [dropFault_mem, focus_spec, close_mem, retTo_state]

@[simp] theorem invalidateComplete_mem (s : State) (id : Nat) : (s.invalidateComplete id).mem = s.mem := by
  grind [State.invalidateComplete]

/-! ### Placing and ending -/

@[simp] theorem mapDesc_mem (s : State) (q : Req) (va : Nat) : (s.mapDesc q va).1.mem = s.mem := by
  grind [State.mapDesc, homeNat_mem]

@[simp] theorem mapDescs_mem (s : State) (q : Req) (va : Nat) (n : Nat) : (s.mapDescs q va n).1.mem = s.mem := by
  induction n generalizing s va with
  | zero => rfl
  | succ n ih => grind [State.mapDescs, mapDesc_mem]

@[simp] theorem mapEntry_mem (s : State) (pair ctx v : Nat) : (s.mapEntry pair ctx v).1.mem = s.mem := by
  grind [State.mapEntry, translate_mem]

@[simp] theorem installMaps_mem (s : State) (pair ctx : Nat) (l : List Nat) : (s.installMaps pair ctx l).1.mem = s.mem :=
  foldl_keeps (fun a : State × List MapEntry => a.1.mem) (fun a _ => by exact mapEntry_mem a.1 _ _ _) l (s, [])

@[simp] theorem mapEntries_mem (s : State) (g : Grid) (pair extent : Nat) : (s.mapEntries g pair extent).1.mem = s.mem := by
  grind [State.mapEntries, installMaps_mem, mapDescs_mem, State.putGrid_mem]

@[simp] theorem reconfigure_mem (s : State) (pair ctx : Nat) : (s.reconfigure pair ctx).mem = s.mem :=
  foldl_mem (fun s _ => by grind [putIsland_mem]) _ s

@[simp] theorem setUpPair_mem (s : State) (g : Grid) (pair : Nat) (maps : List MapEntry) : (s.setUpPair g pair maps).mem = s.mem := by
  grind [State.setUpPair, State.putPair_mem]

@[simp] theorem forgetProducers_mem (s : State) (pair : Nat) (ranks : List Rank) : (s.forgetProducers pair ranks).mem = s.mem :=
  foldl_mem (fun s _ => by rfl) _ s

@[simp] theorem putTeamOn_mem (s : State) (g : Grid) (pair b number : Nat) (gangm : Option Nat) (ready : Bool) :
    (s.putTeamOn g pair b number gangm ready).2.mem = s.mem := by
  grind [State.putTeamOn, reconfigure_mem, State.newId_mem, forgetProducers_mem]

@[simp] theorem unqueue_mem (s : State) (gid : Nat) : (s.unqueue gid).mem = s.mem := rfl

@[simp] theorem releaseGang_mem (s : State) : s.releaseGang.mem = s.mem := by
  unfold State.releaseGang
  split
  · rfl
  · exact foldl_mem (fun s _ => by grind [State.putPair_mem]) _ _

@[simp] theorem enqueue_mem (s : State) (g : Grid) : (s.enqueue g).mem = s.mem := by
  grind [State.enqueue, releaseGang_mem]

@[simp] theorem countPlaced_mem (s : State) (g : Grid) (n : Nat) : (s.countPlaced g n).mem = s.mem := by
  grind [State.countPlaced, State.putGrid_mem, unqueue_mem]

@[simp] theorem notPlaced_mem (s : State) (g : Grid) (code : Nat) : (s.notPlaced g code).mem = s.mem := rfl

@[simp] theorem fetchEntries_mem (s : State) (g : Grid) (pair : Nat) : (s.fetchEntries g pair).mem = s.mem :=
  (fetchAhead_mem _ _ _).trans (fetchAhead_mem s _ _)

@[simp] theorem placeOn_mem (s : State) (g : Grid) (pair b number : Nat) (gangm : Option Nat) (ready : Bool) :
    (s.placeOn g pair b number gangm ready).1.mem = s.mem := by
  grind [State.placeOn, putTeamOn_mem, mapEntries_mem, setUpPair_mem, fetchEntries_mem]

@[simp] theorem teamPlace_mem (s : State) : s.teamPlace.mem = s.mem := by
  grind [State.teamPlace, placeOn_mem, notPlaced_mem, countPlaced_mem]

@[simp] theorem gangReserve_mem (s : State) : s.gangReserve.mem = s.mem := by
  unfold State.gangReserve
  dsimp only
  split
  · split
    · rfl
    · split
      · rfl
      · grind [placeOn_mem, releaseGang_mem, notPlaced_mem]
  · split
    · rfl
    · split
      · rfl
      · grind [placeOn_mem, releaseGang_mem, notPlaced_mem]

@[simp] theorem gangCommit_mem (s : State) : s.gangCommit.mem = s.mem := by
  grind [State.gangCommit, countPlaced_mem]

@[simp] theorem unmapPair_mem (s : State) (pair : Nat) : (s.unmapPair pair).mem = s.mem := by
  grind [State.unmapPair, triggerRange_mem]

@[simp] theorem pairIdle_mem (s : State) (pair : Nat) : (s.pairIdle pair).mem = s.mem := by
  grind [State.pairIdle, unmapPair_mem, State.putPair_mem]

@[simp] theorem gridRetire_mem (s : State) (id : Nat) : (s.gridRetire id).mem = s.mem := by
  grind [State.gridRetire, unqueue_mem, State.putGrid_mem]

@[simp] theorem dropGrid_mem (s : State) (id : Nat) : (s.dropGrid id).mem = s.mem := rfl

@[simp] theorem gridEnd_mem (s : State) (id : Nat) : (s.gridEnd id).mem = s.mem := by
  grind [State.gridEnd, releaseGang_mem, stopGrid_mem, unqueue_mem, State.putGrid_mem]

/-! ### Launches -/

@[simp] theorem newGrid_mem (s : State) (v ctx : Nat) (parent : Option Nat) (depth : Nat) (priv : Bool) (window : Option Nat) (root : TCap)
    (donew : Option (Nat × Nat × Nat)) : (s.newGrid v ctx parent depth priv window root donew).2.mem = s.mem := by
  grind [State.newGrid, State.newFree_mem, enqueue_mem]

/-! ### Commands -/

@[simp] theorem putCmd_mem (s : State) (win : Nat) (c : Command) : (s.putCmd win c).mem = s.mem := rfl

@[simp] theorem endCmd_mem (s : State) (win : Nat) (c : Command) (status : Nat) : (s.endCmd win c status).mem = s.mem := rfl

@[simp] theorem svcRead_mem (s : State) (core pa len : Nat) : (s.svcRead core pa len).1.mem = s.mem := by
  grind [State.svcRead, readDev_mem, State.newFree_mem, State.modCore_mem]

theorem runCmd_keeps (P : Tab Byte → Prop) {act : State → Command → State} (ha : ∀ s c, P s.mem → P (act s c).mem) {s : State} (win code : Nat)
    (bad : Command → Bool) (hs : P s.mem) : P (s.runCmd win code bad act).mem := by
  unfold State.runCmd
  grind [endCmd_mem]

theorem runCmd_mem {act : State → Command → State} (ha : ∀ s c, (act s c).mem = s.mem) (s : State) (win code : Nat) (bad : Command → Bool) :
    (s.runCmd win code bad act).mem = s.mem :=
  runCmd_keeps (fun m => m = s.mem) (fun u c h => (ha u c).trans h) win code bad rfl

@[simp] theorem launchGrid_mem (s : State) (win : Nat) : (s.launchGrid win).mem = s.mem :=
  runCmd_mem (fun s c => by grind [endCmd_mem, svcRead_mem, newGrid_mem, putCmd_mem]) s win _ _

@[simp] theorem loadImage_mem (s : State) (win : Nat) : (s.loadImage win).mem = s.mem :=
  runCmd_mem (fun s c => by grind [endCmd_mem, svcRead_mem, State.putCtx_mem]) s win _ _

@[simp] theorem waitValue_mem (s : State) (win : Nat) : (s.waitValue win).mem = s.mem := by
  grind [State.waitValue, endCmd_mem, svcRead_mem, putCmd_mem]

@[simp] theorem waitTimeout_mem (s : State) (win : Nat) : (s.waitTimeout win).mem = s.mem := by
  grind [State.waitTimeout, endCmd_mem]

@[simp] theorem startOp_mem (s : State) (win : Nat) (c : Command) (o : EngOp) : (s.startOp win c o).mem = s.mem := rfl

@[simp] theorem copyCmd_mem (s : State) (win : Nat) : (s.copyCmd win).mem = s.mem :=
  runCmd_mem (fun s c => by grind [startOp_mem, reach_mem]) s win _ _

@[simp] theorem decompressCmd_mem (s : State) (win : Nat) : (s.decompressCmd win).mem = s.mem :=
  runCmd_mem (fun s c => by grind [svcRead_mem, endCmd_mem, startOp_mem]) s win _ _

@[simp] theorem partitionCmd_mem (s : State) (win : Nat) : (s.partitionCmd win).mem = s.mem :=
  runCmd_mem (fun s c => (endCmd_mem _ _ _ _).trans (foldl_mem (fun s n => by grind [modSlice_mem]) _ s)) s win _ _

@[simp] theorem pinCmd_mem (s : State) (win : Nat) : (s.pinCmd win).mem = s.mem :=
  runCmd_mem (fun s c => by grind [reach_mem, endCmd_mem, unpinLines_mem, pinLines_mem]) s win _ _

@[simp] theorem toleranceCmd_mem (s : State) (win : Nat) : (s.toleranceCmd win).mem = s.mem := runCmd_mem (fun s c => by grind [endCmd_mem]) s win _ _

@[simp] theorem sealAccept_mem (s : State) (win : Nat) : (s.sealAccept win).mem = s.mem := by
  grind [State.sealAccept, svcRead_mem, State.putWindow_mem]

@[simp] theorem sendMsix_mem (s : State) (win : Nat) : (s.sendMsix win).mem = s.mem := by
  grind [State.sendMsix, State.putPort_mem]

/-! ### Cross-thread instructions -/

@[simp] theorem xthVec_mem (q : XthSpec) (w : FWord) (f : Foc) : (xthVec q w f).mem = f.s.mem := by
  grind [xthVec, trapIssue_mem, trap_mem, permit_mem, close_mem, block_mem, spend_mem, issue_mem, next_state]

/-! ### Integer instructions -/

theorem byStream_keeps (P : Tab Byte → Prop) {s : State} {vec : Foc → State} {ctl : State → Team → State} (hv : ∀ f, P f.s.mem → P (vec f).mem)
    (hc : ∀ t, P s.mem → P (ctl s t).mem) (h : P s.mem) : P (byStream s vec ctl).mem := by
  unfold byStream
  split
  · rename_i f hf
    exact hv f (by rwa [focus_spec hf])
  · split
    · exact hc _ h
    · exact h

theorem byStream_mem {vec : Foc → State} {ctl : State → Team → State} (hv : ∀ f, (vec f).mem = f.s.mem) (hc : ∀ s t, (ctl s t).mem = s.mem)
    (s : State) : (byStream s vec ctl).mem = s.mem :=
  byStream_keeps (fun m => m = s.mem) (fun f h => (hv f).trans h) (fun t _ => hc s t) rfl

/-! ### Cross-thread instructions -/

@[simp] theorem xthExec_mem (q : XthSpec) (w : FWord) (s : State) : (xthExec q w s).mem = s.mem :=
  byStream_mem (xthVec_mem q w) (notInCtl_mem q.opc w) s

@[simp] theorem derivVec_mem (opc : BitVec 8) (y : Bool) (w : FWord) (f : Foc) : (derivVec opc y w f).mem = f.s.mem := by
  grind [derivVec, permit_mem, close_mem, block_mem, spend_mem, trap_mem, issue_mem, next_state]

@[simp] theorem rduniVec_mem (w : FWord) (f : Foc) : (rduniVec w f).mem = f.s.mem := by
  grind [rduniVec, permit_mem, close_mem, next_state, issue_mem, block_mem, spend_mem, trap_mem]

/-! ### Links and the host -/

@[simp] theorem windowWrite_mem (s : State) (svc : Bool) (off size : Nat) (value : DWord) : (s.windowWrite svc off size value).mem = s.mem := by
  grind [State.windowWrite, State.putWindow_mem]

@[simp] theorem barWrite_mem (s : State) (off size : Nat) (value : DWord) : (s.barWrite off size value).mem = s.mem := by
  grind [State.barWrite, State.putPort_mem]

@[simp] theorem hostReply_mem (s : State) (port : Nat) (r : HostResp) : (s.hostReply port r).mem = s.mem := rfl

@[simp] theorem foldHost_mem (s : State) (port w : Nat) : (s.foldHost port w).mem = s.mem := rfl

@[simp] theorem hostWords_mem (s : State) (pa len : Nat) : (s.hostWords pa len).mem = s.mem := by
  grind [State.hostWords, modSlice_mem]

@[simp] theorem noteSeals_mem (s : State) (port pa len : Nat) : (s.noteSeals port pa len).mem = s.mem := rfl

@[simp] theorem flitReceive_mem (s : State) (port : Nat) (crcOk replayOk : Bool) (body : List Byte) :
    (s.flitReceive port crcOk replayOk body).mem = s.mem := by
  grind [State.flitReceive, State.putPort_mem]

@[simp] theorem granuleFlush_mem (s : State) (port : Nat) : (s.granuleFlush port).mem = s.mem := by
  grind [State.granuleFlush, State.putPort_mem]

@[simp] theorem wavelengthRetrained_mem (s : State) (port wavelength : Nat) (restored : Bool) :
    (s.wavelengthRetrained port wavelength restored).mem = s.mem := by
  grind [State.wavelengthRetrained, State.putPort_mem]

@[simp] theorem lockLost_mem (s : State) (port : Nat) : (s.lockLost port).mem = s.mem := by
  grind [State.lockLost, State.putPort_mem]

@[simp] theorem lockRegained_mem (s : State) (port : Nat) : (s.lockRegained port).mem = s.mem := by
  grind [State.lockRegained, State.putPort_mem]

@[simp] theorem trainingComplete_mem (s : State) (port : Nat) : (s.trainingComplete port).mem = s.mem := by
  grind [State.trainingComplete, State.putPort_mem]

@[simp] theorem mailboxSend_mem (s : State) (source target : Nat) (message : List Byte) : (s.mailboxSend source target message).mem = s.mem := by
  grind [State.mailboxSend, State.modCore_mem]

/-! ### Paired words -/

theorem pairThread_mem (w : PWord) (x y : Slot) (f : Foc) (p : Nat) {g : Foc} (h : pairThread w x y f p = .ok g) : g.s.mem = f.s.mem := by
  grind [pairThread]

@[simp] theorem pairZero_mem (w : PWord) (f : Foc) (p : Nat) : (pairZero w f p).s.mem = f.s.mem := rfl

@[simp] theorem pairVec_mem (w : PWord) (f : Foc) : (pairVec w f).mem = f.s.mem := by
  unfold pairVec
  dsimp only
  split
  · rename_i x y _ _
    have hl := passLoop_mem (step := pairThread w x y) (zero := pairZero w) (fun f p g h => pairThread_mem w x y f p h) (fun _ _ => rfl)
    grind [permit_mem, issue_mem, issueSlots_mem, stopAt_mem, close_mem, next_state]
  · exact trapIssue_mem f _ _ _

@[simp] theorem pairCtl_mem (w : PWord) (s : State) (t : Team) : (pairCtl w s t).mem = s.mem := by
  grind [pairCtl, trapCtl_mem]

/-! ### Power -/

@[simp] theorem putPower_mem (s : State) (u : PowerUnit) (level : Nat) : (s.putPower u level).mem = s.mem := by
  cases u <;> rfl

@[simp] theorem powerEnter_mem (s : State) (u : PowerUnit) (level : Nat) : (s.powerEnter u level).mem = s.mem := by
  grind [State.powerEnter, putPower_mem]

@[simp] theorem powerWake_mem (s : State) (u : PowerUnit) : (s.powerWake u).mem = s.mem := by
  grind [State.powerWake]

@[simp] theorem refill_mem (s : State) : s.refill.mem = s.mem := rfl

@[simp] theorem issueHold_mem (s : State) (pair rod cycles : Nat) : (s.issueHold pair rod cycles).mem = s.mem := rfl

/-! ### Preemption -/

@[simp] theorem askHalt_mem (s : State) (n : Nat) (park : Bool) : (s.askHalt n park).mem = s.mem := by
  grind [State.askHalt, State.putCtx_mem, releaseGang_mem]

@[simp] theorem haltCtx_mem (s : State) (n : Nat) (c : Ctx) : (s.haltCtx n c).mem = s.mem := rfl

@[simp] theorem preempt_mem (s : State) (n : Nat) : (s.preempt n).mem = s.mem := by
  grind [State.preempt, askHalt_mem, haltCtx_mem]

@[simp] theorem returnBlend_mem (s : State) (r : BlendReq) : (s.returnBlend r).mem = s.mem := by
  grind [State.returnBlend, State.putTeam_mem]

@[simp] theorem returnBlends_mem (s : State) (n : Nat) : (s.returnBlends n).mem = s.mem := foldl_mem (fun s _ => returnBlend_mem s _) _ s

@[simp] theorem unhalt_mem (s : State) (n : Nat) (c : Ctx) : (s.unhalt n c).mem = s.mem := rfl

@[simp] theorem saveContext_mem (s : State) (win : Nat) : (s.saveContext win).mem = s.mem :=
  runCmd_mem (fun s c => by grind [endCmd_mem, putCmd_mem, askHalt_mem]) s win _ _

@[simp] theorem choosePairs_mem (s : State) (n : Nat) (l : List (List Nat × Bool)) (y : List (Nat × Nat)) : (s.choosePairs n l y).1.mem = s.mem := by
  induction l generalizing s y with
  | nil => rfl
  | cons x l ih => grind [State.choosePairs, State.newFree_mem]

@[simp] theorem reload_mem (s : State) (pair ctx : Nat) (idig : List Nat) : (s.reload pair ctx idig).mem = s.mem :=
  foldl_mem (fun s _ => by grind [putIsland_mem]) _ s

@[simp] theorem readPairs_mem (s : State) (core : Nat) (n : Nat) (l : Tab Pair) : (s.readPairs core n l).1.mem = s.mem := by
  induction l generalizing s n with
  | nil => rfl
  | cons x l ih => grind [State.readPairs, svcRead_mem]

@[simp] theorem putBack_mem (s : State) (n : Nat) (c : Ctx) (v : Saved) (l : List (Nat × Nat)) : (s.putBack n c v l).mem = s.mem :=
  foldl_mem (fun s _ => reload_mem s _ _ _) l s

@[simp] theorem resumeCmd_mem (s : State) (win : Nat) : (s.resumeCmd win).mem = s.mem :=
  runCmd_mem (fun s c => by grind [endCmd_mem, choosePairs_mem, readPairs_mem, putBack_mem]) s win _ _

@[simp] theorem linkLost_mem (s : State) (port : Nat) : (s.linkLost port).mem = s.mem := by
  unfold State.linkLost
  dsimp only
  split
  · rfl
  · exact (foldl_mem (fun s _ => by grind [askHalt_mem, State.putCtx_mem]) _ _).trans rfl

@[simp] theorem tearDown_mem (s : State) (n : Nat) : (s.tearDown n).mem = s.mem := rfl

@[simp] theorem graceExpire_mem (s : State) (n : Nat) : (s.graceExpire n).mem = s.mem := by
  grind [State.graceExpire, tearDown_mem]

/-! ### Upsets -/

@[simp] theorem kernelAct_mem (s : State) (a : KernelAct) : (s.kernelAct a).mem = s.mem := by
  cases a with
  | debugSwitch n on => grind [State.kernelAct, modSlice_mem]
  | debugger n on => grind [State.kernelAct]

@[simp] theorem markLasting_mem (s : State) (u : Upset) : (s.markLasting u).mem = s.mem := by
  cases u <;> grind [State.markLasting, configError_mem, State.putPair_mem, putRank_mem, State.putTeam_mem]

@[simp] theorem upset_mem (s : State) (u : Upset) (n : Nat) : (s.upset u n).mem = s.mem := by
  unfold State.upset
  cases u <;> grind [modSlice_mem, markLasting_mem]

/-! ### Turns -/

@[simp] theorem untilPass_mem (s : State) (pair q : Nat) (a : Agent) : (s.untilPass pair q a).mem = s.mem := rfl

@[simp] theorem elapse_mem (s : State) (till : Nat) : (s.elapse till).mem = s.mem := foldl_mem (fun s a => by exact loadReturn_mem _ _) _ s

@[simp] theorem noteRod_mem (s : State) (pair q : Nat) : (s.noteRod pair q).mem = s.mem := by
  grind [State.noteRod, State.putRod_mem]

@[simp] theorem settle_mem (s : State) : s.settle.mem = s.mem := by
  unfold State.settle
  dsimp only
  rw [foldl_mem (fun s _ => noteRod_mem s _ _), noteReady_mem, settleFrees_mem, settlePools_mem]

end Sys2Proof.Machine
end

section
/-! O58, the writers. Device memory changes where bytes are written to it (`writeDev`), where a range of it is cleared (`zeroRange`) and at a
reset; `f_canonical` says that `f`, which may do so, keeps the canonical form. -/

namespace Sys2Proof.Machine

/-- The canonical form of a device memory (log 1): strictly rising addresses, and no byte that an unlisted address reads as. -/
abbrev Canonical (m : Tab Byte) : Prop := tabWf 0 m = true

theorem foldl_canonical {α β : Type*} (m : β → State) {f : β → α → β} (hf : ∀ b a, Canonical (m b).mem → Canonical (m (f b a)).mem) (l : List α)
    {b : β} (hb : Canonical (m b).mem) : Canonical (m (l.foldl f b)).mem :=
  List.foldlRecOn l f (motive := fun c => Canonical (m c).mem) hb (fun c hc a _ => hf c a hc)

theorem states_canonical {α : Type*} {f : State → α → State} (hf : ∀ s a, Canonical s.mem → Canonical (f s a).mem) (l : List α) {s : State}
    (hs : Canonical s.mem) : Canonical (l.foldl f s).mem :=
  foldl_canonical id hf l hs

theorem ite_canonical {c : Prop} [Decidable c] {s t : State} (hs : Canonical s.mem) (ht : Canonical t.mem) : Canonical (if c then s else t).mem := by
  split <;> assumption

theorem ite_snd_canonical {α : Type*} {c : Prop} [Decidable c] {x y : α × State} (hx : Canonical x.2.mem) (hy : Canonical y.2.mem) :
    Canonical (if c then x else y).2.mem := by
  split <;> assumption

/-! ### Memory and its homes -/

theorem writeDev_canonical (s : State) (pa part : Nat) (bytes : List Byte) (hm : Canonical s.mem) : Canonical (s.writeDev pa part bytes).2.mem := by
  unfold State.writeDev
  rw [applied_mem, noteFilled_mem]
  dsimp only
  rw [fillPartial_mem, touchAll_mem, reach_mem]
  exact memPut_wf _ _ hm

theorem writeHome_canonical (s : State) (p : Piece) (hm : Canonical s.mem) : Canonical (s.writeHome p).2.mem := by
  grind [State.writeHome, writeDev_canonical, State.putPair_mem, sendPort_mem]

theorem landPiece_canonical (s : State) (p : Piece) (hm : Canonical s.mem) : Canonical (s.landPiece p).2.mem := by
  grind [State.landPiece, writeHome_canonical, tear_mem]

theorem debugApply_canonical (s : State) (p : Piece) (hm : Canonical s.mem) : Canonical (s.debugApply p).1.mem := by
  grind [State.debugApply, writeHome_canonical, tear_mem, modSlice_mem]

theorem debugAll_canonical (s : State) (l : List Piece) (hm : Canonical s.mem) : Canonical (s.debugAll l).1.mem := by
  induction l generalizing s with
  | nil => exact hm
  | cons x l ih => grind [State.debugAll, debugApply_canonical]

theorem debugPieces_canonical (s : State) (addr : Nat) (l : List Piece) (hm : Canonical s.mem) : Canonical (s.debugPieces addr l).1.mem := by
  grind [State.debugPieces, debugAll_canonical]

/-! ### Accesses -/

theorem sendStore_canonical (s : State) (a : MemReq) (cap : Bool) (ty : Nat) (v : TCap) (hm : Canonical s.mem) :
    Canonical (s.sendStore a cap ty v).1.mem := by
  grind [State.sendStore, planMem_mem, debugPieces_canonical, noteHostWrite_mem, start_mem]

theorem sendElemStore_canonical (s : State) (a : MemReq) (ty v : Nat) (scale : Except Stop Nat) (hm : Canonical s.mem) :
    Canonical (s.sendElemStore a ty v scale).1.mem := by
  have he := elemAt_mem s a needW false
  unfold State.sendElemStore
  split
  · exact hm
  · split
    · grind
    · split
      · grind
      · split
        · grind
        · split <;> grind [debugPieces_canonical, start_mem]

theorem atomHome_canonical (s : State) (op ty : Nat) (v new : DWord) (p : Piece) (hm : Canonical s.mem) :
    Canonical (s.atomHome op ty v new p).1.mem := by
  grind [State.atomHome, readDev_mem, writeDev_canonical, State.putPair_mem]

theorem debugAtom_canonical (s : State) (op ty : Nat) (v new : DWord) (p : Piece) (hm : Canonical s.mem) :
    Canonical (s.debugAtom op ty v new p).1.mem := by
  grind [State.debugAtom, tear_mem, atomHome_canonical, modSlice_mem]

theorem debugAtoms_canonical (s : State) (addr op ty : Nat) (v new : DWord) (l : List Piece) (hm : Canonical s.mem) :
    Canonical (s.debugAtoms addr op ty v new l).1.mem := by
  unfold State.debugAtoms
  split
  · exact hm
  · exact foldl_canonical Prod.fst (fun e p he => by exact debugAtom_canonical e.1 op ty v new p he) l (b := (s, [])) hm

theorem sendAtom_canonical (s : State) (a : MemReq) (op : Nat) (v new : DWord) (d : Dest) (hm : Canonical s.mem) :
    Canonical (s.sendAtom a op v new d).1.mem := by
  grind [State.sendAtom, planMem_mem, debugAtoms_canonical, noteHostWrite_mem, start_mem, dropPieces_mem]

theorem applyPiece_canonical (s : State) (k : AccKind) (p : Piece) (hm : Canonical s.mem) : Canonical (s.applyPiece k p).1.mem := by
  cases k <;> grind [State.applyPiece, writeHome_canonical, atomHome_canonical]

theorem homeWrite_canonical (s : State) (id i : Nat) (hm : Canonical s.mem) : Canonical (s.homeWrite id i).mem := by
  grind [State.homeWrite, tear_mem, applyPiece_canonical, settleClear_mem, putPiece_mem]

theorem landOwn_canonical (s : State) (who : Who) (hm : Canonical s.mem) : Canonical (s.landOwn who).mem :=
  states_canonical (fun _ a hs => states_canonical (fun _ i hs => homeWrite_canonical _ _ i hs) _ hs) _ hm

theorem landPass_canonical (s : State) (uid j : Nat) (ps : List Nat) (hm : Canonical s.mem) : Canonical (s.landPass uid j ps).mem :=
  states_canonical (fun _ p hs => landOwn_canonical _ _ hs) ps hm

theorem landCtl_canonical (s : State) (uid : Nat) (hm : Canonical s.mem) : Canonical (s.landCtl uid).mem := by
  grind [State.landCtl, landOwn_canonical]

/-! ### The units' accesses -/

theorem unitWrite_canonical (s : State) (q : Req) (va : Nat) (bytes : List Byte) (n : Nat) (hm : Canonical s.mem) :
    Canonical (s.unitWrite q va bytes n).2.mem := by
  induction n generalizing s va bytes with
  | zero => exact hm
  | succ n ih => grind [State.unitWrite, unitPage_mem, tearDev_mem, writeDev_canonical, clearWords_mem]

/-! ### Engines -/

theorem homePut_canonical (s : State) (h : Home) (part : Nat) (bytes : List Byte) (hm : Canonical s.mem) :
    Canonical (s.homePut h part bytes).2.mem := by
  cases h with
  | host port a => grind [State.homePut, tear_mem, sendPort_mem]
  | _ => grind [State.homePut, tear_mem, writeDev_canonical, clearWords_mem, State.putPair_mem]

theorem someBytes_canonical (s : State) (h : Home) (part : Nat) (l : List Byte) (n : Nat) (hm : Canonical s.mem) :
    Canonical (s.someBytes h part l n).2.mem := by
  induction l generalizing s n with
  | nil => exact hm
  | cons b l ih => grind [State.someBytes, State.newFree_mem, homePut_canonical]

theorem mixPut_canonical (s : State) (mix : Mix) (h : Home) (part at_ : Nat) (bytes : List Byte) (hm : Canonical s.mem) :
    Canonical (s.mixPut mix h part at_ bytes).2.mem := by
  unfold State.mixPut
  split
  · exact foldl_canonical Prod.snd (fun e b he => by grind [someBytes_canonical, homePut_canonical]) _ hm
  · exact homePut_canonical s h part bytes hm

theorem mixUnit_canonical (s : State) (mix : Mix) (h : Home) (part unit : Nat) (bytes : List Byte) (hm : Canonical s.mem) :
    Canonical (s.mixUnit mix h part unit bytes).2.mem := by
  grind [State.mixUnit, someBytes_canonical, homePut_canonical]

theorem chunksWrite_canonical (s : State) (mix : Mix) (n : Nat) (l : List Chunk) (y : List Byte) (hm : Canonical s.mem) :
    Canonical (s.chunksWrite mix n l y).2.mem := by
  induction l generalizing s n y with
  | nil => exact hm
  | cons c l ih => grind [State.chunksWrite, mixPut_canonical]

theorem engWrite_canonical (s : State) (o : EngOp) (mix : Mix) (space want addr : Nat) (bytes : List Byte) (hm : Canonical s.mem) :
    Canonical (s.engWrite o mix space want addr bytes).1.mem := by
  grind [State.engWrite, engChunks_mem, chunksWrite_canonical]

theorem engPutElem_canonical (s : State) (o : EngOp) (mix : Mix) (a : Nat) (v : Fv) (hm : Canonical s.mem) :
    Canonical (s.engPutElem o mix a v).1.mem := by
  grind [State.engPutElem, engElem_mem, State.newFree_mem, tear_mem, writeHome_canonical, clearWords_mem, mixUnit_canonical]

theorem engPutBlock_canonical (s : State) (o : EngOp) (mix : Mix) (a : Nat) (vs : List Fv) (hm : Canonical s.mem) :
    Canonical (s.engPutBlock o mix a vs).1.mem := by
  grind [State.engPutBlock, engElem_mem, sectorWait_mem, mixUnit_canonical]

theorem movePlain_canonical (s : State) (o : EngOp) (mix : Mix) (p : Spot) (limit : Nat) (hm : Canonical s.mem) :
    Canonical (s.movePlain o mix p limit).1.mem := by
  grind [State.movePlain, engRead_mem, engWrite_canonical]

theorem moveConv_canonical (s : State) (o : EngOp) (mix : Mix) (p : Spot) (u : Nat) (hm : Canonical s.mem) :
    Canonical (s.moveConv o mix p u).1.mem := by
  unfold State.moveConv
  have h1 := unitSources_mem s o p u
  grind [engValues_mem, engWrite_canonical, engPutElem_canonical, engPutBlock_canonical]

theorem moveLine_canonical (s : State) (o : EngOp) (mix : Mix) (p : Spot) (u : Nat) (hm : Canonical s.mem) :
    Canonical (s.moveLine o mix p u).1.mem := by
  grind [State.moveLine, engLine_mem, lineRead_mem, mixUnit_canonical]

theorem moveBlock_canonical (s : State) (o : EngOp) (mix : Mix) (p : Spot) (hm : Canonical s.mem) : Canonical (s.moveBlock o mix p).1.mem := by
  unfold State.moveBlock
  dsimp only
  split
  · exact hm
  · have hp := engPixels_mem s o p.src
    split
    · grind
    · split <;> grind [engMode_mem, engWrite_canonical]

theorem engMove_canonical (s : State) (o : EngOp) (mix : Mix) (u limit : Nat) (hm : Canonical s.mem) : Canonical (s.engMove o mix u limit).1.mem := by
  grind [State.engMove, engSpot_mem, moveBlock_canonical, moveConv_canonical, movePlain_canonical, moveLine_canonical]

theorem strayUnits_canonical (s : State) (o : EngOp) (u : Nat) (n : Nat) (hm : Canonical s.mem) : Canonical (s.strayUnits o u n).mem := by
  induction n generalizing s u with
  | zero => exact hm
  | succ n ih => grind [State.strayUnits, engMove_canonical]

theorem stopOp_canonical (s : State) (o : EngOp) (status : BitVec 8) (hm : Canonical s.mem) : Canonical (s.stopOp o status).mem := by
  grind [State.stopOp, strayUnits_canonical, State.putOp_mem, ringCut_mem]

theorem freezeEngine_canonical (s : State) (o : EngOp) (t : Trap) (hm : Canonical s.mem) : Canonical (s.freezeEngine o t).mem :=
  states_canonical (fun _ p hs => stopOp_canonical _ p 8 hs) _ (by rwa [sendFreeze_mem])

theorem engAhead_canonical (s : State) (o : EngOp) (limit : Nat) (hm : Canonical s.mem) : Canonical (s.engAhead o limit).1.mem := by
  grind [State.engAhead, State.newFree_mem, engMove_canonical, noteMoved_mem, State.putOp_mem]

theorem engStopped_canonical (s : State) (o : EngOp) (e : EngStop) (hm : Canonical s.mem) : Canonical (s.engStopped o e).mem := by
  cases e <;> grind [State.engStopped, migWait_mem, stopOp_canonical, engineFault_mem, freezeEngine_canonical]

theorem engRun_canonical (s : State) (id units : Nat) (n : Nat) (hm : Canonical s.mem) : Canonical (s.engRun id units n).mem := by
  induction n generalizing s units with
  | zero => exact hm
  | succ n ih =>
    unfold State.engRun
    dsimp only
    split
    · exact hm
    · rename_i o _
      have ha := engAhead_canonical s o units hm
      split
      · exact hm
      · split
        · exact hm
        · split
          · grind
          · have hv := fun s k h => engMove_canonical s o o.mix o.done k h
            split
            · grind [engStopped_canonical]
            · split
              · apply engStopped_canonical
                grind [noteMoved_mem, State.putOp_mem]
              · apply ih
                grind [noteMoved_mem, State.putOp_mem]

/-! ### Copies, rings and ranges -/

theorem countLocks_canonical (s : State) (ctx region : Nat) (f : Nat → Nat) (hm : Canonical s.mem) : Canonical (s.countLocks ctx region f).mem := by
  grind [State.countLocks, writeDev_canonical, reach_mem]

theorem tlbLock_canonical (s : State) (o : EngOp) (hm : Canonical s.mem) : Canonical (s.tlbLock o).1.mem := by
  grind [State.tlbLock, lockWalk_mem, countLocks_canonical]

theorem unlockRange_canonical (s : State) (pair team ctx lo hi : Nat) (hm : Canonical s.mem) : Canonical (s.unlockRange pair team ctx lo hi).mem :=
  states_canonical (fun _ l hs => countLocks_canonical _ ctx _ _ hs) _ hm

theorem unlockTeam_canonical (s : State) (team : Nat) (hm : Canonical s.mem) : Canonical (s.unlockTeam team).mem :=
  states_canonical (fun _ l hs => unlockRange_canonical _ _ _ _ _ _ hs) _ hm

theorem tlbUnlock_canonical (s : State) (o : EngOp) (hm : Canonical s.mem) : Canonical (s.tlbUnlock o).mem := by
  grind [State.tlbUnlock, unlockRange_canonical]

theorem rangeEffect_canonical (s : State) (o : EngOp) (hm : Canonical s.mem) : Canonical (s.rangeEffect o).1.mem := by
  grind [State.rangeEffect, tlbLock_canonical, tlbUnlock_canonical, cpin_mem]

theorem handleResolve_canonical (s : State) (o : EngOp) (hm : Canonical s.mem) : Canonical (s.handleResolve o).mem := by
  grind [State.handleResolve, resolveHandles_mem, stopOp_canonical, State.newFree_mem, rangeEffect_canonical]

/-! ### Matrix -/

theorem mmaCtl_canonical (op : BitVec 8) (gather : Bool) (w : FWord) (s : State) (t : Team) (hm : Canonical s.mem) :
    Canonical (mmaCtl op gather w s t).mem :=
  ctlPass_keeps Canonical (fun s t hm => by grind [landCtl_canonical, trapCtl_mem, mmaIssue_mem]) t _ _ _ _ _ _ _ hm

theorem mloadCtl_canonical (w : FWord) (s : State) (t : Team) (hm : Canonical s.mem) : Canonical (mloadCtl w s t).mem :=
  ctlPass_keeps Canonical
    (fun s t hm => by grind [landCtl_canonical, trapCtl_mem, tileRows_mem, matStop_mem, ctlDone_mem, accept_mem]) t _ _ _ _ _ _ _ hm

theorem slotAtomic_canonical (s : State) (t : Team) (n : Nat) (f : Nat → Nat × Int) (hm : Canonical s.mem) :
    Canonical (s.slotAtomic t n f).1.mem := by
  grind [State.slotAtomic, State.newFree_mem, unitPage_mem, readDev_mem, homePut_canonical]

theorem putPieces_canonical (s : State) (pair : Nat) (l : List Piece) (y : List Byte) (hm : Canonical s.mem) :
    Canonical (s.putPieces pair l y).2.mem := by
  induction l generalizing s y with
  | nil => exact hm
  | cons p l ih =>
    unfold State.putPieces
    dsimp only
    apply ih
    split
    · exact hm
    · split <;> grind [landPiece_canonical, clearWords_mem, ackL1_mem]

theorem addRow_canonical (s : State) (pair : Nat) (ps : List Piece) (l : List (Word × Nat)) (hm : Canonical s.mem) :
    Canonical (s.addRow pair ps l).2.mem := by
  induction l generalizing s with
  | nil => exact hm
  | cons x l ih => grind [State.addRow, tear_mem, atomHome_canonical, dropPieces_mem]

theorem storeRows_canonical (s : State) (pair : Nat) (o : MatOp) (e : Int) (l : List (List Word × List Piece)) (hm : Canonical s.mem) :
    Canonical (s.storeRows pair o e l).2.mem := by
  induction l generalizing s with
  | nil => exact hm
  | cons x l ih => grind [State.storeRows, addRow_canonical, putPieces_canonical]

theorem storeTile_canonical (s : State) (t : Team) (o : MatOp) (hm : Canonical s.mem) : Canonical (s.storeTile t o).2.mem := by
  grind [State.storeTile, slotAtomic_canonical, shuffled_mem, storeRows_canonical, putPieces_canonical]

theorem abacusChunk_canonical (s : State) (pair layer : Nat) (hm : Canonical s.mem) : Canonical (s.abacusChunk pair layer).mem := by
  unfold State.abacusChunk
  split
  · rwa [drawHeads_mem]
  · split
    · rwa [retire_mem]
    · split
      · split
        · exact hm
        · rwa [mmaChunk_mem]
      · rwa [retire_mem]
      · grind [loadRows_mem, State.putTeam_mem, retire_mem]
      · exact slotReady_keeps Canonical (fun s hm => by grind [storeTile_canonical, foldPcm_mem, retire_mem]) _ _ _ _ hm
      · exact slotReady_keeps Canonical (fun s hm => by grind [slotAtomic_canonical, foldPcm_mem, retire_mem]) _ _ _ _ hm

/-! ### Loads and stores -/

theorem atomCtl_canonical (w : MemWord) (s : State) (t : Team) (hm : Canonical s.mem) : Canonical (atomCtl w s t).mem :=
  ctlPass_keeps Canonical (fun s t hm => by rw [ctlSent_mem]; exact sendAtom_canonical s _ _ _ _ _ hm) t _ _ _ _ _ _ _ hm

theorem spwbThread_mem (w : MemWord) (f : Foc) (p : Nat) : ((spwbPass w).step f p).1.s.mem = f.s.mem := by
  unfold spwbPass
  grind [spwb_mem]

theorem spwbVec_canonical (w : MemWord) (f : Foc) (hm : Canonical f.s.mem) : Canonical (spwbVec w f).mem := by
  unfold spwbVec
  dsimp only
  have hl := landPass_canonical f.s f.t.uid f.r.num (f.members w.g.toNat w.gn) hm
  have hp := memLoop_keeps Canonical (q := spwbPass w) (fun f p h => by rwa [spwbThread_mem]) (fun _ _ => rfl) (f.members w.g.toNat w.gn)
    (f := ({ f with s := f.s.landPass f.t.uid f.r.num (f.members w.g.toNat w.gn) } : Foc).issue clsPer (spwbPass w).reads []
      (f.members w.g.toNat w.gn) false) (by rwa [issue_mem])
  grind [permit_mem, stopAt_mem, close_mem, block_mem, next_state]

theorem spwbCtl_canonical (w : MemWord) (s : State) (t : Team) (hm : Canonical s.mem) : Canonical (spwbCtl w s t).mem :=
  ctlPass_keeps Canonical (fun s t hm => by grind [landCtl_canonical, spwb_mem, trapCtl_mem, ctlBlock_mem, ctlDone_mem]) t _ _ _ _ _ _ _ hm

theorem landTrigger_canonical (f : Foc) (ps : List Nat) (hm : Canonical f.s.mem) :
    Canonical (ps.foldl (fun s p => s.triggerRange f.t.pair 0 (s.extent f.t.pair) ⟨f.t.uid, some f.r.num, p⟩)
      (f.s.landPass f.t.uid f.r.num ps)).mem :=
  states_canonical (fun s p hs => by rwa [triggerRange_mem]) ps (landPass_canonical _ _ _ _ hm)

theorem fenceVec_canonical (w : FWord) (f : Foc) (hm : Canonical f.s.mem) : Canonical (fenceVec w f).mem := by
  unfold fenceVec
  dsimp only
  split
  · grind [permit_mem]
  · generalize hf : f.issue _ _ _ _ _ = g
    have hg : Canonical g.s.mem := by rwa [← hf, issue_mem]
    have hl := landTrigger_canonical g (f.members w.g.toNat w.gn) hg
    split
    · exact ite_canonical ((congrArg Canonical (close_mem _)).mpr hl) ((congrArg Canonical (close_mem _)).mpr hl)
    · exact ite_canonical ((congrArg Canonical (close_mem _)).mpr hg) ((congrArg Canonical (close_mem _)).mpr hg)

theorem fenceCtl_canonical (w : FWord) (s : State) (t : Team) (hm : Canonical s.mem) : Canonical (fenceCtl w s t).mem :=
  ctlPass_keeps Canonical (fun s t hm => by grind [landCtl_canonical, triggerRange_mem, flushed_mem, ctlBlock_mem, ctlDone_mem]) t _ _ _ _ _ _ _ hm

/-! ### The heap -/

theorem zeroRange_canonical (s : State) (q : Req) (va len : Nat) (n : Nat) (hm : Canonical s.mem) : Canonical (s.zeroRange q va len n).mem := by
  induction n generalizing s va len with
  | zero => exact hm
  | succ n ih =>
    have ht := translate_mem s q va needW
    have hc := fun (m : Tab Byte) (a k : Nat) (h : Canonical m) => tabClear_wf 0 a k h
    grind [State.zeroRange]

theorem heapTake_canonical (s : State) (q : Req) (size : Nat) (hm : Canonical s.mem) : Canonical (s.heapTake q size).1.mem := by
  grind [State.heapTake, State.newFree_mem, State.putCtx_mem, zeroRange_canonical]

theorem dallocThread_canonical (w : FWord) (f : Foc) (p : Nat) {g : Foc} (h : dallocThread w f p = .ok g) (hm : Canonical f.s.mem) :
    Canonical g.s.mem := by
  grind [dallocThread, heapTake_canonical, start_mem]

theorem dallocVec_canonical (w : FWord) (f : Foc) (hm : Canonical f.s.mem) : Canonical (dallocVec w f).mem := by
  have hl := fun ps f => passLoop_keeps Canonical (step := dallocThread w) (zero := dallocZero w) (fun f p g h hf => dallocThread_canonical w f p h
      hf) (fun _ _ => rfl) ps (f := f)
  unfold dallocVec
  grind [permit_mem, issue_mem, stopAt_mem, close_mem, next_state]

theorem dallocCtl_canonical (w : FWord) (s : State) (t : Team) (hm : Canonical s.mem) : Canonical (dallocCtl w s t).mem :=
  ctlPass_keeps Canonical (fun s t hm => by grind [heapTake_canonical, start_mem, ctlBlock_mem]) t _ _ _ _ _ _ _ hm

theorem dfreeVec_canonical (w : FWord) (f : Foc) (hm : Canonical f.s.mem) : Canonical (dfreeVec w f).mem := by
  unfold dfreeVec
  dsimp only
  split
  · grind [permit_mem]
  · have hp := passLoop_mem (step := dfreeThread w) (zero := fun f _ => f) (fun f p g h => dfreeThread_mem w f p h) (fun _ _ => rfl)
    split
    · grind [stopAt_mem, issue_mem]
    · rename_i g hg
      have hl := landTrigger_canonical g (f.members w.g.toNat w.gn) (by grind [issue_mem])
      split <;> rw [close_mem]
      · exact (congrArg Canonical (releaseFrees_mem _ _)).mpr hl
      · exact hl

theorem dfreeCtl_canonical (w : FWord) (s : State) (t : Team) (hm : Canonical s.mem) : Canonical (dfreeCtl w s t).mem :=
  ctlPass_keeps Canonical
    (fun s t hm => by
      grind [heapFree_mem, landCtl_canonical, trapCtl_mem, triggerRange_mem, ctlDone_mem, releaseFrees_mem, ctlBlock_mem]) t _ _ _ _ _ _ _ hm

/-! ### Beams -/

theorem beamCtl_canonical (w : FWord) (s : State) (t : Team) (hm : Canonical s.mem) : Canonical (beamCtl w s t).mem :=
  ctlPass_keeps Canonical
    (fun s t hm => by grind [landCtl_canonical, trapCtl_mem, ctlBlock_mem, ctlRead_mem, beamPieces_mem, beamRun_mem]) t _ _ _ _ _ _ _ hm

/-! ### Island requests -/

theorem ireqCtl_canonical (w : FWord) (s : State) (t : Team) (hm : Canonical s.mem) : Canonical (ireqCtl w s t).mem :=
  ctlPass_keeps Canonical (fun s t hm => by grind [landCtl_canonical, trapCtl_mem, ctlBlock_mem, matFills_mem, ctlDone_mem]) t _ _ _ _ _ _ _ hm

/-! ### Blending -/

theorem frontWrite_canonical (s : State) (h : Holder) (q : Req) (va : Nat) (bytes : List Byte) (hm : Canonical s.mem) :
    Canonical (s.frontWrite h q va bytes).2.mem := by
  grind [State.frontWrite, unitWrite_canonical, frontLog_mem]

theorem flushBlock_canonical (s : State) (cluster d : Nat) (r : BlendReq) (bx by_ : Nat) (hm : Canonical s.mem) :
    Canonical (s.flushBlock cluster d r bx by_).mem := by
  grind [State.flushBlock, targetBlock_mem, frontWrite_canonical, putBlend_mem, foldEnd_mem]

theorem flushTile_canonical (s : State) (cluster d : Nat) (r : BlendReq) (hm : Canonical s.mem) : Canonical (s.flushTile cluster d r).mem := by
  unfold State.flushTile
  rw [putBlend_mem]
  exact states_canonical (fun s e hs => flushBlock_canonical s _ _ _ _ _ hs) _ hm

theorem putNs_canonical (s : State) (cluster d ns : Nat) (r : BlendReq) (hm : Canonical s.mem) : Canonical (s.putNs cluster d ns r).mem := by
  grind [State.putNs, unitWrite_canonical, frontLog_mem, foldEnd_mem]

theorem blendCommit_canonical (s : State) (cluster id : Nat) (hm : Canonical s.mem) : Canonical (s.blendCommit cluster id).mem := by
  have hf := blendFate_mem s cluster
  unfold State.blendCommit
  split
  · exact hm
  · dsimp only
    split
    · exact hm
    · rename_i r _ _
      specialize hf r
      split
      · grind [cutStream_mem]
      · grind [countBlend_mem, blendReply_mem]
      · grind [blendReply_mem]
      · grind [countBlend_mem, blendReply_mem]
      · grind
      · exact frontMig_keeps Canonical (fun s hm => by
          grind [blendPixel_mem, cutStream_mem, flushTile_canonical, putNs_canonical, blendStart_mem, blendReply_mem]) _ _ _ (by grind)

theorem blockModeWrite_canonical (s : State) (cluster : Nat) (hm : Canonical s.mem) : Canonical (s.blockModeWrite cluster).mem := by
  unfold State.blockModeWrite
  dsimp only
  split
  · exact hm
  · exact frontMig_keeps Canonical (fun s hm => by grind [putBlend_mem, frontWrite_canonical, foldEnd_mem]) _ _ _ hm

theorem splatRelease_canonical (s : State) (cluster slot tile : Nat) (hm : Canonical s.mem) : Canonical (s.splatRelease cluster slot tile).mem := by
  unfold State.splatRelease
  dsimp only
  split
  · exact hm
  · split
    · exact hm
    · refine frontMig_keeps Canonical (fun s hm => ?_) _ _ _ ?_
      · have hs : ∀ (l : List BlendReq) (s : State), Canonical s.mem → Canonical (l.foldl (fun s r => s.splatOne cluster r) s).mem :=
          fun l s hs => states_canonical (fun s r h => by rwa [splatOne_mem]) l hs
        grind [putBlend_mem, blendDesc_mem, flushTile_canonical]
      · grind [blendDesc_mem]

/-! ### At the homes -/

theorem writeArrives_canonical (s : State) (id i : Nat) (hm : Canonical s.mem) : Canonical (s.writeArrives id i).mem := by
  grind [State.writeArrives, homeWrite_canonical]

theorem fillFail_canonical (s : State) (pair sec : Nat) (code : TrapCode) (va : Nat) (hm : Canonical s.mem) :
    Canonical (s.fillFail pair sec code va).mem := by
  grind [State.fillFail, State.putPair_mem, stopOp_canonical, trapStarter_mem, releaseWaiters_mem]

theorem sectorFill_canonical (s : State) (pair sec : Nat) (hm : Canonical s.mem) : Canonical (s.sectorFill pair sec).mem := by
  grind [State.sectorFill, translate_mem, sectorFault_mem, fillFail_canonical, fillDone_mem, readDev_mem]

theorem writeGranules_canonical (s : State) (pa part : Nat) (flight : BitVec 16) (bytes : List Byte) (l : List Nat) (hm : Canonical s.mem) :
    Canonical (s.writeGranules pa part flight bytes l).2.mem := by
  induction l generalizing s with
  | nil => exact hm
  | cons x l ih => grind [State.writeGranules, tearDev_mem, writeDev_canonical, clearWords_mem]

theorem writeback_canonical (s : State) (pair sec : Nat) (hm : Canonical s.mem) : Canonical (s.writeback pair sec).mem := by
  grind [State.writeback, clearFlt_mem, writebackDone_mem, translate_mem, sectorFault_mem, writebackDeny_mem, writebackStop_mem, migWait_mem,
      writeGranules_canonical, State.putPair_mem]

theorem remainderAppend_canonical (s : State) (id : Nat) (hm : Canonical s.mem) : Canonical (s.remainderAppend id).mem := by
  unfold State.remainderAppend
  dsimp only
  split
  · exact hm
  · split
    · exact hm
    · split
      all_goals
        grind [unitPage_mem, migWait_mem, logOwner_mem, readDev_mem, clearWords_mem, writeDev_canonical, tearDev_mem, unitMig_mem,
          unitWrite_canonical]

/-! ### Faults and invalidates -/

theorem tableWrites_canonical (s : State) (l : List (Nat × DWord)) (hm : Canonical s.mem) : Canonical (s.tableWrites l).mem :=
  states_canonical (fun s w hs => by rw [clearWords_mem]; exact writeDev_canonical s _ _ _ hs) l hm

theorem faultRestart_canonical (s : State) (id : Nat) (writes : List (Nat × DWord)) (hm : Canonical s.mem) :
    Canonical (s.faultRestart id writes).mem := by
  unfold State.faultRestart
  dsimp only
  split
  · exact hm
  · split
    · exact hm
    · exact states_canonical (fun s q hs => by rwa [restartOne_mem]) _ (tableWrites_canonical s _ hm)

theorem faultDecline_canonical (s : State) (id : Nat) (hm : Canonical s.mem) : Canonical (s.faultDecline id).mem := by
  unfold State.faultDecline
  dsimp only
  split
  · exact hm
  · rename_i r _
    split
    · exact hm
    · have hd : Canonical (s.dropFault id).mem := by rwa [dropFault_mem]
      generalize s.dropFault id = s at hd
      split
      · grind [stopOp_canonical, fillFail_canonical, writebackDeny_mem, deliverCtl_mem, deliver_mem, focus_spec]
      · split
        · grind [stopOp_canonical, fillFail_canonical, writebackDeny_mem, deliverCtl_mem, deliver_mem, focus_spec]
        · grind [stopOp_canonical, fillFail_canonical, writebackDeny_mem, deliverCtl_mem, deliver_mem, focus_spec]
      · grind [stopOp_canonical, fillFail_canonical, writebackDeny_mem, deliverCtl_mem, deliver_mem, focus_spec]

theorem moveSectors_canonical (s : State) (owner src dst : Nat) (n : Nat) (hm : Canonical s.mem) :
    Canonical (s.moveSectors owner src dst n).1.mem := by
  induction n generalizing s src dst with
  | zero => exact hm
  | succ n ih => grind [State.moveSectors, tearDev_mem, writeDev_canonical, clearWords_mem, reach_mem, touch_mem, noteFilled_mem, sectorReadBy_mem]

theorem moveFrames_canonical (s : State) (owner : Nat) (l : List (Nat × Nat)) (hm : Canonical s.mem) : Canonical (s.moveFrames owner l).1.mem := by
  induction l generalizing s with
  | nil => exact hm
  | cons x l ih => grind [State.moveFrames, moveSectors_canonical]

theorem abortLeaves_canonical (s : State) (l : List (Nat × DWord)) (hm : Canonical s.mem) : Canonical (s.abortLeaves l).mem := by
  grind [State.abortLeaves, tableWrites_canonical]

theorem tlbInvalidate_canonical (s : State) (ctx region page pages : Nat) (moves : List (Nat × Nat)) (writes : List (Nat × DWord))
    (hm : Canonical s.mem) : Canonical (s.tlbInvalidate ctx region page pages moves writes).mem := by
  grind [State.tlbInvalidate, moveFrames_canonical, abortLeaves_canonical, tableWrites_canonical, State.newId_mem]

/-! ### Placing and ending -/

theorem teamEnd_canonical (s : State) (uid : Nat) (hm : Canonical s.mem) : Canonical (s.teamEnd uid).mem := by
  grind [State.teamEnd, unlockTeam_canonical, releaseFrees_mem, endLease_mem, State.putPair_mem, State.putGrid_mem, unmapPair_mem]

theorem childDone_canonical (s : State) (id : Nat) (hm : Canonical s.mem) : Canonical (s.childDone id).mem := by
  unfold State.childDone
  dsimp only
  split
  · exact hm
  · split
    · exact hm
    · split
      · rwa [dropGrid_mem]
      · split
        · exact whenMigrated_keeps Canonical (fun s hm => by grind [dropGrid_mem, unitWrite_canonical]) _ _ _ _ _ hm
        · grind [dropGrid_mem, landPiece_canonical]

/-! ### Launches -/

theorem launchCtl_canonical (w : FWord) (s : State) (t : Team) (hm : Canonical s.mem) : Canonical (launchCtl w s t).mem :=
  ctlPass_keeps Canonical
    (fun s t hm => by grind [landCtl_canonical, trapCtl_mem, ctlBlock_mem, ctlRead_mem, newGrid_mem, ctlDone_mem]) t _ _ _ _ _ _ _ hm

/-! ### Commands -/

theorem slotFrame_canonical (s : State) (n va : Nat) (hm : Canonical s.mem) : Canonical (s.slotFrame n va).2.mem := by
  grind [State.slotFrame, translate_mem, writeDev_canonical, pinLines_mem]

theorem slotArea_canonical (s : State) (n base : Nat) (hm : Canonical s.mem) : Canonical (s.slotArea n base).2.mem := by
  unfold State.slotArea
  generalize List.range 8 = l
  exact foldl_canonical (β := Nat × State) Prod.snd (fun e i he => by grind [slotFrame_canonical]) l (b := (0, s)) hm

theorem setContext_canonical (s : State) (win : Nat) (hm : Canonical s.mem) : Canonical (s.setContext win).mem :=
  runCmd_keeps Canonical (fun s c hm => by
    have hr : Canonical (s.svcRead (s.window win).core (c.field 8 8) 512).1.mem := by rwa [svcRead_mem]
    have hl : ∀ x : Ctx, Canonical (if ((s.svcRead (s.window win).core (c.field 8 8) 512).1.ctx (c.field 16 2)).isSome = true then
        (s.svcRead (s.window win).core (c.field 8 8) 512).1.putCtx (c.field 16 2) x
        else (List.range 16).foldl (fun s r => if (tabGet Region.off x.regions r).en then s.countLocks (c.field 16 2) r (fun _ => 0) else s)
          ((s.svcRead (s.window win).core (c.field 8 8) 512).1.putCtx (c.field 16 2) x)).mem :=
      fun x => ite_canonical hr (states_canonical (fun s r h => by grind [countLocks_canonical]) _ hr)
    refine ite_canonical ?_ ?_
    · rwa [endCmd_mem]
    · rw [endCmd_mem, State.putWindow_mem]
      exact ite_snd_canonical (hl _) (slotArea_canonical _ _ _ (hl _))) win _ _ hm

theorem writeValue_canonical (s : State) (win : Nat) (hm : Canonical s.mem) : Canonical (s.writeValue win).mem :=
  runCmd_keeps Canonical (fun s c hm => by rw [endCmd_mem]; exact writeDev_canonical s _ _ _ hm) win _ _ hm

theorem commandComplete_canonical (s : State) (win : Nat) (hm : Canonical s.mem) : Canonical (s.commandComplete win).mem := by
  grind [State.commandComplete, putCmd_mem, writeDev_canonical, dropGrid_mem, State.putWindow_mem, sendMsix_mem]

/-! ### Links and the host -/

theorem hostApply_canonical (s : State) (port pa : Nat) (data : List Byte) (n : Nat) (hm : Canonical s.mem) :
    Canonical (s.hostApply port pa data n).mem := by
  induction n generalizing s pa data with
  | zero => exact hm
  | succ n ih => grind [State.hostApply, hostWords_mem, tearDev_mem, writeDev_canonical, foldHost_mem]

theorem hostServe_canonical (s : State) (port : Nat) (q : HostReq) (hm : Canonical s.mem) : Canonical (s.hostServe port q).mem := by
  cases q <;> grind [State.hostServe, hostReply_mem, readDev_mem, hostApply_canonical, noteSeals_mem]

theorem hostRequest_canonical (s : State) (port : Nat) (q : HostReq) (hm : Canonical s.mem) : Canonical (s.hostRequest port q).mem := by
  grind [State.hostRequest, hostReply_mem, hostServe_canonical, State.putPort_mem]

theorem masterReset_canonical (s : State) (kind : MasterKind) (unit : Nat) (hm : Canonical s.mem) : Canonical (s.masterReset kind unit).mem := by
  unfold State.masterReset
  cases kind with
  | engine =>
    dsimp only
    split
    · exact hm
    · exact states_canonical (fun s o hs => handleResolve_canonical s o hs) _ hm
  | _ => grind [putIsland_mem, State.putPort_mem]

/-! ### Power -/

theorem serveHeld_canonical (s : State) (port : Nat) (hm : Canonical s.mem) : Canonical (s.serveHeld port).mem :=
  states_canonical (fun s q hs => hostServe_canonical s port q hs) _ (by rwa [State.putPort_mem])

theorem powerExit_canonical (s : State) (u : PowerUnit) (hm : Canonical s.mem) : Canonical (s.powerExit u).mem := by
  unfold State.powerExit
  split
  · exact hm
  · dsimp only
    split
    · exact states_canonical (fun s p hs => serveHeld_canonical s p hs) _ (by rwa [refill_mem, putPower_mem])
    · rwa [putPower_mem]

theorem deviceReset_canonical (s : State) (b : BootInput) (hm : Canonical s.mem) : Canonical (s.deviceReset b).mem := by
  cases h : b.failStep <;> simp only [State.deviceReset, h] <;> rfl

/-! ### Preemption -/

theorem writeRun_canonical (s : State) (pa : Nat) (bytes : List Byte) (n : Nat) (hm : Canonical s.mem) : Canonical (s.writeRun pa bytes n).2.mem := by
  induction n generalizing s pa bytes with
  | zero => exact hm
  | succ n ih => grind [State.writeRun, writeDev_canonical]

theorem takeOff_canonical (s : State) (n : Nat) (c : Ctx) (v : Saved) (park : Bool) (hm : Canonical s.mem) : Canonical (s.takeOff n c v park).mem :=
  states_canonical (fun s t hs => unlockTeam_canonical s _ hs) _ hm

theorem recordOps_canonical (s : State) (n : Nat) (hm : Canonical s.mem) : Canonical (s.recordOps n).mem :=
  states_canonical (fun s o hs => strayUnits_canonical s o _ _ hs) _ hm

theorem saveArea_canonical (s : State) (n : Nat) (hm : Canonical s.mem) : Canonical (s.saveArea n).mem := by
  grind [State.saveArea, recordOps_canonical, returnBlends_mem, State.newFree_mem, takeOff_canonical, writeRun_canonical, endCmd_mem, unhalt_mem]

/-! ### Turns -/

theorem pass_canonical (s : State) (ticks : Nat) (hm : Canonical s.mem) : Canonical (s.pass ticks).mem := by
  grind [State.pass, elapse_mem]

end Sys2Proof.Machine
end

section
/-! O58, instructions and the step. An instruction that may not write memory leaves it as it is, one that may keeps the canonical form; so does
every turn, whatever move it makes. -/

namespace Sys2Proof.Machine

theorem eq_of_answer {s t : State} (h : answer s = .next t) : t = s := by
  unfold answer at h
  split at h <;> cases h
  rfl

theorem answer_mem {s u t : State} (hu : u.mem = s.mem) (h : answer u = .next t) : t.mem = s.mem := by rw [eq_of_answer h, hu]

theorem loadExec_mem {send : State → MemReq → State × Except Stop Sent} (hs : ∀ s a, (send s a).1.mem = s.mem) (op : BitVec 8) (w : MemWord)
    (o o' : Opd) (types : Nat → Bool) (u : Nat) (g : BitVec 3) (gn : Bool) (s : State) :
    (byStream s (memVec (loadPass op w o types u send) g gn) (loadCtl op w o' types u send)).mem = s.mem :=
  byStream_mem (memVec_mem (fun f p => by grind [loadPass, loaded_state]) (fun _ _ => rfl) g gn) (loadCtl_mem hs op w o' types u) s

theorem prefVec_mem (w : MemWord) (f : Foc) : (memVec (prefPass w) w.g w.gn f).mem = f.s.mem :=
  memVec_mem (fun f p => by grind [prefPass, prefetch_mem]) (fun _ _ => rfl) w.g w.gn f

theorem prefCtl_mem (w : MemWord) (s : State) (t : Team) :
    (memCtl 0x95 w .none (fun t => decide (t < 13)) false true
      (fun s t => (s.prefetch (t.memReq (memAddrCtl t.ctl w (tyBytes w.ty.toNat) (memOff w)) false) (tyBytes w.ty.toNat)).ctlDone t) s t).mem = s.mem :=
  ctlPass_mem (fun s t => by grind [prefetch_mem, ctlDone_mem]) s t _ _ _ _ _ _ _

theorem hostRead_mem (s : State) (port pa len : Nat) : (s.hostRequest port (.read pa len)).mem = s.mem := by
  grind [State.hostRequest, State.hostServe, hostReply_mem, readDev_mem, State.putPort_mem]

theorem exec_mem {i : Instr} {s t : State} (hi : mayWriteMemory i = false) (h : exec i s = .next t) : t.mem = s.mem := by
  cases i with
  | nop => exact answer_mem (byStream_mem (nopVec_mem _) (nopCtl_mem _) s) h
  | pFormPair => exact answer_mem (byStream_mem (pairVec_mem _) (pairCtl_mem _) s) h
  | iadd | isub | imul | imulh | imad | iaddc | imin | imax | iabs | and | or | xor | andn | shl | shr | sar | rotl | bfx | bfi | popc | clz | ctz |
      brev | perm | sel | icmp | mov | iadd64 | isub64 | imad64 | shl64 | shr64 | sar64 | icmp64 | mov64 | cderive | caim | cstep | cfloor | cspan |
      cwhere | cnarrow | cprobe | ckind | fadd | fsub | fmul | ffma | ffms | fnma | fmin | fmax | fcmp | frnd | ffrac | fclass | frcp | frsq | fsqrt
      | fex2 | flg2 | fsin | fcos | hadd2 | hsub2 | hmul2 | hfma2 | hmin2 | hmax2 | hcmp2 | dadd | dmul | dfma | dcmp | cvt | cvtn | cvtw | dot4 |
      dot8 | dot2h => exact answer_mem (aluExec_mem _ _ s) h
  | li => exact answer_mem (byStream_mem (liVec_mem _) (liCtl_mem _) s) h
  | ffma4 => exact answer_mem (byStream_mem (aluVec_mem _ _ _) (aluCtl_mem _ _) s) h
  | shfl | shflx | shflup | shfldn | ballot | vote | red | scan | matchv | elect => exact answer_mem (xthExec_mem _ _ s) h
  | ddx | ddy => exact answer_mem (byStream_mem (derivVec_mem _ _ _) (notInCtl_mem _ _) s) h
  | rduni => exact answer_mem (byStream_mem (rduniVec_mem _) (notInCtl_mem _ _) s) h
  | rclaim => exact answer_mem (byStream_mem (rclaimVec_mem _) (notInCtl_mem _ _) s) h
  | rclaimt => exact answer_mem (byStream_mem (rclaimtVec_mem _) (notInCtl_mem _ _) s) h
  | rrelease => exact answer_mem (byStream_mem (rreleaseVec_mem _) (notInCtl_mem _ _) s) h
  | rshare => exact answer_mem (byStream_mem (rshareVec_mem _) (notInCtl_mem _ _) s) h
  | runshare => exact answer_mem (byStream_mem (runshareVec_mem _) (notInCtl_mem _ _) s) h
  | deposit => exact answer_mem (byStream_mem (depositVec_mem _) (notInCtl_mem _ _) s) h
  | rmark => exact answer_mem (byStream_mem (rmarkVec_mem _) (notInCtl_mem _ _) s) h
  | rarriv => exact answer_mem (byStream_mem (rarrivVec_mem _) (notInCtl_mem _ _) s) h
  | ld => exact answer_mem (loadExec_mem (ldSend_mem _) _ _ _ _ _ _ _ _ s) h
  | ldf => exact answer_mem (loadExec_mem (ldfSend_mem _) _ _ _ _ _ _ _ _ s) h
  | ldexp => exact answer_mem (byStream_mem (cmpVec_mem (fun f _ a => sendLoad_mem f.s a _ _) _) (memNotCtl_mem _ _) s) h
  | ldcap => exact answer_mem (loadExec_mem (ldcapSend_mem _) _ _ _ _ _ _ _ _ s) h
  | sample | fetch => exact answer_mem (byStream_mem (smVec_mem _ _) (notInCtl_mem _ _) s) h
  | rquery => exact answer_mem (byStream_mem (smVec_mem _ _) (rqueryCtl_mem _) s) h
  | trace => exact answer_mem (byStream_mem (traceVec_mem _) (notInCtl_mem _ _) s) h
  | pref => exact answer_mem (byStream_mem (prefVec_mem _) (prefCtl_mem _) s) h
  | bra | call => exact answer_mem (byStream_mem (braVec_mem _ _ _) (braCtl_mem _ _ _) s) h
  | brai | calli => exact answer_mem (byStream_mem (braiVec_mem _ _ _) (braiCtl_mem _ _ _) s) h
  | ret => exact answer_mem (byStream_mem (retVec_mem _) (retCtl_mem _) s) h
  | retH => exact answer_mem (byStream_mem (retHVec_mem _) (retHCtl_mem _) s) h
  | join => exact answer_mem (byStream_mem (joinVec_mem _) (joinCtl_mem _) s) h
  | yield => exact answer_mem (byStream_mem (yieldVec_mem _) (yieldCtl_mem _) s) h
  | exit => exact answer_mem (byStream_mem (exitVec_mem _) (exitCtl_mem _) s) h
  | bar => exact answer_mem (byStream_mem (barVec_mem _) (barCtl_mem _) s) h
  | flagadd => exact answer_mem (byStream_mem (flagaddVec_mem _) (flagaddCtl_mem _) s) h
  | flagwait => exact answer_mem (byStream_mem (flagwaitVec_mem _) (flagwaitCtl_mem _) s) h
  | qpush => exact answer_mem (byStream_mem (qpushVec_mem _) (qpushCtl_mem _) s) h
  | qpop => exact answer_mem (byStream_mem (qpopVec_mem _) (qpopCtl_mem _) s) h
  | trap | brk => exact answer_mem (byStream_mem (softVec_mem _ _ _) (softCtl_mem _ _ _) s) h
  | sleep => exact answer_mem (byStream_mem (sleepVec_mem _) (sleepCtl_mem _) s) h
  | rdsys => exact answer_mem (byStream_mem (rdsysVec_mem _) (rdsysCtl_mem _) s) h
  | wrsys => exact answer_mem (byStream_mem (wrsysVec_mem _) (wrsysCtl_mem _) s) h
  | cpy | cpyg | cpys => exact answer_mem (byStream_mem (notInVec_mem _ _) (copyCtl_mem _ _ _) s) h
  | hwait => exact answer_mem (byStream_mem (notInVec_mem _ _) (hwaitCtl_mem _) s) h
  | htest => exact answer_mem (byStream_mem (notInVec_mem _ _) (htestCtl_mem _) s) h
  | hcancel => exact answer_mem (byStream_mem (notInVec_mem _ _) (hcancelCtl_mem _) s) h
  | ringinit => exact answer_mem (byStream_mem (notInVec_mem _ _) (ringinitCtl_mem _) s) h
  | rwait => exact answer_mem (byStream_mem (rwaitVec_mem _) (rwaitCtl_mem _) s) h
  | rfree => exact answer_mem (byStream_mem (rfreeVec_mem _) (rfreeCtl_mem _) s) h
  | macq => exact answer_mem (byStream_mem (notInVec_mem _ _) (macqCtl_mem _) s) h
  | mrel => exact answer_mem (byStream_mem (notInVec_mem _ _) (mrelCtl_mem _) s) h
  | mzero => exact answer_mem (byStream_mem (notInVec_mem _ _) (mzeroCtl_mem _) s) h
  | mstore | mstoreg => exact answer_mem (byStream_mem (notInVec_mem _ _) (mstoreCtl_mem _ _ _) s) h
  | amaxstep => exact answer_mem (byStream_mem (notInVec_mem _ _) (amaxstepCtl_mem _) s) h
  | ireqUnb => exact answer_mem (byStream_mem (notInVec_mem _ _) (ireqUnbCtl_mem _) s) h
  | tlblock | tlbunlock | cpin => exact answer_mem (byStream_mem (notInVec_mem _ _) (rangeCtl_mem _ _ _ _) s) h
  | launchGrid => exact answer_mem (launchGrid_mem s _) h
  | loadImage => exact answer_mem (loadImage_mem s _) h
  | waitValue => exact answer_mem (waitValue_mem s _) h
  | copy => exact answer_mem (copyCmd_mem s _) h
  | decompress => exact answer_mem (decompressCmd_mem s _) h
  | partition => exact answer_mem (partitionCmd_mem s _) h
  | pin => exact answer_mem (pinCmd_mem s _) h
  | latencyTolerance => exact answer_mem (toleranceCmd_mem s _) h
  | saveContext => exact answer_mem (saveContext_mem s _) h
  | resume => exact answer_mem (resumeCmd_mem s _) h
  | waitValueTimeout => exact answer_mem (waitTimeout_mem s _) h
  | windowEntryWrite => exact answer_mem (windowWrite_mem s _ _ _ _) h
  | bar0RegisterWrite => exact answer_mem (barWrite_mem s _ _ _) h
  | sealAccept => exact answer_mem (sealAccept_mem s _) h
  | hostMemRead => exact answer_mem (hostRead_mem s _ _ _) h
  | teamPlace => exact answer_mem (teamPlace_mem s) h
  | gangReserve => exact answer_mem (gangReserve_mem s) h
  | gangCommit => exact answer_mem (gangCommit_mem s) h
  | reckonerFailover => exact answer_mem (u := { s with reckoner := { s.reckoner with acting := (s.reckoner.acting + 1) % 8 } }) rfl h
  | pairIdle => exact answer_mem (pairIdle_mem s _) h
  | gridRetire => exact answer_mem (gridRetire_mem s _) h
  | loadResultReturn => exact answer_mem (loadReturn_mem s _) h
  | storeAck => exact answer_mem (ackStore_mem s _) h
  | homeLoadServe => exact answer_mem (homeLoad_mem s _ _ _) h
  | ownerFault => exact answer_mem (ownerFault_mem s _) h
  | invalidateComplete => exact answer_mem (invalidateComplete_mem s _) h
  | gridEnd => exact answer_mem (gridEnd_mem s _) h
  | abacusHangReset => exact answer_mem (hangReset_mem s _ _) h
  | matrixResetDeliver => exact answer_mem (matrixDeliver_mem s _) h
  | abacusLeaseGrant => exact answer_mem (leaseGrant_mem s _) h
  | watchdogExpire => exact answer_mem (watchdog_mem s _ _) h
  | sleepWake => exact answer_mem (sleepWake_mem s _) h
  | depositArrive => exact answer_mem (depositArrive_mem s _) h
  | ifetchFill => exact answer_mem (fetchFill_mem s _) h
  | engineOpStart => exact answer_mem (by grind [State.putOp_mem]) h
  | ringSlotClaim => exact answer_mem (by grind [ringClaim_mem]) h
  | islandRequestAccept => exact answer_mem (by grind [blendAccept_mem, cellAccept_mem]) h
  | islandResponse => exact answer_mem (by grind [blendRespond_mem, cellRespond_mem]) h
  | islandConfigError => exact answer_mem (configError_mem s _ _) h
  | mailboxSend => exact answer_mem (mailboxSend_mem s _ _ _) h
  | preemptRequest => exact answer_mem (preempt_mem s _) h
  | linkLockLost => exact answer_mem (lockLost_mem s _) h
  | linkLockRegained => exact answer_mem (lockRegained_mem s _) h
  | linkLost => exact answer_mem (linkLost_mem s _) h
  | trainingComplete => exact answer_mem (trainingComplete_mem s _) h
  | graceExpire => exact answer_mem (graceExpire_mem s _) h
  | flitReceive => exact answer_mem (flitReceive_mem s _ _ _ _) h
  | granuleIdleFlush => exact answer_mem (granuleFlush_mem s _) h
  | powerStateEnter => exact answer_mem (powerEnter_mem s _ _) h
  | powerWake => exact answer_mem (powerWake_mem s _) h
  | powerIssueHold => exact answer_mem (issueHold_mem s _ _ _) h
  | fencePassComplete => exact answer_mem (fencePass_mem s _) h
  | unassignedOpcodeWord => exact answer_mem (byStream_mem (fun f => trapIssue_mem f _ _ _) (fun s t => trapCtl_mem s t _) s) h
  | debuggerResume => exact answer_mem (debuggerResume_mem s _ _) h
  | wavelengthRetrained => exact answer_mem (wavelengthRetrained_mem s _ _ _) h
  | _ => cases hi

theorem answer_canonical {t u : State} (hu : Canonical u.mem) (h : answer u = .next t) : Canonical t.mem := by rwa [eq_of_answer h]

theorem storeExec_canonical {sendVec : Foc → Nat → MemReq → TCap → State × Except Stop Sent}
    {sendCtl : State → Team → MemReq → TCap → State × Except Stop Sent} (hv : ∀ f p a v, Canonical f.s.mem → Canonical (sendVec f p a v).1.mem)
    (hc : ∀ s t a v, Canonical s.mem → Canonical (sendCtl s t a v).1.mem) (op : BitVec 8) (w : MemWord) (o o' : Opd) (types : Nat → Bool) (u : Nat)
    (g : BitVec 3) (gn : Bool) {s : State} (hm : Canonical s.mem) :
    Canonical (byStream s (memVec (storePass op w o types u sendVec) g gn) (storeCtl op w o' types u sendCtl)).mem :=
  byStream_keeps Canonical (fun f => memVec_keeps Canonical (fun f p hm => by grind [storePass, stored_state]) (fun _ _ => rfl) g gn)
    (fun t => storeCtl_keeps Canonical hc op w o' types u t) hm

theorem atomVec_canonical (w : MemWord) (f : Foc) (hm : Canonical f.s.mem) : Canonical (memVec (atomPass w) w.g w.gn f).mem :=
  memVec_keeps Canonical (fun f p hm => by grind [atomPass, loaded_state, sendAtom_canonical]) (fun _ _ => rfl) w.g w.gn hm

theorem execEngineWriteAck_canonical {id units : Nat} {s t : State} (hm : Canonical s.mem) (h : execEngineWriteAck id units s = .next t) :
    Canonical t.mem := by
  unfold execEngineWriteAck at h
  grind [eq_of_answer, engRun_canonical]

theorem execHandleResolve_canonical {id : Nat} {s t : State} (hm : Canonical s.mem) (h : execHandleResolve id s = .next t) : Canonical t.mem := by
  unfold execHandleResolve at h
  grind [eq_of_answer, handleResolve_canonical]

theorem exec_canonical {i : Instr} {s t : State} (hm : Canonical s.mem) (h : exec i s = .next t) : Canonical t.mem := by
  cases hi : mayWriteMemory i with
  | false => rwa [exec_mem hi h]
  | true => cases i with
    | st | stcap => exact answer_canonical (storeExec_canonical (fun f p a v hm => sendStore_canonical _ _ _ _ _ hm)
        (fun s t a v hm => sendStore_canonical _ _ _ _ _ hm) _ _ _ _ _ _ _ _ hm) h
    | stf => exact answer_canonical (storeExec_canonical (fun f p a v hm => sendElemStore_canonical _ _ _ _ _ hm)
        (fun s t a v hm => sendElemStore_canonical _ _ _ _ _ hm) _ _ _ _ _ _ _ _ hm) h
    | stcmp => exact answer_canonical (byStream_keeps Canonical (fun f => cmpVec_keeps Canonical (fun f p a hm => by grind [sendStore_canonical]) _)
        (fun t hm => by rwa [memNotCtl_mem]) hm) h
    | atom => exact answer_canonical (byStream_keeps Canonical (atomVec_canonical _) (fun t hm => atomCtl_canonical _ s t hm) hm) h
    | fence => exact answer_canonical (byStream_keeps Canonical (fun f => fenceVec_canonical _ f) (fun t => fenceCtl_canonical _ s t) hm) h
    | spwb => exact answer_canonical (byStream_keeps Canonical (fun f => spwbVec_canonical _ f) (fun t => spwbCtl_canonical _ s t) hm) h
    | dalloc => exact answer_canonical (byStream_keeps Canonical (fun f => dallocVec_canonical _ f) (fun t => dallocCtl_canonical _ s t) hm) h
    | dfree => exact answer_canonical (byStream_keeps Canonical (fun f => dfreeVec_canonical _ f) (fun t => dfreeCtl_canonical _ s t) hm) h
    | mma | mmag => exact answer_canonical (byStream_keeps Canonical (fun f hm => by rwa [notInVec_mem]) (fun t => mmaCtl_canonical _ _ _ s t) hm) h
    | mload => exact answer_canonical (byStream_keeps Canonical (fun f hm => by rwa [notInVec_mem]) (fun t => mloadCtl_canonical _ s t) hm) h
    | ireq => exact answer_canonical (byStream_keeps Canonical (fun f hm => by rwa [notInVec_mem]) (fun t => ireqCtl_canonical _ s t) hm) h
    | beam => exact answer_canonical (byStream_keeps Canonical (fun f hm => by rwa [notInVec_mem]) (fun t => beamCtl_canonical _ s t) hm) h
    | launch => exact answer_canonical (byStream_keeps Canonical (fun f hm => by rwa [notInVec_mem]) (fun t => launchCtl_canonical _ s t) hm) h
    | setContext => exact answer_canonical (setContext_canonical s _ hm) h
    | writeValue => exact answer_canonical (writeValue_canonical s _ hm) h
    | commandComplete => exact answer_canonical (commandComplete_canonical s _ hm) h
    | hostMemWrite | hostAtomic => exact answer_canonical (hostRequest_canonical s _ _ hm) h
    | teamEnd => exact answer_canonical (teamEnd_canonical s _ hm) h
    | childDoneWrite => exact answer_canonical (childDone_canonical s _ hm) h
    | homeWriteApply => exact answer_canonical (writeArrives_canonical s _ _ hm) h
    | sectorFillComplete => exact answer_canonical (sectorFill_canonical s _ _ hm) h
    | writebackComplete => exact answer_canonical (writeback_canonical s _ _ hm) h
    | faultRestart => exact answer_canonical (faultRestart_canonical s _ _ hm) h
    | faultDecline => exact answer_canonical (faultDecline_canonical s _ hm) h
    | tlbInvalidate => exact answer_canonical (tlbInvalidate_canonical s _ _ _ _ _ _ hm) h
    | masterReset => exact answer_canonical (masterReset_canonical s _ _ hm) h
    | abacusChunk => exact answer_canonical (abacusChunk_canonical s _ _ hm) h
    | engineWriteAck => exact execEngineWriteAck_canonical hm h
    | handleResolve => exact execHandleResolve_canonical hm h
    | remainderAppend => exact answer_canonical (remainderAppend_canonical s _ hm) h
    | blendCommit => exact answer_canonical (blendCommit_canonical s _ _ hm) h
    | blockModeWrite => exact answer_canonical (blockModeWrite_canonical s _ hm) h
    | splatSortRelease => exact answer_canonical (splatRelease_canonical s _ _ _ hm) h
    | saveAreaWrite => exact answer_canonical (saveArea_canonical s _ hm) h
    | deviceReset => exact answer_canonical (deviceReset_canonical s _ hm) h
    | powerExitComplete => exact answer_canonical (powerExit_canonical s _ hm) h
    | _ => cases hi

/-- The next state, if the outcome has one, has its memory in the canonical form. -/
def NextCanonical (o : Host.Outcome State Fault Refusal) : Prop := ∀ t, o = .next t → Canonical t.mem

theorem answer_nextCanonical {s : State} (hm : Canonical s.mem) : NextCanonical (answer s) := fun _ h => answer_canonical hm h

theorem exec_nextCanonical (i : Instr) {s : State} (hm : Canonical s.mem) : NextCanonical (exec i s) := fun _ h => exec_canonical hm h

theorem onNext_nextCanonical {o : Host.Outcome State Fault Refusal} {f : State → Host.Outcome State Fault Refusal} (ho : NextCanonical o)
    (hf : ∀ s, Canonical s.mem → NextCanonical (f s)) : NextCanonical (onNext o f) := by
  cases o with
  | next s => exact hf s (ho s rfl)
  | fault r => exact fun t h => nomatch h
  | refused r => exact fun t h => nomatch h

theorem runTandem_canonical {i : Instr} {pair q gt : Nat} {a : Agent} {rod : Rod} {l : List (Nat × PassPlan)} {s t : State} {b : Bool}
    (hm : Canonical s.mem) (h : runTandem i pair q gt a rod l s = .next (t, b)) : Canonical t.mem := by
  induction l generalizing s with
  | nil => cases h; exact hm
  | cons e l ih =>
    unfold runTandem at h
    split at h
    · exact ih hm h
    · dsimp only at h
      split at h
      · rename_i u hu
        have hc : Canonical u.mem := exec_canonical (by rwa [wakeSplit_mem, State.putRod_mem]) hu
        split at h
        · exact ih hc h
        · cases h; exact hc
      · cases h
      · cases h

theorem issueRod_nextCanonical (i : Instr) (pair q : Nat) (a : Agent) {s : State} (hm : Canonical s.mem) : NextCanonical (s.issueRod i pair q a) := by
  unfold State.issueRod
  split
  · exact exec_nextCanonical i hm
  · dsimp only
    split
    · rename_i hr
      have ht := runTandem_canonical hm hr
      exact answer_nextCanonical (by rwa [State.putRod_mem])
    · exact fun t h => nomatch h
    · exact fun t h => nomatch h

theorem rodRun_nextCanonical (pair q : Nat) {s : State} (hm : Canonical s.mem) : NextCanonical (s.rodRun pair q) := by
  unfold State.rodRun
  split
  · exact answer_nextCanonical hm
  · rename_i a _
    have hu : Canonical ((s.makeCurrent pair q a).untilPass pair q a).mem := by rwa [untilPass_mem, makeCurrent_mem]
    have hf := fetchCur_mem ((s.makeCurrent pair q a).untilPass pair q a)
    dsimp only
    split
    · exact answer_nextCanonical (by rwa [watchdog_mem])
    · split
      · exact answer_nextCanonical (by grind)
      · exact issueRod_nextCanonical _ pair q a (by grind)

theorem ctlRun_nextCanonical (t : Team) {s : State} (hm : Canonical s.mem) : NextCanonical (s.ctlRun t) := by
  unfold State.ctlRun
  dsimp only
  have hf := fun u : State => fetchCur_mem u
  split
  · split
    · exact answer_nextCanonical (by grind [State.putTeam_mem])
    · exact answer_nextCanonical (by grind [State.putTeam_mem, ctlTurned_mem])
  · exact onNext_nextCanonical (exec_nextCanonical _ (by grind [State.putTeam_mem])) (fun u hu => answer_nextCanonical (by rwa [ctlTurned_mem]))

theorem rodNext_nextCanonical {pair q now : Nat} {s : State} {o : Host.Outcome State Fault Refusal} (hm : Canonical s.mem)
    (h : s.rodNext pair q = some (now, o)) : NextCanonical o := by
  unfold State.rodNext at h
  split at h
  · cases h
  · dsimp only at h
    split at h <;> cases h
    exact rodRun_nextCanonical pair q hm

theorem ctlNext_nextCanonical {t : Team} {now : Nat} {s : State} {o : Host.Outcome State Fault Refusal} (hm : Canonical s.mem)
    (h : s.ctlNext t = some (now, o)) : NextCanonical o := by
  have hr := ctlRun_nextCanonical t hm
  unfold State.ctlNext at h
  grind

/-- The choice between the ready control threads of a core answers one of them. -/
theorem foldl_choice_mem {α : Type*} (p : α → α → Bool) (l : List α) (e : α) : l.foldl (fun m d => if p m d then m else d) e ∈ e :: l := by
  induction l generalizing e with
  | nil => exact List.mem_cons_self
  | cons d l ih => grind

theorem coreNext_nextCanonical {pair layer now : Nat} {s : State} {o : Host.Outcome State Fault Refusal} (hm : Canonical s.mem)
    (h : s.coreNext pair layer = some (now, o)) : NextCanonical o := by
  unfold State.coreNext at h
  dsimp only at h
  split at h
  · cases h
  · rename_i e l hl
    have he := foldl_choice_mem (ctlFirst (tabGet 0 (s.pair pair).lastCtl layer)) l e
    rw [← hl, List.mem_filterMap] at he
    obtain ⟨t, _, ht⟩ := he
    obtain ⟨x, hx, hxe⟩ := Option.map_eq_some_iff.mp ht
    rw [← hxe] at h
    cases h
    exact ctlNext_nextCanonical hm hx

theorem atStart_nextCanonical {next : State → Option (Nat × Host.Outcome State Fault Refusal)}
    (hn : ∀ s now o, Canonical s.mem → next s = some (now, o) → NextCanonical o) {s : State} (hm : Canonical s.mem) :
    NextCanonical (s.atStart next) := by
  have ha := answer_nextCanonical hm
  unfold State.atStart
  split
  · exact ha
  · rename_i now o hs
    split
    · exact hn s _ _ hm hs
    · split
      · exact ha
      · have he : Canonical (s.elapse now).mem := by rwa [elapse_mem]
        dsimp only
        split
        · rename_i hs
          split
          · exact hn _ _ _ he hs
          · exact answer_nextCanonical he
        · exact answer_nextCanonical he

theorem eventTurn_nextCanonical (i : Instr) {s : State} (hm : Canonical s.mem) : NextCanonical (s.eventTurn i) := by
  unfold State.eventTurn
  split
  · exact exec_nextCanonical i hm
  · exact answer_nextCanonical hm

theorem move_nextCanonical (m : Move) {s : State} (hm : Canonical s.mem) : NextCanonical (s.move m) := by
  cases m with
  | rod p q => exact atStart_nextCanonical (fun _ _ _ => rodNext_nextCanonical) hm
  | ctl p layer => exact atStart_nextCanonical (fun _ _ _ => coreNext_nextCanonical) hm
  | event i => exact eventTurn_nextCanonical i hm
  | kernel a => exact answer_nextCanonical (by rwa [kernelAct_mem])
  | upset u n => exact answer_nextCanonical (by rwa [upset_mem])
  | barRead port off size => exact answer_nextCanonical (hostRequest_canonical s port _ hm)
  | tick => exact answer_nextCanonical hm

theorem turn_nextCanonical (t : Turn) {s : State} (hm : Canonical s.mem) : NextCanonical (s.turn t) :=
  onNext_nextCanonical (move_nextCanonical t.move (pass_canonical s t.ticks hm)) (fun u hu => answer_nextCanonical (by rwa [settle_mem]))

theorem nextTurn_mem (s : State) : s.nextTurn.2.mem = s.mem := by
  unfold State.nextTurn
  split <;> rfl

/-- Settles O58: a step is a turn, and every turn keeps the form, for every function that may change device memory
writes bytes or clears a range of it. -/
theorem stepKeepsMemoryCanonical : Obligations.StepKeepsMemoryCanonical := by
  intro s t hm h
  exact turn_nextCanonical s.nextTurn.1 (by rwa [nextTurn_mem]) t h

end Sys2Proof.Machine
end

section
/-! O51: fault records and invalidates. What a restart, a decline or a resume does is cut into what it does for the operation, for the sector
and for the thread of a record; a restart wakes each thread of the page, since no restart of another record makes a thread wait. -/

namespace Sys2Proof.Machine

/-! ## Fault records -/

theorem fault_spec {s : State} {id : Nat} {r : FaultRec} (h : s.fault id = some r) : r ∈ s.faults ∧ r.id = id :=
  ⟨List.mem_of_find?_eq_some h, by simpa using List.find?_some h⟩

theorem answerable_intro {s : State} {id : Nat} {brk : Bool} {r : FaultRec} (hf : s.fault id = some r)
    (h : (!r.delivered || decide (r.code = .brk) != brk || s.away r.ctx) = false) : s.answerable id brk r := by
  simp only [Bool.or_eq_false_iff, Bool.not_eq_false', bne_eq_false_iff_eq] at h
  obtain ⟨⟨hd, hc⟩, ha⟩ := h
  exact ⟨hf, hd, hc, ha⟩

theorem ownerFault_idle {s : State} {id : Nat} (h : s.fault id = none ∨ ∃ r, s.fault id = some r ∧ r.delivered = true) :
    s.ownerFault id = s := by
  unfold State.ownerFault
  obtain hn | ⟨r, hr, hd⟩ := h
  · rw [hn]
  · rw [hr]
    exact if_pos hd

theorem faultRestart_idle {s : State} {id : Nat} (h : ∀ r, ¬ s.answerable id false r) (writes : List (Nat × DWord)) :
    s.faultRestart id writes = s := by
  unfold State.faultRestart
  cases hf : s.fault id with
  | none => rfl
  | some r =>
    refine if_pos (Bool.of_not_eq_false fun hb => h r (answerable_intro hf ?_))
    simpa [beq_eq_decide] using hb

theorem faultDecline_idle {s : State} {id : Nat} (h : ∀ r, ¬ s.answerable id false r) : s.faultDecline id = s := by
  unfold State.faultDecline
  cases hf : s.fault id with
  | none => rfl
  | some r =>
    refine if_pos (Bool.of_not_eq_false fun hb => h r (answerable_intro hf ?_))
    simpa [beq_eq_decide] using hb

theorem debuggerResume_idle {s : State} {id : Nat} (h : ∀ r, ¬ s.answerable id true r) (pc : Option (BitVec 48)) :
    s.debuggerResume id pc = s := by
  unfold State.debuggerResume
  cases hf : s.fault id with
  | none => rfl
  | some r =>
    refine if_pos (Bool.of_not_eq_false fun hb => h r (answerable_intro hf ?_))
    simpa [bne, beq_eq_decide] using hb

/-- The records of a state with the one that an owner fault delivers marked as delivered to a core (R48). -/
def State.delivered (s : State) (id core : Nat) : List FaultRec :=
  s.faults.map (fun q => if q.id = id then { q with delivered := true, core := core } else q)

theorem ownerFault_page {s : State} {id : Nat} {r : FaultRec} (hr : s.fault id = some r) (hd : r.delivered = false) (hc : r.code ≠ .brk) :
    s.ownerFault id = { s with faults := s.delivered id (s.ownerOf r) } := by
  simp [State.ownerFault, hr, hd, hc, State.delivered]

/-- A BREAK's record reaches its core together with a freeze record, which device memory and the other records do not notice (R384). -/
theorem ownerFault_break {s : State} {id : Nat} {r : FaultRec} (hr : s.fault id = some r) (hd : r.delivered = false) (hc : r.code = .brk) :
    ∃ core, (s.ownerFault id).hole = s.hole ∧ (s.ownerFault id).faults = s.delivered id core := by
  unfold State.ownerFault
  rw [hr]
  simp only [hd, hc, decide_true, Bool.not_true, Bool.false_eq_true, if_false, if_true]
  exact ⟨_, rfl, rfl⟩

/-! ## What writes to tables leave -/

theorem reach_faults (s : State) (pa len : Nat) : (s.reach pa len).faults = s.faults := by
  unfold State.reach
  split
  · rfl
  · split <;> rfl

theorem touchAll_faults (s : State) (pa len part : Nat) : (s.touchAll pa len part).faults = s.faults := by
  obtain ⟨_, _, _, _, h⟩ := touchAll_eq s pa len part
  rw [h]; rfl

theorem fillPartial_faults (s : State) (pa len : Nat) : (s.fillPartial pa len).faults = s.faults := by
  obtain ⟨_, _, _, h⟩ := fillPartial_eq s pa len
  rw [h]; rfl

theorem noteFilled_faults (s : State) (pa len : Nat) (write : Bool) : (s.noteFilled pa len write).faults = s.faults := by
  obtain ⟨_, _, _, _, h⟩ := noteFilled_eq s pa len write
  rw [h]; rfl

theorem applied_faults (s : State) (pa len : Nat) : (s.applied pa len).2.faults = s.faults := by
  obtain ⟨_, _, _, _, h⟩ := applied_eq s pa len
  rw [h]; rfl

theorem writeDev_faults (s : State) (pa part : Nat) (bytes : List Byte) : (s.writeDev pa part bytes).2.faults = s.faults := by
  unfold State.writeDev
  rw [applied_faults, noteFilled_faults]
  dsimp only
  rw [fillPartial_faults, touchAll_faults, reach_faults]

theorem clearWords_faults (s : State) (pa len : Nat) : (s.clearWords pa len).faults = s.faults := rfl

theorem clearWords_teams (s : State) (pa len : Nat) : (s.clearWords pa len).teams = s.teams := rfl

theorem tableWrites_faults (s : State) (l : List (Nat × DWord)) : (s.tableWrites l).faults = s.faults :=
  foldl_keeps State.faults (fun s w => by rw [clearWords_faults, writeDev_faults]) l s

theorem tableWrites_teams (s : State) (l : List (Nat × DWord)) : (s.tableWrites l).teams = s.teams :=
  foldl_keeps State.teams (fun s w => by rw [clearWords_teams, (writeDev_keepsUnits _ _ _ _).teams]) l s

/-! ## Threads that are woken -/

/-- The control threads that stand in one state stand in another, each with its wait or none. -/
def WaitsOn (s t : State) : Prop :=
  ∀ u v, s.team u = some v → ∃ v', t.team u = some v' ∧ (v'.ctl.wait = v.ctl.wait ∨ v'.ctl.wait = .none)

theorem WaitsOn.of_teams {s t : State} (h : t.teams = s.teams) : WaitsOn s t := fun u v hv => ⟨v, by unfold State.team; rwa [h], .inl rfl⟩

theorem WaitsOn.trans {s t u : State} (h : WaitsOn s t) (k : WaitsOn t u) : WaitsOn s u := fun n v hv => by
  obtain ⟨v', hv', hw⟩ := h n v hv
  obtain ⟨v'', hv'', hw'⟩ := k n v' hv'
  exact ⟨v'', hv'', by grind⟩

theorem WaitsOn.foldl {α : Type} {f : State → α → State} (hf : ∀ s x, WaitsOn s (f s x)) (l : List α) (s : State) :
    WaitsOn s (l.foldl f s) :=
  List.foldlRecOn l f (.of_teams rfl) (fun _ ht x _ => ht.trans (hf _ x))

theorem team_self {s : State} {u : Nat} {t : Team} (h : s.team u = some t) : s.team t.uid = some t := by rwa [team_uid h]

/-- A team read after one was replaced. -/
theorem putTeam_team {s : State} {t v : Team} {u : Nat} (h : s.team u = some v) : (s.putTeam t).team u = some (if u = t.uid then t else v) := by
  have hu := team_uid h
  have hp : (fun w : Team => w.uid == u) ∘ (fun w : Team => if w.uid = t.uid then t else w) = fun w => w.uid == u := by
    funext w
    dsimp only [Function.comp]
    split
    · rename_i hw; rw [hw]
    · rfl
  unfold State.team State.putTeam
  rw [List.find?_map, hp, ← State.team, h]
  subst hu
  rfl

theorem putTeam_waitsOn {s : State} {t v : Team} (h : s.team t.uid = some v) (hw : t.ctl.wait = v.ctl.wait ∨ t.ctl.wait = .none) :
    WaitsOn s (s.putTeam t) := fun u w hu => by
  refine ⟨_, putTeam_team hu, ?_⟩
  split
  · rename_i he
    rw [he, h] at hu
    cases hu
    exact hw
  · exact .inl rfl

theorem syncShares_waitsOn (s : State) (uid : Nat) (r : Rank) : WaitsOn s (s.syncShares uid r) := by
  refine .foldl (fun s h => ?_) _ s
  split
  · exact .of_teams rfl
  · rename_i t ht
    split
    · exact .of_teams rfl
    · split
      · exact .of_teams rfl
      · exact putTeam_waitsOn (v := t) (team_self ht) (.inl rfl)

theorem syncShares_faults (s : State) (uid : Nat) (r : Rank) : (s.syncShares uid r).faults = s.faults := by
  refine foldl_keeps State.faults (fun s h => ?_) _ s
  grind [State.putTeam_faults]

theorem putRank_waitsOn (s : State) (uid : Nat) (r : Rank) : WaitsOn s (s.putRank uid r) := by
  unfold State.putRank
  split
  · exact .of_teams rfl
  · rename_i t ht
    exact (putTeam_waitsOn (t := t.putRank r) (v := t) (team_self ht) (.inl rfl)).trans (syncShares_waitsOn _ _ _)

theorem putRank_faults (s : State) (uid : Nat) (r : Rank) : (s.putRank uid r).faults = s.faults := by
  unfold State.putRank
  split
  · rfl
  · exact syncShares_faults _ _ _

/-! ## Restarts -/

/-- What a restart does for the operation of a record: it no longer waits (R51). -/
def State.freeOp (s : State) (r : FaultRec) : State :=
  match r.op with
  | some o => match s.op o with
    | some q => s.putOp { q with waitFault := none }
    | none => s
  | none => s

/-- What a restart does for the thread of a record: it no longer waits for its owner (R49). -/
def State.freeAgent (s : State) (r : FaultRec) : State :=
  match r.agent with
  | none => s
  | some (.ctl u) =>
    match s.team u with
    | some t => if t.ctl.wait = .owner r.id then s.putTeam { t with ctl := { t.ctl with wait := .none } } else s
    | none => s
  | some a =>
    match s.splitOf a with
    | some (t, q, x) => if x.wait = .owner r.id then s.putRank t.uid (q.putSplit { x with wait := .none }) else s
    | none => s

theorem restartOne_eq (s : State) (r : FaultRec) : s.restartOne r = ((s.dropFault r.id).freeOp r).freeAgent r := rfl

theorem freeOp_teams (s : State) (r : FaultRec) : (s.freeOp r).teams = s.teams := by
  grind [State.freeOp, State.putOp_teams]

theorem freeOp_faults (s : State) (r : FaultRec) : (s.freeOp r).faults = s.faults := by
  grind [State.freeOp, State.putOp_faults]

theorem freeOp_hole (s : State) (r : FaultRec) : (s.freeOp r).hole = s.hole := by
  grind [State.freeOp, State.putOp_hole]

theorem freeAgent_faults (s : State) (r : FaultRec) : (s.freeAgent r).faults = s.faults := by
  grind [State.freeAgent, State.putTeam_faults, putRank_faults]

theorem freeAgent_hole (s : State) (r : FaultRec) : (s.freeAgent r).hole = s.hole := by
  grind [State.freeAgent, State.putTeam_hole, putRank_hole]

theorem freeAgent_waitsOn (s : State) (r : FaultRec) : WaitsOn s (s.freeAgent r) := by
  unfold State.freeAgent
  split
  · exact .of_teams rfl
  · split
    · rename_i t ht
      split
      · exact putTeam_waitsOn (v := t) (team_self ht) (.inr rfl)
      · exact .of_teams rfl
    · exact .of_teams rfl
  · split
    · split
      · exact putRank_waitsOn _ _ _
      · exact .of_teams rfl
    · exact .of_teams rfl

theorem freeAgent_ctl {s : State} {r : FaultRec} {u : Nat} {v : Team} (ha : r.agent = some (.ctl u)) (hv : s.team u = some v)
    (hw : v.ctl.wait = .owner r.id) : (s.freeAgent r).team u = some { v with ctl := { v.ctl with wait := .none } } := by
  simp only [State.freeAgent, ha, hv, hw, if_true]
  rw [putTeam_team hv, if_pos (team_uid hv).symm]

theorem restartOne_faults (s : State) (r : FaultRec) : (s.restartOne r).faults = s.faults.filter (fun q => q.id != r.id) := by
  rw [restartOne_eq, freeAgent_faults, freeOp_faults]
  rfl

theorem restartOne_hole (s : State) (r : FaultRec) : (s.restartOne r).hole = s.hole := by
  rw [restartOne_eq, freeAgent_hole, freeOp_hole]
  rfl

theorem restartOne_waitsOn (s : State) (r : FaultRec) : WaitsOn s (s.restartOne r) :=
  (WaitsOn.of_teams (freeOp_teams (s.dropFault r.id) r)).trans (freeAgent_waitsOn _ r)

/-- A control thread that waits under a record goes on when the record is restarted. -/
theorem restartOne_ctl {s : State} {r : FaultRec} {u : Nat} {v : Team} (ha : r.agent = some (.ctl u)) (hv : s.team u = some v)
    (hw : v.ctl.wait = .owner r.id ∨ v.ctl.wait = .none) : ∃ v', (s.restartOne r).team u = some v' ∧ v'.ctl.wait = .none := by
  have hx : ((s.dropFault r.id).freeOp r).team u = some v := by unfold State.team; rwa [freeOp_teams]
  obtain hw | hw := hw
  · exact ⟨_, by rw [restartOne_eq]; exact freeAgent_ctl ha hx hw, rfl⟩
  · obtain ⟨v', hv', h⟩ := restartOne_waitsOn s r u v hv
    exact ⟨v', hv', by grind⟩

/-- The records that a restart acts on: those of the record's page but for BREAKs (R50). -/
def State.samePage (s : State) (r : FaultRec) : List FaultRec :=
  s.faults.filter (fun q => q.ctx == r.ctx && q.code != .brk && decide (s.faultPage q = s.faultPage r))

theorem mem_samePage {s : State} {r q : FaultRec} :
    q ∈ s.samePage r ↔ q ∈ s.faults ∧ q.ctx = r.ctx ∧ q.code ≠ .brk ∧ s.faultPage q = s.faultPage r := by
  simp [State.samePage, and_assoc]

theorem faultRestart_eq {s : State} {id : Nat} {r : FaultRec} (h : s.answerable id false r) (writes : List (Nat × DWord)) :
    s.faultRestart id writes = (s.samePage r).foldl (fun s q => s.restartOne q) (s.tableWrites writes) := by
  obtain ⟨hf, hd, hc, ha⟩ := h
  simp [State.faultRestart, hf, hd, of_decide_eq_false hc, ha, State.samePage]

theorem restarts_faults (l : List FaultRec) (s : State) {q : FaultRec} (h : q ∈ (l.foldl (fun s q => s.restartOne q) s).faults) :
    q ∈ s.faults ∧ q ∉ l := by
  induction l generalizing s with
  | nil => exact ⟨h, List.not_mem_nil⟩
  | cons r l ih =>
    obtain ⟨hq, hl⟩ := ih _ h
    rw [restartOne_faults, List.mem_filter, bne_iff_ne] at hq
    obtain ⟨hq, hid⟩ := hq
    exact ⟨hq, fun hm => by grind⟩

theorem restarts_ctl {l : List FaultRec} {s : State} {r : FaultRec} {u : Nat} {v : Team} (hr : r ∈ l) (ha : r.agent = some (.ctl u))
    (hv : s.team u = some v) (hw : v.ctl.wait = .owner r.id) :
    ∃ v', (l.foldl (fun s q => s.restartOne q) s).team u = some v' ∧ v'.ctl.wait = .none := by
  obtain ⟨l1, l2, rfl⟩ := List.append_of_mem hr
  rw [List.foldl_append, List.foldl_cons]
  obtain ⟨v1, hv1, hw1⟩ := WaitsOn.foldl restartOne_waitsOn l1 s u v hv
  obtain ⟨v2, hv2, hw2⟩ := restartOne_ctl ha hv1 (by rwa [hw] at hw1)
  obtain ⟨v3, hv3, hw3⟩ := WaitsOn.foldl restartOne_waitsOn l2 _ u v2 hv2
  exact ⟨v3, hv3, by grind⟩

theorem faultRestart_hole {s : State} {id : Nat} {r : FaultRec} (h : s.answerable id false r) (writes : List (Nat × DWord)) :
    (s.faultRestart id writes).hole = (s.tableWrites writes).hole := by
  rw [faultRestart_eq h]
  exact foldl_keeps State.hole restartOne_hole _ _

theorem faultRestart_mem_eq {s : State} {id : Nat} {r : FaultRec} (h : s.answerable id false r) (writes : List (Nat × DWord)) :
    (s.faultRestart id writes).mem = (s.tableWrites writes).mem := by
  rw [faultRestart_eq h]
  exact foldl_mem restartOne_mem _ _

/-- No record of the page is left after a restart (R50). -/
theorem faultRestart_clears {s : State} {id : Nat} {r q : FaultRec} {writes : List (Nat × DWord)} (h : s.answerable id false r)
    (hq : q ∈ (s.faultRestart id writes).faults) (hctx : q.ctx = r.ctx) (hcode : q.code ≠ .brk) : s.faultPage q ≠ s.faultPage r := fun hpage => by
  rw [faultRestart_eq h] at hq
  obtain ⟨hq, hn⟩ := restarts_faults _ _ hq
  rw [tableWrites_faults] at hq
  exact hn (mem_samePage.mpr ⟨hq, hctx, hcode, hpage⟩)

/-- The control thread that waits under the record goes on after a restart (R49). -/
theorem faultRestart_wakes {s : State} {id u : Nat} {r : FaultRec} {v : Team} (writes : List (Nat × DWord)) (h : s.answerable id false r)
    (ha : r.agent = some (.ctl u)) (hv : s.team u = some v) (hw : v.ctl.wait = .owner id) :
    ∃ v', (s.faultRestart id writes).team u = some v' ∧ v'.ctl.wait = .none := by
  have ⟨hf, _, hc, _⟩ := h
  obtain ⟨hr, hid⟩ := fault_spec hf
  rw [faultRestart_eq h]
  exact restarts_ctl (mem_samePage.mpr ⟨hr, rfl, of_decide_eq_false hc, rfl⟩) ha (by unfold State.team; rwa [tableWrites_teams]) (by rwa [hid])

/-! ## Declines and resumes -/

/-- What a decline does for the operation of a record: it stops (R51). -/
def State.declineOp (s : State) (id : Nat) (r : FaultRec) : State :=
  match r.op with
  | some o => match s.op o with
    | some q => if q.waitFault = some id then s.stopOp q (stopStatus r.code) else s
    | none => s
  | none => s

/-- What a decline does for the sector of a record: its fill fails, or its write-back is denied (R72, R73). -/
def State.declineSector (s : State) (r : FaultRec) : State :=
  match r.sector with
  | none => s
  | some (pair, sec) =>
    match ((s.pair pair).sector sec).st, (s.pair pair).mapAt (sec * 256) with
    | .f, some _ => s.fillFail pair sec r.code r.va
    | .w, some (idx, m) => s.writebackDeny pair sec idx m r.va
    | .wd, some (idx, m) => s.writebackDeny pair sec idx m r.va
    | _, _ => s

/-- What a decline does for the thread of a record: the fault's trap goes to its handler (R49). -/
def State.declineAgent (s : State) (id : Nat) (r : FaultRec) : State :=
  match r.agent with
  | none => s
  | some (.ctl u) =>
    match s.team u with
    | some t => if t.ctl.wait = .owner id then s.deliverCtl { t with ctl := { t.ctl with wait := .none } } r.trap else s
    | none => s
  | some a =>
    match focus { s with cur := a } with
    | some f => if f.x.wait = .owner id then f.deliver r.trap ⟨r.pos, maskList r.handled, maskList r.actives⟩ else s
    | none => s

theorem faultDecline_eq {s : State} {id : Nat} {r : FaultRec} (h : s.answerable id false r) :
    s.faultDecline id = (((s.dropFault id).declineOp id r).declineSector r).declineAgent id r := by
  obtain ⟨hf, hd, hc, ha⟩ := h
  unfold State.faultDecline
  rw [hf]
  exact if_neg (by simp [hd, of_decide_eq_false hc, ha])

theorem declineOp_none {s : State} {id : Nat} {r : FaultRec} (h : r.op = none) : s.declineOp id r = s := by
  simp only [State.declineOp, h]

theorem declineOp_stops {s : State} {id o : Nat} {r : FaultRec} {q : EngOp} (h : r.op = some o) (hq : s.op o = some q)
    (hw : q.waitFault = some id) : s.declineOp id r = s.stopOp q (stopStatus r.code) := by
  simp only [State.declineOp, h, hq, hw, if_true]

theorem declineSector_none {s : State} {r : FaultRec} (h : r.sector = none) : s.declineSector r = s := by
  simp only [State.declineSector, h]

theorem declineSector_fill {s : State} {r : FaultRec} {pair sec k : Nat} {m : MapEntry} (h : r.sector = some (pair, sec))
    (hm : (s.pair pair).mapAt (sec * 256) = some (k, m)) (hst : ((s.pair pair).sector sec).st = .f) :
    s.declineSector r = s.fillFail pair sec r.code r.va := by
  simp only [State.declineSector, h, hm, hst]

theorem declineSector_writeback {s : State} {r : FaultRec} {pair sec k : Nat} {m : MapEntry} (h : r.sector = some (pair, sec))
    (hm : (s.pair pair).mapAt (sec * 256) = some (k, m)) (hst : ((s.pair pair).sector sec).st = .w ∨ ((s.pair pair).sector sec).st = .wd) :
    s.declineSector r = s.writebackDeny pair sec k m r.va := by
  obtain hst | hst := hst <;> simp only [State.declineSector, h, hm, hst]

theorem declineAgent_none {s : State} {id : Nat} {r : FaultRec} (h : r.agent = none) : s.declineAgent id r = s := by
  simp only [State.declineAgent, h]

theorem declineAgent_ctl {s : State} {id u : Nat} {r : FaultRec} {t : Team} (h : r.agent = some (.ctl u)) (ht : s.team u = some t)
    (hw : t.ctl.wait = .owner id) : s.declineAgent id r = s.deliverCtl { t with ctl := { t.ctl with wait := .none } } r.trap := by
  simp only [State.declineAgent, h, ht, hw, if_true]

theorem declineAgent_vec {s : State} {id u j a : Nat} {r : FaultRec} {f : Foc} (h : r.agent = some (.vec u j a))
    (hf : focus { s with cur := .vec u j a } = some f) (hw : f.x.wait = .owner id) :
    s.declineAgent id r = f.deliver r.trap ⟨r.pos, maskList r.handled, maskList r.actives⟩ := by
  simp only [State.declineAgent, h, hf, hw, if_true]

/-- What a debugger's resume does for the thread of a record (R379, R384). -/
def State.resumeAgent (s : State) (id : Nat) (r : FaultRec) (pc : Option (BitVec 48)) : State :=
  match r.agent with
  | none => s
  | some (.ctl u) =>
    match s.team u with
    | some t => if t.ctl.wait = .owner id then s.putTeam { t with ctl := { t.ctl with wait := .none, pc := pc.getD (t.ctl.pc + 8) } } else s
    | none => s
  | some a =>
    match focus { s with cur := a } with
    | none => s
    | some f => if f.x.wait ≠ .owner id then s else f.resumed r (pc.getD (f.x.pc + 8))

theorem debuggerResume_eq {s : State} {id : Nat} {r : FaultRec} (h : s.answerable id true r) (pc : Option (BitVec 48)) :
    s.debuggerResume id pc = (s.dropFault id).resumeAgent id r pc := by
  obtain ⟨hf, hd, hc, ha⟩ := h
  unfold State.debuggerResume
  rw [hf]
  exact if_neg (by simp [hd, of_decide_eq_true hc, ha])

theorem resumeAgent_none {s : State} {id : Nat} {r : FaultRec} {pc : Option (BitVec 48)} (h : r.agent = none) : s.resumeAgent id r pc = s := by
  simp only [State.resumeAgent, h]

theorem resumeAgent_ctl {s : State} {id u : Nat} {r : FaultRec} {pc : Option (BitVec 48)} {t : Team} (h : r.agent = some (.ctl u))
    (ht : s.team u = some t) (hw : t.ctl.wait = .owner id) :
    s.resumeAgent id r pc = s.putTeam { t with ctl := { t.ctl with wait := .none, pc := pc.getD (t.ctl.pc + 8) } } := by
  simp only [State.resumeAgent, h, ht, hw, if_true]

theorem resumeAgent_vec {s : State} {id u j a : Nat} {r : FaultRec} {pc : Option (BitVec 48)} {f : Foc} (h : r.agent = some (.vec u j a))
    (hf : focus { s with cur := .vec u j a } = some f) (hw : f.x.wait = .owner id) :
    s.resumeAgent id r pc = f.resumed r (pc.getD (f.x.pc + 8)) := by
  simp only [State.resumeAgent, h, hf, hw, ne_eq, not_true_eq_false, if_false]

theorem resumed_hole (f : Foc) (r : FaultRec) (pc : BitVec 48) : (f.resumed r pc).hole = f.s.hole := by
  unfold Foc.resumed
  rw [close_hole, retTo_state]

/-! ## Migration and invalidates -/

theorem tlbInvalidate_idle {s : State} {ctx region page pages : Nat} {moves : List (Nat × Nat)} (writes : List (Nat × DWord)) (hm : moves ≠ [])
    (hr : s.mayMove ctx region page pages = false) : s.tlbInvalidate ctx region page pages moves writes = s := by
  unfold State.tlbInvalidate
  exact if_pos (by simp [hm, hr])

theorem tlbInvalidate_moves {s x y : State} {ctx region page pages : Nat} {moves : List (Nat × Nat)} {writes : List (Nat × DWord)} {bad : Bool}
    (h : moves = [] ∨ s.mayMove ctx region page pages = true)
    (hx : s.moveFrames (s.pageOwner ctx (region * 2 ^ 44 + page * 2 ^ pageBits (s.region ctx region).psz)) moves = (x, bad))
    (hy : y = if bad then x.abortLeaves writes else x.tableWrites writes) :
    s.tlbInvalidate ctx region page pages moves writes =
      { y.newId.2 with invalidates := y.invalidates ++ [⟨y.nextId, ctx, region, page, pages⟩] } := by
  unfold State.tlbInvalidate
  rw [if_neg (by obtain h | h := h <;> simp [h])]
  dsimp only
  rw [hx, hy]
  rfl

theorem invalidateComplete_idle {s : State} {id : Nat}
    (h : s.invalidates.find? (fun v => v.id == id) = none ∨ ∃ v, s.invalidates.find? (fun v => v.id == id) = some v ∧ s.invalidReady v = false) :
    s.invalidateComplete id = s := by
  unfold State.invalidateComplete
  obtain h | ⟨v, h, hr⟩ := h
  · rw [h]
  · rw [h]
    exact if_pos (by simp [hr])

/-- What an invalidate leaves of a table of translations: the entries that it does not match. -/
def Invalidate.cut (v : Invalidate) (t : Tab (List TlbEntry)) : Tab (List TlbEntry) :=
  t.foldl (fun t x => tabPut [] t x.1 (x.2.filter (fun e => !v.hits e))) []

theorem cut_misses (v : Invalidate) (t : Tab (List TlbEntry)) (k : Nat) : ∀ e ∈ tabGet [] (v.cut t) k, v.hits e = false := by
  refine List.foldlRecOn t _ (motive := fun t => ∀ e ∈ tabGet [] t k, v.hits e = false) (fun e he => nomatch he) (fun t ht x _ e he => ?_)
  rw [tabGet_tabPut] at he
  split at he
  · simpa using (List.mem_filter.mp he).2
  · exact ht e he

/-- The state once an invalidate is complete (R47, R56, R58). -/
theorem invalidateComplete_eq {s : State} {id : Nat} {v : Invalidate} (h : s.invalidates.find? (fun v => v.id == id) = some v)
    (hr : s.invalidReady v = true) : s.invalidateComplete id = { s with
      invalidates := s.invalidates.filter (fun w => w.id != id)
      migWaits := s.migWaits.filter (fun w => decide (Wait.migrated v (.migration w.ctx w.page) ≠ .none))
      tlbs := v.cut s.tlbs
      clusterTlbs := v.cut s.clusterTlbs
      lockRanges := s.lockRanges.map (fun l =>
        if l.ctx = v.ctx ∧ l.lo < (s.invalidSpan v).2 ∧ (s.invalidSpan v).1 < l.hi then { l with broken := true } else l)
      teams := s.teams.map (fun t => { t with
        ctl := { t.ctl with wait := t.ctl.wait.migrated v }
        ranks := t.ranks.map (fun r => { r with splits := r.splits.map (fun x => { x with wait := x.wait.migrated v }) }) }) } := by
  unfold State.invalidateComplete
  rw [h]
  exact if_neg (by simp [hr])

/-- Settles O51: every clause is about one event, whose function either leaves the state or is the function its equation gives. -/
theorem faultsAndInvalidates : Obligations.FaultsAndInvalidates := by
  intro s hs
  have runs : ∀ {i : Instr} {u : State}, exec i s = answer u → u.hole = none → exec i s = .next u := fun h hu => h.trans (answer_next hu)
  refine ⟨fun id h => ?_, fun id r hr hd => ⟨fun hc => ?_, fun hc => ?_⟩, fun id writes h => ⟨?_, ?_⟩, fun id pc h => ?_, fun id r writes h hw => ?_,
    fun id r h => ⟨fun ho hsec => ⟨fun ha => ?_, fun u t ha ht hw => ?_, fun u j a f ha hf hw => ?_⟩, fun o q ho hsec ha hq hw hh => ?_,
      fun pair sec k m ho hsec ha hm => ⟨fun hst hh => ?_, fun hst hh => ?_⟩⟩,
    fun id r pc h => ⟨fun ha => ?_, fun u t ha ht hw => ?_, fun u j a f ha hf hw => ?_⟩, fun ctx region page pages moves writes hm hr => ?_,
    fun ctx region page pages moves writes x bad y h hx hy hh => ?_, fun id h => ?_, fun id v h hr => ?_⟩
  · exact runs (congrArg answer (ownerFault_idle h)) hs
  · exact runs (congrArg answer (ownerFault_page hr hd hc)) hs
  · obtain ⟨core, hhole, hfaults⟩ := ownerFault_break hr hd hc
    exact ⟨_, core, runs rfl (hhole.trans hs), ownerFault_mem s id, hfaults⟩
  · exact runs (congrArg answer (faultRestart_idle h writes)) hs
  · exact runs (congrArg answer (faultDecline_idle h)) hs
  · exact runs (congrArg answer (debuggerResume_idle h pc)) hs
  · exact ⟨_, runs rfl ((faultRestart_hole h writes).trans hw), faultRestart_mem_eq h writes, fun q => faultRestart_clears h,
      fun u v => faultRestart_wakes writes h⟩
  · refine runs (congrArg answer ?_) hs
    rw [faultDecline_eq h, declineOp_none ho, declineSector_none hsec, declineAgent_none ha]
  · refine runs (congrArg answer ?_) ((deliverCtl_hole _ _ _).trans hs)
    rw [faultDecline_eq h, declineOp_none ho, declineSector_none hsec, declineAgent_ctl (s := s.dropFault id) ha ht hw]
  · refine runs (congrArg answer ?_) ((deliver_hole _ _ _).trans ((congrArg State.hole (focus_spec hf)).trans hs))
    rw [faultDecline_eq h, declineOp_none ho, declineSector_none hsec, declineAgent_vec ha hf hw]
  · refine runs (congrArg answer ?_) hh
    rw [faultDecline_eq h, declineOp_stops (s := s.dropFault id) ho hq hw, declineSector_none hsec, declineAgent_none ha]
  · refine runs (congrArg answer ?_) hh
    rw [faultDecline_eq h, declineOp_none ho, declineSector_fill (s := s.dropFault id) hsec hm hst, declineAgent_none ha]
  · refine runs (congrArg answer ?_) hh
    rw [faultDecline_eq h, declineOp_none ho, declineSector_writeback (s := s.dropFault id) hsec hm hst, declineAgent_none ha]
  · refine runs (congrArg answer ?_) hs
    rw [debuggerResume_eq h, resumeAgent_none ha]
  · refine runs (congrArg answer ?_) hs
    rw [debuggerResume_eq h, resumeAgent_ctl (s := s.dropFault id) ha ht hw]
  · refine runs (congrArg answer ?_) ((resumed_hole _ _ _).trans ((congrArg State.hole (focus_spec hf)).trans hs))
    rw [debuggerResume_eq h, resumeAgent_vec ha hf hw]
  · exact runs (congrArg answer (tlbInvalidate_idle writes hm hr)) hs
  · exact ⟨_, _, runs (congrArg answer (tlbInvalidate_moves h hx hy)) hh, rfl, rfl, rfl⟩
  · exact runs (congrArg answer (invalidateComplete_idle h)) hs
  · refine ⟨_, runs (congrArg answer (invalidateComplete_eq h hr)) hs, rfl, rfl, cut_misses v _, cut_misses v _, rfl, fun w hw => ?_, ?_⟩
    · obtain ⟨hw, hne⟩ := List.mem_filter.mp hw
      exact ⟨hw, of_decide_eq_true hne⟩
    · exact (List.map_map ..)

end Sys2Proof.Machine
end

section
/-! O33: fills and write-backs of mapped sectors. Waking threads and folding times leave every pair as it is, so the sector that a fill or a
write-back puts in place is the one that stands afterwards; a write-back is granule after granule one write of 16 bytes at its home. -/

namespace Sys2Proof.Machine

/-! ## Operations that leave pairs and meet no fault -/

/-- The pairs of a state stay as they are, and it meets no new fault. -/
structure KeepsPairs (s t : State) : Prop where
  pairs : t.pairs = s.pairs
  hole : t.hole = s.hole

theorem KeepsPairs.refl (s : State) : KeepsPairs s s := ⟨rfl, rfl⟩

theorem KeepsPairs.trans {s t u : State} (h : KeepsPairs s t) (k : KeepsPairs t u) : KeepsPairs s u :=
  ⟨k.pairs.trans h.pairs, k.hole.trans h.hole⟩

/-- What keeps them at each entry of a list keeps them over the list. -/
theorem KeepsPairs.foldl {α : Type} {f : State → α → State} (hf : ∀ s x, KeepsPairs s (f s x)) (l : List α) (s : State) :
    KeepsPairs s (l.foldl f s) :=
  List.foldlRecOn l f (.refl s) (fun t ht x _ => ht.trans (hf t x))

theorem putTeam_keepsPairs (s : State) (t : Team) : KeepsPairs s (s.putTeam t) := ⟨rfl, rfl⟩

theorem syncShares_keepsPairs (s : State) (uid : Nat) (r : Rank) : KeepsPairs s (s.syncShares uid r) := by
  refine .foldl (fun s h => ?_) _ s
  split
  · exact .refl s
  · split
    · exact .refl s
    · split
      · exact .refl s
      · exact putTeam_keepsPairs s _

theorem putRank_keepsPairs (s : State) (uid : Nat) (r : Rank) : KeepsPairs s (s.putRank uid r) := by
  unfold State.putRank
  split
  · exact .refl s
  · exact (putTeam_keepsPairs s _).trans (syncShares_keepsPairs _ uid r)

theorem foldPcm_keepsPairs (s : State) (who : Who) (time : Nat) : KeepsPairs s (s.foldPcm who time) := by
  unfold State.foldPcm
  split
  · exact .refl s
  · split
    · exact putTeam_keepsPairs s _
    · split
      · exact .refl s
      · exact putTeam_keepsPairs s _

theorem foldGrid_keepsPairs (s : State) (pair w : Nat) : KeepsPairs s (s.foldGrid pair w) := by
  unfold State.foldGrid
  split
  · exact ⟨rfl, rfl⟩
  · exact .refl s

theorem wakeWaiter_keepsPairs (s : State) (pair sec : Nat) (who : Who) : KeepsPairs s (s.wakeWaiter pair sec who) := by
  unfold State.wakeWaiter
  split
  · exact .refl s
  · split
    · split
      · exact putTeam_keepsPairs s _
      · exact .refl s
    · split
      · exact .refl s
      · split
        · exact putTeam_keepsPairs s _
        · exact .refl s

/-- The threads that wait at an SPWB go on without a change to pairs (R301). -/
theorem sweepSpwb_keepsPairs (s : State) : KeepsPairs s s.sweepSpwb := by
  refine .foldl (fun s t0 => ?_) _ s
  split
  · exact .refl s
  · refine KeepsPairs.trans ?_ (.foldl (fun s r => .foldl (fun s x => ?_) _ s) _ _)
    · split
      · split
        · exact .refl s
        · exact putTeam_keepsPairs s _
      · exact .refl s
    · split
      · split
        · exact .refl s
        · split
          · exact putRank_keepsPairs s _ _
          · exact .refl s
      · exact .refl s

/-! ## Triggers -/

theorem trigger_hole (s : State) (pair sec : Nat) (who : Who) : (s.trigger pair sec who).hole = s.hole := by
  obtain ⟨ps, h⟩ := trigger_eq s pair sec who
  rw [h]

/-- A trigger of a clean sector does nothing (R71). -/
theorem trigger_clean {s : State} {pair sec : Nat} (h : ((s.pair pair).sector sec).st = .c) (who : Who) : s.trigger pair sec who = s := by
  unfold State.trigger
  dsimp only
  rw [h]
  split
  · rfl
  · split <;> rfl

theorem triggers_hole (s : State) (pair sec : Nat) (l : List Who) : (l.foldl (fun s who => s.trigger pair sec who) s).hole = s.hole :=
  foldl_keeps State.hole (fun s who => trigger_hole s pair sec who) l s

theorem triggers_clean {s : State} {pair sec : Nat} (h : ((s.pair pair).sector sec).st = .c) (l : List Who) :
    l.foldl (fun s who => s.trigger pair sec who) s = s :=
  List.foldlRecOn (motive := fun t => t = s) l _ rfl (fun t ht who _ => by rw [ht, trigger_clean h])

/-! ## Waiters that are released -/

/-- The accesses that wait for a sector are woken without a change to pairs. -/
theorem wakeWaiters_keepsPairs (s : State) (pair sec : Nat) (l : List Who) :
    KeepsPairs s (l.foldl (fun s who => s.wakeWaiter pair sec who) s) := .foldl (fun s who => wakeWaiter_keepsPairs s pair sec who) l s

theorem releaseWaiters_hole (s : State) (pair sec : Nat) (x : Sector) : (s.releaseWaiters pair sec x).hole = s.hole := by
  have h := (triggers_hole _ pair sec x.anew).trans (wakeWaiters_keepsPairs s pair sec x.waiters).hole
  unfold State.releaseWaiters
  dsimp only
  split
  · exact h
  · exact (sweepSpwb_keepsPairs _).hole.trans h

/-- The release of what waits for a clean sector leaves every pair (R71). -/
theorem releaseWaiters_pairs {s : State} {pair sec : Nat} (h : ((s.pair pair).sector sec).st = .c) (x : Sector) :
    (s.releaseWaiters pair sec x).pairs = s.pairs := by
  have hw := (wakeWaiters_keepsPairs s pair sec x.waiters).pairs
  unfold State.releaseWaiters
  dsimp only
  rw [triggers_clean (by unfold State.pair; rw [hw]; exact h)]
  split
  · exact hw
  · exact (sweepSpwb_keepsPairs _).pairs.trans hw

/-! ## Pairs and their sectors -/

/-- A pair read where the table of pairs is that of a state in which it was put. -/
theorem pair_of_pairs {s t : State} {pair : Nat} {p : Pair} (h : t.pairs = (s.putPair pair p).pairs) : t.pair pair = p := by
  unfold State.pair
  rw [h, State.putPair_pairs, tabGet_tabPut_same]

theorem sector_putSector (p : Pair) (sec : Nat) (x : Sector) : (p.putSector sec x).sector sec = x := tabGet_tabPut_same _ _ _ _

theorem putSector_pad (p : Pair) (sec : Nat) (x : Sector) : (p.putSector sec x).pad = p.pad := rfl

/-- A write to a scratchpad leaves its bytes there, whatever it makes of mapped sectors. -/
theorem write_pad (p : Pair) (off : Nat) (bytes : List Byte) (tag : Bool) : (p.write off bytes tag).pad = memPut p.pad off bytes := by
  unfold Pair.write
  exact foldl_keeps Pair.pad (fun _ _ => by rfl) _ _

/-! ## Fills -/

theorem fillDone_hole (s : State) (pair sec : Nat) (b : List Byte) : (s.fillDone pair sec b).hole = s.hole := releaseWaiters_hole _ _ _ _

/-- The pair that a fill leaves: its bytes stand in the scratchpad, and its sector is clean (R71). -/
theorem fillDone_pair (s : State) (pair sec : Nat) (b : List Byte) :
    (s.fillDone pair sec b).pair pair = ((s.pair pair).write (sec * 256) b false).putSector sec { Sector.fresh with st := .c } := by
  refine pair_of_pairs (s := s) (releaseWaiters_pairs ?_ _)
  rw [pair_of_pairs rfl, sector_putSector]

theorem fillDone_padByte (s : State) (pair sec : Nat) {b : List Byte} {k : Nat} (h : k < b.length) :
    (s.fillDone pair sec b).padByte pair (sec * 256 + k) = b.getD k 0 := by
  unfold State.padByte
  rw [fillDone_pair, putSector_pad, write_pad, tabGet_memPut, if_pos (by omega), Nat.add_sub_cancel_left]

theorem fillDone_clean (s : State) (pair sec : Nat) (b : List Byte) : (((s.fillDone pair sec b).pair pair).sector sec).st = .c := by
  rw [fillDone_pair, sector_putSector]

section
variable {s : State} {pair sec idx : Nat} {m : MapEntry} {g : Grid} (hm : (s.pair pair).mapAt (sec * 256) = some (idx, m))
  (hg : s.gridOn pair = some g) (ha : s.sectorAsked pair sec = false)
include hm hg ha

/-- A fill from a present page of the entry's format takes the bytes at the sector's home (R71, R72). -/
theorem sectorFill_page {s1 s2 : State} {pg : Page} {b : List Byte} (hst : ((s.pair pair).sector sec).st = .f)
    (ht : s.translate ⟨pair, g.ctx, 0⟩ (m.sectorVa sec) needR = (s1, .page pg)) (hfmt : pg.fmt = m.fmt) (hblk : pg.blk = m.blk)
    (hr : s1.readDev (pg.base + pg.off) 256 m.part = (s2, .ok b)) : s.sectorFill pair sec = s2.fillDone pair sec b := by
  unfold State.sectorFill
  simp only [hm, hg, ht, hr]
  rw [if_neg (by simp [hst, ha]), if_neg (by simp [hfmt, hblk])]

/-- A fill from a sparse page takes zeros (R52). -/
theorem sectorFill_sparse {s1 : State} (hst : ((s.pair pair).sector sec).st = .f)
    (ht : s.translate ⟨pair, g.ctx, 0⟩ (m.sectorVa sec) needR = (s1, .sparse)) :
    s.sectorFill pair sec = s1.fillDone pair sec (List.replicate 256 0) := by
  unfold State.sectorFill
  simp only [hm, hg, ht]
  exact if_neg (by simp [hst, ha])

end

/-! ## A granule that goes home -/

/-- The 16 bytes of a granule of a sector. -/
def granuleBytes (bytes : List Byte) (g : Nat) : List Byte := (bytes.drop (16 * g)).take 16

/-- One granule of a sector is written at its home (R73). -/
def State.landGranule (s : State) (pa part : Nat) (bytes : List Byte) (g : Nat) : State :=
  ((s.tearDev (pa + 16 * g) 16).writeDev (pa + 16 * g) part (granuleBytes bytes g)).2.clearWords (pa + 16 * g) 16

/-- A write-back sends a granule that is in flight before the rest. -/
theorem writeGranules_lands {flight : BitVec 16} {g : Nat} (h : flight.getLsbD g = true) (s : State) (pa part : Nat) (bytes : List Byte)
    (l : List Nat) :
    (s.writeGranules pa part flight bytes (g :: l)).2 = ((s.landGranule pa part bytes g).writeGranules pa part flight bytes l).2 := by
  rw [State.writeGranules, h]
  rfl

/-- A write-back passes over a granule that is not in flight. -/
theorem writeGranules_skips {flight : BitVec 16} {g : Nat} (h : flight.getLsbD g = false) (s : State) (pa part : Nat) (bytes : List Byte)
    (l : List Nat) : s.writeGranules pa part flight bytes (g :: l) = s.writeGranules pa part flight bytes l := by
  rw [State.writeGranules, h]
  rfl

/-- What writes at homes change: the accesses they meet, device memory with its marks, and what the homes keep beside the bytes. -/
def State.withHomes (s : State) (acc : List Access) (mem : Tab Byte) (poison : Tab Bool) (flaws : Tab Nat) (lines : Tab (Option LineMeta))
    (sets : Tab SetMeta) (slices : Tab Slice) (free : Nat) : State :=
  (State.withMem { s with accesses := acc } mem poison flaws).withCache lines sets slices free

theorem length_granuleBytes {bytes : List Byte} {g : Nat} (hb : bytes.length = 256) (hg : g < 16) : (granuleBytes bytes g).length = 16 := by
  simp only [granuleBytes, List.length_take, List.length_drop]
  omega

theorem granuleBytes_getD (bytes : List Byte) (g : Nat) {k : Nat} (h : k < 16) : (granuleBytes bytes g).getD k 0 = bytes.getD (16 * g + k) 0 := by
  simp [granuleBytes, List.getD_eq_getElem?_getD, h]

/-- A granule that goes home writes its 16 bytes and no others. -/
theorem landGranule_eq {s : State} {pa : Nat} {bytes : List Byte} {g : Nat} (part : Nat) (hpa : pa + 256 ≤ s.installed)
    (hb : bytes.length = 256) (hg : g < 16) :
    ∃ acc p f a b c d, s.landGranule pa part bytes g = s.withHomes acc (memPut s.mem (pa + 16 * g) (granuleBytes bytes g)) p f a b c d := by
  obtain ⟨acc, n, ht⟩ := tear_eq s 0 (pieceAt (.dev (pa + 16 * g)) 16 [] false false)
  have hin : pa + 16 * g + (granuleBytes bytes g).length ≤ ({ s with accesses := acc, free := n } : State).installed := by
    rw [length_granuleBytes hb hg]
    exact le_trans (by omega) hpa
  obtain ⟨p, f, a, b, c, d, hw⟩ := writeDev_eq (s := { s with accesses := acc, free := n }) part hin
  unfold State.landGranule State.tearDev
  rw [ht, hw]
  exact ⟨acc, p, f, a, b, _, d, rfl⟩

/-- A byte after a granule was written at its home. -/
theorem tabGet_putGranule (mem : Tab Byte) {pa : Nat} {bytes : List Byte} {g : Nat} (hb : bytes.length = 256) (hg : g < 16) (x : Nat) :
    tabGet 0 (memPut mem (pa + 16 * g) (granuleBytes bytes g)) x =
      if pa ≤ x ∧ (x - pa) / 16 = g then bytes.getD (x - pa) 0 else tabGet 0 mem x := by
  rw [tabGet_memPut, length_granuleBytes hb hg]
  by_cases h : pa ≤ x ∧ (x - pa) / 16 = g
  · rw [if_pos h, if_pos (by omega), granuleBytes_getD bytes g (by omega)]
    congr 1
    omega
  · rw [if_neg h, if_neg (by omega)]

/-- The granules of a list that are in flight go home: their bytes are written and no other byte of device memory is (R73). -/
theorem writeGranules_eq {pa : Nat} {bytes : List Byte} (part : Nat) (flight : BitVec 16) (hb : bytes.length = 256) (l : List Nat)
    (hl : ∀ g ∈ l, g < 16) {s : State} (hpa : pa + 256 ≤ s.installed) :
    ∃ acc mem p f a b c d, (s.writeGranules pa part flight bytes l).2 = s.withHomes acc mem p f a b c d ∧
      ∀ x, tabGet 0 mem x = if pa ≤ x ∧ flight.getLsbD ((x - pa) / 16) = true ∧ (x - pa) / 16 ∈ l then bytes.getD (x - pa) 0 else s.byteAt x := by
  induction l generalizing s with
  | nil => exact ⟨s.accesses, s.mem, s.poison, s.flaws, s.lines, s.sets, s.slices, s.free, rfl, fun x => (if_neg (by simp)).symm⟩
  | cons g l ih =>
    have hg : g < 16 := hl g (by simp)
    have hrest : ∀ k ∈ l, k < 16 := fun k hk => hl k (by simp [hk])
    cases hf : flight.getLsbD g with
    | false =>
      obtain ⟨acc, mem, p, f, a, b, c, d, h, hx⟩ := ih hrest hpa
      refine ⟨acc, mem, p, f, a, b, c, d, by rw [writeGranules_skips hf, h], fun x => ?_⟩
      have hne : flight.getLsbD ((x - pa) / 16) = true → (x - pa) / 16 ≠ g := fun h e => by rw [e, hf] at h; cases h
      rw [hx]
      exact if_congr (by grind) rfl rfl
    | true =>
      obtain ⟨acc0, p0, f0, a0, b0, c0, d0, h0⟩ := landGranule_eq part hpa hb hg
      obtain ⟨acc, mem, p, f, a, b, c, d, h, hx⟩ := ih hrest (s := s.landGranule pa part bytes g) (by rw [h0]; exact hpa)
      refine ⟨acc, mem, p, f, a, b, c, d, by rw [writeGranules_lands hf, h, h0]; rfl, fun x => ?_⟩
      have hland : (s.landGranule pa part bytes g).byteAt x = if pa ≤ x ∧ (x - pa) / 16 = g then bytes.getD (x - pa) 0 else s.byteAt x := by
        rw [h0]
        exact tabGet_putGranule s.mem hb hg x
      rw [hx, hland]
      by_cases hxg : (x - pa) / 16 = g
      · by_cases hlo : pa ≤ x <;> simp [hxg, hf, hlo]
      · simp [hxg]

/-! ## Write-backs -/

/-- The poison of a sector's granules in flight goes with them into the sector they are written to (R60, R397). -/
def State.homePoison (s : State) (pair sec pa : Nat) (x : Sector) : State :=
  if (List.range 16).any (fun g => x.flight.getLsbD g && (s.pair pair).poisoned (sec * 256 + 16 * g) 16) then
    { s with poison := tabPut false s.poison (pa / 256) true }
  else s

theorem homePoison_eq (s : State) (pair sec pa : Nat) (x : Sector) : ∃ p, s.homePoison pair sec pa x = { s with poison := p } := by
  unfold State.homePoison
  split
  · exact ⟨_, rfl⟩
  · exact ⟨s.poison, rfl⟩

/-- The write of a write-back: its granules go home, their poison with them, and the sector notes the time and the largest W (R73). -/
def State.sendHome (s : State) (pair sec pa part : Nat) (x : Sector) : State :=
  let r := s.writeGranules pa part x.flight x.bytes (List.range 16)
  let t := r.2.homePoison pair sec pa x
  t.putPair pair ((t.pair pair).putSector sec { x with applied := some (t.gt, r.1) })

/-- What the write of a write-back leaves: the bytes of its granules at their home, every other byte as it was, and no new fault. -/
theorem sendHome_leaves {s : State} {pair sec pa part : Nat} {x : Sector} (hpa : pa + 256 ≤ s.installed) (hb : x.bytes.length = 256) :
    (s.sendHome pair sec pa part x).hole = s.hole ∧
    (∃ w, (((s.sendHome pair sec pa part x).pair pair).sector sec).applied = some ((s.sendHome pair sec pa part x).gt, w)) ∧
    ∀ y, (s.sendHome pair sec pa part x).byteAt y =
      if pa ≤ y ∧ y < pa + 256 ∧ x.flight.getLsbD ((y - pa) / 16) = true then x.bytes.getD (y - pa) 0 else s.byteAt y := by
  obtain ⟨acc, mem, p, f, a, b, c, d, h, hmem⟩ :=
    writeGranules_eq part x.flight hb (List.range 16) (fun g hg => List.mem_range.mp hg) hpa
  obtain ⟨q, hq⟩ := homePoison_eq (s.withHomes acc mem p f a b c d) pair sec pa x
  unfold State.sendHome
  dsimp only
  rw [h, hq]
  refine ⟨rfl, ⟨(s.writeGranules pa part x.flight x.bytes (List.range 16)).1, ?_⟩, fun y => (hmem y).trans (if_congr ?_ rfl rfl)⟩
  · rw [pair_of_pairs rfl, sector_putSector]
    rfl
  · rw [List.mem_range]
    exact ⟨fun ⟨hlo, hf, hin⟩ => ⟨hlo, by omega, hf⟩, fun ⟨hlo, hhi, hf⟩ => ⟨hlo, hf, by omega⟩⟩

theorem putFlt_hole (s : State) (pair idx : Nat) (m : MapEntry) (flt : Bool) : (s.putFlt pair idx m flt).hole = s.hole := rfl

theorem clearFlt_hole (s : State) (pair idx : Nat) (m : MapEntry) : (s.clearFlt pair idx m).hole = s.hole := by
  unfold State.clearFlt
  split
  · exact putFlt_hole s pair idx m false
  · rfl

/-- A time folds into what a write-back's trigger names, a thread or the grid, without a change to pairs. -/
theorem foldTriggers_keepsPairs (s : State) (pair w : Nat) (l : List Who) :
    KeepsPairs s (l.foldl (fun s who => if who.team = 0 then s.foldGrid pair w else s.foldPcm who w) s) := by
  refine .foldl (fun s who => ?_) l s
  split
  · exact foldGrid_keepsPairs s pair w
  · exact foldPcm_keepsPairs s who w

theorem writebackDone_hole (s : State) (pair sec w : Nat) : (s.writebackDone pair sec w).hole = s.hole := by
  unfold State.writebackDone
  dsimp only
  rw [(sweepSpwb_keepsPairs _).hole, triggers_hole, (foldTriggers_keepsPairs _ pair w _).hole, State.putPair_hole]

/-- The sector that a write-back leaves where no trigger came later: dirty again only with the granules written since (R71, R73). -/
theorem writebackDone_sector {s : State} {pair sec : Nat} (w : Nat) (h : ((s.pair pair).sector sec).anew = []) :
    ((s.writebackDone pair sec w).pair pair).sector sec =
      { Sector.fresh with st := (if ((s.pair pair).sector sec).st = .wd then .d else .c), dirty := ((s.pair pair).sector sec).dirty } := by
  have hp : (s.writebackDone pair sec w).pairs = (s.putPair pair ((s.pair pair).putSector sec
      { Sector.fresh with st := (if ((s.pair pair).sector sec).st = .wd then .d else .c), dirty := ((s.pair pair).sector sec).dirty })).pairs := by
    unfold State.writebackDone
    dsimp only
    rw [(sweepSpwb_keepsPairs _).pairs, h, List.foldl_nil, (foldTriggers_keepsPairs _ pair w _).pairs]
  rw [pair_of_pairs hp, sector_putSector]

section
variable {s : State} {pair sec idx : Nat} {m : MapEntry} {g : Grid} (hm : (s.pair pair).mapAt (sec * 256) = some (idx, m))
  (hg : s.gridOn pair = some g) (ha : s.sectorAsked pair sec = false)
  (hst : ((s.pair pair).sector sec).st = .w ∨ ((s.pair pair).sector sec).st = .wd) (hw : s.migWaiting (.sector pair sec) = false)
include ha hst hw

/-- A sector in W or WD that waits for no owner and no page is not passed over. -/
theorem writeback_ready : ¬ ((((s.pair pair).sector sec).st ≠ .w ∧ ((s.pair pair).sector sec).st ≠ .wd) ∨ s.sectorAsked pair sec = true ∨
    s.migWaiting (.sector pair sec) = true) := by
  rw [ha, hw]
  obtain hst | hst := hst <;> simp [hst]

include hm hg

/-- WRITEBACK_COMPLETE of a write that has not been applied sends it home where the page may be written (R73). -/
theorem writeback_sends {s1 : State} {pg : Page} (hx : ((s.pair pair).sector sec).applied = none)
    (ht : s.translate ⟨pair, g.ctx, 0⟩ (m.sectorVa sec) needW = (s1, .page pg)) :
    s.writeback pair sec = s1.sendHome pair sec (pg.base + pg.off) m.part ((s.pair pair).sector sec) := by
  unfold State.writeback
  simp only [hm, hg, if_neg (writeback_ready ha hst hw), hx, ht]
  rfl

/-- WRITEBACK_COMPLETE of an applied write waits for a later tick, and then the write-back is done (R105). -/
theorem writeback_applied {a w : Nat} (hx : ((s.pair pair).sector sec).applied = some (a, w)) :
    s.writeback pair sec = if s.gt ≤ a then s else (s.writebackDone pair sec w).clearFlt pair idx m := by
  unfold State.writeback
  simp only [hm, hg, if_neg (writeback_ready ha hst hw), hx]

end

/-! ## The obligation -/

/-- Settles O33: a fill or a write-back that completes is the function that its equation gives, and what that function leaves is the pair it
puts, since nothing that follows changes pairs. -/
theorem sectorsFillAndGoHome : Obligations.SectorsFillAndGoHome := by
  have runs : ∀ {i : Instr} {s u : State}, exec i s = answer u → u.hole = none → exec i s = .next u := fun h hu => h.trans (answer_next hu)
  refine ⟨fun s pair sec idx m g hs hm hg ha => ⟨fun hst => ⟨fun s1 s2 pg b ht hfmt hblk hr hh => ?_, fun s1 ht hh => ?_⟩,
      fun hst hw => ⟨fun s1 pg hx ht hh hin hb => ?_, fun a w hx => ⟨fun hle => ?_, fun hlt => ?_⟩⟩⟩,
    fun s pair sec b hb => ⟨fun k hk => fillDone_padByte s pair sec (hb ▸ hk), fillDone_clean s pair sec b, fillDone_mem s pair sec b⟩,
    fun s pair sec w h => ?_⟩
  · exact runs (congrArg answer (sectorFill_page hm hg ha hst ht hfmt hblk hr)) ((fillDone_hole s2 pair sec b).trans hh)
  · exact runs (congrArg answer (sectorFill_sparse hm hg ha hst ht)) ((fillDone_hole s1 pair sec _).trans hh)
  · obtain ⟨hhole, ⟨w, happ⟩, hbytes⟩ := sendHome_leaves (pair := pair) (sec := sec) (part := m.part) hin hb
    exact ⟨_, w, runs (congrArg answer (writeback_sends hm hg ha hst hw hx ht)) (hhole.trans hh), happ, hbytes⟩
  · exact runs (congrArg answer ((writeback_applied hm hg ha hst hw hx).trans (if_pos hle))) hs
  · exact runs (congrArg answer ((writeback_applied hm hg ha hst hw hx).trans (if_neg (by omega))))
      ((clearFlt_hole _ pair idx m).trans ((writebackDone_hole s pair sec w).trans hs))
  · rw [writebackDone_sector w h]
    exact ⟨rfl, rfl, rfl, writebackDone_mem s pair sec w⟩

end Sys2Proof.Machine
end

section
/-! O60: the frame of memory. -/

namespace Sys2Proof.Machine

/-- Settles O60: an instruction that may not write memory leaves the whole of device memory as it is. -/
theorem othersLeaveMemory : Obligations.OthersLeaveMemory :=
  fun _ _ _ hi h x => congrArg (fun m => tabGet 0 m x) (exec_mem hi h)

end Sys2Proof.Machine
end

section
/-! O28: compacting passes, fences and write-backs. Each issues, does its own part, and goes past its word or waits at it. -/

namespace Sys2Proof.Machine

/-- A meaning whose state is known and has met no fault is a next state. -/
theorem exec_next {i : Instr} {s u v : State} (hex : exec i s = answer u) (hu : u = v) (hh : v.hole = none) : exec i s = .next v := by
  rw [hex, hu, answer_next hh]

/-! ## Compacting passes -/

/-- A thread of a compacting pass leaves the split of its focus as it is. -/
theorem cmpThread_split (q : CmpPass) (w : MemWord) (n : Nat) (f : Foc) (p : Nat) : (cmpThread q w n f p).1.x = f.x := by
  unfold cmpThread
  dsimp only
  split
  · rfl
  · split
    · unfold Foc.loaded; split <;> rfl
    · unfold Foc.stored; split <;> rfl

theorem cmpLoop_split (q : CmpPass) (w : MemWord) (ps : List Nat) (n : Nat) (f : Foc) : (cmpLoop q w ps n f).1.x = f.x := by
  induction ps generalizing n f with
  | nil => rfl
  | cons p ps ih =>
    have hp := cmpThread_split q w n f p
    unfold cmpLoop
    split
    · exact ih n f
    · split
      · rename_i h; rw [h] at hp; exact (ih _ _).trans hp
      · rename_i h; rw [h] at hp; exact hp

/-- What a compacting pass whose walk is over leaves: its accesses are sent, IDX takes the count, and the split goes past its word (R296). -/
def cmpSent (q : CmpPass) (w : MemWord) (f g : Foc) : State :=
  let r := cmpLoop q w (f.members w.g.toNat w.gn) (f.r.kreg w.idx.toNat).val.toNat g
  ((r.1.sent f.s.nextId (f.members w.g.toNat w.gn)).withRank (r.1.r.writeK f.x.age w.idx.toNat (BitVec.ofNat 32 r.2.1))).done

/-- A compacting pass past its checks whose walk meets nothing: it issues, walks its threads, and counts them in IDX (R296, R297). -/
theorem cmpVec_goes_on {q : CmpPass} {w : MemWord} {f : Foc} (hok : (cmpSpec q w).ok = true)
    (hc : Clear f (f.members w.g.toNat w.gn) (cmpSpec q w).named (cmpSpec q w).waits) (hne : f.members w.g.toNat w.gn ≠ [])
    (hti : w.ti = false ∨ (f.r.kreg w.idx.toNat).cf = false) (hk : ∀ n, (f.r.kreg n).err = false)
    (hl : ∀ now rod, (cmpLoop q w (f.members w.g.toNat w.gn) (f.r.kreg w.idx.toNat).val.toNat { f with s := f.s.afterIssue f now rod }).2.2 = none) :
    ∃ now rod, cmpVec q w f = cmpSent q w f { f with s := f.s.afterIssue f now rod } := by
  obtain ⟨p, ps, hps⟩ := List.exists_cons_of_ne_nil hne
  have hconf : (w.ti && (f.r.kreg w.idx.toNat).cf) = false := by
    obtain h | h := hti <;> simp [h]
  unfold cmpVec cmpSent
  dsimp only
  rw [admit_none hok hc]
  dsimp only
  generalize hg : f.issue _ _ _ _ _ = g
  obtain ⟨now, rod, rfl⟩ : ∃ now rod, g = { f with s := f.s.afterIssue f now rod } := hg ▸ issue_eq f _ _ _ _ _
  have hwalk := hl now rod
  have hx := cmpLoop_split q w (f.members w.g.toNat w.gn) (f.r.kreg w.idx.toNat).val.toNat { f with s := f.s.afterIssue f now rod }
  refine ⟨now, rod, ?_⟩
  rw [hps] at hwalk hx ⊢
  dsimp only
  rw [hconf, kErr_none hk]
  dsimp only
  generalize cmpLoop q w (p :: ps) (f.r.kreg w.idx.toNat).val.toNat { f with s := f.s.afterIssue f now rod } = r at *
  obtain ⟨h, n, stop⟩ := r
  dsimp only at hwalk hx
  rw [hwalk, ← hx]
  rfl

/-- A compacting instruction runs its pass where no thread of it traps or waits. -/
theorem cmp_runs {i : Instr} {q : CmpPass} {w : MemWord} {s : State} {f : Foc} {ctl : State → Team → State}
    (hex : exec i s = answer (byStream s (cmpVec q w) ctl)) (hv : VecIssues s f) (hok : (cmpSpec q w).ok = true)
    (hc : Clear f (f.members w.g.toNat w.gn) (cmpSpec q w).named (cmpSpec q w).waits) (hne : f.members w.g.toNat w.gn ≠ [])
    (hti : w.ti = false ∨ (f.r.kreg w.idx.toNat).cf = false)
    (hl : ∀ now rod, ∃ h n, cmpLoop q w (f.members w.g.toNat w.gn) (f.r.kreg w.idx.toNat).val.toNat { f with s := s.afterIssue f now rod } = (h, n, none) ∧
      h.s.hole = none) : VecRuns i s f (cmpSent q w f) := by
  obtain rfl := focus_spec hv.foc
  obtain ⟨now, rod, hrun⟩ := cmpVec_goes_on hok hc hne hti hv.sound (fun now rod => by obtain ⟨h, n, e, -⟩ := hl now rod; rw [e])
  obtain ⟨h, n, e, hh⟩ := hl now rod
  refine ⟨now, rod, ?_⟩
  rw [hex, byStream_vec hv.foc, hrun, answer_next]
  unfold cmpSent
  dsimp only
  rw [done_hole, withRank_state, sent_hole, e, hh]

/-! ## Fences -/

theorem triggerRange_hole (s : State) (pair off len : Nat) (who : Who) : (s.triggerRange pair off len who).hole = s.hole :=
  foldl_keeps State.hole (fun s sec => trigger_hole s pair sec who) _ s

theorem flushed_hole (s : State) (kind scope : Nat) (who : Who) : (s.flushed kind scope who).hole = s.hole := by
  unfold State.flushed
  split <;> rfl

/-- An acquire flushes no write (R116). -/
theorem flushed_acquire (s : State) (scope : Nat) (who : Who) : s.flushed 2 scope who = s := rfl

/-- A legal FENCE that is no acquire is a release, alone or of both kinds (R302). -/
theorem fence_releases {st : Stream} {w : FWord} (h : fenceOk st w = true) (hk : w.md.toNat % 4 ≠ 2) : w.md.toNat % 4 % 2 = 1 := by
  simp only [fenceOk, Bool.and_eq_true, bne_iff_ne] at h
  omega

section
variable {s : State} {t : Team} {w : FWord} (h : CtlIssues s t) (hg : t.guard w.g w.gn) (hok : fenceOk .ctl w = true)
include h hg hok

/-- An acquire of the control stream goes on where its conditions hold and waits where they do not (R116, R302). -/
theorem fenceCtl_acquires (hk : w.md.toNat % 4 = 2) : CtlRuns (.fence w) s t (fun s u =>
    if s.fenceDone 2 (w.md.toNat / 4) ⟨t.uid, none, 0⟩ then s.ctlDone u else s.ctlBlock u (.fence 2 (w.md.toNat / 4) 1)) := by
  refine ctl_acts h rfl rfl hok hg (fun now last e ra => ?_) (fun now last e ra => ?_)
  · rw [hk]; rfl
  · split <;> exact h.whole

/-- A release of the control stream lands its thread's stores and triggers the write-backs of its pair, and then goes on or waits in the same
way (R116, R302). -/
theorem fenceCtl_releases (hk : w.md.toNat % 4 ≠ 2)
    (hh : ∀ now last, (((s.afterCtl t now last).landCtl t.uid).triggerRange t.pair 0 (s.extent t.pair) ⟨t.uid, none, 0⟩).hole = none) :
    CtlRuns (.fence w) s t (fun s u =>
      if ((s.landCtl t.uid).triggerRange t.pair 0 (s.extent t.pair) ⟨t.uid, none, 0⟩).fenceDone (w.md.toNat % 4) (w.md.toNat / 4) ⟨t.uid, none, 0⟩
      then (((s.landCtl t.uid).triggerRange t.pair 0 (s.extent t.pair) ⟨t.uid, none, 0⟩).flushed (w.md.toNat % 4) (w.md.toNat / 4) ⟨t.uid, none, 0⟩).ctlDone u
      else ((s.landCtl t.uid).triggerRange t.pair 0 (s.extent t.pair) ⟨t.uid, none, 0⟩).ctlBlock u (.fence (w.md.toNat % 4) (w.md.toNat / 4) 1)) := by
  refine ctl_acts h rfl rfl hok hg (fun now last e ra => ?_) (fun now last e ra => ?_)
  · dsimp only
    rw [if_pos (fence_releases hok hk)]
    rfl
  · have hland := hh now last
    rw [triggerRange_hole] at hland
    split
    · rw [ctlDone_hole, flushed_hole, triggerRange_hole, hland]
    · rw [ctlBlock_hole, triggerRange_hole, hland]

end

/-- An acquire of the vector stream past its checks issues, and goes on where its conditions hold for every thread of the pass (R116, R302). -/
theorem fenceVec_acquires {s : State} {f : Foc} {w : FWord} (h : VecIssues s f) (hok : fenceOk .vec w = true) (hk : w.md.toNat % 4 = 2) :
    ∃ now rod, exec (.fence w) s = answer (
      if (f.pass w).all (fun p => (s.afterIssue f now rod).fenceDone 2 (w.md.toNat / 4) ⟨f.t.uid, some f.r.num, p⟩)
      then Foc.done { f with s := s.afterIssue f now rod }
      else (Foc.block { f with s := s.afterIssue f now rod } (.fence 2 (w.md.toNat / 4) (maskOf (f.pass w)))).close) := by
  obtain rfl := focus_spec h.foc
  obtain ⟨now, rod, hi⟩ := issue_eq f clsOnce [guardKey w.g] [] (f.pass w) false
  refine ⟨now, rod, congrArg answer ((byStream_vec h.foc _ _).trans ?_)⟩
  unfold fenceVec
  dsimp only
  rw [admit_none hok ⟨by simp, by simp⟩, hk, show f.members w.g.toNat w.gn = f.pass w from rfl]
  dsimp only
  rw [hi]
  rfl

/-! ## Write-backs of a range -/

/-- An L.mem instruction of the control stream whose fields are legal acts under a guard that holds. -/
theorem memCtl_acts {i : Instr} {s : State} {t : Team} {a : Foc → State} {op : BitVec 8} {w : MemWord} {d : Opd} {types : Nat → Bool}
    {res dRead : Bool} {act k : State → Team → State} (h : CtlIssues s t)
    (hex : exec i s = answer (byStream s a (memCtl op w d types res dRead act))) (hok : memOk .ctl d types res w = true) (hg : t.guard w.g w.gn)
    (hk : ∀ now last e ra, act (s.afterCtl t now last) (t.retimed e ra) = k (s.afterCtl t now last) (t.retimed e ra))
    (hh : ∀ now last e ra, (k (s.afterCtl t now last) (t.retimed e ra)).hole = none) : CtlRuns i s t k :=
  ctl_acts h hex rfl hok hg hk hh

/-- What a control thread does once its SPWB has triggered its range: it traps or waits where the SPWB says so, else it waits while a write-back
that it triggered is under way, and goes on when none is (R301). -/
def spwbEnds (t : Team) (out : State × Option Stop) : State :=
  match out with
  | (s, some (.trap tr)) => s.trapCtl t tr
  | (s, some (.block b)) => s.ctlBlock t b
  | (s, none) => if s.awaitsWriteback ⟨t.uid, none, 0⟩ then s.ctlBlock t (.spwb 1) else s.ctlDone t

/-- Where a control thread's SPWB passes its checks, it waits while a write-back that it triggered is under way, and else goes on (R301). -/
theorem spwbCtl_runs {s : State} {t : Team} {w : MemWord} {wb : State → State × Option Stop} (h : CtlIssues s t) (hg : t.guard w.g w.gn)
    (hok : memOk .ctl .reg (fun n => n == 0) false w = true)
    (hwb : wb = fun s => (s.landCtl t.uid).spwb (t.memReq (memAddrCtl t.ctl w 1 (memOff w)) false) ((t.ctl.getS w.d.toNat).toNat % 2 ^ 32))
    (hrun : ∀ now last, wb (s.afterCtl t now last) = ((wb (s.afterCtl t now last)).1, none) ∧ (wb (s.afterCtl t now last)).1.hole = none) :
    CtlRuns (.spwb w) s t (fun s u =>
      if (wb s).1.awaitsWriteback ⟨t.uid, none, 0⟩ then (wb s).1.ctlBlock u (.spwb 1) else (wb s).1.ctlDone u) := by
  refine memCtl_acts (act := fun s t => spwbEnds t
    ((s.landCtl t.uid).spwb (t.memReq (memAddrCtl t.ctl w 1 (memOff w)) false) ((t.ctl.getS w.d.toNat).toNat % 2 ^ 32)))
    h rfl hok hg (fun now last e ra => ?_) (fun now last e ra => ?_)
  · have hact : wb (s.afterCtl t now last) = ((s.afterCtl t now last).landCtl t.uid).spwb
      ((t.retimed e ra).memReq (memAddrCtl (t.retimed e ra).ctl w 1 (memOff w)) false) ((t.ctl.getS w.d.toNat).toNat % 2 ^ 32) := congrFun hwb _
    rw [retimed_uid, retimed_getS, ← hact, (hrun now last).1]
    rfl
  · split <;> exact (hrun now last).2

/-! ## The obligation -/

/-- Settles O28: each instruction past its checks does its part, and then goes on or waits. -/
theorem compactionFencesAndWriteBacks : Obligations.CompactionFencesAndWriteBacks := by
  unfold Obligations.CompactionFencesAndWriteBacks
  refine ⟨fun s f w q i hv hi hok hc hne hti hl => ?_, fun s t w h hg hok => ⟨fenceCtl_acquires h hg hok, fenceCtl_releases h hg hok⟩,
    fun s f w h hok hk => ⟨fun hall => ?_, fun ⟨p, hp, hnot⟩ => ?_⟩, fun s t w h hg hok hw => ?_⟩
  · obtain rfl := focus_spec hv.foc
    obtain ⟨rfl, rfl⟩ | ⟨rfl, rfl⟩ := hi
    · exact cmp_runs rfl hv hok hc hne hti hl
    · exact cmp_runs rfl hv hok hc hne hti hl
  · obtain ⟨now, rod, hrun⟩ := fenceVec_acquires h hok hk
    refine ⟨now, rod, exec_next hrun (if_pos (List.all_eq_true.mpr (fun p hp => hall p hp now rod))) ?_⟩
    rw [done_hole]
    exact h.whole
  · obtain ⟨now, rod, hrun⟩ := fenceVec_acquires h hok hk
    refine ⟨now, rod, exec_next hrun (if_neg (fun hall => ?_)) ?_⟩
    · have hdone := List.all_eq_true.mp hall p hp
      rw [hnot] at hdone
      cases hdone
    · rw [close_hole, block_hole]
      exact h.whole
  · exact spwbCtl_runs h hg hok rfl hw

end Sys2Proof.Machine
end

section
/-! O31: accesses at their homes. A write comes next in home order, is applied at its home, and its piece takes what it brought; a load's
piece takes the bytes that stand at its home. -/

namespace Sys2Proof.Machine

/-! ## Accesses in flight -/

theorem access_id {s : State} {id : Nat} {a : Access} (h : s.access id = some a) : a.id = id := by simpa using List.find?_some h

/-- An access read after one of its identifier, or of another, was replaced. -/
theorem putAccess_access (s : State) (a : Access) (n : Nat) :
    (s.putAccess a).access n = (s.access n).map (fun b => if b.id = a.id then a else b) := by
  unfold State.access
  rw [State.putAccess_accesses, List.find?_map]
  refine congrArg (Option.map _) (congrArg (List.find? · s.accesses) (funext fun b => ?_))
  by_cases hb : b.id = a.id <;> simp [hb]

/-- A write leaves its own access as it is (R121). -/
theorem tear_access (s : State) (id : Nat) (w : Piece) : (s.tear id w).access id = s.access id := by
  unfold State.tear
  refine List.foldlRecOn (motive := fun (u : State) => u.access id = s.access id) _ _ rfl (fun u hu a ha => ?_)
  have hne : a.id ≠ id := by simpa using (List.mem_filter.mp ha).2
  obtain ⟨n, h⟩ := tearPieces_eq u a w a.pieces
  dsimp only
  rw [h, putAccess_access]
  have hfree : ({ u with free := n } : State).access id = s.access id := hu
  rw [hfree]
  cases hb : s.access id with
  | none => rfl
  | some b => rw [Option.map_some, if_neg (by rw [access_id hb]; exact hne.symm)]

/-- A piece of an access that was put in place. -/
theorem getElem?_listPut {α : Type} {l : List α} {i : Nat} {v : α} (h : l[i]? = some v) (w : α) : (listPut l i w)[i]? = some w := by
  unfold listPut
  induction l generalizing i with
  | nil => cases h
  | cons x l ih =>
    cases i with
    | zero => rfl
    | succ i => exact ih h

theorem putPiece_is {s : State} {id i : Nat} {a b : Access} {p : Piece} (h : s.access id = some b) (ha : a.id = id)
    (hp : a.pieces[i]? = some p) (q : Piece) : (s.putPiece a i q).pieceIs id i q := by
  refine ⟨{ a with pieces := listPut a.pieces i q }, ?_, getElem?_listPut hp q⟩
  unfold State.putPiece
  rw [putAccess_access, h, Option.map_some, if_pos ((access_id h).trans ha.symm)]

/-! ## Home order -/

/-- A write that comes next in home order changes accesses in flight, free values and the order alone (R121). -/
theorem comes_eq (s : State) (id : Nat) (p : Piece) :
    ∃ l n, s.comes id p = { s with accesses := l, free := n, order := s.order + 1 } := by
  obtain ⟨l, n, h⟩ := tear_eq s id p
  exact ⟨l, n, by unfold State.comes; rw [h]⟩

theorem comes_tear (s : State) (id : Nat) (p : Piece) : { s.tear id p with order := (s.tear id p).order + 1 } = s.comes id p := by
  obtain ⟨l, n, h⟩ := tear_eq s id p
  unfold State.comes
  rw [h]

theorem comes_access (s : State) (id : Nat) (p : Piece) : (s.comes id p).access id = s.access id := tear_access s id p

/-! ## The mark of a unit that a pass writes whole -/

/-- A piece whose home is device memory clears at most the mark of a sector. -/
theorem settleClear_dev {p : Piece} {pa : Nat} (h : p.home = .dev pa) (s : State) : ∃ t, s.settleClear p = { s with poison := t } := by
  unfold State.settleClear Piece.unit
  rw [h]
  dsimp only
  split
  · exact ⟨s.poison, rfl⟩
  · exact ⟨_, rfl⟩

theorem settleClear_unmarked {p : Piece} (h : p.clears = false) (s : State) : s.settleClear p = s := by
  unfold State.settleClear
  rw [h]
  split
  · exact if_pos (by simp)
  · rfl

theorem settleClear_host {p : Piece} {port addr : Nat} (h : p.home = .host port addr) (s : State) : s.settleClear p = s := by
  unfold State.settleClear Piece.unit
  rw [h]

/-! ## Bytes of a piece -/

theorem memBytes_getElem? (m : Tab Byte) (a : Nat) {n k : Nat} (h : k < n) : (memBytes m a n)[k]? = some (tabGet 0 m (a + k)) := by
  induction n generalizing a k with
  | zero => cases h
  | succ n ih =>
    cases k with
    | zero => rfl
    | succ k => rw [memBytes, List.getElem?_cons_succ, ih (a + 1) (by omega)]; congr 2; omega

theorem length_leaves (p : Piece) (old data : List Byte) : (p.leaves old data).length = min old.length data.length := by
  simp [Piece.leaves]

/-- What a write piece leaves of a byte of its unit: the new byte, or the old one where another unit came later in home order (R101, R121). -/
theorem leaves_getD (p : Piece) {old data : List Byte} {k : Nat} {o : Byte} (ho : old[k]? = some o) (hk : k < data.length) :
    (p.leaves old data).getD k 0 = if k ∈ p.gone then o else ({ p with data := data } : Piece).newByte o k := by
  have hz : ((List.zip old data).zipIdx)[k]? = some ((o, data[k]), k) := by
    rw [List.getElem?_zipIdx, show (List.zip old data)[k]? = some (o, data[k]) from
      List.getElem?_zip_eq_some.mpr ⟨ho, List.getElem?_eq_getElem hk⟩]
    simp
  unfold Piece.leaves Piece.newByte
  rw [List.getD_eq_getElem?_getD, List.getElem?_map, hz]
  by_cases hg : k ∈ p.gone <;> simp [hg, hk]

/-- A byte of device memory after a write piece was applied there: each byte of its unit is what the piece leaves of it. -/
theorem tabGet_putLeaves (m : Tab Byte) (pa : Nat) (p : Piece) {n : Nat} {data : List Byte} (hd : data.length = n) (x : Nat) :
    tabGet 0 (memPut m pa (p.leaves (memBytes m pa n) data)) x =
      if pa ≤ x ∧ x < pa + n ∧ x - pa ∉ p.gone then ({ p with data := data } : Piece).newByte (tabGet 0 m x) (x - pa) else tabGet 0 m x := by
  rw [tabGet_memPut, length_leaves, length_memBytes, hd, Nat.min_self]
  by_cases hx : pa ≤ x ∧ x < pa + n
  · have hbyte := memBytes_getElem? m pa (show x - pa < n by omega)
    rw [Nat.add_sub_cancel' hx.1] at hbyte
    rw [if_pos hx, leaves_getD p hbyte (by omega)]
    by_cases hg : x - pa ∈ p.gone <;> simp [hg, hx]
  · rw [if_neg hx, if_neg (fun h => hx ⟨h.1, h.2.1⟩)]

/-! ## A write of bytes at its home -/

/-- Where every line of a range is held, no allocation changes anything (R79). -/
theorem touchAll_held {s : State} {pa len : Nat} (part : Nat) (h : ∀ l ∈ linesOf pa len, (tabGet none s.lines l).isSome = true) :
    s.touchAll pa len part = s := by
  unfold State.touchAll
  refine List.foldlRecOn (motive := fun u => u = s) _ _ rfl (fun u hu l hl => ?_)
  obtain ⟨m, hm⟩ := Option.isSome_iff_exists.mp (h l hl)
  rw [hu]
  unfold State.touch
  dsimp only
  rw [Nat.mul_div_cancel l (by decide), hm]

/-- The byte at an address once an atomic's piece was applied there: what its operation gives, where it gives something (R121, R236). -/
def Piece.atomByte (p : Piece) (pa : Nat) (res : Option Nat) (old : Byte) (x : Nat) : Byte :=
  match res with
  | some r => if pa ≤ x ∧ x < pa + p.len ∧ x - pa ∉ p.gone then (natLe p.len r).getD (x - pa) 0 else old
  | none => old

section
variable {s : State} {p : Piece} {pa : Nat} (hp : p.home = .dev pa)
include hp

/-- A store's piece applied in installed device memory writes what it leaves of its unit, and has the time W of R111. -/
theorem writeHome_dev (h : pa + p.data.length ≤ s.installed) :
    ∃ po f a b c d, s.writeHome p = (max s.gt ((s.touchAll pa p.data.length p.part).lexpOf pa p.data.length),
      (s.withMem (memPut s.mem pa (p.leaves (memBytes s.mem pa p.data.length) p.data)) po f).withCache a b c d) := by
  have hlen : (p.leaves (memBytes s.mem pa p.data.length) p.data).length = p.data.length := by
    rw [length_leaves, length_memBytes, Nat.min_self]
  obtain ⟨po, f, a, b, c, d, hw⟩ := writeDev_eq (s := s) (bytes := p.leaves (memBytes s.mem pa p.data.length) p.data) p.part (by rw [hlen]; exact h)
  refine ⟨po, f, a, b, c, d, ?_⟩
  unfold State.writeHome
  rw [hp]
  dsimp only
  rw [hw, hlen]

/-- An atomic's piece applied at sound, installed device memory reads its unit and, where the operation writes, leaves its result there
(R111, R298). -/
theorem atomHome_dev {op ty : Nat} {v new : DWord} (h : pa + p.len ≤ s.installed) (hs : s.sound pa p.len) (hm : p.mask = none) :
    ∃ m po f a b c d w, s.atomHome op ty v new p = ((s.withMem m po f).withCache a b c d,
        { p with done := true, data := p.gets (memBytes s.mem pa p.len), time := w, served := s.gt }) ∧
      ∀ x, tabGet 0 m x = p.atomByte pa (atomResult op ty (leNat (p.gets (memBytes s.mem pa p.len))) (v.toNat % 2 ^ tyBits ty) (new.toNat % 2 ^ tyBits ty))
        (s.byteAt x) x := by
  obtain ⟨a, b, c, d, hr⟩ := readDev_sound p.part h hs
  unfold State.atomHome
  rw [hp]
  dsimp only
  rw [hr]
  dsimp only
  cases hres : atomResult op ty (leNat (p.gets (memBytes s.mem pa p.len))) (v.toNat % 2 ^ tyBits ty) (new.toNat % 2 ^ tyBits ty) with
  | none => exact ⟨s.mem, s.poison, s.flaws, a, b, c, d, _, rfl, fun x => rfl⟩
  | some r =>
    have hdata : (natLe p.len r).length = p.len := Laws.F.length_natLe p.len r
    have hlen : (p.leaves (memBytes s.mem pa p.len) (natLe p.len r)).length = p.len := by
      rw [length_leaves, length_memBytes, hdata, Nat.min_self]
    obtain ⟨po, f, a', b', c', d', hw⟩ := writeDev_eq (s := s.withCache a b c d) (bytes := p.leaves (memBytes s.mem pa p.len) (natLe p.len r)) p.part
      (by rw [hlen]; exact h)
    dsimp only
    rw [hw]
    refine ⟨_, po, f, a', b', c', d', _, rfl, fun x => (tabGet_putLeaves s.mem pa p hdata x).trans ?_⟩
    unfold Piece.newByte
    rw [hm]
    rfl

end

/-! ## Writes that reach their homes -/

/-- A write's piece comes next in home order and is applied at its home, and what it brought stands in its access (R107, R111). -/
def State.takesWrite (s : State) (id i : Nat) (a : Access) (p : Piece) : State :=
  let r := (s.comes id p).applyPiece a.kind p
  (r.1.putPiece a i { r.2 with order := r.1.order }).settleClear r.2

/-- HOME_WRITE_APPLY of a piece that is open at a home that takes it. -/
theorem writeArrives_open {s : State} {id i : Nat} {a : Access} {p : Piece} (h : s.pieceOpen id i a p) (hw : a.kind.writes = true)
    (ho : s.homeOpen p.home = true) (hx : a.kind = .store ∨ ∀ port addr, p.home ≠ .host port addr) :
    s.writeArrives id i = s.takesWrite id i a p := by
  obtain ⟨ha, hp, hdone, hord, hleaves⟩ := h
  unfold State.writeArrives State.homeWrite State.takesWrite
  rw [ha, ← comes_tear]
  dsimp only
  rw [if_neg (Nat.not_lt.mpr hleaves), hp]
  dsimp only
  refine if_neg ?_
  rw [hdone, hw, hord, ho]
  obtain hk | hhome := hx
  · simp [hk]
  · cases hh : p.home with
    | host port addr => exact absurd hh (hhome port addr)
    | dev _ | pad _ _ => simp

/-- What a write that comes next in home order leaves: time, pairs and faults as they were, and the next place taken (R106). -/
theorem comes_leaves (s : State) (id : Nat) (p : Piece) : (s.comes id p).gt = s.gt ∧ (s.comes id p).order = s.order + 1 ∧
    (s.comes id p).hole = s.hole ∧ ∀ pair, (s.comes id p).pair pair = s.pair pair := by
  obtain ⟨l, n, h⟩ := comes_eq s id p
  rw [h]
  exact ⟨rfl, rfl, rfl, fun _ => rfl⟩

/-- A write applied at a home in device memory: the bytes that it leaves, its piece, and nothing else of pairs and teams. -/
theorem takesWrite_dev {s : State} {id i : Nat} {a : Access} {p : Piece} {pa : Nat} (ho : s.pieceOpen id i a p)
    {m : Tab Byte} {po : Tab Bool} {f : Tab Nat} {b : Tab (Option LineMeta)} {c : Tab SetMeta} {d : Tab Slice} {e : Nat} {q : Piece}
    (hq : q.home = .dev pa) (h : (s.comes id p).applyPiece a.kind p = (((s.comes id p).withMem m po f).withCache b c d e, q)) :
    (s.takesWrite id i a p).hole = s.hole ∧ (s.takesWrite id i a p).mem = m ∧ (s.takesWrite id i a p).pairs = s.pairs ∧
    (s.takesWrite id i a p).teams = s.teams ∧ (s.takesWrite id i a p).order = s.order + 1 ∧
    (s.takesWrite id i a p).pieceIs id i { q with order := s.order + 1 } := by
  obtain ⟨ha, hpiece, -, -, -⟩ := ho
  have hacc := comes_access s id p
  obtain ⟨l, n, hc⟩ := comes_eq s id p
  obtain ⟨po', hsettle⟩ := settleClear_dev hq ((((s.comes id p).withMem m po f).withCache b c d e).putPiece a i { q with order := s.order + 1 })
  have hmine := putPiece_is (s := ((s.comes id p).withMem m po f).withCache b c d e) (hacc.trans ha) (access_id ha) hpiece { q with order := s.order + 1 }
  have hrun : s.takesWrite id i a p = { (((s.comes id p).withMem m po f).withCache b c d e).putPiece a i { q with order := s.order + 1 } with poison := po' } := by
    rw [← hsettle]
    unfold State.takesWrite
    rw [h, hc]
    rfl
  rw [hrun]
  refine ⟨?_, rfl, ?_, ?_, ?_, hmine⟩ <;> rw [hc] <;> rfl

/-! ## The obligation -/

section
variable {s : State} {id i : Nat} {a : Access} {p : Piece} (hs : s.hole = none) (ho : s.pieceOpen id i a p)
include hs ho

/-- A store reaches its home in device memory (R106, R111). -/
theorem homeWrite_store_dev (hk : a.kind = .store) {pa : Nat} (hp : p.home = .dev pa) (hin : pa + p.data.length ≤ s.installed) :
    ∃ t w, exec (.homeWriteApply id i) s = .next t ∧
      (∀ x, t.byteAt x = if pa ≤ x ∧ x < pa + p.data.length ∧ x - pa ∉ p.gone then p.newByte (s.byteAt x) (x - pa) else s.byteAt x) ∧
      t.pairs = s.pairs ∧ t.teams = s.teams ∧ t.order = s.order + 1 ∧
      t.pieceIs id i { p with done := true, time := w, served := s.gt, order := s.order + 1 } ∧ s.gt ≤ w ∧
      ((∀ l ∈ linesOf pa p.data.length, (tabGet none s.lines l).isSome = true) → w = max s.gt (s.lexpOf pa p.data.length)) := by
  have hrun := writeArrives_open ho (by rw [hk]; rfl) (by rw [hp]; rfl) (.inl hk)
  obtain ⟨l, n, hc⟩ := comes_eq s id p
  obtain ⟨po, f, b, c, d, e, hw⟩ := writeHome_dev hp (s := s.comes id p) (by rw [hc]; exact hin)
  have happly : (s.comes id p).applyPiece a.kind p = (((s.comes id p).withMem
      (memPut (s.comes id p).mem pa (p.leaves (memBytes (s.comes id p).mem pa p.data.length) p.data)) po f).withCache b c d e,
      { p with done := true, time := max (s.comes id p).gt (((s.comes id p).touchAll pa p.data.length p.part).lexpOf pa p.data.length), served := (s.comes id p).gt }) := by
    rw [hk]
    unfold State.applyPiece
    dsimp only
    rw [hw]
    rfl
  obtain ⟨hhole, hmem, hpairs, hteams, horder, hpiece⟩ := takesWrite_dev ho (by exact hp) happly
  have hgt : (s.comes id p).gt = s.gt := by rw [hc]
  refine ⟨s.takesWrite id i a p, _, exec_next rfl hrun (hhole.trans hs), fun x => ?_, hpairs, hteams, horder, hgt ▸ hpiece, ?_, fun hl => ?_⟩
  · unfold State.byteAt
    rw [hmem, hc]
    exact tabGet_putLeaves s.mem pa p rfl x
  · exact le_max_left _ _
  · rw [touchAll_held p.part (by rw [hc]; exact hl), hc]
    rfl

/-- An atomic reaches its home in device memory (R111, R298). -/
theorem homeWrite_atom_dev {op ty : Nat} {v new : DWord} {d : Dest} {pa : Nat} (hk : a.kind = .atom op ty v new d) (hp : p.home = .dev pa)
    (hm : p.mask = none) (hin : pa + p.len ≤ s.installed) (hsound : s.sound pa p.len) :
    ∃ t w, exec (.homeWriteApply id i) s = .next t ∧
      (∀ x, t.byteAt x = p.atomByte pa (atomResult op ty (leNat (p.gets (memBytes s.mem pa p.len))) (v.toNat % 2 ^ tyBits ty) (new.toNat % 2 ^ tyBits ty))
        (s.byteAt x) x) ∧
      t.pairs = s.pairs ∧ t.teams = s.teams ∧
      t.pieceIs id i { p with done := true, data := p.gets (memBytes s.mem pa p.len), time := w, served := s.gt, order := s.order + 1 } := by
  have hrun := writeArrives_open ho (by rw [hk]; rfl) (by rw [hp]; rfl) (.inr (by simp [hp]))
  obtain ⟨l, n, hc⟩ := comes_eq s id p
  obtain ⟨m, po, f, b, c, e, g, w, hw, hbytes⟩ := atomHome_dev hp (s := s.comes id p) (op := op) (ty := ty) (v := v) (new := new)
    (by rw [hc]; exact hin) (by rw [hc]; exact hsound) hm
  have happly : (s.comes id p).applyPiece a.kind p = (((s.comes id p).withMem m po f).withCache b c e g,
      { p with done := true, data := p.gets (memBytes s.mem pa p.len), time := w, served := s.gt }) := by
    rw [hk]
    refine Eq.trans hw ?_
    rw [hc]
  obtain ⟨hhole, hmem, hpairs, hteams, -, hpiece⟩ := takesWrite_dev ho (by exact hp) happly
  refine ⟨s.takesWrite id i a p, w, exec_next rfl hrun (hhole.trans hs), fun x => ?_, hpairs, hteams, hpiece⟩
  have hx := hbytes x
  rw [hc] at hx
  unfold State.byteAt
  rw [hmem]
  exact hx

omit hs in
/-- HOME_WRITE_APPLY of a write that settles no unit's mark: its piece stands with its place in home order (R106). -/
theorem homeWrite_runs {u : State} {q : Piece} (hw : a.kind.writes = true) (hopen : s.homeOpen p.home = true)
    (hx : a.kind = .store ∨ ∀ port addr, p.home ≠ .host port addr) (happly : (s.comes id p).applyPiece a.kind p = (u, q))
    (hsettle : ∀ v : State, v.settleClear q = v) (horder : u.order = s.order + 1) (hhole : u.hole = none) :
    exec (.homeWriteApply id i) s = .next (u.putPiece a i { q with order := s.order + 1 }) := by
  refine exec_next rfl ((writeArrives_open ho hw hopen hx).trans ?_) hhole
  unfold State.takesWrite
  dsimp only
  rw [happly, hsettle]
  dsimp only
  rw [horder]

/-- A store reaches its home in a scratchpad (R106, R370). -/
theorem homeWrite_store_pad (hk : a.kind = .store) {pair off : Nat} (hp : p.home = .pad pair off) (hclear : p.clears = false) :
    exec (.homeWriteApply id i) s = .next (((s.comes id p).putPair pair
      ((s.pair pair).write off (p.leaves (memBytes (s.pair pair).pad off p.data.length) p.data) p.tag)).putPiece a i
        { p with done := true, time := s.gt, served := s.gt, order := s.order + 1 }) := by
  obtain ⟨hgt, horder, hhole, hpair⟩ := comes_leaves s id p
  refine homeWrite_runs (q := { p with done := true, time := s.gt, served := s.gt }) ho (by rw [hk]; rfl) (by rw [hp]; rfl) (.inl hk) ?_
    (fun v => settleClear_unmarked (by exact hclear) v) horder (hhole.trans hs)
  rw [hk]
  unfold State.applyPiece State.writeHome
  rw [hp]
  dsimp only
  rw [State.putPair_gt, hpair, hgt]

/-- A store reaches the host over an open port (R106, R454). -/
theorem homeWrite_store_host (hk : a.kind = .store) {port addr : Nat} (hp : p.home = .host port addr) (hopen : s.portOpen port = true) :
    exec (.homeWriteApply id i) s =
      .next (((s.comes id p).sendPort port p.data).putPiece a i { p with done := true, time := s.gt, served := s.gt, order := s.order + 1 }) := by
  obtain ⟨hgt, horder, hhole, -⟩ := comes_leaves s id p
  refine homeWrite_runs (q := { p with done := true, time := s.gt, served := s.gt }) ho (by rw [hk]; rfl) (by rw [hp]; exact hopen) (.inl hk) ?_
    (fun v => settleClear_host (by exact hp) v) horder (hhole.trans hs)
  have hsent : ((s.comes id p).sendPort port p.data).gt = s.gt := hgt
  rw [hk]
  unfold State.applyPiece State.writeHome
  rw [hp]
  dsimp only
  rw [hsent, hgt]

/-- An atomic reaches its home in a scratchpad: the pair's column takes its result, where it has one (R111, R298). -/
theorem homeWrite_atom_pad {op ty : Nat} {v new : DWord} {d : Dest} {pair off : Nat} (hk : a.kind = .atom op ty v new d) (hp : p.home = .pad pair off)
    (hclear : p.clears = false) :
    exec (.homeWriteApply id i) s = .next (State.putPiece
      (match atomResult op ty (leNat (p.gets (memBytes (s.pair pair).pad off p.len))) (v.toNat % 2 ^ tyBits ty) (new.toNat % 2 ^ tyBits ty) with
        | some r => (s.comes id p).putPair pair ((s.pair pair).write off (p.leaves (memBytes (s.pair pair).pad off p.len) (natLe p.len r)) false)
        | none => s.comes id p)
      a i { p with done := true, data := p.gets (memBytes (s.pair pair).pad off p.len), time := s.gt, served := s.gt, order := s.order + 1 }) := by
  obtain ⟨hgt, horder, hhole, hpair⟩ := comes_leaves s id p
  refine homeWrite_runs (q := { p with done := true, data := p.gets (memBytes (s.pair pair).pad off p.len), time := s.gt, served := s.gt }) ho
    (by rw [hk]; rfl) (by rw [hp]; rfl) (.inr (by simp [hp])) ?_ (fun v => settleClear_unmarked (by exact hclear) v) ?_ ?_
  · rw [hk]
    unfold State.applyPiece State.atomHome
    rw [hp]
    dsimp only
    rw [hpair, hgt]
    generalize atomResult _ _ _ _ _ = res
    cases res <;> rfl
  · split <;> exact horder
  · split <;> exact hhole.trans hs

/-! ## Loads -/

omit hs in
/-- HOME_LOAD_SERVE of a load's piece that is open is its service at its home. -/
theorem homeLoad_open {d : Dest} (hk : a.kind = .load d) (data : List Byte) {u : State} {q : Piece}
    (hq : s.servePiece a p data = (u, some q)) : s.homeLoad id i data = u.putPiece a i q := by
  obtain ⟨ha, hp, hdone, hord, hleaves⟩ := ho
  unfold State.homeLoad
  rw [ha]
  dsimp only
  rw [hp]
  dsimp only
  rw [hk, hdone, hord, hq]
  exact if_neg (by simpa using hleaves)

/-- A load is served at its home in device memory (R66, R111). -/
theorem homeLoad_dev {d : Dest} {pa : Nat} (data : List Byte) (hk : a.kind = .load d) (hp : p.home = .dev pa) (hin : pa + p.len ≤ s.installed)
    (hline : pa / 256 * 256 + 256 ≤ s.installed) (hsound : s.sound pa p.len) :
    ∃ t w, exec (.homeLoadServe id i data) s = .next t ∧ (∀ x, t.byteAt x = s.byteAt x) ∧ t.pairs = s.pairs ∧ t.teams = s.teams ∧
      t.accesses = (s.putPiece a i { p with done := true, data := p.gets (memBytes s.mem pa p.len), time := w, served := s.gt }).accesses := by
  obtain ⟨b, c, e, f, hread⟩ := readDev_sound p.part hin hsound
  obtain ⟨po, fl, b', c', e', f', l, hfill⟩ := fillL1_eq (s := s.withCache b c e f) (pair := a.pair) (lease := p.lease) (part := p.part) hline
  have hserve : s.servePiece a p data = ((s.withCache b c e f).fillL1 a.pair pa p.lease p.part, some { p with
      done := true, data := p.gets (memBytes s.mem pa p.len), time := ((s.withCache b c e f).times pa).2, served := s.gt }) := by
    unfold State.servePiece
    rw [hp]
    dsimp only
    rw [hread]
    rfl
  refine ⟨_, ((s.withCache b c e f).times pa).2, exec_next rfl (homeLoad_open ho hk data hserve) ?_, ?_, ?_, ?_, ?_⟩
  all_goals rw [hfill]
  · exact hs
  · exact fun _ => rfl
  all_goals rfl

/-- A load is served in a scratchpad, with its granule's tag and its poison (R111, R370, R397). -/
theorem homeLoad_pad {d : Dest} {pair off : Nat} (data : List Byte) (hk : a.kind = .load d) (hp : p.home = .pad pair off) :
    exec (.homeLoadServe id i data) s = .next (s.putPiece a i
      { p with done := true, data := p.gets (memBytes (s.pair pair).pad off p.len), time := s.gt, served := s.gt,
               tag := tabGet false (s.pair pair).tags (off / 16), err := if (s.pair pair).poisoned off p.len then some .poison else none }) := by
  refine exec_next rfl (homeLoad_open ho hk data ?_) hs
  unfold State.servePiece
  rw [hp]

/-- A load over an open port takes the data that the host returns (R106, R454). -/
theorem homeLoad_host {d : Dest} {port addr : Nat} {data : List Byte} (hk : a.kind = .load d) (hp : p.home = .host port addr)
    (hopen : s.portOpen port = true) (hlen : data.length = p.len) :
    exec (.homeLoadServe id i data) s = .next (s.putPiece a i { p with done := true, data := data, time := s.gt, served := s.gt }) := by
  refine exec_next rfl (homeLoad_open ho hk data ?_) hs
  unfold State.servePiece
  rw [hp]
  exact if_pos ⟨hopen, hlen⟩

end

section
variable {s : State} {id i : Nat} {a : Access} (ha : s.access id = some a) (hl : s.gt < a.leaves)
include ha hl

/-- No write reaches its home before its request leaves (R370). -/
theorem writeArrives_early : s.writeArrives id i = s := by
  unfold State.writeArrives
  rw [ha]
  exact if_pos hl

/-- No load is served before its request leaves (R370). -/
theorem homeLoad_early (data : List Byte) : s.homeLoad id i data = s := by
  unfold State.homeLoad
  rw [ha]
  dsimp only
  cases a.pieces[i]? with
  | none => rfl
  | some p => exact if_pos (by simp [hl])

end

/-- Settles O31: a write or load that is open is applied at its home, and what it leaves there is its home's own lemma. -/
theorem accessesAreServedAtTheirHomes : Obligations.AccessesAreServedAtTheirHomes := by
  unfold Obligations.AccessesAreServedAtTheirHomes
  refine ⟨fun s id i a p hs ho hk => ⟨fun pa hp hin => homeWrite_store_dev hs ho hk hp hin, fun pair off hp hc => homeWrite_store_pad hs ho hk hp hc,
      fun port addr hp hopen => homeWrite_store_host hs ho hk hp hopen⟩,
    fun s id i a p hs ho => ⟨fun op ty v new d pa old hk hp hm hin hsound hold => ?_, fun op ty v new d pair off old hk hp hc hold => ?_,
      fun d pa data hk hp hin hline hsound => homeLoad_dev hs ho data hk hp hin hline hsound, fun d pair off data hk hp => homeLoad_pad hs ho data hk hp,
      fun d port addr data hk hp hopen hlen => homeLoad_host hs ho hk hp hopen hlen⟩,
    fun s id i a hs ha hl => ⟨exec_next rfl (writeArrives_early ha hl) hs,
      fun data => exec_next rfl (homeLoad_early ha hl data) hs⟩⟩
  · rw [hold]; exact homeWrite_atom_dev hs ho hk hp hm hin hsound
  · rw [hold]; exact homeWrite_atom_pad hs ho hk hp hc

end Sys2Proof.Machine
end

section
/-! O32: results that arrive and waits that end. A result folds its time, leaves flight, and reaches the thread that waits for it; a wait that
ends moves its thread past its instruction. -/

namespace Sys2Proof.Machine

/-! ## What stays in flight, and what holds copies -/

/-- The acknowledgement of a store changes copies alone (R67). -/
theorem ackL1_eq (s : State) (pair : Nat) (p : Piece) (w : Nat) : ∃ c, s.ackL1 pair p w = { s with copies := c } := by
  unfold State.ackL1
  split
  · exact ⟨_, rfl⟩
  · exact ⟨s.copies, rfl⟩

/-- What changes copies alone at each of a list of pieces changes them alone. -/
theorem foldl_copies {f : State → Piece → State} (hf : ∀ s p, ∃ c, f s p = { s with copies := c }) (l : List Piece) (s : State) :
    ∃ c, l.foldl f s = { s with copies := c } := by
  refine List.foldlRecOn (motive := fun u => ∃ c, u = { s with copies := c }) l f ⟨s.copies, rfl⟩ (fun u hu p _ => ?_)
  obtain ⟨c, rfl⟩ := hu
  exact hf _ p

/-- The lines that a visibility word's maximum goes past are dropped, and nothing else changes (R67). -/
theorem dropPieces_eq (s : State) (pair : Nat) (l : List Piece) : ∃ c, s.dropPieces pair l = { s with copies := c } := by
  refine foldl_copies (fun s p => ?_) l s
  split
  · exact ⟨_, rfl⟩
  · exact ⟨s.copies, rfl⟩

/-- The pieces of a store that are not sparse are acknowledged, and nothing but copies changes (R67). -/
theorem ackPieces_eq (s : State) (pair : Nat) (l : List Piece) :
    ∃ c, l.foldl (fun s p => if p.sparse then s else s.ackL1 pair p p.time) s = { s with copies := c } := by
  refine foldl_copies (fun s p => ?_) l s
  split
  · exact ⟨s.copies, rfl⟩
  · exact ackL1_eq s pair p p.time

theorem foldPcm_copies (s : State) (c : List Copy) (who : Who) (time : Nat) :
    ({ s with copies := c } : State).foldPcm who time = { s.foldPcm who time with copies := c } := by
  unfold State.foldPcm
  rw [show ({ s with copies := c } : State).team who.team = s.team who.team from rfl]
  cases s.team who.team with
  | none => rfl
  | some t =>
    cases who.rank with
    | none => rfl
    | some j => dsimp only; cases t.rank j <;> rfl

theorem foldPcm_accesses (s : State) (who : Who) (time : Nat) : (s.foldPcm who time).accesses = s.accesses := by
  unfold State.foldPcm
  split
  · rfl
  · split
    · rfl
    · split <;> rfl

theorem foldPcm_hole (s : State) (who : Who) (time : Nat) : (s.foldPcm who time).hole = s.hole := (foldPcm_keepsPairs s who time).hole

section
variable {s : State} {id : Nat} {a : Access} (ha : s.access id = some a) (hd : a.done = true)
include ha hd

/-! ## Acknowledgements -/

omit hd in
/-- STORE_ACK before the homes' times can be back changes nothing (R105). -/
theorem ackStore_unripe (hr : s.ripe a = false) : s.ackStore id = s := by
  unfold State.ackStore
  rw [ha]
  exact if_pos (by simp [hr])

/-- STORE_ACK of a write that is done: its lines take what it brought, its thread folds the greatest of its times, and it is in flight no more
(R67, R112). -/
theorem ackStore_ripe (hk : a.kind = .store ∨ ∃ v, a.kind = .vismax v) (hr : s.ripe a = true) :
    ∃ c, s.ackStore id = { (s.foldPcm a.who a.time).dropAccess id with copies := c } := by
  unfold State.ackStore
  rw [ha]
  dsimp only
  rw [hd, hr]
  obtain hk | ⟨v, hk⟩ := hk
  · obtain ⟨c, hc⟩ := ackPieces_eq s a.pair a.pieces
    rw [hk, if_neg (by simp), if_pos rfl, hc, foldPcm_copies]
    exact ⟨c, rfl⟩
  · obtain ⟨c, hc⟩ := dropPieces_eq s a.pair a.pieces
    rw [hk, if_neg (by simp), if_neg (by simp), hc, foldPcm_copies]
    exact ⟨c, rfl⟩

theorem storeAck_leaves (hs : s.hole = none) (hk : a.kind = .store ∨ ∃ v, a.kind = .vismax v) (hr : s.ripe a = true) :
    ∃ t, exec (.storeAck id) s = .next t ∧ t.accesses = (s.dropAccess id).accesses ∧ t.teams = (s.foldPcm a.who a.time).teams ∧
      t.mem = s.mem ∧ t.pairs = s.pairs := by
  obtain ⟨c, hrun⟩ := ackStore_ripe ha hd hk hr
  refine ⟨_, exec_next rfl hrun ?_, ?_, rfl, ?_, ?_⟩
  · exact (foldPcm_hole s a.who a.time).trans hs
  · exact congrArg (List.filter _) (foldPcm_accesses s a.who a.time)
  · exact foldPcm_mem s a.who a.time
  · exact (foldPcm_keepsPairs s a.who a.time).pairs

omit hd in
/-- LOAD_RESULT_RETURN before the times that an atomic brings can be back changes nothing (R105). -/
theorem loadReturn_unripe (hr : s.ripe a = false) : s.loadReturn id = s := by
  unfold State.loadReturn
  rw [ha]
  exact if_pos (by simp [hr])

/-! ## Results -/

/-- LOAD_RESULT_RETURN of an access that writes nothing and asks no island: its result is delivered (R112, R292). -/
theorem loadReturn_delivers {x : Result} (hw : a.kind.writes = false) (hasks : s.asks a = none) (hx : s.resultOf a = (s, some x)) :
    s.loadReturn id = s.deliverResult a x := by
  have hripe : s.ripe a = true := by unfold State.ripe; rw [hw]; rfl
  have hold : State.holdAnswer s s a x = none := by unfold State.holdAnswer; rw [hasks]
  unfold State.loadReturn
  rw [ha]
  dsimp only
  rw [if_neg (by simp [hd, hripe]), hw, if_neg (by decide), hx]
  dsimp only
  rw [hold]

end

/-- The result of a load whose pieces met no error (R293). -/
theorem resultOf_load {s : State} {a : Access} {d : Dest} (hk : a.kind = .load d) (he : a.pieces.findSome? (fun p => p.err) = none) :
    s.resultOf a = (s, some (.value d.reg d.ty (destValue d a.pieces))) := by
  unfold State.resultOf
  rw [hk, he]

/-- The result of a load of which a piece met an error (R292). -/
theorem resultOf_bad {s : State} {a : Access} {d : Dest} {e : TrapCode} (hk : a.kind = .load d) (he : a.pieces.findSome? (fun p => p.err) = some e) :
    s.resultOf a = (s, some (.bad d.reg (if d.ty = 12 then 4 else if tyBits d.ty = 64 then 2 else 1) (e, BitVec.ofNat 32 a.addr))) := by
  unfold State.resultOf
  rw [hk, he]

theorem resultOf_popped {s : State} {a : Access} {reg ty : Nat} {v : DWord} (hk : a.kind = .popped reg ty v) :
    s.resultOf a = (s, some (.value reg ty ⟨v.setWidth 128, false⟩)) := by
  unfold State.resultOf
  rw [hk]

/-- A load and a pop write nothing and ask no island. -/
theorem plain_result {s : State} {a : Access} (hk : (∃ d, a.kind = .load d) ∨ ∃ reg ty v, a.kind = .popped reg ty v) :
    a.kind.writes = false ∧ s.asks a = none := by
  unfold State.asks
  obtain ⟨d, hk⟩ | ⟨reg, ty, v, hk⟩ := hk <;> rw [hk] <;> exact ⟨rfl, rfl⟩

/-- A result reaches the registers of a thread of a live rank (R184). -/
theorem deliverResult_rank {s : State} {a : Access} {j : Nat} {t : Team} {r : Rank} (x : Result) (hj : a.who.rank = some j)
    (ht : (s.foldPcm a.who a.time).team a.who.team = some t) (hr : t.rank j = some r) (he : r.ended = false) :
    s.deliverResult a x = (((s.foldPcm a.who a.time).dropAccess a.id).arrived t.pair r x.regs).putRank t.uid (r.give a.who.pos x) := by
  have ht' : ((s.foldPcm a.who a.time).dropAccess a.id).team a.who.team = some t := ht
  unfold State.deliverResult
  dsimp only
  rw [ht', hj]
  dsimp only
  rw [hr]
  exact if_neg (by simp [he])

/-- A result reaches the control thread that waits for it (R292). -/
theorem deliverResult_ctl {s : State} {a : Access} {t : Team} (x : Result) (hj : a.who.rank = none)
    (ht : (s.foldPcm a.who a.time).team a.who.team = some t) (hw : t.ctl.wait = .result a.id) :
    s.deliverResult a x = ((s.foldPcm a.who a.time).dropAccess a.id).giveCtl t x := by
  have ht' : ((s.foldPcm a.who a.time).dropAccess a.id).team a.who.team = some t := ht
  unfold State.deliverResult
  dsimp only
  rw [ht', hj]
  exact if_pos hw

section
variable {s : State} {id : Nat} {a : Access} (hs : s.hole = none) (ha : s.access id = some a) (hd : a.done = true)
include hs ha hd

/-- LOAD_RESULT_RETURN of a load or a pop of a thread (R112, R184, R292). -/
theorem loadReturn_rank (hk : (∃ d, a.kind = .load d) ∨ ∃ reg ty v, a.kind = .popped reg ty v) {j : Nat} {t : Team} {r : Rank} {x : Result}
    (hx : s.resultOf a = (s, some x)) (hj : a.who.rank = some j) (ht : (s.foldPcm a.who a.time).team a.who.team = some t)
    (hr : t.rank j = some r) (he : r.ended = false) :
    exec (.loadResultReturn id) s =
      .next ((((s.foldPcm a.who a.time).dropAccess id).arrived t.pair r x.regs).putRank t.uid (r.give a.who.pos x)) := by
  obtain ⟨hw, hasks⟩ := plain_result (s := s) hk
  obtain rfl := access_id ha
  refine exec_next rfl ((loadReturn_delivers ha hd hw hasks hx).trans (deliverResult_rank x hj ht hr he)) ?_
  rw [putRank_hole]
  exact (foldPcm_hole s a.who a.time).trans hs

/-- LOAD_RESULT_RETURN of a load of a control thread that waits for it (R292). -/
theorem loadReturn_ctl {d : Dest} (hk : a.kind = .load d) {t : Team} {x : Result} {u : State} (hx : s.resultOf a = (s, some x)) (hj : a.who.rank = none)
    (ht : (s.foldPcm a.who a.time).team a.who.team = some t) (hwait : t.ctl.wait = .result id)
    (hu : ((s.foldPcm a.who a.time).dropAccess id).giveCtl t x = u) (hh : u.hole = (s.foldPcm a.who a.time).hole) :
    exec (.loadResultReturn id) s = .next u := by
  obtain ⟨hw, hasks⟩ := plain_result (s := s) (.inl ⟨d, hk⟩)
  obtain rfl := access_id ha
  refine exec_next rfl ((loadReturn_delivers ha hd hw hasks hx).trans ((deliverResult_ctl x hj ht hwait).trans hu)) ?_
  rw [hh, foldPcm_hole, hs]

end

/-! ## Waits that end -/

theorem releaseFrees_hole (s : State) (mine : Who → Bool) : (s.releaseFrees mine).hole = s.hole := by
  unfold State.releaseFrees
  dsimp only
  refine foldl_keeps State.hole (fun s a => ?_) _ s
  split <;> rfl

section
variable {s : State} {uid : Nat} {t : Team} (ht : s.team uid = some t)
include ht

/-- A control thread's sleep ends at its deadline (R253). -/
theorem sleepWake_ctl {d : Nat} (hw : t.ctl.wait = .sleep d) : s.sleepWake (.ctl uid) = if d ≤ s.gt then s.ctlDone t else s := by
  unfold State.sleepWake
  dsimp only
  rw [ht]
  dsimp only
  rw [hw]

/-- A control thread's fence is over once its conditions hold (R116, R305). -/
theorem fencePass_ctl {kind scope : Nat} {act : DWord} (hw : t.ctl.wait = .fence kind scope act) (hf : s.fenceDone kind scope ⟨uid, none, 0⟩ = true) :
    s.fencePass (.ctl uid) = ((s.releaseFrees (whoCtl uid)).flushed kind scope ⟨uid, none, 0⟩).ctlDone t := by
  unfold State.fencePass
  dsimp only
  rw [ht]
  dsimp only
  rw [hw]
  exact if_pos hf

/-- A control thread whose word has come may issue again (R109, R367). -/
theorem fetchFill_ctl {s1 s2 : State} {w : DWord} (hw : t.ctl.wait = .fetch) (h1 : s.fillWord t.req t.ctl.pc.toNat = (s1, none))
    (h2 : s1.fetchWord t.req t.ctl.pc.toNat = (s2, .word w)) (hne : w.extractLsb' 54 10 ≠ 0x064#10) :
    s.fetchFill (.ctl uid) = s2.putTeam { t with ctl := { t.ctl with wait := .none } } := by
  unfold State.fetchFill
  dsimp only
  rw [ht]
  dsimp only
  rw [if_neg (not_not_intro hw), h1]
  dsimp only
  rw [h2]
  dsimp only
  rw [if_neg hne]

end

section
variable {s : State} {uid j age : Nat} {t : Team} {r : Rank} {x : Split} (hx : s.splitOf (.vec uid j age) = some (t, r, x))
include hx

/-- A split's sleep ends at its deadline (R253). -/
theorem sleepWake_vec {d : Nat} (hw : x.wait = .sleep d) : s.sleepWake (.vec uid j age) = if d ≤ s.gt then s.pastSplit t r x else s := by
  unfold State.sleepWake
  dsimp only
  rw [hx]
  dsimp only
  rw [hw]

/-- A split's fence is over once its conditions hold for every thread of its pass (R116, R305). -/
theorem fencePass_vec {kind scope : Nat} {act : DWord} (hw : x.wait = .fence kind scope act)
    (hf : ∀ p ∈ maskList act, s.fenceDone kind scope ⟨uid, some j, p⟩ = true) :
    s.fencePass (.vec uid j age) = (s.releaseFrees (whoIn uid j act)).pastSplit t r x := by
  unfold State.fencePass
  dsimp only
  rw [hx]
  dsimp only
  rw [hw]
  exact if_pos (List.all_eq_true.mpr hf)

/-- A split whose word has come may issue again (R109, R367). -/
theorem fetchFill_vec {s1 s2 : State} {w : DWord} (hw : x.wait = .fetch) (h1 : s.fillWord t.req x.pc.toNat = (s1, none))
    (h2 : s1.fetchWord t.req x.pc.toNat = (s2, .word w)) (hne : w.extractLsb' 54 10 ≠ 0x064#10) :
    s.fetchFill (.vec uid j age) = s2.putRank uid (r.putSplit { x with wait := .none }) := by
  unfold State.fetchFill
  dsimp only
  rw [hx]
  dsimp only
  rw [if_neg (not_not_intro hw), h1]
  dsimp only
  rw [h2]
  dsimp only
  rw [if_neg hne]

end

/-- A split that has been current for as many cycles as its grid allows traps (R193, R375). -/
theorem watchdog_traps {s : State} {pair rod : Nat} {a : Agent} {f : Foc} {g : Grid} (hc : (s.rod pair rod).cur = some a)
    (hf : focus { s with cur := a } = some f) (hg : s.grid f.t.grid = some g) (hlim : g.wdlim ≤ (s.rod pair rod).watch) :
    s.watchdog pair rod = f.deliver { code := .watchdog, detail := BitVec.ofNat 64 (g.wdlim % 2 ^ 32) }
      ⟨f.x.resume, f.issueSet (f.members 0 false), f.members 0 false⟩ := by
  unfold State.watchdog
  dsimp only
  rw [hc]
  dsimp only
  rw [hf]
  dsimp only
  rw [hg]
  exact (if_neg (Nat.not_lt.mpr hlim)).trans (trap_plain rfl rfl nofun)

/-! ## The obligation -/

/-- Settles O32: what arrives leaves flight and reaches who waits for it, and each wait that ends is the equation of its event. -/
theorem resultsArriveAndWaitsEnd : Obligations.ResultsArriveAndWaitsEnd := by
  refine ⟨fun s id a hs ha hd => ⟨fun hr => ⟨exec_next rfl (ackStore_unripe ha hr) hs, exec_next rfl (loadReturn_unripe ha hr) hs⟩,
      fun hk hr => storeAck_leaves ha hd hs hk hr, fun j t r hj ht hr he => ⟨fun d hk hp => ?_, fun d e n hk hp hn => ?_, fun reg ty v hk => ?_⟩,
      fun d t hk hj ht hw => ⟨fun hp => ?_, fun e hp hv ho hb => ?_⟩⟩,
    fun s hs => ⟨fun uid t d ht hw => ?_, fun uid j age t r x d hx hw => ?_, fun uid t kind scope act ht hw hf => ?_,
      fun uid j age t r x kind scope act hx hw hf => ?_, fun uid t s1 s2 w ht hw h1 h2 hne hh => ?_,
      fun uid j age t r x s1 s2 w hx hw h1 h2 hne hh => ?_, fun pair rod a f g hc hf hg hlim => ?_⟩⟩
  · exact loadReturn_rank hs ha hd (.inl ⟨d, hk⟩) (resultOf_load hk hp) hj ht hr he
  · subst hn
    exact loadReturn_rank hs ha hd (.inl ⟨d, hk⟩) (resultOf_bad hk hp) hj ht hr he
  · exact loadReturn_rank hs ha hd (.inr ⟨reg, ty, v, hk⟩) (resultOf_popped hk) hj ht hr he
  · exact loadReturn_ctl hs ha hd hk (resultOf_load hk hp) hj ht hw rfl rfl
  · exact loadReturn_ctl hs ha hd hk (resultOf_bad hk hp) hj ht hw (trapCtl_plain hv ho hb) (deliverCtl_hole _ _ _)
  · refine exec_next rfl (sleepWake_ctl ht hw) ?_
    split <;> exact hs
  · refine exec_next rfl (sleepWake_vec hx hw) ?_
    split
    · exact (putRank_hole _ _ _).trans hs
    · exact hs
  · exact exec_next rfl (fencePass_ctl ht hw hf) ((flushed_hole _ _ _ _).trans ((releaseFrees_hole s _).trans hs))
  · exact exec_next rfl (fencePass_vec hx hw hf) ((putRank_hole _ _ _).trans ((releaseFrees_hole s _).trans hs))
  · exact exec_next rfl (fetchFill_ctl ht hw h1 h2 hne) hh
  · exact exec_next rfl (fetchFill_vec hx hw h1 h2 hne) ((putRank_hole _ _ _).trans hh)
  · have hfoc : f.s = { s with cur := a } := focus_spec hf
    refine exec_next rfl (watchdog_traps hc hf hg hlim) ?_
    rw [deliver_hole, hfoc, hs]

end Sys2Proof.Machine
end

section
/-! O21: flags and queues of the control stream. Each instruction issues, and its flag or queue says whether it goes past its word, waits at
it, or traps. -/

namespace Sys2Proof.Machine

theorem flagAdd_hole (s : State) (uid n : Nat) (v : Word) : (s.flagAdd uid n v).hole = s.hole := by
  unfold State.flagAdd
  split <;> rfl

/-- What an s register takes from an entry: its 64 bits, and zero where it carries a handle (R139). -/
theorem lo64_word (x : QEntry) : lo64 x.word = if x.mark.isSome then 0 else x.val :=
  (BitVec.extractLsb'_setWidth_of_le (by omega)).trans BitVec.extractLsb'_eq_self

/-! ## Control threads that wait unless they are alone -/

/-- A control thread that waits at a queue or a flag while another thread of its team is left, and traps once none is (R250). -/
def waitOrFault (d : DWord) (w : Wait) (s : State) (t : Team) : State :=
  if t.alone none then s.deliverCtl t { code := .queueFault, detail := d } else s.ctlBlock t w

theorem waitOrFault_hole (d : DWord) (w : Wait) (s : State) (t : Team) : (waitOrFault d w s t).hole = s.hole := by
  unfold waitOrFault
  split
  · exact deliverCtl_hole _ _ _
  · rfl

/-- A QUEUE_FAULT of a control thread is delivered: no owner is asked and nothing freezes. -/
theorem waitOrFault_eq (d : DWord) (w : Wait) (s : State) (t : Team) :
    (if t.alone none then s.trapCtl t { code := .queueFault, detail := d } else s.ctlBlock t w) = waitOrFault d w s t := by
  rw [trapCtl_plain rfl rfl (by simp)]
  rfl

section
variable {s : State} {t : Team} {w : FWord} (h : CtlIssues s t) (hg : t.guard w.g w.gn)
include h hg

/-! ## Flags -/

theorem flagaddCtl_runs (hok : (plainMod w 1 && fldOk .ctl .none (fldD w) && !w.kd && fldOk .ctl .flag (fldA w) && fldOk .ctl .reg (fldB w)) = true) :
    CtlRuns (.flagadd w) s t (fun s u => (s.ctlDone u).flagAdd t.uid (flagNum w) ((t.ctl.getS w.b.toNat).extractLsb' 0 32)) :=
  ctl_acts h rfl rfl hok hg (fun _ _ _ _ => rfl) (fun _ _ _ _ => (flagAdd_hole _ _ _ _).trans h.whole)

theorem flagwaitCtl_runs (hok : (plainMod w 3 && fldOk .ctl .none (fldD w) && !w.kd && fldOk .ctl .flag (fldA w) && fldOk .ctl .reg (fldB w)) = true) :
    CtlRuns (.flagwait w) s t (fun s u =>
      if flagCond w.md.toNat (t.flag (flagNum w)) ((t.ctl.getS w.b.toNat).extractLsb' 0 32) then s.ctlDone u
      else if t.alone none then s.deliverCtl u { code := .queueFault, detail := BitVec.ofNat 64 (256 + flagNum w) }
      else s.ctlBlock u (.flag (flagNum w) w.md.toNat [(t.ctl.getS w.b.toNat).extractLsb' 0 32])) := by
  refine ctl_acts h rfl rfl hok hg (fun now last e ra => ?_) (fun now last e ra => ?_)
  · exact if_congr Iff.rfl rfl (waitOrFault_eq _ _ _ _)
  · split
    · exact h.whole
    · exact (waitOrFault_hole _ _ _ (t.retimed e ra)).trans h.whole

/-! ## Pushes -/

section
variable (hok : (w.md == 0 && fldOk .ctl .none (fldD w) && !w.kd && fldOk .ctl .queue (fldA w) && decide (w.a.toNat - 112 < 4) &&
  (fldOk .ctl .wide (fldB w) || isHandle (fldB w))) = true)
include hok

/-- A push of an s register joins a queue that has room, and else waits for room (R139, R250). -/
theorem qpushCtl_value (hB : isHandle (fldB w) = false) : CtlRuns (.qpush w) s t (fun s u =>
    if (t.queue (w.a.toNat - 112)).length < 32 then
      s.ctlDone (u.putQueue (w.a.toNat - 112) (t.queue (w.a.toNat - 112) ++ [⟨t.ctl.getS w.b.toNat, none⟩]))
    else if t.alone none then s.deliverCtl u { code := .queueFault, detail := BitVec.ofNat 64 (w.a.toNat - 112) }
    else s.ctlBlock u (.push (w.a.toNat - 112) 1)) := by
  refine ctl_acts h rfl (by unfold qpushCtl; exact rfl) hok hg (fun now last e ra => ?_) (fun now last e ra => ?_)
  · simp only [hB, Bool.false_and, Bool.false_eq_true, if_false, retimed_queue]
    by_cases hroom : (t.queue (w.a.toNat - 112)).length < 32
    · rw [if_neg (by omega), if_pos hroom]
      rfl
    · rw [if_pos (by omega), if_neg hroom]
      exact waitOrFault_eq _ _ _ _
  · split
    · exact h.whole
    · exact (waitOrFault_hole _ _ _ (t.retimed e ra)).trans h.whole

/-- A push of a handle gives its state to a queue that has room, and the handle is idle (R139). -/
theorem qpushCtl_handle (hB : isHandle (fldB w) = true) (hh : t.handle (w.b.toNat - 80) ≠ .idle)
    (hroom : (t.queue (w.a.toNat - 112)).length < 32) :
    CtlRuns (.qpush w) s t (fun s u => s.ctlDone ({ u with handles := tabPut .idle t.handles (w.b.toNat - 80) .idle }.putQueue (w.a.toNat - 112)
      (t.queue (w.a.toNat - 112) ++ [QEntry.mk 0 (some (t.handle (w.b.toNat - 80)))]))) := by
  refine ctl_acts h rfl (by unfold qpushCtl; exact rfl) hok hg (fun now last e ra => ?_) (fun _ _ _ _ => h.whole)
  dsimp only
  rw [hB, retimed_queue, retimed_handle, if_neg (by simp [hh]), if_neg (by omega), if_pos rfl]
  rfl

end

/-! ## Pops -/

section
variable (hok : (w.md == 0 && !w.kd && (fldOk .ctl .wide (fldD w) || isHandle (fldD w)) && fldOk .ctl .queue (fldA w) &&
  fldOk .ctl .none (fldB w)) = true)
include hok

/-- A pop into an s register takes the first entry, which reads zero when it carries a handle, and waits for one in an empty queue (R139,
R250, R251). -/
theorem qpopCtl_value (hD : isHandle (fldD w) = false) (hq : w.a.toNat - 112 < 4) :
    CtlRuns (.qpop w) s t (fun s u => match t.queue (w.a.toNat - 112) with
      | e :: l => s.ctlDone ((u.withCtl (u.ctl.putS w.d.toNat (if e.mark.isSome then 0 else e.val))).putQueue (w.a.toNat - 112) l)
      | [] => if t.alone none then s.deliverCtl u { code := .queueFault, detail := BitVec.ofNat 64 (w.a.toNat - 112) }
        else s.ctlBlock u (.pop (w.a.toNat - 112) 1)) := by
  refine ctl_acts h rfl (by unfold qpopCtl; exact rfl) hok hg (fun now last e ra => ?_) (fun now last e ra => ?_)
  · rw [hD, if_neg (by simp), if_neg (by omega), retimed_queue]
    cases t.queue (w.a.toNat - 112) with
    | nil => exact waitOrFault_eq _ _ _ _
    | cons x l =>
      dsimp only
      rw [lo64_word]
      rfl
  · cases t.queue (w.a.toNat - 112) with
    | nil => exact (waitOrFault_hole _ _ _ (t.retimed e ra)).trans h.whole
    | cons x l => exact h.whole

/-- A pop into an idle handle takes the handle that the first entry carries (R139). -/
theorem qpopCtl_handle {x : QEntry} {v : Handle} {l : List QEntry} (hD : isHandle (fldD w) = true) (hq : w.a.toNat - 112 < 4)
    (hidle : t.handle (w.d.toNat - 80) = .idle) (hx : t.queue (w.a.toNat - 112) = x :: l) (hv : x.mark = some v) :
    CtlRuns (.qpop w) s t (fun s u => s.ctlDone ({ u with handles := tabPut .idle t.handles (w.d.toNat - 80) v }.putQueue (w.a.toNat - 112) l)) := by
  refine ctl_acts h rfl (by unfold qpopCtl; exact rfl) hok hg (fun now last e ra => ?_) (fun _ _ _ _ => h.whole)
  rw [hD, if_pos rfl]
  unfold popHandle
  dsimp only
  rw [if_neg (by omega), retimed_queue, hx]
  dsimp only
  rw [hv]
  dsimp only
  rw [retimed_handle, if_pos hidle]
  rfl

/-- A pop of a bound endpoint takes its first response word, and PCM follows the times of what the island wrote (R251, R390). -/
theorem qpopCtl_endpoint {k : Nat} {r : DWord} {l : List DWord} (hD : isHandle (fldD w) = false) (hq : 4 ≤ w.a.toNat - 112)
    (hkind : (tabGet Endpoint.unbound t.ends (w.a.toNat - 112)).kind = some k)
    (hwords : (tabGet Endpoint.unbound t.ends (w.a.toNat - 112)).words = r :: l) :
    CtlRuns (.qpop w) s t (fun s u => s.ctlDone
      { u with ends := tabPut Endpoint.unbound t.ends (w.a.toNat - 112) { tabGet Endpoint.unbound t.ends (w.a.toNat - 112) with words := l },
               ctl := { u.ctl.putS w.d.toNat r with pcm := max u.ctl.pcm (tabGet Endpoint.unbound t.ends (w.a.toNat - 112)).wmax } }) := by
  refine ctl_acts h rfl (by unfold qpopCtl; exact rfl) hok hg (fun now last e ra => ?_) (fun _ _ _ _ => h.whole)
  rw [hD, if_neg (by simp), if_pos hq]
  unfold popEnd
  rw [retimed_ends]
  dsimp only
  rw [hkind, if_neg (by simp), hwords]

end
end

/-! ## The obligation -/

/-- Settles O21: each instruction whose fields are legal issues, and its flag or queue decides what it does. -/
theorem controlFlagsAndQueues : Obligations.ControlFlagsAndQueues := by
  unfold Obligations.ControlFlagsAndQueues
  intro s t w h hg hkd
  refine ⟨fun hm hd ha hb => flagaddCtl_runs h hg ?_, fun hm hd ha hb => flagwaitCtl_runs h hg ?_,
    fun hm hd ha hq => ⟨fun hb hB => qpushCtl_value h hg ?_ hB, fun hB hh hroom => qpushCtl_handle h hg ?_ hB hh hroom⟩,
    fun hm ha hb => ⟨fun hd hD hq => qpopCtl_value h hg ?_ hD hq, fun x v l hD hq hidle hx hv => qpopCtl_handle h hg ?_ hD hq hidle hx hv,
      fun k r l hd hD hq hk hr => qpopCtl_endpoint h hg ?_ hD hq hk hr⟩⟩
  all_goals simp [*]

end Sys2Proof.Machine
end

section
/-! O36: handles and ranges. A handle is idle, pending or resolved, and each instruction has one answer to each; an operation on a range that
passes its checks joins those in flight. -/

namespace Sys2Proof.Machine

/-- HANDLE_INVALID is delivered: no owner is asked and nothing freezes. -/
theorem badHandle_eq (n : Nat) (s : State) (t : Team) :
    badHandle n s t = s.deliverCtl t { code := .handleInvalid, detail := BitVec.ofNat 64 n } :=
  trapCtl_plain rfl rfl (by simp)

/-- Bits [127:64] of a result as a sum of its fields (R136). -/
theorem high_eq (r : HResult) :
    r.high = BitVec.ofNat 64 (r.rtry.toNat * 2 ^ 49 + r.sparse.toNat * 2 ^ 48 + r.status.toNat * 2 ^ 40 + r.done.toNat) := by
  unfold HResult.high
  cases r.rtry <;> cases r.sparse <;> rfl

section
variable {s : State} {t : Team} {w : FWord} (h : CtlIssues s t) (hg : t.guard w.g w.gn)
include h hg

/-! ## HWAIT -/

section
variable (hok : (w.md == 0 && fldOk .ctl .spair (fldD w) && fldOk .ctl .handle (fldA w) && fldOk .ctl .none (fldB w)) = true)
include hok

theorem hwait_resolved {r : HResult} (hr : t.handle (handleOf (fldA w)) = .resolved r) :
    CtlRuns (.hwait w) s t (fun s u => s.ctlDone (((u.withCtl ((u.ctl.putS w.d.toNat (BitVec.ofNat 64 r.wmax)).putS (w.d.toNat + 1)
      (BitVec.ofNat 64 (r.rtry.toNat * 2 ^ 49 + r.sparse.toNat * 2 ^ 48 + r.status.toNat * 2 ^ 40 + r.done.toNat)))).reach r.wmax).holding
      (handleOf (fldA w)) .idle)) := by
  refine ctl_acts h rfl rfl hok hg (fun now last e ra => ?_) (fun _ _ _ _ => h.whole)
  dsimp only
  rw [retimed_handle, hr, ← high_eq]
  rfl

theorem hwait_pending {id : Nat} (hp : t.handle (handleOf (fldA w)) = .pending id) :
    CtlRuns (.hwait w) s t (fun s u => s.ctlBlock u (.handle (handleOf (fldA w)))) := by
  refine ctl_acts h rfl rfl hok hg (fun now last e ra => ?_) (fun _ _ _ _ => h.whole)
  dsimp only
  rw [retimed_handle, hp]

theorem hwait_idle (hi : t.handle (handleOf (fldA w)) = .idle) :
    CtlRuns (.hwait w) s t (fun s u => s.deliverCtl u { code := .handleInvalid, detail := BitVec.ofNat 64 (handleOf (fldA w)) }) := by
  refine ctl_acts h rfl rfl hok hg (fun now last e ra => ?_) (fun now last e ra => (deliverCtl_hole _ _ _).trans h.whole)
  dsimp only
  rw [retimed_handle, hi]
  exact badHandle_eq _ _ _

end

/-! ## HTEST -/

section
variable (hok : (w.md == 0 && fldOk .ctl .pred (fldD w) && fldOk .ctl .handle (fldA w) && fldOk .ctl .none (fldB w)) = true)
include hok

theorem htest_resolved {r : HResult} (hr : t.handle (handleOf (fldA w)) = .resolved r) :
    CtlRuns (.htest w) s t (fun s u => s.ctlDone ((u.withCtl (u.ctl.putPred w.d.toNat true)).reach r.wmax)) := by
  refine ctl_acts h rfl rfl hok hg (fun now last e ra => ?_) (fun _ _ _ _ => h.whole)
  dsimp only
  rw [retimed_handle, hr]
  rfl

theorem htest_unresolved (hn : ∀ r, t.handle (handleOf (fldA w)) ≠ .resolved r) :
    CtlRuns (.htest w) s t (fun s u => s.ctlDone (u.withCtl (u.ctl.putPred w.d.toNat false))) := by
  refine ctl_acts h rfl rfl hok hg (fun now last e ra => ?_) (fun _ _ _ _ => h.whole)
  dsimp only
  rw [retimed_handle]
  cases hv : t.handle (handleOf (fldA w)) with
  | idle => rfl
  | pending id => rfl
  | resolved r => exact absurd hv (hn r)

end

/-! ## HCANCEL -/

section
variable (hok : (w.md == 0 && fldOk .ctl .none (fldD w) && fldOk .ctl .handle (fldA w) && fldOk .ctl .none (fldB w)) = true)
include hok

theorem hcancel_pending {id : Nat} (hp : t.handle (handleOf (fldA w)) = .pending id) :
    CtlRuns (.hcancel w) s t (fun s u =>
      ({ s with ops := s.ops.map (fun o => if o.id = id then { o with cancel := true } else o) } : State).ctlDone u) := by
  refine ctl_acts h rfl rfl hok hg (fun now last e ra => ?_) (fun _ _ _ _ => h.whole)
  dsimp only
  rw [retimed_handle, hp]
  rfl

theorem hcancel_resolved {r : HResult} (hr : t.handle (handleOf (fldA w)) = .resolved r) : CtlRuns (.hcancel w) s t State.ctlDone := by
  refine ctl_acts h rfl rfl hok hg (fun now last e ra => ?_) (fun _ _ _ _ => h.whole)
  dsimp only
  rw [retimed_handle, hr]

end

/-! ## Operations on ranges -/

section
variable {i : Instr} {a : Foc → State} {op : BitVec 8} {kind : OpKind} {mods : Nat}
  (hex : exec i s = answer (byStream s a (rangeCtl op kind mods w)))
  (hok : (plainMod w mods && fldOk .ctl .handle (fldD w) && fldOk .ctl .quad (fldA w) && fldOk .ctl .wide (fldB w)) = true)
  (hidle : t.handle (rangeOp kind w t).hnd = .idle)
include hex hok hidle

/-- An operation on an empty range resolves its handle at once, with status 0 (R135, R354). -/
theorem range_empty (hz : (rangeOp kind w t).total = 0) :
    CtlRuns i s t (fun s u => s.ctlDone (u.holding (rangeOp kind w t).hnd (.resolved ⟨false, false, 0, 0, 0⟩))) := by
  refine ctl_acts h hex rfl hok hg (fun now last e ra => ?_) (fun _ _ _ _ => h.whole)
  exact (if_neg (not_not.mpr hidle)).trans (if_pos hz)

/-- An operation on a range that passes its checks joins those in flight under the next identifier, with its handle pending (R135, R354). -/
theorem range_joins (hz : (rangeOp kind w t).total ≠ 0)
    (hc : ∀ now last, (s.afterCtl t now last).checkSpan (rangeOp kind w t).pair ⟨false, (rangeOp kind w t).src, capCursor (rangeOp kind w t).src,
      capCursor (rangeOp kind w t).src + (rangeOp kind w t).total - 1, permLD⟩ = none) :
    CtlRuns i s t (fun s u => ({ s with nextId := s.nextId + 1, ops := s.ops ++ [{ rangeOp kind w t with id := s.nextId, started := true }] } : State).ctlDone
      (u.holding (rangeOp kind w t).hnd (.pending s.nextId))) := by
  refine ctl_acts h hex rfl hok hg (fun now last e ra => ?_) (fun _ _ _ _ => h.whole)
  have hspan := hc now last
  have hop : rangeOp kind w (t.retimed e ra) = rangeOp kind w t := rfl
  unfold rangeIssue
  dsimp only
  rw [hop, retimed_handle, if_neg (not_not.mpr hidle), if_neg hz, hspan]
  rfl

end
end

/-! ## The obligation -/

/-- Settles O36: the state of the handle, or of the range, decides what each instruction does. -/
theorem handlesAndRanges : Obligations.HandlesAndRanges := by
  unfold Obligations.HandlesAndRanges
  intro s t w h hg
  refine ⟨fun hm hd ha hb => ?_, fun hm hd ha hb => ?_, fun hm hd ha hb => ?_, fun i kind o hi hd ha hb ho => ?_⟩
  · have hok : (w.md == 0 && fldOk .ctl .spair (fldD w) && fldOk .ctl .handle (fldA w) && fldOk .ctl .none (fldB w)) = true := by simp [*]
    exact ⟨fun _ => hwait_resolved h hg hok, fun _ => hwait_pending h hg hok, hwait_idle h hg hok⟩
  · have hok : (w.md == 0 && fldOk .ctl .pred (fldD w) && fldOk .ctl .handle (fldA w) && fldOk .ctl .none (fldB w)) = true := by simp [*]
    exact ⟨fun _ => htest_resolved h hg hok, htest_unresolved h hg hok⟩
  · have hok : (w.md == 0 && fldOk .ctl .none (fldD w) && fldOk .ctl .handle (fldA w) && fldOk .ctl .none (fldB w)) = true := by simp [*]
    exact ⟨fun _ => hcancel_pending h hg hok, fun _ => hcancel_resolved h hg hok⟩
  · subst ho
    obtain ⟨rfl, rfl, hm⟩ | ⟨rfl, rfl, hm⟩ | ⟨rfl, rfl, hm⟩ := hi
    · exact ⟨range_empty h hg rfl (by simp [*]), range_joins h hg rfl (by simp [*])⟩
    · exact ⟨range_empty h hg rfl (by simp [*]), range_joins h hg rfl (by simp [*])⟩
    · exact ⟨range_empty h hg rfl (by simp [*]), range_joins h hg rfl (by simp [*])⟩

end Sys2Proof.Machine
end

section
/-! O37: rings. Issuing leaves every ring as it is, so an instruction takes from, or gives back to, the ring that stood before it. -/

namespace Sys2Proof.Machine

/-! ## Rings as an instruction issues -/

theorem afterCtl_pair (s : State) (t : Team) (now : Nat) (last : Tab Nat) :
    (s.afterCtl t now last).pair t.pair = { s.pair t.pair with lastCtl := last } :=
  tabGet_tabPut_same _ _ _ _

@[simp] theorem afterCtl_ring (s : State) (t : Team) (now : Nat) (last : Tab Nat) (k : Nat) :
    (s.afterCtl t now last).ring t.pair k = s.ring t.pair k := by
  unfold State.ring
  rw [afterCtl_pair]

theorem afterCtl_ringMine (s : State) (t : Team) (now : Nat) (last : Tab Nat) (e : Nat) (ra : Tab Nat) (k : Nat) :
    (s.afterCtl t now last).ringMine (t.retimed e ra) k = s.ringMine t k := by
  unfold State.ringMine
  rw [retimed_pair, afterCtl_ring]
  rfl

theorem afterCtl_ringBad (s : State) (t : Team) (now : Nat) (last : Tab Nat) (e : Nat) (ra : Tab Nat) (k v : Nat) :
    (s.afterCtl t now last).ringBad (t.retimed e ra) k v = s.ringBad t k v := by
  unfold State.ringBad State.extent
  rw [retimed_pair, afterCtl_ring, afterCtl_pair]
  rfl

@[simp] theorem afterIssue_ring (s : State) (f : Foc) (now : Nat) (rod : Rod) (k : Nat) :
    (s.afterIssue f now rod).ring f.t.pair k = s.ring f.t.pair k := by
  unfold State.ring State.afterIssue State.pair
  rw [State.putRod_pairs, tabGet_tabPut_same]
  rfl

/-- ILLEGAL_OPERAND is delivered: no owner is asked and nothing freezes. -/
theorem trapCtl_illegalOperand (s : State) (t : Team) (d : DWord) :
    s.trapCtl t { code := .illegalOperand, detail := d } = s.deliverCtl t { code := .illegalOperand, detail := d } :=
  trapCtl_plain rfl rfl (by simp)

/-! ## Slots handed out and given back -/

theorem Ring.take_empty {r : Ring} (h : r.fil = r.tak) : r.take = none := if_pos h

theorem Ring.take_filled {r : Ring} (h : r.fil ≠ r.tak) :
    r.take = some (r.tak.toNat % (r.nm1 + 1), (r.at (r.tak.toNat % (r.nm1 + 1))).amt - (r.at (r.tak.toNat % (r.nm1 + 1))).left, { r with tak := r.tak + 1 }) :=
  if_neg h

theorem Ring.free_held {r : Ring} {k : Nat} (h : r.held k = true) (hr : (r.at k).rls = false) :
    r.free k = some ((r.put k { r.at k with rls := true }).release 128) := by
  unfold Ring.free
  rw [h, hr]
  rfl

theorem Ring.free_unheld {r : Ring} {k : Nat} (h : r.held k = false) : r.free k = none := by
  unfold Ring.free
  rw [h]
  rfl

/-! ## The control stream -/

section
variable {s : State} {t : Team} {w : FWord} (h : CtlIssues s t) (hg : t.guard w.g w.gn)
include h hg

theorem ringinit_makes (hok : (plainMod w 32 && fldOk .ctl .none (fldD w) && fldOk .ctl .wide (fldA w) && fldOk .ctl .none (fldB w)) = true)
    (hb : s.ringBad t w.md.toNat (t.ctl.getS w.a.toNat).toNat = false) :
    CtlRuns (.ringinit w) s t (fun s u => (s.putRing t.pair w.md.toNat { Ring.zero with
      nm1 := (t.ctl.getS w.a.toNat).toNat % 2 ^ 6, slot := (t.ctl.getS w.a.toNat).toNat / 2 ^ 6 % 2 ^ 11,
      base := (t.ctl.getS w.a.toNat).toNat / 2 ^ 17 % 2 ^ 11, team := t.slot, v := true }).ctlDone u) := by
  refine ctl_acts h rfl rfl hok hg (fun now last e ra => ?_) (fun _ _ _ _ => h.whole)
  dsimp only
  rw [retimed_getS, afterCtl_ringBad, hb, if_neg Bool.false_ne_true]
  simp only [ringOf, bitsAt, Nat.shiftRight_eq_div_pow, pow_zero, Nat.div_one]
  rfl

section
variable (hok : (plainMod w 32 && fldOk .ctl .wide (fldD w) && fldOk .ctl .none (fldA w) && fldOk .ctl .none (fldB w)) = true)
include hok

theorem rwait_foreign (hm : s.ringMine t w.md.toNat = false) :
    CtlRuns (.rwait w) s t (fun s u => s.deliverCtl u { code := .illegalOperand, detail := hiOf (fToWord 0xBF w) }) := by
  refine ctl_acts h rfl rfl hok hg (fun now last e ra => ?_) (fun now last e ra => (deliverCtl_hole _ _ _).trans h.whole)
  rw [afterCtl_ringMine, hm]
  exact trapCtl_illegalOperand _ _ _

/-- RWAIT of a ring with no filled slot waits for one (R150). -/
theorem rwait_waits (hm : s.ringMine t w.md.toNat = true) (hf : (s.ring t.pair w.md.toNat).fil = (s.ring t.pair w.md.toNat).tak) :
    CtlRuns (.rwait w) s t (fun s u => s.ctlBlock u (.ring w.md.toNat)) := by
  refine ctl_acts h rfl rfl hok hg (fun now last e ra => ?_) (fun _ _ _ _ => h.whole)
  rw [afterCtl_ringMine, hm, retimed_pair, afterCtl_ring, Ring.take_empty hf]
  rfl

/-- RWAIT takes the oldest filled slot: its number, and the bytes that arrived in it (R150). -/
theorem rwait_takes {r : Ring} {k : Nat} (hr : r = s.ring t.pair w.md.toNat) (hm : s.ringMine t w.md.toNat = true)
    (hk : k = r.tak.toNat % (r.nm1 + 1)) (hf : r.fil ≠ r.tak) :
    CtlRuns (.rwait w) s t (fun s u => (s.putRing t.pair w.md.toNat { r with tak := r.tak + 1 }).ctlDone
      (u.withCtl (u.ctl.putS w.d.toNat (BitVec.ofNat 64 (k + 2 ^ 32 * ((r.at k).amt - (r.at k).left)))))) := by
  refine ctl_acts h rfl rfl hok hg (fun now last e ra => ?_) (fun _ _ _ _ => h.whole)
  rw [afterCtl_ringMine, hm, retimed_pair, afterCtl_ring, ← hr, Ring.take_filled hf, ← hk]
  rfl

end

section
variable (hok : (plainMod w 32 && fldOk .ctl .none (fldD w) && fldOk .ctl .reg (fldA w) && fldOk .ctl .none (fldB w)) = true)
  {r : Ring} {k : Nat} (hr : r = s.ring t.pair w.md.toNat) (hk : k = (t.ctl.getS w.a.toNat).toNat % 2 ^ 32) (hm : s.ringMine t w.md.toNat = true)
include hok hr hk hm

/-- RFREE marks a held slot free, and REL passes every freed slot in order (R150). -/
theorem rfree_frees (hh : r.held k = true) (hl : (r.at k).rls = false) :
    CtlRuns (.rfree w) s t (fun s u => (s.putRing t.pair w.md.toNat ((r.put k { r.at k with rls := true }).release 128)).ctlDone u) := by
  refine ctl_acts h rfl rfl hok hg (fun now last e ra => ?_) (fun _ _ _ _ => h.whole)
  dsimp only
  rw [afterCtl_ringMine, hm, retimed_pair, afterCtl_ring, ← hr, retimed_getS, ← hk, Ring.free_held hh hl]
  rfl

theorem rfree_unheld (hh : r.held k = false) :
    CtlRuns (.rfree w) s t (fun s u => s.deliverCtl u { code := .illegalOperand, detail := hiOf (fToWord 0xC0 w) }) := by
  refine ctl_acts h rfl rfl hok hg (fun now last e ra => ?_) (fun now last e ra => (deliverCtl_hole _ _ _).trans h.whole)
  dsimp only
  rw [afterCtl_ringMine, hm, retimed_pair, afterCtl_ring, ← hr, retimed_getS, ← hk, Ring.free_unheld hh]
  exact trapCtl_illegalOperand _ _ _

end
end

/-! ## The vector stream -/

section
variable {s : State} {f : Foc} {w : FWord} (h : VecIssues s f) (hm : s.ringMine f.t w.md.toNat = true)
  {r : Ring} (hr : r = s.ring f.t.pair w.md.toNat) {k : Nat}
include h hm hr

/-- RWAIT of a pass gives every thread of it the oldest filled slot and the bytes that arrived in it (R150, R339). -/
theorem rwaitVec_takes (hok : (plainMod w 32 && fldOk .vec .pair (fldD w) && fldOk .vec .none (fldA w) && fldOk .vec .none (fldB w)) = true)
    (ha : f.actives (f.pass w) ≠ []) (hc : Clear f (f.pass w) (vregsOf .pair (fldD w)) (vregsOf .pair (fldD w))) (hf : r.fil ≠ r.tak)
    (hk : k = r.tak.toNat % (r.nm1 + 1)) :
    VecRuns (.rwait w) s f (fun g => ((g.withState (g.s.putRing f.t.pair w.md.toNat { r with tak := r.tak + 1 })).withRank
      (g.r.writeAll f.x.age (f.pass w) .pair (fldD w) (fun _ => ⟨BitVec.ofNat 128 (k + 2 ^ 32 * ((r.at k).amt - (r.at k).left)), false⟩))).done) := by
  obtain rfl := focus_spec h.foc
  refine vec_runs (c := clsOnce) (rd := [guardKey w.g]) (wr := keysOf .pair (fldD w)) (act := f.pass w) (u := w.kd && guardP0 w) h rfl ?_
    (fun now rod => (done_hole _).trans h.whole)
  unfold rwaitVec
  dsimp only
  rw [admit_none hok hc]
  dsimp only
  rw [show f.members w.g.toNat w.gn = f.pass w from rfl, if_neg (by simpa using ha), hm, ← hr, Ring.take_filled hf, ← hk]
  rfl

/-- RFREE of a pass frees the slot that its lowest active thread names (R150, R339). -/
theorem rfreeVec_frees {p : Nat} {l : List Nat} {v : TCap}
    (hok : (plainMod w 32 && fldOk .vec .none (fldD w) && fldOk .vec .reg (fldA w) && fldOk .vec .none (fldB w)) = true)
    (hc : Clear f [p] (vregsOf .reg (fldA w)) (fullNeeds .reg (fldA w))) (hp : f.actives (f.pass w) = p :: l)
    (hv : readOpd f.r p .reg (fldA w) = .ok v) (hk : k = (lo32 v).toNat) (hh : r.held k = true) (hl : (r.at k).rls = false) :
    VecRuns (.rfree w) s f (fun g => (g.withState (g.s.putRing f.t.pair w.md.toNat ((r.put k { r.at k with rls := true }).release 128))).done) := by
  obtain rfl := focus_spec h.foc
  refine vec_runs (c := clsOnce) (rd := guardKey w.g :: keysOf .reg (fldA w)) (wr := []) (act := f.pass w) (u := false) h rfl ?_
    (fun now rod => (done_hole _).trans h.whole)
  unfold rfreeVec
  dsimp only
  rw [admit_none hok ⟨hc.allocated, by simp⟩]
  dsimp only
  rw [show f.members w.g.toNat w.gn = f.pass w from rfl, hp]
  dsimp only
  rw [emptyNeeds_nil hc.full, hm, hv]
  dsimp only
  rw [← hr, ← hk, Ring.free_held hh hl]
  rfl

end

/-! ## The obligation -/

/-- Settles O37: each instruction takes its ring as it stands, and leaves it as the rules of the ring say. -/
theorem ringsHandOutSlots : Obligations.RingsHandOutSlots := by
  unfold Obligations.RingsHandOutSlots
  refine ⟨fun s t w h hg hp => ⟨fun hd ha hb => ringinit_makes h hg (by simp [*]), fun hd ha hb => ?_, fun hd ha hb r k hr hk hm => ?_⟩,
    fun s f w r k h hp hne hm hr => ⟨fun hd ha hb hc hf hk => rwaitVec_takes h hm hr (by simp [*]) hne hc hf hk,
      fun p l v hd ha hb hc hact hv hk hh hl => rfreeVec_frees h hm hr (by simp [*]) hc hact hv hk hh hl⟩⟩
  · have hok : (plainMod w 32 && fldOk .ctl .wide (fldD w) && fldOk .ctl .none (fldA w) && fldOk .ctl .none (fldB w)) = true := by simp [*]
    exact ⟨rwait_foreign h hg hok, fun r k hr hm hk => ⟨fun hf => rwait_waits h hg hok hm (hr ▸ hf), rwait_takes h hg hok hr hm hk⟩⟩
  · have hok : (plainMod w 32 && fldOk .ctl .none (fldD w) && fldOk .ctl .reg (fldA w) && fldOk .ctl .none (fldB w)) = true := by simp [*]
    exact ⟨rfree_frees h hg hok hr hk hm, rfree_unheld h hg hok hr hk hm⟩

end Sys2Proof.Machine
end

section
/-! O35: copies at issue. The checks of R336 come one after the other, and a copy that passes them joins its engine. Reading the formats of its
sides may fill a TLB, and takes no identifier. -/

namespace Sys2Proof.Machine

/-! ## Translations take no identifier -/

theorem readDev_nextId (s : State) (pa len part : Nat) : (s.readDev pa len part).1.nextId = s.nextId := by
  have hreach : (s.reach pa len).nextId = s.nextId := by
    unfold State.reach
    split
    · rfl
    · split <;> rfl
  obtain ⟨a, b, c, d, ht⟩ := touchAll_eq (s.reach pa len) pa len part
  obtain ⟨a', b', c', d', hn⟩ := noteFilled_eq ((s.reach pa len).touchAll pa len part) pa len false
  obtain ⟨p, f, c'', hs⟩ := sectorsRead_eq (((s.reach pa len).touchAll pa len part).noteFilled pa len false) (pa / 256) (sectorCount pa len)
  have hid : ((((s.reach pa len).touchAll pa len part).noteFilled pa len false).sectorsRead (pa / 256) (sectorCount pa len)).1.nextId = s.nextId := by
    rw [hs, hn, ht]
    exact hreach
  unfold State.readDev
  dsimp only
  split <;> (rename_i heq; rw [heq] at hid; exact hid)

theorem walkFrom_nextId (s : State) (r : Region) (va : Nat) (l : List (Nat × Nat)) (n : Nat) : (s.walkFrom r va l n).1.nextId = s.nextId := by
  induction l generalizing s n with
  | nil => rfl
  | cons e l ih =>
    have hr := readDev_nextId s (tableBase r.psz n + 8 * bitsAt va e.1 e.2) 8 r.part
    unfold State.walkFrom
    dsimp only
    split
    · rename_i heq
      rw [heq] at hr
      exact hr
    · rename_i heq
      rw [heq] at hr
      split
      · exact hr
      · split
        · exact hr
        · exact (ih _ _).trans hr

theorem walk_nextId (s : State) (r : Region) (va : Nat) : (s.walk r va).1.nextId = s.nextId := walkFrom_nextId _ _ _ _ _

theorem tlbFill_nextId (s : State) (pair : Nat) (e : TlbEntry) : (s.tlbFill pair e).nextId = s.nextId := rfl

theorem tlbDrop_nextId (s : State) (pair ctx region page : Nat) : (s.tlbDrop pair ctx region page).nextId = s.nextId := rfl

theorem tlbRelock_nextId (s : State) (pair team ctx region page : Nat) (e : DWord) :
    (s.tlbRelock pair team ctx region page e).nextId = s.nextId := rfl

theorem walkFill_nextId (s : State) (q : Req) (r : Region) (va need : Nat) : (s.walkFill q r va need).1.nextId = s.nextId := by
  unfold State.walkFill
  dsimp only
  cases (State.walk _ _ _).2 <;> simp only [tlbFill_nextId, walk_nextId, tlbDrop_nextId]

theorem walkLocked_nextId (s : State) (q : Req) (r : Region) (va need : Nat) (e : TlbEntry) : (s.walkLocked q r va need e).1.nextId = s.nextId := by
  unfold State.walkLocked
  split
  · rfl
  · dsimp only
    split
    · rw [tlbRelock_nextId, walk_nextId]
    · exact walk_nextId _ _ _

theorem translate_nextId (s : State) (q : Req) (va need : Nat) : (s.translate q va need).1.nextId = s.nextId := by
  unfold State.translate
  dsimp only
  split
  · rfl
  · split
    · split
      · rfl
      · split
        · exact walkLocked_nextId _ _ _ _ _ _
        · rfl
    · split
      · exact walkFill_nextId _ _ _ _ _
      · generalize hx : (if s.invalidating _ _ _ = true then s.newFree else (0, s)) = x
        have hfree : x.2.nextId = s.nextId := by
          rw [← hx]
          split <;> rfl
        split
        · exact (walkFill_nextId _ _ _ _ _).trans hfree
        · split
          · exact (walkFill_nextId _ _ _ _ _).trans hfree
          · exact hfree

theorem sideFmt_nextId (s : State) (q : Req) (c : TCap) : (s.sideFmt q c).1.nextId = s.nextId := by
  have ht := translate_nextId s q (capCursor c) 0
  unfold State.sideFmt
  dsimp only
  split
  · split <;> (rename_i heq; rw [heq] at ht; exact ht)
  · split <;> rfl

theorem copyFormats_nextId (s : State) (o : EngOp) : (s.copyFormats o).1.nextId = s.nextId := by
  unfold State.copyFormats
  dsimp only
  split
  · exact sideFmt_nextId _ _ _
  · exact (sideFmt_nextId _ _ _).trans (sideFmt_nextId _ _ _)

/-! ## Copies at issue -/

/-- What a copy with legal words does once the formats of its sides are known: the checks of formats, shapes, handle and ranges, and its target
(R336). -/
def copyJudged (hi : DWord) (o : EngOp) (s : State) (t : Team) : State :=
  match copyFmtTrap o with
  | some tr => s.trapCtl t tr
  | none =>
    if !s.copyShapeOk o then s.trapCtl t { code := .illegalOperand, detail := hi }
    else if t.handle o.hnd ≠ .idle then badHandle o.hnd s t
    else if ownClash (o.registered.flatMap (o.entries t.slot)) then s.trapCtl t { code := .illegalOperand, detail := hi }
    else match s.checkSpans o with
      | some tr => s.trapCtl t tr
      | none =>
        match (if o.blocks then s.copyTarget o else (s, .ok 0)) with
        | (s, .error (.trap tr)) => s.trapCtl t tr
        | (s, .error (.block b)) => s.ctlBlock t b
        | (s, .ok d) => copyStart { o with target := d } s t

section
variable {kind : OpKind} {w : FWord} {s : State} {t : Team} {o : EngOp} (ho : o = copyOp kind w t) (hi : DWord)
include ho

/-- A copy whose descriptor breaks R333 is illegal. -/
theorem copyIssue_bad (hd : copyDescOk o = false) :
    copyIssue kind hi w s t = s.deliverCtl t { code := .illegalOperand, detail := hi } := by
  unfold copyIssue
  dsimp only
  rw [← ho, hd]
  exact trapCtl_illegalOperand _ _ _

/-- A copy of no units resolves its handle at once, with status 0 (R334, R336). -/
theorem copyIssue_empty (hd : copyDescOk o = true) (hn : o.nx = 0) (hh : t.handle o.hnd = .idle) :
    copyIssue kind hi w s t = s.ctlDone (t.holding o.hnd (.resolved ⟨false, false, 0, 0, 0⟩)) := by
  unfold copyIssue
  dsimp only
  rw [← ho, hd, if_neg (by simp), if_pos hn, if_neg (not_not.mpr hh)]
  rfl

theorem copyIssue_empty_held (hd : copyDescOk o = true) (hn : o.nx = 0) (hh : t.handle o.hnd ≠ .idle) :
    copyIssue kind hi w s t = s.deliverCtl t { code := .handleInvalid, detail := BitVec.ofNat 64 o.hnd } := by
  unfold copyIssue
  dsimp only
  rw [← ho, hd, if_neg (by simp), if_pos hn, if_pos hh]
  exact badHandle_eq _ _ _

/-- A copy to a ring that is not the team's is illegal (R150, log 27). -/
theorem copyIssue_foreign (hd : copyDescOk o = true) (hn : o.nx ≠ 0) (hr : o.ring = true) (hm : s.ringMine t o.rng = false) :
    copyIssue kind hi w s t = s.deliverCtl t { code := .illegalOperand, detail := hi } := by
  unfold copyIssue
  dsimp only
  rw [← ho, hd, if_neg (by simp), if_neg hn, if_pos (by simp [hr, hm])]
  exact trapCtl_illegalOperand _ _ _

/-- A copy whose words are legal is judged by the formats of its sides and the state that reading them leaves (R334, R336). -/
theorem copyIssue_formats (hd : copyDescOk o = true) (hn : o.nx ≠ 0) (hr : o.ring = true → s.ringMine t o.rng = true) :
    copyIssue kind hi w s t = copyJudged hi (s.copyFormats o).2 (s.copyFormats o).1 t := by
  unfold copyIssue State.copyFormats
  dsimp only
  rw [← ho, hd, if_neg (by simp), if_neg hn, if_neg (by simpa using hr)]
  cases o.ring <;> rfl

end

section
variable {hi : DWord} {s : State} {t : Team} {o : EngOp} (hf : copyFmtTrap o = none) (hs : s.copyShapeOk o = true)
include hf hs

/-- A copy whose formats and shapes go together needs an idle handle (R135, R336). -/
theorem copyJudged_held (hh : t.handle o.hnd ≠ .idle) :
    copyJudged hi o s t = s.deliverCtl t { code := .handleInvalid, detail := BitVec.ofNat 64 o.hnd } := by
  unfold copyJudged
  rw [hf, hs, if_pos hh]
  exact badHandle_eq _ _ _

/-- A copy of bytes that passes every check goes to its engine (R336). -/
theorem copyJudged_goes (hh : t.handle o.hnd = .idle) (hl : ownClash (o.lockList t.slot) = false) (hc : s.checkSpans o = none)
    (hb : o.blocks = false) (hz : o.target = 0) : copyJudged hi o s t = copyStart o s t := by
  have ho : { o with target := 0 } = o := by rw [← hz]
  unfold EngOp.lockList at hl
  unfold copyJudged
  rw [hf, hs, if_neg (not_not.mpr hh), hl, hc, hb]
  exact congrArg (copyStart · s t) ho

end

/-- A copy that finds a place in its engine and its range locks free joins the operations in flight (R127, R142, R336). -/
theorem copyStart_launches {o : EngOp} {s : State} {t : Team} (he : tabGet false s.engines o.unit = false) (hn : s.opsOn o.unit < 64)
    (hl : s.locksFree (o.lockList t.slot) = true) :
    copyStart o s t = (s.launchOp o t.slot).ctlDone (t.holding o.hnd (.pending s.nextId)) := by
  unfold EngOp.lockList at hl
  unfold copyStart
  dsimp only
  rw [he, if_neg Bool.false_ne_true, if_neg (by omega), hl]
  rfl

theorem launchOp_hole (s : State) (o : EngOp) (slot : Nat) : (s.launchOp o slot).hole = s.hole := by
  refine foldl_keeps State.hole (fun u e => ?_) _ ({ s with nextId := s.nextId + 1 } : State)
  dsimp only
  split <;> rfl

/-! ## Copies of the control stream -/

section
variable {i : Instr} {kind : OpKind} {op : BitVec 8} {s : State} {t : Team} {w : FWord} {o : EngOp} {a : Foc → State} (h : CtlIssues s t)
  (hg : t.guard w.g w.gn) (hex : exec i s = answer (byStream s a (copyCtl op kind w))) (hok : copyFields kind w = true) (ho : o = copyOp kind w t)
include h hg hex hok ho

theorem copyCtl_bad (hd : copyDescOk o = false) :
    CtlRuns i s t (fun s u => s.deliverCtl u { code := .illegalOperand, detail := hiOf (fToWord op w) }) :=
  ctl_acts h hex rfl hok hg (fun _ _ e ra => copyIssue_bad (t := t.retimed e ra) ho _ hd) (fun _ _ _ _ => (deliverCtl_hole _ _ _).trans h.whole)

theorem copyCtl_empty (hd : copyDescOk o = true) (hn : o.nx = 0) (hh : t.handle o.hnd = .idle) :
    CtlRuns i s t (fun s u => s.ctlDone (u.holding o.hnd (.resolved ⟨false, false, 0, 0, 0⟩))) :=
  ctl_acts h hex rfl hok hg (fun _ _ e ra => copyIssue_empty (t := t.retimed e ra) ho _ hd hn hh) (fun _ _ _ _ => h.whole)

theorem copyCtl_empty_held (hd : copyDescOk o = true) (hn : o.nx = 0) (hh : t.handle o.hnd ≠ .idle) :
    CtlRuns i s t (fun s u => s.deliverCtl u { code := .handleInvalid, detail := BitVec.ofNat 64 o.hnd }) :=
  ctl_acts h hex rfl hok hg (fun _ _ e ra => copyIssue_empty_held (t := t.retimed e ra) ho _ hd hn hh) (fun _ _ _ _ => (deliverCtl_hole _ _ _).trans h.whole)

theorem copyCtl_foreign (hd : copyDescOk o = true) (hn : o.nx ≠ 0) (hr : o.ring = true) (hm : s.ringMine t o.rng = false) :
    CtlRuns i s t (fun s u => s.deliverCtl u { code := .illegalOperand, detail := hiOf (fToWord op w) }) :=
  ctl_acts h hex rfl hok hg (fun _ _ e ra => copyIssue_foreign (t := t.retimed e ra) ho _ hd hn hr ((afterCtl_ringMine _ _ _ _ _ _ _).trans hm))
    (fun _ _ _ _ => (deliverCtl_hole _ _ _).trans h.whole)

theorem copyCtl_held (hd : copyDescOk o = true) (hn : o.nx ≠ 0) (hr : o.ring = true → s.ringMine t o.rng = true) (hh : t.handle o.hnd ≠ .idle)
    (hx : ∀ now last, ∀ x, x = (s.afterCtl t now last).copyFormats o → copyFmtTrap x.2 = none ∧ x.1.copyShapeOk x.2 = true ∧ x.1.hole = none) :
    CtlRuns i s t (fun s u => (s.copyFormats o).1.deliverCtl u { code := .handleInvalid, detail := BitVec.ofNat 64 o.hnd }) := by
  refine ctl_acts h hex rfl hok hg (fun now last e ra => ?_) (fun now last e ra => ?_)
  · obtain ⟨hf, hs, -⟩ := hx now last _ rfl
    rw [copyIssue_formats (t := t.retimed e ra) ho _ hd hn (fun hring => (afterCtl_ringMine _ _ _ _ _ _ _).trans (hr hring))]
    exact copyJudged_held hf hs hh
  · obtain ⟨-, -, hole⟩ := hx now last _ rfl
    rw [deliverCtl_hole, hole]

theorem copyCtl_launches (hd : copyDescOk o = true) (hn : o.nx ≠ 0) (hr : o.ring = true → s.ringMine t o.rng = true) (hh : t.handle o.hnd = .idle)
    (hb : o.blocks = false) (hx : CopyGoes s t o) :
    CtlRuns i s t (fun s u => ((s.copyFormats o).1.launchOp (s.copyFormats o).2 t.slot).ctlDone (u.holding o.hnd (.pending s.nextId))) := by
  refine ctl_acts h hex rfl hok hg (fun now last e ra => ?_) (fun now last e ra => ?_)
  · obtain ⟨hf, hs, hclash, hc, -, he, hops, hl⟩ := hx now last _ rfl
    have hz : ((s.afterCtl t now last).copyFormats o).2.target = 0 := by
      rw [ho]
      rfl
    rw [copyIssue_formats (t := t.retimed e ra) ho _ hd hn (fun hring => (afterCtl_ringMine _ _ _ _ _ _ _).trans (hr hring)),
      copyJudged_goes (t := t.retimed e ra) hf hs hh hclash hc hb hz,
      copyStart_launches (o := ((s.afterCtl t now last).copyFormats o).2) (t := t.retimed e ra) he hops hl, copyFormats_nextId]
    rfl
  · obtain ⟨-, -, -, -, hole, -⟩ := hx now last _ rfl
    rw [ctlDone_hole, launchOp_hole, hole]

end

/-! ## The vector stream -/

theorem issued_hole (f : Foc) : f.issued.s.hole = f.s.hole := by
  unfold Foc.issued
  split <;> rfl

/-- An instruction that the vector stream does not have (R207). -/
theorem notInVector {i : Instr} {op : BitVec 8} {w : FWord} {s : State} {f : Foc} {b : State → Team → State} (h : VecIssues s f)
    (hex : exec i s = answer (byStream s (notInVec op w) b)) : NotInVector i op w s f := by
  refine exec_next hex (byStream_vec h.foc _ _) ?_
  unfold Foc.trapIssue
  rw [trap_plain rfl rfl (by simp), deliver_hole, issued_hole, focus_spec h.foc, h.whole]

/-! ## The obligation -/

/-- Settles O35: the checks of R336 in their order, each with its own answer. -/
theorem copiesStart : Obligations.CopiesStart := by
  unfold Obligations.CopiesStart
  refine ⟨fun i kind op s t w o h hg hi hok ho => ?_, fun s f w h => ?_⟩
  · obtain ⟨a, hex⟩ : ∃ a, exec i s = answer (byStream s a (copyCtl op kind w)) := by
      obtain ⟨rfl, rfl, rfl⟩ | ⟨rfl, rfl, rfl⟩ | ⟨rfl, rfl, rfl⟩ := hi <;> exact ⟨_, rfl⟩
    exact ⟨copyCtl_bad h hg hex hok ho,
      fun hd hn => ⟨copyCtl_empty h hg hex hok ho hd hn, copyCtl_empty_held h hg hex hok ho hd hn⟩,
      copyCtl_foreign h hg hex hok ho, copyCtl_held h hg hex hok ho,
      fun hd hr hh hn hb hx => copyCtl_launches h hg hex hok ho hd hn hr hh hb hx⟩
  · exact ⟨notInVector h rfl, notInVector h rfl, notInVector h rfl, notInVector h rfl, notInVector h rfl, notInVector h rfl, notInVector h rfl,
      notInVector h rfl, notInVector h rfl, notInVector h rfl⟩

end Sys2Proof.Machine
end

section
/-! O38: the events of an engine operation. An event of an operation that is not there changes nothing; a plain piece within one scratchpad is a
read of a run of bytes, and then a write of them. -/

namespace Sys2Proof.Machine

/-! ## Events -/

theorem op_id {s : State} {id : Nat} {o : EngOp} (h : s.op id = some o) : o.id = id := by simpa using List.find?_some h

/-! Each event of an operation acts on the operation, when it is there. -/

theorem exec_engineOpStart (s : State) (id : Nat) : exec (.engineOpStart id) s =
    answer ((s.op id).elim s (fun o => if o.kind.isCopy then s.putOp { o with started := true } else s)) := by
  show execEngineOpStart id s = _
  unfold execEngineOpStart
  cases s.op id <;> rfl

theorem exec_engineWriteAck (s : State) (id n : Nat) : exec (.engineWriteAck id n) s =
    answer ((s.op id).elim s (fun o => if o.kind.isCopy then s.engRun id n (n + 1) else s)) := by
  show execEngineWriteAck id n s = _
  unfold execEngineWriteAck
  cases s.op id <;> rfl

theorem exec_ringSlotClaim (s : State) (id : Nat) : exec (.ringSlotClaim id) s = answer ((s.op id).elim s s.ringClaim) := by
  show execRingSlotClaim id s = _
  unfold execRingSlotClaim
  cases s.op id <;> rfl

theorem exec_handleResolve (s : State) (id : Nat) : exec (.handleResolve id) s = answer ((s.op id).elim s s.handleResolve) := by
  show execHandleResolve id s = _
  unfold execHandleResolve
  cases s.op id <;> rfl

/-- An event of an operation that is not there changes nothing. -/
theorem event_of_none {s : State} {id : Nat} {i : Instr} {g : EngOp → State} (hs : s.hole = none) (h : s.op id = none)
     (hex : exec i s = answer ((s.op id).elim s g)) : exec i s = .next s :=
  exec_next hex (by rw [h]; rfl) hs

/-- An event of an operation in flight is its meaning for that operation. -/
theorem event_of_some {s : State} {id : Nat} {i : Instr} {g : EngOp → State} {o : EngOp} {u : State} (ho : s.op id = some o)
    (hex : exec i s = answer ((s.op id).elim s g)) (hu : g o = u) (hh : u.hole = none) : exec i s = .next u :=
  exec_next hex (by rw [ho]; exact hu) hh

section
variable {s : State} {id : Nat} {o : EngOp} (hs : s.hole = none) (ho : s.op id = some o) (hk : o.kind.isCopy = true)
include ho hk

theorem writeAck_runs {n : Nat} (hh : (s.engRun id n (n + 1)).hole = none) : exec (.engineWriteAck id n) s = .next (s.engRun id n (n + 1)) :=
  event_of_some ho (exec_engineWriteAck s id n) (if_pos hk) hh

include hs

theorem opStart_starts : exec (.engineOpStart id) s = .next (s.putOp { o with started := true }) :=
  event_of_some ho (exec_engineOpStart s id) (if_pos hk) hs

/-- A copy's result waits until its last write was applied in an earlier tick (R105). -/
theorem resolve_early (hw : o.window = none) (hm : o.wmax ≠ 0) (ht : s.gt ≤ o.appliedAt) : exec (.handleResolve id) s = .next s := by
  refine event_of_some ho (exec_handleResolve s id) ?_ hs
  unfold State.handleResolve
  rw [hw, hk, if_neg (by simp), if_pos rfl, if_pos ⟨hm, ht⟩]

/-- A stopped copy gives its handles its result, and is over (R135, R136, R146). -/
theorem resolve_stopped {st : BitVec 8} (hw : o.window = none) (hst : o.status = some st) (ht : o.wmax = 0 ∨ o.appliedAt < s.gt) :
    exec (.handleResolve id) s = .next (s.resolveHandles id ⟨o.rtry, o.sparse, st, BitVec.ofNat 40 o.doneCount, o.wmax⟩) := by
  refine event_of_some ho (exec_handleResolve s id) ?_ hs
  unfold State.handleResolve
  rw [hw, hk, if_neg (by simp), if_pos rfl, if_neg (by omega), hst, op_id ho]
  unfold EngOp.result
  rw [hst]
  rfl

/-- A ring-target copy with more to write claims the next free slot, once every earlier operation on its ring has claimed its own (R149). -/
theorem ringSlotClaim_claims {r : Ring} {k n : Nat} (hr : r = s.ring o.pair o.rng) (hring : o.ring = true) (hv : r.v = true) (hst : o.status = none)
    (hc : o.cancel = false) (hmore : o.claimed.length * (256 * r.slot) < o.units * o.dstSize) (hfree : (r.clm - r.rel).toNat < r.nm1 + 1)
    (hfirst : ∀ p ∈ s.ops.takeWhile (fun p => p.id != o.id), (p.ring && p.pair == o.pair && p.rng == o.rng) = false)
    (hslot : k = r.clm.toNat % (r.nm1 + 1)) (hn : n = min (256 * r.slot) (o.units * o.dstSize - o.claimed.length * (256 * r.slot))) :
    exec (.ringSlotClaim id) s = .next ((s.putRing o.pair o.rng { r.put k ⟨n, n, false⟩ with clm := r.clm + 1 }).putOp
      { o with claimed := o.claimed ++ [k] }) := by
  have hearlier : (s.ops.takeWhile (fun p => p.id != o.id)).any (fun p => p.ring && p.kind.isCopy && p.pair == o.pair && p.rng == o.rng &&
      (decide (p.claimed.length * (256 * r.slot) < p.units * p.dstSize) && decide (p.status = none) && !p.cancel)) = false := by
    rw [List.any_eq_false]
    intro p hp
    have hother := hfirst p hp
    grind
  refine event_of_some ho (exec_ringSlotClaim s id) ?_ hs
  unfold State.ringClaim Ring.count Ring.bytes EngOp.bytes
  dsimp only
  rw [← hr, ← hslot, ← hn, hearlier, decide_eq_false (Nat.not_le_of_lt hfree)]
  exact if_neg (by simp [hring, hk, hv, hst, hc, hmore])

end

/-! ## Plain pieces -/

/-- A run of n plain bytes: it is read whole, and then written (R128). -/
def State.runPlain (s : State) (o : EngOp) (mix : Mix) (p : Spot) (n : Nat) : State × Except EngStop Moved :=
  match s.engRead o (capSpace o.src) 0 p.src n with
  | (s, .error e) => (s, .error e)
  | (s, .ok (bytes, t)) =>
    match s.engWrite o mix o.dstSpace 0 p.dst bytes with
    | (s, .error e) => (s, .error e)
    | (s, .ok v) => (s, .ok ⟨n, p.dst, t.and v, none⟩)

/-- A plain move that succeeds is a run of at least one byte and at most 256 (R128). -/
theorem movePlain_runs {s s' : State} {o : EngOp} {mix : Mix} {p : Spot} {limit : Nat} {m : Moved} (hl : 0 < limit) (hr : 0 < p.run)
    (h : s.movePlain o mix p limit = (s', .ok m)) : ∃ n, (0 < n ∧ n ≤ 256 ∧ n ≤ p.run) ∧ s.runPlain o mix p n = (s', .ok m) := by
  unfold State.movePlain at h
  dsimp only at h
  generalize hn : (if p.dst % 256 = 0 ∧ 256 ≤ p.run ∧ min (min p.run limit) (min (256 - p.src % 256) (256 - p.dst % 256)) < 256 ∧ 256 ≤ limit
    then 256 else min (min p.run limit) (min (256 - p.src % 256) (256 - p.dst % 256))) = n at h
  split at h
  · split at h
    · cases h
    · exact ⟨1, by omega, h⟩
  · split at h
    · cases h
    · exact ⟨1, by omega, h⟩
  · refine ⟨n, ?_, h⟩
    rw [← hn]
    split <;> omega

/-- A run that succeeds has read its bytes and written them. -/
theorem runPlain_ok {s s' : State} {o : EngOp} {mix : Mix} {p : Spot} {n : Nat} {m : Moved} (h : s.runPlain o mix p n = (s', .ok m)) :
    m.units = n ∧ ∃ s1 bytes t v, s.engRead o (capSpace o.src) 0 p.src n = (s1, .ok (bytes, t)) ∧
      s1.engWrite o mix o.dstSpace 0 p.dst bytes = (s', .ok v) := by
  unfold State.runPlain at h
  split at h
  · cases h
  · rename_i hread
    split at h
    · cases h
    · rename_i hwrite
      cases h
      exact ⟨rfl, _, _, _, _, hread, hwrite⟩

theorem sectorWait_free {s s' : State} {pair off len : Nat} {who : Who} {whole : Bool} (h : s.sectorWait pair off len who whole = (s', none)) :
    s' = s := by
  unfold State.sectorWait at h
  dsimp only at h
  split at h <;> cases h
  rfl

/-- A range of a pair's own scratchpad is one chunk, and none of its sectors waits (R71). -/
theorem engChunks_local {s s' : State} {o : EngOp} {want need addr len : Nat} {whole : Bool} {l : List Chunk} (hp : o.phys = false)
    (h : s.engChunks o 2 want need addr len whole = (s', .ok l)) : s' = s ∧ l = [⟨some (.pad o.pair (addr % 2 ^ 19)), len, 0⟩] := by
  unfold State.engChunks at h
  dsimp only at h
  rw [hp, if_neg Bool.false_ne_true, if_neg (by omega), if_neg (by omega)] at h
  split at h
  · cases h
  · split at h
    · cases h
    · split at h
      · cases h
      · rename_i hwait
        cases h
        exact ⟨sectorWait_free hwait, rfl⟩

/-- One chunk of a scratchpad, read. -/
theorem chunksRead_pad {s s' : State} {addr pair off len part : Nat} {bytes : List Byte} {r : Bool}
    (h : s.chunksRead addr [⟨some (.pad pair off), len, part⟩] = (s', .ok (bytes, r))) : s' = s ∧ bytes = memBytes (s.pair pair).pad off len := by
  unfold State.chunksRead State.chunkRead at h
  dsimp only at h
  by_cases hp : (s.pair pair).poisoned off len
  · rw [if_pos hp] at h
    cases h
  · rw [if_neg hp] at h
    cases h
    exact ⟨rfl, List.append_nil _⟩

/-- A read within a pair's own scratchpad gives its bytes as they stand, and changes nothing. -/
theorem engRead_local {s s' : State} {o : EngOp} {want addr len : Nat} {bytes : List Byte} {t : Touch} (hp : o.phys = false)
    (h : s.engRead o 2 want addr len = (s', .ok (bytes, t))) : s' = s ∧ bytes = memBytes (s.pair o.pair).pad (addr % 2 ^ 19) len := by
  unfold State.engRead at h
  split at h
  · cases h
  · rename_i hchunks
    obtain ⟨rfl, rfl⟩ := engChunks_local hp hchunks
    split at h
    · cases h
    · rename_i hread
      cases h
      exact chunksRead_pad hread

/-- A write of bytes to a scratchpad, once the accesses in flight that it overlaps have met it (R121). -/
theorem homePut_pad (s : State) (pair off part : Nat) (bytes : List Byte) :
    ∃ l n, (s.homePut (.pad pair off) part bytes).2 = ({ s with accesses := l, free := n } : State).putPair pair ((s.pair pair).write off bytes false) := by
  obtain ⟨l, n, ht⟩ := tear_eq s 0 (pieceAt (.pad pair off) bytes.length [] false false)
  refine ⟨l, n, ?_⟩
  unfold State.homePut
  rw [ht]
  rfl

/-- One chunk of settled units, written. -/
theorem chunksWrite_one (s : State) (addr : Nat) (h : Home) (part : Nat) (bytes : List Byte) :
    (s.chunksWrite (fun _ => false) addr [⟨some h, bytes.length, part⟩] bytes).2 = (s.homePut h part bytes).2 := by
  have hput : s.mixPut (fun _ => false) h part addr (bytes.take bytes.length) = s.homePut h part bytes := by
    rw [List.take_length]
    exact if_neg (by simp)
  unfold State.chunksWrite
  dsimp only
  rw [hput]
  rfl

/-- A write within a pair's own scratchpad leaves its bytes there, and neither the rest of the pad nor device memory changes. -/
theorem engWrite_local {s s' : State} {o : EngOp} {want addr : Nat} {bytes : List Byte} {v : Touch} (hp : o.phys = false)
    (h : s.engWrite o (fun _ => false) 2 want addr bytes = (s', .ok v)) :
    (∀ a, s'.padByte o.pair a = if addr % 2 ^ 19 ≤ a ∧ a < addr % 2 ^ 19 + bytes.length then bytes.getD (a - addr % 2 ^ 19) 0 else s.padByte o.pair a) ∧
      s'.mem = s.mem := by
  unfold State.engWrite at h
  split at h
  · cases h
  · rename_i hchunks
    obtain ⟨rfl, rfl⟩ := engChunks_local hp hchunks
    dsimp only at h
    rw [Prod.mk.injEq, chunksWrite_one] at h
    obtain ⟨l, n, hput⟩ := homePut_pad _ o.pair (addr % 2 ^ 19) 0 bytes
    rw [← h.1, hput]
    refine ⟨fun a => ?_, rfl⟩
    unfold State.padByte
    rw [pair_of_pairs rfl, write_pad, tabGet_memPut]

/-- A plain piece within one scratchpad leaves at the destination the bytes that the source held, and neither the rest of the pad nor device
memory changes (R128). -/
theorem runPlain_local {s s' : State} {o : EngOp} {p : Spot} {n : Nat} {m : Moved} (hp : o.phys = false) (hr : o.ring = false)
    (hsrc : capSpace o.src = 2) (hdst : capSpace o.dst = 2) (h : s.runPlain o (fun _ => false) p n = (s', .ok m)) :
    (∀ k < n, s'.padByte o.pair (p.dst % 2 ^ 19 + k) = s.padByte o.pair (p.src % 2 ^ 19 + k)) ∧
      (∀ a, (a < p.dst % 2 ^ 19 ∨ p.dst % 2 ^ 19 + n ≤ a) → s'.padByte o.pair a = s.padByte o.pair a) ∧ s'.mem = s.mem := by
  obtain ⟨-, s1, bytes, t, v, hread, hwrite⟩ := runPlain_ok h
  have hspace : o.dstSpace = 2 := by
    unfold EngOp.dstSpace
    rw [hr, hdst]
    rfl
  rw [hsrc] at hread
  rw [hspace] at hwrite
  obtain ⟨rfl, hbytes⟩ := engRead_local hp hread
  obtain ⟨hpad, hmem⟩ := engWrite_local hp hwrite
  have hlen : bytes.length = n := by rw [hbytes, length_memBytes]
  rw [hlen] at hpad
  refine ⟨fun k hk => ?_, fun a ha => ?_, hmem⟩
  · rw [hpad, if_pos (by omega), hbytes, Nat.add_sub_cancel_left, List.getD_eq_getElem?_getD, memBytes_getElem? _ _ hk]
    rfl
  · rw [hpad, if_neg (by omega)]

/-! ## The obligation -/

/-- Settles O38: each event is its meaning for the operation it names, and a plain piece is a run of bytes read and written. -/
theorem engineOperationsProceed : Obligations.EngineOperationsProceed := by
  unfold Obligations.EngineOperationsProceed
  refine ⟨fun s id hs => ⟨fun hn => ?_, fun o ho hk => ⟨opStart_starts hs ho hk, fun n hh => writeAck_runs ho hk hh, fun st hw hst => ?_, ?_⟩⟩,
    fun s s' o p limit m hp hr hsrc hdst hl hrun h => ?_⟩
  · exact ⟨event_of_none hs hn (exec_engineOpStart s id), fun n => event_of_none hs hn (exec_engineWriteAck s id n),
      event_of_none hs hn (exec_ringSlotClaim s id), event_of_none hs hn (exec_handleResolve s id)⟩
  · exact ⟨resolve_early hs ho hk hw, resolve_stopped hs ho hk hw hst⟩
  · intro r k n hr hring hv hst hc hmore hfree hfirst hslot hn
    exact ringSlotClaim_claims hs ho hk hr hring hv hst hc hmore hfree hfirst hslot hn
  · obtain ⟨n, ⟨hpos, hle, hlen⟩, hgo⟩ := movePlain_runs hl hrun h
    obtain ⟨rfl, -⟩ := runPlain_ok hgo
    exact ⟨hpos, hle, hlen, runPlain_local hp hr hsrc hdst hgo⟩

end Sys2Proof.Machine
end

section
/-! Passes of the vector stream, what several statements use: what issuing leaves, traps at issue, and guards that hold. -/

namespace Sys2Proof.Machine

@[simp] theorem issue_team (f : Foc) (c : Cls) (rd wr act : List Nat) (u : Bool) : (f.issue c rd wr act u).t = f.t := rfl
@[simp] theorem issue_rank (f : Foc) (c : Cls) (rd wr act : List Nat) (u : Bool) : (f.issue c rd wr act u).r = f.r := rfl
@[simp] theorem issue_split (f : Foc) (c : Cls) (rd wr act : List Nat) (u : Bool) : (f.issue c rd wr act u).x = f.x := rfl
@[simp] theorem issue_actives (f : Foc) (c : Cls) (rd wr act : List Nat) (u : Bool) (ps : List Nat) :
    (f.issue c rd wr act u).actives ps = f.actives ps := rfl

theorem trapIssue_hole {f : Foc} {ps : List Nat} {code : TrapCode} {d : DWord} (hviol : code.violation = false) (howner : ownerFirst code = false)
    (hbrk : code ≠ .brk) : (f.trapIssue ps code d).hole = f.s.hole := by
  unfold Foc.trapIssue
  rw [trap_plain hviol howner hbrk, deliver_hole, issued_hole]

/-- A pass that raises at issue a trap that neither freezes nor asks an owner (R207). -/
theorem traps_at_issue {i : Instr} {s : State} {f : Foc} {a : Foc → State} {b : State → Team → State} {ps : List Nat} {code : TrapCode} {d : DWord}
    (h : VecIssues s f) (hex : exec i s = answer (byStream s a b)) (ha : a f = f.trapIssue ps code d) (hviol : code.violation = false)
    (howner : ownerFirst code = false) (hbrk : code ≠ .brk) : exec i s = .next (f.trapIssue ps code d) := by
  refine exec_next hex ((byStream_vec h.foc a b).trans ha) ?_
  rw [trapIssue_hole hviol howner hbrk, focus_spec h.foc, h.whole]

/-- A control thread whose guard is p0 always acts. -/
theorem guardP0_guard {t : Team} {w : FWord} (hg : guardP0 w = true) : t.guard w.g w.gn := by
  obtain ⟨hz, hn⟩ : w.g = 0 ∧ w.gn = false := by simpa [guardP0] using hg
  simp [Team.guard, Ctl.pred, hz, hn]

end Sys2Proof.Machine
end

section
/-! O18: the convergence, the yield, the end of threads and the barriers. Each instruction with legal fields passes its checks and issues; what it
then does is said of its threads, its rod or its team's barrier. -/

namespace Sys2Proof.Machine

/-! ## The control stream -/

section
variable {s : State} {t : Team} {w : FWord} (h : CtlIssues s t) (hn : noOperands .ctl w = true)
include h hn

theorem joinCtl_runs (hm : plainMod w 1 = true) (hg : guardP0 w = true) : CtlRuns (.join w) s t State.ctlDone :=
  ctl_runs h rfl rfl (by simp [hm, hn, hg]) (fun _ _ _ _ => ite_self _) (fun _ _ _ _ => h.whole)

theorem yieldCtl_runs (hm : plainMod w 1 = true) (hg : guardP0 w = true) : CtlRuns (.yield w) s t State.ctlDone :=
  ctl_runs h rfl rfl (by simp [hm, hn, hg]) (fun _ _ _ _ => ite_self _) (fun _ _ _ _ => h.whole)

theorem exitCtl_runs (hm : plainMod w 1 = true) : CtlRuns (.exit w) s t (fun s u => if u.ctl.pred w.g.toNat = w.gn then s.ctlDone u
    else (s.putTeam (u.withCtl u.ctl.finish)).sweepBars t.uid) := by
  refine ctl_runs h rfl rfl (by simp [hm, hn]) (fun _ _ _ _ => rfl) (fun now last e ra => ?_)
  split
  · exact h.whole
  · exact (sweepBars_hole _ _).trans h.whole

/-- BAR of the control thread arrives at a phase that is not of vector threads alone, fixes E as 0 and waits (R245, R246). -/
theorem barCtl_runs (hm : plainMod w 16 = true) (hg : guardP0 w = true) (he : (t.bar (bitsAt w.md.toNat 0 4)).e ≠ some true) :
    CtlRuns (.bar w) s t (fun s u =>
      (s.ctlBlock (u.putBar (bitsAt w.md.toNat 0 4) ⟨(t.bar (bitsAt w.md.toNat 0 4)).arrived, true, some false⟩)
        (.bar (bitsAt w.md.toNat 0 4))).sweepBars t.uid) := by
  refine ctl_acts h rfl rfl (by simp [hm, hn, hg]) (guardP0_guard hg) (fun now last e ra => ?_)
    (fun now last e ra => (sweepBars_hole _ _).trans h.whole)
  exact if_neg he

end

/-! ## The vector stream -/

section
variable {s : State} {f : Foc} {w : FWord} (h : VecIssues s f) (hn : noOperands .vec w = true)
include h hn

omit h in
/-- The checks of a pass that names no register, with guard p0 and a legal modifier. -/
theorem plainSpec_permit {op : BitVec 8} {mods : Nat} (hm : plainMod w mods = true) (hg : guardP0 w = true) (ps : List Nat) :
    f.permit ps (plainSpec op w mods) = none :=
  admit_none (by simp [plainSpec, hm, hn, hg]) ⟨by simp [plainSpec], by simp [plainSpec]⟩

/-- JOIN of a split that has no record, or is away from its record's join address, goes on (R180, R242). -/
theorem joinVec_goes_on (hm : plainMod w 1 = true) (hg : guardP0 w = true)
    (hj : ∀ i c, f.x.record = some i → tabGet none f.r.recs i = some c → c.jpc ≠ f.x.pc) : VecRuns (.join w) s f Foc.done := by
  refine vec_runs (c := clsOnce) (rd := []) (wr := []) (act := f.members 0 false) (u := false) h rfl ?_
    (fun now rod => (done_hole _).trans h.whole)
  unfold joinVec
  dsimp only
  rw [plainSpec_permit hn hm hg]
  dsimp only
  split
  · rfl
  · rename_i i c hrec
    obtain ⟨j, hj', hc⟩ := Option.bind_eq_some_iff.mp hrec
    obtain ⟨d, hc, hd⟩ := Option.map_eq_some_iff.mp hc
    cases hd
    exact if_pos (hj i c hj' hc)

/-- YIELD goes on past its word, its rod chooses anew, and the splits that were ready are passed first (R181, R243). -/
theorem yieldVec_runs (hm : plainMod w 1 = true) (hg : guardP0 w = true) : VecRuns (.yield w) s f (fun g => (g.next.yieldTo f.others).close) := by
  refine vec_runs (c := clsOnce) (rd := []) (wr := []) (act := f.members 0 false) (u := false) h rfl ?_
    (fun now rod => (close_hole _).trans h.whole)
  unfold yieldVec
  dsimp only
  rw [plainSpec_permit hn hm hg]
  rfl

theorem exitVec_runs (hm : plainMod w 1 = true) : VecRuns (.exit w) s f (fun g => g.next.exitThreads (f.pass w)) := by
  refine vec_runs (c := clsOnce) (rd := [guardKey w.g]) (wr := []) (act := f.pass w) (u := false) h rfl ?_
    (fun now rod => (exitThreads_hole _ _).trans h.whole)
  unfold exitVec
  dsimp only
  rw [admit_none (by simp [hm, hn]) ⟨by simp, by simp⟩]
  rfl

section
variable (hm : plainMod w 32 = true) (hg : guardP0 w = true)
include hm hg

/-- BAR whose E agrees with its phase arrives for the active threads of its split and waits (R245, R246). -/
theorem barVec_arrives (he : (f.t.bar (bitsAt w.md.toNat 0 4)).e.getD (w.md.getLsbD 4) = w.md.getLsbD 4) :
    VecRuns (.bar w) s f (fun g => (((g.withTeam (g.t.putBar (bitsAt w.md.toNat 0 4) ((f.t.bar (bitsAt w.md.toNat 0 4)).arrive f.r.num
      (maskOf (f.actives (maskList f.x.mask))) (w.md.getLsbD 4)))).block (.bar (bitsAt w.md.toNat 0 4))).close).sweepBars f.t.uid) := by
  refine vec_runs (c := clsOnce) (rd := []) (wr := []) (act := f.members 0 false) (u := false) h rfl ?_ (fun now rod => ?_)
  · unfold barVec
    dsimp only
    rw [plainSpec_permit hn hm hg]
    dsimp only
    rw [if_neg (by simpa using he)]
    rfl
  · rw [sweepBars_hole, close_hole]
    exact h.whole

theorem barVec_disagrees (he : (f.t.bar (bitsAt w.md.toNat 0 4)).e.getD (w.md.getLsbD 4) ≠ w.md.getLsbD 4) :
    exec (.bar w) s = .next (f.trapIssue (f.members 0 false) .illegalOperand (hiOf (fToWord 0xA8 w))) := by
  refine traps_at_issue h rfl ?_ rfl rfl (by simp)
  unfold barVec
  dsimp only
  rw [plainSpec_permit hn hm hg]
  exact if_pos (by simpa using he)

end
end

/-! ## The obligation -/

/-- Settles O18: with legal fields each instruction passes its checks, and does its own part for the threads that execute it. -/
theorem joinYieldExitBarrier : Obligations.JoinYieldExitBarrier := by
  unfold Obligations.JoinYieldExitBarrier
  exact ⟨fun s t w h hn => ⟨fun hm hg => ⟨joinCtl_runs h hn hm hg, yieldCtl_runs h hn hm hg⟩, exitCtl_runs h hn, barCtl_runs h hn⟩,
    fun s f w h hn => ⟨joinVec_goes_on h hn, yieldVec_runs h hn, exitVec_runs h hn,
      fun hm hg => ⟨barVec_arrives h hn hm hg, barVec_disagrees h hn hm hg⟩⟩⟩

end Sys2Proof.Machine
end

section
/-! O2: the frame of the register instructions. A write to a rank reaches threads of a pass, and of each of them some registers and predicates;
all else stays. The writes that a pass makes are put together from the writes of its operands. -/

namespace Sys2Proof.Machine

/-! ## Threads of a rank -/

theorem listMod_eq_modify {α : Type} (f : α → α) (l : List α) (n : Nat) : listMod f l n = l.modify n f := by
  induction l generalizing n with
  | nil => rw [List.modify_nil]; rfl
  | cons a l ih =>
    cases n with
    | zero => rfl
    | succ n => exact congrArg (a :: ·) (ih n)

theorem modThread_length (r : Rank) (p : Nat) (f : Thread → Thread) : (r.modThread p f).threads.length = r.threads.length := by
  unfold Rank.modThread
  rw [listMod_eq_modify, List.length_modify]

theorem modThread_thread_ne (r : Rank) {p q : Nat} (f : Thread → Thread) (h : p ≠ q) : (r.modThread p f).thread q = r.thread q := by
  unfold Rank.modThread Rank.thread
  rw [listMod_eq_modify, List.getElem?_modify_ne f _ h]

theorem modThread_thread (r : Rank) {p : Nat} (f : Thread → Thread) (h : p < r.threads.length) : (r.modThread p f).thread p = f (r.thread p) := by
  unfold Rank.modThread Rank.thread
  rw [listMod_eq_modify, List.getElem?_modify_eq, List.getElem?_eq_getElem h]
  rfl

/-- A change to a position that a rank has no thread for changes nothing. -/
theorem modThread_absent (r : Rank) {p : Nat} (f : Thread → Thread) (h : r.threads.length ≤ p) : r.modThread p f = r := by
  unfold Rank.modThread
  rw [listMod_eq_modify, List.modify_eq_self h]

/-- What a change of a thread keeps of it, it keeps of every thread of the rank. -/
theorem modThread_keeps {β : Type} {g : Thread → β} {f : Thread → Thread} (h : ∀ t, g (f t) = g t) (r : Rank) (p q : Nat) :
    g ((r.modThread p f).thread q) = g (r.thread q) := by
  by_cases hq : p = q
  · subst hq
    by_cases hp : p < r.threads.length
    · rw [modThread_thread r f hp, h]
    · rw [modThread_absent r f (Nat.le_of_not_lt hp)]
  · rw [modThread_thread_ne r f hq]

theorem setPredBit_ne (m : BitVec 8) {n k : Nat} (b : Bool) (h : k ≠ n) : (setPredBit m n b).getLsbD k = m.getLsbD k := by
  have hbit : (1#8 <<< n).getLsbD k = false := by
    rw [BitVec.getLsbD_shiftLeft, BitVec.getLsbD_one]
    simp only [Bool.and_eq_false_iff, Bool.not_eq_false', decide_eq_true_eq, decide_eq_false_iff_not]
    omega
  unfold setPredBit
  split
  · rfl
  · split
    · rw [BitVec.getLsbD_or, hbit, Bool.or_false]
    · rw [BitVec.getLsbD_and, BitVec.getLsbD_not, hbit]
      by_cases hk : k < 8
      · simp [hk]
      · simp [BitVec.getLsbD_of_ge _ _ (Nat.le_of_not_lt hk)]

/-! ## What a write reaches -/

/-- What a write to a rank may reach: the threads of it, and of each of these its v registers and predicates, and the k registers of the rank. -/
structure Reach where
  threads : Nat → Prop
  vregs : Nat → Prop
  preds : Nat → Prop
  kregs : Nat → Prop

/-- A rank is what it was but for what a write reaches. -/
structure Rank.Within (c : Reach) (r r' : Rank) : Prop where
  vreg : ∀ p n, ¬ (c.threads p ∧ c.vregs n) → r'.vreg p n = r.vreg p n
  pred : ∀ p n, ¬ (c.threads p ∧ c.preds n) → r'.pred p n = r.pred p n
  vtag : ∀ p n, ¬ c.threads p → r'.vtag p n = r.vtag p n
  life : ∀ p, (r'.thread p).life = (r.thread p).life
  kreg : ∀ n, ¬ c.kregs n → r'.kreg n = r.kreg n
  ktag : (∀ n, ¬ c.kregs n) → ∀ n, r'.ktag n = r.ktag n
  splits : r'.splits = r.splits
  shares : r'.shares = r.shares
  top : r'.top = r.top
  width : r'.width = r.width
  length : r'.threads.length = r.threads.length

section
variable {c : Reach} {r : Rank}

theorem Rank.Within.refl (c : Reach) (r : Rank) : Rank.Within c r r :=
  ⟨fun _ _ _ => rfl, fun _ _ _ => rfl, fun _ _ _ => rfl, fun _ => rfl, fun _ _ => rfl, fun _ _ => rfl, rfl, rfl, rfl, rfl, rfl⟩

theorem Rank.Within.trans {r' r'' : Rank} (h : Rank.Within c r r') (h' : Rank.Within c r' r'') : Rank.Within c r r'' where
  vreg p n hn := (h'.vreg p n hn).trans (h.vreg p n hn)
  pred p n hn := (h'.pred p n hn).trans (h.pred p n hn)
  vtag p n hp := (h'.vtag p n hp).trans (h.vtag p n hp)
  life p := (h'.life p).trans (h.life p)
  kreg n hn := (h'.kreg n hn).trans (h.kreg n hn)
  ktag hk n := (h'.ktag hk n).trans (h.ktag hk n)
  splits := h'.splits.trans h.splits
  shares := h'.shares.trans h.shares
  top := h'.top.trans h.top
  width := h'.width.trans h.width
  length := h'.length.trans h.length

theorem Rank.Within.helper {r' : Rank} (h : Rank.Within c r r') (p : Nat) : r'.helper p = r.helper p := by
  unfold Rank.helper
  rw [h.life]

theorem foldl_within {α : Type} {f : Rank → α → Rank} {l : List α} (h : ∀ r, ∀ a ∈ l, Rank.Within c r (f r a)) (r : Rank) :
    Rank.Within c r (l.foldl f r) := by
  induction l generalizing r with
  | nil => exact .refl c r
  | cons a l ih => exact (h r a (by simp)).trans (ih (fun r b hb => h r b (by simp [hb])) (f r a))

/-- A change of a thread within a reach: it keeps the registers and predicates outside, and the thread's life. -/
theorem modThread_within {p : Nat} {f : Thread → Thread} (hp : c.threads p) (hl : ∀ t, (f t).life = t.life)
    (hv : ∀ n, ¬ c.vregs n → ∀ t, tabGet VReg.zero (f t).regs n = tabGet VReg.zero t.regs n)
    (hq : ∀ n, ¬ c.preds n → ∀ t, (f t).preds.getLsbD n = t.preds.getLsbD n) (r : Rank) : Rank.Within c r (r.modThread p f) where
  vreg q n hn := by
    by_cases hqp : p = q
    · subst hqp
      exact modThread_keeps (g := fun t => tabGet VReg.zero t.regs n) (hv n (fun h => hn ⟨hp, h⟩)) r p p
    · unfold Rank.vreg
      rw [modThread_thread_ne r f hqp]
  pred q n hn := by
    unfold Rank.pred
    by_cases hqp : p = q
    · subst hqp
      rw [modThread_keeps (g := fun t => t.preds.getLsbD n) (hq n (fun h => hn ⟨hp, h⟩)) r p p]
    · rw [modThread_thread_ne r f hqp]
  vtag q n hn := by
    unfold Rank.vtag
    rw [modThread_thread_ne r f (fun h : p = q => hn (h ▸ hp))]
  life q := modThread_keeps (g := Thread.life) hl r p q
  kreg _ _ := rfl
  ktag _ _ := rfl
  splits := rfl
  shares := rfl
  top := rfl
  width := rfl
  length := modThread_length r p f

theorem putVreg_within {p n : Nat} (hp : c.threads p) (hn : c.vregs n) (r : Rank) (v : VReg) : Rank.Within c r (r.putVreg p n v) := by
  refine modThread_within hp ?_ (fun m hm t => ?_) ?_ r
  · exact fun _ => rfl
  · rw [tabGet_tabPut, if_neg (fun h : m = n => hm (h ▸ hn))]
  · exact fun _ _ _ => rfl

theorem putVtag_within {p : Nat} (hp : c.threads p) (r : Rank) (n : Nat) (b : Bool) : Rank.Within c r (r.putVtag p n b) := by
  refine modThread_within hp ?_ ?_ ?_ r
  · exact fun _ => rfl
  · exact fun _ _ _ => rfl
  · exact fun _ _ _ => rfl

theorem putPred_within {p n : Nat} (hp : c.threads p) (hn : c.preds n) (r : Rank) (b : Bool) : Rank.Within c r (r.putPred p n b) := by
  refine modThread_within hp ?_ ?_ (fun m hm t => ?_) r
  · exact fun _ => rfl
  · exact fun _ _ _ => rfl
  · exact setPredBit_ne t.preds b (fun h => hm (h ▸ hn))

theorem emptyV_within {p n : Nat} (hp : c.threads p) (hn : c.vregs n) (r : Rank) : Rank.Within c r (r.emptyV p n) := putVreg_within hp hn r _

theorem writeV_within {p n : Nat} (hp : c.threads p) (hn : c.vregs n) (r : Rank) (v : Word) : Rank.Within c r (r.writeV p n v) :=
  (putVreg_within hp hn r _).trans (putVtag_within hp _ n false)

/-- A change of k registers and their TAGs within a reach. -/
theorem kregs_within {k : Tab KReg} {ktags : Tab Bool} {m : Nat} (hm : c.kregs m)
    (hk : ∀ n, ¬ c.kregs n → tabGet KReg.zero k n = r.kreg n) : Rank.Within c r { r with k := k, ktags := ktags } where
  vreg _ _ _ := rfl
  pred _ _ _ := rfl
  vtag _ _ _ := rfl
  life _ := rfl
  kreg := hk
  ktag h := absurd hm (h m)
  splits := rfl
  shares := rfl
  top := rfl
  width := rfl
  length := rfl

theorem writeK_within {n : Nat} (hn : c.kregs n) (r : Rank) (age : Nat) (v : Word) : Rank.Within c r (r.writeK age n v) :=
  kregs_within hn (fun _ hm => writeK_ne r age n _ v (fun h => hm (h ▸ hn)))

theorem ite_within {b : Bool} {r₁ r₂ : Rank} (h₁ : b = true → Rank.Within c r r₁) (h₂ : b = false → Rank.Within c r r₂) :
    Rank.Within c r (if b then r₁ else r₂) := by
  cases b with
  | true => exact h₁ rfl
  | false => exact h₂ rfl

theorem capWords_index {v : TCap} {e : Word × Nat} (h : e ∈ (capWords v).zipIdx) : e.2 < 4 := List.snd_lt_of_mem_zipIdx h

/-- A write of an operand reaches the registers or the predicate it names, of the thread that writes. -/
theorem writeOpd_within {p : Nat} {o : Opd} {d : Fld} (hp : c.threads p) (hv : d.k = false → ∀ i < o.count, c.vregs (d.n + i))
    (hk : d.k = true → ∀ i < o.count, c.kregs (d.n + i)) (hq : o = .pred → c.preds d.n) (r : Rank) (age : Nat) (v : TCap) :
    Rank.Within c r (writeOpd r age p o d v) := by
  cases o with
  | none | run _ | num _ | flag | queue | handle | tile | spair => exact .refl c r
  | pred => exact putPred_within hp (hq rfl) r _
  | reg | wide => exact ite_within (fun hd => writeK_within (hk hd 0 (by decide)) r age _) (fun hd => writeV_within hp (hv hd 0 (by decide)) r _)
  | pair =>
    exact ite_within (fun hd => (writeK_within (hk hd 0 (by decide)) r age _).trans (writeK_within (hk hd 1 (by decide)) _ age _))
      (fun hd => (writeV_within hp (hv hd 0 (by decide)) r _).trans (writeV_within hp (hv hd 1 (by decide)) _ _))
  | span =>
    exact foldl_within (fun r e he => ite_within (fun hd => writeK_within (hk hd e.2 (capWords_index he)) r age e.1)
      (fun hd => writeV_within hp (hv hd e.2 (capWords_index he)) r e.1)) r
  | quad =>
    refine ite_within (fun hd => ?_) (fun hd => ?_)
    · have hwords := foldl_within (fun r (e : Word × Nat) he => writeK_within (hk hd e.2 (capWords_index (v := v) he)) r age e.1) r
      exact hwords.trans (kregs_within (hk hd 0 (by decide)) (fun _ _ => rfl))
    · have hwords := foldl_within (fun r (e : Word × Nat) he => writeV_within hp (hv hd e.2 (capWords_index (v := v) he)) r e.1) r
      exact hwords.trans (putVtag_within hp _ d.n v.tag)

end

/-! ## Register instructions -/

theorem iaddcOp_pred (m : Nat) (x : Src) : (specIaddc.op m x).toOption.all (fun r => r.p.all (fun e => e.1 == specIaddc.predOut m)) = true := by
  show (bitsAt m 0 3 == bitsAt m 0 3) = true
  simp

theorem dotOp_pred (four : Bool) (m : Nat) (x : Src) : (dotOp four m x).toOption.all (fun r => r.p.all (fun e => e.1 == 0)) = true := by
  unfold dotOp
  dsimp only
  split <;> rfl

/-- The only predicate that a register instruction's operation writes beside its destination is the one its description names. -/
theorem op_pred {i : Instr} {sp : AluSpec} {w : FWord} {y : Option XWord} (h : aluOf i = some (sp, w, y)) (m : Nat) (x : Src) :
    (sp.op m x).toOption.all (fun r => r.p.all (fun e => e.1 == sp.predOut m)) = true := by
  cases i with
  | iaddc w => cases h; exact iaddcOp_pred m x
  | cderive w =>
    cases h
    show (Except.toOption (match capDerive _ _ _ _ _ with | .error t => .error t | .ok c => okC c)).all _ = true
    split <;> rfl
  | cstep w => cases h; split <;> rfl
  | cprobe w => cases h; split <;> rfl
  | cvtw w =>
    cases h
    show (cvtwOp m x).toOption.all _ = true
    unfold cvtwOp
    dsimp only
    split <;> rfl
  | cvtn w =>
    cases h
    show (cvtnOp m x).toOption.all _ = true
    unfold cvtnOp
    dsimp only
    split
    · rfl
    · split <;> rfl
  | dot4 w => cases h; exact dotOp_pred false m x
  | dot8 w => cases h; exact dotOp_pred true m x
  | _ => cases h <;> rfl

/-- What a pass of a register instruction reaches: the destinations of its threads (R256, R260). -/
def aluReach (sp : AluSpec) (w : FWord) (ps : List Nat) : Reach where
  threads p := p ∈ ps
  vregs n := n ∈ vregsOf (sp.d (modOf sp w)) (fldD w)
  preds n := (sp.d (modOf sp w) = .pred ∧ n = w.d.toNat) ∨ n = sp.predOut (modOf sp w)
  kregs n := w.kd = true ∧ w.d.toNat ≤ n ∧ n < w.d.toNat + (sp.d (modOf sp w)).count

section
variable {sp : AluSpec} {w : FWord} {ps : List Nat} {p : Nat}

theorem writeD_within (hp : p ∈ ps) (r : Rank) (age : Nat) (v : TCap) :
    Rank.Within (aluReach sp w ps) r (writeOpd r age p (sp.d (modOf sp w)) (fldD w) v) := by
  refine writeOpd_within hp (fun hk i hi => ?_) (fun hk i hi => ?_) (fun ho => Or.inl ⟨ho, rfl⟩) r age v
  · show (fldD w).n + i ∈ vregsOf _ _
    unfold vregsOf
    rw [hk, if_neg Bool.false_ne_true]
    exact List.mem_map.mpr ⟨i, List.mem_range.mpr hi, rfl⟩
  · exact ⟨hk, Nat.le_add_right _ _, Nat.add_lt_add_left hi _⟩

/-- A thread of a register instruction reaches its destination and the predicate its operation writes (R260). -/
theorem aluLane_within {x : Option XWord} {age : Nat} {r r' : Rank}
    (hop : ∀ x, (sp.op (modOf sp w) x).toOption.all (fun r => r.p.all (fun e => e.1 == sp.predOut (modOf sp w))) = true) (hp : p ∈ ps)
    (h : aluLane sp w x age r p = .ok r') : Rank.Within (aluReach sp w ps) r r' := by
  unfold aluLane at h
  split at h
  case h_1 a b c d _ _ _ _ =>
    have hres := hop ⟨a, b, c, d, fun n => r.pred p n⟩
    split at h
    · cases h
    · rename_i res hok
      rw [hok] at hres
      cases h
      refine (writeD_within hp r age res.val).trans ?_
      obtain ⟨val, pred⟩ := res
      cases pred with
      | none => exact .refl _ _
      | some e => exact putPred_within hp (Or.inr (beq_iff_eq.mp hres)) _ e.2
  all_goals cases h

/-- A pass of a register instruction reaches the destinations of its threads. -/
theorem aluRun_within {x : Option XWord} {age : Nat} {l : List Nat} {r r' : Rank}
    (hop : ∀ x, (sp.op (modOf sp w) x).toOption.all (fun r => r.p.all (fun e => e.1 == sp.predOut (modOf sp w))) = true) (hl : ∀ p ∈ l, p ∈ ps)
    (h : aluRun sp w x age l r = some r') : Rank.Within (aluReach sp w ps) r r' := by
  induction l generalizing r with
  | nil => cases h; exact .refl _ _
  | cons p l ih =>
    have hrest {q : Rank} := ih (r := q) (fun q hq => hl q (by simp [hq]))
    unfold aluRun at h
    split at h
    · rename_i r₁ hlane
      exact (aluLane_within hop (hl p (by simp)) hlane).trans (hrest h)
    · split at h
      · exact (writeD_within (hl p (by simp)) r age _).trans (hrest h)
      · cases h

end

/-! ## The obligation -/

/-- Settles O2: a pass reaches no more than its destinations, so that all else stays. -/
theorem aluFrame : Obligations.AluFrame := by
  unfold Obligations.AluFrame
  intro i sp w x age ps r r' hi _ hrun
  have hw : Rank.Within (aluReach sp w ps) r r' := aluRun_within (op_pred hi _) (fun _ hp => hp) hrun
  refine ⟨fun p n hp => ⟨hw.vreg p n (fun h => hp h.1), hw.pred p n (fun h => hp h.1), hw.vtag p n hp⟩, fun p n hn => hw.vreg p n (fun h => hn h.2),
    fun p n hd hn => hw.pred p n (fun h => ?_), fun p n _ hn hout => hw.pred p n (fun h => ?_), fun n hk => ?_, fun n hk hn => hw.kreg n (fun h => ?_),
    hw.splits, hw.shares, hw.top, hw.width, hw.length⟩
  · exact h.2.elim (fun h => hd h.1) hn
  · exact h.2.elim (fun h => hn h.2) hout
  · have hnone : ∀ m, ¬ (aluReach sp w ps).kregs m := fun m h => Bool.false_ne_true (hk.symm.trans h.1)
    exact ⟨hw.kreg n (hnone n), hw.ktag hnone n⟩
  · obtain ⟨-, hlo, hhi⟩ := h
    omega

end Sys2Proof.Machine
end

section
/-! O16: BRA of the vector stream. The walk of its pass gives each thread one of two places, and a split among at most two places goes on whole or
divides in two. -/

namespace Sys2Proof.Machine

/-! ## The walk -/

/-- A change that leaves the thread at its position as it is leaves the rank. -/
theorem modThread_fixed {r : Rank} {p : Nat} {g : Thread → Thread} (h : g (r.thread p) = r.thread p) : r.modThread p g = r := by
  suffices hl : listMod g r.threads p = r.threads by rw [Rank.modThread, hl]
  rw [listMod_eq_modify]
  refine List.ext_getElem? fun q => ?_
  by_cases hq : p = q
  · subst hq
    rw [List.getElem?_modify_eq]
    cases ht : r.threads[p]? with
    | none => rfl
    | some th => simpa [Rank.thread, ht] using h
  · rw [List.getElem?_modify_ne g _ hq]

/-- BRA of a split as a branch: one target, which is not checked, and no return stack (R239). -/
def braSpec (w : BrWord) (pc : BitVec 48) : BrSpec where
  div := w.div
  join := if w.jn = 0 then none else some (wordsAway pc w.jn)
  target _ _ := .ok (wordsAway pc w.tgt)
  check := false
  push := false
  pop := false

theorem brThread_bra (w : BrWord) (pc : BitVec 48) (f : Foc) (p : Nat) : brThread (braSpec w pc) f p = .ok (f.r, wordsAway pc w.tgt) :=
  congrArg (fun r => Except.ok (r, wordsAway pc w.tgt)) (modThread_fixed rfl)

/-- A focus whose pass has given some threads their places. -/
def Foc.giving (f : Foc) (l : List (Nat × BitVec 48)) : Foc := { f with x := { f.x with given := f.x.given ++ l } }

theorem giving_giving (f : Foc) (l l' : List (Nat × BitVec 48)) : (f.giving l).giving l' = f.giving (l ++ l') := by
  simp [Foc.giving, List.append_assoc]

/-- BRA gives every thread of its pass a place: the target, or what follows the word (R239). -/
theorem brWalk_bra (w : BrWord) (pc : BitVec 48) (taken : Nat → Bool) (ps : List Nat) (f : Foc) :
    brWalk (braSpec w pc) taken ps f = (f.giving (ps.map (fun p => (p, if taken p then wordsAway pc w.tgt else f.x.pc + 8))), none) := by
  induction ps generalizing f with
  | nil => simp [brWalk, Foc.giving]
  | cons p ps ih =>
    have hgive : ∀ at_, brWalk (braSpec w pc) taken ps (f.giving [(p, at_)]) =
        (f.giving ((p, at_) :: ps.map (fun p => (p, if taken p then wordsAway pc w.tgt else f.x.pc + 8))), none) := fun at_ => by
      rw [ih, giving_giving]
      rfl
    rw [brWalk]
    cases ht : taken p with
    | false => simpa [ht, Foc.giving] using hgive (f.x.pc + 8)
    | true => simpa [ht, Foc.giving, brThread_bra] using hgive (wordsAway pc w.tgt)

/-! ## The places -/

theorem groupByPc_one (pc : BitVec 48) (p : Nat) (ps : List Nat) : groupByPc ((p :: ps).map (fun p => (p, pc))) = [(pc, p :: ps)] := by
  induction ps generalizing p with
  | nil => rfl
  | cons q ps ih =>
    rw [List.map_cons, groupByPc, ih]
    simp

/-- The places of a pass whose threads take one target or fall through (R239, R240). -/
theorem brPlaces_two {next tgt : BitVec 48} {fall taken : Nat → Bool} {ps : List Nat} (hf : ∀ p ∈ ps, fall p = !taken p) :
    brPlaces next fall (ps.map (fun p => (p, if taken p then tgt else next))) =
      (if ps.filter (fun p => !taken p) = [] then [] else [(next, ps.filter (fun p => !taken p))]) ++
      (if ps.filter taken = [] then [] else [(tgt, ps.filter taken)]) := by
  have hdown : ((ps.map (fun p => (p, if taken p then tgt else next))).filter (fun e => fall e.1)).map (fun e => e.1) =
      ps.filter (fun p => !taken p) := by
    rw [List.filter_map, List.map_map]
    exact (List.map_id _).trans (List.filter_congr hf)
  have hup : (ps.map (fun p => (p, if taken p then tgt else next))).filter (fun e => !fall e.1) = (ps.filter taken).map (fun p => (p, tgt)) := by
    rw [List.filter_map, List.filter_congr (q := taken) (fun p hp => by simp [hf p hp])]
    exact List.map_congr_left (fun p hp => by simp [(List.mem_filter.mp hp).2])
  unfold brPlaces
  dsimp only
  rw [hdown, hup]
  have hgroup : (groupByPc ((ps.filter taken).map (fun p => (p, tgt)))).foldr insertPlace [] =
      if ps.filter taken = [] then [] else [(tgt, ps.filter taken)] := by
    cases hup : ps.filter taken with
    | nil => rfl
    | cons p l => rw [groupByPc_one]; rfl
  rw [hgroup]
  by_cases hd : ps.filter (fun p => !taken p) = [] <;> simp [hd]

/-- How many distinct entries a list of equal ones has. -/
theorem eraseDups_const {α β : Type} [BEq β] [LawfulBEq β] (b : β) (l : List α) :
    (l.map (fun _ => b)).eraseDups.length = if l = [] then 0 else 1 := by
  cases l with
  | nil => rfl
  | cons a l =>
    have : (l.map (fun _ => b)).filter (fun c => !c == b) = [] := by simp
    rw [List.map_cons, List.eraseDups_cons, this]
    rfl

/-! ## The pass -/

/-- How many places BRA sends the threads of its pass to (R179). -/
def Foc.braDests (f : Foc) (w : BrWord) : Nat :=
  (if f.takers w.g w.gn = [] then 0 else 1) + (if f.fallers w.g w.gn = [] then 0 else 1)

/-- The places that BRA sends the threads of its pass to (R240). -/
def Foc.braPlaces (f : Foc) (w : BrWord) : List (BitVec 48 × List Nat) :=
  (if f.fallers w.g w.gn = [] then [] else [(f.x.pc + 8, f.fallers w.g w.gn)]) ++
  (if f.takers w.g w.gn = [] then [] else [(wordsAway f.x.pc w.tgt, f.takers w.g w.gn)])

/-- The place that BRA gives each thread of its pass. -/
def Foc.braGiven (f : Foc) (w : BrWord) : List (Nat × BitVec 48) :=
  (f.members 0 false).map (fun p => (p, if f.r.pred p w.g.toNat != w.gn then wordsAway f.x.pc w.tgt else f.x.pc + 8))

/-- How a split of several places comes together again: nowhere when it has one place (R179). -/
def Foc.braJoin (f : Foc) (w : BrWord) : Option (BitVec 48) := if 1 < f.braDests w then (braSpec w f.x.pc).join else none

/-- What a pass has given does not change how its split divides. -/
theorem divide_giving (f : Foc) (l : List (Nat × BitVec 48)) {places : List (BitVec 48 × List Nat)} (h : places ≠ []) (join : Option (BitVec 48)) :
    (f.giving l).divide places join = f.divide places join := by
  match places, h with
  | [a], _ => rfl
  | a :: b :: rest, _ =>
    cases join with
    | none => rfl
    | some j =>
      unfold Foc.divide
      dsimp only [Foc.giving]
      cases f.r.freeRec <;> rfl

section
variable {s : State} {f : Foc} {w : BrWord}

theorem brPlaces_bra {fall : Nat → Bool} (hf : ∀ p ∈ f.members 0 false, fall p = !(f.r.pred p w.g.toNat != w.gn)) :
    brPlaces (f.x.pc + 8) fall (f.braGiven w) = f.braPlaces w :=
  brPlaces_two hf

theorem braSpec_dests : ((f.takers w.g w.gn).map (fun _ => wordsAway f.x.pc w.tgt)).eraseDups.length +
    (if (f.members 0 false).all (fun p => f.r.pred p w.g.toNat != w.gn) then 0 else 1) = f.braDests w := by
  have hall : (f.members 0 false).all (fun p => f.r.pred p w.g.toNat != w.gn) = true ↔ f.fallers w.g w.gn = [] := by
    simp [Foc.fallers, List.filter_eq_nil_iff]
  simp only [eraseDups_const, Foc.braDests, hall]

/-- BRA traps at issue, or its split divides among its places (R179, R239). -/
theorem braVec_cases (hgiven : f.x.given = []) (hne : f.braPlaces w ≠ []) : ∃ z, braVec 0xA0 false w f =
      (if 1 < f.braDests w && !w.div then f.trapIssue (f.members 0 false) .illegalOperand ((f.x.pc.extractLsb' 0 32).setWidth 64)
      else if 1 < f.braDests w && (braSpec w f.x.pc).join.isSome && f.r.freeRec.isNone then
        f.trapIssue (f.members 0 false) .convOverflow ((f.x.pc.extractLsb' 0 32).setWidth 64)
      else z) ∧
    ∀ g, (f.issue clsRedirect [guardKey w.g] [] (f.members 0 false) false).divide (f.braPlaces w) (f.braJoin w) = some g → z = g.close := by
  unfold braVec branchVec
  dsimp only
  rw [permitFor_none rfl ⟨by simp, by simp⟩]
  dsimp only
  rw [List.filterMap_eq_map', show (f.members 0 false).filter _ = f.takers w.g w.gn from rfl, braSpec_dests]
  refine ⟨_, rfl, fun g hg => ?_⟩
  have hdiv := (divide_giving (f.issue clsRedirect [guardKey w.g] [] (f.members 0 false) false) (f.braGiven w) hne (f.braJoin w)).trans hg
  rw [show ({ div := _, join := _, target := _, check := _, push := _, pop := _ } : BrSpec) = braSpec w f.x.pc from rfl, brWalk_bra]
  change (match Foc.divide _ (brPlaces (f.x.pc + 8) _ (f.x.given ++ f.braGiven w)) (f.braJoin w) with | some f => f.close | none => _) = g.close
  rw [hgiven, List.nil_append, brPlaces_bra (fun p hp => if_pos (by simpa using hp))]
  change (match Foc.divide (Foc.giving _ (f.braGiven w)) _ _ with | some f => f.close | none => _) = g.close
  rw [hdiv]

/-- BRA whose split keeps one place, or may divide, leaves its split divided. -/
theorem braVec_runs {k : Foc → Foc} (h : VecIssues s f) (hgiven : f.x.given = []) (hne : f.braPlaces w ≠ [])
    (hdiv : 1 < f.braDests w → w.div = true) (hrec : 1 < f.braDests w → w.jn ≠ 0 → f.r.freeRec ≠ none)
    (hk : ∀ g : Foc, g.x = f.x → g.r = f.r → g.divide (f.braPlaces w) (f.braJoin w) = some (k g))
    (hh : ∀ g, (k g).s = g.s) : VecRuns (.bra w) s f (fun g => (k g).close) := by
  refine vec_runs (c := clsRedirect) (rd := [guardKey w.g]) (wr := []) (act := f.members 0 false) (u := false) h rfl ?_
    (fun now rod => by rw [close_hole, hh]; exact h.whole)
  obtain ⟨z, hz, hgo⟩ := braVec_cases (f := f) (w := w) hgiven hne
  rw [hz, if_neg (by simpa using hdiv), if_neg (by simpa [braSpec] using hrec), hgo _ (hk _ (issue_split ..) (issue_rank ..))]

section
variable (h : VecIssues s f) (hgiven : f.x.given = [])
include h hgiven

/-- BRA that all take, or none, keeps its split whole (R179). -/
theorem bra_whole {pc : BitVec 48} (hone : f.braDests w ≤ 1) (hp : f.braPlaces w = [(pc, f.members 0 false)]) :
    VecRuns (.bra w) s f (fun g => (g.allTo (f.members 0 false) pc).close) :=
  braVec_runs (k := fun g => g.allTo (f.members 0 false) pc) h hgiven (by simp [hp]) (fun hd => absurd hd (Nat.not_lt.mpr hone))
    (fun hd => absurd hd (Nat.not_lt.mpr hone)) (fun g _ _ => by rw [hp]; rfl) (fun _ => rfl)

section
variable (ht : f.takers w.g w.gn ≠ []) (hf : f.fallers w.g w.gn ≠ [])
include ht hf

omit h hgiven in
theorem braDests_two : f.braDests w = 2 := by simp [Foc.braDests, ht, hf]

omit h hgiven in
theorem braPlaces_two : f.braPlaces w = [(f.x.pc + 8, f.fallers w.g w.gn), (wordsAway f.x.pc w.tgt, f.takers w.g w.gn)] := by
  simp [Foc.braPlaces, ht, hf]

omit h hgiven in
theorem braJoin_two : f.braJoin w = if w.jn = 0 then none else some (wordsAway f.x.pc w.jn) := by
  rw [Foc.braJoin, braDests_two ht hf]
  rfl

theorem bra_forks (hd : w.div = true) (hj : w.jn = 0) : VecRuns (.bra w) s f
    (fun g => (g.fork (f.x.pc + 8) (f.fallers w.g w.gn) (wordsAway f.x.pc w.tgt) (f.takers w.g w.gn) f.x.record).close) := by
  refine braVec_runs (k := fun g => g.fork _ _ _ _ _) h hgiven (by simp [braPlaces_two ht hf]) (fun _ => hd) (fun _ hj' => absurd hj hj')
    (fun g hx _ => ?_) (fun _ => rfl)
  rw [braPlaces_two ht hf, braJoin_two ht hf, if_pos hj, ← hx]
  rfl

/-- BRA that divides its split and joins makes a record in the lowest free entry (R178, R179). -/
theorem bra_forks_joined {i : Nat} (hd : w.div = true) (hj : w.jn ≠ 0) (hi : f.r.freeRec = some i) : VecRuns (.bra w) s f
    (fun g => ((g.recorded i (wordsAway f.x.pc w.jn)).fork (f.x.pc + 8) (f.fallers w.g w.gn) (wordsAway f.x.pc w.tgt)
      (f.takers w.g w.gn) (some i)).close) := by
  refine braVec_runs (k := fun g => (g.recorded i (wordsAway f.x.pc w.jn)).fork _ _ _ _ _) h hgiven (by simp [braPlaces_two ht hf]) (fun _ => hd)
    (fun _ _ => by simp [hi]) (fun g _ hr => ?_) (fun _ => rfl)
  rw [braPlaces_two ht hf, braJoin_two ht hf, if_neg hj]
  unfold Foc.divide
  rw [← hr] at hi
  dsimp only
  rw [hi]
  rfl

theorem bra_undividable (hd : w.div = false) :
    exec (.bra w) s = .next (f.trapIssue (f.members 0 false) .illegalOperand ((f.x.pc.extractLsb' 0 32).setWidth 64)) := by
  refine traps_at_issue h rfl ?_ rfl rfl (by simp)
  obtain ⟨z, hz, -⟩ := braVec_cases (w := w) hgiven (by simp [braPlaces_two ht hf])
  rw [hz, braDests_two ht hf, if_pos (by simp [hd])]

theorem bra_recordless (hd : w.div = true) (hj : w.jn ≠ 0) (hi : f.r.freeRec = none) :
    exec (.bra w) s = .next (f.trapIssue (f.members 0 false) .convOverflow ((f.x.pc.extractLsb' 0 32).setWidth 64)) := by
  refine traps_at_issue h rfl ?_ rfl rfl (by simp)
  obtain ⟨z, hz, -⟩ := braVec_cases (w := w) hgiven (by simp [braPlaces_two ht hf])
  rw [hz, braDests_two ht hf, if_neg (by simp [hd]), if_pos (by simpa [braSpec, hi] using hj)]

end
end

/-- A pass of which none falls through has taken whole. -/
theorem takers_all (hf : f.fallers w.g w.gn = []) : f.takers w.g w.gn = f.members 0 false :=
  List.filter_eq_self.mpr (by simpa [Foc.fallers, List.filter_eq_nil_iff] using hf)

theorem fallers_all (ht : f.takers w.g w.gn = []) : f.fallers w.g w.gn = f.members 0 false :=
  List.filter_eq_self.mpr (by simpa [Foc.takers, List.filter_eq_nil_iff] using ht)

end

/-! ## The obligation -/

/-- Settles O16: a split keeps its one place, divides between two, or traps. -/
theorem vectorBranch : Obligations.VectorBranch := by
  unfold Obligations.VectorBranch
  intro s f w h hgiven hne
  refine ⟨fun hf => ?_, fun ht => ?_, fun ht hf => ⟨bra_forks h hgiven ht hf, fun i => bra_forks_joined h hgiven ht hf,
    bra_undividable h hgiven ht hf, bra_recordless h hgiven ht hf⟩⟩
  · have hall := takers_all hf
    exact bra_whole h hgiven (by simp [Foc.braDests, hf, hall, hne]) (by simp [Foc.braPlaces, hf, hall, hne])
  · have hall := fallers_all ht
    exact bra_whole h hgiven (by simp [Foc.braDests, ht, hall, hne]) (by simp [Foc.braPlaces, ht, hall, hne])

end Sys2Proof.Machine
end

section
/-! O22: flags and queues of the vector stream. A pass past its checks reads its operand for each active thread, and what it then does to the flag
or the queue is one step of its team; a popped entry is given to each thread in turn. -/

namespace Sys2Proof.Machine

/-! ## Flags -/

section
variable {s : State} {f : Foc} {w : FWord} (h : VecIssues s f)
include h

/-- FLAGADD adds the sum of its active threads' values to the flag (R247). -/
theorem flagaddVec_adds (hok : (plainMod w 1 && fldOk .vec .none (fldD w) && !w.kd && fldOk .vec .flag (fldA w) && fldOk .vec .reg (fldB w)) = true)
    (hc : Clear f (f.pass w) (vregsOf .reg (fldB w)) (fullNeeds .reg (fldB w))) (hr : Reads f.r (f.actives (f.pass w)) .reg (fldB w))
    (hne : f.actives (f.pass w) ≠ []) :
    VecRuns (.flagadd w) s f (fun g => g.done.flagAdd f.t.uid w.a.toNat
      ((f.actives (f.pass w)).foldl (fun n p => n + lo32 (readVal f.r p .reg (fldB w))) 0)) := by
  refine vec_runs (c := clsPer) (rd := guardKey w.g :: keysOf .reg (fldB w)) (wr := []) (act := f.pass w) (u := false) h rfl ?_
    (fun now rod => (flagAdd_hole _ _ _ _).trans ((done_hole _).trans h.whole))
  unfold flagaddVec
  dsimp only
  rw [show f.members w.g.toNat w.gn = f.pass w from rfl, admit_none hok hc]
  dsimp only
  rw [issue_rank, issue_actives, readAll_reads hr]
  dsimp only
  rw [if_neg (by simpa using hne), List.foldl_map]
  rfl

section
variable (hok : (plainMod w 3 && fldOk .vec .none (fldD w) && !w.kd && fldOk .vec .flag (fldA w) && fldOk .vec .reg (fldB w)) = true)
  (hc : Clear f (f.pass w) (vregsOf .reg (fldB w)) (fullNeeds .reg (fldB w))) (hr : Reads f.r (f.actives (f.pass w)) .reg (fldB w))
include hok hc hr

/-- FLAGWAIT goes on when the flag meets the condition for every active thread (R248). -/
theorem flagwaitVec_goes_on
    (hall : ∀ p ∈ f.actives (f.pass w), flagCond w.md.toNat (f.t.flag w.a.toNat) (lo32 (readVal f.r p .reg (fldB w))) = true) :
    VecRuns (.flagwait w) s f Foc.done := by
  refine vec_runs (c := clsOnce) (rd := guardKey w.g :: keysOf .reg (fldB w)) (wr := []) (act := f.pass w) (u := false) h rfl ?_
    (fun now rod => (done_hole _).trans h.whole)
  unfold flagwaitVec
  dsimp only
  rw [show f.members w.g.toNat w.gn = f.pass w from rfl, admit_none hok hc]
  dsimp only
  rw [readAll_reads hr, issue_team]
  dsimp only
  exact if_pos (by simpa using hall)

/-- FLAGWAIT waits with the comparands of its active threads when one of them does not meet the condition (R248). -/
theorem flagwaitVec_waits
    (hnot : ∃ p ∈ f.actives (f.pass w), flagCond w.md.toNat (f.t.flag w.a.toNat) (lo32 (readVal f.r p .reg (fldB w))) = false)
    (ha : f.t.alone (some f.r.num) = false) :
    VecRuns (.flagwait w) s f (fun g => (g.block (.flag w.a.toNat w.md.toNat
      ((f.actives (f.pass w)).map (fun p => lo32 (readVal f.r p .reg (fldB w)))))).close) := by
  refine vec_runs (c := clsOnce) (rd := guardKey w.g :: keysOf .reg (fldB w)) (wr := []) (act := f.pass w) (u := false) h rfl ?_
    (fun now rod => (close_hole _).trans h.whole)
  unfold flagwaitVec
  dsimp only
  rw [show f.members w.g.toNat w.gn = f.pass w from rfl, admit_none hok hc]
  dsimp only
  rw [readAll_reads hr, issue_team]
  dsimp only
  rw [List.map_map]
  refine (if_neg ?_).trans (if_neg ?_)
  · simpa using hnot
  · exact fun h => Bool.false_ne_true (ha.symm.trans h)

end

/-! ## Pushes -/

/-- QPUSH appends one entry for each thread it serves, in position order, when they fit (R249, R250). -/
theorem qpushVec_appends
    (hok : (plainMod w 4 && fldOk .vec .none (fldD w) && !w.kd && fldOk .vec .queue (fldA w) && fldOk .vec (entryOpd w) (fldB w)) = true)
    (hc : Clear f (f.pass w) (vregsOf (entryOpd w) (fldB w)) (fullNeeds (entryOpd w) (fldB w)))
    (hr : Reads f.r (queueThreads w (f.actives (f.pass w))) (entryOpd w) (fldB w))
    (hone : w.md.getLsbD 1 = true ∨ (f.actives (f.pass w)).length ≤ 32)
    (hfit : (f.t.queue w.a.toNat).length + (queueThreads w (f.actives (f.pass w))).length ≤ 32) :
    VecRuns (.qpush w) s f (fun g => (g.withTeam (g.t.putQueue w.a.toNat (f.t.queue w.a.toNat ++
      (queueThreads w (f.actives (f.pass w))).map (fun p => ⟨lo64 (readVal f.r p (entryOpd w) (fldB w)), none⟩)))).done) := by
  have hfew : ¬ (!w.md.getLsbD 1 && decide (32 < (f.actives (f.pass w)).length)) = true := by
    obtain hone | hlen := hone
    · rw [hone]; simp
    · rw [decide_eq_false (Nat.not_lt.mpr hlen)]; simp
  refine vec_runs (c := clsPer) (rd := guardKey w.g :: keysOf (entryOpd w) (fldB w)) (wr := []) (act := f.pass w) (u := false) h rfl ?_
    (fun now rod => (done_hole _).trans h.whole)
  unfold qpushVec
  dsimp only
  rw [show f.members w.g.toNat w.gn = f.pass w from rfl, admit_none hok hc]
  dsimp only
  rw [if_neg hfew, if_neg (Nat.not_lt.mpr hfit), issue_rank, readAll_reads hr]
  dsimp only
  rw [List.map_map]
  rfl

end

/-! ## Pops -/

/-- What a popped entry reaches: its registers, of the thread it is given to (R184, R250). -/
def popReach (w : FWord) (p : Nat) : Reach where
  threads q := q = p
  vregs n := n ∈ vregsOf (entryOpd w) (fldD w)
  preds _ := False
  kregs _ := True

theorem entryOpd_ne_pred (w : FWord) : entryOpd w ≠ .pred := by
  unfold entryOpd
  split <;> simp

theorem popGive_within (w : FWord) (g : Foc) (p : Nat) (v : TCap) : Rank.Within (popReach w p) g.r (popGive w g p v).r := by
  unfold popGive
  split
  · refine writeOpd_within rfl (fun hk i hi => ?_) (fun _ _ _ => trivial) (fun ho => absurd ho (entryOpd_ne_pred w)) g.r g.x.age v
    show (fldD w).n + i ∈ vregsOf _ _
    unfold vregsOf
    rw [hk, if_neg Bool.false_ne_true]
    exact List.mem_map.mpr ⟨i, List.mem_range.mpr hi, rfl⟩
  · exact foldl_within (fun r n hn => emptyV_within rfl hn r) g.r

theorem popGive_hole (w : FWord) (g : Foc) (p : Nat) (v : TCap) : (popGive w g p v).s.hole = g.s.hole := by
  unfold popGive
  split <;> rfl

theorem popGives_hole {α : Type} (w : FWord) (p : α → Nat) (v : α → TCap) (l : List α) (g : Foc) :
    (l.foldl (fun g e => popGive w g (p e) (v e)) g).s.hole = g.s.hole :=
  foldl_keeps (fun g : Foc => g.s.hole) (f := fun g e => popGive w g (p e) (v e)) (fun g e => popGive_hole w g (p e) (v e)) l g

theorem emptyV_isFull (r : Rank) {p n : Nat} (hp : p < r.threads.length) (m : Nat) :
    (r.emptyV p n).isFull p m = (decide (m ≠ n) && r.isFull p m) := by
  unfold Rank.isFull Rank.emptyV Rank.vreg Rank.putVreg
  rw [modThread_thread r _ hp, tabGet_tabPut]
  split <;> simp [*]

/-- A register marked empty in a list of them is empty. -/
theorem emptyAll_isFull {l : List Nat} {p n : Nat} {r : Rank} (hp : p < r.threads.length) (hn : n ∈ l ∨ r.isFull p n = false) :
    (l.foldl (fun r n => r.emptyV p n) r).isFull p n = false := by
  induction l generalizing r with
  | nil => exact hn.resolve_left (List.not_mem_nil)
  | cons m l ih =>
    refine ih (r := r.emptyV p m) (hp.trans_eq (modThread_length _ _ _).symm) ?_
    rw [emptyV_isFull r hp, Bool.and_eq_false_iff]
    obtain hn | hn := hn
    · obtain rfl | hn := List.mem_cons.mp hn
      · exact .inr (.inl (by simp))
      · exact .inl hn
    · exact .inr (.inr hn)

/-- The threads of a pass without helpers are each given the next entry (R249). -/
theorem popWrite_each {w : FWord} {ps : List Nat} {l : List QEntry} {g : Foc} (hh : ∀ p ∈ ps, g.r.helper p = false) (hl : ps.length ≤ l.length) :
    popWrite w false g ps l = (ps.zip l).foldl (fun g e => popGive w g e.1 e.2.word) g := by
  induction ps generalizing l g with
  | nil => rfl
  | cons p ps ih =>
    obtain _ | ⟨e, l⟩ := l
    · exact absurd hl (Nat.not_succ_le_zero _)
    · unfold popWrite
      rw [hh p (by simp), if_neg Bool.false_ne_true]
      exact ih (fun q hq => ((popGive_within w g p e.word).helper q).trans (hh q (by simp [hq]))) (Nat.le_of_succ_le_succ hl)

/-- The threads of a pass without helpers are all given the same entry under ONE (R249). -/
theorem popWrite_same {w : FWord} {ps : List Nat} {e : QEntry} {l : List QEntry} {g : Foc} (hh : ∀ p ∈ ps, g.r.helper p = false) :
    popWrite w true g ps (e :: l) = ps.foldl (fun g p => popGive w g p e.word) g := by
  induction ps generalizing g with
  | nil => rfl
  | cons p ps ih =>
    unfold popWrite
    rw [hh p (by simp), if_neg Bool.false_ne_true]
    exact ih (fun q hq => ((popGive_within w g p e.word).helper q).trans (hh q (by simp [hq])))

section
variable {s : State} {f : Foc} {w : FWord} (h : VecIssues s f)
  (hok : (plainMod w 4 && fldOk .vec (entryOpd w) (fldD w) && fldOk .vec .queue (fldA w) && (!w.kd || w.md.getLsbD 1) &&
    fldOk .vec .none (fldB w)) = true)
  (hc : Clear f (f.pass w) (vregsOf (entryOpd w) (fldD w)) (vregsOf (entryOpd w) (fldD w))) (hh : ∀ p ∈ f.pass w, f.r.helper p = false)
include h hok hc hh

/-- QPOP that has an entry for each thread takes them from the queue and gives them in position order (R249, R250). -/
theorem qpopVec_gives_each (hone : w.md.getLsbD 1 = false) (hlen : (f.pass w).length ≤ (f.t.queue w.a.toNat).length)
    (hfew : (f.pass w).length ≤ 32) :
    VecRuns (.qpop w) s f (fun g => (((f.pass w).zip (f.t.queue w.a.toNat)).foldl (fun g e => popGive w g e.1 e.2.word)
      (g.withTeam (g.t.putQueue w.a.toNat ((f.t.queue w.a.toNat).drop (f.pass w).length)))).done) := by
  have hact : f.actives (f.pass w) = f.pass w := List.filter_eq_self.mpr (fun p hp => by simp [hh p hp])
  refine vec_runs (c := clsPer) (rd := [guardKey w.g]) (wr := keysOf (entryOpd w) (fldD w)) (act := f.pass w) (u := w.kd && guardP0 w) h rfl ?_
    (fun now rod => (done_hole _).trans ((popGives_hole w (fun e : Nat × QEntry => e.1) (fun e => e.2.word) _ _).trans h.whole))
  unfold qpopVec
  dsimp only
  rw [show f.members w.g.toNat w.gn = f.pass w from rfl, admit_none hok hc]
  unfold queueThreads
  dsimp only
  rw [hact, hone, if_neg Bool.false_ne_true, issue_team]
  refine (if_neg (by simpa using hfew)).trans ((if_neg (Nat.not_lt.mpr hlen)).trans ?_)
  exact congrArg Foc.done (popWrite_each (g := Foc.withTeam (f.issue _ _ _ _ _) _) hh hlen)

/-- QPOP with ONE takes one entry from the queue and gives it to every thread (R249, R250). -/
theorem qpopVec_gives_same {e : QEntry} {l : List QEntry} (hone : w.md.getLsbD 1 = true) (hq : f.t.queue w.a.toNat = e :: l)
    (hne : f.pass w ≠ []) :
    VecRuns (.qpop w) s f (fun g => ((f.pass w).foldl (fun g p => popGive w g p e.word) (g.withTeam (g.t.putQueue w.a.toNat l))).done) := by
  have hact : f.actives (f.pass w) = f.pass w := List.filter_eq_self.mpr (fun p hp => by simp [hh p hp])
  have hn : ((f.pass w).take 1).length = 1 := by
    obtain ⟨p, ps, hp⟩ := List.exists_cons_of_ne_nil hne
    rw [hp]
    rfl
  refine vec_runs (c := clsPer) (rd := [guardKey w.g]) (wr := keysOf (entryOpd w) (fldD w)) (act := f.pass w) (u := w.kd && guardP0 w) h rfl ?_
    (fun now rod => (done_hole _).trans ((popGives_hole w id (fun _ => e.word) _ _).trans h.whole))
  unfold qpopVec
  dsimp only
  rw [show f.members w.g.toNat w.gn = f.pass w from rfl, admit_none hok hc]
  unfold queueThreads
  dsimp only
  rw [hact, hone, if_pos rfl, hn, issue_team, hq]
  refine (if_neg Bool.false_ne_true).trans ((if_neg (Nat.not_lt.mpr (Nat.le_add_left _ _))).trans ?_)
  exact congrArg Foc.done (popWrite_same (g := Foc.withTeam (f.issue _ _ _ _ _) _) hh)

end

/-- A popped value on its way to v registers: an access of its thread that has no pieces, and registers that are empty until it arrives (log 31). -/
theorem popGive_posts {w : FWord} (hk : w.kd = false) (g : Foc) (p : Nat) (v : TCap) :
    (∃ a, (popGive w g p v).s.accesses = g.s.accesses ++ [a] ∧ a.who = ⟨g.t.uid, some g.r.num, p⟩ ∧ a.born = g.s.gt ∧ a.pieces = [] ∧
      a.kind = .popped w.d.toNat (if w.md.getLsbD 0 then 6 else 4) (lo64 v)) ∧
    ∀ n ∈ vregsOf (entryOpd w) (fldD w), (popGive w g p v).r.isFull p n = false ∨ g.r.threads[p]? = none := by
  unfold popGive
  rw [hk, if_neg Bool.false_ne_true]
  refine ⟨⟨_, rfl, rfl, rfl, rfl, rfl⟩, fun n hn => ?_⟩
  by_cases hp : p < g.r.threads.length
  · exact .inl (emptyAll_isFull hp (.inl hn))
  · exact .inr (List.getElem?_eq_none (Nat.le_of_not_lt hp))

/-! ## The obligation -/

/-- Settles O22: each pass past its checks reads its threads' operands, and its flag or queue takes them or gives them. -/
theorem vectorFlagsAndQueues : Obligations.VectorFlagsAndQueues := by
  unfold Obligations.VectorFlagsAndQueues
  refine fun s f w h => ⟨fun hm hd hk ha hb => flagaddVec_adds h (by simp [*]),
    fun hm hd hk ha hb hc hr => ⟨flagwaitVec_goes_on h (by simp [*]) hc hr, flagwaitVec_waits h (by simp [*]) hc hr⟩,
    fun hm hd hk ha hb => qpushVec_appends h (by simp [*]), fun hm hd ha hk hb hc hh hlen => ?_, fun g p v => ⟨fun hk => ?_, fun hk _ => ?_⟩⟩
  · have hok : (plainMod w 4 && fldOk .vec (entryOpd w) (fldD w) && fldOk .vec .queue (fldA w) && (!w.kd || w.md.getLsbD 1) &&
        fldOk .vec .none (fldB w)) = true := by
      obtain hk | hk := hk <;> rw [hm, hd, ha, hk, hb] <;> simp
    exact ⟨fun hone hfew => qpopVec_gives_each h hok hc hh hone hlen hfew, fun e l hone hq hne => qpopVec_gives_same h hok hc hh hone hq hne⟩
  · exact if_pos hk
  · obtain ⟨hposts, hempty⟩ := popGive_posts hk g p v
    exact ⟨hposts, hempty, fun q n hq => (popGive_within w g p v).vreg q n (fun hreach => hq hreach.1)⟩

end Sys2Proof.Machine
end

section
/-! O24: the pool instructions. A pass whose checks hold issues and changes its rank's registers, its rod's claims, a shared range or the deposits
on their way; in the control stream none of them is there. -/

namespace Sys2Proof.Machine

/-! ## The control stream -/

/-- An instruction that the control stream does not have (R207). -/
theorem notInControl {i : Instr} {op : BitVec 8} {w : FWord} {s : State} {t : Team} {a : Foc → State} (h : CtlIssues s t)
    (hex : exec i s = answer (byStream s a (notInCtl op w))) : NotInControl i op w s t := by
  refine exec_next hex ((byStream_ctl h.cur h.team _ _).trans (trapCtl_plain rfl rfl (by simp))) ?_
  rw [deliverCtl_hole, h.whole]

/-! ## Claims and releases -/

theorem countPass_gives {f : Foc} {op : BitVec 8} {w : FWord} {d : Opd} (hm : w.md = 0 ∨ w.md = 0x800) (hg : guardP0 w = true)
    (hd : fldOk .vec d (fldD w) = true) (ha : fldOk .vec .none (fldA w) = true) (hc : countOk w = true) (ht : countTrap f.r w = none) :
    f.countPass op w d = .ok (poolCount f.r w) := by
  have hmod : (w.md.toNat == 0 || w.md.toNat == 0x800) = true := by obtain hm | hm := hm <;> simp [hm]
  unfold Foc.countPass
  dsimp only
  rw [admit_none (by simp [hmod, hg, hd, ha, hc]) ⟨by simp, by simp⟩, ht]

section
variable {s : State} {f : Foc} {w : FWord} (h : VecIssues s f) (hm : w.md = 0 ∨ w.md = 0x800) (hg : guardP0 w = true)
  (ha : fldOk .vec .none (fldA w) = true) (hc : countOk w = true) (ht : countTrap f.r w = none) (hn : poolCount f.r w ≠ 0)
include h hm hg ha hc ht hn

section
variable (hpool : f.r.width * (f.r.top + 8 * poolCount f.r w) ≤ Config.poolRegs)
include hpool

/-- A claim that fits in the free pool is granted at once (R323). -/
theorem rclaimVec_grows (hd : fldOk .vec .none (fldD w) = true) (hfit : f.r.width * (8 * poolCount f.r w) ≤ s.poolFree f.t.pair f.r.rod) :
    VecRuns (.rclaim w) s f (fun g => (g.withRank (g.r.grow (poolCount f.r w))).done) := by
  obtain rfl := focus_spec h.foc
  refine vec_runs (c := clsOnce) (rd := countKeys w) (wr := []) (act := f.members 0 false) (u := false) h rfl ?_
    (fun now rod => (done_hole _).trans h.whole)
  unfold rclaimVec
  rw [countPass_gives hm hg hd ha hc ht]
  dsimp only
  rw [if_neg hn, if_neg (Nat.not_lt.mpr hpool), if_neg (Nat.not_lt.mpr hfit)]
  rfl

/-- A claim that does not fit enters the rod's list, and its split waits (R323). -/
theorem rclaimVec_waits (hd : fldOk .vec .none (fldD w) = true) (hfit : s.poolFree f.t.pair f.r.rod < f.r.width * (8 * poolCount f.r w)) :
    exec (.rclaim w) s = .next ((f.spend.withState (f.spend.s.putRod f.t.pair f.r.rod
      { f.spend.s.rod f.t.pair f.r.rod with claims := (f.spend.s.rod f.t.pair f.r.rod).claims ++ [⟨f.t.uid, f.r.num, f.x.age, poolCount f.r w⟩] })).block
        (.claim (poolCount f.r w))).close := by
  obtain rfl := focus_spec h.foc
  refine exec_next rfl ((byStream_vec h.foc _ _).trans ?_) ((close_hole _).trans h.whole)
  unfold rclaimVec
  rw [countPass_gives hm hg hd ha hc ht]
  dsimp only
  rw [if_neg hn, if_neg (Nat.not_lt.mpr hpool), if_pos hfit]
  rfl

/-- RCLAIMT tells every thread whether the claim fits, and takes the blocks if it does (R323). -/
theorem rclaimtVec_tells (hd : fldOk .vec .pred (fldD w) = true) :
    VecRuns (.rclaimt w) s f (fun g => if f.r.width * (8 * poolCount f.r w) ≤ s.poolFree f.t.pair f.r.rod
      then (g.withRank ((g.r.predAll (f.members 0 false) w.d.toNat (fun _ => true)).grow (poolCount f.r w))).done
      else (g.withRank (g.r.predAll (f.members 0 false) w.d.toNat (fun _ => false))).done) := by
  obtain rfl := focus_spec h.foc
  refine vec_runs (c := clsOnce) (rd := countKeys w) (wr := [4096 + w.d.toNat]) (act := f.members 0 false) (u := false) h rfl ?_
    (fun now rod => ?_)
  · unfold rclaimtVec
    rw [countPass_gives hm hg hd ha hc ht]
    dsimp only
    rw [if_neg hn, if_neg (Nat.not_lt.mpr hpool)]
    by_cases hfit : f.r.width * (8 * poolCount f.r w) ≤ f.s.poolFree f.t.pair f.r.rod
    · simp only [hfit, decide_true, if_true]
      rfl
    · simp only [hfit, decide_false, if_false, Bool.false_eq_true]
      rfl
  · split <;> exact (done_hole _).trans h.whole

end

/-- RRELEASE of full registers above the base, which nothing shares or still reads, gives the topmost blocks back (R325). -/
theorem rreleaseVec_cuts (hd : fldOk .vec .none (fldD w) = true) (hb : f.r.base + 8 * poolCount f.r w ≤ f.r.top)
    (hs : f.r.meetsShare (f.r.top - 8 * poolCount f.r w) f.r.top = false)
    (hf : ∀ p < f.r.width, ∀ i < 8 * poolCount f.r w, f.r.isFull p (f.r.top - 8 * poolCount f.r w + i) = true)
    (hx : s.matrixReads f.t f.r.num (f.r.top - 8 * poolCount f.r w) f.r.top = false) :
    VecRuns (.rrelease w) s f (fun g => (g.withRank (g.r.cut (f.r.top - 8 * poolCount f.r w))).done) := by
  obtain rfl := focus_spec h.foc
  refine vec_runs (c := clsOnce) (rd := countKeys w) (wr := []) (act := f.members 0 false) (u := false) h rfl ?_
    (fun now rod => (done_hole _).trans h.whole)
  have hfull : emptyNeeds f.r (List.range f.r.width) ((List.range (8 * poolCount f.r w)).map (fun i => f.r.top - 8 * poolCount f.r w + i)) = [] := by
    refine emptyNeeds_nil (fun p hp n hn => ?_)
    obtain ⟨i, hi, rfl⟩ := List.mem_map.mp hn
    exact hf p (List.mem_range.mp hp) i (List.mem_range.mp hi)
  unfold rreleaseVec
  rw [countPass_gives hm hg hd ha hc ht]
  dsimp only
  rw [if_neg (by simp [hn, hs, hb]), hfull, hx]
  rfl

end

/-! ## Shared ranges -/

theorem putPartner_hole (f : Foc) (u : Team) (p : Rank) : (f.putPartner u p).s.hole = f.s.hole := by
  unfold Foc.putPartner
  split <;> rfl

theorem endShare_hole (s : State) (h : Share) : (s.endShare h).hole = s.hole := by
  unfold State.endShare
  split
  · rfl
  · split <;> rfl

/-- RSHARE whose partner already waits in the matching RSHARE makes the shared range on both sides (R326). -/
theorem rshareVec_meets {s : State} {f : Foc} {w : FWord} {u : Team} {p : Rank} {y : Split} (h : VecIssues s f) (hm : plainMod w 16 = true)
    (hg : guardP0 w = true) (hd : plainNum (fldD w) 0 2047 = true) (ha : plainNum (fldA w) 0 2047 = true) (hb : plainNum (fldB w) 1 64 = true)
    (hp : s.rankAt f.t.pair f.r.rod (bitsAt w.md.toNat 0 4) = some (u, p))
    (hbad : shareBad f.t f.r (some (u, p)) w.d.toNat w.a.toNat w.b.toNat = false)
    (hy : p.splits.find? (fun x => decide (x.wait = .share f.r.slot w.a.toNat w.d.toNat w.b.toNat)) = some y) :
    VecRuns (.rshare w) s f (fun g =>
      ((g.withRank ((if p.slot < f.r.slot then copyShare p g.r w.a.toNat w.d.toNat w.b.toNat else g.r).share
        ⟨w.d.toNat, u.uid, p.num, w.a.toNat, w.b.toNat⟩)).next.putPartner u
          { p.share ⟨w.a.toNat, f.t.uid, f.r.num, w.d.toNat, w.b.toNat⟩ with
            splits := p.splits.map (fun x => if x.age = y.age then x.past else x) }).close) := by
  obtain rfl := focus_spec h.foc
  refine vec_runs (c := clsOnce) (rd := []) (wr := []) (act := f.members 0 false) (u := false) h rfl ?_
    (fun now rod => (close_hole _).trans ((putPartner_hole _ _ _).trans h.whole))
  unfold rshareVec
  dsimp only
  rw [admit_none (by simp [hm, hg, hd, ha, hb]) ⟨by simp, by simp⟩]
  dsimp only
  rw [hp, hbad]
  dsimp only
  rw [hy]
  exact (apply_ite Foc.close _ _ _).symm

/-- RUNSHARE ends the shared range on both sides (R326). -/
theorem runshareVec_parts {s : State} {f : Foc} {w : FWord} {h : Share} (hv : VecIssues s f) (hm : plainMod w 1 = true) (hg : guardP0 w = true)
    (hd : plainNum (fldD w) 0 2047 = true) (ha : fldOk .vec .none (fldA w) = true) (hb : fldOk .vec .none (fldB w) = true)
    (hf : f.r.shares.find? (fun h => h.own == w.d.toNat) = some h) :
    VecRuns (.runshare w) s f (fun g => ((g.withRank (g.r.unshare h.own)).done).endShare h) := by
  refine vec_runs (c := clsOnce) (rd := []) (wr := []) (act := f.members 0 false) (u := false) hv rfl ?_
    (fun now rod => (endShare_hole _ _).trans ((done_hole _).trans hv.whole))
  unfold runshareVec
  dsimp only
  rw [admit_none (by simp [hm, hg, hd, ha, hb]) ⟨by simp, by simp⟩]
  dsimp only
  rw [hf]
  rfl

/-! ## Deposits -/

/-- The deposit that a thread of a DEPOSIT posts (R327); its identifier is given as it is posted. -/
def Foc.depositOf (f : Foc) (w : FWord) (p : Nat) : Deposit :=
  ⟨0, ⟨f.t.uid, some f.r.num, p⟩, f.t.grid, (depositTarget f.t.pair (f.r.kreg w.b.toNat).val).1, (depositTarget f.t.pair (f.r.kreg w.b.toNat).val).2.1,
    (depositTarget f.t.pair (f.r.kreg w.b.toNat).val).2.2, w.d.toNat, lo32 (readVal f.r p .reg (fldA w))⟩

/-- A thread of a DEPOSIT posts its deposit, unless it is a helper. -/
theorem depositThread_posts {f : Foc} {w : FWord} {p : Nat} (ha : readOpd f.r p .reg (fldA w) = .ok (readVal f.r p .reg (fldA w)))
    (hb : readOpd f.r p .reg (fldB w) = .ok (readVal f.r p .reg (fldB w))) :
    depositThread w f p = .ok (if f.r.helper p then f else f.withState (f.s.post (f.depositOf w p))) := by
  unfold depositThread
  rw [ha, hb]
  dsimp only
  split <;> rfl

/-- The threads of a DEPOSIT that are no helpers post theirs in position order (R327). -/
theorem depositLoop_posts {f : Foc} {w : FWord} {ps : List Nat} (ha : Reads f.r ps .reg (fldA w)) (hb : Reads f.r ps .reg (fldB w)) (s : State) :
    passLoop (depositThread w) (fun f _ => f) ps (f.withState s) =
      (f.withState ((f.actives ps).foldl (fun s p => s.post (f.depositOf w p)) s), none) := by
  induction ps generalizing s with
  | nil => rfl
  | cons p ps ih =>
    have hrest := ih (fun q hq => ha q (by simp [hq])) (fun q hq => hb q (by simp [hq]))
    have hp : depositThread w (f.withState s) p = .ok (if f.r.helper p then f.withState s else f.withState (s.post (f.depositOf w p))) :=
      depositThread_posts (ha p (by simp)) (hb p (by simp))
    unfold passLoop Foc.actives
    rw [hp]
    cases hh : f.r.helper p with
    | true =>
      rw [List.filter_cons_of_neg (by simp [hh])]
      exact hrest s
    | false =>
      rw [List.filter_cons_of_pos (by simp [hh])]
      exact hrest (s.post (f.depositOf w p))

theorem postAll_hole (s : State) (d : Nat → Deposit) (l : List Nat) : (l.foldl (fun s p => s.post (d p)) s).hole = s.hole :=
  foldl_keeps State.hole (f := fun s p => s.post (d p)) (fun _ _ => rfl) l s

/-- DEPOSIT posts one deposit for each active thread to the rank its k register names on another core (R327). -/
theorem depositVec_posts {s : State} {f : Foc} {w : FWord} (h : VecIssues s f) (hm : plainMod w 1 = true) (hd : plainNum (fldD w) 0 2047 = true)
    (ha : fldOk .vec .reg (fldA w) = true) (hk : w.kb = true) (hb : fldOk .vec .reg (fldB w) = true)
    (hc : Clear f (f.pass w) (vregsOf .reg (fldA w)) (fullNeeds .reg (fldA w))) (hra : Reads f.r (f.pass w) .reg (fldA w))
    (hrb : Reads f.r (f.pass w) .reg (fldB w)) (hv : (f.r.kreg w.b.toNat).val.toNat < 2048)
    (hcore : coreOf (depositTarget f.t.pair (f.r.kreg w.b.toNat).val).1 (depositTarget f.t.pair (f.r.kreg w.b.toNat).val).2.1 ≠ coreOf f.t.pair f.r.rod) :
    VecRuns (.deposit w) s f (fun g => (g.withState ((f.actives (f.pass w)).foldl (fun s p => s.post (f.depositOf w p)) g.s)).done) := by
  refine vec_runs (c := clsPer) (rd := guardKey w.g :: keysOf .reg (fldA w) ++ keysOf .reg (fldB w)) (wr := []) (act := f.pass w) (u := false) h rfl
    ?_ (fun now rod => (done_hole _).trans ((postAll_hole _ _ _).trans h.whole))
  unfold depositVec
  dsimp only
  rw [admit_none (by simp [hm, hd, ha, hk, hb]) hc]
  dsimp only
  rw [if_neg (by simp [Nat.div_eq_of_lt hv, hcore]), show f.members w.g.toNat w.gn = f.pass w from rfl]
  generalize hi : f.issue _ _ _ _ _ = g
  obtain ⟨now, rod, rfl⟩ : ∃ now rod, g = f.withState (f.s.afterIssue f now rod) := hi ▸ issue_eq f _ _ _ _ _
  rw [depositLoop_posts hra hrb]
  rfl

/-! ## Marks and arrivals -/

theorem emptyMarks_top (r : Rank) (ps regs : List Nat) : (r.emptyMarks ps regs).top = r.top :=
  foldl_keeps Rank.top (f := fun r p => regs.foldl (fun r n => (r.emptyV p n).putVtag p n false) r)
    (fun r p => foldl_keeps Rank.top (f := fun r n => (r.emptyV p n).putVtag p n false) (fun _ _ => rfl) regs r) ps r

/-- The threads of an RMARK of allocated registers mark them empty (R328). -/
theorem rmarkLoop_marks {w : FWord} (ps : List Nat) {f : Foc} (hc : ∀ n ∈ (List.range w.b.toNat).map (fun i => w.d.toNat + i), n < f.r.top) :
    passLoop (rmarkThread w) (fun f _ => f) ps f = (f.withRank (f.r.emptyMarks ps ((List.range w.b.toNat).map (fun i => w.d.toNat + i))), none) := by
  induction ps generalizing f with
  | nil => rfl
  | cons p ps ih =>
    have hp : rmarkThread w f p = .ok (f.withRank (f.r.emptyMarks [p] ((List.range w.b.toNat).map (fun i => w.d.toNat + i)))) := by
      unfold rmarkThread
      dsimp only
      rw [unallocated_none hc]
      rfl
    unfold passLoop
    rw [hp]
    exact ih (fun n hn => (hc n hn).trans_eq (emptyMarks_top _ _ _).symm)

/-- RMARK marks its registers empty in every thread that its guard leaves (R328). -/
theorem rmarkVec_marks {s : State} {f : Foc} {w : FWord} (h : VecIssues s f) (hm : plainMod w 1 = true) (hd : plainNum (fldD w) 0 2047 = true)
    (ha : fldOk .vec .none (fldA w) = true) (hb : plainNum (fldB w) 1 64 = true)
    (hc : Clear f (f.pass w) ((List.range w.b.toNat).map (fun i => w.d.toNat + i)) ((List.range w.b.toNat).map (fun i => w.d.toNat + i))) :
    VecRuns (.rmark w) s f (fun g => (g.withRank (g.r.emptyMarks (f.pass w) ((List.range w.b.toNat).map (fun i => w.d.toNat + i)))).done) := by
  refine vec_runs (c := clsPer) (rd := [guardKey w.g]) (wr := (List.range w.b.toNat).map (fun i => w.d.toNat + i)) (act := f.pass w) (u := false) h rfl
    ?_ (fun now rod => (done_hole _).trans h.whole)
  unfold rmarkVec
  dsimp only
  rw [show f.members w.g.toNat w.gn = f.pass w from rfl,
    admit_none (by simp [hm, hd, ha, hb]) ⟨by simp, fun p hp n hn => hc.full p hp n (List.mem_of_mem_filter hn)⟩]
  dsimp only
  rw [rmarkLoop_marks (f := f.issue _ _ _ _ _) _ hc.allocated]
  rfl

/-- RARRIV writes the arrival counter, with WAIT once it has reached the comparand (R329). -/
theorem rarrivVec_writes {s : State} {f : Foc} {w : FWord} (h : VecIssues s f) (hm : w.md.toNat % 2048 < 2) (hd : fldOk .vec .reg (fldD w) = true)
    (ha : fldOk .vec .none (fldA w) = true) (hb : (if w.md.getLsbD 0 then countOk w else !w.md.getLsbD 11 && fldOk .vec .none (fldB w)) = true)
    (hc : Clear f (f.pass w) (vregsOf .reg (fldD w)) (vregsOf .reg (fldD w))) (ht : w.md.getLsbD 0 = true → countTrap f.r w = none)
    (hr : w.md.getLsbD 0 = true → (f.r.arrival - BitVec.ofNat 32 (poolCount f.r w)).toNat < 2 ^ 31) :
    VecRuns (.rarriv w) s f (fun g => (g.withRank (g.r.writeAll f.x.age (if w.kd && guardP0 w then (f.pass w).take 1 else f.pass w) .reg (fldD w)
      (fun _ => ⟨f.r.arrival.setWidth 128, false⟩))).done) := by
  have htrap : (if w.md.getLsbD 0 then countTrap f.r w else none) = none := by
    split
    · exact ht ‹_›
    · rfl
  have hreached : ¬ (w.md.getLsbD 0 && !(f.pass w).isEmpty && decide (2 ^ 31 ≤ (f.r.arrival - BitVec.ofNat 32 (poolCount f.r w)).toNat)) = true := by
    intro hwait
    simp only [Bool.and_eq_true, decide_eq_true_eq] at hwait
    exact absurd (hr hwait.1.1) (Nat.not_lt.mpr hwait.2)
  refine vec_runs (c := clsInt) (rd := guardKey w.g :: (if w.md.getLsbD 0 then countKeys w else [])) (wr := keysOf .reg (fldD w)) (act := f.pass w)
    (u := w.kd && guardP0 w) h rfl ?_ (fun now rod => (done_hole _).trans h.whole)
  unfold rarrivVec
  dsimp only
  rw [admit_none (by simp only [hm, hd, ha, hb, decide_true, Bool.and_self]) hc]
  dsimp only
  rw [htrap]
  dsimp only
  rw [show f.members w.g.toNat w.gn = f.pass w from rfl, if_neg hreached]
  rfl

/-! ## The obligation -/

/-- Settles O24: each pool instruction of a split past its checks does its part, and the control stream has none of them. -/
theorem poolInstructions : Obligations.PoolInstructions := by
  unfold Obligations.PoolInstructions
  refine ⟨⟨fun s f w h hm hg ha hc ht hn => ⟨fun hd hp hf => rclaimVec_grows h hm hg ha hc ht hn hp hd hf,
      fun hd hp hf => ⟨_, rfl, rclaimVec_waits h hm hg ha hc ht hn hp hd hf⟩, fun hd hp => rclaimtVec_tells h hm hg ha hc ht hn hp hd,
      rreleaseVec_cuts h hm hg ha hc ht hn⟩, fun s t w h => ?_⟩,
    fun s f w h => ⟨fun u p y => rshareVec_meets h, fun g => runshareVec_parts h, depositVec_posts h, rmarkVec_marks h, rarrivVec_writes h⟩⟩
  exact ⟨notInControl h rfl, notInControl h rfl, notInControl h rfl, notInControl h rfl, notInControl h rfl, notInControl h rfl,
    notInControl h rfl, notInControl h rfl⟩

end Sys2Proof.Machine
end

section
/-! O34: deposits that arrive, and appends. A deposit is taken out of the network and its rank found; an append reads its header once, and what
the header holds decides what is written. -/

namespace Sys2Proof.Machine

/-! ## Deposits -/

/-- The network without a deposit. -/
def State.undeposited (s : State) (id : Nat) : State := { s with deposits := s.deposits.filter (fun e => e.id != id) }

section
variable {s : State} {d : Deposit} (hf : s.deposits.find? (fun e => e.id == d.id) = some d)
  (hfirst : (s.deposits.takeWhile (fun e => e.id != d.id)).any
    (fun e => decide (e.who = d.who) && e.pair == d.pair && e.rod == d.rod && e.slot == d.slot && e.reg == d.reg) = false)
include hf hfirst

/-- A deposit whose rank's width and allocation reach it writes its register and counts one arrival (R186, R327). -/
theorem depositArrive_lands {t : Team} {r : Rank} (hr : (s.undeposited d.id).rankAt d.pair d.rod d.slot = some (t, r)) (hg : t.grid = d.grid)
    (hw : d.who.pos < r.width) (ht : d.reg < r.top) :
    s.depositArrive d.id = ((s.undeposited d.id).arrived d.pair r [d.reg]).putRank t.uid
      { r.writeV d.who.pos d.reg d.val with arrival := r.arrival + 1 } := by
  unfold State.depositArrive
  rw [hf]
  dsimp only
  rw [hfirst, if_neg Bool.false_ne_true]
  change (match (s.undeposited d.id).rankAt d.pair d.rod d.slot with | none => _ | some (t, r) => _) = _
  rw [hr]
  exact if_neg (by simp [hg, hw, ht])

theorem depositArrive_discards (hr : (s.undeposited d.id).rankAt d.pair d.rod d.slot = none) : s.depositArrive d.id = s.undeposited d.id := by
  unfold State.depositArrive
  rw [hf]
  dsimp only
  rw [hfirst, if_neg Bool.false_ne_true]
  change (match (s.undeposited d.id).rankAt d.pair d.rod d.slot with | none => _ | some (t, r) => _) = _
  rw [hr]
  rfl

end

/-! ## Appends -/

/-- The appends without one that is over. -/
def State.unappended (s : State) (id : Nat) : State := { s with appends := s.appends.filter (fun c => c.id != id) }

/-- A drop is counted in the header's last 16 bytes (R164). -/
def State.countDrop (s : State) (pa part v : Nat) : State :=
  (((s.tearDev (pa + 16) 16).writeDev (pa + 16) part (natLe 8 ((bitsAt v 128 64 + 1) % 2 ^ 64) ++ natLe 8 (bitsAt v 192 64 ||| 1))).2).clearWords (pa + 16) 16

/-- The header's tail takes its next value (R164). -/
def State.bumpTail (s : State) (pa part v : Nat) : State :=
  (((s.tearDev pa 8).writeDev pa part (natLe 8 ((bitsAt v 0 64 + 1) % 2 ^ 64))).2).clearWords pa 8

section
variable {s s1 s2 : State} {a : Append} {p : Page} {b : List Byte} {q : Req} {v n slot : Nat}
  (hf : s.appends.find? (fun c => c.id == a.id) = some a) (hm : s.migWaiting (.append a.id) = false) (hq : q = ⟨a.core / 2, a.ctx, 0⟩)
  (hp : s.unitPage q a.header (needR + needW) = (s1, .page p)) (hb : s1.readDev (p.base + p.off) 32 p.part = (s2, .ok b)) (hv : v = leNat b)
  (hn : n = bitsAt v 193 5) (hlo : 4 ≤ n) (hhi : n ≤ 20)
include hf hm hq hp hb hv hn hlo hhi

/-- An append to a header that is not full adds one to its tail, and writes the record with its phase at the slot the tail named (R164). -/
theorem remainderAppend_writes {s3 : State} (hslot : slot = a.header + 64 + 16 * (bitsAt v 0 64 % 2 ^ n))
    (hroom : (bitsAt v 0 64 + 2 ^ 64 - bitsAt v 64 64) % 2 ^ 64 < 2 ^ n) (hs : s2.unitMig q needW slot 16 3 = (s3, none)) :
    s.remainderAppend a.id = (((s3.unappended a.id).bumpTail (p.base + p.off) p.part v).unitWrite q slot
      (natLe 16 (a.record + (bitsAt v 0 64 / 2 ^ n + 1) % 2)) 32).2 := by
  subst hq hv hn hslot
  unfold State.remainderAppend
  rw [hf]
  dsimp only
  rw [hm, hp]
  dsimp only
  rw [hb]
  dsimp only
  rw [if_neg Bool.false_ne_true, if_neg (by omega), if_neg (Nat.not_le.mpr hroom), hs]
  rfl

/-- An append to a full header counts a drop instead (R164). -/
theorem remainderAppend_drops (hfull : 2 ^ n ≤ (bitsAt v 0 64 + 2 ^ 64 - bitsAt v 64 64) % 2 ^ 64) :
    s.remainderAppend a.id = (s2.unappended a.id).countDrop (p.base + p.off) p.part v := by
  subst hq hv hn
  unfold State.remainderAppend
  rw [hf]
  dsimp only
  rw [hm, hp]
  dsimp only
  rw [hb]
  dsimp only
  rw [if_neg Bool.false_ne_true, if_neg (by omega), if_pos hfull]
  rfl

end

/-! ## The obligation -/

/-- Settles O34: a deposit lands or is discarded, and an append writes its record or counts a drop. -/
theorem depositsAndAppendsArrive : Obligations.DepositsAndAppendsArrive := by
  unfold Obligations.DepositsAndAppendsArrive
  refine ⟨fun s d hh hf hfirst => ⟨fun t r hr hg hw ht => ?_, fun hr => ?_⟩,
    fun s s1 s2 a p b q v n slot hf hm hq hp hb hv hn hlo hhi hslot => ⟨fun s3 t hroom hs ht hh => ?_, fun t hfull ht hh => ?_⟩⟩
  · exact exec_next rfl (depositArrive_lands hf hfirst hr hg hw ht) ((putRank_hole _ _ _).trans hh)
  · exact exec_next rfl (depositArrive_discards hf hfirst hr) hh
  · exact exec_next rfl ((remainderAppend_writes hf hm hq hp hb hv hn hlo hhi hslot hroom hs).trans ht.symm) hh
  · exact exec_next rfl ((remainderAppend_drops hf hm hq hp hb hv hn hlo hhi hfull).trans ht.symm) hh

end Sys2Proof.Machine
end

section
/-! O59: the step. A turn of the agenda is taken in its state; an issue takes place at its start; and what issues is what the fetch decodes. -/

namespace Sys2Proof.Machine

/-! ## Turns -/

theorem step_of_agenda {s : State} {n : Nat} {m : Move} {l : List Turn} (h : s.agenda = ⟨n, m⟩ :: l) :
    step s = onNext ((({ s with agenda := l } : State).pass n).move m) (fun u => answer u.settle) := by
  simp only [step, State.nextTurn, h, State.turn]

section
variable {s : State} {next : State → Option (Nat × Host.Outcome State Fault Refusal)} {now : Nat} {o : Host.Outcome State Fault Refusal}
  (h : next s = some (now, o))
include h

theorem atStart_due (hle : now ≤ s.gt) : s.atStart next = o := by simp [State.atStart, h, hle]

/-- Before the start of an issue another one comes first (R365). -/
theorem atStart_waits (hlt : s.gt < now) (hany : s.issues.any (fun e => decide (e.1 < now)) = true) : s.atStart next = answer s := by
  simp only [State.atStart, h, if_neg (Nat.not_le.mpr hlt), if_pos hany]

/-- Time moves to the start of an issue that no other comes before (R365, R369). -/
theorem atStart_elapses {b : Nat} {p : Host.Outcome State Fault Refusal} (hlt : s.gt < now)
    (hany : s.issues.any (fun e => decide (e.1 < now)) = false) (hp : next (s.elapse now) = some (b, p)) (hb : b ≤ (s.elapse now).gt) :
    s.atStart next = p := by
  simp only [State.atStart, h, if_neg (Nat.not_le.mpr hlt), hany, Bool.false_eq_true, if_false, hp, if_pos hb]

end

/-! ## A rod's pass -/

theorem rodNext_unfrozen {s : State} {pair q : Nat} {a : Agent} {t : Team} {r : Rank} {x : Split} (ha : s.chooseSplit pair q = some a)
    (hs : s.splitOf a = some (t, r, x)) (ht : t.frozen = none) : s.rodNext pair q = some (s.startOf (s.rodRun pair q), s.rodRun pair q) := by
  simp [State.rodNext, ha, hs, ht]

/-- A rod whose watchdog is not due issues what it fetches (R181). -/
theorem rodRun_issues {s s2 : State} {pair q : Nat} {a : Agent} {i : Instr} (ha : s.chooseSplit pair q = some a)
    (hw : ((s.makeCurrent pair q a).untilPass pair q a).watchdogDue pair q = false)
    (hf : ((s.makeCurrent pair q a).untilPass pair q a).fetchCur = (s2, some i)) : s.rodRun pair q = s2.issueRod i pair q a := by
  simp only [State.rodRun, ha, hw, hf, Bool.false_eq_true, if_false]

theorem issueRod_alone {s : State} {i : Instr} {pair q : Nat} {a : Agent} (h : s.partners i pair q a = []) : s.issueRod i pair q a = exec i s := by
  simp only [State.issueRod, h]

/-- The state after a tandem pass: the rod is busy to the common end, and what was current stays so unless it stopped (R371, R372). -/
def State.fused (s : State) (pair q : Nat) (a : Agent) (ps : List PassPlan) (y : State) (stopped : Bool) : State :=
  { y with gt := fusedStart ps, cur := a }.putRod pair q { y.rod pair q with
    cur := if stopped then (y.rod pair q).cur else some a
    watch := if stopped then (y.rod pair q).watch else (s.rod pair q).watch + (fusedEnd ps - (s.rod pair q).earliest)
    earliest := fusedEnd ps
    doneAt := fusedEnd ps }

theorem issueRod_fused {s y : State} {i : Instr} {pair q : Nat} {a : Agent} {ps : List PassPlan} {stopped : Bool} (h : s.partners i pair q a = ps)
    (hne : ps ≠ []) (hrun : runTandem i pair q s.gt a (s.rod pair q) (fusedStarts (fusedStart ps) 0 ps) s = .next (y, stopped)) (hy : y.hole = none) :
    s.issueRod i pair q a = .next (s.fused pair q a ps y stopped) := by
  cases ps with
  | nil => exact absurd rfl hne
  | cons p ps =>
    simp only [State.issueRod, h, hrun]
    exact answer_next hy

/-! ## The control stream -/

theorem ctlNext_runs {s s2 : State} {t : Team} {i : Instr} (ht : t.frozen = none)
    (hf : (({ s with cur := .ctl t.uid, gt := max s.gt (max t.ctl.earliest (tabGet 0 (s.pair t.pair).nextCtl t.layer)) } : State).putTeam
      { t with ctl := { t.ctl with wait := .none } }).fetchCur = (s2, some i)) :
    s.ctlNext t = some (s.startOf (onNext (exec i s2) (fun u => answer (u.ctlTurned t.pair t.layer t.slot t.uid))),
      onNext (exec i s2) (fun u => answer (u.ctlTurned t.pair t.layer t.slot t.uid))) := by
  have hrun : s.ctlRun t = onNext (exec i s2) (fun u => answer (u.ctlTurned t.pair t.layer t.slot t.uid)) := by
    simp only [State.ctlRun, hf]
  simp only [State.ctlNext, ht, hrun, if_true]

/-- A control thread that comes before another starts no later. -/
theorem ctlFirst_le {last : Nat} {e f : Nat × Nat × Host.Outcome State Fault Refusal} (h : ctlFirst last e f = true) : e.2.1 ≤ f.2.1 := by
  simp only [ctlFirst, Bool.or_eq_true, Bool.and_eq_true, decide_eq_true_eq] at h
  omega

theorem le_of_not_ctlFirst {last : Nat} {e f : Nat × Nat × Host.Outcome State Fault Refusal} (h : ¬ ctlFirst last e f = true) : f.2.1 ≤ e.2.1 := by
  simp only [ctlFirst, Bool.or_eq_true, decide_eq_true_eq] at h
  omega

/-- The first of some control threads is one of them, and none starts before it. -/
theorem foldl_ctlFirst (last : Nat) (l : List (Nat × Nat × Host.Outcome State Fault Refusal)) (e : Nat × Nat × Host.Outcome State Fault Refusal) :
    l.foldl (fun m d => if ctlFirst last m d then m else d) e ∈ e :: l ∧
      ∀ d ∈ e :: l, (l.foldl (fun m d => if ctlFirst last m d then m else d) e).2.1 ≤ d.2.1 := by
  induction l generalizing e with
  | nil => simp
  | cons f l ih =>
    rw [List.foldl_cons]
    by_cases h : ctlFirst last e f = true
    · rw [if_pos h]
      obtain ⟨hmem, hle⟩ := ih e
      have he := hle e List.mem_cons_self
      have hef := ctlFirst_le h
      refine ⟨by grind, fun d hd => ?_⟩
      obtain rfl | rfl | hd := by simpa using hd
      · exact he
      · omega
      · exact hle d (List.mem_cons_of_mem _ hd)
    · rw [if_neg h]
      obtain ⟨hmem, hle⟩ := ih f
      have hf := hle f List.mem_cons_self
      have hfe := le_of_not_ctlFirst h
      refine ⟨by grind, fun d hd => ?_⟩
      obtain rfl | hd := List.mem_cons.mp hd
      · omega
      · exact hle d hd

/-- A core's next instruction is that of one of its ready control threads, and none of them starts before it (R187, R369). -/
theorem coreNext_first {s : State} {pair layer now : Nat} {o : Host.Outcome State Fault Refusal} (h : s.coreNext pair layer = some (now, o)) :
    (∃ t ∈ s.readyCtls pair layer, s.ctlNext t = some (now, o)) ∧
      ∀ t ∈ s.readyCtls pair layer, ∀ m p, s.ctlNext t = some (m, p) → now ≤ m := by
  unfold State.coreNext at h
  dsimp only at h
  cases hl : (s.readyCtls pair layer).filterMap (fun t => (s.ctlNext t).map (fun e => (t.slot, e))) with
  | nil => simp [hl] at h
  | cons e l =>
    simp only [hl] at h
    obtain ⟨hmem, hle⟩ := foldl_ctlFirst (tabGet 0 (s.pair pair).lastCtl layer) l e
    generalize l.foldl _ e = m at h hmem hle
    have hm : m.2 = (now, o) := by simpa using h
    rw [← hl] at hmem hle
    obtain ⟨t, ht, hmt⟩ := List.mem_filterMap.mp hmem
    obtain ⟨e', he', rfl⟩ := Option.map_eq_some_iff.mp hmt
    refine ⟨⟨t, ht, he'.trans (congrArg some hm)⟩, fun u hu n p hn => ?_⟩
    have hle' := hle (u.slot, (n, p)) (List.mem_filterMap.mpr ⟨u, hu, by rw [hn]; rfl⟩)
    rwa [hm] at hle'

/-! ## The fetch -/

theorem fetchWord_hit {s s1 : State} {q : Req} {pc : Nat} {p : Page} {c : Copy} (hp : s.fetchPage q pc = (s1, .ok p))
    (hc : s1.copyFor (.icache q.pair) (p.base + p.off) 8 = some c) :
    s.fetchWord q pc = (s1, .word (wordOfBytes ((c.data.drop (p.base + p.off - c.pa)).take 8))) := by
  simp only [State.fetchWord, hp, hc, wordOfBytes]

section
variable {s s1 s2 : State} {q : Req} {pc : Nat} {w x : DWord}

theorem fetchAt_one (hw : s.fetchWord q pc = (s1, .word w)) (hop : w.extractLsb' 54 10 ≠ 0x064#10) :
    s.fetchAt q pc = (s1, .ok (decodeWords w none).1) := by
  simp only [State.fetchAt, hw, if_neg hop]

/-- A two-word opcode takes the word after it (R202). -/
theorem fetchAt_two (hw : s.fetchWord q pc = (s1, .word w)) (hop : w.extractLsb' 54 10 = 0x064#10) (hx : s1.fetchWord q (pc + 8) = (s2, .word x)) :
    s.fetchAt q pc = (s2, .ok (decodeWords w (some x)).1) := by
  simp only [State.fetchAt, hw, if_pos hop, hx]

end

theorem fetchCur_split {s s1 : State} {f : Foc} {i : Instr} (hf : focus s = some f) (h : s.fetchAt f.t.req f.x.pc.toNat = (s1, .ok i)) :
    s.fetchCur = (s1, some i) := by
  simp only [State.fetchCur, hf, h]

theorem fetchCur_ctl {s s1 : State} {t : Team} {i : Instr} (hf : focus s = none) (ht : s.ctlTeam = some t)
    (h : s.fetchAt t.req t.ctl.pc.toNat = (s1, .ok i)) : s.fetchCur = (s1, some i) := by
  simp only [State.fetchCur, hf, ht, h]

/-! ## Decoding -/

/-- FFMA4, the instruction of two words (R202). -/
def isFfma4 : Instr → Bool
  | .ffma4 _ _ => true
  | _ => false

theorem opFind_mem {α : Type} {l : List (Nat × α)} {n : Nat} {v : α} (h : opFind l n = some v) : (n, v) ∈ l := by
  induction l with
  | nil => simp [opFind] at h
  | cons e l ih =>
    obtain ⟨k, u⟩ := e
    rw [opFind] at h
    split at h
    · rename_i hk
      simp_all
    · exact List.mem_cons_of_mem _ (ih h)

/-- The opcode of FFMA4 with its layout, as the ten bits of the fetch (R195, R202). -/
theorem opcode_ffma4_iff (w : DWord) : w.extractLsb' 54 10 = 0x064#10 ↔ (w.extractLsb' 62 2).toNat = 0 ∧ (w.extractLsb' 54 8).toNat = 0x64 := by
  rw [← BitVec.toNat_inj]
  simp only [BitVec.extractLsb'_toNat, Nat.shiftRight_eq_div_pow, BitVec.toNat_ofNat]
  omega

/-- No opcode of the F form names FFMA4 by itself. -/
theorem fInstr_not_ffma4 {op : Nat} {f : FWord} {i : Instr} (h : fInstr op f = some i) : isFfma4 i = false := by
  have hall : fOps.all (fun e => !isFfma4 (e.2 f)) = true := rfl
  unfold fInstr at h
  split at h
  · cases h
    split <;> rfl
  · split at h
    · cases h
      split <;> rfl
    · obtain ⟨c, hc, rfl⟩ := Option.map_eq_some_iff.mp h
      simpa using List.all_eq_true.mp hall _ (opFind_mem hc)

theorem lInstr_not_ffma4 {op : Nat} {w : DWord} {i : Instr} (h : lInstr op w = some i) : isFfma4 i = false := by
  have hbr : brOps.all (fun e => !isFfma4 (e.2 (brOfWord w))) = true := rfl
  have hmem : memOps.all (fun e => !isFfma4 (e.2 (memOfWord w))) = true := rfl
  unfold lInstr at h
  split at h
  · cases h; rfl
  · split at h
    · rename_i c hc
      cases h
      simpa using List.all_eq_true.mp hbr _ (opFind_mem hc)
    · obtain ⟨c, hc, rfl⟩ := Option.map_eq_some_iff.mp h
      simpa using List.all_eq_true.mp hmem _ (opFind_mem hc)

section
variable {w : DWord} {next : Option DWord}

theorem decodeWords_ffma4_alone (h : w.extractLsb' 54 10 = 0x064#10) : (decodeWords w none).1 = .unassignedOpcodeWord w := by
  obtain ⟨hl, hop⟩ := (opcode_ffma4_iff w).mp h
  simp [decodeWords, hl, hop]

theorem decodeWords_fForm (hl : (w.extractLsb' 62 2).toNat = 0) (hop : (w.extractLsb' 54 8).toNat ≠ 0x64) :
    (decodeWords w next).1 = (fInstr (w.extractLsb' 54 8).toNat (fOfWord w)).getD (.unassignedOpcodeWord w) := by
  simp only [decodeWords, hl, if_neg hop]
  split <;> simp only [*, Option.getD_some, Option.getD_none]

theorem decodeWords_pForm (hl : (w.extractLsb' 62 2).toNat = 1) : (decodeWords w next).1 = .pFormPair (pOfWord w) := by
  simp only [decodeWords, hl]

theorem decodeWords_lForm (hl : (w.extractLsb' 62 2).toNat = 2) :
    (decodeWords w next).1 = (lInstr (w.extractLsb' 54 8).toNat w).getD (.unassignedOpcodeWord w) := by
  simp only [decodeWords, hl]
  split <;> simp only [*, Option.getD_some, Option.getD_none]

theorem decodeWords_xForm (hl : (w.extractLsb' 62 2).toNat = 3) : (decodeWords w next).1 = .unassignedOpcodeWord w := by
  simp only [decodeWords, hl]

/-- What decodes to FFMA4 has its opcode and a word after it (R202). -/
theorem opcode_of_decodeWords_ffma4 (h : isFfma4 (decodeWords w next).1 = true) : w.extractLsb' 54 10 = 0x064#10 ∧ next.isSome = true := by
  have hor : ∀ {found : Option Instr}, (∀ i, found = some i → isFfma4 i = false) → isFfma4 (found.getD (.unassignedOpcodeWord w)) = false := by
    rintro (_ | i) hi
    · rfl
    · exact hi i rfl
  obtain hl | hl | hl | hl : (w.extractLsb' 62 2).toNat = 0 ∨ (w.extractLsb' 62 2).toNat = 1 ∨ (w.extractLsb' 62 2).toNat = 2 ∨
    (w.extractLsb' 62 2).toNat = 3 := by omega
  · by_cases hop : (w.extractLsb' 54 8).toNat = 0x64
    · have hten := (opcode_ffma4_iff w).mpr ⟨hl, hop⟩
      refine ⟨hten, ?_⟩
      cases next with
      | none => simp [decodeWords_ffma4_alone hten, isFfma4] at h
      | some x => rfl
    · rw [decodeWords_fForm hl hop, hor (fun i => fInstr_not_ffma4)] at h
      exact absurd h Bool.false_ne_true
  · rw [decodeWords_pForm hl] at h
    exact absurd h Bool.false_ne_true
  · rw [decodeWords_lForm hl, hor (fun i => lInstr_not_ffma4)] at h
    exact absurd h Bool.false_ne_true
  · rw [decodeWords_xForm hl] at h
    exact absurd h Bool.false_ne_true

end

/-- At most eight bytes that decode are one word (R195). -/
theorem decodeWords_of_decode_one {l : List Byte} {i : Instr} (h : decode (l.take 8) = some (i, [])) : (decodeWords (wordOfBytes (l.take 8)) none).1 = i := by
  have hle : (l.take 8).length ≤ 8 := List.length_take_le 8 l
  unfold decode at h
  split at h
  · cases h
  · simp only [if_pos (show (l.take 8).length < 16 by omega), List.take_take, Nat.min_self, Option.some.injEq, Prod.mk.injEq] at h
    exact h.1

/-- FFMA4 decodes from two words of eight bytes (R202). -/
theorem decodeWords_of_decode_two {l l' : List Byte} {i : Instr} (hi : isFfma4 i = true) (h : decode (l.take 8 ++ l'.take 8) = some (i, [])) :
    (wordOfBytes (l.take 8)).extractLsb' 54 10 = 0x064#10 ∧ (decodeWords (wordOfBytes (l.take 8)) (some (wordOfBytes (l'.take 8)))).1 = i := by
  have hle : (l.take 8).length ≤ 8 := List.length_take_le 8 l
  have hle' : (l'.take 8).length ≤ 8 := List.length_take_le 8 l'
  unfold decode at h
  split at h
  · cases h
  · simp only [Option.some.injEq, Prod.mk.injEq] at h
    obtain ⟨rfl, -⟩ := h
    obtain ⟨hop, hnext⟩ := opcode_of_decodeWords_ffma4 hi
    have hlen : ¬ (l.take 8 ++ l'.take 8).length < 16 := fun hlt => by
      rw [if_pos hlt] at hnext
      cases hnext
    rw [List.length_append] at hlen
    have h8 : (l.take 8).length = 8 := by omega
    have htake : (l.take 8 ++ l'.take 8).take 8 = l.take 8 := List.take_left' h8
    have hdrop : ((l.take 8 ++ l'.take 8).drop 8).take 8 = l'.take 8 := by rw [List.drop_left' h8, List.take_take, Nat.min_self]
    rw [htake] at hop
    rw [List.length_append, if_neg hlen, htake, hdrop]
    exact ⟨hop, rfl⟩

/-- A word whose instruction stands alone is not of FFMA4's opcode. -/
theorem opcode_of_decode_one {w : DWord} {i : Instr} (h : (decodeWords w none).1 = i)
    (hi : ¬ ∃ v, i = .unassignedOpcodeWord v ∧ v.extractLsb' 54 10 = 0x064#10) : w.extractLsb' 54 10 ≠ 0x064#10 :=
  fun hop => hi ⟨w, h.symm.trans (decodeWords_ffma4_alone hop), hop⟩

/-- One instruction that the instruction cache holds is fetched (R195, R367). -/
theorem fetchAt_hit_one {s s1 : State} {q : Req} {pc : Nat} {p : Page} {c : Copy} {i : Instr} (hp : s.fetchPage q pc = (s1, .ok p))
    (hc : s1.copyFor (.icache q.pair) (p.base + p.off) 8 = some c) (hd : decode ((c.data.drop (p.base + p.off - c.pa)).take 8) = some (i, []))
    (hi : ¬ ∃ v, i = .unassignedOpcodeWord v ∧ v.extractLsb' 54 10 = 0x064#10) : s.fetchAt q pc = (s1, .ok i) := by
  have hw := decodeWords_of_decode_one hd
  rw [fetchAt_one (fetchWord_hit hp hc) (opcode_of_decode_one hw hi), hw]

/-- The two words of FFMA4 that the instruction cache holds are fetched (R202). -/
theorem fetchAt_hit_two {s s1 s2 : State} {q : Req} {pc : Nat} {p p' : Page} {c c' : Copy} {i : Instr} (hp : s.fetchPage q pc = (s1, .ok p))
    (hc : s1.copyFor (.icache q.pair) (p.base + p.off) 8 = some c) (hp' : s1.fetchPage q (pc + 8) = (s2, .ok p'))
    (hc' : s2.copyFor (.icache q.pair) (p'.base + p'.off) 8 = some c') (hi : isFfma4 i = true)
    (hd : decode ((c.data.drop (p.base + p.off - c.pa)).take 8 ++ (c'.data.drop (p'.base + p'.off - c'.pa)).take 8) = some (i, [])) :
    s.fetchAt q pc = (s2, .ok i) := by
  obtain ⟨hop, hw⟩ := decodeWords_of_decode_two hi hd
  rw [fetchAt_two (fetchWord_hit hp hc) hop (fetchWord_hit hp' hc'), hw]

/-! ## The obligation -/

/-- Settles O59: a step takes the turn of the agenda, and what it issues is what its fetch decodes. -/
theorem stepRunsTheDecodedInstruction : Obligations.StepRunsTheDecodedInstruction := by
  unfold Obligations.StepRunsTheDecodedInstruction
  refine ⟨?rod, ?start, ?core, fun s pair layer now o => coreNext_first, fun s s2 t i o ht hf ho => ho ▸ ctlNext_runs ht hf, ?event,
    fun s s1 f p c i hf hp hc hd hi => fetchCur_split hf (fetchAt_hit_one hp hc hd hi),
    fun s s1 t p c i hf ht hp hc hd hi => fetchCur_ctl hf ht (fetchAt_hit_one hp hc hd hi),
    fun s s1 s2 f p p' c c' w x hf hp hc hp' hc' hd => fetchCur_split hf (fetchAt_hit_two hp hc hp' hc' rfl hd)⟩
  case rod =>
    rintro s s0 s1 s2 n pair q l a t r x i hag rfl ha hx ht rfl hw hf
    have hnext := rodNext_unfrozen ha hx ht
    rw [rodRun_issues ha hw hf] at hnext
    refine ⟨fun hp hle => ?_, fun ps y stopped hp hne hrun hle hy => ?_⟩
    · rw [issueRod_alone hp] at hnext
      rw [step_of_agenda hag, State.move, State.rodTurn, atStart_due hnext hle]
    · rw [issueRod_fused hp hne hrun hy] at hnext
      rw [step_of_agenda hag, State.move, State.rodTurn, atStart_due hnext hle]
      rfl
  case start =>
    rintro s s0 n pair q l now o hag rfl hn hlt hh
    refine ⟨fun hany => ?_, fun b p hany hp hb => ?_⟩
    · rw [step_of_agenda hag, State.move, State.rodTurn, atStart_waits hn hlt hany, answer_next hh, onNext]
    · rw [step_of_agenda hag, State.move, State.rodTurn, atStart_elapses hn hlt hany hp hb]
  case core =>
    rintro s s0 n pair layer l now o hag rfl hn hle
    rw [step_of_agenda hag, State.move, State.ctlTurn, atStart_due hn hle]
  case event =>
    intro s n l i hag he hwf
    rw [step_of_agenda hag, State.move, State.eventTurn, he, hwf]
    rfl

end Sys2Proof.Machine
end

section
/-! O56 and O57: decoding. A word's fields are what its encoder put there; by them every instruction of one word decodes whatever follows it, and
bytes decode as their words do. -/

namespace Sys2Proof.Machine

/-! ## Bytes of a word -/

theorem leNat_natLe (n v : Nat) : leNat (natLe n v) = v % 256 ^ n := by
  induction n generalizing v with
  | zero => exact (Nat.mod_one v).symm
  | succ n ih =>
    rw [natLe, leNat, ih, Nat.pow_succ', Nat.mod_mul]
    rfl

theorem wordOfBytes_natLe (w : DWord) : wordOfBytes (natLe 8 w.toNat) = w := by
  rw [wordOfBytes, leNat_natLe, Nat.mod_eq_of_lt (show w.toNat < 256 ^ 8 from w.isLt), BitVec.ofNat_toNat, BitVec.setWidth_eq]

/-! ## Fields of a word

Each layout stands in its word field by field: what the decoder reads is what the encoder put there (R196, R201, R204, R208, R210, R211). -/

theorem fToWord_fields (op : BitVec 8) (f : FWord) :
    (fToWord op f).extractLsb' 62 2 = 0#2 ∧ (fToWord op f).extractLsb' 54 8 = op ∧ fOfWord (fToWord op f) = f := by
  simp (disch := omega) only [fToWord, fOfWord, BitVec.extractLsb'_append_eq_of_le, BitVec.extractLsb'_append_eq_right,
    BitVec.extractLsb'_eq_self, BitVec.getLsbD_append, BitVec.getLsbD_ofBool, Nat.reduceSub, Nat.reduceLT, reduceIte, decide_true,
    Bool.true_and, and_self]

theorem xToWord_fields (x : XWord) : (xToWord x).extractLsb' 62 2 = 3#2 ∧ xOfWord (xToWord x) = x := by
  simp (disch := omega) only [xToWord, xOfWord, BitVec.extractLsb'_append_eq_of_le, BitVec.extractLsb'_append_eq_right,
    BitVec.extractLsb'_eq_self, BitVec.getLsbD_append, BitVec.getLsbD_ofBool, Nat.reduceSub, Nat.reduceLT, reduceIte, decide_true,
    Bool.true_and, and_self]

theorem pToWord_fields (p : PWord) : (pToWord p).extractLsb' 62 2 = 1#2 ∧ pOfWord (pToWord p) = p := by
  simp (disch := omega) only [pToWord, pOfWord, BitVec.extractLsb'_append_eq_of_le, BitVec.extractLsb'_append_eq_right,
    BitVec.extractLsb'_eq_self, Nat.reduceSub, and_self]

theorem memToWord_fields (op : BitVec 8) (m : MemWord) :
    (memToWord op m).extractLsb' 62 2 = 2#2 ∧ (memToWord op m).extractLsb' 54 8 = op ∧ memOfWord (memToWord op m) = m := by
  simp (disch := omega) only [memToWord, memOfWord, BitVec.extractLsb'_append_eq_of_le, BitVec.extractLsb'_append_eq_right,
    BitVec.extractLsb'_eq_self, BitVec.getLsbD_append, BitVec.getLsbD_ofBool, Nat.reduceSub, Nat.reduceLT, reduceIte, decide_true,
    Bool.true_and, and_self]

theorem brToWord_fields (op : BitVec 8) (b : BrWord) :
    (brToWord op b).extractLsb' 62 2 = 2#2 ∧ (brToWord op b).extractLsb' 54 8 = op ∧ brOfWord (brToWord op b) = b := by
  simp (disch := omega) only [brToWord, brOfWord, BitVec.extractLsb'_append_eq_of_le, BitVec.extractLsb'_append_eq_right,
    BitVec.extractLsb'_eq_self, BitVec.getLsbD_append, BitVec.getLsbD_ofBool, Nat.reduceSub, Nat.reduceLT, reduceIte, decide_true,
    Bool.true_and, and_self]

theorem immToWord_fields (i : ImmWord) :
    (immToWord i).extractLsb' 62 2 = 2#2 ∧ (immToWord i).extractLsb' 54 8 = 0x1C#8 ∧ immOfWord (immToWord i) = i := by
  simp (disch := omega) only [immToWord, immOfWord, BitVec.extractLsb'_append_eq_of_le, BitVec.extractLsb'_append_eq_right,
    BitVec.extractLsb'_eq_self, BitVec.getLsbD_append, BitVec.getLsbD_ofBool, Nat.reduceSub, Nat.reduceLT, reduceIte, decide_true,
    Bool.true_and, and_self]

/-! ## Words that decode -/

section
variable {w : DWord} {next : Option DWord} {i : Instr}

/-- What is not FFMA4 is one word (R195). -/
theorem decodeWords_one (h : (decodeWords w next).1 = i) (hi : isFfma4 i = false) : decodeWords w next = (i, 1) := by
  subst h
  refine Prod.ext rfl ?_
  unfold decodeWords at hi ⊢
  dsimp only at hi ⊢
  split at hi
  · cases hi
  · rfl
  · rfl

theorem decodeWords_fToWord {op : BitVec 8} {f : FWord} (hop : op ≠ 0x64#8) (h : fInstr op.toNat f = some i) :
    decodeWords (fToWord op f) next = (i, 1) := by
  obtain ⟨hl, hopc, hf⟩ := fToWord_fields op f
  refine decodeWords_one ?_ (fInstr_not_ffma4 h)
  rw [decodeWords_fForm (by rw [hl]; rfl) (by rw [hopc]; exact fun he => hop (BitVec.eq_of_toNat_eq he)), hopc, hf, h, Option.getD_some]

theorem decodeWords_pToWord (p : PWord) : decodeWords (pToWord p) next = (.pFormPair p, 1) := by
  obtain ⟨hl, hp⟩ := pToWord_fields p
  refine decodeWords_one ?_ rfl
  rw [decodeWords_pForm (by rw [hl]; rfl), hp]

theorem decodeWords_lWord {op : BitVec 8} (hl : w.extractLsb' 62 2 = 2#2) (hop : w.extractLsb' 54 8 = op) (h : lInstr op.toNat w = some i) :
    decodeWords w next = (i, 1) := by
  refine decodeWords_one ?_ (lInstr_not_ffma4 h)
  rw [decodeWords_lForm (by rw [hl]; rfl), hop, h, Option.getD_some]

theorem decodeWords_immToWord (m : ImmWord) : decodeWords (immToWord m) next = (.li m, 1) := by
  obtain ⟨hl, hop, hm⟩ := immToWord_fields m
  exact decodeWords_lWord hl hop (congrArg (fun m => some (Instr.li m)) hm)

/-- FFMA4 and its X word (R202). -/
theorem decodeWords_ffma4 (f : FWord) (x : XWord) : decodeWords (fToWord 0x64#8 f) (some (xToWord x)) = (.ffma4 f x, 2) := by
  obtain ⟨hl, hop, hf⟩ := fToWord_fields 0x64#8 f
  obtain ⟨hx, hc⟩ := xToWord_fields x
  simp [decodeWords, hl, hop, hf, hx, hc]

end

/-! ## Instructions by their words -/

/-- An instruction of one word, which decodes to it whatever word follows (R195). -/
def OneWord (i : Instr) : Prop := ∃ w, encode i = [w] ∧ ∀ next, decodeWords w next = (i, 1)

theorem oneWord_fForm {i : Instr} {op : BitVec 8} {f : FWord} (he : encode i = [fToWord op f]) (hop : op ≠ 0x64#8)
    (hd : fInstr op.toNat f = some i) : OneWord i :=
  ⟨_, he, fun _ => decodeWords_fToWord hop hd⟩

/-- An instruction of layout L, whose opcode and fields stand in their places (R208, R210). -/
theorem oneWord_lForm {α : Type} {toWord : BitVec 8 → α → DWord} {ofWord : DWord → α} {op : BitVec 8} {c : α → Instr} {a : α}
    (hf : ∀ op a, (toWord op a).extractLsb' 62 2 = 2#2 ∧ (toWord op a).extractLsb' 54 8 = op ∧ ofWord (toWord op a) = a)
    (he : encode (c a) = [toWord op a]) (hd : ∀ w, lInstr op.toNat w = some (c (ofWord w))) : OneWord (c a) := by
  obtain ⟨hl, hop, ha⟩ := hf op a
  exact ⟨_, he, fun _ => decodeWords_lWord hl hop (by rw [hd, ha])⟩

/-- A well-formed instruction of a code stream is one word that decodes to it, FFMA4, or a word of no instruction (R195, R202, R232). -/
theorem encoded_cases {i : Instr} (hwf : wellFormed i = true) (he : encode i ≠ []) :
    OneWord i ∨ (∃ f x, i = .ffma4 f x) ∨ ∃ w, i = .unassignedOpcodeWord w := by
  cases i with
  | ffma4 f x => exact .inr (.inl ⟨f, x, rfl⟩)
  | unassignedOpcodeWord w => exact .inr (.inr ⟨w, rfl⟩)
  | pFormPair p => exact .inl ⟨_, rfl, fun _ => decodeWords_pToWord p⟩
  | li m => exact .inl ⟨_, rfl, fun _ => decodeWords_immToWord m⟩
  | bra b | call b => exact .inl (oneWord_lForm brToWord_fields rfl (fun _ => rfl))
  | ld m | st m | ldf m | stf m | stcmp m | ldexp m | atom m | ldcap m | stcap m | pref m | spwb m =>
    exact .inl (oneWord_lForm memToWord_fields rfl (fun _ => rfl))
  | ret f | ireq f => exact .inl (oneWord_fForm rfl (by decide) (congrArg some (if_neg (by simpa [wellFormed] using hwf))))
  | retH f | ireqUnb f => exact .inl (oneWord_fForm rfl (by decide) (congrArg some (if_pos hwf)))
  | nop f | iadd f | isub f | imul f | imulh f | imad f | iaddc f | imin f | imax f | iabs f | and f | or f | xor f | andn f | shl f
  | shr f | sar f | rotl f | bfx f | bfi f | popc f | clz f | ctz f | brev f | perm f | sel f | icmp f | mov f | iadd64 f | isub64 f
  | imad64 f | shl64 f | shr64 f | sar64 f | icmp64 f | mov64 f | cderive f | caim f | cstep f | cfloor f | cspan f | cwhere f
  | cnarrow f | cprobe f | ckind f | fadd f | fsub f | fmul f | ffma f | ffms f | fnma f | fmin f | fmax f | fcmp f | frnd f | ffrac f
  | fclass f | frcp f | frsq f | fsqrt f | fex2 f | flg2 f | fsin f | fcos f | hadd2 f | hsub2 f | hmul2 f | hfma2 f | hmin2 f | hmax2 f
  | hcmp2 f | dadd f | dmul f | dfma f | dcmp f | cvt f | cvtn f | cvtw f | dot4 f | dot8 f | dot2h f | shfl f | shflx f | shflup f
  | shfldn f | ballot f | vote f | red f | scan f | matchv f | elect f | ddx f | ddy f | rduni f | rclaim f | rclaimt f | rrelease f
  | rshare f | runshare f | deposit f | rmark f | rarriv f | sample f | fetch f | rquery f | trace f | fence f | dalloc f | dfree f
  | brai f | calli f | join f | yield f | exit f | bar f | flagadd f | flagwait f | qpush f | qpop f | trap f | brk f | sleep f | rdsys f
  | wrsys f | cpy f | cpyg f | cpys f | hwait f | htest f | hcancel f | ringinit f | rwait f | rfree f | macq f | mrel f | mzero f
  | mma f | mmag f | mload f | mstore f | mstoreg f | amaxstep f | beam f | launch f | tlblock f | tlbunlock f | cpin f =>
    exact .inl (oneWord_fForm rfl (by decide) rfl)
  | _ => exact absurd rfl he

/-! ## Bytes that decode -/

theorem encodeBytes_one {i : Instr} {w : DWord} (h : encode i = [w]) : encodeBytes i = natLe 8 w.toNat := by
  rw [encodeBytes, h, List.flatMap_singleton]

theorem encodeBytes_two {i : Instr} {w x : DWord} (h : encode i = [w, x]) : encodeBytes i = natLe 8 w.toNat ++ natLe 8 x.toNat := by
  rw [encodeBytes, h, List.flatMap_cons, List.flatMap_singleton]

/-- The bytes of a word, which decode with whatever follows that may be the word after it. -/
theorem decode_word {w : DWord} {i : Instr} {rest : List Byte} (h : ∀ next, (rest.length < 8 → next = none) → decodeWords w next = (i, 1)) :
    decode (natLe 8 w.toNat ++ rest) = some (i, rest) := by
  have h8 : (natLe 8 w.toNat).length = 8 := Laws.F.length_natLe 8 _
  unfold decode
  rw [if_neg (by rw [List.length_append]; omega), List.take_left' h8, wordOfBytes_natLe]
  dsimp only
  rw [h _ (fun hlt => if_pos (by rw [List.length_append]; omega)), Nat.mul_one, List.drop_left' h8]

theorem decode_two_words {w x : DWord} {i : Instr} {rest : List Byte} (h : decodeWords w (some x) = (i, 2)) :
    decode (natLe 8 w.toNat ++ natLe 8 x.toNat ++ rest) = some (i, rest) := by
  have h8 (v : Nat) : (natLe 8 v).length = 8 := Laws.F.length_natLe 8 v
  have h16 : (natLe 8 w.toNat ++ natLe 8 x.toNat).length = 16 := by rw [List.length_append, h8, h8]
  have hlen : 16 ≤ (natLe 8 w.toNat ++ natLe 8 x.toNat ++ rest).length := by rw [List.length_append]; omega
  unfold decode
  rw [if_neg (by omega), if_neg (by omega), List.append_assoc, List.take_left' (h8 _), List.drop_left' (h8 _), List.take_left' (h8 _),
    wordOfBytes_natLe, wordOfBytes_natLe]
  dsimp only
  rw [h, ← List.append_assoc, show 8 * (i, 2).2 = 16 from rfl, List.drop_left' h16]

/-! ## The obligations -/

/-- Settles O57: an instruction is one word that decodes to it, the two of FFMA4, or a word of no instruction at the end of the bytes. -/
theorem decodeOfEncode : Obligations.DecodeOfEncode := by
  unfold Obligations.DecodeOfEncode
  intro i rest hwf he hend
  obtain ⟨w, hw, hd⟩ | ⟨f, x, rfl⟩ | ⟨w, rfl⟩ := encoded_cases hwf he
  · rw [encodeBytes_one hw]
    exact decode_word (fun next _ => hd next)
  · rw [encodeBytes_two rfl]
    exact decode_two_words (decodeWords_ffma4 f x)
  · have hw : (decodeWords w none).1 = .unassignedOpcodeWord w := by simpa [wellFormed] using hwf
    rw [encodeBytes_one rfl]
    exact decode_word (fun next hn => hn (hend w rfl) ▸ decodeWords_one hw rfl)

/-- Settles O56: the words are closed, and the decoder evaluates on them. -/
theorem manualWordsDecode : Obligations.ManualWordsDecode := by
  unfold Obligations.ManualWordsDecode
  decide

end Sys2Proof.Machine
end

section
/-! O14: the P form. Both slots of a thread read before either writes, and no thread of a pass writes what another reads; so every thread's results
come from the registers as they were. -/

namespace Sys2Proof.Machine

/-! ## Results -/

theorem modA_plain (v : Word) : modA fp32 0 v.toNat = v.toNat := Nat.mod_eq_of_lt v.isLt
theorem modB_plain (v : Word) : modB fp32 0 v.toNat = v.toNat := Nat.mod_eq_of_lt v.isLt

/-- The X slot rounds as FADD, FSUB and FMUL do without modifiers (R205, R276). -/
theorem xResult_float (d a : Word) : xResult 1 d a = BitVec.ofNat 32 (addBits fp32 0 d.toNat a.toNat) ∧
    xResult 2 d a = BitVec.ofNat 32 (subBits fp32 0 d.toNat a.toNat) ∧ xResult 3 d a = BitVec.ofNat 32 (mulBits fp32 0 d.toNat a.toNat) := by
  unfold addBits subBits mulBits prodBits
  rw [modA_plain, modB_plain]
  exact ⟨rfl, rfl, rfl⟩

/-- The Y slot shifts by its immediate, which is below 32 (R205, R206). -/
theorem yResult_shifts {imm : BitVec 8} (d a : Word) (h : imm.toNat < 32) : (yResult 8 d a imm).toNat = d.toNat * 2 ^ imm.toNat % 2 ^ 32 ∧
    (yResult 9 d a imm).toNat = d.toNat / 2 ^ imm.toNat ∧ (yResult 10 d a imm).toInt = d.toInt / 2 ^ imm.toNat := by
  have hn : imm.toNat % 32 = imm.toNat := Nat.mod_eq_of_lt h
  refine ⟨?_, ?_, ?_⟩
  · change (d <<< (imm.toNat % 32)).toNat = _
    rw [hn, BitVec.toNat_shiftLeft, Nat.shiftLeft_eq]
  · change (d >>> (imm.toNat % 32)).toNat = _
    rw [hn, BitVec.toNat_ushiftRight, Nat.shiftRight_eq_div_pow]
  · change (d.sshiftRight (imm.toNat % 32)).toInt = _
    rw [hn, BitVec.toInt_sshiftRight, Int.shiftRight_eq_div_pow]
    norm_cast

theorem yResult_popc (d a : Word) (imm : BitVec 8) : (yResult 15 d a imm).toNat = (List.range 32).countP (fun i => a.getLsbD i) := by
  have hle := List.countP_le_length (p := fun i => a.getLsbD i) (l := List.range 32)
  rw [List.length_range] at hle
  rw [show yResult 15 d a imm = BitVec.ofNat 32 ((List.range 32).filter (fun i => a.getLsbD i)).length from rfl,
    ← List.countP_eq_length_filter, BitVec.toNat_ofNat, Nat.mod_eq_of_lt (by omega)]

/-! ## A thread of a pass -/

theorem writeV_vreg_ne (r : Rank) {p q : Nat} (n m : Nat) (v : Word) (h : p ≠ q) : (r.writeV p n v).vreg q m = r.vreg q m := by
  unfold Rank.vreg Rank.writeV Rank.putVtag Rank.putVreg
  rw [modThread_thread_ne _ _ h, modThread_thread_ne _ _ h]

/-- A slot without an operation writes nothing. -/
theorem slotWrite_vreg_ne (pop : BitVec 7) (r : Rank) {p q : Nat} (n m : Nat) (v : Word) (h : p ≠ q) :
    (if pop = 0 then r else r.writeV p n v).vreg q m = r.vreg q m := by
  split
  · rfl
  · exact writeV_vreg_ne r n m v h

/-- What a thread of a P-form pass writes, from what its registers hold in the rank `r0` (R205, R206). -/
def Rank.pairWrites (r0 : Rank) (w : PWord) (x y : Slot) (r : Rank) (p : Nat) : Rank :=
  let r1 := if w.xpop = 0 then r else r.writeV p w.xd.toNat (xResult w.xpop.toNat (if x.d then (r0.vreg p w.xd.toNat).val else 0)
    (if x.a then (r0.vreg p w.xa.toNat).val else 0))
  if w.ypop = 0 then r1 else r1.writeV p w.yd.toNat (yResult w.ypop.toNat (if y.d then (r0.vreg p w.yd.toNat).val else 0)
    (if y.a then (r0.vreg p w.ya.toNat).val else 0) w.yimm)

theorem pairWrites_vreg_ne (r0 : Rank) (w : PWord) (x y : Slot) (r : Rank) {p q : Nat} (h : p ≠ q) (n : Nat) :
    (r0.pairWrites w x y r p).vreg q n = r.vreg q n :=
  (slotWrite_vreg_ne w.ypop _ _ n _ h).trans (slotWrite_vreg_ne w.xpop r _ n _ h)

/-- Registers of a thread that are full and have no error mark (R184, R399). -/
def Rank.Readable (r : Rank) (p : Nat) (l : List Nat) : Prop := ∀ n ∈ l, (r.vreg p n).full = true ∧ (r.vreg p n).err = none

/-- A slot reads the value of a readable register, or reads nothing. -/
theorem slotRead {r : Rank} {p n : Nat} {use : Bool} {l : List Nat} (h : r.Readable p l) (hn : use = true → n ∈ l) :
    (if use then readReg r p false false n else .ok 0) = .ok (if use then (r.vreg p n).val else 0) := by
  cases use with
  | false => rfl
  | true =>
    obtain ⟨hf, he⟩ := h n (hn rfl)
    simp [readReg, hf, he]

theorem slotRead_d {r : Rank} {p d a : Nat} {q : Slot} (h : r.Readable p (slotReads q d a)) :
    (if q.d then readReg r p false false d else .ok 0) = .ok (if q.d then (r.vreg p d).val else 0) :=
  slotRead h (fun hd => by simp [slotReads, hd])

theorem slotRead_a {r : Rank} {p d a : Nat} {q : Slot} (h : r.Readable p (slotReads q d a)) :
    (if q.a then readReg r p false false a else .ok 0) = .ok (if q.a then (r.vreg p a).val else 0) :=
  slotRead h (fun ha => by simp [slotReads, ha])

/-- A thread whose registers hold values runs both slots (R206). -/
theorem pairThread_writes {w : PWord} {x y : Slot} {f : Foc} {p : Nat} (hx : f.r.Readable p (slotReads x w.xd.toNat w.xa.toNat))
    (hy : f.r.Readable p (slotReads y w.yd.toNat w.ya.toNat)) : pairThread w x y f p = .ok (f.withRank (f.r.pairWrites w x y f.r p)) := by
  unfold pairThread
  dsimp only
  rw [slotRead_d hx, slotRead_a hx, slotRead_d hy, slotRead_a hy]
  rfl

theorem pairLoop_writes {w : PWord} {x y : Slot} {zero : Foc → Nat → Foc} {r0 : Rank} {ps : List Nat} (hnd : ps.Nodup)
    (hx : ∀ p ∈ ps, r0.Readable p (slotReads x w.xd.toNat w.xa.toNat)) (hy : ∀ p ∈ ps, r0.Readable p (slotReads y w.yd.toNat w.ya.toNat))
    {f : Foc} (hr : ∀ p ∈ ps, ∀ n, f.r.vreg p n = r0.vreg p n) :
    passLoop (pairThread w x y) zero ps f = (f.withRank (ps.foldl (r0.pairWrites w x y) f.r), none) := by
  induction ps generalizing f with
  | nil => rfl
  | cons p ps ih =>
    obtain ⟨hp, hnd⟩ := List.nodup_cons.mp hnd
    have hread {l : List Nat} (h : r0.Readable p l) : f.r.Readable p l := fun n hn => by rw [hr p (by simp)]; exact h n hn
    have hsame : f.r.pairWrites w x y f.r p = r0.pairWrites w x y f.r p := by
      unfold Rank.pairWrites
      simp only [hr p (by simp)]
    unfold passLoop
    rw [pairThread_writes (hread (hx p (by simp))) (hread (hy p (by simp))), hsame]
    refine ih hnd (fun q hq => hx q (by simp [hq])) (fun q hq => hy q (by simp [hq])) (fun q hq n => ?_)
    exact (pairWrites_vreg_ne r0 w x y f.r (fun h : p = q => hp (h ▸ hq)) n).trans (hr q (by simp [hq]) n)

/-! ## The pass -/

theorem members_nodup (f : Foc) (g : Nat) (neg : Bool) : (f.members g neg).Nodup := (List.nodup_range.filter _).filter _

theorem issueSlots_eq (f : Foc) (c : Cls) (rd : List Nat) (slots : List (Cls × List Nat)) (act : List Nat) (u : Bool) :
    ∃ now rod, f.issueSlots c rd slots act u = f.withState (f.s.afterIssue f now rod) := ⟨_, _, rfl⟩

section
variable {s : State} {f : Foc} {w : PWord} {x y : Slot} {regs : List Nat}

/-- A P-form pass past its checks leaves both slots' results in every thread of it, and goes past its word (R206). -/
theorem pairVec_writes (hx : xSlot w.xpop.toNat = some x) (hy : ySlot w.ypop.toNat = some y) (hok : pairOk w x y = true)
    (hregs : regs = slotReads x w.xd.toNat w.xa.toNat ++ slotReads y w.yd.toNat w.ya.toNat ++ slotWrites w.xpop w.xd ++ slotWrites w.ypop w.yd)
    (hc : Clear f (f.members 0 false) regs regs) (herr : ∀ p ∈ f.members 0 false, ∀ n ∈ regs, (f.r.vreg p n).err = none) :
    ∃ now rod, pairVec w f = ((f.withState (f.s.afterIssue f now rod)).withRank ((f.members 0 false).foldl (f.r.pairWrites w x y) f.r)).done := by
  have hread {l : List Nat} (hl : ∀ n ∈ l, n ∈ regs) : ∀ p ∈ f.members 0 false, f.r.Readable p l :=
    fun p hp n hn => ⟨hc.full p hp n (hl n hn), herr p hp n (hl n hn)⟩
  have hloop (u : State) : passLoop (pairThread w x y) (pairZero w) (f.members 0 false) (f.withState u) =
      ((f.withState u).withRank ((f.members 0 false).foldl (f.r.pairWrites w x y) f.r), none) :=
    pairLoop_writes (members_nodup f 0 false) (hread (fun n hn => by simp [hregs, hn])) (hread (fun n hn => by simp [hregs, hn]))
      (fun _ _ _ => rfl)
  unfold pairVec
  dsimp only
  rw [hx, hy]
  dsimp only
  rw [← hregs, admit_none hok hc]
  dsimp only
  split
  case isTrue hnone =>
    obtain ⟨hx0, hy0⟩ := hnone
    obtain ⟨now, rod, hi⟩ := issue_eq f clsNop [] [] (f.members 0 false) false
    refine ⟨now, rod, ?_⟩
    rw [hi, List.foldl_fixed' (fun p => by simp [Rank.pairWrites, hx0, hy0])]
    rfl
  case isFalse =>
    obtain ⟨now, rod, hi⟩ := issueSlots_eq f clsFlt (slotReads x w.xd.toNat w.xa.toNat ++ slotReads y w.yd.toNat w.ya.toNat)
      [(clsFlt, slotWrites w.xpop w.xd), (clsInt, slotWrites w.ypop w.yd)] (f.members 0 false) false
    refine ⟨now, rod, ?_⟩
    rw [hi, hloop]
    rfl

theorem pairVec_unassigned (h : xSlot w.xpop.toNat = none ∨ ySlot w.ypop.toNat = none) :
    pairVec w f = f.trapIssue (f.members 0 false) .illegalOpcode (hiOf (pToWord w)) := by
  unfold pairVec
  dsimp only
  split
  · rename_i hx hy
    simp [hx, hy] at h
  · rfl

/-- A control thread that raises a trap that neither freezes nor asks an owner takes it (R207, R376). -/
theorem traps_in_control {i : Instr} {t : Team} {a : Foc → State} {b : State → Team → State} {tr : Trap} (h : CtlIssues s t)
    (hex : exec i s = answer (byStream s a b)) (hb : b s t = s.trapCtl t tr) (hviol : tr.code.violation = false) (howner : ownerFirst tr.code = false)
    (hbrk : tr.code ≠ .brk) : exec i s = .next (s.deliverCtl t tr) := by
  refine exec_next hex ((byStream_ctl h.cur h.team _ _).trans (hb.trans (trapCtl_plain hviol howner hbrk))) ?_
  rw [deliverCtl_hole, h.whole]

/-- A P-form word is refused in the control stream, an unassigned operation of it first (R207). -/
theorem pairCtl_traps {t : Team} (h : CtlIssues s t) : exec (.pFormPair w) s = .next (s.deliverCtl t
    { code := if (xSlot w.xpop.toNat).isSome && (ySlot w.ypop.toNat).isSome then .illegalStream else .illegalOpcode
      detail := hiOf (pToWord w) }) := by
  have hcode : ∀ b : Bool, (if b then TrapCode.illegalStream else .illegalOpcode).violation = false ∧
      ownerFirst (if b then .illegalStream else .illegalOpcode) = false ∧ (if b then TrapCode.illegalStream else .illegalOpcode) ≠ .brk := by decide
  obtain ⟨hviol, howner, hbrk⟩ := hcode ((xSlot w.xpop.toNat).isSome && (ySlot w.ypop.toNat).isSome)
  exact traps_in_control h rfl rfl hviol howner hbrk

end

/-! ## The obligation -/

/-- Settles O14: both slots of a pass read before either writes, and a word of no operation traps. -/
theorem pairsRun : Obligations.PairsRun := by
  unfold Obligations.PairsRun
  refine ⟨fun s f w x y regs h hx hy hok hregs hc herr => ?_, fun d a imm => ?_, fun s f w h hn => ?_, fun s t w h => pairCtl_traps h,
    fun s f w h => traps_at_issue h rfl rfl rfl rfl (by simp),
    fun s t w h => traps_in_control h rfl rfl rfl rfl (by simp)⟩
  · obtain ⟨now, rod, hp⟩ := pairVec_writes hx hy hok hregs hc herr
    rw [focus_spec h.foc] at hp
    exact ⟨now, rod, exec_next rfl ((byStream_vec h.foc _ _).trans hp) ((done_hole _).trans h.whole)⟩
  · obtain ⟨hadd, hsub, hmul⟩ := xResult_float d a
    exact ⟨hadd, hsub, hmul, rfl, rfl, rfl, rfl, rfl, rfl, rfl, rfl, yResult_shifts d a, rfl, rfl, yResult_popc d a imm⟩
  · exact traps_at_issue h rfl (pairVec_unassigned hn) rfl rfl (by simp)

end Sys2Proof.Machine
end

section
/-! O3: NOP, the empty pair and LI. Of the words only the all-zero word decodes to a NOP that runs; each of the three runs by one issue. -/

namespace Sys2Proof.Machine

/-! ## The word of a NOP -/

/-- NOP. -/
def isNop : Instr → Bool
  | .nop _ => true
  | _ => false

theorem ofBool_getLsbD {n : Nat} (w : BitVec n) (i : Nat) : BitVec.ofBool (w.getLsbD i) = w.extractLsb' i 1 := by
  refine BitVec.eq_of_getLsbD_eq fun j hj => ?_
  obtain rfl : j = 0 := by omega
  simp

/-- A word of layout F is what its opcode and its fields encode to (R196). -/
theorem fToWord_fOfWord {w : DWord} (hl : w.extractLsb' 62 2 = 0#2) : fToWord (w.extractLsb' 54 8) (fOfWord w) = w := by
  rw [fToWord, fOfWord, ← hl]
  simp only [ofBool_getLsbD]
  repeat rw [BitVec.extractLsb'_append_extractLsb'_eq_extractLsb' (by rfl)]
  exact BitVec.extractLsb'_eq_self

/-- What an opcode of the L layout names is LI, a branch or a memory instruction (R195). -/
theorem lInstr_mem {op : Nat} {w : DWord} {i : Instr} (h : lInstr op w = some i) :
    i = .li (immOfWord w) ∨ (∃ e ∈ brOps, i = e.2 (brOfWord w)) ∨ ∃ e ∈ memOps, i = e.2 (memOfWord w) := by
  unfold lInstr at h
  split at h
  · cases h; exact .inl rfl
  · split at h
    · rename_i c hc
      cases h
      exact .inr (.inl ⟨_, opFind_mem hc, rfl⟩)
    · obtain ⟨c, hc, rfl⟩ := Option.map_eq_some_iff.mp h
      exact .inr (.inr ⟨_, opFind_mem hc, rfl⟩)

theorem lInstr_not_nop {op : Nat} {w : DWord} {f : FWord} : lInstr op w ≠ some (.nop f) := by
  have hbr : ∀ e ∈ brOps, isNop (e.2 (brOfWord w)) = false := by simp [brOps, isNop]
  have hmem : ∀ e ∈ memOps, isNop (e.2 (memOfWord w)) = false := by simp [memOps, isNop]
  intro h
  obtain h | ⟨e, he, h⟩ | ⟨e, he, h⟩ := lInstr_mem h
  · cases h
  · exact absurd (hbr e he) (by simp [← h, isNop])
  · exact absurd (hmem e he) (by simp [← h, isNop])

/-- Opcode 0 alone names NOP in the F layout (R228, R231). -/
theorem fInstr_nop {op : Nat} {f g : FWord} (h : fInstr op f = some (.nop g)) : op = 0 ∧ f = g := by
  have hall : fOps.all (fun e => e.1 == 0 || !isNop (e.2 f)) = true := rfl
  have hop : op = 0 := by
    unfold fInstr at h
    split at h
    · split at h <;> cases h
    · split at h
      · split at h <;> cases h
      · obtain ⟨c, hc, hn⟩ := Option.map_eq_some_iff.mp h
        simpa [hn, isNop] using List.all_eq_true.mp hall _ (opFind_mem hc)
  subst hop
  cases h
  exact ⟨rfl, rfl⟩

section
variable {w : DWord} {next : Option DWord} {f : FWord}

/-- A word of FFMA4's opcode decodes to FFMA4 or to no instruction (R202). -/
theorem decodeWords_ffma4_not_nop (hl : (w.extractLsb' 62 2).toNat = 0) (hop : (w.extractLsb' 54 8).toNat = 0x64) :
    (decodeWords w next).1 ≠ .nop f := by
  cases next with
  | none => simp [decodeWords_ffma4_alone ((opcode_ffma4_iff w).mpr ⟨hl, hop⟩)]
  | some x => by_cases hx : x.extractLsb' 62 2 = 3#2 <;> simp [decodeWords, hl, hop, hx]

/-- A word that decodes to a NOP is the word of that NOP (R196, R231). -/
theorem word_of_decodeWords_nop (h : (decodeWords w next).1 = .nop f) : w = fToWord 0x00#8 f := by
  have hor {found : Option Instr} (hd : found.getD (.unassignedOpcodeWord w) = .nop f) : found = some (.nop f) := by
    cases found with
    | none => cases hd
    | some i => exact congrArg some hd
  obtain hl | hl | hl | hl : (w.extractLsb' 62 2).toNat = 0 ∨ (w.extractLsb' 62 2).toNat = 1 ∨ (w.extractLsb' 62 2).toNat = 2 ∨
    (w.extractLsb' 62 2).toNat = 3 := by omega
  · by_cases hop : (w.extractLsb' 54 8).toNat = 0x64
    · exact absurd h (decodeWords_ffma4_not_nop hl hop)
    · rw [decodeWords_fForm hl hop] at h
      obtain ⟨hz, rfl⟩ := fInstr_nop (hor h)
      have hw := fToWord_fOfWord (w := w) (BitVec.eq_of_toNat_eq hl)
      rw [BitVec.eq_of_toNat_eq (y := 0x00#8) hz] at hw
      exact hw.symm
  · rw [decodeWords_pForm hl] at h
    cases h
  · rw [decodeWords_lForm hl] at h
    exact absurd (hor h) lInstr_not_nop
  · rw [decodeWords_xForm hl] at h
    cases h

/-- The all-zero word alone decodes to the NOP that runs (R231). -/
theorem decodeWords_zero_nop_iff : (∃ f, fToWord 0x00#8 f = 0 ∧ (decodeWords w next).1 = .nop f) ↔ w = 0 := by
  constructor
  · rintro ⟨f, hf, h⟩
    rw [word_of_decodeWords_nop h, hf]
  · rintro rfl
    have hz : fToWord 0x00#8 (fOfWord 0) = 0 := by decide
    refine ⟨fOfWord 0, hz, ?_⟩
    rw [← hz, decodeWords_fToWord (by decide) rfl, (fToWord_fields 0x00#8 (fOfWord 0)).2.2]

end

/-! ## NOP and the empty pair -/

theorem nopVec_zero {w : FWord} (hw : fToWord 0x00#8 w = 0) (f : Foc) : nopVec w f = (f.issue clsNop [] [] [] false).done :=
  if_neg (not_not_intro hw)

theorem nopVec_traps {w : FWord} (hw : fToWord 0x00#8 w ≠ 0) (f : Foc) :
    nopVec w f = f.trapIssue (f.members w.g.toNat w.gn) .illegalOperand (hiOf (fToWord 0x00#8 w)) :=
  if_pos hw

theorem nopCtl_zero {w : FWord} (hw : fToWord 0x00#8 w = 0) (s : State) (t : Team) :
    nopCtl w s t = (s.issueCtl t clsNop [] []).1.ctlDone (s.issueCtl t clsNop [] []).2 :=
  if_neg (not_not_intro hw)

theorem nopCtl_traps {w : FWord} (hw : fToWord 0x00#8 w ≠ 0) (s : State) (t : Team) :
    nopCtl w s t = s.trapCtl t { code := .illegalOperand, detail := hiOf (fToWord 0x00#8 w) } :=
  if_pos hw

/-- The word of two slots without an operation has every field zero (R204). -/
theorem pWord_empty {w : PWord} (h : pToWord w = 0x4000000000000000#64) : w = ⟨0, 0, 0, 0, 0, 0, 0, 0⟩ := by
  rw [← (pToWord_fields w).2, h]
  decide

/-- A pass of two slots without an operation reads and writes nothing (R206). -/
theorem pairVec_empty (f : Foc) : ∃ now rod, pairVec ⟨0, 0, 0, 0, 0, 0, 0, 0⟩ f = (f.withState (f.s.afterIssue f now rod)).done := by
  obtain ⟨now, rod, hp⟩ := pairVec_writes (f := f) (w := ⟨0, 0, 0, 0, 0, 0, 0, 0⟩) (x := ⟨false, false, false⟩) (y := ⟨false, false, false⟩)
    (regs := []) rfl rfl (by decide) rfl ⟨by simp, by simp⟩ (by simp)
  rw [List.foldl_fixed' (fun p => rfl)] at hp
  exact ⟨now, rod, hp⟩

/-! ## LI -/

/-- A pass that writes one value thread by thread leaves it in all of them. -/
theorem foldl_writeOpd (o : Opd) (d : Fld) (v : TCap) (ps : List Nat) (f : Foc) :
    ps.foldl (fun (f : Foc) p => { f with r := writeOpd f.r f.x.age p o d v }) f = f.withRank (f.r.writeAll f.x.age ps o d (fun _ => v)) := by
  induction ps generalizing f with
  | nil => rfl
  | cons p ps ih => exact ih _

/-- LI past its checks writes its immediate in every thread, or once to a k register (R265). -/
theorem liVec_writes {w : ImmWord} {f : Foc} (hd : fldOk .vec .reg ⟨w.d.toNat, w.kd, false⟩ = true) (hres : w.res = 0)
    (hc : Clear f (f.members 0 false) (vregsOf .reg ⟨w.d.toNat, w.kd, false⟩) (vregsOf .reg ⟨w.d.toNat, w.kd, false⟩)) :
    liVec w f = ((f.issue clsInt [] (keysOf .reg ⟨w.d.toNat, w.kd, false⟩) (f.members 0 false) w.kd).withRank
      (f.r.writeAll f.x.age (if w.kd then (f.members 0 false).take 1 else f.members 0 false) .reg ⟨w.d.toNat, w.kd, false⟩
        (fun _ => ⟨w.imm.setWidth 128, false⟩))).done := by
  unfold liVec
  dsimp only
  rw [if_neg (by simp [hd, hres]), unallocated_none hc.allocated]
  dsimp only
  rw [emptyNeeds_nil hc.full]
  dsimp only
  rw [foldl_writeOpd]
  rfl

theorem liCtl_writes {w : ImmWord} (hd : fldOk .ctl .reg ⟨w.d.toNat, w.kd, false⟩ = true) (hres : w.res = 0) (s : State) (t : Team) :
    liCtl w s t = (s.issueCtl t clsInt [] [w.d.toNat]).1.ctlDone ((s.issueCtl t clsInt [] [w.d.toNat]).2.withCtl
      ((s.issueCtl t clsInt [] [w.d.toNat]).2.ctl.putS w.d.toNat (w.imm.signExtend 64))) :=
  if_neg (by simp [hd, hres])

/-- An instruction of the control stream without a guard that goes on past its checks. -/
theorem ctl_issues {i : Instr} {s : State} {t : Team} {a : Foc → State} {b : State → Team → State} {c : Cls} {rd wr : List Nat}
    {k : State → Team → State} (h : CtlIssues s t) (hex : exec i s = answer (byStream s a b))
    (hb : b s t = k (s.issueCtl t c rd wr).1 (s.issueCtl t c rd wr).2)
    (hh : ∀ now last e ra, (k (s.afterCtl t now last) (t.retimed e ra)).hole = none) : CtlRuns i s t k := by
  obtain ⟨now, last, e, ra, hi⟩ := issueCtl_eq s t c rd wr
  rw [hi] at hb
  exact ⟨now, last, e, ra, exec_next hex ((byStream_ctl h.cur h.team a b).trans hb) (hh now last e ra)⟩

/-! ## The obligation -/

/-- Settles O3: each of the three is an issue and then what it writes; what decodes to a NOP is the word of that NOP. -/
theorem nopAndImmediateRun : Obligations.NopAndImmediateRun := by
  unfold Obligations.NopAndImmediateRun
  refine ⟨fun w s f h hw => ?nopVec, fun w s t h hw => ?nopCtl,
    fun w s f h hw => traps_at_issue h rfl (nopVec_traps hw f) rfl rfl (by simp),
    fun w s t h hw => traps_in_control h rfl (nopCtl_traps hw s t) rfl rfl (by simp),
    fun w next => decodeWords_zero_nop_iff, fun w s f h hw => ?pair, fun w s f h hd hres hc => ?liVec, fun w s t h hd hres => ?liCtl⟩
  case nopVec => exact vec_runs h rfl (nopVec_zero hw f) (fun now rod => by simp [h.whole])
  case nopCtl => exact ctl_issues h rfl (nopCtl_zero hw s t) (fun now last e ra => by simp [h.whole])
  case pair =>
    obtain rfl := pWord_empty hw
    obtain ⟨now, rod, hp⟩ := pairVec_empty f
    rw [focus_spec h.foc] at hp
    exact ⟨now, rod, exec_next rfl ((byStream_vec h.foc _ _).trans hp) ((done_hole _).trans h.whole)⟩
  case liVec => exact vec_runs h rfl (liVec_writes hd hres hc) (fun now rod => by simp [h.whole])
  case liCtl => exact ctl_issues h rfl (liCtl_writes hd hres s t) (fun now last e ra => by simp [h.whole])

end Sys2Proof.Machine
end

section
/-! O15: branches of the control stream. A branch past its guard checks its target, then its return stack, and goes to the target with the stack
changed; either check may trap instead. -/

namespace Sys2Proof.Machine

/-! ## Return stacks -/

section
variable {q : BrSpec} {back : BitVec 48} {l : List (BitVec 48)}

theorem brStack_push (hp : q.push = true) (hroom : l.length < 16) : brStack q back l = .ok (back :: l) :=
  (if_pos hp).trans (if_neg (Nat.not_le.mpr hroom))

theorem brStack_full (hp : q.push = true) (hfull : 16 ≤ l.length) : brStack q back l = .error { code := .callOverflow, detail := 0 } :=
  (if_pos hp).trans (if_pos hfull)

theorem brStack_keep (hp : q.push = false) (ho : q.pop = false) : brStack q back l = .ok l := by simp [brStack, hp, ho]

theorem brStack_pop {pc : BitVec 48} (hp : q.push = false) (ho : q.pop = true) : brStack q back (pc :: l) = .ok l := by
  simp [brStack, hp, ho]

theorem brStack_empty (hp : q.push = false) (ho : q.pop = true) : brStack q back [] = .error { code := .callOverflow, detail := 1 } := by
  simp [brStack, hp, ho]

end

/-! ## Past the guard -/

section
variable {q : BrSpec} {ctx : Nat} {pc : BitVec 48} {s : State} {t : Team} {tr : Trap}

/-- A branch goes to a target that passes its check, with the stack it leaves; a call looks ahead there (R226, R239 to R241). -/
theorem ctlGo_goes {l : List (BitVec 48)} (htarget : q.check = true → s.targetTrap .ctl ctx pc = none)
    (hstack : brStack q (t.ctl.pc + 8) t.ctl.rets = .ok l) :
    ctlGo q ctx pc s t = (if q.push then s.callAhead t.req t.grid [pc] else s).putTeam (t.withCtl (t.ctl.goto pc l)) := by
  have hcheck : (if q.check then s.targetTrap .ctl ctx pc else none) = none := ite_eq_right_iff.mpr htarget
  unfold ctlGo
  rw [hcheck, hstack]
  rfl

theorem ctlGo_badTarget (hcheck : q.check = true) (htarget : s.targetTrap .ctl ctx pc = some tr) : ctlGo q ctx pc s t = s.trapCtl t tr := by
  unfold ctlGo
  rw [if_pos hcheck, htarget]

theorem ctlGo_badStack (hcheck : q.check = false) (hstack : brStack q (t.ctl.pc + 8) t.ctl.rets = .error tr) :
    ctlGo q ctx pc s t = s.trapCtl t tr := by
  unfold ctlGo
  rw [hcheck, hstack]
  rfl

end

/-- A computed target that is not a multiple of 8 is MISALIGNED, whatever the code capability covers (R240). -/
theorem targetTrap_misaligned (s : State) (m : Master) (ctx : Nat) {pc : BitVec 48} (h : pc.toNat % 8 ≠ 0) :
    s.targetTrap m ctx pc = some { code := .misaligned, detail := BitVec.ofNat 64 (pc.toNat % 2 ^ 32) } := if_pos h

/-! ## Branches as instructions -/

section
variable {i : Instr} {s : State} {t : Team} {a : Foc → State} {b : State → Team → State} {ok : Bool} {word : DWord} {g : BitVec 3} {gn : Bool}
  {rd : List Nat} {q : BrSpec} {pc : Team → BitVec 48} (h : CtlIssues s t) (hex : exec i s = answer (byStream s a b))
  (hb : b s t = ctlPass s t ok word g gn clsRedirect rd [] (fun s u => ctlGo q u.ctx (pc u) s u)) (hok : ok = true)
  (hpc : ∀ e ra, pc (t.retimed e ra) = pc t)
include h hex hb hok hpc

/-- A branch of the control stream whose checks hold goes to its target, or only advances under a guard that does not hold (R200, R239). -/
theorem ctlBranch_goes {l : List (BitVec 48)} (htarget : q.check = true → s.targetTrap .ctl t.ctx (pc t) = none)
    (hstack : brStack q (t.ctl.pc + 8) t.ctl.rets = .ok l)
    (hahead : q.push = true → ∀ now last, ((s.afterCtl t now last).callAhead t.req t.grid [pc t]).hole = none) :
    CtlRuns i s t (fun s u => if u.ctl.pred g.toNat = gn then s.ctlDone u
      else (if q.push then s.callAhead t.req t.grid [pc t] else s).putTeam (u.withCtl (u.ctl.goto (pc t) l))) := by
  refine ctl_runs h hex hb hok (fun now last e ra => if_congr Iff.rfl rfl ?_) (fun now last e ra => ?_)
  · rw [hpc]
    exact ctlGo_goes htarget hstack
  · split
    · exact h.whole
    · by_cases hpush : q.push = true
      · rw [if_pos hpush]
        exact hahead hpush now last
      · rw [if_neg hpush]
        exact h.whole

/-- A branch of the control stream whose checks raise a trap that neither freezes nor asks an owner delivers it. -/
theorem ctlBranch_traps {tr : Trap} (hg : t.guard g gn) (hgo : ∀ s u, u.ctl.pc = t.ctl.pc → u.ctl.rets = t.ctl.rets →
      ctlGo q t.ctx (pc t) s u = s.trapCtl u tr) (hviol : tr.code.violation = false) (howner : ownerFirst tr.code = false) (hbrk : tr.code ≠ .brk) :
    CtlRuns i s t (fun s u => s.deliverCtl u tr) := by
  refine ctl_acts h hex hb hok hg (fun now last e ra => ?_) (fun now last e ra => (deliverCtl_hole _ _ _).trans h.whole)
  rw [hpc]
  exact (hgo (s.afterCtl t now last) (t.retimed e ra) rfl rfl).trans (trapCtl_plain hviol howner hbrk)

end

section
variable {s : State} {t : Team} (h : CtlIssues s t)
include h

/-! ## BRA and CALL -/

section
variable {w : BrWord} (hok : (!w.div && w.jn == 0) = true)
include hok

theorem braCtl_goes : CtlRuns (.bra w) s t (fun s u => if u.ctl.pred w.g.toNat = w.gn then s.ctlDone u
    else s.putTeam (u.withCtl (u.ctl.goto (wordsAway t.ctl.pc w.tgt) t.ctl.rets))) :=
  ctlBranch_goes (q := ctlBr false false false) (pc := fun u => wordsAway u.ctl.pc w.tgt) h rfl rfl hok (fun _ _ => rfl)
    (fun hc => absurd hc Bool.false_ne_true) (brStack_keep rfl rfl) (fun hp => absurd hp Bool.false_ne_true)

theorem callCtl_goes (hroom : t.ctl.rets.length < 16)
    (hahead : ∀ now last, ((s.afterCtl t now last).callAhead t.req t.grid [wordsAway t.ctl.pc w.tgt]).hole = none) :
    CtlRuns (.call w) s t (fun s u => if u.ctl.pred w.g.toNat = w.gn then s.ctlDone u
      else (s.callAhead t.req t.grid [wordsAway t.ctl.pc w.tgt]).putTeam
        (u.withCtl (u.ctl.goto (wordsAway t.ctl.pc w.tgt) ((t.ctl.pc + 8) :: t.ctl.rets)))) :=
  ctlBranch_goes (q := ctlBr false true false) (pc := fun u => wordsAway u.ctl.pc w.tgt) h rfl rfl hok (fun _ _ => rfl)
    (fun hc => absurd hc Bool.false_ne_true) (brStack_push rfl hroom) (fun _ => hahead)

theorem callCtl_overflows (hfull : 16 ≤ t.ctl.rets.length) (hg : t.guard w.g w.gn) :
    CtlRuns (.call w) s t (fun s u => s.deliverCtl u { code := .callOverflow, detail := 0 }) :=
  ctlBranch_traps (q := ctlBr false true false) (pc := fun u => wordsAway u.ctl.pc w.tgt) h rfl rfl hok (fun _ _ => rfl) hg
    (fun _ _ _ hrets => ctlGo_badStack rfl (brStack_full rfl (hrets ▸ hfull))) rfl rfl (by simp)

end

/-! ## BRAI and CALLI -/

section
variable {w : FWord}
  (hok : (w.md == 0 && fldOk .ctl .none (fldD w) && !w.kd && fldOk .ctl .wide (fldA w) && fldOk .ctl .none (fldB w)) = true)
include hok

theorem braiCtl_goes (htarget : s.targetTrap .ctl t.ctx ((t.ctl.getS w.a.toNat).extractLsb' 0 48) = none) :
    CtlRuns (.brai w) s t (fun s u => if u.ctl.pred w.g.toNat = w.gn then s.ctlDone u
      else s.putTeam (u.withCtl (u.ctl.goto ((t.ctl.getS w.a.toNat).extractLsb' 0 48) t.ctl.rets))) :=
  ctlBranch_goes (q := ctlBr true false false) (pc := fun u => (u.ctl.getS w.a.toNat).extractLsb' 0 48) h rfl rfl hok (fun _ _ => rfl)
    (fun _ => htarget) (brStack_keep rfl rfl) (fun hp => absurd hp Bool.false_ne_true)

theorem calliCtl_goes (htarget : s.targetTrap .ctl t.ctx ((t.ctl.getS w.a.toNat).extractLsb' 0 48) = none) (hroom : t.ctl.rets.length < 16)
    (hahead : ∀ now last, ((s.afterCtl t now last).callAhead t.req t.grid [(t.ctl.getS w.a.toNat).extractLsb' 0 48]).hole = none) :
    CtlRuns (.calli w) s t (fun s u => if u.ctl.pred w.g.toNat = w.gn then s.ctlDone u
      else (s.callAhead t.req t.grid [(t.ctl.getS w.a.toNat).extractLsb' 0 48]).putTeam
        (u.withCtl (u.ctl.goto ((t.ctl.getS w.a.toNat).extractLsb' 0 48) ((t.ctl.pc + 8) :: t.ctl.rets)))) :=
  ctlBranch_goes (q := ctlBr true true false) (pc := fun u => (u.ctl.getS w.a.toNat).extractLsb' 0 48) h rfl rfl hok (fun _ _ => rfl)
    (fun _ => htarget) (brStack_push rfl hroom) (fun _ => hahead)

theorem braiCtl_misaligned (hmis : ((t.ctl.getS w.a.toNat).extractLsb' 0 48).toNat % 8 ≠ 0) (hg : t.guard w.g w.gn) :
    CtlRuns (.brai w) s t (fun s u => s.deliverCtl u
      { code := .misaligned, detail := BitVec.ofNat 64 (((t.ctl.getS w.a.toNat).extractLsb' 0 48).toNat % 2 ^ 32) }) :=
  ctlBranch_traps (q := ctlBr true false false) (pc := fun u => (u.ctl.getS w.a.toNat).extractLsb' 0 48) h rfl rfl hok (fun _ _ => rfl) hg
    (fun s _ _ _ => ctlGo_badTarget rfl (targetTrap_misaligned s .ctl t.ctx hmis)) rfl rfl (by simp)

end

/-! ## RET -/

section
variable {w : FWord} (hn : noOperands .ctl w = true)
include hn

theorem retCtl_pops {pc : BitVec 48} {l : List (BitVec 48)} (hm : w.md = 0) (hrets : t.ctl.rets = pc :: l) :
    CtlRuns (.ret w) s t (fun s u => if u.ctl.pred w.g.toNat = w.gn then s.ctlDone u else s.putTeam (u.withCtl (u.ctl.goto pc l))) := by
  have hgo := ctlBranch_goes (i := .ret w) (q := ctlBr false false true) (l := l) (pc := fun u => (u.ctl.rets.head?).getD 0) h rfl rfl
    (by simp [hm, hn]) (fun _ _ => rfl) (fun hc => absurd hc Bool.false_ne_true) (by rw [hrets]; exact brStack_pop rfl rfl)
    (fun hp => absurd hp Bool.false_ne_true)
  rw [hrets] at hgo
  exact hgo

theorem retCtl_overflows (hm : w.md = 0) (hrets : t.ctl.rets = []) (hg : t.guard w.g w.gn) :
    CtlRuns (.ret w) s t (fun s u => s.deliverCtl u { code := .callOverflow, detail := 1 }) :=
  ctlBranch_traps (q := ctlBr false false true) (pc := fun u => (u.ctl.rets.head?).getD 0) h rfl rfl (by simp [hm, hn]) (fun _ _ => rfl) hg
    (fun _ _ _ hu => ctlGo_badStack rfl (by rw [hu, hrets]; exact brStack_empty rfl rfl)) rfl rfl (by simp)

/-- RET.h of a handler leaves it and goes on at s61 (R379). -/
theorem retHCtl_leaves (hm : w.md = 2) (hhandler : t.ctl.handler.isSome = true) :
    CtlRuns (.retH w) s t (fun s u => if u.ctl.pred w.g.toNat = w.gn then s.ctlDone u
      else s.putTeam (u.withCtl { (u.ctl.goto ((t.ctl.getS 61).extractLsb' 0 48) t.ctl.rets) with handler := none })) := by
  obtain ⟨v, hv⟩ := Option.isSome_iff_exists.mp hhandler
  refine ctl_runs h rfl (by unfold retHCtl; rw [hv]) (by simp [hm, hn]) (fun _ _ _ _ => rfl) (fun now last e ra => ?_)
  split <;> exact h.whole

end
end

/-! ## The obligation -/

/-- Settles O15: a branch whose fields are legal issues, and its target and its stack decide where it goes. -/
theorem controlBranches : Obligations.ControlBranches := by
  unfold Obligations.ControlBranches
  refine fun s t h => ⟨fun w hd hj => ?_, fun w hm hd hk ha hb => ?_, fun w hn =>
    ⟨fun pc l => retCtl_pops h hn, retCtl_overflows h hn, retHCtl_leaves h hn⟩⟩
  · have hok : (!w.div && w.jn == 0) = true := by simp [hd, hj]
    exact ⟨braCtl_goes h hok, callCtl_goes h hok, callCtl_overflows h hok⟩
  · have hok : (w.md == 0 && fldOk .ctl .none (fldD w) && !w.kd && fldOk .ctl .wide (fldA w) && fldOk .ctl .none (fldB w)) = true := by simp [*]
    exact ⟨fun htarget => ⟨braiCtl_goes h hok htarget, calliCtl_goes h hok htarget⟩, braiCtl_misaligned h hok⟩

end Sys2Proof.Machine
end

section
/-! O17: branches of the vector stream that all threads of a pass take to one place. The walk changes the return stack of each thread and gives each
the same place; a thread's own target and stack are what they were when its turn comes, since only other threads have changed. -/

namespace Sys2Proof.Machine

/-! ## Return stacks of a rank -/

/-- The return stacks of some threads changed (R239, R241). -/
def Rank.restack (r : Rank) (ps : List Nat) (st : List (BitVec 48) → List (BitVec 48)) : Rank :=
  ps.foldl (fun r p => r.modThread p (fun th => { th with rets := st th.rets })) r

theorem restack_id (r : Rank) (ps : List Nat) : r.restack ps id = r :=
  foldl_keeps id (f := fun r p => Rank.modThread r p (fun th => { th with rets := id th.rets })) (fun _ _ => modThread_fixed rfl) ps r

/-- Changes of a thread that agree on it are one change. -/
theorem modThread_congr {r : Rank} {p : Nat} {g g' : Thread → Thread} (h : g (r.thread p) = g' (r.thread p)) :
    r.modThread p g = r.modThread p g' := by
  suffices hl : listMod g r.threads p = listMod g' r.threads p by rw [Rank.modThread, hl, Rank.modThread]
  rw [listMod_eq_modify, listMod_eq_modify]
  refine List.ext_getElem? fun n => ?_
  by_cases hn : p = n
  · subst hn
    rw [List.getElem?_modify_eq, List.getElem?_modify_eq]
    cases ht : r.threads[p]? with
    | none => rfl
    | some th => simpa [Rank.thread, ht] using h
  · rw [List.getElem?_modify_ne g _ hn, List.getElem?_modify_ne g' _ hn]

/-! ## Targets -/

/-- A branch whose target for a thread does not depend on the other threads. -/
def BrSpec.Own (q : BrSpec) : Prop :=
  ∀ (r : Rank) (p p' : Nat) (g : Thread → Thread), p ≠ p' → q.target (r.modThread p g) p' = q.target r p'

theorem readReg_modThread_ne (r : Rank) {p p' : Nat} (g : Thread → Thread) (h : p ≠ p') (k t : Bool) (n : Nat) :
    readReg (r.modThread p g) p' k t n = readReg r p' k t n := by
  have hv : (r.modThread p g).vreg p' n = r.vreg p' n := by
    unfold Rank.vreg
    rw [modThread_thread_ne r g h]
  unfold readReg
  rw [hv]
  rfl

theorem readRegs_modThread_ne (r : Rank) {p p' : Nat} (g : Thread → Thread) (h : p ≠ p') (k t : Bool) (n m : Nat) :
    readRegs (r.modThread p g) p' k t n m = readRegs r p' k t n m := by
  induction m generalizing n with
  | zero => rfl
  | succ m ih =>
    unfold readRegs
    rw [readReg_modThread_ne r g h, ih]

theorem readPair_modThread_ne (r : Rank) {p p' : Nat} (g : Thread → Thread) (h : p ≠ p') (f : Fld) :
    readOpd (r.modThread p g) p' .pair f = readOpd r p' .pair f := by
  unfold readOpd
  dsimp only
  rw [readRegs_modThread_ne r g h]

/-! ## The walk -/

/-- A thread takes a branch to a place, and the branch makes of its return stack what `st` does (R239 to R241). -/
structure Foc.Goes (f : Foc) (q : BrSpec) (pc : BitVec 48) (st : List (BitVec 48) → List (BitVec 48)) (p : Nat) : Prop where
  target : q.target f.r p = .ok pc
  stack : brStack q (f.x.pc + 8) (f.r.thread p).rets = .ok (st (f.r.thread p).rets)

/-- No thread of a branch is stopped by its join address or by the check of its target (R182, R240). -/
def Foc.Passes (f : Foc) (q : BrSpec) (pc : BitVec 48) : Prop :=
  q.joinTrap = none ∧ (q.check = true → f.s.targetTrap .vec f.t.ctx pc = none)

section
variable {q : BrSpec} {pc : BitVec 48} {st : List (BitVec 48) → List (BitVec 48)}

theorem brThread_goes {f : Foc} {p : Nat} (hgo : f.Goes q pc st p) (hpass : f.Passes q pc) :
    brThread q f p = .ok (f.r.restack [p] st, pc) := by
  have hcheck : (if q.check then f.s.targetTrap .vec f.t.ctx pc else none) = none := ite_eq_right_iff.mpr hpass.2
  unfold brThread
  rw [hgo.target]
  dsimp only
  rw [hpass.1, hcheck, hgo.stack]
  exact congrArg (fun r => Except.ok (r, pc)) (modThread_congr rfl)

/-- A walk whose threads all take their branch to one place gives each that place and its changed return stack (R239 to R241). -/
theorem brWalk_goes (hown : q.Own) {taken : Nat → Bool} {ps : List Nat} (hnd : ps.Nodup) {f : Foc} (htaken : ∀ p ∈ ps, taken p = true)
    (hgo : ∀ p ∈ ps, f.Goes q pc st p) (hpass : f.Passes q pc) :
    brWalk q taken ps f = ((f.withRank (f.r.restack ps st)).giving (ps.map (fun p => (p, pc))), none) := by
  induction ps generalizing f with
  | nil => simp [brWalk, Foc.giving, Foc.withRank, Rank.restack]
  | cons p ps ih =>
    obtain ⟨hp, hnd⟩ := List.nodup_cons.mp hnd
    unfold brWalk
    rw [htaken p (by simp), brThread_goes (hgo p (by simp)) hpass]
    refine (ih (f := (f.withRank (f.r.restack [p] st)).giving [(p, pc)]) hnd (fun p' hp' => htaken p' (by simp [hp']))
      (fun p' hp' => ?_) hpass).trans ?_
    · have hne : p ≠ p' := fun h => hp (h ▸ hp')
      obtain ⟨htarget, hstack⟩ := hgo p' (by simp [hp'])
      refine ⟨(hown f.r p p' _ hne).trans htarget, ?_⟩
      rw [← modThread_thread_ne f.r (fun th => { th with rets := st th.rets }) hne] at hstack
      exact hstack
    · exact congrArg (·, none) (giving_giving (f.withRank (f.r.restack (p :: ps) st)) [(p, pc)] (ps.map (fun p => (p, pc))))

/-! ## The pass -/

theorem eraseDups_one {α β : Type} [BEq β] [LawfulBEq β] (b : β) {l : List α} (h : l ≠ []) : (l.map (fun _ => b)).eraseDups = [b] := by
  obtain ⟨a, l, rfl⟩ := List.exists_cons_of_ne_nil h
  have : (l.map (fun _ => b)).filter (fun c => !c == b) = [] := by simp
  rw [List.map_cons, List.eraseDups_cons, this]
  rfl

/-- The place of a pass whose threads all take one target. -/
theorem brPlaces_whole {next : BitVec 48} {fall : Nat → Bool} {ps : List Nat} (hne : ps ≠ []) (hf : ∀ p ∈ ps, fall p = false) :
    brPlaces next fall (ps.map (fun p => (p, pc))) = [(pc, ps)] := by
  have htwo := brPlaces_two (next := next) (tgt := pc) (taken := fun _ => true) hf
  simpa [hne] using htwo

/-- The prefetcher looks ahead once where several threads call to one place (R226). -/
theorem callAhead_same (s : State) (u : Req) (gid : Nat) {ps : List Nat} (hne : ps ≠ []) :
    s.callAhead u gid (ps.map (fun _ => pc)) = s.callAhead u gid [pc] := by
  unfold State.callAhead
  rw [eraseDups_one pc hne]
  rfl

/-- The prefetcher looks ahead at the place that a pass calls to (R226). -/
def Foc.lookAhead (q : BrSpec) (pc : BitVec 48) (f : Foc) : Foc := if q.push then f.withState (f.s.callAhead f.t.req f.t.grid [pc]) else f

theorem lookAhead_split (f : Foc) : (f.lookAhead q pc).x = f.x := by
  unfold Foc.lookAhead
  split <;> rfl

theorem ahead_giving {f : Foc} {ps : List Nat} (hgiven : f.x.given = []) (hne : ps ≠ []) :
    (f.giving (ps.map (fun p => (p, pc)))).ahead q ps = (f.lookAhead q pc).giving (ps.map (fun p => (p, pc))) := by
  have hall : ((f.giving (ps.map (fun p => (p, pc)))).x.given.filter (fun e => ps.any (fun p => p == e.1))).map (fun e => e.2) =
      ps.map (fun _ => pc) := by
    rw [Foc.giving, hgiven, List.nil_append, List.filter_eq_self.mpr (by simp), List.map_map]
    rfl
  unfold Foc.ahead Foc.lookAhead
  rw [hall, callAhead_same _ _ _ hne]
  by_cases hp : q.push = true
  · rw [if_pos hp, if_pos hp]
    rfl
  · rw [if_neg hp, if_neg hp]

/-- A split whose pass has given all its threads one place goes there whole. -/
theorem divide_whole {f : Foc} {ps : List Nat} (hne : ps ≠ []) {next : BitVec 48} {fall : Nat → Bool} (hf : ∀ p ∈ ps, fall p = false)
    (join : Option (BitVec 48)) (hgiven : f.x.given = []) :
    ((f.giving (ps.map (fun p => (p, pc)))).ahead q ps).divide
      (brPlaces next fall ((f.giving (ps.map (fun p => (p, pc)))).ahead q ps).x.given) join = some ((f.lookAhead q pc).allTo ps pc) := by
  have hx : (Foc.giving (f.lookAhead q pc) (ps.map (fun p => (p, pc)))).x.given = ps.map (fun p => (p, pc)) := by
    rw [Foc.giving, lookAhead_split, hgiven, List.nil_append]
  rw [ahead_giving hgiven hne, hx, brPlaces_whole hne hf, divide_giving _ _ (List.cons_ne_nil _ _)]
  rfl

/-- Where a pass leaves its split when all its threads take a branch to one place: each thread's stack is changed, a call looks ahead, and the
split goes there whole. -/
def Foc.wholeTo (q : BrSpec) (ps : List Nat) (pc : BitVec 48) (st : List (BitVec 48) → List (BitVec 48)) (g : Foc) : State :=
  (((g.withRank (g.r.restack ps st)).lookAhead q pc).allTo ps pc).close

/-- A branch pass that all its threads take to one place (R239 to R241). -/
theorem branchVec_whole {spec : PassSpec} {reads : List Nat} {g : BitVec 3} {gn : Bool} {f : Foc} (hgiven : f.x.given = [])
    (hne : f.members 0 false ≠ []) (hf : f.fallers g gn = []) (hok : spec.ok = true) (hc : Clear f (f.members 0 false) spec.named spec.waits)
    (hown : q.Own) (hgo : ∀ p ∈ f.members 0 false, f.Goes q pc st p)
    (hpass : (f.issue clsRedirect (guardKey g :: reads) [] (f.members 0 false) false).Passes q pc) :
    branchVec q spec reads g gn f = (f.issue clsRedirect (guardKey g :: reads) [] (f.members 0 false) false).wholeTo q (f.members 0 false) pc st := by
  have htaken : ∀ p ∈ f.members 0 false, (f.r.pred p g.toNat != gn) = true := by simpa [Foc.fallers, List.filter_eq_nil_iff] using hf
  have hwalk := brWalk_goes (f := f.issue clsRedirect (guardKey g :: reads) [] (f.members 0 false) false) hown (members_nodup f 0 false) htaken
    (fun p hp => ⟨(hgo p hp).target, (hgo p hp).stack⟩) hpass
  unfold branchVec
  dsimp only
  rw [List.filter_eq_self.mpr htaken, permitFor_none hok hc]
  dsimp only
  rw [List.filterMap_eq_map_iff_forall_eq_some (g := fun _ => pc) |>.mpr (fun p hp => by rw [(hgo p hp).target]), eraseDups_one pc hne,
    if_pos (List.all_eq_true.mpr htaken), hwalk]
  dsimp only
  rw [divide_whole hne (fun p hp => ?_) (hgiven := ?_)]
  · rfl
  · rw [if_pos (by simpa using hp)]
    exact congrArg (!·) (htaken p hp)
  · exact hgiven

theorem wholeTo_push (hp : q.push = true) (ps : List Nat) (back : BitVec 48) (f : Foc) : f.wholeTo q ps pc (back :: ·) =
    (((f.withState (f.s.callAhead f.t.req f.t.grid [pc])).withRank (f.r.pushAll ps back)).allTo ps pc).close := by
  unfold Foc.wholeTo Foc.lookAhead
  rw [if_pos hp]
  rfl

theorem wholeTo_pop (hp : q.push = false) (ps : List Nat) (f : Foc) :
    f.wholeTo q ps pc List.tail = ((f.withRank (f.r.popAll ps)).allTo ps pc).close := by
  unfold Foc.wholeTo Foc.lookAhead
  rw [hp]
  rfl

theorem wholeTo_keep (hp : q.push = false) (ps : List Nat) (f : Foc) : f.wholeTo q ps pc id = (f.allTo ps pc).close := by
  unfold Foc.wholeTo Foc.lookAhead
  rw [hp, restack_id]
  rfl

/-- An instruction that is a branch pass which all its threads take to one place runs so. -/
theorem branch_runs {i : Instr} {s : State} {f : Foc} {a : Foc → State} {b : State → Team → State} {spec : PassSpec} {reads : List Nat}
    {g : BitVec 3} {gn : Bool} (h : VecIssues s f) (hex : exec i s = answer (byStream s a b))
    (ha : a f = branchVec q spec reads g gn f) (hok : spec.ok = true) (hc : Clear f (f.members 0 false) spec.named spec.waits) (hgiven : f.x.given = []) (hne : f.members 0 false ≠ [])
    (hf : f.fallers g gn = []) (hown : q.Own) (hgo : ∀ p ∈ f.members 0 false, f.Goes q pc st p)
    (hpass : ∀ now rod, Foc.Passes { f with s := s.afterIssue f now rod } q pc)
    (hahead : q.push = true → ∀ now rod, ((s.afterIssue f now rod).callAhead f.t.req f.t.grid [pc]).hole = none) {k : Foc → State}
    (hk : ∀ g : Foc, g.t = f.t → g.wholeTo q (f.members 0 false) pc st = k g) : VecRuns i s f k := by
  suffices hrun : VecRuns i s f (Foc.wholeTo q (f.members 0 false) pc st) by
    obtain ⟨now, rod, hrun⟩ := hrun
    exact ⟨now, rod, hrun.trans (congrArg _ (hk _ rfl))⟩
  have hs := focus_spec h.foc
  refine vec_runs h hex (ha.trans (branchVec_whole hgiven hne hf hok hc hown hgo ?_)) (fun now rod => (close_hole _).trans ?_)
  · obtain ⟨now, rod, hi⟩ := issue_eq f clsRedirect (guardKey g :: reads) [] (f.members 0 false) false
    rw [hi, hs]
    exact hpass now rod
  · change (Foc.lookAhead q pc _).s.hole = none
    unfold Foc.lookAhead
    split
    · exact hahead (by assumption) now rod
    · exact h.whole

end

/-! ## CALL -/

/-- CALL of a split as a branch: one target, which is not checked, and the address past its word pushed (R239). -/
def callSpec (w : BrWord) (pc : BitVec 48) : BrSpec := { braSpec w pc with push := true }

section
variable {s : State} {f : Foc} (h : VecIssues s f) (hgiven : f.x.given = []) (hne : f.members 0 false ≠ [])
include h hgiven hne

theorem callVec_runs {w : BrWord} (hf : f.fallers w.g w.gn = []) (hroom : ∀ p ∈ f.members 0 false, (f.r.thread p).rets.length < 16)
    (hahead : ∀ now rod, ((s.afterIssue f now rod).callAhead f.t.req f.t.grid [wordsAway f.x.pc w.tgt]).hole = none) :
    VecRuns (.call w) s f (fun g => ((g.withState (g.s.callAhead f.t.req f.t.grid [wordsAway f.x.pc w.tgt])).withRank
      (g.r.pushAll (f.members 0 false) (f.x.pc + 8))).allTo (f.members 0 false) (wordsAway f.x.pc w.tgt) |>.close) :=
  branch_runs (q := callSpec w f.x.pc) (spec := ⟨brToWord 0xA2 w, true, [], []⟩) (pc := wordsAway f.x.pc w.tgt) (st := ((f.x.pc + 8) :: ·)) h rfl
    (by unfold braVec; rfl) rfl ⟨by simp, by simp⟩ hgiven hne hf (fun _ _ _ _ _ => rfl)
    (fun p hp => ⟨rfl, brStack_push rfl (hroom p hp)⟩) (fun _ _ => ⟨rfl, fun hc => absurd hc Bool.false_ne_true⟩)
    (fun _ => hahead) (fun g ht => by rw [wholeTo_push rfl, ht])

end

/-! ## BRAI and CALLI -/

/-- BRAI and CALLI of a split without a join address: the target is read by each thread, and checked (R240). -/
def braiSpec (push : Bool) (w : FWord) : BrSpec where
  div := w.md.getLsbD 0
  join := none
  target r p := match readOpd r p .pair (fldA w) with
    | .error t => .error t
    | .ok v => .ok (v.bits.extractLsb' 0 48)
  check := true
  push := push
  pop := false

theorem braiSpec_own (push : Bool) (w : FWord) : (braiSpec push w).Own := fun r p p' g hne => by
  unfold braiSpec
  dsimp only
  rw [readPair_modThread_ne r g hne]

theorem braiSpec_target {push : Bool} {w : FWord} {r : Rank} {p : Nat} {v : TCap} (h : readOpd r p .pair (fldA w) = .ok v) :
    (braiSpec push w).target r p = .ok (v.bits.extractLsb' 0 48) := by
  unfold braiSpec
  dsimp only
  rw [h]

section
variable {s : State} {f : Foc} {w : FWord} {pc : BitVec 48} (h : VecIssues s f) (hgiven : f.x.given = []) (hne : f.members 0 false ≠ [])
  (hf : f.fallers w.g w.gn = [])
  (hok : (plainMod w 4 && fldOk .vec .none (fldD w) && !w.kd && fldOk .vec .pair (fldA w) && fldOk .vec .none (fldB w)) = true)
  (hjn : w.md.getLsbD 1 = false) (hc : Clear f (f.members 0 false) (vregsOf .pair (fldA w)) (fullNeeds .pair (fldA w)))
  (hread : ∀ p ∈ f.members 0 false, ∃ v, readOpd f.r p .pair (fldA w) = .ok v ∧ v.bits.extractLsb' 0 48 = pc)
  (htarget : ∀ now rod, (s.afterIssue f now rod).targetTrap .vec f.t.ctx pc = none)
include h hgiven hne hf hok hjn hc hread htarget

/-- A computed branch whose threads all read one address, which passes its check, goes there (R240). -/
theorem braiVec_whole {i : Instr} {op : BitVec 8} {push : Bool} {b : State → Team → State} {st : List (BitVec 48) → List (BitVec 48)}
    (hex : exec i s = answer (byStream s (braiVec op push w) b))
    (hstack : ∀ p ∈ f.members 0 false, brStack (braiSpec push w) (f.x.pc + 8) (f.r.thread p).rets = .ok (st (f.r.thread p).rets))
    (hahead : push = true → ∀ now rod, ((s.afterIssue f now rod).callAhead f.t.req f.t.grid [pc]).hole = none) {k : Foc → State}
    (hk : ∀ g : Foc, g.t = f.t → g.wholeTo (braiSpec push w) (f.members 0 false) pc st = k g) : VecRuns i s f k := by
  refine branch_runs h hex (spec := ⟨fToWord op w, _, vregsOf .pair (fldA w), fullNeeds .pair (fldA w)⟩) (by unfold braiVec; rw [hjn]; rfl) hok hc
    hgiven hne hf (braiSpec_own push w) (fun p hp => ⟨?_, hstack p hp⟩) (fun now rod => ⟨rfl, fun _ => htarget now rod⟩) hahead hk
  obtain ⟨v, hv, rfl⟩ := hread p hp
  exact braiSpec_target hv

theorem braiVec_runs : VecRuns (.brai w) s f (fun g => (g.allTo (f.members 0 false) pc).close) :=
  braiVec_whole h hgiven hne hf hok hjn hc hread htarget (i := .brai w) (push := false) (st := id) rfl
    (fun _ _ => brStack_keep rfl rfl) (fun hp => absurd hp Bool.false_ne_true) (fun g _ => wholeTo_keep rfl _ g)

theorem calliVec_runs (hroom : ∀ p ∈ f.members 0 false, (f.r.thread p).rets.length < 16)
    (hahead : ∀ now rod, ((s.afterIssue f now rod).callAhead f.t.req f.t.grid [pc]).hole = none) :
    VecRuns (.calli w) s f (fun g => ((g.withState (g.s.callAhead f.t.req f.t.grid [pc])).withRank
      (g.r.pushAll (f.members 0 false) (f.x.pc + 8))).allTo (f.members 0 false) pc |>.close) :=
  braiVec_whole h hgiven hne hf hok hjn hc hread htarget (i := .calli w) (push := true) (st := ((f.x.pc + 8) :: ·)) rfl
    (fun p hp => brStack_push rfl (hroom p hp)) (fun _ => hahead) (fun g ht => by rw [wholeTo_push rfl, ht])

end

/-! ## RET -/

/-- RET of a split: each thread goes to the top of its return stack and pops it (R241). -/
def retSpec (w : FWord) : BrSpec where
  div := w.md.getLsbD 0
  join := none
  target r p := match (r.thread p).rets with
    | [] => .error { code := .callOverflow, detail := 1 }
    | pc :: _ => .ok pc
  check := false
  push := false
  pop := true

theorem retSpec_own (w : FWord) : (retSpec w).Own := fun r p p' g hne => by
  unfold retSpec
  dsimp only
  rw [modThread_thread_ne r g hne]

/-- RET of a split whose threads all return to one address goes there and pops each return stack (R241). -/
theorem retVec_runs {s : State} {f : Foc} {w : FWord} {pc : BitVec 48} (h : VecIssues s f) (hgiven : f.x.given = [])
    (hne : f.members 0 false ≠ []) (hf : f.fallers w.g w.gn = []) (hn : noOperands .vec w = true) (hm : plainMod w 2 = true)
    (htop : ∀ p ∈ f.members 0 false, (f.r.thread p).rets.head? = some pc) :
    VecRuns (.ret w) s f (fun g => ((g.withRank (g.r.popAll (f.members 0 false))).allTo (f.members 0 false) pc).close) := by
  refine branch_runs (q := retSpec w) (spec := ⟨fToWord 0xA4 w, _, [], []⟩) (st := List.tail) h rfl (by unfold retVec; rfl) (by simp [hn, hm])
    ⟨by simp, by simp⟩ hgiven hne hf (retSpec_own w) (fun p hp => ?_) (fun _ _ => ⟨rfl, fun hc => absurd hc Bool.false_ne_true⟩)
    (fun hp => absurd hp Bool.false_ne_true) (fun g _ => wholeTo_pop rfl _ g)
  obtain ⟨l, hl⟩ := List.head?_eq_some_iff.mp (htop p hp)
  refine ⟨?_, by rw [hl]; exact brStack_pop rfl rfl⟩
  unfold retSpec
  dsimp only
  rw [hl]

/-- RET.h by all threads that the handler handles returns the split to where the saved pass was, or each thread to its place (R379). -/
theorem retHVec_runs {s : State} {f : Foc} {w : FWord} {v : HandlerSave} (h : VecIssues s f) (hm : w.md = 2) (hn : noOperands .vec w = true)
    (hv : f.r.handler = some v) (hin : f.x.inHandler = true) (hne : f.pass w ≠ []) (hall : maskMinus v.handled f.x.mask = 0) :
    VecRuns (.retH w) s f (fun g => (g.retTo v (((f.r.kreg 62).val ++ (f.r.kreg 61).val).extractLsb' 0 48)).close) := by
  refine vec_runs (c := clsRedirect) (rd := [guardKey w.g, 2048 + 61, 2048 + 62]) (wr := []) (act := f.pass w) (u := false) h rfl ?_
    (fun now rod => by rw [close_hole, retTo_state]; exact h.whole)
  unfold retHVec
  dsimp only
  rw [show f.members w.g.toNat w.gn = f.pass w from rfl, admit_none (by simp [hm, hn]) ⟨by simp, by simp⟩, hv]
  dsimp only
  rw [if_neg (by simp [hin]), if_neg (by simpa using hne), if_neg (by simp [hall]), issue_rank, kErr_none h.sound]

/-! ## The obligation -/

/-- Settles O17: a pass that all its threads take to one place goes there whole, each return stack pushed, popped or kept. -/
theorem vectorCallsAndReturns : Obligations.VectorCallsAndReturns := by
  unfold Obligations.VectorCallsAndReturns
  refine fun s f h hgiven hne => ⟨fun w hf hroom => callVec_runs h hgiven hne hf hroom, fun w pc hm hjn hd hk ha hb hf hc hread htarget => ?_,
    fun w pc hn hm hf => retVec_runs h hgiven hne hf hn hm, fun w v => retHVec_runs h⟩
  have hok : (plainMod w 4 && fldOk .vec .none (fldD w) && !w.kd && fldOk .vec .pair (fldA w) && fldOk .vec .none (fldB w)) = true := by simp [*]
  exact ⟨braiVec_runs h hgiven hne hf hok hjn hc hread htarget, calliVec_runs h hgiven hne hf hok hjn hc hread htarget⟩

end Sys2Proof.Machine
end

section
/-! O19: software traps and sleeps. TRAP, and BRK with no debugger, take a trap that is delivered; a sleep of no ticks goes past its word, and any
other waits. -/

namespace Sys2Proof.Machine

/-! ## Software traps -/

/-- A software trap is delivered: no owner is asked, but a debugger by a BRK (R252, R376). -/
theorem trapCtl_soft {s : State} {t : Team} {tr : Trap} (hsoft : tr.code = .software ∨ tr.code = .brk)
    (hdebug : tr.code = .brk → s.debugged t.ctx = false) : s.trapCtl t tr = s.deliverCtl t tr := by
  obtain hcode | hcode := hsoft
  · exact trapCtl_plain (by rw [hcode]; rfl) (by rw [hcode]; rfl) (by simp [hcode])
  · simp [State.trapCtl, hcode, hdebug hcode, TrapCode.violation, ownerFirst]

theorem trap_soft {f : Foc} {tr : Trap} {w : TrapAt} (hsoft : tr.code = .software ∨ tr.code = .brk)
    (hdebug : tr.code = .brk → f.s.debugged f.t.ctx = false) : f.trap tr w = f.deliver tr w := by
  obtain hcode | hcode := hsoft
  · exact trap_plain (by rw [hcode]; rfl) (by rw [hcode]; rfl) (by simp [hcode])
  · simp [Foc.trap, hcode, hdebug hcode, TrapCode.violation, ownerFirst]

/-- A control thread as it enters its grid's handler: s60 to s62 hold the code, the trap PC and the detail, and its first pass there is three ticks
on (R378; log 8). -/
def Ctl.entering (c : Ctl) (code : TrapCode) (tpc : BitVec 48) (detail : DWord) (entry now : Nat) : Ctl :=
  { ((c.putS 60 (BitVec.ofNat 64 code.num)).putS 61 (tpc.setWidth 64)).putS 62 detail with
    pc := BitVec.ofNat 48 entry, wait := .none, handler := some ⟨code, tpc⟩, earliest := max c.earliest (now + 3) }

/-- A trap of a control thread outside a handler enters the handler that its grid has (R378). -/
theorem deliverCtl_enters {s : State} {t : Team} (tr : Trap) (hout : t.ctl.handler = none) (hentry : s.traph t.grid true ≠ 0) :
    s.deliverCtl t tr =
      s.putTeam (t.withCtl (t.ctl.entering tr.code (trapPcOf tr.code t.ctl.pc) tr.detail (s.traph t.grid true) s.gt)) := by
  unfold State.deliverCtl
  dsimp only
  rw [hout]
  exact if_neg hentry

/-- TRAP and BRK of a control thread enter the handler with the PC past the word and the immediate (R252, R377, R378). -/
theorem softCtl_enters {i : Instr} {op : BitVec 8} {code : TrapCode} {s : State} {t : Team} {w : FWord} {a : Foc → State} (h : CtlIssues s t)
    (hex : exec i s = answer (byStream s a (softCtl op code w))) (hn : noOperands .ctl w = true) (hg : t.guard w.g w.gn)
    (hout : t.ctl.handler = none) (hentry : s.traph t.grid true ≠ 0) (hsoft : code = .software ∨ code = .brk)
    (hdebug : code = .brk → s.debugged t.ctx = false) :
    CtlRuns i s t (fun s u =>
      s.putTeam (u.withCtl (u.ctl.entering code (t.ctl.pc + 8) (w.md.setWidth 64) (s.traph t.grid true) s.gt))) := by
  refine ctl_acts h hex rfl hn hg (fun now last e ra => ?_) (fun _ _ _ _ => h.whole)
  have hpc : trapPcOf code t.ctl.pc = t.ctl.pc + 8 := if_pos hsoft
  have henter := deliverCtl_enters (s := s.afterCtl t now last) (t := t.retimed e ra) { code := code, detail := w.md.setWidth 64 } hout hentry
  rw [retimed_pc, hpc] at henter
  exact (trapCtl_soft hsoft hdebug).trans henter

/-- TRAP and BRK of a split fault all its active threads together (R252). -/
theorem softVec_delivers {i : Instr} {op : BitVec 8} {code : TrapCode} {s : State} {f : Foc} {w : FWord} {b : State → Team → State} (h : VecIssues s f)
    (hex : exec i s = answer (byStream s (softVec op code w) b)) (hn : noOperands .vec w = true) {p : Nat} {l : List Nat}
    (hact : f.actives (f.pass w) = p :: l) (hsoft : code = .software ∨ code = .brk) (hdebug : code = .brk → s.debugged f.t.ctx = false) :
    VecRuns i s f (fun g => g.deliver { code := code, detail := w.md.setWidth 64 } ⟨p, p :: l, f.pass w⟩) := by
  refine vec_runs (c := clsPer) (rd := [guardKey w.g]) (wr := []) (act := f.pass w) (u := false) h hex ?_
    (fun now rod => (deliver_hole _ _ _).trans h.whole)
  unfold softVec
  dsimp only
  rw [show f.members w.g.toNat w.gn = f.pass w from rfl, admit_none hn ⟨by simp, by simp⟩]
  dsimp only
  rw [issue_actives, hact]
  refine trap_soft hsoft (fun hbrk => ?_)
  rw [← focus_spec h.foc] at hdebug
  exact hdebug hbrk

/-! ## Sleeps -/

section
variable {s : State} {t : Team} {w : FWord}
  (hok : (plainMod w 1 && fldOk .ctl .none (fldD w) && !w.kd && fldOk .ctl .reg (fldA w) && fldOk .ctl .none (fldB w)) = true)
  (hg : t.guard w.g w.gn)
include hok hg

theorem sleepCtl_waits (h : CtlIssues s t) : CtlRuns (.sleep w) s t (fun s u =>
    if ((t.ctl.getS w.a.toNat).extractLsb' 0 32).toNat = 0 then s.ctlDone u
    else s.ctlBlock u (.sleep (s.gt + ((t.ctl.getS w.a.toNat).extractLsb' 0 32).toNat))) := by
  refine ctl_acts h rfl rfl hok hg (fun _ _ _ _ => rfl) (fun _ _ _ _ => ?_)
  split <;> exact h.whole

/-- A sleep that reads a register with an error mark traps UNCORRECTABLE with the register's number (R399; log 60). -/
theorem sleepCtl_uncorrectable (hcur : s.cur = .ctl t.uid) (hteam : s.team t.uid = some t) (hwhole : s.hole = none)
    (herr : tabGet false t.ctl.errs w.a.toNat = true) :
    CtlRuns (.sleep w) s t (fun s u => s.deliverCtl u { code := .uncorrectable, detail := BitVec.ofNat 64 w.a.toNat }) := by
  obtain ⟨now, last, e, ra, hi⟩ := issueCtl_eq s t clsOnce (ctlKeysOf .reg (fldA w) ++ [2048 + w.g.toNat]) []
  refine ⟨now, last, e, ra, exec_next rfl ((byStream_ctl hcur hteam _ _).trans ?_) ((deliverCtl_hole _ _ _).trans hwhole)⟩
  have hread : (t.retimed e ra).ctl.readErr (ctlKeysOf .reg (fldA w)) = some { code := .uncorrectable, detail := BitVec.ofNat 64 w.a.toNat } := by
    simp [Ctl.readErr, ctlKeysOf, fldA, Team.retimed, herr]
  unfold sleepCtl ctlPass
  rw [hi, hok]
  dsimp only
  rw [if_neg (by simp), if_neg (by simpa [Team.guard] using hg), hread]
  exact trapCtl_plain rfl rfl (by simp)

end

/-- SLEEP of a split waits for the greatest of its active threads' counts, and goes on when that is 0 (R253). -/
theorem sleepVec_waits {s : State} {f : Foc} {w : FWord} (h : VecIssues s f)
    (hok : (plainMod w 1 && fldOk .vec .none (fldD w) && !w.kd && fldOk .vec .reg (fldA w) && fldOk .vec .none (fldB w)) = true)
    (hc : Clear f (f.pass w) (vregsOf .reg (fldA w)) (fullNeeds .reg (fldA w))) (hr : Reads f.r (f.actives (f.pass w)) .reg (fldA w)) {n : Nat}
    (hmax : n = maxOf ((f.actives (f.pass w)).map (fun p => (lo32 (readVal f.r p .reg (fldA w))).toNat))) :
    VecRuns (.sleep w) s f (fun g => if n = 0 then g.done else (g.block (.sleep (g.s.gt + n))).close) := by
  refine vec_runs (c := clsOnce) (rd := guardKey w.g :: keysOf .reg (fldA w)) (wr := []) (act := f.pass w) (u := false) h rfl ?_ (fun now rod => ?_)
  · unfold sleepVec
    dsimp only
    rw [show f.members w.g.toNat w.gn = f.pass w from rfl, admit_none hok hc]
    dsimp only
    rw [issue_actives, issue_rank, readAll_reads hr]
    dsimp only
    rw [List.map_map, hmax]
    rfl
  · split
    · exact (done_hole _).trans h.whole
    · exact (close_hole _).trans h.whole

/-! ## The obligation -/

/-- Settles O19: a software trap is delivered with the PC past its word, and a sleep goes on or waits by its count. The handler's first pass three
ticks on is log 8's, the number of an error mark's field in the detail log 60's. -/
theorem softwareTrapsAndSleep : Obligations.SoftwareTrapsAndSleep := by
  unfold Obligations.SoftwareTrapsAndSleep
  refine ⟨fun s t w h hg => ⟨fun hn hout hentry => ⟨?_, fun hdebug => ?_⟩, fun hm hd hk ha hb => sleepCtl_waits (by simp [*]) hg h⟩,
    fun s t w hcur hteam hwhole hg hm hd hk ha hb => sleepCtl_uncorrectable (by simp [*]) hg hcur hteam hwhole,
    fun s f w h => ⟨fun hn p l hact => ⟨?_, fun hdebug => ?_⟩, fun hm hd hk ha hb hc hr n => sleepVec_waits h (by simp [*]) hc hr⟩⟩
  · exact softCtl_enters (i := .trap w) (code := .software) h rfl hn hg hout hentry (.inl rfl) nofun
  · exact softCtl_enters (i := .brk w) (code := .brk) h rfl hn hg hout hentry (.inr rfl) (fun _ => hdebug)
  · exact softVec_delivers (i := .trap w) h rfl hn hact (.inl rfl) nofun
  · exact softVec_delivers (i := .brk w) h rfl hn hact (.inr rfl) (fun _ => hdebug)

end Sys2Proof.Machine
end

section
/-! O1: the register instructions as passes and in the control stream. A thread of a pass does to its focus what its lane does to its rank, so the
walk over the threads is the run of their lanes; the rest is the checks before issue, each met by a hypothesis. -/

namespace Sys2Proof.Machine

/-- A register instruction runs its description in both streams (R256 to R260). -/
theorem exec_aluOf {i : Instr} {sp : AluSpec} {w : FWord} {x : Option XWord} (h : aluOf i = some (sp, w, x)) (s : State) :
    exec i s = answer (byStream s (aluVec sp w x) (aluCtl sp w)) := by
  cases i <;> cases h <;> rfl

/-! ## The vector stream -/

/-- A thread of a pass does to the focus what its lane does to the rank (R260). -/
theorem aluThread_eq_lane (sp : AluSpec) (w : FWord) (x : Option XWord) (f : Foc) (p : Nat) :
    aluThread sp w x f p = ((aluLane sp w x f.x.age f.r p).map f.withRank).mapError Stop.trap := by
  unfold aluThread aluLane
  dsimp only
  cases readOpd f.r p (sp.a (modOf sp w)) (fldA w) with
  | error t => rfl
  | ok a =>
    cases (if isImm sp w then .ok (immB w) else readOpd f.r p (sp.b (modOf sp w)) (fldB w)) with
    | error t => rfl
    | ok b =>
      cases readOpd f.r p (cKind x) (cFld x) with
      | error t => rfl
      | ok c =>
        cases (if sp.readsD (modOf sp w) then readOpd f.r p (sp.d (modOf sp w)) (fldD w) else .ok TCap.null) with
        | error t => rfl
        | ok d =>
          dsimp only
          cases sp.op (modOf sp w) ⟨a, b, c, d, fun n => f.r.pred p n⟩ with
          | error t => rfl
          | ok res => rfl

/-- A walk whose lanes run without a trap meets nothing and leaves the rank they leave (R28, R175). -/
theorem aluLoop_runs {sp : AluSpec} {w : FWord} {x : Option XWord} {f : Foc} {ps : List Nat} {r' : Rank}
    (h : aluRun sp w x f.x.age ps f.r = some r') : passLoop (aluThread sp w x) (aluZero sp w) ps f = (f.withRank r', none) := by
  induction ps generalizing f with
  | nil => cases h; rfl
  | cons p ps ih =>
    unfold aluRun at h
    unfold passLoop
    rw [aluThread_eq_lane]
    cases hl : aluLane sp w x f.x.age f.r p with
    | ok r₁ =>
      rw [hl] at h
      exact ih (f := f.withRank r₁) h
    | error t =>
      rw [hl] at h
      cases hh : f.r.helper p with
      | false => simp [hh] at h
      | true =>
        simp only [hh, if_true] at h
        simp only [Except.map, Except.mapError, if_true]
        exact ih (f := aluZero sp w f p) h

/-- A pass past its checks leaves what its lanes leave, and goes past its one word or its two (R176, R184, R202, R260). -/
theorem aluVec_runs {sp : AluSpec} {w : FWord} {x : Option XWord} {f : Foc} {r' : Rank} (hok : aluFieldsOk .vec sp w x = true)
    (hc : Clear f (aluThreads sp w x f) (aluRegs sp w x) (aluNeeds sp w x))
    (hrun : aluRun sp w x f.x.age (aluThreads sp w x f) f.r = some r') :
    ∃ c rd wr act u, aluVec sp w x f =
      (((f.issue c rd wr act u).withRank r').goto (f.x.pc + (if x.isSome then 16 else 8))).close := by
  have hloop (c rd wr act u) : passLoop (aluThread sp w x) (aluZero sp w) (aluThreads sp w x f) (f.issue c rd wr act u) =
      ((f.issue c rd wr act u).withRank r', none) := aluLoop_runs hrun
  unfold aluRegs aluNeeds aluThreads at hc
  unfold aluThreads at hloop
  unfold aluVec
  dsimp only
  rw [hok, if_neg (by simp), unallocated_none hc.allocated]
  dsimp only
  rw [emptyNeeds_nil hc.full]
  dsimp only
  rw [hloop]
  cases x with
  | none => exact ⟨_, _, _, _, _, rfl⟩
  | some y => exact ⟨_, _, _, _, _, rfl⟩

/-! ## The control stream -/

@[simp] theorem freezeTeam_hole (s : State) (uid : Nat) (tr : Trap) (pc : BitVec 48) (resume : Nat) :
    (s.freezeTeam uid tr pc resume).hole = s.hole := by
  unfold State.freezeTeam
  split
  · rfl
  · split <;> rfl

@[simp] theorem trapCtl_hole (s : State) (t : Team) (tr : Trap) : (s.trapCtl t tr).hole = s.hole := by
  unfold State.trapCtl
  dsimp only
  split
  · simp
  · split
    · rfl
    · simp

/-- What a register instruction of the control stream does under a guard that holds (R258). -/
def aluActs (sp : AluSpec) (w : FWord) (s : State) (t : Team) : State :=
  match sp.op (modOf sp w) (ctlSrc sp w t.ctl) with
  | .error tr => s.trapCtl t tr
  | .ok res => s.ctlDone (t.withCtl (t.ctl.results sp w res))

theorem aluActs_ok {sp : AluSpec} {w : FWord} {t : Team} {res : Res} (h : sp.op (modOf sp w) (ctlSrc sp w t.ctl) = .ok res) (s : State) :
    aluActs sp w s t = s.ctlDone (t.withCtl (t.ctl.results sp w res)) := by
  unfold aluActs
  rw [h]

theorem aluActs_error {sp : AluSpec} {w : FWord} {t : Team} {tr : Trap} (h : sp.op (modOf sp w) (ctlSrc sp w t.ctl) = .error tr) (s : State) :
    aluActs sp w s t = s.trapCtl t tr := by
  unfold aluActs
  rw [h]

/-- An instruction of the control stream with legal fields issues; its guard says whether it acts (R198, R200, R258). -/
theorem aluCtl_issues {sp : AluSpec} {w : FWord} {s : State} {t : Team} (hctl : sp.ctl = true) (hok : aluFieldsOk .ctl sp w none = true)
    (herr : t.ctl.errs = []) : ∃ c rd wr, aluCtl sp w s t =
      if t.ctl.pred w.g.toNat == w.gn then (s.issueCtl t c rd wr).1.ctlDone (s.issueCtl t c rd wr).2
      else aluActs sp w (s.issueCtl t c rd wr).1 (s.issueCtl t c rd wr).2 := by
  unfold aluCtl
  dsimp only
  rw [hctl, hok, if_neg (by simp), if_neg (by simp)]
  refine ⟨_, _, _, if_congr Iff.rfl rfl ?_⟩
  rw [readErr_none (c := (s.issueCtl t _ _ _).2.ctl) herr]
  rfl

section
variable {i : Instr} {sp : AluSpec} {w : FWord} {x : Option XWord} {s : State} {t : Team} (h : CtlIssues s t) (hi : aluOf i = some (sp, w, x))
  (hctl : sp.ctl = true) (hok : aluFieldsOk .ctl sp w none = true)
include h hi hctl hok

/-- A register instruction of the control stream runs as its guard, or what it does under it, leaves the team (R200). -/
theorem aluCtl_runs {k : State → Team → State}
    (hk : ∀ now last e ra, (if t.ctl.pred w.g.toNat == w.gn then (s.afterCtl t now last).ctlDone (t.retimed e ra)
      else aluActs sp w (s.afterCtl t now last) (t.retimed e ra)) = k (s.afterCtl t now last) (t.retimed e ra))
    (hh : ∀ now last e ra, (k (s.afterCtl t now last) (t.retimed e ra)).hole = none) : CtlRuns i s t k := by
  obtain ⟨c, rd, wr, ha⟩ := aluCtl_issues hctl hok h.sound
  obtain ⟨now, last, e, ra, hissue⟩ := issueCtl_eq s t c rd wr
  rw [hissue] at ha
  exact ⟨now, last, e, ra, exec_next (exec_aluOf hi s) ((byStream_ctl h.cur h.team _ _).trans (ha.trans (hk now last e ra))) (hh now last e ra)⟩

theorem aluCtl_skips (hg : ¬ t.guard w.g w.gn) : CtlRuns i s t State.ctlDone :=
  aluCtl_runs h hi hctl hok (fun _ _ _ _ => if_pos (by simpa [Team.guard] using hg)) (fun _ _ _ _ => h.whole)

theorem aluCtl_results {res : Res} (hg : t.guard w.g w.gn) (hop : sp.op (modOf sp w) (ctlSrc sp w t.ctl) = .ok res) :
    CtlRuns i s t (fun s u => s.ctlDone (u.withCtl (u.ctl.results sp w res))) :=
  aluCtl_runs h hi hctl hok (fun _ _ e ra => (if_neg (Bool.eq_false_iff.mp hg)).trans (aluActs_ok (t := t.retimed e ra) hop _))
    (fun _ _ _ _ => h.whole)

theorem aluCtl_traps {tr : Trap} (hg : t.guard w.g w.gn) (hop : sp.op (modOf sp w) (ctlSrc sp w t.ctl) = .error tr) :
    CtlRuns i s t (fun s u => s.trapCtl u tr) :=
  aluCtl_runs h hi hctl hok (fun _ _ e ra => (if_neg (Bool.eq_false_iff.mp hg)).trans (aluActs_error (t := t.retimed e ra) hop _))
    (fun _ _ _ _ => (trapCtl_hole _ _ _).trans h.whole)

end

theorem aluCtl_notInControl {sp : AluSpec} (hctl : sp.ctl = false) (w : FWord) (s : State) (t : Team) :
    aluCtl sp w s t = s.trapCtl t { code := .illegalStream, detail := hiOf (fToWord sp.opc w) } := by
  unfold aluCtl
  dsimp only
  rw [hctl]
  rfl

/-! ## The obligation -/

/-- Settles O1: a pass past its checks is the run of its lanes; the control stream's guard, operation and stream decide what it does. -/
theorem aluInstructionsRun : Obligations.AluInstructionsRun := by
  unfold Obligations.AluInstructionsRun
  refine ⟨fun i sp w x s f r' hi hv hok halloc hfull hrun => ?_, fun i sp w x s t hi h => ⟨fun hctl hok =>
    ⟨aluCtl_skips h hi hctl hok, fun res => aluCtl_results h hi hctl hok, fun tr => aluCtl_traps h hi hctl hok⟩,
    fun hctl => traps_in_control h (exec_aluOf hi s) (aluCtl_notInControl hctl w s t) rfl rfl (by simp)⟩⟩
  obtain ⟨c, rd, wr, act, u, ha⟩ := aluVec_runs hok ⟨halloc, hfull⟩ hrun
  exact vec_runs hv (exec_aluOf hi s) ha (fun now rod => (close_hole _).trans hv.whole)

end Sys2Proof.Machine
end

section
/-! O4 and O5: the results of the integer instructions. Each is an equation about the function of the model that the instruction's operation is,
on words; an instruction then gives what its operation gives. -/

namespace Sys2Proof.Machine

/-! ## Modifiers under BI -/

/-- A modifier below BI is a bit of MOD (R257). -/
theorem bitAt_mod_2048 (m : Nat) {i : Nat} (hi : i < 11) : bitAt (m % 2048) i = m.testBit i := by
  rw [bitAt, show (2048 : Nat) = 2 ^ 11 from rfl, Nat.testBit_mod_two_pow, decide_eq_true hi, Bool.true_and]

/-- A field below BI is a field of MOD (R257). -/
theorem bitsAt_mod_2048 (m : Nat) {lo n : Nat} (h : lo + n ≤ 11) : bitsAt (m % 2048) lo n = bitsAt m lo n := by
  refine Nat.eq_of_testBit_eq fun i => ?_
  rw [bitsAt, bitsAt, show (2048 : Nat) = 2 ^ 11 from rfl, Nat.testBit_mod_two_pow, Nat.testBit_mod_two_pow, Nat.testBit_shiftRight,
    Nat.testBit_shiftRight, Nat.testBit_mod_two_pow]
  by_cases hi : i < n
  · simp [show lo + i < 11 by omega]
  · simp [hi]

/-! ## Sums that wrap or clamp -/

section
variable {m : Nat}

theorem satSm_wrap_add (hm : m = 0) (z : Int) (a b : Word) : satSm m z ((a.toNat : Int) + b.toNat) = a + b := by
  subst hm
  refine BitVec.eq_of_toNat_eq ((BitVec.toNat_ofInt _).trans ?_)
  rw [BitVec.toNat_add]
  omega

theorem satSm_wrap_sub (hm : m = 0) (z : Int) (a b : Word) : satSm m z ((a.toNat : Int) - b.toNat) = a - b := by
  subst hm
  refine BitVec.eq_of_toNat_eq ((BitVec.toNat_ofInt _).trans ?_)
  have := b.isLt
  rw [BitVec.toNat_sub]
  omega

theorem satSm_signed (hm : m = 1) (z u : Int) : (satSm m z u).toInt = max (-2 ^ 31) (min (2 ^ 31 - 1) z) := by
  subst hm
  have hv : satSm 1 z u = BitVec.ofInt 32 (clampInt (intRange true 32) z) := rfl
  have hc : clampInt (intRange true 32) z = max (-2 ^ 31) (min (2 ^ 31 - 1) z) := by
    simp only [clampInt, intRange, if_true]
    omega
  rw [hv, hc, BitVec.toInt_ofInt, Int.bmod_eq_of_le] <;> omega

theorem satSm_unsigned (hm : m = 2) (z u : Int) : ((satSm m z u).toNat : Int) = max 0 (min (2 ^ 32 - 1) u) := by
  subst hm
  have hv : satSm 2 z u = BitVec.ofInt 32 (clampInt (intRange false 32) u) := rfl
  have hc : clampInt (intRange false 32) u = max 0 (min (2 ^ 32 - 1) u) := by
    simp only [clampInt, intRange, Bool.false_eq_true, if_false, Nat.cast_pow, Nat.cast_ofNat]
    omega
  rw [hv, hc, BitVec.toNat_ofInt]
  omega

theorem satSm_unsigned_add (hm : m = 2) (z : Int) (a b : Word) :
    (satSm m z ((a.toNat : Int) + b.toNat)).toNat = min (2 ^ 32 - 1) (a.toNat + b.toNat) := by
  have := satSm_unsigned hm z ((a.toNat : Int) + b.toNat)
  omega

theorem satSm_unsigned_sub (hm : m = 2) (z : Int) (a b : Word) : (satSm m z ((a.toNat : Int) - b.toNat)).toNat = a.toNat - b.toNat := by
  have := satSm_unsigned hm z ((a.toNat : Int) - b.toNat)
  omega

end

/-! ## Products -/

theorem toNat_mul_add {w : Nat} (a b d : BitVec w) : (a * b + d).toNat = (a.toNat * b.toNat + d.toNat) % 2 ^ w := by
  rw [BitVec.toNat_add, BitVec.toNat_mul, Nat.mod_add_mod]

theorem mulHigh_unsigned {signed : Bool} (hs : signed = false) (a b : Word) : (mulHigh signed a b).toNat = a.toNat * b.toNat / 2 ^ 32 := by
  subst hs
  have hlt : a.toNat * b.toNat < 2 ^ 32 * 2 ^ 32 := Nat.mul_lt_mul'' a.isLt b.isLt
  have hv : mulHigh false a b = (a.setWidth 64 * b.setWidth 64).extractLsb' 32 32 := rfl
  rw [hv, BitVec.extractLsb'_toNat, BitVec.toNat_mul, BitVec.toNat_setWidth_of_le (by decide), BitVec.toNat_setWidth_of_le (by decide),
    Nat.shiftRight_eq_div_pow]
  omega

/-- The upper half of a 64-bit number, as a signed number. -/
theorem extractLsb'_high_toInt (p : DWord) : (p.extractLsb' 32 32).toInt = p.toInt / 2 ^ 32 := by
  have := p.isLt
  rw [BitVec.toInt_eq_toNat_cond, BitVec.toInt_eq_toNat_cond, BitVec.extractLsb'_toNat, Nat.shiftRight_eq_div_pow]
  omega

theorem mulHigh_signed {signed : Bool} (hs : signed = true) (a b : Word) : (mulHigh signed a b).toInt = a.toInt * b.toInt / 2 ^ 32 := by
  subst hs
  have hhi := BitVec.toInt_mul_toInt_le (x := a) (y := b)
  have hlo := BitVec.le_toInt_mul_toInt (x := a) (y := b)
  have hv : mulHigh true a b = (a.signExtend 64 * b.signExtend 64).extractLsb' 32 32 := rfl
  rw [hv, extractLsb'_high_toInt, BitVec.toInt_mul, BitVec.toInt_signExtend_of_le (by decide), BitVec.toInt_signExtend_of_le (by decide),
    Int.bmod_eq_of_le] <;> omega

/-! ## Carries -/

/-- The sum of two words and a carry, with its carry out of bit 31 (R261). -/
theorem add_carryOut (a b : Word) (c : Bool) :
    (a + b + (if c then 1 else 0)).toNat + 2 ^ 32 * (carryOut a b c).toNat = a.toNat + b.toNat + c.toNat := by
  have hc : (if c then 1 else 0 : Word).toNat = c.toNat := by cases c <;> rfl
  have hle : c.toNat ≤ 1 := Bool.toNat_le c
  have ha := a.isLt
  have hb := b.isLt
  rw [BitVec.toNat_add, BitVec.toNat_add, hc, carryOut]
  by_cases h : 2 ^ 32 ≤ a.toNat + b.toNat + c.toNat
  · rw [decide_eq_true h, Bool.toNat_true]
    omega
  · rw [decide_eq_false h, Bool.toNat_false]
    omega

/-- IADDC gives its sum, and in its predicate the carry out (R261). -/
theorem iaddcOp_sum (m : Nat) (x : Src) : ∃ v k, iaddcOp m x = .ok { val := val32 v, p := some (bitsAt m 0 3, k) } ∧
    v.toNat + 2 ^ 32 * k.toNat = (lo32 x.a).toNat + (lo32 x.b).toNat + (bitAt m 7 && x.p (bitsAt m 4 3)).toNat :=
  ⟨_, _, rfl, add_carryOut _ _ _⟩

/-! ## Order and magnitude -/

section
variable {signed : Bool}

theorem minMax_signed (hs : signed = true) (a b : Word) :
    (minMax false signed a b).toInt = min a.toInt b.toInt ∧ (minMax true signed a b).toInt = max a.toInt b.toInt := by
  simp only [minMax, hs, if_true, Bool.false_eq_true, if_false, BitVec.slt_iff_toInt_lt]
  constructor <;> split <;> omega

theorem minMax_unsigned (hs : signed = false) (a b : Word) :
    (minMax false signed a b).toNat = min a.toNat b.toNat ∧ (minMax true signed a b).toNat = max a.toNat b.toNat := by
  simp only [minMax, hs, if_true, Bool.false_eq_true, if_false, BitVec.ult_iff_lt, BitVec.lt_def]
  constructor <;> split <;> omega

end

/-- A magnitude; the least number has none, and gives itself or the greatest (R261). -/
theorem iabs_spec (sat : Bool) (a : Word) : if a = 0x80000000 then iabs sat a = (if sat then 0x7FFFFFFF else 0x80000000)
    else (iabs sat a).toInt = (a.toInt.natAbs : Int) := by
  split
  · subst a
    rfl
  · rename_i h
    have habs : iabs sat a = a.abs := (if_neg h).trans (BitVec.abs_eq a).symm
    rw [habs, BitVec.toInt_abs_eq_natAbs_of_ne_intMin h]

/-- The ten conditions on two values of one width (R263). -/
theorem icond_eq_decide {n c : Nat} (hc : c < 10) (a b : BitVec n) : icond c a b = decide
    ((c = 0 ∧ a = b) ∨ (c = 1 ∧ a ≠ b) ∨ (c = 2 ∧ a.toInt < b.toInt) ∨ (c = 3 ∧ a.toInt ≤ b.toInt) ∨ (c = 4 ∧ b.toInt < a.toInt) ∨
      (c = 5 ∧ b.toInt ≤ a.toInt) ∨ (c = 6 ∧ a.toNat < b.toNat) ∨ (c = 7 ∧ a.toNat ≤ b.toNat) ∨ (c = 8 ∧ b.toNat < a.toNat) ∨
      (c = 9 ∧ b.toNat ≤ a.toNat)) := by
  rw [Bool.eq_iff_iff, decide_eq_true_iff]
  interval_cases c <;>
    simp [icond, BitVec.slt_iff_toInt_lt, BitVec.sle_iff_toInt_le, BitVec.ult_iff_lt, BitVec.ule_iff_le, BitVec.lt_def, BitVec.le_def]

/-! ## Shifts and rotates -/

section
variable {w : Nat} (a : BitVec w) (b : Word)

/-- A left shift that takes an amount of the width or more apart is the shift by any amount (R262, R264). -/
theorem shiftLeft_any : (if shiftBig w b then 0 else a <<< b.toNat) = a <<< b.toNat := by
  rw [shiftBig, ite_eq_right_iff, decide_eq_true_iff]
  exact fun h => (BitVec.shiftLeft_eq_zero h).symm

theorem ushiftRight_any : (if shiftBig w b then 0 else a >>> b.toNat) = a >>> b.toNat := by
  rw [shiftBig, ite_eq_right_iff, decide_eq_true_iff]
  exact fun h => (BitVec.ushiftRight_eq_zero h).symm

theorem sshiftRight_any : (if shiftBig w b then (if a.msb then -1 else 0) else a.sshiftRight b.toNat) = a.sshiftRight b.toNat := by
  rw [shiftBig, ite_eq_right_iff, decide_eq_true_iff]
  intro h
  refine BitVec.eq_of_getLsbD_eq fun i hi => ?_
  rw [BitVec.getLsbD_sshiftRight]
  cases a.msb <;> simp [hi, show ¬ b.toNat + i < w by omega, BitVec.neg_one_eq_allOnes]

theorem toNat_shiftLeft_mul (n : Nat) : (a <<< n).toNat = a.toNat * 2 ^ n % 2 ^ w := by rw [BitVec.toNat_shiftLeft, Nat.shiftLeft_eq]
theorem toNat_ushiftRight_div (n : Nat) : (a >>> n).toNat = a.toNat / 2 ^ n := by rw [BitVec.toNat_ushiftRight, Nat.shiftRight_eq_div_pow]
theorem toInt_sshiftRight_div (n : Nat) : (a.sshiftRight n).toInt = a.toInt / 2 ^ n := by
  rw [BitVec.toInt_sshiftRight, Int.shiftRight_eq_div_pow, Nat.cast_pow, Nat.cast_ofNat]

end

theorem shl32_toNat (a b : Word) : (shl32 a b).toNat = a.toNat * 2 ^ b.toNat % 2 ^ 32 := by rw [shl32, shiftLeft_any, toNat_shiftLeft_mul]
theorem shr32_toNat (a b : Word) : (shr32 a b).toNat = a.toNat / 2 ^ b.toNat := by rw [shr32, ushiftRight_any, toNat_ushiftRight_div]
theorem sar32_toInt (a b : Word) : (sar32 a b).toInt = a.toInt / 2 ^ b.toNat := by rw [sar32, sshiftRight_any, toInt_sshiftRight_div]
theorem shl64v_toNat (a : DWord) (b : Word) : (shl64v a b).toNat = a.toNat * 2 ^ b.toNat % 2 ^ 64 := by
  rw [shl64v, shiftLeft_any, toNat_shiftLeft_mul]
theorem shr64v_toNat (a : DWord) (b : Word) : (shr64v a b).toNat = a.toNat / 2 ^ b.toNat := by rw [shr64v, ushiftRight_any, toNat_ushiftRight_div]
theorem sar64v_toInt (a : DWord) (b : Word) : (sar64v a b).toInt = a.toInt / 2 ^ b.toNat := by rw [sar64v, sshiftRight_any, toInt_sshiftRight_div]

theorem rotl32_bit (a b : Word) {i : Nat} (hi : i < 32) : (rotl32 a b).getLsbD ((i + b.toNat) % 32) = a.getLsbD i := by
  rw [rotl32, BitVec.getLsbD_rotateLeft, Nat.mod_mod]
  by_cases h : i + b.toNat % 32 < 32
  · have hj : (i + b.toNat) % 32 = i + b.toNat % 32 := by omega
    simp [hj, h]
  · have hj : (i + b.toNat) % 32 = i + b.toNat % 32 - 32 := by omega
    rw [hj, decide_eq_true (by omega : i + b.toNat % 32 - 32 < b.toNat % 32), cond_true]
    congr 1
    omega

/-! ## Bit fields -/

/-- The position and the length that B gives a bit field (R262). -/
theorem fieldOf_eq (b : Word) : fieldOf b = (b.toNat % 32, min (b.toNat / 32 % 64) (32 - b.toNat % 32)) := by
  simp [fieldOf, bitsAt, Nat.shiftRight_eq_div_pow]

theorem bitsAt_testBit (v lo n i : Nat) : (bitsAt v lo n).testBit i = (decide (i < n) && v.testBit (lo + i)) := by
  rw [bitsAt, Nat.testBit_mod_two_pow, Nat.testBit_shiftRight]

/-- The value of a two's-complement field is that of the word of its width. -/
theorem signedOf_eq_toInt {n : Nat} (hn : 0 < n) (v : Nat) : signedOf n v = (BitVec.ofNat n v).toInt := by
  obtain ⟨m, rfl⟩ := Nat.exists_eq_succ_of_ne_zero hn.ne'
  rw [BitVec.toInt_eq_toNat_cond, BitVec.toNat_ofNat, signedOf]
  refine if_congr ?_ rfl rfl
  rw [Nat.pow_succ', Nat.succ_sub_one]
  omega

section
variable (a b d : Word) {pos len : Nat} (hpos : pos = b.toNat % 32) (hlen : len = min (b.toNat / 32 % 64) (32 - pos))
include hpos hlen

theorem bfx_bit (signed : Bool) {i : Nat} (hi : i < 32) : (bfx signed a b).getLsbD i =
    if i < len then a.getLsbD (pos + i) else signed && decide (0 < len) && a.getLsbD (pos + len - 1) := by
  have hf : fieldOf b = (pos, len) := by rw [fieldOf_eq, hlen, hpos]
  unfold bfx
  rw [hf]
  dsimp only
  by_cases h0 : len = 0
  · simp [h0]
  rw [if_neg h0]
  cases signed with
  | false =>
    rw [if_neg Bool.false_ne_true, BitVec.getLsbD_ofNat, bitsAt_testBit, BitVec.testBit_toNat]
    simp [hi]
  | true =>
    rw [if_pos rfl, signedOf_eq_toInt (by omega), show BitVec.ofInt 32 (BitVec.ofNat len _).toInt = (BitVec.ofNat len _).signExtend 32 from rfl,
      BitVec.getLsbD_signExtend, BitVec.msb_eq_getLsbD_last]
    simp only [BitVec.getLsbD_ofNat, bitsAt_testBit, BitVec.testBit_toNat]
    by_cases hl : i < len
    · simp [hi, hl]
    · simp [hi, hl, show len - 1 < len by omega, show 0 < len by omega, show pos + (len - 1) = pos + len - 1 by omega]

theorem bfi_bit {i : Nat} (hi : i < 32) : (bfi d a b).getLsbD i = if pos ≤ i ∧ i < pos + len then a.getLsbD (i - pos) else d.getLsbD i := by
  have hf : fieldOf b = (pos, len) := by rw [fieldOf_eq, hlen, hpos]
  unfold bfi
  rw [hf]
  dsimp only
  have hmask : (BitVec.ofNat 32 ((2 ^ len - 1) <<< pos)).getLsbD i = decide (pos ≤ i ∧ i < pos + len) := by
    rw [BitVec.getLsbD_ofNat, Nat.testBit_shiftLeft, Nat.testBit_two_pow_sub_one, decide_eq_true hi, Bool.true_and, Bool.eq_iff_iff]
    simp
    omega
  rw [BitVec.getLsbD_or, BitVec.getLsbD_and, BitVec.getLsbD_and, BitVec.getLsbD_not, hmask, BitVec.getLsbD_shiftLeft]
  by_cases hin : pos ≤ i ∧ i < pos + len
  · simp [hin, hi]
  · simp [hin, hi]

end

/-! ## Counts, orders of bits and bytes -/

/-- A count of bits fits a word. -/
theorem toNat_count {n : Nat} (h : n ≤ 32) : (BitVec.ofNat 32 n).toNat = n := Nat.mod_eq_of_lt (by omega)

theorem popc_eq_countP (a : Word) : (BitVec.ofNat 32 (popc a)).toNat = (List.range 32).countP (fun i => a.getLsbD i) := by
  have hle : popc a ≤ 32 := (List.length_filter_le _ _).trans_eq List.length_range
  rw [toNat_count hle, List.countP_eq_length_filter, popc]

/-- The number of leading zeros: every bit above is zero, and the next one, where there is one, is not (R262). -/
theorem clz_spec (a : Word) : clz a ≤ 32 ∧ a.toNat < 2 ^ (32 - clz a) ∧ (clz a < 32 → 2 ^ (31 - clz a) ≤ a.toNat) := by
  unfold clz
  cases hf : (List.range 32).find? (fun i => a.getLsbD (31 - i)) with
  | none =>
    have hz : a = 0 := BitVec.eq_of_getLsbD_eq fun i hi => by
      have := List.find?_range_eq_none.mp hf (31 - i) (by omega)
      simpa [show 31 - (31 - i) = i by omega] using this
    simp [hz]
  | some n =>
    obtain ⟨hbit, hn, hbelow⟩ := List.find?_range_eq_some.mp hf
    rw [List.mem_range] at hn
    refine ⟨hn.le, Nat.lt_pow_two_of_testBit _ fun i hi => ?_, fun _ => Nat.ge_two_pow_of_testBit hbit⟩
    by_cases hw : i < 32
    · have := hbelow (31 - i) (by simp only [Option.getD_some] at hi; omega)
      simpa [show 31 - (31 - i) = i by omega, BitVec.testBit_toNat] using this
    · rw [BitVec.testBit_toNat, BitVec.getLsbD_of_ge _ _ (by omega)]

/-- The number of trailing zeros: every bit below is zero, and the next one, where there is one, is not (R262). -/
theorem ctz_spec (a : Word) : ctz a ≤ 32 ∧ a.toNat % 2 ^ ctz a = 0 ∧ (ctz a < 32 → a.toNat / 2 ^ ctz a % 2 = 1) := by
  unfold ctz
  cases hf : (List.range 32).find? (fun i => a.getLsbD i) with
  | none =>
    have hz : a = 0 := BitVec.eq_of_getLsbD_eq fun i hi => by simpa using List.find?_range_eq_none.mp hf i hi
    simp [hz]
  | some n =>
    obtain ⟨hbit, hn, hbelow⟩ := List.find?_range_eq_some.mp hf
    rw [List.mem_range] at hn
    refine ⟨hn.le, Nat.eq_of_testBit_eq fun i => ?_, fun _ => ?_⟩
    · rw [Option.getD_some, Nat.testBit_mod_two_pow, Nat.zero_testBit, Bool.and_eq_false_imp, decide_eq_true_iff]
      exact fun hi => by simpa [BitVec.testBit_toNat] using hbelow i hi
    · rw [BitVec.getLsbD, Nat.testBit_eq_decide_div_mod_eq, decide_eq_true_iff] at hbit
      exact hbit

theorem brev_bit (a : Word) {i : Nat} (hi : i < 32) : (brev a).getLsbD i = a.getLsbD (31 - i) := by
  rw [brev, BitVec.getLsbD_reverse, BitVec.getMsbD, decide_eq_true hi, Bool.true_and]

/-- The bytes of a word put together from four. -/
theorem ofNat_bytes {q : Nat → Nat} (hq : ∀ j, q j < 256) {i : Nat} (hi : i < 4) :
    (BitVec.ofNat 32 (q 0 + 2 ^ 8 * q 1 + 2 ^ 16 * q 2 + 2 ^ 24 * q 3)).toNat / 2 ^ (8 * i) % 256 = q i := by
  have h0 := hq 0
  have h1 := hq 1
  have h2 := hq 2
  have h3 := hq 3
  rw [BitVec.toNat_ofNat]
  interval_cases i <;> omega

/-- PERM's byte i is the byte of b above a that MOD's field i names (R263). -/
theorem permBytes_byte (m : Nat) (a b : Word) {i : Nat} (hi : i < 4) : (permBytes m a b).toNat / 2 ^ (8 * i) % 256 =
    (a.toNat + 2 ^ 32 * b.toNat) / 2 ^ (8 * (m / 2 ^ (3 * i) % 8)) % 256 := by
  have hsrc : (b ++ a : DWord).toNat = a.toNat + 2 ^ 32 * b.toNat := by rw [toNat_append_add]; omega
  have hbytes := ofNat_bytes (q := fun j => bitsAt (b ++ a : DWord).toNat (8 * bitsAt m (3 * j) 3) 8) (fun _ => Nat.mod_lt _ (by decide)) hi
  refine hbytes.trans ?_
  simp only [hsrc, bitsAt, Nat.shiftRight_eq_div_pow]
  rfl

/-! ## The obligations -/

theorem lo32_val32 (v : Word) : lo32 (val32 v) = v :=
  (BitVec.extractLsb'_setWidth_of_le (by decide)).trans BitVec.extractLsb'_eq_self

/-- IADDC gives its sum with the carry in that MOD names, and its carry out (R261). -/
theorem iaddc_gives (w : FWord) (x : Src) {c : Bool} (hc : c = (w.md.getLsbD 7 && x.p (bitsAt w.md.toNat 4 3))) : Gives (.iaddc w) x (fun v =>
    ∃ k : Bool, iaddcOp (w.md.toNat % 2048) x = .ok { val := val32 v, p := some (bitsAt w.md.toNat 0 3, k) } ∧
      v.toNat + 2 ^ 32 * k.toNat = (lo32 x.a).toNat + (lo32 x.b).toNat + c.toNat) := by
  obtain ⟨v, k, hop, hsum⟩ := iaddcOp_sum (w.md.toNat % 2048) x
  have hres : resultOf (.iaddc w) x = some (val32 v) := resultOf_of_op (i := .iaddc w) rfl hop
  rw [bitsAt_mod_2048 _ (by decide)] at hop
  rw [bitAt_mod_2048 _ (by decide), bitsAt_mod_2048 _ (by decide)] at hsum
  exact ⟨v, hres, k, hop, hc ▸ hsum⟩

/-- SEL chooses by the predicate that MOD names, or by its negation (R263). -/
theorem sel_gives (w : FWord) (x : Src) :
    Gives (.sel w) x (fun v => v = if x.p (w.md.toNat % 8) != w.md.getLsbD 3 then lo32 x.a else lo32 x.b) := by
  refine ⟨_, rfl, ?_⟩
  show (if x.p (bitsAt (w.md.toNat % 2048) 0 3) != bitAt (w.md.toNat % 2048) 3 then lo32 x.a else lo32 x.b) = _
  rw [bitsAt_mod_2048 _ (by decide), bitAt_mod_2048 _ (by decide)]
  rfl

/-- Settles O4: each instruction gives what its operation gives, under the modifiers that its MOD holds below BI. -/
theorem integerAndBitwiseResults : Obligations.IntegerAndBitwiseResults := by
  unfold Obligations.IntegerAndBitwiseResults
  have hbit (w : FWord) : bitAt (w.md.toNat % 2048) 0 = w.md.getLsbD 0 := testBit_zero_mod_2048 w.md.toNat
  refine ⟨fun w x => ?arithmetic, fun w x => ?bitwise⟩
  case arithmetic =>
    refine ⟨fun h => ⟨⟨_, rfl, satSm_wrap_add h _ _ _⟩, ⟨_, rfl, satSm_wrap_sub h _ _ _⟩⟩,
      fun h => ⟨⟨_, rfl, satSm_signed h _ _⟩, ⟨_, rfl, satSm_signed h _ _⟩⟩,
      fun h => ⟨⟨_, rfl, satSm_unsigned_add h _ _ _⟩, ⟨_, rfl, satSm_unsigned_sub h _ _ _⟩⟩,
      ⟨_, rfl, BitVec.toNat_mul _ _⟩, ⟨_, rfl, toNat_mul_add _ _ _⟩,
      fun h => ⟨_, rfl, mulHigh_unsigned ((hbit w).trans h) _ _⟩, fun h => ⟨_, rfl, mulHigh_signed ((hbit w).trans h) _ _⟩,
      fun c hc => iaddc_gives w x hc, fun h => ?signed, fun h => ?unsigned, ⟨_, rfl, iabs_spec _ _⟩⟩
    case signed =>
      obtain ⟨hmin, hmax⟩ := minMax_signed ((hbit w).trans h) (lo32 x.a) (lo32 x.b)
      exact ⟨⟨_, rfl, hmin⟩, ⟨_, rfl, hmax⟩⟩
    case unsigned =>
      obtain ⟨hmin, hmax⟩ := minMax_unsigned ((hbit w).trans h) (lo32 x.a) (lo32 x.b)
      exact ⟨⟨_, rfl, hmin⟩, ⟨_, rfl, hmax⟩⟩
  case bitwise =>
    refine ⟨⟨_, rfl, fun i _ => BitVec.getLsbD_and⟩, ⟨_, rfl, fun i _ => BitVec.getLsbD_or⟩, ⟨_, rfl, fun i _ => BitVec.getLsbD_xor⟩,
      ⟨_, rfl, fun i hi => ?andn⟩,
      ⟨_, rfl, shl32_toNat _ _⟩, ⟨_, rfl, shr32_toNat _ _⟩, ⟨_, rfl, sar32_toInt _ _⟩, ⟨_, rfl, fun i hi => rotl32_bit _ _ hi⟩,
      fun pos len hpos hlen => ⟨⟨_, rfl, fun i hi => ?bfx⟩, ⟨_, rfl, fun i hi => bfi_bit _ _ _ hpos hlen hi⟩⟩,
      ⟨_, rfl, popc_eq_countP _⟩, ⟨_, rfl, ?clz⟩, ⟨_, rfl, ?ctz⟩, ⟨_, rfl, fun i hi => brev_bit _ hi⟩,
      ⟨_, rfl, fun i hi => permBytes_byte _ _ _ hi⟩, sel_gives w x, ⟨_, rfl, rfl⟩⟩
    case andn => rw [BitVec.getLsbD_and, BitVec.getLsbD_not, decide_eq_true hi, Bool.true_and]
    case bfx => exact (bfx_bit _ _ hpos hlen (bitAt (w.md.toNat % 2048) 0) hi).trans (by rw [hbit w])
    case clz => simpa only [toNat_count (clz_spec (lo32 x.a)).1] using clz_spec (lo32 x.a)
    case ctz => simpa only [toNat_count (ctz_spec (lo32 x.a)).1] using ctz_spec (lo32 x.a)

/-- Settles O5: each instruction gives what its operation gives, and the carry out of the low sum is the carry in of the high one. -/
theorem longAndCompareResults : Obligations.LongAndCompareResults := by
  unfold Obligations.LongAndCompareResults
  refine ⟨fun w x c hc hlt => ⟨fun a b ha hb => ?icmp, fun a b ha hb => ?icmp64⟩, fun w x => ?long, fun al ah bl bh k l q hk hl => ?pair⟩
  case icmp =>
    subst hc ha hb
    exact congrArg (fun b => some (valP b)) (icond_eq_decide hlt _ _)
  case icmp64 =>
    subst hc ha hb
    exact congrArg (fun b => some (valP b)) (icond_eq_decide hlt _ _)
  case long =>
    exact ⟨⟨_, rfl, BitVec.toNat_add _ _⟩, ⟨_, rfl, rfl⟩, ⟨_, rfl, toNat_mul_add _ _ _⟩, ⟨_, rfl, shl64v_toNat _ _⟩, ⟨_, rfl, shr64v_toNat _ _⟩,
      ⟨_, rfl, sar64v_toInt _ _⟩, ⟨_, rfl, rfl⟩⟩
  case pair =>
    obtain ⟨lo, c, hlo, hlosum⟩ := iaddcOp_sum 1 ⟨val32 al, val32 bl, TCap.null, TCap.null, q⟩
    obtain ⟨hi, e, hhi, hhisum⟩ := iaddcOp_sum 0x92 ⟨val32 ah, val32 bh, TCap.null, TCap.null, fun n => if n = 1 then c else q n⟩
    have hlow : lo.toNat + 2 ^ 32 * c.toNat = al.toNat + bl.toNat := by rwa [lo32_val32, lo32_val32] at hlosum
    have hhigh : hi.toNat + 2 ^ 32 * e.toNat = ah.toNat + bh.toNat + c.toNat := by rwa [lo32_val32, lo32_val32] at hhisum
    rw [hk, hl]
    exact ⟨lo, hi, c, e, hlo, hhi, by omega⟩

end Sys2Proof.Machine
end

section
/-! O8: FCLASS. The class of a pattern is a number below ten that its sign, exponent and fraction decide; FCLASS writes that bit. -/

namespace Sys2Proof.Machine

/-! ## The class of a pattern -/

/-- The class of an FP32 pattern by its sign, exponent field and fraction, as R280 numbers the ten. -/
def classNumber (neg : Bool) (e m : Nat) : Nat :=
  if e = 255 then if m = 0 then (if neg then 0 else 7) else if m.testBit 22 then 9 else 8
  else if e = 0 then if m = 0 then (if neg then 3 else 4) else if neg then 2 else 5
  else if neg then 1 else 6

/-- The class of an FP32 word. -/
def wordClass (a : Word) : Nat := classNumber a.msb (a.toNat / 2 ^ 23 % 256) (a.toNat % 2 ^ 23)

/-- FCLASS's mask is the one bit of the class (R280). -/
theorem fpClass_eq_pow (a : Word) : fpClass a.toNat = 2 ^ wordClass a := by
  have hneg : a.toNat.testBit 31 = a.msb := by rw [BitVec.testBit_toNat, BitVec.msb_eq_getLsbD_last]
  unfold fpClass wordClass classNumber
  simp only [hneg, Nat.shiftRight_eq_div_pow, apply_ite (fun n => 2 ^ n)]

/-- What each class says of the sign, the exponent field and the fraction (R280). -/
theorem classNumber_spec {neg : Bool} {e m b : Nat} (he : e < 256) (hb : b = classNumber neg e m) :
    (b = 0 ↔ neg = true ∧ e = 255 ∧ m = 0) ∧ (b = 1 ↔ neg = true ∧ 0 < e ∧ e < 255) ∧ (b = 2 ↔ neg = true ∧ e = 0 ∧ m ≠ 0) ∧
    (b = 3 ↔ neg = true ∧ e = 0 ∧ m = 0) ∧ (b = 4 ↔ neg = false ∧ e = 0 ∧ m = 0) ∧ (b = 5 ↔ neg = false ∧ e = 0 ∧ m ≠ 0) ∧
    (b = 6 ↔ neg = false ∧ 0 < e ∧ e < 255) ∧ (b = 7 ↔ neg = false ∧ e = 255 ∧ m = 0) ∧
    (b = 8 ↔ e = 255 ∧ m.testBit 22 = false ∧ m ≠ 0) ∧ (b = 9 ↔ e = 255 ∧ m.testBit 22 = true) ∧ b < 10 := by
  subst hb
  unfold classNumber
  by_cases hinf : e = 255
  · subst hinf
    by_cases hm : m = 0
    · subst hm
      cases neg <;> simp
    · cases hq : m.testBit 22 <;> simp [hm]
  · by_cases hz : e = 0
    · subst hz
      by_cases hm : m = 0 <;> cases neg <;> simp [hm]
    · have hlt : e < 255 := by omega
      cases neg <;> simp [hinf, hz, hlt, Nat.pos_of_ne_zero hz]

/-- A word is known by its sign, its exponent field and its fraction. -/
theorem word_eq_iff_fields (a c : Word) : a = c ↔ a.msb = c.msb ∧ a.toNat / 2 ^ 23 % 256 = c.toNat / 2 ^ 23 % 256 ∧
    a.toNat % 2 ^ 23 = c.toNat % 2 ^ 23 := by
  rw [BitVec.msb_eq_decide, BitVec.msb_eq_decide, decide_eq_decide, ← BitVec.toNat_inj]
  have ha := a.isLt
  have hc := c.isLt
  constructor <;> omega

/-- What each class says of the word (R280). -/
theorem wordClass_spec (a : Word) {b : Nat} (hb : b = wordClass a) :
    (b = 0 ↔ a = 0xFF800000) ∧
    (b = 1 ↔ a.msb = true ∧ 0 < a.toNat / 2 ^ 23 % 256 ∧ a.toNat / 2 ^ 23 % 256 < 255) ∧
    (b = 2 ↔ a.msb = true ∧ a.toNat / 2 ^ 23 % 256 = 0 ∧ a.toNat % 2 ^ 23 ≠ 0) ∧
    (b = 3 ↔ a = 0x80000000) ∧ (b = 4 ↔ a = 0) ∧
    (b = 5 ↔ a.msb = false ∧ a.toNat / 2 ^ 23 % 256 = 0 ∧ a.toNat % 2 ^ 23 ≠ 0) ∧
    (b = 6 ↔ a.msb = false ∧ 0 < a.toNat / 2 ^ 23 % 256 ∧ a.toNat / 2 ^ 23 % 256 < 255) ∧
    (b = 7 ↔ a = 0x7F800000) ∧
    (b = 8 ↔ a.toNat / 2 ^ 23 % 256 = 255 ∧ a.getLsbD 22 = false ∧ a.toNat % 2 ^ 23 ≠ 0) ∧
    (b = 9 ↔ a.toNat / 2 ^ 23 % 256 = 255 ∧ a.getLsbD 22 = true) ∧ b < 10 := by
  have hquiet : (a.toNat % 2 ^ 23).testBit 22 = a.getLsbD 22 := by
    rw [Nat.testBit_mod_two_pow, BitVec.testBit_toNat]
    rfl
  have hspec := classNumber_spec (Nat.mod_lt _ (by decide)) hb
  rw [hquiet] at hspec
  obtain ⟨h0, h1, h2, h3, h4, h5, h6, h7, h8⟩ := hspec
  exact ⟨h0.trans (word_eq_iff_fields a 0xFF800000).symm, h1, h2, h3.trans (word_eq_iff_fields a 0x80000000).symm,
    h4.trans (word_eq_iff_fields a 0).symm, h5, h6, h7.trans (word_eq_iff_fields a 0x7F800000).symm, h8⟩

/-! ## The instruction -/

section
variable {w : FWord}

theorem fclass_modOf (hm : w.md = 0) : specFclass.mod (modOf specFclass w) = true := by
  show modWithin 0 w.md.toNat = true
  rw [hm]
  rfl

/-- A MOD bit that is set is reserved for FCLASS (R274, R280). -/
theorem fclass_modOf_ne (hm : w.md ≠ 0) : specFclass.mod (modOf specFclass w) = false := by
  have hne : w.md.toNat ≠ 0 := fun h => hm (BitVec.eq_of_toNat_eq h)
  have hand : w.md.toNat &&& 4095 = w.md.toNat := Nat.and_two_pow_sub_one_of_lt_two_pow (n := 12) w.md.isLt
  show (w.md.toNat &&& 4095 == 0) = false
  rw [hand, beq_eq_false_iff_ne]
  exact hne

theorem fclass_fieldsOk (hm : w.md = 0) (hd : fldOk .vec .reg (fldD w) = true) (ha : fldOk .vec .reg (fldA w) = true)
    (hb : fldOk .vec .none (fldB w) = true) : aluFieldsOk .vec specFclass w none = true := by
  unfold aluFieldsOk
  dsimp only
  rw [fclass_modOf hm, show fldOk .vec (specFclass.d (modOf specFclass w)) (fldD w) = true from hd,
    show fldOk .vec (specFclass.a (modOf specFclass w)) (fldA w) = true from ha, show fldOk .vec (bKind specFclass w) (fldB w) = true from hb]
  rfl

/-- A thread of FCLASS writes the bit of its source's class. -/
theorem fclass_lane {age p : Nat} {r : Rank} {v : TCap} (hv : readOpd r p .reg (fldA w) = .ok v) :
    aluLane specFclass w none age r p = .ok (writeOpd r age p .reg (fldD w) (val32 (1#32 <<< wordClass (lo32 v)))) := by
  have hmask : BitVec.ofNat 32 (fpClass (n32 v)) = 1#32 <<< wordClass (lo32 v) := by
    rw [show n32 v = (lo32 v).toNat from rfl, fpClass_eq_pow]
    rw [← BitVec.twoPow_eq]
    exact BitVec.eq_of_toNat_eq ((BitVec.toNat_ofNat _ _).trans (BitVec.toNat_twoPow _ _).symm)
  unfold aluLane
  rw [show readOpd r p (specFclass.a (modOf specFclass w)) (fldA w) = .ok v from hv]
  exact congrArg (fun b => Except.ok (writeOpd r age p .reg (fldD w) (val32 b))) hmask

/-- A pass of FCLASS with a modifier traps at issue (R207, R280). -/
theorem fclass_traps (hm : w.md ≠ 0) (f : Foc) :
    aluVec specFclass w none f = f.trapIssue (f.members w.g.toNat w.gn) .illegalOperand (hiOf (fToWord 0x4B#8 w)) := by
  have hok : aluFieldsOk .vec specFclass w none = false := by
    unfold aluFieldsOk
    dsimp only
    rw [fclass_modOf_ne hm]
    rfl
  unfold aluVec
  dsimp only
  rw [hok, fclass_modOf_ne hm]
  rfl

end

/-- Settles O8: a lane writes the bit of its source's class, a pass is the run of its lanes, and a modifier or the control stream traps. -/
theorem floatClass : Obligations.FloatClass := by
  unfold Obligations.FloatClass
  refine ⟨fun s f w r' hv hm hd ha hb halloc hfull hrun => ?runs, fun w age p r v a hm hb hr ha => ?lane, fun s f w hv hm => ?modifier,
    fun s t w h => ?control⟩
  case runs =>
    obtain ⟨now, rod, hex⟩ := aluInstructionsRun.1 (.fclass w) specFclass w none s f r' rfl hv (fclass_fieldsOk hm hd ha hb) halloc hfull hrun
    exact ⟨now, rod, hex⟩
  case lane =>
    subst ha
    exact ⟨_, fclass_lane hr, wordClass_spec _ rfl⟩
  case modifier => exact traps_at_issue hv (exec_aluOf (i := .fclass w) rfl s) (fclass_traps hm f) rfl rfl (by decide)
  case control => exact (aluInstructionsRun.2 (.fclass w) specFclass w none s t rfl h).2 rfl

end Sys2Proof.Machine
end

section
/-! Rounding (R86 to R88), what several statements use. A finite value is a magnitude and an exponent; a format holds those that are normalised for
it, and rounding finds the exponent, cuts the magnitude there, and adds at most one. -/

namespace Sys2Proof.Machine

/-! ## Magnitudes as numbers -/

/-- The number that a magnitude and an exponent stand for. -/
def scaled (m : Nat) (e : Int) : ℚ := (m : ℚ) * 2 ^ e

theorem scaled_le_scaled_iff (a b : Nat) (g : Int) : scaled a g ≤ scaled b g ↔ a ≤ b := by
  rw [scaled, scaled, mul_le_mul_iff_left₀ (by positivity), Nat.cast_le]

/-- A magnitude shifted left at a lower exponent is the same number. -/
theorem scaled_shift (m : Nat) {e k : Int} (h : e ≤ k) : scaled (m * 2 ^ (k - e).toNat) e = scaled m k := by
  have hpow : (2 : ℚ) ^ (k - e).toNat * 2 ^ e = 2 ^ k := by
    rw [← zpow_natCast, Int.toNat_of_nonneg (by omega), ← zpow_add₀ two_ne_zero, sub_add_cancel]
  rw [scaled, scaled, Nat.cast_mul, Nat.cast_pow, Nat.cast_ofNat, mul_assoc, hpow]

/-- The order of two numbers is that of their magnitudes at the lower exponent. -/
theorem scaled_le_iff (n m : Nat) (k e : Int) :
    n * 2 ^ (k - min k e).toNat ≤ m * 2 ^ (e - min k e).toNat ↔ scaled n k ≤ scaled m e := by
  rw [← scaled_le_scaled_iff _ _ (min k e), scaled_shift n (min_le_left k e), scaled_shift m (min_le_right k e)]

/-! ## The exponent and the cut -/

/-- The exponent at which a magnitude is cut to `p` bits, no lower than `emin`. -/
def cutExp (p : Nat) (emin : Int) (m : Nat) (e : Int) : Int := max (e + ((Nat.log2 m : Int) + 1) - p) emin

/-- What rounding adds to a magnitude cut by `s` bits. -/
def roundInc (rm : Rm) (neg : Bool) (m s : Nat) : Nat :=
  if roundsUp rm neg (m / 2 ^ s % 2 == 1) (decide (m % 2 ^ s ≠ 0)) (compare (2 * (m % 2 ^ s)) (2 ^ s)) then 1 else 0

theorem roundInc_le_one (rm : Rm) (neg : Bool) (m s : Nat) : roundInc rm neg m s ≤ 1 := by
  unfold roundInc
  split <;> omega

/-- A magnitude that loses no bits is not moved. -/
theorem roundInc_exact (rm : Rm) (neg : Bool) {m s : Nat} (h : m % 2 ^ s = 0) : roundInc rm neg m s = 0 := by
  have hlt : compare (2 * (m % 2 ^ s)) (2 ^ s) = .lt := by rw [h, Nat.compare_eq_lt]; positivity
  unfold roundInc
  rw [hlt, h]
  cases rm <;> cases neg <;> rfl

section
variable {p m : Nat} {emin e : Int} (rm : Rm) (neg : Bool)

/-- Above the cut a magnitude is exact; below it is divided, and rounding adds to it. -/
theorem roundTo_eq (hm : m ≠ 0) : roundTo p emin rm neg m e false =
    if cutExp p emin m e ≤ e then (m * 2 ^ (e - cutExp p emin m e).toNat, cutExp p emin m e)
    else (m / 2 ^ (cutExp p emin m e - e).toNat + roundInc rm neg m (cutExp p emin m e - e).toNat, cutExp p emin m e) := by
  have hnone (odd : Bool) : roundsUp rm neg odd false .lt = false := by cases rm <;> cases neg <;> rfl
  unfold roundTo
  dsimp only
  rw [if_neg hm, show max (e + ((Nat.log2 m : Int) + 1) - p) emin = cutExp p emin m e from rfl]
  refine if_congr Iff.rfl ?_ ?_
  · rw [hnone, Nat.shiftLeft_eq]
    rfl
  · unfold roundInc
    simp only [Bool.false_eq_true, and_false, if_false, Bool.false_or, Nat.shiftRight_eq_div_pow]
    split <;> rfl

/-- A magnitude cut to its bits has no more than them, and all of them above the least exponent. -/
theorem cut_bounds (hp : 0 < p) (hm : m ≠ 0) {q : Int} (hq : cutExp p emin m e = q) :
    emin ≤ q ∧ (q ≤ e → m * 2 ^ (e - q).toNat < 2 ^ p ∧ (q = emin ∨ 2 ^ (p - 1) ≤ m * 2 ^ (e - q).toNat)) ∧
      (e < q → m / 2 ^ (q - e).toNat < 2 ^ p ∧ (q = emin ∨ 2 ^ (p - 1) ≤ m / 2 ^ (q - e).toNat)) := by
  have hlow : 2 ^ Nat.log2 m ≤ m := Nat.log2_self_le hm
  have hhigh : m < 2 ^ (Nat.log2 m + 1) := Nat.lt_log2_self
  unfold cutExp at hq
  refine ⟨by omega, fun hle => ⟨?_, ?_⟩, fun hlt => ⟨?_, ?_⟩⟩
  · calc m * 2 ^ (e - q).toNat < 2 ^ (Nat.log2 m + 1) * 2 ^ (e - q).toNat := Nat.mul_lt_mul_of_pos_right hhigh (by positivity)
      _ = 2 ^ (Nat.log2 m + 1 + (e - q).toNat) := (pow_add _ _ _).symm
      _ ≤ 2 ^ p := Nat.pow_le_pow_right two_pos (by omega)
  · refine or_iff_not_imp_left.mpr fun hne => ?_
    calc 2 ^ (p - 1) = 2 ^ (Nat.log2 m + (e - q).toNat) := congrArg _ (by omega)
      _ = 2 ^ Nat.log2 m * 2 ^ (e - q).toNat := pow_add _ _ _
      _ ≤ m * 2 ^ (e - q).toNat := Nat.mul_le_mul_right _ hlow
  · rw [Nat.div_lt_iff_lt_mul (by positivity), ← pow_add]
    exact hhigh.trans_le (Nat.pow_le_pow_right two_pos (by omega))
  · refine or_iff_not_imp_left.mpr fun hne => ?_
    rw [Nat.le_div_iff_mul_le (by positivity), ← pow_add, show p - 1 + (q - e).toNat = Nat.log2 m by omega]
    exact hlow

/-! ## What a rounded value is -/

/-- A magnitude and exponent of a format before overflow: a carry may have made the magnitude the least with one bit more. -/
structure Rounded (p : Nat) (emin : Int) (r : Nat × Int) : Prop where
  low : emin ≤ r.2
  fits : r.1 ≤ 2 ^ p
  full : r.2 = emin ∨ 2 ^ (p - 1) ≤ r.1

theorem roundTo_rounded (hp : 0 < p) (hm : m ≠ 0) : Rounded p emin (roundTo p emin rm neg m e false) := by
  obtain ⟨hlow, hexact, hcut⟩ := cut_bounds hp hm (rfl : cutExp p emin m e = _)
  have hinc := roundInc_le_one rm neg m (cutExp p emin m e - e).toNat
  rw [roundTo_eq rm neg hm]
  split
  · rename_i h
    exact ⟨hlow, (hexact h).1.le, (hexact h).2⟩
  · rename_i h
    obtain ⟨hlt, hfull⟩ := hcut (not_le.mp h)
    exact ⟨hlow, by dsimp only; omega, hfull.imp_right (Nat.le_add_right_of_le ·)⟩

/-- Towards zero a positive number rounds to no more than it. -/
theorem roundTo_le (hm : m ≠ 0) (hrm : rm = .rtz ∨ rm = .rdn) :
    scaled (roundTo p emin rm false m e false).1 (roundTo p emin rm false m e false).2 ≤ scaled m e := by
  rw [roundTo_eq rm false hm]
  split
  · rename_i h
    exact (scaled_shift m h).le
  · rename_i h
    have hinc : roundInc rm false m (cutExp p emin m e - e).toNat = 0 := by obtain rfl | rfl := hrm <;> rfl
    dsimp only
    rw [hinc, Nat.add_zero, ← scaled_shift _ (not_le.mp h).le, scaled_le_scaled_iff]
    exact Nat.div_mul_le_self _ _

/-- Upwards it rounds to no less. -/
theorem le_roundTo (hm : m ≠ 0) : scaled m e ≤ scaled (roundTo p emin .rup false m e false).1 (roundTo p emin .rup false m e false).2 := by
  rw [roundTo_eq .rup false hm]
  split
  · rename_i h
    exact (scaled_shift m h).ge
  · rename_i h
    dsimp only
    generalize hs : (cutExp p emin m e - e).toNat = s
    rw [← scaled_shift _ (not_le.mp h).le, scaled_le_scaled_iff, hs, Nat.add_mul]
    have hdiv := Nat.div_add_mod m (2 ^ s)
    have hmod : m % 2 ^ s ≤ roundInc .rup false m s * 2 ^ s := by
      by_cases h0 : m % 2 ^ s = 0
      · rw [h0]
        exact Nat.zero_le _
      · rw [show roundInc .rup false m s = 1 by simp [roundInc, roundsUp, h0], Nat.one_mul]
        exact (Nat.mod_lt _ (by positivity)).le
    rw [Nat.mul_comm (m / 2 ^ s)]
    omega

end

/-! ## Values that are exact -/

/-- Two magnitudes that are one number. -/
def SameNumber (m : Nat) (e : Int) (n : Nat) (k : Int) : Prop := (k ≤ e ∧ n = m * 2 ^ (e - k).toNat) ∨ (e ≤ k ∧ m = n * 2 ^ (k - e).toNat)

/-- A magnitude and exponent as a format has them. -/
structure Normal (p : Nat) (emin : Int) (n : Nat) (k : Int) : Prop where
  low : emin ≤ k
  fits : n < 2 ^ p
  full : k = emin ∨ 2 ^ (p - 1) ≤ n

theorem log2_mul_two_pow {m : Nat} (hm : m ≠ 0) (s : Nat) : Nat.log2 (m * 2 ^ s) = Nat.log2 m + s := by
  induction s with
  | zero => simp
  | succ s ih => rw [pow_succ', ← mul_assoc, mul_comm m 2, mul_assoc, Nat.log2_two_mul (by positivity), ih, Nat.add_assoc]

theorem SameNumber.eq_zero_iff {m n : Nat} {e k : Int} (h : SameNumber m e n k) : m = 0 ↔ n = 0 := by
  obtain ⟨-, rfl⟩ | ⟨-, rfl⟩ := h <;> simp

/-- The leading bits of one number have one place. -/
theorem SameNumber.log2_add {m n : Nat} {e k : Int} (h : SameNumber m e n k) (hn : n ≠ 0) : (Nat.log2 m : Int) + e = Nat.log2 n + k := by
  have hm : m ≠ 0 := h.eq_zero_iff.not.mpr hn
  obtain ⟨hle, rfl⟩ | ⟨hle, rfl⟩ := h
  · rw [log2_mul_two_pow hm]
    omega
  · rw [log2_mul_two_pow hn]
    omega

/-- A number that the format has rounds to itself in every mode. -/
theorem roundTo_exact {p m n : Nat} {emin e k : Int} (rm : Rm) (neg : Bool) (hn : n ≠ 0) (h : Normal p emin n k)
    (hs : SameNumber m e n k) : roundTo p emin rm neg m e false = (n, k) := by
  have hbits : Nat.log2 n < p := (Nat.log2_lt hn).mpr h.fits
  have hfull := h.full.imp_right (Nat.le_log2 hn).mpr
  have hlow := h.low
  have hm : m ≠ 0 := hs.eq_zero_iff.not.mpr hn
  have hlog := hs.log2_add hn
  have hcut : cutExp p emin m e = k := by
    unfold cutExp
    omega
  rw [roundTo_eq rm neg hm, hcut]
  obtain ⟨hle, rfl⟩ | ⟨hle, rfl⟩ := hs
  · rw [if_pos hle]
  · rcases hle.eq_or_lt with rfl | hlt
    · simp
    · rw [if_neg (not_le.mpr hlt), roundInc_exact rm neg (Nat.mul_mod_left _ _), Nat.mul_div_cancel _ (by positivity), Nat.add_zero]

/-! ## Patterns -/

/-- A format with the exponent and fraction bits that its special patterns need; the four of R86 have them. -/
structure FFmt.Wide (f : FFmt) : Prop where
  exponent : 2 ≤ f.eb
  fraction : 1 ≤ f.fb

theorem wide_of_register {f : FFmt} (h : f = fp16 ∨ f = bf16 ∨ f = fp32 ∨ f = fp64) : f.Wide := by
  obtain rfl | rfl | rfl | rfl := h <;> exact ⟨by decide, by decide⟩

theorem wide_fp32 : fp32.Wide := wide_of_register (.inr (.inr (.inl rfl)))

/-- The sign bit of a pattern. -/
def FFmt.signBit (f : FFmt) (neg : Bool) : Nat := if neg then 2 ^ (f.eb + f.fb) else 0

/-- The pattern of a magnitude as the format has it, without its sign. -/
def FFmt.body (f : FFmt) (n : Nat) (k : Int) : Nat := (k - f.emin).toNat * 2 ^ f.fb + n

/-- A magnitude and exponent that are the format's own, below its infinity. -/
structure FFmt.Holds (f : FFmt) (n : Nat) (k : Int) : Prop where
  normal : Normal (f.fb + 1) f.emin n k
  finite : f.body n k < f.inf

section
variable {f : FFmt}

theorem two_pow_eb_ge (h : f.Wide) : 4 ≤ 2 ^ f.eb := Nat.pow_le_pow_right (n := 2) two_pos h.exponent

theorem inf_lt (f : FFmt) : f.inf < 2 ^ (f.eb + f.fb) := by
  rw [FFmt.inf, pow_add]
  exact Nat.mul_lt_mul_of_pos_right (Nat.sub_lt (by positivity) one_pos) (by positivity)

/-- A pattern below the sign bit is its two fields. -/
theorem fpUnpack_fields (neg : Bool) {b : Nat} (hb : b < 2 ^ (f.eb + f.fb)) : fpUnpack f (f.signBit neg + b) =
    if b / 2 ^ f.fb = 2 ^ f.eb - 1 then (if b % 2 ^ f.fb = 0 then .inf neg else .nan)
    else if b / 2 ^ f.fb = 0 then .fin neg (b % 2 ^ f.fb) f.emin
    else .fin neg (b % 2 ^ f.fb + 2 ^ f.fb) (f.emin + (b / 2 ^ f.fb : Nat) - 1) := by
  have hsign : (f.signBit neg + b).testBit (f.eb + f.fb) = neg := by
    unfold FFmt.signBit
    cases neg with
    | false => simp [Nat.testBit_lt_two_pow hb]
    | true => simp [Nat.testBit_two_pow_add_eq, Nat.testBit_lt_two_pow hb]
  have hexp : (f.signBit neg + b) >>> f.fb % 2 ^ f.eb = b / 2 ^ f.fb := by
    have hlt : b / 2 ^ f.fb < 2 ^ f.eb := Nat.div_lt_of_lt_mul (by rwa [← pow_add, add_comm])
    rw [Nat.shiftRight_eq_div_pow, FFmt.signBit, pow_add]
    split
    · rw [Nat.mul_comm (2 ^ f.eb), Nat.mul_add_div (by positivity), Nat.add_mod_left, Nat.mod_eq_of_lt hlt]
    · rw [Nat.zero_add, Nat.mod_eq_of_lt hlt]
  have hfrac : (f.signBit neg + b) % 2 ^ f.fb = b % 2 ^ f.fb := by
    rw [FFmt.signBit, pow_add]
    split
    · exact Nat.mul_add_mod' _ _ _
    · rw [Nat.zero_add]
  unfold fpUnpack
  rw [hsign, hexp, hfrac]

/-- A pattern is a sign and a number below the sign bit. -/
theorem exists_signBit {v : Nat} (hv : v < 2 ^ (f.eb + f.fb + 1)) : ∃ neg b, b < 2 ^ (f.eb + f.fb) ∧ v = f.signBit neg + b := by
  rw [pow_succ] at hv
  by_cases h : v < 2 ^ (f.eb + f.fb)
  · exact ⟨false, v, h, (Nat.zero_add v).symm⟩
  · exact ⟨true, v - 2 ^ (f.eb + f.fb), by omega, by simp only [FFmt.signBit, if_true]; omega⟩

/-- The pattern of an infinity is read as it. -/
theorem fpUnpack_inf (neg : Bool) : fpUnpack f (f.signBit neg + f.inf) = .inf neg := by
  have hdiv : f.inf / 2 ^ f.fb = 2 ^ f.eb - 1 := Nat.mul_div_cancel _ (by positivity)
  have hmod : f.inf % 2 ^ f.fb = 0 := Nat.mul_mod_left _ _
  rw [fpUnpack_fields neg (inf_lt f), if_pos hdiv, if_pos hmod]

/-- The body of a magnitude, as the two fields: a subnormal has exponent field 0, and the rest leave out their leading bit. -/
theorem body_fields {n : Nat} {k : Int} (h : Normal (f.fb + 1) f.emin n k) :
    (n < 2 ^ f.fb ∧ k = f.emin ∧ f.body n k = n) ∨
      (2 ^ f.fb ≤ n ∧ f.body n k / 2 ^ f.fb = (k - f.emin).toNat + 1 ∧ f.body n k % 2 ^ f.fb = n - 2 ^ f.fb) := by
  have hfits : n < 2 * 2 ^ f.fb := by rw [← pow_succ']; exact h.fits
  by_cases hn : n < 2 ^ f.fb
  · have hk : k = f.emin := h.full.resolve_right (by simpa using hn)
    exact .inl ⟨hn, hk, by rw [FFmt.body, hk, sub_self]; simp⟩
  · obtain ⟨m, rfl⟩ := Nat.exists_eq_add_of_le (not_lt.mp hn)
    have hb : f.body (2 ^ f.fb + m) k = 2 ^ f.fb * ((k - f.emin).toNat + 1) + m := by rw [FFmt.body]; ring
    have hm : m < 2 ^ f.fb := by omega
    refine .inr ⟨not_lt.mp hn, ?_, ?_⟩
    · rw [hb, Nat.mul_add_div (by positivity), Nat.div_eq_of_lt hm, Nat.add_zero]
    · rw [hb, Nat.mul_add_mod, Nat.mod_eq_of_lt hm, Nat.add_sub_cancel_left]

/-- What a format holds is read back. -/
theorem fpUnpack_body (h : f.Wide) (neg : Bool) {n : Nat} {k : Int} (hn : f.Holds n k) :
    fpUnpack f (f.signBit neg + f.body n k) = .fin neg n k := by
  have he := two_pow_eb_ge h
  have hlow := hn.normal.low
  have hne : f.body n k / 2 ^ f.fb ≠ 2 ^ f.eb - 1 := (Nat.div_lt_of_lt_mul (by rw [mul_comm]; exact hn.finite)).ne
  rw [fpUnpack_fields neg (hn.finite.trans (inf_lt f)), if_neg hne]
  obtain ⟨hlt, hk, hb⟩ | ⟨hge, hdiv, hmod⟩ := body_fields hn.normal
  · rw [hb, if_pos (Nat.div_eq_of_lt hlt), Nat.mod_eq_of_lt hlt, hk]
  · rw [hdiv, hmod, if_neg (by omega), Nat.sub_add_cancel hge]
    congr 1
    omega

/-- A pattern is a value that the format holds, an infinity or a NaN. -/
theorem fpUnpack_cases (h : f.Wide) {v : Nat} (hv : v < 2 ^ (f.eb + f.fb + 1)) :
    (∃ neg n k, f.Holds n k ∧ fpUnpack f v = .fin neg n k ∧ v = f.signBit neg + f.body n k) ∨
      (∃ neg, fpUnpack f v = .inf neg ∧ v = f.signBit neg + f.inf) ∨ fpUnpack f v = .nan := by
  have he := two_pow_eb_ge h
  obtain ⟨neg, b, hb, rfl⟩ := exists_signBit hv
  have hdm := Nat.div_add_mod b (2 ^ f.fb)
  have hlt : b / 2 ^ f.fb < 2 ^ f.eb := Nat.div_lt_of_lt_mul (by rwa [← pow_add, add_comm])
  have hm : b % 2 ^ f.fb < 2 ^ f.fb := Nat.mod_lt _ (by positivity)
  have hfin (hne : b / 2 ^ f.fb ≠ 2 ^ f.eb - 1) : b < f.inf := by
    rw [FFmt.inf, ← Nat.div_lt_iff_lt_mul (by positivity)]
    omega
  rw [fpUnpack_fields neg hb]
  by_cases hinf : b / 2 ^ f.fb = 2 ^ f.eb - 1
  · rw [if_pos hinf]
    split
    · rename_i hz
      refine .inr (.inl ⟨neg, rfl, ?_⟩)
      rw [← hdm, hz, hinf, FFmt.inf, mul_comm, Nat.add_zero]
    · exact .inr (.inr rfl)
  · rw [if_neg hinf]
    split
    · rename_i hz
      have hbody : f.body (b % 2 ^ f.fb) f.emin = b := by
        rw [FFmt.body, sub_self, Int.toNat_zero, Nat.zero_mul, Nat.zero_add]
        rwa [hz, Nat.mul_zero, Nat.zero_add] at hdm
      refine .inl ⟨neg, _, _, ⟨⟨le_rfl, ?_, .inl rfl⟩, hbody.symm ▸ hfin hinf⟩, rfl, by rw [hbody]⟩
      rw [pow_succ]
      omega
    · rename_i hz
      obtain ⟨d, hd⟩ := Nat.exists_eq_succ_of_ne_zero hz
      have hexp : f.emin + (b / 2 ^ f.fb : Nat) - 1 = f.emin + (d : Int) := by omega
      have hbody : f.body (b % 2 ^ f.fb + 2 ^ f.fb) (f.emin + (d : Int)) = b := by
        rw [FFmt.body, add_sub_cancel_left, Int.toNat_natCast]
        rw [hd, Nat.mul_succ] at hdm
        linarith
      rw [hexp]
      refine .inl ⟨neg, b % 2 ^ f.fb + 2 ^ f.fb, _, ⟨⟨by omega, ?_, .inr (Nat.le_add_left _ _)⟩, hbody.symm ▸ hfin hinf⟩, rfl,
        congrArg _ hbody.symm⟩
      rw [pow_succ]
      omega

/-! ## The order of patterns -/

/-- A larger body is a larger number. -/
theorem scaled_lt_of_body_lt {n n' : Nat} {k k' : Int} (h : Normal (f.fb + 1) f.emin n k) (h' : Normal (f.fb + 1) f.emin n' k')
    (hb : f.body n k < f.body n' k') : scaled n k < scaled n' k' := by
  have hlow := h.low
  have hlow' := h'.low
  have hfits : n < 2 * 2 ^ f.fb := by rw [← pow_succ']; exact h.fits
  have hfits' : n' < 2 * 2 ^ f.fb := by rw [← pow_succ']; exact h'.fits
  obtain ⟨d, rfl⟩ := Int.le.dest hlow
  obtain ⟨d', rfl⟩ := Int.le.dest hlow'
  simp only [FFmt.body, add_sub_cancel_left, Int.toNat_natCast] at hb
  rcases lt_trichotomy d d' with hd | rfl | hd
  · have hfull : 2 ^ f.fb ≤ n' := h'.full.resolve_left (by omega)
    have hshift : 2 ≤ 2 ^ (d' - d) := (pow_one 2).symm.trans_le (Nat.pow_le_pow_right two_pos (by omega))
    have hmag : n < n' * 2 ^ (d' - d) := by nlinarith
    have hsh := scaled_shift n' (show f.emin + (d : Int) ≤ f.emin + d' by omega)
    rw [show (f.emin + (d' : Int) - (f.emin + d)).toNat = d' - d by omega] at hsh
    rw [← hsh, ← not_le, scaled_le_scaled_iff, not_le]
    exact hmag
  · rw [← not_le, scaled_le_scaled_iff, not_le]
    omega
  · have hfull : 2 ^ f.fb ≤ n := h.full.resolve_left (by omega)
    have hmul : d' * 2 ^ f.fb + 2 ^ f.fb ≤ d * 2 ^ f.fb := by
      rw [← Nat.succ_mul]
      exact Nat.mul_le_mul_right _ hd
    omega

/-- A body is the body of one magnitude only. -/
theorem normal_unique {n n' : Nat} {k k' : Int} (h : Normal (f.fb + 1) f.emin n k) (h' : Normal (f.fb + 1) f.emin n' k')
    (hb : f.body n k = f.body n' k') : n = n' ∧ k = k' := by
  have hlow := h.low
  have hlow' := h'.low
  have hpow : 0 < 2 ^ f.fb := by positivity
  obtain ⟨hn, hk, hbn⟩ | ⟨hn, hdn, hmn⟩ := body_fields h <;> obtain ⟨hn', hk', hbn'⟩ | ⟨hn', hdn', hmn'⟩ := body_fields h'
  · exact ⟨by omega, by omega⟩
  · rw [← hb, hbn, Nat.div_eq_of_lt hn] at hdn'
    omega
  · rw [hb, hbn', Nat.div_eq_of_lt hn'] at hdn
    omega
  · rw [hb] at hdn hmn
    exact ⟨by omega, by omega⟩

theorem scaled_le_iff_body_le {n n' : Nat} {k k' : Int} (h : Normal (f.fb + 1) f.emin n k) (h' : Normal (f.fb + 1) f.emin n' k') :
    scaled n k ≤ scaled n' k' ↔ f.body n k ≤ f.body n' k' := by
  constructor
  · exact fun hs => not_lt.mp fun hb => absurd (scaled_lt_of_body_lt h' h hb) (not_lt.mpr hs)
  · intro hb
    rcases hb.eq_or_lt with he | hlt
    · obtain ⟨rfl, rfl⟩ := normal_unique h h' he
      exact le_rfl
    · exact (scaled_lt_of_body_lt h h' hlt).le

/-- A carry out of the magnitude moves into the exponent field by itself. -/
theorem Rounded.normal {r : Nat × Int} (h : Rounded (f.fb + 1) f.emin r) :
    ∃ n k, Normal (f.fb + 1) f.emin n k ∧ f.body n k = f.body r.1 r.2 ∧ scaled n k = scaled r.1 r.2 := by
  obtain ⟨m, q⟩ := r
  obtain ⟨hlow, hfits, hfull⟩ := h
  dsimp only at hlow hfits hfull ⊢
  rcases hfits.eq_or_lt with rfl | hlt
  · refine ⟨2 ^ f.fb, q + 1, ⟨by omega, Nat.pow_lt_pow_right (by omega) (by omega), .inr le_rfl⟩, ?_, ?_⟩
    · rw [FFmt.body, FFmt.body, show (q + 1 - f.emin).toNat = (q - f.emin).toNat + 1 by omega]
      ring
    · have := scaled_shift (2 ^ f.fb) (show q ≤ q + 1 by omega)
      rw [← this, add_sub_cancel_left, Int.toNat_one, pow_one, pow_succ]
  · exact ⟨m, q, ⟨hlow, hlt, hfull⟩, rfl, rfl⟩

/-! ## Rounding into a format -/

theorem roundTo_zero (p : Nat) (emin : Int) (rm : Rm) (neg : Bool) (e : Int) : (roundTo p emin rm neg 0 e false).1 = 0 := by
  have hup (odd : Bool) : roundsUp rm neg odd false .lt = false := by cases rm <;> cases neg <;> rfl
  have hlt (s : Nat) : compare (2 * (0 % 2 ^ s)) (2 ^ s) = .lt := by
    rw [Nat.zero_mod, Nat.compare_eq_lt]
    positivity
  unfold roundTo
  dsimp only
  rw [if_pos rfl]
  split
  · rw [hup]
    exact Nat.zero_shiftLeft _
  · rw [hlt, Nat.zero_mod, Nat.zero_shiftRight]
    simp [hup]

theorem fpRoundMag_zero (h : f.Wide) (rm : Rm) (neg : Bool) (e : Int) : fpRoundMag f rm neg 0 e false = f.signBit neg := by
  have hinf : ¬ f.inf ≤ 0 := by
    have he := two_pow_eb_ge h
    rw [FFmt.inf, not_le]
    exact Nat.mul_pos (by omega) (by positivity)
  unfold fpRoundMag
  dsimp only
  rw [roundTo_zero, if_pos rfl, if_neg hinf]
  rfl

/-- Rounding of a number that is not zero: its body, unless that reaches the infinity's. -/
theorem fpRoundMag_eq (rm : Rm) (neg : Bool) {m : Nat} {e : Int} (hm : m ≠ 0) {r : Nat × Int}
    (hr : roundTo (f.fb + 1) f.emin rm neg m e false = r) :
    fpRoundMag f rm neg m e false = if f.inf ≤ f.body r.1 r.2 then fpOverflow f rm neg else f.signBit neg + f.body r.1 r.2 := by
  have hround := hr ▸ roundTo_rounded (p := f.fb + 1) rm neg (by omega) hm
  have hbody : (if r.1 = 0 then 0 else (r.2 - f.emin).toNat * 2 ^ f.fb + r.1) = f.body r.1 r.2 := by
    split
    · rename_i hz
      have hpow : 0 < 2 ^ (f.fb + 1 - 1) := by positivity
      have hemin : r.2 = f.emin := hround.full.resolve_right (by omega)
      simp [FFmt.body, hz, hemin]
    · rfl
  unfold fpRoundMag
  rw [hr]
  dsimp only
  rw [hbody]
  rfl

/-- A number that the format holds rounds to its pattern in every mode. -/
theorem fpRoundMag_exact (h : f.Wide) (rm : Rm) (neg : Bool) {m n : Nat} {e k : Int} (hn : f.Holds n k) (hs : SameNumber m e n k) :
    fpRoundMag f rm neg m e false = f.signBit neg + f.body n k := by
  by_cases hz : n = 0
  · have hm : m = 0 := hs.eq_zero_iff.mpr hz
    have hk : k = f.emin := hn.normal.full.resolve_right (by rw [hz]; simp)
    rw [hm, fpRoundMag_zero h, hz, hk]
    simp [FFmt.body]
  · have hm : m ≠ 0 := hs.eq_zero_iff.not.mpr hz
    rw [fpRoundMag_eq rm neg hm (roundTo_exact rm neg hz hn.normal hs), if_neg (not_le.mpr hn.finite)]

/-- A pattern that is no NaN is what its value rounds to (R87, R88). -/
theorem fpRound_fpUnpack (h : f.Wide) (rm : Rm) {v : Nat} (hv : v < 2 ^ (f.eb + f.fb + 1)) (hnan : fpUnpack f v ≠ .nan) :
    fpRound f rm (fpUnpack f v) = v := by
  obtain ⟨neg, n, k, hn, hval, hpat⟩ | ⟨neg, hval, hpat⟩ | hval := fpUnpack_cases h hv
  · rw [hval, hpat]
    exact fpRoundMag_exact h rm neg hn (.inl ⟨le_rfl, by simp⟩)
  · rw [hval, hpat]
    rfl
  · exact absurd hval hnan

theorem inf_pos (h : f.Wide) : 0 < f.inf := Nat.mul_pos (by have := two_pow_eb_ge h; omega) (by positivity)

/-- The pattern before the infinity is the greatest number that the format holds. -/
theorem exists_greatest (h : f.Wide) : ∃ n k, f.Holds n k ∧ f.body n k = f.inf - 1 := by
  obtain ⟨d, hd⟩ := Nat.exists_eq_add_of_le (show 3 ≤ 2 ^ f.eb by have := two_pow_eb_ge h; omega)
  have hpow : 0 < 2 ^ f.fb := by positivity
  have hbody : f.body (2 * 2 ^ f.fb - 1) (f.emin + (d : Int)) = f.inf - 1 := by
    rw [FFmt.body, FFmt.inf, hd, add_sub_cancel_left, Int.toNat_natCast, show 3 + d - 1 = d + 2 by omega, Nat.add_mul]
    omega
  refine ⟨_, _, ⟨⟨by omega, ?_, .inr ?_⟩, ?_⟩, hbody⟩
  · rw [pow_succ]
    omega
  · rw [Nat.add_sub_cancel]
    omega
  · have := inf_pos h
    omega

theorem fpOverflow_towards_zero {rm : Rm} (hrm : rm = .rtz ∨ rm = .rdn) : fpOverflow f rm false = f.inf - 1 := by
  obtain rfl | rfl := hrm <;> simp [fpOverflow]

/-- Towards zero a positive number rounds to a number that does not exceed it (R88). -/
theorem fpRound_le (h : f.Wide) {rm : Rm} (hrm : rm = .rtz ∨ rm = .rdn) {m : Nat} (e : Int) (hm : m ≠ 0) :
    ∃ n k, fpUnpack f (fpRound f rm (.fin false m e)) = .fin false n k ∧ scaled n k ≤ scaled m e := by
  have hle := roundTo_le (p := f.fb + 1) (emin := f.emin) (e := e) rm hm hrm
  obtain ⟨n, k, hnormal, hbody, hnum⟩ := (roundTo_rounded (p := f.fb + 1) (emin := f.emin) (e := e) rm false (by omega) hm).normal
  have hval : fpRound f rm (.fin false m e) = if f.inf ≤ f.body n k then f.inf - 1 else f.body n k := by
    rw [fpRound, fpRoundMag_eq rm false hm rfl, ← hbody, fpOverflow_towards_zero hrm]
    simp [FFmt.signBit]
  have hread {n k} (hn : f.Holds n k) : fpUnpack f (f.body n k) = .fin false n k := by
    simpa [FFmt.signBit] using fpUnpack_body h false hn
  rw [hval]
  split
  · rename_i hover
    obtain ⟨g, j, hg, hgreat⟩ := exists_greatest h
    refine ⟨g, j, by rw [← hgreat, hread hg], ((scaled_le_iff_body_le hg.normal hnormal).mpr ?_).trans (hnum.trans_le hle)⟩
    omega
  · rename_i hfin
    exact ⟨n, k, hread ⟨hnormal, not_le.mp hfin⟩, hnum.trans_le hle⟩

/-- Upwards it rounds to an infinity or to a number that it does not exceed (R88). -/
theorem le_fpRound (h : f.Wide) {m : Nat} (e : Int) (hm : m ≠ 0) : fpUnpack f (fpRound f .rup (.fin false m e)) = .inf false ∨
    ∃ n k, fpUnpack f (fpRound f .rup (.fin false m e)) = .fin false n k ∧ scaled m e ≤ scaled n k := by
  have hle := le_roundTo (p := f.fb + 1) (emin := f.emin) (e := e) hm
  obtain ⟨n, k, hnormal, hbody, hnum⟩ := (roundTo_rounded (p := f.fb + 1) (emin := f.emin) (e := e) .rup false (by omega) hm).normal
  rw [fpRound, fpRoundMag_eq .rup false hm rfl, ← hbody]
  split
  · left
    simpa [FFmt.signBit, fpOverflow] using fpUnpack_inf (f := f) false
  · rename_i hfin
    exact .inr ⟨n, k, fpUnpack_body h false ⟨hnormal, not_le.mp hfin⟩, hle.trans_eq hnum.symm⟩

/-- A rounded value is a pattern of the format. -/
theorem fpRound_lt (h : f.Wide) (rm : Rm) (x : Fv) : fpRound f rm x < 2 ^ (f.eb + f.fb + 1) := by
  have hinf := inf_lt f
  have hsign (neg : Bool) : f.signBit neg ≤ 2 ^ (f.eb + f.fb) := by cases neg <;> simp [FFmt.signBit]
  rw [pow_succ]
  cases x with
  | nan =>
    have hquiet : 2 ^ (f.fb - 1) < 2 ^ f.fb := Nat.pow_lt_pow_right (by omega) (by have := h.fraction; omega)
    have hfields : (2 ^ f.eb - 1) * 2 ^ f.fb + 2 ^ f.fb ≤ 2 ^ (f.eb + f.fb) := by
      rw [← Nat.succ_mul, pow_add, Nat.succ_eq_add_one, Nat.sub_add_cancel Nat.one_le_two_pow]
    show (2 ^ f.eb - 1) * 2 ^ f.fb + 2 ^ (f.fb - 1) < _
    omega
  | inf neg =>
    have := hsign neg
    show f.signBit neg + f.inf < _
    omega
  | fin neg m e =>
    have := hsign neg
    by_cases hm : m = 0
    · rw [fpRound, hm, fpRoundMag_zero h]
      omega
    · have hover : fpOverflow f rm neg ≤ f.signBit neg + f.inf := by
        cases rm <;> cases neg <;> simp [fpOverflow, FFmt.signBit]
      rw [fpRound, fpRoundMag_eq rm neg hm rfl]
      split <;> omega

end

/-! ## Exact values in order -/

/-- The number that a finite value is. -/
def Fv.num : Fv → ℚ
  | .fin neg m e => if neg then -scaled m e else scaled m e
  | _ => 0

theorem units_fin (neg : Bool) (m : Nat) (e g : Int) :
    (Fv.fin neg m e).units g = if neg then -((m * 2 ^ (e - g).toNat : Nat) : Int) else ((m * 2 ^ (e - g).toNat : Nat) : Int) := by
  rw [← Nat.shiftLeft_eq]
  rfl

/-- A finite value in units of a power of two at or below its exponent; zero is zero in any. -/
theorem units_num (neg : Bool) {m : Nat} {e g : Int} (h : m = 0 ∨ g ≤ e) :
    (((Fv.fin neg m e).units g : Int) : ℚ) * 2 ^ g = (Fv.fin neg m e).num := by
  have hmag : ((m * 2 ^ (e - g).toNat : Nat) : ℚ) * 2 ^ g = scaled m e := by
    obtain rfl | hle := h
    · simp [scaled]
    · exact scaled_shift m hle
  rw [units_fin]
  cases neg with
  | false => exact hmag
  | true => rw [if_pos rfl, Int.cast_neg, neg_mul, Int.cast_natCast, hmag]; rfl

/-- Two finite values compare as two integers in one unit. -/
theorem fvCompare_fin (a b : Bool) (m n : Nat) (e k : Int) : ∃ (y z : Int) (g : Int), fvCompare (.fin a m e) (.fin b n k) = some (compare y z) ∧
    (Fv.fin a m e).num = y * 2 ^ g ∧ (Fv.fin b n k).num = z * 2 ^ g := by
  refine ⟨_, _, minExp [.fin a m e, .fin b n k] 0, rfl, (units_num a ?_).symm, (units_num b ?_).symm⟩ <;>
  · simp only [minExp]
    split <;> split <;> omega

theorem fvCompare_fin_gt {a b : Bool} {m n : Nat} {e k : Int} :
    fvCompare (.fin a m e) (.fin b n k) = some .gt ↔ (Fv.fin b n k).num < (Fv.fin a m e).num := by
  obtain ⟨y, z, g, hc, hy, hz⟩ := fvCompare_fin a b m n e k
  rw [hc, hy, hz, mul_lt_mul_iff_left₀ (by positivity), Int.cast_lt, Option.some_inj, compare_gt_iff_gt]

theorem fvCompare_fin_eq {a b : Bool} {m n : Nat} {e k : Int} :
    fvCompare (.fin a m e) (.fin b n k) = some .eq ↔ (Fv.fin a m e).num = (Fv.fin b n k).num := by
  obtain ⟨y, z, g, hc, hy, hz⟩ := fvCompare_fin a b m n e k
  rw [hc, hy, hz, mul_left_inj' (by positivity), Int.cast_inj, Option.some_inj, compare_eq_iff_eq]

end Sys2Proof.Machine
end

section
/-! O6: the arithmetic of R276. An instruction rounds a sum of exact terms once, so the special results are those of the sum; a modifier that flips a
sign flips a term; S01 and the packed forms keep what they give within their patterns. -/

namespace Sys2Proof.Machine

/-! ## Sums of terms -/

theorem fvSum_nan (rm : Rm) {ts : List Fv} (h : Fv.nan ∈ ts) : fvSum rm ts = .nan := if_pos (List.any_eq_true.mpr ⟨_, h, rfl⟩)

theorem fvSum_inf_opposite (rm : Rm) (n : Bool) : fvSum rm [.inf n, .inf !n] = .nan := by cases n <;> rfl
theorem fvSum_inf_same (rm : Rm) (n : Bool) : fvSum rm [.inf n, .inf n] = .inf n := by cases n <;> rfl

/-- Finite terms that cancel sum to a zero that RDN makes negative, unless both are zeros of one sign (R276). -/
theorem fvSum_zero (rm : Rm) {a b : Bool} {m n : Nat} {e k : Int} {g : Int} (hg : minExp [.fin a m e, .fin b n k] 0 = g)
    (hz : (Fv.fin a m e).units g + (Fv.fin b n k).units g = 0) (h : m = 0 → a = !b) :
    fvSum rm [.fin a m e, .fin b n k] = .fin (decide (rm = .rdn)) 0 0 := by
  have hsum : ([.fin a m e, .fin b n k] : List Fv).foldl (fun (z : Int) t => z + t.units (minExp [.fin a m e, .fin b n k] 0)) 0 = 0 := by
    rw [hg]
    simpa using hz
  unfold fvSum
  dsimp only
  rw [hsum]
  by_cases hm : m = 0
  · rw [hm, h hm]
    cases b <;> simp [Fv.isNan, Fv.sign]
  · simp [Fv.isNan, hm]

/-- A number and its negation cancel. -/
theorem fvSum_cancel (rm : Rm) (n : Bool) (m : Nat) (e : Int) : fvSum rm [.fin n m e, .fin (!n) m e] = .fin (decide (rm = .rdn)) 0 0 := by
  refine fvSum_zero rm rfl ?_ (fun _ => (Bool.not_not n).symm)
  rw [units_fin, units_fin]
  cases n <;> simp

/-! ## Rounded sums -/

section
variable {m : Nat} {ts : List Fv}

theorem roundSum_plain (f : FFmt) (h : bitAt m 6 = false) : roundSum f m ts = fpRound f (rmOf m) (fvSum (rmOf m) ts) := by
  unfold roundSum clampS01
  rw [h]
  rfl

/-- A pattern that S01 leaves is at most that of 1.0 (R274). -/
theorem fpClamp01_le {f : FFmt} (h : f.Wide) {v : Nat} (hv : v < 2 ^ (f.eb + f.fb + 1)) : fpClamp01 f v ≤ f.bias * 2 ^ f.fb := by
  have hbias : 1 ≤ f.bias := Nat.le_sub_of_add_le (Nat.pow_le_pow_right (n := 2) two_pos (show 1 ≤ f.eb - 1 by have := h.exponent; omega))
  have hone : f.body (2 ^ f.fb) (-f.fb) = f.bias * 2 ^ f.fb := by
    obtain ⟨d, hd⟩ := Nat.exists_eq_add_of_le hbias
    rw [FFmt.body, FFmt.emin, hd, show (-(f.fb : Int) - (1 - ((1 + d : Nat) : Int) - f.fb)).toNat = d by omega]
    ring
  have hnormal : Normal (f.fb + 1) f.emin (2 ^ f.fb) (-f.fb) :=
    ⟨by rw [FFmt.emin]; omega, Nat.pow_lt_pow_right (by omega) (by omega), .inr le_rfl⟩
  have hnum : scaled (2 ^ f.fb) (-f.fb) = 1 := by simp [scaled]
  unfold fpClamp01
  obtain ⟨neg, n, k, hn, hval, hpat⟩ | ⟨neg, hval, hpat⟩ | hval := fpUnpack_cases h hv
  · rw [hval]
    dsimp only
    split
    · exact Nat.zero_le _
    · rename_i hz
      obtain ⟨hpos, -⟩ : neg = false ∧ n ≠ 0 := by simpa using hz
      split
      · exact le_rfl
      · rename_i hgt
        rw [fvCompare_fin_gt, not_lt] at hgt
        subst hpos
        have hle : scaled n k ≤ scaled (2 ^ f.fb) (-f.fb) := by rw [hnum]; simpa [Fv.num, scaled] using hgt
        rw [hpat, ← hone]
        simpa [FFmt.signBit] using (scaled_le_iff_body_le hn.normal hnormal).mp hle
  · rw [hval]
    dsimp only
    split
    · exact Nat.zero_le _
    · exact le_rfl
  · rw [hval]
    exact Nat.zero_le _

theorem bias_lt (f : FFmt) : f.bias * 2 ^ f.fb < 2 ^ (f.eb + f.fb) := by
  have hbias : f.bias < 2 ^ f.eb :=
    (Nat.sub_lt (by positivity) one_pos).trans_le (Nat.pow_le_pow_right two_pos (Nat.sub_le _ _))
  rw [pow_add]
  exact Nat.mul_lt_mul_of_pos_right hbias (by positivity)

theorem roundSum_lt {f : FFmt} (h : f.Wide) (m : Nat) (ts : List Fv) : roundSum f m ts < 2 ^ (f.eb + f.fb + 1) := by
  have hround : fpSum f (rmOf m) ts < 2 ^ (f.eb + f.fb + 1) := fpRound_lt h _ _
  have hbias := bias_lt f
  unfold roundSum clampS01
  split
  · have := fpClamp01_le h hround
    rw [pow_succ] at hround ⊢
    omega
  · exact hround

theorem roundSum_clamped {f : FFmt} (h : f.Wide) (h6 : bitAt m 6 = true) : roundSum f m ts ≤ f.bias * 2 ^ f.fb := by
  unfold roundSum clampS01
  rw [if_pos h6]
  exact fpClamp01_le h (fpRound_lt h _ _)

end

section
variable {i : Instr} {x : Src} {m : Nat} {ts : List Fv} (h : resultOf i x = some (val32 (BitVec.ofNat 32 (roundSum fp32 m ts))))
include h

/-- An instruction whose sum is a NaN gives the canonical one (R87). -/
theorem gives_nan (h6 : bitAt m 6 = false) (hs : fvSum (rmOf m) ts = .nan) : Gives i x (fun v => v = 0x7FC00000) :=
  ⟨_, h, by rw [roundSum_plain fp32 h6, hs]; rfl⟩

/-- Under S01 an instruction gives a pattern from +0 to 1.0 (R274). -/
theorem gives_clamped (h6 : bitAt m 6 = true) : Gives i x (fun v => v.toNat ≤ 0x3F800000) := by
  have hle : roundSum fp32 m ts ≤ 0x3F800000 := roundSum_clamped wide_fp32 h6
  exact ⟨_, h, (BitVec.toNat_ofNat _ _).trans_le ((Nat.mod_le _ _).trans hle)⟩

end

/-! ## Signs that modifiers flip -/

theorem fpUnpack_flip {f : FFmt} (neg : Bool) {b : Nat} (hb : b < 2 ^ (f.eb + f.fb)) :
    fpUnpack f (f.signBit (!neg) + b) = (fpUnpack f (f.signBit neg + b)).neg := by
  rw [fpUnpack_fields _ hb, fpUnpack_fields _ hb]
  repeat' split
  all_goals rfl

/-- A source after its modifiers is a pattern whose sign NA or NB inverts (R274). -/
theorem exists_srcMod (f : FFmt) (absv : Bool) (v : Nat) :
    ∃ s b, b < 2 ^ (f.eb + f.fb) ∧ ∀ neg, srcMod f absv neg v = f.signBit (s ^^ neg) + b := by
  have hlt : (if absv then v % (2 * 2 ^ (f.eb + f.fb)) % 2 ^ (f.eb + f.fb) else v % (2 * 2 ^ (f.eb + f.fb))) < 2 ^ (f.eb + f.fb + 1) := by
    have hmod : v % (2 * 2 ^ (f.eb + f.fb)) < 2 * 2 ^ (f.eb + f.fb) := Nat.mod_lt _ (by positivity)
    rw [pow_succ']
    split
    · exact (Nat.mod_le _ _).trans_lt hmod
    · exact hmod
  obtain ⟨s, b, hb, hv⟩ := exists_signBit hlt
  refine ⟨s, b, hb, fun neg => ?_⟩
  unfold srcMod
  dsimp only
  rw [hv]
  cases neg <;> cases s <;> simp [FFmt.signBit, hb, add_comm]

/-- Inverting a source's sign inverts its value (R274). -/
theorem fpUnpack_srcMod_not (f : FFmt) (absv neg : Bool) (v : Nat) :
    fpUnpack f (srcMod f absv (!neg) v) = (fpUnpack f (srcMod f absv neg v)).neg := by
  obtain ⟨s, b, hb, hsrc⟩ := exists_srcMod f absv v
  rw [hsrc, hsrc, Bool.xor_not]
  exact fpUnpack_flip _ hb

theorem neg_mul_left : ∀ a b : Fv, a.neg.mul b = (a.mul b).neg
  | .nan, _ => rfl
  | .inf _, .nan => rfl
  | .fin _ _ _, .nan => rfl
  | .inf a, .inf b => congrArg Fv.inf (Bool.not_bne a b)
  | .inf a, .fin b m e => by
    simp only [Fv.neg, Fv.mul, Bool.not_bne]
    split <;> rfl
  | .fin a m e, .inf b => by
    simp only [Fv.neg, Fv.mul, Bool.not_bne]
    split <;> rfl
  | .fin a m e, .fin b n g => congrArg (fun s => Fv.fin s (m * n) (e + g)) (Bool.not_bne a b)

/-- RM is what it was where only bits above it are inverted (R88). -/
theorem rmOf_xor (m : Nat) {c : Nat} (hc : c % 4 = 0) : rmOf (m ^^^ c) = rmOf m := by
  have hmod : (m ^^^ c) % 4 = m % 4 := by
    rw [show (4 : Nat) = 2 ^ 2 from rfl, Nat.xor_mod_two_pow, show c % 2 ^ 2 = 0 from hc, Nat.xor_zero]
  unfold rmOf
  rw [hmod]

theorem bitAt_xor_ne (m : Nat) {i j : Nat} (h : i ≠ j) : bitAt (m ^^^ 2 ^ j) i = bitAt m i := by
  simp [bitAt, Nat.testBit_xor, h.symm]

theorem bitAt_xor_self (m j : Nat) : bitAt (m ^^^ 2 ^ j) j = !bitAt m j := by simp [bitAt, Nat.testBit_xor]

/-- FSUB is FADD with NB inverted (R276). -/
theorem subBits_eq_addBits (f : FFmt) (m a b : Nat) : subBits f m a b = addBits f (m ^^^ 2 ^ 3) a b := by
  unfold subBits addBits roundSum clampS01 modA modB
  rw [bitAt_xor_self, bitAt_xor_ne m (i := 2) (by decide), bitAt_xor_ne m (i := 4) (by decide), bitAt_xor_ne m (i := 5) (by decide),
    bitAt_xor_ne m (i := 6) (by decide), fpUnpack_srcMod_not, rmOf_xor m (by decide)]

/-- FNMA is FFMA with NA inverted (R276). -/
theorem fnmaBits_eq_fmaBits (f : FFmt) (m a b d : Nat) : fnmaBits f m a b d = fmaBits f (m ^^^ 2 ^ 2) a b d := by
  unfold fnmaBits fmaBits prodBits roundSum clampS01 modA modB
  rw [bitAt_xor_self, bitAt_xor_ne m (i := 3) (by decide), bitAt_xor_ne m (i := 4) (by decide), bitAt_xor_ne m (i := 5) (by decide),
    bitAt_xor_ne m (i := 6) (by decide), fpUnpack_srcMod_not, neg_mul_left, rmOf_xor m (by decide)]

theorem rmOf_eq_rdn {m : Nat} : rmOf m = .rdn ↔ m % 4 = 2 := by
  unfold rmOf
  repeat' split
  all_goals simp; omega

/-! ## Packed elements -/

theorem halfFmt_wide (m : Nat) : (halfFmt m).Wide ∧ (halfFmt m).eb + (halfFmt m).fb + 1 = 16 := by
  unfold halfFmt
  split <;> exact ⟨⟨by decide, by decide⟩, rfl⟩

theorem halfSum_lt (m : Nat) (ts : List Fv) : roundSum (halfFmt m) m ts < 2 ^ 16 := by
  obtain ⟨hw, hbits⟩ := halfFmt_wide m
  rw [← hbits]
  exact roundSum_lt hw m ts

/-- An element of a packed result depends on the elements of its number alone (R89, R276). -/
theorem packed_element {op : Nat → Nat → Nat → Nat} (hop : ∀ a b d, op a b d < 2 ^ 16) (a b d : Word) {i : Nat} (hi : i < 2) :
    (packed op a b d).toNat / 2 ^ (16 * i) % 2 ^ 16 =
      op (a.toNat / 2 ^ (16 * i) % 2 ^ 16) (b.toNat / 2 ^ (16 * i) % 2 ^ 16) (d.toNat / 2 ^ (16 * i) % 2 ^ 16) := by
  have hlow := hop (a.toNat / 2 ^ 0 % 2 ^ 16) (b.toNat / 2 ^ 0 % 2 ^ 16) (d.toNat / 2 ^ 0 % 2 ^ 16)
  have hhigh := hop (a.toNat / 2 ^ 16 % 2 ^ 16) (b.toNat / 2 ^ 16 % 2 ^ 16) (d.toNat / 2 ^ 16 % 2 ^ 16)
  simp only [packed, bitsAt, Nat.shiftRight_eq_div_pow, BitVec.toNat_ofNat]
  obtain rfl | rfl : i = 0 ∨ i = 1 := by omega
  · rw [Nat.mul_zero]
    omega
  · rw [Nat.mul_one]
    omega

/-! ## The obligation -/

section
variable {w : FWord} {x : Src} {a b d : Fv} (ha : a = fpUnpack fp32 (modA fp32 w.md.toNat (n32 x.a)))
  (hb : b = fpUnpack fp32 (modB fp32 w.md.toNat (n32 x.b))) (hd : d = fpUnpack fp32 (n32 x.d))
include ha hb

theorem fadd_result : resultOf (.fadd w) x = some (val32 (BitVec.ofNat 32 (roundSum fp32 w.md.toNat [a, b]))) := by subst ha hb; rfl
theorem fsub_result : resultOf (.fsub w) x = some (val32 (BitVec.ofNat 32 (roundSum fp32 w.md.toNat [a, b.neg]))) := by subst ha hb; rfl
theorem fmul_result : resultOf (.fmul w) x = some (val32 (BitVec.ofNat 32 (roundSum fp32 w.md.toNat [a.mul b]))) := by subst ha hb; rfl

include hd

theorem ffma_result : resultOf (.ffma w) x = some (val32 (BitVec.ofNat 32 (roundSum fp32 w.md.toNat [a.mul b, d]))) := by subst ha hb hd; rfl
theorem ffms_result : resultOf (.ffms w) x = some (val32 (BitVec.ofNat 32 (roundSum fp32 w.md.toNat [a.mul b, d.neg]))) := by subst ha hb hd; rfl
theorem fnma_result : resultOf (.fnma w) x = some (val32 (BitVec.ofNat 32 (roundSum fp32 w.md.toNat [(a.mul b).neg, d]))) := by subst ha hb hd; rfl

end

theorem mul_nan_of {a b : Fv} (h : a = .nan ∨ b = .nan) : a.mul b = .nan := by
  obtain rfl | rfl := h
  · rfl
  · cases a <;> rfl

/-- Settles O6: each instruction rounds one sum, and what a format holds, or rounds to, lies where its mode puts it. -/
theorem floatArithmeticAndRounding : Obligations.FloatArithmeticAndRounding := by
  unfold Obligations.FloatArithmeticAndRounding
  refine ⟨fun w x a b d ha hb hd => ⟨fun h6 => ⟨fun h => ?nan, fun n hna hnb => ?opposite, fun n hna hnb => ?same, fun n k e hna hnb => ?zeroInf,
    fun n k m e hna hnb hnd => ?fused, fun n m e hna hnb => ?cancel⟩, fun h6 => ?clamp, ?fsub, ?fnma, fun y h7 => ?ffma4, ?hadd2, ?hfma2⟩,
    fun f hf => ?rounding⟩
  case nan =>
    have hmul := mul_nan_of h
    refine ⟨gives_nan (fadd_result ha hb) h6 (fvSum_nan _ ?_), gives_nan (fsub_result ha hb) h6 (fvSum_nan _ ?_),
      gives_nan (fmul_result ha hb) h6 (fvSum_nan _ ?_), gives_nan (ffma_result ha hb hd) h6 (fvSum_nan _ ?_),
      gives_nan (ffms_result ha hb hd) h6 (fvSum_nan _ ?_), gives_nan (fnma_result ha hb hd) h6 (fvSum_nan _ ?_)⟩
    · obtain rfl | rfl := h <;> simp
    · obtain rfl | rfl := h <;> simp [Fv.neg]
    · simp [hmul]
    · simp [hmul]
    · simp [hmul]
    · simp [hmul, Fv.neg]
  case opposite => exact gives_nan (fadd_result ha hb) h6 (by rw [hna, hnb, fvSum_inf_opposite])
  case same =>
    refine ⟨gives_nan (fsub_result ha hb) h6 (by rw [hna, hnb]; exact fvSum_inf_opposite _ n), ⟨_, fadd_result ha hb, ?_⟩⟩
    rw [roundSum_plain fp32 h6, hna, hnb, fvSum_inf_same]
    cases n <;> rfl
  case zeroInf =>
    have hmul : a.mul b = .nan := by rw [hna, hnb]; rfl
    exact ⟨gives_nan (fmul_result ha hb) h6 (fvSum_nan _ (by simp [hmul])), gives_nan (ffma_result ha hb hd) h6 (fvSum_nan _ (by simp [hmul]))⟩
  case fused =>
    have hmul : a.mul b = .inf (n != k) := by rw [hna, hnb]; rfl
    exact gives_nan (ffma_result ha hb hd) h6 (by rw [hmul, hnd]; cases n <;> cases k <;> rfl)
  case cancel =>
    refine ⟨_, fadd_result ha hb, ?_⟩
    have hrdn : decide (rmOf w.md.toNat = .rdn) = decide (w.md.toNat % 4 = 2) := decide_eq_decide.mpr rmOf_eq_rdn
    rw [roundSum_plain fp32 h6, hna, hnb, fvSum_cancel, fpRound, fpRoundMag_zero wide_fp32, hrdn]
    by_cases hm : w.md.toNat % 4 = 2 <;> simp [hm, FFmt.signBit, fp32]
  case clamp =>
    exact ⟨gives_clamped (fadd_result ha hb) h6, gives_clamped (fmul_result ha hb) h6, gives_clamped (ffma_result ha hb hd) h6⟩
  case fsub =>
    have hmd : w.md.toNat ^^^ 2 ^ 3 = (w.md ^^^ 8).toNat := (BitVec.toNat_xor w.md 8).symm
    have hsum := subBits_eq_addBits fp32 w.md.toNat (n32 x.a) (n32 x.b)
    rw [hmd] at hsum
    exact congrArg (fun n => some (val32 (BitVec.ofNat 32 n))) hsum
  case fnma =>
    have hmd : w.md.toNat ^^^ 2 ^ 2 = (w.md ^^^ 4).toNat := (BitVec.toNat_xor w.md 4).symm
    have hsum := fnmaBits_eq_fmaBits fp32 w.md.toNat (n32 x.a) (n32 x.b) (n32 x.d)
    rw [hmd] at hsum
    exact congrArg (fun n => some (val32 (BitVec.ofNat 32 n))) hsum
  case ffma4 =>
    have hc : srcMod fp32 false (bitAt w.md.toNat 7) (n32 x.c) = n32 x.c := by
      rw [show bitAt w.md.toNat 7 = false from h7]
      exact Nat.mod_eq_of_lt (lo32 x.c).isLt
    exact congrArg (fun n => some (val32 (BitVec.ofNat 32 (fmaBits fp32 w.md.toNat (n32 x.a) (n32 x.b) n)))) hc
  case hadd2 => exact ⟨_, rfl, fun i hi => packed_element (fun _ _ _ => halfSum_lt _ _) _ _ _ hi⟩
  case hfma2 => exact ⟨_, rfl, fun i hi => packed_element (fun _ _ _ => halfSum_lt _ _) _ _ _ hi⟩
  case rounding =>
    have hw := wide_of_register hf
    refine ⟨fun rm v hv hnan => fpRound_fpUnpack hw rm hv hnan, fun m e hm => ⟨fun rm hrm => ?_, ?_⟩⟩
    · obtain ⟨n, k, hval, hle⟩ := fpRound_le hw hrm e hm.ne'
      exact ⟨n, k, hval, (scaled_le_iff _ _ _ _).mpr hle⟩
    · refine (le_fpRound hw e hm.ne').imp_right fun ⟨n, k, hval, hle⟩ => ⟨n, k, hval, ?_⟩
      rw [min_comm]
      exact (scaled_le_iff _ _ _ _).mpr hle

end Sys2Proof.Machine
end

section
/-! O7: the order of R278 and R279, and the special results of R281 and R282. Values that compare as equal and have one sign are one pattern; a special
source is a case of each function's definition; an integral source rounds to itself. -/

namespace Sys2Proof.Machine

/-! ## Patterns in order -/

section
variable {f : FFmt}

theorem signBit_add_lt (s : Bool) {b : Nat} (hb : b < 2 ^ (f.eb + f.fb)) : f.signBit s + b < 2 ^ (f.eb + f.fb + 1) := by
  rw [pow_succ]
  cases s <;> simp only [FFmt.signBit, Bool.false_eq_true, if_true, if_false] <;> omega

theorem srcMod_lt (f : FFmt) (absv neg : Bool) (v : Nat) : srcMod f absv neg v < 2 ^ (f.eb + f.fb + 1) := by
  obtain ⟨s, b, hb, hsrc⟩ := exists_srcMod f absv v
  rw [hsrc]
  exact signBit_add_lt _ hb

/-- A pattern that is no NaN has its value's sign. -/
theorem exists_sign (h : f.Wide) {v : Nat} (hv : v < 2 ^ (f.eb + f.fb + 1)) (hnan : fpUnpack f v ≠ .nan) :
    ∃ b, b < 2 ^ (f.eb + f.fb) ∧ v = f.signBit (fpUnpack f v).sign + b := by
  obtain ⟨neg, n, k, hn, hval, hpat⟩ | ⟨neg, hval, hpat⟩ | hval := fpUnpack_cases h hv
  · exact ⟨_, hn.finite.trans (inf_lt f), by rw [hval]; exact hpat⟩
  · exact ⟨_, inf_lt f, by rw [hval]; exact hpat⟩
  · exact absurd hval hnan

theorem fvCompare_nan_right (x : Fv) : fvCompare x .nan = none := by cases x <;> rfl

/-- What has an order is no NaN. -/
theorem not_nan_of_fvCompare {x y : Fv} {o : Ordering} (h : fvCompare x y = some o) : x ≠ .nan ∧ y ≠ .nan := by
  refine ⟨?_, ?_⟩ <;> rintro rfl
  · cases h
  · rw [fvCompare_nan_right] at h
    cases h

theorem num_inj {neg : Bool} {m n : Nat} {e k : Int} (h : (Fv.fin neg m e).num = (Fv.fin neg n k).num) : scaled m e = scaled n k := by
  cases neg
  · exact h
  · exact neg_inj.mp h

/-- Patterns of equal values and one sign are the same. -/
theorem eq_of_fvCompare_eq (h : f.Wide) {a b : Nat} (ha : a < 2 ^ (f.eb + f.fb + 1)) (hb : b < 2 ^ (f.eb + f.fb + 1))
    (heq : fvCompare (fpUnpack f a) (fpUnpack f b) = some .eq) (hsign : (fpUnpack f a).sign = (fpUnpack f b).sign) : a = b := by
  obtain ⟨hna, hnb⟩ := not_nan_of_fvCompare heq
  obtain ⟨s, n, k, hn, hva, hpa⟩ | ⟨s, hva, hpa⟩ | hva := fpUnpack_cases h ha
  · obtain ⟨t, m, j, hm, hvb, hpb⟩ | ⟨t, hvb, hpb⟩ | hvb := fpUnpack_cases h hb
    · rw [hva, hvb] at heq hsign
      obtain rfl : s = t := hsign
      have hnum := num_inj (fvCompare_fin_eq.mp heq)
      have hbody := le_antisymm ((scaled_le_iff_body_le hn.normal hm.normal).mp hnum.le) ((scaled_le_iff_body_le hm.normal hn.normal).mp hnum.ge)
      rw [hpa, hpb, hbody]
    · rw [hva, hvb] at heq
      cases t <;> cases heq
    · exact absurd hvb hnb
  · obtain ⟨t, m, j, hm, hvb, hpb⟩ | ⟨t, hvb, hpb⟩ | hvb := fpUnpack_cases h hb
    · rw [hva, hvb] at heq
      cases s <;> cases heq
    · rw [hva, hvb] at hsign
      obtain rfl : s = t := hsign
      rw [hpa, hpb]
    · exact absurd hvb hnb
  · exact absurd hva hna

/-! ## Minimum, maximum and conditions -/

variable {a b : Nat} (isMax np : Bool)

theorem fpMinMax_nan_both (ha : fpUnpack f a = .nan) (hb : fpUnpack f b = .nan) : fpMinMax f isMax np a b = f.nan := by
  unfold fpMinMax
  rw [ha, hb]
  rfl

theorem isNan_eq_false {x : Fv} (h : x ≠ .nan) : x.isNan = false := by
  cases x with
  | nan => exact absurd rfl h
  | inf _ => rfl
  | fin _ _ _ => rfl

theorem fpMinMax_nan_left (ha : fpUnpack f a = .nan) (hb : fpUnpack f b ≠ .nan) : fpMinMax f isMax np a b = if np then f.nan else b := by
  unfold fpMinMax
  rw [ha]
  dsimp only
  rw [isNan_eq_false hb]
  rfl

theorem fpMinMax_nan_right (ha : fpUnpack f a ≠ .nan) (hb : fpUnpack f b = .nan) : fpMinMax f isMax np a b = if np then f.nan else a := by
  unfold fpMinMax
  rw [hb]
  dsimp only
  rw [isNan_eq_false ha]
  rfl

/-- Of two values in order a source is chosen; of two equal ones the greater pattern is the smaller value, for it alone may be -0 (R278). -/
theorem fpMinMax_ordered (h : f.Wide) (ha : a < 2 ^ (f.eb + f.fb + 1)) (hb : b < 2 ^ (f.eb + f.fb + 1)) {o : Ordering}
    (ho : fvCompare (fpUnpack f a) (fpUnpack f b) = some o) :
    (o = .lt → fpMinMax f isMax np a b = if isMax then b else a) ∧ (o = .gt → fpMinMax f isMax np a b = if isMax then a else b) ∧
      (o = .eq → fpMinMax f isMax np a b = if isMax then min a b else max a b) := by
  obtain ⟨hna, hnb⟩ := not_nan_of_fvCompare ho
  unfold fpMinMax
  dsimp only
  rw [ho, isNan_eq_false hna, isNan_eq_false hnb]
  refine ⟨?_, ?_, ?_⟩ <;> rintro rfl
  · rfl
  · rfl
  · obtain ⟨c, hc, hac⟩ := exists_sign h ha hna
    obtain ⟨d, hd, hbd⟩ := exists_sign h hb hnb
    have hsame (hsign : (fpUnpack f a).sign = (fpUnpack f b).sign) : a = b := eq_of_fvCompare_eq h ha hb ho hsign
    generalize hx : (fpUnpack f a).sign = s at hac hsame
    generalize hy : (fpUnpack f b).sign = t at hbd hsame
    cases s <;> cases t
    · simp [hsame rfl]
    · have hle : a ≤ b := by simp only [FFmt.signBit, Bool.false_eq_true, if_true, if_false] at hac hbd; omega
      simp [hle]
    · have hle : b ≤ a := by simp only [FFmt.signBit, Bool.false_eq_true, if_true, if_false] at hac hbd; omega
      simp [hle]
    · simp [hsame rfl]

end

/-- The eight conditions without a NaN (R279). -/
theorem fvCond_ordered {c : Nat} (hc : c < 8) {x y : Fv} {o : Ordering} (h : fvCompare x y = some o) : fvCond c x y = decide
    ((c = 0 ∧ o = .eq) ∨ (c = 1 ∧ o ≠ .eq) ∨ (c = 2 ∧ o = .lt) ∨ (c = 3 ∧ o ≠ .gt) ∨ (c = 4 ∧ o = .gt) ∨ (c = 5 ∧ o ≠ .lt) ∨ c = 6) := by
  unfold fvCond
  rw [h]
  interval_cases c <;> cases o <;> rfl

theorem fvCond_nan (c : Nat) {x y : Fv} (h : x = .nan ∨ y = .nan) : fvCond c x y = decide (c = 1 ∨ c = 7) := by
  have hnone : fvCompare x y = none := by
    obtain rfl | rfl := h
    · rfl
    · exact fvCompare_nan_right x
  unfold fvCond
  rw [hnone, Bool.decide_or]
  rfl

/-! ## Sources without modifiers -/

theorem n32_lt (c : TCap) : n32 c < 2 ^ 32 := (lo32 c).isLt

theorem modA_rm {m v : Nat} (hm : m < 4) (hv : v < 2 ^ 32) : modA fp32 m v = v := by
  have hbit {i : Nat} (hi : 2 ≤ i) : bitAt m i = false :=
    Nat.testBit_lt_two_pow (hm.trans_le (Nat.pow_le_pow_right (n := 2) two_pos hi))
  unfold modA
  rw [hbit (by decide), hbit (by decide)]
  exact Nat.mod_eq_of_lt hv

theorem clampS01_rm {m : Nat} (f : FFmt) (hm : m < 4) (v : Nat) : clampS01 f m v = v := by
  have hbit : bitAt m 6 = false := Nat.testBit_lt_two_pow (by omega)
  unfold clampS01
  rw [hbit]
  rfl

section
variable {w : FWord} (hm : w.md.toNat < 4) (x : Src)
include hm

theorem frnd_result : resultOf (.frnd w) x = some (val32 (BitVec.ofNat 32 (fpRnd (rmOf w.md.toNat) (n32 x.a)))) := by
  have hop : resultOf (.frnd w) x =
      some (val32 (BitVec.ofNat 32 (clampS01 fp32 w.md.toNat (fpRnd (rmOf w.md.toNat) (modA fp32 w.md.toNat (n32 x.a)))))) := rfl
  rw [hop, clampS01_rm fp32 hm, modA_rm hm (n32_lt x.a)]

theorem ffrac_result : resultOf (.ffrac w) x = some (val32 (BitVec.ofNat 32 (fpFrac (n32 x.a)))) := by
  have hop : resultOf (.ffrac w) x = some (val32 (BitVec.ofNat 32 (fpFrac (modA fp32 w.md.toNat (n32 x.a))))) := rfl
  rw [hop, modA_rm hm (n32_lt x.a)]

/-- A special function of its source's value (R282). -/
theorem special_result {i : Instr} {opc : BitVec 8} {g : Rm → Fv → Nat} (hi : aluOf i = some (xcSpec opc g, w, none)) :
    resultOf i x = some (val32 (BitVec.ofNat 32 (g (rmOf w.md.toNat) (fpUnpack fp32 (n32 x.a))))) := by
  have hop : (xcSpec opc g).op (modOf (xcSpec opc g) w) x = .ok { val := val32 (BitVec.ofNat 32
      (clampS01 fp32 w.md.toNat (g (rmOf w.md.toNat) (fpUnpack fp32 (modA fp32 w.md.toNat (n32 x.a)))))) } := rfl
  rw [resultOf_of_op hi hop, clampS01_rm fp32 hm, modA_rm hm (n32_lt x.a)]

end

/-! ## Integral sources -/

/-- A finite value with no fraction bits is the integer it rounds to (R281). -/
theorem fvToInt_integral (rm : Rm) (neg : Bool) (m : Nat) {e : Int} (he : 0 ≤ e) :
    fvToInt rm (.fin neg m e) = if neg then -((m * 2 ^ e.toNat : Nat) : Int) else ((m * 2 ^ e.toNat : Nat) : Int) := by
  unfold fvToInt
  dsimp only
  rw [if_pos he]
  dsimp only
  rw [Nat.shiftLeft_eq]

theorem natAbs_sign (neg : Bool) (n : Nat) : (if neg then -(n : Int) else (n : Int)).natAbs = n := by cases neg <;> simp

/-- The integer of a value is its own value in units. -/
theorem units_ofInt (z : Int) : (Fv.ofInt z).units 0 = z := by
  unfold Fv.ofInt
  rw [units_fin]
  simp only [sub_self, Int.toNat_zero, pow_zero, Nat.mul_one, decide_eq_true_eq]
  split <;> omega

/-- The sine of an integral number of half-turns is a zero with the argument's sign (R282). -/
theorem fpSin_integral (rm : Rm) (neg : Bool) {m : Nat} {e : Int} (h : m = 0 ∨ 0 ≤ e) : fpSin rm (.fin neg m e) = fp32.signBit neg := by
  have hturns : ∃ z : Nat, ((Fv.fin false m e).units (-(xPrec : Int))).toNat = z * 2 ^ xPrec := by
    rw [units_fin, if_neg Bool.false_ne_true, Int.toNat_natCast]
    obtain rfl | he := h
    · exact ⟨0, by simp⟩
    · refine ⟨m * 2 ^ e.toNat, ?_⟩
      rw [mul_assoc, ← pow_add]
      congr 2
      omega
  obtain ⟨z, hz⟩ := hturns
  have hround : fpRound fp32 rm (.fin neg 0 0) = fp32.signBit neg := fpRoundMag_zero wide_fp32 rm neg 0
  have hmod : z * 2 ^ xPrec % (2 * 2 ^ xPrec) = z % 2 * 2 ^ xPrec := Nat.mul_mod_mul_right _ _ _
  have hpos : 0 < 2 ^ xPrec := by positivity
  unfold fpSin
  dsimp only
  rw [hz, hmod]
  generalize 2 ^ xPrec = p at hpos ⊢
  obtain hpar | hpar : z % 2 = 0 ∨ z % 2 = 1 := by omega
  · rw [hpar, Nat.zero_mul, if_neg (not_le.mpr hpos)]
    dsimp only
    rw [if_pos rfl, hround]
  · rw [hpar, Nat.one_mul, if_pos le_rfl]
    dsimp only
    rw [if_pos (Nat.sub_self p), hround]

/-- The reciprocals of a zero are its infinity (R282). -/
theorem fpRcp_zero (rm : Rm) (neg : Bool) (e : Int) : fpRcp rm (.fin neg 0 e) = fp32.signBit neg + fp32.inf := by
  unfold fpRcp
  exact if_pos rfl

theorem fpRsq_zero (rm : Rm) (neg : Bool) (e : Int) : fpRsq rm (.fin neg 0 e) = fp32.signBit neg + fp32.inf := by
  unfold fpRsq
  exact if_pos rfl

/-- The cosine of a zero is 1.0 (R282). -/
theorem fpCos_zero (rm : Rm) (neg : Bool) (e : Int) : fpCos rm (.fin neg 0 e) = 0x3F800000 := by
  have hturns : ((Fv.fin false 0 e).units (-(xPrec : Int))).toNat % (2 * 2 ^ xPrec) = 0 := by simp [units_fin]
  have hpos : 0 < 2 ^ (xPrec - 1) := by positivity
  unfold fpCos
  dsimp only
  rw [hturns, if_neg (Nat.not_lt_zero _), if_neg (Nat.not_lt_zero _)]
  dsimp only
  rw [if_neg hpos.ne, if_pos rfl]
  cases rm <;> rfl

/-- A pattern read as a finite value is one that the format holds. -/
theorem holds_of_fin {f : FFmt} (h : f.Wide) {v : Nat} (hv : v < 2 ^ (f.eb + f.fb + 1)) {neg : Bool} {m : Nat} {e : Int}
    (hval : fpUnpack f v = .fin neg m e) : f.Holds m e ∧ v = f.signBit neg + f.body m e := by
  obtain ⟨s, n, k, hn, hval', hpat⟩ | ⟨s, hval', hpat⟩ | hval' := fpUnpack_cases h hv
  · rw [hval] at hval'
    cases hval'
    exact ⟨hn, hpat⟩
  · rw [hval] at hval'
    cases hval'
  · rw [hval] at hval'
    cases hval'

section
variable {v : Nat} (hv : v < 2 ^ 32) {neg : Bool} {m : Nat} {e : Int} (h : fpUnpack fp32 v = .fin neg m e) (he : 0 ≤ e)
include hv h he

/-- An integral source of FRND is its result (R281). -/
theorem fpRnd_integral (rm : Rm) : fpRnd rm v = v := by
  obtain ⟨hholds, hpat⟩ := holds_of_fin wide_fp32 hv h
  unfold fpRnd
  rw [h]
  dsimp only
  rw [fvToInt_integral rm neg m he, natAbs_sign, fpRoundMag_exact wide_fp32 .rtz neg hholds (.inr ⟨he, by rw [sub_zero]⟩), ← hpat]

/-- An integral source of FFRAC has no fraction (R281). -/
theorem fpFrac_integral : fpFrac v = 0 := by
  obtain ⟨⟨hnormal, -⟩, -⟩ := holds_of_fin wide_fp32 hv h
  have hm : m ≠ 0 := by
    have hfull := hnormal.full.resolve_left (by rw [show fp32.emin = -149 from rfl]; omega)
    have : 0 < 2 ^ (fp32.fb + 1 - 1) := by positivity
    omega
  have hfloor : fvFloor (.fin neg m e) = (Fv.fin neg m e).units 0 := by
    rw [units_fin, sub_zero]
    exact fvToInt_integral .rdn neg m he
  have hsum : fvSum .rne [.fin neg m e, Fv.ofInt (-fvFloor (.fin neg m e))] = .fin false 0 0 := by
    refine fvSum_zero .rne (g := 0) ?_ ?_ (fun h => absurd h hm)
    · simp [minExp, hm, he]
    · exact (congrArg (_ + ·) (units_ofInt _)).trans (by rw [hfloor]; exact add_neg_cancel _)
  unfold fpFrac
  rw [h]
  dsimp only
  rw [hsum]
  rfl

end

/-! ## The obligation -/

section
variable {i : Instr} {x : Src} {n : Nat} (h : resultOf i x = some (val32 (BitVec.ofNat 32 n)))
include h

theorem gives_toNat {k : Nat} (hn : n = k) (hk : k < 2 ^ 32) : Gives i x (fun v => v.toNat = k) :=
  ⟨_, h, by rw [hn]; exact Nat.mod_eq_of_lt hk⟩

theorem gives_word {c : Word} (hn : BitVec.ofNat 32 n = c) : Gives i x (fun v => v = c) := ⟨_, h, hn⟩

end

section
variable {w : FWord} {x : Src} {a b : Nat} (ha : a = modA fp32 w.md.toNat (n32 x.a)) (hb : b = modB fp32 w.md.toNat (n32 x.b))
include ha hb

theorem fmin_result : resultOf (.fmin w) x = some (val32 (BitVec.ofNat 32 (fpMinMax fp32 false (bitAt w.md.toNat 7) a b))) := by subst ha hb; rfl
theorem fmax_result : resultOf (.fmax w) x = some (val32 (BitVec.ofNat 32 (fpMinMax fp32 true (bitAt w.md.toNat 7) a b))) := by subst ha hb; rfl

theorem fcmp_result {c : Nat} (hc : c = w.md.toNat / 512) :
    resultOf (.fcmp w) x = some (valP (fvCond c (fpUnpack fp32 a) (fpUnpack fp32 b))) := by
  have hfield : bitsAt w.md.toNat 9 3 = c := by
    have := w.md.isLt
    rw [bitsAt, Nat.shiftRight_eq_div_pow]
    omega
  subst ha hb
  exact congrArg (fun c => some (valP (fvCond c _ _))) hfield

end

section
variable {w : FWord} (hm : w.md.toNat < 4) {x : Src}
include hm

/-- A special function of a source whose value is known gives what the function gives in every mode. -/
theorem special_gives {i : Instr} {opc : BitVec 8} {g : Rm → Fv → Nat} (hi : aluOf i = some (xcSpec opc g, w, none)) {y : Fv}
    (hy : fpUnpack fp32 (n32 x.a) = y) {c : Word} (hg : ∀ rm, BitVec.ofNat 32 (g rm y) = c) : Gives i x (fun v => v = c) :=
  gives_word (special_result hm x hi) (by rw [hy]; exact hg _)

/-- A NaN gives the canonical one (R281, R282). -/
theorem nan_gives (hy : fpUnpack fp32 (n32 x.a) = .nan) :
    ∀ i ∈ [Instr.frnd w, .ffrac w, .frcp w, .frsq w, .fsqrt w, .fex2 w, .flg2 w, .fsin w, .fcos w], Gives i x (fun v => v = 0x7FC00000) := by
  simp only [List.forall_mem_cons, List.not_mem_nil, false_imp_iff, implies_true, and_true]
  refine ⟨gives_word (frnd_result hm x) ?_, gives_word (ffrac_result hm x) ?_, special_gives hm rfl hy fun rm => rfl,
    special_gives hm rfl hy fun rm => rfl, special_gives hm rfl hy fun rm => rfl, special_gives hm rfl hy fun rm => rfl,
    special_gives hm rfl hy fun rm => rfl, special_gives hm rfl hy fun rm => rfl, special_gives hm rfl hy fun rm => rfl⟩
  · unfold fpRnd
    rw [hy]
    rfl
  · unfold fpFrac
    rw [hy]
    rfl

/-- A zero gives the results of R281 and of R282's table. -/
theorem zero_gives (neg : Bool) {a : Word} (ha : a = if neg then 0x80000000 else 0) (hx : lo32 x.a = a) :
    Gives (.frnd w) x (fun v => v = a) ∧ Gives (.ffrac w) x (fun v => v = 0) ∧ Gives (.frcp w) x (fun v => v = a ||| 0x7F800000) ∧
      Gives (.frsq w) x (fun v => v = a ||| 0x7F800000) ∧ Gives (.fsqrt w) x (fun v => v = a) ∧ Gives (.fex2 w) x (fun v => v = 0x3F800000) ∧
      Gives (.flg2 w) x (fun v => v = 0xFF800000) ∧ Gives (.fsin w) x (fun v => v = a) ∧ Gives (.fcos w) x (fun v => v = 0x3F800000) := by
  have hn : n32 x.a = a.toNat := congrArg BitVec.toNat hx
  have hy : fpUnpack fp32 (n32 x.a) = .fin neg 0 (-149) := by
    rw [hn, ha]
    cases neg <;> rfl
  have hinf : BitVec.ofNat 32 (fp32.signBit neg + fp32.inf) = a ||| 0x7F800000 := by
    rw [ha]
    cases neg <;> decide
  refine ⟨gives_word (frnd_result hm x) ?_, gives_word (ffrac_result hm x) ?_, special_gives hm rfl hy fun rm => ?_,
    special_gives hm rfl hy fun rm => ?_, special_gives hm rfl hy fun rm => ?_, special_gives hm rfl hy fun rm => rfl,
    special_gives hm rfl hy fun rm => rfl, special_gives hm rfl hy fun rm => ?_, special_gives hm rfl hy fun rm => ?_⟩
  · rw [hn, ha]
    cases rmOf w.md.toNat <;> cases neg <;> rfl
  · rw [hn, ha]
    cases neg <;> rfl
  · rw [fpRcp_zero, hinf]
  · rw [fpRsq_zero, hinf]
  · rw [ha]
    cases rm <;> cases neg <;> rfl
  · rw [fpSin_integral rm neg (.inl rfl), ha]
    cases neg <;> rfl
  · exact congrArg (BitVec.ofNat 32) (fpCos_zero rm neg (-149))

/-- The infinities give the results of R281 and of R282's table. -/
theorem inf_gives (neg : Bool) {a : Word} (ha : a = if neg then 0xFF800000 else 0x7F800000) (hx : lo32 x.a = a) :
    Gives (.frnd w) x (fun v => v = a) ∧ Gives (.ffrac w) x (fun v => v = 0x7FC00000) ∧
      Gives (.frcp w) x (fun v => v = if neg then 0x80000000 else 0) ∧ Gives (.frsq w) x (fun v => v = if neg then 0x7FC00000 else 0) ∧
      Gives (.fsqrt w) x (fun v => v = if neg then 0x7FC00000 else 0x7F800000) ∧ Gives (.fex2 w) x (fun v => v = if neg then 0 else 0x7F800000) ∧
      Gives (.flg2 w) x (fun v => v = if neg then 0x7FC00000 else 0x7F800000) ∧ Gives (.fsin w) x (fun v => v = 0x7FC00000) ∧
      Gives (.fcos w) x (fun v => v = 0x7FC00000) := by
  have hn : n32 x.a = a.toNat := congrArg BitVec.toNat hx
  have hy : fpUnpack fp32 (n32 x.a) = .inf neg := by
    rw [hn, ha]
    cases neg <;> rfl
  refine ⟨gives_word (frnd_result hm x) ?_, gives_word (ffrac_result hm x) ?_, special_gives hm rfl hy fun rm => ?_,
    special_gives hm rfl hy fun rm => ?_, special_gives hm rfl hy fun rm => ?_, special_gives hm rfl hy fun rm => ?_,
    special_gives hm rfl hy fun rm => ?_, special_gives hm rfl hy fun rm => rfl, special_gives hm rfl hy fun rm => rfl⟩
  · rw [hn, ha]
    cases neg <;> rfl
  · rw [hn, ha]
    cases neg <;> rfl
  · cases rm <;> cases neg <;> rfl
  · cases rm <;> cases neg <;> rfl
  · cases neg <;> rfl
  · cases neg <;> rfl
  · cases neg <;> rfl

end

/-- Settles O7: a source is chosen or a condition holds by the order of the values, and each special source has its case. -/
theorem floatOrderAndSpecialResults : Obligations.FloatOrderAndSpecialResults := by
  unfold Obligations.FloatOrderAndSpecialResults
  refine ⟨fun w x a b ha hb => ?order, fun w x hm => ⟨fun a hx hy => ?nan, fun a hx hz => ?zero, fun hx => ?inf, fun hx => ?negInf, fun m e hy => ?negative,
    fun n m e hy he => ?integral, fun hx => ?one⟩⟩
  case order =>
    have hlta : a < 2 ^ 32 := ha ▸ srcMod_lt fp32 _ _ _
    have hltb : b < 2 ^ 32 := hb ▸ srcMod_lt fp32 _ _ _
    have hmin := fmin_result ha hb
    have hmax := fmax_result ha hb
    have hnan {c : Nat} (hc : c < 2 ^ 32) : (if w.md.getLsbD 7 then 0x7FC00000 else c) < 2 ^ 32 := by split <;> omega
    refine ⟨fun hx hy => ⟨gives_word hmin (by rw [fpMinMax_nan_both _ _ hx hy]; rfl), gives_word hmax (by rw [fpMinMax_nan_both _ _ hx hy]; rfl)⟩,
      fun hx hy => ⟨gives_toNat hmin (fpMinMax_nan_left _ _ hx hy) (hnan hltb), gives_toNat hmax (fpMinMax_nan_left _ _ hx hy) (hnan hltb)⟩,
      fun hx hy => ⟨gives_toNat hmin (fpMinMax_nan_right _ _ hx hy) (hnan hlta), gives_toNat hmax (fpMinMax_nan_right _ _ hx hy) (hnan hlta)⟩,
      fun o ho => ?_, fun c hc => ⟨fun h => ?_, fun o ho => ?_⟩⟩
    · obtain ⟨hlt, hgt, heq⟩ := fpMinMax_ordered false (bitAt w.md.toNat 7) wide_fp32 hlta hltb ho
      obtain ⟨hlt', hgt', heq'⟩ := fpMinMax_ordered true (bitAt w.md.toNat 7) wide_fp32 hlta hltb ho
      exact ⟨⟨_, hmin, fun h => by rw [hlt h]; exact Nat.mod_eq_of_lt hlta, fun h => by rw [hgt h]; exact Nat.mod_eq_of_lt hltb,
          fun h => by rw [heq h]; exact Nat.mod_eq_of_lt (max_lt hlta hltb)⟩,
        ⟨_, hmax, fun h => by rw [hlt' h]; exact Nat.mod_eq_of_lt hltb, fun h => by rw [hgt' h]; exact Nat.mod_eq_of_lt hlta,
          fun h => by rw [heq' h]; exact Nat.mod_eq_of_lt (min_lt_of_left_lt hlta)⟩⟩
    · rw [fcmp_result ha hb hc, fvCond_nan c h]
    · rw [fcmp_result ha hb hc, fvCond_ordered (by have := w.md.isLt; omega) ho]
  case nan =>
    subst hx
    exact nan_gives hm hy
  case zero =>
    obtain hz | hz := hz
    · exact zero_gives hm false hz hx
    · exact zero_gives hm true hz hx
  case inf => exact inf_gives hm false rfl hx
  case negInf => exact inf_gives hm true rfl hx
  case negative => exact ⟨special_gives hm rfl hy fun rm => rfl, special_gives hm rfl hy fun rm => rfl, special_gives hm rfl hy fun rm => rfl⟩
  case integral =>
    refine ⟨gives_word (frnd_result hm x) ?_, gives_word (ffrac_result hm x) ?_, special_gives hm rfl hy fun rm => ?_⟩
    · rw [fpRnd_integral (n32_lt x.a) hy he]
      exact (BitVec.ofNat_toNat 32 (lo32 x.a)).trans (BitVec.setWidth_eq _)
    · rw [fpFrac_integral (n32_lt x.a) hy he]
      rfl
    · rw [fpSin_integral rm n (.inr he)]
      cases n <;> rfl
  case one =>
    have hy : fpUnpack fp32 (n32 x.a) = .fin false (2 ^ 23) (-23) := congrArg (fun c : Word => fpUnpack fp32 c.toNat) hx
    exact special_gives hm rfl hy fun rm => by cases rm <;> rfl

end Sys2Proof.Machine
end

section
/-! O9: conversions and packed dot products. An integer is kept modulo its type's range or clamped to it; a format that holds a number gives it back; a
slot that is written leaves the others; and an integer dot product is one sum. -/

namespace Sys2Proof.Machine

theorem bitsAt_eq (v lo n : Nat) : bitsAt v lo n = v / 2 ^ lo % 2 ^ n := by rw [bitsAt, Nat.shiftRight_eq_div_pow]

/-! ## Integers of a type -/

/-- The one number in a type's range that agrees with an integer in the type's bits. -/
def tyWrap (ty : Nat) (z : Int) : Int := if tySigned ty then Int.bmod z (2 ^ tyBits ty) else z % 2 ^ tyBits ty

theorem tyWrap_emod (ty : Nat) (z : Int) : tyWrap ty z % 2 ^ tyBits ty = z % 2 ^ tyBits ty := by
  unfold tyWrap
  split
  · have := Int.bmod_emod (x := z) (m := 2 ^ tyBits ty)
    rwa [Nat.cast_pow, Nat.cast_ofNat] at this
  · exact Int.emod_emod_of_dvd _ dvd_rfl

theorem tyWrap_unsigned {ty : Nat} (hs : tySigned ty = false) (z : Int) : 0 ≤ tyWrap ty z ∧ tyWrap ty z < 2 ^ tyBits ty := by
  rw [tyWrap, if_neg (by simp [hs])]
  exact ⟨Int.emod_nonneg _ (by positivity), Int.emod_lt_of_pos _ (by positivity)⟩

/-- The word of a number's residue is that of the number. -/
theorem ofNat_emod (n : Nat) (z : Int) : BitVec.ofNat n (z % ((2 ^ n : Nat) : Int)).toNat = BitVec.ofInt n z := by
  have hlt : (z % ((2 ^ n : Nat) : Int)).toNat < 2 ^ n := by
    rw [Int.toNat_lt (Int.emod_nonneg _ (by positivity))]
    exact Int.emod_lt_of_pos _ (by positivity)
  exact BitVec.eq_of_toNat_eq (by rw [BitVec.toNat_ofNat, BitVec.toNat_ofInt, Nat.mod_eq_of_lt hlt])

section
variable {ty : Nat} (hty : ty < 8)
include hty

theorem tyBits_bounds : 0 < tyBits ty ∧ tyBits ty ≤ 64 := by interval_cases ty <;> decide

theorem tyFloat_eq_false : tyFloat ty = false := by simp [tyFloat, hty]

theorem intBits_eq (z : Int) : intBits ty z = BitVec.ofInt 128 (tyWrap ty z) := by
  have hmod : 0 ≤ z % ((2 ^ tyBits ty : Nat) : Int) := Int.emod_nonneg _ (by positivity)
  unfold intBits tyWrap
  dsimp only
  split
  · rw [signedOf_eq_toInt (tyBits_bounds hty).1, ofNat_emod, BitVec.toInt_ofInt]
  · rw [Int.toNat_of_nonneg hmod, Nat.cast_pow, Nat.cast_ofNat]

theorem two_pow_tyBits : (2 : Int) ^ tyBits ty = 2 * 2 ^ (tyBits ty - 1) := by
  rw [← pow_succ', Nat.sub_add_cancel (tyBits_bounds hty).1]

theorem two_pow_tyBits_le : (2 : Int) ^ tyBits ty ≤ 2 ^ 64 := pow_le_pow_right₀ (by norm_num) (tyBits_bounds hty).2

theorem tyWrap_signed (hs : tySigned ty = true) (z : Int) : -2 ^ (tyBits ty - 1) ≤ tyWrap ty z ∧ tyWrap ty z < 2 ^ (tyBits ty - 1) := by
  have hpow := two_pow_tyBits hty
  have hle := Int.le_bmod (x := z) (m := 2 ^ tyBits ty) (by positivity)
  have hlt := Int.bmod_lt (x := z) (m := 2 ^ tyBits ty) (by positivity)
  rw [Nat.cast_pow, Nat.cast_ofNat, hpow] at hle hlt
  rw [tyWrap, if_pos hs]
  omega

/-- A number in a type's range is its own wrapping. -/
theorem tyWrap_of_range {z : Int} (hlo : (intRange (tySigned ty) (tyBits ty)).1 ≤ z) (hhi : z ≤ (intRange (tySigned ty) (tyBits ty)).2) :
    tyWrap ty z = z := by
  have hpow := two_pow_tyBits hty
  unfold intRange at hlo hhi
  unfold tyWrap
  rw [Nat.cast_pow, Nat.cast_pow, Nat.cast_ofNat] at hlo hhi
  split
  · rename_i hs
    rw [if_pos hs] at hlo hhi
    refine Int.bmod_eq_of_le ?_ ?_ <;> rw [Nat.cast_pow, Nat.cast_ofNat, hpow] <;> dsimp only at hlo hhi <;> omega
  · rename_i hs
    rw [if_neg hs] at hlo hhi
    exact Int.emod_eq_of_lt hlo (by dsimp only at hhi; omega)

theorem tyWrap_bounds (z : Int) : -2 ^ 64 ≤ tyWrap ty z ∧ tyWrap ty z < 2 ^ 64 := by
  have hpow := two_pow_tyBits hty
  have hle := two_pow_tyBits_le hty
  cases hs : tySigned ty with
  | true =>
    obtain ⟨hlo, hhi⟩ := tyWrap_signed hty hs z
    exact ⟨by omega, by omega⟩
  | false =>
    obtain ⟨hlo, hhi⟩ := tyWrap_unsigned hs z
    exact ⟨by omega, by omega⟩

theorem intBits_toInt (z : Int) : (intBits ty z).toInt = tyWrap ty z := by
  obtain ⟨hlo, hhi⟩ := tyWrap_bounds hty z
  rw [intBits_eq hty, BitVec.toInt_ofInt, Int.bmod_eq_of_le] <;> omega

/-- An integer of a type keeps its low bits (R284). -/
theorem intBits_mod (z : Int) : (intBits ty z).toNat % 2 ^ tyBits ty = (z % 2 ^ tyBits ty).toNat := by
  have hpos : (0 : Int) < 2 ^ tyBits ty := by positivity
  have hdvd : (2 : Int) ^ tyBits ty ∣ ((2 ^ 128 : Nat) : Int) := by
    rw [Nat.cast_pow, Nat.cast_ofNat]
    exact pow_dvd_pow 2 ((tyBits_bounds hty).2.trans (by decide))
  have hnonneg : 0 ≤ tyWrap ty z % ((2 ^ 128 : Nat) : Int) := Int.emod_nonneg _ (by positivity)
  have hcast : (((intBits ty z).toNat % 2 ^ tyBits ty : Nat) : Int) = z % 2 ^ tyBits ty := by
    rw [intBits_eq hty, BitVec.toNat_ofInt, Int.natCast_mod, Int.toNat_of_nonneg hnonneg, Nat.cast_pow 2 (tyBits ty),
      Nat.cast_ofNat, Int.emod_emod_of_dvd _ hdvd, tyWrap_emod]
  rw [← hcast, Int.toNat_natCast]

theorem intBits_unsigned_lt (hs : tySigned ty = false) (z : Int) : (intBits ty z).toNat < 2 ^ tyBits ty := by
  obtain ⟨hlo, hhi⟩ := tyWrap_unsigned hs z
  have hle := two_pow_tyBits_le hty
  have hcast : (((intBits ty z).toNat : Nat) : Int) < ((2 ^ tyBits ty : Nat) : Int) := by
    rw [intBits_eq hty, BitVec.toNat_ofInt, Int.emod_eq_of_lt hlo (by omega), Int.toNat_of_nonneg hlo, Nat.cast_pow, Nat.cast_ofNat]
    exact hhi
  exact_mod_cast hcast

theorem intRange_le : (intRange (tySigned ty) (tyBits ty)).1 ≤ (intRange (tySigned ty) (tyBits ty)).2 := by interval_cases ty <;> decide

/-- A clamped integer is in the type's range, and stays what it is (R284). -/
theorem intBits_clamp (z : Int) : (intBits ty (clampInt (intRange (tySigned ty) (tyBits ty)) z)).toInt =
    max (intRange (tySigned ty) (tyBits ty)).1 (min (intRange (tySigned ty) (tyBits ty)).2 z) := by
  have hle := intRange_le hty
  have hclamp : clampInt (intRange (tySigned ty) (tyBits ty)) z =
      max (intRange (tySigned ty) (tyBits ty)).1 (min (intRange (tySigned ty) (tyBits ty)).2 z) := by
    unfold clampInt
    split
    · omega
    · split <;> omega
  rw [hclamp, intBits_toInt hty, tyWrap_of_range hty] <;> omega

/-- The ends of a type's range are in it. -/
theorem intBits_end (neg : Bool) : (intBits ty (if neg then (intRange (tySigned ty) (tyBits ty)).1 else (intRange (tySigned ty) (tyBits ty)).2)).toInt =
    if neg then (intRange (tySigned ty) (tyBits ty)).1 else (intRange (tySigned ty) (tyBits ty)).2 := by
  have hle := intRange_le hty
  rw [intBits_toInt hty, tyWrap_of_range hty] <;> split <;> omega

end

/-! ## CVT -/

/-- The integer that a source of an integer type is (R284). -/
def intSource (st v : Nat) : Int := if tySigned st then signedOf (tyBits st) v else ((v % 2 ^ tyBits st : Nat) : Int)

theorem fvToInt_ofInt (rm : Rm) (z : Int) : fvToInt rm (Fv.ofInt z) = z := by
  unfold Fv.ofInt
  rw [fvToInt_integral rm _ _ le_rfl]
  simp only [Int.toNat_zero, pow_zero, Nat.mul_one, decide_eq_true_eq]
  split <;> omega

section
variable {m v st dt : Nat} (hst : st = m / 64 % 16) (hdt : dt = m / 4 % 16) (hd : dt < 8)
include hst hdt hd

theorem cvtBits_of_int (hs : st < 8) : cvtBits m v = intBits dt
    (if bitAt m 10 then clampInt (intRange (tySigned dt) (tyBits dt)) (intSource st v) else intSource st v) := by
  have hfs : bitsAt m 6 4 = st := (bitsAt_eq m 6 4).trans hst.symm
  have hfd : bitsAt m 2 4 = dt := (bitsAt_eq m 2 4).trans hdt.symm
  have hval : tyValue st v = Fv.ofInt (intSource st v) := by
    unfold tyValue
    rw [tyFloat_eq_false hs]
    rfl
  unfold cvtBits
  dsimp only
  rw [hfs, hfd, tyFloat_eq_false hd, tyFloat_eq_false hs, hval, fvToInt_ofInt]
  rfl

/-- An FP32 source that is no finite value gives 0 or an end of the range (R284). -/
theorem cvtBits_of_nan (hs : st = 10) (h : fpUnpack fp32 (v % 2 ^ 32) = .nan) : cvtBits m v = intBits dt 0 := by
  have hfs : bitsAt m 6 4 = 10 := (bitsAt_eq m 6 4).trans (hst.symm.trans hs)
  have hfd : bitsAt m 2 4 = dt := (bitsAt_eq m 2 4).trans hdt.symm
  have hval : tyValue 10 v = .nan := h
  unfold cvtBits
  dsimp only
  rw [hfs, hfd, tyFloat_eq_false hd, hval]
  rfl

theorem cvtBits_of_inf (hs : st = 10) {neg : Bool} (h : fpUnpack fp32 (v % 2 ^ 32) = .inf neg) : cvtBits m v =
    intBits dt (if neg then (intRange (tySigned dt) (tyBits dt)).1 else (intRange (tySigned dt) (tyBits dt)).2) := by
  have hfs : bitsAt m 6 4 = 10 := (bitsAt_eq m 6 4).trans (hst.symm.trans hs)
  have hfd : bitsAt m 2 4 = dt := (bitsAt_eq m 2 4).trans hdt.symm
  have hval : tyValue 10 v = .inf neg := h
  unfold cvtBits
  dsimp only
  rw [hfs, hfd, tyFloat_eq_false hd, hval]
  rfl

end

theorem n64_mod (c : TCap) : n64 c % 2 ^ 32 = n32 c := by
  simp [n64, n32, lo64, lo32, BitVec.extractLsb'_toNat]

/-- A value of the format itself is kept, also under SAT (R284). -/
theorem roundSat_fpUnpack {f : FFmt} (h : f.Wide) (rm : Rm) (sat : Bool) {v : Nat} (hv : v < 2 ^ (f.eb + f.fb + 1)) (hnan : fpUnpack f v ≠ .nan) :
    roundSat f rm sat (fpUnpack f v) = v := by
  have hround := fpRound_fpUnpack h rm hv hnan
  obtain ⟨neg, n, k, hn, hval, hpat⟩ | ⟨neg, hval, -⟩ | hval := fpUnpack_cases h hv
  · have hmag : v % 2 ^ (f.eb + f.fb) = f.body n k := by
      have hlt := hn.finite.trans (inf_lt f)
      rw [hpat]
      cases neg with
      | false => exact (congrArg (· % _) (Nat.zero_add _)).trans (Nat.mod_eq_of_lt hlt)
      | true => exact (Nat.add_mod_left _ _).trans (Nat.mod_eq_of_lt hlt)
    have hne : (v % 2 ^ (f.eb + f.fb) == f.inf) = false := by rw [hmag]; exact beq_eq_false_iff_ne.mpr hn.finite.ne
    rw [hval] at hround ⊢
    unfold roundSat
    dsimp only
    rw [hround, hne, Bool.and_false]
    rfl
  · rw [hval] at hround ⊢
    exact hround
  · exact absurd hval hnan

/-- FP32 to FP32 keeps the value, and makes a NaN canonical (R284). -/
theorem cvtBits_same {m : Nat} (hm : m % 1024 / 4 = 0xAA) (v : Nat) :
    cvtBits m v = BitVec.ofNat 128 (if fpUnpack fp32 (v % 2 ^ 32) = .nan then 0x7FC00000 else v % 2 ^ 32) := by
  have hfs : bitsAt m 6 4 = 10 := by rw [bitsAt_eq]; omega
  have hfd : bitsAt m 2 4 = 10 := by rw [bitsAt_eq]; omega
  have hval : tyValue 10 v = fpUnpack fp32 (v % 2 ^ 32) := rfl
  unfold cvtBits
  dsimp only
  rw [hfs, hfd, hval]
  refine congrArg (BitVec.ofNat 128) ?_
  split
  · rename_i hnan
    rw [hnan]
    rfl
  · rename_i hnan
    exact roundSat_fpUnpack wide_fp32 _ _ (Nat.mod_lt _ (by positivity)) hnan

/-! ## CVTW -/

/-- A magnitude of FP16 shifted until it has all the bits of FP32. -/
theorem exists_shift {n : Nat} (hn : n ≠ 0) (hfits : n < 2 ^ 11) : ∃ s, s ≤ 23 ∧ 2 ^ 23 ≤ n * 2 ^ s ∧ n * 2 ^ s < 2 ^ 24 := by
  have hlog : Nat.log2 n < 11 := (Nat.log2_lt hn).mpr hfits
  refine ⟨23 - Nat.log2 n, by omega, ?_, ?_⟩
  · calc 2 ^ 23 = 2 ^ Nat.log2 n * 2 ^ (23 - Nat.log2 n) := by rw [← pow_add]; congr 1; omega
      _ ≤ _ := Nat.mul_le_mul_right _ (Nat.log2_self_le hn)
  · calc _ < 2 ^ (Nat.log2 n + 1) * 2 ^ (23 - Nat.log2 n) := Nat.mul_lt_mul_of_pos_right Nat.lt_log2_self (by positivity)
      _ = 2 ^ 24 := by rw [← pow_add]; congr 1; omega

/-- Every number of FP16 is one of FP32 (R285). -/
theorem exists_widened {n : Nat} {k : Int} (h : fp16.Holds n k) : ∃ n' k', fp32.Holds n' k' ∧ k' ≤ k ∧ n' = n * 2 ^ (k - k').toNat := by
  obtain ⟨⟨hlow, hfits, hfull⟩, hfin⟩ := h
  change -24 ≤ k at hlow
  change n < 2 ^ 11 at hfits
  change (k - -24).toNat * 2 ^ 10 + n < 31 * 2 ^ 10 at hfin
  by_cases hn : n = 0
  · refine ⟨0, -149, ⟨⟨le_rfl, by decide, .inl rfl⟩, by decide⟩, by omega, by rw [hn, Nat.zero_mul]⟩
  · obtain ⟨s, hs, hlo, hhi⟩ := exists_shift hn hfits
    generalize hmag : n * 2 ^ s = n' at hlo hhi
    refine ⟨n', k - s, ⟨⟨?_, hhi, .inr hlo⟩, ?_⟩, by omega, ?_⟩
    · change -149 ≤ _
      omega
    · have hk : (k - s - -149).toNat ≤ 155 := by omega
      clear hfin
      change (k - s - -149).toNat * 2 ^ 23 + n' < 255 * 2 ^ 23
      omega
    · rw [sub_sub_cancel, Int.toNat_natCast, hmag]

/-- FP16 to FP32 and back is the same pattern (R285). -/
theorem fp16_round_trip (rm rm' : Rm) {p : Nat} (hp : p < 2 ^ 16) (hnan : fpUnpack fp16 p ≠ .nan) :
    fpRound fp16 rm (fpUnpack fp32 (fpRound fp32 rm' (fpUnpack fp16 p))) = p := by
  have hw : fp16.Wide := wide_of_register (.inl rfl)
  obtain ⟨neg, n, k, hn, hval, hpat⟩ | ⟨neg, hval, hpat⟩ | hval := fpUnpack_cases hw hp
  · obtain ⟨n', k', hn', hle, hmag⟩ := exists_widened hn
    have hwide : fpRound fp32 rm' (.fin neg n k) = fp32.signBit neg + fp32.body n' k' := fpRoundMag_exact wide_fp32 rm' neg hn' (.inl ⟨hle, hmag⟩)
    rw [hval, hwide, fpUnpack_body wide_fp32 neg hn', hpat]
    exact fpRoundMag_exact hw rm neg hn (.inr ⟨hle, hmag⟩)
  · have hround (f : FFmt) (rm : Rm) : fpRound f rm (.inf neg) = f.signBit neg + f.inf := rfl
    rw [hval, hround, fpUnpack_inf, hround, hpat]
  · exact absurd hval hnan

theorem roundSat_plain (f : FFmt) (rm : Rm) (x : Fv) : roundSat f rm false x = fpRound f rm x := by cases x <;> rfl

theorem cvtwOp_unpack (s : Src) : cvtwOp 4 s = .ok { val := ⟨BitVec.ofNat 128 (fpRound fp32 .rne (fpUnpack fp16 (bitsAt (n32 s.a) 0 16)) +
    2 ^ 32 * fpRound fp32 .rne (fpUnpack fp16 (bitsAt (n32 s.a) 16 16))), false⟩ } := rfl

theorem cvtwOp_pack (s : Src) :
    cvtwOp 0 s = okN32 (fpRound fp16 .rne (fpUnpack fp32 (n32 s.a)) + 2 ^ 16 * fpRound fp16 .rne (fpUnpack fp32 (n32 s.b))) := by
  rw [← roundSat_plain, ← roundSat_plain]
  rfl

/-- CVTW unpacks two FP16 values to FP32 and packs them again (R285). -/
theorem cvtw_unpack_pack {u w : FWord} (hu : u.md = 4) (hw : w.md.toNat = 0) (x : Src) (h : Word)
    (hlow : fpUnpack fp16 (h.toNat % 2 ^ 16) ≠ .nan) (hhigh : fpUnpack fp16 (h.toNat / 2 ^ 16) ≠ .nan) :
    ∃ v : DWord, resultOf (.cvtw u) { x with a := val32 h } = some (val64 v) ∧
      resultOf (.cvtw w) { x with a := val32 (v.extractLsb' 0 32), b := val32 (v.extractLsb' 32 32) } = some (val32 h) := by
  have hlt := h.isLt
  have hbound (p : Nat) : fpRound fp32 .rne (fpUnpack fp16 p) < 2 ^ 32 := fpRound_lt wide_fp32 _ _
  have hlo := hbound (h.toNat % 2 ^ 16)
  have hhi := hbound (h.toNat / 2 ^ 16)
  have hback := fp16_round_trip .rne .rne (Nat.mod_lt _ (by decide)) hlow
  have hback' := fp16_round_trip .rne .rne (Nat.div_lt_of_lt_mul (by omega)) hhigh
  have hn : n32 (val32 h) = h.toNat := congrArg BitVec.toNat (lo32_val32 h)
  have hmd : u.md.toNat = 4 := congrArg BitVec.toNat hu
  have hunpack : cvtwOp u.md.toNat { x with a := val32 h } = .ok { val := ⟨BitVec.ofNat 128 (fpRound fp32 .rne (fpUnpack fp16 (h.toNat % 2 ^ 16)) +
      2 ^ 32 * fpRound fp32 .rne (fpUnpack fp16 (h.toNat / 2 ^ 16))), false⟩ } := by
    rw [hmd, cvtwOp_unpack, hn, bitsAt_eq, bitsAt_eq, pow_zero, Nat.div_one, Nat.mod_eq_of_lt (a := h.toNat / 2 ^ 16) (by omega)]
  generalize fpRound fp32 .rne (fpUnpack fp16 (h.toNat % 2 ^ 16)) = p at *
  generalize fpRound fp32 .rne (fpUnpack fp16 (h.toNat / 2 ^ 16)) = q at *
  have hp : n32 (val32 ((BitVec.ofNat 64 (p + 2 ^ 32 * q)).extractLsb' 0 32)) = p := by
    rw [n32, lo32_val32, BitVec.extractLsb'_toNat, BitVec.toNat_ofNat, Nat.shiftRight_eq_div_pow]
    omega
  have hq : n32 (val32 ((BitVec.ofNat 64 (p + 2 ^ 32 * q)).extractLsb' 32 32)) = q := by
    rw [n32, lo32_val32, BitVec.extractLsb'_toNat, BitVec.toNat_ofNat, Nat.shiftRight_eq_div_pow]
    omega
  have hpack : cvtwOp w.md.toNat { x with
      a := val32 ((BitVec.ofNat 64 (p + 2 ^ 32 * q)).extractLsb' 0 32), b := val32 ((BitVec.ofNat 64 (p + 2 ^ 32 * q)).extractLsb' 32 32) } =
      .ok { val := val32 h } := by
    rw [hw, cvtwOp_pack, hp, hq, hback, hback', Nat.mod_add_div]
    exact congrArg (fun v => Except.ok (Res.mk (val32 v) none)) ((BitVec.ofNat_toNat 32 h).trans (BitVec.setWidth_eq h))
  have hwide : (⟨BitVec.ofNat 128 (p + 2 ^ 32 * q), false⟩ : TCap) = val64 (BitVec.ofNat 64 (p + 2 ^ 32 * q)) := by
    refine congrArg (TCap.mk · false) (BitVec.eq_of_toNat_eq ?_)
    rw [BitVec.toNat_setWidth, BitVec.toNat_ofNat, BitVec.toNat_ofNat]
    omega
  exact ⟨_, (resultOf_of_op (i := .cvtw u) rfl hunpack).trans (congrArg some hwide), resultOf_of_op (i := .cvtw w) rfl hpack⟩

/-! ## CVTN -/

/-- A number with a slot of its bits replaced. -/
def putSlot (bits d i code : Nat) : Nat := d - bitsAt d (bits * i) bits * 2 ^ (bits * i) + code % 2 ^ bits * 2 ^ (bits * i)

/-- A bit outside the slot stays. -/
theorem putSlot_testBit {bits d i code k : Nat} (h : k < bits * i ∨ bits * i + bits ≤ k) : (putSlot bits d i code).testBit k = d.testBit k := by
  unfold putSlot
  rw [bitsAt_eq]
  generalize bits * i = lo at h ⊢
  have hlow := Nat.div_add_mod d (2 ^ lo)
  have hslot := Nat.div_add_mod (d / 2 ^ lo) (2 ^ bits)
  have hsplit (c : Nat) : d - d / 2 ^ lo % 2 ^ bits * 2 ^ lo + c * 2 ^ lo = 2 ^ lo * (2 ^ bits * (d / 2 ^ lo / 2 ^ bits) + c) + d % 2 ^ lo := by
    have hmul : 2 ^ lo * (d / 2 ^ lo) = 2 ^ lo * (2 ^ bits * (d / 2 ^ lo / 2 ^ bits)) + d / 2 ^ lo % 2 ^ bits * 2 ^ lo := by
      rw [Nat.mul_comm (d / 2 ^ lo % 2 ^ bits), ← Nat.mul_add, hslot]
    rw [Nat.mul_add, Nat.mul_comm c]
    omega
  rw [hsplit, Nat.testBit_two_pow_mul_add _ (Nat.mod_lt _ (by positivity))]
  obtain hk | hk := h
  · rw [if_pos hk, Nat.testBit_mod_two_pow, decide_eq_true hk, Bool.true_and]
  · rw [if_neg (by omega), Nat.testBit_two_pow_mul_add _ (Nat.mod_lt _ (by positivity)), if_neg (by omega), Nat.testBit_div_two_pow,
      Nat.testBit_div_two_pow]
    congr 1
    omega

/-- Another slot of the word stays. -/
theorem putSlot_slot {bits d i j code : Nat} (h : j ≠ i) : putSlot bits d i code / 2 ^ (bits * j) % 2 ^ bits = d / 2 ^ (bits * j) % 2 ^ bits := by
  refine Nat.eq_of_testBit_eq fun k => ?_
  rw [Nat.testBit_mod_two_pow, Nat.testBit_mod_two_pow, Nat.testBit_div_two_pow, Nat.testBit_div_two_pow]
  by_cases hk : k < bits
  · rw [putSlot_testBit]
    rcases Nat.lt_or_gt_of_ne h with hlt | hgt
    · have := Nat.mul_le_mul_left bits hlt
      rw [Nat.mul_succ] at this
      exact .inl (by omega)
    · have := Nat.mul_le_mul_left bits hgt
      rw [Nat.mul_succ] at this
      exact .inr (by omega)
  · rw [decide_eq_false hk, Bool.false_and, Bool.false_and]

/-- A word keeps the slots of a number that lie in it. -/
theorem word_slot {bits i : Nat} (hi : i < 32 / bits) (n : Nat) : n % 2 ^ 32 / 2 ^ (bits * i) % 2 ^ bits = n / 2 ^ (bits * i) % 2 ^ bits := by
  have hfit : bits * (i + 1) ≤ 32 := (Nat.mul_le_mul_left bits hi).trans (Nat.mul_div_le 32 bits)
  rw [Nat.mul_succ] at hfit
  refine Nat.eq_of_testBit_eq fun k => ?_
  rw [Nat.testBit_mod_two_pow, Nat.testBit_mod_two_pow, Nat.testBit_div_two_pow, Nat.testBit_div_two_pow, Nat.testBit_mod_two_pow]
  by_cases hk : k < bits
  · rw [decide_eq_true (by omega : k + bits * i < 32), Bool.true_and]
  · rw [decide_eq_false hk, Bool.false_and, Bool.false_and]

/-- An encoding puts two codes into the slots that LANE names (R287). -/
theorem cvtnOp_encode {m : Nat} (h : bitAt m 5 = false) (s : Src) : ∃ c c', cvtnOp m s =
    okN32 (putSlot (fmtBits (nfFmt (bitsAt m 2 3))) (putSlot (fmtBits (nfFmt (bitsAt m 2 3))) (n32 s.d) (2 * bitsAt m 10 2) c)
      (2 * bitsAt m 10 2 + 1) c') := by
  unfold cvtnOp
  dsimp only
  rw [h, if_pos (by rfl)]
  exact ⟨_, _, rfl⟩

/-! ## Integer dot products -/

theorem foldl_add_eq_sum {α : Type} (f : α → Int) (l : List α) (z : Int) : l.foldl (fun z i => z + f i) z = z + (l.map f).sum := by
  induction l generalizing z with
  | nil => simp
  | cons a l ih => rw [List.foldl_cons, ih, List.map_cons, List.sum_cons, add_assoc]

/-- An integer form sums the products of the numbers that its elements are, and wraps or clamps the sum (R289). -/
theorem dotOp_integer {four : Bool} {m : Nat} (h : 2 ≤ bitsAt m 2 2) (s : Src) {ea eb : Nat → Int}
    (ha : ∀ i, (elemValue (dotFmt four (bitsAt m 2 2)) (bitsAt (n32 s.a) ((if four then 4 else 8) * i) (if four then 4 else 8))).units 0 = ea i)
    (hb : ∀ i, (elemValue (dotFmt four (bitsAt m 4 2)) (bitsAt (n32 s.b) ((if four then 4 else 8) * i) (if four then 4 else 8))).units 0 = eb i)
    {z : Int} (hz : z = (lo32 s.d).toInt + ((List.range (if four then 8 else 4)).map (fun i => ea i * eb i)).sum) :
    dotOp four m s = ok32 (if bitAt m 6 then BitVec.ofInt 32 (clampInt (intRange true 32) z) else BitVec.ofInt 32 z) := by
  unfold dotOp
  dsimp only
  rw [if_pos (decide_eq_true h), foldl_add_eq_sum, hz]
  simp only [ha, hb]

/-- DOT4 of signed elements wraps its sum (R288, R289). -/
theorem dot4_signed {w : FWord} {m : Nat} (hm : m = w.md.toNat) (hfa : m % 16 = 8) (hfb : m / 16 % 4 = 2) (hlt : m < 64) (x : Src) :
    Gives (.dot4 w) x (fun v => v.toInt = Int.bmod ((lo32 x.d).toInt +
      ((List.range 4).map (fun i => signedOf 8 (n32 x.a / 2 ^ (8 * i) % 256) * signedOf 8 (n32 x.b / 2 ^ (8 * i) % 256))).sum) (2 ^ 32)) := by
  have ha : bitsAt m 2 2 = 2 := by rw [bitsAt_eq]; omega
  have hb : bitsAt m 4 2 = 2 := by rw [bitsAt_eq]; omega
  have hsat : bitAt m 6 = false := Nat.testBit_lt_two_pow (by omega)
  have helem (n i : Nat) : (elemValue 4 (bitsAt n (8 * i) 8)).units 0 = signedOf 8 (n / 2 ^ (8 * i) % 256) :=
    (units_ofInt _).trans (congrArg (signedOf 8) (bitsAt_eq n (8 * i) 8))
  have hop := dotOp_integer (four := false) (m := m) (ea := fun i => signedOf 8 (n32 x.a / 2 ^ (8 * i) % 256))
    (eb := fun i => signedOf 8 (n32 x.b / 2 ^ (8 * i) % 256)) ha.ge x (fun i => by rw [ha]; exact helem (n32 x.a) i)
    (fun i => by rw [hb]; exact helem (n32 x.b) i) rfl
  rw [hsat, if_neg Bool.false_ne_true, hm] at hop
  exact ⟨_, resultOf_of_op (i := .dot4 w) rfl hop, BitVec.toInt_ofInt _⟩

/-- DOT8 of unsigned elements clamps its sum under SAT, which no sum reaches from below (R288, R289). -/
theorem dot8_unsigned {w : FWord} {m : Nat} (hm : m = w.md.toNat) (hfa : m % 16 = 12) (hfb : m / 16 % 4 = 3) (hlo : 64 ≤ m) (hhi : m < 128) (x : Src) :
    Gives (.dot8 w) x (fun v => v.toInt = min (2 ^ 31 - 1) ((lo32 x.d).toInt +
      ((List.range 8).map (fun i => ((n32 x.a / 2 ^ (4 * i) % 16 * (n32 x.b / 2 ^ (4 * i) % 16) : Nat) : Int))).sum)) := by
  have ha : bitsAt m 2 2 = 3 := by rw [bitsAt_eq]; omega
  have hb : bitsAt m 4 2 = 3 := by rw [bitsAt_eq]; omega
  have hsat : bitAt m 6 = true := by
    rw [bitAt, Nat.testBit_eq_decide_div_mod_eq, decide_eq_true_iff]
    omega
  have helem (n i : Nat) : (elemValue 7 (bitsAt n (4 * i) 4)).units 0 = ((n / 2 ^ (4 * i) % 16 : Nat) : Int) :=
    (units_ofInt _).trans (congrArg Nat.cast ((congrArg (· % 16) (bitsAt_eq n (4 * i) 4)).trans (Nat.mod_mod _ 16)))
  have hop := dotOp_integer (four := true) (m := m) (ea := fun i => ((n32 x.a / 2 ^ (4 * i) % 16 : Nat) : Int))
    (eb := fun i => ((n32 x.b / 2 ^ (4 * i) % 16 : Nat) : Int)) (by rw [ha]; decide) x (fun i => by rw [ha]; exact helem (n32 x.a) i)
    (fun i => by rw [hb]; exact helem (n32 x.b) i) rfl
  rw [hsat, if_pos rfl, hm] at hop
  refine ⟨_, resultOf_of_op (i := .dot8 w) rfl hop, ?_⟩
  simp only [Nat.cast_mul, if_true]
  generalize hsum : ((List.range 8).map (fun i => ((n32 x.a / 2 ^ (4 * i) % 16 : Nat) : Int) * ((n32 x.b / 2 ^ (4 * i) % 16 : Nat) : Int))).sum = z
  have hz : 0 ≤ z := by
    rw [← hsum]
    refine List.sum_nonneg fun p hp => ?_
    obtain ⟨i, -, rfl⟩ := List.mem_map.mp hp
    positivity
  have hd := BitVec.le_toInt (lo32 x.d)
  exact (satSm_signed rfl _ 0).trans (max_eq_right (by omega))

/-! ## The obligation -/

/-- Settles O9: each conversion is what its operation makes of the source's value, and each dot product its sum. -/
theorem conversionAndDotResults : Obligations.ConversionAndDotResults := by
  unfold Obligations.ConversionAndDotResults
  refine fun w x m hm => ⟨fun st dt z hst hdt hs hd hz => ⟨fun hsat => ?wrap, fun hsat => ?clamp⟩,
    fun dt hst hdt hd => ⟨fun hy => ?nan, fun hy => ?inf, fun hy => ?negInf⟩,
    fun hsame => ?same, fun u hw hu h hlow hhigh => cvtw_unpack_pack hu (hm.symm.trans hw) x h hlow hhigh,
    fun bits lane hbits hlane hnf hfit hdir => ?encode, fun hfa hfb hlt => dot4_signed hm hfa hfb hlt x,
    fun hfa hfb hlo hhi => dot8_unsigned hm hfa hfb hlo hhi x⟩
  case wrap =>
    have hbits := cvtBits_of_int (v := n64 x.a) hst hdt hd hs
    rw [show bitAt m 10 = false by rw [hm]; exact hsat, if_neg Bool.false_ne_true, show intSource st (n64 x.a) = z from hz.symm] at hbits
    refine ⟨intBits dt z, ?_, intBits_mod hd z, fun h => intBits_unsigned_lt hd h z, fun h => ?_⟩
    · rw [← hbits, hm]
      rfl
    · rw [intBits_toInt hd]
      exact tyWrap_signed hd h z
  case clamp =>
    have hbits := cvtBits_of_int (v := n64 x.a) hst hdt hd hs
    rw [show bitAt m 10 = true by rw [hm]; exact hsat, if_pos rfl, show intSource st (n64 x.a) = z from hz.symm] at hbits
    have hclamp := intBits_clamp hd z
    rw [← hbits, hm] at hclamp
    refine ⟨_, rfl, fun h => hclamp.trans ?_, fun h => hclamp.trans ?_⟩
    · simp [intRange, h]
    · simp [intRange, h]
  case nan =>
    have hbits := cvtBits_of_nan hst.symm hdt hd (rfl : (10 : Nat) = 10) (v := n64 x.a) (by rw [n64_mod, hy])
    have hzero : intBits dt 0 = 0 := by rw [intBits_eq hd]; simp [tyWrap]
    exact congrArg (fun v => some (TCap.mk v false)) ((congrArg (cvtBits · (n64 x.a)) hm.symm).trans (hbits.trans hzero))
  case inf =>
    have hbits := cvtBits_of_inf hst.symm hdt hd (rfl : (10 : Nat) = 10) (v := n64 x.a) (neg := false) (by rw [n64_mod, hy]; rfl)
    have hend := intBits_end hd false
    rw [← hbits, hm] at hend
    refine ⟨_, rfl, hend.trans ?_⟩
    cases h : tySigned dt <;> simp [intRange]
  case negInf =>
    have hbits := cvtBits_of_inf hst.symm hdt hd (rfl : (10 : Nat) = 10) (v := n64 x.a) (neg := true) (by rw [n64_mod, hy]; rfl)
    have hend := intBits_end hd true
    rw [← hbits, hm] at hend
    refine ⟨_, rfl, hend.trans ?_⟩
    cases h : tySigned dt <;> simp [intRange]
  case same =>
    have hbits := cvtBits_same hsame (n64 x.a)
    rw [n64_mod, hm] at hbits
    refine ⟨_, congrArg (fun v => some (TCap.mk v false)) (hbits.trans ?_), rfl⟩
    split
    · rfl
    · exact (BitVec.ofNat_toNat 128 (lo32 x.a))
  case encode =>
    have hnf' : bitsAt m 2 3 = m / 4 % 8 := bitsAt_eq m 2 3
    have hlane' : bitsAt m 10 2 = lane := by
      have := w.md.isLt
      rw [bitsAt_eq]
      omega
    obtain ⟨c, c', hop⟩ := cvtnOp_encode (m := m) (by rw [hm]; exact hdir) x
    rw [hnf', ← hbits, hlane', hm] at hop
    refine ⟨_, resultOf_of_op (i := .cvtn w) rfl hop, fun i hi hne hne' => ?_⟩
    rw [BitVec.toNat_ofNat, word_slot hi, putSlot_slot hne', putSlot_slot hne]

end Sys2Proof.Machine
end

section
/-! O20: taking a trap. What a handler's entry writes is four k registers, and the rest of the rank stays. -/

namespace Sys2Proof.Machine

/-- The entry to a handler writes k60 to k63 and no other k register. -/
theorem trapWords_kreg (r : Rank) (age : Nat) (code : TrapCode) (tpc : BitVec 48) (detail : DWord) :
    ((trapWords r age code tpc detail).kreg 60).val = BitVec.ofNat 32 code.num ∧
    ((trapWords r age code tpc detail).kreg 61).val = tpc.extractLsb' 0 32 ∧
    ((trapWords r age code tpc detail).kreg 62).val = (tpc.extractLsb' 32 16).setWidth 32 ∧
    ((trapWords r age code tpc detail).kreg 63).val = detail.extractLsb' 0 32 ∧
    ∀ n, n < 60 ∨ 63 < n → (trapWords r age code tpc detail).kreg n = r.kreg n := by
  unfold trapWords
  refine ⟨?_, ?_, ?_, writeK_val _ _ _ _, fun n hn => ?_⟩
  · rw [writeK_ne _ _ _ _ _ (by decide), writeK_ne _ _ _ _ _ (by decide), writeK_ne _ _ _ _ _ (by decide), writeK_val]
  · rw [writeK_ne _ _ _ _ _ (by decide), writeK_ne _ _ _ _ _ (by decide), writeK_val]
  · rw [writeK_ne _ _ _ _ _ (by decide), writeK_val]
  · rw [writeK_ne _ _ _ _ _ (by omega), writeK_ne _ _ _ _ _ (by omega), writeK_ne _ _ _ _ _ (by omega), writeK_ne _ _ _ _ _ (by omega)]

theorem writeK_threads (r : Rank) (a n : Nat) (v : Word) : (r.writeK a n v).threads = r.threads := rfl
theorem writeK_splits (r : Rank) (a n : Nat) (v : Word) : (r.writeK a n v).splits = r.splits := rfl

/-- The entry to a handler leaves the threads and the splits of the rank. -/
theorem trapWords_frame (r : Rank) (age : Nat) (code : TrapCode) (tpc : BitVec 48) (detail : DWord) :
    (trapWords r age code tpc detail).threads = r.threads ∧ (trapWords r age code tpc detail).splits = r.splits := by
  unfold trapWords
  simp only [writeK_threads, writeK_splits, and_self]

/-- A rank and a split put in the focus one after the other. -/
theorem withRank_putSplit (f : Foc) (r : Rank) (x : Split) :
    ({ f with r := r } : Foc).putSplit x = ({ f.withRank r with x := x } : Foc).withRank (r.putSplit x) := rfl

/-- Settles O20: a delivery enters the handler, or fails the grid when there is none or one runs already. -/
theorem trapEntry : Obligations.TrapEntry := by
  unfold Obligations.TrapEntry
  intro f tr w
  refine ⟨fun hh he => ?_, fun hh he => ?_, fun h hh hx => ?_, deliver_mem f tr w⟩
  · obtain ⟨h60, h61, h62, h63, hk⟩ := trapWords_kreg f.r f.x.age tr.code (trapPcOf tr.code f.x.pc) tr.detail
    obtain ⟨hth, hsp⟩ := trapWords_frame f.r f.x.age tr.code (trapPcOf tr.code f.x.pc) tr.detail
    refine ⟨trapWords f.r f.x.age tr.code (trapPcOf tr.code f.x.pc) tr.detail,
      { code := tr.code, trapPc := trapPcOf tr.code f.x.pc, pc := f.x.pc, resume := w.pos, mask := f.x.mask,
        actives := maskOf w.actives, handled := maskOf w.handled, given := f.x.given, record := f.x.record },
      { f.x with mask := maskOf w.handled, pc := BitVec.ofNat 48 (f.s.traph f.t.grid false), resume := 0, given := [], record := none,
                 wait := .none, inHandler := true, notBefore := max (f.s.rod f.t.pair f.r.rod).doneAt (f.s.gt + 1) + 2 }, ?_, h60, h61, h62, h63, hth, hsp, hk,
      rfl, rfl, rfl, rfl, rfl, rfl, rfl, rfl, rfl, rfl, rfl, rfl, rfl, rfl, rfl, rfl, rfl⟩
    unfold Foc.deliver
    rw [hh]
    dsimp only
    rw [if_neg he, withRank_putSplit]
  · rw [Foc.deliver, hh]
    exact if_pos he
  · rw [Foc.deliver, hh]
    exact if_pos hx

end Sys2Proof.Machine
end

section
/-! O39: leases and the simple matrix instructions. Each issues, and acts at once on its team, its leases or its abacus. -/

namespace Sys2Proof.Machine

@[simp] theorem endLease_retimed (s : State) (t : Team) (e : Nat) (ra : Tab Nat) : s.endLease (t.retimed e ra) = s.endLease t := by
  unfold State.endLease
  rw [retimed_pair, retimed_uid]

@[simp] theorem accept_retimed (s : State) (t : Team) (e : Nat) (ra : Tab Nat) (o : MatOp) : s.accept (t.retimed e ra) o = s.accept t o := rfl

@[simp] theorem matOp_retimed (t : Team) (e : Nat) (ra : Tab Nat) (k : MatKind) (word : DWord) (p : Bool) (n : Nat) :
    MatOp.of (t.retimed e ra) k word p n = MatOp.of t k word p n := rfl

@[simp] theorem accept_hole (s : State) (t : Team) (o : MatOp) : (s.accept t o).hole = s.hole := rfl

section
variable {s : State} {t : Team} {w : FWord} (h : CtlIssues s t) (hg : t.guard w.g w.gn)
include h hg

section
variable (hok : (plainMod w 512 && fldOk .ctl .none (fldD w) && fldOk .ctl .none (fldA w) && fldOk .ctl .none (fldB w)) = true)
include hok

/-- MACQ of the kind that the team has leases of keeps them (R341). -/
theorem macq_same_kind (hp : w.md.getLsbD 8 = t.leaseP) :
    CtlRuns (.macq w) s t (fun s u => s.ctlDone { u with quantum := w.md.toNat % 256 + 1 }) := by
  refine ctl_acts h rfl rfl hok hg (fun now last e ra => ?_) (fun _ _ _ _ => h.whole)
  have hp' : w.md.getLsbD 8 = (t.retimed e ra).leaseP := hp
  dsimp only
  rw [if_pos hp', if_pos hp', hp']

/-- MACQ of the other kind ends the leases and their count (R341). -/
theorem macq_other_kind (hp : w.md.getLsbD 8 ≠ t.leaseP) :
    CtlRuns (.macq w) s t (fun s u => (s.endLease t).ctlDone
      { u with quantum := w.md.toNat % 256 + 1, leaseP := w.md.getLsbD 8, lc := 0 }) := by
  refine ctl_acts h rfl rfl hok hg (fun now last e ra => ?_) (fun _ _ _ _ => by rw [ctlDone_hole, endLease_hole]; exact h.whole)
  have hp' : w.md.getLsbD 8 ≠ (t.retimed e ra).leaseP := hp
  dsimp only
  rw [if_neg hp', if_neg hp', endLease_retimed]

end

theorem mrel_runs (hok : (plainMod w 1 && fldOk .ctl .none (fldD w) && fldOk .ctl .none (fldA w) && fldOk .ctl .none (fldB w)) = true) :
    CtlRuns (.mrel w) s t (fun s u => (s.endLease t).ctlDone { u with lc := 0 }) := by
  refine ctl_acts h rfl rfl hok hg (fun now last e ra => ?_) (fun _ _ _ _ => by rw [ctlDone_hole, endLease_hole]; exact h.whole)
  rw [endLease_retimed]

theorem mzero_runs (hok : (plainMod w 2 && fldOk .ctl .tile (fldD w) && s.hasTile t (tileOf (fldD w)) && fldOk .ctl .none (fldA w) &&
      fldOk .ctl .none (fldB w)) = true) :
    CtlRuns (.mzero w) s t (fun s u => (s.accept t (MatOp.of t .mzero (fToWord 0xC3 w) (w.md.getLsbD 0) (tileOf (fldD w)))).ctlDone
      (u.putTile (tileOf (fldD w)) ((u.tile (tileOf (fldD w))).mark (w.md.getLsbD 0) .none))) := by
  refine ctl_acts h rfl (by unfold mzeroCtl; rfl) hok hg (fun now last e ra => ?_) (fun _ _ _ _ => h.whole)
  dsimp only
  rw [matOp_retimed, accept_retimed]

theorem amaxstep_runs (hok : (plainMod w 1 && fldOk .ctl .none (fldD w) && fldOk .ctl .wide (fldA w) && fldOk .ctl .none (fldB w)) = true) :
    CtlRuns (.amaxstep w) s t (fun s u => (s.accept t { MatOp.of t .amaxstep (fToWord 0xC9 w) false 0 with
      slot := some ((t.ctl.getS w.a.toNat).toNat % 256) }).ctlDone u) := by
  refine ctl_acts h rfl rfl hok hg (fun now last e ra => ?_) (fun _ _ _ _ => h.whole)
  dsimp only
  rw [matOp_retimed, accept_retimed, retimed_getS]

end

/-- A word without a modifier is below every limit of one. -/
theorem plainMod_zero {w : FWord} (h : w.md = 0) : plainMod w 1 = true := by simp [plainMod, h]

/-- Settles O39: each instruction past its checks acts on its team's leases, its tile or its abacus, and the vector stream has none of them. -/
theorem leasesAndSimpleMatrixInstructions : Obligations.LeasesAndSimpleMatrixInstructions := by
  unfold Obligations.LeasesAndSimpleMatrixInstructions
  refine ⟨fun s t w h hg => ⟨fun hm hd ha hb => ?_, fun hm hd ha hb => ?_, fun hm hd ht ha hb => ?_, fun hm hd ha hb => ?_, fun l hl => ?_⟩,
    fun s f w h => ⟨notInVector h rfl, notInVector h rfl, notInVector h rfl, notInVector h rfl, notInVector h rfl, notInVector h rfl,
      notInVector h rfl, notInVector h rfl, notInVector h rfl⟩⟩
  · have hok : (plainMod w 512 && fldOk .ctl .none (fldD w) && fldOk .ctl .none (fldA w) && fldOk .ctl .none (fldB w)) = true := by
      simp [hm, hd, ha, hb]
    exact ⟨macq_same_kind h hg hok, macq_other_kind h hg hok⟩
  · exact mrel_runs h hg (by simp [plainMod_zero hm, hd, ha, hb])
  · exact mzero_runs h hg (by simp [hm, hd, ht, ha, hb])
  · exact amaxstep_runs h hg (by simp [plainMod_zero hm, hd, ha, hb])
  · exact endLease_holder s t (by simp at hl; omega)

end Sys2Proof.Machine
end

section
/-! O40: matrix operations at issue. Each issues, lands its thread's own stores, finds its checks passed, and joins its abacus. -/

namespace Sys2Proof.Machine

/-- An MMA whose checks pass joins its abacus, and its lease counts it (R341, R345). -/
theorem mmaIssue_free {o : MatOp} {x : Option IdxList} {hi : DWord} {s : State} {t : Team} {rows : List Nat}
    (hr : s.rowsNamed t o.p x = some rows) (hf : MmaFree { o with rowsA := rows } x hi s t) :
    mmaIssue o x hi s t = s.accepted t { o with rowsA := rows } := by
  obtain ⟨-, htrap, hlc, hfill⟩ := hf
  unfold mmaIssue
  dsimp only
  rw [hr]
  simp only [Option.getD_some]
  rw [htrap]
  cases x <;> simp only [if_neg hlc, hfill, State.accepted]

theorem accepted_hole (s : State) (t : Team) (o : MatOp) : (s.accepted t o).hole = s.hole := by
  unfold State.accepted
  rw [ctlDone_hole]
  split
  · rw [endLease_hole, accept_hole]
  · rfl

/-- A tile store to plain memory that its checks let through joins its abacus with its pieces (R345, R347, R348). -/
theorem storeIssue_free {o : MatOp} {c : TCap} {pitch : Nat} {x : Option IdxList} {hi : DWord} {s : State} {t : Team} {rows : List Nat}
    (hf : StoreFree o c x rows (rowAddrs c pitch rows) s t) (hslot : o.slot = none := by rfl) :
    storeIssue o c pitch x hi s t = ((s.storePlan t o c (rowAddrs c pitch rows)).1.accept t
      { o with rows := okOr [] (s.storePlan t o c (rowAddrs c pitch rows)).2 }).ctlDone t := by
  obtain ⟨hr, hfmt, htrap, ⟨l, hl⟩, -⟩ := hf
  unfold State.storePlan at hl ⊢
  unfold storeIssue
  dsimp only
  rw [hr]
  simp only [Option.getD_some]
  rw [htrap]
  generalize State.tileRows _ _ _ _ _ _ = plan at hl ⊢
  obtain ⟨y, res⟩ := plan
  subst hl
  cases x <;> simp only [if_pos hfmt, hslot, okOr] <;> rfl

section
variable {s : State} {t : Team} {w : FWord} (h : CtlIssues s t) (hg : t.guard w.g w.gn)
include h hg

/-- MMA and MMAG past their checks (R343, R345). -/
theorem mmaCtl_runs {i : Instr} {op : BitVec 8} {gather : Bool} {rows : List Nat} {x : Option IdxList}
    (hex : ∀ s, exec i s = answer (byStream s (notInVec op w) (mmaCtl op gather w)))
    (hok : (plainMod w 512 && fldOk .ctl .tile (fldD w) && s.hasTile t (tileOf (fldD w)) && fldOk .ctl .spair (fldA w) &&
      fldOk .ctl .spair (fldB w)) = true)
    (ha : mapOk (mapAt t.ctl w.a.toNat) gather = true) (hb : mapOk (mapAt t.ctl w.b.toNat) false = true)
    (hx : (if gather then some (mmaList w t) else none) = x)
    (hf : ∀ now last e ra, MmaFree (mmaOp op w t rows) x (hiOf (fToWord op w)) ((s.afterCtl t now last).landCtl t.uid) (t.retimed e ra) ∧
      ((s.afterCtl t now last).landCtl t.uid).hole = none) :
    CtlRuns i s t (fun s u => (s.landCtl t.uid).accepted u (mmaOp op w t rows)) := by
  subst hx
  refine ctl_acts h (hex s) (by unfold mmaCtl; rfl) hok hg (fun now last e ra => ?_) (fun now last e ra => ?_)
  · dsimp only
    rw [ha, hb]
    obtain ⟨hfree, -⟩ := hf now last e ra
    exact mmaIssue_free hfree.1 hfree
  · rw [accepted_hole]
    exact (hf now last e ra).2

/-- MLOAD past its checks clears its tile's marks and joins its abacus (R345, R346). -/
theorem mload_runs {c : TCap} {ty len : Nat} {p : Bool} {addrs : List Nat} (hc : c = t.ctl.getC (w.a.toNat - 64))
    (hty : ty = bitsAt w.md.toNat 1 2) (hp : p = w.md.getLsbD 0) (hlen : len = 16 * tileBytes ty)
    (haddrs : addrs = rowAddrs c ((t.ctl.getS w.b.toNat).toNat % 2 ^ 32) (List.range (rowsOf p)))
    (hok : (plainMod w 8 && decide (bitsAt w.md.toNat 1 2 ≠ 3) && fldOk .ctl .tile (fldD w) && s.hasTile t (tileOf (fldD w)) &&
      fldOk .ctl .quad (fldA w) && fldOk .ctl .wide (fldB w)) = true)
    (hf : ∀ now last e ra, ∃ x rows, ((s.afterCtl t now last).landCtl t.uid).rowCaps (t.retimed e ra) c permLD 1 len addrs = none ∧
      ((s.afterCtl t now last).landCtl t.uid).rowLocks (t.retimed e ra) c len false addrs = none ∧
      ((s.afterCtl t now last).landCtl t.uid).tileRows (t.retimed e ra) c needR len addrs = (x, .ok rows) ∧ x.hole = none) :
    CtlRuns (.mload w) s t (fun s u =>
      (((s.landCtl t.uid).tileRows u c needR len addrs).1.accept u
        { MatOp.of t .mload (fToWord 0xC6 w) p (tileOf (fldD w)) with
          ty := ty
          rows := okOr [] ((s.landCtl t.uid).tileRows u c needR len addrs).2
          rowsA := addrs }).ctlDone (u.putTile (tileOf (fldD w)) ((t.tile (tileOf (fldD w))).mark p .none))) := by
  subst hc hty hp hlen haddrs
  refine ctl_acts h rfl (by unfold mloadCtl; rfl) hok hg (fun now last e ra => ?_) (fun now last e ra => ?_)
  · obtain ⟨x, rows, hcaps, hlocks, hrows, -⟩ := hf now last e ra
    dsimp only
    simp only [retimed_uid, retimed_getC, retimed_getS]
    rw [hcaps, hlocks, hrows]
    rfl
  · obtain ⟨x, rows, -, -, hrows, hx⟩ := hf now last e ra
    rw [ctlDone_hole, accept_hole, hrows]
    exact hx

/-- MSTORE and MSTOREG past their checks join their abacus (R345, R347, R348). -/
theorem mstoreCtl_runs {i : Instr} {op : BitVec 8} {gather acc : Bool} {c : TCap} {x : Option IdxList} {rows addrs : List Nat} {o : MatOp}
    (hex : ∀ s, exec i s = answer (byStream s (notInVec op w) (mstoreCtl op gather w)))
    (hacc : acc = (gather && w.md.getLsbD 6)) (hx : x = if gather then some (storeList w t) else none)
    (hc : c = t.ctl.getC (w.d.toNat - 64)) (haddrs : addrs = storeRows w t rows) (ho : o = storeOp op w t acc)
    (hok : (plainMod w (if gather then 128 else 64) && decide (bitsAt w.md.toNat 4 2 ≠ 3) && !(acc && (w.md.getLsbD 3 || bitsAt w.md.toNat 4 2 != 0)) &&
      fldOk .ctl .quad (fldD w) && fldOk .ctl .tile (fldA w) && s.hasTile t (tileOf (fldA w)) && sRun (fldB w) (if gather then 2 else 1)) = true)
    (hq : w.md.getLsbD 3 = false)
    (hv : ¬ (bitsAt (t.ctl.getS w.b.toNat).toNat 40 24 ≠ 0 ∨ (gather ∧ 2 ≤ bitsAt (t.ctl.getS (w.b.toNat + 1)).toNat 24 2)))
    (hf : ∀ now last e ra, StoreFree o c x rows addrs (s.afterCtl t now last) (t.retimed e ra)) :
    CtlRuns i s t (fun s u => ((s.storePlan u o c addrs).1.accept u { o with rows := okOr [] (s.storePlan u o c addrs).2 }).ctlDone u) := by
  subst hacc hx hc haddrs ho
  refine ctl_acts h (hex s) (by unfold mstoreCtl; rfl) hok hg (fun now last e ra => ?_) (fun now last e ra => ?_)
  · dsimp only
    simp only [retimed_getC, retimed_getS, hq]
    rw [if_neg hv]
    exact storeIssue_free (hf now last e ra)
  · obtain ⟨-, -, -, -, hx⟩ := hf now last e ra
    rw [ctlDone_hole, accept_hole]
    exact hx

end

/-- Settles O40: each instruction past its checks joins the abacus of its team. -/
theorem matrixOperationsAreAccepted : Obligations.MatrixOperationsAreAccepted := by
  unfold Obligations.MatrixOperationsAreAccepted
  intro s t w h hg
  refine ⟨fun hm hd ht ha hb hmb => ?_, fun c ty p len addrs hc hty hp hlen haddrs hm hty3 hd ht ha hb hf => ?_,
    fun i op c x acc rows addrs o hi hc haddrs ho hq hty hacc hd ha ht hv hf => ?_⟩
  · have hok : (plainMod w 512 && fldOk .ctl .tile (fldD w) && s.hasTile t (tileOf (fldD w)) && fldOk .ctl .spair (fldA w) &&
        fldOk .ctl .spair (fldB w)) = true := by simp [hm, hd, ht, ha, hb]
    refine ⟨fun o ho hma hf => ?_, fun rows o ho hma hf => ?_⟩
    · subst ho
      exact mmaCtl_runs (gather := false) h hg (fun _ => rfl) hok hma hmb rfl hf
    · subst ho
      exact mmaCtl_runs (gather := true) h hg (fun _ => rfl) hok hma hmb rfl hf
  · have hty' : ty = bitsAt w.md.toNat 1 2 := hty.trans (bitsAt_eq _ 1 2).symm
    refine mload_runs h hg hc hty' hp hlen haddrs ?_ hf
    simp [hm, ← hty', hty3, hd, ht, ha, hb]
  · have hv' : bitsAt (t.ctl.getS w.b.toNat).toNat 40 24 = 0 := by rw [bitsAt_eq, hv, Nat.zero_mod]
    have hty' : bitsAt w.md.toNat 4 2 = w.md.toNat / 16 % 4 := bitsAt_eq _ _ _
    rcases hi with ⟨rfl, rfl, hm, rfl, rfl, hb⟩ | ⟨rfl, rfl, hm, rfl, rfl, hb, hx⟩
    · exact mstoreCtl_runs (gather := false) h hg (fun _ => rfl) rfl rfl hc haddrs ho (by simp [hm, hty', hty, hd, ha, ht, hb]) hq
        (by simp [hv']) hf
    · refine mstoreCtl_runs (gather := true) h hg (fun _ => rfl) rfl rfl hc haddrs ho ?_ hq ?_ hf
      · have hacc' : (w.md.getLsbD 6 && (w.md.getLsbD 3 || bitsAt w.md.toNat 4 2 != 0)) = false := by
          rw [hq, hty']
          cases h6 : w.md.getLsbD 6 with
          | false => rfl
          | true => simp [hacc h6]
        simp only [Bool.true_and, if_true]
        rw [hacc']
        simp [hm, hty', hty, hd, ha, ht, hb]
      · rw [bitsAt_eq _ 24 2]
        simpa [hv'] using hx

end Sys2Proof.Machine
end

section
/-! O41: the abacus. A chunk reaches each element of its tile once, so that each takes one rounded sum; the events of an abacus are equations of
the function that each one is. -/

namespace Sys2Proof.Machine

/-! ## Elements of a tile -/

theorem tile_get_put (v : Tile) (r c i j : Nat) (x : Word) (hc : c < 16) (hj : j < 16) :
    (v.put r c x).get i j = if i = r ∧ j = c then x else v.get i j := by
  have hkey : ∀ k n : Nat, 16 * k + j = 16 * n + c ↔ k = n ∧ j = c := by omega
  unfold Tile.put Tile.get
  by_cases hr : r < 16 <;> by_cases hi : i < 16
  · simp only [hr, hi, if_true, tabGet_tabPut, hkey]
  · simp only [hr, hi, if_true, if_false]
    rw [if_neg (by omega)]
  · simp only [hr, hi, if_true, if_false]
    rw [if_neg (by omega)]
  · simp only [hr, hi, if_false, tabGet_tabPut, hkey]
    congr 1
    exact propext ⟨fun h => ⟨by omega, h.2⟩, fun h => ⟨by omega, h.2⟩⟩

/-- One row of a chunk added to a row of a tile: each column takes its own product (R344). -/
def addChunkRow (b : List (List Fv)) (v : Tile) (ra : List Fv × Nat) : Tile :=
  b.zipIdx.foldl (fun v rb => v.put ra.2 rb.2 (BitVec.ofNat 32 (fpSum fp32 .rne [f32 (v.get ra.2 rb.2), fvSum .rne (List.zipWith Fv.mul ra.1 rb.1)]))) v

/-- A chunk is added row by row (R344). -/
theorem addChunk_rows (v : Tile) (a b : List (List Fv)) : addChunk v a b = a.zipIdx.foldl (addChunkRow b) v := rfl

/-- Writes along a row, each from what stood at its own place, reach each place once. -/
theorem foldl_put_row (f : Word → List Fv → Word) {r i j : Nat} (hj : j < 16) :
    ∀ (l : List (List Fv)) (k : Nat) (v : Tile), k + l.length ≤ 16 →
      ((l.zipIdx k).foldl (fun v rb => v.put r rb.2 (f (v.get r rb.2) rb.1)) v).get i j =
        if i = r ∧ k ≤ j ∧ j < k + l.length then f (v.get i j) (l.getD (j - k) []) else v.get i j
  | [], k, v, _ => by rw [if_neg (by simp), List.zipIdx_nil, List.foldl_nil]
  | x :: l, k, v, hk => by
    simp only [List.length_cons] at hk ⊢
    rw [List.zipIdx_cons, List.foldl_cons, foldl_put_row f hj l (k + 1) _ (by omega), tile_get_put _ _ _ _ _ _ (by omega) hj]
    by_cases hi : i = r
    · subst hi
      rcases Nat.lt_trichotomy j k with hjk | rfl | hjk
      · simp [show ¬ k ≤ j by omega, show ¬ k + 1 ≤ j by omega, show j ≠ k by omega]
      · simp
      · obtain ⟨n, rfl⟩ : ∃ n, j = k + 1 + n := ⟨j - (k + 1), by omega⟩
        have hne : k + 1 + n ≠ k := by omega
        have hsub : k + 1 + n - k = n + 1 := by omega
        simp only [hne, and_false, if_false, Nat.le_add_right, true_and, hsub, Nat.add_sub_cancel_left, List.getD_cons_succ,
          show k ≤ k + 1 + n by omega]
        congr 1
        exact propext ⟨fun h => by omega, fun h => by omega⟩
    · simp [hi]

/-- A row of a chunk changes its own row of the tile, in the columns that the other operand has. -/
theorem addChunkRow_get (v : Tile) (b : List (List Fv)) (x : List Fv) (r i j : Nat) (hb : b.length ≤ 16) (hj : j < 16) :
    (addChunkRow b v (x, r)).get i j = if i = r ∧ j < b.length
      then BitVec.ofNat 32 (fpSum fp32 .rne [f32 (v.get i j), fvSum .rne (List.zipWith Fv.mul x (b.getD j []))]) else v.get i j := by
  unfold addChunkRow
  rw [foldl_put_row (fun w y => BitVec.ofNat 32 (fpSum fp32 .rne [f32 w, fvSum .rne (List.zipWith Fv.mul x y)])) hj b 0 v (by omega)]
  simp

/-- The rows of a chunk, from row k on, reach each element once. -/
theorem foldl_addChunkRow_get (b : List (List Fv)) (hb : b.length ≤ 16) {i j : Nat} (hj : j < 16) :
    ∀ (l : List (List Fv)) (k : Nat) (v : Tile),
      ((l.zipIdx k).foldl (addChunkRow b) v).get i j = if k ≤ i ∧ i < k + l.length ∧ j < b.length
        then BitVec.ofNat 32 (fpSum fp32 .rne [f32 (v.get i j), fvSum .rne (List.zipWith Fv.mul (l.getD (i - k) []) (b.getD j []))])
        else v.get i j
  | [], k, v => by rw [if_neg (by simp; omega), List.zipIdx_nil, List.foldl_nil]
  | x :: l, k, v => by
    rw [List.zipIdx_cons, List.foldl_cons, foldl_addChunkRow_get b hb hj l (k + 1), addChunkRow_get _ _ _ _ _ _ hb hj]
    simp only [List.length_cons]
    rcases Nat.lt_trichotomy i k with hik | rfl | hik
    · simp [show ¬ k ≤ i by omega, show ¬ k + 1 ≤ i by omega, show i ≠ k by omega]
    · simp
    · obtain ⟨n, rfl⟩ : ∃ n, i = k + 1 + n := ⟨i - (k + 1), by omega⟩
      have hne : k + 1 + n ≠ k := by omega
      have hsub : k + 1 + n - k = n + 1 := by omega
      simp only [hne, false_and, if_false, Nat.le_add_right, true_and, hsub, Nat.add_sub_cancel_left, List.getD_cons_succ,
        show k ≤ k + 1 + n by omega]
      congr 1
      exact propext ⟨fun h => ⟨by omega, h.2⟩, fun h => ⟨by omega, h.2⟩⟩

/-- Each element of a tile takes the rounded sum of its row and column (R344). -/
theorem addChunk_get (v : Tile) (a b : List (List Fv)) (i j : Nat) (hb : b.length ≤ 16) (hj : j < 16) :
    (addChunk v a b).get i j = if i < a.length ∧ j < b.length
      then BitVec.ofNat 32 (fpSum fp32 .rne [f32 (v.get i j), fvSum .rne (List.zipWith Fv.mul (a.getD i []) (b.getD j []))]) else v.get i j := by
  rw [addChunk_rows, foldl_addChunkRow_get b hb hj a 0 v]
  simp

/-! ## Chunks -/

theorem putAbacus_hole (s : State) (pair l : Nat) (a : Abacus) : (s.putAbacus pair l a).hole = s.hole := rfl
theorem putAbacus_team (s : State) (pair l : Nat) (a : Abacus) (u : Nat) : (s.putAbacus pair l a).team u = s.team u := rfl
theorem retire_hole (s : State) (pair layer i : Nat) (next : Option MatOp) : (s.retire pair layer i next).hole = s.hole := rfl

theorem drawHeads_hole (s : State) (pair layer : Nat) : (s.drawHeads pair layer).hole = s.hole := by
  refine foldl_keeps (m := State.hole) (fun u e => ?_) _ _
  dsimp only
  split
  · rfl
  · split <;> rfl

/-- A source that is no queue draws no words (R342). -/
theorem drawWords_no_queue {m : BitVec 128} (hm : mapKind m ≠ 3) (t : Team) (rows : Nat) (buf : List DWord) : drawWords t m rows buf = (t, buf) :=
  if_pos hm

/-- A chunk of an MMA whose operands' rows are there is added to its tile, and the operation goes on or is done (R344, R345). -/
theorem mmaChunk_rows {s : State} {layer i : Nat} {t : Team} {o : MatOp} {a b : List (List Fv)} (hA : mapKind o.mapA ≠ 3) (hB : mapKind o.mapB ≠ 3)
    (ha : s.operand t o.mapA o.rowsA o.next o.bufA = .rows a) (hb : s.operand t o.mapB (List.range 16) o.next o.bufB = .rows b) :
    s.mmaChunk layer i t o = (s.putTeam (t.putTile o.tile (addChunk (t.tile o.tile) a b))).retire t.pair layer i
      (if o.next + 1 < o.nk then some { o with next := o.next + 1, bufA := [], bufB := [] } else none) := by
  unfold State.mmaChunk
  rw [drawWords_no_queue hA]
  dsimp only
  rw [drawWords_no_queue hB]
  dsimp only
  rw [ha, hb]

section
variable {s : State} {pair layer : Nat} (h : s.hole = none) (hl : layer < 2)
include hl

/-- What an abacus does next, as an event. -/
theorem exec_abacusChunk {u : State} (hu : s.abacusChunk pair layer = u) (hh : u.hole = none) : exec (.abacusChunk pair layer) s = .next u := by
  refine exec_next (u := s.abacusChunk pair (layer % 2)) rfl ?_ hh
  rw [Nat.mod_eq_of_lt hl, hu]

include h

/-- With no operation ready an abacus only draws response words (R342). -/
theorem abacusChunk_draws (hn : s.nextOp pair layer = none) : exec (.abacusChunk pair layer) s = .next (s.drawHeads pair layer) := by
  refine exec_abacusChunk hl ?_ ((drawHeads_hole _ _ _).trans h)
  unfold State.abacusChunk
  rw [hn]

section
variable {o : MatOp} {i : Nat} {t : Team} (hn : s.nextOp pair layer = some (o, i)) (ht : s.team o.team = some t)
include hn ht

theorem abacusChunk_zeroes (hk : o.kind = .mzero) : exec (.abacusChunk pair layer) s = .next ((s.putTeam (t.putTile o.tile
    { upper := { (t.tile o.tile).upper with elems := [] }, lower := if o.p then { (t.tile o.tile).lower with elems := [] } else (t.tile o.tile).lower })).retire
      pair layer i none) := by
  refine exec_abacusChunk hl ?_ h
  unfold State.abacusChunk
  simp only [hn, ht, hk]

/-- A chunk is due 4 cycles after the last (R344). -/
theorem abacusChunk_early (hk : o.kind = .mma) (hgt : s.gt < (s.abacus pair layer).last + 4) : exec (.abacusChunk pair layer) s = .next s := by
  refine exec_abacusChunk hl ?_ h
  unfold State.abacusChunk
  simp only [hn, ht, hk, if_pos hgt]

theorem abacusChunk_adds {a b : List (List Fv)} (hk : o.kind = .mma) (hA : mapKind o.mapA ≠ 3) (hB : mapKind o.mapB ≠ 3)
    (ha : s.operand t o.mapA o.rowsA o.next o.bufA = .rows a) (hb : s.operand t o.mapB (List.range 16) o.next o.bufB = .rows b) (hp : t.pair = pair)
    (hgt : (s.abacus pair layer).last + 4 ≤ s.gt) :
    exec (.abacusChunk pair layer) s = .next ((s.putTeam (t.putTile o.tile (addChunk (t.tile o.tile) a b))).retire pair layer i
      (if o.next + 1 < o.nk then some { o with next := o.next + 1, bufA := [], bufB := [] } else none)) := by
  refine exec_abacusChunk hl ?_ h
  rw [← hp] at hgt ⊢
  rw [← mmaChunk_rows hA hB ha hb, hp]
  rw [hp] at hgt
  unfold State.abacusChunk
  simp only [hn, ht, hk, if_neg (Nat.not_lt.mpr hgt)]

end
end

/-! ## Hangs -/

/-- An abacus whose operands have been ready for less than 65,536 cycles is not hung (R386). -/
theorem hungOp_early {s : State} {pair layer r : Nat} (hr : (s.abacus pair layer).ready = some r) (hgt : s.gt < r + 65536) :
    s.hungOp pair layer = none := by
  unfold State.hungOp
  rw [hr]
  exact if_neg (Nat.not_le.mpr hgt)

/-- An abacus that is reset: no lease, no operation, none ready (R386). -/
def State.resetAbacus (s : State) (pair l : Nat) : State := s.putAbacus pair l { s.abacus pair l with holder := none, ops := [], ready := none }

/-- A P lease ends on the abacus that is not reset as well (R386). -/
def State.endHeld (s : State) (pair : Nat) (hit : Nat → Bool) (holders : List Nat) (l : Nat) : State :=
  if !hit l && (match (s.abacus pair l).holder with | some u => holders.any (fun h => h == u) | none => false)
  then s.putAbacus pair l { s.abacus pair l with holder := none } else s

theorem endHeld_hole (s : State) (pair : Nat) (hit : Nat → Bool) (holders : List Nat) (l : Nat) : (s.endHeld pair hit holders l).hole = s.hole := by
  unfold State.endHeld
  split_ifs <;> rfl

theorem endHeld_hit {s : State} {pair : Nat} {hit : Nat → Bool} {holders : List Nat} {m : Nat} (hm : hit m = true) (l : Nat) :
    (s.endHeld pair hit holders l).abacus pair m = s.abacus pair m := by
  unfold State.endHeld
  split_ifs with hc
  · rw [putAbacus_abacus, if_neg]
    rintro rfl
    simp [hm] at hc
  · rfl

/-- A reset of the abaci of some layers leaves them without lease and operations (R386). -/
theorem resets_abacus {pair m : Nat} (layers : List Nat) (s : State) (hm : m ∈ layers) :
    ((layers.foldl (fun s l => s.resetAbacus pair l) s).abacus pair m).ops = [] ∧
      ((layers.foldl (fun s l => s.resetAbacus pair l) s).abacus pair m).holder = none := by
  have keeps : ∀ (layers : List Nat) (s : State), (s.abacus pair m).ops = [] ∧ (s.abacus pair m).holder = none →
      ((layers.foldl (fun s l => s.resetAbacus pair l) s).abacus pair m).ops = [] ∧
        ((layers.foldl (fun s l => s.resetAbacus pair l) s).abacus pair m).holder = none := by
    intro layers
    induction layers with
    | nil => exact fun s h => h
    | cons l layers ih =>
      refine fun s h => ih _ ?_
      unfold State.resetAbacus
      rw [putAbacus_abacus]
      split
      · exact ⟨rfl, rfl⟩
      · exact h
  induction layers generalizing s with
  | nil => cases hm
  | cons l layers ih =>
    rcases List.mem_cons.mp hm with rfl | hm
    · refine keeps layers _ ?_
      unfold State.resetAbacus
      rw [putAbacus_abacus, if_pos rfl]
      exact ⟨rfl, rfl⟩
    · exact ih _ hm

theorem resets_hole {pair : Nat} (layers : List Nat) (s : State) : (layers.foldl (fun s l => s.resetAbacus pair l) s).hole = s.hole :=
  foldl_keeps (m := State.hole) (f := fun s l => State.resetAbacus s pair l) (fun _ _ => rfl) layers s

/-- The reset of a hung abacus leaves it without lease and operations, and memory as it was (R386). -/
theorem hangReset_leaves {s : State} {pair layer : Nat} {o : MatOp} (hl : layer < 2) (ho : s.hungOp pair layer = some o) :
    (s.hangReset pair layer).hole = s.hole ∧ ((s.hangReset pair layer).abacus pair layer).ops = [] ∧
      ((s.hangReset pair layer).abacus pair layer).holder = none := by
  obtain ⟨layers, hlayers⟩ : ∃ l, l = if o.p then [0, 1] else [layer] := ⟨_, rfl⟩
  have hmem : layer ∈ layers := by
    rw [hlayers]
    split
    · simp; omega
    · simp
  obtain ⟨hit, hhit⟩ : ∃ f : Nat → Bool, f = fun l => layers.any (fun m => m == l) := ⟨_, rfl⟩
  have hlay : hit layer = true := by
    rw [hhit]
    exact List.any_eq_true.mpr ⟨layer, hmem, by simp⟩
  obtain ⟨holders, hholders⟩ : ∃ l, l = layers.filterMap (fun l => (s.abacus pair l).holder) := ⟨_, rfl⟩
  obtain ⟨ts, hts⟩ : ∃ ts, s.hangReset pair layer =
      { [0, 1].foldl (fun s l => s.endHeld pair hit holders l) (layers.foldl (fun s l => s.resetAbacus pair l) s) with teams := ts } := by
    unfold State.hangReset
    rw [ho]
    subst hhit hholders hlayers
    exact ⟨_, rfl⟩
  have habacus : ((s.hangReset pair layer).abacus pair layer) = (layers.foldl (fun s l => s.resetAbacus pair l) s).abacus pair layer := by
    rw [hts]
    exact (endHeld_hit hlay 1).trans (endHeld_hit hlay 0)
  rw [habacus, hts]
  refine ⟨?_, resets_abacus layers s hmem⟩
  exact ((endHeld_hole _ _ _ _ _).trans (endHeld_hole _ _ _ _ _)).trans (resets_hole layers s)

/-! ## Leases -/

/-- A lease granted to a team on some abaci of a pair (R341). -/
def State.grantLayers (s : State) (pair uid : Nat) (layers : List Nat) : State :=
  layers.foldl (fun s n => s.putAbacus pair n { s.abacus pair n with holder := some uid }) s

theorem grantLayers_keeps {α : Type} (m : State → α) (hm : ∀ (s : State) pair l a, m (s.putAbacus pair l a) = m s) (s : State) (pair uid : Nat)
    (layers : List Nat) : m (s.grantLayers pair uid layers) = m s := foldl_keeps m (fun _ _ => hm _ _ _ _) layers s

/-- Each of those abaci is held by the team. -/
theorem grantLayers_holder {pair uid l : Nat} (layers : List Nat) (s : State) (hl : l ∈ layers ∨ (s.abacus pair l).holder = some uid) :
    ((s.grantLayers pair uid layers).abacus pair l).holder = some uid := by
  induction layers generalizing s with
  | nil => exact hl.resolve_left (by simp)
  | cons m layers ih =>
    refine ih _ ?_
    rw [putAbacus_abacus]
    rcases hl with hl | hl
    · rcases List.mem_cons.mp hl with rfl | hl
      · right
        rw [if_pos rfl]
      · exact .inl hl
    · right
      split
      · rfl
      · exact hl

/-- A pair's place of the last grant says nothing of its abaci. -/
theorem putPair_lastGrant_abacus (s : State) (pair n l : Nat) :
    (s.putPair pair { s.pair pair with lastGrant := n }).abacus pair l = s.abacus pair l := by
  unfold State.abacus State.putPair State.pair
  simp only [tabGet_tabPut_same]

/-- The arbiter's next request gets its abaci and its quantum, and no longer waits (R341, R373). -/
theorem leaseGrant_leaves {s : State} {pair x y : Nat} {t : Team} {p : Bool} (hn : s.leaseNext pair = some (t, p, x, y)) (ht : s.team t.uid = some t) :
    (s.leaseGrant pair).hole = s.hole ∧
      (s.leaseGrant pair).team t.uid = some { t with lc := t.quantum, ctl := { t.ctl with wait := .none } } ∧
      ∀ l ∈ leaseLayers t p, ((s.leaseGrant pair).abacus pair l).holder = some t.uid := by
  obtain ⟨g, hg⟩ : ∃ g, g = s.grantLayers pair t.uid (leaseLayers t p) := ⟨_, rfl⟩
  have hgrant : s.leaseGrant pair = (g.putPair pair { g.pair pair with lastGrant := t.slot }).putTeam
      { t with lc := t.quantum, ctl := { t.ctl with wait := .none } } := by
    unfold State.leaseGrant
    rw [hn, hg]
    rfl
  have hteam : g.team t.uid = some t := by
    rw [hg, ← ht]
    exact grantLayers_keeps (fun s => s.team t.uid) (fun _ _ _ _ => rfl) _ _ _ _
  rw [hgrant]
  refine ⟨?_, ?_, fun l hl => ?_⟩
  · rw [putTeam_hole, State.putPair_hole, hg]
    exact grantLayers_keeps State.hole (fun _ _ _ _ => rfl) _ _ _ _
  · rw [putTeam_team (s := g.putPair pair { g.pair pair with lastGrant := t.slot }) hteam, if_pos rfl]
  · have hput : ∀ (u : State) (v : Team), (u.putTeam v).abacus pair l = u.abacus pair l := fun _ _ => rfl
    rw [hput, putPair_lastGrant_abacus, hg]
    exact grantLayers_holder _ s (.inl hl)

/-- Settles O41: each event is an equation of its function, and a chunk reaches each element once. -/
theorem abacusRuns : Obligations.AbacusRuns := by
  unfold Obligations.AbacusRuns
  refine ⟨fun s pair layer h hl => ⟨abacusChunk_draws h hl, fun o i t hn ht => ⟨abacusChunk_zeroes h hl hn ht, abacusChunk_early h hl hn ht,
      fun a b hk hA hB ha hb hp hgt => abacusChunk_adds h hl hn ht hk hA hB ha hb hp hgt⟩, fun hn => ?_, fun o ho => ?_, fun r hr hgt => hungOp_early hr hgt⟩,
    fun v a b i j _ hb _ hj => addChunk_get v a b i j hb hj, fun s pair h => ⟨fun hn => ?_, fun t p x y hn ht => ?_⟩,
    fun s uid t h ht => ⟨fun hn => ?_, fun pc hpc hr he => ?_⟩⟩
  · refine exec_next (u := s.hangReset pair (layer % 2)) rfl ?_ h
    rw [Nat.mod_eq_of_lt hl]
    unfold State.hangReset
    rw [hn]
  · obtain ⟨hhole, hops, hholder⟩ := hangReset_leaves hl ho
    refine ⟨s.hangReset pair layer, ?_, hops, hholder, hangReset_mem s pair layer⟩
    refine exec_next (u := s.hangReset pair (layer % 2)) rfl ?_ (hhole.trans h)
    rw [Nat.mod_eq_of_lt hl]
  · refine exec_next (u := s.leaseGrant pair) rfl ?_ h
    unfold State.leaseGrant
    rw [hn]
  · obtain ⟨hhole, hteam, hholder⟩ := leaseGrant_leaves hn ht
    exact ⟨s.leaseGrant pair, exec_next rfl rfl (hhole.trans h), hteam, hholder, leaseGrant_mem s pair⟩
  · refine exec_next (u := s.matrixDeliver uid) rfl ?_ h
    unfold State.matrixDeliver
    rw [ht]
    dsimp only
    rw [hn]
  · refine exec_next (u := s.matrixDeliver uid) rfl ?_ ((deliverCtl_hole _ _ _).trans h)
    unfold State.matrixDeliver
    rw [ht]
    dsimp only
    rw [hpc]
    dsimp only
    rw [if_neg (by simp [hr, he])]
    exact trapCtl_plain rfl rfl (by simp)

end Sys2Proof.Machine
end

section
/-! O53: MASTER_RESET of a frozen copy engine. A copy whose last write was applied in this very tick does not resolve yet (R105), so the
reset leaves it where it was. -/

namespace Sys2Proof.Machine

/-- A copy that its engine's freeze stopped in the tick in which its last write was applied. -/
def stoppedCopy : EngOp := { physOp .copy 0 0 0 0 [] 0 with id := 1, unit := 0, status := some 8, wmax := 1, window := none, appliedAt := 0 }

/-- A device with nothing but a frozen copy engine and that copy, in that tick. -/
def frozenEngine : State := { State.reset with engines := [(0, true)], ops := [stoppedCopy] }

/-- The reset unfreezes the engine, and the copy stays. -/
theorem frozenEngine_reset : exec (.masterReset .engine 0) frozenEngine = .next { frozenEngine with engines := [] } := by rfl

/-- Refutes O53: a copy of a frozen engine whose last write was applied in the tick of the MASTER_RESET is not resolved by it. -/
theorem not_linksMailboxesAndResets : ¬ Obligations.LinksMailboxesAndResets := by
  unfold Obligations.LinksMailboxesAndResets
  intro h
  obtain ⟨-, -, -, -, hengine, -⟩ := h frozenEngine rfl
  obtain ⟨t, hnext, -, hgone⟩ := hengine 0 (by decide) (by rfl)
  obtain rfl : { frozenEngine with engines := [] } = t := by simpa [frozenEngine_reset] using hnext
  exact hgone stoppedCopy (by simp [frozenEngine]) rfl rfl rfl rfl stoppedCopy (by simp [frozenEngine]) rfl

end Sys2Proof.Machine
end

section
/-! What several statements use: reads and writes of device memory change what lies at its homes, and nothing of teams, grids, contexts, windows,
ports or power. -/

namespace Sys2Proof.Machine

/-- A state differs from another at the homes of device memory alone: bytes, poison, failing reads, cached lines and their times, copies, the
accesses that overlap, home order, and what meets an address beyond the installed memory. -/
def HomesOnly (s t : State) : Prop :=
  ∃ m p f l e c k a o n h, t = { s with mem := m, poison := p, flaws := f, lines := l, sets := e, slices := c, copies := k, accesses := a,
                                        order := o, free := n, hole := h }

theorem HomesOnly.refl (s : State) : HomesOnly s s := ⟨_, _, _, _, _, _, _, _, _, _, _, rfl⟩

theorem HomesOnly.trans {s t u : State} (h : HomesOnly s t) (k : HomesOnly t u) : HomesOnly s u := by
  obtain ⟨_, _, _, _, _, _, _, _, _, _, _, rfl⟩ := h
  obtain ⟨_, _, _, _, _, _, _, _, _, _, _, rfl⟩ := k
  exact ⟨_, _, _, _, _, _, _, _, _, _, _, rfl⟩

theorem HomesOnly.foldl {α : Type} {f : State → α → State} (hf : ∀ s x, HomesOnly s (f s x)) (l : List α) (s : State) : HomesOnly s (l.foldl f s) :=
  List.foldlRecOn l f (.refl s) (fun t ht x _ => ht.trans (hf t x))

theorem homesOnly_cache (s : State) (a : Tab (Option LineMeta)) (b : Tab SetMeta) (c : Tab Slice) (d : Nat) : HomesOnly s (s.withCache a b c d) :=
  ⟨_, _, _, _, _, _, _, _, _, _, _, rfl⟩

theorem homesOnly_bytes (s : State) (m : Tab Byte) (p : Tab Bool) (f : Tab Nat) (a : Tab (Option LineMeta)) (b : Tab SetMeta) (c : Tab Slice)
    (d : Nat) : HomesOnly s ((s.withMem m p f).withCache a b c d) := ⟨_, _, _, _, _, _, _, _, _, _, _, rfl⟩

theorem reach_homesOnly (s : State) (pa len : Nat) : HomesOnly s (s.reach pa len) := by
  unfold State.reach
  split
  · exact .refl s
  · split
    · exact .refl s
    · exact ⟨_, _, _, _, _, _, _, _, _, _, _, rfl⟩

theorem touchAll_homesOnly (s : State) (pa len part : Nat) : HomesOnly s (s.touchAll pa len part) := by
  obtain ⟨a, b, c, d, h⟩ := touchAll_eq s pa len part
  exact h ▸ homesOnly_cache s a b c d

theorem noteFilled_homesOnly (s : State) (pa len : Nat) (write : Bool) : HomesOnly s (s.noteFilled pa len write) := by
  obtain ⟨a, b, c, d, h⟩ := noteFilled_eq s pa len write
  exact h ▸ homesOnly_cache s a b c d

theorem applied_homesOnly (s : State) (pa len : Nat) : HomesOnly s (s.applied pa len).2 := by
  obtain ⟨a, b, c, d, h⟩ := applied_eq s pa len
  exact h ▸ homesOnly_cache s a b c d

theorem fillPartial_homesOnly (s : State) (pa len : Nat) : HomesOnly s (s.fillPartial pa len) := by
  obtain ⟨p, f, c, h⟩ := fillPartial_eq s pa len
  exact h ▸ ⟨_, _, _, _, _, _, _, _, _, _, _, rfl⟩

theorem sectorsRead_homesOnly (s : State) (k n : Nat) : HomesOnly s (s.sectorsRead k n).1 := by
  obtain ⟨p, f, c, h⟩ := sectorsRead_eq s k n
  exact h ▸ homesOnly_bytes s _ _ _ _ _ _ _

theorem writeDev_homesOnly (s : State) (pa part : Nat) (bytes : List Byte) : HomesOnly s (s.writeDev pa part bytes).2 := by
  have h1 := ((reach_homesOnly s pa bytes.length).trans (touchAll_homesOnly _ pa bytes.length part)).trans (fillPartial_homesOnly _ pa bytes.length)
  unfold State.writeDev
  generalize ((s.reach pa bytes.length).touchAll pa bytes.length part).fillPartial pa bytes.length = u at h1
  have h2 : HomesOnly u { u with mem := memPut u.mem pa bytes, poison := clearPoison u.poison pa bytes.length } :=
    ⟨_, _, _, _, _, _, _, _, _, _, _, rfl⟩
  exact ((h1.trans h2).trans (noteFilled_homesOnly _ pa bytes.length true)).trans (applied_homesOnly _ pa bytes.length)

theorem readDev_homesOnly (s : State) (pa len part : Nat) : HomesOnly s (s.readDev pa len part).1 := by
  have h1 := ((reach_homesOnly s pa len).trans (touchAll_homesOnly _ pa len part)).trans (noteFilled_homesOnly _ pa len false)
  unfold State.readDev
  dsimp only
  generalize ((s.reach pa len).touchAll pa len part).noteFilled pa len false = u at h1
  have h2 := h1.trans (sectorsRead_homesOnly u (pa / 256) (sectorCount pa len))
  generalize u.sectorsRead (pa / 256) (sectorCount pa len) = r at h2
  obtain ⟨v, e⟩ := r
  cases e <;> exact h2

theorem tear_homesOnly (s : State) (by_ : Nat) (w : Piece) : HomesOnly s (s.tear by_ w) := by
  obtain ⟨l, n, h⟩ := tear_eq s by_ w
  exact h ▸ ⟨_, _, _, _, _, _, _, _, _, _, _, rfl⟩

theorem tearDev_homesOnly (s : State) (pa len : Nat) : HomesOnly s (s.tearDev pa len) := tear_homesOnly s 0 _

theorem modSlice_homesOnly (s : State) (n : Nat) (f : Slice → Slice) : HomesOnly s (s.modSlice n f) := ⟨_, _, _, _, _, _, _, _, _, _, _, rfl⟩

end Sys2Proof.Machine
end

section
/-! O54: power and bring-up. A unit enters, wakes and comes back as its own conditions say; what a deep exit serves at the ports touches neither
power nor what waits at them; a reset is the state it builds. -/

namespace Sys2Proof.Machine

/-! ## Ports -/

@[simp] theorem putPort_port (s : State) (n m : Nat) (v : Port) : (s.putPort n v).port m = if m = n then v else s.port m := tabGet_tabPut _ _ _ _ _

/-- Power, and what waits at every port, stay as they are. -/
structure KeepsHeld (s t : State) : Prop where
  power : t.power = s.power
  held : ∀ p, (t.port p).held = (s.port p).held

theorem KeepsHeld.refl (s : State) : KeepsHeld s s := ⟨rfl, fun _ => rfl⟩

theorem KeepsHeld.trans {s t u : State} (h : KeepsHeld s t) (k : KeepsHeld t u) : KeepsHeld s u :=
  ⟨k.power.trans h.power, fun p => (k.held p).trans (h.held p)⟩

theorem KeepsHeld.foldl {α : Type} {f : State → α → State} (hf : ∀ s x, KeepsHeld s (f s x)) (l : List α) (s : State) : KeepsHeld s (l.foldl f s) :=
  List.foldlRecOn l f (.refl s) (fun t ht x _ => ht.trans (hf t x))

theorem HomesOnly.keepsHeld {s t : State} (h : HomesOnly s t) : KeepsHeld s t := by
  obtain ⟨_, _, _, _, _, _, _, _, _, _, _, rfl⟩ := h
  exact ⟨rfl, fun _ => rfl⟩

/-- A port's other fields may change. -/
theorem putPort_keepsHeld {s : State} {n : Nat} {v : Port} (h : v.held = (s.port n).held) : KeepsHeld s (s.putPort n v) := by
  refine ⟨rfl, fun p => ?_⟩
  rw [putPort_port]
  split
  · subst_vars; exact h
  · rfl

theorem hostReply_keepsHeld (s : State) (port : Nat) (r : HostResp) : KeepsHeld s (s.hostReply port r) := putPort_keepsHeld rfl

theorem foldHost_keepsHeld (s : State) (port w : Nat) : KeepsHeld s (s.foldHost port w) := putPort_keepsHeld rfl

theorem hostWords_homesOnly (s : State) (pa len : Nat) : HomesOnly s (s.hostWords pa len) := by
  unfold State.hostWords
  dsimp only
  split
  · exact .refl s
  · split
    · exact modSlice_homesOnly _ _ _
    · exact .refl s

theorem hostApply_keepsHeld (port : Nat) (n : Nat) (s : State) (pa : Nat) (data : List Byte) : KeepsHeld s (s.hostApply port pa data n) := by
  induction n generalizing s pa data with
  | zero => exact .refl s
  | succ n ih =>
    unfold State.hostApply
    split
    · exact .refl s
    · dsimp only
      have hw := ((hostWords_homesOnly s pa (min (64 - pa % 64) data.length)).trans (tearDev_homesOnly _ pa (min (64 - pa % 64) data.length))).trans
        (writeDev_homesOnly _ pa (s.port port).part (data.take (64 - pa % 64)))
      exact (hw.keepsHeld.trans (foldHost_keepsHeld _ port _)).trans (ih _ _ _)

/-- A request that is served changes neither power nor what waits at the ports (R461). -/
theorem hostServe_keepsHeld (s : State) (port : Nat) (q : HostReq) : KeepsHeld s (s.hostServe port q) := by
  unfold State.hostServe
  cases q with
  | read pa len =>
    dsimp only
    have h := (readDev_homesOnly s pa len (s.port port).part).keepsHeld
    split
    · exact hostReply_keepsHeld _ _ _
    · split <;> rename_i heq <;> rw [heq] at h <;> exact h.trans (hostReply_keepsHeld _ _ _)
  | write pa data =>
    dsimp only
    split
    · exact hostReply_keepsHeld _ _ _
    · have hseals : KeepsHeld s (s.noteSeals port pa data.length) := ⟨rfl, fun _ => rfl⟩
      exact (hseals.trans (hostApply_keepsHeld _ _ _ _ _)).trans (hostReply_keepsHeld _ _ _)
  | atomic pa size kind value compare =>
    dsimp only
    have h := (readDev_homesOnly s pa size (s.port port).part).keepsHeld
    split
    · exact hostReply_keepsHeld _ _ _
    · split
      · rename_i heq
        rw [heq] at h
        exact h.trans (hostReply_keepsHeld _ _ _)
      · rename_i u l heq
        rw [heq] at h
        have hseals : KeepsHeld u (u.noteSeals port pa size) := ⟨rfl, fun _ => rfl⟩
        refine h.trans (KeepsHeld.trans ?_ (hostReply_keepsHeld _ _ _))
        split
        · exact hseals.trans (hostApply_keepsHeld _ _ _ _ _)
        · exact .refl u
  | bar off size => exact hostReply_keepsHeld _ _ _

/-- A port whose requests are served holds none, and the other ports hold theirs (R461). -/
theorem serveHeld_leaves (s : State) (port : Nat) : (s.serveHeld port).power = s.power ∧
    ∀ p, ((s.serveHeld port).port p).held = if p = port then [] else (s.port p).held := by
  have h := KeepsHeld.foldl (fun s q => hostServe_keepsHeld s port q) (s.port port).held (s.putPort port { s.port port with held := [] })
  refine ⟨h.power, fun p => (h.held p).trans ?_⟩
  rw [putPort_port]
  split <;> rfl

/-- With every port served, none of them holds a request. -/
theorem serveAll_leaves (l : List Nat) (s : State) : (l.foldl (fun s p => s.serveHeld p) s).power = s.power ∧
    ∀ p, p ∈ l ∨ (s.port p).held = [] → ((l.foldl (fun s p => s.serveHeld p) s).port p).held = [] := by
  induction l generalizing s with
  | nil => exact ⟨rfl, fun p hp => hp.resolve_left (by simp)⟩
  | cons a l ih =>
    obtain ⟨hpow, hheld⟩ := serveHeld_leaves s a
    obtain ⟨ipow, iheld⟩ := ih (s.serveHeld a)
    refine ⟨ipow.trans hpow, fun p hp => iheld p ?_⟩
    rw [hheld p]
    split
    · exact .inr rfl
    · rename_i hne
      exact hp.imp (fun hm => (List.mem_cons.mp hm).resolve_left hne) id

/-- With nothing held, serving a port changes no more than the table of ports. -/
theorem serveHeld_empty {s : State} {port : Nat} (h : (s.port port).held = []) : ∃ ps, s.serveHeld port = { s with ports := ps } ∧
    ∀ p, ({ s with ports := ps } : State).port p = s.port p := by
  refine ⟨_, by unfold State.serveHeld; rw [h]; rfl, fun p => ?_⟩
  refine (putPort_port s port p _).trans ?_
  split
  · rename_i hp
    rw [hp, ← h]
  · rfl

theorem serveAll_empty (l : List Nat) {s : State} (h : ∀ p ∈ l, (s.port p).held = []) :
    ∃ ps, l.foldl (fun s p => s.serveHeld p) s = { s with ports := ps } := by
  induction l generalizing s with
  | nil => exact ⟨s.ports, rfl⟩
  | cons a l ih =>
    obtain ⟨ps, hs, hp⟩ := serveHeld_empty (h a (by simp))
    obtain ⟨ps', h'⟩ := ih (s := { s with ports := ps }) (fun p hm => by rw [hp]; exact h p (List.mem_cons_of_mem _ hm))
    exact ⟨ps', by rw [List.foldl_cons, hs, h']⟩

/-! ## Exits -/

/-- What a table gives stands in it. -/
theorem mem_of_tabGet {α : Type} {d v : α} {t : Tab α} {k : Nat} (h : tabGet d t k = v) (hv : v ≠ d) : ∃ n, (n, v) ∈ t := by
  induction t with
  | nil => exact absurd h.symm hv
  | cons e t ih =>
    obtain ⟨n, w⟩ := e
    unfold tabGet at h
    split at h
    · exact ⟨n, by rw [h]; exact List.mem_cons_self⟩
    · exact (ih h).imp (fun _ hm => List.mem_cons_of_mem _ hm)

/-- The lines that a deep exit leaves are the pinned ones, dated at GT (R460). -/
theorem refill_lines {s : State} {k : Nat} {m : LineMeta} (h : tabGet none s.refill.lines k = some m) :
    m.pinned = true ∧ m.lexp = s.gt ∧ m.lwct = s.gt := by
  obtain ⟨n, he⟩ := mem_of_tabGet h (by simp)
  obtain ⟨⟨k', o⟩, -, hkept⟩ := List.mem_filterMap.mp he
  cases o with
  | none => cases hkept
  | some v =>
    dsimp only at hkept
    split at hkept
    · rename_i hpin
      cases hkept
      exact ⟨hpin, rfl, rfl⟩
    · cases hkept

/-- A unit at C0, its exit over (R460). -/
def State.back (s : State) (u : PowerUnit) : State :=
  ({ s with power := { s.power with exiting := s.power.exiting.filter (fun v => !decide (v = u)) } } : State).putPower u 0

theorem powerExit_shallow {s : State} {u : PowerUnit} (he : s.exits u = true) (hu : u ≠ .device ∨ s.power.device < 3) : s.powerExit u = s.back u := by
  have hdeep : (decide (u = .device) && decide (3 ≤ s.power.device)) = false := by
    rcases hu with hu | hu
    · simp [hu]
    · simp [Nat.not_le.mpr hu]
  unfold State.powerExit
  rw [he]
  dsimp only
  rw [hdeep]
  rfl

theorem powerExit_deep {s : State} (he : s.exits .device = true) (hd : 3 ≤ s.power.device) :
    s.powerExit .device = (List.range 8).foldl (fun s p => s.serveHeld p) (s.back .device).refill := by
  unfold State.powerExit
  rw [he]
  dsimp only
  rw [if_neg (by simp), if_pos (by simp [hd])]
  rfl

/-! ## Bring-up -/

theorem boardOf_port (b : BootInput) {p : Nat} (hp : p < 8) : (boardOf b).ports.getD p 0 = b.body.toNat / 2 ^ (32 * p) % 2 ^ 32 := by
  have h : (boardOf b).ports = (List.range 8).map (fun p => bitsAt b.body.toNat (32 * p) 32) := rfl
  rw [h, List.getD_eq_getElem?_getD, List.getElem?_map, List.getElem?_range hp, Option.map_some, Option.getD_some, bitsAt_eq]

/-- The table of ports of a board holds each port with its partition (R458, R459). -/
theorem portsOf_port (l : List Nat) (k : Nat) (t : Tab Port) (p : Nat) :
    tabGet Port.start ((l.zipIdx k).foldl (fun t e => tabPut Port.start t e.2 { Port.start with part := bitsAt e.1 2 4 }) t) p =
      if k ≤ p ∧ p < k + l.length then { Port.start with part := bitsAt (l.getD (p - k) 0) 2 4 } else tabGet Port.start t p := by
  induction l generalizing k t with
  | nil => rw [if_neg (by simp), List.zipIdx_nil, List.foldl_nil]
  | cons a l ih =>
    rw [List.zipIdx_cons, List.foldl_cons, ih, tabGet_tabPut]
    simp only [List.length_cons]
    rcases Nat.lt_trichotomy p k with hpk | rfl | hpk
    · rw [if_neg (by omega), if_neg (by omega), if_neg (by omega)]
    · rw [if_neg (by omega), if_pos rfl, if_pos (by omega), Nat.sub_self]
      rfl
    · obtain ⟨n, rfl⟩ : ∃ n, p = k + 1 + n := ⟨p - (k + 1), by omega⟩
      have hsub : k + 1 + n - k = n + 1 := by omega
      rw [hsub, Nat.add_sub_cancel_left, List.getD_cons_succ]
      by_cases hn : n < l.length
      · rw [if_pos (by omega), if_pos (by omega)]
      · rw [if_neg (by omega), if_neg (by omega), if_neg (by omega)]

theorem deviceReset_port (b : BootInput) {p : Nat} (hp : p < 8) :
    tabGet Port.start (portsOf (boardOf b)) p = { Port.start with part := b.body.toNat / 2 ^ (32 * p + 2) % 16 } := by
  have h := portsOf_port (boardOf b).ports 0 [] p
  have hlen : (boardOf b).ports.length = 8 := rfl
  rw [if_pos (by rw [hlen]; omega), Nat.sub_zero, boardOf_port b hp, bitsAt_eq] at h
  refine h.trans ?_
  rw [pow_add, ← Nat.div_div_eq_div_mul]
  generalize b.body.toNat / 2 ^ (32 * p) = x
  have hx : x % 2 ^ 32 / 2 ^ 2 % 2 ^ 4 = x / 2 ^ 2 % 16 := by omega
  rw [hx]

/-! ## The obligation -/

section
variable {s : State} (h : s.hole = none)
include h

theorem powerStateEnter_stays {u : PowerUnit} {l : Nat}
    (hc : s.mayEnter u l = false ∨ l ≤ s.powerOf u ∨ s.power.tolerance < exitLatency l ∨ s.exits u = true) :
    exec (.powerStateEnter u l) s = .next s := by
  refine exec_next (u := s.powerEnter u l) rfl (if_neg ?_) h
  simp only [Bool.and_eq_true, decide_eq_true_eq, Bool.not_eq_true']
  rintro ⟨⟨⟨hm, hl⟩, ht⟩, he⟩
  rcases hc with hc | hc | hc | hc
  · simp [hm] at hc
  · omega
  · omega
  · simp [he] at hc

theorem powerStateEnter_enters {u : PowerUnit} {l : Nat} (hm : s.mayEnter u l = true) (hl : s.powerOf u < l) (ht : exitLatency l ≤ s.power.tolerance)
    (he : s.exits u = false) : exec (.powerStateEnter u l) s = .next (s.putPower u l) := by
  refine exec_next (u := s.powerEnter u l) rfl (if_pos ?_) ?_
  · simp [hm, hl, ht, he]
  · cases u <;> exact h

/-- A device on its way out of C3 or C4 serves what waited at its ports, and keeps only its pinned lines (R460, R461). -/
theorem powerExitComplete_deep (he : s.exits .device = true) (hd : 3 ≤ s.power.device) :
    ((s.powerExit .device).hole = none → ∃ t, exec (.powerExitComplete .device) s = .next t ∧ t.power.device = 0 ∧ ∀ p, p < 8 → (t.port p).held = []) ∧
    ((∀ p, p < 8 → (s.port p).held = []) → ∃ t, exec (.powerExitComplete .device) s = .next t ∧ t.mem = s.mem ∧ t.power.device = 0 ∧ t.power.floor = s.gt ∧
      t.sets = [] ∧ (∀ k m, tabGet none t.lines k = some m → m.pinned = true ∧ m.lexp = s.gt ∧ m.lwct = s.gt) ∧ t.teams = s.teams ∧ t.pairs = s.pairs) := by
  refine ⟨fun hh => ?_, fun hheld => ?_⟩
  · obtain ⟨hpow, hheld⟩ := serveAll_leaves (List.range 8) (s.back .device).refill
    refine ⟨s.powerExit .device, exec_next rfl rfl hh, ?_, fun p hp => ?_⟩
    · rw [powerExit_deep he hd, hpow]
      rfl
    · rw [powerExit_deep he hd]
      exact hheld p (.inl (List.mem_range.mpr hp))
  · obtain ⟨ps, hps⟩ := serveAll_empty (List.range 8) (s := (s.back .device).refill) (fun p hp => hheld p (List.mem_range.mp hp))
    have heq : s.powerExit .device = { (s.back .device).refill with ports := ps } := (powerExit_deep he hd).trans hps
    exact ⟨_, exec_next (u := s.powerExit .device) rfl heq h, rfl, rfl, rfl, rfl, fun k m hm => refill_lines (s := s.back .device) hm, rfl, rfl⟩

/-- What a reset leaves, whether its steps all pass or one fails (R458, R459). -/
theorem deviceReset_leaves (b : BootInput) : ∃ t, exec (.deviceReset b) s = .next t ∧ (∀ x, t.byteAt x = 0) ∧ t.teams = [] ∧ t.grids = [] ∧
    (∀ n, t.ctx n = none) ∧ (∀ n, t.window n = Window.start) ∧ t.copies = [] ∧ t.accesses = [] ∧ t.gt = 0 ∧
    (b.failStep = none → t.boot = ⟨9, none⟩ ∧ t.board.gib128 = decide (b.body.toNat / 2 ^ 256 % 256 = 1) ∧ t.board.pwr = b.body.toNat / 2 ^ 264 % 2 ^ 16 ∧
      t.board.grace = b.body.toNat / 2 ^ 416 % 2 ^ 32 ∧
      (∀ p, p < 8 → t.board.ports.getD p 0 = b.body.toNat / 2 ^ (32 * p) % 2 ^ 32 ∧ (t.port p).state = .train ∧
        (t.port p).part = b.body.toNat / 2 ^ (32 * p + 2) % 16)) ∧
    (∀ n, b.failStep = some n → t.boot = ⟨n - 1, some n⟩ ∧ t.board.ports = [1, 0, 0, 0, 0, 0, 0, 0] ∧ (∀ p, 0 < p → t.lit p = false) ∧ t.lit 0 = true) := by
  cases hf : b.failStep with
  | none =>
    have heq : s.deviceReset b = { State.reset with agenda := s.agenda, cur := s.cur, free := s.free, nextId := s.nextId, hole := s.hole,
                                                    board := boardOf b, boot := ⟨9, none⟩, ports := portsOf (boardOf b) } := by
      unfold State.deviceReset
      rw [hf]
    refine ⟨_, exec_next (u := s.deviceReset b) rfl heq h, fun _ => rfl, rfl, rfl, fun _ => rfl, fun _ => rfl, rfl, rfl, rfl, fun _ => ?_, fun n hn => by cases hn⟩
    refine ⟨rfl, ?_, bitsAt_eq _ _ _, bitsAt_eq _ _ _, fun p hp => ⟨boardOf_port b hp, ?_, ?_⟩⟩
    · exact (congrArg (· == 1) (bitsAt_eq b.body.toNat 256 8)).trans (by simp [beq_eq_decide])
    · exact congrArg Port.state (deviceReset_port b hp)
    · exact congrArg Port.part (deviceReset_port b hp)
  | some n =>
    have heq : s.deviceReset b = { State.reset with agenda := s.agenda, cur := s.cur, free := s.free, nextId := s.nextId, hole := s.hole,
                                                    board := { (if n ≤ 4 then Board.start else boardOf b) with ports := [1, 0, 0, 0, 0, 0, 0, 0] },
                                                    boot := ⟨n - 1, some n⟩ } := by
      unfold State.deviceReset
      rw [hf]
    refine ⟨_, exec_next (u := s.deviceReset b) rfl heq h, fun _ => rfl, rfl, rfl, fun _ => rfl, fun _ => rfl, rfl, rfl, rfl, fun hn => (by cases hn), fun m hm => ?_⟩
    cases hm
    refine ⟨rfl, rfl, fun p hp => ?_, by simp [State.lit]⟩
    by_cases h8 : p < 8
    · interval_cases p <;> rfl
    · simp [State.lit, h8]

end

/-- Settles O54: each event of power is an equation of its function, and a reset is the state that it builds. -/
theorem powerAndReset : Obligations.PowerAndReset := by
  unfold Obligations.PowerAndReset
  intro s h
  refine ⟨fun u l hc => powerStateEnter_stays h hc, fun u l hm hl ht he => powerStateEnter_enters h hm hl ht he, fun n l t ht hn => ?_, fun l ht => ?_,
    fun u hu => ?_, fun u hu he => ?_, fun u he => ?_, fun u he hu => ?_, fun he hd => powerExitComplete_deep h he hd, fun pair q n => ?_,
    fun b => deviceReset_leaves h b⟩
  · refine powerStateEnter_stays h (.inl ?_)
    have : s.teams.any (fun t => t.onCore n) = true := List.any_eq_true.mpr ⟨t, ht, hn⟩
    simp [State.mayEnter, this]
  · refine powerStateEnter_stays h (.inl ?_)
    simp [State.mayEnter, ht]
  · exact exec_next (u := s.powerWake u) rfl (if_pos hu) h
  · exact exec_next (u := s.powerWake u) rfl (if_neg (by simp [hu, he])) h
  · exact exec_next (u := s.powerExit u) rfl (if_pos (by simp [he])) h
  · refine exec_next (u := s.powerExit u) rfl (powerExit_shallow he hu) ?_
    cases u <;> exact h
  · refine ⟨s.issueHold pair q n, exec_next rfl rfl h, ?_, rfl, rfl, rfl⟩
    unfold State.issueHold State.putRod State.putPair State.rod State.pair
    simp only [tabGet_tabPut_same]

end Sys2Proof.Machine
end

section
/-! O55: the reset state, table by table. -/

namespace Sys2Proof.Machine

/-- Settles O55: every table of the reset state is empty, so that each of its entries is the table's start value. -/
theorem resetHolds : Obligations.ResetHolds := by
  unfold Obligations.ResetHolds
  have hwindow : ∀ n, State.reset.window n = Window.start := fun _ => rfl
  have hslice : ∀ n, tabGet Slice.start State.reset.slices n = Slice.start := fun _ => rfl
  have hways : ∀ p, tabGet 0xFFFF Slice.start.ways p = 0xFFFF := fun _ => rfl
  refine ⟨fun n => ?_, fun n p => ?_, rfl, fun _ => rfl, rfl, rfl, rfl, rfl, fun _ => rfl, fun _ => rfl, rfl, rfl⟩
  · rw [hwindow]
    exact ⟨rfl, rfl, rfl, rfl, rfl, rfl, rfl, rfl⟩
  · rw [hslice, hways]

end Sys2Proof.Machine
end

section
/-! Translations and the accesses of the fixed units change what device memory's homes, the translation buffers and the service cores hold, and which
units wait for a migration; no team, grid, context, window, port or island. -/

namespace Sys2Proof.Machine

/-- A state differs from another at the homes of device memory, in translation buffers, in the service cores' logs and in the waits for migrations. -/
def SharedOnly (s t : State) : Prop := ∃ u a b c m, HomesOnly s u ∧ t = { u with tlbs := a, clusterTlbs := b, cores := c, migWaits := m }

theorem HomesOnly.shared {s t : State} (h : HomesOnly s t) : SharedOnly s t := ⟨t, _, _, _, _, h, rfl⟩

theorem SharedOnly.refl (s : State) : SharedOnly s s := (HomesOnly.refl s).shared

theorem SharedOnly.trans {s t u : State} (h : SharedOnly s t) (k : SharedOnly t u) : SharedOnly s u := by
  obtain ⟨_, _, _, _, _, ⟨_, _, _, _, _, _, _, _, _, _, _, rfl⟩, rfl⟩ := h
  obtain ⟨_, _, _, _, _, ⟨_, _, _, _, _, _, _, _, _, _, _, rfl⟩, rfl⟩ := k
  exact ⟨_, _, _, _, _, ⟨_, _, _, _, _, _, _, _, _, _, _, rfl⟩, rfl⟩

theorem SharedOnly.foldl {α : Type} {f : State → α → State} (hf : ∀ s x, SharedOnly s (f s x)) (l : List α) (s : State) : SharedOnly s (l.foldl f s) :=
  List.foldlRecOn l f (.refl s) (fun t ht x _ => ht.trans (hf t x))

/-- The frame of what a function returns with its state. -/
theorem SharedOnly.of {α : Type} {s u : State} {p : State × α} {r : α} (h : SharedOnly s p.1) (he : p = (u, r)) : SharedOnly s u := by rwa [he] at h

theorem SharedOnly.next {α : Type} {s t u : State} {p : State × α} {r : α} (h : SharedOnly s t) (k : SharedOnly t p.1) (he : p = (u, r)) :
    SharedOnly s u := h.trans (k.of he)

section
variable {s t : State} (h : SharedOnly s t)
include h

theorem SharedOnly.teams : t.teams = s.teams := by obtain ⟨_, _, _, _, _, ⟨_, _, _, _, _, _, _, _, _, _, _, rfl⟩, rfl⟩ := h; rfl

theorem SharedOnly.grids : t.grids = s.grids := by obtain ⟨_, _, _, _, _, ⟨_, _, _, _, _, _, _, _, _, _, _, rfl⟩, rfl⟩ := h; rfl

theorem SharedOnly.ctxs : t.ctxs = s.ctxs := by obtain ⟨_, _, _, _, _, ⟨_, _, _, _, _, _, _, _, _, _, _, rfl⟩, rfl⟩ := h; rfl

theorem SharedOnly.pairs : t.pairs = s.pairs := by obtain ⟨_, _, _, _, _, ⟨_, _, _, _, _, _, _, _, _, _, _, rfl⟩, rfl⟩ := h; rfl

theorem SharedOnly.windows : t.windows = s.windows := by obtain ⟨_, _, _, _, _, ⟨_, _, _, _, _, _, _, _, _, _, _, rfl⟩, rfl⟩ := h; rfl

theorem SharedOnly.ports : t.ports = s.ports := by obtain ⟨_, _, _, _, _, ⟨_, _, _, _, _, _, _, _, _, _, _, rfl⟩, rfl⟩ := h; rfl

theorem SharedOnly.islands : t.islands = s.islands := by obtain ⟨_, _, _, _, _, ⟨_, _, _, _, _, _, _, _, _, _, _, rfl⟩, rfl⟩ := h; rfl

theorem SharedOnly.blends : t.blends = s.blends := by obtain ⟨_, _, _, _, _, ⟨_, _, _, _, _, _, _, _, _, _, _, rfl⟩, rfl⟩ := h; rfl

theorem SharedOnly.reckoner : t.reckoner = s.reckoner := by obtain ⟨_, _, _, _, _, ⟨_, _, _, _, _, _, _, _, _, _, _, rfl⟩, rfl⟩ := h; rfl

theorem SharedOnly.gt : t.gt = s.gt := by obtain ⟨_, _, _, _, _, ⟨_, _, _, _, _, _, _, _, _, _, _, rfl⟩, rfl⟩ := h; rfl

end

/-- A state differs from another as `SharedOnly` says, and no access in flight and no wait for a migration has changed. -/
structure ReadsOnly (s t : State) : Prop where
  shared : SharedOnly s t
  accesses : t.accesses = s.accesses
  migWaits : t.migWaits = s.migWaits

theorem ReadsOnly.refl (s : State) : ReadsOnly s s := ⟨.refl s, rfl, rfl⟩

theorem ReadsOnly.trans {s t u : State} (h : ReadsOnly s t) (k : ReadsOnly t u) : ReadsOnly s u :=
  ⟨h.shared.trans k.shared, k.accesses.trans h.accesses, k.migWaits.trans h.migWaits⟩

theorem ReadsOnly.foldl {α : Type} {f : State → α → State} (hf : ∀ s x, ReadsOnly s (f s x)) (l : List α) (s : State) : ReadsOnly s (l.foldl f s) :=
  List.foldlRecOn l f (.refl s) (fun t ht x _ => ht.trans (hf t x))

/-- The frame of what a function returns with its state. -/
theorem ReadsOnly.of {α : Type} {s u : State} {p : State × α} {r : α} (h : ReadsOnly s p.1) (he : p = (u, r)) : ReadsOnly s u := by rwa [he] at h

theorem ReadsOnly.next {α : Type} {s t u : State} {p : State × α} {r : α} (h : ReadsOnly s t) (k : ReadsOnly t p.1) (he : p = (u, r)) :
    ReadsOnly s u := h.trans (k.of he)

/-! ## Homes and copies -/

theorem grant_homesOnly (s : State) (pa code : Nat) : HomesOnly s (s.grant pa code).2 := by
  unfold State.grant State.raise
  dsimp only
  split <;> exact ⟨_, _, _, _, _, _, _, _, _, _, _, rfl⟩

theorem addCopy_homesOnly (s : State) (c : Copy) : HomesOnly s (s.addCopy c) := by
  have hput : ∀ (u : State) (l : List Copy), HomesOnly u { u with copies := l } := fun u l => ⟨_, _, _, _, _, _, _, _, _, _, _, rfl⟩
  have hfree : HomesOnly s s.newFree.2 := ⟨_, _, _, _, _, _, _, _, _, _, _, rfl⟩
  unfold State.addCopy
  dsimp only
  split
  · split
    · exact hput s _
    · split <;> exact hfree.trans (hput _ _)
  · exact hput s _

theorem grant_readsOnly (s : State) (pa code : Nat) : ReadsOnly s (s.grant pa code).2 := by
  refine ⟨(grant_homesOnly s pa code).shared, ?_, ?_⟩ <;>
  · unfold State.grant State.raise
    dsimp only
    split <;> rfl

theorem addCopy_readsOnly (s : State) (c : Copy) : ReadsOnly s (s.addCopy c) := by
  refine ⟨(addCopy_homesOnly s c).shared, ?_, ?_⟩ <;>
  · unfold State.addCopy
    dsimp only
    split
    · split
      · rfl
      · split <;> rfl
    · rfl

/-- A read of device memory changes no access in flight and no wait for a migration. -/
theorem readDev_readsOnly (s : State) (pa len part : Nat) : ReadsOnly s (s.readDev pa len part).1 := by
  have hreach : ReadsOnly s (s.reach pa len) := ⟨(reach_homesOnly s pa len).shared, by grind [State.reach], by grind [State.reach]⟩
  have htouch : ∀ u : State, ReadsOnly u (u.touchAll pa len part) := fun u => by
    refine ⟨(touchAll_homesOnly u pa len part).shared, ?_, ?_⟩ <;>
    · obtain ⟨a, b, c, d, h⟩ := touchAll_eq u pa len part
      rw [h]
      rfl
  have hnote : ∀ u : State, ReadsOnly u (u.noteFilled pa len false) := fun u => by
    refine ⟨(noteFilled_homesOnly u pa len false).shared, ?_, ?_⟩ <;>
    · obtain ⟨a, b, c, d, h⟩ := noteFilled_eq u pa len false
      rw [h]
      rfl
  have hread : ∀ (u : State) k n, ReadsOnly u (u.sectorsRead k n).1 := fun u k n => by
    refine ⟨(sectorsRead_homesOnly u k n).shared, ?_, ?_⟩ <;>
    · obtain ⟨p, f, c, h⟩ := sectorsRead_eq u k n
      rw [h]
      rfl
  have h := ((hreach.trans (htouch _)).trans (hnote _)).trans (hread _ (pa / 256) (sectorCount pa len))
  unfold State.readDev
  dsimp only
  split <;> rename_i heq <;> exact h.of heq

/-! ## Translations -/

theorem tlbFill_readsOnly (s : State) (pair : Nat) (e : TlbEntry) : ReadsOnly s (s.tlbFill pair e) := ⟨⟨s, _, _, _, _, .refl s, rfl⟩, rfl, rfl⟩

theorem tlbDrop_readsOnly (s : State) (pair ctx region page : Nat) : ReadsOnly s (s.tlbDrop pair ctx region page) := ⟨⟨s, _, _, _, _, .refl s, rfl⟩, rfl, rfl⟩

theorem tlbRelock_readsOnly (s : State) (pair team ctx region page : Nat) (e : DWord) : ReadsOnly s (s.tlbRelock pair team ctx region page e) :=
  ⟨⟨s, _, _, _, _, .refl s, rfl⟩, rfl, rfl⟩

theorem modCore_readsOnly (s : State) (n : Nat) (f : ServiceCore → ServiceCore) : ReadsOnly s (s.modCore n f) := ⟨⟨s, _, _, _, _, .refl s, rfl⟩, rfl, rfl⟩

theorem newFree_readsOnly (s : State) : ReadsOnly s s.newFree.2 := by
  have h : HomesOnly s s.newFree.2 := ⟨_, _, _, _, _, _, _, _, _, _, _, rfl⟩
  exact ⟨h.shared, rfl, rfl⟩

theorem walkFrom_readsOnly (s : State) (r : Region) (va : Nat) (l : List (Nat × Nat)) (pfn : Nat) : ReadsOnly s (s.walkFrom r va l pfn).1 := by
  induction l generalizing s pfn with
  | nil => exact .refl s
  | cons e l ih =>
    obtain ⟨lo, n⟩ := e
    have h := readDev_readsOnly s (tableBase r.psz pfn + 8 * bitsAt va lo n) 8 r.part
    unfold State.walkFrom
    dsimp only
    split <;> rename_i heq
    · exact h.of heq
    · split
      · exact h.of heq
      · split
        · exact h.of heq
        · exact (h.of heq).trans (ih _ _)

theorem walk_readsOnly (s : State) (r : Region) (va : Nat) : ReadsOnly s (s.walk r va).1 := walkFrom_readsOnly s r va _ _

theorem walkFill_readsOnly (s : State) (q : Req) (r : Region) (va need : Nat) : ReadsOnly s (s.walkFill q r va need).1 := by
  have h := (tlbDrop_readsOnly s q.pair q.ctx (va / 2 ^ 44 % 16) (pageOf r va)).trans (walk_readsOnly _ r va)
  unfold State.walkFill
  dsimp only
  generalize (s.tlbDrop q.pair q.ctx (va / 2 ^ 44 % 16) (pageOf r va)).walk r va = p at h
  obtain ⟨u, w⟩ := p
  cases w with
  | leaf e => exact h.trans (tlbFill_readsOnly _ _ _)
  | sparse => exact h.trans (tlbFill_readsOnly _ _ _)
  | absent => exact h
  | bad e pa => exact h

theorem walkLocked_readsOnly (s : State) (q : Req) (r : Region) (va need : Nat) (e : TlbEntry) : ReadsOnly s (s.walkLocked q r va need e).1 := by
  have h := walk_readsOnly s r va
  unfold State.walkLocked
  split
  · exact .refl s
  · dsimp only
    split
    · exact h.trans (tlbRelock_readsOnly _ _ _ _ _ _ _)
    · exact h

/-- A translation changes the homes that its walk reads and the translation buffers (R44, R46). -/
theorem translate_readsOnly (s : State) (q : Req) (va need : Nat) : ReadsOnly s (s.translate q va need).1 := by
  unfold State.translate
  dsimp only
  split
  · exact .refl s
  · split
    · split
      · exact .refl s
      · split
        · exact walkLocked_readsOnly s q _ va need _
        · exact .refl s
    · split
      · exact walkFill_readsOnly s q _ va need
      · split
        · have h := newFree_readsOnly s
          split
          · exact h.trans (walkFill_readsOnly _ q _ va need)
          · split
            · exact h.trans (walkFill_readsOnly _ q _ va need)
            · exact h.trans (tlbFill_readsOnly _ _ _)
        · split
          · exact walkFill_readsOnly s q _ va need
          · split
            · exact walkFill_readsOnly s q _ va need
            · exact tlbFill_readsOnly _ _ _

/-! ## The accesses of the fixed units -/

theorem logOwner_readsOnly (s : State) (ctx what va : Nat) : ReadsOnly s (s.logOwner ctx what va) := modCore_readsOnly s _ _

theorem unitAny_readsOnly (s : State) (q : Req) (va need : Nat) : ReadsOnly s (s.unitAny q va need).1 := by
  have h := translate_readsOnly s q va need
  unfold State.unitAny
  split <;> rename_i heq
  · exact h.of heq
  · exact h.of heq
  · exact h.of heq
  · split
    · exact h.of heq
    · dsimp only
      split
      · exact (h.of heq).trans (logOwner_readsOnly _ _ _ _)
      · exact h.of heq

theorem unitPage_readsOnly (s : State) (q : Req) (va need : Nat) : ReadsOnly s (s.unitPage q va need).1 := by
  have h := unitAny_readsOnly s q va need
  unfold State.unitPage
  split
  · rename_i heq
    split <;> exact h.of heq
  · exact h

theorem blockRead_readsOnly (s : State) (hd : Holder) (pa len lease part : Nat) : ReadsOnly s (s.blockRead hd pa len lease part).1 := by
  have h := readDev_readsOnly s (pa / 64 * 64) 64 part
  unfold State.blockRead
  split
  · exact .refl s
  · dsimp only
    split <;> rename_i heq
    · exact h.of heq
    · exact (h.of heq).trans ((grant_readsOnly _ _ _).trans (addCopy_readsOnly _ _))

theorem unitRead_readsOnly (n : Nat) (s : State) (q : Req) (hd : Holder) (va len : Nat) : ReadsOnly s (s.unitRead q hd va len n).1 := by
  induction n generalizing s va len with
  | zero => exact .refl s
  | succ n ih =>
    have h := unitPage_readsOnly s q va needR
    unfold State.unitRead
    split
    · exact .refl s
    · dsimp only
      split <;> rename_i heq
      · exact h.of heq
      · have h1 := h.of heq
        split <;> rename_i heq1
        · exact h1.next (blockRead_readsOnly _ _ _ _ _ _) heq1
        · have h2 := h1.next (blockRead_readsOnly _ _ _ _ _ _) heq1
          split
          · rename_i heq2
            exact h2.next (ih _ _ _) heq2
          · exact h2.trans (ih _ _ _)
      · exact h.of heq

theorem unitNat_readsOnly (s : State) (q : Req) (hd : Holder) (va len : Nat) : ReadsOnly s (s.unitNat q hd va len).1 := by
  have h := unitRead_readsOnly (len + 1) s q hd va len
  unfold State.unitNat
  split <;> rename_i heq <;> exact h.of heq

theorem homeNat_readsOnly (n : Nat) (s : State) (q : Req) (va : Nat) : ReadsOnly s (s.homeNat q va n).1 := by
  induction n generalizing s va with
  | zero => exact .refl s
  | succ n ih =>
    have h := unitPage_readsOnly s q va needR
    unfold State.homeNat
    split <;> rename_i heq
    · exact h.of heq
    · have h1 := h.of heq
      split <;> rename_i heq1
      · exact h1.next (readDev_readsOnly _ _ _ _) heq1
      · have h2 := h1.next (readDev_readsOnly _ _ _ _) heq1
        split <;> rename_i heq2 <;> exact h2.next (ih _ _) heq2
    · split <;> rename_i heq1 <;> exact (h.of heq).next (ih _ _) heq1

theorem unitWrite_shared (n : Nat) (s : State) (q : Req) (va : Nat) (bytes : List Byte) : SharedOnly s (s.unitWrite q va bytes n).2 := by
  induction n generalizing s va bytes with
  | zero => exact .refl s
  | succ n ih =>
    have h := (unitPage_readsOnly s q va needW).shared
    unfold State.unitWrite
    split
    · exact .refl s
    · dsimp only
      refine SharedOnly.trans ?_ (ih _ _ _)
      split
      · rename_i heq
        exact (h.of heq).trans (((tearDev_homesOnly _ _ _).trans (writeDev_homesOnly _ _ _ _)).trans (modSlice_homesOnly _ _ _)).shared
      · rename_i heq
        exact h.of heq

theorem unitMig_readsOnly (n : Nat) (s : State) (q : Req) (need va len : Nat) : ReadsOnly s (s.unitMig q need va len n).1 := by
  induction n generalizing s va len with
  | zero => exact .refl s
  | succ n ih =>
    have h := unitPage_readsOnly s q va need
    unfold State.unitMig
    split
    · exact .refl s
    · dsimp only
      split <;> rename_i heq
      · exact h.of heq
      · exact (h.of heq).trans (ih _ _ _)

theorem migWait_shared (s : State) (hd : MigHolder) (ctx page : Nat) : SharedOnly s (s.migWait hd ctx page) := ⟨s, _, _, _, _, .refl s, rfl⟩

/-! ## Fetches -/

theorem fetchPage_readsOnly (s : State) (q : Req) (pc : Nat) : ReadsOnly s (s.fetchPage q pc).1 := by
  have h := translate_readsOnly s q pc needX
  unfold State.fetchPage
  dsimp only
  split
  · exact .refl s
  · split <;> rename_i heq
    · split <;> exact h.of heq
    · exact h.of heq
    · exact h.of heq
    · exact h.of heq

theorem fillWord_readsOnly (s : State) (q : Req) (pc : Nat) : ReadsOnly s (s.fillWord q pc).1 := by
  have h := fetchPage_readsOnly s q pc
  unfold State.fillWord
  split <;> rename_i heq
  · exact h.of heq
  · have h1 := h.of heq
    dsimp only
    split <;> rename_i heq1
    · exact h1.next (readDev_readsOnly _ _ _ _) heq1
    · have h2 := h1.next (readDev_readsOnly _ _ _ _) heq1
      dsimp only
      exact h2.trans ((grant_readsOnly _ _ _).trans (addCopy_readsOnly _ _))

theorem fetchAhead_readsOnly (s : State) (q : Req) (pc : Nat) : ReadsOnly s (s.fetchAhead q pc) := by
  refine .foldl (fun s k => ?_) _ s
  dsimp only
  split
  · exact fillWord_readsOnly s q _
  · exact .refl s

end Sys2Proof.Machine
end

section
/-! O49: the reckoner's placement. Setting a pair up leaves the teams, so that a placed team is the one that `State.putTeamOn` appends; its slot is the
first that no team of the pair has. -/

namespace Sys2Proof.Machine

/-! ## What setting up leaves -/

theorem reconfigure_teams (s : State) (pair ctx : Nat) : (s.reconfigure pair ctx).teams = s.teams := by
  refine foldl_keeps State.teams (fun s e => ?_) _ s
  split <;> rfl

theorem setUpPair_teams (s : State) (g : Grid) (pair : Nat) (maps : List MapEntry) : (s.setUpPair g pair maps).teams = s.teams := by
  unfold State.setUpPair
  dsimp only
  split <;> rfl

theorem mapDescs_shared (n : Nat) (s : State) (q : Req) (va : Nat) : SharedOnly s (s.mapDescs q va n).1 := by
  induction n generalizing s va with
  | zero => exact .refl s
  | succ n ih =>
    have h : SharedOnly s (s.mapDesc q va).1 := by
      have hn := (homeNat_readsOnly 16 s q va).shared
      unfold State.mapDesc
      split <;> rename_i heq <;> exact hn.of heq
    exact h.trans (ih _ _)

theorem installMaps_shared (s : State) (pair ctx : Nat) (l : List Nat) : SharedOnly s (s.installMaps pair ctx l).1 := by
  unfold State.installMaps
  exact List.foldlRecOn (motive := fun (a : State × List MapEntry) => SharedOnly s a.1) l _ (.refl s) (fun a ha v _ => ha.trans (translate_readsOnly _ _ _ _).shared)

/-- Reading a grid's map leaves the teams (R68, R69). -/
theorem mapEntries_teams (s : State) (g : Grid) (pair extent : Nat) : (s.mapEntries g pair extent).1.teams = s.teams := by
  unfold State.mapEntries
  split
  · exact (installMaps_shared _ _ _ _).teams
  · have h := (mapDescs_shared g.launch.mapn s ⟨pair, g.ctx, 0⟩ g.launch.mapva).trans (installMaps_shared _ pair g.ctx (s.mapDescs ⟨pair, g.ctx, 0⟩ g.launch.mapva g.launch.mapn).2)
    dsimp only
    split <;> exact h.teams

theorem fetchEntries_teams (s : State) (g : Grid) (pair : Nat) : (s.fetchEntries g pair).teams = s.teams := by
  unfold State.fetchEntries
  exact ((fetchAhead_readsOnly s _ _).trans (fetchAhead_readsOnly _ _ _)).shared.teams

theorem freeTeamSlots_congr {s t : State} (h : t.teams = s.teams) (pair : Nat) : t.freeTeamSlots pair = s.freeTeamSlots pair := by
  unfold State.freeTeamSlots State.teamsOn
  rw [h]

/-! ## The team that is placed -/

/-- A team as R360 and R361 start it. -/
structure Starts (s : State) (g : Grid) (pair b number : Nat) (gangm : Option Nat) (ready : Bool) (uid : Nat) (t : Team) : Prop where
  uid : t.uid = uid
  grid : t.grid = g.id
  ctx : t.ctx = g.ctx
  number : t.number = number
  onPair : t.pair = pair
  baseRod : t.baseRod = b
  gangm : t.gangm = gangm
  ready : t.ready = ready
  slot : t.slot = (s.freeTeamSlots pair).getD 0 0
  entry : t.ctl.pc = g.launch.ctlEnt
  ranks : t.ranks.length = g.launch.ranks
  rank : ∀ j r, t.ranks[j]? = some r → r.num = j ∧ r.rod = b + j % g.launch.spread ∧ r.width = g.launch.width ∧ r.top = g.launch.regs ∧
    r.threads.length = g.launch.width ∧ ∃ x, r.splits = [x] ∧ x.pc = g.launch.vecEnt ∧ x.wait = .none

theorem startRanks_rank {s : State} {g : Grid} {pair b j : Nat} {r : Rank} (h : (s.startRanks g pair b)[j]? = some r) :
    ∃ slot, r = startRank g j (b + j % g.launch.spread) slot := by
  obtain ⟨n, hn, rfl⟩ := Option.map_eq_some_iff.mp (List.getElem?_map (l := List.range g.launch.ranks) ▸ h)
  obtain ⟨_, rfl⟩ := List.getElem?_eq_some_iff.mp hn
  rw [List.getElem_range]
  exact ⟨_, rfl⟩

theorem startRank_starts (g : Grid) (j q slot : Nat) : (startRank g j q slot).num = j ∧ (startRank g j q slot).rod = q ∧
    (startRank g j q slot).width = g.launch.width ∧ (startRank g j q slot).top = g.launch.regs ∧ (startRank g j q slot).threads.length = g.launch.width ∧
    ∃ x, (startRank g j q slot).splits = [x] ∧ x.pc = g.launch.vecEnt ∧ x.wait = .none :=
  ⟨rfl, rfl, rfl, rfl, List.length_replicate, _, rfl, rfl, rfl⟩

/-- Placing a team appends it to the teams, started (R360, R361). -/
theorem putTeamOn_starts (s : State) (g : Grid) (pair b number : Nat) (gangm : Option Nat) (ready : Bool) :
    ∃ t, (s.putTeamOn g pair b number gangm ready).2.teams = s.teams ++ [t] ∧ Starts s g pair b number gangm ready (s.putTeamOn g pair b number gangm ready).1 t := by
  have hteams := reconfigure_teams s pair g.ctx
  unfold State.putTeamOn
  generalize s.reconfigure pair g.ctx = v at hteams
  refine ⟨_, congrArg (· ++ [_]) hteams, ?_⟩
  exact
    { uid := rfl, grid := rfl, ctx := rfl, number := rfl, onPair := rfl, baseRod := rfl, gangm := rfl, ready := rfl, entry := rfl
      slot := congrArg (·.getD 0 0) (freeTeamSlots_congr hteams pair)
      ranks := List.length_map _ |>.trans List.length_range
      rank := fun j r hr => by
        obtain ⟨slot, rfl⟩ := startRanks_rank hr
        exact startRank_starts _ _ _ _ }

theorem Starts.congr {s s' : State} {g : Grid} {pair b number : Nat} {gangm : Option Nat} {ready : Bool} {uid : Nat} {t : Team}
    (h : Starts s' g pair b number gangm ready uid t) (hs : s'.teams = s.teams) : Starts s g pair b number gangm ready uid t :=
  { h with slot := h.slot.trans (congrArg (·.getD 0 0) (freeTeamSlots_congr hs pair)) }

/-- A pair taken for a team, set up first when it is idle, has the team (R358 to R361). -/
theorem placeOn_starts {s s1 : State} {g : Grid} {pair b number u : Nat} {gangm : Option Nat} {ready : Bool}
    (h : s.placeOn g pair b number gangm ready = (s1, some u)) : ∃ t, s1.teams = s.teams ++ [t] ∧ Starts s g pair b number gangm ready u t := by
  unfold State.placeOn at h
  split at h
  · cases h
    exact putTeamOn_starts s g pair b number gangm ready
  · have hmap := mapEntries_teams s g pair (Config.localStore - l1Size g.launch.lstore)
    split at h
    · cases h
    · rename_i v l heq
      rw [heq] at hmap
      have hset : (v.setUpPair g pair l).teams = s.teams := (setUpPair_teams v g pair l).trans hmap
      obtain ⟨t, ht, hstart⟩ := putTeamOn_starts (v.setUpPair g pair l) g pair b number gangm ready
      generalize (v.setUpPair g pair l).putTeamOn g pair b number gangm ready = w at h ht hstart
      obtain ⟨uid, y⟩ := w
      cases h
      refine ⟨t, ?_, hstart.congr hset⟩
      rw [← hset, ← ht]
      split
      · exact fetchEntries_teams _ _ _
      · rfl

/-- The slot of a placed team is the lowest that no team of its pair has (R360). -/
theorem slot_lowest {s : State} {pair : Nat} (hne : (s.freeTeamSlots pair).isEmpty = false) :
    (s.freeTeamSlots pair).getD 0 0 < 32 ∧ (∀ v ∈ s.teamsOn pair, v.slot ≠ (s.freeTeamSlots pair).getD 0 0) ∧
      ∀ n, n < (s.freeTeamSlots pair).getD 0 0 → ∃ v ∈ s.teamsOn pair, v.slot = n := by
  cases hl : s.freeTeamSlots pair with
  | nil => simp [hl] at hne
  | cons m l =>
    have hfind : (List.range 32).find? (fun n => !(s.teamsOn pair).any (fun t => t.slot == n)) = some m := by
      rw [← List.head?_filter]
      exact congrArg List.head? hl
    obtain ⟨hfree, hlt, hbelow⟩ := List.find?_range_eq_some.mp hfind
    rw [List.getD_cons_zero]
    refine ⟨List.mem_range.mp hlt, by simpa using hfree, fun n hn => by simpa using hbelow n hn⟩

theorem fits_slots {s : State} {g : Grid} {pair b : Nat} (h : s.fits g pair = some b) : (s.freeTeamSlots pair).isEmpty = false := by
  cases hm : (s.freeTeamSlots pair).isEmpty with
  | false => rfl
  | true => simp [State.fits, hm] at h

/-! ## Scans and counts -/

/-- The first of a scan is the one that no earlier one is. -/
theorem findSome?_range_first {α : Type} {f : Nat → Option α} {n q : Nat} {v : α} (hq : q < n) (hv : f q = some v) (hn : ∀ i, i < q → f i = none) :
    (List.range n).findSome? f = some v := by
  obtain ⟨m, rfl⟩ := Nat.exists_eq_add_of_lt hq
  refine List.findSome?_eq_some_iff.mpr ⟨List.range q, q, (List.range m).map (q + 1 + ·), ?_, hv, fun i hi => hn i (List.mem_range.mp hi)⟩
  rw [show q + m + 1 = (q + 1) + m by omega, List.range_add, List.range_succ, List.append_assoc]
  rfl

theorem unqueue_teams (s : State) (gid : Nat) : (s.unqueue gid).teams = s.teams := rfl
theorem unqueue_hole (s : State) (gid : Nat) : (s.unqueue gid).hole = s.hole := rfl
theorem unqueue_grid (s : State) (gid id : Nat) : (s.unqueue gid).grid id = s.grid id := rfl

theorem countPlaced_leaves (s : State) (g : Grid) (n : Nat) : (s.countPlaced g n).teams = s.teams ∧ (s.countPlaced g n).hole = s.hole ∧
    (∀ id, (s.countPlaced g n).grid id = (s.putGrid { g with placed := g.placed + n }).grid id) ∧
    (s.countPlaced g n).reckoner.gang = s.reckoner.gang := by
  unfold State.countPlaced
  dsimp only
  split <;> exact ⟨rfl, rfl, fun _ => rfl, rfl⟩

theorem notPlaced_hole (s : State) (g : Grid) (code : Nat) : (s.notPlaced g code).hole = s.hole := rfl

/-! ## The events -/

section
variable {s : State}

theorem teamPlace_stays (h : s.reckoner.gang ≠ none ∨ s.headGrid = none ∨
    ∃ g, s.headGrid = some g ∧ (g.launch.gang ≠ 0 ∨ ∀ q, q < 256 → s.fits g (32 * (q % 8) + q / 8) = none)) : s.teamPlace = s := by
  unfold State.teamPlace
  cases hg : s.headGrid with
  | none => rfl
  | some g =>
    dsimp only
    split_ifs with hc
    · rfl
    · obtain ⟨hgang, hres⟩ := not_or.mp hc
      have hnone : ((List.range 256).map scanPair).findSome? (fun p => (s.fits g p).map (fun b => (p, b))) = none := by
        rw [List.findSome?_eq_none_iff]
        intro p hp
        obtain ⟨q, hq, rfl⟩ := List.mem_map.mp hp
        rw [Option.map_eq_none_iff]
        rcases h with h | h | ⟨g', hg', h | h⟩
        · exact absurd (Option.isSome_iff_ne_none.mpr h) hres
        · simp [hg] at h
        · cases hg.symm.trans hg'
          exact absurd h hgang
        · cases hg.symm.trans hg'
          exact h q (List.mem_range.mp hq)
      rw [hnone]

/-- What TEAM_PLACE leaves when a pair was taken, or the grid's map refused (R358). -/
def State.placedOn (g : Grid) (t : State) : Option Nat → State
  | none => t.notPlaced g 2
  | some _ => t.countPlaced (t.regrid g) 1

/-- What GANG_RESERVE leaves for its members so far (R362, R363). -/
def State.reserved (g : Grid) (cluster : Nat) (members : List Nat) (t : State) : Option Nat → State
  | none => t.releaseGang.notPlaced g 2
  | some u => { t with reckoner := { t.reckoner with gang := some ⟨g.id, cluster, members ++ [u], false⟩ } }

/-- The first pair of the scan that takes the head grid's next team gets it (R359). -/
theorem teamPlace_first {g : Grid} {q p b : Nat} {t : State} {o : Option Nat} (hr : s.reckoner.gang = none) (hg : s.headGrid = some g) (hgang : g.launch.gang = 0) (hq : q < 256)
    (hp : p = 32 * (q % 8) + q / 8) (hb : s.fits g p = some b) (hfirst : ∀ q', q' < q → s.fits g (32 * (q' % 8) + q' / 8) = none)
    (hpl : s.placeOn g p b g.placed none true = (t, o)) : s.teamPlace = t.placedOn g o := by
  have hscan : ((List.range 256).map scanPair).findSome? (fun p => (s.fits g p).map (fun b => (p, b))) = some (p, b) := by
    rw [List.findSome?_map]
    refine findSome?_range_first hq ?_ (fun i hi => ?_)
    · have : s.fits g (scanPair q) = some b := by rw [← hb, hp]; rfl
      rw [Function.comp_apply, this, hp]
      rfl
    · have : s.fits g (scanPair i) = none := hfirst i hi
      rw [Function.comp_apply, this]
      rfl
  unfold State.teamPlace
  rw [hg]
  dsimp only
  rw [if_neg (by simp [hgang, hr]), hscan]
  dsimp only
  rw [hpl]
  cases o <;> rfl

theorem gangReserve_stays (hr : s.reckoner.gang = none) (h : s.headGrid = none ∨ ∃ g, s.headGrid = some g ∧ (g.launch.gang = 0 ∨ s.gangCluster g = none)) :
    s.gangReserve = s := by
  unfold State.gangReserve
  rw [hr]
  dsimp only
  rcases h with h | ⟨g, hg, h | h⟩
  · rw [h]
  · rw [hg]
    exact if_pos h
  · rw [hg]
    dsimp only
    rw [h]
    split <;> rfl

/-- The first member of a new gang (R362). -/
theorem gangReserve_first {g : Grid} {c b : Nat} {t : State} {o : Option Nat} (hr : s.reckoner.gang = none) (hg : s.headGrid = some g) (hgang : g.launch.gang ≠ 0)
    (hc : s.gangCluster g = some c) (hb : s.fits g (4 * c) = some b)
    (hpl : s.placeOn g (4 * c) b g.placed (some 0) false = (t, o)) : s.gangReserve = t.reserved g c [] o := by
  unfold State.gangReserve
  rw [hr, hg]
  dsimp only
  rw [if_neg hgang, hc]
  dsimp only [List.length_nil, Nat.add_zero]
  rw [hb]
  dsimp only
  rw [hpl]
  cases o <;> rfl

/-- The next member of the gang under way (R362). -/
theorem gangReserve_next {a : GangRes} {g : Grid} {b p : Nat} {t : State} {o : Option Nat} (hr : s.reckoner.gang = some a) (hg : s.grid a.grid = some g) (hlt : a.members.length < g.launch.gang)
    (hp : p = 4 * a.cluster + a.members.length) (hb : s.fits g p = some b)
    (hpl : s.placeOn g p b (g.placed + a.members.length) (some a.members.length) false = (t, o)) : s.gangReserve = t.reserved g a.cluster a.members o := by
  subst hp
  unfold State.gangReserve
  rw [hr]
  dsimp only
  rw [hg]
  dsimp only
  rw [if_neg (Nat.not_le.mpr hlt), hb]
  dsimp only
  rw [hpl]
  cases o <;> rfl

theorem gangCommit_waits (h : s.reckoner.gang = none ∨ ∃ a g, s.reckoner.gang = some a ∧ s.grid a.grid = some g ∧ a.members.length < g.launch.gang) :
    s.gangCommit = s := by
  unfold State.gangCommit
  rcases h with h | ⟨a, g, ha, hg, hlt⟩
  · rw [h]
  · rw [ha]
    dsimp only
    rw [hg]
    exact if_pos hlt

/-- The members of a whole gang are ready, and counted as placed (R189, R362). -/
def State.gangReady (s : State) (a : GangRes) : State :=
  { s with teams := s.teams.map (fun v => if a.members.any (fun u => u == v.uid) then { v with ready := true } else v)
           reckoner := { s.reckoner with gang := none } }

theorem gangCommit_whole {a : GangRes} {g : Grid} (ha : s.reckoner.gang = some a) (hg : s.grid a.grid = some g) (hle : g.launch.gang ≤ a.members.length) :
    s.gangCommit = (s.gangReady a).countPlaced g g.launch.gang := by
  unfold State.gangCommit
  rw [ha]
  dsimp only
  rw [hg]
  exact if_neg (Nat.not_lt.mpr hle)

end

/-- Settles O49: each event of the reckoner is an equation, and the team that it places starts as `Starts` states. -/
theorem teamsAndGangsArePlaced : Obligations.TeamsAndGangsArePlaced := by
  unfold Obligations.TeamsAndGangsArePlaced
  intro s h
  refine ⟨fun hc => exec_next rfl (teamPlace_stays hc) h, fun g q p b s1 hr hg hgang hq hp hb hfirst hh => ⟨fun hpl => ?_, fun u hpl => ?_⟩,
    fun hr hc => exec_next rfl (gangReserve_stays hr hc) h, fun g c b s1 hr hg hgang hc hb hh => ⟨fun hpl => ?_, fun u hpl => ?_⟩,
    fun a g b s1 p hr hg hlt hp hb hh => ⟨fun hpl => ?_, fun u hpl => ?_⟩, fun hc => exec_next rfl (gangCommit_waits hc) h, fun a g ha hg hle => ?_,
    exec_next rfl rfl h⟩
  · exact exec_next rfl (teamPlace_first hr hg hgang hq hp hb hfirst hpl) hh
  · obtain ⟨hteams, hhole, _, _⟩ := countPlaced_leaves s1 (s1.regrid g) 1
    obtain ⟨t, ht, hs⟩ := placeOn_starts hpl
    obtain ⟨hlt, hfree, hlow⟩ := slot_lowest (fits_slots hb)
    refine ⟨exec_next rfl (teamPlace_first hr hg hgang hq hp hb hfirst hpl) (hhole.trans hh), t, hteams.trans ht, hs.uid, hs.grid, hs.ctx, hs.number, hs.onPair, hs.baseRod, hs.gangm, hs.ready,
      hs.slot ▸ hlt, hs.slot ▸ hfree, hs.slot ▸ hlow, hs.entry, hs.ranks, hs.rank⟩
  · exact exec_next rfl (gangReserve_first hr hg hgang hc hb hpl) ((releaseGang_leaves s1 0).1.trans hh)
  · exact exec_next rfl (gangReserve_first hr hg hgang hc hb hpl) hh
  · exact exec_next rfl (gangReserve_next hr hg hlt hp hb hpl) ((releaseGang_leaves s1 0).1.trans hh)
  · exact exec_next rfl (gangReserve_next hr hg hlt hp hb hpl) hh
  · obtain ⟨hteams, hhole, hgrid, hrec⟩ := countPlaced_leaves (s.gangReady a) g g.launch.gang
    refine ⟨_, exec_next (u := s.gangCommit) rfl (gangCommit_whole ha hg hle) (hhole.trans h), hrec, countPlaced_mem _ _ _, hteams.trans ?_, { g with placed := g.placed + g.launch.gang }, ?_, rfl⟩
    · refine List.map_congr_left (fun v _ => ?_)
      simp [List.any_eq_true]
    · have hid := grid_id hg
      rw [hgrid, ← hid]
      exact putGrid_grid (g := { g with placed := g.placed + g.launch.gang }) (hid.symm ▸ hg)

end Sys2Proof.Machine
end

section
/-! The command windows under an engine's moves: what an engine reads, and writes at a home, lies in memory, scratchpads and ports, and no window of the
host changes. -/

namespace Sys2Proof.Machine

theorem tear_windows (s : State) (by_ : Nat) (w : Piece) : (s.tear by_ w).windows = s.windows := (tear_homesOnly s by_ w).shared.windows

theorem readDev_windows (s : State) (pa len part : Nat) : (s.readDev pa len part).1.windows = s.windows := (readDev_homesOnly s pa len part).shared.windows

theorem writeDev_windows (s : State) (pa part : Nat) (bytes : List Byte) : (s.writeDev pa part bytes).2.windows = s.windows :=
  (writeDev_homesOnly s pa part bytes).shared.windows

theorem translate_windows (s : State) (q : Req) (va need : Nat) : (s.translate q va need).1.windows = s.windows := (translate_readsOnly s q va need).shared.windows

theorem sendPort_windows (s : State) (port : Nat) (bytes : List Byte) : (s.sendPort port bytes).windows = s.windows := rfl

theorem clearWords_windows (s : State) (pa len : Nat) : (s.clearWords pa len).windows = s.windows := rfl

theorem readBursts_homesOnly (s : State) (pa len part : Nat) : HomesOnly s (s.readBursts pa len part).1 := by
  have htouch : ∀ u, HomesOnly u (u.touch pa part) := fun u => by
    obtain ⟨a, b, c, d, h⟩ := touch_eq u pa part
    exact h ▸ homesOnly_cache u a b c d
  have hline : ∀ u x y, HomesOnly u (u.noteLine (pa / 1024) x y) := fun u x y => by
    obtain ⟨a, b, c, d, h⟩ := noteLine_eq u (pa / 1024) x y
    exact h ▸ homesOnly_cache u a b c d
  unfold State.readBursts
  split
  · exact .refl s
  · dsimp only
    have h1 := ((reach_homesOnly s pa len).trans (htouch _)).trans (hline _ (BitVec.ofNat 32 (2 ^ ((len + 31) / 32) - 1) <<< (8 * (pa / 256 % 4))) 0)
    generalize ((s.reach pa len).touch pa part).noteLine (pa / 1024) (BitVec.ofNat 32 (2 ^ ((len + 31) / 32) - 1) <<< (8 * (pa / 256 % 4))) 0 = u at h1
    have h2 : HomesOnly u (u.sectorRead (pa / 256)).1 := by
      obtain ⟨p, f, c, h⟩ := sectorRead_eq u (pa / 256)
      exact h ▸ homesOnly_bytes u _ _ _ _ _ _ _
    generalize u.sectorRead (pa / 256) = x at h2
    obtain ⟨v, e⟩ := x
    cases e <;> exact h1.trans h2

theorem readBursts_windows (s : State) (pa len part : Nat) : (s.readBursts pa len part).1.windows = s.windows := (readBursts_homesOnly s pa len part).shared.windows

/-! ## Reads -/

theorem translateRange_windows (s : State) (q : Req) (need : Nat) (addr : Nat) (len : Nat) (n : Nat) :
    (s.translateRange q need addr len n).1.windows = s.windows := by
  induction n generalizing s addr len with
  | zero => rfl
  | succ n ih => grind [State.translateRange, translate_windows]

theorem sectorWait_windows (s : State) (pair off len : Nat) (who : Who) (whole : Bool) : (s.sectorWait pair off len who whole).1.windows = s.windows := by
  grind [State.sectorWait, State.putPair_windows]

theorem elemGlobal_windows (s : State) (q : Req) (need n : Nat) : (s.elemGlobal q need n).1.windows = s.windows := by
  grind [State.elemGlobal, translate_windows]

theorem padReady_windows (s : State) (h : Home) (len n : Nat) (who : Who) (read : Bool) : (s.padReady h len n who read).1.windows = s.windows := by
  cases h with
  | pad hp off => grind [State.padReady, sectorWait_windows]
  | _ => rfl

theorem elemPad_windows (s : State) (pair space n : Nat) (who : Who) (read : Bool) : (s.elemPad pair space n who read).1.windows = s.windows := by
  grind [State.elemPad, padReady_windows]

theorem engChunks_windows (s : State) (o : EngOp) (space want need addr len : Nat) (whole : Bool) :
    (s.engChunks o space want need addr len whole).1.windows = s.windows := by
  grind [State.engChunks, translateRange_windows, sectorWait_windows]

theorem chunkRead_windows (s : State) (addr : Nat) (c : Chunk) : (s.chunkRead addr c).1.windows = s.windows := by
  grind [State.chunkRead, readDev_windows, State.newFree_windows]

theorem chunksRead_windows (s : State) (addr : Nat) (l : List Chunk) : (s.chunksRead addr l).1.windows = s.windows := by
  induction l generalizing s addr with
  | nil => rfl
  | cons x l ih => grind [State.chunksRead, chunkRead_windows]

theorem engRead_windows (s : State) (o : EngOp) (space want addr len : Nat) : (s.engRead o space want addr len).1.windows = s.windows := by
  grind [State.engRead, engChunks_windows, chunksRead_windows]

theorem engElem_windows (s : State) (o : EngOp) (space want need n : Nat) : (s.engElem o space want need n).1.windows = s.windows := by
  grind [State.engElem, elemGlobal_windows, elemPad_windows]

theorem engValue_windows (s : State) (o : EngOp) (a : Nat) : (s.engValue o a).1.windows = s.windows := by
  grind [State.engValue, engRead_windows, engElem_windows, chunkRead_windows]

theorem engValues_windows (s : State) (o : EngOp) (l : List Nat) : (s.engValues o l).1.windows = s.windows := by
  induction l generalizing s with
  | nil => rfl
  | cons x l ih => grind [State.engValues, engValue_windows]

theorem engIndex_windows (s : State) (o : EngOp) (i : Nat) : (s.engIndex o i).1.windows = s.windows := by
  grind [State.engIndex, engRead_windows]

theorem engSpot_windows (s : State) (o : EngOp) (u : Nat) : (s.engSpot o u).1.windows = s.windows := by
  grind [State.engSpot, engIndex_windows]

theorem unitSources_windows (s : State) (o : EngOp) (p : Spot) (u : Nat) (n : Nat) : (s.unitSources o p u n).1.windows = s.windows := by
  induction n generalizing s u with
  | zero => rfl
  | succ n ih => grind [State.unitSources, engSpot_windows]

theorem engLine_windows (s : State) (o : EngOp) (space fmt need a : Nat) : (s.engLine o space fmt need a).1.windows = s.windows := by
  grind [State.engLine, engElem_windows, sectorWait_windows]

theorem lineRead_windows (s : State) (addr : Nat) (l : List Chunk) : (s.lineRead addr l).1.windows = s.windows := by
  induction l generalizing s addr with
  | nil => rfl
  | cons x l ih => grind [State.lineRead, chunkRead_windows]

theorem engMode_windows (s : State) (o : EngOp) (perm need : Nat) (a : Option Nat) : (s.engMode o perm need a).1.windows = s.windows := by
  unfold State.engMode
  split
  · rfl
  · split
    · rfl
    · grind [engChunks_windows]

theorem blockBytes_windows (s : State) (o : EngOp) (a n : Nat) : (s.blockBytes o a n).1.windows = s.windows := by
  grind [State.blockBytes, engChunks_windows, readBursts_windows, engRead_windows]

theorem engPixels_windows (s : State) (o : EngOp) (a : Nat) : (s.engPixels o a).1.windows = s.windows := by
  grind [State.engPixels, engRead_windows, engMode_windows, blockBytes_windows]

/-! ## Writes and moves -/

theorem writeHome_windows (s : State) (p : Piece) : (s.writeHome p).2.windows = s.windows := by
  grind [State.writeHome, writeDev_windows, State.putPair_windows, sendPort_windows]

theorem homePut_windows (s : State) (h : Home) (part : Nat) (bytes : List Byte) :
    (s.homePut h part bytes).2.windows = s.windows := by
  cases h with
  | host port a => grind [State.homePut, tear_windows, sendPort_windows]
  | _ => grind [State.homePut, tear_windows, writeDev_windows, clearWords_windows, State.putPair_windows]

theorem someBytes_windows (s : State) (h : Home) (part : Nat) (l : List Byte) (n : Nat) :
    (s.someBytes h part l n).2.windows = s.windows := by
  induction l generalizing s n with
  | nil => rfl
  | cons b l ih => grind [State.someBytes, State.newFree_windows, homePut_windows]

theorem mixPut_windows (s : State) (mix : Mix) (h : Home) (part at_ : Nat) (bytes : List Byte) :
    (s.mixPut mix h part at_ bytes).2.windows = s.windows := by
  unfold State.mixPut
  split
  · exact List.foldlRecOn (motive := fun (e : Nat × State) => e.2.windows = s.windows) _ _ rfl
      (fun e he b _ => by grind [someBytes_windows, homePut_windows])
  · exact homePut_windows s h part bytes

theorem mixUnit_windows (s : State) (mix : Mix) (h : Home) (part unit : Nat) (bytes : List Byte) :
    (s.mixUnit mix h part unit bytes).2.windows = s.windows := by
  grind [State.mixUnit, someBytes_windows, homePut_windows]

theorem chunksWrite_windows (s : State) (mix : Mix) (n : Nat) (l : List Chunk) (y : List Byte) :
    (s.chunksWrite mix n l y).2.windows = s.windows := by
  induction l generalizing s n y with
  | nil => rfl
  | cons c l ih => grind [State.chunksWrite, mixPut_windows]

theorem engWrite_windows (s : State) (o : EngOp) (mix : Mix) (space want addr : Nat) (bytes : List Byte) :
    (s.engWrite o mix space want addr bytes).1.windows = s.windows := by
  grind [State.engWrite, engChunks_windows, chunksWrite_windows]

theorem engPutElem_windows (s : State) (o : EngOp) (mix : Mix) (a : Nat) (v : Fv) :
    (s.engPutElem o mix a v).1.windows = s.windows := by
  grind [State.engPutElem, engElem_windows, State.newFree_windows, tear_windows, writeHome_windows, clearWords_windows, mixUnit_windows]

theorem engPutBlock_windows (s : State) (o : EngOp) (mix : Mix) (a : Nat) (vs : List Fv) :
    (s.engPutBlock o mix a vs).1.windows = s.windows := by
  grind [State.engPutBlock, engElem_windows, sectorWait_windows, mixUnit_windows]

theorem movePlain_windows (s : State) (o : EngOp) (mix : Mix) (p : Spot) (limit : Nat) :
    (s.movePlain o mix p limit).1.windows = s.windows := by
  grind [State.movePlain, engRead_windows, engWrite_windows]

theorem moveConv_windows (s : State) (o : EngOp) (mix : Mix) (p : Spot) (u : Nat) :
    (s.moveConv o mix p u).1.windows = s.windows := by
  unfold State.moveConv
  have h1 := unitSources_windows s o p u
  grind [engValues_windows, engWrite_windows, engPutElem_windows, engPutBlock_windows]

theorem moveLine_windows (s : State) (o : EngOp) (mix : Mix) (p : Spot) (u : Nat) :
    (s.moveLine o mix p u).1.windows = s.windows := by
  grind [State.moveLine, engLine_windows, lineRead_windows, mixUnit_windows]

theorem moveBlock_windows (s : State) (o : EngOp) (mix : Mix) (p : Spot) : (s.moveBlock o mix p).1.windows = s.windows := by
  unfold State.moveBlock
  dsimp only
  split
  · rfl
  · have hp := engPixels_windows s o p.src
    split
    · grind
    · split <;> grind [engMode_windows, engWrite_windows]

theorem engMove_windows (s : State) (o : EngOp) (mix : Mix) (u limit : Nat) : (s.engMove o mix u limit).1.windows = s.windows := by
  grind [State.engMove, engSpot_windows, moveBlock_windows, moveConv_windows, movePlain_windows, moveLine_windows]

theorem strayUnits_windows (s : State) (o : EngOp) (u : Nat) (n : Nat) : (s.strayUnits o u n).windows = s.windows := by
  induction n generalizing s u with
  | zero => rfl
  | succ n ih => grind [State.strayUnits, engMove_windows]

end Sys2Proof.Machine
end

section
/-! O52: contexts that halt, are saved or parked, and are torn down. Asking for a halt changes the context, the teams, the reckoner and the pairs; what
is saved leaves every window, so that the SAVE_CONTEXT that waits is the one of the start. -/

namespace Sys2Proof.Machine

/-! ## Contexts -/

theorem putCtx_ctx (s : State) (n m : Nat) (c : Ctx) : (s.putCtx n c).ctx m = if m = n then some c else s.ctx m :=
  tabGet_tabPut none s.ctxs n m (some c)

theorem putCtx_ctx_same (s : State) (n : Nat) (c : Ctx) : (s.putCtx n c).ctx n = some c := by rw [putCtx_ctx, if_pos rfl]

/-- A request to halt changes its context's mode, and takes back an unplaced gang of it (R391). -/
theorem askHalt_eq {s : State} {n : Nat} {c : Ctx} (h : s.ctx n = some c) (park : Bool) : ∃ ts r ps,
    s.askHalt n park = { s.putCtx n { c with mode := .halting park, haltReq := s.gt } with teams := ts, reckoner := r, pairs := ps } := by
  unfold State.askHalt
  rw [h]
  dsimp only
  split
  · split
    · exact releaseGang_eq _
    · exact ⟨_, _, _, rfl⟩
  · exact ⟨_, _, _, rfl⟩

theorem haltCtx_leaves (s : State) (n : Nat) (c : Ctx) : (s.haltCtx n c).hole = s.hole ∧
    (s.haltCtx n c).teams = s.teams.map (fun u => if u.ctx = n then u.halt else u) ∧
    (s.haltCtx n c).ctx n = some { c with mode := .halted (match c.mode with | .halting p => p | _ => true), haltAt := s.gt } :=
  ⟨rfl, rfl, putCtx_ctx_same _ _ _⟩

/-! ## Requests to halt -/

section
variable {s : State} {n : Nat}

theorem preempt_other (h : s.ctx n = none ∨ ∃ c, s.ctx n = some c ∧ c.mode ≠ .running ∧ ∀ p, c.mode ≠ .halting p) : s.preempt n = s := by
  unfold State.preempt
  rcases h with h | ⟨c, h, hrun, hhalt⟩
  · rw [h]
  · rw [h]
    dsimp only
    split
    · exact absurd ‹_› hrun
    · exact absurd ‹_› (hhalt _)
    · rfl

theorem preempt_halting {c : Ctx} {p : Bool} (h : s.ctx n = some c) (hm : c.mode = .halting p) : s.preempt n = s.haltCtx n c := by
  unfold State.preempt
  rw [h]
  dsimp only
  rw [hm]

theorem preempt_running {c : Ctx} (h : s.ctx n = some c) (hm : c.mode = .running) :
    s.preempt n = (s.askHalt n true).haltCtx n { c with mode := .halting true, haltReq := s.gt } := by
  obtain ⟨ts, r, ps, ha⟩ := askHalt_eq h true
  have hctx : (s.askHalt n true).ctx n = some { c with mode := .halting true, haltReq := s.gt } := by
    rw [ha]
    exact putCtx_ctx_same s n _
  unfold State.preempt
  rw [h]
  dsimp only
  rw [hm]
  dsimp only
  rw [hctx]

end

/-! ## The save area -/

theorem recordOps_windows (s : State) (n : Nat) : (s.recordOps n).windows = s.windows :=
  foldl_keeps State.windows (fun s o => strayUnits_windows s o _ _) _ s

theorem returnBlends_windows (s : State) (n : Nat) : (s.returnBlends n).windows = s.windows := by
  have h : ∀ (s : State) (r : BlendReq), (s.returnBlend r).windows = s.windows := fun s r => by
    unfold State.returnBlend
    split <;> rfl
  exact foldl_keeps State.windows h _ s

/-- The state that is saved: blend requests are back at their endpoints, and operations stop at their prefixes (R394, R439). -/
def State.toSave (s : State) (n : Nat) : State := ((s.returnBlends n).recordOps n).newFree.2

theorem toSave_saveCmd (s : State) (n : Nat) : (s.toSave n).saveCmd n = s.saveCmd n := by
  have h : (s.toSave n).windows = s.windows := (recordOps_windows _ n).trans (returnBlends_windows s n)
  unfold State.saveCmd
  rw [h]

theorem endCmd_cmdIs (s : State) (win : Nat) (c : Command) (st : Nat) : (s.endCmd win c st).cmdIs win { c with begun := true, status := some st } :=
  congrArg Window.cmd (tabGet_tabPut_same Window.start s.windows win _)

theorem endCmd_leaves (s : State) (win : Nat) (c : Command) (st n : Nat) : (s.endCmd win c st).ctx n = s.ctx n ∧ (s.endCmd win c st).teams = s.teams := ⟨rfl, rfl⟩

/-- A context that leaves the device takes its teams with it (R391). -/
theorem takeOff_leaves (s : State) (n : Nat) (c : Ctx) (v : Saved) (park : Bool) :
    (s.takeOff n c v park).ctx n = some { c with mode := (if park then CtxMode.parked else CtxMode.saved), saved := some v } ∧
    ∀ u ∈ (s.takeOff n c v park).teams, u.ctx ≠ n := by
  refine ⟨putCtx_ctx_same _ _ _, fun u hu => ?_⟩
  have h := (List.mem_filter.mp hu).2
  simpa using h

theorem unhalt_leaves (s : State) (n : Nat) (c : Ctx) : (s.unhalt n c).ctx n = some { c with mode := .running } ∧
    ∀ u ∈ (s.unhalt n c).teams, u.ctx = n → u.halted = false := by
  refine ⟨putCtx_ctx_same _ _ _, fun u hu hn => ?_⟩
  obtain ⟨t, -, rfl⟩ := List.mem_map.mp hu
  split at hn
  · rw [if_pos (by assumption)]
  · contradiction

section
variable {s : State} {n : Nat}

theorem saveArea_waits (h : s.ctx n = none ∨ ∃ c, s.ctx n = some c ∧ ((∀ p, c.mode ≠ .halted p) ∨ s.inFlight n = true)) : s.saveArea n = s := by
  unfold State.saveArea
  rcases h with h | ⟨c, h, hm | hf⟩
  · rw [h]
  · rw [h]
    dsimp only
    split
    · exact absurd ‹_› (hm _)
    · rfl
  · rw [h]
    dsimp only
    split
    · exact if_pos hf
    · rfl

variable {c : Ctx} {park : Bool} (h : s.ctx n = some c) (hm : c.mode = .halted park) (hf : s.inFlight n = false)
include h hm hf

/-- Without a SAVE_CONTEXT, the context leaves to the service kernel's own area (R391). -/
theorem saveArea_own (hc : s.saveCmd n = none) : s.saveArea n = (s.toSave n).takeOff n c ((s.toSave n).savedPart n 0) park := by
  unfold State.saveArea
  rw [h]
  dsimp only
  rw [hm]
  dsimp only
  rw [if_neg (by simp [hf])]
  have hcmd : (((s.returnBlends n).recordOps n).newFree.2).saveCmd n = none := (toSave_saveCmd s n).trans hc
  rw [hcmd]
  rfl

/-- A SAVE_CONTEXT ends OK with what it saved, or SAVE_TOO_SMALL with the context running on (R448). -/
theorem saveArea_asked {win : Nat} {cmd : Command} (hc : s.saveCmd n = some (win, cmd)) : ∃ (u : State) (w slen : Nat),
    (slen ≤ cmd.field 24 8 ∧ s.saveArea n =
      (u.takeOff n c ((s.toSave n).savedPart n (cmd.field 16 8)) park).endCmd win { cmd with wmax := w, aux := slen } 0) ∨
    s.saveArea n = (u.unhalt n c).endCmd win { cmd with wmax := w, aux := 256 } 0x0A := by
  unfold State.saveArea
  rw [h]
  dsimp only
  rw [hm]
  dsimp only
  rw [if_neg (by simp [hf])]
  have hcmd : (((s.returnBlends n).recordOps n).newFree.2).saveCmd n = some (win, cmd) := (toSave_saveCmd s n).trans hc
  rw [hcmd]
  dsimp only
  split_ifs with hlt
  · exact ⟨_, _, 0, .inr rfl⟩
  · exact ⟨_, _, _, .inl ⟨Nat.not_lt.mp hlt, rfl⟩⟩

end

/-! ## A lost link -/

/-- A running context is asked to halt and park, with its grace time (R454, R455). -/
def State.parkCtx (s : State) (n : Nat) : State :=
  match s.ctx n with
  | some c => if c.mode = CtxMode.running then (s.putCtx n { c with grace := some (s.gt + s.board.grace * 1500000) }).askHalt n true else s
  | none => s

/-- What it leaves of the context. -/
def Ctx.parking (c : Ctx) (gt grace : Nat) : Ctx := { c with mode := .halting true, haltReq := gt, grace := some (gt + grace * 1500000) }

theorem parkCtx_eq (s : State) (n : Nat) : ∃ ts r ps cs, s.parkCtx n = { s with teams := ts, reckoner := r, pairs := ps, ctxs := cs } := by
  unfold State.parkCtx
  split
  · split
    · obtain ⟨ts, r, ps, ha⟩ := askHalt_eq (putCtx_ctx_same s n _) true
      exact ⟨ts, r, ps, _, ha⟩
    · exact ⟨_, _, _, _, rfl⟩
  · exact ⟨_, _, _, _, rfl⟩

theorem parkCtx_running {s : State} {n : Nat} {c : Ctx} (h : s.ctx n = some c) (hm : c.mode = .running) :
    (s.parkCtx n).ctx n = some (c.parking s.gt s.board.grace) := by
  unfold State.parkCtx
  rw [h]
  dsimp only
  rw [if_pos hm]
  obtain ⟨ts, r, ps, ha⟩ := askHalt_eq (putCtx_ctx_same s n { c with grace := some (s.gt + s.board.grace * 1500000) }) true
  rw [ha]
  exact putCtx_ctx_same _ _ _

/-- Another context, and one that does not run, stay as they are. -/
theorem parkCtx_other {s : State} {n m : Nat} (h : m ≠ n ∨ ∃ c, s.ctx n = some c ∧ c.mode ≠ .running) : (s.parkCtx m).ctx n = s.ctx n := by
  unfold State.parkCtx
  split
  · rename_i c hc
    split
    · rename_i hrun
      have hne : n ≠ m := by
        rintro rfl
        rcases h with h | ⟨d, hd, hstop⟩
        · exact h rfl
        · cases hc.symm.trans hd
          exact hstop hrun
      obtain ⟨ts, r, ps, ha⟩ := askHalt_eq (putCtx_ctx_same s m { c with grace := some (s.gt + s.board.grace * 1500000) }) true
      rw [ha]
      refine (putCtx_ctx _ m n _).trans ?_
      rw [if_neg hne, putCtx_ctx, if_neg hne]
    · rfl
  · rfl

theorem parkAll_eq (l : List Nat) (s : State) : ∃ ts r ps cs, l.foldl State.parkCtx s = { s with teams := ts, reckoner := r, pairs := ps, ctxs := cs } := by
  refine List.foldlRecOn (motive := fun (u : State) => ∃ (ts : List Team) (r : Reckoner) (ps : Tab Pair) (cs : Tab (Option Ctx)),
    u = { s with teams := ts, reckoner := r, pairs := ps, ctxs := cs }) l _ ⟨_, _, _, _, rfl⟩ (fun u hu n _ => ?_)
  obtain ⟨ts, r, ps, cs, rfl⟩ := hu
  exact parkCtx_eq _ n

theorem parkAll_stopped (l : List Nat) {s : State} {n : Nat} {c : Ctx} (h : s.ctx n = some c) (hm : c.mode ≠ .running) :
    (l.foldl State.parkCtx s).ctx n = some c := by
  induction l generalizing s with
  | nil => exact h
  | cons a l ih => exact ih ((parkCtx_other (.inr ⟨c, h, hm⟩)).trans h)

theorem parkAll_running (l : List Nat) {s : State} {n : Nat} {c : Ctx} (hn : n ∈ l) (h : s.ctx n = some c) (hm : c.mode = .running) :
    (l.foldl State.parkCtx s).ctx n = some (c.parking s.gt s.board.grace) := by
  induction l generalizing s with
  | nil => cases hn
  | cons a l ih =>
    by_cases ha : a = n
    · subst ha
      exact parkAll_stopped l (parkCtx_running h hm) (by simp [Ctx.parking])
    · obtain ⟨ts, r, ps, cs, hs⟩ := parkCtx_eq s a
      have hctx : (s.parkCtx a).ctx n = some c := (parkCtx_other (.inl ha)).trans h
      have hk := ih ((List.mem_cons.mp hn).resolve_left (Ne.symm ha)) hctx
      rw [List.foldl_cons, hk, hs]

/-- A port that is lost counts what it drops (R454). -/
def State.lostPort (s : State) (port : Nat) : Port := { s.port port with state := .lost, dropped := (s.port port).dropped + s.posted port }

/-- The accesses and the port when a link is lost, before its contexts are asked to halt (R454). -/
def State.linkDown (s : State) (port : Nat) : State :=
  { s.newFree.2.putPort port (s.lostPort port) with
    accesses := s.accesses.map (fun a => { a with pieces := a.pieces.map (Piece.lost port s.gt s.free a.kind.writes) }) }

theorem linkLost_eq {s : State} {port : Nat} (hl : s.lit port = true) (hh : (s.port port).state = .hold) (ht : (s.port port).lostAt + 3000 ≤ s.gt) :
    s.linkLost port = (s.portCtxs port).foldl State.parkCtx (s.linkDown port) := by
  have hc : (!s.lit port || decide ((s.port port).state ≠ .hold) || decide (s.gt < (s.port port).lostAt + Config.holdTicks)) = false := by
    have : Config.holdTicks = 3000 := rfl
    simp [hl, hh, this, ht]
  unfold State.linkLost
  dsimp only
  rw [hc]
  rfl

theorem linkLost_stays {s : State} {port : Nat} (h : s.lit port = false ∨ (s.port port).state ≠ .hold ∨ s.gt < (s.port port).lostAt + 3000) :
    s.linkLost port = s := by
  refine if_pos ?_
  rcases h with h | h | h
  · simp [h]
  · simp [h]
  · simp [show Config.holdTicks = 3000 from rfl, h]

/-! ## Grace -/

theorem graceExpire_stays {s : State} {n : Nat}
    (h : s.ctx n = none ∨ ∃ c, s.ctx n = some c ∧ (c.grace = none ∨ (∃ d, c.grace = some d ∧ s.gt < d) ∨ c.mode ≠ .parked)) : s.graceExpire n = s := by
  unfold State.graceExpire
  rcases h with h | ⟨c, h, hg⟩
  · rw [h]
  · rw [h]
    dsimp only
    rcases hg with hg | ⟨d, hg, hlt⟩ | hm
    · rw [hg]
    · rw [hg]
      exact if_pos (.inl hlt)
    · split
      · rfl
      · exact if_pos (.inr hm)

theorem graceExpire_over {s : State} {n d : Nat} {c : Ctx} (h : s.ctx n = some c) (hg : c.grace = some d) (hd : d ≤ s.gt) (hm : c.mode = .parked) :
    s.graceExpire n = s.tearDown n := by
  unfold State.graceExpire
  rw [h]
  dsimp only
  rw [hg]
  exact if_neg (by simp [hm, hd])

theorem tearDown_ctx (s : State) (n m : Nat) : (s.tearDown n).ctx m = if m = n then none else s.ctx m :=
  tabGet_tabPut none s.ctxs n m none

theorem tearDown_windows (s : State) (n : Nat) : ∀ w ∈ (s.tearDown n).windows, w.2.ctx ≠ some n := by
  intro w hw
  obtain ⟨v, -, rfl⟩ := List.mem_map.mp hw
  dsimp only
  split
  · exact fun h => nomatch h
  · assumption

/-- Settles O52: each event's function is an equation in the modes, and each result is read off the state that it builds. -/
theorem contextsHaltAndLeave : Obligations.ContextsHaltAndLeave := by
  unfold Obligations.ContextsHaltAndLeave
  intro s h
  refine ⟨fun n hc => exec_next rfl (preempt_other hc) h, fun n c p hc hm => ?_, fun n c hc hm => ?_, fun n hc => exec_next rfl (saveArea_waits hc) h,
    fun n c p hc hm hf hh => ⟨s.saveArea n, ?_⟩, fun port hc => exec_next rfl (linkLost_stays hc) h, fun port hl hp ht => ?_,
    fun n hc => exec_next rfl (graceExpire_stays hc) h, fun n c d hc hg hd hm => ?_⟩
  · obtain ⟨hhole, hteams, hctx⟩ := haltCtx_leaves s n c
    refine ⟨_, exec_next rfl (preempt_halting hc hm) (hhole.trans h), haltCtx_mem _ _ _, hteams, ?_⟩
    rw [hctx, hm]
  · obtain ⟨ts, r, ps, ha⟩ := askHalt_eq hc true
    obtain ⟨hhole, hteams, hctx⟩ := haltCtx_leaves (s.askHalt n true) n { c with mode := .halting true, haltReq := s.gt }
    refine ⟨_, exec_next rfl (preempt_running hc hm) (hhole.trans ?_), (haltCtx_mem _ _ _).trans (askHalt_mem _ _ _), fun u hu hn => ?_, ?_⟩
    · rw [ha]
      exact h
    · rw [hteams] at hu
      obtain ⟨t, -, rfl⟩ := List.mem_map.mp hu
      split at hn
      · rw [if_pos (by assumption)]
        rfl
      · contradiction
    · rw [hctx, ha]
      rfl
  · have hexec : exec (.saveAreaWrite n) s = .next (s.saveArea n) := exec_next rfl rfl hh
    cases hcmd : s.saveCmd n with
    | none =>
      obtain ⟨hctx, hteams⟩ := takeOff_leaves (s.toSave n) n c ((s.toSave n).savedPart n 0) p
      have heq := saveArea_own hc hm hf hcmd
      refine ⟨_, hexec, heq ▸ hctx, fun _ => ⟨rfl, ⟨_, rfl, rfl⟩, heq ▸ hteams⟩, fun win cmd hw => by cases hw⟩
    | some e =>
      obtain ⟨win, cmd⟩ := e
      obtain ⟨u, w, slen, ⟨hle, heq⟩ | heq⟩ := saveArea_asked hc hm hf hcmd
      · obtain ⟨hctx, hteams⟩ := takeOff_leaves u n c ((s.toSave n).savedPart n (cmd.field 16 8)) p
        rw [heq] at hexec ⊢
        refine ⟨_, hexec, hctx, fun hn => (by cases hn), fun win' cmd' hw => ?_⟩
        cases hw
        exact ⟨_, endCmd_cmdIs _ _ _ _, .inl ⟨rfl, rfl, ⟨_, rfl, rfl⟩, hteams, hle⟩⟩
      · obtain ⟨hctx, hteams⟩ := unhalt_leaves u n c
        rw [heq] at hexec ⊢
        refine ⟨_, hexec, hctx, fun hn => (by cases hn), fun win' cmd' hw => ?_⟩
        cases hw
        exact ⟨_, endCmd_cmdIs _ _ _ _, .inr ⟨rfl, rfl, rfl, hteams⟩⟩
  · obtain ⟨ts, r, ps, cs, hall⟩ := parkAll_eq (s.portCtxs port) (s.linkDown port)
    have heq := (linkLost_eq hl hp ht).trans hall
    have hport : (s.linkDown port).port port = s.lostPort port := tabGet_tabPut_same Port.start s.ports port (s.lostPort port)
    refine ⟨s.linkLost port, exec_next rfl rfl (by rw [heq]; exact h), linkLost_mem s port, ?_, ?_, ⟨s.free, by rw [heq]; rfl⟩, fun n c hn hc hm => ?_⟩
    · rw [heq]
      exact congrArg Port.state hport
    · rw [heq]
      exact congrArg Port.dropped hport
    · refine ⟨c.parking s.gt s.board.grace, ?_, rfl, rfl, rfl⟩
      rw [linkLost_eq hl hp ht]
      exact parkAll_running (s.portCtxs port) (s := s.linkDown port) hn hc hm
  · refine ⟨_, exec_next rfl (graceExpire_over hc hg hd hm) h, rfl, ?_, fun g hg => ?_, fun r hr => ?_, tearDown_windows s n, fun m hne => ?_⟩
    · rw [tearDown_ctx, if_pos rfl]
    · simpa using (List.mem_filter.mp hg).2
    · simpa using (List.mem_filter.mp hr).2
    · rw [tearDown_ctx, if_neg hne]

end Sys2Proof.Machine
end

section
/-! O13: derivatives and RDUNI. What a cross-thread pass gathers are its members' values as their operand reads, once none of the reads traps. -/

namespace Sys2Proof.Machine

/-! ## Gathering -/

theorem firstTrap_none {src : Nat → Except Trap Word} {l : List Nat} (h : ∀ u ∈ l, ∃ v, src u = .ok v) : firstTrap src l = none := by
  induction l with
  | nil => rfl
  | cons u l ih =>
    obtain ⟨v, hv⟩ := h u (by simp)
    unfold firstTrap
    rw [hv]
    exact ih (fun n hn => h n (List.mem_cons_of_mem _ hn))

/-- The gathered value of a position is the low word of its operand, 0 where the read traps. -/
theorem gathered_xSource (r : Rank) (q : XthSpec) (w : FWord) (u : Nat) : gathered (xSource r q w) u = lo32 (readVal r u q.a (fldA w)) := by
  unfold gathered xSource readVal
  cases readOpd r u q.a (fldA w) <;> rfl

theorem xSource_reads {r : Rank} {q : XthSpec} {w : FWord} {l : List Nat} (h : Reads r l q.a (fldA w)) : firstTrap (xSource r q w) l = none := by
  refine firstTrap_none (fun u hu => ⟨lo32 (readVal r u q.a (fldA w)), ?_⟩)
  unfold xSource
  rw [h u hu]

/-- A pass whose threads write one result each has written them all. -/
theorem writeAll_congr {r : Rank} {age : Nat} {ps : List Nat} {o : Opd} {d : Fld} {v v' : Nat → TCap} (h : ∀ p ∈ ps, v p = v' p) :
    r.writeAll age ps o d v = r.writeAll age ps o d v' := by
  unfold Rank.writeAll
  exact List.foldl_ext _ _ _ (fun r p hp => by rw [h p hp])

/-! ## Derivatives -/

/-- DDX subtracts within a row of its quad, the first row's pair or its own (R319). -/
theorem derivPair_row (fine : Bool) (p : Nat) :
    (if fine then p / 2 * 2 + 1 else p / 4 * 4 + 1) = p / 4 * 4 + (derivPair false fine (p % 4)).2 ∧
    (if fine then p / 2 * 2 else p / 4 * 4) = p / 4 * 4 + (derivPair false fine (p % 4)).1 := by
  unfold derivPair
  cases fine
  · simp
  · simp; omega

/-- DDY subtracts within a column of its quad (R319). -/
theorem derivPair_column (fine : Bool) (p : Nat) :
    (if fine then p / 4 * 4 + p % 2 + 2 else p / 4 * 4 + 2) = p / 4 * 4 + (derivPair true fine (p % 4)).2 ∧
    (if fine then p / 4 * 4 + p % 2 else p / 4 * 4) = p / 4 * 4 + (derivPair true fine (p % 4)).1 := by
  unfold derivPair
  cases fine
  · simp
  · simp; omega

section
variable {s : State} {f : Foc} {w : FWord} (h : VecIssues s f)
include h

/-- A derivative in a quad-mode grid gives each thread the difference of the two positions of its pair (R319). -/
theorem deriv_runs {i : Instr} {opc : BitVec 8} {y : Bool} {second first : Nat → Nat}
    (hex : exec i s = answer (byStream s (derivVec opc y w) (notInCtl opc w))) (hm : w.md = 0 ∨ w.md = 0x100) (hq : s.quadMode f.t.grid = true)
    (hd : fldOk .vec .reg (fldD w) = true) (ha : fldOk .vec .reg (fldA w) = true) (hb : fldOk .vec .none (fldB w) = true)
    (hc : Clear f (f.pass w) (vregsOf .reg (fldD w) ++ vregsOf .reg (fldA w)) (vregsOf .reg (fldD w)))
    (hfull : ∀ u ∈ f.quadUsers w, ∀ n ∈ fullNeeds .reg (fldA w), f.r.isFull u n = true) (hr : Reads f.r (f.quadUsers w) .reg (fldA w))
    (hpair : ∀ p, second p = p / 4 * 4 + (derivPair y (w.md.getLsbD 8) (p % 4)).2 ∧ first p = p / 4 * 4 + (derivPair y (w.md.getLsbD 8) (p % 4)).1) :
    VecRuns i s f (fun g => (g.withRank (g.r.writeAll f.x.age (f.pass w) .reg (fldD w) (fun p =>
      val32 (fsub (lo32 (readVal f.r (second p) .reg (fldA w))) (lo32 (readVal f.r (first p) .reg (fldA w))))))).done) := by
  refine vec_runs (c := clsXth) (rd := guardKey w.g :: keysOf .reg (fldA w)) (wr := keysOf .reg (fldD w)) (act := f.pass w) (u := false) h hex ?_
    (fun now rod => (done_hole _).trans h.whole)
  have hmod : (w.md.toNat == 0 || w.md.toNat == 0x100) = true := by obtain hm | hm := hm <;> simp [hm]
  have hquad : f.s.quadMode f.t.grid = true := by rwa [focus_spec h.foc]
  unfold derivVec
  dsimp only
  rw [show f.members w.g.toNat w.gn = f.pass w from rfl, admit_none (by simp [hmod, hquad, hd, ha, hb]) hc]
  dsimp only
  rw [show ((List.range 16).filter (fun n => (f.pass w).any (fun p => p / 4 == n))).flatMap (fun n => quadOf (4 * n)) = f.quadUsers w from rfl,
    emptyNeeds_nil hfull]
  dsimp only
  rw [xSource_reads hr]
  dsimp only
  refine congrArg (fun r => ((f.issue clsXth (guardKey w.g :: keysOf .reg (fldA w)) (keysOf .reg (fldD w)) (f.pass w) false).withRank r).done) ?_
  refine writeAll_congr (fun p _ => ?_)
  rw [gathered_xSource, gathered_xSource, ← (hpair p).1, ← (hpair p).2]
  rfl

/-! ## RDUNI -/

/-- RDUNI writes one thread's value to a k register, 0 for an ended one (R320). -/
theorem rduni_runs {p0 p : Nat} {l : List Nat} (hm : w.md = 0 ∨ w.md = 0x80) (hk : w.kd = true) (hd : fldOk .vec .reg (fldD w) = true)
    (hka : w.ka = false) (ha : fldOk .vec .reg (fldA w) = true)
    (hb : (if w.md = 0x80 then fldOk .vec (.num f.r.width) (fldB w) else fldOk .vec .none (fldB w)) = true) (htop : ∀ n ∈ vregsOf .reg (fldA w), n < f.r.top)
    (hps : f.pass w = p0 :: l) (hp : p = (if w.md = 0x80 then w.b.toNat else p0))
    (hr : f.r.living p = true → (∀ n ∈ fullNeeds .reg (fldA w), f.r.isFull p n = true) ∧ Reads f.r [p] .reg (fldA w)) :
    VecRuns (.rduni w) s f (fun g => (g.withRank (g.r.writeK f.x.age w.d.toNat
      (if f.r.living p then lo32 (readVal f.r p .reg (fldA w)) else 0))).done) := by
  refine vec_runs (c := clsXth) (rd := guardKey w.g :: keysOf .reg (fldA w)) (wr := keysOf .reg (fldD w)) (act := f.pass w) (u := false) h rfl ?_
    (fun now rod => (done_hole _).trans h.whole)
  have hmod : (w.md.toNat == 0 || w.md.toNat == 0x80) = true := by obtain hm | hm := hm <;> simp [hm]
  have hbi : xBi w = decide (w.md = 0x80) := by obtain hm | hm := hm <;> simp [xBi, hm]
  unfold rduniVec
  dsimp only
  rw [show f.members w.g.toNat w.gn = f.pass w from rfl, hbi]
  simp only [decide_eq_true_eq]
  rw [admit_none (by simp only [hmod, hk, hd, hka, ha, hb, Bool.and_self, Bool.not_false]) ⟨htop, by simp⟩]
  dsimp only
  rw [hps]
  dsimp only
  rw [← hp]
  cases hl : f.r.living p with
  | false => rfl
  | true =>
    obtain ⟨hfull, hread⟩ := hr hl
    rw [if_pos rfl, emptyNeeds_nil (by simpa using hfull)]
    dsimp only
    rw [xSource_reads hread]
    dsimp only
    rw [gathered_xSource]
    rfl

end

/-- Settles O13: a derivative gathers the values of its quad, RDUNI that of one thread, and neither is in the control stream. -/
theorem derivativesAndUniformReads : Obligations.DerivativesAndUniformReads := by
  unfold Obligations.DerivativesAndUniformReads
  refine ⟨fun s f w h => ⟨fun hm hq hd ha hb hc hfull hr => ⟨?_, ?_⟩, fun p0 l p hm hk hd hka ha hb htop hps hp hr =>
    rduni_runs h hm hk hd hka ha hb htop hps hp hr⟩, fun s t w h => ⟨notInControl h rfl, notInControl h rfl, notInControl h rfl⟩⟩
  · exact deriv_runs h rfl hm hq hd ha hb hc hfull hr (derivPair_row _)
  · exact deriv_runs h rfl hm hq hd ha hb hc hfull hr (derivPair_column _)

end Sys2Proof.Machine
end

section
/-! O12: the cross-thread instructions within subgroups. A pass gathers what its members hold before any destination is written; what each computes of
the gathered values is stated by its members. -/

namespace Sys2Proof.Machine

/-! ## The pass -/

/-- B of a position, once its read does not trap. -/
theorem gathered_xLane {f : Foc} {q : XthSpec} {w : FWord} (p : Nat) : gathered (xLane f.r q w) p = (f.crossIn q w p).b := by
  unfold gathered xLane Foc.crossIn readVal
  cases q.lane with
  | false => rfl
  | true =>
    cases xBi w with
    | true => rfl
    | false =>
      dsimp only
      cases readOpd f.r p .reg (fldB w) <;> rfl

theorem xLane_reads {f : Foc} {q : XthSpec} {w : FWord} (h : q.lane = true → xBi w = false → Reads f.r (f.pass w) .reg (fldB w)) :
    firstTrap (xLane f.r q w) (f.pass w) = none := by
  refine firstTrap_none (fun p hp => ?_)
  unfold xLane
  cases hl : q.lane with
  | false => exact ⟨_, rfl⟩
  | true =>
    cases hb : xBi w with
    | true => exact ⟨_, rfl⟩
    | false => exact ⟨lo32 (readVal f.r p .reg (fldB w)), by simp [h hl hb p hp]⟩

/-- The members' values as a pass knows them. -/
theorem crossIn_eq (f : Foc) (q : XthSpec) (w : FWord) (p : Nat) :
    ({ op := xOp w, exc := xBi w, size := 2 ^ xLs w, act := f.pass w, members := xMembers f.r (xMask f.r w) (2 ^ xLs w) p, live := f.r.living,
       val := gathered (xSource f.r q w), pos := p, b := gathered (xLane f.r q w) p } : XthIn) = f.crossIn q w p := by
  rw [gathered_xLane, show gathered (xSource f.r q w) = fun u => lo32 (readVal f.r u q.a (fldA w)) from funext (gathered_xSource f.r q w)]
  rfl

section
variable {i : Instr} {q : XthSpec} {w : FWord} {s : State} {f : Foc} (h : VecIssues s f) (hex : exec i s = answer (xthExec q w s))
  (hok : xFieldsOk q f.r w = true)
include h hex hok

/-- A cross-thread pass past its checks writes each thread its result (R312 to R315). -/
theorem xthVec_runs (hmask : ∀ p ∈ f.pass w, maskHas (xMask f.r w) p = true)
    (hc : Clear f (f.pass w) (vregsOf q.d (fldD w) ++ vregsOf q.a (fldA w) ++ vregsOf (xBKind q w) (fldB w))
      (vregsOf q.d (fldD w) ++ fullNeeds (xBKind q w) (fldB w)))
    (hfull : ∀ u ∈ f.crossUsers w, ∀ n ∈ fullNeeds q.a (fldA w), f.r.isFull u n = true) (hr : Reads f.r (f.crossUsers w) q.a (fldA w))
    (hl : q.lane = true → xBi w = false → Reads f.r (f.pass w) .reg (fldB w)) :
    VecRuns i s f (fun g => (g.withRank (g.r.writeAll f.x.age (f.pass w) q.d (fldD w) (fun p => ⟨q.result (f.crossIn q w p), false⟩))).done) := by
  refine vec_runs (c := clsXth)
    (rd := guardKey w.g :: keysOf q.a (fldA w) ++ keysOf (xBKind q w) (fldB w) ++ (if xMk w then [2048 + 32 + 2 * xMm w, 2048 + 33 + 2 * xMm w] else []))
    (wr := keysOf q.d (fldD w)) (act := f.pass w) (u := false) h hex ?_ (fun now rod => (done_hole _).trans h.whole)
  have hin : (f.pass w).filter (fun p => !maskHas (xMask f.r w) p) = [] :=
    List.filter_eq_nil_iff.mpr (fun p hp => by simp [hmask p hp])
  unfold xthVec
  dsimp only
  rw [show f.members w.g.toNat w.gn = f.pass w from rfl, hok, hin]
  dsimp only
  rw [if_neg (by simp), admit_none rfl hc]
  dsimp only
  rw [show (f.pass w).flatMap (fun p => (xMembers f.r (xMask f.r w) (2 ^ xLs w) p).filter f.r.living) = f.crossUsers w from rfl, emptyNeeds_nil hfull]
  dsimp only
  rw [kErr_none h.sound, xSource_reads hr, xLane_reads hl]
  dsimp only [Option.or]
  generalize hi : f.issue _ _ _ _ _ = g
  obtain ⟨now, rod, rfl⟩ : ∃ now rod, g = f.withState (f.s.afterIssue f now rod) := hi ▸ issue_eq f _ _ _ _ _
  refine congrArg (fun r => ((f.withState (f.s.afterIssue f now rod)).withRank r).done) ?_
  refine writeAll_congr (v' := fun p => ⟨q.result (f.crossIn q w p), false⟩) (fun p _ => ?_)
  rw [crossIn_eq]

/-- A thread of the pass outside the mask makes it trap (R314). -/
theorem xthVec_illegalMask {p : Nat} {l : List Nat} (hp : (f.pass w).filter (fun p => !maskHas (xMask f.r w) p) = p :: l) :
    exec i s = .next (f.deliver { code := .illegalMask, detail := BitVec.ofNat 64 p } ⟨((f.pass w).head?).getD f.x.resume, f.issueSet (f.pass w), f.pass w⟩) := by
  refine exec_next hex ((byStream_vec h.foc _ _).trans ?_) ?_
  · unfold xthVec
    dsimp only
    rw [show f.members w.g.toNat w.gn = f.pass w from rfl, hok, hp]
    dsimp only
    rw [if_neg (by simp)]
    exact trap_plain rfl rfl (by simp)
  · rw [deliver_hole, focus_spec h.foc]
    exact h.whole

end

theorem xthOf_exec {i : Instr} {q : XthSpec} {w : FWord} (h : xthOf i = some (q, w)) (s : State) : exec i s = answer (xthExec q w s) := by
  unfold xthOf at h
  split at h <;> cases h <;> rfl

/-! ## Shuffles -/

theorem shuffle_member {x : XthIn} {l : Int} {u : Nat} (hu : u = x.pos / x.size * x.size + l.toNat) (h0 : 0 ≤ l) (h1 : l < x.size) (hm : u ∈ x.members) :
    shuffle x l = (if x.live u then x.val u else 0).setWidth 128 := by
  subst hu
  exact if_pos ⟨h0, h1, List.any_eq_true.mpr ⟨_, hm, beq_self_eq_true _⟩⟩

theorem shuffle_own {x : XthIn} {l : Int} {u : Nat} (hu : u = x.pos / x.size * x.size + l.toNat) (h : ¬ (0 ≤ l ∧ l < x.size ∧ u ∈ x.members)) :
    shuffle x l = (x.val x.pos).setWidth 128 := by
  subst hu
  refine if_neg (fun hc => h ⟨hc.1, hc.2.1, ?_⟩)
  simpa using hc.2.2

/-- The lane that each shuffle reads (R316). -/
theorem shuffle_result {x : XthIn} {i : Instr} {q : XthSpec} {w : FWord} {l : Int} (hq : xthOf i = some (q, w))
    (h : (i = .shfl w ∧ l = (x.b.toNat : Int)) ∨ (i = .shflx w ∧ l = ((x.pos % x.size ^^^ x.b.toNat : Nat) : Int)) ∨
      (i = .shflup w ∧ l = ((x.pos % x.size : Nat) : Int) - x.b.toNat) ∨ (i = .shfldn w ∧ l = ((x.pos % x.size : Nat) : Int) + x.b.toNat)) :
    q.result x = shuffle x l := by
  rcases h with ⟨rfl, rfl⟩ | ⟨rfl, rfl⟩ | ⟨rfl, rfl⟩ | ⟨rfl, rfl⟩ <;> (cases hq; rfl)

/-! ## Ballots and votes -/

theorem maskOf_getLsbD {l : List Nat} (h : ∀ u ∈ l, u < 64) (k : Nat) : (maskOf l).getLsbD k = decide (k ∈ l) := by
  induction l with
  | nil => simp [maskOf]
  | cons p l ih =>
    have hp : p < 64 := h p (by simp)
    have hbit : (1#64 <<< p).getLsbD k = decide (k = p) := by
      rw [BitVec.getLsbD_shiftLeft, BitVec.getLsbD_one]
      by_cases hk : k = p
      · subst hk
        simp [hp]
      · simp only [hk, decide_false]
        by_cases hlt : k < p
        · simp [hlt]
        · have : k - p ≠ 0 := by omega
          simp [this]
    unfold maskOf
    rw [BitVec.getLsbD_or, ih (fun u hu => h u (List.mem_cons_of_mem _ hu)), hbit]
    simp [List.mem_cons, Bool.or_comm]

/-- The bit of each member that meets a condition (R317). -/
theorem maskOf_members {x : XthIn} (h : ∀ u ∈ x.members, u < 64) (c : Nat → Bool) (u : Nat) :
    ((maskOf (x.living.filter c)).setWidth 128).getLsbD u = (decide (u ∈ x.members) && x.live u && c u) := by
  have hsub : ∀ v ∈ x.living.filter c, v < 64 := fun v hv => h v (List.mem_of_mem_filter (List.mem_of_mem_filter hv))
  rw [BitVec.getLsbD_setWidth, maskOf_getLsbD hsub]
  have hmem : decide (u ∈ x.living.filter c) = (decide (u ∈ x.members) && x.live u && c u) := by
    simp only [XthIn.living, List.mem_filter, Bool.decide_and, Bool.decide_eq_true]
  rw [hmem]
  by_cases hu : u ∈ x.members
  · have : u < 128 := by have := h u hu; omega
    simp [this]
  · simp [hu]

/-- VOTE says every, some, or all the same (R317). -/
theorem vote_result {x : XthIn} (h : x.op < 3) : specVote.result x =
    if ((x.op = 0 ∨ x.op = 2) ∧ ∀ u ∈ x.members, x.live u = true → x.val u ≠ 0) ∨
      (x.op = 1 ∧ ∃ u ∈ x.members, x.live u = true ∧ x.val u ≠ 0) ∨ (x.op = 2 ∧ ∀ u ∈ x.members, x.live u = true → x.val u = 0) then 1 else 0 := by
  have hall : (x.living.all (fun u => x.val u != 0) = true) ↔ ∀ u ∈ x.members, x.live u = true → x.val u ≠ 0 := by
    simp only [XthIn.living, List.all_eq_true, List.mem_filter, bne_iff_ne, and_imp]
  have hany : (x.living.any (fun u => x.val u != 0) = true) ↔ ∃ u ∈ x.members, x.live u = true ∧ x.val u ≠ 0 := by
    simp only [XthIn.living, List.any_eq_true, List.mem_filter, bne_iff_ne, and_assoc]
  have hnone : (x.living.any (fun u => x.val u != 0) = false) ↔ ∀ u ∈ x.members, x.live u = true → x.val u = 0 := by
    simp [XthIn.living, List.any_eq_false]
  refine Eq.trans ?_ (if_congr (or_congr (and_congr_right fun _ => hall) (or_congr (and_congr_right fun _ => hany) (and_congr_right fun _ => hnone))) rfl rfl)
  have hop : x.op = 0 ∨ x.op = 1 ∨ x.op = 2 := by omega
  change boolBits (if x.op = 0 then _ else if x.op = 1 then _ else _) = _
  unfold boolBits
  generalize x.living.all (fun u => x.val u != 0) = all
  generalize x.living.any (fun u => x.val u != 0) = any
  rcases hop with hop | hop | hop <;> rw [hop] <;> cases all <;> cases any <;> simp

/-- ELECT picks the first active member (R317). -/
theorem elect_result {x : XthIn} (h : x.members.Pairwise (· < ·)) :
    specElect.result x = 1 ↔ x.pos ∈ x.members ∧ x.pos ∈ x.act ∧ ∀ u ∈ x.members, u ∈ x.act → x.pos ≤ u := by
  have hbit : specElect.result x = 1 ↔ (x.members.filter (fun u => decide (u ∈ x.act))).head? = some x.pos := by
    change boolBits ((x.members.filter (fun u => x.act.any (fun p => p == u))).head? == some x.pos) = 1 ↔ _
    have hc : (fun u => x.act.any (fun p => p == u)) = fun u => decide (u ∈ x.act) := by
      funext u
      simp [List.any_beq']
    rw [hc]
    unfold boolBits
    split <;> simp_all
  rw [hbit]
  have hmem : ∀ u, u ∈ x.members.filter (fun u => decide (u ∈ x.act)) ↔ u ∈ x.members ∧ u ∈ x.act := fun u => by simp [List.mem_filter]
  have hsort : (x.members.filter (fun u => decide (u ∈ x.act))).Pairwise (· < ·) := h.filter _
  generalize x.members.filter (fun u => decide (u ∈ x.act)) = l at hmem hsort
  constructor
  · intro hh
    obtain ⟨l', rfl⟩ := List.head?_eq_some_iff.mp hh
    have hpos := (hmem x.pos).mp (by simp)
    refine ⟨hpos.1, hpos.2, fun u hu ha => ?_⟩
    rcases List.mem_cons.mp ((hmem u).mpr ⟨hu, ha⟩) with rfl | hin
    · exact Nat.le_refl _
    · exact Nat.le_of_lt (List.rel_of_pairwise_cons hsort hin)
  · rintro ⟨hm, ha, hmin⟩
    cases l with
    | nil => exact absurd ((hmem x.pos).mpr ⟨hm, ha⟩) (by simp)
    | cons v l =>
      obtain ⟨hvm, hva⟩ := (hmem v).mp (by simp)
      have hle := hmin v hvm hva
      rcases List.mem_cons.mp ((hmem x.pos).mpr ⟨hm, ha⟩) with heq | hin
      · rw [heq]; rfl
      · exact absurd (List.rel_of_pairwise_cons hsort hin) (Nat.not_lt.mpr hle)

/-! ## Reductions and scans -/

/-- What a member gives to a combination: an ended one its identity (R315). -/
def XthIn.given (x : XthIn) (u : Nat) : Word := if x.live u then x.val u else redIdentity x.op

/-- A combination starts from its identity, where that is neutral on the left. -/
theorem combine_foldl {x : XthIn} (h : ∀ v, redStep x.op (redIdentity x.op) v = v) (l : List Nat) :
    combine x l = l.foldl (fun a n => redStep x.op a (x.given n)) (redIdentity x.op) := by
  cases l with
  | nil => rfl
  | cons u l => rw [List.foldl_cons, h]; rfl

theorem add_foldl {x : XthIn} (ho : x.op = 0) (l : List Nat) (b : Word) :
    (l.foldl (fun a n => redStep x.op a (x.given n)) b).toNat = (b.toNat + ((l.filter x.live).map (fun u => (x.val u).toNat)).sum) % 2 ^ 32 := by
  induction l generalizing b with
  | nil => simp [Nat.mod_eq_of_lt b.isLt]
  | cons u l ih =>
    rw [List.foldl_cons, ih]
    have hstep : redStep x.op b (x.given u) = b + x.given u := by rw [ho]; rfl
    rw [hstep, BitVec.toNat_add]
    unfold XthIn.given
    cases hl : x.live u with
    | true => simp [hl, Nat.add_assoc]
    | false => simp [hl, ho, redIdentity]

theorem or_foldl {x : XthIn} (ho : x.op = 6) (l : List Nat) (b : Word) (k : Nat) :
    (l.foldl (fun a n => redStep x.op a (x.given n)) b).getLsbD k = (b.getLsbD k || l.any (fun u => x.live u && (x.val u).getLsbD k)) := by
  induction l generalizing b with
  | nil => simp
  | cons u l ih =>
    rw [List.foldl_cons, ih]
    have hstep : redStep x.op b (x.given u) = b ||| x.given u := by rw [ho]; rfl
    rw [hstep, BitVec.getLsbD_or, List.any_cons, Bool.or_assoc]
    unfold XthIn.given
    cases hl : x.live u with
    | true => simp
    | false => simp [ho, redIdentity]

theorem max_foldl {x : XthIn} (ho : x.op = 4) (l : List Nat) (b : Word) (n : Nat) :
    (l.foldl (fun a n => redStep x.op a (x.given n)) b).toNat ≤ n ↔ b.toNat ≤ n ∧ ∀ u ∈ l, x.live u = true → (x.val u).toNat ≤ n := by
  induction l generalizing b with
  | nil => simp
  | cons u l ih =>
    rw [List.foldl_cons, ih]
    have hstep : (redStep x.op b (x.given u)).toNat = max b.toNat (x.given u).toNat := by
      rw [ho]
      exact (minMax_unsigned rfl b (x.given u)).2
    rw [hstep, Nat.max_le, and_assoc, List.forall_mem_cons]
    refine and_congr_right (fun _ => and_congr_left (fun _ => ?_))
    unfold XthIn.given
    cases hl : x.live u with
    | true => simp
    | false => simp [ho, redIdentity]

/-- The members up to a position of them are those before it and itself. -/
theorem filter_upto {l : List Nat} {p : Nat} (hs : l.Pairwise (· < ·)) (hp : p ∈ l) :
    l.filter (fun u => decide (u < p) || decide (u = p)) = l.filter (fun u => decide (u < p)) ++ [p] := by
  induction l with
  | nil => cases hp
  | cons a l ih =>
    obtain ⟨ha, hl⟩ := List.pairwise_cons.mp hs
    rcases List.mem_cons.mp hp with rfl | hin
    · have h1 : l.filter (fun u => decide (u < p) || decide (u = p)) = [] :=
        List.filter_eq_nil_iff.mpr (fun u hu => by have := ha u hu; simp; omega)
      have h2 : l.filter (fun u => decide (u < p)) = [] := List.filter_eq_nil_iff.mpr (fun u hu => by have := ha u hu; simp; omega)
      simp [h1, h2]
    · have hlt := ha p hin
      simp [hlt, ih hl hin]

theorem redStep_zero {op : Nat} (h : op = 0 ∨ op = 4 ∨ op = 6) (v : Word) : redStep op (redIdentity op) v = v := by
  rcases h with rfl | rfl | rfl
  · exact BitVec.zero_add v
  · refine BitVec.eq_of_toNat_eq ?_
    exact ((minMax_unsigned rfl 0 v).2).trans (Nat.max_eq_right (Nat.zero_le _))
  · exact BitVec.zero_or

theorem extract_setWidth (v : Word) : (v.setWidth 128).extractLsb' 0 32 = v := by
  ext k hk
  simp [hk]
  omega

/-- An inclusive sum is the exclusive one and the thread's own value (R318). -/
theorem scan_add {x : XthIn} (hs : x.members.Pairwise (· < ·)) (ho : x.op = 0) (hm : x.pos ∈ x.members) (hl : x.live x.pos = true) :
    (specScan.result { x with exc := false }).extractLsb' 0 32 = (specScan.result { x with exc := true }).extractLsb' 0 32 + x.val x.pos := by
  have hin : specScan.result { x with exc := false } =
      (combine x (x.members.filter (fun u => decide (u < x.pos) || decide (u = x.pos)))).setWidth 128 := by
    refine congrArg (fun l => (combine x l).setWidth 128) (List.filter_congr (fun u _ => ?_))
    rfl
  have hex : specScan.result { x with exc := true } = (combine x (x.members.filter (fun u => decide (u < x.pos)))).setWidth 128 := by
    refine congrArg (fun l => (combine x l).setWidth 128) (List.filter_congr (fun u _ => ?_))
    simp
  have hid := redStep_zero (op := x.op) (.inl ho)
  rw [hin, hex, extract_setWidth, extract_setWidth, filter_upto hs hm, combine_foldl hid, combine_foldl hid, List.foldl_append, List.foldl_cons,
    List.foldl_nil]
  unfold XthIn.given
  rw [if_pos hl, ho]
  rfl

/-! ## The obligation -/

/-- Settles O12: the pass gathers before it writes, and each result is read off the members. -/
theorem crossThreadInstructions : Obligations.CrossThreadInstructions := by
  unfold Obligations.CrossThreadInstructions
  refine ⟨⟨fun i q w s f hq h hok => ⟨fun hmask hc hfull hr hl => xthVec_runs h (xthOf_exec hq s) hok hmask hc hfull hr hl, fun p l hp => xthVec_illegalMask h (xthOf_exec hq s) hok hp⟩,
    fun i q w s t hq h => notInControl h (xthOf_exec hq s)⟩, fun x w h64 hs hsize => ⟨fun i q l u hq hu hi => ?_, maskOf_members h64 _, maskOf_members h64 _,
    vote_result, elect_result hs, fun ho => ?_, fun ho k hk => ?_, fun ho n => ?_, scan_add hs⟩⟩
  · rw [shuffle_result hq hi]
    exact ⟨shuffle_member hu, shuffle_own hu⟩
  · have hid := redStep_zero (op := x.op) (.inl ho)
    change ((combine x x.members).setWidth 128).toNat = _
    rw [combine_foldl hid, BitVec.toNat_setWidth, Nat.mod_eq_of_lt (lt_of_lt_of_le (BitVec.isLt _) (by norm_num)), add_foldl ho]
    simp [ho, redIdentity]
  · have hid := redStep_zero (op := x.op) (.inr (.inr ho))
    change ((combine x x.members).setWidth 128).getLsbD k = _
    rw [combine_foldl hid, BitVec.getLsbD_setWidth, or_foldl ho]
    have : k < 128 := by omega
    simp [this, ho, redIdentity]
  · have hid := redStep_zero (op := x.op) (.inr (.inl ho))
    change ((combine x x.members).setWidth 128).toNat ≤ n ↔ _
    rw [combine_foldl hid, BitVec.toNat_setWidth, Nat.mod_eq_of_lt (lt_of_lt_of_le (BitVec.isLt _) (by norm_num)), max_foldl ho]
    simp [ho, redIdentity]

end Sys2Proof.Machine
end

section
/-! O30: the device heap. A block is a power of two of at least 256 bytes at a multiple of 256, so that a capability holds its bounds exactly. -/

namespace Sys2Proof.Machine

/-! ## Blocks -/

/-- The class of a 32-bit size is a power of two that holds it (R303). -/
theorem heapClass_spec {size : Nat} (h : size < 2 ^ 32) : ∃ k, k ≤ 24 ∧ heapClass size = 2 ^ (8 + k) ∧ size ≤ heapClass size := by
  have hp : ∀ k, 256 <<< k = 2 ^ (8 + k) := fun k => by rw [Nat.shiftLeft_eq, Nat.pow_add]
  unfold heapClass findBelow
  cases hf : (List.range 29).find? (fun k => decide (size ≤ 256 <<< k)) with
  | none =>
    have := List.find?_eq_none.mp hf 24 (by decide)
    rw [hp] at this
    simp at this
    omega
  | some k =>
    obtain ⟨hk, -, hlow⟩ := List.find?_range_eq_some.mp hf
    rw [Option.getD_some]
    refine ⟨k, ?_, hp k, by simpa using hk⟩
    by_contra hlt
    have := hlow 24 (by omega)
    rw [hp] at this
    simp at this
    omega

/-- What the heap picks is a block of its class inside the heap that meets no allocated one (R304). -/
theorem heapPick_spec {c : Ctx} {cls choice lo : Nat} (h : c.heapPick cls choice = some lo) :
    ∃ i, i < c.heapLen / cls ∧ lo = c.heapBase + i * cls ∧ ∀ b ∈ c.blocks, lo + cls ≤ b.1 ∨ b.1 + b.2 ≤ lo := by
  have hidle := List.find?_some h
  obtain ⟨i, hi, rfl⟩ := List.mem_map.mp (List.mem_of_find?_eq_some h)
  refine ⟨i, by simpa using (List.mem_filter.mp hi).2, rfl, fun b hb => ?_⟩
  have := List.all_eq_true.mp hidle b hb
  simpa using this

theorem deriveG_block {k : Nat} (hk : k ≤ 24) : deriveG (2 ^ (8 + k)) = 0 ∧ ceilDiv (2 ^ (8 + k)) (2 ^ (8 + 0)) = 2 ^ k := by
  have hc : ceilDiv (2 ^ (8 + k)) (2 ^ (8 + 0)) = 2 ^ k := by
    unfold ceilDiv
    rw [Nat.pow_add]
    omega
  refine ⟨?_, hc⟩
  have hlt : 2 ^ k < 2 ^ 26 := Nat.pow_lt_pow_right (by decide) (by omega)
  have hf : findBelow (fun g => decide (ceilDiv (2 ^ (8 + k)) (2 ^ (8 + g)) < 2 ^ 26)) 16 = some 0 :=
    List.find?_range_eq_some.mpr ⟨by rw [hc]; exact decide_eq_true hlt, by decide, fun j hj => absurd hj (Nat.not_lt_zero j)⟩
  unfold deriveG
  rw [hf]
  rfl

/-- The capability of a block has its bounds (R304). -/
theorem capOf_block {lo k : Nat} (hk : k ≤ 24) (hlo : lo % 256 = 0) (hlt : lo < 2 ^ 48) :
    capSpace (capOf 1 heapPerm lo (2 ^ (8 + k)) lo) = 1 ∧ capBottom (capOf 1 heapPerm lo (2 ^ (8 + k)) lo) = lo ∧
    capLen (capOf 1 heapPerm lo (2 ^ (8 + k)) lo) = 2 ^ (8 + k) ∧ capCursor (capOf 1 heapPerm lo (2 ^ (8 + k)) lo) = lo := by
  obtain ⟨hg, hl⟩ := deriveG_block hk
  have hbits : (capOf 1 heapPerm lo (2 ^ (8 + k)) lo).bits = capMake 1 heapPerm 0 (2 ^ k) (lo / 256) lo := by
    unfold capOf
    dsimp only
    rw [hg, hl]
  obtain ⟨hs, -, hb, ht, hc⟩ := capMake_fields (by decide) (by decide) (by decide) (Nat.pow_lt_pow_right (by decide) (by omega)) (by omega) hlt _ hbits
  generalize capOf 1 heapPerm lo (2 ^ (8 + k)) lo = c at *
  refine ⟨hs, by omega, ?_, hc⟩
  rw [capTop, hb, Nat.shiftLeft_eq] at ht
  rw [Nat.pow_add]
  omega

/-- What an allocation gives: the null capability and nothing taken, or a block of its class (R304). -/
theorem heapTake_gives {s s' : State} {q : Req} {size : Nat} {x : Ctx} {c : TCap} (hx : s.ctx q.ctx = some x) (h : s.heapTake q size = (s', c)) :
    (c = TCap.null ∧ s'.ctx q.ctx = some x) ∨
      (0 < size ∧ ∃ lo n, x.heapPick (heapClass size) n = some lo ∧ c = capOf 1 heapPerm lo (heapClass size) lo) := by
  unfold State.heapTake at h
  rw [hx] at h
  dsimp only at h
  split_ifs at h with hsize
  · obtain ⟨rfl, rfl⟩ := Prod.mk.inj h
    exact .inl ⟨rfl, hx⟩
  · obtain ⟨hpos, -⟩ := not_or.mp hsize
    cases hp : x.heapPick (heapClass size) (Config.freeNat s.newFree.1) with
    | none =>
      rw [hp] at h
      obtain ⟨rfl, rfl⟩ := Prod.mk.inj h
      exact .inl ⟨rfl, hx⟩
    | some lo =>
      rw [hp] at h
      exact .inr ⟨Nat.pos_of_ne_zero hpos, lo, _, hp, (Prod.mk.inj h).2.symm⟩

/-! ## Giving a block back -/

section
variable (s : State) (who : Who) (q : Req) (c : TCap)

theorem heapFree_untagged (ht : c.tag = false) :
    (s.heapFree who q c).2 = some { code := .capTag, detail := 0, addr := BitVec.ofInt 48 (capCursor c), val := c } := by
  unfold State.heapFree
  rw [ht]
  rfl

theorem heapFree_foreign (ht : c.tag = true) (ho : s.heapOwns q.ctx c = false) : ∃ d, (s.heapFree who q c).2 = some { code := .illegalOperand, detail := d } := by
  unfold State.heapFree
  rw [ht, ho]
  exact ⟨_, rfl⟩

theorem heapFree_owned (ht : c.tag = true) (ho : s.heapOwns q.ctx c = true) : (s.heapFree who q c).2 = none := by
  unfold State.heapFree
  rw [ht, ho]
  rfl

end

/-- The threads of a DFREE change the state alone. -/
theorem dfreeLoop_state {w : FWord} (ps : List Nat) (f : Foc) :
    ∃ s, (passLoop (dfreeThread w) (fun f _ => f) ps f).1 = f.withState s := by
  induction ps generalizing f with
  | nil => exact ⟨f.s, rfl⟩
  | cons p ps ih =>
    have hstep : ∀ g, dfreeThread w f p = .ok g → ∃ s, g = f.withState s := by
      intro g hg
      unfold dfreeThread at hg
      split at hg
      · cases hg
        exact ⟨f.s, rfl⟩
      · split at hg
        · cases hg
        · split at hg
          · cases hg
          · cases hg
            exact ⟨_, rfl⟩
    unfold passLoop
    split
    · rename_i g hg
      obtain ⟨s, rfl⟩ := hstep g hg
      exact ih (f.withState s)
    · exact ⟨f.s, rfl⟩
    · split
      · exact ih f
      · exact ⟨f.s, rfl⟩

/-- DFREE of a pass whose threads give up their blocks and whose release is done (R305). -/
theorem dfreeVec_runs {s : State} {f : Foc} {w : FWord} (h : VecIssues s f) (hok : dfreeOk .vec w = true)
    (hc : Clear f (f.pass w) (vregsOf .quad (fldA w)) (fullNeeds .quad (fldA w)))
    (hd : ∀ now rod g, g = (passLoop (dfreeThread w) (fun f _ => f) (f.pass w) { f with s := s.afterIssue f now rod }).1 →
      (passLoop (dfreeThread w) (fun f _ => f) (f.pass w) { f with s := s.afterIssue f now rod }).2 = none ∧ (g.afterFrees (f.pass w)).s.hole = none ∧
        ∀ p ∈ f.pass w, (g.afterFrees (f.pass w)).s.fenceDone 1 4 ⟨f.t.uid, some f.r.num, p⟩ = true) :
    VecRuns (.dfree w) s f (fun g => ((((passLoop (dfreeThread w) (fun f _ => f) (f.pass w) g).1.afterFrees (f.pass w)).withState
      (((passLoop (dfreeThread w) (fun f _ => f) (f.pass w) g).1.afterFrees (f.pass w)).s.releaseFrees
        (whoIn f.t.uid f.r.num (maskOf (f.pass w)))))).done) := by
  refine vec_runs (c := clsPer) (rd := guardKey w.g :: keysOf .quad (fldA w)) (wr := []) (act := f.pass w) (u := false) h rfl ?_
    (fun now rod => (done_hole _).trans ((releaseFrees_hole _ _).trans (hd now rod _ rfl).2.1))
  unfold dfreeVec
  dsimp only
  rw [admit_none hok hc]
  dsimp only
  rw [show f.members w.g.toNat w.gn = f.pass w from rfl]
  generalize hi : f.issue _ _ _ _ _ = g
  obtain ⟨now, rod, rfl⟩ : ∃ now rod, g = { f with s := f.s.afterIssue f now rod } := hi ▸ issue_eq f _ _ _ _ _
  obtain ⟨hnone, -, hdone⟩ := hd now rod _ rfl
  obtain ⟨u, hu⟩ := dfreeLoop_state (w := w) (f.pass w) { f with s := f.s.afterIssue f now rod }
  rw [← focus_spec h.foc] at hnone hdone
  generalize passLoop (dfreeThread w) (fun f _ => f) (f.pass w) { f with s := f.s.afterIssue f now rod } = y at hnone hdone hu
  obtain ⟨v, o⟩ := y
  obtain rfl : o = none := hnone
  obtain rfl : v = f.withState u := hu
  exact if_pos (List.all_eq_true.mpr hdone)

/-- DFREE of a control thread whose block is its own and whose release is done (R305). -/
theorem dfreeCtl_runs {s : State} {t : Team} {w : FWord} (h : CtlIssues s t) (hg : t.guard w.g w.gn) (hok : dfreeOk .ctl w = true)
    (hd : ∀ now last s1, s1 = ((s.afterCtl t now last).heapFree ⟨t.uid, none, 0⟩ t.req (t.ctl.getC (w.a.toNat - 64))).1 →
      ((s.afterCtl t now last).heapFree ⟨t.uid, none, 0⟩ t.req (t.ctl.getC (w.a.toNat - 64))).2 = none ∧ (s1.afterFree t).hole = none ∧
        (s1.afterFree t).fenceDone 1 4 ⟨t.uid, none, 0⟩ = true) :
    CtlRuns (.dfree w) s t (fun s u =>
      (((s.heapFree ⟨t.uid, none, 0⟩ t.req (t.ctl.getC (w.a.toNat - 64))).1.afterFree t).releaseFrees (whoCtl t.uid)).ctlDone u) := by
  refine ctl_acts h rfl (by unfold dfreeCtl; rfl) hok hg (fun now last e ra => ?_)
    (fun now last e ra => (ctlDone_hole _ _).trans ((releaseFrees_hole _ _).trans (hd now last _ rfl).2.1))
  obtain ⟨hnone, -, hdone⟩ := hd now last _ rfl
  have hfree : (s.afterCtl t now last).heapFree ⟨(t.retimed e ra).uid, none, 0⟩ (t.retimed e ra).req ((t.retimed e ra).ctl.getC (w.a.toNat - 64)) =
      (s.afterCtl t now last).heapFree ⟨t.uid, none, 0⟩ t.req (t.ctl.getC (w.a.toNat - 64)) := rfl
  dsimp only
  rw [hfree]
  generalize (s.afterCtl t now last).heapFree ⟨t.uid, none, 0⟩ t.req (t.ctl.getC (w.a.toNat - 64)) = y at hnone hdone
  obtain ⟨v, o⟩ := y
  obtain rfl : o = none := hnone
  exact if_pos hdone

/-- Settles O30: a block's bounds are those of its capability, and a DFREE whose release is done gives up its threads' blocks. -/
theorem heapBlocks : Obligations.HeapBlocks := by
  unfold Obligations.HeapBlocks
  refine ⟨fun s s' q size x c hx hsize halign htop h => ?_, fun s who q c => ⟨heapFree_untagged s who q c, heapFree_foreign s who q c, heapFree_owned s who q c⟩,
    fun s f w h hok hc hd => dfreeVec_runs h hok hc hd, fun s t w h hg hok hd => ?_⟩
  · obtain ⟨k, hk, hcls, hle⟩ := heapClass_spec hsize
    rcases heapTake_gives hx h with ⟨rfl, hctx⟩ | ⟨hpos, lo, n, hpick, rfl⟩
    · exact ⟨fun _ => ⟨rfl, hctx⟩, fun ht => by cases ht⟩
    · obtain ⟨i, hi, hlo, hfree⟩ := heapPick_spec hpick
      rw [hcls] at *
      have hend : i * 2 ^ (8 + k) + 2 ^ (8 + k) ≤ x.heapLen := by
        have := Nat.mul_le_mul_right (2 ^ (8 + k)) (Nat.succ_le_of_lt hi)
        rw [Nat.succ_mul] at this
        exact this.trans (Nat.div_mul_le_self _ _)
      have hal : lo % 256 = 0 := by
        rw [hlo, Nat.pow_add, show i * (2 ^ 8 * 2 ^ k) = 256 * (i * 2 ^ k) by ring]
        omega
      obtain ⟨hs, hb, hl, hcur⟩ := capOf_block hk hal (by have := Nat.two_pow_pos (8 + k); omega)
      refine ⟨fun ht => (by cases ht), fun _ => ?_⟩
      rw [capTop, hs, hb, hl, hcur]
      exact ⟨rfl, rfl, hle, hpos, by omega, by omega, hfree⟩
  · exact dfreeCtl_runs h hg hok hd

end Sys2Proof.Machine
end

section
/-! O29: sampled loads, traces and allocations. Each thread reads what it needs and posts one access, and its destination registers are empty until
the access's results arrive; a control thread of RQUERY or DALLOC waits for them. -/

namespace Sys2Proof.Machine

/-! ## What a thread does before it posts its access -/

/-- A state has the accesses, the teams and the time of another. -/
structure Unposted (s t : State) : Prop where
  accesses : t.accesses = s.accesses
  teams : t.teams = s.teams
  gt : t.gt = s.gt

theorem Unposted.refl (s : State) : Unposted s s := ⟨rfl, rfl, rfl⟩

theorem Unposted.trans {s t u : State} (h : Unposted s t) (k : Unposted t u) : Unposted s u :=
  ⟨k.accesses.trans h.accesses, k.teams.trans h.teams, k.gt.trans h.gt⟩

/-- The frame of what a function returns with its state. -/
theorem Unposted.of {α : Type} {s u : State} {p : State × α} {r : α} (h : Unposted s p.1) (he : p = (u, r)) : Unposted s u := by rwa [he] at h

theorem ReadsOnly.unposted {s t : State} (h : ReadsOnly s t) : Unposted s t := ⟨h.accesses, h.shared.teams, h.shared.gt⟩

theorem mapBits_unposted (s : State) (q : Req) (h : Holder) (d : Nat) (l : List Nat) : Unposted s (s.mapBits q h d l).1 := by
  induction l generalizing s with
  | nil => exact .refl s
  | cons t ts ih =>
    have hr := (unitNat_readsOnly s q h (txMap d + t / 8) 1).unposted
    unfold State.mapBits
    dsimp only
    split <;> rename_i heq <;> exact (hr.of heq).trans (ih _)

theorem resident_unposted (s : State) (q : Req) (h : Holder) (d : Nat) (l : List Nat) : Unposted s (s.resident q h d l).1 := by
  have hm := mapBits_unposted s q h d l
  unfold State.resident
  split <;> rename_i heq <;> exact hm.of heq

theorem resolveLevel_unposted (s : State) (q : Req) (h : Holder) (d : Nat) (j : TexJob) (l n : Nat) : Unposted s (s.resolveLevel q h d j l n).1 := by
  induction n generalizing s l with
  | zero => exact .refl s
  | succ n ih =>
    have hr := resident_unposted s q h d (j.tiles d l)
    unfold State.resolveLevel
    split
    · exact .refl s
    · split
      · exact .refl s
      · split <;> rename_i heq
        · exact hr.of heq
        · exact hr.of heq
        · exact (hr.of heq).trans (ih _ _)

theorem smLevels_unposted (s : State) (q : Req) (h : Holder) (d : Nat) (j : TexJob) (tri : Bool) (from_ : Option Nat) :
    Unposted s (s.smLevels q h d j tri from_).1 := by
  unfold State.smLevels
  split
  · exact .refl s
  · rename_i l
    have h1 := resolveLevel_unposted s q h d j l 33
    split <;> rename_i heq
    · exact h1.of heq
    · exact h1.of heq
    · split
      · exact h1.of heq
      · split
        · have h2 := (h1.of heq).trans (resolveLevel_unposted _ q h d j (min (l + 1) (txLast d)) 33)
          split <;> rename_i heq2 <;> exact h2.of heq2
        · exact h1.of heq

theorem offer_unposted (s : State) (core ctx header key record : Nat) : Unposted s (s.offer core ctx header key record) := by
  unfold State.offer
  dsimp only
  split
  · exact .refl s
  · exact ⟨rfl, rfl, rfl⟩

theorem remainder_unposted (s : State) (core ctx d : Nat) (j : TexJob) (u : Option Nat) : Unposted s (s.remainder core ctx d j u) := by
  unfold State.remainder
  dsimp only
  split
  · exact .refl s
  · exact offer_unposted s _ _ _ _ _

/-- The choice of a sampled load's levels reads map bits and offers a record to the remainder ring (R156, R160). -/
theorem smStart_unposted (s : State) (q : Req) (core op md : Nat) (helper : Bool) (dr : DescRead) (args us vs : List Word) (reg : Nat) :
    Unposted s (s.smStart q core op md helper dr args us vs reg).2 := by
  cases dr with
  | bad e => exact .refl s
  | desc d =>
    have hl := smLevels_unposted s q (.texture core) d (smJob op d md args us vs).1 (op == 0 && smFilt md == 2) (smJob op d md args us vs).2.1
    unfold State.smStart
    dsimp only
    split <;> rename_i heq
    · exact hl.of heq
    · dsimp only
      split
      · exact hl.of heq
      · exact (hl.of heq).trans (remainder_unposted _ _ _ _ _ _)

theorem readDesc_unposted (s : State) (m : Master) (q : Req) (h : Holder) (c : TCap) : Unposted s (s.readDesc m q h c).1 := by
  have hr := (unitNat_readsOnly s q h (capCursor c) 64).unposted
  unfold State.readDesc
  dsimp only
  split
  · exact .refl s
  · split
    · exact .refl s
    · split <;> rename_i heq
      · exact hr.of heq
      · split
        · exact hr.of heq
        · split <;> exact hr.of heq

theorem zeroRange_unposted (s : State) (q : Req) (va len n : Nat) : Unposted s (s.zeroRange q va len n) := by
  induction n generalizing s va len with
  | zero => exact .refl s
  | succ n ih =>
    have ht := (translate_readsOnly s q va needW).unposted
    unfold State.zeroRange
    dsimp only
    split
    · exact .refl s
    · refine Unposted.trans ?_ (ih _ _ _)
      split <;> rename_i heq
      · obtain ⟨ha, htm, hg⟩ := ht.of heq
        exact ⟨ha, htm, hg⟩
      · exact ht.of heq

/-- An allocation takes a block of its context and zeroes its bytes, as an open choice (R304). -/
theorem heapTake_unposted (s : State) (q : Req) (size : Nat) : Unposted s (s.heapTake q size).1 := by
  have hfree : ∀ u : State, Unposted u u.newFree.2 := fun u => (newFree_readsOnly u).unposted
  unfold State.heapTake
  split
  · exact .refl s
  · dsimp only
    split
    · exact .refl s
    · split
      · exact hfree s
      · rename_i c _ _ _ lo _
        have hput : ∀ (u : State) (x : Ctx), Unposted u (u.putCtx q.ctx x) := fun _ _ => ⟨rfl, rfl, rfl⟩
        have hall := ((hfree s).trans (hput _ { c with blocks := (lo, heapClass size) :: c.blocks })).trans (hfree _)
        split
        · exact hall.trans (zeroRange_unposted _ _ _ _ _)
        · exact hall

/-! ## The access that a thread posts -/

theorem start_posts (s : State) (who : Who) (pair ctx space addr : Nat) (kind : AccKind) :
    ∃ x, (s.start who pair ctx space addr kind []).2.accesses = s.accesses ++ [x] ∧ x.id = s.nextId ∧ x.who = who ∧ x.born = s.gt :=
  ⟨_, rfl, rfl, rfl, rfl⟩

/-- What the destinations of a load reach, and whether a predicate is among them. -/
def loadReach (l : List Nat) (p : Nat) (preds : Nat → Prop) : Reach where
  threads q := q = p
  vregs n := n ∈ l
  preds := preds
  kregs _ := False

theorem emptyAll_within (l : List Nat) (p : Nat) (preds : Nat → Prop) (r : Rank) : Rank.Within (loadReach l p preds) r (r.emptyAll p l) :=
  foldl_within (fun r _ hn => emptyV_within (c := loadReach l p preds) rfl hn r) r

/-- What a thread does that posts an access and marks its destinations empty; `preds` are the predicates it may write. -/
structure PostsOne (l : List Nat) (p : Nat) (preds : Nat → Prop) (g g' : Foc) : Prop where
  posts : ∃ x, g'.s.accesses = g.s.accesses ++ [x] ∧ x.who = ⟨g.t.uid, some g.r.num, p⟩ ∧ x.born = g.s.gt
  team : g'.t = g.t
  split : g'.x = g.x
  within : Rank.Within (loadReach l p preds) g.r g'.r
  empty : ∀ n ∈ l, g'.r.isFull p n = false ∨ g.r.threads[p]? = none

/-- A thread whose reads change no access posts its own under the next identifier (R109, R184). -/
theorem postsOne_of {g : Foc} {u : State} {r : Rank} {l : List Nat} {p : Nat} {preds : Nat → Prop} (h : Unposted g.s u)
    (hr : Rank.Within (loadReach l p preds) g.r r) (pair ctx space addr : Nat) (kind : AccKind) :
    PostsOne l p preds g { g with s := (u.start ⟨g.t.uid, some g.r.num, p⟩ pair ctx space addr kind []).2, r := r.emptyAll p l } where
  posts := by
    obtain ⟨x, hacc, -, hwho, hborn⟩ := start_posts u ⟨g.t.uid, some g.r.num, p⟩ pair ctx space addr kind
    exact ⟨x, hacc.trans (congrArg (fun l => l ++ [x]) h.accesses), hwho, hborn.trans h.gt⟩
  team := rfl
  split := rfl
  within := hr.trans (emptyAll_within l p preds r)
  empty n hn := by
    by_cases hp : p < r.threads.length
    · exact .inl (emptyAll_isFull hp (.inl hn))
    · exact .inr (List.getElem?_eq_none (hr.length ▸ Nat.le_of_not_lt hp))

/-- A thread of SAMPLE, FETCH or RQUERY with v destinations posts one access (R306 to R308). -/
theorem smThread_posts {op : Nat} {w : FWord} {g g' : Foc} {p : Nat} (h : smThread op w g p = .ok g') (hk : w.kd = false) :
    PostsOne (vregsOf (.run (smCount op w.md.toNat)) (fldD w)) p (fun _ => False) g g' := by
  unfold smThread at h
  dsimp only at h
  split at h
  · cases h
  · rename_i c _
    have hd := readDesc_unposted g.s .vec g.t.req (.texture (coreOf g.t.pair g.r.rod)) c
    split at h
    · cases h
    · rename_i s dr heq
      split at h
      · cases h
      · rw [hk, if_neg Bool.false_ne_true] at h
        cases h
        exact postsOne_of ((hd.of heq).trans (smStart_unposted _ _ _ _ _ _ _ _ _ _ _)) (.refl _ _) _ _ _ _ _

/-- A thread of TRACE with v destinations posts one access (R310). -/
theorem traceThread_posts {w : FWord} {g g' : Foc} {p : Nat} (h : traceThread w g p = .ok g') (hk : w.kd = false) :
    PostsOne (vregsOf (.run 5) (fldD w)) p (fun _ => False) g g' := by
  unfold traceThread at h
  split at h
  · cases h
  · split at h
    · cases h
    · split at h
      · cases h
      · rw [hk, if_neg Bool.false_ne_true] at h
        cases h
        exact postsOne_of (.refl _) (.refl _ _) _ _ _ _ _

/-- A thread of DALLOC with v destinations that is no helper takes a block, writes its predicate and posts one access (R304). -/
theorem dallocThread_posts {w : FWord} {g g' : Foc} {p : Nat} (h : dallocThread w g p = .ok g') (hk : w.kd = false) (hh : g.r.helper p = false) :
    PostsOne (vregsOf .quad (fldD w)) p (fun _ => True) g g' := by
  unfold dallocThread at h
  split at h
  · cases h
  · rw [hh, hk, if_neg Bool.false_ne_true] at h
    dsimp only at h
    cases h
    exact postsOne_of (heapTake_unposted _ _ _) (putPred_within (c := loadReach (vregsOf .quad (fldD w)) p (fun _ => True)) rfl trivial _ _) _ _ _ _ _

/-! ## The passes -/

/-- What a pass of these instructions is once its checks hold: it issues, and its threads run. -/
theorem passRuns {i : Instr} {s : State} {f : Foc} {a : Foc → State} {b : State → Team → State} {step : Foc → Nat → Except Stop Foc} {zero : Foc → Nat → Foc}
    {ps : List Nat} {c : Cls} {rd wr act : List Nat} {u : Bool} (h : VecIssues s f) (hex : exec i s = answer (byStream s a b))
    (ha : (passLoop step zero ps (f.issue c rd wr act u)).2 = none → a f = (passLoop step zero ps (f.issue c rd wr act u)).1.done)
    (hw : VecWhole s f (passLoop step zero ps)) : VecRuns i s f (fun g => (passLoop step zero ps g).1.done) := by
  refine vec_runs (c := c) (rd := rd) (wr := wr) (act := act) (u := u) h hex (ha ?_) (fun now rod => (done_hole _).trans (hw now rod).2)
  obtain ⟨now, rod, hi⟩ := issue_eq f c rd wr act u
  rw [hi, focus_spec h.foc]
  exact (hw now rod).1

section
variable {s : State} {f : Foc} {w : FWord} (h : VecIssues s f)
include h

theorem smVec_runs {i : Instr} {op : Nat} {b : State → Team → State} (hex : exec i s = answer (byStream s (smVec op w) b))
    (hok : smOk op (s.quadMode f.t.grid) .vec w = true)
    (hc : Clear f (f.pass w) (vregsOf (.run (smCount op w.md.toNat)) (fldD w) ++ vregsOf .quad (fldA w) ++ vregsOf (.run (smArgs op w.md.toNat)) (fldB w))
      (vregsOf (.run (smCount op w.md.toNat)) (fldD w) ++ fullNeeds .quad (fldA w) ++ fullNeeds (.run (smArgs op w.md.toNat)) (fldB w)))
    (hw : VecWhole s f (passLoop (smThread op w) (smZero op w) (onceIf (w.kd && w.ka && w.kb && guardP0 w) (f.pass w)))) :
    VecRuns i s f (fun g => (passLoop (smThread op w) (smZero op w) (onceIf (w.kd && w.ka && w.kb && guardP0 w) (f.pass w)) g).1.done) := by
  refine passRuns (c := clsPer) (rd := guardKey w.g :: keysOf .quad (fldA w) ++ keysOf (.run (smArgs op w.md.toNat)) (fldB w))
    (wr := keysOf (.run (smCount op w.md.toNat)) (fldD w)) (act := f.pass w) (u := w.kd && w.ka && w.kb && guardP0 w) h hex (fun hnone => ?_) hw
  have hs : f.s = s := focus_spec h.foc
  unfold smVec
  dsimp only
  rw [show f.members w.g.toNat w.gn = f.pass w from rfl, admit_none (by rw [hs]; exact hok) hc]
  dsimp only
  generalize passLoop _ _ _ _ = y at hnone ⊢
  obtain ⟨v, o⟩ := y
  obtain rfl : o = none := hnone
  rfl

theorem traceVec_runs
    (hok : (plainMod w 4 && fldOk .vec (.run 5) (fldD w) && fldOk .vec .quad (fldA w) && fldOk .vec (.run 8) (fldB w)) = true)
    (hc : Clear f (f.pass w) (vregsOf (.run 5) (fldD w) ++ vregsOf .quad (fldA w) ++ vregsOf (.run 8) (fldB w))
      (vregsOf (.run 5) (fldD w) ++ fullNeeds .quad (fldA w) ++ fullNeeds (.run 8) (fldB w)))
    (hw : VecWhole s f (passLoop (traceThread w) (traceZero w) (onceIf (w.kd && w.ka && w.kb && guardP0 w) (f.pass w)))) :
    VecRuns (.trace w) s f (fun g => (passLoop (traceThread w) (traceZero w) (onceIf (w.kd && w.ka && w.kb && guardP0 w) (f.pass w)) g).1.done) := by
  refine passRuns (c := clsPer) (rd := guardKey w.g :: keysOf .quad (fldA w) ++ keysOf (.run 8) (fldB w)) (wr := keysOf (.run 5) (fldD w))
    (act := f.pass w) (u := w.kd && w.ka && w.kb && guardP0 w) h rfl (fun hnone => ?_) hw
  unfold traceVec
  dsimp only
  rw [show f.members w.g.toNat w.gn = f.pass w from rfl, admit_none hok hc]
  dsimp only
  generalize passLoop _ _ _ _ = y at hnone ⊢
  obtain ⟨v, o⟩ := y
  obtain rfl : o = none := hnone
  rfl

theorem dallocVec_runs (hok : dallocOk .vec w = true)
    (hc : Clear f (f.pass w) (vregsOf .quad (fldD w) ++ vregsOf .reg (fldA w)) (vregsOf .quad (fldD w) ++ fullNeeds .reg (fldA w)))
    (hw : VecWhole s f (passLoop (dallocThread w) (dallocZero w) (onceIf (w.kd && w.ka && guardP0 w && w.md.toNat % 8 == 0) (f.pass w)))) :
    VecRuns (.dalloc w) s f (fun g =>
      (passLoop (dallocThread w) (dallocZero w) (onceIf (w.kd && w.ka && guardP0 w && w.md.toNat % 8 == 0) (f.pass w)) g).1.done) := by
  refine passRuns (c := clsPer) (rd := guardKey w.g :: keysOf .reg (fldA w)) (wr := keysOf .quad (fldD w) ++ [4096 + w.md.toNat % 8])
    (act := f.pass w) (u := w.kd && w.ka && guardP0 w && w.md.toNat % 8 == 0) h rfl (fun hnone => ?_) hw
  unfold dallocVec
  dsimp only
  rw [show f.members w.g.toNat w.gn = f.pass w from rfl, admit_none hok hc]
  dsimp only
  generalize passLoop _ _ _ _ = y at hnone ⊢
  obtain ⟨v, o⟩ := y
  obtain rfl : o = none := hnone
  rfl

/-- Each of the instructions runs the threads of its pass in position order (R304 to R310). -/
theorem task_runs {i : Instr} {step : Foc → Nat → Except Stop Foc} {zero : Foc → Nat → Foc} {ps : List Nat} {d a b : Opd}
    (ht : taskOf i f = some (step, zero, ps)) (hf : taskForm i (s.quadMode f.t.grid) = some (w, d, a, b, true))
    (hc : Clear f (f.pass w) (vregsOf d (fldD w) ++ vregsOf a (fldA w) ++ vregsOf b (fldB w))
      (vregsOf d (fldD w) ++ fullNeeds a (fldA w) ++ fullNeeds b (fldB w)))
    (hw : VecWhole s f (passLoop step zero ps)) : VecRuns i s f (fun g => (passLoop step zero ps g).1.done) := by
  cases i <;> simp only [taskOf, taskForm, Option.some.injEq, Prod.mk.injEq, reduceCtorEq] at ht hf
  case sample =>
    obtain ⟨rfl, rfl, rfl⟩ := ht
    obtain ⟨rfl, rfl, rfl, rfl, hok⟩ := hf
    exact smVec_runs h rfl hok hc hw
  case fetch =>
    obtain ⟨rfl, rfl, rfl⟩ := ht
    obtain ⟨rfl, rfl, rfl, rfl, hok⟩ := hf
    exact smVec_runs h rfl hok hc hw
  case rquery =>
    obtain ⟨rfl, rfl, rfl⟩ := ht
    obtain ⟨rfl, rfl, rfl, rfl, hok⟩ := hf
    exact smVec_runs h rfl hok hc hw
  case trace =>
    obtain ⟨rfl, rfl, rfl⟩ := ht
    obtain ⟨rfl, rfl, rfl, rfl, hok⟩ := hf
    exact traceVec_runs h hok hc hw
  case dalloc =>
    obtain ⟨rfl, rfl, rfl⟩ := ht
    obtain ⟨rfl, rfl, rfl, rfl, hok⟩ := hf
    exact dallocVec_runs h hok ⟨fun n hn => hc.allocated n (by rw [List.mem_append]; exact .inl hn), fun p hp n hn => hc.full p hp n (by rw [List.mem_append]; exact .inl hn)⟩ hw

end

/-- A thread of one of the instructions posts one access, and but for DALLOC it writes no predicate and no memory. -/
theorem task_posts {i : Instr} {f g g' : Foc} {step : Foc → Nat → Except Stop Foc} {zero : Foc → Nat → Foc} {ps : List Nat} {w : FWord} {d a b : Opd}
    {quad ok : Bool} {p : Nat} (ht : taskOf i f = some (step, zero, ps)) (hf : taskForm i quad = some (w, d, a, b, ok)) (hs : step g p = .ok g')
    (hk : w.kd = false) (hh : g.r.helper p = false) :
    ∃ preds, PostsOne (vregsOf d (fldD w)) p preds g g' ∧ ((∀ v, i ≠ .dalloc v) → g'.s.mem = g.s.mem ∧ ∀ n, ¬ preds n) := by
  cases i <;> simp only [taskOf, taskForm, Option.some.injEq, Prod.mk.injEq, reduceCtorEq] at ht hf
  case dalloc =>
    obtain ⟨rfl, rfl, rfl⟩ := ht
    obtain ⟨rfl, rfl, rfl, rfl, -⟩ := hf
    exact ⟨_, dallocThread_posts hs hk hh, fun hne => absurd rfl (hne _)⟩
  case trace =>
    obtain ⟨rfl, rfl, rfl⟩ := ht
    obtain ⟨rfl, rfl, rfl, rfl, -⟩ := hf
    exact ⟨_, traceThread_posts hs hk, fun _ => ⟨traceThread_mem _ g p hs, fun _ hn => hn⟩⟩
  all_goals
    obtain ⟨rfl, rfl, rfl⟩ := ht
    obtain ⟨rfl, rfl, rfl, rfl, -⟩ := hf
    exact ⟨_, smThread_posts hs hk, fun _ => ⟨smThread_mem _ _ g p hs, fun _ hn => hn⟩⟩

/-! ## The control stream -/

section
variable {s : State} {t : Team} {w : FWord} (h : CtlIssues s t) (hg : t.guard w.g w.gn)
include h hg

/-- DALLOC of a control thread takes a block and waits for its capability (R304). -/
theorem dallocCtl_waits (hok : dallocOk .ctl w = true) (hk : w.kd = false)
    (hw : CtlWhole s t (fun s _ => (s.heapTake t.req ((t.ctl.getS w.a.toNat).toNat % 2 ^ 32)).1)) :
    CtlRuns (.dalloc w) s t (fun s u =>
      ((s.heapTake t.req ((t.ctl.getS w.a.toNat).toNat % 2 ^ 32)).1.start ⟨t.uid, none, 0⟩ t.pair t.ctx 1 0
        (.alloc (s.heapTake t.req ((t.ctl.getS w.a.toNat).toNat % 2 ^ 32)).2 w.d.toNat) []).2.ctlBlock
      (u.withCtl (u.ctl.putPred (w.md.toNat % 8) (s.heapTake t.req ((t.ctl.getS w.a.toNat).toNat % 2 ^ 32)).2.tag))
      (.result ((s.heapTake t.req ((t.ctl.getS w.a.toNat).toNat % 2 ^ 32)).1.nextId))) :=
  ctl_acts h rfl (by unfold dallocCtl; rfl) (by rw [hok, hk]; rfl) hg (fun _ _ _ _ => rfl) (fun now last e ra => hw now last e ra)

/-- The sampler's part of a control thread's RQUERY, whose descriptor is read (R309). -/
def rqueryStart (w : FWord) (dr : DescRead) (s : State) (t : Team) : AccKind × State :=
  s.smStart t.req (2 * t.pair + t.layer) 2 w.md.toNat false dr ((List.range 4).map (fun i => (t.ctl.getS (w.b.toNat + i)).extractLsb' 0 32)) [] []
    w.d.toNat

/-- The descriptor read of a control thread's RQUERY (R153). -/
def rqueryDesc (w : FWord) (s : State) (t : Team) : State × Except Trap DescRead :=
  s.readDesc .ctl t.req (.texture (2 * t.pair + t.layer)) (t.ctl.getC (w.a.toNat - 64))

/-- RQUERY of a control thread posts one access and waits for its result (R309). -/
theorem rqueryCtl_runs {dr : DescRead} (hok : smOk 2 false .ctl w = true)
    (hw : ∀ now last, ∃ x, rqueryDesc w (s.afterCtl t now last) t = (x, .ok dr) ∧ (rqueryStart w dr x t).2.hole = none) :
    CtlRuns (.rquery w) s t (fun s u =>
      ((rqueryStart w dr (rqueryDesc w s t).1 t).2.start ⟨t.uid, none, 0⟩ t.pair t.ctx 1 0 (rqueryStart w dr (rqueryDesc w s t).1 t).1 []).2.ctlBlock u
        (.result (rqueryStart w dr (rqueryDesc w s t).1 t).2.nextId)) := by
  refine ctl_acts h rfl (by unfold rqueryCtl; rfl) hok hg (fun now last e ra => ?_) (fun now last e ra => ?_)
  · obtain ⟨x, he, -⟩ := hw now last
    have hread : rqueryDesc w (s.afterCtl t now last) (t.retimed e ra) = (x, .ok dr) := he
    unfold rqueryDesc at hread
    dsimp only
    rw [hread, he]
    rfl
  · obtain ⟨x, he, hx⟩ := hw now last
    rw [he]
    exact hx

theorem rqueryCtl_waits {dr : DescRead} (hok : smOk 2 false .ctl w = true)
    (hw : ∀ now last, ∃ x, rqueryDesc w (s.afterCtl t now last) t = (x, .ok dr) ∧ (rqueryStart w dr x t).2.hole = none) :
    ∃ s' id, exec (.rquery w) s = .next s' ∧ (∃ x u, s'.accesses = s.accesses ++ [x] ∧ x.id = id ∧ x.who = ⟨t.uid, none, 0⟩ ∧
      s'.team t.uid = some u ∧ u.ctl.wait = .result id ∧ u.ctl.pc = t.ctl.pc ∧ u.ctl.s = t.ctl.s ∧ s'.mem = s.mem) := by
  obtain ⟨now, last, e, ra, hex⟩ := rqueryCtl_runs h hg hok hw
  obtain ⟨x, he, -⟩ := hw now last
  have hread : Unposted (s.afterCtl t now last) (rqueryDesc w (s.afterCtl t now last) t).1 := readDesc_unposted _ _ _ _ _
  have hmem : (rqueryDesc w (s.afterCtl t now last) t).1.mem = s.mem := readDesc_mem _ _ _ _ _
  beta_reduce at hex
  rw [he] at hex hread hmem
  have hstart : Unposted x (rqueryStart w dr x t).2 := smStart_unposted _ _ _ _ _ _ _ _ _ _ _
  have hteam : (rqueryStart w dr x t).2.team t.uid = some t := by
    unfold State.team
    rw [(hread.trans hstart).teams]
    exact h.team
  obtain ⟨a, hacc, hid, hwho, -⟩ := start_posts (rqueryStart w dr x t).2 ⟨t.uid, none, 0⟩ t.pair t.ctx 1 0 (rqueryStart w dr x t).1
  exact ⟨_, _, hex, a, _, hacc.trans (congrArg (fun l => l ++ [a]) (hread.trans hstart).accesses), hid, hwho,
    (putTeam_team hteam).trans (congrArg some (if_pos rfl)), rfl, rfl, rfl, (smStart_mem _ _ _ _ _ _ _ _ _ _ _).trans hmem⟩

end

/-! ## The obligation -/

/-- Settles O29: each thread of the pass makes its reads and posts one access, and a control thread waits for its result. -/
theorem sampledLoadsTracesAndAllocationsRun : Obligations.SampledLoadsTracesAndAllocationsRun := by
  unfold Obligations.SampledLoadsTracesAndAllocationsRun
  refine ⟨fun i s f step zero ps w d a b h ht hf hnamed hfull => ⟨task_runs h ht hf ⟨hnamed, hfull⟩, fun g g' p hs hk hh => ?_⟩,
    fun s t w h hg => ⟨dallocCtl_waits h hg, fun dr => rqueryCtl_waits h hg⟩,
    fun s t w h => ⟨notInControl h rfl, notInControl h rfl, notInControl h rfl⟩⟩
  obtain ⟨preds, hposts, hrest⟩ := task_posts ht hf hs hk hh
  refine ⟨hposts.posts, hposts.team, hposts.split, fun q n hq => hposts.within.vreg q n (fun ⟨hp, hn⟩ => hq.elim (· hp) (· hn)), hposts.empty,
    fun n => hposts.within.kreg n id, fun hne => ?_⟩
  obtain ⟨hmem, hnot⟩ := hrest hne
  exact ⟨hmem, fun q n => hposts.within.pred q n (fun ⟨_, hn⟩ => hnot n hn)⟩

end Sys2Proof.Machine
end

section
/-! The host commands' shared ground: when a window's command runs, what its body's check is, and what replacing a window or its command leaves. -/

namespace Sys2Proof.Machine

/-! ## Windows and ports -/

theorem putWindow_window (s : State) (n m : Nat) (v : Window) : (s.putWindow n v).window m = if m = n then v else s.window m :=
  tabGet_tabPut Window.start s.windows n m v

theorem putWindow_window_same (s : State) (n : Nat) (v : Window) : (s.putWindow n v).window n = v := tabGet_tabPut_same Window.start s.windows n v

theorem putCmd_cmdIs (s : State) (win : Nat) (c : Command) : (s.putCmd win c).cmdIs win c :=
  congrArg Window.cmd (putWindow_window_same s win _)

theorem endCmd_hole (s : State) (win : Nat) (c : Command) (st : Nat) : (s.endCmd win c st).hole = s.hole := rfl

/-! ## The body's check -/

/-- A byte outside the fields that are used, as the two sides of the check say it (R448). -/
theorem reserved_eq (c : Command) (used : List (Nat × Nat)) : c.reserved used = c.body.zipIdx.any (fun e =>
    decide (e.1 ≠ 0) && used.all (fun f => decide (e.2 + 8 < f.1) || decide (f.1 + f.2 ≤ e.2 + 8))) := by
  have hdual : ∀ e : Byte × Nat, (!used.any (fun f => decide (f.1 ≤ e.2 + 8) && decide (e.2 + 8 < f.1 + f.2))) =
      used.all (fun f => decide (e.2 + 8 < f.1) || decide (f.1 + f.2 ≤ e.2 + 8)) := by
    intro e
    rw [List.not_any_eq_all_not]
    congr 1
    funext f
    rw [Bool.not_and, ← decide_not, ← decide_not]
    exact congrArg₂ _ (decide_eq_decide.mpr Nat.not_le) (decide_eq_decide.mpr Nat.not_lt)
  unfold Command.reserved
  simp only [hdual]

/-- A command that is ready and has not begun ends with BAD_COMMAND when its body is refused (R448). -/
theorem runCmd_bad {s : State} {win code : Nat} {bad : Command → Bool} {act : State → Command → State} {c : Command} (h : s.cmdReady win code = some c)
    (hb : c.begun = false) (hbad : bad c = true) : s.runCmd win code bad act = s.endCmd win c 2 := by
  unfold State.runCmd
  rw [h]
  dsimp only
  rw [hb, if_neg Bool.false_ne_true, if_pos hbad]

/-- A command that is ready and whose body is right acts. -/
theorem runCmd_acts {s : State} {win code : Nat} {bad : Command → Bool} {act : State → Command → State} {c : Command} (h : s.takes win code c)
    (hbad : ∀ c : Command, bad c = c.wrong code) : s.runCmd win code bad act = act s c := by
  obtain ⟨hc, hb, hw⟩ := h
  unfold State.runCmd
  rw [hc]
  dsimp only
  rw [hb, if_neg Bool.false_ne_true, hbad, hw, if_neg Bool.false_ne_true]

theorem runCmd_idle {s : State} {win code : Nat} {bad : Command → Bool} {act : State → Command → State}
    (h : s.cmdReady win code = none ∨ ∃ c, s.cmdReady win code = some c ∧ c.begun = true) : s.runCmd win code bad act = s := by
  unfold State.runCmd
  obtain h | ⟨c, h, hb⟩ := h
  · rw [h]
  · rw [h]
    exact if_pos hb

section
variable (c : Command)

theorem launchGrid_wrong : (c.reserved [(8, 8)] || c.field 8 8 % 256 != 0) = c.wrong 1 := by rw [reserved_eq]; rfl

theorem setContext_wrong : (c.reserved [(8, 8), (16, 2), (24, 8)] || c.field 8 8 % 512 != 0 || decide (255 < c.field 16 2)) = c.wrong 2 := by
  rw [reserved_eq, Bool.or_assoc]
  rfl

theorem loadImage_wrong : (c.reserved [(8, 8), (16, 4)] || c.field 8 8 % 256 != 0) = c.wrong 3 := by rw [reserved_eq]; rfl

theorem writeValue_wrong : (c.reserved [(8, 8), (16, 8), (24, 1)] || !(c.field 24 1 == 4 || c.field 24 1 == 8) || c.field 8 8 % c.field 24 1 != 0) = c.wrong 4 := by
  rw [reserved_eq, Bool.or_assoc, Bool.not_or]
  rfl

theorem waitValue_wrong : (c.reserved [(8, 8), (16, 8), (24, 8), (32, 1), (40, 8)] || c.field 8 8 % 8 != 0 || decide (2 < c.field 32 1)) = c.wrong 5 := by
  rw [reserved_eq, Bool.or_assoc]
  rfl

theorem copyCmd_wrong : c.reserved [(8, 8), (16, 8), (24, 8)] = c.wrong 6 := by rw [reserved_eq, ← Bool.or_false (List.any _ _)]; rfl

theorem decompressCmd_wrong : c.reserved [(8, 8)] = c.wrong 7 := by rw [reserved_eq, ← Bool.or_false (List.any _ _)]; rfl

theorem partitionCmd_wrong : (c.reserved [(8, 1), (9, 1), (10, 2)] || decide (15 < c.field 8 1)) = c.wrong 8 := by rw [reserved_eq]; rfl

theorem pinCmd_wrong : (c.reserved [(8, 8), (16, 8), (24, 1), (25, 1)] || decide (15 < c.field 24 1) || decide (1 < c.field 25 1)) = c.wrong 9 := by
  rw [reserved_eq, Bool.or_assoc]
  rfl

theorem toleranceCmd_wrong : c.reserved [(8, 4)] = c.wrong 10 := by rw [reserved_eq, ← Bool.or_false (List.any _ _)]; rfl

theorem resumeCmd_wrong : (c.reserved [(8, 2), (16, 8), (24, 8)] || decide (255 < c.field 8 2)) = c.wrong 12 := by rw [reserved_eq]; rfl

theorem saveContext_wrong : (c.reserved [(8, 2), (16, 8), (24, 8)] || decide (255 < c.field 8 2)) = c.wrong 11 := by rw [reserved_eq]; rfl

end

/-! ## Reads of a service core -/

/-- A read of a service core changes homes of device memory and the service cores' checks (R80, R399). -/
theorem svcRead_readsOnly (s : State) (core pa len : Nat) : ReadsOnly s (s.svcRead core pa len).1 := by
  have h := readDev_readsOnly s pa len 0
  unfold State.svcRead
  split <;> rename_i heq
  · exact h.of heq
  · exact ((h.of heq).trans (newFree_readsOnly _)).trans (modCore_readsOnly _ _ _)

/-- A write within the installed memory leaves its bytes and every other byte, meets no hole, and its time is not before the present. -/
theorem writeDev_leaves {s : State} {pa : Nat} {bytes : List Byte} (part : Nat) (h : pa + bytes.length ≤ s.installed) :
    s.gt ≤ (s.writeDev pa part bytes).1 ∧ (s.writeDev pa part bytes).2.hole = s.hole ∧
      ∀ x, (s.writeDev pa part bytes).2.byteAt x = if pa ≤ x ∧ x < pa + bytes.length then bytes.getD (x - pa) 0 else s.byteAt x := by
  obtain ⟨p, f, a, b, c, d, heq⟩ := writeDev_eq part h
  rw [heq]
  exact ⟨Nat.le_max_left _ _, rfl, fun x => tabGet_memPut s.mem pa bytes x⟩

/-- The bytes of a number. -/
theorem natLe_getD (n v k : Nat) (h : k < n) : (natLe n v).getD k 0 = BitVec.ofNat 8 (v / 256 ^ k) := by
  induction n generalizing v k with
  | zero => exact absurd h (Nat.not_lt_zero k)
  | succ n ih =>
    cases k with
    | zero => rw [Nat.pow_zero, Nat.div_one]; rfl
    | succ k =>
      rw [Nat.pow_succ', ← Nat.div_div_eq_div_mul]
      exact ih (v / 256) k (Nat.lt_of_succ_lt_succ h)

end Sys2Proof.Machine
end

section
/-! O46: the host commands over memory, slices and time. Each acts once its window holds it ready and its body is right. -/

namespace Sys2Proof.Machine

section
variable {s : State} {win : Nat} {c : Command}

/-! ## Values -/

/-- WRITE_VALUE writes the low bytes of its value and no other byte (R448). -/
theorem writeValue_writes (hs : s.hole = none) (h : s.takes win 4 c) (hin : c.field 8 8 + c.field 24 1 ≤ s.installed) :
    ∃ t w, exec (.writeValue win) s = .next t ∧ t.cmdIs win { c with begun := true, status := some 0, wmax := w } ∧ s.gt ≤ w ∧
      ∀ x, t.byteAt x = if c.field 8 8 ≤ x ∧ x < c.field 8 8 + c.field 24 1 then BitVec.ofNat 8 (c.field 16 8 / 256 ^ (x - c.field 8 8)) else s.byteAt x := by
  have hlen := Laws.F.length_natLe (c.field 24 1) (c.field 16 8)
  obtain ⟨hw, hhole, hbytes⟩ := writeDev_leaves (s := s) (pa := c.field 8 8) (bytes := natLe (c.field 24 1) (c.field 16 8)) 0 (by rwa [hlen])
  refine ⟨_, _, exec_next rfl (runCmd_acts h writeValue_wrong) (hhole.trans hs), putCmd_cmdIs _ _ _, hw, fun x => (hbytes x).trans ?_⟩
  rw [hlen]
  split_ifs with hx
  · exact natLe_getD _ _ _ (by omega)
  · rfl

/-- The condition of WAIT_VALUE (R448). -/
theorem waitCond_iff {cond word mask value : Nat} (hc : cond ≤ 2) : waitCond cond word mask value = true ↔
    (cond = 0 ∧ word &&& mask = value) ∨ (cond = 1 ∧ word &&& mask ≠ value) ∨ (cond = 2 ∧ value ≤ word &&& mask) := by
  unfold waitCond
  dsimp only
  generalize word &&& mask = a
  obtain rfl | rfl | rfl : cond = 0 ∨ cond = 1 ∨ cond = 2 := by omega
  · simp
  · simp
  · simp

/-- A WAIT_VALUE that runs, with its time running from when it began (R448). -/
def waiting (s : State) (c : Command) : Command :=
  if c.begun then c else { c with begun := true, deadline := if c.field 40 8 = 0 then none else some (s.gt + c.field 40 8) }

/-- WAIT_VALUE reads its word, and ends OK when its condition holds (R448). -/
theorem waitValue_reads {s1 : State} {l : List Byte} (h : s.cmdReady win 5 = some c) (hb : c.begun = true ∨ c.wrong 5 = false)
    (hr : s.svcRead (s.window win).core (c.field 8 8) 8 = (s1, l)) (hs : s1.hole = none) :
    exec (.waitValue win) s = .next (if waitCond (c.field 32 1) (leNat l) (c.field 24 8) (c.field 16 8) then s1.endCmd win (waiting s c) 0
      else s1.putCmd win (waiting s c)) := by
  have hgo : ¬ (!c.begun && (c.reserved [(8, 8), (16, 8), (24, 8), (32, 1), (40, 8)] || c.field 8 8 % 8 != 0 || decide (2 < c.field 32 1))) = true := by
    rw [waitValue_wrong]
    obtain hb | hb := hb <;> simp [hb]
  have hf : ∀ lo n, (waiting s c).field lo n = c.field lo n := by
    intro lo n
    unfold waiting
    split <;> rfl
  refine exec_next (u := s.waitValue win) rfl ?_ ?_
  · unfold State.waitValue
    rw [h]
    refine (if_neg hgo).trans ?_
    change (let (u, m) := s.svcRead (s.window win).core ((waiting s c).field 8 8) 8
      if waitCond ((waiting s c).field 32 1) (leNat m) ((waiting s c).field 24 8) ((waiting s c).field 16 8) then u.endCmd win (waiting s c) 0
      else u.putCmd win (waiting s c)) = _
    rw [hf, hf, hf, hf, hr]
  · split
    · exact hs
    · exact hs

theorem waitTimeout_eq (h : s.cmdReady win 5 = some c) :
    s.waitTimeout win = c.deadline.elim s (fun d => if d ≤ s.gt then s.endCmd win c 9 else s) := by
  unfold State.waitTimeout
  rw [h]
  dsimp only
  cases c.deadline <;> rfl

/-! ## Operations of a slice's engine -/

/-- The operation that joins an engine's, and the command that waits for it (R127). -/
theorem startOp_leaves (u : State) (o : EngOp) : ∃ p, (u.startOp win c o).ops = u.ops ++ [p] ∧ (u.startOp win c o).mem = u.mem ∧
    (u.startOp win c o).hole = u.hole ∧ (u.startOp win c o).cmdIs win { c with begun := true, op := some p.id } ∧ p.kind = o.kind ∧ p.window = o.window ∧
    p.unit = 64 + (u.window win).core ∧ p.dst = o.dst ∧ p.src = o.src ∧ p.desc = o.desc ∧ p.target = o.target ∧
    p.status = (if tabGet false u.engines p.unit then some 8 else none) :=
  ⟨_, rfl, rfl, rfl, putCmd_cmdIs _ _ _, rfl, rfl, rfl, rfl, rfl, rfl, rfl, rfl⟩

theorem physCap_cursor (pa : Nat) : capCursor (physCap pa) = pa % 2 ^ 48 := (capSetCursor_fields TCap.null pa).2.2

/-- COPY hands a copy of its range to the engine of the slice that homes its window (R127, R448). -/
theorem copyCmd_starts (hs : s.hole = none) (h : s.takes win 6 c) (hd : c.field 8 8 + c.field 24 8 ≤ s.installed)
    (hsrc : c.field 16 8 + c.field 24 8 ≤ s.installed) :
    ∃ (t : State) (o : EngOp), exec (.copy win) s = .next t ∧ t.ops = s.ops ++ [o] ∧ t.mem = s.mem ∧ t.cmdIs win { c with begun := true, op := some o.id } ∧
      o.kind = .hostCopy ∧ o.window = some win ∧ o.unit = 64 + sliceOf ((s.window win).base / 4096) ∧ capCursor o.dst = c.field 8 8 % 2 ^ 48 ∧
      capCursor o.src = c.field 16 8 % 2 ^ 48 ∧ o.desc = [BitVec.ofNat 64 (c.field 24 8)] ∧
      o.status = (if tabGet false s.engines o.unit then some 8 else none) := by
  obtain ⟨p, hops, hmem, hhole, hcmd, hkind, hwin, hunit, hdst, hsr, hdesc, -, hst⟩ := startOp_leaves (win := win) (c := c) s
    (physOp .hostCopy win (c.field 8 8) (c.field 16 8) 0 [BitVec.ofNat 64 (c.field 24 8)] 0)
  refine ⟨_, p, exec_next rfl ((runCmd_acts h copyCmd_wrong).trans ?_) (hhole.trans hs), hops, hmem, hcmd, hkind, hwin, hunit, ?_, ?_, hdesc, hst⟩
  · dsimp only
    rw [reach_in hd, reach_in hsrc]
  · rw [hdst]
    exact physCap_cursor _
  · rw [hsr]
    exact physCap_cursor _

section
variable {s1 : State} {l : List Byte} (h : s.takes win 7 c) (hr : s.svcRead (s.window win).core (c.field 8 8) 64 = (s1, l)) (hs : s1.hole = none)
include h hr hs

theorem decompressCmd_refused (hbad : rtBad (leNat l) = true) : exec (.decompress win) s = .next (s1.endCmd win c 2) := by
  refine exec_next rfl ((runCmd_acts h decompressCmd_wrong).trans ?_) hs
  rw [hr]
  exact if_pos hbad

/-- DECOMPRESS hands a copy of its target onto itself to the engine of the slice that homes its window (R127, R132). -/
theorem decompressCmd_starts (hbad : rtBad (leNat l) = false) : ∃ (t : State) (o : EngOp), exec (.decompress win) s = .next t ∧ t.ops = s1.ops ++ [o] ∧
    t.mem = s1.mem ∧ t.cmdIs win { c with begun := true, op := some o.id } ∧ o.kind = .decompress ∧ o.window = some win ∧ o.target = leNat l ∧
    o.unit = 64 + sliceOf ((s.window win).base / 4096) := by
  have hw : s1.window win = s.window win := by
    unfold State.window
    rw [((svcRead_readsOnly s _ _ _).of hr).shared.windows]
  obtain ⟨p, hops, hmem, hhole, hcmd, hkind, hwin, hunit, -, -, -, htarget, -⟩ := startOp_leaves (win := win) (c := c) s1
    (physOp .decompress win (rtBase (leNat l)) (rtBase (leNat l)) 16 [BitVec.ofNat 64 (rtBlocks (leNat l))] (leNat l))
  refine ⟨_, p, exec_next rfl ((runCmd_acts h decompressCmd_wrong).trans ?_) (hhole.trans hs), hops, hmem, hcmd, hkind, hwin, htarget, ?_⟩
  · rw [hr]
    exact if_neg (ne_true_of_eq_false hbad)
  · rw [hunit, hw]
    rfl

end

/-! ## Slices and pins -/

/-- The ways of slices once those of a mask have taken a partition's (R80). -/
theorem maskedWays (mask : Nat) (p : Nat) (v : BitVec 16) (l : List Nat) (u : State) (n q : Nat) :
    tabGet 0xFFFF (tabGet Slice.start (l.foldl (fun s n => if mask.testBit n then
      s.modSlice n (fun x => { x with ways := tabPut 0xFFFF x.ways p v }) else s) u).slices n).ways q =
    if n ∈ l ∧ mask.testBit n = true ∧ q = p then v else tabGet 0xFFFF (tabGet Slice.start u.slices n).ways q := by
  induction l generalizing u with
  | nil => simp
  | cons m l ih =>
    rw [List.foldl_cons, ih]
    by_cases hm : mask.testBit m = true
    · rw [if_pos hm]
      unfold State.modSlice tabMod
      dsimp only
      rw [tabGet_tabPut]
      by_cases hn : n = m
      · subst hn
        rw [if_pos rfl, tabGet_tabPut]
        by_cases hq : q = p <;> simp [hq, hm]
      · simp [hn]
    · rw [if_neg hm]
      by_cases hn : n = m
      · subst hn
        simp [hm]
      · simp [hn]

theorem maskedSlices_keep (mask : Nat) (f : Slice → Slice) (l : List Nat) (u : State) :
    ∃ sl, l.foldl (fun s n => if mask.testBit n then s.modSlice n f else s) u = { u with slices := sl } := by
  induction l generalizing u with
  | nil => exact ⟨u.slices, rfl⟩
  | cons m l ih =>
    rw [List.foldl_cons]
    split
    · obtain ⟨sl, h⟩ := ih (u.modSlice m f)
      exact ⟨sl, h⟩
    · exact ih u

/-- PARTITION puts its way mask into every slice of its mask (R80). -/
theorem partitionCmd_masks (hs : s.hole = none) (h : s.takes win 8 c) : ∃ t, exec (.partition win) s = .next t ∧
    t.cmdIs win { c with begun := true, status := some 0 } ∧ t.mem = s.mem ∧ ∀ n p, tabGet 0xFFFF (tabGet Slice.start t.slices n).ways p =
      if n < 8 ∧ (c.field 9 1).testBit n = true ∧ p = c.field 8 1 then BitVec.ofNat 16 (c.field 10 2) else tabGet 0xFFFF (tabGet Slice.start s.slices n).ways p := by
  obtain ⟨sl, heq⟩ := maskedSlices_keep (c.field 9 1) (fun v => { v with ways := tabPut 0xFFFF v.ways (c.field 8 1) (BitVec.ofNat 16 (c.field 10 2)) }) (List.range 8) s
  have hways := maskedWays (c.field 9 1) (c.field 8 1) (BitVec.ofNat 16 (c.field 10 2)) (List.range 8) s
  rw [heq] at hways
  refine ⟨State.endCmd { s with slices := sl } win c 0,
    exec_next rfl ((runCmd_acts h partitionCmd_wrong).trans (congrArg (fun u : State => u.endCmd win c 0) heq)) hs, putCmd_cmdIs _ _ _, rfl, fun n p => ?_⟩
  exact (hways n p).trans (if_congr (and_congr_left' List.mem_range) rfl rfl)

theorem unpinLines_hole (l : List Nat) (u : State) : (u.unpinLines l).hole = u.hole := by
  refine foldl_keeps (fun u : State => u.hole) (fun u n => ?_) l u
  split <;> rfl

/-- PIN pins every line of its range, or none, or unpins them (R81). -/
theorem pinCmd_pins (hs : s.hole = none) (h : s.takes win 9 c) (hin : c.field 8 8 + c.field 16 8 ≤ s.installed) :
    (c.field 25 1 = 1 → exec (.pin win) s = .next ((s.unpinLines (linesOf (c.field 8 8) (c.field 16 8))).endCmd win c 0)) ∧
    (c.field 25 1 = 0 → ∀ s1 b, s.pinLines (c.field 24 1) (linesOf (c.field 8 8) (c.field 16 8)) = (s1, b) → s1.hole = none →
      exec (.pin win) s = .next (s1.endCmd win c (if b then 0 else 8))) := by
  refine ⟨fun h1 => exec_next rfl ((runCmd_acts h pinCmd_wrong).trans ?_) ((unpinLines_hole _ _).trans hs),
    fun h0 s1 b hp h1 => exec_next rfl ((runCmd_acts h pinCmd_wrong).trans ?_) h1⟩
  · dsimp only
    rw [reach_in hin]
    exact if_pos h1
  · dsimp only
    rw [reach_in hin]
    refine (if_neg (by omega)).trans ?_
    rw [hp]
    cases b <;> rfl

end

/-- Settles O46: each command acts once it is taken up, and each of its reads, writes, operations and pins is what R448 states. -/
theorem hostCommandsOnMemory : Obligations.HostCommandsOnMemory := by
  unfold Obligations.HostCommandsOnMemory
  refine fun s win hs => ⟨fun c h hin => writeValue_writes hs h hin, fun c d s1 l a h hb hd hr h1 ha => ?_, fun h => ?_, fun c h => ?_,
    fun c h hd hsrc => copyCmd_starts hs h hd hsrc,
    fun c s1 l d h hr h1 hd => ⟨fun hbad => decompressCmd_refused h hr h1 (hd ▸ hbad), fun hbad => by subst hd; exact decompressCmd_starts h hr h1 hbad⟩,
    fun c h => partitionCmd_masks hs h, fun c h hin => pinCmd_pins hs h hin, fun c h => exec_next rfl (runCmd_acts h toleranceCmd_wrong) hs⟩
  · obtain rfl : d = waiting s c := hd
    have hex := waitValue_reads h hb hr h1
    subst ha
    refine ⟨fun hc => ?_, fun hc => ?_⟩
    · have : waitCond (c.field 32 1) (leNat l) (c.field 24 8) (c.field 16 8) = true := (waitCond_iff (by omega)).mpr hc
      rwa [if_pos this] at hex
    · have : ¬ waitCond (c.field 32 1) (leNat l) (c.field 24 8) (c.field 16 8) = true := (waitCond_iff (by omega)).not.mpr (by omega)
      rwa [if_neg this] at hex
  · refine exec_next (u := s.waitTimeout win) rfl ?_ hs
    unfold State.waitTimeout
    rw [h]
  · have heq := waitTimeout_eq h
    refine ⟨fun d hd hle => ?_, fun d hd hlt => ?_, fun hd => ?_⟩
    · exact exec_next rfl (heq.trans (by rw [hd]; exact if_pos hle)) hs
    · exact exec_next rfl (heq.trans (by rw [hd]; exact if_neg (Nat.not_le.mpr hlt))) hs
    · exact exec_next rfl (heq.trans (by rw [hd]; rfl)) hs

end Sys2Proof.Machine
end

section
/-! O47: window entries and BAR0 registers, the seal that makes a slot the window's command, and the two parts of a completion record. -/

namespace Sys2Proof.Machine

/-! ## BAR0 -/

section
variable (w : Window) (svc : Bool) (v : Nat)

theorem write_enabled (h : w.en = true) : (w.write svc v).base = w.base ∧ (w.write svc v).recbase = w.recbase ∧ (w.write svc v).port = w.port := by
  unfold Window.write
  rw [h]
  cases svc <;> exact ⟨rfl, rfl, rfl⟩

theorem write_disabled (h : w.en = false) : (w.write svc v).base = bitsAt v 14 50 * 2 ^ 14 ∧ (w.write svc v).recbase = bitsAt v 77 51 * 2 ^ 13 ∧
    (w.write svc v).port = v % 8 := by
  unfold Window.write
  rw [h]
  cases svc <;> exact ⟨rfl, rfl, rfl⟩

/-- What a write of an entry does whatever EN is: SVC only from a service core, NEXTSEQ restarted as EN rises, the command and the context kept (R445). -/
theorem write_always : (w.write svc v).svc = (if svc then v.testBit 131 else w.svc) ∧ (w.write svc v).en = v.testBit 130 ∧
    (w.write svc v).nextseq = (if w.en = false ∧ v.testBit 130 = true then 1 else w.nextseq) ∧ (w.write svc v).cmd = w.cmd ∧ (w.write svc v).ctx = w.ctx := by
  unfold Window.write
  cases hen : w.en <;> cases svc <;> simp [hen]

end

section
variable {s : State}

theorem windowWrite_unserved {svc : Bool} {off size : Nat} {value : DWord} (h : barServes off size = false ∨ off < 0x1000 ∨ 0x1800 ≤ off) :
    s.windowWrite svc off size value = s := by
  refine if_pos ?_
  obtain h | h | h := h <;> simp [h]

theorem windowWrite_writes {svc : Bool} {off size n v : Nat} {value : DWord} (h : barServes off size = true) (hlo : 0x1000 ≤ off) (hhi : off < 0x1800)
    (hn : n = (off - 0x1000) / 32) (hv : v = setBits (s.window n).entry (off % 32 * 8) (size * 8) value.toNat) :
    s.windowWrite svc off size value = s.putWindow n ((s.window n).write svc v) := by
  subst hn
  unfold State.windowWrite
  rw [hv]
  refine if_neg ?_
  simp [h, hlo, hhi]

/-! ## Seals -/

/-- The command that a slot's bytes hold (R446 to R448). -/
def slotCommand (seq : Nat) (l : List Byte) : Command :=
  let v := leNat (l.take 8)
  let bad := decide (bitsAt v 9 23 ≠ 0) || decide (v % 256 = 0) || decide (0x0C < v % 256)
  { seq := seq, cmd := v % 256, msix := v.testBit 8, body := l.drop 8, begun := bad, deadline := none, grid := none, op := none,
    status := if bad then some 2 else none, tcode := 0, pcode := 0, dt := false, wbd := false, detail := 0, aux := 0, wmax := 0, noted := false }

theorem slotCommand_status (seq : Nat) (l : List Byte) : (slotCommand seq l).status =
    if leNat (l.take 8) / 2 ^ 9 % 2 ^ 23 ≠ 0 ∨ leNat (l.take 8) % 256 = 0 ∨ 0x0C < leNat (l.take 8) % 256 then some 2 else none := by
  rw [← bitsAt_eq]
  refine if_congr ?_ rfl rfl
  simp only [Bool.or_eq_true, decide_eq_true_eq, or_assoc]

/-- A window that has taken its next slot up (R447). -/
def Window.taken (w : Window) (l : List Byte) : Window :=
  { w with cmd := some (slotCommand w.nextseq l), nextseq := (if w.nextseq = 0xFFFFFFFF then 1 else w.nextseq + 1),
           seals := tabPut 0 w.seals (w.nextseq % 256) 0 }

section
variable {win : Nat}

theorem sealAccept_waits (h : (s.window win).en = false ∨ (s.window win).cmd.isSome = true ∨ s.portOpen (s.window win).port = false ∨
    s.gt < tabGet 0 (s.window win).seals ((s.window win).nextseq % 256)) : s.sealAccept win = s := by
  refine if_pos ?_
  obtain h | h | h | h := h <;> simp [h]

variable (hen : (s.window win).en = true) (hcmd : (s.window win).cmd = none) (hop : s.portOpen (s.window win).port = true)
  (hgt : tabGet 0 (s.window win).seals ((s.window win).nextseq % 256) ≤ s.gt) {s1 : State} {l : List Byte}
  (hr : s.svcRead (s.window win).core ((s.window win).base + 64 * ((s.window win).nextseq % 256)) 64 = (s1, l))
include hen hcmd hop hgt hr

theorem sealAccept_stale (hs : leNat (l.take 8) / 2 ^ 32 ≠ (s.window win).nextseq) : s.sealAccept win = s := by
  unfold State.sealAccept
  dsimp only
  rw [hcmd]
  refine (if_neg (by simp [hen, hop, hgt])).trans ?_
  unfold Window.slotAddr
  rw [hr]
  exact if_pos hs

/-- A seal of the window's next number makes its slot the window's command (R447, R448). -/
theorem sealAccept_takes (hs : leNat (l.take 8) / 2 ^ 32 = (s.window win).nextseq) :
    s.sealAccept win = s1.putWindow win ((s.window win).taken l) := by
  unfold State.sealAccept
  dsimp only
  rw [hcmd]
  refine (if_neg (by simp [hen, hop, hgt])).trans ?_
  unfold Window.slotAddr
  rw [hr]
  exact if_neg (not_not.mpr hs)

end

/-! ## Completions -/

/-- The state once a completed command has left the window: its grid or operation is gone, its tolerance holds, its message is sent (R125). -/
def State.completed (s : State) (win : Nat) (c : Command) : State :=
  let s := match c.grid with
    | some id => s.dropGrid id
    | none => s
  let s := match c.op with
    | some id => { s with ops := s.ops.filter (fun o => o.id != id) }
    | none => s
  let s := if c.cmd = 0x0A ∧ c.status = some 0 then { s with power := { s.power with tolerance := c.field 8 4 } } else s
  if c.msix then s.sendMsix win else s

theorem HomesOnly.msix {s t : State} (h : HomesOnly s t) : t.msix = s.msix := by
  obtain ⟨_, _, _, _, _, _, _, _, _, _, _, rfl⟩ := h
  rfl

/-- What completion of a command removes and sets, but for its message. -/
theorem completed_eq (s : State) (win : Nat) (c : Command) : ∃ u : State, s.completed win c = (if c.msix then u.sendMsix win else u) ∧
    u.hole = s.hole ∧ u.mem = s.mem ∧ u.msix = s.msix ∧ u.windows = s.windows ∧ u.ports = s.ports := by
  unfold State.completed
  by_cases ht : c.cmd = 0x0A ∧ c.status = some 0
  · simp only [if_pos ht]
    cases c.grid <;> cases c.op <;> exact ⟨_, rfl, rfl, rfl, rfl, rfl, rfl⟩
  · simp only [if_neg ht]
    cases c.grid <;> cases c.op <;> exact ⟨_, rfl, rfl, rfl, rfl, rfl, rfl⟩

theorem sendMsix_open {s : State} {win : Nat} (h : s.portOpen (s.window win).port = true) : s.sendMsix win = { s with msix := s.msix ++ [win] } := if_pos h

theorem sendMsix_closed {s : State} {win : Nat} (h : s.portOpen (s.window win).port = false) :
    s.sendMsix win = s.putPort (s.window win).port { s.port (s.window win).port with dropped := (s.port (s.window win).port).dropped + 1 } :=
  if_neg (ne_true_of_eq_false h)

/-- Completion sends the command's message over an open port, or counts it as dropped; memory stays (R125, R383). -/
theorem completed_leaves {s : State} {win p : Nat} {c : Command} (hp : (s.window win).port = p) :
    (s.completed win c).hole = s.hole ∧ (s.completed win c).mem = s.mem ∧ (c.msix = false → (s.completed win c).msix = s.msix) ∧
    (c.msix = true → s.portOpen p = true → (s.completed win c).msix = s.msix ++ [win]) ∧
    (c.msix = true → s.portOpen p = false → (s.completed win c).msix = s.msix ∧ ((s.completed win c).port p).dropped = (s.port p).dropped + 1) := by
  obtain ⟨u, heq, hhole, hmem, hmsix, hwin, hports⟩ := completed_eq s win c
  have hp' : (u.window win).port = p := by
    unfold State.window
    rw [hwin]
    exact hp
  have ho' : u.portOpen (u.window win).port = s.portOpen p := by
    unfold State.portOpen
    rw [hp', hports]
  rw [heq]
  cases hm : c.msix with
  | false => exact ⟨hhole, hmem, fun _ => hmsix, fun h => (by cases h), fun h => (by cases h)⟩
  | true =>
    rw [if_pos rfl]
    cases ho : s.portOpen p with
    | true =>
      rw [sendMsix_open (ho'.trans ho)]
      exact ⟨hhole, hmem, fun h => (by cases h), fun _ _ => congrArg (fun l => l ++ [win]) hmsix, fun _ h => (by cases h)⟩
    | false =>
      rw [sendMsix_closed (ho'.trans ho), hp']
      refine ⟨hhole, hmem, fun h => (by cases h), fun _ h => (by cases h), fun _ _ => ⟨hmsix, ?_⟩⟩
      rw [putPort_port, if_pos rfl]
      unfold State.port
      rw [hports]

section
variable {win : Nat} {c0 : Command} (hcmd : (s.window win).cmd = some c0)
include hcmd

theorem commandComplete_waits (h : (s.settleCmd c0).status = none ∨ s.gt < (s.settleCmd c0).wmax ∨ s.flushWaits win (s.settleCmd c0) = true) :
    s.commandComplete win = s := by
  unfold State.commandComplete
  dsimp only
  rw [hcmd]
  exact if_pos h

section
variable {st : Nat} (hst : (s.settleCmd c0).status = some st) (hw : (s.settleCmd c0).wmax ≤ s.gt) (hf : s.flushWaits win (s.settleCmd c0) = false)
include hst hw hf

omit hcmd in
theorem complete_goes : ¬ ((s.settleCmd c0).status = none ∨ s.gt < (s.settleCmd c0).wmax ∨ s.flushWaits win (s.settleCmd c0) = true) := by
  rw [hst, hf]
  simp [hw]

/-- The first part of a completion writes bytes 8 to 31 of the record (R125). -/
theorem commandComplete_rest (hn : (s.settleCmd c0).noted = false) : s.commandComplete win =
    (s.writeDev ((s.window win).recbase + 32 * ((s.settleCmd c0).seq % 256) + 8) 0 (natLe 24 (s.settleCmd c0).rest)).2.putCmd win
      { s.settleCmd c0 with noted := true } := by
  unfold State.commandComplete
  dsimp only
  rw [hcmd]
  exact (if_neg (complete_goes hst hw hf)).trans (if_pos (by rw [hn]; rfl))

/-- The second part writes bytes 0 to 7, and frees the window (R125). -/
theorem commandComplete_head (hn : (s.settleCmd c0).noted = true) : s.commandComplete win =
    ((s.writeDev ((s.window win).recbase + 32 * ((s.settleCmd c0).seq % 256)) 0 (natLe 8 (s.settleCmd c0).head)).2.completed win (s.settleCmd c0)).putWindow win
      { s.window win with cmd := none } := by
  unfold State.commandComplete
  dsimp only
  rw [hcmd]
  exact (if_neg (complete_goes hst hw hf)).trans (if_neg (by rw [hn]; exact Bool.false_ne_true))

end

end

section
variable {win : Nat} {c0 : Command} (hcmd : (s.window win).cmd = some c0) {st : Nat} (hst : (s.settleCmd c0).status = some st)
  (hw : (s.settleCmd c0).wmax ≤ s.gt) (hf : s.flushWaits win (s.settleCmd c0) = false) (hs : s.hole = none)
  (hin : (s.window win).recbase + 32 * ((s.settleCmd c0).seq % 256) + 32 ≤ s.installed)
include hcmd hst hw hf hs hin

/-- The first part of a completion record is written (R125). -/
theorem commandComplete_notes (hn : (s.settleCmd c0).noted = false) {a : Nat} (ha : a = (s.window win).recbase + 32 * ((s.settleCmd c0).seq % 256)) :
    ∃ t, exec (.commandComplete win) s = .next t ∧ t.cmdIs win { s.settleCmd c0 with noted := true } ∧
      ∀ x, t.byteAt x = if a + 8 ≤ x ∧ x < a + 32 then (natLe 24 (s.settleCmd c0).rest).getD (x - (a + 8)) 0 else s.byteAt x := by
  have hex := commandComplete_rest hcmd hst hw hf hn
  rw [← ha] at hex hin
  have hlen := Laws.F.length_natLe 24 (s.settleCmd c0).rest
  generalize natLe 24 (s.settleCmd c0).rest = l at *
  obtain ⟨-, hhole, hbytes⟩ := writeDev_leaves (s := s) (pa := a + 8) (bytes := l) 0 (by omega)
  rw [hlen] at hbytes
  exact ⟨_, exec_next (u := s.commandComplete win) rfl hex (hhole.trans hs), putCmd_cmdIs _ _ _, hbytes⟩

/-- The last part of a completion record is written, and the window is free (R125). -/
theorem commandComplete_frees (hn : (s.settleCmd c0).noted = true) {a : Nat} (ha : a = (s.window win).recbase + 32 * ((s.settleCmd c0).seq % 256)) :
    ∃ t, exec (.commandComplete win) s = .next t ∧ (t.window win).cmd = none ∧
      (∀ x, t.byteAt x = if a ≤ x ∧ x < a + 8 then (natLe 8 (s.settleCmd c0).head).getD (x - a) 0 else s.byteAt x) ∧
      ((s.settleCmd c0).msix = false → t.msix = s.msix) ∧
      ((s.settleCmd c0).msix = true → s.portOpen (s.window win).port = true → t.msix = s.msix ++ [win]) ∧
      ((s.settleCmd c0).msix = true → s.portOpen (s.window win).port = false →
        t.msix = s.msix ∧ (t.port (s.window win).port).dropped = (s.port (s.window win).port).dropped + 1) := by
  have hex := commandComplete_head hcmd hst hw hf hn
  rw [← ha] at hex hin
  have hlen := Laws.F.length_natLe 8 (s.settleCmd c0).head
  generalize natLe 8 (s.settleCmd c0).head = l at *
  obtain ⟨-, hhole, hbytes⟩ := writeDev_leaves (s := s) (pa := a) (bytes := l) 0 (by omega)
  have hhomes := writeDev_homesOnly s a 0 l
  generalize (s.writeDev a 0 l).2 = u at *
  rw [hlen] at hbytes
  have hwin : (u.window win).port = (s.window win).port := by
    unfold State.window
    rw [hhomes.shared.windows]
  have hopen : u.portOpen (s.window win).port = s.portOpen (s.window win).port := by
    unfold State.portOpen
    rw [hhomes.shared.ports]
  have hport : u.port (s.window win).port = s.port (s.window win).port := by
    unfold State.port
    rw [hhomes.shared.ports]
  obtain ⟨hole, hmem, hquiet, hsent, hdrop⟩ := completed_leaves (c := s.settleCmd c0) hwin
  rw [hopen] at hsent hdrop
  rw [hport] at hdrop
  refine ⟨_, exec_next (u := s.commandComplete win) rfl hex ((hole.trans hhole).trans hs), ?_, fun x => ?_, ?_, ?_, ?_⟩
  · exact congrArg Window.cmd (putWindow_window_same _ _ _)
  · exact (congrArg (fun m => tabGet 0 m x) hmem).trans (hbytes x)
  · exact fun h => (hquiet h).trans hhomes.msix
  · exact fun h ho => (hsent h ho).trans (congrArg (fun l => l ++ [win]) hhomes.msix)
  · exact fun h ho => ⟨(hdrop h ho).1.trans hhomes.msix, (hdrop h ho).2⟩

end

end

/-! ## The obligation -/

/-- Settles O47: entries take their fields, a sealed slot is taken up in its turn, and a command's record is written in two parts. -/
theorem windowsTakeAndCompleteCommands : Obligations.WindowsTakeAndCompleteCommands := by
  unfold Obligations.WindowsTakeAndCompleteCommands
  refine fun s hs => ⟨fun svc off size value h => exec_next (u := s.windowWrite svc off size value) rfl (windowWrite_unserved h) hs,
    fun svc off size value n w v hserve hlo hhi hn hw hv => ?_, fun off size value h => ?_, fun off size value hserve hlo hmod => ?_,
    fun win w hw => ⟨fun h => ?_, fun s1 l v hen hcmd hop hgt hr h1 hv => ?_⟩, fun win w hw => ⟨fun h => ?_, fun c0 c a hc0 hc ha => ?_⟩⟩
  · subst hw
    refine ⟨_, exec_next (u := s.windowWrite svc off size value) rfl (windowWrite_writes hserve hlo hhi hn hv) hs, rfl, fun m hm => ?_, ?_⟩
    · rw [putWindow_window, if_neg hm]
    · rw [putWindow_window_same]
      exact ⟨write_enabled _ _ _, write_disabled _ _ _, write_always _ _ _⟩
  · refine exec_next (u := s.barWrite off size value) rfl (if_pos ?_) hs
    obtain h | h | h := h <;> simp [h]
  · exact exec_next (u := s.barWrite off size value) rfl (if_neg (by simp [hserve, hlo, hmod])) hs
  · subst hw
    exact exec_next (u := s.sealAccept win) rfl (sealAccept_waits h) hs
  · subst hw hv
    refine ⟨fun hne => exec_next (u := s.sealAccept win) rfl (sealAccept_stale hen hcmd hop hgt hr hne) hs, fun heq => ?_⟩
    refine ⟨_, _, exec_next (u := s.sealAccept win) rfl (sealAccept_takes hen hcmd hop hgt hr heq) h1, rfl, ?_, ?_, rfl, rfl, rfl, rfl, slotCommand_status _ _⟩
    · exact congrArg Window.cmd (putWindow_window_same _ _ _)
    · exact congrArg Window.nextseq (putWindow_window_same _ _ _)
  · subst hw
    refine exec_next (u := s.commandComplete win) rfl ?_ hs
    unfold State.commandComplete
    dsimp only
    rw [h]
  · subst hw hc
    refine ⟨fun h => exec_next (u := s.commandComplete win) rfl (commandComplete_waits hc0 h) hs, fun st hst hwm hf hin => ⟨fun hn => ?_, fun hn => ?_⟩⟩
    · exact commandComplete_notes hc0 hst hwm hf hs (ha ▸ hin) hn ha
    · have hhead : st * 2 ^ 16 + (s.settleCmd c0).cmd * 2 ^ 24 + (s.settleCmd c0).seq * 2 ^ 32 = (s.settleCmd c0).head := by
        unfold Command.head
        rw [hst, Option.getD_some]
      rw [hhead]
      exact commandComplete_frees hc0 hst hwm hf hs (ha ▸ hin) hn ha

end Sys2Proof.Machine
end

section
/-! O48: host accesses of device memory. A request over an open, waking-free port is served at once: the bytes it reads are memory's, and it writes its
own bytes alone, a line's part at a time. -/

namespace Sys2Proof.Machine

/-! ## Bytes -/

theorem natLe_leNat (l : List Byte) : natLe l.length (leNat l) = l := by
  induction l with
  | nil => rfl
  | cons b l ih =>
    have hb := b.isLt
    have hlo : (b.toNat + 256 * leNat l) % 256 = b.toNat := by omega
    have hhi : (b.toNat + 256 * leNat l) / 256 = leNat l := by omega
    refine List.cons_eq_cons.mpr ⟨BitVec.eq_of_toNat_eq ((BitVec.toNat_ofNat _ _).trans hlo), ?_⟩
    rw [leNat, hhi]
    exact ih

theorem memBytes_getD (m : Tab Byte) (a : Nat) {n k : Nat} (h : k < n) : (memBytes m a n).getD k 0 = tabGet 0 m (a + k) := by
  rw [List.getD_eq_getElem?_getD, memBytes_getElem? m a h, Option.getD_some]

/-- The bytes of memory, written back, are memory's. -/
theorem natLe_memBytes_getD (s : State) {pa n x : Nat} (h : pa ≤ x ∧ x < pa + n) : (natLe n (leNat (memBytes s.mem pa n))).getD (x - pa) 0 = s.byteAt x := by
  have hl := natLe_leNat (memBytes s.mem pa n)
  rw [length_memBytes] at hl
  rw [hl, memBytes_getD _ _ (by omega), Nat.add_sub_of_le h.1]
  rfl

/-! ## Writes at a port -/

theorem tearDev_hole (s : State) (pa len : Nat) : (s.tearDev pa len).hole = s.hole := by
  obtain ⟨l, n, h⟩ := tear_eq s 0 (pieceAt (.dev pa) len [] false false)
  unfold State.tearDev
  rw [h]

theorem hostWords_hole (s : State) (pa len : Nat) : (s.hostWords pa len).hole = s.hole := by
  unfold State.hostWords
  dsimp only
  split
  · rfl
  · split <;> rfl

theorem foldHost_eq (s : State) (port w : Nat) : ∃ ps, s.foldHost port w = { s with ports := ps } := ⟨_, rfl⟩

theorem HomesOnly.board {s t : State} (h : HomesOnly s t) : t.board = s.board := by
  obtain ⟨_, _, _, _, _, _, _, _, _, _, _, rfl⟩ := h
  rfl

theorem installed_of_board {s t : State} (h : t.board = s.board) : t.installed = s.installed := by
  unfold State.installed
  rw [h]

/-- What a host write leaves: its bytes, every other byte as it was, and no hole. -/
structure HostWrote (s t : State) (pa : Nat) (data : List Byte) : Prop where
  hole : t.hole = s.hole
  board : t.board = s.board
  bytes : ∀ x, t.byteAt x = if pa ≤ x ∧ x < pa + data.length then data.getD (x - pa) 0 else s.byteAt x

theorem HostWrote.refl (s : State) (pa : Nat) : HostWrote s s pa [] := ⟨rfl, rfl, fun x => (if_neg (by rw [List.length_nil]; omega)).symm⟩

theorem HostWrote.of_same {s u t : State} {pa : Nat} {data : List Byte} (h : HostWrote u t pa data) (hh : u.hole = s.hole) (hb : u.board = s.board)
    (hm : u.mem = s.mem) : HostWrote s t pa data := by
  refine ⟨h.hole.trans hh, h.board.trans hb, fun x => (h.bytes x).trans ?_⟩
  unfold State.byteAt
  rw [hm]

/-- A line's part of a host write (R111). -/
theorem hostPart_wrote {s : State} {pa : Nat} {data : List Byte} (port k : Nat) (h : pa + data.length ≤ s.installed) :
    HostWrote s ((((s.hostWords pa k).tearDev pa k).writeDev pa (s.port port).part data).2) pa data := by
  have hhomes := (hostWords_homesOnly s pa k).trans (tearDev_homesOnly _ pa k)
  have hmem : ((s.hostWords pa k).tearDev pa k).mem = s.mem := by rw [tearDev_mem, hostWords_mem]
  have hhole : ((s.hostWords pa k).tearDev pa k).hole = s.hole := by rw [tearDev_hole, hostWords_hole]
  generalize (s.hostWords pa k).tearDev pa k = u at *
  obtain ⟨-, hh, hb⟩ := writeDev_leaves (s := u) (pa := pa) (bytes := data) (s.port port).part (by rwa [installed_of_board hhomes.board])
  refine ⟨hh.trans hhole, (writeDev_homesOnly u pa _ data).board.trans hhomes.board, fun x => (hb x).trans ?_⟩
  unfold State.byteAt
  rw [hmem]

/-- The bytes of a list, its first k and the others given apart. -/
theorem twoParts_getD (data : List Byte) (k pa x : Nat) (b : Byte) :
    (if pa + k ≤ x ∧ x < pa + k + (data.length - k) then (data.drop k).getD (x - (pa + k)) 0
      else if pa ≤ x ∧ x < pa + min k data.length then (data.take k).getD (x - pa) 0 else b) =
    if pa ≤ x ∧ x < pa + data.length then data.getD (x - pa) 0 else b := by
  by_cases hlo : x < pa + k
  · rw [if_neg (by omega)]
    refine if_ctx_congr (by omega) (fun hx => ?_) (fun _ => rfl)
    rw [List.getD_eq_getElem?_getD, List.getElem?_take_of_lt (by omega), List.getD_eq_getElem?_getD]
  · rw [if_neg (show ¬ (pa ≤ x ∧ x < pa + min k data.length) by omega)]
    refine if_ctx_congr (by omega) (fun hx => ?_) (fun _ => rfl)
    rw [List.getD_eq_getElem?_getD, List.getElem?_drop, List.getD_eq_getElem?_getD, show k + (x - (pa + k)) = x - pa by omega]

/-- A host write leaves its bytes, line by line, and no other byte (R111, R121). -/
theorem hostApply_wrote (port : Nat) (n : Nat) {s : State} {pa : Nat} {data : List Byte} (hn : pa % 64 + data.length ≤ 64 * n)
    (h : data ≠ [] → pa + data.length ≤ s.installed) : HostWrote s (s.hostApply port pa data n) pa data := by
  induction n generalizing s pa data with
  | zero =>
    obtain rfl := List.eq_nil_of_length_eq_zero (show data.length = 0 by omega)
    exact .refl s pa
  | succ n ih =>
    unfold State.hostApply
    split
    · rename_i he
      obtain rfl := List.isEmpty_iff.mp he
      exact .refl s pa
    · rename_i he
      have hne : data ≠ [] := fun h0 => he (by rw [h0]; rfl)
      have hpos := List.length_pos_iff.mpr hne
      have hin := h hne
      dsimp only
      generalize hk : 64 - pa % 64 = k
      have hk1 : 1 ≤ k := by omega
      have hp := hostPart_wrote (s := s) (pa := pa) (data := data.take k) port (min k data.length) (by rw [List.length_take]; omega)
      generalize ((s.hostWords pa (min k data.length)).tearDev pa (min k data.length)).writeDev pa (s.port port).part (data.take k) = y at hp
      obtain ⟨w, u⟩ := y
      obtain ⟨ps, hf⟩ := foldHost_eq u port w
      dsimp only
      rw [hf]
      have hlen : (data.drop k).length = data.length - k := List.length_drop
      have hrest := ih (s := { u with ports := ps }) (pa := pa + k) (data := data.drop k) (by omega) (fun hne => by
        have := List.length_pos_iff.mpr hne
        rw [installed_of_board (s := s) (t := { u with ports := ps }) hp.board]
        omega)
      refine ⟨hrest.hole.trans hp.hole, hrest.board.trans hp.board, fun x => (hrest.bytes x).trans ?_⟩
      rw [show State.byteAt { u with ports := ps } x = _ from hp.bytes x, hlen, List.length_take]
      exact twoParts_getD _ _ _ _ _

/-! ## Requests -/

section
variable {s : State} {port : Nat}

theorem hostReply_port (u : State) (r : HostResp) : ((u.hostReply port r).port port).resp = r := by
  unfold State.hostReply
  rw [putPort_port, if_pos rfl]

theorem hostReply_byteAt (u : State) (r : HostResp) (x : Nat) : (u.hostReply port r).byteAt x = u.byteAt x := rfl

/-- A request that is not served at once: the port is not there, frozen or down, or the device sleeps (R383, R444, R461). -/
theorem hostRequest_waits {q : HostReq} (hq : q.isBar = false) :
    ((s.lit port = false ∨ s.boot.failed.isSome = true) → s.hostRequest port q = s) ∧
    (s.lit port = true → s.boot.failed = none → (s.port port).frozen = true → s.hostRequest port q = s.hostReply port ⟨[], false, false, true⟩) ∧
    (s.lit port = true → s.boot.failed = none → (s.port port).frozen = false → (s.port port).state ≠ .up → s.hostRequest port q = s) := by
  unfold State.hostRequest
  refine ⟨fun h => if_pos ?_, fun hl hb hf => ?_, fun hl hb hf hu => ?_⟩
  · obtain h | h := h <;> simp [h, hq]
  · rw [if_neg (by simp [hl, hb])]
    exact if_pos hf
  · rw [if_neg (by simp [hl, hb]), if_neg (ne_true_of_eq_false hf)]
    exact if_pos hu

/-- The state once a request has come over an open port: the host was last heard from now (R461). -/
def State.heard (s : State) : State := { s with power := { s.power with lastHost := s.gt } }

section
variable (hl : s.lit port = true) (hb : s.boot.failed = none) (hf : (s.port port).frozen = false) (hu : (s.port port).state = .up)
include hl hb hf hu

theorem hostRequest_served (q : HostReq) (hd : s.power.device = 0) : s.hostRequest port q = s.heard.hostServe port q := by
  unfold State.hostRequest
  rw [if_neg (by simp [hl, hb]), if_neg (ne_true_of_eq_false hf), if_neg (not_not.mpr hu)]
  exact if_pos hd

/-- A request of a sleeping device is held until the exit that it starts (R461). -/
theorem hostRequest_held (q : HostReq) (hd : s.power.device ≠ 0) : ∃ u : State, s.hostRequest port q = u.putPort port
      { s.port port with held := (s.port port).held ++ [q] } ∧ u.hole = s.hole ∧ u.mem = s.mem ∧ u.power.exiting.contains .device = true := by
  unfold State.hostRequest
  rw [if_neg (by simp [hl, hb]), if_neg (ne_true_of_eq_false hf), if_neg (not_not.mpr hu)]
  dsimp only
  rw [if_neg hd]
  split
  · rename_i he
    refine ⟨_, rfl, rfl, rfl, ?_⟩
    obtain ⟨u, hmem, hdev⟩ := List.any_eq_true.mp he
    obtain rfl := of_decide_eq_true hdev
    exact List.contains_iff_mem.mpr hmem
  · exact ⟨_, rfl, rfl, rfl, List.contains_iff_mem.mpr (by simp)⟩

end

/-! ## Served requests -/

theorem hostServe_beyond {q : HostReq} (h : match q with
    | .read pa len => s.installed < pa + len
    | .write pa data => s.installed < pa + data.length
    | .atomic pa size _ _ _ => s.installed < pa + size ∨ (size ≠ 4 ∧ size ≠ 8) ∨ pa % size ≠ 0
    | .bar _ _ => False) : s.hostServe port q = s.hostReply port ⟨[], false, true, false⟩ := by
  cases q with
  | read pa len => exact if_pos (decide_eq_true h)
  | write pa data => exact if_pos (decide_eq_true h)
  | atomic pa size kind value compare =>
    refine if_pos ?_
    obtain h | ⟨h4, h8⟩ | h := h
    · simp [h]
    · simp [h4, h8]
    · simp [h]
  | bar off size => exact h.elim

/-- A read of sound memory gives its bytes (R444). -/
theorem hostServe_read {pa len : Nat} (hin : pa + len ≤ s.installed) (hs : s.sound pa len) : ∃ u : State,
    s.hostServe port (.read pa len) = u.hostReply port ⟨memBytes s.mem pa len, false, false, false⟩ ∧ u.hole = s.hole ∧ u.mem = s.mem := by
  obtain ⟨a, b, c, d, heq⟩ := readDev_sound (s.port port).part hin hs
  refine ⟨s.withCache a b c d, (if_neg (by simpa using hin)).trans ?_, rfl, rfl⟩
  rw [heq]
  rfl

/-- A write leaves its bytes (R444). -/
theorem hostServe_write {pa : Nat} {data : List Byte} (hin : pa + data.length ≤ s.installed) : ∃ u : State,
    s.hostServe port (.write pa data) = u.hostReply port ⟨[], false, false, false⟩ ∧ HostWrote s u pa data := by
  refine ⟨_, if_neg (by simpa using hin), ?_⟩
  exact (hostApply_wrote port (data.length + 1) (s := s.noteSeals port pa data.length) (by omega) (fun _ => hin)).of_same rfl rfl rfl

/-- What an atomic of the host leaves at its word (R126). -/
def atomLeaves (kind : HostAtom) (size : Nat) (value compare : DWord) (old : Nat) : Nat :=
  match kind with
  | .fetchAdd => old + value.toNat
  | .swap => value.toNat
  | .cas => if old = compare.toNat % 256 ^ size then value.toNat else old

/-- An atomic gives the old bytes and leaves what its kind says (R120, R126). -/
theorem hostServe_atomic {pa size : Nat} {kind : HostAtom} {value compare : DWord} (hin : pa + size ≤ s.installed) (hsize : size = 4 ∨ size = 8)
    (hal : pa % size = 0) (hs : s.sound pa size) : ∃ u : State,
    s.hostServe port (.atomic pa size kind value compare) = u.hostReply port ⟨memBytes s.mem pa size, false, false, false⟩ ∧
    HostWrote s u pa (natLe size (atomLeaves kind size value compare (leNat (memBytes s.mem pa size)))) := by
  obtain ⟨a, b, c, d, heq⟩ := readDev_sound (s.port port).part hin hs
  have hgo : ¬ (decide (s.installed < pa + size) || !((size == 4 || size == 8) && pa % size == 0)) = true := by
    obtain rfl | rfl := hsize <;> simp [hin, hal]
  have hwrites : ∀ v, HostWrote s (((s.withCache a b c d).noteSeals port pa size).hostApply port pa (natLe size v) 2) pa (natLe size v) := fun v => by
    have hlen := Laws.F.length_natLe size v
    refine (hostApply_wrote port 2 (s := (s.withCache a b c d).noteSeals port pa size) (by omega) (fun _ => ?_)).of_same rfl rfl rfl
    rw [hlen]
    exact hin
  have hkeeps : HostWrote s (s.withCache a b c d) pa (natLe size (leNat (memBytes s.mem pa size))) := by
    refine ⟨rfl, rfl, fun x => ?_⟩
    rw [Laws.F.length_natLe]
    split_ifs with hx
    · exact (natLe_memBytes_getD s hx).symm
    · rfl
  unfold State.hostServe
  dsimp only
  rw [if_neg hgo, heq]
  dsimp only
  cases kind with
  | fetchAdd => exact ⟨_, rfl, hwrites _⟩
  | swap => exact ⟨_, rfl, hwrites _⟩
  | cas =>
    unfold atomLeaves
    dsimp only
    split_ifs
    · exact ⟨_, rfl, hwrites _⟩
    · exact ⟨_, rfl, hkeeps⟩

end

/-! ## The obligation -/

/-- The request of an access: read, write or atomic. -/
def accessOf (i pa len size : Nat) (data : List Byte) (kind : HostAtom) (value compare : DWord) : HostReq :=
  if i = 0 then .read pa len else if i = 1 then .write pa data else .atomic pa size kind value compare

theorem access_exec (s : State) {i : Nat} (hi : i ∈ [0, 1, 2]) (port pa len size : Nat) (data : List Byte) (kind : HostAtom) (value compare : DWord) :
    exec (if i = 0 then Instr.hostMemRead port pa len else if i = 1 then .hostMemWrite port pa data else .hostAtomic port pa size kind value compare) s =
      answer (s.hostRequest port (accessOf i pa len size data kind value compare)) ∧ (accessOf i pa len size data kind value compare).isBar = false := by
  simp only [List.mem_cons, List.not_mem_nil, or_false] at hi
  obtain rfl | rfl | rfl := hi <;> exact ⟨rfl, rfl⟩

/-- Settles O48: a request waits, is refused or is served, and a served one reads or writes its own bytes. -/
theorem hostAccessesOfDeviceMemory : Obligations.HostAccessesOfDeviceMemory := by
  unfold Obligations.HostAccessesOfDeviceMemory
  refine fun s port hs => ⟨fun i hi pa len data size kind value compare q hq => ?_, fun hl hb hf hu hd => ?_⟩
  · obtain ⟨hex, hbar⟩ := access_exec s hi port pa len size data kind value compare
    rw [← hq] at hex
    obtain ⟨hdark, hfrozen, hdown⟩ := hostRequest_waits (s := s) (port := port) hbar
    refine ⟨fun h => exec_next hex (hdark h) hs, fun hl hb hf => exec_next hex (hfrozen hl hb hf) hs, fun hl hb hf hu => exec_next hex (hdown hl hb hf hu) hs,
      fun hl hb hf hu hd => ?_⟩
    obtain ⟨u, heq, hhole, hmem, hwake⟩ := hostRequest_held hl hb hf hu (accessOf i pa len size data kind value compare) hd
    refine ⟨_, exec_next hex heq (hhole.trans hs), hmem, hwake, ?_⟩
    rw [putPort_port, if_pos rfl]
    rfl
  · have hserve := fun q => hostRequest_served hl hb hf hu q hd
    refine ⟨fun pa len => ⟨fun h => ?_, fun hin hsound => ?_⟩, fun pa data => ⟨fun h => ?_, fun hin => ?_⟩,
      fun pa size kind value compare => ⟨fun h => ?_, fun hin hsize hal hsound => ?_⟩⟩
    · exact ⟨_, exec_next (u := s.hostRequest port (.read pa len)) rfl ((hserve _).trans (hostServe_beyond (s := s.heard) h)) hs, hostReply_port _ _, rfl⟩
    · obtain ⟨u, heq, hhole, hmem⟩ := hostServe_read (s := s.heard) (port := port) hin hsound
      exact ⟨_, exec_next (u := s.hostRequest port (.read pa len)) rfl ((hserve _).trans heq) (hhole.trans hs), hostReply_port _ _, hmem⟩
    · exact ⟨_, exec_next (u := s.hostRequest port (.write pa data)) rfl ((hserve _).trans (hostServe_beyond (s := s.heard) h)) hs, hostReply_port _ _, rfl⟩
    · obtain ⟨u, heq, hw⟩ := hostServe_write (s := s.heard) (port := port) hin
      exact ⟨_, exec_next (u := s.hostRequest port (.write pa data)) rfl ((hserve _).trans heq) (hw.hole.trans hs), hostReply_port _ _, hw.bytes⟩
    · exact ⟨_, exec_next (u := s.hostRequest port (.atomic pa size kind value compare)) rfl ((hserve _).trans (hostServe_beyond (s := s.heard) h)) hs,
        hostReply_port _ _, rfl⟩
    · obtain ⟨u, heq, hw⟩ := hostServe_atomic (s := s.heard) (port := port) (kind := kind) (value := value) (compare := compare) hin hsize hal hsound
      have hbytes := hw.bytes
      rw [Laws.F.length_natLe] at hbytes
      refine ⟨_, exec_next (u := s.hostRequest port (.atomic pa size kind value compare)) rfl ((hserve _).trans heq) (hw.hole.trans hs), hostReply_port _ _, ?_⟩
      cases kind <;> exact hbytes

end Sys2Proof.Machine
end

section
/-! O45: the host commands that launch grids, bind contexts, load images, and save and resume contexts. Each waits, is refused by its status, or acts. -/

namespace Sys2Proof.Machine

/-! ## Pins, scale slots and grids -/

theorem withCache_homesOnly {s t : State} (h : ∃ a b c d, t = s.withCache a b c d) : HomesOnly s t := by
  obtain ⟨a, b, c, d, rfl⟩ := h
  exact ⟨_, _, _, _, _, _, _, _, _, _, _, rfl⟩

theorem fillLine_homesOnly (s : State) (line : Nat) : HomesOnly s (s.fillLine line) := by
  refine HomesOnly.trans (HomesOnly.foldl (fun s i => ?_) (List.range 4) s) (withCache_homesOnly (noteLine_eq _ _ _ _))
  split
  · exact .refl s
  · obtain ⟨p, f, c, h⟩ := sectorRead_eq s (4 * line + i)
    rw [h]
    exact homesOnly_bytes _ _ _ _ _ _ _ _

theorem pinLine_homesOnly (s : State) (line part : Nat) : HomesOnly s (s.pinLine line part).1 := by
  have hput : ∀ (u : State) (v : Tab (Option LineMeta)), HomesOnly u { u with lines := v } := fun u v => ⟨_, _, _, _, _, _, _, _, _, _, _, rfl⟩
  have hevict : HomesOnly s (s.evict line) := by
    obtain ⟨a, b, c, h⟩ := evict_eq s line
    exact withCache_homesOnly ⟨a, b, c, _, h⟩
  have hfill : ∀ u : State, HomesOnly u ((u.touch (line * 1024) part).fillLine line) := fun u =>
    (withCache_homesOnly (touch_eq u _ part)).trans (fillLine_homesOnly _ line)
  have hgone : ∀ b : Bool, HomesOnly s (if b then s.evict line else s) := fun b => by
    cases b
    · exact .refl s
    · exact hevict
  unfold State.pinLine
  dsimp only
  split
  · exact (hgone _).trans (hfill _)
  · exact ((hgone _).trans (hfill _)).trans (hput _ _)

theorem pinLoop_homesOnly (s : State) (part : Nat) (l : List Nat) : HomesOnly s (s.pinLoop part l).1 := by
  induction l generalizing s with
  | nil => exact .refl s
  | cons a l ih =>
    have h := pinLine_homesOnly s a part
    unfold State.pinLoop
    split <;> rename_i heq <;> rw [heq] at h
    · exact h.trans (ih _)
    · exact h

theorem pinLines_homesOnly (s : State) (part : Nat) (l : List Nat) : HomesOnly s (s.pinLines part l).1 := by
  have h := pinLoop_homesOnly s part l
  unfold State.pinLines
  split <;> rename_i heq <;> rw [heq] at h
  · exact h
  · exact ⟨_, _, _, _, _, _, _, _, _, _, _, rfl⟩

/-- The scale slots of a context are zeroed and pinned where their frames lie (R81, R102). -/
theorem slotFrame_shared (s : State) (n va : Nat) : SharedOnly s (s.slotFrame n va).2 := by
  have h := (translate_readsOnly s ⟨0, n, 0⟩ va 0).shared
  unfold State.slotFrame
  split <;> rename_i heq
  · exact (h.of heq).trans ((writeDev_homesOnly _ _ _ _).trans (pinLines_homesOnly _ _ _)).shared
  · exact h.of heq

theorem slotArea_shared (s : State) (n base : Nat) : SharedOnly s (s.slotArea n base).2 := by
  unfold State.slotArea
  exact List.foldlRecOn (motive := fun e : Nat × State => SharedOnly s e.2) _ _ (.refl s) (fun e he i _ => he.trans (slotFrame_shared e.2 n _))

theorem countLocks_homesOnly (s : State) (ctx region : Nat) (f : Nat → Nat) : HomesOnly s (s.countLocks ctx region f) := by
  unfold State.countLocks
  split
  · exact .refl s
  · exact (reach_homesOnly _ _ _).trans (writeDev_homesOnly _ _ _ _)

theorem enqueue_eq (s : State) (g : Grid) : ∃ ts r ps, s.enqueue g = { s with teams := ts, reckoner := r, pairs := ps } := by
  have hq : ∀ r, ∃ ts r' ps, State.releaseGang { s with reckoner := r } = { s with teams := ts, reckoner := r', pairs := ps } := fun r => by
    obtain ⟨ts, r', ps, h⟩ := releaseGang_eq { s with reckoner := r }
    exact ⟨ts, r', ps, h⟩
  unfold State.enqueue
  dsimp only
  split
  · split
    · exact hq _
    · exact ⟨_, _, _, rfl⟩
  · exact ⟨_, _, _, rfl⟩

/-- The grid of a launch record, not placed at once when the record cannot be (R356, R358). -/
def launchedGrid (id v ctx : Nat) (parent : Option Nat) (depth : Nat) (priv : Bool) (window : Option Nat) (root : TCap)
    (donew : Option (Nat × Nat × Nat)) : Grid :=
  let l := launchValues v
  { id := id, ctx := ctx, parent := parent, depth := depth, priv := priv, window := window, launch := l, root := root, donew := donew,
    trapV := startTraph l.vecEnt l.vtrap, trapC := startTraph l.ctlEnt l.ctrap, wdlim := l.wdlim, descs := none, placed := 0, endedTeams := 0,
    ended := (launchCode v).map GridEnd.notPlaced, wbd := none, wmax := 0, retired := false }

/-- The state once a grid has joined, with its GRIDID among those used. -/
def State.joined (s : State) (g : Grid) : State := { s with gridIds := s.gridIds ++ [g.id], grids := s.grids ++ [g] }

/-- A new grid joins the grids under a GRIDID that none has had since reset (R254, R356). -/
theorem newGrid_joins (s : State) (v ctx : Nat) (parent : Option Nat) (depth : Nat) (priv : Bool) (window : Option Nat) (root : TCap)
    (donew : Option (Nat × Nat × Nat)) : ∃ (id : Nat) (t : State), s.newGrid v ctx parent depth priv window root donew = (id, t) ∧
    t.grids = s.grids ++ [launchedGrid id v ctx parent depth priv window root donew] ∧ id ∉ s.gridIds ∧ t.gridIds = s.gridIds ++ [id] ∧
    t.mem = s.mem ∧ t.hole = s.hole ∧ t.windows = s.windows := by
  obtain ⟨id, hfresh, heq⟩ : ∃ id, id ∉ s.gridIds ∧ s.newGrid v ctx parent depth priv window root donew = (id,
      if (launchedGrid id v ctx parent depth priv window root donew).ended = none then
        (s.newFree.2.joined (launchedGrid id v ctx parent depth priv window root donew)).enqueue (launchedGrid id v ctx parent depth priv window root donew)
      else s.newFree.2.joined (launchedGrid id v ctx parent depth priv window root donew)) := ⟨_, (freshGrid_spec _ _).1, rfl⟩
  refine ⟨id, _, heq, ?_⟩
  split
  · obtain ⟨ts, r, ps, h⟩ := enqueue_eq (s.newFree.2.joined (launchedGrid id v ctx parent depth priv window root donew))
      (launchedGrid id v ctx parent depth priv window root donew)
    rw [h]
    exact ⟨rfl, hfresh, rfl, rfl, rfl, rfl⟩
  · exact ⟨rfl, hfresh, rfl, rfl, rfl, rfl⟩

/-! ## Waiting and refusals -/

/-- Each command but WAIT_VALUE runs when its window holds it ready and it has not begun, and its body's check is R448's. -/
theorem commandEvent_runs (s : State) (win : Nat) {code : Nat} (hlo : 1 ≤ code) (hhi : code ≤ 12) (h5 : code ≠ 5) : ∃ bad act,
    exec (commandEvent code win) s = answer (s.runCmd win code bad act) ∧ ∀ c : Command, bad c = c.wrong code := by
  obtain rfl | rfl | rfl | rfl | rfl | rfl | rfl | rfl | rfl | rfl | rfl : code = 1 ∨ code = 2 ∨ code = 3 ∨ code = 4 ∨ code = 6 ∨ code = 7 ∨ code = 8 ∨
    code = 9 ∨ code = 10 ∨ code = 11 ∨ code = 12 := by omega
  · exact ⟨_, _, rfl, launchGrid_wrong⟩
  · exact ⟨_, _, rfl, setContext_wrong⟩
  · exact ⟨_, _, rfl, loadImage_wrong⟩
  · exact ⟨_, _, rfl, writeValue_wrong⟩
  · exact ⟨_, _, rfl, copyCmd_wrong⟩
  · exact ⟨_, _, rfl, decompressCmd_wrong⟩
  · exact ⟨_, _, rfl, partitionCmd_wrong⟩
  · exact ⟨_, _, rfl, pinCmd_wrong⟩
  · exact ⟨_, _, rfl, toleranceCmd_wrong⟩
  · exact ⟨_, _, rfl, saveContext_wrong⟩
  · exact ⟨_, _, rfl, resumeCmd_wrong⟩

section
variable {s : State} {win : Nat} {c : Command}

theorem waitValue_idle (h : s.cmdReady win 5 = none) : s.waitValue win = s := by
  unfold State.waitValue
  rw [h]

theorem waitValue_bad (h : s.cmdReady win 5 = some c) (hb : c.begun = false) (hw : c.wrong 5 = true) : s.waitValue win = s.endCmd win c 2 := by
  unfold State.waitValue
  rw [h]
  exact if_pos (by rw [waitValue_wrong, hb, hw]; rfl)

/-- A command that is not ready or has begun changes nothing, and one with a wrong body ends with BAD_COMMAND (R448). -/
theorem commandEvent_waits (hs : s.hole = none) {code : Nat} (hlo : 1 ≤ code) (hhi : code ≤ 12) :
    (s.cmdReady win code = none → exec (commandEvent code win) s = .next s) ∧
    (∀ c, s.cmdReady win code = some c → c.begun = true → code ≠ 5 → exec (commandEvent code win) s = .next s) ∧
    (∀ c, s.cmdReady win code = some c → c.begun = false → c.wrong code = true → exec (commandEvent code win) s = .next (s.endCmd win c 2)) := by
  by_cases h5 : code = 5
  · subst h5
    exact ⟨fun h => exec_next (u := s.waitValue win) rfl (waitValue_idle h) hs, fun c _ _ hne => absurd rfl hne,
      fun c h hb hw => exec_next (u := s.waitValue win) rfl (waitValue_bad h hb hw) hs⟩
  · obtain ⟨bad, act, hex, hbad⟩ := commandEvent_runs s win hlo hhi h5
    exact ⟨fun h => exec_next hex (runCmd_idle (.inl h)) hs, fun c h hb _ => exec_next hex (runCmd_idle (.inr ⟨c, h, hb⟩)) hs,
      fun c h hb hw => exec_next hex (runCmd_bad h hb ((hbad c).trans hw)) hs⟩

/-! ## LAUNCH_GRID -/

section
variable (hs : s.hole = none) (h : s.takes win 1 c)
include hs h

theorem launchGrid_unbound (hw : s.windowCtx win = none) : exec (.launchGrid win) s = .next (s.endCmd win c 3) := by
  refine exec_next rfl ((runCmd_acts h launchGrid_wrong).trans ?_) hs
  rw [hw]

theorem launchGrid_waits {n : Nat} {x : Ctx} (hw : s.windowCtx win = some (n, x)) (hx : x.mode.waits = true ∨ 4096 ≤ s.queued) :
    exec (.launchGrid win) s = .next s := by
  refine exec_next rfl ((runCmd_acts h launchGrid_wrong).trans ?_) hs
  rw [hw]
  exact if_pos (by simpa using hx)

section
variable {n : Nat} {x : Ctx} (hw : s.windowCtx win = some (n, x)) (hx : x.mode.waits = false) (hq : s.queued < 4096) {s1 : State} {l : List Byte}
  (hr : s.svcRead (s.window win).core (c.field 8 8) 256 = (s1, l)) (h1 : s1.hole = none)
include hw hx hq hr h1

omit hs in
theorem launchGrid_refused (hbad : recordReserved (leNat l) = true ∨ (capSpace (recordRoot (leNat l)) ≠ 1 ∧ capSpace (recordRoot (leNat l)) ≠ 4)) :
    exec (.launchGrid win) s = .next (s1.endCmd win c 2) := by
  refine exec_next rfl ((runCmd_acts h launchGrid_wrong).trans ?_) h1
  rw [hw]
  refine (if_neg (by simp [hx, hq])).trans ?_
  dsimp only
  rw [hr]
  exact if_pos (by simpa using hbad)

omit hs in
/-- LAUNCH_GRID of a good record adds its grid (R356, R450). -/
theorem launchGrid_adds (hgood : recordReserved (leNat l) = false) (hroot : capSpace (recordRoot (leNat l)) = 1 ∨ capSpace (recordRoot (leNat l)) = 4) :
    ∃ (t : State) (id : Nat), exec (.launchGrid win) s = .next t ∧
      t.grids = s1.grids ++ [launchedGrid id (leNat l) n none 1 ((s.window win).svc && (leNat l).testBit 1664) (some win) (recordRoot (leNat l)) none] ∧
      id ∉ s1.gridIds ∧ t.gridIds = s1.gridIds ++ [id] ∧ t.mem = s1.mem ∧ t.cmdIs win { c with begun := true, grid := some id } := by
  obtain ⟨id, u, heq, hgrids, hid, hids, hmem, hhole, -⟩ := newGrid_joins s1 (leNat l) n none 1 ((s.window win).svc && (leNat l).testBit 1664) (some win)
    (recordRoot (leNat l)) none
  refine ⟨u.putCmd win { c with begun := true, grid := some id }, id, exec_next rfl ((runCmd_acts h launchGrid_wrong).trans ?_) (hhole.trans h1), hgrids, hid, hids, hmem, putCmd_cmdIs _ _ _⟩
  rw [hw]
  refine (if_neg (by simp [hx, hq])).trans ?_
  dsimp only
  rw [hr]
  refine (if_neg ?_).trans ?_
  · rw [hgood]
    obtain hroot | hroot := hroot <;> simp [hroot]
  · rw [heq]

end

end

/-! ## SET_CONTEXT -/

/-- A context bound to a window, with its locks counted as 0 and its scale slots zeroed and pinned when it is a new one (R102, R451). -/
def State.bindCtx (s : State) (win n : Nat) (c : Command) (x : Ctx) (old : Bool) : State :=
  let s := s.putCtx n x
  let s := if old then s else (List.range 16).foldl (fun s r => if (tabGet Region.off x.regions r).en then s.countLocks n r (fun _ => 0) else s) s
  let (wmax, s) := if old then (0, s) else s.slotArea n x.ssbase
  let s := s.putWindow win { s.window win with ctx := some n }
  s.endCmd win { c with wmax := wmax } 0

/-- A window that names a context, its command ended. -/
def State.bound (s : State) (win n w : Nat) (c : Command) : State := (s.putWindow win { s.window win with ctx := some n }).endCmd win { c with wmax := w } 0

theorem bindCtx_old (u : State) (win n : Nat) (c : Command) (x : Ctx) : u.bindCtx win n c x true = (u.putCtx n x).bound win n 0 c := rfl

theorem bindCtx_new (u : State) (win n : Nat) (c : Command) (x : Ctx) {w : Nat} {v : State}
    (h : ((List.range 16).foldl (fun s r => if (tabGet Region.off x.regions r).en then s.countLocks n r (fun _ => 0) else s) (u.putCtx n x)).slotArea n x.ssbase =
      (w, v)) : u.bindCtx win n c x false = v.bound win n w c := by
  unfold State.bindCtx
  dsimp only
  rw [if_neg Bool.false_ne_true, if_neg Bool.false_ne_true, h]
  rfl

section
variable (h : s.takes win 2 c) {s1 : State} {l : List Byte} (hr : s.svcRead (s.window win).core (c.field 8 8) 512 = (s1, l))
include h hr

theorem setContext_invalid (h1 : s1.hole = none) (hbad : descBad (leNat l) = true ∨ ∃ x, s1.ctx (c.field 16 2) = some x ∧ x.desc ≠ c.field 8 8) :
    exec (.setContext win) s = .next (s1.endCmd win c 1) := by
  refine exec_next rfl ((runCmd_acts h setContext_wrong).trans ?_) h1
  dsimp only
  rw [hr]
  refine if_pos ?_
  obtain hbad | ⟨x, hx, hne⟩ := hbad
  · simp [hbad]
  · simp [hx, hne]

/-- Binding a context whose descriptor is good (R451). -/
theorem setContext_binds {x : Ctx} (hgood : descBad (leNat l) = false) (hsame : ∀ x, s1.ctx (c.field 16 2) = some x → x.desc = c.field 8 8)
    (hx : x = ctxOf (leNat l) (c.field 8 8) win (s.window win).port (BitVec.ofNat 64 (c.field 24 8)) (s1.ctx (c.field 16 2))) :
    s.setContext win = s1.bindCtx win (c.field 16 2) c x (s1.ctx (c.field 16 2)).isSome := by
  refine (runCmd_acts h setContext_wrong).trans ?_
  dsimp only
  rw [hr]
  dsimp only
  refine (if_neg ?_).trans ?_
  · rw [hgood]
    cases ho : s1.ctx (c.field 16 2) with
    | none => simp
    | some y => simp [hsame y ho]
  · rw [← hx]
    rfl

end

/-- What a bound window, its command and its context are. -/
theorem bound_leaves (u : State) (win n w : Nat) (c : Command) : ((u.bound win n w c).window win).ctx = some n ∧
    (u.bound win n w c).cmdIs win { c with begun := true, status := some 0, wmax := w } ∧ (∀ m, (u.bound win n w c).ctx m = u.ctx m) ∧
    (u.bound win n w c).mem = u.mem := by
  refine ⟨?_, putCmd_cmdIs _ _ _, fun _ => rfl, rfl⟩
  unfold State.bound State.endCmd State.putCmd
  rw [putWindow_window_same, putWindow_window_same]

/-- A new context is what its descriptor says, whatever its slots' frames are (R451). -/
theorem newCtx_kept (u : State) (n : Nat) (x : Ctx) {w : Nat} {v : State}
    (h : ((List.range 16).foldl (fun s r => if (tabGet Region.off x.regions r).en then s.countLocks n r (fun _ => 0) else s) (u.putCtx n x)).slotArea n x.ssbase =
      (w, v)) : v.ctx n = some x := by
  have hlocks : SharedOnly (u.putCtx n x)
      ((List.range 16).foldl (fun s r => if (tabGet Region.off x.regions r).en then s.countLocks n r (fun _ => 0) else s) (u.putCtx n x)) := by
    refine .foldl (fun s r => ?_) _ _
    split
    · exact (countLocks_homesOnly s n r _).shared
    · exact .refl s
  have hslots := slotArea_shared
    ((List.range 16).foldl (fun s r => if (tabGet Region.off x.regions r).en then s.countLocks n r (fun _ => 0) else s) (u.putCtx n x)) n x.ssbase
  rw [h] at hslots
  unfold State.ctx
  rw [(hlocks.trans hslots).ctxs]
  exact putCtx_ctx_same u n x

/-! ## LOAD_IMAGE -/

section
variable (h : s.takes win 3 c)
include h

theorem loadImage_unbound (hs : s.hole = none) (hw : s.windowCtx win = none) : exec (.loadImage win) s = .next (s.endCmd win c 3) := by
  refine exec_next rfl ((runCmd_acts h loadImage_wrong).trans ?_) hs
  rw [hw]

variable {n : Nat} {x : Ctx} (hw : s.windowCtx win = some (n, x))
include hw

theorem loadImage_parked (hs : s.hole = none) (hx : x.mode.waits = true) : exec (.loadImage win) s = .next s := by
  refine exec_next rfl ((runCmd_acts h loadImage_wrong).trans ?_) hs
  rw [hw]
  exact if_pos hx

variable (hx : x.mode.waits = false) {s1 : State} {l : List Byte}
  (hr : s.svcRead (s.window win).core (c.field 8 8) (min (c.field 16 4) 16384) = (s1, l))
include hx hr

theorem loadImage_refused (h1 : s1.hole = none) {st : Nat} (hi : imgCheck s.board.keys s.board.floors l (c.field 16 4) = .error st) :
    exec (.loadImage win) s = .next (s1.endCmd win c st) := by
  refine exec_next rfl ((runCmd_acts h loadImage_wrong).trans ?_) h1
  rw [hw]
  refine (if_neg (ne_true_of_eq_false hx)).trans ?_
  dsimp only
  rw [hr]
  dsimp only
  rw [hi]

/-- LOAD_IMAGE of an image that verifies waits for the context's teams, and then replaces the image of its kind (R411). -/
theorem loadImage_verified (hs : s.hole = none) (h1 : s1.hole = none) {m : Image} (hi : imgCheck s.board.keys s.board.floors l (c.field 16 4) = .ok m) :
    (s.ctxBusy n x = true → exec (.loadImage win) s = .next s) ∧
    (s.ctxBusy n x = false → exec (.loadImage win) s =
      .next ((s1.putCtx n { x with images := tabPut none x.images m.kind (some m) }).endCmd win c 0)) := by
  have hact : s.loadImage win = if s.ctxBusy n x then s else (s1.putCtx n { x with images := tabPut none x.images m.kind (some m) }).endCmd win c 0 := by
    refine (runCmd_acts h loadImage_wrong).trans ?_
    rw [hw]
    refine (if_neg (ne_true_of_eq_false hx)).trans ?_
    dsimp only
    rw [hr]
    dsimp only
    rw [hi]
  exact ⟨fun hb => exec_next rfl (hact.trans (if_pos hb)) hs, fun hb => exec_next rfl (hact.trans (if_neg (ne_true_of_eq_false hb))) h1⟩

end

/-! ## SAVE_CONTEXT -/

theorem saveContext_asks (hs : s.hole = none) (h : s.takes win 11 c) :
    (s.ctx (c.field 8 2) = none → exec (.saveContext win) s = .next (s.endCmd win c 3)) ∧
    (∀ x, s.ctx (c.field 8 2) = some x →
      (x.mode = .running → exec (.saveContext win) s = .next ((s.askHalt (c.field 8 2) false).putCmd win { c with begun := true })) ∧
      (x.mode ≠ .running → exec (.saveContext win) s = .next s)) := by
  refine ⟨fun hx => ?_, fun x hx => ⟨fun hm => ?_, fun hm => ?_⟩⟩
  · refine exec_next rfl ((runCmd_acts h saveContext_wrong).trans ?_) hs
    rw [hx]
  · refine exec_next (v := (s.askHalt (c.field 8 2) false).putCmd win { c with begun := true }) rfl ((runCmd_acts h saveContext_wrong).trans ?_) ?_
    · rw [hx]
      exact if_pos hm
    · obtain ⟨ts, r, ps, heq⟩ := askHalt_eq hx false
      rw [heq]
      exact hs
  · refine exec_next rfl ((runCmd_acts h saveContext_wrong).trans ?_) hs
    rw [hx]
    exact if_neg hm

/-! ## RESUME -/

theorem putIsland_hole (u : State) (k : Nat) (i : Island) : (u.putIsland k i).hole = u.hole := rfl

theorem reload_hole (u : State) (pair ctx : Nat) (idig : List Nat) : (u.reload pair ctx idig).hole = u.hole := by
  refine foldl_keeps (fun u : State => u.hole) (fun u e => ?_) _ u
  dsimp only
  split <;> rfl

theorem putBack_hole (u : State) (n : Nat) (x : Ctx) (v : Saved) (l : List (Nat × Nat)) : (u.putBack n x v l).hole = u.hole := by
  have h : (l.foldl (fun s e => s.reload e.2 n v.digests) u).hole = u.hole :=
    foldl_keeps (fun u : State => u.hole) (f := fun u (e : Nat × Nat) => u.reload e.2 n v.digests) (fun u e => reload_hole u e.2 n v.digests) l u
  unfold State.putBack
  generalize l.foldl (fun s e => s.reload e.2 n v.digests) u = w at h ⊢
  rw [← h]
  rfl

theorem choosePairs_hole (n : Nat) (gs : List (List Nat × Bool)) (acc : List (Nat × Nat)) (u : State) : (u.choosePairs n gs acc).1.hole = u.hole := by
  induction gs generalizing acc u with
  | nil => rfl
  | cons g gs ih =>
    obtain ⟨l, whole⟩ := g
    unfold State.choosePairs
    split
    · rfl
    · exact ih _ _

section
variable (h : s.takes win 12 c)
include h

theorem resume_unknown (hx : s.ctx (c.field 8 2) = none) : s.resumeCmd win = s.endCmd win c 0x0B := by
  refine (runCmd_acts h resumeCmd_wrong).trans ?_
  dsimp only
  rw [hx]

variable {x : Ctx} (hx : s.ctx (c.field 8 2) = some x)
include hx

theorem resume_refused (hbad : x.saved = none ∨ (x.mode ≠ .parked ∧ x.mode ≠ .saved) ∨ x.token.toNat ≠ c.field 24 8 ∨ (x.mode = .parked ∧ c.field 16 8 ≠ 0) ∨
    (x.mode = .saved ∧ c.field 16 8 = 0)) : s.resumeCmd win = s.endCmd win c 0x0B := by
  refine (runCmd_acts h resumeCmd_wrong).trans ?_
  dsimp only
  rw [hx]
  dsimp only
  cases hv : x.saved with
  | none => rfl
  | some v =>
    refine if_pos ?_
    obtain hbad | ⟨hp, hsv⟩ | hbad | ⟨hm, hf⟩ | ⟨hm, hf⟩ := hbad
    · rw [hv] at hbad
      cases hbad
    · simp [hp, hsv]
    · simp [hbad]
    · simp [hm, hf]
    · simp [hm, hf]

variable {v : Saved} (hv : x.saved = some v) (ht : x.token.toNat = c.field 24 8)
  (hm : (x.mode = .parked ∧ c.field 16 8 = 0) ∨ (x.mode = .saved ∧ c.field 16 8 ≠ 0))
include hv ht hm

/-- A RESUME that its context accepts waits until the context fits, and then puts it back (R396). -/
theorem resume_accepted {s1 : State} {o : Option (List (Nat × Nat))} (hg : s.choosePairs (c.field 8 2) (s.savedGroups v) [] = (s1, o)) :
    (o = none → s.resumeCmd win = s) ∧
    (∀ l, o = some l → x.mode = .parked → s.resumeCmd win = (s1.putBack (c.field 8 2) x v l).endCmd win c 0) ∧
    (∀ l s2 ps, o = some l → x.mode = .saved → s1.readPairs (s.window win).core (c.field 16 8 + 256) v.pairs = (s2, ps) →
      s.resumeCmd win = (s2.putBack (c.field 8 2) x { v with pairs := ps } l).endCmd win c 0) := by
  have hgo : ¬ (!(decide (x.mode = .parked) || decide (x.mode = .saved)) || x.token.toNat != c.field 24 8 ||
      decide (x.mode = .parked) != (c.field 16 8 == 0)) = true := by
    rw [ht]
    obtain ⟨hm, hf⟩ | ⟨hm, hf⟩ := hm <;> simp [hm, hf]
  unfold State.savedGroups at hg
  refine ⟨fun ho => ?_, fun l ho hp => ?_, fun l s2 ps ho hp hr => ?_⟩
  all_goals
    subst ho
    refine (runCmd_acts h resumeCmd_wrong).trans ?_
    dsimp only
    rw [hx]
    dsimp only
    rw [hv]
    dsimp only
    rw [if_neg hgo, hg]
  · dsimp only
    rw [hp]
    rfl
  · dsimp only
    rw [hp, if_neg (by decide), hr]

end

end

/-! ## The obligation -/

/-- Settles O45: each command waits, is refused, or is taken up as R448 to R451 and R396 say. -/
theorem hostCommandsAnswer : Obligations.HostCommandsAnswer := by
  unfold Obligations.HostCommandsAnswer
  refine fun s win hs => ⟨fun code hlo hhi => commandEvent_waits hs hlo hhi, fun c h => ⟨launchGrid_unbound hs h, fun n x hw => ⟨launchGrid_waits hs h hw, ?_⟩⟩,
    fun c s1 l v h hr h1 hv => ⟨fun hbad => ?_, fun hgood hsame n x hn hx => ⟨fun hold => ?_, fun s2 w s3 hnew hs2 hslot h3 => ?_⟩⟩,
    fun c h => ⟨loadImage_unbound h hs, fun n x hw => ⟨loadImage_parked h hw hs, fun s1 l hx hr h1 =>
      ⟨fun st hi => loadImage_refused h hw hx hr h1 hi, fun m hi => loadImage_verified h hw hx hr hs h1 hi⟩⟩⟩,
    fun c h => saveContext_asks hs h, fun c n h hn => ?_⟩
  · intro s1 l v root hx hq hr h1 hv hroot
    subst hv
    obtain rfl : root = recordRoot (leNat l) := hroot
    refine ⟨launchGrid_refused h hw hx hq hr h1, fun hgood hspace => ?_⟩
    obtain ⟨t, id, hex, hgrids, hid, hids, hmem, hcmd⟩ := launchGrid_adds h hw hx hq hr h1 hgood hspace
    exact ⟨t, _, hex, hgrids, hid, hids, hmem, hcmd, rfl, rfl, rfl, rfl, rfl, rfl, rfl⟩
  · subst hv
    exact setContext_invalid h hr h1 hbad
  · subst hv hn
    obtain ⟨y, hy⟩ := Option.ne_none_iff_exists'.mp hold
    have heq := setContext_binds h hr hgood hsame hx
    rw [show (s1.ctx (c.field 16 2)).isSome = true by rw [hy]; rfl, bindCtx_old] at heq
    obtain ⟨hwin, hcmd, hctx, hmem⟩ := bound_leaves (s1.putCtx (c.field 16 2) x) win (c.field 16 2) 0 c
    exact ⟨_, exec_next (u := s.setContext win) rfl heq h1, hwin, hcmd, (hctx _).trans (putCtx_ctx_same _ _ _), hmem⟩
  · subst hv hn hs2
    have heq := setContext_binds h hr hgood hsame hx
    rw [show (s1.ctx (c.field 16 2)).isSome = false by rw [hnew]; rfl, bindCtx_new _ _ _ _ _ hslot] at heq
    obtain ⟨hwin, hcmd, hctx, hmem⟩ := bound_leaves s3 win (c.field 16 2) w c
    exact ⟨_, exec_next (u := s.setContext win) rfl heq h3, hwin, hcmd, (hctx _).trans (newCtx_kept _ _ _ hslot), hmem⟩
  · subst hn
    refine ⟨fun hx => exec_next (u := s.resumeCmd win) rfl (resume_unknown h hx) hs, fun x hx => ⟨fun hbad =>
      exec_next (u := s.resumeCmd win) rfl (resume_refused h hx hbad) hs, fun v hv ht hm => ⟨fun s1 hg => ?_, fun s1 l hg => ⟨fun hp => ?_, fun s2 ps hp hr h2 => ?_⟩⟩⟩⟩
    · exact exec_next (u := s.resumeCmd win) rfl ((resume_accepted h hx hv ht hm hg).1 rfl) hs
    · have hhole := choosePairs_hole (c.field 8 2) (s.savedGroups v) [] s
      rw [hg] at hhole
      exact exec_next (u := s.resumeCmd win) rfl ((resume_accepted h hx hv ht hm hg).2.1 l rfl hp) ((putBack_hole _ _ x _ _).trans (hhole.trans hs))
    · exact exec_next (u := s.resumeCmd win) rfl ((resume_accepted h hx hv ht hm hg).2.2 l s2 ps rfl hp hr) ((putBack_hole _ _ x _ _).trans h2)

end Sys2Proof.Machine
end

section
/-! O42: IREQ, IREQ.unb, LAUNCH and BEAM at issue. Each issues, lands its thread's own stores where it reads memory, finds its checks passed, and acts. -/

namespace Sys2Proof.Machine

section
variable {s : State} {t : Team} {w : FWord} (h : CtlIssues s t) (hg : t.guard w.g w.gn)
include h hg

/-- IREQ of a batch whose bytes pass their checks and are there appends it to its endpoint (R345, R350). -/
theorem ireq_appends {q kind v space off n : Nat} {e : Endpoint} {cols : List (Nat × Nat)} (hok : ireqOk w .wide = true) (hq : q = w.d.toNat - 112)
    (hkind : kind = w.md.toNat % 4) (hv : v = (t.ctl.getS w.a.toNat).toNat) (he : e = t.endAt q) (hspace : space = (if v.testBit 24 then 3 else 2))
    (hoff : off = bitsAt v 0 24) (hn : n = bitsAt v 32 16) (hcols : cols = colPieces off (n * (4 * islandWords kind)) 8) (hb : batchOk v = true)
    (hcut : e.cut = false) (hk : e.kind = none ∨ e.kind = some kind)
    (hf : ∀ now last e ra x, x = (s.afterCtl t now last).landCtl t.uid → x.matCaps (t.retimed e ra) space [(off, n * (4 * islandWords kind))] = none ∧
      x.matLocks t.pair space false cols = none ∧ cols.any (fun r => (x.pair (homePair t.pair space r.1)).onFormat (r.1 % 2 ^ 19) r.2) = false ∧
      x.matFills t.pair ⟨t.uid, none, 0⟩ (cols.map (fun r => (space, r.1, r.2))) = (x, none) ∧ x.hole = none) :
    CtlRuns (.ireq w) s t (fun s u => (s.landCtl t.uid).ctlDone
      (u.putEnd q { e with kind := some kind, batches := e.batches ++ [⟨v.testBit 24, off, n, none⟩] })) := by
  subst hq hkind hv he hspace hoff hn hcols
  have hgo : ¬ (!batchOk (t.ctl.getS w.a.toNat).toNat || ((t.endAt (w.d.toNat - 112)).kind.isSome &&
      decide ((t.endAt (w.d.toNat - 112)).kind ≠ some (w.md.toNat % 4)))) = true := by
    rw [hb]
    obtain hk | hk := hk <;> simp [hk]
  refine ctl_acts h rfl (by unfold ireqCtl; rfl) hok hg (fun now last e ra => ?_) (fun now last e ra => ?_)
  · obtain ⟨hcaps, hlocks, hfmt, hfill, -⟩ := hf now last e ra _ rfl
    refine (if_neg hgo).trans ?_
    have hend : (t.retimed e ra).endAt (w.d.toNat - 112) = t.endAt (w.d.toNat - 112) := rfl
    dsimp only
    rw [retimed_uid, retimed_getS, hcaps]
    dsimp only
    rw [show (t.retimed e ra).pair = t.pair from rfl, hlocks]
    dsimp only
    rw [hfmt, if_neg Bool.false_ne_true, hfill, hend, hcut]
    rfl
  · exact (hf now last e ra _ rfl).2.2.2.2

/-- A trap at issue of the control stream that neither freezes nor asks the owner is delivered. -/
theorem ctl_traps {i : Instr} {a : Foc → State} {b : State → Team → State} {word : DWord} {c : Cls} {rd wr : List Nat} {act : State → Team → State}
    {k : State → State} {tr : Trap} (hex : exec i s = answer (byStream s a b)) (hb : b s t = ctlPass s t true word w.g w.gn c rd wr act)
    (hact : ∀ now last e ra, act (s.afterCtl t now last) (t.retimed e ra) = (k (s.afterCtl t now last)).trapCtl (t.retimed e ra) tr)
    (h1 : tr.code.violation = false) (h2 : ownerFirst tr.code = false) (h3 : tr.code ≠ .brk) (hh : ∀ now last, (k (s.afterCtl t now last)).hole = none) :
    CtlRuns i s t (fun s u => (k s).deliverCtl u tr) := by
  refine ctl_acts h hex hb rfl hg (fun now last e ra => ?_) (fun now last e ra => ?_)
  · exact (hact now last e ra).trans (trapCtl_plain h1 h2 h3)
  · exact (deliverCtl_hole _ _ _).trans (hh now last)

/-- IREQ.unb unbinds a drained endpoint, leaves an unbound one, and refuses one with work (R350). -/
theorem ireqUnb_runs {q : Nat} {e : Endpoint} (hok : ireqOk w .none = true) (hq : q = w.d.toNat - 112) (he : e = t.endAt q) :
    (e.kind = none → CtlRuns (.ireqUnb w) s t State.ctlDone) ∧
    (∀ k, e.kind = some k → e.words = [] → e.inside = 0 → e.batches = [] → CtlRuns (.ireqUnb w) s t (fun s u => s.ctlDone (u.putEnd q Endpoint.unbound))) ∧
    (∀ k, e.kind = some k → (e.words ≠ [] ∨ e.inside ≠ 0 ∨ e.batches ≠ []) →
      CtlRuns (.ireqUnb w) s t (fun s u => s.deliverCtl u { code := .illegalOperand, detail := hiOf (fToWord 0xCA w) })) := by
  subst hq he
  have hend : ∀ e ra, (t.retimed e ra).endAt (w.d.toNat - 112) = t.endAt (w.d.toNat - 112) := fun _ _ => rfl
  refine ⟨fun hk => ?_, fun k hk hw hi hb => ?_, fun k hk hbusy => ?_⟩
  · refine ctl_acts h rfl (by unfold ireqUnbCtl; rfl) hok hg (fun now last e ra => ?_) (fun _ _ _ _ => h.whole)
    dsimp only
    rw [hend]
    exact if_pos hk
  · refine ctl_acts h rfl (by unfold ireqUnbCtl; rfl) hok hg (fun now last e ra => ?_) (fun _ _ _ _ => h.whole)
    dsimp only
    rw [hend, if_neg (by rw [hk]; exact Option.some_ne_none k)]
    exact if_neg (by simp [hw, hi, hb])
  · refine ctl_traps h hg (k := fun s => s) rfl (by unfold ireqUnbCtl; rw [hok]) (fun now last e ra => ?_) rfl rfl (by simp) (fun _ _ => h.whole)
    dsimp only
    rw [hend, if_neg (by rw [hk]; exact Option.some_ne_none k)]
    refine if_pos ?_
    obtain hb | hb | hb := hbusy <;> simp [hb]

/-! ## LAUNCH -/

section
variable {c root : TCap} {v depth : Nat} (hc : c = t.ctl.getC (w.a.toNat - 64)) (hroot : root = t.ctl.getC (w.a.toNat - 63)) (htag : root.tag = true)
  (hspace : capSpace root = 1 ∨ capSpace root = 4) (hv : launchField v = none) (hdepth : depth = ((s.grid t.grid).map (fun g => g.depth)).getD 1)
  (hok : (plainMod w 1 && fldOk .ctl .wide (fldD w) && cRun (fldA w) 2 && fldOk .ctl .none (fldB w)) = true)
  (hf : ∀ now last e ra, ∃ x, ((s.afterCtl t now last).landCtl t.uid).ctlRead (t.retimed e ra) c (capCursor c) 64 192 = (x, .ok v) ∧
    x.hole = none ∧ x.queued < 4096 ∧ x.grid t.grid = s.grid t.grid)
include hc hroot htag hspace hv hdepth hok hf

/-- LAUNCH of a legal record makes a grid one level deeper (R352, R356). -/
theorem launch_makes (hlt : depth < 10) : CtlRuns (.launch w) s t (fun s u =>
    let n := ((s.landCtl t.uid).ctlRead u c (capCursor c) 64 192).1.newGrid v t.ctx (some t.grid) (depth + 1) false none root
      (some (capSpace c, t.pair, capCursor c + 184))
    n.2.ctlDone (u.withCtl (u.ctl.putS w.d.toNat (BitVec.ofNat 64 n.1)))) := by
  subst hc hroot
  have hsp : ¬ (capSpace (t.ctl.getC (w.a.toNat - 63)) ≠ 1 ∧ capSpace (t.ctl.getC (w.a.toNat - 63)) ≠ 4) := by
    obtain hspace | hspace := hspace <;> simp [hspace]
  refine ctl_acts h rfl (by unfold launchCtl; rfl) hok hg (fun now last e ra => ?_) (fun now last e ra => ?_)
  · obtain ⟨x, hread, -, hq, hgrid⟩ := hf now last e ra
    dsimp only
    rw [retimed_uid, retimed_getC, hread]
    dsimp only
    rw [retimed_getC, if_neg (by simp [htag]), if_neg hsp, hv]
    dsimp only
    rw [retimed_grid, hgrid, ← hdepth, if_neg (Nat.not_le.mpr hlt), if_neg (Nat.not_le.mpr hq)]
    rfl
  · obtain ⟨x, hread, hx, -⟩ := hf now last e ra
    dsimp only
    rw [ctlDone_hole, hread]
    obtain ⟨id, u, heq, -, -, -, -, hhole, -⟩ := newGrid_joins x v t.ctx (some t.grid) (depth + 1) false none (t.ctl.getC (w.a.toNat - 63))
      (some (capSpace (t.ctl.getC (w.a.toNat - 64)), t.pair, capCursor (t.ctl.getC (w.a.toNat - 64)) + 184))
    rw [heq]
    exact hhole.trans hx

/-- A LAUNCH at the greatest depth is NEST_DEPTH (R352). -/
theorem launch_nested (hle : 10 ≤ depth) : CtlRuns (.launch w) s t (fun s u =>
    (((s.landCtl t.uid).ctlRead u c (capCursor c) 64 192).1.deliverCtl u { code := .nestDepth, detail := 10 })) := by
  subst hc hroot
  have hsp : ¬ (capSpace (t.ctl.getC (w.a.toNat - 63)) ≠ 1 ∧ capSpace (t.ctl.getC (w.a.toNat - 63)) ≠ 4) := by
    obtain hspace | hspace := hspace <;> simp [hspace]
  refine ctl_acts h rfl (by unfold launchCtl; rfl) hok hg (fun now last e ra => ?_) (fun now last e ra => ?_)
  · obtain ⟨x, hread, -, -, hgrid⟩ := hf now last e ra
    dsimp only
    rw [retimed_uid, retimed_getC, hread]
    dsimp only
    rw [retimed_getC, if_neg (by simp [htag]), if_neg hsp, hv]
    dsimp only
    rw [retimed_grid, hgrid, ← hdepth, if_pos hle]
    exact trapCtl_plain rfl rfl (by simp)
  · obtain ⟨x, hread, hx, -⟩ := hf now last e ra
    rw [deliverCtl_hole, hread]
    exact hx

end

/-! ## BEAM -/

/-- BEAM whose descriptor is readable and whose pixels pass their checks sends its updates (R351, R426). -/
theorem beam_sends {root words : TCap} {tile d : Nat} {l : List (Nat × Nat × List Piece)}
    (hok : (plainMod w 1 && fldOk .ctl .none (fldD w) && cRun (fldA w) 2 && sRun (fldB w) 2) = true)
    (hroot : root = t.ctl.getC (w.a.toNat - 64)) (hwords : words = t.ctl.getC (w.a.toNat - 63)) (htile : tile = (t.ctl.getS w.b.toNat).toNat)
    (hf : ∀ now last e ra, ∃ x y, ((s.afterCtl t now last).landCtl t.uid).checkMem ((t.retimed e ra).memReq (root, (capCursor root : Int)) false) permLD 1 128 false = none ∧
      ((s.afterCtl t now last).landCtl t.uid).ctlRead (t.retimed e ra) root ((t.ctl.getS (w.b.toNat + 1)).toNat % 2 ^ 48) 1 128 = (x, .ok d) ∧
      x.beamPieces (t.retimed e ra) words d (bitsAt tile 0 16) (bitsAt tile 16 16) (List.range 64) = (y, .ok l) ∧
      (y.beamRun (t.retimed e ra) root words d (bitsAt tile 0 16) (bitsAt tile 16 16) l).hole = none) :
    CtlRuns (.beam w) s t (fun s u =>
      ((((s.landCtl t.uid).ctlRead u root ((t.ctl.getS (w.b.toNat + 1)).toNat % 2 ^ 48) 1 128).1.beamPieces u words d (bitsAt tile 0 16)
        (bitsAt tile 16 16) (List.range 64)).1.beamRun u root words d (bitsAt tile 0 16) (bitsAt tile 16 16) l)) := by
  subst hroot hwords htile
  refine ctl_acts h rfl (by unfold beamCtl; rfl) hok hg (fun now last e ra => ?_) (fun now last e ra => ?_)
  · obtain ⟨x, y, hcheck, hread, hpieces, -⟩ := hf now last e ra
    dsimp only
    simp only [retimed_uid, retimed_getC, retimed_getS]
    rw [hcheck]
    dsimp only
    rw [hread]
    dsimp only
    rw [hpieces]
  · obtain ⟨x, y, -, hread, hpieces, hy⟩ := hf now last e ra
    rw [hread]
    dsimp only
    rw [hpieces]
    exact hy

end

theorem bitsAt_zero (v n : Nat) : bitsAt v 0 n = v % 2 ^ n := by rw [bitsAt_eq, Nat.pow_zero, Nat.div_one]

/-- Settles O42: each instruction past its checks acts, and the vector stream has none of them. -/
theorem requestsBeamsAndLaunches : Obligations.RequestsBeamsAndLaunches := by
  unfold Obligations.RequestsBeamsAndLaunches
  refine ⟨fun s t w h hg => ⟨fun q kind v e space off n cols hok hq hkind hv he hspace hoff hn hcols hb hcut hk hf =>
      ireq_appends h hg hok hq hkind hv he hspace (hoff.trans (bitsAt_zero v 24).symm) (hn.trans (bitsAt_eq v 32 16).symm) hcols hb hcut hk hf,
      fun q e hok hq he => ireqUnb_runs h hg hok hq he, fun c root v depth hm hd ha hb hc hroot htag hspace hv hdepth hf => ?_,
      fun root words tile d l hm hd ha hb hroot hwords htile hf => ?_⟩,
    fun s f w h => ⟨notInVector h rfl, notInVector h rfl, notInVector h rfl, notInVector h rfl⟩⟩
  · have hok : (plainMod w 1 && fldOk .ctl .wide (fldD w) && cRun (fldA w) 2 && fldOk .ctl .none (fldB w)) = true := by simp [plainMod, hm, hd, ha, hb]
    exact ⟨launch_makes h hg hc hroot htag hspace hv hdepth hok hf, launch_nested h hg hc hroot htag hspace hv hdepth hok hf⟩
  · rw [← bitsAt_zero tile 16, ← bitsAt_eq tile 16 16] at *
    exact beam_sends h hg (by simp [plainMod, hm, hd, ha, hb]) hroot hwords htile hf

end Sys2Proof.Machine
end

section
/-! O44: the blend front end's commits, its mode bytes, the release of a group of splats, and the requests that it takes. -/

namespace Sys2Proof.Machine

/-! ## Waiting for pages in migration -/

theorem unitMig_waiting {s x : State} {q : Req} {need va len n : Nat} {o : Option Nat} (h : s.unitMig q need va len n = (x, o)) (hd : MigHolder) :
    x.migWaiting hd = s.migWaiting hd := by
  have hx := ((unitMig_readsOnly n s q need va len).of h).migWaits
  unfold State.migWaiting
  rw [hx]

theorem migWait_waiting (s : State) (hd : MigHolder) (ctx k : Nat) : (s.migWait hd ctx k).migWaiting hd = true := by simp [State.migWaiting, State.migWait]

section
variable (s : State) (cluster ctx : Nat) (act : State → State)

theorem frontMig_waiting (ws : List (Nat × Nat)) (h : s.migWaiting (.blend cluster) = true) : s.frontMig cluster ctx ws act = s := by
  unfold State.frontMig
  exact if_pos h

theorem frontMig_nil (h : s.migWaiting (.blend cluster) = false) : s.frontMig cluster ctx [] act = act s := by
  unfold State.frontMig
  exact if_neg (by simp [h])

theorem frontMig_cons {x : State} {o : Option Nat} {va len : Nat} (ws : List (Nat × Nat)) (h : s.migWaiting (.blend cluster) = false)
    (hm : s.unitMig (frontReq cluster ctx) needW va len 3 = (x, o)) :
    s.frontMig cluster ctx ((va, len) :: ws) act = o.elim (x.frontMig cluster ctx ws act) (x.migWait (.blend cluster) ctx) := by
  rw [State.frontMig]
  refine (if_neg (by simp [h])).trans ?_
  rw [hm]
  cases o <;> rfl

/-- The action of one write whose page is not in migration is done. -/
theorem frontMig_one {x : State} {va len : Nat} (h : s.migWaiting (.blend cluster) = false)
    (hm : s.unitMig (frontReq cluster ctx) needW va len 3 = (x, none)) : s.frontMig cluster ctx [(va, len)] act = act x :=
  (frontMig_cons s cluster ctx act [] h hm).trans (frontMig_nil x cluster ctx act ((unitMig_waiting hm _).trans h))

/-- The action is done on what the translations of the writes leave, unless one of them waits. -/
theorem frontMig_act (ws : List (Nat × Nat)) (h : (s.frontMig cluster ctx ws (fun u => u)).migWaiting (.blend cluster) = false) :
    s.frontMig cluster ctx ws act = act (s.frontMig cluster ctx ws (fun u => u)) := by
  induction ws generalizing s with
  | nil =>
    cases hw : s.migWaiting (.blend cluster) with
    | true => rw [frontMig_waiting s cluster ctx _ [] hw, hw] at h; cases h
    | false => rw [frontMig_nil s cluster ctx act hw, frontMig_nil s cluster ctx _ hw]
  | cons w ws ih =>
    obtain ⟨va, len⟩ := w
    cases hw : s.migWaiting (.blend cluster) with
    | true => rw [frontMig_waiting s cluster ctx _ _ hw, hw] at h; cases h
    | false =>
      generalize hm : s.unitMig (frontReq cluster ctx) needW va len 3 = p
      obtain ⟨x, o⟩ := p
      rw [frontMig_cons s cluster ctx _ ws hw hm] at h
      rw [frontMig_cons s cluster ctx act ws hw hm, frontMig_cons s cluster ctx _ ws hw hm]
      cases o with
      | some k => exact absurd ((migWait_waiting x (.blend cluster) ctx k).symm.trans h) (by decide)
      | none => exact ih x h

end

/-! ## The order of splats -/

theorem splatBefore_iff (a b : BlendReq) : splatBefore a b = true ↔ a.key < b.key ∨ a.key = b.key ∧ a.seq < b.seq := by simp [splatBefore]

theorem splatBefore_asymm {a b : BlendReq} (h : splatBefore a b = true) : splatBefore b a = false := by
  rw [Bool.eq_false_iff]
  intro h'
  rw [splatBefore_iff] at h h'
  omega

/-- Not to come before is transitive, as the order is that of the pairs of key and number. -/
theorem splatBefore_trans {a b c : BlendReq} (h : splatBefore b a = false) (k : splatBefore c b = false) : splatBefore c a = false := by
  rw [Bool.eq_false_iff, ne_eq, splatBefore_iff] at h k ⊢
  omega

theorem insertSplat_perm (a : BlendReq) (l : List BlendReq) : (insertSplat a l).Perm (a :: l) := by
  induction l with
  | nil => exact .refl _
  | cons b l ih =>
    unfold insertSplat
    split
    · exact (ih.cons b).trans (.swap a b l)
    · exact .refl _

theorem insertSplat_sorted (a : BlendReq) {l : List BlendReq} (h : l.Pairwise (fun a b => splatBefore b a = false)) :
    (insertSplat a l).Pairwise (fun a b => splatBefore b a = false) := by
  induction l with
  | nil => exact .cons (by simp) .nil
  | cons b l ih =>
    obtain ⟨hb, hl⟩ := List.pairwise_cons.mp h
    unfold insertSplat
    split
    next hba =>
      refine .cons (fun c hc => ?_) (ih hl)
      rcases List.mem_cons.mp ((insertSplat_perm a l).mem_iff.mp hc) with rfl | hc
      · exact splatBefore_asymm hba
      · exact hb c hc
    next hba =>
      have hab : splatBefore b a = false := by simpa using hba
      refine .cons (fun c hc => ?_) h
      rcases List.mem_cons.mp hc with rfl | hc
      · exact hab
      · exact splatBefore_trans hab (hb c hc)

theorem foldr_insertSplat (l : List BlendReq) :
    (l.foldr insertSplat []).Pairwise (fun a b => splatBefore b a = false) ∧ (l.foldr insertSplat []).Perm l := by
  induction l with
  | nil => exact ⟨.nil, .refl _⟩
  | cons a l ih => exact ⟨insertSplat_sorted a ih.1, (insertSplat_perm a _).trans (ih.2.cons a)⟩

/-! ## The commit of a request -/

section
variable {s : State} {cluster id : Nat}

theorem blendCommit_absent (h : (s.blendUnit cluster).held.find? (fun r => r.id == id && decide (r.reply = none)) = none) : s.blendCommit cluster id = s := by
  unfold State.blendCommit
  rw [h]

theorem blendCommit_stopped {r : BlendReq} (h : (s.blendUnit cluster).held.find? (fun r => r.id == id && decide (r.reply = none)) = some r)
    (hi : (s.island (islandKey 3 cluster)).stopped = true) : s.blendCommit cluster id = s := by
  unfold State.blendCommit
  rw [h]
  exact if_pos hi

/-- What a commit that its pages let be does. -/
def commitAct (cluster d ns : Nat) (r : BlendReq) (s : State) : State :=
  match s.blendPixel cluster d r with
  | (s, .error _) => s.cutStream cluster r.stream
  | (s, .ok out) =>
    let s := if r.ends then s.flushTile cluster d r else s
    let s := if r.ends ∨ r.mode = 15 then s.putNs cluster d ns r else s
    (s.blendStart cluster r).blendReply cluster r out

/-- What BLEND_COMMIT does for each fate of its request (R438, R439). -/
def fateAct (cluster : Nat) (r : BlendReq) (s : State) : BlendFate → State
  | .cut => s.cutStream cluster r.stream
  | .refused => (s.countBlend cluster).blendReply cluster r fourNans
  | .unowned => s.blendReply cluster r fourNans
  | .stale => (s.countBlend cluster).blendReply cluster r fourNans
  | .waits => s
  | .commits d ns => s.frontMig cluster r.ctx (s.commitWrites cluster d r) (commitAct cluster d ns r)

theorem blendCommit_fate {r : BlendReq} {x : State} {fate : BlendFate}
    (h : (s.blendUnit cluster).held.find? (fun r => r.id == id && decide (r.reply = none)) = some r)
    (hi : (s.island (islandKey 3 cluster)).stopped = false) (hf : s.blendFate cluster r = (x, fate)) :
    s.blendCommit cluster id = fateAct cluster r x fate := by
  unfold State.blendCommit
  rw [h]
  refine (if_neg (by simp [hi])).trans ?_
  rw [hf]
  cases fate <;> rfl

variable {d ns : Nat} {r : BlendReq} {y : State} {out : List Word}

theorem commitWrites_pixel (h : r.ends = false) (hm : r.mode ≠ 15) : s.commitWrites cluster d r = [] := by simp [State.commitWrites, h, hm]

theorem commitWrites_sequence (h : r.ends = false) (hm : r.mode = 15) :
    s.commitWrites cluster d r = [(rtSeqAddr d (r.x / 32) (r.y / 32), 4)] := by simp [State.commitWrites, h, hm]

theorem commitAct_pixel (h : r.ends = false) (hm : r.mode ≠ 15) (hp : s.blendPixel cluster d r = (y, .ok out)) :
    commitAct cluster d ns r s = (y.blendStart cluster r).blendReply cluster r out := by simp [commitAct, hp, h, hm]

theorem commitAct_sequence (h : r.ends = false) (hm : r.mode = 15) (hp : s.blendPixel cluster d r = (y, .ok out)) :
    commitAct cluster d ns r s = ((y.putNs cluster d ns r).blendStart cluster r).blendReply cluster r out := by simp [commitAct, hp, h, hm]

end

theorem blendAnswer_hole (s : State) (cluster : Nat) (r : BlendReq) (out : List Word) : ((s.blendStart cluster r).blendReply cluster r out).hole = s.hole := rfl

theorem cutStream_hole (s : State) (cluster stream : Nat) : (s.cutStream cluster stream).hole = s.hole := by
  unfold State.cutStream
  dsimp only
  split <;> rfl

/-! ## Mode bytes and groups of splats -/

theorem blockModeWrite_none {s : State} {cluster : Nat} (h : (s.blendUnit cluster).modes = []) : s.blockModeWrite cluster = s := by
  unfold State.blockModeWrite
  dsimp only
  rw [h]

/-- What BLOCK_MODE_WRITE does with the first mode byte that is due. -/
def modeAct (cluster : Nat) (m : ModeWrite) (l : List ModeWrite) (s : State) : State :=
  let s := s.putBlend cluster { s.blendUnit cluster with modes := l }
  let (w, s) := s.frontWrite (frontHolder 3 cluster) (frontReq cluster m.ctx) m.addr (natLe 1 m.mode)
  s.foldEnd m.stream w

theorem blockModeWrite_due {s x : State} {cluster : Nat} {m : ModeWrite} {l : List ModeWrite} (h : (s.blendUnit cluster).modes = m :: l)
    (hw : s.migWaiting (.blend cluster) = false) (hm : s.unitMig (frontReq cluster m.ctx) needW m.addr 1 3 = (x, none)) :
    s.blockModeWrite cluster = modeAct cluster m l x := by
  have hform : s.blockModeWrite cluster = s.frontMig cluster m.ctx [(m.addr, 1)] (modeAct cluster m l) := by
    unfold State.blockModeWrite
    dsimp only
    rw [h]
    rfl
  exact hform.trans (frontMig_one s cluster m.ctx _ hw hm)

section
variable {s : State} {cluster slot tile : Nat}

theorem splatRelease_none (h : (s.blendUnit cluster).group slot tile = []) : s.splatRelease cluster slot tile = s := by
  unfold State.splatRelease
  dsimp only
  rw [h]
  exact ite_self s

/-- What the release of the group l of r's tile does: its splats in order, and the tile's blocks when one of them ends the group. -/
def splatAct (cluster : Nat) (r : BlendReq) (l : List BlendReq) (s : State) : State :=
  let b := s.blendUnit cluster
  let s := s.putBlend cluster { b with splats := b.splats.filter (fun o => !o.sameTile r), held := b.held ++ l }
  let s := (l.foldr insertSplat []).foldl (fun s r => s.splatOne cluster r) s
  match l.find? (fun o => o.ends) with
  | none => s
  | some e => match s.blendDesc cluster e with
    | (s, .ok d) => s.flushTile cluster d e
    | (s, .error _) => s

/-- The writes of a group with an END: the blocks of its pixels and those that its primitive dirtied (R440). -/
def groupWrites (b : BlendUnit) (r : BlendReq) (l : List BlendReq) (d : Nat) : List (Nat × Nat) :=
  (l.flatMap (fun (o : BlendReq) => [(o.x / 8, o.y / 8)]) ++ b.dirtyBlocks r).eraseDups.map (fun (e : Nat × Nat) => (rtBlockAddr d e.1 e.2, 256))

theorem splatRelease_group {r : BlendReq} {l : List BlendReq} {s0 : State} {d0 : Nat} (h : (s.blendUnit cluster).group slot tile = r :: l)
    (hi : (s.island (islandKey 3 cluster)).stopped = false) (he : (r :: l).any (fun o => o.ends) = true)
    (hd : s.blendDesc cluster r = (s0, .ok d0)) :
    s.splatRelease cluster slot tile = s0.frontMig cluster r.ctx (groupWrites (s.blendUnit cluster) r (r :: l) d0) (splatAct cluster r (r :: l)) := by
  unfold State.splatRelease
  dsimp only
  rw [h]
  refine (if_neg (by simp [hi])).trans ?_
  dsimp only
  rw [if_neg (by simp [he]), hd]
  rfl

theorem splatAct_ends {r e : BlendReq} {l : List BlendReq} {x : State} {d : Nat} (he : l.find? (fun o => o.ends) = some e)
    (hd : ((l.foldr insertSplat []).foldl (fun s r => s.splatOne cluster r) (s.putBlend cluster { s.blendUnit cluster with
        splats := (s.blendUnit cluster).splats.filter (fun o => !o.sameTile r), held := (s.blendUnit cluster).held ++ l })).blendDesc cluster e = (x, .ok d)) :
    splatAct cluster r l s = x.flushTile cluster d e := by
  unfold splatAct
  dsimp only
  rw [he]
  dsimp only
  rw [hd]

end

/-! ## The requests that the front end takes -/

/-- The front end holds one more request. -/
def holdReq (s : State) (cluster : Nat) (r : BlendReq) : State :=
  s.putBlend cluster { s.blendUnit cluster with held := (s.blendUnit cluster).held ++ [r] }

/-- The blend island has taken a stream's next request. -/
def blendTook (s : State) (cluster stream : Nat) (t : Team) (b : Batch) : State :=
  ((if b.back = none then (s.newId).2 else s).putTeam (t.putEnd (stream % 16) ((t.endAt (stream % 16)).sent 3))).islandTook 3 cluster stream

theorem holdReq_held (s : State) (cluster : Nat) (r : BlendReq) :
    ((holdReq s cluster r).blendUnit cluster).held = (s.blendUnit cluster).held ++ [r] := by
  unfold holdReq State.putBlend
  rw [State.blendUnit, tabGet_tabPut_same]

theorem holdReq_mem (s : State) (cluster : Nat) (r : BlendReq) : (holdReq s cluster r).mem = s.mem := rfl

theorem holdReq_hole (s : State) (cluster : Nat) (r : BlendReq) : (holdReq s cluster r).hole = s.hole := rfl

theorem blendTook_keeps (s : State) (cluster stream : Nat) (t : Team) (b : Batch) :
    (blendTook s cluster stream t b).blends = s.blends ∧ (blendTook s cluster stream t b).mem = s.mem ∧ (blendTook s cluster stream t b).hole = s.hole := by
  unfold blendTook
  split <;> exact ⟨rfl, rfl, rfl⟩

theorem blendAccept_held {s : State} {cluster stream : Nat} {t : Team} {b : Batch} {r : BlendReq} {ready : List Nat}
    (hr : ready = (s.readyStreams 3 cluster).filter (fun n => match s.blendNext n with | some (_, _, r) => s.blendRoom cluster r | none => false))
    (hi : (s.island (islandKey 3 cluster)).stopped = false) (hf : (s.island (islandKey 3 cluster)).frozen = false)
    (ha : (s.island (islandKey 3 cluster)).nextAt ≤ s.gt) (hn : nextStream (s.island (islandKey 3 cluster)).lastStream ready = some stream)
    (hb : s.blendNext stream = some (t, b, r)) (hbad : s.batchBad t 3 b = false) (hm : r.mode ≠ 6) :
    s.blendAccept cluster stream = holdReq (blendTook s cluster stream t b) cluster r := by
  have hskip : ((s.island (islandKey 3 cluster)).stopped || (s.island (islandKey 3 cluster)).frozen ||
      decide (s.gt < (s.island (islandKey 3 cluster)).nextAt) || decide (nextStream (s.island (islandKey 3 cluster)).lastStream ready ≠ some stream)) = false := by
    simp [hi, hf, ha, hn]
  rw [hr] at hskip
  unfold State.blendAccept
  refine (if_neg (fun h => Bool.noConfusion (hskip.symm.trans h))).trans ?_
  rw [hb]
  dsimp only
  rw [hbad, if_neg (by decide), if_pos hm]
  rfl

/-- Settles O44: a commit by the fate of its request, a write by whether its page is in migration, and the order of splats by its insertion sort. -/
theorem blendingCommits : Obligations.BlendingCommits := by
  intro s cluster h
  refine ⟨fun id hn => ?_, fun id r hr => ⟨fun hi => ?_, fun hi x hx => ⟨fun hf => ?_, fun hf => ?_, fun hf => ?_, fun hf => ?_, fun hf => ?_,
    fun d ns hf hw => ?_, fun d ns y out hf hw he hm hp hy => ?_, fun d ns x' y out hf hw he hm hu hp hy => ?_⟩⟩, fun hm => ?_,
    fun m l x y hm hw hu hy hh => ?_, fun slot tile hg => ?_, fun slot tile r l e s0 d0 s1 x d hg hi he hd hs hw hx hh => ?_, foldr_insertSplat,
    fun stream ready t b r hr hi hf ha hn hb hbad hm => ?_⟩
  · exact exec_next (u := s.blendCommit cluster id) rfl (blendCommit_absent hn) h
  · exact exec_next (u := s.blendCommit cluster id) rfl (blendCommit_stopped hr hi) h
  · exact exec_next (u := s.blendCommit cluster id) rfl (blendCommit_fate hr hi hf) hx
  · exact exec_next (u := s.blendCommit cluster id) rfl (blendCommit_fate hr hi hf) hx
  · exact exec_next (u := s.blendCommit cluster id) rfl (blendCommit_fate hr hi hf) hx
  · exact exec_next (u := s.blendCommit cluster id) rfl (blendCommit_fate hr hi hf) hx
  · exact exec_next (u := s.blendCommit cluster id) rfl (blendCommit_fate hr hi hf) ((cutStream_hole _ _ _).trans hx)
  · exact exec_next (u := s.blendCommit cluster id) rfl ((blendCommit_fate hr hi hf).trans (frontMig_waiting x cluster r.ctx _ _ hw)) hx
  · refine exec_next (u := s.blendCommit cluster id) rfl ((blendCommit_fate hr hi hf).trans ?_) ((blendAnswer_hole _ cluster r out).trans hy)
    unfold fateAct
    dsimp only
    rw [commitWrites_pixel he hm, frontMig_nil x cluster r.ctx _ hw, commitAct_pixel he hm hp]
  · refine exec_next (u := s.blendCommit cluster id) rfl ((blendCommit_fate hr hi hf).trans ?_) ((blendAnswer_hole _ cluster r out).trans hy)
    unfold fateAct
    dsimp only
    rw [commitWrites_sequence he hm, frontMig_one x cluster r.ctx _ hw hu, commitAct_sequence he hm hp]
  · exact exec_next (u := s.blockModeWrite cluster) rfl (blockModeWrite_none hm) h
  · refine exec_next (u := s.blockModeWrite cluster) rfl ((blockModeWrite_due hm hw hu).trans ?_) hh
    rw [hy]
    rfl
  · exact exec_next (u := s.splatRelease cluster slot tile) rfl (splatRelease_none hg) h
  · have hany : (r :: l).any (fun o => o.ends) = true := List.any_eq_true.mpr ⟨e, List.mem_of_find?_eq_some he, by simpa using List.find?_some he⟩
    have hs' : s0.frontMig cluster r.ctx (groupWrites (s.blendUnit cluster) r (r :: l) d0) (fun u => u) = s1 := hs
    refine exec_next (u := s.splatRelease cluster slot tile) rfl ?_ hh
    calc s.splatRelease cluster slot tile
        = s0.frontMig cluster r.ctx (groupWrites (s.blendUnit cluster) r (r :: l) d0) (splatAct cluster r (r :: l)) := splatRelease_group hg hi hany hd
      _ = splatAct cluster r (r :: l) s1 := by rw [frontMig_act _ _ _ _ _ (by rw [hs', hw]), hs']
      _ = x.flushTile cluster d e := splatAct_ends he hx
  · obtain ⟨hblends, hmem, hhole⟩ := blendTook_keeps s cluster stream t b
    refine ⟨holdReq (blendTook s cluster stream t b) cluster r, exec_next (u := s.blendAccept cluster stream) rfl
      (blendAccept_held hr hi hf ha hn hb hbad hm) (hhole.trans h), ?_, hmem⟩
    rw [holdReq_held, State.blendUnit, hblends, State.blendUnit]

end Sys2Proof.Machine
end

section
/-! O43: how an island takes requests, answers them and stops, and the default images. -/

namespace Sys2Proof.Machine

/-! ## Islands -/

theorem putIsland_island (s : State) (key : Nat) (i : Island) : (s.putIsland key i).island key = i := tabGet_tabPut_same _ _ _ _

/-- The latency of R403, its terms in the order of R400. -/
theorem latency_add (a kind ii : Nat) : a + islandLatency kind ii = a + 4 * islandCols kind + ii + 7 := by unfold islandLatency; omega

/-- A state in which an island of a kind other than blend has taken the next request b of endpoint q of a team. -/
def cellTook (s : State) (kind unit stream : Nat) (t : Team) (b : Batch) : State :=
  ((s.putIsland (islandKey kind unit) { s.island (islandKey kind unit) with
      reqs := (s.island (islandKey kind unit)).reqs ++ [⟨stream, s.batchWords t kind b, s.gt⟩] }).putTeam
    (t.putEnd (stream % 16) ((t.endAt (stream % 16)).sent kind))).islandTook kind unit stream

section
variable {s : State} {kind unit stream : Nat}

theorem cellAccept_stopped (h : (s.island (islandKey kind unit)).stopped = true) : s.cellAccept kind unit stream = s := by
  unfold State.cellAccept
  exact if_pos (by simp [h])

section
variable {t : Team} {b : Batch} {l : List Batch} (hst : (s.island (islandKey kind unit)).stopped = false)
  (hfr : (s.island (islandKey kind unit)).frozen = false) (hat : (s.island (islandKey kind unit)).nextAt ≤ s.gt)
  (hnext : nextStream (s.island (islandKey kind unit)).lastStream (s.readyStreams kind unit) = some stream) (ht : s.team (stream / 16) = some t)
  (hb : (t.endAt (stream % 16)).batches = b :: l)
include hst hfr hat hnext ht hb

/-- A stream next in turn on an island that runs and is free: poison in the request cuts it, and otherwise the island takes the request. -/
theorem cellAccept_next : s.cellAccept kind unit stream = if s.batchBad t kind b then s.putTeam (t.putEnd (stream % 16) (t.endAt (stream % 16)).cutOff)
    else cellTook s kind unit stream t b := by
  unfold State.cellAccept
  refine (if_neg (by simp [hst, hfr, hat, hnext])).trans ?_
  rw [ht]
  dsimp only
  rw [hb]
  rfl

end

theorem cellTook_island (t : Team) (b : Batch) : (cellTook s kind unit stream t b).island (islandKey kind unit) = { s.island (islandKey kind unit) with
    reqs := (s.island (islandKey kind unit)).reqs ++ [⟨stream, s.batchWords t kind b, s.gt⟩]
    lastStream := stream
    nextAt := s.gt + (s.island (islandKey kind unit)).interval kind } := by
  unfold cellTook State.islandTook
  dsimp only
  rw [putIsland_island]
  have hisland : ∀ (u : State) (v : Team), (u.putTeam v).island (islandKey kind unit) = u.island (islandKey kind unit) := fun _ _ => rfl
  rw [hisland, putIsland_island]
  rfl

theorem cellTook_keeps (t : Team) (b : Batch) : (cellTook s kind unit stream t b).mem = s.mem ∧ (cellTook s kind unit stream t b).gt = s.gt ∧
    (cellTook s kind unit stream t b).hole = s.hole := ⟨rfl, rfl, rfl⟩

theorem cellTook_team {t : Team} (ht : s.team (stream / 16) = some t) (b : Batch) : (cellTook s kind unit stream t b).team (stream / 16) =
    some (t.putEnd (stream % 16) ((t.endAt (stream % 16)).sent kind)) := by
  have hput : ∀ u : State, u.teams = s.teams → (u.putTeam (t.putEnd (stream % 16) ((t.endAt (stream % 16)).sent kind))).team (stream / 16) =
      some (t.putEnd (stream % 16) ((t.endAt (stream % 16)).sent kind)) := fun u hu => by
    have htu : u.team (stream / 16) = some t := by rw [State.team, hu]; exact ht
    rw [putTeam_team htu]
    exact congrArg some (if_pos (team_uid ht).symm)
  exact hput (s.putIsland (islandKey kind unit) _) rfl

theorem putEnd_endAt (t : Team) (q : Nat) (e : Endpoint) : (t.putEnd q e).endAt q = e := tabGet_tabPut_same _ _ _ _

theorem sent_cons {e : Endpoint} {b : Batch} {l : List Batch} (h : e.batches = b :: l) (kind : Nat) : (e.sent kind).inside = e.inside + 1 ∧
    (e.sent kind).batches = if b.left ≤ 1 then l else { b with off := b.off + 4 * islandWords kind, left := b.left - 1 } :: l := by
  unfold Endpoint.sent
  rw [h]
  exact ⟨rfl, rfl⟩

theorem cellRespond_empty (h : (s.island (islandKey kind unit)).reqs = []) : s.cellRespond kind unit = s := by
  unfold State.cellRespond
  dsimp only
  rw [h]

theorem cellRespond_first {r : IslandReq} {l : List IslandReq} (h : (s.island (islandKey kind unit)).reqs = r :: l) : s.cellRespond kind unit =
    if s.gt < r.accepted + islandLatency kind ((s.island (islandKey kind unit)).interval kind) then s
    else (s.putIsland (islandKey kind unit) { s.island (islandKey kind unit) with reqs := l }).respond r.stream
      (islandAnswer (s.island (islandKey kind unit)).image kind r.words) 0 := by
  unfold State.cellRespond
  dsimp only
  rw [h]

end

theorem respond_hole (s : State) (stream : Nat) (words : List Word) (w : Nat) : (s.respond stream words w).hole = s.hole := by
  unfold State.respond
  split
  · rfl
  · dsimp only
    split <;> rfl

theorem cellRespond_hole (s : State) (kind unit : Nat) : (s.cellRespond kind unit).hole = s.hole := by
  unfold State.cellRespond
  dsimp only
  split
  · rfl
  · split
    · rfl
    · exact respond_hole _ _ _ _

theorem cellDrain_hole (s : State) (kind unit n : Nat) : (s.cellDrain kind unit n).hole = s.hole := by
  induction n generalizing s with
  | zero => rfl
  | succ n ih =>
    unfold State.cellDrain
    split
    · exact (ih _).trans (cellRespond_hole s kind unit)
    · rfl

theorem islandStop_hole (s : State) (kind unit : Nat) : (s.islandStop kind unit).hole = s.hole := cellDrain_hole s kind unit _

theorem islandStop_island (s : State) (kind unit : Nat) : ((s.islandStop kind unit).island (islandKey kind unit)).stopped = true ∧
    ((s.islandStop kind unit).island (islandKey kind unit)).reqs = [] := by
  generalize hu : s.cellDrain kind unit (s.island (islandKey kind unit)).reqs.length = u
  have hput : (s.islandStop kind unit).island (islandKey kind unit) = { u.island (islandKey kind unit) with stopped := true, reqs := [] } := by
    rw [← hu]
    exact putIsland_island _ _ _
  rw [hput]
  exact ⟨rfl, rfl⟩

/-! ## The default images -/

theorem getD_map_range (f : Nat → Word) {n c : Nat} (h : c < n) : ((List.range n).map f).getD c 0 = f c := by simp [h]

theorem blendImage_channel (x : List Word) {c : Nat} (hc : c < 4) :
    (bitsAt (x.getD 9 0).toNat 24 4 = 0 → (blendImage x).getD c 0 = x.getD c 0) ∧
    (bitsAt (x.getD 9 0).toNat 24 4 = 1 → (blendImage x).getD c 0 = ffma (x.getD (4 + c) 0) (fsub one32 (x.getD 3 0)) (x.getD c 0)) ∧
    (bitsAt (x.getD 9 0).toNat 24 4 = 2 → (blendImage x).getD c 0 = fadd (x.getD c 0) (x.getD (4 + c) 0)) ∧
    (bitsAt (x.getD 9 0).toNat 24 4 = 3 → (blendImage x).getD c 0 = fmul (x.getD c 0) (x.getD (4 + c) 0)) := by
  unfold blendImage
  dsimp only
  rw [getD_map_range _ hc]
  refine ⟨fun h => ?_, fun h => ?_, fun h => ?_, fun h => ?_⟩ <;>
  · rw [h]
    rfl

theorem textureImage_channel (x : List Word) {c : Nat} (hc : c < 4) : (textureImage x).getD c 0 =
    fmul (ffma (x.getD 1 0) (fsub (ffma (x.getD 0 0) (fsub (x.getD (16 + c) 0) (x.getD (12 + c) 0)) (x.getD (12 + c) 0))
      (ffma (x.getD 0 0) (fsub (x.getD (8 + c) 0) (x.getD (4 + c) 0)) (x.getD (4 + c) 0)))
      (ffma (x.getD 0 0) (fsub (x.getD (8 + c) 0) (x.getD (4 + c) 0)) (x.getD (4 + c) 0))) (x.getD 2 0) := getD_map_range _ hc

theorem fvCond_zero (n : Bool) (e : Int) : fvCond 0 (.fin n 0 e) (.fin false 0 0) = true := by
  have hcmp : fvCompare (.fin n 0 e) (.fin false 0 0) = some .eq := by rw [fvCompare_fin_eq]; simp [Fv.num, scaled]
  rw [fvCond, hcmp]
  rfl

/-- The area of a coverage request's triangle (R427). -/
def coverArea (x : List Word) : Word := edgeValue (x.getD 0 0) (x.getD 1 0) (x.getD 3 0) (x.getD 4 0) (x.getD 6 0) (x.getD 7 0)

/-- A coverage request has no triangle: its area is a NaN or zero (R427). -/
def noTriangle (x : List Word) : Bool := (f32 (coverArea x)).isNan || fvCond 0 (f32 (coverArea x)) (.fin false 0 0)

/-- The first two words of the coverage image are the mask of the pixels that a test takes, and the test takes pixels of the block alone, and none
without a triangle. -/
theorem coverageImage_mask (x : List Word) : ∃ p : Nat → Bool,
    (coverageImage x).getD 0 0 = (maskOf ((List.range 64).filter p)).extractLsb' 0 32 ∧
    (coverageImage x).getD 1 0 = (maskOf ((List.range 64).filter p)).extractLsb' 32 32 ∧
    ∀ i, p i = true → i % 8 < 8 >>> ((x.getD 11 0).toNat % 4) ∧ i / 8 < 8 >>> ((x.getD 11 0).toNat % 4) ∧ noTriangle x = false := by
  refine ⟨_, rfl, rfl, fun i hi => ?_⟩
  simp only [Bool.and_eq_true, decide_eq_true_eq, Bool.not_eq_true', Bool.or_eq_false_iff] at hi
  obtain ⟨⟨⟨hx, hy⟩, ⟨⟨hnan, hzero⟩, _⟩, _⟩, _⟩ := hi
  exact ⟨hx, hy, by rw [noTriangle, Bool.or_eq_false_iff]; exact ⟨hnan, hzero⟩⟩

theorem coverageImage_empty (x : List Word) (h : noTriangle x = true) : (coverageImage x).getD 0 0 = 0 ∧ (coverageImage x).getD 1 0 = 0 := by
  obtain ⟨p, hlo, hhi, hp⟩ := coverageImage_mask x
  have hnone : (List.range 64).filter p = [] := List.filter_eq_nil_iff.mpr (fun i _ hi => by
    obtain ⟨_, _, hno⟩ := hp i hi
    exact Bool.noConfusion (h.symm.trans hno))
  rw [hlo, hhi, hnone]
  exact ⟨rfl, rfl⟩

theorem coverageImage_outside (x : List Word) {i : Nat} (hi : i < 64)
    (h : 8 >>> ((x.getD 11 0).toNat % 4) ≤ i % 8 ∨ 8 >>> ((x.getD 11 0).toNat % 4) ≤ i / 8) :
    ((coverageImage x).getD 1 0 ++ (coverageImage x).getD 0 0 : BitVec 64).getLsbD i = false := by
  obtain ⟨p, hlo, hhi, hp⟩ := coverageImage_mask x
  have hout : p i = false := by
    by_contra hpi
    obtain ⟨hx, hy, _⟩ := hp i (by simpa using hpi)
    omega
  have hbit : (maskOf ((List.range 64).filter p)).getLsbD i = false := by
    rw [maskOf_getLsbD (fun u hu => List.mem_range.mp (List.mem_of_mem_filter hu))]
    simp [hout]
  rw [hlo, hhi, BitVec.getLsbD_append]
  split
  · simpa using fun _ => hbit
  · have hi32 : 32 + (i - 32) = i := by omega
    simp [hi32, hbit]

theorem intersectImage_leaf (x : List Word) (h : bitsAt (x.getD 22 0).toNat 4 4 ≠ 0) : (intersectImage x).getD 3 0 = 0 := by
  unfold intersectImage
  dsimp only
  rw [if_pos h]
  rfl

/-! ## The obligation -/

/-- Settles O43: each event of an island by the case it meets, and each default image by what its defining formula gives. -/
theorem islandsAndTheirImages : Obligations.IslandsAndTheirImages := by
  refine ⟨fun s kind unit stream i h hk hi => ?_, fun x c hc => ?_, fun x area ha => ⟨fun hz => ?_, fun i hi ho => ?_⟩, fun x hx => ?_⟩
  · subst hi
    have haccept : execIslandRequestAccept kind unit stream s = answer (s.cellAccept kind unit stream) := by
      unfold execIslandRequestAccept
      rw [if_neg (by omega)]
    have hrespond : execIslandResponse kind unit s = answer (s.cellRespond kind unit) := by
      unfold execIslandResponse
      rw [if_neg (by omega)]
    have hstop : execIslandConfigError kind unit s = answer (s.islandStop kind unit) := by
      unfold execIslandConfigError State.configError
      rw [Nat.mod_eq_of_lt (by omega), if_pos (by omega)]
    refine ⟨fun hst => ?_, fun t e b l hst hfr hat hnext ht he hb => ?_, fun hr => ?_, fun r l hr => ⟨fun hlt => ?_, fun hle => ?_⟩, ?_⟩
    · exact exec_next (u := s.cellAccept kind unit stream) haccept (cellAccept_stopped hst) h
    · subst he
      have hacc := cellAccept_next hst hfr hat hnext ht hb
      obtain ⟨hmem, hgt, hhole⟩ := cellTook_keeps (s := s) (kind := kind) (unit := unit) (stream := stream) t b
      refine ⟨fun hbad => ?_, fun hgood => ⟨cellTook s kind unit stream t b, ?_, hmem, ?_, ?_, hgt, ?_, _, cellTook_team ht b, ?_⟩⟩
      · exact exec_next (u := s.cellAccept kind unit stream) haccept (hacc.trans (if_pos hbad)) h
      · exact exec_next (u := s.cellAccept kind unit stream) haccept (hacc.trans (if_neg (by simp [hgood]))) (hhole.trans h)
      · rw [cellTook_island]
      · rw [cellTook_island]
      · rw [cellTook_island]
        rfl
      · rw [putEnd_endAt]
        exact sent_cons hb kind
    · exact exec_next (u := s.cellRespond kind unit) hrespond (cellRespond_empty hr) h
    · exact exec_next (u := s.cellRespond kind unit) hrespond ((cellRespond_first hr).trans (if_pos (by rw [latency_add]; exact hlt))) h
    · exact exec_next (u := s.cellRespond kind unit) hrespond ((cellRespond_first hr).trans (if_neg (by rw [latency_add]; exact Nat.not_lt.mpr hle)))
        ((respond_hole _ _ _ _).trans h)
    · obtain ⟨hstopped, hreqs⟩ := islandStop_island s kind unit
      exact ⟨s.islandStop kind unit, exec_next (u := s.islandStop kind unit) hstop rfl ((islandStop_hole s kind unit).trans h), hstopped, hreqs,
        islandStop_mem s kind unit⟩
  · obtain ⟨hsource, hover, hsum, hproduct⟩ := blendImage_channel x hc
    exact ⟨hsource, hover, hsum, hproduct, textureImage_channel x hc⟩
  · refine coverageImage_empty x ?_
    subst ha
    unfold noTriangle coverArea
    obtain hnan | ⟨n, e, hzero⟩ := hz
    · rw [hnan]
      rfl
    · rw [hzero, fvCond_zero, Bool.or_true]
  · exact coverageImage_outside x hi ho
  · exact intersectImage_leaf x hx

end Sys2Proof.Machine
end
